-- ==== Sys2Proof/Word.lean ====
section
/-!
DEFINITION. Words and their plainest arithmetic: the byte, the 64-bit word, field extraction from a natural number
read as a little-endian bit string (R2, R22).
-/

namespace Sys2Proof

/-- One byte. -/
abbrev Byte := BitVec 8

/-- One 64-bit register value. -/
abbrev Word := BitVec 64

/-- Bits `[lo + n - 1 : lo]` of `v`, read as a natural number (R2). -/
def field (v lo n : Nat) : Nat := v / 2 ^ lo % 2 ^ n

/-- Bit `i` of `v`. -/
def bit (v i : Nat) : Bool := v / 2 ^ i % 2 == 1

/-- One bit as a number. -/
def boolNat (b : Bool) : Nat := if b then 1 else 0

/-- The unsigned value of a word. -/
def Word.nat (w : Word) : Nat := w.toNat

/-- The word of a natural number, modulo 2^64. -/
def word (n : Nat) : Word := BitVec.ofNat 64 n

/-- The word of an integer, modulo 2^64. -/
def wordOfInt (i : Int) : Word := BitVec.ofInt 64 i

/-- The low `n` bits of `v` read as a two's-complement number (R149 SignExtend). -/
def signExtend (v n : Nat) : Int :=
  if n = 0 then 0
  else if v % 2 ^ n < 2 ^ (n - 1) then Int.ofNat (v % 2 ^ n) else Int.ofNat (v % 2 ^ n) - 2 ^ n

/-- The low `n` bits of `v` read as unsigned (R149 ZeroExtend). -/
def zeroExtend (v n : Nat) : Nat := v % 2 ^ n

/-- The residue of `i` modulo 2^n, as a natural number. -/
def wrapNat (i : Int) (n : Nat) : Nat := (i % (2 ^ n : Int)).toNat

end Sys2Proof
end

