-- ==== Sys2Proof/Fields.lean ====
section
/-!
DEFINITION. What the fields of an instruction may hold: register names, type codes, hint bits and operand kinds
(R131 to R139), and the instructions of the steward's hart other than Xgnmv (R143, R302).
-/

namespace Sys2Proof

/-- An x register, x0 to x31 (R137). -/
abbrev Reg := BitVec 5
/-- A predicate register, p0 to p7. -/
abbrev Preg := BitVec 3
/-- A view register, v0 to v7. -/
abbrev Vreg := BitVec 3
/-- A ring handle, h0 to h7. -/
abbrev Hreg := BitVec 3
/-- A capability register, c0 to c15. -/
abbrev Creg := BitVec 4
/-- An accumulator name, m0 to m3. -/
abbrev Mreg := BitVec 2
/-- A landing register, y0 to y31. -/
abbrev Yreg := BitVec 5
/-- A signed 21-bit immediate (Table 7.2). -/
abbrev Imm := BitVec 21

/-- The element type codes of Table 7.7. -/
inductive Ty where
  | i8 | u8 | i16 | i32 | i64 | u32 | u64 | e4m3 | e5m2 | f16 | bf16 | f32 | f64 | cf32 | t5 | e8m0
deriving DecidableEq, Repr

/-- The code of a type in field T. -/
def Ty.code : Ty → Nat
  | .i8 => 0 | .u8 => 1 | .i16 => 2 | .i32 => 3 | .i64 => 4 | .u32 => 5 | .u64 => 6 | .e4m3 => 7
  | .e5m2 => 8 | .f16 => 9 | .bf16 => 10 | .f32 => 11 | .f64 => 12 | .cf32 => 13 | .t5 => 14 | .e8m0 => 15

/-- The type of a code (the low four bits count). -/
def Ty.ofCode (n : Nat) : Ty :=
  match n % 16 with
  | 0 => .i8 | 1 => .u8 | 2 => .i16 | 3 => .i32 | 4 => .i64 | 5 => .u32 | 6 => .u64 | 7 => .e4m3
  | 8 => .e5m2 | 9 => .f16 | 10 => .bf16 | 11 => .f32 | 12 => .f64 | 13 => .cf32 | 14 => .t5 | _ => .e8m0

/-- The types of the scalar integer instructions (R177). -/
def Ty.isScalarInt (t : Ty) : Bool := 3 ≤ t.code && t.code ≤ 6
/-- The types of the integer compares (R179). -/
def Ty.isCmpInt (t : Ty) : Bool := t.code == 3 || t.code == 4
/-- The types of the scalar floating-point instructions (R186). -/
def Ty.isScalarFloat (t : Ty) : Bool := 9 ≤ t.code && t.code ≤ 12
/-- The floating-point types, codes 7 to 12. -/
def Ty.isFloat (t : Ty) : Bool := 7 ≤ t.code && t.code ≤ 12
/-- The integer types, codes 0 to 6. -/
def Ty.isInt (t : Ty) : Bool := t.code ≤ 6
/-- The signed integer types. -/
def Ty.isSignedInt (t : Ty) : Bool := t == .i8 || t == .i16 || t == .i32 || t == .i64
/-- The types of the special functions (R229). -/
def Ty.isSpecialFn (t : Ty) : Bool := t == .f16 || t == .bf16 || t == .f32

/-- Width(t) in bits (R149). T5 holds five trits a byte and has no width of its own here. -/
def Ty.width : Ty → Nat
  | .i8 | .u8 | .e4m3 | .e5m2 | .e8m0 => 8
  | .i16 | .f16 | .bf16 => 16
  | .i32 | .u32 | .f32 => 32
  | .i64 | .u64 | .f64 | .cf32 => 64
  | .t5 => 8

/-- ElementSize(t) in bytes (R149). -/
def Ty.size (t : Ty) : Nat := t.width / 8

/-- Lanes(t): the elements of one 1,024-bit pass (R149). -/
def Ty.lanes : Ty → Nat
  | .t5 => 640
  | .cf32 => 16
  | t => 1024 / t.width

/-- The guard and the hint bits of a word (R131, R135, R136). -/
structure Hint where
  /-- G: `[3]` negates, `[2:0]` selects p0 to p7. -/
  g : BitVec 4
  /-- SAT. -/
  sat : Bool
  /-- RND. -/
  rnd : BitVec 2
  /-- LAST. -/
  last : Bool
  /-- STAG. -/
  stag : BitVec 2
deriving DecidableEq, Repr

/-- Bits [77:72] of the word, the H field. -/
def Hint.bits (h : Hint) : Nat :=
  boolNat h.sat * 32 + h.rnd.toNat * 8 + boolNat h.last * 4 + h.stag.toNat

/-- Bits [77:72] where [77:75] hold `c` in place of SAT and RND (R218, R62, R338). -/
def Hint.bitsWith (h : Hint) (c : Nat) : Nat := c * 8 + boolNat h.last * 4 + h.stag.toNat

/-- R136: SAT, RND and LAST are set only where the entry accepts them. -/
def Hint.accepts (h : Hint) (sat rnd last : Bool) : Bool :=
  (sat || !h.sat) && (rnd || h.rnd == 0) && (last || !h.last)

/-- A hint with every bit clear and the guard always true. -/
def Hint.none : Hint := ⟨0, false, 0, false, 0⟩

/-- A CAP field: element offset, the x register added to it (x0 for none), the capability register. -/
structure CapOp where
  off : BitVec 12
  idx : Reg
  c : Creg
deriving DecidableEq, Repr

/-- R279: the field names the capability register as a whole. -/
def CapOp.whole (c : CapOp) : Bool := c.off == 0 && c.idx == 0

/-- A RING field: slot count and ring handle. -/
structure RingOp where
  count : BitVec 8
  h : Hreg
deriving DecidableEq, Repr

/-- A field that accepts REG or IMM. -/
inductive RegImm where
  | reg (r : Reg)
  | imm (v : Imm)
deriving DecidableEq, Repr

/-- A field that accepts VIEW, REG or IMM. -/
inductive Src where
  | view (v : Vreg)
  | reg (r : Reg)
  | imm (v : Imm)
deriving DecidableEq, Repr

/-- A field that accepts VIEW or REG. -/
inductive ViewReg where
  | view (v : Vreg)
  | reg (r : Reg)
deriving DecidableEq, Repr

/-- A field that accepts CAP or IMM. -/
inductive CapImm where
  | cap (c : CapOp)
  | imm (v : Imm)
deriving DecidableEq, Repr

/-- A landing register of a tile that an x register names, or of the executing tile. -/
inductive LandDest where
  | remote (x : Reg) (n : Yreg)
  | land (n : Yreg)
deriving DecidableEq, Repr

/-- The destination of a collective record (R417). -/
inductive CollDest where
  | remote (x : Reg) (n : Yreg)
  | land (n : Yreg)
  | ring (r : RingOp)
deriving DecidableEq, Repr

/-- The special registers that GETS and SETS may name (Table 7.4). -/
inductive SReg where
  | tile | chip | part | rank | nrank | ctx | hlb | fpstat | wdog | cycle | window | refsched
deriving DecidableEq, Repr

/-- The special number of a special register. -/
def SReg.code : SReg → Nat
  | .tile => 0 | .chip => 1 | .part => 2 | .rank => 3 | .nrank => 4 | .ctx => 5 | .hlb => 6
  | .fpstat => 7 | .wdog => 8 | .cycle => 9 | .window => 10 | .refsched => 11

/-- The special register of a number of Table 7.4. -/
def SReg.ofCode (n : Nat) : Option SReg :=
  match n with
  | 0 => some .tile | 1 => some .chip | 2 => some .part | 3 => some .rank | 4 => some .nrank | 5 => some .ctx
  | 6 => some .hlb | 7 => some .fpstat | 8 => some .wdog | 9 => some .cycle | 10 => some .window
  | 11 => some .refsched | _ => Option.none

/-- The conditions of VCMP (Table 10.6). -/
inductive Cond where
  | eq | ne | lt | le | gt | ge | un | ord
deriving DecidableEq, Repr

/-- The code of a condition in bits [77:75]. -/
def Cond.code : Cond → Nat
  | .eq => 0 | .ne => 1 | .lt => 2 | .le => 3 | .gt => 4 | .ge => 5 | .un => 6 | .ord => 7

/-- The condition of a code (the low three bits count). -/
def Cond.ofCode (n : Nat) : Cond :=
  match n % 8 with
  | 0 => .eq | 1 => .ne | 2 => .lt | 3 => .le | 4 => .gt | 5 => .ge | 6 => .un | _ => .ord

/-- The policy of SENDC (R62). -/
inductive Policy where
  | auto | xfer | copy
deriving DecidableEq, Repr

/-- The code of a policy in bits [77:76]. -/
def Policy.code : Policy → Nat
  | .auto => 0 | .xfer => 1 | .copy => 2

/-- Table 15.7: the formats that each memory-agent function accepts. -/
def aopFormatOk (n : BitVec 4) (f : BitVec 3) : Bool :=
  match n.toNat with
  | 0 => f.toNat ≤ 6
  | 2 | 3 => f.toNat ≤ 3
  | _ => f == 0

/-! The steward's own instructions: RV64I, M and C with Zicsr, Zba and Zbb (R302). A compressed instruction is
the base instruction that it stands for, with length two. -/

/-- Two-operand operations on 64-bit values. -/
inductive RvOp where
  | add | sub | sll | slt | sltu | xor | srl | sra | or | and
  | mul | mulh | mulhsu | mulhu | div | divu | rem | remu
  | sh1add | sh2add | sh3add | addUw | sh1addUw | sh2addUw | sh3addUw
  | andn | orn | xnor | max | maxu | min | minu | rol | ror
deriving DecidableEq, Repr

/-- Two-operand operations on the low words. -/
inductive RvOpW where
  | addw | subw | sllw | srlw | sraw | mulw | divw | divuw | remw | remuw | rolw | rorw
deriving DecidableEq, Repr

/-- Operations with a 12-bit immediate. -/
inductive RvImm where
  | addi | slti | sltiu | xori | ori | andi | addiw
deriving DecidableEq, Repr

/-- Operations with a shift amount. -/
inductive RvSh where
  | slli | srli | srai | rori | slliUw | slliw | srliw | sraiw | roriw
deriving DecidableEq, Repr

/-- Unary operations of Zbb. -/
inductive RvUn where
  | clz | ctz | cpop | clzw | ctzw | cpopw | sextb | sexth | zexth | orcb | rev8
deriving DecidableEq, Repr

/-- Branch conditions. -/
inductive RvBr where
  | beq | bne | blt | bge | bltu | bgeu
deriving DecidableEq, Repr

/-- CSR operations of Zicsr. -/
inductive RvCsr where
  | rw | rs | rc
deriving DecidableEq, Repr

/-- A CSR instruction's source: a register or a five-bit immediate. -/
inductive CsrSrc where
  | reg (r : Reg)
  | imm (v : BitVec 5)
deriving DecidableEq, Repr

/-- One instruction of the steward other than Xgnmv; `illegal` is any other encoding (R143). -/
inductive Rv where
  | lui (rd : Reg) (imm : BitVec 20)
  | auipc (rd : Reg) (imm : BitVec 20)
  | jal (rd : Reg) (off : BitVec 21)
  | jalr (rd rs1 : Reg) (off : BitVec 12)
  | branch (c : RvBr) (rs1 rs2 : Reg) (off : BitVec 13)
  | load (size : BitVec 2) (signed : Bool) (rd rs1 : Reg) (off : BitVec 12)
  | store (size : BitVec 2) (rs2 rs1 : Reg) (off : BitVec 12)
  | opImm (op : RvImm) (rd rs1 : Reg) (imm : BitVec 12)
  | shift (op : RvSh) (rd rs1 : Reg) (sh : BitVec 6)
  | op (op : RvOp) (rd rs1 rs2 : Reg)
  | opW (op : RvOpW) (rd rs1 rs2 : Reg)
  | unary (op : RvUn) (rd rs1 : Reg)
  | csr (op : RvCsr) (rd : Reg) (num : BitVec 12) (src : CsrSrc)
  | fence
  | fenceI
  | wfi
  | ecall
  | ebreak
  | illegal (w : BitVec 32)
deriving DecidableEq, Repr

end Sys2Proof
end

