-- ==== Sys2Proof/Outside.lean ====
section
/-!
DEFINITION. Capabilities, packets, and what reaches the module from outside it: mailbox commands, fabric packets,
answers of other chips, and the outcomes of checks that hardware makes on itself.
-/

namespace Sys2Proof

/-- A map with natural-number keys, held as a list of pairs in rising order of the keys. -/
abbrev Assoc (β : Type) := List (Nat × β)

/-- MODE of a capability (Table 3.1). -/
inductive CapMode where
  | exclusive | fraction | sealed | lookahead
deriving DecidableEq, Repr

/-- KIND of a home (Table 3.1). -/
inductive HomeKind where
  | tile | cluster | hbm | weight
deriving DecidableEq, Repr

/-- The rights R, W, X and G. -/
structure Rights where
  r : Bool
  w : Bool
  x : Bool
  g : Bool
deriving DecidableEq, Repr

/-- A capability (Table 3.1, R43). -/
structure Cap where
  hallmark : Nat
  ctidx : Nat
  agent : Nat
  chip : Nat
  mode : CapMode
  rights : Rights
  kind : HomeKind
  tokens : Nat
  woff : Nat
  wlen : Nat
deriving DecidableEq, Repr

/-- A tile of a chip. -/
structure Place where
  chip : Nat
  tile : Nat
deriving DecidableEq, Repr

/-- The unit of a tile, or of the chip, that injects a packet (R326, R327). -/
inductive Agent where
  | core | engine | steward | agent (n : Nat) | home | fabric
deriving DecidableEq, Repr

/-- A task-record image: the fields of Table 2.2 that creation fixes. -/
structure RecImage where
  entry : Nat
  prio : Nat
  nacc : Nat
  reply : Bool
  stv : Bool
  stSlot : Nat
  ctrv : Bool
  ctr : Nat
  target : Nat
  rv0 : Bool
  rnum0 : Nat
  rcnt0 : Nat
  rv1 : Bool
  rnum1 : Nat
  rcnt1 : Nat
  lmask : Nat
  arg : Word
  resZero : Bool
deriving DecidableEq, Repr

/-- Where a value comes back to: landing register `reg` of `place`. -/
structure LandAt where
  place : Place
  reg : Nat
deriving DecidableEq, Repr

/-- Where a collective record goes (R413). -/
inductive RecordDest where
  | land (at' : LandAt)
  | ring (place : Place) (ring : Nat)
deriving DecidableEq, Repr

/-- The translation context of a kernel (Table 12.3): the VF, whether each root is valid, the roots and the ASID. -/
structure Xlat where
  vf : Nat
  v0 : Bool
  v1 : Bool
  root0 : Nat
  root1 : Nat
  asid : Nat
deriving DecidableEq, Repr

/-- What a packet carries. -/
inductive Body where
  /-- a message on a channel: the values of x1 to x4 and a capability; `reply` when it came on the request network
  by SENDQ -/
  | msg (chan : Nat) (x1 x2 x3 x4 : Word) (cap : Option Cap)
  /-- a counter increment; `own` when the tile's own core posted it (R334) -/
  | inc (ctr amount : Nat) (own : Bool)
  /-- a landing-register write: the values for the register and the ones after it -/
  | land (reg : Nat) (vals : List Word)
  /-- an AOPR result (R356) -/
  | aoprResult (reg : Nat) (vals : List Word)
  /-- a remote task creation (R346) -/
  | spawn (img : RecImage) (words : List Word) (rec : Nat)
  /-- an operation packet (R262, R352, R353): function, format, capability, byte offset in the window, operands, where a
  result goes, the translation context, the element's partition offset as translated at issue, its place in the order
  in which the core issued -/
  | op (fn fmt : Nat) (cap : Cap) (off : Nat) (args : List Word) (ret : Option LandAt) (xl : Xlat) (poff ord : Nat)
  /-- a management request (R95): operation, tag, RES bits zero, words, capability, the tile and channel of the reply -/
  | mgmt (op tag : Nat) (resZero : Bool) (words : List Word) (cap : Option Cap) (tile chan : Nat)
  /-- a request for ring slots of a COPY delivery (R63): the delivery's number at its sender, the channel, the bytes of
  the window, the payload word -/
  | slotReq (delivery chan bytes : Nat) (x2 : Word)
  /-- the grant of ring slots: the first and their number; none when the delivery is to be handled as XFER (R63) -/
  | grant (delivery : Nat) (slots : Option (Nat × Nat)) (slotBytes : Nat)
  /-- the home opens a reduction slot (R416): operation, format, count, deadline -/
  | collOpen (op fmt count dl : Nat) (ret : LandAt)
  /-- a contribution (R417) -/
  | contrib (handle : Word) (index : Nat) (value : Word) (dest : RecordDest) (vf : Nat)
  /-- the closing of a slot (R419) -/
  | collClose (handle : Word)
  /-- a collective record (R413), with the handle and the index of the contribution that it answers (R420) -/
  | collRecord (dest : RecordDest) (value status mask : Word) (handle : Word) (index : Nat)
  /-- a withdrawal of the contributions of a VF to one slot, a bit for each index (R420) -/
  | withdraw (handle : Word) (mask : Nat)
  /-- an arrival at a barrier (R378): the entry, the party, the publication and its destinations, the context held -/
  | arrive (bidx hallmark party : Nat) (pub : Option Cap) (dests : Word) (ctx : Nat) (ends : Bool)
  /-- a completion notice (R388): the barrier and the phase that completed -/
  | notice (bidx phase : Nat)
  /-- a conflict probe (R386): the line written and the probe's number -/
  | probe (line probeId : Nat)
  /-- an acknowledgement of a probe -/
  | probeAck (probeId : Nat)
  /-- a remote access (R285, R407): a write with its bytes, or a read of a number of bytes -/
  | access (cap : Cap) (off : Nat) (write : Option (List Byte)) (len : Nat) (id : Nat)
  /-- an access to a fabric address of space 0x1 (R401) -/
  | fabric (fa : Nat) (write : Option (List Byte)) (len : Nat) (id : Nat)
  /-- a capability instruction's question to a home on another chip (R280): 0 CSPLIT with its tokens, 1 CJOIN with the
  tokens it returns, 2 CMERGE, 3 CSEAL, 6 what is to be discarded (R50, R298); tokens that come back without a question: 4 of a
  dropped, 5 of a killed fraction -/
  | consult (op : Nat) (cap : Cap) (arg : Nat) (id : Nat)
  /-- an operation for an element on another chip (R353, R407): function, format, capability, byte offset in the window, for
  space 0x1 the element's fabric address and virtual address, operands, where a result goes -/
  | operate (fn fmt : Nat) (cap : Cap) (off : Nat) (fab : Option (Nat × Nat)) (args : List Word) (ret : Option LandAt)
      (id : Nat)
  /-- the answer of a home on this chip to another chip's request -/
  | answer (id code sub : Nat) (bytes : List Byte)
  /-- a burst of a COPY delivery or its end notice across chips (R483) -/
  | burst (delivery off : Nat) (bytes : List Byte) (id : Nat)
  | endNotice (delivery code sub done : Nat)
deriving DecidableEq, Repr

/-- A packet (R324 to R328): network, partition of the sender, source, destination, the kernel that sent it (its queue
slot), the earliest cycle at which it takes effect, its length L (Table 15.1), its body, the operation of the source tile's move engine that sent
it, whether it has arrived and waits at its destination (R31, R331), and of an AOPR result for another chip the last window in which
it leaves, as of the request that brings one about (R406). -/
structure Packet where
  vn : Nat
  part : Nat
  src : Place
  unit : Agent
  dst : Place
  kslot : Nat
  due : Nat
  len : Nat
  body : Body
  op : Option Nat
  held : Bool
  last : Option Nat
deriving DecidableEq, Repr

/-- A packet on the fabric (R403): the window it was stamped with, the routing generation it carries, its transfer
number at the sender and its sequence number (R396). -/
structure FabPacket where
  stamp : Nat
  gen : Nat
  id : Nat
  seq : Nat
  pkt : Packet
deriving DecidableEq, Repr

/-- The answer of another chip's home to a remote access (R285, R407): a code and subcode, and the bytes of a read. -/
structure RemoteAnswer where
  id : Nat
  code : Nat
  sub : Nat
  bytes : List Byte
deriving DecidableEq, Repr

/-- A mailbox command buffer (R98, R99): the bytes that the host placed at AMADDR. -/
structure Mbox where
  bytes : List Byte
deriving DecidableEq, Repr

/-- A KEY_EXCHANGE message (R107 step 1): the session that it opens and its bytes. -/
structure Exchange where
  session : Nat
  request : List Byte
deriving DecidableEq, Repr

/-- What a VENDOR_DEFINED_REQUEST carries beside its handle and VF (R107 step 2): vendor ID, request code and signature. -/
structure VendorProof where
  vendor : Nat
  code : Nat
  sig : List Byte
deriving DecidableEq, Repr

/-- The outcome of a shadow check (R457, R458): agreement at once, agreement after reruns, a confirmed mismatch. -/
inductive Shadow where
  | agree
  | rerun (runs : Nat)
  | confirmed
deriving DecidableEq, Repr

/-- The zones of the strike sensors (R449). -/
inductive Zone where
  | core | steward | sram | matrix
deriving DecidableEq, Repr

end Sys2Proof
end

