-- ==== Sys2Proof/Config.lean ====
section
/-!
DEFINITION. What one part fixes, and the free values: constants without a body, so that no proof can see what they
are. Each is applied to the counter `free` of the state or to the operands it depends on (log 1).
-/

namespace Sys2Proof.Config

/-- The number of tiles (R9). -/
def tiles : Nat := 4096
/-- The number of memory agents, one for each HBM channel (R9, R11). -/
def agents : Nat := 256
/-- The number of weight-store segments (R11). -/
def segments : Nat := 64
/-- Tile SRAM bytes (R9). -/
def tileBytes : Nat := 2 ^ 19
/-- The tile SRAM offset at which the task-record pool begins (R31). -/
def poolOffset : Nat := 0x70000
/-- Cluster SRAM bytes (R9). -/
def clusterBytes : Nat := 2 ^ 23
/-- Weight-store segment bytes (R9). -/
def segmentBytes : Nat := 2 ^ 26
/-- HBM bytes of one channel (R80). -/
def channelBytes : Nat := 2 ^ 31
/-- Cycles of one microsecond of the arithmetic clock, 1.4 GHz (R3). -/
def cyclesPerMicro : Nat := 1400
/-- The grace of R427 in cycles. -/
def grace : Nat := 64
/-- The aging time of R120 in cycles. -/
def aging : Nat := 65536
/-- The strike horizon in cycles (R450). -/
def horizon : Nat := 160

/-- FREE VALUE (log 1): the value of a register that is undefined at dispatch (R42). -/
opaque freeWord : Nat → Word
/-- FREE VALUE (log 1): a word of an accumulator that is undefined (R232, R240, R253). -/
opaque freeAcc : Nat → BitVec 32
/-- FREE VALUE (log 1): a byte of partition HBM that was not written since the partition's creation (R106), from the
creation count and the physical address. -/
opaque freeByte : Nat → Nat → Byte
/-- FREE VALUE (log 1): a byte of a kick entry that is not visible to the steward, from the counter and the address
(R307 gives such an entry no content). -/
opaque freeKickByte : Nat → Nat → Byte
/-- FREE VALUE (log 1): the handle that the Assay root draws (R100). -/
opaque freeHandle : Nat → Word
/-- FREE VALUE (log 1): the GEN of a slot handle (R411). -/
opaque freeGen : Nat → BitVec 16
/-- FREE VALUE (log 1): module power and die temperature readings (Table 5.8). -/
opaque freeReading : Nat → Nat → Word
/-- FREE VALUE (log 1): the port that the fixed function of R399 chooses, from source and destination tile and the
set of ports. -/
opaque freePort : Nat → Nat → Nat → Nat
/-- The identity public key of the part (R108), the measurement of its firmware (R112). -/
opaque identityKey : List Byte
/-- The SHAKE256 measurement of the Assay firmware (R112). -/
opaque firmwareMeasurement : List Byte
/-- The certificate chain of the part (R112). -/
opaque certificateChain : List Byte
/-- SHAKE256 with a given output length (R102, R108, R109, R112). -/
opaque shake256 : List Byte → Nat → List Byte
/-- The signature under the identity key (R112). -/
opaque identitySign : List Byte → List Byte
/-- AES-256-XTS of a 64-byte data unit of partition HBM (R106): the key pair's generation, the tweak, the unit; the byte of
the ciphertext at a place in the unit. -/
opaque xts : Nat → Nat → List Byte → Nat → Byte
/-- An SLH-DSA-SHAKE-256f signature behind its 32-byte randomizer (R101, R107): the public key that matches the private key it is
made with, the message, the randomizer. -/
opaque slhSign : List Byte → List Byte → List Byte → List Byte
/-- SHA-384 (R107). -/
opaque sha384 : List Byte → List Byte
/-- The module's answer to KEY_EXCHANGE before its signature (R107), from the free counter and the request. -/
opaque spdmReply : Nat → List Byte → List Byte
/-- The signature under the SPDM session key, ECDSA P-384 (R107, R108). -/
opaque spdmSign : List Byte → List Byte
/-- The PCI-SIG vendor ID that the module reports in its configuration space (R107). -/
opaque vendorId : Nat

end Sys2Proof.Config
end

