-- ==== Sys2Proof/Syntax.lean ====
section
/-!
DEFINITION. The instructions and events of the C4096: one constructor per row of spec/opcode_table.json. The
Tchina instructions carry the fields of their word (R131, R140), the Xgnmv instructions those of R143, and each
event carries what comes from outside the module or from its schedule.
-/

namespace Sys2Proof

/-- One step of the part: a Tchina instruction, a steward instruction or an event. -/
inductive Instr where
  /-- NOP (R203). Does nothing but advance PC. -/
  | nop (h : Hint)
  /-- BR (R192). Branches by a relative instruction offset. -/
  | br (h : Hint) (b : Imm)
  /-- BRI (R193). Branches to an absolute code offset held in a register, or faults with ILLOPND if the offset is illegal. -/
  | bri (h : Hint) (a : Reg)
  /-- CALL (R192). Writes the return offset to x31 and branches, either relatively or through a register. -/
  | call (h : Hint) (b : RegImm)
  /-- RET (R193). Branches to the code offset held in x31. -/
  | ret (h : Hint)
  /-- LOOP (R192). Decrements a register and branches while the result is non-zero. -/
  | loop (h : Hint) (a : Reg) (b : Imm)
  /-- END (R194). Once earlier instructions complete, ends the task: disposes of its capabilities, frees its record and releases its resources. -/
  | endTask (h : Hint)
  /-- ENDC (R195). Ends the task and rewrites its record as a continuation that waits on a counter target. -/
  | endc (h : Hint) (d : Imm) (a : Reg) (b : RegImm)
  /-- TRAP (R196). Raises a precise trap with cause TRAPSW and subcode n. -/
  | trap (h : Hint) (b : Imm)
  /-- BRK (R196). Raises a precise trap with cause BRKPT and subcode n. -/
  | brk (h : Hint) (b : Imm)
  /-- GETS (R199). Reads a special register into an x register. -/
  | gets (h : Hint) (d : Reg) (a : SReg)
  /-- SETS (R199). Writes a special register; a write to %fpstat first waits for earlier flag-setting instructions. -/
  | sets (h : Hint) (d : SReg) (a : RegImm)
  /-- TLBI (R201). Privileged: posts a TLB invalidation over a range and scope, acknowledged on a counter after the drain. -/
  | tlbi (h : Hint) (d : Reg) (a : Reg) (b : Reg)
  /-- ERET (R198). Returns from the trap entry to the fault PC plus 0 or 1 instruction, and empties c15. -/
  | eret (h : Hint) (b : Imm)
  /-- WDOG (R200). Faults with WDOG subcode 0x01 if fewer than n cycles of the handler budget remain. -/
  | wdog (h : Hint) (b : RegImm)
  /-- HALT (R202). Privileged: ends the task and pauses its partition through the pre-emption sequence. -/
  | halt (h : Hint)
  /-- ADD (R177). Integer addition, wrapped or saturated. -/
  | add (h : Hint) (t : Ty) (d : Reg) (a : Reg) (b : RegImm)
  /-- SUB (R177). Integer subtraction, wrapped or saturated. -/
  | sub (h : Hint) (t : Ty) (d : Reg) (a : Reg) (b : RegImm)
  /-- MUL (R177). Integer multiplication, low part, wrapped or saturated. -/
  | mul (h : Hint) (t : Ty) (d : Reg) (a : Reg) (b : RegImm)
  /-- MULH (R177). High part of an integer product. -/
  | mulh (h : Hint) (t : Ty) (d : Reg) (a : Reg) (b : RegImm)
  /-- DIV (R177). Integer division truncated toward zero; division by zero gives all ones. -/
  | div (h : Hint) (t : Ty) (d : Reg) (a : Reg) (b : RegImm)
  /-- REM (R177). Integer remainder; the remainder of a division by zero is the dividend. -/
  | rem (h : Hint) (t : Ty) (d : Reg) (a : Reg) (b : RegImm)
  /-- AND (R177). Bitwise AND. -/
  | and (h : Hint) (t : Ty) (d : Reg) (a : Reg) (b : RegImm)
  /-- OR (R177). Bitwise OR. -/
  | or (h : Hint) (t : Ty) (d : Reg) (a : Reg) (b : RegImm)
  /-- XOR (R177). Bitwise XOR. -/
  | xor (h : Hint) (t : Ty) (d : Reg) (a : Reg) (b : RegImm)
  /-- ANDN (R177). Bitwise AND of the first operand with the complement of the second. -/
  | andn (h : Hint) (t : Ty) (d : Reg) (a : Reg) (b : RegImm)
  /-- SHL (R177). Shifts left by an amount taken modulo the width. -/
  | shl (h : Hint) (t : Ty) (d : Reg) (a : Reg) (b : RegImm)
  /-- SHR (R177). Logical shift right. -/
  | shr (h : Hint) (t : Ty) (d : Reg) (a : Reg) (b : RegImm)
  /-- SRA (R177). Arithmetic shift right. -/
  | sra (h : Hint) (t : Ty) (d : Reg) (a : Reg) (b : RegImm)
  /-- ROT (R177). Rotates left within the width. -/
  | rot (h : Hint) (t : Ty) (d : Reg) (a : Reg) (b : RegImm)
  /-- MIN (R177). Lesser of two integers. -/
  | min (h : Hint) (t : Ty) (d : Reg) (a : Reg) (b : RegImm)
  /-- MAX (R177). Greater of two integers. -/
  | max (h : Hint) (t : Ty) (d : Reg) (a : Reg) (b : RegImm)
  /-- SEL (R178). Selects the first or the second operand by its guard, and always executes. -/
  | sel (h : Hint) (t : Ty) (d : Reg) (a : Reg) (b : RegImm)
  /-- CMPEQ (R179). Sets a predicate when the operands are equal. -/
  | cmpeq (h : Hint) (t : Ty) (d : Preg) (a : Reg) (b : RegImm)
  /-- CMPNE (R179). Sets a predicate when the operands differ. -/
  | cmpne (h : Hint) (t : Ty) (d : Preg) (a : Reg) (b : RegImm)
  /-- CMPLT (R179). Signed less-than compare into a predicate. -/
  | cmplt (h : Hint) (t : Ty) (d : Preg) (a : Reg) (b : RegImm)
  /-- CMPLE (R179). Signed less-or-equal compare into a predicate. -/
  | cmple (h : Hint) (t : Ty) (d : Preg) (a : Reg) (b : RegImm)
  /-- CMPLTU (R179). Unsigned less-than compare into a predicate. -/
  | cmpltu (h : Hint) (t : Ty) (d : Preg) (a : Reg) (b : RegImm)
  /-- CMPLEU (R179). Unsigned less-or-equal compare into a predicate. -/
  | cmpleu (h : Hint) (t : Ty) (d : Preg) (a : Reg) (b : RegImm)
  /-- LI (R180). Loads a sign-extended 48-bit immediate. -/
  | li (h : Hint) (d : Reg) (v : BitVec 48)
  /-- MAD (R177). Integer multiply-add into the destination. -/
  | mad (h : Hint) (t : Ty) (d : Reg) (a : Reg) (b : RegImm)
  /-- PAND (R181). Predicate AND. -/
  | pand (h : Hint) (d : Preg) (a : Preg) (b : Preg)
  /-- POR (R181). Predicate OR. -/
  | por (h : Hint) (d : Preg) (a : Preg) (b : Preg)
  /-- PXOR (R181). Predicate XOR. -/
  | pxor (h : Hint) (d : Preg) (a : Preg) (b : Preg)
  /-- PNOT (R181). Predicate NOT. -/
  | pnot (h : Hint) (d : Preg) (a : Preg)
  /-- POPC (R182). Counts the set bits. -/
  | popc (h : Hint) (t : Ty) (d : Reg) (a : Reg)
  /-- CLZ (R182). Counts the leading zeros. -/
  | clz (h : Hint) (t : Ty) (d : Reg) (a : Reg)
  /-- CTZ (R182). Counts the trailing zeros. -/
  | ctz (h : Hint) (t : Ty) (d : Reg) (a : Reg)
  /-- FNS (R183). Finds the index of the n-th set bit. -/
  | fns (h : Hint) (t : Ty) (d : Reg) (a : Reg) (b : RegImm)
  /-- BREV (R182). Reverses the bits. -/
  | brev (h : Hint) (t : Ty) (d : Reg) (a : Reg)
  /-- BSWAP (R182). Reverses the bytes. -/
  | bswap (h : Hint) (t : Ty) (d : Reg) (a : Reg)
  /-- BEXT (R184). Extracts a zero-extended bit field. -/
  | bext (h : Hint) (t : Ty) (d : Reg) (a : Reg) (b : RegImm)
  /-- BEXTS (R184). Extracts a sign-extended bit field. -/
  | bexts (h : Hint) (t : Ty) (d : Reg) (a : Reg) (b : RegImm)
  /-- BINS (R184). Inserts a bit field into the destination. -/
  | bins (h : Hint) (t : Ty) (d : Reg) (a : Reg) (b : RegImm)
  /-- PDEP (R185). Deposits bits under a mask. -/
  | pdep (h : Hint) (t : Ty) (d : Reg) (a : Reg) (b : Reg)
  /-- PEXT (R185). Extracts bits under a mask. -/
  | pext (h : Hint) (t : Ty) (d : Reg) (a : Reg) (b : Reg)
  /-- FADD (R187). Floating-point addition, rounded once. -/
  | fadd (h : Hint) (t : Ty) (d : Reg) (a : Reg) (b : Reg)
  /-- FSUB (R187). Floating-point subtraction, rounded once. -/
  | fsub (h : Hint) (t : Ty) (d : Reg) (a : Reg) (b : Reg)
  /-- FMUL (R187). Floating-point multiplication, rounded once. -/
  | fmul (h : Hint) (t : Ty) (d : Reg) (a : Reg) (b : Reg)
  /-- FFMA (R187). Fused multiply-add, rounded once. -/
  | ffma (h : Hint) (t : Ty) (d : Reg) (a : Reg) (b : Reg)
  /-- FDIV (R187). Correctly rounded floating-point division. -/
  | fdiv (h : Hint) (t : Ty) (d : Reg) (a : Reg) (b : Reg)
  /-- FSQRT (R187). Correctly rounded square root. -/
  | fsqrt (h : Hint) (t : Ty) (d : Reg) (a : Reg)
  /-- FMIN (R188). Floating-point minimum; a NaN operand gives the canonical NaN. -/
  | fmin (h : Hint) (t : Ty) (d : Reg) (a : Reg) (b : Reg)
  /-- FMAX (R188). Floating-point maximum; a NaN operand gives the canonical NaN. -/
  | fmax (h : Hint) (t : Ty) (d : Reg) (a : Reg) (b : Reg)
  /-- FCMPEQ (R189). Floating-point equality compare into a predicate. -/
  | fcmpeq (h : Hint) (t : Ty) (d : Preg) (a : Reg) (b : Reg)
  /-- FCMPLT (R189). Floating-point less-than compare into a predicate. -/
  | fcmplt (h : Hint) (t : Ty) (d : Preg) (a : Reg) (b : Reg)
  /-- FCMPLE (R189). Floating-point less-or-equal compare into a predicate. -/
  | fcmple (h : Hint) (t : Ty) (d : Preg) (a : Reg) (b : Reg)
  /-- FCMPUN (R189). Unordered compare into a predicate. -/
  | fcmpun (h : Hint) (t : Ty) (d : Preg) (a : Reg) (b : Reg)
  /-- FCVT (R190). Converts one scalar between types. -/
  | fcvt (h : Hint) (t : Ty) (d : Reg) (a : Reg) (b : Imm)
  /-- FCLASS (R191). Classifies a floating-point value into a one-hot result. -/
  | fclass (h : Hint) (t : Ty) (d : Reg) (a : Reg)
  /-- LD (R283). Loads one checked element into an x register. -/
  | ld (h : Hint) (t : Ty) (d : Reg) (a : CapOp)
  /-- ST (R284). Stores one element, optionally saturated, through a checked capability. -/
  | st (h : Hint) (t : Ty) (d : CapOp) (a : Reg)
  /-- VWSET (R286). Loads a view register from a capability or from the const section. -/
  | vwset (h : Hint) (d : Vreg) (a : CapImm)
  /-- VWGET_MEMORY (R287). Stores a view record to memory. -/
  | vwgetMemory (h : Hint) (d : CapOp) (a : Vreg)
  /-- VWGET_FIELD (R287). Reads one view field into an x register. -/
  | vwgetField (h : Hint) (d : Reg) (a : Vreg) (b : Imm)
  /-- VWSUB (R288). Restricts a view in one dimension. -/
  | vwsub (h : Hint) (d : Vreg) (a : Vreg) (b : Reg)
  /-- VWADV (R289). Slides a view's offset along one dimension. -/
  | vwadv (h : Hint) (d : Vreg) (a : Imm) (b : RegImm)
  /-- RBIND_INSTALL (R290). Installs a ring descriptor and moves the buffer capability into the ring table. -/
  | rbindInstall (h : Hint) (d : RegImm) (a : CapOp) (b : CapOp)
  /-- RBIND_ATTACH (R290). Binds a ring handle of the context to an installed ring. -/
  | rbindAttach (h : Hint) (d : RingOp) (a : Imm)
  /-- RBIND_REMOVE (R290). Removes a ring and returns its capability to a register. -/
  | rbindRemove (h : Hint) (d : RegImm) (b : CapOp)
  /-- RADV (R291). Releases ring slots and posts the count to the producer's free counter. -/
  | radv (h : Hint) (d : RingOp) (b : Reg)
  /-- RSTAT_FILL (R292). Reads a ring's fill count into an x register. -/
  | rstatFill (h : Hint) (d : Reg) (a : RingOp)
  /-- RSTAT_DESCRIPTOR (R292). Stores a ring's current descriptor to memory. -/
  | rstatDescriptor (h : Hint) (d : CapOp) (a : Imm)
  /-- CMOV_MOVE (R293). Moves a capability between registers and empties the source. -/
  | cmovMove (h : Hint) (d : CapOp) (a : CapOp)
  /-- CMOV_PARK (R293). Parks a capability in a parking slot. -/
  | cmovPark (h : Hint) (d : RegImm) (a : CapOp)
  /-- CMOV_UNPARK (R293). Moves a parked capability into a register. -/
  | cmovUnpark (h : Hint) (d : CapOp) (a : RegImm)
  /-- CSPLIT (R294). Splits a fraction or sealed part off a capability at the home. -/
  | csplit (h : Hint) (d : CapOp) (a : CapOp) (b : RegImm)
  /-- CJOIN (R295). Joins a fraction back into the exclusive capability and lowers TOKOUT. -/
  | cjoin (h : Hint) (d : CapOp) (a : CapOp)
  /-- CNARROW (R296). Moves a capability with a smaller window. -/
  | cnarrow (h : Hint) (d : CapOp) (a : CapOp) (b : Reg)
  /-- CMERGE (R295). Merges two fractions of one buffer. -/
  | cmerge (h : Hint) (d : CapOp) (a : CapOp)
  /-- CRIGHTS (R296). Moves a capability with reduced rights. -/
  | crights (h : Hint) (d : CapOp) (a : CapOp) (b : RegImm)
  /-- CINFO (R297). Reads one field of a capability. -/
  | cinfo (h : Hint) (d : Reg) (a : CapOp) (b : Imm)
  /-- CDROP (R298). Discards a capability according to its mode. -/
  | cdrop (h : Hint) (d : CapOp)
  /-- CSEAL (R299). Seals an exclusive buffer and yields a sealed capability. -/
  | cseal (h : Hint) (d : CapOp) (a : CapOp)
  /-- CRECLAIM_REGISTER (R300). Reclaims a buffer and holds issue until the new exclusive capability arrives in the register. -/
  | creclaimRegister (h : Hint) (d : CapOp)
  /-- CRECLAIM_SLOT (R300). Reclaims a buffer, with the new capability to be parked in a reserved slot. -/
  | creclaimSlot (h : Hint) (d : CapOp) (b : RegImm)
  /-- VADD (R213). Element-wise addition. -/
  | vadd (h : Hint) (t : Ty) (d : Vreg) (a : Vreg) (b : Src)
  /-- VSUB (R213). Element-wise subtraction. -/
  | vsub (h : Hint) (t : Ty) (d : Vreg) (a : Vreg) (b : Src)
  /-- VMUL (R213). Element-wise multiplication. -/
  | vmul (h : Hint) (t : Ty) (d : Vreg) (a : Vreg) (b : Src)
  /-- VFMA (R213). Element-wise fused multiply-add. -/
  | vfma (h : Hint) (t : Ty) (d : Vreg) (a : Vreg) (b : Src)
  /-- VMIN (R213). Element-wise minimum. -/
  | vmin (h : Hint) (t : Ty) (d : Vreg) (a : Vreg) (b : Src)
  /-- VMAX (R213). Element-wise maximum. -/
  | vmax (h : Hint) (t : Ty) (d : Vreg) (a : Vreg) (b : Src)
  /-- VABS (R213). Element-wise absolute value. -/
  | vabs (h : Hint) (t : Ty) (d : Vreg) (a : Vreg)
  /-- VNEG (R213). Element-wise negation. -/
  | vneg (h : Hint) (t : Ty) (d : Vreg) (a : Vreg)
  /-- VCMUL (R214). Complex multiplication of CF32 elements. -/
  | vcmul (h : Hint) (d : Vreg) (a : Vreg) (b : ViewReg)
  /-- VBFLY (R215). Radix-2 butterflies in place. -/
  | vbfly (h : Hint) (d : Vreg) (a : Vreg) (b : Imm)
  /-- VRED (R216). Reduces dimension 0 under a reduction mode. -/
  | vred (h : Hint) (t : Ty) (d : ViewReg) (a : Vreg) (b : Imm)
  /-- VSCAN (R216). Prefix scan along dimension 0. -/
  | vscan (h : Hint) (t : Ty) (d : Vreg) (a : Vreg) (b : Imm)
  /-- VCMP (R218). Compares elements into a byte mask. -/
  | vcmp (h : Hint) (t : Ty) (cond : Cond) (d : Vreg) (a : Vreg) (b : Src)
  /-- VSEL (R219). Merges elements under a mask. -/
  | vsel (h : Hint) (t : Ty) (d : Vreg) (a : Src) (b : Vreg)
  /-- VCOPY (R220). Copies the bits of elements. -/
  | vcopy (h : Hint) (t : Ty) (d : Vreg) (a : Vreg)
  /-- VFILL (R220). Fills every element with a scalar. -/
  | vfill (h : Hint) (t : Ty) (d : Vreg) (a : RegImm)
  /-- VGATHER (R223). Gathers up to 64 indexed elements from any home. -/
  | vgather (h : Hint) (t : Ty) (d : Vreg) (a : CapOp) (b : Vreg)
  /-- VSCATTER (R223). Scatters up to 64 indexed elements to any home. -/
  | vscatter (h : Hint) (t : Ty) (d : CapOp) (a : Vreg) (b : Vreg)
  /-- VSCALE (R226). Applies an E8M0 scale to the elements. -/
  | vscale (h : Hint) (t : Ty) (d : Vreg) (a : Vreg) (b : Vreg)
  /-- VQUANT (R226). Quantizes FP32 elements by an E8M0 scale. -/
  | vquant (h : Hint) (t : Ty) (d : Vreg) (a : Vreg) (b : Vreg)
  /-- VAND (R227). Element-wise AND. -/
  | vand (h : Hint) (t : Ty) (d : Vreg) (a : Vreg) (b : Src)
  /-- VOR (R227). Element-wise OR. -/
  | vor (h : Hint) (t : Ty) (d : Vreg) (a : Vreg) (b : Src)
  /-- VXOR (R227). Element-wise XOR. -/
  | vxor (h : Hint) (t : Ty) (d : Vreg) (a : Vreg) (b : Src)
  /-- VNOT (R227). Element-wise NOT. -/
  | vnot (h : Hint) (t : Ty) (d : Vreg) (a : Vreg)
  /-- VSHL (R227). Element-wise shift left. -/
  | vshl (h : Hint) (t : Ty) (d : Vreg) (a : Vreg) (b : Src)
  /-- VSHR (R227). Element-wise logical shift right. -/
  | vshr (h : Hint) (t : Ty) (d : Vreg) (a : Vreg) (b : Src)
  /-- VSRA (R227). Element-wise arithmetic shift right. -/
  | vsra (h : Hint) (t : Ty) (d : Vreg) (a : Vreg) (b : Src)
  /-- VPOPC (R227). Element-wise population count. -/
  | vpopc (h : Hint) (t : Ty) (d : Vreg) (a : Vreg)
  /-- VCLZ (R227). Element-wise leading-zero count. -/
  | vclz (h : Hint) (t : Ty) (d : Vreg) (a : Vreg)
  /-- VCTZ (R227). Element-wise trailing-zero count. -/
  | vctz (h : Hint) (t : Ty) (d : Vreg) (a : Vreg)
  /-- VFNS (R227). Element-wise index of the n-th set bit. -/
  | vfns (h : Hint) (t : Ty) (d : Vreg) (a : Vreg) (b : Src)
  /-- VBREV (R227). Element-wise bit reversal. -/
  | vbrev (h : Hint) (t : Ty) (d : Vreg) (a : Vreg)
  /-- VCVT (R228). Element-wise type conversion. -/
  | vcvt (h : Hint) (t : Ty) (d : Vreg) (a : Vreg) (b : Imm)
  /-- VRCP (R229). Correctly rounded reciprocal. -/
  | vrcp (h : Hint) (t : Ty) (d : Vreg) (a : Vreg)
  /-- VRSQ (R229). Correctly rounded reciprocal square root. -/
  | vrsq (h : Hint) (t : Ty) (d : Vreg) (a : Vreg)
  /-- VSQRT (R229). Correctly rounded square root. -/
  | vsqrt (h : Hint) (t : Ty) (d : Vreg) (a : Vreg)
  /-- VEXP2 (R229). Correctly rounded base-2 exponential. -/
  | vexp2 (h : Hint) (t : Ty) (d : Vreg) (a : Vreg)
  /-- VLOG2 (R229). Correctly rounded base-2 logarithm. -/
  | vlog2 (h : Hint) (t : Ty) (d : Vreg) (a : Vreg)
  /-- VSIN (R229). Correctly rounded sin 2πx. -/
  | vsin (h : Hint) (t : Ty) (d : Vreg) (a : Vreg)
  /-- VCOS (R229). Correctly rounded cos 2πx. -/
  | vcos (h : Hint) (t : Ty) (d : Vreg) (a : Vreg)
  /-- VIDX (R221). Writes element indices or ordinals. -/
  | vidx (h : Hint) (t : Ty) (d : Vreg) (a : Imm)
  /-- VTRANS (R222). Transposes dimensions 0 and 1. -/
  | vtrans (h : Hint) (t : Ty) (d : Vreg) (a : Vreg)
  /-- MZERO (R245). Queues a command that clears an accumulator. -/
  | mzero (h : Hint) (d : Mreg)
  /-- MMA (R246). Queues a matrix multiply-accumulate command. -/
  | mma (h : Hint) (t : Ty) (d : Mreg) (a : Vreg) (b : Vreg)
  /-- MMAT (R247). Queues a ternary multiply-accumulate command. -/
  | mmat (h : Hint) (d : Mreg) (a : Vreg) (b : Vreg)
  /-- MLD (R248). Queues a load of a 32×32 view into an accumulator. -/
  | mld (h : Hint) (t : Ty) (d : Mreg) (a : Vreg)
  /-- MST (R249). Queues a store of an accumulator into a 32×32 view. -/
  | mst (h : Hint) (t : Ty) (d : Vreg) (a : Mreg) (b : Option Imm)
  /-- MSCALE (R250). Queues the application of E8M0 block scales. -/
  | mscale (h : Hint) (d : Mreg) (a : Mreg) (b : Vreg)
  /-- MSTAT (R251). Reads the context's matrix status word, optionally after waiting for an empty queue. -/
  | mstat (h : Hint) (d : Reg) (a : Imm)
  /-- MSIG (R252). Queues a command that posts a counter increment after earlier commands. -/
  | msig (h : Hint) (d : Reg) (a : RegImm) (b : RegImm)
  /-- SENDQ (R340). Sends up to three words on the request network to a channel. -/
  | sendq (h : Hint) (n : BitVec 4) (d : Reg) (a : Imm) (b : Reg)
  /-- REPLYQ (R341). Sends up to three words on the reply network. -/
  | replyq (h : Hint) (n : BitVec 4) (d : Reg) (a : Imm) (b : Reg)
  /-- SENDC (R342). Sends a capability under the XFER, COPY or AUTO policy. -/
  | sendc (h : Hint) (pol : Policy) (d : Reg) (a : CapOp) (b : Reg)
  /-- SENDR (R344). Posts a value to a landing register. -/
  | sendr (h : Hint) (d : LandDest) (a : RegImm)
  /-- SPAWN (R345). Creates a task on the executing tile from a record image. -/
  | spawn (h : Hint) (n : BitVec 4) (d : CapImm) (a : Reg)
  /-- SPAWNR (R346). Creates a task on another usable tile from a const record image. -/
  | spawnr (h : Hint) (n : BitVec 4) (d : Reg) (a : Imm) (b : Reg)
  /-- MINC (R348). Posts an increment to a mailbox counter. -/
  | minc (h : Hint) (d : Reg) (a : RegImm) (b : RegImm)
  /-- MRD_COUNTER (R349). Reads a mailbox counter of the executing tile. -/
  | mrdCounter (h : Hint) (d : Reg) (a : RegImm)
  /-- MRD_LANDING (R330). Reads and consumes a landing register and clears its presence bit. -/
  | mrdLanding (h : Hint) (d : Reg) (a : Yreg)
  /-- MSET (R350). Sets a local counter and its LOCAL bit. -/
  | mset (h : Hint) (n : BitVec 4) (d : RegImm) (a : RegImm)
  /-- ARM (R347). Creates a counter continuation without ending the task. -/
  | arm (h : Hint) (d : Imm) (a : Reg) (b : RegImm)
  /-- KICK (R351). Places a kick entry, optionally delegating a capability to the steward. -/
  | kick (h : Hint) (d : Option CapOp) (a : Reg)
  /-- BARINIT (R377). Turns a buffer into a sealed barrier and creates its table entry. -/
  | barinit (h : Hint) (d : CapOp) (a : CapOp) (b : Reg)
  /-- BARRIVE (R378). Posts an arrival and continues speculatively, or completes the phase. -/
  | barrive (h : Hint) (d : CapOp) (a : Option CapOp) (b : Reg)
  /-- BAREND (R378). Posts an arrival and ends the task. -/
  | barend (h : Hint) (d : CapOp) (a : Option CapOp) (b : Reg)
  /-- CLOOK (R385). Takes a lookahead capability on a party's publication. -/
  | clook (h : Hint) (d : CapOp) (a : CapOp) (b : RegImm)
  /-- SPECQ (R390). Reads the speculation state word. -/
  | specq (h : Hint) (d : Reg)
  /-- AOP (R353). Posts an operation packet to a memory agent. -/
  | aop (h : Hint) (n : BitVec 4) (f : BitVec 3) (d : CapOp) (a : Reg)
  /-- AOPR (R353). Posts an operation packet whose old value returns to a landing register. -/
  | aopr (h : Hint) (n : BitVec 4) (f : BitVec 3) (d : LandDest) (a : CapOp) (b : Reg)
  /-- COLL (R417). Contributes a value to a reduction slot. -/
  | coll (h : Hint) (t : Ty) (d : CollDest) (a : Reg) (b : Reg)
  /-- COLLOPEN (R416). Asks a home chip to open a reduction slot. -/
  | collopen (h : Hint) (t : Ty) (d : LandDest) (a : Reg) (b : Reg)
  /-- COLLCLOSE (R419). Posts the closing of a reduction slot. -/
  | collclose (h : Hint) (a : Reg)
  /-- MV_NEXT (R312). Releases a claimed kick entry and claims the oldest queued one, sleeping if none is queued. -/
  | mvNext (rd : Reg) (rs1 : Reg) (rs2 : Reg)
  /-- MV_TAKE (R313). Moves a claimed entry's capability into a k register. -/
  | mvTake (rd : Reg) (rs1 : Reg) (rs2 : Reg)
  /-- MV_COPY (R314). Starts a copy, or a COPY delivery, on the move engine. -/
  | mvCopy (rd : Reg) (rs1 : Reg) (rs2 : Reg)
  /-- MV_FILL (R317). Starts a pattern fill on the move engine. -/
  | mvFill (rd : Reg) (rs1 : Reg) (rs2 : Reg)
  /-- MV_XFER (R318). Sends a k register's capability as an XFER message. -/
  | mvXfer (rd : Reg) (rs1 : Reg) (rs2 : Reg)
  /-- MV_GIVE (R319). Places a k register's capability in a slot or channel of the steward's own tile. -/
  | mvGive (rd : Reg) (rs1 : Reg) (rs2 : Reg)
  /-- MV_MBX (R320). Posts a counter increment after the steward's earlier operations. -/
  | mvMbx (rd : Reg) (rs1 : Reg) (rs2 : Reg)
  /-- MV_STAT (R321). Reads steward queue, engine or identity state. -/
  | mvStat (rd : Reg) (rs1 : Reg) (rs2 : Reg)
  /-- MATRIX_COMMAND_COMPLETE (R235). A command's run ends and its queue entry frees. -/
  | matrixCommandComplete (shadow : Shadow)
  /-- REMOTE_ACCESS_ANSWER (R285). The home's answer to a held remote access arrives and issue resumes. -/
  | remoteAccessAnswer (ans : RemoteAnswer)
  /-- STRIKE_REPORT (R451). A strike report rolls the tile back to its horizon, or records UNCORR. -/
  | strikeReport (zone : Zone)
  /-- SCRUB_VISIT (R456). The scrubber visits a line and poisons it if uncorrectable. -/
  | scrubVisit (line : Nat)
  /-- MODULE_RESET (R253). Module reset runs the engine self-tests and clears handles and volatile state. -/
  | moduleReset (failed : List Nat)
  /-- QNOTIFY (R82). Sets a queue's TAIL, or is ignored and counted in QERR. -/
  | qnotify (vf : Nat) (q : Nat) (val : Word)
  /-- REGISTER_WRITE (R74). Writes a register that has no row of its own. -/
  | registerWrite (pf : Bool) (vf : Nat) (off : Nat) (val : Word)
  /-- PART_CREATE (R103). Verifies the policy and creates the partition ACTIVE. -/
  | partCreate (buf : Mbox) (sig : List Byte)
  /-- PART_PAUSE (R440). Halts the partition in place. -/
  | partPause (buf : Mbox)
  /-- PART_RESUME (R440). Restarts dispatch, engines and stewards. -/
  | partResume (buf : Mbox)
  /-- PART_EVICT (R109). Halts the partition and seals its state into an encrypted blob. -/
  | partEvict (buf : Mbox)
  /-- PART_RESTORE (R110). Checks a blob and rebuilds the partition PAUSED at a new PBASE. -/
  | partRestore (buf : Mbox) (blob : List Byte)
  /-- PART_DESTROY (R111). Ends the partition and clears its on-die memories. -/
  | partDestroy (buf : Mbox)
  /-- VF_ASSIGN (R103). Changes VFMASK and resets removed VFs. -/
  | vfAssign (buf : Mbox)
  /-- CHAN_ASSIGN (R103). Replaces the channel list of an evicted partition. -/
  | chanAssign (buf : Mbox)
  /-- MAP_S2 (R472). Maps or unmaps one stage-two or fabric MMU entry and answers page requests. -/
  | mapS2 (buf : Mbox)
  /-- RATE_SET (R408). Sets the partition's token-bucket rates on ports. -/
  | rateSet (buf : Mbox)
  /-- REPORT (R112). Writes a signed attestation report. -/
  | report (buf : Mbox)
  /-- CERT (R112). Writes the device certificate chain. -/
  | cert (buf : Mbox)
  /-- MGMT_READ (R113). Reads one management register. -/
  | mgmtRead (buf : Mbox)
  /-- MGMT_WRITE (R113). Writes one management register. -/
  | mgmtWrite (buf : Mbox)
  /-- PRQ_READ (R113). Copies a VF's standing page-request records to the host. -/
  | prqRead (buf : Mbox)
  /-- EMARK_WRITE (R253). Marks or clears the failed mark of a tile's matrix engine. -/
  | emarkWrite (buf : Mbox)
  /-- HEALTH_WRITE (R459). A write to word 0 clears a tile's health record. -/
  | healthWrite (buf : Mbox)
  /-- FUNCTION_LEVEL_RESET (R446). Resets a VF: kills its kernels, releases its queues, withdraws contributions and cancels page requests. -/
  | functionLevelReset (vf : Nat)
  /-- FABRIC_PACKET_ARRIVAL (R407). A stamped cross-chip packet is accepted into a destination partition, or discarded. -/
  | fabricPacketArrival (p : FabPacket)
  /-- FABRIC_ACKNOWLEDGEMENT (R404). A cross-chip acknowledgement completes a transfer with OK. -/
  | fabricAcknowledgement (id : Nat)
  /-- PORT_DOWN (R398). A port going down sets LOST on entries with no port left up. -/
  | portDown (port : Nat)
  /-- STEWARD_RV64_INSTRUCTION (R302). The steward hart executes one ordinary RV64IMC, Zicsr, Zba or Zbb instruction against scratch, the kick window and its CSRs. -/
  | stewardRv64Instruction (len : Nat) (rv : Rv)
  /-- CXL_MEM_READ (R107). A host CXL.mem read through a VF window returns plaintext with an open IDE stream and the stored ciphertext otherwise. -/
  | cxlMemRead (vf : Nat) (off : Nat) (len : Nat)
  /-- CXL_MEM_WRITE (R107). A host CXL.mem write through a VF window is performed under the IDE stream, or discarded when no stream is open. -/
  | cxlMemWrite (vf : Nat) (off : Nat) (bytes : List Byte)
  /-- KEY_EXCHANGE (R107). A requester opens an SPDM 1.2 secured session with the Assay root through KEY_EXCHANGE. -/
  | keyExchange (x : Exchange)
  /-- VENDOR_DEFINED_REQUEST (R107). Inside a session, the requester proves it holds the tenant key for a handle and VF with an SLH-DSA signature over the transcript. -/
  | vendorDefinedRequest (session : Nat) (handle : Word) (vf : Nat) (x : VendorProof)
  /-- IDE_KEY_PROGRAMMING (R107). CXL IDE key-programming messages in the session program the VF's stream keys, opening the IDE stream. -/
  | ideKeyProgramming (session : Nat) (vf : Nat)
  /-- PORT_UP (R404). A UALink port or CXL port 1 comes up, so packets can leave on it and routing entries again have a port up. -/
  | portUp (port : Nat)
  /-- LINK_CRC_ERROR (R447). A CRC error or link-level replay on a UALink or CXL link is recovered in the link layer, recorded in the host log and counted in SHARED of the VFs whose traffic it carried. -/
  | linkCrcError (port : Nat) (vfs : List Nat)
  /-- POWER_LOSS (R459). The module's power is removed, in an orderly shutdown that flushes the health counts or in a loss that loses at most one second of them. -/
  | powerLoss (orderly : Bool)
  /-- STEWARD_WAKE (R312). A kick entry becomes queued and the sleeping mv.next claims it. -/
  | stewardWake
  /-- STEWARD_FAULT (R306). A steward exception or operand error stops the hart, disposes of its capabilities and reloads its program. -/
  | stewardFault
  /-- MOVE_BURST (R315). One burst of an engine operation is checked at its homes and performed or refused. -/
  | moveBurst
  /-- ENGINE_OP_COMPLETE (R311). An engine operation completes and writes its status word to rd. -/
  | engineOpComplete
  /-- MATRIX_COMMAND_START (R236). The engine starts a staged command once the previous command has ended. -/
  | matrixCommandStart
  /-- WATCHDOG_EXPIRY (R427). The W_h count reaches its budget and WDOG is raised at the next boundary. -/
  | watchdogExpiry
  /-- GRACE_EXPIRY (R427). The 64-cycle grace ends and the still-running task is killed with WDOG 0x03. -/
  | graceExpiry
  /-- DISPATCH (R119). Each cycle the dispatcher selects and grants at most one eligible ready task. -/
  | dispatch
  /-- AGING (R120). A ready task older than 65,536 cycles is raised one priority level. -/
  | aging
  /-- HELD_TASK (R121). A starved priority-6 task becomes the tile's held task. -/
  | heldTask
  /-- MESSAGE_ARRIVAL (R34). A message takes effect on a channel and creates a task record, or is discarded if the channel is unbound. -/
  | messageArrival
  /-- CAPABILITY_ARRIVAL (R342). An XFER capability message arrives and creates a task with the capability in c0. -/
  | capabilityArrival
  /-- REMOTE_SPAWN_ARRIVAL (R346). A SPAWNR packet arrives and creates a task, or is refused. -/
  | remoteSpawnArrival
  /-- POOL_WAIT_RELEASE (R31). An arrival held at an empty record pool is applied once a record pair frees. -/
  | poolWaitRelease
  /-- COUNTER_INCREMENT_ARRIVAL (R333). An increment is applied to a counter, or dropped if LOCAL forbids it. -/
  | counterIncrementArrival
  /-- LANDING_WRITE_ARRIVAL (R330). A landing-register write is applied, or held if the presence bit is set. -/
  | landingWriteArrival
  /-- LANDING_HOLD_APPLY (R331). A held landing write is applied in the cycle after an MRD clears the bit. -/
  | landingHoldApply
  /-- MEMORY_AGENT_OPERATION (R352). A memory agent applies an operation packet atomically. -/
  | memoryAgentOperation
  /-- AOPR_RESULT_ARRIVAL (R356). An AOPR result arrives and writes its landing register. -/
  | aoprResultArrival
  /-- COPY_SLOT_REQUEST (R63). A COPY delivery's request for ring slots is granted or waits at the receiving tile. -/
  | copySlotRequest
  /-- COPY_SLOT_GRANT (R63). A waiting slot request is granted once RADV releases enough slots. -/
  | copySlotGrant
  /-- COPY_ANNOUNCE (R63). Raises the fill counter in grant order and sends the announcing message. -/
  | copyAnnounce
  /-- COPY_DELIVERY_TIMEOUT (R483). The receiving tile ends a granted delivery that saw no packet for two windows. -/
  | copyDeliveryTimeout
  /-- RECLAIM_INVALIDATION (R66). A core or steward removes cache entries for a reclaimed buffer, drains, and acknowledges. -/
  | reclaimInvalidation
  /-- RECLAIM_COMPLETE (R66). Once every acknowledgement is in, the hallmark is raised and the caller gets the new capability. -/
  | reclaimComplete
  /-- TLB_INVALIDATION (R277). A TLB, core or steward removes matching entries, drains, and acknowledges. -/
  | tlbInvalidation
  /-- TLBI_ACKNOWLEDGED (R277). With every acknowledgement in, the TLBI increment is posted or the MAP.S2 completes. -/
  | tlbiAcknowledged
  /-- PAGE_REQUEST_ENTRY (R272). A waiting page request is entered into the VF queue as a record leaves. -/
  | pageRequestEntry
  /-- CONFLICT_PROBE (R386). A probe reaches a lookahead reader, which rolls back if its bit is set, and acknowledges. -/
  | conflictProbe
  /-- PROBE_ACKNOWLEDGED (R386). The last probe acknowledgement arrives and the owner's write counts as performed. -/
  | probeAcknowledged
  /-- BARRIER_ARRIVAL (R388). An arrival is applied at the barrier home; the keystone starts the completion sequence. -/
  | barrierArrival
  /-- BARRIER_PARK_ACKNOWLEDGED (R388). With every park acknowledged, the phase advances and notices are sent. -/
  | barrierParkAcknowledged
  /-- COMPLETION_NOTICE (R389). A completion notice commits speculating tasks, or readies rolled-back ones. -/
  | completionNotice
  /-- HORIZON_RELEASE (R450). A held effect is released 160 cycles after its issue. -/
  | horizonRelease
  /-- HEALTH_FLUSH (R459). The tile health counts are flushed to non-volatile storage. -/
  | healthFlush
  /-- QUEUE_SLOT_GRANT (R83). A latched queue takes a freed or yielded queue slot. -/
  | queueSlotGrant
  /-- NOTIFY_STARVATION (R84). A PEND bit set for TSTARV µs raises a management event. -/
  | notifyStarvation
  /-- LAUNCH (R89). Carries out a launch record: checks, buffers, bindings and root tasks. -/
  | launch
  /-- LAUNCH_CHANNELS_FREE (R89). A launch waiting for channel indices or tiles proceeds once they are free. -/
  | launchChannelsFree
  /-- REGISTER_IMAGE (R87). Copies and checks an image, creating its sealed const buffer and handle. -/
  | registerImage
  /-- RELEASE_IMAGE (R87). Releases an image handle. -/
  | releaseImage
  /-- KERNEL_RETIRE (R437). A kernel retires through its counter or a kill and releases its state. -/
  | kernelRetire
  /-- COMPLETION_RECORD_WRITE (R435). Writes a completion record once the completion queue has room. -/
  | completionRecordWrite
  /-- PARTITION_HALTED (R439). Every tile has finished stopping, and the partition is halted. -/
  | partitionHalted
  /-- BUF_CREATE (R95). Creates a buffer and parks its exclusive capability. -/
  | bufCreate
  /-- BUF_FREE (R95). Frees a buffer's CT entry. -/
  | bufFree
  /-- BUF_RECOVER (R95). Reclaims an entry whose capability was lost and parks a new one. -/
  | bufRecover
  /-- CT_READ (R95). Returns half of a CT entry. -/
  | ctRead
  /-- TASK_LIST (R95). Returns the n-th waiting, ready or parked task of a tile. -/
  | taskList
  /-- BIAS_SET (R125). Sets a kernel's priority bias. -/
  | biasSet
  /-- PREC_READ (R95). Returns one word of the partition record or channel list. -/
  | precRead
  /-- FLOG_SET (R428). Places and empties the fault log. -/
  | flogSet
  /-- FLOG_HEAD (R428). Advances the fault-log head. -/
  | flogHead
  /-- XLAT_SET (R263). Names a VF's translation record. -/
  | xlatSet
  /-- STW_INSTALL (R305). Installs the resident movement program. -/
  | stwInstall
  /-- SUPV_RECV (R94). Names the supervisor's reception point. -/
  | supvRecv
  /-- SUPV_EVENTS (R429). Names the management-event channel. -/
  | supvEvents
  /-- TRANSFER_TIMEOUT (R404). At the start of window N+2, an unconfirmed transfer completes with TIMEOUT or PEERLOST. -/
  | transferTimeout
  /-- PACKET_DEPARTURE (R408). A queued packet departs once its token bucket holds its charge. -/
  | packetDeparture
  /-- TOKEN_REDISTRIBUTE (R409). At each 1 µs boundary, overflow tokens are shared among waiting buckets. -/
  | tokenRedistribute
  /-- ROUTING_FLIP (R400). At window FLIPWIN, packets start to carry the new routing generation. -/
  | routingFlip
  /-- ROUTING_RETIRE (R400). The old routing table retires at window FLIPWIN+2. -/
  | routingRetire
  /-- CHIP_UNSYNCHRONIZED (R405). A chip beyond S/2 from the time base stops fabric traffic and fails its transfers. -/
  | chipUnsynchronized
  /-- CHIP_RESYNCHRONIZED (R405). A chip resumes after one whole window back within the bound. -/
  | chipResynchronized
  /-- COLLOPEN_REQUEST (R416). The home opens the lowest free slot and returns its handle, or refuses. -/
  | collopenRequest
  /-- CONTRIBUTION_ARRIVAL (R414). A contribution is applied to a slot, or answered LATE. -/
  | contributionArrival
  /-- COLLCLOSE_ARRIVAL (R419). Frees or marks a slot, or logs a mismatch. -/
  | collcloseArrival
  /-- SLOT_DEADLINE (R414). The deadline window starts and the slot completes with TIMEOUT. -/
  | slotDeadline
  /-- SLOT_EXPIRE (R410). A DONE slot is freed 256 windows after its completion. -/
  | slotExpire
  /-- COLLECTIVE_RECORD_ARRIVAL (R413). A collective record is written to landing registers or a ring slot. -/
  | collectiveRecordArrival
  /-- SPECULATION_BUDGET_LOW (R383). A speculating task's remaining W_h falls to 128 cycles and speculation ends with SPECABORT 0x03 and a rollback. -/
  | speculationBudgetLow
  /-- INJECTION_ENTRY_FREE (R326). A post's last beat leaves the core after its release-order wait, freeing its VN0 or VN1 injection entry or reserved reply entry. -/
  | injectionEntryFree
  /-- VECTOR_STREAM_COMPLETE (R206). A streaming vector instruction performs its last pass or write, freeing the vector unit and lifting the interlocks that wait on it. -/
  | vectorStreamComplete
deriving DecidableEq, Repr

end Sys2Proof
end

