-- ==== Sys2Proof/Machine/State.lean ====
section
/-!
DEFINITION. The state of one C4096 module: plain data, holding every piece of state that spec/ names, and the
machine right after module reset. INVENTORY.md lists the fields with the rules that name them.
-/

namespace Sys2Proof.Machine

/-- One byte of memory at a physical address. Physical addresses are numbers: HBM channel `c`, offset `o` is
`c * 2^31 + o`, tile SRAM, cluster SRAM and weight-store segments stand at their virtual places (Table 12.1). -/
abbrev Memory := List Host.Cell

/-! ## Context-private state -/

/-- A view record (Table 2.4). -/
structure View where
  cap : Nat
  rank : Nat
  ringf : Bool
  rh : Nat
  rot : Nat
  offset : Nat
  ext : List Nat
  stride : List Int
  resZero : Bool
deriving DecidableEq, Repr

/-- An exact accumulator XA320 (R164): the sum in units of 2^-149, and the three marks. -/
structure Xa where
  sum : Int
  nan : Bool
  pinf : Bool
  ninf : Bool
deriving DecidableEq, Repr

/-- The running value of a row (R209, R217): a bit pattern, the exact accumulator, the elements taken, the flags of its
steps. -/
structure RunVal where
  bits : Nat
  xa : Xa
  seen : Nat
  fl : BitVec 6
deriving DecidableEq, Repr

/-- A resume point (R209, R217). That of a gather or scatter has the mask of the elements performed and, while it awaits
another chip, the ordinals and subcodes of the elements that have failed to translate, and the element numbers that its
checks have found, none before they have passed (R224, R225). -/
inductive Resume where
  | none
  | elem (ordinal : Nat) (run : List RunVal)
  | mask (m : Nat) (failed : List (Nat × Nat)) (elems : List Int)
deriving DecidableEq, Repr

/-- The registers of a context (Table 7.3): what a snapshot, a park-store entry and pre-emption save (R138, R380). -/
structure Regs where
  x : Assoc Word
  p : BitVec 8
  c : Assoc Cap
  v : Assoc View
  h : Assoc Nat
  fpstat : Word
  pc : BitVec 32
  resume : Resume
deriving DecidableEq, Repr

/-- An operand view as captured at issue (R204, R242): the view and the capability, and what the ring was. -/
structure BoundView where
  view : View
  cap : Option Cap
  ringHead : Nat
  slots : Nat
  slotBytes : Nat
deriving DecidableEq, Repr

/-- What a matrix command computes (Table 11.2). Accumulators are the tile's own numbers. -/
inductive MxOp where
  | zero (d : Nat)
  | mma (t : Ty) (d : Nat) (a b : BoundView) (sat : Bool)
  | mmat (d : Nat) (a b : BoundView) (sat : Bool)
  | load (t : Ty) (d : Nat) (a : BoundView)
  | store (t : Ty) (d : BoundView) (a : Nat) (asInt sat : Bool) (mode : Nat)
  | scale (d a : Nat) (b : BoundView) (sat : Bool)
  | sig (dest : Place) (ctr amount : Nat)
deriving DecidableEq, Repr

/-- A task for as long as its record is its own: the record pair, and the cycle at which it was enqueued there. -/
structure TaskId where
  rec' : Nat
  born : Nat
deriving DecidableEq, Repr

/-- A queued matrix command (R234): the operation, the capability registers and the CT entries it names (R238, R239),
the byte runs it reads and writes, its staged operands as element bits (R236), the cycle before which a held start does
not start (R450), the subcode of UNCORR that its staged operands met, the flags that staging found (R247), its place in
the order in which the core issued (R335), the task that issued it (R240). -/
structure MxCmd where
  op : MxOp
  kslot : Nat
  regs : List Nat
  keys : List Nat
  reads : List (Nat × Nat)
  writes : List (Nat × Nat)
  staged : Option (List (List Nat))
  notBefore : Nat
  poison : Option Nat
  sflags : BitVec 6
  ord : Nat
  task : TaskId
deriving DecidableEq, Repr

/-- A context's matrix state (R234, R240). -/
structure MxCtx where
  queue : List MxCmd
  flags : BitVec 6
  err : Option (Nat × Nat)
  credits : Nat
deriving DecidableEq, Repr

/-- Where a logged write goes: memory of the chip, a buffer of another chip by its home and CT index, the fabric space 0x1
(R281, R381). -/
inductive LogPlace where
  | here
  | buffer (chip key : Nat)
  | fabric
deriving DecidableEq, Repr

/-- One write of a store log (R381): the place, a run of bytes at a physical address, an offset in the other chip's buffer or
a fabric address, the capability and window offset that made it, the cycle before which the strike horizon holds it, its
place in the order in which the core issued. -/
structure LogWrite where
  place : LogPlace
  addr : Nat
  bytes : List Byte
  cap : Cap
  off : Nat
  due : Nat
  ord : Nat
deriving DecidableEq, Repr

/-- A kick entry (Table 14.3) with its capability. -/
inductive KickState where
  | held | queued | claimed
deriving DecidableEq, Repr

/-- A post that waits: a packet, a kick entry to show, a task of a kernel to enqueue on the tile (R336, R450). -/
inductive Post where
  | packet (p : Packet) (reserved : Bool)
  | kick (entry : Nat)
  | task (img : RecImage) (first : List Word) (kslot : Nat)
deriving DecidableEq, Repr

/-- A held post: the cycle before which the strike horizon holds it, the record and the signal number that it sets there
(R33), its place in the order in which the core issued (R327, R335), whether it holds its injection entry: one that executed
outside speculation took it then (R326), one that a commit has released waits for it (R336). -/
structure HeldPost where
  post : Post
  due : Nat
  signal : Option (Nat × Nat)
  ord : Nat
  taken : Bool
deriving DecidableEq, Repr

/-- The saved state that a rollback restores (R380, R384). -/
structure Snapshot where
  regs : Regs
  nsig : Nat
  trapEntry : Bool
  kept : Resume
  faultPc : BitVec 32
deriving DecidableEq, Repr

/-- Keystone state of a context (R380, R381, R386, R390). -/
structure Spec where
  on : Bool
  bar : Place
  bidx : Nat
  phase : Nat
  snap : Option Snapshot
  log : List LogWrite
  held : List HeldPost
  reads : List Nat
  looks : List Cap
  abort : Nat
  rolled : Bool
deriving DecidableEq, Repr

/-- What a parked task waits for (R274, R275, R384): the guest pages it requested, its barrier, a retried dispatch. -/
inductive ParkWait where
  | pages (vf : Nat) (pages : List Nat)
  | barrier (place : Place) (bidx phase : Nat)
  | retry
deriving DecidableEq, Repr

/-- Why a context issues nothing (R136, R280, R285, R377, R378). -/
inductive Hold where
  | none
  /-- a remote access (R285): the instruction issues again with the answer -/
  | remote (id : Nat)
  /-- CRECLAIM in a register until step 4 of R66 -/
  | reclaim (key : Nat) (creg : Nat)
  /-- CDROP that reached the home while RECL was set (Table 3.6) -/
  | cdrop (key : Nat) (creg : Nat)
  /-- a commit whose logged writes to other chips are checked at their homes: those not yet checked, the request that is
  out (R389 step 1) -/
  | commit (left : List LogWrite) (id : Nat)
  /-- a log that drains to other chips: the writes not yet performed, the request that is out (R389 step 2) -/
  | drain (left : List LogWrite) (id : Nat)
  /-- BARRIVE or BAREND until the home answers -/
  | barrier (place : Place) (bidx : Nat) (ends : Bool)
  /-- the keystone's BARRIVE until the completion sequence has ended -/
  | keystone (place : Place) (bidx phase : Nat)
  /-- a task whose end waits: held posts, or the strike horizon (R336, R450) -/
  | ending (due : Nat)
  /-- stopped at the watchdog's boundary, its trap not yet raised (R427) -/
  | watchdog (sub : Nat)
  /-- a task that finds the park store full (R274, R384, R432) -/
  | parkFull (w : ParkWait)
deriving DecidableEq, Repr

/-- A park-store entry (R274, R432): the registers, the trap-entry state, what speculation left, what it waits for,
the pages that were rejected, the matrix flags and error state, and the accumulators, rings and reply entry it keeps or
needs. -/
structure Parked where
  regs : Regs
  trapEntry : Bool
  kept : Resume
  faultPc : BitVec 32
  nsig : Nat
  noRetry : Bool
  rolled : Bool
  abort : Nat
  wait : ParkWait
  rejected : List Nat
  mxFlags : BitVec 6
  mxErr : Option (Nat × Nat)
  accs : List Nat
  rings : List Nat
  reply : Bool
deriving DecidableEq, Repr

/-- The run of a task in a context slot (R122, R197, R427, R431). `rejected` holds the guest pages whose rejection the
instruction at the resume point is to fault on (R275). `stamp` and `origin` are the stamp and the park-store entry with which
the task was dispatched, `placed` the cycle of that (R451); `dispatched` is where its W_h count starts, `first` the place of its first
post or access in the core's order of issue, `tries` the RETRIES of its record then. -/
structure Run where
  task : Option Nat
  trapEntry : Bool
  kept : Resume
  faultPc : BitVec 32
  dispatched : Nat
  issueAt : Nat
  graceEnd : Option Nat
  accs : List Nat
  reply : Bool
  rings : List Nat
  nsig : Nat
  noRetry : Bool
  prio : Nat
  rejected : List Nat
  stamp : Nat
  origin : Option Parked
  placed : Nat
  first : Nat
  tries : Nat
deriving DecidableEq, Repr

/-- The end of a task that is held (R336, R450): by END, ENDC with its continuation, BAREND or HALT. -/
inductive EndKind where
  | plain
  | halt
  | cont (img : RecImage)
deriving DecidableEq, Repr

/-- One of the eight context slots (R137). `mxRec` is the record of the task for which queued commands run (R274),
`vecBusy` names the capability registers that an unfinished vector instruction captured (R206). -/
structure Context where
  regs : Regs
  run : Run
  mx : MxCtx
  mxRec : Option Nat
  spec : Spec
  hold : Hold
  answer : Option RemoteAnswer
  vecBusy : Option (List Nat)
  endHeld : Option EndKind
  shzLog : List LogWrite
  shzPosts : List HeldPost
deriving DecidableEq, Repr

/-! ## Tile state -/

/-- The queue state of a task record (R117, R274). A ready task has its priority, its stamp and its place among equal stamps
(R117, R440), since when its age counts and since when it stands at priority 6 (R120, R121), whether it was skipped. -/
inductive QState where
  | waiting
  | ready (prio stamp place since since6 : Nat) (skipped : Bool)
  | running (ctx : Nat)
  | parked
deriving DecidableEq, Repr

/-- A task record (Table 2.2) with what dispatch needs: the image, the kernel's slot, SIGMASK, RETRIES, the first
values of x1 to x6, the capability for c0, the priority fixed at enqueue, whether the counter part has latched, the cycle at
which it was enqueued. -/
structure TaskRec where
  img : RecImage
  kslot : Nat
  sigmask : BitVec 16
  retries : Nat
  first : List Word
  cap : Option Cap
  prio : Nat
  latched : Bool
  q : QState
  sender : Option Place
  born : Nat
deriving DecidableEq, Repr

/-- A capability parking slot (R32): its capability, who placed it (none: the supervisor), a CRECLAIM reservation, a
hold for a running task's state region. -/
structure Slot where
  cap : Option Cap
  kslot : Option Nat
  reserved : Bool
  held : Bool
deriving DecidableEq, Repr

/-- A COPY delivery or a collective record that asked for ring slots (R63, R413, R483): its sender and number, the
channel to announce it on, the slots it needs and the first it was granted, the bytes written so far, its end status
with the bytes, the payload word, the window of its last packet, the words of a record. -/
structure Delivery where
  src : Place
  id : Nat
  kslot : Nat
  chan : Nat
  n : Nat
  bytes : Nat
  first : Nat
  granted : Bool
  got : Nat
  done : Option (Nat × Nat × Nat)
  x2 : Word
  lastWindow : Nat
  record : Option (Word × Word × Word)
deriving DecidableEq, Repr

/-- A ring descriptor with its capability and the kernel that installed it (Table 2.5, R40, R290). -/
structure Ring where
  slog2 : Nat
  nlog2 : Nat
  pctr : Nat
  ptile : Nat
  pchip : Nat
  fctr : Nat
  head : Nat
  relsd : Nat
  rsv : Nat
  cap : Cap
  kslot : Nat
  deliveries : List Delivery
deriving DecidableEq, Repr

/-- A channel binding in force (Table 2.3, R35). `dead` after a kill of the tile group (R433). -/
structure Chan where
  entry : Nat
  prio : Nat
  reply : Bool
  cring : Option Nat
  nacc : Nat
  stv : Bool
  stSlot : Nat
  arg : Word
  kslot : Nat
  dead : Bool
deriving DecidableEq, Repr

/-- A mailbox counter (R332). -/
structure Ctr where
  value : BitVec 32
  loc : Bool
deriving DecidableEq, Repr

/-- A barrier-table entry (R376): for each party whether it has arrived, its publication of this phase and that of the
phase before, killed parties. -/
structure Barrier where
  ctidx : Nat
  hallmark : Nat
  rbase : Nat
  n : Nat
  kslot : Nat
  phase : Nat
  arrived : List Nat
  killed : List Nat
  pubs : Assoc (Cap × Word)
  prev : Assoc (Cap × Word)
  completing : Bool
deriving DecidableEq, Repr

/-- A kick entry (Table 14.3). -/
structure Kick where
  state : KickState
  kind : Nat
  cap : Option Cap
  ctx : Nat
  kslot : Nat
  pslot : Nat
  seq : Nat
  args : List Word
deriving DecidableEq, Repr

/-- A capability as an engine operation holds it, with the kernel it came from, that kernel's translation context and
whether it is a supervisor kernel's (R309). -/
structure KCap where
  cap : Cap
  kslot : Nat
  xlat : Xlat
  supv : Bool
deriving DecidableEq, Repr

/-- What an engine operation does (R314 to R320). An operation on an empty k register holds none. -/
inductive EngKind where
  | copy (src dst : Option KCap) (soff doff : Nat)
  | fill (dst : Option KCap) (doff : Nat) (pattern : Word)
  /-- a COPY delivery (R316): the capability, SOFF, the slot where it goes back, the receiver, the payload word, the granted
  ring slots with the bytes of a slot, whether its end notice has left for another chip -/
  | deliver (src : Option KCap) (soff pslot : Nat) (dest : Place) (chan : Nat) (x2 : Word)
      (granted : Option (Nat × Nat × Nat)) (noticed : Bool)
  /-- a message that carries the capability (R318, R319 for a channel, R316 for a COPY without a ring): its words, the
  subcode of its status, whether it has left -/
  | xfer (src : Option KCap) (dest : Place) (chan : Nat) (hdr x2 : Word) (sub : Nat) (sent : Bool)
  /-- a capability for a parking slot (R319) -/
  | give (src : Option KCap) (slot : Nat)
  | mbx (dest : Place) (ctr amount : Nat)
deriving DecidableEq, Repr

/-- A run of the source bytes of a burst: read, or asked of another chip under a request number (R315). -/
inductive BurstPart where
  | bytes (bs : List Byte)
  | asked (id : Nat)
deriving DecidableEq, Repr

/-- The destination side of a burst: still to be written, asked of another chip under a request number, done. -/
inductive BurstOut where
  | waits
  | asked (id : Nat)
  | done
deriving DecidableEq, Repr

/-- A burst under way (R315): its first byte and length in the operation, its source runs, its destination. -/
structure Flight where
  start : Nat
  len : Nat
  parts : List BurstPart
  out : BurstOut
deriving DecidableEq, Repr

/-- An engine operation in flight (R311, R315): its rd, the kernel, the k registers it names, the bytes to move and those
done, the code that stopped it, the fabric packet whose outcome it awaits before it goes on, its bursts under way, the VF, guest
page and burst of a translation that missed and whether that was rejected, the cycle before which the strike horizon
holds it (R450). -/
structure EngOp where
  id : Nat
  kind : EngKind
  rd : Nat
  kslot : Nat
  kregs : List Nat
  len : Nat
  done : Nat
  stop : Option (Nat × Nat)
  waitTag : Option Nat
  flights : List Flight
  page : Option (Nat × Nat × Nat)
  rejected : Bool
  notBefore : Nat
deriving DecidableEq, Repr

/-- Which program the steward runs (R305). -/
inductive Prog where
  | builtin
  | resident (image : Nat)
  | kernel (kslot : Nat)
deriving DecidableEq, Repr

/-- The steward's CSRs (R304). mcycle is kept as the cycle at which the program was loaded. -/
structure Csrs where
  mscratch : Word
  mepc : Word
  mcause : Word
  mtval : Word
  loadedAt : Nat
  minstret : Word
deriving DecidableEq, Repr

/-- A fault the steward has met and not yet handled (R306). -/
structure StwFault where
  code : Nat
  sub : Nat
  pc : Nat
  word : Nat
deriving DecidableEq, Repr

/-- The steward (R302 to R311). Scratch is a list of bytes that differ from 0. -/
structure Steward where
  x : Assoc Word
  pc : Word
  scratch : List Host.Cell
  k : Assoc (Cap × Nat)
  csr : Csrs
  sleep : Option Nat
  fault : Option StwFault
  ops : List EngOp
  nextOp : Nat
  prog : Prog
  stopped : Bool
deriving DecidableEq, Repr

/-- An entry of a validation cache (R55): the key of the CT entry and the hallmark, the rights validated, whether a write is
permitted. -/
structure VEntry where
  chip : Nat
  key : Nat
  hallmark : Nat
  part : Nat
  rights : Rights
  write : Bool
deriving DecidableEq, Repr

/-- A translation that a TLB holds (R270): the virtual page, the context it was walked under, the physical frame and
the stage-one rights. -/
structure TlbEntry where
  part : Nat
  vf : Nat
  asid : Nat
  page : Nat
  log2 : Nat
  gpa : Nat
  poff : Nat
  r : Bool
  w : Bool
  x : Bool
deriving DecidableEq, Repr

/-- A post in an injection entry (R326): the network, whether the entry is the context's reserved one (R124), the
packet, its place in the order in which the core issued (R327). -/
structure InjEntry where
  vn : Nat
  ctx : Nat
  reserved : Bool
  pkt : Packet
  ord : Nat
deriving DecidableEq, Repr

/-- One of the tile's 16 accumulators (R230): the words written since it was granted. A word that has not been written
is the free value number `seed` plus its index (R42, R232). `err` is a latent memory error in it, uncorrectable or not
(R240, R455). -/
structure AccVal where
  seed : Nat
  words : Assoc (BitVec 32)
  err : Option Bool
deriving DecidableEq, Repr

/-- A task that ran on the tile until a cycle, with its context slot and its kernel's slot (R452, R453). -/
structure PastTask where
  cycle : Nat
  ctx : Nat
  task : TaskId
  kslot : Nat
deriving DecidableEq, Repr

/-- The matrix engine of a tile (R127, R236, R253): the running command's context, when it started, the slot the round
stands at, the commands counted; the tasks whose commands ended in the last 160 cycles (R452). -/
structure Engine where
  running : Option (Nat × MxCmd)
  started : Nat
  slot : Nat
  count : Nat
  dead : Bool
  ran : List PastTask
deriving DecidableEq, Repr

/-- Counts of the health record (Table 20.2). -/
structure Counts where
  seq : Nat
  uecc : Nat
  cecc : Nat
  sreplay : Nat
  strikes : Nat
  vconf : BitVec 32
  subm : Assoc Nat
  lanem : Assoc Nat
deriving DecidableEq, Repr

/-- STATE of a CT entry (Table 3.3). -/
inductive CtState where
  | free | exclusive | sealed | retired
deriving DecidableEq, Repr

/-- Changes that a strike rollback undoes (R450, R451), newest first: the tile-local ones, and those of a CT entry by CSPLIT, CJOIN
and CSEAL, of a ring by RBIND and of the barrier table by BARINIT (log 45). -/
inductive Undo where
  | landing (cycle reg : Nat) (val : Word)
  | mset (cycle ctr : Nat) (old : Ctr) (new : BitVec 32)
  | parked (cycle slot : Nat)
  | unparked (cycle slot : Nat) (old : Slot)
  | head (cycle ring k : Nat)
  | kick (cycle entry : Nat) (old : Kick)
  | entry (cycle key hallmark : Nat) (tokens : Int) (old : CtState × Rights)
  | ring (cycle ring : Nat) (old new : Option Ring)
  | bar (cycle entry : Nat)
deriving DecidableEq, Repr

/-- One step of the horizon's history (R450): the cycle, and the context slots and the steward as they stood before. -/
structure History where
  cycle : Nat
  ctx : Nat
  before : Context
deriving DecidableEq, Repr

/-- A write that waits in the landing hold (R331): its register and its value. -/
structure HeldLanding where
  reg : Nat
  val : Word
deriving DecidableEq, Repr

/-- The dispatcher (R119, R121, R438): the held task, the cycle before which it dispatches no further task, whether the
halt line is up and the tile has stopped; the tasks that left their slots in the last 160 cycles (R453). -/
structure Disp where
  held : Option Nat
  next : Nat
  halting : Bool
  halted : Bool
  left : List PastTask
deriving DecidableEq, Repr

/-- How a capability that is given up goes: as by CDROP (R298), as one of a killed tile group (R69), to the reclaim path (R70). -/
inductive Going where
  | drop | kill | path
deriving DecidableEq, Repr

/-- A capability that its holder has given up and that waits until every access under it has been performed (R362, R364, R450):
the partition, the kernel's slot, the reason, how it goes, the cycle before which the strike horizon
holds it, the request with which its home on another chip was asked whether it is stale (R298), the context slot whose task gave it
up, 8 for the steward, 9 for neither. -/
structure Giving where
  cap : Cap
  part : Nat
  kslot : Nat
  reason : Nat
  how : Going
  due : Nat
  ask : Option Nat
  by' : Nat
deriving DecidableEq, Repr

/-- Issue of the core (R126): the slot that issued last and the one before it, the cycle of that issue, the slots whose next
instruction was found interlocked in cycle `heldAt`. -/
structure IssueSt where
  last : Nat
  before : Nat
  at' : Option Nat
  held : List Nat
  heldAt : Nat
deriving DecidableEq, Repr

/-- What the tasks of a tile share besides memory (R28 to R41, R330 to R332). `landFreed` has the cycle in which an MRD last
cleared a landing register (R331). -/
structure Local where
  recs : Assoc TaskRec
  park : Assoc Parked
  slots : Assoc Slot
  rings : Assoc Ring
  ctrs : Assoc Ctr
  land : Assoc Word
  landHold : List HeldLanding
  landFreed : Assoc Nat
  chans : Assoc Chan
  bars : Assoc Barrier
  kicks : Assoc Kick
  kickSeq : Nat
deriving DecidableEq, Repr

/-- The compute core, its engines and caches. `issued` counts what its contexts have issued that takes effect later: posts,
operations, commands, held writes. `undo` has each change with the context slot that made it, 8 for the steward. `giving` has the capabilities on their way out of the tile, `resumed` the cycle at which the
tile went on after its last strike rollback (R451). -/
structure CoreSt where
  ctxs : Assoc Context
  disp : Disp
  inj : List InjEntry
  accs : Assoc AccVal
  eng : Engine
  vcache : List VEntry
  l1 : List TlbEntry
  undo : List (Nat × Undo)
  history : List History
  overfill : Nat
  issue : IssueSt
  issued : Nat
  giving : List Giving
  resumed : Nat
deriving DecidableEq, Repr

/-- One tile. `killed` has the kernels whose tile group was killed, with the code of the event (R433, R469). -/
structure Tile where
  core : CoreSt
  loc : Local
  stw : Steward
  svcache : List VEntry
  stwHistory : List (Nat × Steward)
  stored : Counts
  counts : Counts
  killed : Assoc Nat
deriving DecidableEq, Repr

/-! ## Homes -/

/-- The caller of a reclaim: a context's register, a parking slot, or the management agent (R66, R300, R95). -/
inductive Caller where
  | register (tile ctx creg kslot : Nat)
  | slot (tile slot : Nat) (kslot : Option Nat)
deriving DecidableEq, Repr

/-- A reclaim in progress (R66): the caller and the tiles whose core or steward has yet to acknowledge. -/
structure Reclaim where
  caller : Caller
  waiting : List Nat
  waitingStw : List Nat
deriving DecidableEq, Repr

/-- A CT entry (Table 3.3) with the partition that holds it, the translation context recorded at creation (R263), the
reclaim in progress. -/
structure CtEntry where
  state : CtState
  base : Nat
  len : Nat
  hallmark : Nat
  tokOut : Nat
  tokLost : Nat
  maxr : Rights
  crgt : Rights
  laopen : Bool
  recl : Option Reclaim
  owner : Place
  ownk : Nat
  kv : Bool
  kslot : Nat
  lrs : Assoc Place
  part : Nat
  xlat : Xlat
deriving DecidableEq, Repr

/-! ## Partitions and virtual functions -/

/-- A registered image (R87): its place in the image store, the header's values, the channel bindings, whether the
handle is released, its sealed buffer. -/
structure Image where
  base : Nat
  len : Nat
  codeOff : Nat
  codeLen : Nat
  constOff : Nat
  constLen : Nat
  dataOff : Nat
  dataLen : Nat
  stwOff : Nat
  stwLen : Nat
  trapEnt : Nat
  nretry : Nat
  polTask : Nat
  polGrp : Nat
  polKern : Nat
  wh : Nat
  nview : Nat
  nring : Nat
  nacc : Nat
  nomx : Bool
  det : Bool
  chans : List (Nat × Chan)
  released : Bool
deriving DecidableEq, Repr

/-- How far a retirement has come (R437). -/
inductive Retire where
  | no
  | stopping (code sub : Nat) (killed : Bool) (left : Nat)
  /-- killed by a VF reset: no completion record (R446) -/
  | withdrawn
deriving DecidableEq, Repr

/-- The fields of a launch record that the run of a kernel needs (Table 4.5). -/
structure LaunchRec where
  rootent : Nat
  ilen : Nat
  ibase : Nat
  dslot : Nat
  arglen : Nat
  argva : Nat
  qckpt : Nat
  rchan : Nat
  roff : Nat
  ctarget : Nat
  cidx : Nat
  coff : Nat
  datlen : Nat
  datva : Nat
  imgh : Nat
  rbv : Bool
  ckpt : Bool
  skip : Bool
  prio : Nat
deriving DecidableEq, Repr

/-- A kernel in a queue slot (R83, R89, R90). `tiles` are its usable tiles in rank order; `interval` all of them. `bias`
applies from the cycle after `biasAt` on, `biasOld` up to then (R125). -/
structure Kernel where
  image : Nat
  lrec : LaunchRec
  supv : Bool
  vf : Nat
  queue : Nat
  index : Nat
  interval : List Nat
  tiles : List Nat
  bias : Int
  biasOld : Int
  biasAt : Nat
  nfault : Nat
  xlat : Xlat
  retire : Retire
  compTile : Nat
deriving DecidableEq, Repr

/-- A completion record that waits for room (R435). -/
structure PendingRec where
  kind : Nat
  code : Nat
  sub : Nat
  left : Nat
  qckpt : Nat
  nfault : Nat
  result : Nat
  index : Nat
  ckpt : Option Nat
deriving DecidableEq, Repr

/-- A queue slot: the queue that holds it, its descriptor as read (Table 4.4), the kernel, a launch that waits at step
3 of R89, a record that waits for the completion queue, whether the queue stands at a launch boundary (R83). `queue` is 64 when a VF
reset took the slot from its queue and its kernel is still being stopped (R446). -/
structure QSlot where
  vf : Nat
  queue : Nat
  qva : Nat
  qlog2 : Nat
  nopre : Bool
  supv : Bool
  ckva : Nat
  kernel : Option Kernel
  waitingLaunch : Option Kernel
  pending : Option PendingRec
  boundary : Bool
deriving DecidableEq, Repr

/-- A tenant's policy (Table 5.3): what the Assay root checks commands by, the 256 bytes of the body, its measurement (R102). -/
structure PolicyBody where
  minrate : Nat
  relok : Bool
  s2alias : Bool
  reqreplay : Bool
  reqshz : Bool
  maxevict : Nat
  maxvf : Nat
  nchhi : Nat
  nchlo : Nat
  plenhi : Nat
  plenlo : Nat
  cmdmask : Nat
  body : List Byte
  measurement : List Byte
deriving DecidableEq, Repr

/-- The partition record (Table 4.2) and the channel list: its entries 0 to NCH - 1, and the bytes behind them as given (R75). -/
structure PartRec where
  islen : Nat
  isoff : Nat
  tstarv : Nat
  pnum : Nat
  vfmask : Nat
  wsmask : Nat
  nch : Nat
  shz : Bool
  ppol : Nat
  plen : Nat
  pbase : Nat
  chans : List Nat
  rest : List Nat
deriving DecidableEq, Repr

/-- The state of a partition (R105). -/
inductive PState where
  | active | paused | evicted
deriving DecidableEq, Repr

/-- Why a halt was started (R438). -/
inductive HaltFor where
  | pause | evict (relhbm : Bool) (len : Nat) | halt | contain | replay
deriving DecidableEq, Repr

/-- A fabric MMU entry (Table 18.2). -/
structure FmmuEntry where
  poff : Nat
  foff : Nat
  spart : Nat
  schip : Nat
  log2 : Nat
deriving DecidableEq, Repr

/-- A valid stage-two leaf or block as its tables give it (R264, R265): the VF, the guest frame, the page size and the
partition offset. -/
structure S2Entry where
  vf : Nat
  gpa : Nat
  log2 : Nat
  poff : Nat
deriving DecidableEq, Repr

/-- An invalidation that has not been acknowledged by every agent (R277): a TLBI or an unmapping, its range and scope,
and what happens at its end. -/
structure Inval where
  s2 : Bool
  vf : Option Nat
  asid : Option Nat
  base : Nat
  len : Nat
  waiting : List Nat
  notify : Option (Nat × Nat)
deriving DecidableEq, Repr

/-- The fault log of a partition (R428). -/
structure FaultLog where
  base : Option Nat
  k : Nat
  head : Nat
  tail : Nat
  overflow : Nat
deriving DecidableEq, Repr

/-- A capability in the supervisor hold (R94): the capability and its header word. -/
structure HeldCap where
  cap : Cap
  hdr : Word
deriving DecidableEq, Repr

/-- The sealed state of an evicted partition (R109, R441), as it stood: its placement, its tiles and CT entries under their
old places, its memory, the packets that waited at its tiles. -/
structure Sealed where
  prec : PartRec
  tiles : Assoc Tile
  cts : Assoc CtEntry
  mem : Memory
  held : List Packet
deriving DecidableEq, Repr

/-- What the fabric interface keeps for a partition's supervisor (R94, R95, R428, R429). `recover` names the CT entry of the
BUF.RECOVER that the management agent is carrying out. -/
structure Supv where
  recv : Option (Nat × Nat)
  hold : List HeldCap
  mgmt : Option (Nat × Nat)
  requests : List Packet
  recover : Option Nat
  flog : FaultLog
  resident : Option Nat
deriving DecidableEq, Repr

/-- Management counters (R383, R396, R447): aborted speculations by subcode, packets discarded, errors that a scrub found, corrected
and not. -/
structure MgmtCounts where
  aborts : Assoc Nat
  discarded : Nat
  scrubbed : Nat
  poisoned : Nat
deriving DecidableEq, Repr

/-- A partition (R75, R105). `replay` when a REPLAY is due at the end of its halt (R445). `s2roots` has the partition offset of
the stage-two root of each VF that has one, `s2tabs` the VF and the partition offset of every stage-two table in the image
store (R264). `since` is the cycle in which it last became ACTIVE (R460). -/
structure Part where
  prec : PartRec
  handle : Word
  policy : PolicyBody
  state : PState
  halt : Option HaltFor
  replay : Bool
  epoch : Nat
  evictions : Nat
  keyGen : Nat
  imageLog : List Byte
  images : Assoc Image
  nextImage : Nat
  qslots : Assoc QSlot
  supv : Supv
  s2roots : Assoc Nat
  s2tabs : List (Nat × Nat)
  fmmu : Assoc FmmuEntry
  invq : List Inval
  xrecs : Assoc Nat
  counts : MgmtCounts
  box : Option Sealed
  relHbm : Bool
  since : Nat
deriving DecidableEq, Repr

/-- A page request (R271, R272): its tag, the 512 KiB guest page, ACC. -/
structure PageReq where
  tag : Nat
  gpa : Nat
  acc : Nat
deriving DecidableEq, Repr

/-- A virtual function (Table 4.1): registers, descriptors' HEAD and TAIL while a queue has no slot are in memory;
latched notifies carry the TAIL, the cycle and whether starvation was reported. -/
structure Vf where
  qtbase : Nat
  qcount : Nat
  qerr : Nat
  heads : Assoc Nat
  tails : Assoc Nat
  pend : List (Nat × Nat × Bool)
  prq : List PageReq
  prqWaiting : List PageReq
  nextTag : Nat
  ide : Bool
  errs : List Nat
deriving DecidableEq, Repr

/-! ## Fabric -/

/-- The state of a reduction slot (R410). -/
inductive SlotState where
  | free | opened | done
deriving DecidableEq, Repr

/-- A reduction slot (R410, R411). -/
structure RedSlot where
  state : SlotState
  part : Nat
  handle : Word
  op : Nat
  fmt : Nat
  count : Nat
  deadline : Nat
  present : Nat
  xa : Xa
  run : RunVal
  nanidx : Option Nat
  dests : Assoc (RecordDest × Place)
  closing : Bool
  doneWindow : Nat
  record : Option (Word × Word × Word)
deriving DecidableEq, Repr

/-- What an outstanding transfer completes (Table 18.3): a post, COLL or COLLOPEN, a held access, a packet of a move engine, the
grant of ring slots (R483), a home's answer; or what is awaited: an AOPR result (R406), the grant that a request for slots gets
(R483). -/
inductive TransferFor where
  | post | coll | access | engine | grant | reply | result | granted
deriving DecidableEq, Repr

/-- A request of another chip for a buffer of space 0x1, which its home performs under fabric addresses (R401, R407): the request, the
partition of the buffer, the bytes read so far, the pieces that are left with what they write. -/
structure Relay where
  pkt : Packet
  part : Nat
  got : List Byte
  left : List (Nat × Option (List Byte) × Nat)
deriving DecidableEq, Repr

/-- An outstanding cross-chip transfer (R404): its number, stamp, generation, port, whether it has left the chip, whether a
condition of PEERLOST has held at some moment, the packet. -/
structure Transfer where
  id : Nat
  stamp : Nat
  gen : Nat
  port : Nat
  sent : Bool
  lost : Bool
  pkt : Packet
  kind : TransferFor
deriving DecidableEq, Repr

/-- A token bucket of a partition and port (R408): its rate in bytes per microsecond, and in units of 1/1400 byte its tokens
at cycle `since` and what it has lost above its depth since the last boundary (R409). -/
structure Bucket where
  rate : Nat
  tokens : Nat
  spill : Nat
  since : Nat
deriving DecidableEq, Repr

/-- The fabric interface (R398 to R422). `flipped` when FLIPWIN has been reached, `retired` when the old table has retired (R400);
`unsync` while the chip is unsynchronized, with the first window from which it may resume (R405); `seqs` has the next sequence
number of each chip and network (R396); `pooledAt` is the last boundary of R409 that has been taken; `opened` has the
contributions whose records have not arrived (R420), `relays` the requests that a home is performing elsewhere, by the number of its own
request (R401). -/
structure Fabric where
  rtab : Assoc (BitVec 32)
  flipwin : Nat
  gencur : Bool
  flipped : Bool
  retired : Bool
  portsUp : BitVec 17
  pools : Assoc (Nat × Nat)
  wlen : Nat
  skew : Nat
  unsync : Option Nat
  out : List Packet
  transfers : List Transfer
  nextId : Nat
  seqs : Assoc Nat
  buckets : Assoc Bucket
  pooledAt : Nat
  slots : Assoc RedSlot
  discarded : Nat
  base : Nat
  opened : List (Word × Nat × Nat)
  relays : Assoc Relay
deriving DecidableEq, Repr

/-! ## Assay root and module -/

/-- The mailbox registers (Table 5.1), and whether the operation is under way (a halt or an invalidation that it
awaits). -/
structure Mailbox where
  addr : Word
  len : Nat
  busy : Bool
  started : Bool
  code : Nat
  sub : Nat
  res : Word
  seq : Nat
  err : Nat
deriving DecidableEq, Repr

/-- An SPDM session (R107): the messages that opened it, the handle and VF proven in it, if any. -/
structure Session where
  transcript : List Byte
  proven : Option (Word × Nat)
deriving DecidableEq, Repr

/-- The Assay root (R98, R100, R107, R113). `hostOut` is what the last operation or read handed to the host. -/
structure Assay where
  box : Mailbox
  hostLog : Assoc (List Byte)
  hltail : Nat
  hlhead : Nat
  scrub : Nat
  sessions : Assoc Session
  hostOut : List Byte
  drawn : List Word
deriving DecidableEq, Repr

/-- A conflict probe that has not been acknowledged by every reader (R386): its number, the CT entry of the buffer, the writing
tile, the home, the line, the readers whose acknowledgement is out. -/
structure Probe where
  id : Nat
  key : Nat
  writer : Nat
  home : Nat
  line : Nat
  waiting : List Place
deriving DecidableEq, Repr

/-- Where the turn stands: the tile, the context slot, the partition, and which of several subjects the event is about;
the passes a streaming instruction completes before its watchdog runs out; what the shadow lane finds in its passes, by their number;
it agrees in those that are not listed (R457). -/
structure Cur where
  tile : Nat
  ctx : Nat
  part : Nat
  sub : Nat
  quota : Nat
  lanes : Assoc Shadow
deriving DecidableEq, Repr

/-- Who acts in a turn. `upset` is a latent memory error that arises at a physical address (R455), uncorrectable or not; `accUpset`
one in an accumulator of the turn's tile (R240). -/
inductive Act where
  | core
  | steward
  | event (i : Instr)
  | upset (addr : Nat) (uncorrectable : Bool)
  | accUpset (acc : Nat) (uncorrectable : Bool)
deriving DecidableEq, Repr

/-- One turn: the cycles that pass before it, where it stands, who acts. -/
structure Turn where
  dt : Nat
  cur : Cur
  act : Act
deriving DecidableEq, Repr

/-- The C4096 module. `ecc` has the latent memory errors by their unit (`eccUnit`), uncorrectable or not, `poison` the poisoned
64-byte lines. `flushes` counts the flushes of health records: every tile's SEQ is that count beyond its stored one (R459).
`agenda`, `cur`, `free` and `keyGen` are the model's own (log 1). -/
structure State where
  cycle : Nat
  chip : Nat
  mem : Memory
  ecc : Assoc Bool
  poison : List Nat
  tiles : Assoc Tile
  cts : Assoc CtEntry
  l2 : Assoc (List TlbEntry)
  parts : Assoc Part
  vfs : Assoc Vf
  net : List Packet
  probes : List Probe
  nextProbe : Nat
  fabric : Fabric
  assay : Assay
  flushes : Nat
  agenda : List Turn
  cur : Cur
  free : Nat
  keyGen : Nat
deriving DecidableEq, Repr

/-- Why the machine stops with a fault. -/
inductive Fault where
  /-- A physical address outside the memories of Table 1.1 was reached. Raised by the memory operations. Safe: no
  statement is made of what such an access would do. -/
  | absentAddress
deriving DecidableEq, Repr

/-- Why a step is refused. -/
inductive Refusal where
  /-- An instruction that has no meaning yet. Raised by an arm of `exec`. Safe: the step says nothing. -/
  | notModelled (mnemonic : String)
deriving DecidableEq, Repr

/-! ## Reset (R100, R139, R403; values the spec leaves open are named in log 2) -/

/-- The registers of a context that no task has occupied. -/
def Regs.reset : Regs :=
  { x := [], p := 0, c := [], v := [], h := [], fpstat := 0, pc := 0, resume := .none }

/-- No task runs in the slot. -/
def Run.reset : Run :=
  { task := none, trapEntry := false, kept := .none, faultPc := 0, dispatched := 0, issueAt := 0, graceEnd := none, accs := [],
    reply := false, rings := [], nsig := 0, noRetry := false, prio := 0, rejected := [], stamp := 0, origin := none, placed := 0, first := 0, tries := 0 }

/-- No speculation. -/
def Spec.reset : Spec :=
  { on := false, bar := ⟨0, 0⟩, bidx := 0, phase := 0, snap := none, log := [], held := [], reads := [], looks := [],
    abort := 0, rolled := false }

/-- An empty matrix queue with flags and error state clear (R240). -/
def MxCtx.reset : MxCtx := { queue := [], flags := 0, err := none, credits := 0 }

/-- A free context slot. -/
def Context.reset : Context :=
  { regs := .reset, run := .reset, mx := .reset, mxRec := none, spec := .reset, hold := .none, answer := none, vecBusy := none, endHeld := none,
    shzLog := [], shzPosts := [] }

/-- No counts. -/
def Counts.reset : Counts :=
  { seq := 0, uecc := 0, cecc := 0, sreplay := 0, strikes := 0, vconf := 0, subm := [], lanem := [] }

/-- CSRs after a program load (R304, R305). -/
def Csrs.reset : Csrs := { mscratch := 0, mepc := 0, mcause := 0, mtval := 0, loadedAt := 0, minstret := 0 }

/-- A steward that runs the built-in movement program (R305). -/
def Steward.reset : Steward :=
  { x := [], pc := 0, scratch := [], k := [], csr := .reset, sleep := none, fault := none, ops := [], nextOp := 0,
    prog := .builtin, stopped := false }

/-- A tile without tasks. -/
def Tile.reset : Tile :=
  { core := { ctxs := [], disp := { held := none, next := 0, halting := false, halted := false, left := [] }, inj := [], accs := [],
              eng := { running := none, started := 0, slot := 0, count := 0, dead := false, ran := [] }, vcache := [], l1 := [],
              undo := [], history := [], overfill := 0, issue := ⟨7, 7, none, [], 0⟩, issued := 0, giving := [], resumed := 0 },
    loc := { recs := [], park := [], slots := [], rings := [], ctrs := [], land := [], landHold := [], landFreed := [], chans := [],
             bars := [], kicks := [], kickSeq := 0 },
    stw := .reset, svcache := [], stwHistory := [], stored := .reset, counts := .reset, killed := [] }

/-- A VF that no partition holds (R74). -/
def Vf.reset : Vf :=
  { qtbase := 0, qcount := 0, qerr := 0, heads := [], tails := [], pend := [], prq := [], prqWaiting := [],
    nextTag := 0, ide := false, errs := [0, 0, 0, 0, 0] }

/-- The fabric interface at reset: W is 4 µs (R403). -/
def Fabric.reset : Fabric :=
  { rtab := [], flipwin := 0, gencur := false, flipped := true, retired := true, portsUp := 0, pools := [], wlen := 4, skew := 0,
    unsync := none, out := [], transfers := [], nextId := 0, seqs := [], buckets := [], pooledAt := 0, slots := [], discarded := 0,
    base := 0, opened := [], relays := [] }

/-- The Assay root at reset: no session, an idle mailbox. -/
def Assay.reset : Assay :=
  { box := { addr := 0, len := 0, busy := false, started := false, code := 0, sub := 0, res := 0, seq := 0, err := 0 },
    hostLog := [], hltail := 0, hlhead := 0, scrub := 0, sessions := [], hostOut := [], drawn := [] }

/-- Nobody's turn. -/
def Cur.reset : Cur := { tile := 0, ctx := 0, part := 0, sub := 0, quota := 0, lanes := [] }

/-- The module right after reset: no partition, no handle, cycle 0, every volatile store empty. -/
def State.reset : State :=
  { cycle := 0, chip := 0, mem := [], ecc := [], poison := [], tiles := [], cts := [], l2 := [], parts := [], vfs := [],
    net := [], probes := [], nextProbe := 0, fabric := .reset, assay := .reset, flushes := 0, agenda := [], cur := .reset, free := 0,
    keyGen := 0 }

end Sys2Proof.Machine
end

