-- ==== Sys2Proof/Machine/Assoc.lean ====
section
/-!
DEFINITION. Maps with natural-number keys as lists of pairs in rising order, and the memory built on the same idea:
a list of bytes that differ from what an unlisted address reads as.
-/

namespace Sys2Proof.Machine

/-- The value of a key, if the map lists it. -/
def aget? {β : Type} : Assoc β → Nat → Option β
  | [], _ => none
  | (k, v) :: m, a => if a = k then some v else aget? m a

/-- The value of a key, or `d`. -/
def aget {β : Type} (m : Assoc β) (d : β) (a : Nat) : β := (aget? m a).getD d

/-- The map with key `a` set to `b`. -/
def aset {β : Type} : Assoc β → Nat → β → Assoc β
  | [], a, b => [(a, b)]
  | (k, v) :: m, a, b =>
    if a < k then (a, b) :: (k, v) :: m
    else if a = k then (a, b) :: m
    else (k, v) :: aset m a b

/-- The map without key `a`. -/
def aerase {β : Type} : Assoc β → Nat → Assoc β
  | [], _ => []
  | (k, v) :: m, a => if a = k then m else (k, v) :: aerase m a

/-- The map with key `a` changed by `f`, starting from `d`. -/
def aalter {β : Type} (m : Assoc β) (d : β) (a : Nat) (f : β → β) : Assoc β := aset m a (f (aget m d a))

/-- Every value changed by `f`. -/
def amap {β γ : Type} (m : Assoc β) (f : Nat → β → γ) : Assoc γ := m.map fun p => (p.1, f p.1 p.2)

/-- The first key of a list of candidates that the map does not list. -/
def freeKey {β : Type} (m : Assoc β) (candidates : List Nat) : Option Nat :=
  candidates.find? fun k => (aget? m k).isNone

/-! ## Memory -/

/-- HBM stands below 2^39 (256 channels of 2 GiB, R9). -/
def isHbm (a : Nat) : Bool := a < 2 ^ 39

/-- What a byte that nothing has written reads as: 0 in on-chip memories, which are cleared whenever they enter a
partition (R106, R444); no value in HBM (R106). -/
def unlisted (a : Nat) : Option Byte := if isHbm a then none else some 0

/-- The byte at `a`, if the memory has a value for it. -/
def memGet? (m : Memory) (a : Nat) : Option Byte := (aget? m a).orElse fun _ => unlisted a

/-- The memory with byte `b` at `a`, in canonical form. -/
def memSet (m : Memory) (a : Nat) (b : Byte) : Memory :=
  if unlisted a = some b then aerase m a else aset m a b

/-- The memory with `bytes` from `a` on. -/
def memSetBytes (m : Memory) (a : Nat) : List Byte → Memory
  | [] => m
  | b :: bs => memSetBytes (memSet m a b) (a + 1) bs

/-- The keys of a list of pairs rise strictly, above `lo`. -/
def risesFrom {β : Type} : Option Nat → List (Nat × β) → Bool
  | _, [] => true
  | none, (k, _) :: m => risesFrom (some k) m
  | some l, (k, _) :: m => l < k && risesFrom (some k) m

/-- The canonical form of a memory: rising addresses, no byte equal to what an unlisted address reads as. -/
def Memory.wf (m : Memory) : Bool := risesFrom none m && m.all fun c => unlisted c.1 != some c.2

/-- The little-endian value of a list of bytes (R2). -/
def leNat : List Byte → Nat
  | [] => 0
  | b :: bs => b.toNat + 256 * leNat bs

/-- `n` bytes of a value, little-endian (R2). -/
def leBytes : Nat → Nat → List Byte
  | 0, _ => []
  | n + 1, v => BitVec.ofNat 8 v :: leBytes n (v / 256)

/-- The numbers 0 to n - 1. -/
def upto (n : Nat) : List Nat := List.range n

end Sys2Proof.Machine
end

