-- ==== Sys2Proof/Machine/Numerics.lean ====
section
/-!
DEFINITION. Number formats and arithmetic (spec/08): exact values, rounding once (R158), conversions (R162, R163),
the exact accumulator (R164 to R166) and the special functions (R172).
-/

namespace Sys2Proof.Machine

/-- The sticky flags of Table 8.3, bits [5:0] of %fpstat. -/
abbrev Flags := BitVec 6

/-- INVALID. -/
def fInvalid : Flags := 1
/-- DIVZERO. -/
def fDivzero : Flags := 2
/-- OVERFLOW. -/
def fOverflow : Flags := 4
/-- UNDERFLOW. -/
def fUnderflow : Flags := 8
/-- INEXACT. -/
def fInexact : Flags := 16
/-- INVALID_TERN. -/
def fTern : Flags := 32

/-- The rounding modes (R157). -/
inductive Mode where
  | rne | rtz | rup | rdn
deriving DecidableEq, Repr

/-- RMODE of %fpstat (R157). -/
def Mode.ofRmode (n : Nat) : Mode :=
  match n % 4 with
  | 0 => .rne | 1 => .rtz | 2 => .rup | _ => .rdn

/-- RMODE's code of a mode. -/
def Mode.code : Mode → Nat
  | .rne => 0 | .rtz => 1 | .rup => 2 | .rdn => 3

/-- Mode(I): the RND hint, or RMODE (R149, R157). -/
def modeOf (rnd : BitVec 2) (fpstat : Word) : Mode :=
  match rnd.toNat with
  | 1 => .rne | 2 => .rtz | 3 => .rup
  | _ => .ofRmode (fpstat.toNat / 2 ^ 8)

/-- An exact value: a NaN, an infinity, or ±m × 2^e. -/
inductive Num where
  | nan (signalling : Bool)
  | inf (neg : Bool)
  | fin (neg : Bool) (m : Nat) (e : Int)
deriving DecidableEq, Repr

/-- The value of an integer. -/
def Num.ofInt (i : Int) : Num := .fin (decide (i < 0)) i.natAbs 0

/-- A result pattern with the flags it raises. -/
structure Res where
  bits : Nat
  fl : Flags
deriving DecidableEq, Repr

/-- A floating-point format (R151, Table 8.1): precision, bias, width. -/
structure Fmt where
  p : Nat
  bias : Nat
  w : Nat
deriving DecidableEq, Repr

/-- The format of a floating-point type; CF32's parts are FP32. -/
def Ty.fmt : Ty → Fmt
  | .e4m3 => ⟨4, 7, 8⟩
  | .e5m2 => ⟨3, 15, 8⟩
  | .f16 => ⟨11, 15, 16⟩
  | .bf16 => ⟨8, 127, 16⟩
  | .f64 => ⟨53, 1023, 64⟩
  | _ => ⟨24, 127, 32⟩

/-- The largest significand: 2^p - 1, and 2^p - 2 for E4M3, whose top encoding is its NaN (R151). -/
def maxMant (t : Ty) : Nat := if t = .e4m3 then 14 else 2 ^ (Ty.fmt t).p - 1

/-- The largest exponent field of a finite value. -/
def maxField (t : Ty) : Nat := if t = .e4m3 then 15 else 2 ^ ((Ty.fmt t).w - (Ty.fmt t).p) - 2

/-- The sign bit of a format, set or not. -/
def signBits (t : Ty) (neg : Bool) : Nat := if neg then 2 ^ ((Ty.fmt t).w - 1) else 0

/-- CanonNaN(t) (R149, Table 8.1). -/
def canonNaN : Ty → Nat
  | .e4m3 => 0x7F
  | .e5m2 => 0x7E
  | .f16 => 0x7E00
  | .bf16 => 0x7FC0
  | .f64 => 0x7FF8000000000000
  | .e8m0 => 0xFF
  | _ => 0x7FC00000

/-- ±MaxFinite(t). -/
def maxFiniteBits (t : Ty) (neg : Bool) : Nat :=
  signBits t neg + maxField t * 2 ^ ((Ty.fmt t).p - 1) + (maxMant t - 2 ^ ((Ty.fmt t).p - 1))

/-- ±∞ of a format that has infinities. -/
def infBits (t : Ty) (neg : Bool) : Nat :=
  signBits t neg + (2 ^ ((Ty.fmt t).w - (Ty.fmt t).p) - 1) * 2 ^ ((Ty.fmt t).p - 1)

/-- The value of a floating-point pattern (R151). -/
def decodeFloat (t : Ty) (b : Nat) : Num :=
  let f := Ty.fmt t
  let neg := bit b (f.w - 1)
  let ex := field b (f.p - 1) (f.w - f.p)
  let ma := field b 0 (f.p - 1)
  if t = .e4m3 then
    if ex = 15 ∧ ma = 7 then .nan false
    else if ex = 0 then .fin neg ma (-9)
    else .fin neg (8 + ma) (Int.ofNat ex - 10)
  else if ex = 2 ^ (f.w - f.p) - 1 then
    if ma = 0 then .inf neg else .nan (ma < 2 ^ (f.p - 2))
  else if ex = 0 then .fin neg ma (1 - Int.ofNat f.bias - (Int.ofNat f.p - 1))
  else .fin neg (2 ^ (f.p - 1) + ma) (Int.ofNat ex - Int.ofNat f.bias - (Int.ofNat f.p - 1))

/-- The integer that a pattern of an integer type stands for (R173). -/
def intIn (t : Ty) (b : Nat) : Int :=
  if t.isSignedInt then signExtend b t.width else Int.ofNat (zeroExtend b t.width)

/-- The value of an element pattern of any type but CF32 and T5. -/
def decodeNum (t : Ty) (b : Nat) : Num :=
  if t.isInt then .ofInt (intIn t b)
  else if t = .e8m0 then (if b % 256 = 255 then .nan false else .fin false 1 (Int.ofNat (b % 256) - 127))
  else decodeFloat t b

/-- Whether a magnitude `q` plus a remainder `rem` of `2^s` rounds up in a mode (R149 RoundToInteger). -/
def roundsUp (m : Mode) (neg : Bool) (q rem s : Nat) : Bool :=
  match m with
  | .rne => 2 * rem > 2 ^ s || (2 * rem == 2 ^ s && q % 2 == 1)
  | .rtz => false
  | .rup => rem != 0 && !neg
  | .rdn => rem != 0 && neg

/-- RoundToInteger of m × 2^e (R149): the magnitude and whether it changed. -/
def roundInt (mode : Mode) (neg : Bool) (m : Nat) (e : Int) : Nat × Bool :=
  if 0 ≤ e then (m * 2 ^ e.toNat, false)
  else
    let s := (-e).toNat
    let q := m / 2 ^ s
    let rem := m % 2 ^ s
    (if roundsUp mode neg q rem s then q + 1 else q, rem != 0)

/-- Overflowed(t, s, m, sat) (R159, Table 8.2). -/
def overflowed (t : Ty) (neg : Bool) (m : Mode) (sat : Bool) : Nat :=
  if sat then maxFiniteBits t neg
  else
    let toInf := match m with
      | .rne => true
      | .rtz => false
      | .rup => !neg
      | .rdn => neg
    if toInf then (if t = .e4m3 then canonNaN t else infBits t neg) else maxFiniteBits t neg

/-- Infinite(t, s, sat) (R159). -/
def infinite (t : Ty) (neg : Bool) (sat : Bool) : Res :=
  if t = .e4m3 then ⟨if sat then maxFiniteBits t neg else canonNaN t, fInvalid⟩ else ⟨infBits t neg, 0⟩

/-- Round(v, t, m, sat) (R158). -/
def round (v : Num) (t : Ty) (mode : Mode) (sat : Bool) : Res :=
  match v with
  | .nan _ => ⟨canonNaN t, 0⟩
  | .inf neg => infinite t neg sat
  | .fin neg m e =>
    if m = 0 then ⟨signBits t neg, 0⟩
    else
      let f := Ty.fmt t
      let emin : Int := 1 - Int.ofNat f.bias
      let ex : Int := max (Int.ofNat (Nat.log2 m) + e) emin
      let u : Int := ex - Int.ofNat f.p + 1
      let umin : Int := emin - Int.ofNat f.p + 1
      let r := roundInt mode neg m (e - u)
      let inexact : Flags := if r.2 then fInexact else 0
      let umax : Int := Int.ofNat (maxField t) - Int.ofNat f.bias - Int.ofNat f.p + 1
      if r.1 * 2 ^ (u - umin).toNat > maxMant t * 2 ^ (umax - umin).toNat then
        ⟨overflowed t neg mode sat, inexact ||| fOverflow ||| fInexact⟩
      else
        let under : Flags := if u = umin ∧ r.1 < 2 ^ (f.p - 1) ∧ r.2 then fUnderflow else 0
        ⟨signBits t neg + (u - umin).toNat * 2 ^ (f.p - 1) + r.1, inexact ||| under⟩

/-! ## Exact operations (R155, R156) -/

/-- INVALID when any of the operands is a signalling NaN. -/
def sigFlag (xs : List Num) : Flags :=
  if xs.any (fun x => x == .nan true) then fInvalid else 0

/-- Whether a value is a NaN. -/
def Num.isNan : Num → Bool
  | .nan _ => true
  | _ => false

/-- Whether a value is a zero. -/
def Num.isZero : Num → Bool
  | .fin _ m _ => m == 0
  | _ => false

/-- The sign of a value; a NaN counts as positive. -/
def Num.neg : Num → Bool
  | .nan _ => false
  | .inf s => s
  | .fin s _ _ => s

/-- The value with its sign changed. -/
def Num.flip : Num → Num
  | .nan s => .nan s
  | .inf s => .inf (!s)
  | .fin s m e => .fin (!s) m e

/-- The magnitude of a value. -/
def Num.abs : Num → Num
  | .nan s => .nan s
  | .inf _ => .inf false
  | .fin _ m e => .fin false m e

/-- A signed significand at exponent `e0`, which is at most the value's own. -/
def Num.scaled (x : Num) (e0 : Int) : Int :=
  match x with
  | .fin s m e => (if s then -1 else 1) * (Int.ofNat m * 2 ^ (e - e0).toNat)
  | _ => 0

/-- The exponent of a finite value. -/
def Num.exp : Num → Int
  | .fin _ _ e => e
  | _ => 0

/-- The exact sum of two finite values (R156 for the sign of a zero). -/
def addFin (mode : Mode) (a b : Num) : Num :=
  let e0 := min a.exp b.exp
  let s := a.scaled e0 + b.scaled e0
  if s = 0 then
    if a.isZero ∧ b.isZero ∧ a.neg = b.neg then .fin a.neg 0 0 else .fin (mode == .rdn) 0 0
  else .fin (decide (s < 0)) s.natAbs e0

/-- The exact sum, with the flags of the operation (R155). Signalling operands are flagged by the caller. -/
def addNum (mode : Mode) (a b : Num) : Num × Flags :=
  match a, b with
  | .nan _, _ => (.nan false, 0)
  | _, .nan _ => (.nan false, 0)
  | .inf s, .inf s' => if s = s' then (.inf s, 0) else (.nan false, fInvalid)
  | .inf s, _ => (.inf s, 0)
  | _, .inf s => (.inf s, 0)
  | a, b => (addFin mode a b, 0)

/-- The exact difference (R156): a zero that it gives is +0, or −0 when rounding downward, whatever zeros its operands are. -/
def subNum (mode : Mode) (a b : Num) : Num × Flags :=
  let r := addNum mode a b.flip
  (if r.1.isZero then .fin (mode == .rdn) 0 0 else r.1, r.2)

/-- The value is an infinity of a sign. -/
def Num.isInf (x : Num) (neg : Bool) : Bool := match x with | .inf s => s == neg | _ => false

/-- One exact expression of several terms, of which those marked are subtracted, with its flags (R155, R156, R169, R170).
Infinite terms of both signs are invalid, whatever else it holds. -/
def sumNums (mode : Mode) (ts : List (Bool × Num)) : Num × Flags :=
  let xs := ts.map fun t => if t.1 then t.2.flip else t.2
  let plus := xs.any fun x => x.isInf false
  let minus := xs.any fun x => x.isInf true
  if plus && minus then (.nan false, fInvalid)
  else if xs.any Num.isNan then (.nan false, 0)
  else if plus || minus then (.inf minus, 0)
  else
    let e0 := xs.foldl (fun e x => min e x.exp) ((xs.head?.map Num.exp).getD 0)
    let s : Int := (xs.map fun x => x.scaled e0).sum
    if s = 0 then
      if (ts.all fun t => !t.1 && t.2.isZero && t.2.neg) && !ts.isEmpty then (.fin true 0 0, 0)
      else if ts.all fun t => !t.1 && t.2.isZero && !t.2.neg then (.fin false 0 0, 0)
      else (.fin (mode == .rdn) 0 0, 0)
    else (.fin (decide (s < 0)) s.natAbs e0, 0)

/-- The exact product, with the flags of the operation. -/
def mulNum (a b : Num) : Num × Flags :=
  match a, b with
  | .nan _, _ => (.nan false, 0)
  | _, .nan _ => (.nan false, 0)
  | .inf s, .inf s' => (.inf (s != s'), 0)
  | .inf s, .fin s' m _ => if m = 0 then (.nan false, fInvalid) else (.inf (s != s'), 0)
  | .fin s m _, .inf s' => if m = 0 then (.nan false, fInvalid) else (.inf (s != s'), 0)
  | .fin s m e, .fin s' m' e' => (.fin (s != s') (m * m') (e + e'), 0)

/-- a × b + c, exact (R167); 0 × ∞ is invalid even when `c` is a NaN (R187). -/
def fmaNum (mode : Mode) (a b c : Num) : Num × Flags :=
  let p := mulNum a b
  let s := addNum mode p.1 c
  (s.1, p.2 ||| s.2)

/-- A magnitude with a sticky last bit: `q` units of 2^e and, when `rest` is set, something less than a unit more. -/
def sticky (neg : Bool) (q : Nat) (e : Int) (rest : Bool) : Num :=
  .fin neg (2 * q + boolNat rest) (e - 1)

/-- The quotient (R187): enough bits that one rounding is exact. -/
def divNum (a b : Num) : Num × Flags :=
  match a, b with
  | .nan _, _ => (.nan false, 0)
  | _, .nan _ => (.nan false, 0)
  | .inf _, .inf _ => (.nan false, fInvalid)
  | .inf s, .fin s' _ _ => (.inf (s != s'), 0)
  | .fin s _ _, .inf s' => (.fin (s != s') 0 0, 0)
  | .fin s m e, .fin s' m' e' =>
    if m' = 0 then (if m = 0 then (.nan false, fInvalid) else (.inf (s != s'), fDivzero))
    else if m = 0 then (.fin (s != s') 0 0, 0)
    else
      let k := Nat.log2 m' + 80
      (sticky (s != s') (m * 2 ^ k / m') (e - e' - Int.ofNat k) (m * 2 ^ k % m' != 0), 0)

/-- The integer square root by binary digits, from bit `fuel - 1` down. -/
def isqrtFrom (n : Nat) : Nat → Nat → Nat
  | 0, acc => acc
  | fuel + 1, acc =>
    let c := acc + 2 ^ fuel
    isqrtFrom n fuel (if c * c ≤ n then c else acc)

/-- The integer square root. -/
def isqrt (n : Nat) : Nat := isqrtFrom n (Nat.log2 n / 2 + 1) 0

/-- The square root (R187): enough bits that one rounding is exact. -/
def sqrtNum (a : Num) : Num × Flags :=
  match a with
  | .nan _ => (.nan false, 0)
  | .inf s => if s then (.nan false, fInvalid) else (.inf false, 0)
  | .fin s m e =>
    if m = 0 then (.fin s 0 0, 0)
    else if s then (.nan false, fInvalid)
    else
      let m1 := if e % 2 = 0 then m else 2 * m
      let e1 := if e % 2 = 0 then e else e - 1
      let n := m1 * 2 ^ 160
      let q := isqrt n
      (sticky false q (e1 / 2 - 80) (q * q != n), 0)

/-- 1/√x (R172, Table 8.6). -/
def rsqrtNum (a : Num) : Num × Flags :=
  match a with
  | .nan _ => (.nan false, 0)
  | .inf s => if s then (.nan false, fInvalid) else (.fin false 0 0, 0)
  | .fin s m e =>
    if m = 0 then (.inf s, fDivzero)
    else if s then (.nan false, fInvalid)
    else
      let m1 := if e % 2 = 0 then m else 2 * m
      let e1 := if e % 2 = 0 then e else e - 1
      let k := Nat.log2 m1 + 80
      let q := isqrt (2 ^ (2 * k) / m1)
      (sticky false q (-(e1 / 2) - Int.ofNat k) (q * q * m1 != 2 ^ (2 * k)), 0)

/-! ## Comparison, minimum and maximum -/

/-- a < b for values that are not NaN, zeros of either sign being equal. -/
def ltNum (a b : Num) : Bool :=
  match a, b with
  | .nan _, _ => false
  | _, .nan _ => false
  | .inf s, .inf s' => s && !s'
  | .inf s, _ => s
  | _, .inf s => !s
  | a, b => let e0 := min a.exp b.exp; decide (a.scaled e0 < b.scaled e0)

/-- a = b for values that are not NaN, zeros of either sign being equal. -/
def eqNum (a b : Num) : Bool := !a.isNan && !b.isNan && !ltNum a b && !ltNum b a

/-- a < b with −0 below +0 (R156). -/
def ltZ (a b : Num) : Bool := ltNum a b || (a.isZero && b.isZero && a.neg && !b.neg)

/-- A value that keeps its pattern: the pattern where it is not a NaN, the canonical NaN where it is (R155). -/
def keep (t : Ty) (b : Nat) : Nat := if (decodeNum t b).isNan then canonNaN t else b % 2 ^ t.width

/-- MIN or MAX of two patterns (R156, R188, R213): NaN when either is a NaN. -/
def minMax (t : Ty) (max : Bool) (a b : Nat) : Res :=
  let x := decodeNum t a
  let y := decodeNum t b
  if x.isNan || y.isNan then ⟨canonNaN t, sigFlag [x, y]⟩
  else if max then ⟨if ltZ x y then b % 2 ^ t.width else a % 2 ^ t.width, 0⟩
  else ⟨if ltZ y x then b % 2 ^ t.width else a % 2 ^ t.width, 0⟩

/-- Whether a condition holds of two values (Table 10.6). -/
def condHolds (c : Cond) (x y : Num) : Bool :=
  let un := x.isNan || y.isNan
  match c with
  | .eq => eqNum x y
  | .ne => !eqNum x y
  | .lt => ltNum x y
  | .le => !un && !ltNum y x
  | .gt => ltNum y x
  | .ge => !un && !ltNum x y
  | .un => un
  | .ord => !un

/-- The flags of a comparison (R189, R218): any NaN for the orderings, a signalling NaN for the rest. -/
def condFlags (c : Cond) (x y : Num) : Flags :=
  match c with
  | .lt | .le | .gt | .ge => if x.isNan || y.isNan then fInvalid else 0
  | _ => sigFlag [x, y]

/-! ## Integers -/

/-- The least value of an integer type. -/
def tyMin (t : Ty) : Int := if t.isSignedInt then -(2 ^ (t.width - 1)) else 0

/-- The greatest value of an integer type. -/
def tyMax (t : Ty) : Int := if t.isSignedInt then 2 ^ (t.width - 1) - 1 else 2 ^ t.width - 1

/-- Wrap(v, t) (R149). -/
def wrapInt (v : Int) (t : Ty) : Int := intIn t (wrapNat v t.width)

/-- Saturate(v, t) (R149). -/
def saturate (v : Int) (t : Ty) : Int := if v < tyMin t then tyMin t else if tyMax t < v then tyMax t else v

/-- An integer result narrowed once (R173, R211), as an integer. -/
def narrowInt (v : Int) (t : Ty) (sat : Bool) : Int := if sat then saturate v t else wrapInt v t

/-- An integer result narrowed once, as the pattern of an element. -/
def narrowBits (v : Int) (t : Ty) (sat : Bool) : Nat := wrapNat (narrowInt v t sat) t.width

/-! ## Conversions (Table 8.4) -/

/-- Conversion of a floating-point value to an integer type (R162). -/
def toInt (v : Num) (t : Ty) (mode : Mode) : Int × Flags :=
  match v with
  | .nan _ => (0, fInvalid)
  | .inf s => (if s then tyMin t else tyMax t, fInvalid)
  | .fin s m e =>
    let r := roundInt mode s m e
    let i : Int := if s then -Int.ofNat r.1 else Int.ofNat r.1
    if i < tyMin t then (tyMin t, fInvalid)
    else if tyMax t < i then (tyMax t, fInvalid)
    else (i, if r.2 then fInexact else 0)

/-- Conversion to E8M0 (R163). -/
def toE8m0 (v : Num) : Res :=
  match v with
  | .nan _ => ⟨0xFF, fInvalid⟩
  | .inf _ => ⟨0xFF, fInvalid⟩
  | .fin _ m e =>
    if m = 0 then ⟨0, fUnderflow⟩
    else
      let k : Int := Int.ofNat (Nat.log2 m) + e + 127
      if k < 0 then ⟨0, fUnderflow ||| fInexact⟩
      else if 254 < k then ⟨0xFE, fOverflow ||| fInexact⟩
      else ⟨k.toNat, if m = 2 ^ Nat.log2 m then 0 else fInexact⟩

/-- Conversion of a value of type `src` to type `dst` (Table 8.4), for types other than CF32 and T5. From E8M0 to an integer type the table has
no row: the model converts as from floating point, and takes SAT without effect (log 92). -/
def convertNum (src dst : Ty) (v : Num) (i : Int) (mode : Mode) (sat : Bool) : Res :=
  if dst = .e8m0 then toE8m0 v
  else if dst.isInt then
    if src.isInt then ⟨narrowBits i dst sat, 0⟩
    else let r := toInt v dst mode; ⟨wrapNat r.1 dst.width, r.2⟩
  else let r := round v dst mode sat; ⟨r.bits, r.fl ||| sigFlag [v]⟩

/-- Conversion of an element pattern (R162, R163, R190): to the same floating-point type the pattern stays. -/
def convert (src dst : Ty) (b : Nat) (mode : Mode) (sat : Bool) : Res :=
  if src = dst ∧ src.isFloat then ⟨keep src b, sigFlag [decodeNum src b]⟩
  else convertNum src dst (decodeNum src b) (intIn src b) mode sat

/-- The trit of an integer (Table 8.4): −1, 0 and +1 convert, anything else gives 0 with INVALID. -/
def toTrit (i : Int) : Nat × Flags :=
  if i = 0 then (0, 0) else if i = 1 then (1, 0) else if i = -1 then (2, 0) else (0, fInvalid)

/-- The value of a trit digit (R153). -/
def tritVal (d : Nat) : Int := if d = 1 then 1 else if d = 2 then -1 else 0

/-- Digit `i` of a T5 byte (R153); a byte above 242 reads as zeros with INVALID_TERN. -/
def tritOf (b i : Nat) : Nat × Flags := if 242 < b then (0, fTern) else (b / 3 ^ i % 3, 0)

/-- A T5 byte with digit `i` replaced (R220); one above 242 has its other trits written as 0. -/
def setTrit (b i d : Nat) : Nat × Flags :=
  if 242 < b then (d * 3 ^ i, fTern) else (b - (b / 3 ^ i % 3) * 3 ^ i + d * 3 ^ i, 0)

/-- The class bit of FCLASS (R191). -/
def classOf (t : Ty) (b : Nat) : Nat :=
  match decodeFloat t b with
  | .nan s => if s then 8 else 9
  | .inf s => if s then 0 else 7
  | .fin s m _ =>
    if m = 0 then (if s then 3 else 4)
    else if m < 2 ^ ((Ty.fmt t).p - 1) then (if s then 2 else 5)
    else (if s then 1 else 6)

/-! ## The exact accumulator (R164 to R166) -/

/-- The empty accumulator. -/
def Xa.zero : Xa := ⟨0, false, false, false⟩

/-- VALUE modulo 2^320, read as signed. -/
def xaWrap (i : Int) : Int := signExtend (wrapNat i 320) 320

/-- XAdd(a, x) (R164). -/
def Xa.add (a : Xa) (x : Num) : Xa :=
  match x with
  | .nan _ => { a with nan := true }
  | .inf s => if s then { a with ninf := true } else { a with pinf := true }
  | .fin s m e => { a with sum := xaWrap (a.sum + (Num.fin s m e).scaled (-149)) }

/-- The value that an accumulator holds, with INVALID where it has none (R165). -/
def Xa.value (a : Xa) : Num × Flags :=
  if a.nan || (a.pinf && a.ninf) then (.nan false, fInvalid)
  else if a.pinf then (.inf false, 0)
  else if a.ninf then (.inf true, 0)
  else (.fin (decide (a.sum < 0)) a.sum.natAbs (-149), 0)

/-- The read-out into format t (R165), in RNE. -/
def Xa.read (a : Xa) (t : Ty) (sat : Bool) : Res :=
  let r := round a.value.1 t .rne sat
  ⟨r.bits, r.fl ||| a.value.2⟩

/-- The 64-byte image of an accumulator as a number (Table 8.4a). -/
def Xa.image (a : Xa) : Nat :=
  wrapNat a.sum 320 + boolNat a.pinf * 2 ^ 320 + boolNat a.ninf * 2 ^ 321 + boolNat a.nan * 2 ^ 322

/-- The accumulator of an image, unless a RES bit is set (R166). -/
def Xa.ofImage (v : Nat) : Option Xa :=
  if v / 2 ^ 323 = 0 then some ⟨signExtend v 320, bit v 322, bit v 320, bit v 321⟩ else none

/-! ## Special functions (R172): fixed-point enclosures, narrowed until both ends round alike -/

/-- Σ over i < fuel of the terms t, t × num / (den (i)), … cut at zero; `step i t` gives the next term. -/
def seriesSum (step : Nat → Int → Int) : Nat → Nat → Int → Int → Int
  | 0, _, _, acc => acc
  | fuel + 1, i, t, acc => if t = 0 then acc else seriesSum step fuel (i + 1) (step i t) (acc + t)

/-- ln 2 in units of 2^-P: Σ 1 / (k 2^k). -/
def ln2Fix (P : Nat) : Nat :=
  (List.range (P + 8)).foldl (fun acc k => acc + 2 ^ (P + 16) / ((k + 1) * 2 ^ (k + 1))) 0 / 2 ^ 16

/-- atan(1/n) in units of 2^-P. -/
def atanInv (P n : Nat) : Int :=
  (List.range (P / 4 + 8)).foldl
    (fun acc k => acc + (if k % 2 = 0 then 1 else -1) * Int.ofNat (2 ^ P / ((2 * k + 1) * n ^ (2 * k + 1)))) 0

/-- π in units of 2^-P (Machin's formula). -/
def piFix (P : Nat) : Nat := ((16 * atanInv (P + 16) 5 - 4 * atanInv (P + 16) 239) / 2 ^ 16).toNat

/-- exp(y) for y in units of 2^-P, 0 ≤ y < 1. -/
def expFix (P : Nat) (y : Nat) : Nat :=
  (seriesSum (fun i t => t * Int.ofNat y / 2 ^ P / Int.ofNat (i + 1)) (P + 8) 0 (2 ^ P) 0).toNat

/-- sin(y) for y in units of 2^-P, 0 ≤ y < 2. -/
def sinFix (P : Nat) (y : Nat) : Nat :=
  (seriesSum (fun i t => -(t * Int.ofNat y / 2 ^ P * Int.ofNat y / 2 ^ P) / Int.ofNat ((2 * i + 2) * (2 * i + 3)))
    (P + 8) 0 (Int.ofNat y) 0).toNat

/-- cos(y) for y in units of 2^-P, 0 ≤ y < 2. -/
def cosFix (P : Nat) (y : Nat) : Nat :=
  (seriesSum (fun i t => -(t * Int.ofNat y / 2 ^ P * Int.ofNat y / 2 ^ P) / Int.ofNat ((2 * i + 1) * (2 * i + 2)))
    (P + 8) 0 (2 ^ P) 0).toNat

/-- ln((1 + z)/(1 − z)) / 2 for z in units of 2^-P, 0 ≤ z ≤ 1/3. -/
def atanhFix (P : Nat) (z : Nat) : Nat :=
  (List.range (P / 3 + 8)).foldl
    (fun acc k => acc + z ^ (2 * k + 1) / 2 ^ (P * (2 * k)) / (2 * k + 1)) 0

/-- A value m × 2^e in units of 2^-P, rounded down. -/
def toFix (P : Nat) (m : Nat) (e : Int) : Nat :=
  if 0 ≤ e + Int.ofNat P then m * 2 ^ (e + Int.ofNat P).toNat else m / 2 ^ (-(e + Int.ofNat P)).toNat

/-- The first precision of the list at which both ends of the enclosure round alike (RNE). `f P` is the value in units
of 2^-(g P), to within 2^16 units. -/
def narrowing (t : Ty) (sat neg : Bool) (f : Nat → Nat × Int) : List Nat → Res
  | [] => ⟨canonNaN t, 0⟩
  | P :: ps =>
    let v := f P
    let lo := round (sticky neg (v.1 - 2 ^ 16) v.2 true) t .rne sat
    let hi := round (sticky neg (v.1 + 2 ^ 16) v.2 true) t .rne sat
    if lo = hi ∨ ps = [] then lo else narrowing t sat neg f ps

/-- The precisions tried. -/
def precisions : List Nat := [120, 240, 480]

/-- exp2 of m × 2^e (R172). -/
def exp2Fin (t : Ty) (sat neg : Bool) (m : Nat) (e : Int) : Res :=
  let whole := if 0 ≤ e then m * 2 ^ e.toNat else m / 2 ^ (-e).toNat
  let exact := 0 ≤ e || m % 2 ^ (-e).toNat == 0
  let k : Int := if neg then -Int.ofNat (min whole 5000) - (if exact then 0 else 1) else Int.ofNat (min whole 5000)
  if exact then round (.fin false 1 k) t .rne sat
  else
    let fr := m % 2 ^ (-e).toNat
    let fr' := if neg then 2 ^ (-e).toNat - fr else fr
    narrowing t sat false (fun P => (expFix P (toFix P fr' e * ln2Fix P / 2 ^ P), k - Int.ofNat P)) precisions

/-- log2 of m × 2^e, m not 0 (R172). -/
def log2Fin (t : Ty) (sat : Bool) (m : Nat) (e : Int) : Res :=
  let l := Nat.log2 m
  let k : Int := Int.ofNat l + e
  if m = 2 ^ l then round (.ofInt k) t .rne sat
  else
    let val (P : Nat) : Int :=
      let a := m * 2 ^ P / 2 ^ l
      let z := (a - 2 ^ P) * 2 ^ P / (a + 2 ^ P)
      k * 2 ^ P + Int.ofNat (2 * atanhFix P z * 2 ^ P / ln2Fix P)
    narrowing t sat (decide (val 240 < 0)) (fun P => ((val P).natAbs, -Int.ofNat P)) precisions

/-- sin 2πs or cos 2πs for s = m × 2^e below 1/4, as a magnitude (R172). A result whose exact value differs from ±1, ±1/2 or 0 but rounds
to it sets INEXACT: between the two sentences of R172 that is the model's choice (log 92). -/
def quarter (t : Ty) (sat neg cosine : Bool) (m : Nat) (e : Int) : Res :=
  let extra := (-(Int.ofNat (Nat.log2 m) + e)).toNat
  narrowing t sat neg
    (fun P0 =>
      let P := P0 + (if cosine then 0 else extra)
      let y := 2 * piFix P * toFix (P + 16) m e / 2 ^ (P + 16)
      (if cosine then cosFix P y else sinFix P y, -Int.ofNat P)) precisions

/-- sin 2πx (R172, Table 8.6). -/
def sinFin (t : Ty) (sat neg : Bool) (m : Nat) (e : Int) : Res :=
  if m = 0 then ⟨signBits t neg, 0⟩
  else if 0 ≤ e then ⟨signBits t neg, 0⟩
  else
    let d := 2 ^ (-e).toNat
    let r := m % d
    let q := 4 * r / d
    let s := 4 * r - q * d
    let flip := neg != decide (2 ≤ q)
    if s = 0 then
      if q % 2 = 0 then ⟨signBits t neg, 0⟩ else round (.fin flip 1 0) t .rne sat
    else if q % 2 = 0 then quarter t sat flip false s (e - 2)
    else quarter t sat flip true s (e - 2)

/-- cos 2πx (R172, Table 8.6). -/
def cosFin (t : Ty) (sat : Bool) (m : Nat) (e : Int) : Res :=
  if m = 0 ∨ 0 ≤ e then round (.ofInt 1) t .rne sat
  else
    let d := 2 ^ (-e).toNat
    let r := m % d
    let q := 4 * r / d
    let s := 4 * r - q * d
    let flip := q == 1 || q == 2
    if s = 0 then
      if q % 2 = 1 then ⟨0, 0⟩ else round (.fin flip 1 0) t .rne sat
    else if q % 2 = 0 then quarter t sat flip true s (e - 2)
    else quarter t sat flip false s (e - 2)

/-- The special functions of R229. -/
inductive SFn where
  | rcp | rsq | sqrt | exp2 | log2 | sin | cos
deriving DecidableEq, Repr

/-- A special function of an element, rounded once in RNE (R172, Table 8.6). -/
def specialFn (f : SFn) (t : Ty) (sat : Bool) (b : Nat) : Res :=
  let x := decodeFloat t b
  let via (p : Num × Flags) : Res := let r := round p.1 t .rne sat; ⟨r.bits, r.fl ||| p.2 ||| sigFlag [x]⟩
  match f with
  | .rcp => via (divNum (.ofInt 1) x)
  | .rsq => via (rsqrtNum x)
  | .sqrt => via (sqrtNum x)
  | .exp2 =>
    match x with
    | .nan _ => via (.nan false, 0)
    | .inf s => if s then ⟨0, 0⟩ else via (.inf false, 0)
    | .fin s m e => if m = 0 then via (.ofInt 1, 0) else exp2Fin t sat s m e
  | .log2 =>
    match x with
    | .nan _ => via (.nan false, 0)
    | .inf s => if s then via (.nan false, fInvalid) else via (.inf false, 0)
    | .fin s m e =>
      if m = 0 then via (.inf true, fDivzero)
      else if s then via (.nan false, fInvalid)
      else log2Fin t sat m e
  | .sin =>
    match x with
    | .nan _ => via (.nan false, 0)
    | .inf _ => via (.nan false, fInvalid)
    | .fin s m e => sinFin t sat s m e
  | .cos =>
    match x with
    | .nan _ => via (.nan false, 0)
    | .inf _ => via (.nan false, fInvalid)
    | .fin _ m e => cosFin t sat m e

end Sys2Proof.Machine
end

