-- ==== Sys2Proof/Machine/Base.lean ====
section
/-!
DEFINITION. Reading and changing the state: codes, places on the mesh, tiles, contexts, registers, partitions and
kernels, capabilities and CT entries, memory bytes, translation.
-/

namespace Sys2Proof.Machine

/-! ## Codes (R7, R8) -/

/-- OK. -/
def cOk : Nat := 0x00
/-- PARTIAL. -/
def cPartial : Nat := 0x01
/-- REVOKED. -/
def cRevoked : Nat := 0x02
/-- RIGHTS. -/
def cRights : Nat := 0x03
/-- BOUNDS. -/
def cBounds : Nat := 0x04
/-- NOTOWNER. -/
def cNotowner : Nat := 0x05
/-- XLATE. -/
def cXlate : Nat := 0x06
/-- TIMEOUT. -/
def cTimeout : Nat := 0x07
/-- PEERLOST. -/
def cPeerlost : Nat := 0x08
/-- WITHDRAWN. -/
def cWithdrawn : Nat := 0x09
/-- LATE. -/
def cLate : Nat := 0x0A
/-- NANSEEN. -/
def cNanseen : Nat := 0x0B
/-- QFULL. -/
def cQfull : Nat := 0x0C
/-- UNCORR. -/
def cUncorr : Nat := 0x0D
/-- POLICY. -/
def cPolicy : Nat := 0x0E
/-- SPECABORT. -/
def cSpecabort : Nat := 0x0F
/-- MXDEAD. -/
def cMxdead : Nat := 0x10
/-- REFUSED. -/
def cRefused : Nat := 0x11
/-- ILLEGAL. -/
def cIllegal : Nat := 0x20
/-- ILLOPND. -/
def cIllopnd : Nat := 0x21
/-- WDOG. -/
def cWdog : Nat := 0x22
/-- DETVIOL. -/
def cDetviol : Nat := 0x23
/-- PRIV. -/
def cPriv : Nat := 0x24
/-- CAPFAULT. -/
def cCapfault : Nat := 0x25
/-- STAGE2. -/
def cStage2 : Nat := 0x26
/-- TRAPSW. -/
def cTrapsw : Nat := 0x27
/-- BRKPT. -/
def cBrkpt : Nat := 0x28

/-! ## Places (R10, R77, R78, R324, R481) -/

/-- Column of a tile (R10). -/
def tileCol (t : Nat) : Nat := t % 64
/-- Row of a tile (R10). -/
def tileRow (t : Nat) : Nat := t / 64 % 64
/-- Cluster of a tile (R10). -/
def tileCluster (t : Nat) : Nat := tileRow t / 4 * 16 + tileCol t / 4
/-- Die of a tile (R10). -/
def tileDie (t : Nat) : Nat := tileRow t / 32 * 2 + tileCol t / 32
/-- Position of a tile in its cluster (R78). -/
def clusterPos (t : Nat) : Nat := tileRow t % 4 * 4 + tileCol t % 4
/-- Hops between two tiles (R324). -/
def hops (a b : Nat) : Nat :=
  (Int.ofNat (tileCol a) - Int.ofNat (tileCol b)).natAbs + (Int.ofNat (tileRow a) - Int.ofNat (tileRow b)).natAbs
/-- Attachment tile of a memory agent (Table 1.6). -/
def agentTile (a : Nat) : Nat :=
  let d := a / 64
  let k := a % 64
  (32 * (d / 2) + 4 * (k / 8) + 2) * 64 + 32 * (d % 2) + 4 * (k % 8) + 1
/-- Attachment tile of the fabric interface (Table 1.6). -/
def fabricTile : Nat := 1040

/-- Attachment tile of a buffer's home for an agent that does not stand on it: one of another cluster, another die or another
chip (Table 1.6). -/
def farHome (k : HomeKind) (agent : Nat) : Nat :=
  match k with
  | .tile => agent
  | .cluster => (agent / 16 * 4 + 1) * 64 + agent % 16 * 4 + 1
  | .hbm => agentTile agent
  | .weight => (32 * (agent / 16 / 2) + 16) * 64 + 32 * (agent / 16 % 2) + 16

/-- Attachment tile of a buffer's home as another tile of the chip sees it (Table 1.6). -/
def homeTile (k : HomeKind) (agent t : Nat) : Nat :=
  match k with
  | .cluster => if tileCluster t = agent then t else farHome k agent
  | .weight => if tileDie t = agent / 16 then t else farHome k agent
  | _ => farHome k agent

/-- One step of Flip (R77). -/
def hilbertFlip (s x y rx ry : Nat) : Nat × Nat :=
  if ry = 0 then (if rx = 1 then (s - 1 - y, s - 1 - x) else (y, x)) else (x, y)

/-- XYToHilbert's loop from a power of two down (R77). -/
def xyLoop : Nat → Nat → Nat → Nat → Nat
  | 0, _, _, d => d
  | n + 1, x, y, d =>
    let s := 2 ^ n
    let rx := x / s % 2
    let ry := y / s % 2
    let q := hilbertFlip 64 x y rx ry
    xyLoop n q.1 q.2 (d + s * s * ((3 * rx) ^^^ ry))

/-- The Hilbert index of a tile (R77). -/
def hilbert (t : Nat) : Nat := xyLoop 6 (tileCol t) (tileRow t) 0

/-- HilbertToXY's loop (R77): `n` levels to go, scale `s`. -/
def dLoop : Nat → Nat → Nat → Nat → Nat → Nat × Nat
  | 0, _, x, y, _ => (x, y)
  | n + 1, s, x, y, t =>
    let rx := t / 2 % 2
    let ry := (t ^^^ rx) % 2
    let q := hilbertFlip s x y rx ry
    dLoop n (2 * s) (q.1 + s * rx) (q.2 + s * ry) (t / 4)

/-- The tile of a Hilbert index (R77). -/
def tileOfHilbert (d : Nat) : Nat :=
  let p := dLoop 6 1 0 0 d
  p.2 * 64 + p.1

/-! ## Tiles, contexts and registers -/

/-- A tile. -/
def State.tile (s : State) (t : Nat) : Tile := aget s.tiles .reset t
/-- A tile replaced. -/
def State.setTile (s : State) (t : Nat) (v : Tile) : State := { s with tiles := aset s.tiles t v }
/-- A tile changed. -/
def State.onTile (s : State) (t : Nat) (f : Tile → Tile) : State := s.setTile t (f (s.tile t))
/-- A tile's shared registers and queues changed. -/
def State.onLocal (s : State) (t : Nat) (f : Local → Local) : State :=
  s.onTile t fun v => { v with loc := f v.loc }
/-- A tile's core changed. -/
def State.onCore (s : State) (t : Nat) (f : CoreSt → CoreSt) : State :=
  s.onTile t fun v => { v with core := f v.core }
/-- A tile's steward changed. -/
def State.onSteward (s : State) (t : Nat) (f : Steward → Steward) : State :=
  s.onTile t fun v => { v with stw := f v.stw }
/-- A context slot of a tile. -/
def State.ctxAt (s : State) (t c : Nat) : Context := aget (s.tile t).core.ctxs .reset c
/-- A context slot of a tile replaced. -/
def State.setCtxAt (s : State) (t c : Nat) (v : Context) : State :=
  s.onCore t fun k => { k with ctxs := aset k.ctxs c v }
/-- A context slot of a tile changed. -/
def State.onCtxAt (s : State) (t c : Nat) (f : Context → Context) : State := s.setCtxAt t c (f (s.ctxAt t c))
/-- The context whose turn it is. -/
def State.ctx (s : State) : Context := s.ctxAt s.cur.tile s.cur.ctx
/-- The context whose turn it is, changed. -/
def State.onCtx (s : State) (f : Context → Context) : State := s.onCtxAt s.cur.tile s.cur.ctx f
/-- The registers of the context whose turn it is. -/
def State.regs (s : State) : Regs := s.ctx.regs
/-- The registers of the context whose turn it is, changed. -/
def State.onRegs (s : State) (f : Regs → Regs) : State := s.onCtx fun c => { c with regs := f c.regs }
/-- The run of the context whose turn it is, changed. -/
def State.onRun (s : State) (f : Run → Run) : State := s.onCtx fun c => { c with run := f c.run }

/-- An x register; x0 reads zero (R137). -/
def Regs.readX (r : Regs) (i : Reg) : Word := if i = 0 then 0 else aget r.x 0 i.toNat
/-- A write of an x register; writes to x0 are discarded (R138). -/
def Regs.writeX (r : Regs) (i : Reg) (v : Word) : Regs :=
  if i = 0 then r else { r with x := aset r.x i.toNat v }
/-- A predicate register; p0 reads true (R137). -/
def Regs.readP (r : Regs) (i : Preg) : Bool := i == 0 || r.p.getLsbD i.toNat
/-- A write of a predicate register; writes to p0 are discarded (R138). -/
def Regs.writeP (r : Regs) (i : Preg) (b : Bool) : Regs :=
  if i = 0 then r
  else { r with p := if b then r.p ||| BitVec.twoPow 8 i.toNat else r.p &&& ~~~(BitVec.twoPow 8 i.toNat) }
/-- A capability register, none when empty (R44). -/
def Regs.readC (r : Regs) (i : Nat) : Option Cap := aget? r.c i
/-- A capability register filled or emptied. -/
def Regs.writeC (r : Regs) (i : Nat) (c : Option Cap) : Regs :=
  match c with
  | some v => { r with c := aset r.c i v }
  | none => { r with c := aerase r.c i }
/-- Sticky flags set (R161). -/
def Regs.setFlags (r : Regs) (f : Flags) : Regs := { r with fpstat := r.fpstat ||| f.setWidth 64 }

/-- An x register of the context whose turn it is. -/
def State.x (s : State) (i : Reg) : Word := s.regs.readX i
/-- An x register of the context whose turn it is, written. -/
def State.setX (s : State) (i : Reg) (v : Word) : State := s.onRegs fun r => r.writeX i v
/-- A capability register of the context whose turn it is. -/
def State.c (s : State) (i : Nat) : Option Cap := s.regs.readC i
/-- A capability register of the context whose turn it is, filled or emptied. -/
def State.setC (s : State) (i : Nat) (v : Option Cap) : State := s.onRegs fun r => r.writeC i v
/-- Sticky flags of the context whose turn it is, set. -/
def State.setFlags (s : State) (f : Flags) : State := s.onRegs fun r => r.setFlags f
/-- The next free value's number drawn (log 1). -/
def State.draw (s : State) (n : Nat) : State := { s with free := s.free + n }

/-! ## Partitions and kernels -/

/-- A partition holds a tile when the tile's Hilbert index lies in its interval (R76); an evicted one holds none. -/
def Part.holds (p : Part) (t : Nat) : Bool :=
  p.state != .evicted && p.prec.pbase ≤ hilbert t && hilbert t < p.prec.pbase + p.prec.plen

/-- A partition holds its channels unless an eviction released them (R109). -/
def Part.holdsChan (p : Part) (c : Nat) : Bool := !(p.state == .evicted && p.relHbm) && p.prec.chans.contains c

/-- The partition that holds a tile. -/
def State.partOfTile (s : State) (t : Nat) : Option (Nat × Part) := s.parts.find? fun p => p.2.holds t
/-- A partition changed. -/
def State.onPart (s : State) (p : Nat) (f : Part → Part) : State :=
  match aget? s.parts p with
  | some v => { s with parts := aset s.parts p (f v) }
  | none => s
/-- A supervisor's state changed. -/
def State.onSupv (s : State) (p : Nat) (f : Supv → Supv) : State :=
  s.onPart p fun v => { v with supv := f v.supv }
/-- The tiles of a partition in Hilbert order. -/
def Part.tiles (p : Part) : List Nat := (upto p.prec.plen).map fun i => tileOfHilbert (p.prec.pbase + i)
/-- The kernel of a queue slot. -/
def Part.kernel (p : Part) (k : Nat) : Option Kernel := (aget? p.qslots k).bind (·.kernel)
/-- A queue slot changed. -/
def State.onQSlot (s : State) (p k : Nat) (f : QSlot → QSlot) : State :=
  s.onPart p fun v =>
    match aget? v.qslots k with
    | some q => { v with qslots := aset v.qslots k (f q) }
    | none => v
/-- A kernel changed. -/
def State.onKernel (s : State) (p k : Nat) (f : Kernel → Kernel) : State :=
  s.onQSlot p k fun q => { q with kernel := q.kernel.map f }

/-- The record of the task that runs in a context slot. -/
def State.recAt (s : State) (t c : Nat) : Option (Nat × TaskRec) :=
  (s.ctxAt t c).run.task.bind fun r => (aget? (s.tile t).loc.recs r).map fun v => (r, v)

/-- What an instruction needs to know of its task: the partition's number, the partition, the kernel's queue slot, the
kernel, its image, the record's index and the record. -/
structure Who where
  pnum : Nat
  part : Part
  kslot : Nat
  kernel : Kernel
  image : Image
  rec' : Nat
  task : TaskRec
deriving DecidableEq, Repr

/-- The task of a context slot with its kernel. -/
def State.whoAt (s : State) (t c : Nat) : Option Who :=
  (s.recAt t c).bind fun r =>
  (s.partOfTile t).bind fun p =>
  (p.2.kernel r.2.kslot).bind fun k =>
  (aget? p.2.images k.image).map fun im => ⟨p.1, p.2, r.2.kslot, k, im, r.1, r.2⟩

/-- The task whose turn it is, with its kernel. -/
def State.who (s : State) : Option Who := s.whoAt s.cur.tile s.cur.ctx

/-- The partition's strike horizon is enabled for a tile (R450). -/
def State.shz (s : State) (t : Nat) : Bool := ((s.partOfTile t).map fun p => p.2.prec.shz).getD false

/-- W_h of a kernel's image after the default of R24. -/
def Image.budget (im : Image) : Nat := if im.wh = 0 then 896 else im.wh

/-- The rank of a tile in a kernel's launch (R90). -/
def Kernel.rank (k : Kernel) (t : Nat) : Nat := (k.tiles.findIdx? (· == t)).getD 0

/-- R393, R432: the slot's task waits to be parked on its barrier or for its next dispatch, and only room in the park store is
missing. -/
def Hold.stands (h : Hold) : Bool :=
  match h with
  | .parkFull (.barrier _ _ _) | .parkFull .retry => true
  | _ => false

/-- R438 step 4: the tile's halt line is up and its last context has been empty since an earlier cycle, or stands where it has
been saved (R393, log 88). -/
def Tile.quiet (v : Tile) (cycle : Nat) : Bool :=
  v.core.disp.halting
  && v.core.ctxs.all fun c => c.2.hold.stands || (c.2.run.task.isNone && decide (c.2.run.issueAt ≤ cycle))

/-- R438 step 5: the engine of a quiet tile has completed its command, and the steward stops. -/
def Tile.stopped (v : Tile) (cycle : Nat) : Bool := v.stw.stopped || (v.quiet cycle && v.core.eng.running.isNone)

/-- The tile group of a kernel has been killed on the tile (R433). -/
def Tile.groupKilled (v : Tile) (k : Nat) : Bool := (aget? v.killed k).isSome

/-- R27: a legal code offset of the image. -/
def Image.legal (im : Image) (pc : Nat) : Bool := pc % 12 == 0 && pc + 12 ≤ im.codeLen

/-! ## Capabilities (R43 to R46) -/

end Sys2Proof.Machine

namespace Sys2Proof

/-- The code of a mode. -/
def CapMode.code : CapMode → Nat
  | .exclusive => 0 | .fraction => 1 | .sealed => 2 | .lookahead => 3
/-- The code of a home kind. -/
def HomeKind.code : HomeKind → Nat
  | .tile => 0 | .cluster => 1 | .hbm => 2 | .weight => 3
/-- The home kind of a code. -/
def HomeKind.ofCode (n : Nat) : Option HomeKind :=
  match n with
  | 0 => some .tile | 1 => some .cluster | 2 => some .hbm | 3 => some .weight | _ => none
/-- R, W, X and G in bits [3:0]. -/
def Rights.code (r : Rights) : Nat := boolNat r.r * 8 + boolNat r.w * 4 + boolNat r.x * 2 + boolNat r.g
/-- The rights of four bits. -/
def Rights.ofCode (n : Nat) : Rights := ⟨bit n 3, bit n 2, bit n 1, bit n 0⟩
/-- Every right of `a` is one of `b`. -/
def Rights.sub (a b : Rights) : Bool := (!a.r || b.r) && (!a.w || b.w) && (!a.x || b.x) && (!a.g || b.g)
/-- The rights that both have. -/
def Rights.inter (a b : Rights) : Rights := ⟨a.r && b.r, a.w && b.w, a.x && b.x, a.g && b.g⟩
/-- The granule in bytes (R45). -/
def HomeKind.granule : HomeKind → Nat
  | .tile | .cluster => 64
  | .hbm | .weight => 65536
/-- The 128 bits of a capability (Table 3.1). -/
def Cap.bits (c : Cap) : Nat :=
  c.wlen + 2 ^ 24 * (c.woff + 2 ^ 24 * (c.tokens + 2 ^ 16 * (c.kind.code + 2 ^ 4 *
    (boolNat c.rights.g + 2 * boolNat c.rights.x + 4 * boolNat c.rights.w + 8 * boolNat c.rights.r + 2 ^ 4 *
      (c.mode.code + 2 ^ 2 * (c.chip + 2 ^ 10 * (c.agent + 2 ^ 12 * (c.ctidx + 2 ^ 16 * c.hallmark))))))))
/-- The window's length in bytes (R45). -/
def Cap.bytes (c : Cap) : Nat := c.wlen * c.kind.granule

/-- The key of a CT entry on this chip (R48). -/
def Machine.ctKey (k : HomeKind) (agent idx : Nat) : Nat := (k.code * 4096 + agent) * 65536 + idx
/-- The key of a capability's CT entry. -/
def Cap.key (c : Cap) : Nat := Machine.ctKey c.kind c.agent c.ctidx
/-- No rights. -/
def Rights.none' : Rights := ⟨false, false, false, false⟩
/-- No translation context: V0 and V1 clear (R263). -/
def Xlat.none' (vf : Nat) : Xlat := ⟨vf, false, false, 0, 0, 0⟩

end Sys2Proof

namespace Sys2Proof.Machine

/-- The entries of a home's CT (Table 3.4). -/
def ctEntries : HomeKind → Nat
  | .tile => 1024 | .cluster => 4096 | .hbm => 65536 | .weight => 1024
/-- The agents of a home kind (R11). -/
def kindAgents : HomeKind → Nat
  | .tile => 4096 | .cluster => 256 | .hbm => 256 | .weight => 64


/-- A free CT entry. The spec gives it no OWNK: 3 is the model's choice (log 81). -/
def CtEntry.free : CtEntry :=
  { state := .free, base := 0, len := 0, hallmark := 0, tokOut := 0, tokLost := 0, maxr := .none', crgt := .none',
    laopen := false, recl := none, owner := ⟨0, 0⟩, ownk := 3, kv := false, kslot := 0, lrs := [], part := 0,
    xlat := .none' 0 }

/-- Entries 1,016 to 1,023 of a tile's CT hold the fault-record buffers (R425). -/
def faultEntry (t i : Nat) : CtEntry :=
  { CtEntry.free with
    state := .sealed, base := 0x8 * 2 ^ 52 + t * 2 ^ 40 + 0x6FE00 + 64 * (i - 1016), len := 1,
    maxr := ⟨true, false, false, false⟩, crgt := ⟨true, false, false, false⟩ }

/-- A CT entry. -/
def State.ct (s : State) (key : Nat) : CtEntry :=
  let d := if key / 65536 < 4096 ∧ 1016 ≤ key % 65536 ∧ key % 65536 < 1024 then faultEntry (key / 65536) (key % 65536)
    else .free
  aget s.cts d key
/-- A CT entry replaced. -/
def State.setCt (s : State) (key : Nat) (e : CtEntry) : State := { s with cts := aset s.cts key e }
/-- A CT entry changed. -/
def State.onCt (s : State) (key : Nat) (f : CtEntry → CtEntry) : State := s.setCt key (f (s.ct key))

/-- The hallmark is current: the entry is live and carries it (R50, R53 step 2). -/
def State.current (s : State) (c : Cap) : Bool :=
  let e := s.ct c.key
  c.chip == s.chip && (e.state == .exclusive || e.state == .sealed) && e.hallmark == c.hallmark

/-- Base address of a capability's window. -/
def State.windowBase (s : State) (c : Cap) : Nat := (s.ct c.key).base + c.woff * c.kind.granule

/-- Where the exclusive capability of a buffer is, recorded (Table 3.3 OWNK, OWNER). -/
def State.setOwner (s : State) (c : Cap) (k : Nat) (at' : Place) : State :=
  if c.mode == .exclusive && s.current c then s.onCt c.key fun e => { e with ownk := k, owner := at' } else s

/-! ## Physical memory (R80, R255, R256) -/

/-- A physical address that exists (R9, R80, Table 12.1). -/
def physExists (a : Nat) : Bool :=
  a < 2 ^ 39
  || (a / 2 ^ 52 == 0x8 && a / 2 ^ 19 % 2 ^ 21 == 0 && a / 2 ^ 40 % 2 ^ 12 < 4096)
  || (a / 2 ^ 52 == 0x9 && a / 2 ^ 23 % 2 ^ 17 == 0 && a / 2 ^ 48 % 2 ^ 4 == 0)
  || (a / 2 ^ 52 == 0xA && a / 2 ^ 26 % 2 ^ 14 == 0 && a / 2 ^ 46 % 2 ^ 6 == 0)

/-- The physical address of a partition offset (R80). -/
def PartRec.phys (r : PartRec) (p : Nat) : Nat :=
  r.chans.getD (p / 4096 % r.nch) 0 * 2 ^ 31 + p / (4096 * r.nch) * 4096 + p % 4096

/-- The partition offset of a physical address in one of the partition's channels (R80). -/
def PartRec.offset (r : PartRec) (a : Nat) : Nat :=
  a % 2 ^ 31 / 4096 * (4096 * r.nch) + 4096 * (r.chans.findIdx? (· == a / 2 ^ 31)).getD 0 + a % 4096

/-- The 256 bytes of the channel list as given (R75). -/
def PartRec.list (r : PartRec) : List Byte := ((r.chans ++ r.rest).map (BitVec.ofNat 8) ++ List.replicate 256 0).take 256

/-- A partition offset lies in the partition's HBM and outside its image store (R80, R104). -/
def PartRec.covers (r : PartRec) (p len : Nat) : Bool :=
  p + len ≤ r.nch * 2 ^ 31 && (p + len ≤ r.isoff * 65536 || (r.isoff + r.islen) * 65536 ≤ p)

/-- The creation count of the partition that owns an HBM byte (R106). -/
def State.genOf (s : State) (a : Nat) : Nat :=
  ((s.parts.find? fun p => p.2.holdsChan (a / 2 ^ 31)).map fun p => p.2.keyGen).getD 0

/-- One byte of memory (R106: a free value where HBM has not been written). -/
def State.byte (s : State) (a : Nat) : Byte := (memGet? s.mem a).getD (Config.freeByte (s.genOf a) a)
/-- `n` bytes of memory. -/
def State.bytes (s : State) (a n : Nat) : List Byte := (upto n).map fun i => s.byte (a + i)
/-- Bytes written to memory. -/
def State.putBytes (s : State) (a : Nat) (bs : List Byte) : State := { s with mem := memSetBytes s.mem a bs }
/-- One byte at a partition offset. Beyond the partition's HBM there is none, and the device reads a free value (log 5). -/
def State.poffByte (s : State) (r : PartRec) (p : Nat) : Byte :=
  if p < r.nch * 2 ^ 31 then s.byte (r.phys p) else Config.freeByte 0 (2 ^ 60 + p)
/-- `n` bytes at a partition offset, byte by byte through the interleave (R80). -/
def State.poffBytes (s : State) (r : PartRec) (p n : Nat) : List Byte := (upto n).map fun i => s.poffByte r (p + i)
/-- A little-endian value of `n` bytes at a partition offset. -/
def State.poffNat (s : State) (r : PartRec) (p n : Nat) : Nat := leNat (s.poffBytes r p n)

/-- Address of a byte of a tile's SRAM. -/
def tileAddr (t off : Nat) : Nat := 0x8 * 2 ^ 52 + t * 2 ^ 40 + off

/-- The bytes of an image from a byte offset in it (R87: the image lies in the image store). -/
def State.imageNat (s : State) (p : Part) (im : Image) (off n : Nat) : Nat :=
  s.poffNat p.prec (im.base + off) n

/-! ## ECC and poison (R455, R456) -/

/-- The unit of ECC in which a byte lies, by an eighth of its address: a 64-bit word of tile SRAM, elsewhere a 64-byte line
(R455). -/
def eccUnit (a : Nat) : Nat := if a / 2 ^ 52 = 0x8 then a / 8 else a / 64 * 8

/-- The bytes of a unit. -/
def eccBytes (u : Nat) : Nat := if u * 8 / 2 ^ 52 = 0x8 then 8 else 64

/-- The unit lies in whole or in part within `n` bytes from `a` on. -/
def eccMeets (a n u : Nat) : Bool := eccUnit a ≤ u && u ≤ eccUnit (a + n - 1)

/-- The subcode of UNCORR that a read of `n` bytes at `a` meets, if any. -/
def State.eccAt (s : State) (a n : Nat) : Option Nat :=
  if s.poison.any fun l => a / 64 ≤ l && l ≤ (a + n - 1) / 64 then some 1
  else if s.ecc.any fun p => p.2 && eccMeets a n p.1 then some 0
  else none

/-- The corrected errors that a read of `n` bytes at `a` meets. -/
def State.eccHits (s : State) (a n : Nat) : Nat := (s.ecc.filter fun p => !p.2 && eccMeets a n p.1).length

/-- Corrected data is written back (R455). -/
def State.eccFixed (s : State) (a n : Nat) : State := { s with ecc := s.ecc.filter fun p => p.2 || !eccMeets a n p.1 }

/-- A write of a full line clears its poison (R456), one of a full unit its latent error. -/
def State.eccWrite (s : State) (a n : Nat) : State :=
  let full (b m : Nat) : Bool := a ≤ b && b + m ≤ a + n
  if s.poison.isEmpty && s.ecc.isEmpty then s
  else
    { s with
      poison := s.poison.filter fun l => !full (l * 64) 64
      ecc := s.ecc.filter fun p => !full (p.1 * 8) (eccBytes p.1) }

/-- A run of `n` bytes from `a` on, cut at the 64-byte lines, which no page and no interleave divides: the place of each piece in the
run, and its length. -/
def lineRuns (a n : Nat) : List (Nat × Nat) :=
  (upto ((a + n - 1) / 64 - a / 64 + 1)).map fun i =>
    let lo := max a ((a / 64 + i) * 64)
    (lo - a, min (a + n) ((a / 64 + i + 1) * 64) - lo)

/-- The lines of a range of partition offsets have been written: poison and errors of those that were written in full go. -/
def State.poffWritten (s : State) (r : PartRec) (p n : Nat) : State :=
  if s.poison.isEmpty && s.ecc.isEmpty then s
  else (lineRuns p n).foldl (fun s x => if p + x.1 < r.nch * 2 ^ 31 then s.eccWrite (r.phys (p + x.1)) x.2 else s) s

/-- Bytes written at a partition offset; those beyond the partition's HBM go nowhere (log 5). -/
def State.putPoff (s : State) (r : PartRec) (p : Nat) (bs : List Byte) : State :=
  ((bs.zipIdx).foldl (fun s b => if p + b.2 < r.nch * 2 ^ 31 then s.putBytes (r.phys (p + b.2)) [b.1] else s) s).poffWritten r p
    bs.length

/-! ## Translation (R263 to R270) -/

/-- The outcome of a translation. -/
inductive XRes where
  /-- a partition offset in space 0x0, a fabric address in space 0x1 -/
  | ok (out : Nat)
  | xlate
  /-- stage two has no entry for the guest page; ACC of the request (Table 12.5) -/
  | miss (gpa acc : Nat)
deriving DecidableEq, Repr

/-- Whether a page table entry is valid at a level (R266). -/
def pteValid (e level : Nat) : Bool :=
  let leaf := bit e 1
  let size := field e 5 2
  bit e 0 && field e 52 12 == 0 && field e 7 6 == 0 && !bit e 4
  && (!leaf || 2 ≤ level) && (leaf || level < 3) && size != 3 && (size == 0 || level == 3)
  && (leaf || (!bit e 2 && !bit e 3))
  && (!(leaf && level == 3) || field e 13 6 == 0) && (!(leaf && level == 2) || field e 13 16 == 0)

/-- Index of an address at a table level (R266). -/
def pteIndex (va level : Nat) : Nat :=
  match level with
  | 0 => field va 49 3
  | 1 => field va 39 10
  | 2 => field va 29 10
  | _ => field va 19 10

/-- Size of the page that a leaf or block at a level gives (Table 12.4). -/
def pteLog2 (e level : Nat) : Nat :=
  if level = 2 then 29 else if field e 5 2 = 0 then 19 else if field e 5 2 = 1 then 21 else 25

/-- ADDR of an entry: the next table, or the output of a leaf (Table 12.4). -/
def pteBase (e : Nat) : Nat := field e 13 39 * 2 ^ 13

/-- A value in a stage-two table: a byte that was not written since the table was made is 0 (R264). -/
def State.tableNat (s : State) (p : Part) (off n : Nat) : Nat :=
  leNat ((upto n).map fun i => (memGet? s.mem (p.prec.phys (off + i))).getD 0)

/-- The stage-two walk of a guest PA from a level on (R264, R268): the partition offset and the page's size. -/
def State.walkTwo (s : State) (p : Part) (gpa : Nat) : Nat → Nat → Nat → Option (Nat × Nat)
  | 0, _, _ => none
  | fuel + 1, level, table =>
    let e := s.tableNat p (table + 8 * pteIndex gpa level) 8
    if !bit e 0 then none
    else if bit e 1 then some (pteBase e + gpa % 2 ^ pteLog2 e level, pteLog2 e level)
    else s.walkTwo p gpa fuel (level + 1) (pteBase e)

/-- Stage two: a guest PA of a VF to a partition offset, with the page's size (R264). -/
def State.stageTwo (s : State) (p : Part) (vf gpa : Nat) : Option (Nat × Nat) :=
  (aget? p.s2roots vf).bind fun root => s.walkTwo p gpa 4 0 root

/-- A walk's result: the output address, the page's size, the stage-one rights. -/
inductive Walk where
  | done (out log2 : Nat) (r w : Bool)
  | xlate
  | miss (gpa : Nat)
deriving DecidableEq, Repr

/-- The stage-one walk from a level on (R266 to R268). `guest` tables are reached through stage two, the tables of space
0x1 directly. -/
def State.walk (s : State) (p : Part) (vf : Nat) (guest : Bool) (va : Nat) : Nat → Nat → Nat → Walk
  | 0, _, _ => .xlate
  | fuel + 1, level, table =>
    let ea := table + 8 * pteIndex va level
    let at' := if guest then (s.stageTwo p vf ea).map (·.1) else some ea
    match at' with
    | none => .miss ea
    | some poff =>
      let e := s.poffNat p.prec poff 8
      if !pteValid e level then .xlate
      else if bit e 1 then
        let log2 := pteLog2 e level
        let n := 2 ^ (log2 - 19)
        let first := poff - 8 * (pteIndex va level % n)
        let same := level == 2 || (upto n).all fun i => s.poffNat p.prec (first + 8 * i) 8 == e
        let base := pteBase e
        if same && base % 2 ^ log2 == 0 then .done (base + va % 2 ^ log2) log2 (bit e 2) (bit e 3) else .xlate
      else s.walk p vf guest va fuel (level + 1) (pteBase e)

/-- The TLB entry of a translation context that covers an address. -/
def tlbFind (l : List TlbEntry) (part vf asid va : Nat) : Option TlbEntry :=
  l.find? fun e => e.part == part && e.vf == vf && e.asid == asid && e.page == va / 2 ^ e.log2

/-- The walk of an address in the context of a kernel (R268, R269): the outcome, and the entry that a TLB may keep. -/
def State.walkFor (s : State) (pn : Nat) (p : Part) (xl : Xlat) (va : Nat) (wr op : Bool) : XRes × Option TlbEntry :=
  let space := va / 2 ^ 52
  let low := va % 2 ^ 52
  let acc := if op then 2 else if wr then 1 else 0
  let ok (r w : Bool) : Bool := if op then r && w else if wr then w else r
  let walked : Walk :=
    if space = 1 then (if xl.v1 then s.walk p xl.vf false low 4 0 xl.root1 else .xlate)
    else if xl.v0 then s.walk p xl.vf true low 4 0 xl.root0
    else .done low 52 true true
  let entry (out log2 gpa : Nat) (r w : Bool) : TlbEntry :=
    ⟨pn, xl.vf, xl.asid, va / 2 ^ log2, log2, gpa, out - out % 2 ^ log2, r, w, false⟩
  match walked with
  | .xlate => (.xlate, none)
  | .miss g => (.miss g 0, none)
  | .done out log2 r w =>
    if space = 1 then (if ok r w then (.ok out, some (entry out log2 0 r w)) else (.xlate, none))
    else
      match s.stageTwo p xl.vf out with
      | none => (.miss out acc, none)
      | some (poff, log2') =>
        let n := min log2 log2'
        if ok r w then (.ok poff, some (entry poff n (out - out % 2 ^ n) r w)) else (.xlate, none)

/-- The guest addresses that a stage-one walk refers to from a level on, and its output. -/
def State.walkPages (s : State) (p : Part) (vf va : Nat) : Nat → Nat → Nat → List Nat
  | 0, _, _ => []
  | fuel + 1, level, table =>
    let ea := table + 8 * pteIndex va level
    ea :: match s.stageTwo p vf ea with
      | none => []
      | some (poff, _) =>
        let e := s.poffNat p.prec poff 8
        if !pteValid e level then []
        else if bit e 1 then [pteBase e + va % 2 ^ pteLog2 e level]
        else s.walkPages p vf va fuel (level + 1) (pteBase e)

/-- The guest addresses on which an access to an address of space 0x0 depends (R263, R268). -/
def State.guestRefs (s : State) (p : Part) (xl : Xlat) (va : Nat) : List Nat :=
  if va / 2 ^ 52 ≠ 0 then []
  else if xl.v0 then s.walkPages p xl.vf (va % 2 ^ 52) 4 0 xl.root0
  else [va % 2 ^ 52]

/-- Entries of partition `part` beyond the first `cap` of them removed. -/
def limitPart (part : Nat) : Nat → List TlbEntry → List TlbEntry
  | _, [] => []
  | cap, e :: l =>
    if e.part ≠ part then e :: limitPart part cap l
    else match cap with
      | 0 => limitPart part 0 l
      | n + 1 => e :: limitPart part n l

/-- The L2 TLB entries of a cluster that serve a partition: 512 for each tile that it holds there (R78, R270). -/
def Part.l2Share (p : Part) (cluster : Nat) : Nat :=
  512 * ((upto 16).filter fun k => p.holds ((cluster / 16 * 4 + k / 4) * 64 + cluster % 16 * 4 + k % 4)).length

/-- A translation kept by the L1 TLB of a tile and by the L2 TLB of its cluster (R270). -/
def State.keepTlb (s : State) (tile pn : Nat) (p : Part) (e : TlbEntry) : State :=
  let cl := tileCluster tile
  let s := s.onCore tile fun k => { k with l1 := (e :: k.l1).take 384 }
  { s with l2 := aset s.l2 cl (limitPart pn (p.l2Share cl) (e :: aget s.l2 [] cl)) }

/-- The translation of an address in the context of a kernel from a tile (R269): the TLBs first, then the walk. The
rights are those of the stage-one leaf; with V0 clear everything is allowed. -/
def State.translate (s : State) (tile : Nat) (pn : Nat) (p : Part) (xl : Xlat) (va : Nat) (wr op : Bool) : State × XRes :=
  let ok (r w : Bool) : Bool := if op then r && w else if wr then w else r
  match (tlbFind (s.tile tile).core.l1 pn xl.vf xl.asid va).orElse
      (fun _ => tlbFind (aget s.l2 [] (tileCluster tile)) pn xl.vf xl.asid va) with
  | some e => (s, if ok e.r e.w then .ok (e.poff + va % 2 ^ e.log2) else .xlate)
  | none =>
    match s.walkFor pn p xl va wr op with
    | (x, some e) => (s.keepTlb tile pn p e, x)
    | (x, none) => (s, x)

end Sys2Proof.Machine
end

