-- ==== Sys2Proof/Machine/Underway.lean ====
section
/-!
DEFINITION. What a tile has issued and not yet performed: queued matrix commands, held writes and posts, operation packets,
requests to other chips, operations of the move engine (R66, R206, R238, R335, R362).
-/

namespace Sys2Proof.Machine

/-! ## Queued commands -/

/-- The commands queued for the task of a context: its own queue, behind those that it left in another slot when it parked
(R274). -/
def CoreSt.queueOf (k : CoreSt) (c : Nat) : List MxCmd :=
  let v := aget k.ctxs .reset c
  (k.ctxs.flatMap fun x =>
    if x.1 ≠ c ∧ v.run.task.isSome ∧ x.2.mxRec = v.run.task then x.2.mx.queue else []) ++ v.mx.queue

/-- The commands queued for the task whose turn it is. -/
def State.mxQueue (s : State) : List MxCmd := (s.tile s.cur.tile).core.queueOf s.cur.ctx

/-! ## Posts and operation packets -/

/-- The packet of a held post. -/
def HeldPost.packet? (h : HeldPost) : Option Packet := match h.post with | .packet p _ => some p | _ => none

/-- The packets that the contexts of a core have posted and that have not left it: held ones (R336, R450) and those in
injection entries. -/
def CoreSt.unsent (k : CoreSt) : List Packet :=
  (k.ctxs.flatMap fun c => (c.2.spec.held ++ c.2.shzPosts).filterMap HeldPost.packet?) ++ k.inj.map InjEntry.pkt

/-- The posts of a tile's core that have not been applied at their destinations. -/
def State.postsOf (s : State) (t : Nat) : List Packet :=
  (s.tile t).core.unsent ++ s.net.filter fun p => p.src == ⟨s.chip, t⟩ && p.unit == .core

/-- An operation packet: the capability and the place in the core's order of issue. -/
def Packet.operation? (p : Packet) : Option (Cap × Nat) :=
  match p.body with
  | .op _ _ cap _ _ _ _ _ ord => some (cap, ord)
  | _ => none

/-- The operation packets of a tile's core that no agent has applied yet (R356). -/
def State.opsOf (s : State) (t : Nat) : List (Cap × Nat) := (s.postsOf t).filterMap Packet.operation?

/-- The writes of a context that its store logs hold and that are in flight: issued under the strike horizon (R450), or checked at
a commit (R389). -/
def Context.writing (v : Context) : List LogWrite :=
  v.shzLog ++ match v.hold with
    | .commit _ _ | .drain _ _ => v.spec.log
    | _ => []

/-! ## Requests to the fabric space -/

/-- The request is for an address of space 0x1. -/
def Body.toFabricSpace (b : Body) : Bool :=
  match b with
  | .fabric _ _ _ _ => true
  | .operate _ _ _ _ fab _ _ _ => fab.isSome
  | _ => false

/-- Accesses that a unit of the tile made through space 0x1 and whose outcome is not known: in its core, on the mesh, in the fabric
interface, on another chip (R66, R277). -/
def State.fabricOut (s : State) (t : Nat) (units : List Agent) : Bool :=
  let mine (p : Packet) : Bool := p.src == ⟨s.chip, t⟩ && units.contains p.unit && Body.toFabricSpace p.body
  ((s.tile t).core.unsent.any mine) || s.net.any mine || s.fabric.out.any mine || s.fabric.transfers.any fun x => mine x.pkt

/-! ## What is done (R66, R362) -/

/-- Every access that the tile's core made or is to make on the chip's memory under the entry has been performed: no queued or running
command captured it, no held write and no operation packet names it, no probe of its writes is out. -/
def State.accessed (s : State) (t key : Nat) : Bool :=
  let k := (s.tile t).core
  !(k.ctxs.any fun c =>
      c.2.mx.queue.any (fun m => m.keys.contains key) || c.2.writing.any fun l => l.cap.key == key)
  && !((k.eng.running.map fun r => r.2.keys.contains key).getD false)
  && !(s.probes.any fun p => p.writer == t)
  && !((s.opsOf t).any fun o => o.1.key == key)

/-- R66 step 2, R239: every access that the tile's core issued under a cached validation of the entry has been performed, one to
space 0x1 among them. -/
def State.drained (s : State) (t key : Nat) : Bool := s.accessed t key && !s.fabricOut t [.core]

/-- The capabilities under which an engine operation moves bytes: what it reads and what it writes. -/
def EngKind.moves (k : EngKind) : Option KCap × Option KCap :=
  match k with
  | .copy src dst _ _ => (src, dst)
  | .fill dst _ _ => (none, dst)
  | .deliver src _ _ _ _ _ _ _ => (src, none)
  | _ => (none, none)

/-- A capability of the entry. -/
def ofKey (key : Nat) (c : Option KCap) : Bool := (c.map fun k => k.cap.key == key).getD false

/-- R66 step 2: no burst of the tile's move engine has an access under the entry that is checked and not performed. -/
def State.stwDrained (s : State) (t key : Nat) : Bool :=
  !((s.tile t).stw.ops.any fun o =>
    (ofKey key o.kind.moves.1 && o.flights.any fun f => f.parts.any fun p => match p with | .asked _ => true | .bytes _ => false)
    || (ofKey key o.kind.moves.2 && o.flights.any fun f => match f.out with | .asked _ => true | _ => false))

/-- R362, R364: no access of the tile under the entry is to come any more: its core's are performed, and no copy or fill of its
steward runs under it. -/
def State.quit (s : State) (t key : Nat) : Bool :=
  s.drained t key && !((s.tile t).stw.ops.any fun o => ofKey key o.kind.moves.1 || ofKey key o.kind.moves.2)

end Sys2Proof.Machine
end

