-- ==== Sys2Proof/Machine/Log.lean ====
section
/-!
DEFINITION. Fault records and the fault log (R424, R428, R429, R482), packets put on the mesh or handed to the fabric
interface (R324 to R328), and where a capability goes when its holder gives it up (R52, R69, R70, R94).
-/

namespace Sys2Proof.Machine

/-! ## Fault records (R424) -/

/-- The fields of a fault record (Table 19.1). -/
structure FRec where
  code : Nat
  sub : Nat
  ctx : Nat
  kslot : Nat
  src : Nat
  pc : Nat
  iword : Nat
  trec : Nat
  va : Nat
  ord : Nat
  emask : Nat
  creg : Nat
  cap : Option Cap
deriving DecidableEq, Repr

/-- A record with every field zero. -/
def FRec.zero : FRec := ⟨0, 0, 0, 0, 0, 0, 0, 0, 0, 0, 0, 0, none⟩

/-- The capability fields of a record in bits [484:384], counted from bit 384. -/
def capFields (creg : Nat) : Option Cap → Nat
  | none => creg * 2 ^ 96
  | some c =>
    c.wlen % 2 ^ 24 + c.woff % 2 ^ 24 * 2 ^ 24 + c.tokens % 2 ^ 16 * 2 ^ 48 + c.chip % 2 ^ 10 * 2 ^ 64
      + c.agent % 2 ^ 12 * 2 ^ 74 + c.kind.code * 2 ^ 86 + c.rights.code * 2 ^ 90 + c.mode.code * 2 ^ 94
      + creg * 2 ^ 96 + 2 ^ 100

/-- The 512 bits of a record. -/
def FRec.nat (r : FRec) : Nat :=
  r.code % 2 ^ 8 + r.sub % 2 ^ 8 * 2 ^ 8 + r.ctx % 8 * 2 ^ 16 + r.kslot % 32 * 2 ^ 19 + r.src % 16 * 2 ^ 24
    + r.pc % 2 ^ 32 * 2 ^ 32 + r.iword % 2 ^ 96 * 2 ^ 64 + r.trec % 2 ^ 24 * 2 ^ 160 + r.va % 2 ^ 56 * 2 ^ 192
    + r.ord % 2 ^ 48 * 2 ^ 256 + r.emask % 2 ^ 64 * 2 ^ 320 + capFields r.creg r.cap * 2 ^ 384

/-- Tile SRAM offset of a record pair (log 12: the pool stands at the start of the reserved 64 KiB). -/
def recOffset (r : Nat) : Nat := Config.poolOffset + 128 * r

/-- A count of a VF's error block raised by `n` (R447): 0 CECC, 1 UECC, 2 REPLAYS, 3 FLOG, 4 SHARED. -/
def State.vfAdd (s : State) (vf i n : Nat) : State :=
  { s with vfs := aalter s.vfs .reset vf fun v => { v with errs := v.errs.set i (v.errs.getD i 0 + n) } }

/-- A count of a VF's error block raised by one. -/
def State.vfCount (s : State) (vf i : Nat) : State := s.vfAdd vf i 1

/-- The VF of the kernel in a queue slot. -/
def State.vfOf (s : State) (p k : Nat) : Option Nat :=
  (aget? s.parts p).bind fun q => (q.kernel k).map (·.vf)

/-! ## Memory errors that an access meets (R447, R455, R459) -/

/-- Corrected and uncorrectable errors counted in a tile's health record, saturating. -/
def Counts.memory (c : Counts) (corrected uncorrectable : Nat) : Counts :=
  { c with cecc := min (c.cecc + corrected) (2 ^ 32 - 1), uecc := min (c.uecc + uncorrectable) (2 ^ 32 - 1) }

/-- Who made an access: the tile of this chip, the kernel's VF. -/
structure Accessor where
  tile : Option Nat
  vf : Option Nat
deriving DecidableEq, Repr

/-- Errors counted for the tile and the VF that made the access. -/
def State.countMemory (s : State) (by' : Accessor) (corrected uncorrectable : Nat) : State :=
  let s := match by'.tile with
    | some t => s.onTile t fun v => { v with counts := v.counts.memory corrected uncorrectable }
    | none => s
  match by'.vf with
  | some v => (s.vfAdd v 0 corrected).vfAdd v 1 uncorrectable
  | none => s

/-- Corrected errors of the bytes read are written back and counted. -/
def State.eccCorrect (s : State) (by' : Accessor) (a n : Nat) : State :=
  if s.eccHits a n = 0 then s else (s.eccFixed a n).countMemory by' (s.eccHits a n) 0

/-- ECC of a read of `n` bytes at `a`: the subcode of UNCORR, counted, or the corrected errors written back and counted. -/
def State.eccRead (s : State) (by' : Accessor) (a n : Nat) : State × Option Nat :=
  match s.eccAt a n with
  | some sub => (s.countMemory by' 0 1, some sub)
  | none => (s.eccCorrect by' a n, none)

/-- The accessor behind a packet: the posting tile and the VF of its kernel when it comes from this chip. Those of another chip are
counted there, if at all (log 89). -/
def State.accessorOf (s : State) (p : Packet) : Accessor :=
  if p.src.chip = s.chip then ⟨some p.src.tile, s.vfOf p.part p.kslot⟩ else ⟨none, none⟩

/-- R428: a record appended to a partition's fault log. A full log keeps its oldest records and counts the rest; so
does a log that the supervisor has not placed (log 13). -/
def State.logFault (s : State) (p : Nat) (r : FRec) (vf : Option Nat) : State :=
  match aget? s.parts p with
  | none => s
  | some q =>
    let s := match vf with
      | some v => s.vfCount v 3
      | none => s
    let f := q.supv.flog
    match f.base with
    | some b =>
      if f.tail - f.head < 2 ^ f.k then
        let s := s.putPoff q.prec (b + 64 * (f.tail % 2 ^ f.k)) (leBytes 64 r.nat)
        s.onSupv p fun v => { v with flog := { v.flog with tail := v.flog.tail + 1 } }
      else s.onSupv p fun v => { v with flog := { v.flog with overflow := (v.flog.overflow + 1) % 2 ^ 64 } }
    | none => s.onSupv p fun v => { v with flog := { v.flog with overflow := (v.flog.overflow + 1) % 2 ^ 64 } }

/-- R113: a record for the host log: dropped while it is full, and counted. -/
def State.logHost (s : State) (r : FRec) : State :=
  let a := s.assay
  { s with assay := { a with
      hostLog := if a.hltail - a.hlhead < 4096 then aset a.hostLog (a.hltail % 4096) (leBytes 64 r.nat) else a.hostLog
      hltail := a.hltail + 1 } }

/-! ## Packets (R324 to R328) -/

/-- The latency of R328 between two tiles of the chip. -/
def latency (a b len : Nat) : Nat := 6 + 2 * hops a b + (len + 63) / 64

/-- The cycle at which a packet of `len` bytes that is posted now takes effect at the earliest; a packet for another
chip first goes to the fabric interface's tile (R407, R481). -/
def State.dueAt (s : State) (src dst : Place) (len : Nat) : Nat :=
  if dst.chip = s.chip then s.cycle + latency src.tile dst.tile len else s.cycle + latency src.tile fabricTile len

/-- A packet put on the mesh, or handed to the fabric interface when its destination lies on another chip. -/
def State.sendPkt (s : State) (p : Packet) : State :=
  if p.dst.chip = s.chip then { s with net := s.net ++ [p] }
  else { s with fabric := { s.fabric with out := s.fabric.out ++ [p] } }

/-- A packet that hardware other than a core sends at once. -/
def State.send (s : State) (vn part : Nat) (src : Place) (unit : Agent) (dst : Place) (kslot len : Nat) (b : Body) :
    State :=
  s.sendPkt ⟨vn, part, src, unit, dst, kslot, s.dueAt src dst len, len, b, none, false, none⟩

/-! ## Management events (R429) -/

/-- A management event: a record with SRC 3 and a message on the management channel. The message carries the record's
first word in x1 and its VA in x2 (log 14). -/
def State.mgmtEvent (s : State) (p code sub va : Nat) : State :=
  let r : FRec := { FRec.zero with code := code, sub := sub, src := 3, va := va }
  let s := s.logFault p r none
  match (aget? s.parts p).bind (·.supv.mgmt) with
  | none => s
  | some (t, ch) =>
    s.send 0 p ⟨s.chip, fabricTile⟩ .fabric ⟨s.chip, t⟩ 0 24
      (.msg ch (word (code + sub * 2 ^ 8 + 3 * 2 ^ 24)) (word va) 0 0 none)

/-- The code of the event with which a kernel's tile group was killed on a tile (R469); OK when it was not. -/
def State.killCode (s : State) (t k : Nat) : Nat := aget (s.tile t).killed cOk k

/-- A kernel's tile group on a tile has been killed, or the kernel has gone (R69). -/
def State.groupGone (s : State) (t k : Nat) : Bool :=
  (s.tile t).groupKilled k || (((s.partOfTile t).bind fun p => p.2.kernel k).isNone)

/-! ## Capabilities that are given up -/

/-- Whether a channel is bound on a tile (R35). -/
def State.bound (s : State) (t ch : Nat) : Bool := (aget? (s.tile t).loc.chans ch).isSome

/-- The supervisor's reception point, when messages can go there now (R94). -/
def State.reception (s : State) (p : Nat) : Option (Nat × Nat) :=
  ((aget? s.parts p).bind (·.supv.recv)).bind fun r => if s.bound r.1 r.2 then some r else none

/-- One capability sent to the reception point. -/
def State.toReception (s : State) (p : Nat) (r : Nat × Nat) (h : HeldCap) : State :=
  s.send 0 p ⟨s.chip, fabricTile⟩ .fabric ⟨s.chip, r.1⟩ 0 40 (.msg r.2 h.hdr 0 0 0 (some h.cap))

/-- R94: capabilities in the supervisor hold leave in arrival order once the reception point's channel is bound. -/
def State.supvFlush (s : State) (p : Nat) : State :=
  match s.reception p, aget? s.parts p with
  | some r, some q =>
    (q.supv.hold.foldl (fun s h => s.toReception p r h) s).onSupv p fun v => { v with hold := [] }
  | _, _ => s

/-- R94: OWNK 11 in the entry of a capability that goes to the partition supervisor, a sealed one among them: should the hold be
full, BUF.RECOVER finds the buffer. -/
def State.ownSupv (s : State) (cap : Cap) : State :=
  if cap.mode = .sealed ∧ s.current cap then s.onCt cap.key fun e => { e with ownk := 3, owner := ⟨s.chip, fabricTile⟩ }
  else s.setOwner cap 3 ⟨s.chip, fabricTile⟩

/-- R94: a capability delivered to the partition supervisor. -/
def State.supvDeliver (s : State) (p : Nat) (cap : Cap) (reason : Nat) : State :=
  let s := s.ownSupv cap
  let h : HeldCap := ⟨cap, word reason⟩
  match aget? s.parts p with
  | none => s
  | some q =>
    match s.reception p with
    | some r => if q.supv.hold.isEmpty then s.toReception p r h
                else s.onSupv p fun v => { v with hold := v.hold ++ [h] }
    | none => if q.supv.hold.length < 4096 then s.onSupv p fun v => { v with hold := v.hold ++ [h] } else s

/-- R70: a capability on the reclaim path of the kernel in a queue slot, from a tile of it. -/
def State.reclaimPath (s : State) (p kslot t : Nat) (cap : Cap) (reason : Nat) : State :=
  let target : Option (Nat × Nat) := do
    let q ← aget? s.parts p
    let k ← q.kernel kslot
    let t ← k.interval[k.lrec.roff]?
    if k.lrec.rbv && k.retire == .no && !(s.tile t).groupKilled kslot then some (t, k.lrec.rchan) else none
  match target with
  | some (rt, ch) =>
    (s.setOwner cap 3 ⟨s.chip, rt⟩).send 0 p ⟨s.chip, t⟩ .home ⟨s.chip, rt⟩ kslot 40
      (.msg ch (word reason) 0 0 0 (some cap))
  | none => s.supvDeliver p cap reason

/-- One lookahead-reader field of a place cleared in a buffer's entry (R384, R69). -/
def State.clearReader (s : State) (cap : Cap) (at' : Place) : State :=
  if s.current cap then
    s.onCt cap.key fun e =>
      match e.lrs.find? fun p => p.2 == at' with
      | some p => { e with lrs := aerase e.lrs p.1 }
      | none => e
  else s

/-- Tokens that an entry gets back (R57), or that move to TOKLOST (R69). -/
def CtEntry.tokensBack (e : CtEntry) (n : Nat) (lost : Bool) : CtEntry :=
  { e with tokOut := e.tokOut - n, tokLost := if lost then e.tokLost + n else e.tokLost }

/-- Tokens returned to an entry or lost. Those of a buffer of another chip go to its home as a post (log 7). -/
def State.returnTokens (s : State) (p kslot t : Nat) (cap : Cap) (lost : Bool) : State :=
  if cap.chip ≠ s.chip then
    s.send 0 p ⟨s.chip, t⟩ .home ⟨cap.chip, farHome cap.kind cap.agent⟩ kslot 24
      (.consult (if lost then 5 else 4) cap cap.tokens 0)
  else if s.current cap then s.onCt cap.key fun e => e.tokensBack cap.tokens lost
  else s

/-- R298: a capability discarded on tile `t` by kernel `kslot`. A stale one vanishes. -/
def State.dropCap (s : State) (p kslot t : Nat) (cap : Cap) (reason : Nat) : State :=
  match cap.mode with
  | .fraction => s.returnTokens p kslot t cap false
  | .sealed | .lookahead => s
  | .exclusive =>
    if cap.chip = s.chip && (!s.current cap || (s.ct cap.key).recl.isSome) then s
    else s.reclaimPath p kslot t cap reason

/-- R69: a capability of a killed tile group. -/
def State.killCap (s : State) (p kslot t : Nat) (cap : Cap) (reason : Nat) : State :=
  match cap.mode with
  | .fraction => s.returnTokens p kslot t cap true
  | .sealed => s
  | .lookahead => s.clearReader cap ⟨s.chip, t⟩
  | .exclusive => s.reclaimPath p kslot t cap reason

/-! ## Leaving the tile (R362, R364, R450) -/

/-- The capability moves no bytes: what it names is not affected when it goes. -/
def inert (c : Cap) : Bool := c.mode == .sealed || c.mode == .lookahead

/-- R298: a home on another chip is asked whether an exclusive capability that is given up is stale, and so vanishes. -/
def State.askStale (s : State) (t : Nat) (g : Giving) : State :=
  let id := s.fabric.nextId
  let s := { s with fabric := { s.fabric with nextId := id + 1 } }
  (s.send 0 g.part ⟨s.chip, t⟩ .home ⟨g.cap.chip, farHome g.cap.kind g.cap.agent⟩ g.kslot 24 (.consult 6 g.cap 0 id)).onCore t
    fun k => { k with giving := k.giving ++ [{ g with ask := some id }] }

/-- A capability that was given up on tile `t` goes where R52, R69, R70 and R298 send it. -/
def State.dispose (s : State) (t : Nat) (g : Giving) : State :=
  match g.how with
  | .kill => s.killCap g.part g.kslot t g.cap g.reason
  | .path => s.reclaimPath g.part g.kslot t g.cap g.reason
  | .drop =>
    if g.cap.mode = .exclusive ∧ g.cap.chip ≠ s.chip then s.askStale t g else s.dropCap g.part g.kslot t g.cap g.reason

/-- Nothing keeps the capability on its tile any more: the strike horizon does not hold its going, and every access under it has been
performed, since going is a release (R362, R364). -/
def State.mayGo (s : State) (t : Nat) (g : Giving) : Bool :=
  g.ask.isNone && decide (g.due ≤ s.cycle) && (inert g.cap || s.quit t g.cap.key)

/-- A capability is given up on a tile: it goes, or waits until it may. -/
def State.giveUp (s : State) (t : Nat) (g : Giving) : State :=
  if s.mayGo t g then s.dispose t g else s.onCore t fun k => { k with giving := k.giving ++ [g] }

/-- The capabilities of a tile that may go now. -/
def State.letGo (s : State) (t : Nat) : State :=
  let gs := (s.tile t).core.giving
  if gs.isEmpty then s
  else gs.foldl (fun s g => s.giveUp t g) (s.onCore t fun k => { k with giving := [] })

/-- The same on every tile. -/
def State.letAllGo (s : State) : State := s.tiles.foldl (fun s v => s.letGo v.1) s

/-- The answer about a capability that was given up: a stale one vanishes, a live one takes the reclaim path, and so does one of which
nothing is learnt. -/
def State.answerGiving (s : State) (t : Nat) (a : RemoteAnswer) : State :=
  match (s.tile t).core.giving.find? fun g => g.ask == some a.id with
  | some g =>
    let s := s.onCore t fun k => { k with giving := k.giving.filter fun x => x.ask != some a.id }
    if a.code = cOk ∧ a.bytes = [0] ∨ a.code = cCapfault then s else s.reclaimPath g.part g.kslot t g.cap g.reason
  | none => s

/-- The cycle before which the strike horizon holds what an instruction of a tile does outside its context (R450). -/
def State.horizonDue (s : State) (t : Nat) : Nat := if s.shz t then s.cycle + Config.horizon else s.cycle

/-- A capability that its kernel gives up as by CDROP, held by no horizon. -/
def State.letDrop (s : State) (p kslot t : Nat) (cap : Cap) (reason : Nat) : State :=
  s.giveUp t ⟨cap, p, kslot, reason, .drop, 0, none, 9⟩

/-- A capability of a tile group that is killed (R69). -/
def State.letKill (s : State) (p kslot t : Nat) (cap : Cap) (reason : Nat) : State :=
  s.giveUp t ⟨cap, p, kslot, reason, .kill, 0, none, 9⟩

/-- A capability for a kernel's reclaim path (R70), held by no horizon. -/
def State.letPath (s : State) (p kslot t : Nat) (cap : Cap) (reason : Nat) : State :=
  s.giveUp t ⟨cap, p, kslot, reason, .path, 0, none, 9⟩

/-- A capability that the steward of a tile sends to a kernel's reclaim path: the strike horizon holds it (R450). -/
def State.sendPath (s : State) (p kslot t : Nat) (cap : Cap) (reason : Nat) : State :=
  s.giveUp t ⟨cap, p, kslot, reason, .path, s.horizonDue t, none, 8⟩

end Sys2Proof.Machine
end

