-- ==== Sys2Proof/Machine/Tasks.lean ====
section
/-!
DEFINITION. Task records and dispatch (R28 to R35, R114 to R124), what changes a dispatch condition, parking and
rollback (R274, R384), the end of a task (R52, R123), the completion of a barrier (R388).
-/

namespace Sys2Proof.Machine

/-! ## Dispatch conditions (R29, R117) -/

/-- R29: the counter comparison. -/
def reaches (value : BitVec 32) (target : Nat) : Bool := (value - BitVec.ofNat 32 target).toNat < 2 ^ 31

/-- A counter of a tile. -/
def Local.ctr (l : Local) (i : Nat) : Ctr := aget l.ctrs ⟨0, false⟩ i

/-- The fill count of a ring (R41). -/
def Local.fill (l : Local) (r : Ring) : Nat := ((l.ctr r.fctr).value - BitVec.ofNat 32 r.head).toNat

/-- The slots of a ring and the bytes of one (Table 2.5). -/
def Ring.slots (r : Ring) : Nat := 2 ^ r.nlog2
/-- Bytes of a slot. -/
def Ring.slotBytes (r : Ring) : Nat := 64 * 2 ^ r.slog2

/-- The ring needs of a record: ring number and slots. -/
def recNeeds (i : RecImage) : List (Nat × Nat) :=
  (if i.rv0 then [(i.rnum0, i.rcnt0)] else []) ++ (if i.rv1 then [(i.rnum1, i.rcnt1)] else [])

/-- R29: the ring parts hold. -/
def Local.ringsHold (l : Local) (i : RecImage) : Bool :=
  (recNeeds i).all fun n => ((aget? l.rings n.1).map fun r => decide (n.2 ≤ l.fill r)).getD false

/-- R29: the landing part holds. -/
def Local.landHolds (l : Local) (i : RecImage) : Bool :=
  (upto 32).all fun y => !bit i.lmask y || (aget? l.land y).isSome

/-- A parking slot; an unused one is empty. -/
def Local.slot (l : Local) (i : Nat) : Slot := aget l.slots ⟨none, none, false, false⟩ i

/-- R29: the state part holds. -/
def Local.stateHolds (l : Local) (i : RecImage) : Bool := !i.stv || (l.slot i.stSlot).cap.isSome

/-- R29: the counter part holds, or has latched (R117). -/
def Local.ctrHolds (l : Local) (r : TaskRec) : Bool :=
  !r.img.ctrv || r.latched || reaches (l.ctr r.img.ctr).value r.img.target

/-- The record waits to be run again under RETRY (Table 19.4): its state region is in the park store. -/
def Local.retried (l : Local) (i : Nat) : Bool := ((aget? l.park i).map fun e => e.wait == .retry).getD false

/-- R29: the dispatch condition of record `i`. -/
def Local.holds (l : Local) (i : Nat) (r : TaskRec) : Bool :=
  l.ctrHolds r && l.ringsHold r.img && l.landHolds r.img && (l.stateHolds r.img || l.retried i)

/-- R117: waiting records that a change names are evaluated; one whose condition holds becomes ready with a stamp. -/
def State.reeval (s : State) (t : Nat) (names : TaskRec → Bool) : State :=
  s.onLocal t fun l =>
    { l with recs := amap l.recs fun i r =>
        if r.q == .waiting && names r then
          if l.holds i r then { r with latched := r.img.ctrv, q := .ready r.prio s.cycle i s.cycle s.cycle false }
          else r
        else r }

/-- A record names a counter: in its counter part or as the fill counter of a needed ring. -/
def Local.namesCtr (l : Local) (i : Nat) (r : TaskRec) : Bool :=
  (r.img.ctrv && r.img.ctr == i)
  || (recNeeds r.img).any fun n => ((aget? l.rings n.1).map fun g => g.fctr == i).getD false

/-- R333: a counter changed, its waiters evaluated, an overfill of a ring counted (R41). The spec does not say how overfills
are counted: the model's choice is one for every change of a counter after which some ring that it fills holds more than
its slots, MSET and the clearing by RBIND among them (log 81). -/
def State.setCtr (s : State) (t i : Nat) (c : Ctr) : State :=
  let s := s.onLocal t fun l => { l with ctrs := aset l.ctrs i c }
  let l := (s.tile t).loc
  let extra := l.rings.any fun r => r.2.fctr == i && r.2.slots < l.fill r.2
  let s := if extra then s.onCore t fun k => { k with overfill := k.overfill + 1 } else s
  s.reeval t (l.namesCtr i)

/-- R333: an increment applied to a counter. -/
def State.incCtr (s : State) (t i amount : Nat) : State :=
  let c := (s.tile t).loc.ctr i
  s.setCtr t i { c with value := c.value + BitVec.ofNat 32 amount }

/-- R330: a landing register written or consumed. -/
def State.setLand (s : State) (t y : Nat) (v : Option Word) : State :=
  (s.onLocal t fun l => { l with land := match v with | some w => aset l.land y w | none => aerase l.land y }).reeval t
    fun r => bit r.img.lmask y

/-- A parking slot changed (R32). -/
def State.setSlot (s : State) (t i : Nat) (v : Slot) : State :=
  (s.onLocal t fun l => { l with slots := aset l.slots i v }).reeval t fun r => r.img.stv && r.img.stSlot == i

/-- A slot can take a capability: empty, not reserved, not held (R32, R64, R293). -/
def Slot.open (v : Slot) : Bool := v.cap.isNone && !v.reserved && !v.held

/-- R64, R319, R388: a capability parked on behalf of a kernel, or sent to its reclaim path when the slot is taken. The spec
gives no reason for that header word: the model's choice is OK (log 81). -/
def State.parkCap (s : State) (p kslot t i : Nat) (cap : Cap) : State :=
  let v := (s.tile t).loc.slot i
  if v.open then (s.setOwner cap 0 ⟨s.chip, t⟩).setSlot t i { v with cap := some cap, kslot := some kslot }
  else s.reclaimPath p kslot t cap cOk

/-- R291: HEAD of a ring advanced. -/
def State.advanceRing (s : State) (t r k : Nat) : State :=
  (s.onLocal t fun l => { l with rings := match aget? l.rings r with
      | some g => aset l.rings r { g with head := (g.head + k) % 2 ^ 32, relsd := (g.relsd + k) % 2 ^ 32 }
      | none => l.rings }).reeval t fun q => (recNeeds q.img).any fun n => n.1 == r

/-! ## Enqueuing (R30, R31, R125) -/

/-- The lowest free record pair. R31 does not say which free pair a creation takes: the model's choice (log 81). -/
def Local.freeRec (l : Local) : Option Nat := freeKey l.recs (upto 256)

/-- R30: a record image is refused. `supv`: the creator is the partition supervisor. -/
def recRefused (i : RecImage) (l : Local) (im : Image) (supv : Bool) : Bool :=
  (i.prio == 7 && !supv) || im.nacc < i.nacc
  || ((recNeeds i).any fun n => ((aget? l.rings n.1).map fun g => decide (g.slots < n.2)).getD true)
  || (i.rv0 && i.rv1 && i.rnum0 == i.rnum1) || !im.legal i.entry || !i.resZero

/-- R125: the priority fixed at enqueue. -/
def fixedPrio (prio : Nat) (bias : Int) : Nat :=
  if prio = 7 then 7 else (max 0 (min 6 ((prio : Int) + bias))).toNat

/-- R117: a new record enqueued and evaluated. -/
def State.putRec (s : State) (t r : Nat) (v : TaskRec) : State :=
  let v := { v with q := .waiting, born := s.cycle }
  (s.onLocal t fun l => { l with recs := aset l.recs r v }).reeval t fun w => w == v

/-- The bias that a kernel's tasks get in a cycle: a new one from the cycle after its acceptance (R125). -/
def Kernel.biasIn (k : Kernel) (cycle : Nat) : Int := if cycle ≤ k.biasAt then k.biasOld else k.bias

/-- The kernel's bias now, 0 when it has gone. -/
def State.bias (s : State) (p k : Nat) : Int :=
  (((aget? s.parts p).bind fun q => q.kernel k).map fun v => v.biasIn s.cycle).getD 0

/-- A task created on a tile; none when the pool is empty (R31). -/
def State.createTask (s : State) (p k t : Nat) (img : RecImage) (first : List Word) (cap : Option Cap)
    (sender : Option Place) : Option State :=
  (s.tile t).loc.freeRec.map fun r =>
    s.putRec t r ⟨img, k, 0, 0, first, cap, fixedPrio img.prio (s.bias p k), false, .waiting, sender, s.cycle⟩

/-- A destination word's place (Table 15.2), and the word of a place (R42). -/
def placeOf (w : Word) : Place := ⟨field w.toNat 12 10, field w.toNat 0 12⟩
/-- The word of a place. -/
def placeWord (p : Place) : Word := BitVec.ofNat 64 (p.chip * 4096 + p.tile)

/-- Source and kind of a packet in ORD of a record with SRC 5 (Table 19.11). -/
def ordSource (src : Place) (part kind : Nat) : Nat := src.chip * 2 ^ 12 + src.tile + part * 2 ^ 22 + kind * 2 ^ 28

/-- R482: a discarded or refused packet logged for the partition that holds the destination tile, or in the host log. -/
def State.logPacket (s : State) (t : Nat) (code sub va : Nat) (p : Packet) (kind : Nat) (payload : Word)
    (cap : Option Cap) : State :=
  let k := if p.src.chip = s.chip then p.kslot else 0
  let r : FRec := { FRec.zero with
    code := code, sub := sub, src := 5, va := va, ord := ordSource p.src p.part kind, iword := payload.toNat,
    kslot := k, cap := cap }
  match s.partOfTile t with
  | some q => s.logFault q.1 r (if p.src.chip = s.chip then s.vfOf p.part p.kslot else none)
  | none => s.logHost r

/-- The record of a message task (R34). -/
def Chan.image (c : Chan) (reply : Bool) : RecImage :=
  { entry := c.entry, prio := c.prio, nacc := c.nacc, reply := c.reply || reply, stv := c.stv, stSlot := c.stSlot,
    ctrv := false, ctr := 0, target := 0, rv0 := false, rnum0 := 0, rcnt0 := 0, rv1 := false, rnum1 := 0, rcnt1 := 0,
    lmask := 0, arg := c.arg, resZero := true }

/-- R34, R35: a message takes effect on a channel of its tile; none while the record pool is empty. -/
def State.message (s : State) (t ch : Nat) (x1 x2 x3 x4 : Word) (cap : Option Cap) (p : Packet) : Option State :=
  match s.partOfTile t with
  | none => some (s.logPacket t cIllopnd 1 (s.chip * 4096 + t + ch * 2 ^ 24) p 0 x2 cap)
  | some q =>
    match aget? (s.tile t).loc.chans ch with
    | some c =>
      if c.dead then
        let s := s.logPacket t cIllopnd 1 (s.chip * 4096 + t + ch * 2 ^ 24) p 0 x2 cap
        some (match cap with | some v => s.letKill q.1 c.kslot t v (s.killCode t c.kslot) | none => s)
      else
        (s.createTask q.1 c.kslot t (c.image (p.vn == 0))
            [x1, x2, x3, x4, placeWord p.src, word ch] cap (some p.src)).map fun s =>
          match cap with
          | some v => s.setOwner v 0 ⟨s.chip, t⟩
          | none => s
    | none =>
      let s := s.logPacket t cIllopnd 1 (s.chip * 4096 + t + ch * 2 ^ 24) p 0 x2 cap
      some (match cap with | some v => s.supvDeliver q.1 v cOk | none => s)

/-! ## Slots, accumulators and the park store -/

/-- SIGMASK of a task's record with one signal recorded (R33). -/
def State.markSignal (s : State) (t : Nat) (n : Option (Nat × Nat)) : State :=
  match n with
  | some (r, i) =>
    if i < 16 then
      s.onLocal t fun l => { l with recs := match aget? l.recs r with
        | some q => aset l.recs r { q with sigmask := q.sigmask ||| BitVec.twoPow 16 i }
        | none => l.recs }
    else s
  | none => s

/-- What the task of a context has issued and has not taken effect: held writes and posts, by their places in the order of issue (R336,
R450). -/
def Context.pending (v : Context) : List Nat :=
  ((v.shzLog.map LogWrite.ord) ++ (v.shzPosts.map HeldPost.ord)).filter fun n => v.run.first ≤ n

/-- A post that takes the reserved VN1 entry (R124). -/
def HeldPost.reserved (p : HeldPost) : Bool := match p.post with | .packet _ r => r | _ => false

/-- R115: a context slot that dispatch may use: no task, no queued command, no reply of an earlier task that has yet to leave. -/
def CoreSt.slotFree (k : CoreSt) (c : Nat) : Bool :=
  let v := aget k.ctxs .reset c
  v.run.task.isNone && v.mx.queue.isEmpty && !(k.inj.any fun e => e.ctx == c && e.reserved)
  && !v.shzPosts.any HeldPost.reserved

/-- The lowest free slot. -/
def CoreSt.freeSlot (k : CoreSt) : Option Nat := (upto 8).find? k.slotFree

/-- Accumulators that no context and no parked task holds. -/
def Tile.freeAccs (v : Tile) : List Nat :=
  (upto 16).filter fun a =>
    !(v.core.ctxs.any fun c => c.2.run.accs.contains a) && !(v.loc.park.any fun q => q.2.accs.contains a)

/-- The VN1 entries that a context's held posts have taken, a reserved one among them when its task has left (R124). -/
def Context.vn1Held (c : Context) : Nat :=
  (c.shzPosts.filter fun p => match p.post with
    | .packet q reserved => q.vn == 1 && if reserved then !c.run.reply else p.taken
    | _ => false).length

/-- VN1 entries in use: packets that wait, reservations, and posts that have taken theirs (R124, R326). -/
def CoreSt.vn1Used (k : CoreSt) : Nat :=
  (k.inj.filter fun e => e.vn == 1).length + (k.ctxs.filter fun c => c.2.run.reply).length
  + (k.ctxs.map fun c => c.2.vn1Held).sum

/-- A ring held by a running or parked task (R118). -/
def Tile.ringHeld (v : Tile) (r : Nat) : Bool :=
  (v.core.ctxs.any fun c => c.2.run.task.isSome && c.2.run.rings.contains r)
  || v.loc.park.any fun q => q.2.rings.contains r

/-- What stands for the captured registers of a vector instruction that holds the unit while it awaits another chip: it completes none,
and there is no such register (R206). -/
def unitWaits : List Nat := [16]

/-- The vector unit is not held by an instruction that awaits another chip any more. -/
def Context.freeUnit (v : Context) : Context := if v.vecBusy = some unitWaits then { v with vecBusy := none } else v

/-- Posts of a task that has left: they record no signal any more. -/
def unsigned (posts : List HeldPost) : List HeldPost := posts.map fun p => { p with signal := none }

/-- A context after its task has left it: registers, run and speculation gone; accumulators go with the last command
(R123). What it has issued still takes effect (R336, R450). -/
def Context.leave (c : Context) : Context :=
  { Context.reset with
    mx := { c.mx with flags := 0, err := none }
    run := { Run.reset with accs := if c.mx.queue.isEmpty then [] else c.run.accs, prio := c.run.prio }
    shzLog := c.shzLog
    shzPosts := unsigned c.shzPosts }

/-- R123: a context without a task gives its accumulators up with its last command. -/
def Context.drained (v : Context) : Context :=
  if v.mx.queue.isEmpty && v.run.task.isNone then { v with run := { v.run with accs := [] }, mxRec := none } else v

/-- R274: whether the park store has room. -/
def Local.parkRoom (l : Local) : Bool := l.park.length < 16

/-- A held kick entry whose post is discarded is freed (R307). -/
def Local.freeHeldKicks (l : Local) (posts : List HeldPost) : Local :=
  posts.foldl (fun l p => match p.post with
    | .kick e => { l with kicks := aerase l.kicks e }
    | _ => l) l

/-- R121: held status ends for a record that has left the ready queue. -/
def State.unhold (s : State) (t r : Nat) : State :=
  s.onCore t fun k => { k with disp := { k.disp with held := if k.disp.held = some r then none else k.disp.held } }

/-- The task of a record. -/
def Local.taskId (l : Local) (r : Nat) : TaskId := ⟨r, ((aget? l.recs r).map fun q => q.born).getD 0⟩

/-- The tasks of the last 160 cycles, and no older ones. -/
def recent (cycle : Nat) (l : List PastTask) : List PastTask := l.filter fun x => cycle ≤ x.cycle + Config.horizon

/-- R453: the task in a slot leaves it, noted for 160 cycles. -/
def State.noteLeft (s : State) (t c r k : Nat) : State :=
  let id := (s.tile t).loc.taskId r
  s.onCore t fun v => { v with disp := { v.disp with left := ⟨s.cycle, c, id, k⟩ :: recent s.cycle v.disp.left } }

/-- R274: a task parked. It gives up its slot; queued commands run on for it. Without room in the park store, or while
effects that it issued have yet to leave, it waits in its slot. -/
def State.parkTask (s : State) (t c : Nat) (w : ParkWait) : State :=
  let v := s.ctxAt t c
  match v.run.task with
  | none => s
  | some r =>
    if (s.tile t).loc.parkRoom && v.pending.isEmpty then
      let e : Parked :=
        { regs := v.regs, trapEntry := v.run.trapEntry, kept := v.run.kept, faultPc := v.run.faultPc,
          nsig := v.run.nsig, noRetry := v.run.noRetry, rolled := v.spec.rolled,
          abort := v.spec.abort, wait := w, rejected := v.run.rejected, mxFlags := v.mx.flags, mxErr := v.mx.err,
          accs := v.run.accs, rings := v.run.rings, reply := v.run.reply }
      let s := s.noteLeft t c r (((aget? (s.tile t).loc.recs r).map fun q => q.kslot).getD 0)
      let s := s.onLocal t fun l =>
        { l with park := aset l.park r e, recs := match aget? l.recs r with
            | some q => aset l.recs r { q with q := .parked }
            | none => l.recs }
      s.setCtxAt t c { v.leave with mxRec := if v.mx.queue.isEmpty then none else some r, run := { Run.reset with prio := v.run.prio } }
    else s.onCtxAt t c fun v => { v with hold := .parkFull w }

/-- A context waits for the answers to its commit: the completion notice has been consumed (R389). -/
def Hold.committing (h : Hold) : Bool := match h with | .commit _ _ | .drain _ _ => true | _ => false

/-- A record's queue state changed. -/
def State.setQ (s : State) (t r : Nat) (q : QState) : State :=
  s.onLocal t fun l => { l with recs := match aget? l.recs r with
    | some v => aset l.recs r { v with q := q }
    | none => l.recs }

/-- What a parked task waited for has come: it becomes ready, or goes on from the slot in which it has waited for room in the park
store, with a fresh W_h count (R384, R389). -/
def State.awaited (s : State) (t c r : Nat) : State :=
  match (s.ctxAt t c).run.task, (aget? (s.tile t).loc.recs r).map fun q => (q.prio, q.q) with
  | none, some (prio, QState.parked) => s.setQ t r (.ready prio s.cycle r s.cycle s.cycle false)
  | some _, _ => s.onCtxAt t c fun v => { v with hold := .none, run := { v.run with dispatched := s.cycle } }
  | none, _ => s

/-- R384: rollback. The log, the held posts, the bitmap and the lookahead capabilities go, the snapshot is restored and
the task parks until its barrier's phase completes; one whose notice has come is ready at once (log 90). -/
def State.rollback (s : State) (t c sub : Nat) : State :=
  let v := s.ctxAt t c
  match v.spec.snap with
  | none => s
  | some n =>
    let s := v.spec.looks.foldl (fun s k => s.clearReader k ⟨s.chip, t⟩) s
    let s := s.onLocal t fun l => l.freeHeldKicks v.spec.held
    let s := match s.partOfTile t with
      | some p => s.onPart p.1 fun q =>
          { q with counts := { q.counts with aborts := aalter q.counts.aborts 0 sub (· + 1) } }
      | none => s
    let s := s.setCtxAt t c
      { v.freeUnit with
        regs := n.regs
        run := { v.run with
          nsig := n.nsig, trapEntry := n.trapEntry, faultPc := n.faultPc, kept := n.kept, graceEnd := none,
          issueAt := s.cycle + 12 }
        spec := { Spec.reset with abort := sub, rolled := true }
        hold := .none, answer := none, endHeld := none }
    let s := s.parkTask t c (.barrier v.spec.bar v.spec.bidx v.spec.phase)
    match v.hold.committing, v.run.task with
    | true, some r => s.awaited t c r
    | _, _ => s

/-! ## The end of a task (R52, R123, R194) -/

/-- Capabilities of a register file disposed of one after another. -/
def State.disposeAll (s : State) (caps : List (Nat × Cap)) (f : State → Cap → State) : State :=
  caps.foldl (fun s c => f s c.2) s

/-- R32: the state region goes back to its slot, recorded to the task's kernel, and the hold ends. -/
def State.returnRegion (s : State) (t k : Nat) (img : RecImage) (c14 : Option Cap) : State :=
  if img.stv then
    let v := (s.tile t).loc.slot img.stSlot
    s.setSlot t img.stSlot { v with cap := c14, kslot := if c14.isSome then some k else v.kslot, held := false }
  else s

/-- The continuation of ENDC on the kept record pair (R195). -/
def recContinued (i : RecImage) (entry ctr target : Nat) : RecImage :=
  { i with entry := entry, ctrv := true, ctr := ctr, target := target % 2 ^ 32, rv0 := false, rnum0 := 0, rcnt0 := 0,
           rv1 := false, rnum1 := 0, rcnt1 := 0, reply := false, lmask := 0 }

/-- x5 and x6 of a task that no message created (R42). -/
def createdWords (chip t : Nat) (xs : List Word) : List Word :=
  let x := fun i => xs.getD i 0
  [x 0, x 1, x 2, x 3, placeWord ⟨chip, t⟩, BitVec.allOnes 64]

/-- The task of a record is over: the engine runs the commands that it left in another slot to their end for no task any more,
and its accumulators stay with them (R123, R274). -/
def State.keepAccs (s : State) (t r : Nat) (accs : List Nat) : State :=
  (upto 8).foldl (fun s c =>
    let v := s.ctxAt t c
    if v.mxRec = some r ∧ v.run.task ≠ some r ∧ !v.mx.queue.isEmpty then
      s.setCtxAt t c { v with mxRec := none, run := if v.run.task.isNone then { v.run with accs := accs } else v.run }
    else s) s

/-- R52, R123, R194, R195: the task of a context slot ends now. Its capabilities are disposed of with `reason`. -/
def State.endNow (s : State) (t c : Nat) (kind : EndKind) (reason : Nat) : State :=
  let v := s.ctxAt t c
  match v.run.task, s.partOfTile t with
  | some r, some p =>
    match aget? (s.tile t).loc.recs r with
    | none => s.setCtxAt t c v.leave
    | some q =>
      let s := (s.keepAccs t r v.run.accs).setCtxAt t c { v.leave with run := { v.leave.run with issueAt := s.cycle + 1 } }
      let s := s.noteLeft t c r q.kslot
      let caps := if q.img.stv then v.regs.c.filter fun x => x.1 != 14 else v.regs.c
      let s := s.disposeAll caps fun s cap => s.letDrop p.1 q.kslot t cap reason
      let s := s.returnRegion t q.kslot q.img (v.regs.readC 14)
      match kind with
      | .cont img =>
        s.putRec t r
          { q with img := img, sigmask := 0, retries := 0, latched := false, cap := none, sender := none,
                   first := createdWords s.chip t [word img.target], prio := fixedPrio img.prio (s.bias p.1 q.kslot) }
      | _ => s.onLocal t fun l => { l with recs := aerase l.recs r }
  | _, _ => s

/-- R432: the task of a slot ends at once by containment, its capabilities disposed of with `reason`. What it has issued still takes
effect (R336, R450). -/
def State.endSoon (s : State) (t c reason : Nat) : State := s.endNow t c .plain reason

/-! ## Barriers (R376, R388, R394) -/

/-- The destinations of a publication that are valid (Table 17.2): rank and slot. -/
def pubDests (w : Word) : List (Nat × Nat) :=
  (upto 3).filterMap fun i =>
    let d := field w.toNat (21 * i) 21
    if bit d 20 then some (field d 8 12, field d 0 8) else none

/-- Every party of a barrier has arrived, killed parties counting as arrived (R394). -/
def Barrier.full (b : Barrier) : Bool :=
  (upto b.n).all fun i => b.arrived.contains (b.rbase + i) || b.killed.contains (b.rbase + i)

/-- R388 step 1 for one publication: tokens, LAOPEN, one fraction for each destination. -/
def State.publish (s : State) (p k : Nat) (kern : Kernel) (pub : Cap × Word) : State :=
  let cap := pub.1
  let ds := pubDests pub.2
  if s.current cap then
    let e := s.ct cap.key
    let s := s.setCt cap.key { e with tokOut := e.tokOut + ds.length, laopen := false }
    let f : Cap := { cap with mode := .fraction, rights := ⟨true, false, false, true⟩, tokens := 1, woff := 0, wlen := e.len }
    ds.foldl (fun s d => s.parkCap p k (kern.tiles.getD d.1 0) d.2 f) s
  else s

/-- R364, R388: no write to a publication's buffer that has passed its check is still to be performed on a tile of the partition. -/
def State.unwritten (s : State) (p : Part) (key : Nat) : Bool := p.tiles.all fun t => s.accessed t key

/-- R388 step 1: the completion sequence starts when every party has arrived; a published buffer's fractions follow every write that
was accepted before (R364). -/
def State.barCheck (s : State) (t i : Nat) : State :=
  match aget? (s.tile t).loc.bars i, s.partOfTile t with
  | some b, some p =>
    if b.full && !b.completing && b.prev.all fun q => s.unwritten p.2 q.2.1.key then
      match p.2.kernel b.kslot with
      | some k =>
        let s := b.prev.foldl (fun s q => s.publish p.1 b.kslot k q.2) s
        s.onLocal t fun l => { l with bars := aset l.bars i { b with completing := true } }
      | none => s
    else s
  | _, _ => s

/-- Readers of a buffer roll back with subcode 0x09 (R394): every context of a recorded reader tile that holds a
lookahead capability of it. -/
def State.rollReaders (s : State) (cap : Cap) (key : Nat) : State :=
  (s.ct key).lrs.foldl (fun s r =>
    (upto 8).foldl (fun s c =>
      let v := s.ctxAt r.2.tile c
      if v.spec.on && v.spec.looks.any (fun k => k.key == key && k.hallmark == cap.hallmark)
      then s.rollback r.2.tile c 9 else s) s) s

/-- R394: the publications of a party cancelled, LAOPEN cleared on their buffers, their readers rolled back. -/
def State.cancelPubs (s : State) (t i party : Nat) : State :=
  match aget? (s.tile t).loc.bars i with
  | none => s
  | some b =>
    let pubs := ([aget? b.pubs party, aget? b.prev party]).filterMap id
    let s := pubs.foldl (fun s q =>
      if s.current q.1 then (s.rollReaders q.1 q.1.key).onCt q.1.key fun e => { e with laopen := false } else s) s
    let b' := { b with pubs := aerase b.pubs party, prev := aerase b.prev party, killed := party :: b.killed }
    s.onLocal t fun l => { l with bars := aset l.bars i b' }

/-- R394: a killed party of every barrier of a kernel counts as arrived. -/
def State.killParty (s : State) (p k rank : Nat) : State :=
  match aget? s.parts p with
  | none => s
  | some q =>
    q.tiles.foldl (fun s t =>
      (s.tile t).loc.bars.foldl (fun s b =>
        if b.2.kslot = k ∧ b.2.rbase ≤ rank ∧ rank < b.2.rbase + b.2.n then (s.cancelPubs t b.1 rank).barCheck t b.1
        else s) s) s

end Sys2Proof.Machine
end

