-- ==== Sys2Proof/Machine/Contain.lean ====
section
/-!
DEFINITION. Containment (R430 to R434), kills, the start of a halt (R438), the start of a retirement (R437).
-/

namespace Sys2Proof.Machine

/-! ## Fault records of tasks -/

/-- The words of a code section at a code offset; 0 where no whole instruction lies there (R27). -/
def State.iword (s : State) (p : Part) (im : Image) (pc : Nat) : Nat :=
  if im.legal pc then s.imageNat p im (im.codeOff + pc) 12 else 0

/-- The record of a fault of the task in a context slot. -/
def State.taskRecord (s : State) (w : Who) (c src code sub : Nat) : FRec :=
  let v := s.ctxAt s.cur.tile c
  { FRec.zero with
    code := code, sub := sub, ctx := c, kslot := w.kslot, src := src, pc := v.regs.pc.toNat,
    iword := s.iword w.part w.image v.regs.pc.toNat, trec := recOffset w.rec' }

/-! ## Kills -/

/-- Commands of a kernel's queue discarded; the one the engine is running runs to completion (R433). -/
def Context.discardCommands (v : Context) (runs : Bool) (k : Nat) : Context :=
  match v.mx.queue with
  | [] => v
  | m :: ms =>
    let kept := (if runs then [m] else if m.kslot = k then [] else [m]) ++ ms.filter fun x => x.kslot != k
    { v with mx := { v.mx with queue := kept } }

/-- The engine of a tile runs a command of a context. -/
def CoreSt.running (e : CoreSt) (c : Nat) : Bool := (e.eng.running.map fun r => r.1 == c).getD false

/-- Posts of a killed group that still leave: packets. Its kick entries and its tasks go (R69, R308, R433). -/
def packetsOnly (posts : List HeldPost) : List HeldPost :=
  posts.filter fun h => match h.post with | .packet _ _ => true | _ => false

/-- R433: a context whose task is killed. What speculation has done goes with it (R384); packets that it has issued still
leave (Table 3.6). -/
def Context.killed (v : Context) : Context :=
  let w := v.leave
  { w with shzPosts := packetsOnly w.shzPosts }

/-- The capability registers of a killed task: a speculating one is undone first (R384). -/
def Context.killedCaps (v : Context) : Assoc Cap := if v.spec.on then ((v.spec.snap.map (·.regs)).getD v.regs).c else v.regs.c

/-- R433: what the killed group's contexts hold goes, by R69. The running tasks stop at once. -/
def State.killContexts (s : State) (p k t reason : Nat) : State :=
  (upto 8).foldl (fun s c =>
    let s := s.onCtxAt t c fun v => (v.discardCommands ((s.tile t).core.running c) k).drained
    let v := s.ctxAt t c
    match s.recAt t c with
    | some (r, q) =>
      if q.kslot = k then
        let s := s.keepAccs t r v.run.accs
        let s := v.spec.looks.foldl (fun s x => s.clearReader x ⟨s.chip, t⟩) s
        let s := s.onLocal t fun l => l.freeHeldKicks (if v.spec.on then v.spec.held else [])
        let s := s.onCtxAt t c Context.killed
        let s := s.disposeAll v.killedCaps fun s cap => s.letKill p k t cap reason
        if q.img.stv then s.setSlot t q.img.stSlot { (s.tile t).loc.slot q.img.stSlot with held := false } else s
      else s
    | none => s) s

/-- R433: the group's records are freed, with the park store's capabilities and those given at creation. -/
def State.killRecords (s : State) (p k t reason : Nat) : State :=
  (s.tile t).loc.recs.foldl (fun s r =>
    if r.2.kslot = k then
      let caps : List (Nat × Cap) := match aget? (s.tile t).loc.park r.1 with
        | some e => e.regs.c
        | none => match r.2.q, r.2.cap with
          | .running _, _ => []
          | _, some c => [(0, c)]
          | _, none => []
      let parked := (aget? (s.tile t).loc.park r.1).isSome
      let s := (s.unhold t r.1).keepAccs t r.1 (((aget? (s.tile t).loc.park r.1).map fun e => e.accs).getD [])
      let s := s.onLocal t fun l => { l with recs := aerase l.recs r.1, park := aerase l.park r.1 }
      let s := s.disposeAll caps fun s cap => s.letKill p k t cap reason
      if parked && r.2.img.stv then
        s.setSlot t r.2.img.stSlot { (s.tile t).loc.slot r.2.img.stSlot with held := false }
      else s
    else s) s

/-- R69: parking slots recorded to the kernel are emptied. -/
def State.killSlots (s : State) (p k t reason : Nat) : State :=
  (s.tile t).loc.slots.foldl (fun s x =>
    if x.2.kslot = some k then
      let s := s.setSlot t x.1 { x.2 with cap := none, kslot := none }
      match x.2.cap with
      | some c => s.letKill p k t c reason
      | none => s
    else s) s

/-- The change is one of a kick entry of the kernel. -/
def Undo.kickOf (k : Nat) (u : Undo) : Bool := match u with | .kick _ _ old => old.kslot == k | _ => false

/-- R308: queued kick entries of the kernel are freed, claimed ones keep their claim; their capabilities go. No strike brings them
back. -/
def State.killKicks (s : State) (p k t reason : Nat) : State :=
  let s := s.onCore t fun v => { v with undo := v.undo.filter fun u => !Undo.kickOf k u.2 }
  (s.tile t).loc.kicks.foldl (fun s x =>
    if x.2.kslot = k then
      let s := s.onLocal t fun l =>
        { l with kicks := if x.2.state = .claimed then aset l.kicks x.1 { x.2 with cap := none }
                          else aerase l.kicks x.1 }
      match x.2.cap with
      | some c => s.letKill p k t c reason
      | none => s
    else s) s

/-- A capability register of the steward is used by a copy or a fill in flight. -/
def Steward.uses (w : Steward) (i : Nat) : Bool :=
  w.ops.any fun o => o.kregs.contains i && match o.kind with
    | .copy _ _ _ _ | .fill _ _ _ => true
    | _ => false

/-- R69: capabilities delegated to the steward under the kernel's slot, but for those that a running operation uses
(Table 14.6). -/
def State.killDelegated (s : State) (p k t reason : Nat) : State :=
  (s.tile t).stw.k.foldl (fun s x =>
    if x.2.2 = k ∧ !(s.tile t).stw.uses x.1 then
      (s.onSteward t fun w => { w with k := aerase w.k x.1 }).letKill p k t x.2.1 reason
    else s) s

/-- R290: rings of the kernel removed, with their capabilities. A COPY request that its ring has not granted waits on: the
spec does not say what becomes of it, and this is the model's choice (log 81). -/
def State.killRings (s : State) (p k t reason : Nat) : State :=
  (s.tile t).loc.rings.foldl (fun s x =>
    if x.2.kslot = k then
      (s.onLocal t fun l => { l with rings := aerase l.rings x.1 }).letKill p k t x.2.cap reason
    else s) s

/-- The records of a kernel on a tile that no slot runs (R437: LEFT). -/
def State.leftOn (s : State) (k t : Nat) : Nat :=
  ((s.tile t).loc.recs.filter fun r => r.2.kslot == k && match r.2.q with | .running _ => false | _ => true).length

/-- The tile group of a kernel on a tile counts as killed, by an event with this code. -/
def State.markKilled (s : State) (k t code : Nat) : State := s.onTile t fun v => { v with killed := aset v.killed k code }

/-- R433: the tile group of a kernel on a tile is killed. A reclaim tile in the group receives nothing any more (R70). -/
def State.killGroup (s : State) (p k t reason : Nat) : State :=
  let s := s.markKilled k t reason
  let s := s.killContexts p k t reason
  let s := s.killRecords p k t reason
  let s := s.killSlots p k t reason
  let s := s.killKicks p k t reason
  let s := s.killDelegated p k t reason
  let s := s.killRings p k t reason
  let s := s.onLocal t fun l =>
    { l with chans := amap l.chans fun _ c => if c.kslot = k then { c with dead := true } else c }
  match (aget? s.parts p).bind fun q => q.kernel k with
  | some kern => s.killParty p k (kern.rank t)
  | none => s

/-- R432, R437: every tile group of a kernel is killed; its retirement starts with the fault's code. -/
def State.killKernel (s : State) (p k code sub : Nat) : State :=
  match (aget? s.parts p).bind fun q => q.kernel k with
  | none => s
  | some kern =>
    let left := (kern.interval.map fun t => s.leftOn k t).sum
    let s := kern.interval.foldl (fun s t => s.markKilled k t code) s
    let s := kern.interval.foldl (fun s t => s.killGroup p k t code) s
    s.onKernel p k fun x => match x.retire with
      | .withdrawn => x
      | _ => { x with retire := .stopping code sub true left }

/-! ## Halts (R438) -/

/-- R438: the halt line is raised at every tile; speculating tasks roll back with subcode 0x08 (R393). -/
def State.startHalt (s : State) (p : Nat) (why : HaltFor) : State :=
  match aget? s.parts p with
  | none => s
  | some q =>
    let s := s.onPart p fun v => { v with halt := some why }
    q.tiles.foldl (fun s t =>
      let s := s.onCore t fun k => { k with disp := { k.disp with halting := true, halted := false } }
      (upto 8).foldl (fun s c => if (s.ctxAt t c).spec.on then s.rollback t c 8 else s) s) s

/-! ## Containment (R430 to R432) -/

/-- The level at which a fault enters containment, and the unit there. -/
inductive Level where
  | task | group | kernel | partition
deriving DecidableEq, Repr

/-- The policy values of R26. -/
def polIgnore : Nat := 0
/-- RETRY. -/
def polRetry : Nat := 1
/-- KILL_SELF. -/
def polKillSelf : Nat := 2

/-- A fault absorbed by IGNORE or RETRY is counted in NFAULT (R436). -/
def State.absorbed (s : State) (p k : Nat) : State :=
  s.onKernel p k fun x => { x with nfault := min 255 (x.nfault + 1) }

/-- The context waits at its BARRIVE or BAREND, whose arrival is posted (R378). -/
def Hold.arriving (h : Hold) : Bool := match h with | .barrier _ _ _ | .keystone _ _ _ => true | _ => false

/-- R431: Retriable. -/
def retriable (v : Context) (q : TaskRec) (im : Image) : Bool :=
  q.retries < im.nretry && v.run.nsig ≤ 16 && !v.run.noRetry && !v.hold.arriving

/-- R432: the faulting task is prepared for its next dispatch; what c15 holds is disposed of as by CDROP. Without room in the park store, or while effects that it
issued have yet to leave, it keeps its slot. -/
def State.redispatch (s : State) (t c : Nat) : State :=
  let v := s.ctxAt t c
  match s.recAt t c with
  | none => s
  | some (r, q) =>
    if (s.tile t).loc.parkRoom && v.pending.isEmpty then
      let e : Parked :=
        { regs := { Regs.reset with c := v.regs.c.filter fun x => x.1 != 15 }, trapEntry := false, kept := .none,
          faultPc := 0, nsig := 0, noRetry := false, rolled := false, abort := 0, wait := .retry, rejected := [],
          mxFlags := 0, mxErr := none, accs := [], rings := [], reply := false }
      let s := (s.keepAccs t r v.run.accs).noteLeft t c r q.kslot
      let s := s.setCtxAt t c { v.leave with mxRec := if v.mx.queue.isEmpty then none else some r }
      let s := match s.partOfTile t, v.regs.readC 15 with
        | some p, some cap => s.letDrop p.1 q.kslot t cap cOk
        | _, _ => s
      s.onLocal t fun l =>
        { l with park := aset l.park r e
                 recs := aset l.recs r
                   { q with retries := q.retries + 1, q := .ready q.prio s.cycle r s.cycle s.cycle false } }
    else s.onCtxAt t c fun v => { v with hold := .parkFull .retry }

/-- R431 at the partition: PPOL, 0 KILL_SELF, 1 REPLAY (R432, R445). -/
def State.applyPpol (s : State) (p : Nat) (r : FRec) : State :=
  match aget? s.parts p with
  | none => s
  | some q =>
    let s := s.logFault p r (s.vfOf p r.kslot)
    if q.prec.ppol = 1 then
      let s := s.onPart p fun v => { v with replay := true }
      if q.halt.isSome then s else s.startHalt p .replay
    else
      let kill (s : State) (k : Nat) : State :=
        if (q.kernel k).isSome then (s.logFault p { r with src := 4, kslot := k } (s.vfOf p k)).killKernel p k r.code r.sub else s
      let s := (upto 32).foldl kill s
      let s := s.mgmtEvent p r.code r.sub r.kslot
      if q.halt.isSome || q.state == .paused then s else s.startHalt p .contain

/-- R431: the levels are consulted upward from `level`. `c` is the context slot of a faulting task that still runs, and
`noRetry` makes RETRY count as KILL_PARENT (Table 19.3). -/
def State.containFrom (s : State) (p k t : Nat) (c : Option Nat) (noRetry : Bool) (r : FRec) (im : Image)
    (level : Level) : State :=
  let log (s : State) : State := s.logFault p r (s.vfOf p k)
  let killLog (s : State) : State := s.logFault p { r with src := 4 } (s.vfOf p k)
  let ignore (s : State) : State :=
    let s := (log s).absorbed p k
    match c with
    | some c => s.endSoon t c cOk
    | none => s
  let atKernel : State :=
    if im.polKern = polIgnore then ignore s
    else if im.polKern = polKillSelf then (killLog (log s)).killKernel p k r.code r.sub
    else
      let replay := ((aget? s.parts p).map fun q => q.prec.ppol == 1).getD false
      match c with
      | some c => if replay then (s.applyPpol p r).endSoon t c r.code else s.applyPpol p r
      | none => s.applyPpol p r
  let atGroup : State :=
    if im.polGrp = polIgnore then ignore s
    else if im.polGrp = polKillSelf then (killLog (log s)).killGroup p k t r.code
    else atKernel
  let atTask : State :=
    if im.polTask = polIgnore then ignore s
    else if im.polTask = polRetry then
      match c, c.bind fun c => s.recAt t c with
      | some c, some (_, q) =>
        if !noRetry && retriable (s.ctxAt t c) q im then ((log s).absorbed p k).redispatch t c else atGroup
      | _, _ => atGroup
    else if im.polTask = polKillSelf then
      let s := killLog (log s)
      match c with
      | some c => s.endSoon t c r.code
      | none => s
    else atGroup
  match level with
  | .task => atTask
  | .group => atGroup
  | .kernel => atKernel
  | .partition => s.applyPpol p r

/-- R431: containment of a fault of a kernel's task or tile group. A fault of a kernel that has gone is logged. -/
def State.contain (s : State) (p k t : Nat) (c : Option Nat) (noRetry : Bool) (r : FRec) (level : Level) : State :=
  match (aget? s.parts p).bind fun q => (q.kernel k).bind fun x => aget? q.images x.image with
  | some im => s.containFrom p k t c noRetry r im level
  | none => s.logFault p r none

/-- R240: an error of a task that has ended is a deferred fault of it at the task level. -/
def State.lateError (s : State) (t c k : Nat) (id : TaskId) (code sub : Nat) : State :=
  match s.partOfTile t with
  | some p =>
    s.contain p.1 k t none true
      { FRec.zero with code := code, sub := sub, ctx := c, kslot := k, src := 1, trec := recOffset id.rec' } .task
  | none => s

end Sys2Proof.Machine
end

