-- ==== Sys2Proof/Machine/Ops.lean ====
section
/-!
DEFINITION. What the instructions of a task share: the ways an effect can end, taking a trap (R423) and returning from
one (R198), the frame of R149, the access check of R53, translation with its page requests (R269, R272), reads and
writes under the store logs, and posts (R326, R335, R336).
-/

namespace Sys2Proof.Machine

/-! ## Effects -/

/-- A synchronous trap with what its fault record names (R423, R424). -/
structure Trap where
  code : Nat
  sub : Nat
  creg : Nat
  cap : Option Cap
  va : Nat
  ord : Nat
  emask : Nat
deriving DecidableEq, Repr

/-- A trap that names nothing but its cause. -/
def Trap.of (code sub : Nat) : Trap := ⟨code, sub, 0, none, 0, 0, 0⟩

/-- Why an effect does not run to its end. -/
inductive Stop where
  /-- a synchronous trap -/
  | trap (t : Trap)
  /-- a fault that goes to containment whatever the trap-entry state is (R426) -/
  | contained (t : Trap)
  /-- nothing changes, the instruction issues again later -/
  | stall
  /-- the state stands, PC does not move: an answer is awaited -/
  | wait
  /-- speculation ends early with this subcode before any effect (R383) -/
  | abandon (sub : Nat)
  /-- the task parks (R274) -/
  | park (w : ParkWait)
  /-- a physical address outside Table 1.1 was reached -/
  | absent
deriving DecidableEq, Repr

/-- An effect: a value, or the state at which it stopped and why. -/
abbrev Eff (α : Type) := Except (State × Stop) α

/-- A trap raised at a state. -/
def raise {α : Type} (s : State) (code sub : Nat) : Eff α := .error (s, .trap (.of code sub))

/-- ILLOPND, subcode 0x00, unless the condition holds. -/
def need (s : State) (b : Bool) : Eff Unit := if b then .ok () else raise s cIllopnd 0

/-- A fault of the capability check: CAPFAULT with the capability register and the address in the record. -/
def capFault {α : Type} (s : State) (creg : Nat) (cap : Option Cap) (va ord sub : Nat) : Eff α :=
  .error (s, .trap ⟨cCapfault, sub, creg, cap, va, ord, 0⟩)

/-! ## Traps (R423 to R426) -/

/-- Operand(I, F) as the trap entry receives it (R423): an x register's value or a sign-extended immediate; 0 for every
other kind. -/
def operandOf (r : Regs) (f : Nat) : Word :=
  if f / 2 ^ 21 = 0 then r.readX (BitVec.ofNat 5 f)
  else if f / 2 ^ 21 = 3 then wordOfInt (signExtend f 21)
  else 0

/-- Entry of the tile CT that holds the fault-record buffer of a context (R425). -/
def faultIndex (c : Nat) : Nat := 1016 + c

/-- The sealed capability over a context's fault record, with rights R only (R425). -/
def State.faultCap (s : State) (t c : Nat) : Cap :=
  { hallmark := (s.ct (ctKey .tile t (faultIndex c))).hallmark, ctidx := faultIndex c, agent := t, chip := s.chip,
    mode := .sealed, rights := ⟨true, false, false, false⟩, kind := .tile, tokens := 0, woff := 0, wlen := 1 }

/-- R423: the registers at the trap entry. -/
def Regs.trapped (r : Regs) (rec' iword entry : Nat) (cap : Cap) : Regs :=
  let r' := ((((((r.writeX 1 (word (rec' % 2 ^ 32))).writeX 2 (r.pc.setWidth 64)).writeX 3 (word iword)).writeX 4
    (word (iword / 2 ^ 64))).writeX 5 (operandOf r (field iword 48 24))).writeX 6 (operandOf r (field iword 24 24))).writeX 7
    (operandOf r (field iword 0 24))
  { r'.writeC 15 (some cap) with pc := BitVec.ofNat 32 entry, resume := .none }

/-- The fault record of a trap of the task whose turn it is. -/
def State.trapRecord (s : State) (w : Who) (t : Trap) : FRec :=
  { s.taskRecord w s.cur.ctx 0 t.code t.sub with va := t.va, ord := t.ord, emask := t.emask, creg := t.creg, cap := t.cap }

/-- An uncorrectable error met by an access is counted on the tile and for the kernel's VF (R447, R459). -/
def State.countUncorr (s : State) (w : Who) (t : Trap) : State :=
  if t.code = cUncorr ∧ t.sub < 2 then
    s.countMemory ⟨some s.cur.tile, some w.kernel.vf⟩ 0 1
  else s

/-- What the trap-entry state keeps of a resume point (R197, R209). -/
def Resume.kept : Resume → Resume
  | .mask m _ _ => .mask m [] []
  | r => r

/-- What the task whose turn it is gives up as by CDROP: it goes once the strike horizon does not hold it and every access under it has
been performed (R298, R362, R450). -/
def State.dropHere (s : State) (w : Who) (c : Cap) : State :=
  s.giveUp s.cur.tile ⟨c, w.pnum, w.kslot, cOk, .drop, s.horizonDue s.cur.tile, none, s.cur.ctx⟩

/-- c15 given up as by CDROP, what it held if anything (R197, log 16). -/
def State.dropC15 (s : State) (w : Who) : State :=
  match s.c 15 with
  | some c => s.dropHere w c
  | none => s

/-- R426, R430: a fault of the task whose turn it is goes to containment. -/
def State.passFault (s : State) (w : Who) (t : Trap) : State :=
  let s := s.countUncorr w t
  s.contain w.pnum w.kslot s.cur.tile (some s.cur.ctx) (t.code == cWdog && t.sub == 3) (s.trapRecord w t) .task

/-- R423: a synchronous trap of the task whose turn it is: delivered to the trap entry in one step, or contained. The
record is written to the context's buffer, the registers of `Regs.trapped` are written, the trap-entry state is set with
the fault PC and the resume point. What c15 held goes as by CDROP (log 16). A WDOG trap at W_h is delivered with the grace of
R427, and during the grace none is delivered. -/
def State.takeTrap (s : State) (w : Who) (t : Trap) : State :=
  let v := s.ctx
  if w.image.trapEnt ≠ 0xFFFFFFFF ∧ !v.run.trapEntry ∧ !(t.code == cWdog && (t.sub == 3 || v.run.graceEnd.isSome)) then
    let s := s.countUncorr w t
    let r := s.trapRecord w t
    let s := s.putBytes (tileAddr s.cur.tile (0x6FE00 + 64 * s.cur.ctx)) (leBytes 64 r.nat)
    (s.dropC15 w).onCtx fun v =>
      { v with
        regs := v.regs.trapped r.nat r.iword w.image.trapEnt (s.faultCap s.cur.tile s.cur.ctx)
        run := { v.run with
          trapEntry := true, faultPc := v.regs.pc, kept := v.regs.resume.kept, rejected := []
          graceEnd := if t.code = cWdog ∧ t.sub ≠ 1 then some (s.cycle + Config.grace) else v.run.graceEnd } }
  else s.passFault w t

/-- R198: the return from the trap entry. c15 is emptied as by CDROP: what it holds there is sealed and vanishes, or is
dropped like any other capability. -/
def State.returnFromTrap (s : State) (w : Who) (k : Nat) : State :=
  (s.dropC15 w).onCtx fun v =>
    { v with
      regs := { v.regs.writeC 15 none with
        pc := v.run.faultPc + BitVec.ofNat 32 (12 * k), resume := if k = 0 then v.run.kept else .none }
      run := { v.run with trapEntry := false, kept := .none } }

/-! ## The frame of R149 -/

/-- Guard(I) (R135). -/
def guardTrue (r : Regs) (g : BitVec 4) : Bool :=
  if g.extractLsb' 3 1 = 0 then r.readP (g.extractLsb' 0 3) else !r.readP (g.extractLsb' 0 3)

/-- The context may issue in this cycle: the budget of R427 and, while it speculates, the 128 cycles of R383 are not
used up. -/
def inTime (s : State) (c : Context) (w : Who) : Bool :=
  match c.run.graceEnd with
  | some g => s.cycle < g
  | none => s.cycle < c.run.dispatched + w.image.budget && !(c.spec.on && c.run.dispatched + w.image.budget ≤ s.cycle + 128)

/-- The task that issues in this turn, if its context holds nothing back. -/
def State.issuer (s : State) : Option Who :=
  match s.who with
  | some w => if s.ctx.hold = .none ∧ s.ctx.run.issueAt ≤ s.cycle ∧ inTime s s.ctx w then some w else none
  | none => none

/-- PC advanced by one instruction (R132). -/
def State.nextPc (s : State) : State := s.onRegs fun r => { r with pc := r.pc + 12 }

/-- IssueHold (R136): the next instruction issues after `n` further cycles. -/
def State.issueHold (s : State) (n : Nat) : State := s.onRun fun r => { r with issueAt := s.cycle + 1 + n }

/-- The resume point and the rejected pages belong to the instruction that has now been performed. -/
def State.clearResume (s : State) : State :=
  s.onCtx fun v => { v with regs := { v.regs with resume := .none }, run := { v.run with rejected := [] } }

/-- R126: a context issues in this cycle. -/
def IssueSt.issues (v : IssueSt) (c cycle : Nat) : IssueSt := { v with last := c, before := v.last, at' := some cycle }

/-- R126: the instruction of a context was found interlocked: it has not issued, and the round robin passes the slot over in
this cycle. -/
def IssueSt.interlocked (v : IssueSt) (c cycle : Nat) : IssueSt :=
  { last := v.before, before := v.before, at' := none, held := if v.heldAt = cycle then c :: v.held else [c], heldAt := cycle }

/-- The state in which the instruction of the context whose turn it is waits at issue. -/
def State.stalled (s : State) : State :=
  s.onCore s.cur.tile fun k => { k with issue := k.issue.interlocked s.cur.ctx s.cycle }

/-- How an effect leaves the machine. `s0` is the state before the instruction. -/
def settle (s0 : State) (w : Who) : Eff State → Host.Outcome State Fault Refusal
  | .ok s => .next s
  | .error (s, .trap t) =>
    .next (if s0.ctx.spec.on then s0.rollback s0.cur.tile s0.cur.ctx 4 else s.takeTrap w t)
  | .error (s, .contained t) =>
    .next (if s0.ctx.spec.on then s0.rollback s0.cur.tile s0.cur.ctx 4 else s.passFault w t)
  | .error (_, .stall) => .next s0.stalled
  | .error (s, .wait) => .next s
  | .error (_, .abandon sub) => .next (s0.rollback s0.cur.tile s0.cur.ctx sub)
  | .error (s, .park p) =>
    .next (if s0.ctx.spec.on then s0.rollback s0.cur.tile s0.cur.ctx 4 else s.parkTask s.cur.tile s.cur.ctx p)
  | .error (_, .absent) => .fault .absentAddress

/-- The frame of R149 for an effect that sets PC or ends the task. -/
def issueJump (s : State) (h : Hint) (body : Who → Eff State) : Host.Outcome State Fault Refusal :=
  match s.issuer with
  | none => .next s
  | some w =>
    if guardTrue s.regs h.g then settle s w ((body w).map fun s => s.issueHold h.stag.toNat)
    else .next (s.nextPc.clearResume.issueHold 0)

/-- The frame of R149: the effect, then PC + 12 and IssueHold. -/
def issue (s : State) (h : Hint) (body : Who → Eff State) : Host.Outcome State Fault Refusal :=
  issueJump s h fun w => (body w).map fun s => s.nextPc.clearResume

/-- The frame for the end of a task: its slot holds no issue back afterwards. -/
def issueEnd (s : State) (h : Hint) (body : Who → Eff State) : Host.Outcome State Fault Refusal :=
  match s.issuer with
  | none => .next s
  | some w => if guardTrue s.regs h.g then settle s w (body w) else .next (s.nextPc.clearResume.issueHold 0)

/-- The frame of SEL, which always executes (R135). -/
def issueAlways (s : State) (h : Hint) (body : Who → Eff State) : Host.Outcome State Fault Refusal :=
  match s.issuer with
  | none => .next s
  | some w => settle s w ((body w).map fun s => (s.nextPc.clearResume).issueHold h.stag.toNat)

/-- R33, R337: the frame of a signal. One that the first run has sent completes at once under RETRY; every executed
signal is counted. -/
def issueSignal (s : State) (h : Hint) (body : Who → Nat → Eff State) : Host.Outcome State Fault Refusal :=
  issue s h fun w =>
    let n := s.ctx.run.nsig
    let count (s : State) : State := s.onRun fun r => { r with nsig := r.nsig + 1 }
    if 0 < w.task.retries && n < 16 && w.task.sigmask.getLsbD n then .ok (count s) else (body w n).map count

/-- R254: the frame of a matrix instruction; in a NOMX kernel it is illegal whatever its guard. -/
def issueMatrix (s : State) (h : Hint) (body : Who → Eff State) : Host.Outcome State Fault Refusal :=
  match s.issuer with
  | none => .next s
  | some w => if w.image.nomx then settle s w (raise s cIllegal 1) else issue s h body

/-- PrivCheck (R149). -/
def privCheck (s : State) (w : Who) : Eff Unit := if w.kernel.supv then .ok () else raise s cPriv 0

/-- DetCheck (R149). -/
def detCheck (s : State) (w : Who) : Eff Unit := if w.image.det then raise s cDetviol 0 else .ok ()

/-- An instruction that abandons speculation before it takes effect (Tables 13.1 and 15.3). -/
def noSpec (s : State) : Eff Unit := if s.ctx.spec.on then .error (s, .abandon 4) else .ok ()

/-- The issue waits while the condition holds. -/
def waitWhile (s : State) (b : Bool) : Eff Unit := if b then .error (s, .stall) else .ok ()

/-- R427: a fault in a task that has executed one of R431's instructions is not retried. -/
def State.notRetriable (s : State) : State := s.onRun fun r => { r with noRetry := true }

/-! ## Interlocks -/

/-- R206, R238: a capability register that an unfinished vector instruction or a queued command captured. -/
def State.capBusy (s : State) (i : Nat) : Bool :=
  ((s.ctx.vecBusy.map fun l => l.contains i).getD false) || s.mxQueue.any fun m => m.regs.contains i

/-- Two byte runs meet. -/
def meets (a n : Nat) (r : Nat × Nat) : Bool := a < r.1 + r.2 && r.1 < a + n

/-- R238: a read of these bytes waits for a queued MST. -/
def State.readBusy (s : State) (a n : Nat) : Bool := s.mxQueue.any fun m => m.writes.any (meets a n)

/-- R238: a write of these bytes waits for a queued MST and for the staging of queued operands. -/
def State.writeBusy (s : State) (a n : Nat) : Bool :=
  s.mxQueue.any fun m => m.writes.any (meets a n) || (m.staged.isNone && m.reads.any (meets a n))

/-- Bytes of the element of an operation packet (Table 15.7). -/
def opBytes (fn fmt : Nat) : Nat :=
  if fn = 0 then 64 else if fn = 9 ∨ fn = 10 then 16 else if (fn = 2 ∨ fn = 3) ∧ fmt = 2 then 4 else 8

/-- The runs of virtual addresses that an operation packet makes later accesses wait for: its element, and the link word of
ENQ's node (R353). -/
def State.opRuns (s : State) (p : Packet) : List (Nat × Nat) :=
  match p.body with
  | .op fn fmt cap off args _ _ _ _ =>
    (s.windowBase cap + off, opBytes fn fmt) ::
      (if fn = 10 then [(s.windowBase cap + (args.getD 0 0).toNat, 8)] else [])
  | _ => []

/-- R353: an access to bytes on which an operation packet of the tile is in flight waits. -/
def State.opBusy (s : State) (t va n : Nat) : Bool := (s.postsOf t).any fun p => (s.opRuns p).any (meets va n)

/-- R335: every access of a context that stands before `n` in the core's order of issue has been performed: no probe of the
tile's writes is out; no command of the context, no held write of it and no operation packet of the core that precedes
`n` waits; no committed log drains. -/
def State.before (s : State) (t c n : Nat) : Bool :=
  let v := s.ctxAt t c
  !(s.probes.any fun p => p.writer == t) && !(((s.tile t).core.queueOf c).any fun m => m.ord < n) && !(v.shzLog.any fun l => l.ord < n)
  && !((s.opsOf t).any fun o => o.2 < n) && (v.spec.on || v.spec.log.isEmpty)

/-- Every access that the context has issued has been performed. -/
def State.settled (s : State) (t c : Nat) : Bool := s.before t c (s.tile t).core.issued

/-- Every write that a context issued under a capability of a CT entry has been performed (R299, R360, R364). -/
def State.written (s : State) (t c key : Nat) : Bool :=
  !(s.probes.any fun p => p.writer == t) && !((s.ctxAt t c).shzLog.any fun l => l.cap.key == key)
  && !((s.opsOf t).any fun o => o.1.key == key)

/-- R362, R364: every access that a context issued under its fractions and exclusive capabilities has been performed; its
queued commands capture none of their buffers. -/
def State.released (s : State) (t c : Nat) : Bool :=
  let v := s.ctxAt t c
  v.regs.c.all fun x =>
    x.2.mode == .sealed || x.2.mode == .lookahead
    || (s.written t c x.2.key && !(((s.tile t).core.queueOf c).any fun m => m.keys.contains x.2.key))

/-! ## The access check (R53 to R55) -/

/-- The kind of an access. -/
inductive Access where
  | read | write | fetch | operation
deriving DecidableEq, Repr

/-- What the check answers. -/
inductive CapRes where
  /-- passed; the virtual address -/
  | ok (va : Nat)
  /-- the subcode of CAPFAULT -/
  | fault (sub : Nat)
  /-- held at the home by a reclaim (R66) -/
  | held
  /-- the home lies on another chip (R55) -/
  | away
deriving DecidableEq, Repr

/-- Step 3 of R53. `supv`: the agent is the partition supervisor. -/
def hasRight (supv : Bool) (c : Cap) (acc : Access) : Bool :=
  match acc with
  | .read => c.rights.r
  | .fetch => c.rights.x
  | .write | .operation => c.rights.w && (c.kind != .weight || supv)

/-- R55: a validation-cache entry of a capability: it gives the outcome of an access through it. -/
def VEntry.covers (v : VEntry) (c : Cap) : Bool :=
  v.chip == c.chip && v.key == c.key && v.hallmark == c.hallmark && c.rights.sub v.rights

/-- A write is refused at step 4 of R53: as the entry stands at the home, or, while a reclaim runs, as the validation cache has it
(R55, R66). -/
def CtEntry.notOwner (e : CtEntry) (hit : Option VEntry) : Bool :=
  match e.recl, hit with
  | some _, some v => !v.write
  | _, _ => decide (0 < e.tokOut + e.tokLost)

/-- Steps 1 to 5 of R53 for `n` bytes at window offset `off`, through the validation cache `vc` of the agent. While a reclaim
runs, an access that the cache covers is decided by the cache, any other is held (R55, R66). -/
def State.checkCap (s : State) (vc : List VEntry) (supv : Bool) (cap : Option Cap) (acc : Access) (off : Int) (n : Nat) :
    CapRes :=
  match cap with
  | none => .fault cRights
  | some c =>
    if c.chip ≠ s.chip then .away
    else
      let e := s.ct c.key
      let hit := vc.find? fun v => v.covers c
      if e.recl.isSome && hit.isNone then .held
      else if !s.current c then .fault cRevoked
      else if !hasRight supv c acc then .fault cRights
      else if (acc == .write || acc == .operation) && e.notOwner hit then .fault cNotowner
      else if off < 0 || (c.bytes : Int) < off + n then .fault cBounds
      else .ok (s.windowBase c + off.toNat)

/-- The entry that a validated capability of this chip gives (R55). -/
def State.entryFor (s : State) (part : Nat) (c : Cap) : VEntry :=
  let e := s.ct c.key
  ⟨c.chip, c.key, c.hallmark, part, c.rights, c.mode == .exclusive && c.rights.w && e.tokOut + e.tokLost == 0⟩

/-- A validation cache of 64 entries with one more (R55). Which entry a full cache gives up the spec does not say: the model's choice is
the oldest (log 92). -/
def addEntry (l : List VEntry) (e : VEntry) : List VEntry := if l.contains e then l else (e :: l).take 64

/-- R55: a validated capability enters the core's cache. -/
def State.validated (s : State) (t part : Nat) (c : Cap) : State :=
  s.onCore t fun k => { k with vcache := addEntry k.vcache (s.entryFor part c) }

/-- R55: the core's validation cache drops the entries of a buffer whose capability is split, joined, dropped, sent or
delegated. -/
def State.dropValidation (s : State) (t : Nat) (c : Cap) : State :=
  s.onCore t fun k => { k with vcache := k.vcache.filter fun v => v.key != c.key }

/-- The virtual address that a fault record shows for an access (R424), formed even when the check fails. -/
def State.recordVa (s : State) (cap : Option Cap) (off : Int) : Nat :=
  match cap with
  | some c => if c.chip = s.chip then (((s.windowBase c : Int) + off) % 2 ^ 56).toNat else 0
  | none => 0

/-! ## Page requests (R271, R272) -/

/-- The 512 KiB guest page of a guest address. -/
def guestPage (gpa : Nat) : Nat := gpa / 2 ^ 19

/-- R272: a miss attaches to the standing request of its page, or adds one. -/
def State.pageRequest (s : State) (vf gpa acc : Nat) : State :=
  let v := aget s.vfs .reset vf
  let g := guestPage gpa
  if (v.prq ++ v.prqWaiting).any fun r => r.gpa == g then s
  else
    let r : PageReq := ⟨v.nextTag, g, acc⟩
    let v := { v with nextTag := (v.nextTag + 1) % 2 ^ 32 }
    let v := if v.prq.length < 64 ∧ v.prqWaiting = [] then { v with prq := v.prq ++ [r] } else { v with prqWaiting := v.prqWaiting ++ [r] }
    { s with vfs := aset s.vfs vf v }

/-! ## From an address to bytes (R255, R256, R269) -/

/-- Where an access goes: a physical address of the chip, or a fabric address (space 0x1). -/
inductive Loc where
  | phys (a : Nat)
  | fabric (fa : Nat)
  /-- the home lies on another chip: the window offset -/
  | away (off : Nat)
deriving DecidableEq, Repr

/-- Step 6 of R53 for an access of a task. -/
def State.resolve (s : State) (w : Who) (va : Nat) (wr op : Bool) (creg : Nat) (cap : Option Cap) (ord : Nat) :
    Eff (State × Loc) :=
  if va / 2 ^ 52 = 0 ∨ va / 2 ^ 52 = 1 then
    match s.translate s.cur.tile w.pnum w.part w.kernel.xlat va wr op with
    | (s, .ok out) =>
      if va / 2 ^ 52 = 1 then .ok (s, .fabric out)
      else if w.part.prec.covers out 1 && physExists (w.part.prec.phys out) then .ok (s, .phys (w.part.prec.phys out))
      else .error (s, .absent)
    | (s, .xlate) => .error (s, .trap ⟨cXlate, 0, creg, cap, va, ord, 0⟩)
    | (s, .miss gpa acc) =>
      if s.ctx.run.rejected.contains (guestPage gpa) then .error (s, .trap ⟨cStage2, 0, creg, cap, va, ord, 0⟩)
      else .error (s.pageRequest w.kernel.vf gpa acc, .park (.pages w.kernel.vf [guestPage gpa]))
  else if physExists va then .ok (s, .phys va)
  else .error (s, .absent)

/-- R455, R456: an uncorrectable or poisoned line faults; a corrected error is written back and counted. -/
def State.eccCheck (s : State) (w : Who) (a n va creg : Nat) (cap : Option Cap) (ord : Nat) : Eff State :=
  match s.eccAt a n with
  | some sub => .error (s, .trap ⟨cUncorr, sub, creg, cap, va, ord, 0⟩)
  | none => .ok (s.eccCorrect ⟨some s.cur.tile, some w.kernel.vf⟩ a n)

/-- Bytes of the task's image are read: a corrected error is written back and counted, an uncorrectable one is UNCORR (R447,
R455). -/
def State.imageCheck (s : State) (w : Who) (off n : Nat) : Eff State :=
  if s.poison.isEmpty && s.ecc.isEmpty then .ok s
  else (upto n).foldlM (fun s i => s.eccCheck w (w.part.prec.phys (w.image.base + off + i)) 1 0 0 none 0) s

/-- `n` bytes of the const section as a number (R286, R345). -/
def State.constNat (s : State) (w : Who) (off n : Nat) : Eff (State × Nat) := do
  let s ← s.imageCheck w (w.image.constOff + off) n
  .ok (s, s.imageNat w.part w.image (w.image.constOff + off) n)

/-- A byte under the writes of a log to its place, the latest write last. -/
def overlay (log : List LogWrite) (pl : LogPlace) (a : Nat) (b : Byte) : Byte :=
  log.foldl (fun b l =>
    if l.place == pl && l.addr ≤ a && a < l.addr + l.bytes.length then l.bytes.getD (a - l.addr) b else b) b

/-- The writes of a context's task that the strike horizon holds (R450); those of an earlier task in the slot are not its own. -/
def Context.heldWrites (v : Context) : List LogWrite := v.shzLog.filter fun l => v.run.first ≤ l.ord

/-- Bytes that were read from address `a` of a place, under the logged bytes of the context whose turn it is (R381, R450). -/
def State.logged (s : State) (pl : LogPlace) (a : Nat) (bs : List Byte) : List Byte :=
  if s.ctx.spec.log.isEmpty && s.ctx.shzLog.isEmpty then bs
  else bs.zipIdx.map fun b => overlay s.ctx.spec.log pl (a + b.2) (overlay s.ctx.heldWrites pl (a + b.2) b.1)

/-- `n` bytes of the chip's memory as the context whose turn it is reads them: its own logged bytes stand over memory (R381,
R450). -/
def State.seen (s : State) (a n : Nat) : List Byte := s.logged .here a (s.bytes a n)

/-- R386: a read through a lookahead capability sets the bits of the lines it touches. -/
def State.markRead (s : State) (cap : Option Cap) (a n : Nat) : State :=
  match cap with
  | some c =>
    if c.mode = .lookahead ∧ s.ctx.spec.on then
      let lines := (upto ((a + n - 1) / 64 - a / 64 + 1)).map fun i => a / 64 + i
      s.onCtx fun v => { v with spec := { v.spec with reads := (lines ++ v.spec.reads).eraseDups } }
    else s
  | none => s

/-- Attachment tile of a home towards a tile of a chip (Table 1.6). -/
def State.homeFor (s : State) (k : HomeKind) (agent : Nat) (p : Place) : Nat :=
  if p.chip = s.chip then homeTile k agent p.tile else farHome k agent

/-- R386: a write performed to a line of a LAOPEN buffer sends a probe to each reader in the entry, from the home as that
reader meets it. -/
def State.probeLine (s : State) (t : Nat) (cap : Cap) (line : Nat) : State :=
  let e := s.ct cap.key
  if e.laopen && !e.lrs.isEmpty then
    let places := (e.lrs.map (·.2)).eraseDups
    let id := s.nextProbe
    let s := { s with probes := s.probes ++ [⟨id, cap.key, t, homeTile cap.kind cap.agent t, line, places⟩], nextProbe := id + 1 }
    places.foldl (fun s p =>
      s.send 2 e.part ⟨s.chip, s.homeFor cap.kind cap.agent p⟩ .home p e.kslot 16 (.probe line id)) s
  else s

/-- A write performed at its home by tile `t`. -/
def State.perform (s : State) (t : Nat) (cap : Cap) (a : Nat) (bs : List Byte) : State :=
  let s := (s.putBytes a bs).eccWrite a bs.length
  if (s.ct cap.key).laopen then
    (upto ((a + bs.length - 1) / 64 - a / 64 + 1)).foldl (fun s i => s.probeLine t cap (a / 64 + i)) s
  else s

/-- The lines that a store log uses (R381). -/
def logLines (log : List LogWrite) : List (LogPlace × Nat) :=
  (log.flatMap fun l =>
    (upto ((l.addr + l.bytes.length - 1) / 64 - l.addr / 64 + 1)).map fun i => (l.place, l.addr / 64 + i)).eraseDups

/-- R382: the buffer is to be published at the completion that the task awaits, which has not begun. -/
def State.awaitsPublication (s : State) (cap : Cap) : Bool :=
  let sp := s.ctx.spec
  match aget? (s.tile sp.bar.tile).loc.bars sp.bidx with
  | some b => b.phase == sp.phase && b.prev.any fun p => p.2.1.key == cap.key && p.2.1.hallmark == cap.hallmark
  | none => false

/-- The next place in the order of issue of the tile's core. -/
def State.nextOrd (s : State) : Nat := (s.tile s.cur.tile).core.issued
/-- That place is taken. -/
def State.takeOrd (s : State) : State := s.onCore s.cur.tile fun k => { k with issued := k.issued + 1 }

/-- A write of a speculating task enters its store log, which holds 128 lines (R381, R382). -/
def State.logWrite (s : State) (pl : LogPlace) (cap : Cap) (off a : Nat) (bs : List Byte) : Eff State :=
  let e : LogWrite := ⟨pl, a, bs, cap, off, s.horizonDue s.cur.tile, s.nextOrd⟩
  if cap.chip = s.chip ∧ s.awaitsPublication cap then .error (s, .abandon 4)
  else if 128 < (logLines (e :: s.ctx.spec.log)).length then .error (s, .abandon 1)
  else .ok (s.takeOrd.onCtx fun v => { v with spec := { v.spec with log := v.spec.log ++ [e] } })

/-- A checked write of a task to the chip's memory: into the store log while it speculates (R381), into the horizon's log
under SHZ (R450), otherwise performed. -/
def State.writeOut (s : State) (cap : Cap) (off a : Nat) (bs : List Byte) : Eff State :=
  if s.ctx.spec.on then s.logWrite .here cap off a bs
  else if s.shz s.cur.tile then
    .ok (s.takeOrd.onCtx fun v =>
      { v with shzLog := v.shzLog ++ [⟨.here, a, bs, cap, off, s.horizonDue s.cur.tile, s.nextOrd⟩] })
  else .ok (s.perform s.cur.tile cap a bs)

/-! ## Accesses of one element -/

/-- A request of the task to another chip. -/
inductive Ask where
  | access (cap : Cap) (off : Nat) (wr : Option (List Byte)) (len : Nat)
  | fabric (fa : Nat) (wr : Option (List Byte)) (len : Nat)
  | consult (op : Nat) (cap : Cap) (arg : Nat)
  | operate (fn fmt : Nat) (cap : Cap) (off : Nat) (fab : Option (Nat × Nat)) (args : List Word) (ret : Option LandAt)
deriving DecidableEq, Repr

/-- The packet of a request: its destination, the home as an agent of another chip meets it (Table 1.6), and its body. -/
def Ask.packet (a : Ask) (id : Nat) : Place × Body :=
  match a with
  | .access cap off wr len => (⟨cap.chip, farHome cap.kind cap.agent⟩, .access cap off wr len id)
  | .fabric fa wr len => (⟨field fa 42 10, fabricTile⟩, .fabric fa wr len id)
  | .consult op cap arg => (⟨cap.chip, farHome cap.kind cap.agent⟩, .consult op cap arg id)
  | .operate fn fmt cap off fab args ret =>
    (match fab with
      | some f => ⟨field f.1 42 10, fabricTile⟩
      | none => ⟨cap.chip, farHome cap.kind cap.agent⟩, .operate fn fmt cap off fab args ret id)

/-- L of a request (Table 15.1 gives no length of its own: a header of 16 bytes and the words or bytes it carries, log 19). -/
def Ask.len (a : Ask) : Nat :=
  match a with
  | .access _ _ wr _ | .fabric _ wr _ => 16 + (wr.map List.length).getD 8
  | .consult _ _ _ => 24
  | .operate _ _ _ _ _ args _ => 16 + 8 * args.length

/-- The request changes nothing at its home: a read, the check of a write that brings no bytes, CDROP of a capability that holds no
token and no ownership. -/
def Ask.reads (a : Ask) : Bool :=
  match a with
  | .access _ _ wr _ | .fabric _ wr _ => wr.isNone || wr == some []
  | .consult op cap _ => op == 6 && inert cap
  | .operate _ _ _ _ _ _ _ => false

/-- R285, R407: a request to another chip holds the context; the instruction issues again with the answer. A fault of the
answer is a precise fault. While the task speculates, a request other than a read abandons speculation (Table 13.1): a write
goes to the store log instead. Under the strike horizon a request that changes something leaves after 160 cycles
(R450). -/
def State.askRemote (s : State) (w : Who) (a : Ask) (creg : Nat) (cap : Option Cap) : Eff (State × List Byte) :=
  if s.ctx.spec.on && !a.reads then .error (s, .abandon 4)
  else
    match s.ctx.answer with
    | some r =>
      let s := s.onCtx fun v => { v with answer := none }
      if r.code = cOk then .ok (s, r.bytes) else .error (s, .trap ⟨r.code, r.sub, creg, cap, 0, 0, 0⟩)
    | none =>
      let id := s.fabric.nextId
      let q := a.packet id
      let due := if a.reads then s.cycle else s.horizonDue s.cur.tile
      let p : Packet := ⟨0, w.pnum, ⟨s.chip, s.cur.tile⟩, .core, q.1, w.kslot, due, a.len, q.2, none, false, none⟩
      let s := { s with fabric := { s.fabric with out := s.fabric.out ++ [p], nextId := id + 1 } }
      .error (s.onCtx fun v => { v with hold := .remote id }, .wait)

/-- The value and element index of a CAP field (R133): k + x[reg], the register read as signed. -/
def CapOp.index (c : CapOp) (r : Regs) : Int := (c.off.toNat : Int) + (r.readX c.idx).toInt

/-- The window offset that a request to another chip's home names: one below the window is sent as one behind it, so that the home
judges both alike at step 5 of R53. -/
def farOffset (k : Cap) (off : Int) : Nat := if off < 0 then k.bytes else off.toNat

/-- CheckCap and Translate for an element of a task (R149): the state with what the check recorded, the capability, its
window offset and where the bytes are. An element whose page was rejected faults (R275). -/
def State.access (s : State) (w : Who) (c : CapOp) (size : Nat) (acc : Access) : Eff (State × Cap × Nat × Loc) :=
  let cap := s.c c.c.toNat
  let off := CapOp.index c s.regs * size
  match s.checkCap (s.tile s.cur.tile).core.vcache w.kernel.supv cap acc off size, cap with
  | .ok va, some k => do
    let wr := acc == .write || acc == .operation
    if !s.ctx.run.rejected.isEmpty then .error (s, .trap ⟨cStage2, 0, c.c.toNat, cap, va, 0, 0⟩)
    let (s, l) ← (s.validated s.cur.tile w.pnum k).resolve w va wr (acc == .operation) c.c.toNat cap 0
    .ok (s, k, off.toNat, l)
  | .fault sub, _ => capFault s c.c.toNat cap (s.recordVa cap off) 0 sub
  | .held, _ => .error (s, .stall)
  | .away, some k => .ok (s, k, farOffset k off, .away (farOffset k off))
  | _, none => capFault s c.c.toNat cap 0 0 cRights

/-- The log's place of a window offset in a buffer of another chip, and the offset in the buffer. -/
def farPlace (k : Cap) (off : Nat) : LogPlace × Nat := (.buffer k.chip k.key, k.woff * k.kind.granule + off)

/-- Load(c, e, t) of R149 for `size` bytes: the bytes, or the context is held until another chip answers. -/
def State.load (s : State) (w : Who) (c : CapOp) (size : Nat) : Eff (State × List Byte) := do
  let (s, k, off, l) ← s.access w c size .read
  match l with
  | .fabric fa => do
    let (s, bs) ← s.askRemote w (.fabric fa none size) c.c.toNat (some k)
    .ok (s, s.logged .fabric fa bs)
  | .away off => do
    let (s, bs) ← s.askRemote w (.access k off none size) c.c.toNat (some k)
    .ok (s, s.logged (farPlace k off).1 (farPlace k off).2 bs)
  | .phys a =>
    waitWhile s (s.readBusy a size || s.opBusy s.cur.tile (s.windowBase k + off) size)
    let s ← s.eccCheck w a size (s.windowBase k + off) c.c.toNat (some k) 0
    let s := s.markRead (some k) a size
    .ok (s, s.seen a size)

/-- Store(c, e, t, val) of R149. One to another chip is held until its home has checked it (R55, R285): while the task speculates, the
home is asked for the check alone, and the bytes enter the store log (R381). -/
def State.store (s : State) (w : Who) (c : CapOp) (bs : List Byte) : Eff State := do
  let (s, k, off, l) ← s.access w c bs.length .write
  match l with
  | .fabric fa =>
    if s.ctx.spec.on then do
      let (s, _) ← s.askRemote w (.fabric fa (some []) bs.length) c.c.toNat (some k)
      s.logWrite .fabric k off fa bs
    else do
      let (s, _) ← s.askRemote w (.fabric fa (some bs) bs.length) c.c.toNat (some k)
      .ok s
  | .away off =>
    if s.ctx.spec.on then do
      let (s, _) ← s.askRemote w (.access k off (some []) bs.length) c.c.toNat (some k)
      s.logWrite (farPlace k off).1 k off (farPlace k off).2 bs
    else do
      let (s, _) ← s.askRemote w (.access k off (some bs) bs.length) c.c.toNat (some k)
      .ok s
  | .phys a =>
    waitWhile s (s.writeBusy a bs.length || s.opBusy s.cur.tile (s.windowBase k + off) bs.length)
    s.writeOut k off a bs

/-! ## Posts (R326, R335, R336) -/

/-- A post of a context waiting for the horizon or in the injection queue. -/
def HeldPost.vn0 (p : HeldPost) : Bool := match p.post with | .packet q _ => q.vn == 0 | _ => false

/-- VN0 entries in use (R326): packets in the queue, and posts that have taken their entry and that the strike horizon
holds. -/
def CoreSt.vn0Used (k : CoreSt) : Nat :=
  (k.inj.filter fun e => e.vn == 0).length + (k.ctxs.map fun c => (c.2.shzPosts.filter fun p => p.taken && p.vn0).length).sum

/-- The exclusive capability that a post carries is in flight (OWNK 10), or delegated to the steward (OWNK 01). -/
def State.carried (s : State) (t : Nat) (p : Post) : State :=
  match p with
  | .packet q _ =>
    match q.body with
    | .msg _ _ _ _ _ (some c) => s.setOwner c 2 q.dst
    | .mgmt _ _ _ _ (some c) _ _ => s.setOwner c 2 q.dst
    | _ => s
  | .kick e =>
    match (aget? (s.tile t).loc.kicks e).bind (·.cap) with
    | some c => s.setOwner c 1 ⟨s.chip, t⟩
    | none => s
  | .task _ _ _ => s

/-- A post takes effect in its core: a packet takes an injection entry, a kick entry becomes visible, a task is
created. A packet that takes the reserved VN1 entry uses up the reservation (R124). -/
def State.release (s : State) (t c : Nat) (p : HeldPost) : State :=
  let s := (s.markSignal t p.signal).carried t p.post
  match p.post with
  | .packet q reserved =>
    let s := if reserved then s.onCtxAt t c fun v => { v with run := { v.run with reply := false } } else s
    s.onCore t fun k => { k with inj := k.inj ++ [⟨q.vn, c, reserved, q, p.ord⟩] }
  | .kick e => s.onLocal t fun l => { l with kicks := match aget? l.kicks e with
      | some v => aset l.kicks e { v with state := .queued }
      | none => l.kicks }
  | .task img first k =>
    match s.partOfTile t with
    | some pt => (s.createTask pt.1 k t img first none none).getD s
    | none => s

/-- R336, R450: a post that has passed its checks is held by speculation, by an earlier held post of its context, or by the strike
horizon, or takes effect. Outside speculation it takes its injection entry at once (R326). A seventeenth held post abandons
speculation (R381). `signal` is its number among the task's signals (R33). -/
def State.post (s : State) (p : Post) (signal : Option Nat) : Eff State :=
  let t := s.cur.tile
  let v := s.ctx
  let h : HeldPost :=
    { post := p, due := s.horizonDue t, signal := signal.bind fun n => v.run.task.map fun r => (r, n), ord := s.nextOrd,
      taken := !v.spec.on }
  let s := s.takeOrd
  if v.spec.on then
    if v.spec.held.length < 16 then .ok (s.onCtx fun v => { v with spec := { v.spec with held := v.spec.held ++ [h] } })
    else .error (s, .abandon 2)
  else if s.shz t || !v.shzPosts.isEmpty then .ok (s.onCtx fun v => { v with shzPosts := v.shzPosts ++ [h] })
  else .ok (s.release t s.cur.ctx h)

/-- A packet of the task whose turn it is. `len` gives its latency (R328); under SHZ the 160 cycles of R450 are added. -/
def State.corePacket (s : State) (w : Who) (vn : Nat) (dst : Place) (len : Nat) (b : Body) : Packet :=
  let extra := if s.shz s.cur.tile then Config.horizon else 0
  ⟨vn, w.pnum, ⟨s.chip, s.cur.tile⟩, .core, dst, w.kslot, s.dueAt ⟨s.chip, s.cur.tile⟩ dst len + extra, len, b, none, false, none⟩

/-- A VN0 packet posted; QFULL when all 32 entries are occupied (R326). Under speculation the entry is taken at commit. -/
def State.postPacket (s : State) (w : Who) (dst : Place) (len : Nat) (b : Body) (signal : Option Nat) : Eff State :=
  if !s.ctx.spec.on && 32 ≤ (s.tile s.cur.tile).core.vn0Used then raise s cQfull 0
  else s.post (.packet (s.corePacket w 0 dst len b) false) signal

/-- R353, R407: an operation for an element on another chip takes a VN0 entry (R326), and its context is held until the home
answers. A fault after it has been sent is not retried (R337). -/
def State.askOperation (s : State) (w : Who) (a : Ask) (creg : Nat) (cap : Option Cap) : Eff State :=
  match s.ctx.answer with
  | some r =>
    let s := s.onCtx fun v => { v with answer := none }
    if r.code = cOk then .ok s else .error (s, .trap ⟨r.code, r.sub, creg, cap, 0, 0, 0⟩)
  | none => do
    let id := s.fabric.nextId
    let q := a.packet id
    let s ← { s with fabric := { s.fabric with nextId := id + 1 } }.postPacket w q.1 a.len q.2 none
    .error (s.notRetriable.onCtx fun v => { v with hold := .remote id }, .wait)

/-- A change kept in the horizon's history (R450). -/
def State.remember (s : State) (u : Undo) : State :=
  if s.shz s.cur.tile then s.onCore s.cur.tile fun k => { k with undo := (s.cur.ctx, u) :: k.undo } else s

/-! ## Time windows (R403) -/

/-- The number of the current fabric window: pod time in cycles over W (R403). -/
def State.window (s : State) : Nat := (s.cycle + s.fabric.base) / (s.fabric.wlen * Config.cyclesPerMicro)

/-! ## The end of a task -/

/-- R194, R195, R202: the end of the task in a slot is performed; HALT then halts its partition. -/
def State.finishEnd (s : State) (t c : Nat) (kind : EndKind) : State :=
  let p := s.partOfTile t
  let s := s.endNow t c kind cOk
  match kind, p with
  | .halt, some q => if q.2.halt.isSome then s else s.startHalt q.1 .halt
  | _, _ => s

/-- R194, R240, R336, R450: END, ENDC, BAREND and HALT. A pending matrix error faults and its state is cleared. The end
waits for a vector instruction and for the accesses under the capabilities that it gives up (R362, R364), and is held while
the task speculates, while held posts remain, and for the strike horizon. -/
def State.endTask (s : State) (kind : EndKind) : Eff State := do
  waitWhile s (s.ctx.vecBusy.isSome || !s.released s.cur.tile s.cur.ctx)
  match s.ctx.mx.err with
  | some (code, sub) => raise (s.onCtx fun v => { v with mx := { v.mx with err := none } }) code sub
  | none =>
    if s.ctx.spec.on || !s.ctx.pending.isEmpty || s.shz s.cur.tile then
      .ok (s.onCtx fun v => { v with endHeld := some kind, hold := .ending (s.horizonDue s.cur.tile) })
    else .ok (s.finishEnd s.cur.tile s.cur.ctx kind)

/-! ## Destination words (R329) -/

/-- What a destination word must leave zero. -/
structure DestRule where
  hdr : Bool
  chan : Bool
  mgmt : Bool
deriving DecidableEq, Repr

/-- R329: the form of a destination word, a wrong MGMT at step 4 of R142 and so first. `r.hdr`: HDR is used; `r.chan`: CHAN is used;
`r.mgmt`: MGMT may be set. -/
def destForm (s : State) (w : Who) (x : Word) (r : DestRule) : Eff Unit := do
  let n := x.toNat
  if bit n 28 && (!w.kernel.supv || (placeOf x).chip != s.chip || !r.mgmt) then raise s cPriv 0
  need s (field n 29 3 == 0 && field n 22 2 == 0 && (r.hdr || field n 32 32 == 0) && (r.chan || field n 24 4 == 0))

/-- R329: the place of a destination word of the right form: on this chip, a tile of the task's partition. -/
def destPlace (s : State) (w : Who) (x : Word) : Eff Place :=
  let p := placeOf x
  if p.chip == s.chip && !w.part.holds p.tile then raise s cIllopnd 8 else .ok p

/-- R329: the checks of a destination word. -/
def checkDest (s : State) (w : Who) (x : Word) (r : DestRule) : Eff Place := do
  destForm s w x r
  destPlace s w x

end Sys2Proof.Machine
end

