-- ==== Sys2Proof/Machine/Operands.lean ====
section
/-!
DEFINITION. The scalar operand forms (R133, R173, R174): what a REG or IMM field supplies, and how a type reads it.
-/

namespace Sys2Proof.Machine

/-- The value of an IMM field: sign-extended to 64 bits (R133). -/
def immWord (v : Imm) : Word := v.signExtend 64

/-- The value of a REG or IMM field. -/
def RegImm.value (b : RegImm) (s : State) : Word :=
  match b with
  | .reg r => s.x r
  | .imm v => immWord v

/-- The value of a REG or IMM field read as an unsigned number. -/
def RegImm.nat (b : RegImm) (s : State) : Nat := (RegImm.value b s).toNat

/-- The w-bit pattern of a register value (R173). -/
def pattern (v : Word) (t : Ty) : Nat := v.toNat % 2 ^ t.width

/-- IntIn(v, t) of a register value (R173). -/
def intOf (v : Word) (t : Ty) : Int := intIn t v.toNat

/-- The k-th register of a group that begins at `r`. -/
def groupReg (r : Reg) (k : Nat) : Reg := BitVec.ofNat 5 (r.toNat + k)

/-- The values of `n` registers from `r` on. -/
def State.group (s : State) (r : Reg) (n : Nat) : List Word := (upto n).map fun k => s.x (groupReg r k)

/-- A register group that stays within x31. -/
def groupOk (r : Reg) (n : Nat) : Bool := r.toNat + n ≤ 32

/-- The number of the capability register that a whole-capability field names; any other field faults (R279). -/
def wholeCap (s : State) (c : CapOp) : Eff Nat := if c.whole then .ok c.c.toNat else raise s cIllopnd 0

/-! ## View registers and rings -/

/-- R37. The home of a ring is tile SRAM (R41); that of a capability register is known when the view is used, and ROT is
checked against it then. -/
def viewLegal (v : View) : Bool :=
  1 ≤ v.rank && v.rank ≤ 4 && v.resZero && (v.rot == 0 || !v.ringf)
  && ((upto 4).all fun i => if i < v.rank then v.ext.getD i 0 != 0 else v.ext.getD i 0 == 1)

/-- R138: a view register that the kernel has. -/
def viewNamed (s : State) (w : Who) (v : Vreg) : Eff Unit := need s (v.toNat < w.image.nview)

/-- R138: the view in a register, which must have been set since dispatch. -/
def viewIn (s : State) (w : Who) (v : Vreg) : Eff View := do
  viewNamed s w v
  match aget? s.regs.v v.toNat with
  | some r => .ok r
  | none => raise s cIllopnd 0

/-- A ring of the executing tile. -/
def State.ring (s : State) (r : Nat) : Option Ring := aget? (s.tile s.cur.tile).loc.rings r

/-- The ring number bound to a handle (R138). -/
def boundRing (s : State) (hd : Hreg) : Eff (Nat × Ring) :=
  match (aget? s.regs.h hd.toNat).bind fun r => (s.ring r).map fun g => (r, g) with
  | some p => .ok p
  | none => raise s cIllopnd 0

end Sys2Proof.Machine
end

