-- ==== Sys2Proof/Machine/Flags.lean ====
section
/-!
DEFINITION. How results and flags are written: integer results (R173), floating-point results with the sticky flags of
%fpstat (R161, R174), predicates (R138).
-/

namespace Sys2Proof.Machine

/-- Mode(I) of the task whose turn it is (R157). -/
def State.mode (s : State) (h : Hint) : Mode := modeOf h.rnd s.regs.fpstat

/-- An integer result, modulo 2^64 (R173). -/
def State.putInt (s : State) (d : Reg) (v : Int) : State := s.setX d (wordOfInt v)

/-- A w-bit result pattern read as type `t` and written as an integer result (R173). -/
def State.putPattern (s : State) (d : Reg) (t : Ty) (p : Nat) : State := s.putInt d (intIn t p)

/-- A floating-point result, zero-extended, with its flags (R161, R174). -/
def State.putFloat (s : State) (d : Reg) (r : Res) : State := (s.setX d (word r.bits)).setFlags r.fl

/-- A predicate result (R138). -/
def State.putPred (s : State) (d : Preg) (b : Bool) : State := s.onRegs fun r => r.writeP d b

/-- %fpstat holds the flags in [5:0] and RMODE in [9:8] (Table 8.3). -/
def fpstatMask : Word := 0x33F

end Sys2Proof.Machine
end

