-- ==== Sys2Proof/Machine/MemCap.lean ====
section
/-!
DEFINITION. Classes 0x4 and 0x5: loads, stores, views, rings and capabilities (R279 to R301).
-/

namespace Sys2Proof.Machine

/-! ## Loads and stores (R283, R284) -/

/-- The register value of a loaded element (R283). -/
def loadedWord (t : Ty) (bs : List Byte) : Word :=
  if t.isSignedInt then wordOfInt (signExtend (leNat bs) t.width) else word (leNat bs % 2 ^ t.width)

/-- LD (R283). -/
def execLd (h : Hint) (t : Ty) (d : Reg) (a : CapOp) (s : State) : Host.Outcome State Fault Refusal :=
  issue s h fun w => do
    let (s, bs) ← s.load w a t.size
    .ok (s.setX d (loadedWord t bs))

/-- The bits that ST writes (R284). -/
def storedBits (t : Ty) (sat : Bool) (v : Word) : Nat :=
  if sat then wrapNat (saturate (if t.isSignedInt then v.toInt else (v.toNat : Int)) t) t.width
  else v.toNat % 2 ^ t.width

/-- ST (R284). -/
def execSt (h : Hint) (t : Ty) (d : CapOp) (a : Reg) (s : State) : Host.Outcome State Fault Refusal :=
  issue s h fun w => s.store w d (leBytes t.size (storedBits t h.sat (s.x a)))

/-! ## Views (R36, R37, R286 to R289) -/

/-- The view of a 64-byte record (Table 2.4). -/
def viewOf (n : Nat) : View :=
  { cap := field n 0 4, rank := field n 4 3, ringf := bit n 7, rh := field n 8 3, rot := field n 11 3,
    offset := field n 24 40, ext := [field n 64 24, field n 88 24, field n 128 24, field n 152 24],
    stride := (upto 4).map fun i => signExtend (field n (192 + 32 * i) 32) 32,
    resZero := field n 14 10 == 0 && field n 112 16 == 0 && field n 176 16 == 0 && field n 320 192 == 0 }

/-- Bits [13:0] of a view record (Table 13.4, selector 10). -/
def viewLow (v : View) : Nat := v.cap + 16 * v.rank + 128 * boolNat v.ringf + 256 * v.rh + 2048 * v.rot

/-- The 64-byte record of a view. -/
def viewNat (v : View) : Nat :=
  let e := fun i => v.ext.getD i 0
  let st := fun i => wrapNat (v.stride.getD i 0) 32
  viewLow v + v.offset * 2 ^ 24 + e 0 * 2 ^ 64 + e 1 * 2 ^ 88 + e 2 * 2 ^ 128 + e 3 * 2 ^ 152
    + st 0 * 2 ^ 192 + st 1 * 2 ^ 224 + st 2 * 2 ^ 256 + st 3 * 2 ^ 288

/-- A view register written. -/
def State.setV (s : State) (d : Vreg) (v : View) : State := s.onRegs fun r => { r with v := aset r.v d.toNat v }

/-- VWSET (R286). -/
def execVwset (h : Hint) (d : Vreg) (a : CapImm) (s : State) : Host.Outcome State Fault Refusal :=
  issue s h fun w => do
    viewNamed s w d
    let (s, n) ← (match a with
      | .imm v => do
        let off := (immWord v).toNat
        need s (off % 64 == 0 && off + 64 ≤ w.image.constLen)
        s.constNat w off 64
      | .cap c => do
        let (s, bs) ← s.load w c 64
        .ok (s, leNat bs) : Eff (State × Nat))
    need s (viewLegal (viewOf n))
    .ok (s.setV d (viewOf n))

/-- VWGET to memory (R287). -/
def execVwgetMemory (h : Hint) (d : CapOp) (a : Vreg) (s : State) : Host.Outcome State Fault Refusal :=
  issue s h fun w => do
    let v ← viewIn s w a
    s.store w d (leBytes 64 (viewNat v))

/-- The field of a view that a selector names (Table 13.4). -/
def viewField (v : View) (f : Nat) : Word :=
  if f = 0 then word v.rank
  else if f = 1 then word v.offset
  else if f ≤ 5 then word (v.ext.getD (f - 2) 0)
  else if f ≤ 9 then wordOfInt (v.stride.getD (f - 6) 0)
  else word (viewLow v)

/-- VWGET to a register (R287). -/
def execVwgetField (h : Hint) (d : Reg) (a : Vreg) (b : Imm) (s : State) : Host.Outcome State Fault Refusal :=
  issue s h fun w => do
    let f := (immWord b).toNat
    need s (f ≤ 10)
    let v ← viewIn s w a
    .ok (s.setX d (viewField v f))

/-- An offset that a view may have. -/
def offsetOk (o : Int) : Bool := 0 ≤ o && o < 2 ^ 40

/-- R288, R289: the outermost dimension of a ring view may not be changed. -/
def ringDim (v : View) (dim : Nat) : Bool := v.ringf && dim + 1 == v.rank

/-- VWSUB (R288). -/
def execVwsub (h : Hint) (d a : Vreg) (b : Reg) (s : State) : Host.Outcome State Fault Refusal :=
  issue s h fun w => do
    viewNamed s w d
    let v ← viewIn s w a
    let n := (s.x b).toNat
    let len := field n 40 24
    let start := field n 16 24
    let step := field n 8 8
    let dim := field n 0 2
    let st := v.stride.getD dim 0
    let off : Int := v.offset + start * st
    need s (field n 2 6 == 0 && dim < v.rank && step != 0 && len != 0 && start + (len - 1) * step < v.ext.getD dim 0
      && offsetOk off && -(2 ^ 31) ≤ st * step && st * step < 2 ^ 31 && !ringDim v dim)
    .ok (s.setV d { v with offset := off.toNat, ext := v.ext.set dim len, stride := v.stride.set dim (st * step) })

/-- VWADV (R289). -/
def execVwadv (h : Hint) (d : Vreg) (a : Imm) (b : RegImm) (s : State) : Host.Outcome State Fault Refusal :=
  issue s h fun w => do
    let v ← viewIn s w d
    let dim := (immWord a).toNat
    let off : Int := v.offset + (RegImm.value b s).toInt * v.stride.getD dim 0
    need s (dim < v.rank && dim ≤ 3 && offsetOk off && !ringDim v dim)
    .ok (s.setV d { v with offset := off.toNat })

/-! ## Rings (R290 to R292) -/

/-- The descriptor of a ring, with its HW fields (Table 2.5). -/
def ringNat (g : Ring) : Nat :=
  g.slog2 + g.nlog2 * 2 ^ 3 + g.pctr * 2 ^ 8 + g.ptile * 2 ^ 16 + g.pchip * 2 ^ 28 + g.fctr * 2 ^ 40
    + g.head * 2 ^ 64 + g.relsd * 2 ^ 96 + g.cap.ctidx * 2 ^ 128 + g.cap.hallmark * 2 ^ 144 + g.rsv * 2 ^ 160

/-- A source capability register that must not be empty (step 2 of R280). -/
def sourceCap (s : State) (i : Nat) : Eff Cap :=
  match s.c i with
  | some c => .ok c
  | none => capFault s i none 0 0 cRights

/-- Step 4 of R280: G is required. -/
def needG (s : State) (i : Nat) (c : Cap) : Eff Unit := if c.rights.g then .ok () else capFault s i (some c) 0 0 cRights

/-- RBIND, install (R290, R41). -/
def execRbindInstall (h : Hint) (d : RegImm) (a b : CapOp) (s : State) : Host.Outcome State Fault Refusal :=
  issue s h fun w => do
    let cb ← wholeCap s b
    waitWhile s (s.capBusy cb)
    noSpec s
    let ring := RegImm.nat d s
    need s (ring < 16 && (s.ring ring).isNone)
    let c ← sourceCap s cb
    let (s, bs) ← s.load w a 32
    let n := leNat bs
    let slog := field n 0 3
    let nlog := field n 3 4
    need s (slog ≤ 6 && nlog ≤ 8 && !bit n 7 && field n 38 2 == 0 && field n 48 16 == 0 && field n 192 64 == 0)
    need s (c.kind == .tile && c.agent == s.cur.tile && c.chip == s.chip && 64 * 2 ^ slog * 2 ^ nlog ≤ c.bytes)
    if !(c.rights.r && c.rights.w && c.rights.g) then capFault s cb (some c) 0 0 cRights
    let g : Ring :=
      { slog2 := slog, nlog2 := nlog, pctr := field n 8 8, ptile := field n 16 12, pchip := field n 28 10,
        fctr := field n 40 8, head := 0, relsd := 0, rsv := 0, cap := c, kslot := w.kslot, deliveries := [] }
    let s := ((s.setC cb none).onLocal s.cur.tile fun l => { l with rings := aset l.rings ring g }).remember
      (.ring s.cycle ring none (some g))
    let old := (s.tile s.cur.tile).loc.ctr g.fctr
    .ok ((s.setCtr s.cur.tile g.fctr { old with value := 0 }).remember (.mset s.cycle g.fctr old 0))

/-- A ring is held by a running or parked task other than that of the context whose turn it is (R118). -/
def State.heldByOther (s : State) (r : Nat) : Bool :=
  ((s.tile s.cur.tile).core.ctxs.any fun c =>
    c.1 != s.cur.ctx && c.2.run.task.isSome && c.2.run.rings.contains r)
  || (s.tile s.cur.tile).loc.park.any fun q => q.2.rings.contains r

/-- RBIND, attach (R290). -/
def execRbindAttach (h : Hint) (d : RingOp) (a : Imm) (s : State) : Host.Outcome State Fault Refusal :=
  issue s h fun w => do
    noSpec s
    let ring := (immWord a).toNat
    need s (d.count == 0 && (d.h.toNat < w.image.nring || d.h.toNat < 2) && ring < 16 && (s.ring ring).isSome
      && (aget? s.regs.h d.h.toNat).isNone && !s.heldByOther ring)
    .ok ((s.onRegs fun r => { r with h := aset r.h d.h.toNat ring }).onRun fun r =>
      { r with rings := if r.rings.contains ring then r.rings else ring :: r.rings })

/-- RBIND, remove (R290). -/
def execRbindRemove (h : Hint) (d : RegImm) (b : CapOp) (s : State) : Host.Outcome State Fault Refusal :=
  issue s h fun _ => do
    let cb ← wholeCap s b
    noSpec s
    let ring := RegImm.nat d s
    let t := s.tile s.cur.tile
    need s (ring < 16 && !t.ringHeld ring && (s.c cb).isNone
      && !(t.loc.recs.any fun r => (match r.2.q with | .running _ => false | _ => true)
        && (recNeeds r.2.img).any fun n => n.1 == ring))
    match s.ring ring with
    | none => raise s cIllopnd 0
    | some g => .ok (((s.onLocal s.cur.tile fun l => { l with rings := aerase l.rings ring }).setC cb (some g.cap)).remember
        (.ring s.cycle ring (some g) none))

/-- RADV (R291). -/
def execRadv (h : Hint) (d : RingOp) (b : Reg) (s : State) : Host.Outcome State Fault Refusal :=
  issue s h fun w => do
    noSpec s
    let (r, g) ← boundRing s d.h
    need s (!(d.count != 0 && b != 0))
    let k := if d.count = 0 then (s.x b).toNat else d.count.toNat
    need s (k ≤ (s.tile s.cur.tile).loc.fill g)
    if k = 0 then .ok s.notRetriable
    else do
      let dst : Place := ⟨g.pchip, g.ptile⟩
      if g.pchip == s.chip && !w.part.holds g.ptile then raise s cIllopnd 8
      let s ← s.postPacket w dst 16 (.inc g.pctr k (dst == ⟨s.chip, s.cur.tile⟩)) none
      .ok (((s.advanceRing s.cur.tile r k).remember (.head s.cycle r k)).notRetriable)

/-- RSTAT, the fill count (R292). -/
def execRstatFill (h : Hint) (d : Reg) (a : RingOp) (s : State) : Host.Outcome State Fault Refusal :=
  issue s h fun w => do
    detCheck s w
    noSpec s
    let (_, g) ← boundRing s a.h
    .ok (s.setX d (word ((s.tile s.cur.tile).loc.fill g)))

/-- RSTAT, the descriptor (R292). -/
def execRstatDescriptor (h : Hint) (d : CapOp) (a : Imm) (s : State) : Host.Outcome State Fault Refusal :=
  issue s h fun w => do
    detCheck s w
    noSpec s
    let ring := (immWord a).toNat
    match (if ring < 16 then s.ring ring else none) with
    | none => raise s cIllopnd 0
    | some g => s.store w d (leBytes 32 (ringNat g))

/-! ## Moving capabilities (R293) -/

/-- CMOV between registers (R293). -/
def execCmovMove (h : Hint) (d a : CapOp) (s : State) : Host.Outcome State Fault Refusal :=
  issue s h fun _ => do
    let cd ← wholeCap s d
    let ca ← wholeCap s a
    waitWhile s (s.capBusy cd || s.capBusy ca)
    need s (s.c cd).isNone
    let c ← sourceCap s ca
    .ok ((s.setC ca none).setC cd (some c))

/-- CMOV to a parking slot (R293). It is a release: the context's writes under the capability have been performed (R360,
R362). -/
def execCmovPark (h : Hint) (d : RegImm) (a : CapOp) (s : State) : Host.Outcome State Fault Refusal :=
  issue s h fun w => do
    let ca ← wholeCap s a
    waitWhile s (s.capBusy ca)
    noSpec s
    let n := RegImm.nat d s
    let v := (s.tile s.cur.tile).loc.slot n
    need s (n < 256 && v.open)
    let c ← sourceCap s ca
    waitWhile s (!s.written s.cur.tile s.cur.ctx c.key)
    .ok ((((s.setC ca none).setSlot s.cur.tile n { v with cap := some c, kslot := some w.kslot })).remember
      (.parked s.cycle n))

/-- CMOV from a parking slot (R293). -/
def execCmovUnpark (h : Hint) (d : CapOp) (a : RegImm) (s : State) : Host.Outcome State Fault Refusal :=
  issue s h fun _ => do
    let cd ← wholeCap s d
    waitWhile s (s.capBusy cd)
    noSpec s
    let n := RegImm.nat a s
    let v := (s.tile s.cur.tile).loc.slot n
    need s (n < 256 && (s.c cd).isNone)
    match v.cap with
    | none => raise s cIllopnd 0
    | some c =>
      .ok (((s.setSlot s.cur.tile n { v with cap := none, kslot := none }).setC cd (some c)).remember
        (.unparked s.cycle n v))

/-! ## Fractions, narrowing and rights (R294 to R297) -/

/-- Step 5 of R280: the home is consulted. It holds the request during a reclaim and refuses a stale hallmark. `local'`
tells whether the home lies on this chip. -/
def consultHome (s : State) (w : Who) (i : Nat) (c : Cap) (op arg : Nat) : Eff (State × Bool) := do
  if c.chip = s.chip then
    waitWhile s (s.ct c.key).recl.isSome
    if s.current c then .ok (s, true) else capFault s i (some c) 0 0 cRevoked
  else
    let (s, _) ← s.askRemote w (.consult op c arg) i (some c)
    .ok (s, false)

/-- An operation on the CT entry of a buffer of this chip is kept in the horizon's history: `tokens` have gone out (R450, log 45). -/
def State.rememberEntry (s : State) (c : Cap) (tokens : Int) (old : CtEntry) : State :=
  s.remember (.entry s.cycle c.key c.hallmark tokens (old.state, old.maxr))

/-- CSPLIT (R294). A fraction shows the buffer as it stands at the split, so the owner's writes are performed first
(R364). -/
def execCsplit (h : Hint) (d a : CapOp) (b : RegImm) (s : State) : Host.Outcome State Fault Refusal :=
  issue s h fun w => do
    let cd ← wholeCap s d
    let ca ← wholeCap s a
    waitWhile s (s.capBusy cd || s.capBusy ca)
    noSpec s
    let n := RegImm.nat b s
    let k := field n 0 16
    let q := Rights.ofCode (field n 16 4)
    need s (n < 2 ^ 20 && (s.c cd).isNone && !q.w)
    let c ← sourceCap s ca
    need s (q.sub c.rights && (match c.mode with
      | .exclusive => 1 ≤ k
      | .fraction => 1 ≤ k && k < c.tokens
      | .sealed => k == 0
      | .lookahead => false))
    needG s ca c
    waitWhile s (!s.written s.cur.tile s.cur.ctx c.key)
    let (s, here) ← consultHome s w ca c 0 k
    let s := s.dropValidation s.cur.tile c
    match c.mode with
    | .exclusive =>
      let e := s.ct c.key
      need s (!here || e.tokOut + e.tokLost + k ≤ 65535)
      let s := if here then (s.setCt c.key { e with tokOut := e.tokOut + k }).rememberEntry c k e else s
      .ok (s.setC cd (some { c with mode := .fraction, rights := q, tokens := k }))
    | .fraction =>
      .ok ((s.setC ca (some { c with tokens := c.tokens - k })).setC cd (some { c with rights := q, tokens := k }))
    | _ => .ok (s.setC cd (some { c with rights := q }))

/-- Two capabilities name one buffer (R295). -/
def sameBuffer (a b : Cap) : Bool := a.chip == b.chip && a.kind == b.kind && a.agent == b.agent && a.ctidx == b.ctidx

/-- CJOIN (R295). -/
def execCjoin (h : Hint) (d a : CapOp) (s : State) : Host.Outcome State Fault Refusal :=
  issue s h fun w => do
    let cd ← wholeCap s d
    let ca ← wholeCap s a
    waitWhile s (s.capBusy cd || s.capBusy ca)
    noSpec s
    need s (cd != ca)
    let x ← sourceCap s cd
    let c ← sourceCap s ca
    need s (sameBuffer x c && x.mode == .exclusive && c.mode == .fraction)
    let (s, here) ← consultHome s w cd x 1 (if c.hallmark = x.hallmark then c.tokens else 0)
    let (s, _) ← (if here then consultHome s w ca c 1 0
      else if c.hallmark = x.hallmark then .ok (s, false) else capFault s ca (some c) 0 0 cRevoked)
    let s := s.dropValidation s.cur.tile c
    .ok ((if here then (s.onCt c.key fun e => e.tokensBack c.tokens false).rememberEntry c (-c.tokens) (s.ct c.key) else s).setC
      ca none)

/-- The union of two windows of one buffer, when it is contiguous (R295). -/
def joinWindows (x y : Cap) : Option (Nat × Nat) :=
  if x.woff ≤ y.woff + y.wlen ∧ y.woff ≤ x.woff + x.wlen then
    some (min x.woff y.woff, max (x.woff + x.wlen) (y.woff + y.wlen) - min x.woff y.woff)
  else none

/-- CMERGE (R295). -/
def execCmerge (h : Hint) (d a : CapOp) (s : State) : Host.Outcome State Fault Refusal :=
  issue s h fun w => do
    let cd ← wholeCap s d
    let ca ← wholeCap s a
    waitWhile s (s.capBusy cd || s.capBusy ca)
    noSpec s
    need s (cd != ca)
    let x ← sourceCap s cd
    let c ← sourceCap s ca
    need s (sameBuffer x c && x.mode == .fraction && c.mode == .fraction)
    match joinWindows x c with
    | none => raise s cIllopnd 0
    | some (o, l) => do
      let (s, here) ← consultHome s w cd x 2 0
      let (s, _) ← (if here then consultHome s w ca c 2 0
        else if c.hallmark = x.hallmark then .ok (s, false) else capFault s ca (some c) 0 0 cRevoked)
      let m : Cap := { x with tokens := x.tokens + c.tokens, rights := x.rights.inter c.rights, woff := o, wlen := l }
      .ok ((s.setC ca none).setC cd (some m))

/-- The frame of R296: c[a] moves into c[d], changed. -/
def reduceCap (h : Hint) (d a : CapOp) (s : State) (pre : Bool) (ok : Cap → Bool) (f : Cap → Cap) :
    Host.Outcome State Fault Refusal :=
  issue s h fun _ => do
    let cd ← wholeCap s d
    let ca ← wholeCap s a
    waitWhile s (s.capBusy cd || s.capBusy ca)
    need s (pre && (cd == ca || (s.c cd).isNone))
    let c ← sourceCap s ca
    need s (ok c)
    needG s ca c
    .ok ((s.setC ca none).setC cd (some (f c)))

/-- CNARROW (R296). -/
def execCnarrow (h : Hint) (d a : CapOp) (b : Reg) (s : State) : Host.Outcome State Fault Refusal :=
  let n := (s.x b).toNat
  let off := field n 24 24
  let len := field n 0 24
  reduceCap h d a s (n < 2 ^ 48) (fun c => off + len ≤ c.wlen) fun c => { c with woff := c.woff + off, wlen := len }

/-- CRIGHTS (R296). -/
def execCrights (h : Hint) (d a : CapOp) (b : RegImm) (s : State) : Host.Outcome State Fault Refusal :=
  let n := RegImm.nat b s
  reduceCap h d a s (n < 16) (fun c => (Rights.ofCode n).sub c.rights) fun c => { c with rights := Rights.ofCode n }

/-- The field of a capability that a selector names (Table 13.6). -/
def capInfo (c : Option Cap) (f : Nat) : Nat :=
  match c with
  | none => 0
  | some c =>
    match f with
    | 0 => 1 | 1 => c.mode.code | 2 => c.rights.code | 3 => c.kind.code | 4 => c.tokens | 5 => c.woff | 6 => c.wlen
    | 7 => c.bytes | 8 => c.chip | 9 => c.agent | 10 => c.hallmark | _ => c.ctidx

/-- CINFO (R297). Selectors 10 and 11 pass PrivCheck and then DetCheck. -/
def execCinfo (h : Hint) (d : Reg) (a : CapOp) (b : Imm) (s : State) : Host.Outcome State Fault Refusal :=
  issue s h fun w => do
    let f := (immWord b).toNat
    if f = 10 ∨ f = 11 then
      privCheck s w
      detCheck s w
    let ca ← wholeCap s a
    need s (f ≤ 11)
    .ok (s.setX d (word (capInfo (s.c ca) f)))

/-- R50: the home says of a capability that CDROP is to discard whether it is live; one of a retired entry faults, and so does one that
meets a reclaim there (Table 3.6). A home on another chip answers, for this chip's the caller holds what a reclaim holds. -/
def dropCheck (s : State) (w : Who) (i : Nat) (c : Cap) : Eff (State × Bool) :=
  if c.chip = s.chip then
    if (s.ct c.key).state = .retired then capFault s i (some c) 0 0 cRevoked else .ok (s, s.current c)
  else do
    let (s, bs) ← s.askRemote w (.consult 6 c 0) i (some c)
    .ok (s, bs == [1])

/-- CDROP (R298). While the task speculates, only a sealed or lookahead capability may go (Table 13.1). A capability of a
retired entry faults (R50, log 87); one that meets a reclaim is held at the home and then faults (Table 3.6), which governs over
R298 by R6. It is a release: the accesses under the capability have been performed (R362, R364). -/
def execCdrop (h : Hint) (d : CapOp) (s : State) : Host.Outcome State Fault Refusal :=
  issue s h fun w => do
    let cd ← wholeCap s d
    waitWhile s (s.capBusy cd)
    match s.c cd with
    | none => .ok s
    | some c => do
      if !inert c then
        noSpec s
        waitWhile s (!s.written s.cur.tile s.cur.ctx c.key)
      let (s, live) ← dropCheck s w cd c
      if !inert c && c.chip == s.chip && live && (s.ct c.key).recl.isSome then
        .error (s.onCtx fun v => { v with hold := .cdrop c.key cd }, .wait)
      let s := (s.setC cd none).dropValidation s.cur.tile c
      .ok (if live || inert c then s.dropHere w c else s)

/-- CSEAL (R299). It waits until every earlier write of the context under the capability has been performed. -/
def execCseal (h : Hint) (d a : CapOp) (s : State) : Host.Outcome State Fault Refusal :=
  issue s h fun w => do
    let cd ← wholeCap s d
    let ca ← wholeCap s a
    waitWhile s (s.capBusy cd || s.capBusy ca)
    noSpec s
    need s (s.c cd).isNone
    let c ← sourceCap s ca
    need s (c.mode == .exclusive)
    needG s ca c
    waitWhile s (!s.written s.cur.tile s.cur.ctx c.key)
    let (s, here) ← consultHome s w ca c 3 0
    let e := s.ct c.key
    if here && 0 < e.tokOut + e.tokLost then capFault s ca (some c) 0 0 cNotowner
    need s (!here || !e.laopen)
    let s := if here then (s.setCt c.key { e with state := .sealed, maxr := { e.maxr with w := false } }).rememberEntry c 0 e
      else s
    .ok ((s.setC ca none).setC cd (some { c with mode := .sealed, rights := { c.rights with w := false } }))

/-! ## Reclaim (R65, R66, R300) -/

/-- The publications of a buffer cancelled in every barrier table of its partition (R394). -/
def State.cancelBuffer (s : State) (tiles : List Nat) (key : Nat) : State :=
  tiles.foldl (fun s t => s.onLocal t fun l =>
    { l with bars := amap l.bars fun _ b =>
        { b with pubs := b.pubs.filter fun p => p.2.1.key != key, prev := b.prev.filter fun p => p.2.1.key != key } }) s

/-- Step 1 of R66: RECL is set, and every core and steward of the partition is to be invalidated. A LAOPEN buffer's
readers roll back and its publication is cancelled (R394). -/
def State.startReclaim (s : State) (key : Nat) (caller : Caller) : State :=
  let e := s.ct key
  let tiles := ((aget? s.parts e.part).map Part.tiles).getD []
  let s := if e.laopen then
      (s.cancelBuffer tiles key).rollReaders ⟨e.hallmark, key % 65536, 0, s.chip, .exclusive, e.maxr, .tile, 0, 0, 0⟩ key
    else s
  s.onCt key fun e => { e with recl := some ⟨caller, tiles, tiles⟩ }

/-- A task of the kernel's reclaim handler (R65, R70): created by a message on the reclaim binding. -/
def Who.reclaimHandler (w : Who) (t : Nat) : Bool :=
  w.kernel.lrec.rbv && w.kernel.interval[w.kernel.lrec.roff]? == some t && w.task.sender.isSome
  && w.task.first.getD 5 0 == word w.kernel.lrec.rchan

/-- R65: who may reclaim; a second reclaim waits for the first (Table 3.6). A sealed buffer only the partition supervisor
reclaims (R60, log 82). -/
def mayReclaim (s : State) (w : Who) (i : Nat) (c : Cap) : Eff Unit := do
  let e := s.ct c.key
  let live := e.state == .exclusive || e.state == .sealed
  if w.kernel.supv then
    if !(c.chip == s.chip && live && e.part == w.pnum) then raise s cPriv 0
  else
    if !(w.reclaimHandler s.cur.tile && c.chip == s.chip && e.part == w.pnum && e.kv && e.kslot == w.kslot
        && e.state != .sealed) then
      raise s cPriv 0
    if !s.current c then capFault s i (some c) 0 0 cRevoked
  waitWhile s e.recl.isSome

/-- CRECLAIM, register form (R300): the issue is held until step 4 of R66. -/
def execCreclaimRegister (h : Hint) (d : CapOp) (s : State) : Host.Outcome State Fault Refusal :=
  issue s h fun w => do
    let cd ← wholeCap s d
    waitWhile s (s.capBusy cd)
    noSpec s
    let c ← sourceCap s cd
    mayReclaim s w cd c
    let s := s.startReclaim c.key (.register s.cur.tile s.cur.ctx cd w.kslot)
    .error (s.onCtx fun v => { v with hold := .reclaim c.key cd }, .wait)

/-- CRECLAIM, slot form (R300): the slot is reserved, and the context issues on. -/
def execCreclaimSlot (h : Hint) (d : CapOp) (b : RegImm) (s : State) : Host.Outcome State Fault Refusal :=
  issue s h fun w => do
    let cd ← wholeCap s d
    waitWhile s (s.capBusy cd)
    noSpec s
    let n := RegImm.nat b s
    let v := (s.tile s.cur.tile).loc.slot n
    need s (n < 256 && v.open)
    let c ← sourceCap s cd
    mayReclaim s w cd c
    let s := s.startReclaim c.key (.slot s.cur.tile n (some w.kslot))
    .ok ((s.setC cd none).setSlot s.cur.tile n { v with reserved := true })

end Sys2Proof.Machine
end

