-- ==== Sys2Proof/Machine/Messages.lean ====
section
/-!
DEFINITION. Class 0x9 and the operation packets of class 0xA: the instructions that post (R338 to R353).
-/

namespace Sys2Proof.Machine

/-! ## Shared parts -/

/-- A post that acts on the executing tile alone waits at issue for the accesses before it (R335); while it is held, it
waits at its release. -/
def localPost (s : State) : Eff Unit :=
  waitWhile s (!s.ctx.spec.on && s.ctx.shzPosts.isEmpty && !s.shz s.cur.tile && !s.settled s.cur.tile s.cur.ctx)

/-- The header word of a capability message (Table 15.6). -/
def capHeader (reason : Nat) (copy : Bool) (first n : Nat) : Word :=
  word (reason + boolNat copy * 2 ^ 8 + first * 2 ^ 9 + n * 2 ^ 17)

/-- The place that a landing destination names: a tile of R329, or the executing tile. -/
def landPlace (s : State) (w : Who) (d : LandDest) : Eff LandAt :=
  match d with
  | .remote x n => do
    let p ← checkDest s w (s.x x) ⟨false, false, false⟩
    .ok ⟨p, n.toNat⟩
  | .land n => .ok ⟨⟨s.chip, s.cur.tile⟩, n.toNat⟩

/-- A task's REPLYQ is its first since a dispatch that reserved a VN1 entry (R124). -/
def firstReply (c : Context) : Bool :=
  c.run.reply && !((c.spec.held ++ c.shzPosts).any fun p => match p.post with | .packet _ r => r | _ => false)

/-! ## SENDQ, REPLYQ, SENDC, SENDR -/

/-- R340: the operand limits of SENDQ and REPLYQ. -/
def messageOperands (s : State) (n : Nat) (a : Imm) (b : Reg) : Eff Unit :=
  need s ((immWord a).toNat ≤ 15 && groupOk b n && (n != 0 || b == 0))

/-- The body of a message with `words` as payload. -/
def messageBody (chan : Nat) (hdr : Word) (words : List Word) (cap : Option Cap) : Body :=
  .msg chan hdr (words.getD 0 0) (words.getD 1 0) (words.getD 2 0) cap

/-- The body of a management request (R95). -/
def mgmtBody (hdr : Nat) (zero : Bool) (words : List Word) (cap : Option Cap) (tile chan : Nat) : Body :=
  .mgmt (field hdr 0 8) (field hdr 16 16) (zero && field hdr 8 8 == 0) words cap tile chan

/-- SENDQ (R340). -/
def execSendq (h : Hint) (n : BitVec 4) (d : Reg) (a : Imm) (b : Reg) (s : State) : Host.Outcome State Fault Refusal :=
  issueSignal s h fun w i => do
    let x := s.x d
    let dst ← checkDest s w x ⟨true, false, true⟩
    messageOperands s n.toNat a b
    let hdr := field x.toNat 32 32
    let words := s.group b n.toNat
    if bit x.toNat 28 then
      s.postPacket w ⟨s.chip, fabricTile⟩ (16 + 8 * n.toNat) (mgmtBody hdr true words none dst.tile (immWord a).toNat) (some i)
    else
      s.postPacket w dst (16 + 8 * n.toNat) (messageBody (immWord a).toNat (word hdr) words none) (some i)

/-- REPLYQ (R341): the reserved entry, or a free unreserved one; it stalls until one exists. -/
def execReplyq (h : Hint) (n : BitVec 4) (d : Reg) (a : Imm) (b : Reg) (s : State) : Host.Outcome State Fault Refusal :=
  issue s h fun w => do
    let x := s.x d
    let dst ← checkDest s w x ⟨true, false, false⟩
    messageOperands s n.toNat a b
    let reserved := firstReply s.ctx
    waitWhile s (!s.ctx.spec.on && !reserved && 16 ≤ (s.tile s.cur.tile).core.vn1Used)
    let body := messageBody (immWord a).toNat (word (field x.toNat 32 32)) (s.group b n.toNat) none
    s.post (.packet (s.corePacket w 1 dst (16 + 8 * n.toNat) body) reserved) none

/-- R62: the policy of a SENDC decides for COPY. -/
def actsAsCopy (p : Policy) (c : Cap) (dst : Place) : Bool :=
  match p with
  | .xfer => false
  | .copy => true
  | .auto => c.bytes ≤ 4096 || ((c.kind == .tile || c.kind == .cluster) && c.chip != dst.chip)

/-- R307: a kick entry is written in the lowest free place; QFULL, subcode 0x01, when there is none. -/
def State.kickEntry (s : State) (w : Who) (kind pslot : Nat) (cap : Option Cap) (args : List Word) : Eff (State × Nat) :=
  let l := (s.tile s.cur.tile).loc
  match freeKey l.kicks (upto 64) with
  | none => raise s cQfull 1
  | some e =>
    let k : Kick :=
      { state := .held, kind := kind, cap := cap, ctx := s.cur.ctx, kslot := w.kslot, pslot := pslot, seq := l.kickSeq,
        args := args }
    .ok (s.onLocal s.cur.tile fun l => { l with kicks := aset l.kicks e k, kickSeq := (l.kickSeq + 1) % 2 ^ 32 }, e)

/-- SENDC (R342, R62 to R64). RES of its destination word stands before the place (R329). -/
def execSendc (h : Hint) (pol : Policy) (d : Reg) (a : CapOp) (b : Reg) (s : State) : Host.Outcome State Fault Refusal :=
  issueSignal s h fun w i => do
    let x := s.x d
    let n := x.toNat
    destForm s w x ⟨true, true, true⟩
    need s (field n 40 24 == 0)
    let dst ← destPlace s w x
    let ca ← wholeCap s a
    waitWhile s (s.capBusy ca)
    match s.c ca with
    | none => capFault s ca none 0 0 cRights
    | some c => do
      let chan := field n 24 4
      let copy := !bit n 28 && actsAsCopy pol c dst
      if !c.rights.g || (copy && !c.rights.r) then capFault s ca (some c) 0 0 cRights
      if copy then
        localPost s
        let arg0 := word ((placeWord dst).toNat + chan * 2 ^ 24)
        let (s, e) ← s.kickEntry w 1 (field n 32 8) (some c) [arg0, s.x b, 0, 0]
        ((s.setC ca none).dropValidation s.cur.tile c).post (.kick e) (some i)
      else
        let body := if bit n 28 then
            mgmtBody (field (s.x b).toNat 0 32) (field (s.x b).toNat 32 32 == 0 && field n 32 8 == 0) [] (some c) dst.tile chan
          else .msg chan (capHeader cOk false 0 0) (s.x b) 0 0 (some c)
        let target := if bit n 28 then ⟨s.chip, fabricTile⟩ else dst
        if !s.ctx.spec.on && 32 ≤ (s.tile s.cur.tile).core.vn0Used then raise s cQfull 0
        ((s.setC ca none).dropValidation s.cur.tile c).post (.packet (s.corePacket w 0 target 40 body) false) (some i)

/-- SENDR (R344). -/
def execSendr (h : Hint) (d : LandDest) (a : RegImm) (s : State) : Host.Outcome State Fault Refusal :=
  issueSignal s h fun w i => do
    let at' ← landPlace s w d
    s.postPacket w at'.place 24 (.land at'.reg [RegImm.value a s]) (some i)

/-! ## SPAWN, SPAWNR, ARM -/

/-- The record image in 128 bytes (R28); SIGMASK, RETRIES, HWQ and KSLOT are the hardware's. -/
def imageOf (n : Nat) : RecImage :=
  { entry := field n 0 32, prio := field n 32 3, nacc := field n 36 3, reply := bit n 39, stv := bit n 110,
    stSlot := field n 102 8, ctrv := bit n 119, ctr := field n 111 8, target := field n 128 32, rv0 := bit n 202,
    rnum0 := field n 198 4, rcnt0 := field n 190 8, rv1 := bit n 215, rnum1 := field n 211 4, rcnt1 := field n 203 8,
    lmask := field n 216 32, arg := word (field n 512 64),
    resZero := !bit n 35 && field n 64 38 == 0 && field n 120 8 == 0 && field n 160 30 == 0 && field n 248 8 == 0
      && field n 328 184 == 0 && field n 576 448 == 0 }

/-- An image in the const section (R345): a multiple of 128, wholly inside. -/
def constImage (s : State) (w : Who) (v : Imm) : Eff (State × RecImage) := do
  let off := (immWord v).toNat
  need s (off % 128 == 0 && off + 128 ≤ w.image.constLen)
  let (s, n) ← s.constNat w off 128
  .ok (s, imageOf n)

/-- A record enqueued on the executing tile: REFUSED when its check or the pool refuses it (R30, R31). -/
def enqueueHere (s : State) (w : Who) (img : RecImage) (words : List Word) (signal : Option Nat) : Eff State := do
  let l := (s.tile s.cur.tile).loc
  if recRefused img l w.image w.kernel.supv then raise s cRefused 0
  if l.freeRec.isNone then raise s cRefused 1
  s.post (.task img (createdWords s.chip s.cur.tile words) w.kslot) signal

/-- SPAWN (R345). -/
def execSpawn (h : Hint) (n : BitVec 4) (d : CapImm) (a : Reg) (s : State) : Host.Outcome State Fault Refusal :=
  issueSignal s h fun w i => do
    need s (groupOk a n.toNat)
    localPost s
    let words := s.group a n.toNat
    match d with
    | .imm v => do
      let (s, img) ← constImage s w v
      enqueueHere s w img words (some i)
    | .cap c => do
      let (s, bs) ← s.load w c 128
      enqueueHere s w (imageOf (leNat bs)) words (some i)

/-- SPAWNR (R346). -/
def execSpawnr (h : Hint) (n : BitVec 4) (d : Reg) (a : Imm) (b : Reg) (s : State) : Host.Outcome State Fault Refusal :=
  issueSignal s h fun w i => do
    let dst ← checkDest s w (s.x d) ⟨false, false, false⟩
    if dst.chip != s.chip || !w.kernel.tiles.contains dst.tile then raise s cIllopnd 8
    need s (groupOk b n.toNat)
    let (s, img) ← constImage s w a
    s.postPacket w dst (144 + 8 * n.toNat)
      (.spawn img (createdWords s.chip s.cur.tile (s.group b n.toNat)) (recOffset w.rec')) (some i)

/-- ARM (R347). -/
def execArm (h : Hint) (d : Imm) (a : Reg) (b : RegImm) (s : State) : Host.Outcome State Fault Refusal :=
  issue s h fun w => do
    need s (w.image.legal (immWord d).toNat && (s.x a).toNat < 256)
    localPost s
    let img := { recContinued w.task.img (immWord d).toNat (s.x a).toNat (RegImm.nat b s) with stv := false, stSlot := 0 }
    if (s.tile s.cur.tile).loc.freeRec.isNone then raise s cRefused 1
    (s.post (.task img (createdWords s.chip s.cur.tile [word img.target]) w.kslot) none).map State.notRetriable

/-! ## Counters and landing registers -/

/-- MINC (R348). -/
def execMinc (h : Hint) (d : Reg) (a b : RegImm) (s : State) : Host.Outcome State Fault Refusal :=
  issueSignal s h fun w i => do
    let dst ← checkDest s w (s.x d) ⟨false, false, false⟩
    let c := RegImm.nat a s
    need s (c < 256)
    s.postPacket w dst 16 (.inc c (RegImm.nat b s % 2 ^ 32) (dst == ⟨s.chip, s.cur.tile⟩)) (some i)

/-- A packet of this tile's own core or matrix engine whose body is one that `f` names, on its way to the tile. -/
def State.ownPost (s : State) (f : Body → Bool) : Bool :=
  let here : Place := ⟨s.chip, s.cur.tile⟩
  let mine (p : Packet) : Bool := p.src == here && p.dst == here && f p.body
  let waiting (p : HeldPost) : Bool := match p.post with | .packet q _ => mine q | _ => false
  (s.net.any mine) || ((s.tile s.cur.tile).core.inj.any fun e => mine e.pkt)
  || s.ctx.shzPosts.any waiting

/-- R349, R350: an earlier post of the context to a counter of its tile has not been applied. -/
def State.ownInc (s : State) (c : Nat) : Bool :=
  (s.ownPost fun b => match b with | .inc i _ _ => i == c | _ => false)
  || s.ctx.mx.queue.any fun m => match m.op with
    | .sig dst i _ => dst == ⟨s.chip, s.cur.tile⟩ && i == c
    | _ => false

/-- R349: an earlier post of the context to a landing register of its tile has not been applied: it is under way, or waits in
the landing hold (R331). -/
def State.ownLand (s : State) (y : Nat) : Bool :=
  (s.ownPost fun b => match b with | .land i _ => i == y | _ => false)
  || (s.tile s.cur.tile).loc.landHold.any fun h => h.reg == y

/-- MRD of a counter (R349, R336). -/
def execMrdCounter (h : Hint) (d : Reg) (a : RegImm) (s : State) : Host.Outcome State Fault Refusal :=
  issue s h fun w => do
    let i := RegImm.nat a s
    need s (i < 256)
    let c := (s.tile s.cur.tile).loc.ctr i
    if !c.loc then detCheck s w
    waitWhile s (s.ownInc i)
    .ok (s.setX d (c.value.setWidth 64))

/-- MRD of a landing register (R330, R331, R349): it returns the value and clears the presence bit. -/
def execMrdLanding (h : Hint) (d : Reg) (a : Yreg) (s : State) : Host.Outcome State Fault Refusal :=
  issue s h fun _ => do
    noSpec s
    match aget? (s.tile s.cur.tile).loc.land a.toNat with
    | none => do
      waitWhile s (s.ownLand a.toNat)
      raise s cIllopnd 5
    | some v =>
      let s := (s.setLand s.cur.tile a.toNat none).onLocal s.cur.tile fun l =>
        { l with landFreed := aset l.landFreed a.toNat s.cycle }
      .ok ((s.remember (.landing s.cycle a.toNat v)).setX d v)

/-- MSET (R350). -/
def execMset (h : Hint) (n : BitVec 4) (d a : RegImm) (s : State) : Host.Outcome State Fault Refusal :=
  issue s h fun _ => do
    let i := RegImm.nat d s
    need s (i < 256)
    noSpec s
    waitWhile s (s.ownInc i)
    let old := (s.tile s.cur.tile).loc.ctr i
    let c : Ctr := ⟨(RegImm.value a s).setWidth 32, n == 1⟩
    .ok ((s.setCtr s.cur.tile i c).remember (.mset s.cycle i old c.value))

/-! ## KICK -/

/-- The capability that a KICK delegates: a register that is not empty, with G. -/
def kickCap (s : State) (d : Option CapOp) : Eff (Option (Nat × Cap)) :=
  match d with
  | none => .ok none
  | some f => do
    let i ← wholeCap s f
    waitWhile s (s.capBusy i)
    match s.c i with
    | none => capFault s i none 0 0 cRights
    | some c => if c.rights.g then .ok (some (i, c)) else capFault s i (some c) 0 0 cRights

/-- KICK (R351). -/
def execKick (h : Hint) (d : Option CapOp) (a : Reg) (s : State) : Host.Outcome State Fault Refusal :=
  issueSignal s h fun w i => do
    need s (groupOk a 4)
    let c ← kickCap s d
    localPost s
    let (s, e) ← s.kickEntry w 0 0 (c.map (·.2)) (s.group a 4)
    let s := match c with
      | some (i, c) => (s.setC i none).dropValidation s.cur.tile c
      | none => s
    s.post (.kick e) (some i)

/-! ## AOP and AOPR -/

/-- The operand words of a memory-agent function (Table 15.7). -/
def aopWords (fn : Nat) : Nat := if fn = 8 then 2 else if fn = 9 then 4 else 1

/-- R353, R407: an operation for an element on another chip holds the issue until its home answers. -/
def State.operateRemote (s : State) (w : Who) (a : Ask) (i : Nat) (k : Cap) : Eff State :=
  s.askOperation w a i (some k)

/-- R353: the checks and the packet of AOP and AOPR; `ret` tells where an AOPR result goes. The packet carries the partition
offset of the element to the memory agent of its channel (R262). -/
def operation (s : State) (w : Who) (fn fmt : Nat) (c : CapOp) (a : Reg) (ret : Option LandAt) : Eff State := do
  if 7 ≤ fn then detCheck s w
  let args := s.group a (aopWords fn)
  let a0 := (args.getD 0 0).toNat
  need s (groupOk a (aopWords fn) && (fn != 11 || (1 ≤ a0 && a0 ≤ 64)))
  noSpec s
  let i := c.c.toNat
  match s.c i with
  | none => capFault s i none 0 0 cRights
  | some k => do
    if k.kind != .hbm then raise s cIllopnd 2
    let size := opBytes fn fmt
    let nodeOut := fn = 10 ∧ (a0 % 8 ≠ 0 ∨ k.bytes < a0 + 8)
    match s.checkCap (s.tile s.cur.tile).core.vcache w.kernel.supv (some k) .operation (CapOp.index c s.regs * size) size with
    | .ok va => if nodeOut then capFault s i (some k) va 0 cBounds
    | _ => .ok ()
    let (s, k, off, l) ← s.access w c size .operation
    match l with
    | .phys p => do
      waitWhile s (s.writeBusy p size || s.readBusy p size)
      let poff := w.part.prec.offset p
      let dst : Place := ⟨s.chip, agentTile (p / 2 ^ 31)⟩
      let body : Body := .op fn fmt k off args ret w.kernel.xlat poff s.nextOrd
      (s.postPacket w dst (16 + 8 * aopWords fn) body none).map State.notRetriable
    | .fabric fa => s.operateRemote w (.operate fn fmt k off (some (fa, s.windowBase k + off)) args ret) i k
    | .away off => s.operateRemote w (.operate fn fmt k off none args ret) i k

/-- AOP (R353). -/
def execAop (h : Hint) (n : BitVec 4) (f : BitVec 3) (d : CapOp) (a : Reg) (s : State) :
    Host.Outcome State Fault Refusal :=
  issue s h fun w => operation s w n.toNat f.toNat d a none

/-- AOPR (R353): the result goes to a landing register, for CAS2 to two. -/
def execAopr (h : Hint) (n : BitVec 4) (f : BitVec 3) (d : LandDest) (a : CapOp) (b : Reg) (s : State) :
    Host.Outcome State Fault Refusal :=
  issue s h fun w => do
    if 7 ≤ n.toNat then detCheck s w
    let at' ← landPlace s w d
    need s (n != 9 || at'.reg ≤ 30)
    operation s w n.toNat f.toNat a b (some at')

end Sys2Proof.Machine
end

