-- ==== Sys2Proof/Machine/Net.lean ====
section
/-!
DEFINITION. What arrives over the mesh (R31, R34, R35, R324 to R334, R346, R352 to R356): messages, remote tasks,
increments, landing-register writes, operation packets at the memory agents. The event's turn names the tile and, by
`sub`, the packet's place in the list of packets under way.
-/

namespace Sys2Proof.Machine

/-! ## The packet that arrives -/

/-- Two packets keep their order (R327): one source unit, one destination, one network. What a shared unit sends for one partition
waits for no packet of another (R17). -/
def sameStream (a b : Packet) : Bool :=
  a.src == b.src && a.unit == b.unit && a.dst == b.dst && a.vn == b.vn && a.part == b.part

/-- Two packets travel in one lane to one tile (R325). -/
def sameLane (a b : Packet) : Bool := a.part == b.part && a.vn == b.vn && a.dst == b.dst

/-- The packet that this turn's arrival is about: it is due, no earlier packet of its stream is under way, and no other
packet waits at its destination in its lane. -/
def State.incoming (s : State) : Option Packet :=
  match s.net[s.cur.sub]? with
  | some p =>
    if p.dst = ⟨s.chip, s.cur.tile⟩ ∧ p.due ≤ s.cycle ∧ !((s.net.take s.cur.sub).any fun q => sameStream q p)
        ∧ (p.held ∨ !(s.net.any fun q => q.held && sameLane q p)) then some p
    else none
  | none => none

/-- The packet leaves the mesh. -/
def State.taken (s : State) : State := { s with net := s.net.eraseIdx s.cur.sub }

/-- The packet waits at its destination and holds back its lane (R31, R331). -/
def State.heldBack (s : State) (p : Packet) : State := { s with net := s.net.set s.cur.sub { p with held := true } }

/-- The frame of an arrival: a packet whose body `f` accepts is applied, or waits when `f` answers no state. A packet of
another kind is not this event's. -/
def arrival (s : State) (f : State → Packet → Option (Option State)) : Host.Outcome State Fault Refusal :=
  match s.incoming with
  | none => .next s
  | some p =>
    match f s.taken p with
    | none => .next s
    | some (some s) => .next s
    | some none => .next (s.heldBack p)

/-- The VA field of a record about a packet for a tile (Table 19.11). -/
def targetVa (p : Place) (n : Nat) : Nat := p.chip * 4096 + p.tile + n % 256 * 2 ^ 24

/-! ## Messages and remote tasks -/

/-- A message or a management request that reaches its tile. -/
def State.takeMessage (s : State) (p : Packet) : Option State :=
  match p.body with
  | .msg ch x1 x2 x3 x4 cap => s.message p.dst.tile ch x1 x2 x3 x4 cap p
  | .mgmt _ _ _ _ _ _ _ => some (s.onSupv p.part fun v => { v with requests := v.requests ++ [p] })
  | _ => some s

/-- MESSAGE_ARRIVAL (R34, R35, R95): a message without a capability, or a management request. -/
def execMessageArrival (s : State) : Host.Outcome State Fault Refusal :=
  arrival s fun s p => match p.body with
    | .msg _ _ _ _ _ none | .mgmt _ _ _ _ none _ _ => some (s.takeMessage p)
    | _ => none

/-- CAPABILITY_ARRIVAL (R342, R35, R69, R433). -/
def execCapabilityArrival (s : State) : Host.Outcome State Fault Refusal :=
  arrival s fun s p => match p.body with
    | .msg _ _ _ _ _ (some _) | .mgmt _ _ _ _ (some _) _ _ => some (s.takeMessage p)
    | _ => none

/-- R346: a SPAWNR that is refused is recorded, and contained as a fault of the spawning task at the task level. -/
def State.spawnRefused (s : State) (p : Packet) (rec' sub : Nat) : State :=
  s.contain p.part p.kslot p.src.tile none true
    { FRec.zero with code := cRefused, sub := sub, kslot := p.kslot, src := 1, trec := rec' } .task

/-- R346: a remote task creation at its tile; none while the record pool is empty. -/
def State.takeSpawn (s : State) (p : Packet) (img : RecImage) (words : List Word) (rec' : Nat) : Option State :=
  let t := p.dst.tile
  match (aget? s.parts p.part).bind fun q => (q.kernel p.kslot).bind fun k => (aget? q.images k.image).map fun im => (k, im) with
  | none => some (s.logPacket t cIllopnd 1 (targetVa p.dst 0) p 4 (words.getD 0 0) none)
  | some (k, im) =>
    if (s.tile t).groupKilled p.kslot then some (s.spawnRefused p rec' 2)
    else if recRefused img (s.tile t).loc im k.supv then some (s.spawnRefused p rec' 0)
    else s.createTask p.part p.kslot t img words none none

/-- REMOTE_SPAWN_ARRIVAL (R346). -/
def execRemoteSpawnArrival (s : State) : Host.Outcome State Fault Refusal :=
  arrival s fun s p => match p.body with
    | .spawn img words rec' => some (s.takeSpawn p img words rec')
    | _ => none

/-- POOL_WAIT_RELEASE (R31): an arrival that waits at an empty record pool is applied once a pair is free. -/
def execPoolWaitRelease (s : State) : Host.Outcome State Fault Refusal :=
  arrival s fun s p => match p.held, p.body with
    | true, .msg _ _ _ _ _ _ => some (s.takeMessage p)
    | true, .spawn img words rec' => some (s.takeSpawn p img words rec')
    | _, _ => none

/-! ## Counters and landing registers -/

/-- The space-0xE address of a counter (R332). -/
def counterVa (p : Place) (i : Nat) : Nat := 0xE * 2 ^ 52 + p.tile * 2 ^ 40 + p.chip * 2 ^ 30 + i * 4

/-- R333, R334: an increment at its tile. -/
def State.takeIncrement (s : State) (p : Packet) (i amount : Nat) (own : Bool) : State :=
  let t := p.dst.tile
  if ((s.tile t).loc.ctr i).loc && !own then s.logPacket t cIllopnd 7 (counterVa p.dst i) p 1 (word amount) none
  else s.incCtr t i amount

/-- COUNTER_INCREMENT_ARRIVAL (R333, R334). -/
def execCounterIncrementArrival (s : State) : Host.Outcome State Fault Refusal :=
  arrival s fun s p => match p.body with
    | .inc i amount own => some (some (s.takeIncrement p i amount own))
    | _ => none

/-- A write to a landing register would wait (R331): the presence bit is set, or earlier writes to it wait. -/
def Local.landBusy (l : Local) (y : Nat) : Bool := (aget? l.land y).isSome || l.landHold.any fun h => h.reg == y

/-- R330, R331: one landing-register write; a busy register takes a place in the hold. -/
def State.landWrite (s : State) (t y : Nat) (v : Word) : State :=
  if (s.tile t).loc.landBusy y then s.onLocal t fun l => { l with landHold := l.landHold ++ [⟨y, v⟩] }
  else s.setLand t y (some v)

/-- R331: writes to `y` and the registers after it, one after another, and those left from the first that must wait and finds the hold
full. -/
def State.landWrites (s : State) (t y : Nat) : List Word → State × List Word
  | [] => (s, [])
  | v :: vs =>
    if (s.tile t).loc.landBusy y && 8 ≤ (s.tile t).loc.landHold.length then (s, v :: vs)
    else (s.landWrite t y v).landWrites t (y + 1) vs

/-- A packet whose effect is not complete stays where it was in the list of packets under way, and holds back its lane. -/
def State.putBack (s : State) (p : Packet) : State :=
  { s with net := s.net.take s.cur.sub ++ { p with held := true } :: s.net.drop s.cur.sub }

/-- R330, R331: a packet of landing-register writes: those that cannot be applied yet stay in it, with the body that `rest` gives. -/
def State.landOr (s : State) (p : Packet) (y : Nat) (vals : List Word) (rest : Nat → List Word → Body) : State :=
  match s.landWrites p.dst.tile y vals with
  | (s, []) => s
  | (s, v :: vs) => s.putBack { p with body := rest (y + vals.length - (vs.length + 1)) (v :: vs) }

/-- LANDING_WRITE_ARRIVAL (R330, R331). -/
def execLandingWriteArrival (s : State) : Host.Outcome State Fault Refusal :=
  arrival s fun s p => match p.body with
    | .land y vals => some (some (s.landOr p y vals .land))
    | _ => none

/-- R331: a held write is due: its register is free since an earlier cycle. -/
def Local.landDue (l : Local) (cycle : Nat) (h : HeldLanding) : Bool :=
  (aget? l.land h.reg).isNone && ((aget? l.landFreed h.reg).map fun n => decide (n < cycle)).getD true

/-- R331: the first held write of a tile that is due is applied. -/
def State.applyHeld (s : State) (t : Nat) : State :=
  let l := (s.tile t).loc
  match l.landHold.findIdx? (l.landDue s.cycle) with
  | some i =>
    match l.landHold[i]? with
    | some h => (s.onLocal t fun l => { l with landHold := l.landHold.eraseIdx i }).setLand t h.reg (some h.val)
    | none => s
  | none => s

/-- R331: every held write of the module that is due is applied; a tile holds at most eight. -/
def State.applyAllHeld (s : State) : State :=
  s.tiles.foldl (fun s v => (upto v.2.loc.landHold.length).foldl (fun s _ => s.applyHeld v.1) s) s

/-- LANDING_HOLD_APPLY (R331): the first held write whose register an MRD freed in an earlier cycle is applied. -/
def execLandingHoldApply (s : State) : Host.Outcome State Fault Refusal := .next (s.applyHeld s.cur.tile)

/-! ## Memory agents (R352 to R356) -/

/-- NIL (R355). -/
def nil64 : Nat := 2 ^ 64 - 1
/-- What AOPR returns where ENQ applied nothing (R355). -/
def enqFailed : Word := word (2 ^ 63)

/-- The formats of ADD.EXACT (Table 15.7). -/
def exactTy (fmt : Nat) : Ty :=
  match fmt with
  | 0 => .f32 | 1 => .bf16 | 2 => .f16 | 3 => .e4m3 | 4 => .e5m2 | 5 => .i32 | _ => .u32

/-- MAX and MIN (Table 15.7). -/
def agentMax (max : Bool) (fmt m a : Nat) : Nat :=
  match fmt with
  | 0 => if (signExtend m 64 < signExtend a 64) == max then a else m
  | 1 => if (decide (m < a)) == max then a else m
  | 2 => (minMax .f32 max m (a % 2 ^ 32)).bits
  | _ => (minMax .f64 max m a).bits

/-- The new value of an 8-byte or 4-byte element under functions 1 to 8 (Table 15.7). -/
def agentFn (fn fmt m a0 a1 : Nat) : Nat :=
  match fn with
  | 1 => (m + a0) % 2 ^ 64
  | 2 => agentMax true fmt m a0
  | 3 => agentMax false fmt m a0
  | 4 => m &&& a0
  | 5 => m ||| a0
  | 6 => m ^^^ a0
  | 7 => a0
  | _ => if m = a0 then a1 else m

/-- R402: the partition, its number and the partition offset to which the fabric MMUs map an offset of a source; the partition of
the lowest number whose entry matches. -/
def State.fmmuAt (s : State) (chip part off : Nat) : Option (Nat × Part × Nat) :=
  s.parts.findSome? fun q =>
    if q.2.state = .evicted then none
    else
      (q.2.fmmu.find? fun e => e.2.schip == chip && e.2.spart == part && e.2.foff ≤ off && off < e.2.foff + 2 ^ e.2.log2).map
        fun e => (q.1, q.2, e.2.poff + (off - e.2.foff))

/-- How an agent finds the element of an operation: in a buffer of a partition of the chip, the element's window offset at a
partition offset that was translated at issue (R262), other offsets under a translation context; or through the fabric
MMUs (R402), from the element's fabric address, window offset and virtual address. -/
inductive AgentView where
  | window (part : Nat) (xl : Xlat) (off poff : Nat)
  | fabric (part fa off va : Nat)
deriving DecidableEq, Repr

/-- The partition that owns the element. -/
def AgentView.part (v : AgentView) : Nat := match v with | .window p _ _ _ => p | .fabric p _ _ _ => p

/-- The virtual address of a byte offset of the window. -/
def AgentView.va (v : AgentView) (s : State) (cap : Cap) (off : Nat) : Nat :=
  match v with
  | .window _ _ _ _ => s.windowBase cap + off
  | .fabric _ _ o va => va + off - o

/-- Where a byte offset of a capability's window lies; none when the translation fails. The agent walks the tables: it has no
TLB entry of the partition (R17), and raises no page request (R355). -/
def State.agentAt (s : State) (p : Packet) (v : AgentView) (cap : Cap) (off : Nat) (wr : Bool) : Option Nat :=
  match v with
  | .window part xl o poff =>
    (aget? s.parts part).bind fun q =>
      let out := if off = o then some poff
        else match (s.walkFor part q xl (s.windowBase cap + off) wr false).1 with
          | .ok out => some out
          | _ => none
      out.bind fun a => if q.prec.covers a 1 then some (q.prec.phys a) else none
  | .fabric _ fa o _ => (s.fmmuAt p.src.chip p.part ((fa + off - o) % 2 ^ 42)).map fun m => m.2.1.prec.phys m.2.2

/-- A write of an agent. -/
def State.agentWrite (s : State) (p : Packet) (v : AgentView) (cap : Cap) (a : Nat) (bs : List Byte) : State :=
  match v with
  | .window _ _ _ _ => s.perform p.src.tile cap a bs
  | .fabric _ _ _ _ => (s.putBytes a bs).eccWrite a bs.length

/-- The record of an operation packet that its agent applied in part or not at all (R482). -/
def State.logOp (s : State) (p : Packet) (v : AgentView) (cap : Cap) (off code sub : Nat) (a0 : Word) : State :=
  let here := p.src.chip = s.chip
  s.logFault v.part
    { FRec.zero with
      code := code, sub := sub, src := 5, va := v.va s cap off, ord := ordSource p.src p.part 3, iword := a0.toNat,
      kslot := if here then p.kslot else 0, cap := some cap }
    (if here then s.vfOf p.part p.kslot else none)

/-- An ENQ at the agent of its list header (R355): the state, the result, and the code and subcode with which it
failed. -/
def State.enqueueNode (s : State) (p : Packet) (v : AgentView) (cap : Cap) (hdr node : Nat) : State × Word × Option (Nat × Nat) :=
  let m := leNat (s.bytes hdr 16)
  let tail := field m 64 64
  let na := s.agentAt p v cap node true
  if tail ≠ nil64 ∧ (tail % 8 ≠ 0 ∨ cap.bytes < tail + 8) then (s, enqFailed, some (cBounds, 0))
  else
    let ta := if tail = nil64 then some hdr else s.agentAt p v cap tail true
    match na, ta with
    | some na, some ta =>
      let s := s.agentWrite p v cap na (leBytes 8 nil64)
      let s := if tail = nil64 then s.agentWrite p v cap hdr (leBytes 8 node) else s.agentWrite p v cap ta (leBytes 8 node)
      (s.agentWrite p v cap (hdr + 8) (leBytes 8 node), word tail, none)
    | _, _ => (s, enqFailed, some (cXlate, 0))

/-- CHASE (R355): at most `n` steps from offset `off`. A word that cannot be read cannot be followed either (R455). -/
def State.chase (s : State) (p : Packet) (v : AgentView) (cap : Cap) : Nat → Nat → State × Word × Option (Nat × Nat)
  | 0, off => (s, word off, none)
  | n + 1, off =>
    match s.agentAt p v cap off false with
    | none => (s, word off, some (cXlate, 0))
    | some a =>
      match s.eccRead (s.accessorOf p) a 8 with
      | (s, some sub) => (s, word off, some (cUncorr, sub))
      | (s, none) =>
        let x := leNat (s.bytes a 8)
        if n = 0 ∨ x = nil64 ∨ x % 8 ≠ 0 ∨ cap.bytes < x + 8 then (s, word x, none) else s.chase p v cap n x

/-- An operation applied to its element at physical address `a` (R354, R355): the state and the result words. -/
def State.applyOp (s : State) (p : Packet) (v : AgentView) (fn fmt : Nat) (cap : Cap) (off : Nat) (args : List Word) (a : Nat) :
    State × List Word :=
  let arg := fun i => (args.getD i 0).toNat
  let m := leNat (s.bytes a (opBytes fn fmt))
  let logged (r : State × Word × Option (Nat × Nat)) : State × List Word :=
    match r with
    | (s, x, some (code, sub)) => (s.logOp p v cap off code sub (args.getD 0 0), [x])
    | (s, x, none) => (s, [x])
  match fn with
  | 0 =>
    match Xa.ofImage m with
    | some x =>
      (s.agentWrite p v cap a (leBytes 64 (x.add (decodeNum (exactTy fmt) (arg 0))).image), [word (x.read .f64 false).bits])
    | none => (s.logOp p v cap off cIllopnd 0 (args.getD 0 0), [word (canonNaN .f64)])
  | 9 =>
    let s :=
      if field m 0 64 = arg 0 ∧ field m 64 64 = arg 1 then s.agentWrite p v cap a (leBytes 16 (arg 2 + arg 3 * 2 ^ 64)) else s
    (s, [word (field m 0 64), word (field m 64 64)])
  | 10 => logged (s.enqueueNode p v cap a (arg 0))
  | 11 => logged (s.chase p v cap (arg 0) off)
  | _ =>
    let n := opBytes fn fmt
    (s.agentWrite p v cap a (leBytes n (agentFn fn fmt m (arg 0) (arg 1))), [word m])

/-- A result sent to its landing register (R356), charged to the partition that owns the element (R408). One for another chip leaves in
the windows that its request allows (R406). -/
def State.sendResult (s : State) (p : Packet) (v : AgentView) (ret : Option LandAt) (vals : List Word) : State :=
  match ret with
  | some r =>
    let src : Place := ⟨s.chip, s.cur.tile⟩
    let len := 16 + 8 * vals.length
    s.sendPkt ⟨1, v.part, src, .agent s.cur.tile, r.place, p.kslot, s.dueAt src r.place len, len, .aoprResult r.reg vals, none, false,
      if r.place.chip = s.chip then none else p.last⟩
  | none => s

/-- R352, R447, R455: an operation packet at its agent. An element that cannot be read applies nothing and is logged; the result
of AOPR is then a free value (log 1). -/
def State.agentStep (s : State) (p : Packet) (v : AgentView) (fn fmt : Nat) (cap : Cap) (off : Nat) (args : List Word)
    (ret : Option LandAt) : State :=
  let size := opBytes fn fmt
  match s.agentAt p v cap off true with
  | none =>
    (s.logOp p v cap off cXlate 0 (args.getD 0 0)).sendResult p v ret (if fn = 10 then [enqFailed] else [word off])
  | some a =>
    match s.eccRead (s.accessorOf p) a size with
    | (s, some sub) =>
      let s := (s.logOp p v cap off cUncorr sub (args.getD 0 0)).draw 2
      s.sendResult p v ret
        (if fn = 9 then [Config.freeWord (s.free - 2), Config.freeWord (s.free - 1)] else [Config.freeWord (s.free - 2)])
    | (s, none) =>
      let r := s.applyOp p v fn fmt cap off args a
      r.1.sendResult p v ret r.2

/-- MEMORY_AGENT_OPERATION (R352). -/
def execMemoryAgentOperation (s : State) : Host.Outcome State Fault Refusal :=
  arrival s fun s p => match p.body with
    | .op fn fmt cap off args ret xl poff _ =>
      some (some (s.agentStep p (.window p.part xl off poff) fn fmt cap off args ret))
    | _ => none

end Sys2Proof.Machine
end

