-- ==== Sys2Proof/Machine/Steward.lean ====
section
/-!
DEFINITION. The steward (R302 to R313, R320 to R322): its address map, program loads, kicks, k registers, the frame of
its instructions, and the Xgnmv instructions.
-/

namespace Sys2Proof.Machine

/-! ## Registers and memory -/

/-- The steward of the tile whose turn it is. -/
def State.stw (s : State) : Steward := (s.tile s.cur.tile).stw
/-- The steward of the tile whose turn it is, changed. -/
def State.onStw (s : State) (f : Steward → Steward) : State := s.onSteward s.cur.tile f

/-- An x register of the hart; x0 reads zero. -/
def Steward.readX (w : Steward) (i : Reg) : Word := if i = 0 then 0 else aget w.x 0 i.toNat
/-- An x register of the hart written; writes to x0 are discarded. -/
def Steward.writeX (w : Steward) (i : Reg) (v : Word) : Steward := if i = 0 then w else { w with x := aset w.x i.toNat v }

/-- Scratch bytes (Table 14.1). -/
def scratchBytes : Nat := 0x8000
/-- The kick window's place and size (Table 14.1). -/
def kickWindow : Nat := 0x10000
/-- A run of bytes in scratch. -/
def inScratch (a n : Nat) : Bool := a + n ≤ scratchBytes
/-- A run of bytes in the kick window. -/
def inKicks (a n : Nat) : Bool := kickWindow ≤ a && a + n ≤ kickWindow + 4096

/-- One byte of scratch. -/
def Steward.byte (w : Steward) (a : Nat) : Byte := aget w.scratch 0 a
/-- A little-endian value in scratch. -/
def Steward.scratchNat (w : Steward) (a n : Nat) : Nat := leNat ((upto n).map fun i => w.byte (a + i))
/-- One byte of scratch written; zero bytes are not listed. -/
def putScratch (m : List Host.Cell) (a : Nat) (b : Byte) : List Host.Cell := if b = 0 then aerase m a else aset m a b
/-- Bytes of scratch written. -/
def Steward.putBytes (w : Steward) (a : Nat) (bs : List Byte) : Steward :=
  { w with scratch := bs.zipIdx.foldl (fun m b => putScratch m (a + b.2) b.1) w.scratch }

/-- The 512 bits of a kick entry (Table 14.3). -/
def kickNat (k : Kick) : Nat :=
  k.kind + boolNat k.cap.isSome * 2 ^ 8 + k.ctx * 2 ^ 32 + k.kslot * 2 ^ 35 + k.pslot * 2 ^ 40 + k.seq * 2 ^ 64
    + (k.args.getD 0 0).toNat * 2 ^ 256 + (k.args.getD 1 0).toNat * 2 ^ 320 + (k.args.getD 2 0).toNat * 2 ^ 384
    + (k.args.getD 3 0).toNat * 2 ^ 448

/-- The bits that a kick entry has a field for (Table 14.3): its RES bits read 0 (R4), and KIND is 0 or 1. -/
def kickFields : Nat :=
  1 + 2 ^ 8 + (2 ^ 16 - 1) * 2 ^ 32 + (2 ^ 32 - 1) * 2 ^ 64 + (2 ^ 256 - 1) * 2 ^ 256

/-- A byte of the kick window where the entry is free or held: the fields are free values (R307). -/
def hiddenKickByte (free a : Nat) : Byte := Config.freeKickByte free a &&& BitVec.ofNat 8 (kickFields / 2 ^ (8 * (a % 64)))

/-- One byte of the kick window (R307). -/
def State.kickByte (s : State) (a : Nat) : Byte :=
  match aget? (s.tile s.cur.tile).loc.kicks ((a - kickWindow) / 64) with
  | some k => if k.state = .held then hiddenKickByte s.free a else BitVec.ofNat 8 (kickNat k / 2 ^ (8 * (a % 64)))
  | none => hiddenKickByte s.free a

/-! ## Programs (R305) -/

/-- The kernel with a steward section that runs on a tile. -/
def Part.sectionOn (p : Part) (t : Nat) : Option (Nat × Image) :=
  p.qslots.findSome? fun q =>
    q.2.kernel.bind fun k =>
      if k.tiles.contains t && k.retire == .no then
        (aget? p.images k.image).bind fun im => if 0 < im.stwLen then some (q.1, im) else none
      else none

/-- The bytes of a program at offset 0 of scratch. -/
def programScratch (bs : List Byte) : List Host.Cell :=
  (bs.zipIdx.filter fun b => b.1 != 0).map fun b => (b.2, b.1)

/-- R309: the k registers of a tile are emptied; what they hold goes to its kernels' reclaim path with a reason. -/
def State.emptyK (s : State) (t reason : Nat) : State :=
  let ks := (s.tile t).stw.k
  let s := s.onSteward t fun w => { w with k := [] }
  match s.partOfTile t with
  | some p => ks.foldl (fun s k => s.letPath p.1 k.2.2 t k.2.1 reason) s
  | none => s

/-- R305, R309: a program is loaded on a tile: scratch, the x registers, pc and the CSRs are set, the k registers are empty.
Operations in flight stand. No strike rolls the steward back behind the load (log 94). What k registers still hold takes the reclaim path with reason OK: the spec has them empty
and does not say how, and this is the model's choice (log 83). -/
def State.loadProgram (s : State) (t : Nat) (prog : Prog) (bs : List Byte) : State :=
  (s.emptyK t cOk).onTile t fun v =>
    { v with
      stw := { v.stw with
        x := [], pc := 0, scratch := programScratch bs, csr := { Csrs.reset with loadedAt := s.cycle }, sleep := none,
        fault := none, prog := prog }
      stwHistory := [] }

/-- The bytes of an image's steward section. -/
def State.sectionBytes (s : State) (p : Part) (im : Image) : List Byte := s.poffBytes p.prec (im.base + im.stwOff) im.stwLen

/-- R305: the program that a tile's steward is to run: the section of a kernel that runs there, the partition's resident
program, the built-in one. -/
def State.loadSteward (s : State) (t : Nat) : State :=
  match s.partOfTile t with
  | none => s.loadProgram t .builtin []
  | some p =>
    match p.2.sectionOn t with
    | some (k, im) => s.loadProgram t (.kernel k) (s.sectionBytes p.2 im)
    | none =>
      match p.2.supv.resident.bind fun i => (aget? p.2.images i).map fun im => (i, im) with
      | some (i, im) => s.loadProgram t (.resident i) (s.sectionBytes p.2 im)
      | none => s.loadProgram t .builtin []

/-! ## The frame of a steward instruction -/

/-- Why a steward instruction does not complete. -/
inductive StwStop where
  | fault (code sub : Nat)
  /-- an exception, with its mcause and mtval -/
  | exception (cause : Nat) (val : Word)
  | stall
  | wait (s : State)
deriving DecidableEq, Repr

/-- The effect of a steward instruction. -/
abbrev StwEff := Except StwStop State

/-- An operand error of R310. -/
def operandError {α : Type} : Except StwStop α := .error (.fault cIllopnd 4)
/-- An operand error unless the condition holds. -/
def stwNeed (b : Bool) : Except StwStop Unit := if b then .ok () else operandError

/-- Table 14.2: the cause and subcode of an exception. -/
def stwCause (mcause : Nat) : Nat × Nat :=
  if mcause = 2 then (cIllegal, 2) else if mcause = 11 then (cTrapsw, 0) else if mcause = 3 then (cBrkpt, 0)
  else (cIllopnd, 3)

/-- The steward of the turn's tile is stopped (R438). -/
def State.stwStopped (s : State) : Bool := (s.tile s.cur.tile).stopped s.cycle
/-- The hart runs software: it is not asleep or faulted, and a program is in scratch. -/
def Steward.runs (w : Steward) : Bool := w.sleep.isNone && w.fault.isNone && w.prog != .builtin

/-- R311: an instruction that names the rd of an operation in flight waits. -/
def Steward.pendingRd (w : Steward) (regs : List Reg) : Bool :=
  w.ops.any fun o => o.rd != 0 && regs.any fun r => r.toNat == o.rd

/-- The instruction word at pc, for a fault record. -/
def Steward.wordAt (w : Steward) (len : Nat) : Nat := w.scratchNat w.pc.toNat len

/-- The fault path of R306 is entered: the hart stops until STEWARD_FAULT handles it. -/
def Steward.enterFault (w : Steward) (code sub len : Nat) : Steward :=
  { w with fault := some ⟨code, sub, w.pc.toNat, w.wordAt len⟩ }

/-- An exception: mepc, mcause and mtval are written, and the fault path is entered (R304, R306). -/
def Steward.enterException (w : Steward) (cause : Nat) (val : Word) (len : Nat) : Steward :=
  let c := stwCause cause
  { w.enterFault c.1 c.2 len with csr := { w.csr with mepc := w.pc, mcause := word cause, mtval := val } }

/-- The steward kept in the strike horizon's history (R450). -/
def State.stwRemember (s : State) : State :=
  if s.shz s.cur.tile then s.onTile s.cur.tile fun v => { v with stwHistory := (s.cycle, v.stw) :: v.stwHistory } else s

/-- The instruction is counted in minstret. -/
def Steward.retire (w : Steward) : Steward := { w with csr := { w.csr with minstret := w.csr.minstret + 1 } }

/-- The frame of a steward instruction that sets pc itself. `regs` are the registers it reads and writes. -/
def stewardJump (s : State) (len : Nat) (regs : List Reg) (body : State → StwEff) : Host.Outcome State Fault Refusal :=
  let w := s.stw
  if s.stwStopped || !w.runs || w.pendingRd regs then .next s
  else
    let s := s.stwRemember
    match body s with
    | .ok s => .next (s.onStw Steward.retire)
    | .error .stall => .next s
    | .error (.wait s) => .next s
    | .error (.fault code sub) => .next (s.onStw fun w => w.enterFault code sub len)
    | .error (.exception cause val) => .next (s.onStw fun w => w.enterException cause val len)

/-- pc advanced past the instruction. -/
def State.stwAdvance (s : State) (len : Nat) : State := s.onStw fun w => { w with pc := w.pc + word len }

/-- The frame of a steward instruction: its effect, then pc advances. -/
def stewardIssue (s : State) (len : Nat) (regs : List Reg) (body : State → StwEff) : Host.Outcome State Fault Refusal :=
  stewardJump s len regs fun s => (body s).map fun s => s.stwAdvance len

/-! ## Kicks (R307, R308) -/

/-- The queued entry with the smallest SEQ. -/
def Local.nextKick (l : Local) : Option (Nat × Kick) :=
  (l.kicks.filter fun k => k.2.state == .queued).foldl (fun m k => match m with
    | none => some k
    | some b => if k.2.seq < b.2.seq then some k else m) none

/-- A change of a kick entry, kept in the horizon's history (log 11). -/
def State.rememberKick (s : State) (t e : Nat) (k : Kick) : State :=
  if s.shz t then s.onCore t fun v => { v with undo := (8, .kick s.cycle e k) :: v.undo } else s

/-- R308: an entry claimed. -/
def State.claimKick (s : State) (e : Nat) (k : Kick) : State :=
  (s.rememberKick s.cur.tile e k).onLocal s.cur.tile fun l => { l with kicks := aset l.kicks e { k with state := .claimed } }

/-- R308: an entry released; a capability still in it goes to the kernel's reclaim path as `send` has it. -/
def State.releaseKick (s : State) (t e : Nat) (send : State → Nat → Nat → Nat → Cap → State) : State :=
  match aget? (s.tile t).loc.kicks e with
  | none => s
  | some k =>
    let s := (s.rememberKick t e k).onLocal t fun l => { l with kicks := aerase l.kicks e }
    match k.cap, s.partOfTile t with
    | some c, some p => send s p.1 k.kslot t c
    | _, _ => s

/-- A claimed entry of the tile. -/
def claimed (s : State) (h : Word) : Option (Nat × Kick) :=
  match aget? (s.tile s.cur.tile).loc.kicks h.toNat with
  | some k => if h.toNat < 64 ∧ k.state = .claimed then some (h.toNat, k) else none
  | none => none

/-- R312: the oldest queued entry claimed, its handle written to `rd`; none when no entry is queued. -/
def State.wake (s : State) (rd : Reg) : Option State :=
  (s.tile s.cur.tile).loc.nextKick.map fun e =>
    (s.claimKick e.1 e.2).onStw fun w => { w.writeX rd (word e.1) with sleep := none }

/-- mv.next (R312). Without a queued entry the hart sleeps. -/
def execMvNext (rd rs1 rs2 : Reg) (s : State) : Host.Outcome State Fault Refusal :=
  stewardIssue s 4 [rd, rs1] fun s => do
    let _ := rs2
    let v := s.stw.readX rs1
    let s ← (if v = 64 then .ok s
      else match claimed s v with
        | some (e, _) => .ok (s.releaseKick s.cur.tile e fun s p k t c => s.sendPath p k t c cOk)
        | none => operandError : StwEff)
    match s.wake rd with
    | some s => .ok s
    | none => .error (.wait (s.onStw fun w => { w with sleep := some rd.toNat }))

/-- STEWARD_WAKE (R312): the sleeping mv.next claims the entry that has become queued. -/
def execStewardWake (s : State) : Host.Outcome State Fault Refusal :=
  match s.stw.sleep with
  | some rd =>
    if s.stwStopped then .next s
    else match s.stwRemember.wake (BitVec.ofNat 5 rd) with
      | some s => .next ((s.stwAdvance 4).onStw Steward.retire)
      | none => .next s
  | none => .next s

/-- A k index. -/
def kIndex (v : Word) : Except StwStop Nat := if v.toNat < 8 then .ok v.toNat else operandError

/-- mv.take (R313). -/
def execMvTake (rd rs1 rs2 : Reg) (s : State) : Host.Outcome State Fault Refusal :=
  stewardIssue s 4 [rd, rs1, rs2] fun s => do
    let k ← kIndex (s.stw.readX rs2)
    match claimed s (s.stw.readX rs1) with
    | none => operandError
    | some (e, v) => do
      stwNeed (aget? s.stw.k k).isNone
      match v.cap with
      | none => .ok (s.onStw fun w => w.writeX rd 0)
      | some c =>
        let s := (s.rememberKick s.cur.tile e v).onLocal s.cur.tile fun l =>
          { l with kicks := aset l.kicks e { v with cap := none } }
        .ok (s.onStw fun w => { w.writeX rd (word c.bytes) with k := aset w.k k (c, v.kslot) })

/-! ## Engine operations (R311, R314 to R320) -/

/-- A capability with the kernel that it came from, as an operation holds it. -/
def State.kcap (s : State) (t : Nat) (c : Cap × Nat) : KCap :=
  match (s.partOfTile t).bind fun p => p.2.kernel c.2 with
  | some k => ⟨c.1, c.2, k.xlat, k.supv⟩
  | none => ⟨c.1, c.2, .none' 0, false⟩

/-- The capability of a k register. -/
def State.kReg (s : State) (i : Nat) : Option KCap := (aget? s.stw.k i).map fun c => s.kcap s.cur.tile c

/-- The status word (R311). -/
def statusWord (code sub done : Nat) : Word := word (code + sub * 2 ^ 8 + done * 2 ^ 16)

/-- Engine operations in flight; an increment of mv.mbx is none (R311). -/
def Steward.inFlight (w : Steward) : Nat :=
  (w.ops.filter fun o => match o.kind with | .mbx _ _ _ => false | _ => true).length

/-- An operation started: a ninth stalls the hart. -/
def startOp (s : State) (kind : EngKind) (rd : Reg) (kslot : Nat) (kregs : List Nat) (len : Nat) : StwEff :=
  let w := s.stw
  if 8 ≤ w.inFlight then .error .stall
  else
    let o : EngOp :=
      { id := w.nextOp, kind := kind, rd := rd.toNat, kslot := kslot, kregs := kregs, len := len, done := 0, stop := none,
        waitTag := none, flights := [], page := none, rejected := false
        notBefore := if s.shz s.cur.tile then s.cycle + Config.horizon else 0 }
    .ok (s.onStw fun w => { w with ops := w.ops ++ [o], nextOp := w.nextOp + 1 })

/-- The kernel of a capability, or queue slot 0 for none. -/
def kslotOf (c : Option KCap) : Nat := (c.map (·.kslot)).getD 0

/-- Two byte ranges of capability windows lie in one buffer and meet. -/
def rangesMeet (a : Cap) (ao an : Nat) (b : Cap) (bo bn : Nat) : Bool :=
  a.chip == b.chip && a.kind == b.kind && a.agent == b.agent && a.ctidx == b.ctidx
  && a.woff * a.kind.granule + ao < b.woff * b.kind.granule + bo + bn
  && b.woff * b.kind.granule + bo < a.woff * a.kind.granule + ao + an

/-- Two ranges of captured capabilities meet. -/
def kcapsMeet (a : Option KCap) (ao an : Nat) (b : Option KCap) (bo bn : Nat) : Bool :=
  match a, b with
  | some x, some y => rangesMeet x.cap ao an y.cap bo bn
  | _, _ => false

/-- The descriptor of mv.copy and mv.fill (Table 14.5): 8-byte aligned in scratch, its RES bits zero
(log 15). -/
def descriptor (s : State) (a : Word) : Except StwStop Nat := do
  stwNeed (a.toNat % 8 == 0 && inScratch a.toNat 32)
  let d := s.stw.scratchNat a.toNat 32
  stwNeed (field d 192 64 ≤ 2 ^ 40 && field d 22 42 == 0 && field d 9 7 == 0 && !bit d 7 && !bit d 3)
  .ok d

/-- The COPY of a claimed entry, as mv.copy with DLV 1 starts it (R316): the destination, channel, payload and slot. -/
def deliveryOf (src : Option KCap) (soff : Nat) (v : Kick) : EngKind :=
  let a0 := v.args.getD 0 0
  .deliver src soff v.pslot ⟨field a0.toNat 12 10, field a0.toNat 0 12⟩ (field a0.toNat 24 4) (v.args.getD 1 0) none false

/-- mv.copy (R314, R316). -/
def execMvCopy (rd rs1 rs2 : Reg) (s : State) : Host.Outcome State Fault Refusal :=
  stewardIssue s 4 [rd, rs1] fun s => do
    let _ := rs2
    let d ← descriptor s (s.stw.readX rs1)
    let sk := field d 0 3
    let dk := field d 4 3
    let len := field d 192 64
    let src := s.kReg sk
    if bit d 8 then
      stwNeed (dk == 0 && field d 128 64 == 0 && len == ((src.map fun c => c.cap.bytes).getD 0))
      match claimed s (word (field d 16 6)) with
      | none => operandError
      | some (_, v) => do
        stwNeed (v.kind == 1)
        let s ← startOp s (deliveryOf src (field d 64 64) v) rd (kslotOf src) [sk] len
        .ok (s.onStw fun w => { w with k := aerase w.k sk })
    else
      let soff := field d 64 64
      let doff := field d 128 64
      let dst := s.kReg dk
      stwNeed (!kcapsMeet src soff len dst doff len)
      startOp s (.copy src dst soff doff) rd (kslotOf src) [sk, dk] len

/-- mv.fill (R317). -/
def execMvFill (rd rs1 rs2 : Reg) (s : State) : Host.Outcome State Fault Refusal :=
  stewardIssue s 4 [rd, rs1, rs2] fun s => do
    let d ← descriptor s (s.stw.readX rs1)
    stwNeed (field d 0 3 == 0 && !bit d 8)
    let dk := field d 4 3
    let dst := s.kReg dk
    startOp s (.fill dst (field d 128 64) (s.stw.readX rs2)) rd (kslotOf dst) [dk] (field d 192 64)

/-- A destination of the steward on the executing chip lies in its partition (R329). -/
def stwDest (s : State) (p : Place) : Except StwStop Unit :=
  stwNeed (p.chip != s.chip || (((s.partOfTile s.cur.tile).map fun q => q.2.holds p.tile).getD false))

/-- mv.xfer (R318). -/
def execMvXfer (rd rs1 rs2 : Reg) (s : State) : Host.Outcome State Fault Refusal :=
  stewardIssue s 4 [rd, rs1, rs2] fun s => do
    let k ← kIndex (s.stw.readX rs1)
    let d := (s.stw.readX rs2).toNat
    let dst : Place := ⟨field d 12 10, field d 0 12⟩
    stwNeed (field d 28 4 == 0 && field d 22 2 == 0)
    stwDest s dst
    let c := s.kReg k
    let s ← startOp s (.xfer c dst (field d 24 4) (word (field d 32 32)) 0 0 false) rd (kslotOf c) [k] 0
    .ok (s.onStw fun w => { w with k := aerase w.k k })

/-- mv.give (R319). -/
def execMvGive (rd rs1 rs2 : Reg) (s : State) : Host.Outcome State Fault Refusal :=
  stewardIssue s 4 [rd, rs1, rs2] fun s => do
    let k ← kIndex (s.stw.readX rs1)
    let d := (s.stw.readX rs2).toNat
    stwNeed (field d 9 23 == 0 && (!bit d 8 || field d 4 4 == 0))
    let c := s.kReg k
    let kind : EngKind :=
      if bit d 8 then .xfer c ⟨s.chip, s.cur.tile⟩ (field d 0 4) (word (field d 32 32)) 0 0 false else .give c (field d 0 8)
    let s ← startOp s kind rd (kslotOf c) [k] 0
    .ok (s.onStw fun w => { w with k := aerase w.k k })

/-- The counter that a space-0xE address names (Table 12.1). -/
def counterAddress (a : Nat) : Option (Place × Nat) :=
  if a / 2 ^ 52 = 0xE ∧ field a 10 20 = 0 ∧ field a 0 2 = 0 then some (⟨field a 30 10, field a 40 12⟩, field a 2 8) else none

/-- mv.mbx (R320). -/
def execMvMbx (rd rs1 rs2 : Reg) (s : State) : Host.Outcome State Fault Refusal :=
  stewardIssue s 4 [rs1, rs2] fun s => do
    let _ := rd
    match counterAddress (s.stw.readX rs1).toNat with
    | none => operandError
    | some (dst, c) => do
      stwDest s dst
      let w := s.stw
      let o : EngOp :=
        { id := w.nextOp, kind := .mbx dst c ((s.stw.readX rs2).toNat % 2 ^ 32), rd := 0, kslot := 0, kregs := [], len := 0,
          done := 0, stop := none, waitTag := none, flights := [], page := none, rejected := false
          notBefore := if s.shz s.cur.tile then s.cycle + Config.horizon else 0 }
      .ok (s.onStw fun w => { w with ops := w.ops ++ [o], nextOp := w.nextOp + 1 })

/-- The steward runs a section of a kernel whose header sets DET (R321). -/
def State.stwDet (s : State) : Bool :=
  match s.stw.prog, s.partOfTile s.cur.tile with
  | .kernel k, some p => (((p.2.kernel k).bind fun q => aget? p.2.images q.image).map (·.det)).getD false
  | _, _ => false

/-- mv.stat (R321). -/
def execMvStat (rd rs1 rs2 : Reg) (s : State) : Host.Outcome State Fault Refusal :=
  stewardIssue s 4 [rd, rs1] fun s => do
    let _ := rs2
    let sel := (s.stw.readX rs1).toNat
    stwNeed (sel ≤ 2)
    if s.stwDet && sel ≤ 1 then .error (.fault cDetviol 0)
    else
      let queued := ((s.tile s.cur.tile).loc.kicks.filter fun k => k.2.state == .queued).length
      let kern := match s.stw.prog with | .kernel k => k * 2 ^ 24 + 2 ^ 29 | _ => 0
      let v := if sel = 0 then queued else if sel = 1 then s.stw.inFlight
        else s.cur.tile + s.chip * 2 ^ 12 + kern
      .ok (s.onStw fun w => w.writeX rd (word v))

/-! ## The built-in movement program (R305) -/

/-- One turn of the built-in program: it claims the oldest queued entry, delivers the COPY of a KIND 1 entry or returns
the capability of a KIND 0 entry, and releases the entry. The strike horizon keeps its history as of any program (R450). -/
def State.builtinTurn (s : State) : State :=
  match s.stw.prog, s.stwStopped, (s.tile s.cur.tile).loc.nextKick, s.partOfTile s.cur.tile with
  | .builtin, false, some (e, k), some p =>
    let t := s.cur.tile
    let free (s : State) : State := (s.rememberKick t e k).onLocal t fun l => { l with kicks := aerase l.kicks e }
    match k.cap with
    | none => free s
    | some c =>
      if k.kind = 0 then (free s).sendPath p.1 k.kslot t c cOk
      else
        match startOp s.stwRemember (deliveryOf (some (s.kcap t (c, k.kslot))) 0 k) 0 k.kslot [] c.bytes with
        | .ok s => free s
        | .error _ => s
  | _, _, _, _ => s

end Sys2Proof.Machine
end

