-- ==== Sys2Proof/Machine/Moves.lean ====
section
/-!
DEFINITION. The move engine (R315 to R322): bursts, the end of an operation, the steward's faults (R306), and the
receiving side of COPY deliveries and of collective records that go to a ring (R63, R413, R483). The event's turn names
the tile and, by `sub`, the operation, the packet or the ring.
-/

namespace Sys2Proof.Machine

/-! ## Operations -/

/-- The operation that this turn is about. -/
def State.engOp (s : State) : Option EngOp := s.stw.ops.find? fun o => o.id == s.cur.sub
/-- An operation replaced. -/
def State.setOp (s : State) (o : EngOp) : State :=
  s.onStw fun w => { w with ops := w.ops.map fun x => if x.id = o.id then o else x }
/-- An operation of a tile changed. -/
def State.onOp (s : State) (t id : Nat) (f : EngOp → EngOp) : State :=
  s.onSteward t fun w => { w with ops := w.ops.map fun x => if x.id = id then f x else x }
/-- An operation that has ended leaves the engine; its status goes to rd (R311), in the horizon's history too: its effect
stands (R451). -/
def State.finishOp (s : State) (o : EngOp) (code sub done : Nat) : State :=
  let ends (w : Steward) : Steward :=
    { w.writeX (BitVec.ofNat 5 o.rd) (statusWord code sub done) with ops := w.ops.filter fun x => x.id != o.id }
  s.onTile s.cur.tile fun v => { v with stw := ends v.stw, stwHistory := v.stwHistory.map fun h => (h.1, ends h.2) }

/-- The first byte that no burst of an operation has taken up. -/
def EngOp.sent (o : EngOp) : Nat := o.done + (o.flights.map Flight.len).sum

/-- The bytes of the next burst: to the next 64-byte boundary of the destination, then 64, then what remains (R315). -/
def EngOp.burstLen (o : EngOp) : Nat :=
  let d := o.sent + match o.kind with
    | .copy _ _ _ doff => doff
    | .fill _ doff _ => doff
    | _ => 0
  min (64 - d % 64) (o.len - o.sent)

/-- `n` bytes that an operation reads, from byte `i` of it on. -/
def EngOp.readSpan (o : EngOp) (i n : Nat) : Option KCap × Nat × Nat :=
  match o.kind with
  | .copy src _ soff _ => (src, soff + i, n)
  | .deliver src soff _ _ _ _ _ _ => (src, soff + i, n)
  | _ => (none, 0, 0)
/-- `n` bytes that an operation writes under a k register, from byte `i` of it on. -/
def EngOp.writeSpan (o : EngOp) (i n : Nat) : Option KCap × Nat × Nat :=
  match o.kind with
  | .copy _ dst _ doff => (dst, doff + i, n)
  | .fill dst doff _ => (dst, doff + i, n)
  | _ => (none, 0, 0)

/-- Two ranges meet. -/
def spansMeet (a b : Option KCap × Nat × Nat) : Bool := kcapsMeet a.1 a.2.1 a.2.2 b.1 b.2.1 b.2.2

/-- R322: the next burst waits for an earlier operation that has yet to write a byte of it, or to read a byte that it
writes. -/
def Steward.overlapped (w : Steward) (o : EngOp) : Bool :=
  let rd := o.readSpan o.sent o.burstLen
  let wr := o.writeSpan o.sent o.burstLen
  w.ops.any fun e =>
    let er := e.readSpan e.done (e.len - e.done)
    let ew := e.writeSpan e.done (e.len - e.done)
    e.id < o.id && (e.stop.isNone || !e.flights.isEmpty) && (spansMeet ew rd || spansMeet ew wr || spansMeet er wr)

/-- R322: an operation that moves a capability waits for every earlier operation that names its k register. -/
def Steward.kregBusy (w : Steward) (o : EngOp) : Bool :=
  w.ops.any fun e => e.id < o.id && e.kregs.any fun k => o.kregs.contains k

/-! ## The accesses of a burst (R309, R315) -/

/-- Where a run of bytes of a burst is, or why it cannot be performed. -/
inductive BurstAt where
  | phys (a : Nat)
  | fabric (fa : Nat)
  | away
  | refused (code sub : Nat)
  | hold (vf page : Nat)
  | busy
  | absent
deriving DecidableEq, Repr

/-- The check of R53 through the steward's validation cache, and the translation in the kernel's context. -/
def State.engineAt (s : State) (c : Option KCap) (off n : Nat) (acc : Access) : State × BurstAt :=
  let t := s.cur.tile
  match c with
  | none => (s, .refused cRights 0)
  | some k =>
    match s.checkCap (s.tile t).svcache k.supv (some k.cap) acc off n, s.partOfTile t with
    | .fault sub, _ => (s, .refused sub 0)
    | .held, _ => (s, .busy)
    | .away, _ => (s, .away)
    | .ok _, none => (s, .refused cRevoked 0)
    | .ok va, some p =>
      let s := s.onTile t fun v => { v with svcache := addEntry v.svcache (s.entryFor p.1 k.cap) }
      if va / 2 ^ 52 = 0 ∨ va / 2 ^ 52 = 1 then
        match s.translate t p.1 p.2 k.xlat va (acc == .write) false with
        | (s, .ok out) =>
          if va / 2 ^ 52 = 1 then (s, .fabric out)
          else if p.2.prec.covers out 1 && physExists (p.2.prec.phys out) then (s, .phys (p.2.prec.phys out))
          else (s, .absent)
        | (s, .xlate) => (s, .refused cXlate 0)
        | (s, .miss gpa a) => (s.pageRequest k.xlat.vf gpa a, .hold k.xlat.vf (guestPage gpa))
      else if physExists va then (s, .phys va)
      else (s, .absent)

/-- A request of an operation to another chip (R315); its number is that of `nextId`. -/
def State.engineAsk (s : State) (o : EngOp) (a : Ask) : State :=
  let t := s.cur.tile
  let id := s.fabric.nextId
  let q := a.packet id
  let pn := ((s.partOfTile t).map (·.1)).getD 0
  let p : Packet := ⟨0, pn, ⟨s.chip, t⟩, .engine, q.1, o.kslot, s.cycle, a.len, q.2, some o.id, false, none⟩
  { s with fabric := { s.fabric with out := s.fabric.out ++ [p], nextId := id + 1 } }

/-- The accessor behind a burst: the tile, and the VF of the kernel (R447). -/
def State.engineBy (s : State) (o : EngOp) : Accessor :=
  ⟨some s.cur.tile, (s.partOfTile s.cur.tile).bind fun p => s.vfOf p.1 o.kslot⟩

/-- What the read of a burst gives. -/
inductive BurstRead where
  | parts (ps : List BurstPart)
  /-- the operation stands as the state has it: it is refused, holds, or cannot go on yet -/
  | stopped
  | absent
deriving DecidableEq, Repr

/-- The outcome of an access of the burst from byte `start` on that is not performed. -/
def State.engineStop (s : State) (o : EngOp) (start : Nat) (l : BurstAt) : State × BurstRead :=
  match l with
  | .refused code sub => (s.setOp { o with stop := some (code, sub), flights := o.flights.filter fun f => f.start < start }, .stopped)
  | .hold vf page => (s.setOp { o with page := some (vf, page, start), rejected := false }, .stopped)
  | .absent => (s, .absent)
  | _ => (s, .stopped)

/-- The source of a burst of `n` bytes, from its first `got` bytes on: at most two runs, cut at a line of the chip's memory,
where the interleave changes the channel, and at a page of the fabric space. -/
def State.burstRead (s : State) (o : EngOp) (src : Option KCap) (off n : Nat) : Nat → Nat → List BurstPart → State × BurstRead
  | 0, _, ps => (s, .parts ps)
  | fuel + 1, got, ps =>
    if n ≤ got then (s, .parts ps)
    else
      let a := off + got
      match s.engineAt src a (n - got) .read, src with
      | (s, .phys p), _ =>
        let m := min (n - got) (64 - p % 64)
        match s.eccRead (s.engineBy o) p m with
        | (s, some sub) => s.engineStop o o.sent (.refused cUncorr sub)
        | (s, none) => s.burstRead o src off n fuel (got + m) (ps ++ [.bytes (s.bytes p m)])
      | (s, .fabric fa), _ =>
        let m := min (n - got) (2 ^ 19 - fa % 2 ^ 19)
        (s.engineAsk o (.fabric fa none m)).burstRead o src off n fuel (got + m) (ps ++ [.asked s.fabric.nextId])
      | (s, .away), some k => (s.engineAsk o (.access k.cap a none (n - got)), .parts (ps ++ [.asked s.fabric.nextId]))
      | (s, l), _ => s.engineStop o o.sent l

/-- The bytes of a burst whose source has been read. -/
def Flight.bytes? (f : Flight) : Option (List Byte) :=
  f.parts.foldl (fun b p => match b, p with
    | some bs, .bytes cs => some (bs ++ cs)
    | _, _ => none) (some [])

/-- The first burst whose destination has not been written, with its bytes, if they have been read. -/
def EngOp.readyFlight (o : EngOp) : Option (Flight × List Byte) :=
  (o.flights.find? fun f => f.out == .waits).bind fun f => f.bytes?.map fun bs => (f, bs)

/-- Every earlier burst of the operation has been performed (R315). -/
def EngOp.isNext (o : EngOp) (f : Flight) : Bool := f.start == o.done

/-- The bursts that are done, from the first on, are counted and leave the list (R315). -/
def EngOp.confirm (o : EngOp) : EngOp :=
  { o with
    done := o.done + ((o.flights.takeWhile fun f => f.out == .done).map Flight.len).sum
    flights := o.flights.dropWhile fun f => f.out == .done }

/-- The destination of a burst of an operation has come to `b`. -/
def EngOp.setOut (o : EngOp) (f : Flight) (b : BurstOut) : EngOp :=
  EngOp.confirm { o with flights := o.flights.map fun (g : Flight) => if g.start = f.start then { g with out := b } else g }

/-- The destination side of a burst under a k register. A burst for this chip is performed behind the earlier ones; one for
another chip is sent without waiting for their answers. -/
def State.burstWrite (s : State) (o : EngOp) (f : Flight) (dst : Option KCap) (off : Nat) (bs : List Byte) : State × BurstRead :=
  match s.engineAt dst off bs.length .write, dst with
  | (s, .phys p), some k =>
    if o.isNext f then ((s.perform s.cur.tile k.cap p bs).setOp (o.setOut f .done), .stopped) else (s, .stopped)
  | (s, .fabric fa), _ =>
    ((s.engineAsk o (.fabric fa (some bs) bs.length)).setOp (o.setOut f (.asked s.fabric.nextId)), .stopped)
  | (s, .away), some k =>
    ((s.engineAsk o (.access k.cap off (some bs) bs.length)).setOp (o.setOut f (.asked s.fabric.nextId)), .stopped)
  | (s, l), _ => s.engineStop o f.start l

/-! ## COPY deliveries, the sending side (R316) -/

/-- The ring of a tile that holds a delivery, with its number. -/
def Local.ringOf (l : Local) (src : Place) (id : Nat) : Option (Nat × Ring) :=
  l.rings.find? fun r => r.2.deliveries.any fun d => d.src == src && d.id == id

/-- A delivery of a ring changed. -/
def State.onDelivery (s : State) (t r : Nat) (src : Place) (id : Nat) (f : Delivery → Delivery) : State :=
  s.onLocal t fun l => { l with rings := match aget? l.rings r with
    | some g => aset l.rings r { g with deliveries := g.deliveries.map fun d => if d.src = src ∧ d.id = id then f d else d }
    | none => l.rings }

/-- The window offset in a ring's buffer of byte `i` of a delivery whose first slot is `first`. -/
def slotOffset (g : Ring) (first i : Nat) : Nat := (first + i / g.slotBytes) % g.slots * g.slotBytes + i % g.slotBytes

/-- R63 step 2: bytes of a delivery written into its slots, checked against the ring's capability as its table holds it.
The state, or the code of the refusal. -/
def State.slotWrite (s : State) (t : Nat) (src : Place) (id i : Nat) (bs : List Byte) : Except Nat State :=
  match (s.tile t).loc.ringOf src id with
  | none => .error cRights
  | some (r, g) =>
    match g.deliveries.find? fun d => d.src == src && d.id == id with
    | none => .error cRights
    | some d =>
      match s.checkCap [] false (some g.cap) .write (slotOffset g d.first i) bs.length with
      | .ok va =>
        .ok ((s.perform t g.cap va bs).onDelivery t r src id fun d =>
          { d with got := d.got + bs.length, lastWindow := s.window })
      | .fault sub => .error sub
      | _ => .error cRevoked

/-- A packet of the engine of the tile whose turn it is. -/
def State.enginePacket (s : State) (o : EngOp) (vn : Nat) (dst : Place) (len : Nat) (b : Body) : State :=
  let t := s.cur.tile
  let src : Place := ⟨s.chip, t⟩
  let pn := ((s.partOfTile t).map (·.1)).getD 0
  s.sendPkt ⟨vn, pn, src, .engine, dst, o.kslot, s.dueAt src dst len, len, b, some o.id, false, none⟩

/-- The burst of a COPY delivery at its receiving tile, or on its way there (R63, R483). -/
def State.deliverBurst (s : State) (o : EngOp) (f : Flight) (dest : Place) (bs : List Byte) : State × BurstRead :=
  if dest.chip = s.chip then
    if o.isNext f then
      match s.slotWrite dest.tile ⟨s.chip, s.cur.tile⟩ o.id f.start bs with
      | .ok s => (s.setOp (o.setOut f .done), .stopped)
      | .error code => s.engineStop o f.start (.refused code 0)
    else (s, .stopped)
  else
    let id := s.fabric.nextId
    let s := { s with fabric := { s.fabric with nextId := id + 1 } }
    ((s.enginePacket o 0 dest (16 + bs.length) (.burst o.id f.start bs id)).setOp (o.setOut f (.asked id)), .stopped)

/-- The capability of an operation that moves it is in flight. -/
def State.inFlight (s : State) (c : Option KCap) (dst : Place) : State :=
  match c with
  | some k => s.setOwner k.cap 2 dst
  | none => s

/-- The destination side of a burst whose source has been read. -/
def State.engineOut (s : State) (o : EngOp) (f : Flight) (bs : List Byte) : State × BurstRead :=
  match o.kind with
  | .copy _ dst _ doff => s.burstWrite o f dst (doff + f.start) bs
  | .fill dst doff _ => s.burstWrite o f dst (doff + f.start) bs
  | .deliver _ _ _ dest _ _ _ _ => s.deliverBurst o f dest bs
  | _ => (s, .stopped)

/-- The source side of the next burst. -/
def State.engineIn (s : State) (o : EngOp) : State × BurstRead :=
  match o.kind with
  | .copy src _ soff _ => s.burstRead o src (soff + o.sent) o.burstLen 2 0 []
  | .deliver src soff _ _ _ _ _ _ => s.burstRead o src (soff + o.sent) o.burstLen 2 0 []
  | .fill _ doff pattern =>
    let at' := doff + o.sent
    (s, .parts [.bytes ((upto o.burstLen).map fun i => BitVec.ofNat 8 (pattern.toNat / 2 ^ (8 * ((at' + i) % 8))))])
  | _ => (s, .stopped)

/-- R315: a burst of an operation: one that has been read goes on to its destination; otherwise the next one is read, and goes
on at once if all its bytes are there. `fresh`: a further burst may begin. -/
def State.engineBurst (s : State) (o : EngOp) (fresh : Bool) : State × BurstRead :=
  match o.readyFlight with
  | some (f, bs) => s.engineOut o f bs
  | none =>
    if !fresh || o.sent = o.len || s.stw.overlapped o then (s, .stopped)
    else
      match s.engineIn o with
      | (s, .parts ps) =>
        let f : Flight := ⟨o.sent, o.burstLen, ps, .waits⟩
        let o := { o with flights := o.flights ++ [f] }
        match f.bytes? with
        | some bs => if o.flights.length = 1 then (s.setOp o).engineOut o f bs else (s.setOp o, .stopped)
        | none => (s.setOp o, .stopped)
      | r => r

/-- One step of an operation that is not stopped and awaits nothing. -/
def State.engineStep (s : State) (o : EngOp) (fresh : Bool) : State × BurstRead :=
  let w := s.stw
  match o.kind with
  | .copy _ _ _ _ | .fill _ _ _ => s.engineBurst o fresh
  | .deliver src _ _ dest ch x2 granted _ =>
    match granted, src with
    | _, none => (s, .stopped)
    | none, some k =>
      if !fresh || w.kregBusy o then (s, .stopped)
      else
        ((s.enginePacket o 0 dest 24 (.slotReq o.id ch k.cap.bytes x2)).setOp { o with waitTag := some 0 }, .stopped)
    | some _, some _ => s.engineBurst o fresh
  | .xfer src dest ch hdr x2 sub sent =>
    if !fresh || sent || w.kregBusy o then (s, .stopped)
    else
      match src with
      | none => (s, .stopped)
      | some k =>
        let s := (s.inFlight src dest).enginePacket o 0 dest 40 (.msg ch hdr x2 0 0 (some k.cap))
        (s.setOp { o with
          kind := .xfer src dest ch hdr x2 sub true, waitTag := if dest.chip = s.chip then none else some 0 }, .stopped)
  | .give _ _ | .mbx _ _ _ => (s, .stopped)

/-- A page request of a VF stands (R272). -/
def State.requestStands (s : State) (vf page : Nat) : Bool :=
  let v := aget s.vfs .reset vf
  (v.prq ++ v.prqWaiting).any fun r => r.gpa == page

/-- R274, R315: the burst of an operation whose translation missed: refused with XLATE once its page is rejected, tried again
once its request is answered. -/
def State.pageAnswered (s : State) (o : EngOp) (vf page start : Nat) : State :=
  if o.rejected then
    s.setOp { o with stop := some (cXlate, 1), page := none, flights := o.flights.filter fun f => f.start < start }
  else if s.requestStands vf page then s
  else s.setOp { o with page := none }

/-- MOVE_BURST (R315): the next burst of an operation, or the message or slot request with which it begins. A steward that
stops finishes the bursts under way (R438). -/
def execMoveBurst (s : State) : Host.Outcome State Fault Refusal :=
  match s.engOp with
  | none => .next s
  | some o =>
    if s.cycle < o.notBefore ∨ (o.stop.isSome ∧ o.readyFlight.isNone) ∨ o.waitTag.isSome then .next s
    else
      match o.page with
      | some (vf, page, start) =>
        match o.readyFlight with
        | some (f, bs) =>
          if f.start < start then
            match s.engineOut o f bs with
            | (_, .absent) => .fault .absentAddress
            | (s, _) => .next s
          else .next (s.pageAnswered o vf page start)
        | none => .next (s.pageAnswered o vf page start)
      | none =>
        match s.engineStep o (!s.stwStopped && o.stop.isNone) with
        | (_, .absent) => .fault .absentAddress
        | (s, _) => .next s

/-! ## The end of an operation (R311, R315 to R320) -/

/-- Code, subcode and byte count of an operation's end (R311). -/
def EngOp.status (o : EngOp) : Nat × Nat × Nat :=
  match o.stop with
  | none => (cOk, 0, o.done)
  | some (code, sub) => if 0 < o.done then (cPartial, code, o.done) else (code, sub, 0)

/-- R69: at the end of a copy or fill, capabilities of k registers whose group was killed meanwhile. -/
def State.releaseK (s : State) (o : EngOp) : State :=
  let t := s.cur.tile
  o.kregs.foldl (fun s i =>
    match aget? s.stw.k i, s.partOfTile t with
    | some (c, k), some p =>
      if (s.tile t).groupKilled k ∧ !s.stw.uses i then
        (s.onStw fun w => { w with k := aerase w.k i }).letKill p.1 k t c (s.killCode t k)
      else s
    | _, _ => s) s

/-- The reason with which a capability of a group that has gone is disposed of: the code of the kill (R469), or `reason` where the kernel
has retired. -/
def State.goneCode (s : State) (t k reason : Nat) : Nat := aget (s.tile t).killed reason k

/-- R64: the capability of a COPY goes to its parking slot, or to the reclaim path; a killed group's by R69. -/
def State.returnCopy (s : State) (k : KCap) (pslot reason : Nat) : State :=
  let t := s.cur.tile
  match s.partOfTile t with
  | none => s
  | some p => if s.groupGone t k.kslot then s.letKill p.1 k.kslot t k.cap (s.goneCode t k.kslot reason) else s.parkCap p.1 k.kslot t pslot k.cap

/-- The end of a COPY delivery (R63 step 4, R64, R483). -/
def State.endDelivery (s : State) (o : EngOp) (k : KCap) (pslot : Nat) (dest : Place) (noticed : Bool)
    (kind' : EngKind) : State :=
  let st := o.status
  let here : Place := ⟨s.chip, s.cur.tile⟩
  let finish (s : State) : State := (s.finishOp o st.1 st.2.1 st.2.2).returnCopy k pslot st.1
  if dest.chip = s.chip then
    match (s.tile dest.tile).loc.ringOf here o.id with
    | some (r, _) => finish (s.onDelivery dest.tile r here o.id fun d => { d with done := some st })
    | none => finish s
  else if noticed then finish s
  else
    let notice := s.enginePacket o 0 dest 24 (.endNotice o.id st.1 st.2.1 st.2.2)
    match o.stop with
    | some (code, _) =>
      if code = cTimeout ∨ code = cPeerlost then finish notice
      else notice.setOp { o with kind := kind', waitTag := some 0 }
    | none => notice.setOp { o with kind := kind', waitTag := some 0 }

/-- R319: mv.give to a parking slot. A killed group's capability goes by R69. -/
def State.endGive (s : State) (o : EngOp) (k : KCap) (slot : Nat) : State :=
  let t := s.cur.tile
  match s.partOfTile t with
  | none => s.finishOp o cRefused 2 0
  | some p =>
    let gone := s.groupGone t k.kslot
    let free := !gone && ((s.tile t).loc.slot slot).open
    let s := if free then s.finishOp o cOk 0 0 else s.finishOp o cRefused 2 0
    if gone then s.letKill p.1 k.kslot t k.cap (s.goneCode t k.kslot cRefused) else s.parkCap p.1 k.kslot t slot k.cap

/-- A packet of the operation is under way. -/
def State.opUnderWay (s : State) (o : EngOp) : Bool :=
  s.net.any fun p => p.op == some o.id && p.src == ⟨s.chip, s.cur.tile⟩ && p.unit == .engine

/-- ENGINE_OP_COMPLETE (R311, R316 to R320, R64). -/
def execEngineOpComplete (s : State) : Host.Outcome State Fault Refusal :=
  match s.engOp with
  | none => .next s
  | some o =>
    let w := s.stw
    let st := o.status
    if s.stwStopped || s.cycle < o.notBefore || o.waitTag.isSome then .next s
    else
      match o.kind with
      | .copy _ _ _ _ | .fill _ _ _ =>
        if o.done = o.len ∨ (o.stop.isSome ∧ o.flights = []) then .next ((s.finishOp o st.1 st.2.1 st.2.2).releaseK o) else .next s
      | .deliver src soff pslot dest ch x2 granted noticed =>
        match src with
        | none => .next (s.finishOp o cRights 0 0)
        | some k =>
          if (granted.isSome ∧ o.done = o.len) ∨ (o.stop.isSome ∧ o.flights = []) then
            .next (s.endDelivery o k pslot dest noticed (.deliver src soff pslot dest ch x2 granted true))
          else .next s
      | .xfer src _ _ _ _ sub sent =>
        match src with
        | none => if w.kregBusy o then .next s else .next (s.finishOp o cRights 0 0)
        | some _ =>
          if o.stop.isSome then .next (s.finishOp o st.1 st.2.1 st.2.2)
          else if sent ∧ !s.opUnderWay o then .next (s.finishOp o cOk sub 0)
          else .next s
      | .give src slot =>
        if w.kregBusy o then .next s
        else
          match src with
          | none => .next (s.finishOp o cRights 0 0)
          | some k => .next (s.endGive o k slot)
      | .mbx dst ctr amount =>
        if w.ops.any fun e => e.id < o.id then .next s
        else .next ((s.enginePacket o 0 dst 16 (.inc ctr amount false)).finishOp o 0 0 0)

/-! ## Steward faults (R306) -/

/-- The newest claimed entry whose kernel still runs on the tile: the kernel's queue slot. -/
def State.charged (s : State) (t : Nat) : Option Nat :=
  ((s.tile t).loc.kicks.filter fun k => k.2.state == .claimed && !s.groupGone t k.2.kslot).foldl (fun m k =>
    match m with
    | none => some k.2
    | some b => if b.seq < k.2.seq then some k.2 else m) none |>.map (·.kslot)

/-- STEWARD_FAULT (R306): the hart's capabilities and claimed entries go, the program is loaded again, the fault is
charged to a kernel or reported to the supervisor. -/
def execStewardFault (s : State) : Host.Outcome State Fault Refusal :=
  let t := s.cur.tile
  match s.stw.fault, s.partOfTile t with
  | some f, some p =>
    let who := s.charged t
    let r : FRec :=
      { FRec.zero with code := f.code, sub := f.sub, kslot := who.getD 0, src := 2, pc := f.pc, iword := f.word }
    let s := s.emptyK t f.code
    let es := (s.tile t).loc.kicks.filter fun k => k.2.state == .claimed
    let s := es.foldl (fun s k => s.releaseKick t k.1 fun s p k t c => s.letPath p k t c f.code) s
    let s := s.loadSteward t
    match who with
    | some k => .next (s.contain p.1 k t none true r .group)
    | none => .next ((s.logFault p.1 r none).mgmtEvent p.1 f.code f.sub 0)
  | _, _ => .next s

/-! ## The receiving side (R63, R413, R483) -/

/-- What the engine of a tile learns of its request: the granted slots, or that the COPY is handled as XFER. -/
def EngOp.answered (o : EngOp) (slots : Option (Nat × Nat × Nat)) : EngOp :=
  match o.kind with
  | .deliver src soff pslot dest ch x2 _ _ =>
    match slots with
    | some g => { o with kind := .deliver src soff pslot dest ch x2 (some g) false, waitTag := none }
    | none => { o with kind := .xfer src dest ch (capHeader' cOk) x2 1 false, waitTag := none }
  | _ => o
where
  /-- The header word of a capability message with a reason and nothing else (Table 15.6). -/
  capHeader' (reason : Nat) : Word := word reason

/-- A request for slots is answered. -/
def State.answerSlots (s : State) (t : Nat) (src : Place) (id : Nat) (slots : Option (Nat × Nat × Nat)) : State :=
  if src.chip = s.chip then s.onOp src.tile id fun o => o.answered slots
  else
    s.send 1 (((s.partOfTile t).map (·.1)).getD 0) ⟨s.chip, t⟩ .home src 0 24
      (.grant id (slots.map fun g => (g.1, g.2.1)) ((slots.map fun g => g.2.2).getD 0))

/-- R63 step 1: a delivery that fits is granted. -/
def Ring.fits (g : Ring) (n : Nat) : Bool := (g.rsv + n + 2 ^ 32 - g.relsd) % 2 ^ 32 ≤ g.slots

/-- The bytes of a record's slot (R413). -/
def recordBytes (g : Ring) (v : Word × Word × Word) : List Byte :=
  leBytes g.slotBytes (v.1.toNat + v.2.1.toNat * 2 ^ 64 + v.2.2.toNat * 2 ^ 128)

/-- R63, R413: the oldest ungranted delivery of a ring is granted when it fits; a record fills its slot at once. -/
def State.grantNext (s : State) (t r : Nat) : State :=
  match aget? (s.tile t).loc.rings r with
  | none => s
  | some g =>
    match g.deliveries.find? fun d => !d.granted with
    | none => s
    | some d =>
      if g.fits d.n then
        let first := g.rsv % g.slots
        let s := s.onLocal t fun l => { l with rings := aset l.rings r { g with rsv := (g.rsv + d.n) % 2 ^ 32 } }
        let s := s.onDelivery t r d.src d.id fun d => { d with granted := true, first := first, lastWindow := s.window }
        match d.record with
        | none => s.answerSlots t d.src d.id (some (first, d.n, g.slotBytes))
        | some v =>
          let s := match s.slotWrite t d.src d.id 0 (recordBytes g v) with
            | .ok s => s
            | .error _ => s
          s.onDelivery t r d.src d.id fun d => { d with done := some (cOk, 0, 24) }
      else s

/-- A delivery joins a ring's list. -/
def State.addDelivery (s : State) (t r : Nat) (d : Delivery) : State :=
  (s.onLocal t fun l => { l with rings := match aget? l.rings r with
    | some g => aset l.rings r { g with deliveries := g.deliveries ++ [d] }
    | none => l.rings }).grantNext t r

/-- R63: a request for the slots of a COPY ring. Without a ring that can hold the window the COPY is handled as XFER; a binding
whose ring is not installed counts as one without a ring, which is the model's choice (log 81). -/
def State.takeSlotRequest (s : State) (p : Packet) (id ch bytes : Nat) (x2 : Word) : State :=
  let t := p.dst.tile
  let l := (s.tile t).loc
  let ring : Option (Nat × Ring) := do
    let c ← aget? l.chans ch
    let r ← if c.dead then none else c.cring
    let g ← aget? l.rings r
    if bytes ≤ g.slots * g.slotBytes then some (r, g) else none
  match ring with
  | none => s.answerSlots t p.src id none
  | some (r, g) =>
    s.addDelivery t r
      { src := p.src, id := id, kslot := p.kslot, chan := ch, n := (bytes + g.slotBytes - 1) / g.slotBytes, bytes := bytes,
        first := 0, granted := false, got := 0, done := none, x2 := x2, lastWindow := s.window, record := none }

/-- COPY_SLOT_REQUEST (R63). -/
def execCopySlotRequest (s : State) : Host.Outcome State Fault Refusal :=
  arrival s fun s p => match p.body with
    | .slotReq id ch bytes x2 => some (some (s.takeSlotRequest p id ch bytes x2))
    | _ => none

/-- COPY_SLOT_GRANT (R63): slots that RADV has released go to the oldest request. -/
def execCopySlotGrant (s : State) : Host.Outcome State Fault Refusal := .next (s.grantNext s.cur.tile s.cur.sub)

/-- R63 steps 3 and 4, R483: the oldest grant of a ring, when it has ended, raises the fill counter and is announced. -/
def State.announce (s : State) (t r : Nat) : State :=
  match (aget? (s.tile t).loc.rings r).bind fun g => g.deliveries.head?.map fun d => (g, d) with
  | none => s
  | some (g, d) =>
    match d.done with
    | none => s
    | some (code, _, bytes) =>
      if d.granted then
        let s := s.onLocal t fun l => { l with rings := aset l.rings r { g with deliveries := g.deliveries.drop 1 } }
        let s := s.incCtr t g.fctr d.n
        if d.record.isSome then s
        else
          let hdr := word (code + 2 ^ 8 + d.first * 2 ^ 9 + d.n * 2 ^ 17)
          let at' : Place := ⟨s.chip, t⟩
          let due := if d.src.chip = s.chip then s.dueAt d.src at' 24 else s.cycle
          s.sendPkt ⟨0, ((s.partOfTile t).map (·.1)).getD 0, d.src, .engine, at', d.kslot, due, 24,
            .msg d.chan hdr d.x2 (word bytes) 0 none, none, false, none⟩
      else s

/-- COPY_ANNOUNCE (R63, R483). -/
def execCopyAnnounce (s : State) : Host.Outcome State Fault Refusal := .next (s.announce s.cur.tile s.cur.sub)

/-- R413: a record at its destination: three landing registers, or a slot of a ring. -/
def State.takeRecord (s : State) (p : Packet) (dest : RecordDest) (v st mask : Word) : State :=
  match dest with
  | .land l => s.landOr p l.reg [v, st, mask] .land
  | .ring _ r =>
    match aget? (s.tile p.dst.tile).loc.rings r with
    | some _ =>
      { s with nextProbe := s.nextProbe + 1 }.addDelivery p.dst.tile r
        { src := p.src, id := 2 ^ 64 + s.nextProbe, kslot := p.kslot, chan := 0, n := 1, bytes := 24, first := 0,
          granted := false, got := 0, done := none, x2 := 0, lastWindow := s.window, record := some (v, st, mask) }
    | none => s.logPacket p.dst.tile cIllopnd 1 (targetVa p.dst r) p 5 v none

/-- Two handles name one opening: GEN, CHIP and SLOT are equal (Table 18.4). -/
def sameOpening (a b : Word) : Bool :=
  field a.toNat 48 16 == field b.toNat 48 16 && field a.toNat 12 10 == field b.toNat 12 10 && field a.toNat 0 6 == field b.toNat 0 6

/-- R420: the contribution whose record has arrived is no longer open. -/
def State.contribClosed (s : State) (h : Word) (i : Nat) : State :=
  { s with fabric := { s.fabric with opened := s.fabric.opened.filter fun e => !(sameOpening e.1 h && e.2.1 == i) } }

/-- COLLECTIVE_RECORD_ARRIVAL (R413). -/
def execCollectiveRecordArrival (s : State) : Host.Outcome State Fault Refusal :=
  arrival s fun s p => match p.body with
    | .collRecord dest v st mask h i => some (some ((s.takeRecord p dest v st mask).contribClosed h i))
    | _ => none

end Sys2Proof.Machine
end

