-- ==== Sys2Proof/Machine/BitManip.lean ====
section
/-!
DEFINITION. Class 0x2: the bit-manipulation instructions (R182 to R185).
-/

namespace Sys2Proof.Machine

/-- The number of set bits among the low `w`. -/
def popcount (w a : Nat) : Nat := ((upto w).filter fun i => bit a i).length

/-- The zero bits above the highest set bit of `w` bits; `w` for 0. -/
def clzBits (w a : Nat) : Nat := if a = 0 then w else w - 1 - Nat.log2 a

/-- The zero bits below the lowest set bit; `w` for 0. -/
def ctzBits (w a : Nat) : Nat := ((upto w).find? fun i => bit a i).getD w

/-- R183: the index of the set bit with exactly `n` set bits below it; `w` when there is none. -/
def fnsBits (w a n : Nat) : Nat := ((upto w).filter fun i => bit a i).getD n w

/-- The bits of `a` in reverse order. -/
def brevBits (w a : Nat) : Nat := (upto w).foldl (fun r i => r + if bit a i then 2 ^ (w - 1 - i) else 0) 0

/-- The bytes of `a` in reverse order. -/
def bswapBits (w a : Nat) : Nat := leNat (leBytes (w / 8) a).reverse

/-- R185: bit j of `a` placed at the j-th set bit of the mask. -/
def pdepBits (w a m : Nat) : Nat :=
  (((upto w).filter fun i => bit m i).zipIdx).foldl (fun r k => r + if bit a k.2 then 2 ^ k.1 else 0) 0

/-- R185: the bits of `a` under the mask, gathered. -/
def pextBits (w a m : Nat) : Nat :=
  (((upto w).filter fun i => bit m i).zipIdx).foldl (fun r k => r + if bit a k.1 then 2 ^ k.2 else 0) 0

/-- The frame of R182. -/
def unaryBits (h : Hint) (t : Ty) (d a : Reg) (f : Nat → Nat → Nat) (s : State) : Host.Outcome State Fault Refusal :=
  issue s h fun _ => .ok (s.putPattern d t (f t.width (pattern (s.x a) t)))

/-- POPC (R182). -/
def execPopc (h : Hint) (t : Ty) (d a : Reg) (s : State) : Host.Outcome State Fault Refusal := unaryBits h t d a popcount s
/-- CLZ (R182). -/
def execClz (h : Hint) (t : Ty) (d a : Reg) (s : State) : Host.Outcome State Fault Refusal := unaryBits h t d a clzBits s
/-- CTZ (R182). -/
def execCtz (h : Hint) (t : Ty) (d a : Reg) (s : State) : Host.Outcome State Fault Refusal := unaryBits h t d a ctzBits s
/-- BREV (R182). -/
def execBrev (h : Hint) (t : Ty) (d a : Reg) (s : State) : Host.Outcome State Fault Refusal := unaryBits h t d a brevBits s
/-- BSWAP (R182). -/
def execBswap (h : Hint) (t : Ty) (d a : Reg) (s : State) : Host.Outcome State Fault Refusal := unaryBits h t d a bswapBits s

/-- FNS (R183): n is B's full value read as unsigned. -/
def execFns (h : Hint) (t : Ty) (d a : Reg) (b : RegImm) (s : State) : Host.Outcome State Fault Refusal :=
  issue s h fun _ => .ok (s.putPattern d t (fnsBits t.width (pattern (s.x a) t) (RegImm.nat b s)))

/-- The descriptor of R184: the offset and the width of the field. From a register bits [63:13] are ignored. -/
def fieldDesc (b : RegImm) (s : State) : Eff (Nat × Nat) := do
  let v := match b with
    | .reg r => (s.x r).toNat % 2 ^ 13
    | .imm i => (immWord i).toNat
  need s (v < 2 ^ 13)
  let f := field v 6 7
  need s (f ≤ 64)
  .ok (field v 0 6, f)

/-- BEXT (R184). -/
def execBext (h : Hint) (t : Ty) (d a : Reg) (b : RegImm) (s : State) : Host.Outcome State Fault Refusal :=
  issue s h fun _ => do
    let (o, f) ← fieldDesc b s
    .ok (s.setX d (word (pattern (s.x a) t / 2 ^ o % 2 ^ f)))

/-- BEXTS (R184): the sign-extended field is a result of the width of `t`, and is written as `t` (R173). -/
def execBexts (h : Hint) (t : Ty) (d a : Reg) (b : RegImm) (s : State) : Host.Outcome State Fault Refusal :=
  issue s h fun _ => do
    let (o, f) ← fieldDesc b s
    .ok (s.putPattern d t (wrapNat (signExtend (pattern (s.x a) t / 2 ^ o % 2 ^ f) f) t.width))

/-- R184: bits o to min(o + f, w) − 1 of `x` replaced by the low bits of `a`. -/
def insertBits (w x a o f : Nat) : Nat :=
  let n := min (o + f) w - o
  x - (x / 2 ^ o % 2 ^ n) * 2 ^ o + (a % 2 ^ n) * 2 ^ o

/-- BINS (R184). With f = 0 or o ≥ w nothing is written. -/
def execBins (h : Hint) (t : Ty) (d a : Reg) (b : RegImm) (s : State) : Host.Outcome State Fault Refusal :=
  issue s h fun _ => do
    let (o, f) ← fieldDesc b s
    .ok (if f = 0 ∨ t.width ≤ o then s
         else s.putPattern d t (insertBits t.width (pattern (s.x d) t) (pattern (s.x a) t) o f))

/-- PDEP (R185). -/
def execPdep (h : Hint) (t : Ty) (d a b : Reg) (s : State) : Host.Outcome State Fault Refusal :=
  issue s h fun _ => .ok (s.putPattern d t (pdepBits t.width (pattern (s.x a) t) (pattern (s.x b) t)))

/-- PEXT (R185). -/
def execPext (h : Hint) (t : Ty) (d a b : Reg) (s : State) : Host.Outcome State Fault Refusal :=
  issue s h fun _ => .ok (s.putPattern d t (pextBits t.width (pattern (s.x a) t) (pattern (s.x b) t)))

end Sys2Proof.Machine
end

