-- ==== Sys2Proof/Machine/Stream.lean ====
section
/-!
DEFINITION. Streams (R204 to R212): operand views captured at issue, broadcast, element addresses (R38, R259), reading
and writing elements, and the walk in ordinal order with its resume point.
-/

namespace Sys2Proof.Machine

/-! ## Operand views -/

/-- R207: a stream operand's home. `dest`: the view is a destination. -/
def homeAllowed (s : State) (c : Cap) (dest : Bool) : Bool :=
  c.kind != .hbm && c.chip == s.chip && (c.kind != .weight || (c.mode == .sealed && !dest))

/-- R37, R259: a rotated view needs a cluster window whose ends are multiples of 512. -/
def rotationOk (s : State) (v : View) (cap : Option Cap) : Bool :=
  match cap with
  | none => true
  | some c => v.rot == 0 || (c.kind == .cluster && s.windowBase c % 512 == 0 && (s.windowBase c + c.bytes) % 512 == 0)

/-- The operand view of a VIEW field, captured at issue (R204, R207, R209). -/
def bindView (s : State) (w : Who) (r : Vreg) (dest : Bool) : Eff BoundView := do
  let v ← viewIn s w r
  need s (viewLegal v)
  let b ← (if v.ringf then do
      let (_, g) ← boundRing s (BitVec.ofNat 3 v.rh)
      .ok ⟨v, some g.cap, g.head, g.slots, g.slotBytes⟩
    else .ok ⟨v, s.c v.cap, 0, 1, 0⟩ : Eff BoundView)
  match b.cap with
  | none => .ok b
  | some c => do
    need s (rotationOk s v b.cap)
    if homeAllowed s c dest then .ok b else raise s cIllopnd 2

/-- The capability registers that operand views captured (R206). -/
def captured (l : List BoundView) : List Nat := (l.filter fun b => !b.view.ringf).map fun b => b.view.cap

/-- Extent of a view in a dimension. -/
def View.extent (v : View) (k : Nat) : Nat := v.ext.getD k 1

/-- R39: the iteration extents of views, and whether the views match. -/
def matched (l : List View) : Option (List Nat) :=
  let es := (upto 4).map fun k => (l.map fun v => v.extent k).foldl max 1
  if l.all fun v => (upto 4).all fun k => v.extent k == 1 || v.extent k == es.getD k 1 then some es else none

/-- R39: the iteration extents of source views and a destination, which may not broadcast. -/
def matchedInto (s : State) (d : View) (l : List View) : Eff (List Nat) :=
  match matched (d :: l) with
  | some es => if (upto 4).all fun k => d.extent k == es.getD k 1 then .ok es else raise s cIllopnd 0
  | none => raise s cIllopnd 0

/-- The number of elements of an iteration space (R205). -/
def elements (es : List Nat) : Nat := es.foldl (· * ·) 1

/-- The index of an ordinal (R205). -/
def indexOf (es : List Nat) (k : Nat) : List Nat :=
  let e (i : Nat) : Nat := es.getD i 1
  [k % e 0, k / e 0 % e 1, k / (e 0 * e 1) % e 2, k / (e 0 * e 1 * e 2)]

/-! ## Element addresses (R38, R259) -/

/-- Σ index × stride over the dimensions below `n`, a broadcast dimension standing at index 0. -/
def strideSum (v : View) (idx : List Nat) (n : Nat) : Int :=
  ((upto n).map fun k => if v.extent k = 1 then (0 : Int) else (idx.getD k 0 : Int) * v.stride.getD k 0).sum

/-- An element's place: the byte offset in the window (with a ring, checked against its slot), its size, and for T5 the
digit. `inside` is false for an element beyond its ring slot. -/
structure Elem where
  off : Int
  size : Nat
  digit : Nat
  inside : Bool
deriving DecidableEq, Repr

/-- R38: where an element of a bound view lies. -/
def elemOf (b : BoundView) (t : Ty) (idx : List Nat) : Elem :=
  let v := b.view
  let outer := v.rank - 1
  let n : Int := v.offset + strideSum v idx (if v.ringf then outer else v.rank)
  let byte : Int := if t = .t5 then n.fdiv 5 else n * t.size
  let size := if t = .t5 then 1 else t.size
  let digit := if t = .t5 then (n.fmod 5).toNat else 0
  if v.ringf then
    let j := if v.extent outer = 1 then 0 else idx.getD outer 0
    let slot := (b.ringHead + j) % b.slots
    ⟨slot * b.slotBytes + byte, size, digit, 0 ≤ byte && byte + size ≤ b.slotBytes⟩
  else ⟨byte, size, digit, true⟩

/-- R259: the byte accessed for a cluster address under ROT `r`. -/
def rotated (r a : Nat) : Nat :=
  if r = 0 then a
  else
    let o := a % 2 ^ 23
    let l := (field o 6 3 + field o (7 + 2 * r) 3) % 8
    a - o + (o - field o 6 3 * 64 + l * 64)

/-! ## Reading and writing elements -/

/-- R53 for an element of a stream: the state, the capability, the window offset and the physical address. -/
def State.elemCheck (s : State) (w : Who) (b : BoundView) (e : Elem) (acc : Access) (ord : Nat) : Eff (State × Cap × Nat × Nat) :=
  let creg := if b.view.ringf then 0 else b.view.cap
  match s.checkCap (s.tile s.cur.tile).core.vcache w.kernel.supv b.cap acc (if e.inside then e.off else -1) e.size, b.cap with
  | .ok va, some c =>
    if physExists va then .ok (s.validated s.cur.tile w.pnum c, c, e.off.toNat, rotated b.view.rot va) else .error (s, .absent)
  | .fault sub, _ => capFault s creg b.cap (s.recordVa b.cap e.off) ord sub
  | .held, _ => .error (s, .stall)
  | _, _ => capFault s creg b.cap 0 ord cRights

/-- The bytes of an element. -/
def State.elemBytes (s : State) (w : Who) (b : BoundView) (e : Elem) (ord : Nat) : Eff (State × List Byte) := do
  let (s, c, off, a) ← s.elemCheck w b e .read ord
  waitWhile s (s.readBusy a e.size)
  let s ← s.eccCheck w a e.size (s.windowBase c + off) (if b.view.ringf then 0 else b.view.cap) b.cap ord
  let s := s.markRead b.cap a e.size
  .ok (s, s.seen a e.size)

/-- An element's pattern and the flag of an invalid T5 byte (R153). -/
def State.readElem (s : State) (w : Who) (b : BoundView) (t : Ty) (idx : List Nat) (ord : Nat) : Eff (State × Nat × Flags) := do
  let e := elemOf b t idx
  let (s, bs) ← s.elemBytes w b e ord
  if t = .t5 then
    let d := tritOf (leNat bs) e.digit
    .ok (s, d.1, d.2)
  else .ok (s, leNat bs, 0)

/-- An element written. For T5 the home keeps the byte's other trits (R220). -/
def State.writeElem (s : State) (w : Who) (b : BoundView) (t : Ty) (idx : List Nat) (v ord : Nat) : Eff (State × Flags) := do
  let e := elemOf b t idx
  let (s, c, off, a) ← s.elemCheck w b e .write ord
  waitWhile s (s.writeBusy a e.size)
  if t = .t5 then
    let d := setTrit (leNat (s.seen a 1)) e.digit v
    let s ← s.writeOut c off a (leBytes 1 d.1)
    .ok (s, d.2)
  else
    let s ← s.writeOut c off a (leBytes e.size v)
    .ok (s, 0)

/-- A source of a vector instruction: a view, or a scalar that broadcasts. -/
inductive VSrc where
  | view (b : BoundView)
  | scalar (bits : Nat)
deriving DecidableEq, Repr

/-- The views among sources. -/
def viewsOf (l : List VSrc) : List BoundView := l.filterMap fun x => match x with | .view b => some b | .scalar _ => none

/-- The pattern of a source's element. -/
def State.readSrc (s : State) (w : Who) (x : VSrc) (t : Ty) (idx : List Nat) (ord : Nat) : Eff (State × Nat × Flags) :=
  match x with
  | .view b => s.readElem w b t idx ord
  | .scalar v => .ok (s, v, 0)

/-- R204: an immediate scalar narrowed once. -/
def immScalar (t : Ty) (v : Int) (mode : Mode) (sat : Bool) : Res :=
  if t = .t5 then ⟨(toTrit v).1, (toTrit v).2⟩
  else if t = .e8m0 then toE8m0 (.ofInt v)
  else if t.isInt then ⟨narrowBits v t sat, 0⟩
  else round (.ofInt v) t mode sat

/-- R204: the scalar of a register or an immediate. -/
def scalarOf (s : State) (b : RegImm) (t : Ty) (mode : Mode) (sat : Bool) : Res :=
  match b with
  | .imm v => immScalar t v.toInt mode sat
  | .reg r => if t = .t5 then ⟨(toTrit (s.x r).toInt).1, (toTrit (s.x r).toInt).2⟩ else ⟨pattern (s.x r) t, 0⟩

/-- A source operand bound at issue, and the flags that a scalar sets once, when every check has passed (R5, R204). -/
def bindSrc (s : State) (w : Who) (b : Src) (t : Ty) (mode : Mode) (sat : Bool) : Eff (VSrc × Flags) :=
  match b with
  | .view v => do
    let x ← bindView s w v false
    .ok (.view x, 0)
  | .reg r => let v := scalarOf s (.reg r) t mode sat; .ok (.scalar v.bits, v.fl)
  | .imm i => let v := scalarOf s (.imm i) t mode sat; .ok (.scalar v.bits, v.fl)

/-! ## The walk (R205, R208 to R210) -/

/-- An error of an element keeps its ordinal and the running values as the resume point. -/
def keepResume (r : Resume) : State × Stop → State × Stop
  | (s, st) => (s.onRegs fun q => { q with resume := r }, st)

/-- Elements `k` to `k + n - 1` performed one after another. -/
def walk (f : Nat → State → Eff State) : Nat → Nat → State → Eff State
  | 0, _, s => .ok s
  | n + 1, k, s =>
    match f k s with
    | .ok s => walk f n (k + 1) s
    | .error e => .error (keepResume (.elem k []) e)

/-- The ordinal at which an instruction starts: its resume point. -/
def startOf (s : State) : Nat × List RunVal :=
  match s.regs.resume with
  | .elem k run => (k, run)
  | _ => (0, [])

/-- R208, R210: the ordinal at which the stream stops when the watchdog leaves it `q - 1` more passes; q = 0: it runs to
its end. A stream that starts inside a pass completes that pass first. -/
def passLimit (e0 lanes total start q : Nat) : Nat :=
  if q = 0 then total
  else
    let per := (e0 + lanes - 1) / lanes
    let p := start / e0 * per + start % e0 / lanes + (q - 1)
    max start (min total (p / per * e0 + min (p % per * lanes) e0))

/-- R210: WDOG at a boundary, with the ordinal of the first unperformed element. -/
def wdogStop {α : Type} (s : State) (k ord : Nat) (run : List RunVal) : Eff α :=
  .error (keepResume (.elem k run) (s, .trap { Trap.of cWdog 0 with ord := ord }))

/-- Mismatches of the shadow lane are counted on the tile; a confirmed one marks the lane (R457, R459). -/
def State.laneCount (s : State) (slice n : Nat) (confirmed : Bool) : State :=
  s.onTile s.cur.tile fun v =>
    { v with counts := { v.counts with
        lanem := aalter v.counts.lanem 0 slice fun x => min (x + n) 65535
        vconf := if confirmed then v.counts.vconf ||| BitVec.twoPow 32 slice else v.counts.vconf } }

/-- The pass of an ordinal (R208). -/
def passOf (e0 lanes k : Nat) : Nat := k / e0 * ((e0 + lanes - 1) / lanes) + k % e0 / lanes

/-- R457: a pass in which every run disagrees with the shadow lane faults at its first element that is performed. -/
def laneCheck (l : Assoc Shadow) (pass ord : Nat) (s : State) : Eff Unit :=
  if aget l .agree pass = .confirmed then .error (s.laneCount (pass % 32) 3 true, .trap { Trap.of cUncorr 4 with ord := ord })
  else .ok ()

/-- R457: behind the last element of a pass, the mismatches that its reruns removed are counted, two at most. -/
def laneDone (l : Assoc Shadow) (pass next : Nat) (s : State) : State :=
  if pass = next then s
  else match aget l .agree pass with
    | .rerun n => s.laneCount (pass % 32) (min n 2) false
    | _ => s

/-- One element of a stream under the shadow lane's eye (R457). -/
def laned {α : Type} (l : Assoc Shadow) (pass : Nat → Nat) (k ord : Nat) (s : State) (f : State → Eff (State × α)) : Eff (State × α) :=
  if l.isEmpty then f s
  else do
    laneCheck l (pass k) ord s
    let (s, x) ← f s
    .ok (laneDone l (pass k) (pass (k + 1)) s, x)

/-- A stream walked in ordinal order from its resume point. -/
def stream (s : State) (es : List Nat) (lanes : Nat) (f : Nat → State → Eff State) : Eff State := do
  let total := elements es
  let e0 := es.getD 0 1
  let start := (startOf s).1
  let limit := passLimit e0 lanes total start s.cur.quota
  let seen := s.cur.lanes
  let step (k : Nat) (s : State) : Eff State :=
    if seen.isEmpty then f k s
    else (laned seen (passOf e0 lanes) k k s fun s => (f k s).map fun s => (s, ())).map (·.1)
  let s ← walk step (limit - start) start s
  if limit < total then wdogStop s limit limit [] else .ok s

/-- R206: the vector unit of the tile is occupied. -/
def vectorBusy (s : State) : Bool := (s.tile s.cur.tile).core.ctxs.any fun c => c.2.vecBusy.isSome

/-- The vector unit is held by an instruction that awaits another chip's answer, and is free again when that instruction stops in any
other way (R206). -/
def unitAtStop (e : State × Stop) : State × Stop :=
  (e.1.onCtx fun v => if e.2 = .wait then { v with vecBusy := some unitWaits } else v.freeUnit, e.2)

/-- The frame of a vector instruction: the unit is taken, with the capability registers that views captured. One that issues again with
an answer has kept it. -/
def issueVector (s : State) (h : Hint) (body : Who → Eff (State × List Nat)) : Host.Outcome State Fault Refusal :=
  issue s h fun w => do
    waitWhile s (vectorBusy s && s.ctx.answer.isNone)
    match body w with
    | .ok (s, regs) => .ok (s.onCtx fun v => { v with vecBusy := some regs })
    | .error e => .error (unitAtStop e)

end Sys2Proof.Machine
end

