-- ==== Sys2Proof/Machine/Vector.lean ====
section
/-!
DEFINITION. Classes 0x6 and 0x7: the vector stream instructions (R213 to R229).
-/

namespace Sys2Proof.Machine

/-! ## Element functions on patterns -/

/-- The two FP32 parts of a CF32 pattern (R154). -/
def rePart (b : Nat) : Nat := b % 2 ^ 32
/-- The imaginary part. -/
def imPart (b : Nat) : Nat := b / 2 ^ 32 % 2 ^ 32
/-- A CF32 result of two parts. -/
def complexRes (re im : Res) : Res := ⟨re.bits + im.bits * 2 ^ 32, re.fl ||| im.fl⟩

/-- An exact value with the flags of its operation, rounded once. -/
def roundFl (t : Ty) (m : Mode) (sat : Bool) (v : Num × Flags) (ops : List Num) : Res :=
  let r := round v.1 t m sat
  ⟨r.bits, r.fl ||| v.2 ||| sigFlag ops⟩

/-- A sum or product of element patterns (Table 10.3): integers narrowed once, floating point rounded once, CF32 part by
part. -/
def arith (fi : Int → Int → Int → Int) (ff : Mode → Num → Num → Num → Num × Flags) (reads3 : Bool) (t : Ty) (m : Mode)
    (sat : Bool) (a b d : Nat) : Res :=
  let float (t : Ty) (a b d : Nat) : Res :=
    let x := decodeNum t a
    let y := decodeNum t b
    let z := decodeNum t d
    roundFl t m sat (ff m x y z) (if reads3 then [x, y, z] else [x, y])
  if t.isInt then ⟨narrowBits (fi (intIn t a) (intIn t b) (intIn t d)) t sat, 0⟩
  else if t = .cf32 then
    complexRes (float .f32 (rePart a) (rePart b) (rePart d)) (float .f32 (imPart a) (imPart b) (imPart d))
  else float t a b d

/-- |a| or −a of an element (R213). -/
def signElem (neg : Bool) (t : Ty) (sat : Bool) (a : Nat) : Res :=
  if t.isInt then ⟨narrowBits (if neg then -intIn t a else (intIn t a).natAbs) t sat, 0⟩
  else
    let x := decodeNum t a
    let top := 2 ^ (t.width - 1)
    if x.isNan then ⟨canonNaN t, sigFlag [x]⟩
    else ⟨if neg then (if top ≤ a then a - top else a + top) else a % top, 0⟩

/-- One exact expression whose terms are values and products, of which those marked are subtracted (R169). -/
def exactSum (m : Mode) (ts : List (Bool × (Num × Flags))) : Num × Flags :=
  let r := sumNums m (ts.map fun t => (t.1, t.2.1))
  (r.1, ts.foldl (fun f t => f ||| t.2.2) r.2)

/-- x·y − z·w, exact (R169). -/
def crossSub (m : Mode) (x y z w : Num) : Num × Flags := exactSum m [(false, mulNum x y), (true, mulNum z w)]

/-- x·y + z·w, exact (R169). -/
def crossAdd (m : Mode) (x y z w : Num) : Num × Flags := exactSum m [(false, mulNum x y), (false, mulNum z w)]

/-- The product of two CF32 elements (R169). -/
def complexMul (m : Mode) (sat : Bool) (a b : Nat) : Res :=
  let ar := decodeNum .f32 (rePart a)
  let ai := decodeNum .f32 (imPart a)
  let br := decodeNum .f32 (rePart b)
  let bi := decodeNum .f32 (imPart b)
  let ops := [ar, ai, br, bi]
  complexRes (roundFl .f32 m sat (crossSub m ar br ai bi) ops) (roundFl .f32 m sat (crossAdd m ar bi ai br) ops)

/-- One part of VBFLY: a and two products, one exact expression, rounded once (R169). -/
def butterflyPart (m : Mode) (sat : Bool) (a : Num) (p q : Bool × (Num × Flags)) (ops : List Num) : Res :=
  roundFl .f32 m sat (exactSum m [(false, (a, 0)), p, q]) ops

/-- The two results of VBFLY (R215): a + w·b and a − w·b, the twiddle conjugated when `conj`. -/
def butterfly (m : Mode) (sat conj : Bool) (a b w : Nat) : Res × Res :=
  let ar := decodeNum .f32 (rePart a)
  let ai := decodeNum .f32 (imPart a)
  let br := decodeNum .f32 (rePart b)
  let bi := decodeNum .f32 (imPart b)
  let wr := decodeNum .f32 (rePart w)
  let wi0 := decodeNum .f32 (imPart w)
  let wi := if conj then wi0.flip else wi0
  let ops := [ar, ai, br, bi, wr, wi0]
  let re (minus : Bool) := butterflyPart m sat ar (minus, mulNum wr br) (!minus, mulNum wi bi) ops
  let im (minus : Bool) := butterflyPart m sat ai (minus, mulNum wr bi) (minus, mulNum wi br) ops
  (complexRes (re false) (im false), complexRes (re true) (im true))

/-! ## Frames of element-wise instructions -/

/-- One element of a frame: sources read, the result written, its flags set (R161). -/
def State.element (s : State) (w : Who) (d : BoundView) (dt : Ty) (idx : List Nat) (k : Nat) (r : Res) (fl : Flags) : Eff State := do
  let (s, wf) ← s.writeElem w d dt idx r.bits k
  .ok (s.setFlags (r.fl ||| fl ||| wf))

/-- The frame of R213: D from A and B, element by element; `f` also sees D's old element when `readsD`. -/
def binary (h : Hint) (dt at' bt : Ty) (readsD : Bool) (d a : Vreg) (b : Src) (f : Mode → Nat → Nat → Nat → Res) (s : State) :
    Host.Outcome State Fault Refusal :=
  issueVector s h fun w => do
    let m := s.mode h
    let vd ← bindView s w d true
    let va ← bindView s w a false
    let (vb, fb) ← bindSrc s w b bt m h.sat
    let views := va :: viewsOf [vb]
    let es ← matchedInto s vd.view (views.map (·.view))
    let lanes := min (min dt.lanes at'.lanes) bt.lanes
    let s ← stream (s.setFlags fb) es lanes fun k s => do
      let idx := indexOf es k
      let (s, x, fx) ← s.readElem w va at' idx k
      let (s, y, fy) ← s.readSrc w vb bt idx k
      let (s, z) ← (if readsD then do
          let (s, z, _) ← s.readElem w vd dt idx k
          .ok (s, z)
        else .ok (s, 0) : Eff (State × Nat))
      s.element w vd dt idx k (f m x y z) (fx ||| fy)
    .ok (s, captured (vd :: views))

/-- The frame of the unary instructions. -/
def unary (h : Hint) (dt at' : Ty) (d a : Vreg) (f : Mode → Nat → Res) (s : State) : Host.Outcome State Fault Refusal :=
  issueVector s h fun w => do
    let m := s.mode h
    let vd ← bindView s w d true
    let va ← bindView s w a false
    let es ← matchedInto s vd.view [va.view]
    let s ← stream s es (min dt.lanes at'.lanes) fun k s => do
      let idx := indexOf es k
      let (s, x, fx) ← s.readElem w va at' idx k
      s.element w vd dt idx k (f m x) fx
    .ok (s, captured [vd, va])

/-! ## Element-wise arithmetic (R213) -/

/-- VADD (R213). -/
def execVadd (h : Hint) (t : Ty) (d a : Vreg) (b : Src) (s : State) : Host.Outcome State Fault Refusal :=
  binary h t t t false d a b
    (fun m x y _ => arith (fun a b _ => a + b) (fun m a b _ => addNum m a b) false t m h.sat x y 0) s
/-- VSUB (R213). -/
def execVsub (h : Hint) (t : Ty) (d a : Vreg) (b : Src) (s : State) : Host.Outcome State Fault Refusal :=
  binary h t t t false d a b
    (fun m x y _ => arith (fun a b _ => a - b) (fun m a b _ => subNum m a b) false t m h.sat x y 0) s
/-- VMUL (R213). -/
def execVmul (h : Hint) (t : Ty) (d a : Vreg) (b : Src) (s : State) : Host.Outcome State Fault Refusal :=
  binary h t t t false d a b
    (fun m x y _ => arith (fun a b _ => a * b) (fun _ a b _ => mulNum a b) false t m h.sat x y 0) s
/-- VFMA (R213): D is read and written, rounded once (R167). -/
def execVfma (h : Hint) (t : Ty) (d a : Vreg) (b : Src) (s : State) : Host.Outcome State Fault Refusal :=
  binary h t t t true d a b (fun m x y z => arith (fun a b d => a * b + d) fmaNum true t m h.sat x y z) s
/-- VMIN (R213). -/
def execVmin (h : Hint) (t : Ty) (d a : Vreg) (b : Src) (s : State) : Host.Outcome State Fault Refusal :=
  binary h t t t false d a b (fun _ x y _ => minMax t false x y) s
/-- VMAX (R213). -/
def execVmax (h : Hint) (t : Ty) (d a : Vreg) (b : Src) (s : State) : Host.Outcome State Fault Refusal :=
  binary h t t t false d a b (fun _ x y _ => minMax t true x y) s
/-- VABS (R213). -/
def execVabs (h : Hint) (t : Ty) (d a : Vreg) (s : State) : Host.Outcome State Fault Refusal :=
  unary h t t d a (fun _ x => signElem false t h.sat x) s
/-- VNEG (R213). -/
def execVneg (h : Hint) (t : Ty) (d a : Vreg) (s : State) : Host.Outcome State Fault Refusal :=
  unary h t t d a (fun _ x => signElem true t h.sat x) s

/-! ## Complex arithmetic (R214, R215) -/

/-- The operand of a VIEW or REG field as a source. -/
def ViewReg.src (b : ViewReg) : Src :=
  match b with
  | .view v => .view v
  | .reg r => .reg r

/-- VCMUL (R214). -/
def execVcmul (h : Hint) (d a : Vreg) (b : ViewReg) (s : State) : Host.Outcome State Fault Refusal :=
  binary h .cf32 .cf32 .cf32 false d a (ViewReg.src b) (fun m x y _ => complexMul m h.sat x y) s

/-- VBFLY (R215). Both writes of an element are checked before either is made (R209). -/
def execVbfly (h : Hint) (d a : Vreg) (b : Imm) (s : State) : Host.Outcome State Fault Refusal :=
  issueVector s h fun w => do
    let m := s.mode h
    let c := (immWord b).toNat
    let vd ← bindView s w d true
    let va ← bindView s w a false
    let top := vd.view.rank - 1
    need s (c ≤ 1 && 2 ≤ vd.view.rank && vd.view.extent top == 2
      && (upto 4).all fun k => k < top || va.view.extent k == 1)
    let inner : View := { vd.view with rank := top, ext := vd.view.ext.set top 1 }
    let es ← matchedInto s inner [va.view]
    let s ← stream s es Ty.cf32.lanes fun k s => do
      let idx := indexOf es k
      let i0 := idx.set top 0
      let i1 := idx.set top 1
      let (s, x, _) ← s.readElem w vd .cf32 i0 k
      let (s, y, _) ← s.readElem w vd .cf32 i1 k
      let (s, z, _) ← s.readElem w va .cf32 idx k
      let r := butterfly m h.sat (c == 1) x y z
      let (s, _, _, _) ← s.elemCheck w vd (elemOf vd .cf32 i1) .write k
      let s ← s.element w vd .cf32 i0 k r.1 0
      s.element w vd .cf32 i1 k r.2 0
    .ok (s, captured [vd, va])

/-! ## Reductions and scans (R216, R217) -/

/-- The value before the first element. -/
def RunVal.zero : RunVal := ⟨0, Xa.zero, 0, 0⟩

/-- Every value of type `t` is one of `u`, of the same kind (Table 10.4, SUM.ORD). -/
def widens (t u : Ty) : Bool :=
  t == u
  || (t.isInt && u.isInt && t.isSignedInt == u.isSignedInt && t.width < u.width)
  || (match t, u with
    | .e4m3, .f16 | .e4m3, .bf16 | .e4m3, .f32 | .e4m3, .f64 | .e5m2, .f16 | .e5m2, .bf16 | .e5m2, .f32
    | .e5m2, .f64 | .f16, .f32 | .f16, .f64 | .bf16, .f32 | .bf16, .f64 | .f32, .f64 => true
    | _, _ => false)

/-- Table 10.4: the types that a mode accepts. -/
def reduceTypes (mode : Nat) (t u : Ty) : Bool :=
  match mode with
  | 0 => t.code ≤ 13 && widens t u
  | 1 => [0, 1, 2, 3, 5, 7, 8, 9, 10, 11].contains t.code && u.isFloat
  | 2 | 3 => t.code ≤ 12 && u == t
  | 4 | 5 | 6 | 7 => t.isFloat && u == t
  | 8 | 9 | 10 => t.isInt && u == t
  | _ => false

/-- One step of SUM.ORD (R168): the element converted exactly, then added and rounded. -/
def sumStep (t u : Ty) (m : Mode) (sat : Bool) (r : RunVal) (b : Nat) : RunVal :=
  if t.isInt then
    let v := if r.seen = 0 then intIn t b else narrowInt (intIn u r.bits + intIn t b) u sat
    { r with bits := wrapNat v u.width, seen := r.seen + 1 }
  else if t = .cf32 then
    if r.seen = 0 then
      { r with bits := keep .f32 (rePart b) + keep .f32 (imPart b) * 2 ^ 32, seen := 1
               fl := sigFlag [decodeNum .f32 (rePart b), decodeNum .f32 (imPart b)] }
    else
      let v := arith (fun a b _ => a + b) (fun m a b _ => addNum m a b) false .cf32 m sat r.bits b 0
      { r with bits := v.bits, seen := r.seen + 1, fl := r.fl ||| v.fl }
  else
    let e := convert t u b m sat
    if r.seen = 0 then { r with bits := e.bits, seen := 1, fl := e.fl }
    else
      let v := arith (fun a b _ => a + b) (fun m a b _ => addNum m a b) false u m sat r.bits e.bits 0
      { r with bits := v.bits, seen := r.seen + 1, fl := r.fl ||| v.fl ||| e.fl }

/-- One step of MAXI, MINI and ABSMAXI (Table 10.4): NaN elements are passed over. -/
def pickStep (t : Ty) (max : Bool) (r : RunVal) (b : Nat) : RunVal :=
  let x := decodeNum t b
  let fl := r.fl ||| sigFlag [x]
  if x.isNan then { r with fl := fl, bits := if r.seen = 0 then canonNaN t else r.bits }
  else if r.seen = 0 then { r with bits := b, seen := 1, fl := fl }
  else { r with bits := (minMax t max r.bits b).bits, seen := r.seen + 1, fl := fl }

/-- One step of a reduction mode. -/
def reduceStep (mode : Nat) (t u : Ty) (m : Mode) (sat : Bool) (r : RunVal) (b : Nat) : RunVal :=
  let first := r.seen == 0
  let mm (max : Bool) (b : Nat) : RunVal :=
    let v := if first then minMax t max b b else minMax t max r.bits b
    { r with bits := v.bits, seen := r.seen + 1, fl := r.fl ||| v.fl }
  let bits (f : Nat → Nat → Nat) : RunVal := { r with bits := if first then b else f r.bits b, seen := r.seen + 1 }
  let abs := if t.isFloat then (if (decodeNum t b).isNan then b else b % 2 ^ (t.width - 1)) else b
  match mode with
  | 0 => sumStep t u m sat r b
  | 1 => { r with xa := r.xa.add (decodeNum t b), seen := r.seen + 1 }
  | 2 => mm true b
  | 3 => mm false b
  | 4 => mm true abs
  | 5 => pickStep t true r b
  | 6 => pickStep t false r b
  | 7 => pickStep t true r abs
  | 8 => bits (· &&& ·)
  | 9 => bits (· ||| ·)
  | _ => bits (· ^^^ ·)

/-- The result that a running value stands for. -/
def reduceOut (mode : Nat) (u : Ty) (sat : Bool) (r : RunVal) : Res := if mode = 1 then r.xa.read u sat else ⟨r.bits, r.fl⟩

/-- The order in which a reduction takes its elements: for SUM.ORD by steps within groups of `g` rows (R217), else
row by row. Position `p` gives the row, the element of the row, and the place of the row in its group. -/
def reducePlace (ord : Bool) (e0 rows g p : Nat) : Nat × Nat × Nat :=
  if ord then
    let grp := p / (e0 * g)
    let size := min g (rows - grp * g)
    let q := p - grp * (e0 * g)
    (grp * g + q % size, q / size, q % size)
  else (p / e0, p % e0, 0)

/-- The step of a position of SUM.ORD, counted through its groups (R217): a step is one pass of the vector unit. -/
def stepOf (e0 rows g p : Nat) : Nat :=
  let grp := p / (e0 * g)
  grp * e0 + (p - grp * (e0 * g)) / min g (rows - grp * g)

/-- The position at which SUM.ORD stops when `q - 1` more steps are left (R217). -/
def stepLimit (e0 rows g start q : Nat) : Nat :=
  if q = 0 then rows * e0
  else
    let steps := stepOf e0 rows g start + (q - 1)
    let grp' := steps / e0
    max start (min (rows * e0) (grp' * (e0 * g) + steps % e0 * min g (rows - grp' * g)))

/-- The walk of a reduction from position `p` on, with the running values of the rows of the group. -/
def reduceWalk (f : Nat → State → List RunVal → Eff (State × List RunVal)) (ordOf : Nat → Nat) :
    Nat → Nat → State → List RunVal → Eff (State × List RunVal)
  | 0, _, s, run => .ok (s, run)
  | n + 1, p, s, run =>
    match f p s run with
    | .ok (s, run) => reduceWalk f ordOf n (p + 1) s run
    | .error e => .error (keepResume (.elem p run) e)

/-- VRED and VSCAN (R216, R217). `out` writes the result of a row (at element `i` of it) or does nothing. -/
def reduce (s : State) (mode : Nat) (t u : Ty) (m : Mode) (sat : Bool) (w : Who) (va : BoundView)
    (out : State → Nat → Nat → RunVal → Nat → Eff State) : Eff State := do
  let es := (upto 4).map va.view.extent
  let e0 := es.getD 0 1
  let rows := elements es / e0
  let ord := mode == 0
  let g := u.lanes
  let (start, run) := startOf s
  let limit := if ord then stepLimit e0 rows g start s.cur.quota
    else passLimit e0 (min t.lanes u.lanes) (rows * e0) start s.cur.quota
  let ordinal (p : Nat) : Nat := let q := reducePlace ord e0 rows g p; q.1 * e0 + q.2.1
  let pass (p : Nat) : Nat := if ord then stepOf e0 rows g p else passOf e0 (min t.lanes u.lanes) p
  let (s, run) ← reduceWalk (fun p s run => laned s.cur.lanes pass p (ordinal p) s fun s => do
      let (row, i, place) := reducePlace ord e0 rows g p
      let k := row * e0 + i
      let (s, x, _) ← s.readElem w va t (indexOf es k) k
      let old := if i = 0 then RunVal.zero else run.getD place .zero
      let new := reduceStep mode t u m sat old x
      let s ← out s row i new k
      let slots := if run.length ≤ place then run ++ List.replicate (place + 1 - run.length) .zero else run
      .ok (s, slots.set place new)) ordinal (limit - start) start s run
  if limit < rows * e0 then wdogStop s limit (ordinal limit) run else .ok s

/-- The mode and destination type that B names (R216). -/
def reduceImm (s : State) (b : Imm) (t : Ty) : Eff (Nat × Ty) := do
  let n := (immWord b).toNat
  need s (n < 256)
  let u := Ty.ofCode (n / 16)
  need s (n % 16 ≤ 10 && reduceTypes (n % 16) t u)
  .ok (n % 16, u)

/-- An x register written with an element of type `u` as FCVT writes it (R190). -/
def State.putElem (s : State) (d : Reg) (u : Ty) (bits : Nat) : State :=
  s.setX d (if u.isInt then wordOfInt (intIn u bits) else word bits)

/-- VRED (R216). -/
def execVred (h : Hint) (t : Ty) (d : ViewReg) (a : Vreg) (b : Imm) (s : State) : Host.Outcome State Fault Refusal :=
  issueVector s h fun w => do
    let (mode, u) ← reduceImm s b t
    let m := s.mode h
    let va ← bindView s w a false
    let e0 := va.view.extent 0
    match d with
    | .view v => do
      let vd ← bindView s w v true
      need s (vd.view.extent 0 == 1 && (upto 4).all fun k => k == 0 || vd.view.extent k == va.view.extent k)
      let es := (upto 4).map vd.view.extent
      let s ← reduce s mode t u m h.sat w va fun s row i r k =>
        if i + 1 = e0 then
          let v := reduceOut mode u h.sat r
          s.element w vd u (indexOf es row) k v 0
        else .ok s
      .ok (s, captured [va, vd])
    | .reg r => do
      need s (elements ((upto 4).map va.view.extent) == e0)
      let s ← reduce s mode t u m h.sat w va fun s _ i v _ =>
        if i + 1 = e0 then
          let o := reduceOut mode u h.sat v
          .ok ((s.putElem r u o.bits).setFlags o.fl)
        else .ok s
      .ok (s, captured [va])

/-- VSCAN (R216). -/
def execVscan (h : Hint) (t : Ty) (d a : Vreg) (b : Imm) (s : State) : Host.Outcome State Fault Refusal :=
  issueVector s h fun w => do
    let (mode, u) ← reduceImm s b t
    let va ← bindView s w a false
    let vd ← bindView s w d true
    let es := (upto 4).map va.view.extent
    need s (es == (upto 4).map vd.view.extent)
    let s ← reduce s mode t u (s.mode h) h.sat w va fun s _ _ r k =>
      let v := reduceOut mode u h.sat r
      s.element w vd u (indexOf es k) k v 0
    .ok (s, captured [va, vd])

/-! ## Compare, select, copy, fill, index, transpose -/

/-- VCMP (R218): the destination's elements are one byte. -/
def execVcmp (h : Hint) (t : Ty) (cond : Cond) (d a : Vreg) (b : Src) (s : State) : Host.Outcome State Fault Refusal :=
  binary h .u8 t t false d a b
    (fun _ x y _ =>
      let p := decodeNum t x
      let q := decodeNum t y
      ⟨boolNat (condHolds cond p q), condFlags cond p q⟩) s

/-- VSEL (R219). An element that is not written is still checked as a write. -/
def execVsel (h : Hint) (t : Ty) (d : Vreg) (a : Src) (b : Vreg) (s : State) : Host.Outcome State Fault Refusal :=
  issueVector s h fun w => do
    let vd ← bindView s w d true
    let (va, fa) ← bindSrc s w a t (s.mode h) false
    let vm ← bindView s w b false
    let views := vm :: viewsOf [va]
    let es ← matchedInto s vd.view (views.map (·.view))
    let s ← stream (s.setFlags fa) es (min t.lanes Ty.u8.lanes) fun k s => do
      let idx := indexOf es k
      let (s, x, fx) ← s.readSrc w va t idx k
      let (s, c, _) ← s.readElem w vm .u8 idx k
      if c = 0 then
        let (s, _, _, _) ← s.elemCheck w vd (elemOf vd t idx) .write k
        .ok s
      else s.element w vd t idx k ⟨x, 0⟩ fx
    .ok (s, captured (vd :: views))

/-- VCOPY (R220). -/
def execVcopy (h : Hint) (t : Ty) (d a : Vreg) (s : State) : Host.Outcome State Fault Refusal :=
  unary h t t d a (fun _ x => ⟨x, 0⟩) s

/-- The frame of a vector instruction without source views: the value of an element by index and ordinal. -/
def fillWith (h : Hint) (t : Ty) (d : Vreg) (pre : State → Eff Unit) (fl : State → Flags)
    (f : State → List Nat → Nat → Res) (s : State) : Host.Outcome State Fault Refusal :=
  issueVector s h fun w => do
    pre s
    let vd ← bindView s w d true
    let es ← matchedInto s vd.view []
    let value := f s
    let s ← stream (s.setFlags (fl s)) es t.lanes fun k s => do
      let idx := indexOf es k
      s.element w vd t idx k (value idx k) 0
    .ok (s, captured [vd])

/-- VFILL (R220): the scalar of R204, its flags set once. -/
def execVfill (h : Hint) (t : Ty) (d : Vreg) (a : RegImm) (s : State) : Host.Outcome State Fault Refusal :=
  fillWith h t d (fun _ => .ok ()) (fun s => (scalarOf s a t (s.mode h) h.sat).fl)
    (fun s _ _ => ⟨(scalarOf s a t (s.mode h) h.sat).bits, 0⟩) s

/-- VIDX (R221). -/
def execVidx (h : Hint) (t : Ty) (d : Vreg) (a : Imm) (s : State) : Host.Outcome State Fault Refusal :=
  let k := (immWord a).toNat
  fillWith h t d (fun s => need s (k ≤ 4)) (fun _ => 0)
    (fun s idx ord =>
      let v : Int := if k = 4 then (ord : Int) else (idx.getD k 0 : Int)
      if t.isInt then ⟨narrowBits v t h.sat, 0⟩ else round (.ofInt v) t (s.mode h) h.sat) s

/-- VTRANS (R222). -/
def execVtrans (h : Hint) (t : Ty) (d a : Vreg) (s : State) : Host.Outcome State Fault Refusal :=
  issueVector s h fun w => do
    let vd ← bindView s w d true
    let va ← bindView s w a false
    let es := (upto 4).map vd.view.extent
    let swap (l : List Nat) : List Nat := [l.getD 1 1, l.getD 0 1, l.getD 2 1, l.getD 3 1]
    need s ((upto 4).map va.view.extent == swap es)
    let s ← stream s es t.lanes fun k s => do
      let idx := indexOf es k
      let (s, x, _) ← s.readElem w va t (swap idx) k
      s.element w vd t idx k ⟨x, 0⟩ 0
    .ok (s, captured [vd, va])

/-! ## Gather and scatter (R223 to R225) -/

/-- The mask of a gather's resume point, the elements that have failed to translate, the element numbers that its checks have found. -/
def maskOf (s : State) : Nat × List (Nat × Nat) × List Int :=
  match s.regs.resume with
  | .mask m failed elems => (m, failed, elems)
  | _ => (0, [], [])

/-- A fault of an indexed element carries its ordinal and the mask (R209); while another chip's answer is awaited, the resume
point also has what has failed to translate and what the checks have found. -/
def withMask (m : Nat) (failed : List (Nat × Nat)) (elems : List Int) (k : Nat) : State × Stop → State × Stop
  | (s, .trap t) => keepResume (.mask m [] []) (s, .trap { t with ord := k, emask := m })
  | (s, .wait) => keepResume (.mask m failed elems) (s, .wait)
  | (s, st) => keepResume (.mask m [] []) (s, st)

/-- Steps 1 to 5 of R53 for the indexed element `e` (R224 step 1). Of a buffer of another chip its home has judged steps 1 to 4, which
are one for all its elements. -/
def indexedCheck (s : State) (w : Who) (c : CapOp) (t : Ty) (acc : Access) (e : Int) (k : Nat) : Eff Unit :=
  let cap := s.c c.c.toNat
  let off := e * t.size
  match s.checkCap (s.tile s.cur.tile).core.vcache w.kernel.supv cap acc off t.size, cap with
  | .fault sub, _ => capFault s c.c.toNat cap (s.recordVa cap off) k sub
  | .held, _ => .error (s, .stall)
  | _, none => capFault s c.c.toNat cap 0 k cRights
  | .away, some q => if off < 0 ∨ (q.bytes : Int) < off + t.size then capFault s c.c.toNat cap 0 k cBounds else .ok ()
  | .ok _, some _ => .ok ()

/-- The operands of a gather or scatter: the indexed operand, the element type, the index view and the other view, how the
indexed and the other elements are accessed, the extents. -/
structure GatherArgs where
  c : CapOp
  t : Ty
  vi : BoundView
  vx : BoundView
  acc : Access
  other : Access
  es : List Nat
deriving DecidableEq, Repr

/-- The element number of ordinal `k`, from the index view (R223). -/
def gatherIndex (s : State) (w : Who) (a : GatherArgs) (k : Nat) : Eff (State × Int) := do
  let (s, i, _) ← s.readElem w a.vi .i32 (indexOf a.es k) k
  .ok (s, CapOp.index a.c s.regs + signExtend i 32)

/-- R53 for the element of the other view. -/
def gatherOther (s : State) (w : Who) (a : GatherArgs) (k : Nat) : Eff State := do
  let (s, _, _, _) ← s.elemCheck w a.vx (elemOf a.vx a.t (indexOf a.es k)) a.other k
  .ok s

/-- R224 step 1 for one element: the index read, the source checked, the destination checked. -/
def gatherCheck (s : State) (w : Who) (a : GatherArgs) (k : Nat) : Eff (State × Int) := do
  let (s, e) ← gatherIndex s w a k
  if a.acc == .read then
    indexedCheck s w a.c a.t a.acc e k
    let s ← gatherOther s w a k
    .ok (s, e)
  else
    let s ← gatherOther s w a k
    indexedCheck s w a.c a.t a.acc e k
    .ok (s, e)

/-- The checks of R224 step 1 for the elements that are not yet performed. The index view is read in passes, which the shadow lane
checks (R457). -/
def gatherChecks (s : State) (w : Who) (a : GatherArgs) (m : Nat) : List Nat → List Int → Eff (State × List Int)
  | [], out => .ok (s, out.reverse)
  | k :: ks, out =>
    match laned s.cur.lanes (passOf (a.es.getD 0 1) Ty.i32.lanes) k k s fun s => gatherCheck s w a k with
    | .ok (s', e) => gatherChecks s' w a m ks (e :: out)
    | .error e => if bit m k then gatherChecks s w a m ks (0 :: out) else .error (withMask m [] [] k e)

/-- R55, R224 step 1: the home of a buffer of another chip is asked about steps 1 to 4 of R53, with an access of no bytes. What fails
there fails at the first element, behind the checks of that element that come before (log 95). -/
def gatherHome (s : State) (w : Who) (a : GatherArgs) (cap : Cap) (m n : Nat) : Eff State :=
  if cap.chip = s.chip then .ok s
  else
    let first := ((upto n).find? fun k => !bit m k).getD 0
    let before : Eff (State × Int) := do
      let (s, e) ← gatherIndex s w a first
      if a.acc == .read then .ok (s, e)
      else
        let s ← gatherOther s w a first
        .ok (s, e)
    match before with
    | .error e => .error (withMask m [] [] first e)
    | .ok (s, _) =>
      match s.askRemote w (.access cap 0 (if a.acc == .write then some [] else none) 0) a.c.c.toNat (some cap) with
      | .ok (s, _) => .ok s
      | .error e => .error (withMask m [] [] first e)

/-- R224 step 1: the element numbers of all elements, when every check passes; those of an earlier issue of the instruction that
waited for another chip stand. -/
def gatherElems (s : State) (w : Who) (a : GatherArgs) (m n : Nat) (known : List Int) : Eff (State × List Int) :=
  if known ≠ [] then .ok (s, known)
  else
    match s.c a.c.c.toNat with
    | none => gatherChecks s w a m (upto n) []
    | some cap => do
      let s ← gatherHome s w a cap m n
      gatherChecks s w a m (upto n) []

/-- What the elements of a gather have come to: the mask, the ordinals that failed to translate with their subcodes, the guest
pages that stage two lacks, the lowest ordinal on a rejected page. -/
structure Gathered where
  mask : Nat
  failed : List (Nat × Nat)
  misses : List Nat
  rejected : Option Nat
deriving DecidableEq, Repr

/-- R474: an address depends on a guest page whose rejection the instruction is to fault on. -/
def State.onRejected (s : State) (w : Who) (va : Nat) : Bool :=
  !s.ctx.run.rejected.isEmpty && (s.guestRefs w.part w.kernel.xlat va).any fun g => s.ctx.run.rejected.contains (guestPage g)

/-- R224 step 2 for one element. `perform` reads or writes it at its place. One that fails to translate, here or at its home
on another chip, waits for the end (R225). -/
def gatherOne (s : State) (w : Who) (c : CapOp) (wr : Bool) (cap : Cap) (off : Nat) (g : Gathered) (k : Nat)
    (elems : List Int) (perform : State → Loc → Eff State) : Eff (State × Gathered) :=
  let va := s.windowBase cap + off
  let at' : Eff (State × Loc) :=
    if cap.chip ≠ s.chip then .ok (s, .away off)
    else (s.validated s.cur.tile w.pnum cap).resolve w va wr false c.c.toNat (some cap) k
  let failed (s : State) (t : Trap) : Eff (State × Gathered) :=
    if t.code = cXlate then .ok (s, { g with failed := g.failed ++ [(k, t.sub)] })
    else if t.code = cStage2 then .ok (s, { g with rejected := g.rejected.orElse fun _ => some k })
    else .error (withMask g.mask g.failed elems k (s, .trap t))
  if cap.chip = s.chip ∧ s.onRejected w va then .ok (s, { g with rejected := g.rejected.orElse fun _ => some k })
  else
    match at' with
    | .ok (s, l) =>
      match perform s l with
      | .ok s => .ok (s, { g with mask := g.mask + 2 ^ k })
      | .error (s, .trap t) => failed s t
      | .error e => .error (withMask g.mask g.failed elems k e)
    | .error (s, .trap t) => failed s t
    | .error (s, .park (.pages _ ps)) => .ok (s, { g with misses := (ps ++ g.misses).eraseDups })
    | .error e => .error (withMask g.mask g.failed elems k e)

/-- The elements performed one after another. -/
def gatherAll (w : Who) (c : CapOp) (wr : Bool) (cap : Cap) (t : Ty) (xs : List Int)
    (perform : Nat → State → Loc → Eff State) : List Nat → State → Gathered → Eff (State × Gathered)
  | [], s, g => .ok (s, g)
  | k :: ks, s, g =>
    if bit g.mask k || g.failed.any fun f => f.1 == k then gatherAll w c wr cap t xs perform ks s g
    else
      match gatherOne s w c wr cap (xs.getD k 0 * t.size).toNat g k xs (perform k) with
      | .ok (s, g) => gatherAll w c wr cap t xs perform ks s g
      | .error e => .error e

/-- How a gather or scatter ends (R225, R474): a rejected page faults at its lowest ordinal, pages that miss park the
task, a failed translation faults at the lowest such ordinal. -/
def gatherEnd (s : State) (w : Who) (c : CapOp) (cap : Cap) (t : Ty) (xs : List Int) (g : Gathered) : Eff State :=
  let fault (code sub k : Nat) : Eff State :=
    let va := s.recordVa (some cap) (xs.getD k 0 * t.size)
    .error (withMask g.mask [] [] k (s, .trap ⟨code, sub, c.c.toNat, some cap, va, k, g.mask⟩))
  if g.rejected.isSome then fault cStage2 0 (g.rejected.getD 0)
  else if g.misses ≠ [] then
    .error (keepResume (.mask g.mask [] []) (s, .park (.pages w.kernel.vf g.misses)))
  else
    match g.failed with
    | [] => .ok s
    | f :: fs => let x := fs.foldl (fun (b x : Nat × Nat) => if x.1 < b.1 then x else b) f; fault cXlate x.2 x.1

/-- The bytes of an indexed element: from this chip, or from the answer of another one (R285). -/
def State.indexedBytes (s : State) (w : Who) (c : CapOp) (cap : Cap) (off n : Nat) (l : Loc) : Eff (State × List Byte) :=
  match l with
  | .fabric fa => do
    let (s, bs) ← s.askRemote w (.fabric fa none n) c.c.toNat (some cap)
    .ok (s, s.logged .fabric fa bs)
  | .away off => do
    let (s, bs) ← s.askRemote w (.access cap off none n) c.c.toNat (some cap)
    .ok (s, s.logged (farPlace cap off).1 (farPlace cap off).2 bs)
  | .phys a => do
    waitWhile s (s.readBusy a n || s.opBusy s.cur.tile (s.windowBase cap + off) n)
    let s ← s.eccCheck w a n (s.windowBase cap + off) c.c.toNat (some cap) 0
    let s := s.markRead (some cap) a n
    .ok (s, s.seen a n)

/-- An indexed element written; while the task speculates, into its store log, when its home on another chip has checked it (R212, R285). -/
def State.putIndexed (s : State) (w : Who) (c : CapOp) (cap : Cap) (off : Nat) (bs : List Byte) (l : Loc) : Eff State :=
  match l with
  | .fabric fa =>
    if s.ctx.spec.on then do
      let (s, _) ← s.askRemote w (.fabric fa (some []) bs.length) c.c.toNat (some cap)
      s.logWrite .fabric cap off fa bs
    else do
      let (s, _) ← s.askRemote w (.fabric fa (some bs) bs.length) c.c.toNat (some cap)
      .ok s
  | .away off =>
    if s.ctx.spec.on then do
      let (s, _) ← s.askRemote w (.access cap off (some []) bs.length) c.c.toNat (some cap)
      s.logWrite (farPlace cap off).1 cap off (farPlace cap off).2 bs
    else do
      let (s, _) ← s.askRemote w (.access cap off (some bs) bs.length) c.c.toNat (some cap)
      .ok s
  | .phys a => do
    waitWhile s (s.writeBusy a bs.length || s.opBusy s.cur.tile (s.windowBase cap + off) bs.length)
    s.writeOut cap off a bs

/-- VGATHER (R223 to R225). -/
def execVgather (h : Hint) (t : Ty) (d : Vreg) (a : CapOp) (b : Vreg) (s : State) : Host.Outcome State Fault Refusal :=
  issueVector s h fun w => do
    let vd ← bindView s w d true
    let vi ← bindView s w b false
    let es ← matchedInto s vd.view [vi.view]
    let n := elements es
    need s (n ≤ 64)
    let (m, failed, known) := maskOf s
    let (s, xs) ← gatherElems s w ⟨a, t, vi, vd, .read, .write, es⟩ m n known
    match s.c a.c.toNat with
    | none => capFault s a.c.toNat none 0 0 cRights
    | some cap => do
      let (s, g) ← gatherAll w a false cap t xs (fun k s l => do
          let (s, bs) ← s.indexedBytes w a cap (xs.getD k 0 * t.size).toNat t.size l
          s.element w vd t (indexOf es k) k ⟨leNat bs, 0⟩ 0) (upto n) s ⟨m, failed, [], none⟩
      let s ← gatherEnd s w a cap t xs g
      .ok (s, a.c.toNat :: captured [vd, vi])

/-- R224 step 4: another element with a higher ordinal addresses the same bytes. -/
def shadowed (xs : List Int) (k : Nat) : Bool := (xs.drop (k + 1)).any fun x => x == xs.getD k 0

/-- VSCATTER (R223 to R225). -/
def execVscatter (h : Hint) (t : Ty) (d : CapOp) (a b : Vreg) (s : State) : Host.Outcome State Fault Refusal :=
  issueVector s h fun w => do
    let va ← bindView s w a false
    let vi ← bindView s w b false
    let es ← (match matched [va.view, vi.view] with
      | some es => .ok es
      | none => raise s cIllopnd 0 : Eff (List Nat))
    let n := elements es
    need s (n ≤ 64)
    let (m, failed, known) := maskOf s
    let (s, xs) ← gatherElems s w ⟨d, t, vi, va, .write, .read, es⟩ m n known
    match s.c d.c.toNat with
    | none => capFault s d.c.toNat none 0 0 cRights
    | some cap => do
      let dup := (upto n).foldl (fun m k => if !bit m k && shadowed xs k then m + 2 ^ k else m) m
      let (s, g) ← gatherAll w d true cap t xs (fun k s l => do
          let (s, v, _) ← s.readElem w va t (indexOf es k) k
          s.putIndexed w d cap (xs.getD k 0 * t.size).toNat (leBytes t.size v) l) (upto n) s ⟨dup, failed, [], none⟩
      let s ← gatherEnd s w d cap t xs g
      .ok (s, d.c.toNat :: captured [va, vi])

/-! ## Block scaling (R226, R171) -/

/-- x × 2^k, exact. -/
def Num.scale (x : Num) (k : Int) : Num := match x with | .fin s m e => .fin s m (e + k) | v => v

/-- VSCALE of an element by an E8M0 scale (R171). -/
def scaleElem (t : Ty) (m : Mode) (sat : Bool) (x scale : Nat) : Res :=
  if scale = 255 then ⟨canonNaN t, fInvalid⟩
  else
    let v := decodeNum t x
    roundFl t m sat (v.scale ((scale : Int) - 127), 0) [v]

/-- VQUANT of an FP32 element by an E8M0 scale (R171, R226). -/
def quantElem (t : Ty) (m : Mode) (sat : Bool) (x scale : Nat) : Res :=
  let v := decodeNum .f32 x
  if t.isInt then
    if scale = 255 then ⟨0, fInvalid⟩
    else
      let r := toInt (v.scale (127 - (scale : Int))) t m
      ⟨wrapNat r.1 t.width, r.2⟩
  else if scale = 255 then ⟨canonNaN t, fInvalid⟩
  else roundFl t m sat (v.scale (127 - (scale : Int)), 0) [v]

/-- VSCALE (R226). -/
def execVscale (h : Hint) (t : Ty) (d a b : Vreg) (s : State) : Host.Outcome State Fault Refusal :=
  binary h t t .e8m0 false d a (.view b) (fun m x y _ => scaleElem t m h.sat x y) s

/-- VQUANT (R226). -/
def execVquant (h : Hint) (t : Ty) (d a b : Vreg) (s : State) : Host.Outcome State Fault Refusal :=
  binary h t .f32 .e8m0 false d a (.view b) (fun m x y _ => quantElem t m h.sat x y) s

/-! ## Bit operations (R227) -/

/-- The frame of the binary bit operations. -/
def bitBinary (h : Hint) (t : Ty) (d a : Vreg) (b : Src) (f : Nat → Nat → Nat) (s : State) : Host.Outcome State Fault Refusal :=
  binary h t t t false d a b (fun _ x y _ => ⟨f x y, 0⟩) s

/-- The frame of the unary bit operations. -/
def bitUnary (h : Hint) (t : Ty) (d a : Vreg) (f : Nat → Nat → Nat) (s : State) : Host.Outcome State Fault Refusal :=
  unary h t t d a (fun _ x => ⟨f t.width x, 0⟩) s

/-- VAND (R227). -/
def execVand (h : Hint) (t : Ty) (d a : Vreg) (b : Src) (s : State) : Host.Outcome State Fault Refusal :=
  bitBinary h t d a b (fun x y => x &&& y) s
/-- VOR (R227). -/
def execVor (h : Hint) (t : Ty) (d a : Vreg) (b : Src) (s : State) : Host.Outcome State Fault Refusal :=
  bitBinary h t d a b (fun x y => x ||| y) s
/-- VXOR (R227). -/
def execVxor (h : Hint) (t : Ty) (d a : Vreg) (b : Src) (s : State) : Host.Outcome State Fault Refusal :=
  bitBinary h t d a b (fun x y => x ^^^ y) s
/-- VNOT (R227). -/
def execVnot (h : Hint) (t : Ty) (d a : Vreg) (s : State) : Host.Outcome State Fault Refusal :=
  bitUnary h t d a (fun w x => 2 ^ w - 1 - x) s
/-- VSHL (R227). -/
def execVshl (h : Hint) (t : Ty) (d a : Vreg) (b : Src) (s : State) : Host.Outcome State Fault Refusal :=
  bitBinary h t d a b (fun x y => x * 2 ^ (y % t.width) % 2 ^ t.width) s
/-- VSHR (R227). -/
def execVshr (h : Hint) (t : Ty) (d a : Vreg) (b : Src) (s : State) : Host.Outcome State Fault Refusal :=
  bitBinary h t d a b (fun x y => x / 2 ^ (y % t.width)) s
/-- VSRA (R227). -/
def execVsra (h : Hint) (t : Ty) (d a : Vreg) (b : Src) (s : State) : Host.Outcome State Fault Refusal :=
  bitBinary h t d a b (fun x y => wrapNat ((signExtend x t.width).fdiv (2 ^ (y % t.width))) t.width) s
/-- VPOPC (R227). -/
def execVpopc (h : Hint) (t : Ty) (d a : Vreg) (s : State) : Host.Outcome State Fault Refusal := bitUnary h t d a popcount s
/-- VCLZ (R227). -/
def execVclz (h : Hint) (t : Ty) (d a : Vreg) (s : State) : Host.Outcome State Fault Refusal := bitUnary h t d a clzBits s
/-- VCTZ (R227). -/
def execVctz (h : Hint) (t : Ty) (d a : Vreg) (s : State) : Host.Outcome State Fault Refusal := bitUnary h t d a ctzBits s
/-- VBREV (R227). -/
def execVbrev (h : Hint) (t : Ty) (d a : Vreg) (s : State) : Host.Outcome State Fault Refusal := bitUnary h t d a brevBits s

/-- VFNS (R227): n is B read as unsigned at full width. -/
def execVfns (h : Hint) (t : Ty) (d a : Vreg) (b : Src) (s : State) : Host.Outcome State Fault Refusal :=
  let full : Option Nat := match b with
    | .view _ => none
    | .reg r => some (s.x r).toNat
    | .imm i => some (immWord i).toNat
  bitBinary h t d a b (fun x y => fnsBits t.width x (full.getD y)) s

/-! ## Conversion and special functions (R228, R229) -/

/-- Whether VCVT from `src` to `t` is allowed (R228). -/
def cvtAllowed (src t : Ty) (sat : Bool) : Bool :=
  let whole (x : Ty) : Bool := x.isInt || x == .t5
  t != .cf32 && !(whole src && t == .e8m0) && !(src == .e8m0 && whole t) && !(t == .t5 && src.isFloat)
  && !(sat && src.isFloat && t.isInt)

/-- The source type that VCVT's B names. -/
def vcvtSource (b : Imm) : Option Ty :=
  let n := (immWord b).toNat
  if n ≤ 15 ∧ n ≠ 13 then some (Ty.ofCode n) else none

/-- An element converted (Table 8.4): trits as −1, 0, +1; an integer to a trit. -/
def cvtElem (src t : Ty) (m : Mode) (sat : Bool) (x : Nat) : Res :=
  if src = .t5 then
    if t = .t5 then ⟨x, 0⟩ else convertNum .i8 t (.ofInt (tritVal x)) (tritVal x) m sat
  else if t = .t5 then ⟨(toTrit (intIn src x)).1, (toTrit (intIn src x)).2⟩
  else convert src t x m sat

/-- VCVT (R228): T is the destination type. -/
def execVcvt (h : Hint) (t : Ty) (d a : Vreg) (b : Imm) (s : State) : Host.Outcome State Fault Refusal :=
  match vcvtSource b with
  | none => issueVector s h fun _ => raise s cIllopnd 0
  | some src =>
    if cvtAllowed src t h.sat then unary h t src d a (fun m x => cvtElem src t m h.sat x) s
    else issueVector s h fun _ => raise s cIllopnd 0

/-- The frame of R229. -/
def special (h : Hint) (t : Ty) (f : SFn) (d a : Vreg) (s : State) : Host.Outcome State Fault Refusal :=
  unary h t t d a (fun _ x => specialFn f t h.sat x) s

/-- VRCP (R229). -/
def execVrcp (h : Hint) (t : Ty) (d a : Vreg) (s : State) : Host.Outcome State Fault Refusal := special h t .rcp d a s
/-- VRSQ (R229). -/
def execVrsq (h : Hint) (t : Ty) (d a : Vreg) (s : State) : Host.Outcome State Fault Refusal := special h t .rsq d a s
/-- VSQRT (R229). -/
def execVsqrt (h : Hint) (t : Ty) (d a : Vreg) (s : State) : Host.Outcome State Fault Refusal := special h t .sqrt d a s
/-- VEXP2 (R229). -/
def execVexp2 (h : Hint) (t : Ty) (d a : Vreg) (s : State) : Host.Outcome State Fault Refusal := special h t .exp2 d a s
/-- VLOG2 (R229). -/
def execVlog2 (h : Hint) (t : Ty) (d a : Vreg) (s : State) : Host.Outcome State Fault Refusal := special h t .log2 d a s
/-- VSIN (R229). -/
def execVsin (h : Hint) (t : Ty) (d a : Vreg) (s : State) : Host.Outcome State Fault Refusal := special h t .sin d a s
/-- VCOS (R229). -/
def execVcos (h : Hint) (t : Ty) (d a : Vreg) (s : State) : Host.Outcome State Fault Refusal := special h t .cos d a s

end Sys2Proof.Machine
end

