-- ==== Sys2Proof/Machine/Collective.lean ====
section
/-!
DEFINITION. Collectives (R410 to R421): COLLOPEN, COLL and COLLCLOSE, and the reduction slots in the fabric interface.
-/

namespace Sys2Proof.Machine

/-! ## Routing entries (R398) -/

/-- The routing entry of a chip in a generation (Table 18.1). -/
def Fabric.entry (f : Fabric) (gen : Bool) (chip : Nat) : Nat := (aget f.rtab 0 (boolNat gen * 1024 + chip)).toNat

/-- The UALink ports of a PORTS field. -/
def portList (ports : Nat) : List Nat := (upto 16).filter fun i => bit ports i

/-- R404: what makes a transfer to a chip end with PEERLOST: the entry is invalid or LOST, or has no port up. -/
def Fabric.peerDown (f : Fabric) (gen : Bool) (chip : Nat) : Bool :=
  let e := f.entry gen chip
  !bit e 31 || bit e 30 || match field e 27 2 with
    | 0 => !((portList (field e 0 16)).any fun i => f.portsUp.getLsbD i)
    | 1 | 2 => !f.portsUp.getLsbD 16
    | _ => true

/-- R398: LOST is set in an entry of KIND 00 when every port in PORTS is down. -/
def Fabric.markEntry (f : Fabric) (e : Nat) : Nat :=
  let ports := portList (field e 0 16)
  if bit e 31 && !bit e 30 && field e 27 2 == 0 && !ports.isEmpty && !(ports.any fun i => f.portsUp.getLsbD i) then e + 2 ^ 30
  else e

/-- The routing tables and the outstanding transfers after a change of an entry or of a port (R398, R404). -/
def Fabric.marked (f : Fabric) : Fabric :=
  let f := { f with rtab := amap f.rtab fun _ e => BitVec.ofNat 32 (f.markEntry e.toNat) }
  { f with transfers := f.transfers.map fun x => { x with lost := x.lost || f.peerDown (x.gen == 1) x.pkt.dst.chip } }

/-- R407, R416: a chip that may be the home of a slot: the executing chip, or one whose entry is valid with CAPOK and KIND
00 or 01. -/
def State.homeChip (s : State) (chip : Nat) : Bool :=
  let e := s.fabric.entry s.fabric.gencur chip
  chip == s.chip || (bit e 31 && bit e 29 && field e 27 2 ≤ 1)

/-! ## Slot handles (R411) and descriptors (R416) -/

/-- RES bits of a handle are clear (Table 18.4). -/
def handleZero (h : Nat) : Bool := field h 22 11 == 0 && field h 6 6 == 0
/-- COUNT of a handle. -/
def handleCount (h : Nat) : Nat := field h 33 7
/-- The home chip of a handle. -/
def handleChip (h : Nat) : Nat := field h 12 10
/-- The slot of a handle. -/
def handleSlot (h : Nat) : Nat := field h 0 6

/-- Table 18.5: the formats that an operation accepts. -/
def collAccepts (op fmt : Nat) : Bool :=
  match op with
  | 0 => [0, 1, 2, 3, 5, 7, 8, 9, 10, 11].contains fmt
  | 1 | 2 => fmt ≤ 12
  | 3 | 4 | 5 | 6 => 7 ≤ fmt && fmt ≤ 12
  | 7 | 8 | 9 => fmt ≤ 6
  | _ => false

/-! ## The instructions -/

/-- COLLOPEN (R416, R421). -/
def execCollopen (h : Hint) (t : Ty) (d : LandDest) (a b : Reg) (s : State) : Host.Outcome State Fault Refusal :=
  issue s h fun w => do
    noSpec s
    let home := (s.x a).toNat
    let x := (s.x b).toNat
    let op := field x 8 4
    let dl := field x 16 8
    need s (home < 1024 && !bit x 7 && field x 12 4 == 0 && field x 24 40 == 0 && 1 ≤ field x 0 7 && field x 0 7 ≤ 64
      && 1 ≤ dl && collAccepts op t.code)
    if !s.homeChip home then raise s cIllopnd 8
    let at' ← landPlace s w d
    need s (at'.reg ≤ 30)
    let s ← s.postPacket w ⟨home, fabricTile⟩ 24 (.collOpen op t.code (field x 0 7) dl at') none
    .ok s.notRetriable

/-- R417: the destination of a record. -/
def recordPlace (s : State) (w : Who) (d : CollDest) : Eff RecordDest :=
  match d with
  | .remote x n => do
    need s (n.toNat ≤ 29)
    let p ← checkDest s w (s.x x) ⟨false, false, false⟩
    if p.chip != s.chip then raise s cIllopnd 8
    .ok (.land ⟨p, n.toNat⟩)
  | .land n => do
    need s (n.toNat ≤ 29)
    .ok (.land ⟨⟨s.chip, s.cur.tile⟩, n.toNat⟩)
  | .ring r => do
    need s (r.count == 0)
    let (i, _) ← boundRing s r.h
    .ok (.ring ⟨s.chip, s.cur.tile⟩ i)

/-- COLL (R417, R421). -/
def execColl (h : Hint) (t : Ty) (d : CollDest) (a b : Reg) (s : State) : Host.Outcome State Fault Refusal :=
  issue s h fun w => do
    need s (b.toNat ≤ 30)
    let hd := (s.x a).toNat
    let i := (s.x (b + 1)).toNat
    need s (handleZero hd && t.code == field hd 40 4 && i < handleCount hd)
    if !s.homeChip (handleChip hd) then raise s cIllopnd 8
    let dest ← recordPlace s w d
    let v := word ((s.x b).toNat % 2 ^ t.width)
    let s ← s.postPacket w ⟨handleChip hd, fabricTile⟩ 40 (.contrib (s.x a) i v dest w.kernel.vf) none
    .ok s.notRetriable

/-- COLLCLOSE (R419, R421). -/
def execCollclose (h : Hint) (a : Reg) (s : State) : Host.Outcome State Fault Refusal :=
  issue s h fun w => do
    noSpec s
    let hd := (s.x a).toNat
    need s (handleZero hd)
    if !s.homeChip (handleChip hd) then raise s cIllopnd 8
    let s ← s.postPacket w ⟨handleChip hd, fabricTile⟩ 24 (.collClose (s.x a)) none
    .ok s.notRetriable

/-! ## Reduction slots (R410 to R414) -/

/-- A FREE slot. -/
def RedSlot.zero : RedSlot :=
  { state := .free, part := 0, handle := 0, op := 0, fmt := 0, count := 0, deadline := 0, present := 0, xa := Xa.zero,
    run := RunVal.zero, nanidx := none, dests := [], closing := false, doneWindow := 0, record := none }

/-- A slot of the fabric interface. -/
def State.redSlot (s : State) (i : Nat) : RedSlot := aget s.fabric.slots .zero i
/-- A slot replaced. -/
def State.setRed (s : State) (i : Nat) (r : RedSlot) : State :=
  { s with fabric := { s.fabric with slots := if r.state = .free then aerase s.fabric.slots i else aset s.fabric.slots i r } }

/-- R410: a partition number that a live partition of the chip holds. An evicted one is live: its handle names it (R104; log 54). -/
def State.liveNumber (s : State) (p : Nat) : Bool := (aget? s.parts p).isSome

/-- R410, R416: the slot that an open by a partition number takes. -/
def State.freeSlotFor (s : State) (p : Nat) : Option Nat :=
  (upto 64).find? fun i => (s.redSlot i).state == .free && (i / 4 == p || !s.liveNumber (i / 4))

/-- The mode of VRED that an operation follows (R412). -/
def collMode (op : Nat) : Nat := op + 1

/-- The value word of a record (R412, R413): SUM from the accumulator, otherwise the running value. A slot that completes
without a contribution has, but for SUM, no value: it is a free value (log 1). -/
def RedSlot.value (r : RedSlot) (free : Nat) : Word :=
  let t := Ty.ofCode r.fmt
  if r.op = 0 then
    if t.isFloat then word (r.run.xa.read t false).bits else wordOfInt (r.run.xa.sum / 2 ^ 149)
  else if r.present = 0 then Config.freeWord free
  else if t.isSignedInt then wordOfInt (intIn t r.run.bits)
  else word r.run.bits

/-- NPRES: the contributions that a mask names. -/
def maskCount (m : Nat) : Nat := ((upto 64).filter fun i => bit m i).length

/-- The status word of Table 18.6. -/
def collStatus (code sub npres : Nat) (nan : Option Nat) : Word :=
  word (code + sub * 2 ^ 8 + npres * 2 ^ 16 + match nan with
    | some i => 2 ^ 24 + i * 2 ^ 32
    | none => 0)

/-- A record sent by the home to a destination. -/
def State.sendRecord (s : State) (part : Nat) (dest : RecordDest) (v st mask h : Word) (i : Nat) : State :=
  let p : Place := match dest with
    | .land l => l.place
    | .ring p _ => p
  s.send 1 part ⟨s.chip, fabricTile⟩ .fabric p 0 40 (.collRecord dest v st mask h i)

/-- R413, R414: a slot completes in a window with a value, a mask and a code: it becomes DONE, or FREE when its closing waits or its
partition ends, and every contributor in the mask gets the record. -/
def State.completeSlot (s : State) (i : Nat) (r : RedSlot) (v : Word) (mask code window : Nat) (frees : Bool) : State :=
  let st := collStatus code 0 (maskCount mask) r.nanidx
  let s := s.setRed i
    { r with state := if r.closing || frees then .free else .done, doneWindow := window, present := mask,
             record := some (v, st, word mask) }
  r.dests.foldl (fun s d =>
    if bit mask d.1 then s.sendRecord r.part d.2.1 v st (word mask) r.handle d.1 else s) s

/-- R413: the code of a slot that is complete. -/
def RedSlot.doneCode (r : RedSlot) : Nat := if r.nanidx.isSome then cNanseen else cOk

/-- R414: the deadline of an OPEN slot has passed: it completes with TIMEOUT. -/
def State.slotDeadline (s : State) (i : Nat) : State :=
  let r := s.redSlot i
  if r.state = .opened ∧ r.deadline ≤ s.window then
    (s.draw 1).completeSlot i r (r.value s.free) r.present cTimeout r.deadline false
  else s

/-- R410: a DONE slot is freed 256 windows after its completion. -/
def State.slotExpire (s : State) (i : Nat) : State :=
  let r := s.redSlot i
  if r.state = .done ∧ r.doneWindow + 256 ≤ s.window then s.setRed i .zero else s

/-- What time has done to a slot by now comes before anything that arrives (R410, R414). -/
def State.slotDue (s : State) (i : Nat) : State := (s.slotDeadline i).slotExpire i

/-- The partition to which a slot belongs, for the charge and the record of what a packet meets there (R408, R482): the one that opened
it. A FREE slot has none: the model takes that of a sender on this chip, otherwise the one for which it is reserved (log 93). -/
def State.slotPart (s : State) (p : Packet) (k : Nat) : Nat :=
  let r := (s.slotDue k).redSlot k
  if r.state ≠ .free then r.part else if p.src.chip = s.chip then p.part else k / 4

/-- R412: one contribution folded into a slot. -/
def RedSlot.fold (r : RedSlot) (i : Nat) (v : Word) (dest : RecordDest) (src : Place) : RedSlot :=
  let t := Ty.ofCode r.fmt
  let b := v.toNat % 2 ^ t.width
  let nan := t.isFloat && 4 ≤ r.op && r.op ≤ 6 && (decodeNum t b).isNan
  { r with
    run := reduceStep (collMode r.op) t t .rne false r.run b
    present := r.present ||| 2 ^ i
    dests := aset r.dests i (dest, src)
    nanidx := if nan then some (match r.nanidx with | some j => min i j | none => i) else r.nanidx }

/-- A record about a collective packet in the log of the partition to which a slot belongs (R482): ILLOPND, subcode
0x0B. -/
def State.logSlot (s : State) (part : Nat) (p : Packet) (slot : Nat) (payload : Word) : State :=
  let k := if p.src.chip = s.chip then p.kslot else 0
  s.logFault part
    { FRec.zero with
      code := cIllopnd, sub := 0x0B, src := 5, va := targetVa p.dst slot, ord := ordSource p.src p.part 5,
      iword := payload.toNat, kslot := k }
    (if p.src.chip = s.chip then s.vfOf p.part p.kslot else none)

/-- GEN of a handle (Table 18.4). -/
def handleGen (h : Word) : Nat := field h.toNat 48 16

/-- COLLOPEN_REQUEST (R416): the home opens the lowest slot that the partition may take, or refuses. -/
def execCollopenRequest (s : State) : Host.Outcome State Fault Refusal :=
  arrival s fun s p => match p.body with
    | .collOpen op fmt count dl ret =>
      let answer (s : State) (h : Word) (code sub : Nat) : State :=
        s.send 1 p.part ⟨s.chip, fabricTile⟩ .fabric ret.place p.kslot 32 (.land ret.reg [h, collStatus code sub 0 none])
      let s := (upto 64).foldl State.slotDue s
      match s.freeSlotFor p.part with
      | some i =>
        let h := word (i + s.chip * 2 ^ 12 + count * 2 ^ 33 + fmt * 2 ^ 40 + op * 2 ^ 44
          + (Config.freeGen s.free).toNat * 2 ^ 48)
        let r : RedSlot :=
          { RedSlot.zero with
            state := .opened, part := p.part, handle := h, op := op, fmt := fmt, count := count, deadline := s.window + dl }
        some (some (answer ((s.draw 1).setRed i r) h cOk 0))
      | none => some (some (answer s 0 cRefused 3))
    | _ => none

/-- R414: a contribution at its home. -/
def State.contribute (s : State) (p : Packet) (h : Word) (i : Nat) (v : Word) (dest : RecordDest) : State :=
  let k := handleSlot h.toNat
  let s := s.slotDue k
  let r := s.redSlot k
  let late (v : Word) (npres : Nat) (nan : Option Nat) (mask : Word) : State :=
    s.sendRecord (s.slotPart p k) dest v (collStatus cLate 0 npres nan) mask h i
  if handleGen r.handle ≠ handleGen h then late 0 0 none 0
  else
    match r.state, r.record with
    | .opened, _ =>
      if r.count ≤ i then late 0 0 none 0
      else if bit r.present i then s.logSlot r.part p k v
      else
        let r := r.fold i v dest p.src
        if maskCount r.present = r.count then s.completeSlot k r (r.value 0) r.present r.doneCode s.window false
        else s.setRed k r
    | .done, some (v, _, mask) => late v (maskCount mask.toNat) r.nanidx mask
    | _, _ => late 0 0 none 0

/-- R420: withdrawn contributions: their slot, still OPEN, completes at once with WITHDRAWN and the mask of those that remain. -/
def State.withdrawSlot (s : State) (h : Word) (mask : Nat) : State :=
  let k := handleSlot h.toNat
  let s := s.slotDue k
  let r := s.redSlot k
  let left := r.present &&& ((2 ^ 64 - 1) ^^^ mask % 2 ^ 64)
  if r.state = .opened ∧ handleGen r.handle = handleGen h ∧ left ≠ r.present then
    s.completeSlot k r 0 left cWithdrawn s.window false
  else s

/-- CONTRIBUTION_ARRIVAL (R414), and the withdrawal of contributions (R420). -/
def execContributionArrival (s : State) : Host.Outcome State Fault Refusal :=
  arrival s fun s p => match p.body with
    | .contrib h i v dest _ => some (some (s.contribute p h i v dest))
    | .withdraw h m => some (some (s.withdrawSlot h m))
    | _ => none

/-- COLLCLOSE_ARRIVAL (R419). -/
def execCollcloseArrival (s : State) : Host.Outcome State Fault Refusal :=
  arrival s fun s p => match p.body with
    | .collClose h =>
      let k := handleSlot h.toNat
      let s := s.slotDue k
      let r := s.redSlot k
      some (some (
        if handleGen r.handle = handleGen h ∧ r.part = p.part then
          match r.state with
          | .done => s.setRed k .zero
          | .opened => s.setRed k { r with closing := true }
          | .free => s.logSlot (s.slotPart p k) p k h
        else s.logSlot (s.slotPart p k) p k h))
    | _ => none

/-- SLOT_DEADLINE (R414): the turn's `sub` names the slot. -/
def execSlotDeadline (s : State) : Host.Outcome State Fault Refusal := .next (s.slotDeadline s.cur.sub)

/-- SLOT_EXPIRE (R410): the turn's `sub` names the slot. -/
def execSlotExpire (s : State) : Host.Outcome State Fault Refusal := .next (s.slotExpire s.cur.sub)

/-- R420: the slots of a partition that is evicted, destroyed or replayed complete with WITHDRAWN and become FREE. -/
def State.withdrawPart (s : State) (p : Nat) : State :=
  (upto 64).foldl (fun s i =>
    let s := s.slotDue i
    let r := s.redSlot i
    if r.state = .free ∨ r.part ≠ p then s
    else if r.state = .opened then s.completeSlot i r 0 r.present cWithdrawn s.window true
    else s.setRed i .zero) s

/-- R420: a VF reset withdraws the contributions that its kernels made to slots still OPEN, those to one slot together. -/
def State.withdrawVf (s : State) (p vf : Nat) : State :=
  let mine := s.fabric.opened.filter fun e => e.2.2 == vf
  let s := { s with fabric := { s.fabric with opened := s.fabric.opened.filter fun e => e.2.2 != vf } }
  ((mine.map (·.1)).eraseDups).foldl (fun s h =>
    let mask := mine.foldl (fun m e => if e.1 = h then m ||| 2 ^ e.2.1 else m) 0
    s.send 0 p ⟨s.chip, fabricTile⟩ .fabric ⟨handleChip h.toNat, fabricTile⟩ 0 24 (.withdraw h mask)) s

end Sys2Proof.Machine
end

