-- ==== Sys2Proof/Machine/Schedule.lean ====
section
/-!
DEFINITION. What a tile's core does between instructions: dispatch (R115 to R125), the watchdog (R427), posts that leave
(R326, R335, R336), the strike horizon's releases (R450), and Keystone at the barrier's home and at the parties' tiles
(R378 to R395). The event's turn names the tile and the context slot.
-/

namespace Sys2Proof.Machine

/-! ## Aging and the held task (R120, R121) -/

/-- R120: a ready task that has waited for more than 65,536 cycles is raised one level, to 6 at most. -/
def aged (cycle : Nat) (r : TaskRec) : TaskRec :=
  match r.q with
  | .ready p stamp place since since6 sk =>
    if p ≤ 5 ∧ since + Config.aging < cycle then
      { r with q := .ready (p + 1) stamp place cycle (if p = 5 then cycle else since6) sk }
    else r
  | _ => r

/-- R120: aging applied on a tile. -/
def State.age (s : State) (t : Nat) : State := s.onLocal t fun l => { l with recs := amap l.recs fun _ r => aged s.cycle r }

/-- AGING (R120), of a tile. -/
def execAging (s : State) : Host.Outcome State Fault Refusal := .next (s.age s.cur.tile)

/-- The tile's held task while it is ready (R121): its record and its stamp. -/
def Tile.heldTask (v : Tile) : Option (Nat × Nat) :=
  v.core.disp.held.bind fun r => (aget? v.loc.recs r).bind fun q => match q.q with
    | .ready _ stamp _ _ _ _ => some (r, stamp)
    | _ => none

/-- R121: a task that qualifies to be held: its stamp and its place. -/
def holdable (cycle : Nat) (r : TaskRec) : Option (Nat × Nat) :=
  match r.q with
  | .ready 6 stamp place _ since6 true => if since6 + Config.aging < cycle then some (stamp, place) else none
  | _ => none

/-- The order of stamps: the cycle, then the place among equal ones (R117, R440). -/
def stampLt (a b : Nat × Nat) : Bool := a.1 < b.1 || (a.1 == b.1 && a.2 < b.2)

/-- The record with the oldest stamp, of those to which `f` gives one. -/
def oldest (l : Local) (f : TaskRec → Option (Nat × Nat)) : Option Nat :=
  (l.recs.foldl (fun best r =>
    match f r.2, best with
    | some n, some b => if stampLt n b.2 then some (r.1, n) else some b
    | some n, none => some (r.1, n)
    | none, b => b) none).map (·.1)

/-- R121: a tile without a held task takes the oldest that qualifies. -/
def State.hold (s : State) (t : Nat) : State :=
  let v := s.tile t
  match v.heldTask, oldest v.loc (holdable s.cycle) with
  | none, some r => s.onCore t fun k => { k with disp := { k.disp with held := some r } }
  | _, _ => s

/-- HELD_TASK (R121). -/
def execHeldTask (s : State) : Host.Outcome State Fault Refusal := .next (s.hold s.cur.tile)

/-! ## Dispatch (R119, R122) -/

/-- A ready task that selection may still take: its priority and stamp. -/
def readyKey (r : TaskRec) : Option (Nat × Nat × Nat) :=
  match r.q with
  | .ready p stamp place _ _ _ => some (p, stamp, place)
  | _ => none

/-- R119: the first of the ready tasks that have not been tried: priorities downward, stamps upward. -/
def Local.pick (l : Local) (tried : List Nat) : Option (Nat × TaskRec) :=
  l.recs.foldl (fun best r =>
    if tried.contains r.1 then best
    else
      match readyKey r.2, best.bind fun b => readyKey b.2 with
      | some a, some b => if b.1 < a.1 ∨ (b.1 = a.1 ∧ stampLt a.2 b.2) then some r else best
      | some _, none => some r
      | none, _ => best) none

/-- What a task needs at its dispatch besides a slot: accumulators and a reply entry. A parked task has kept its
accumulators (R274). -/
def Local.wants (l : Local) (r : Nat) (q : TaskRec) : Nat × Bool :=
  match aget? l.park r with
  | some e => if e.wait = .retry then (q.img.nacc, q.img.reply) else (0, e.reply)
  | none => (q.img.nacc, q.img.reply)

/-- R119: accumulators and the reply entry are free for a task. -/
def Tile.grants (v : Tile) (r : Nat) (q : TaskRec) : Bool :=
  let n := v.loc.wants r q
  n.1 ≤ v.freeAccs.length && (!n.2 || v.core.vn1Used < 16)

/-- R121: the held task keeps younger tasks of priority 0 to 6 back. -/
def Tile.heldOff (v : Tile) (r prio stamp : Nat) : Bool :=
  match v.heldTask with
  | some (h, n) => r != h && prio ≤ 6 && n < stamp
  | none => false

/-- R117, R118: the ring and landing parts hold, and no other task holds a ring that the record names. -/
def Tile.partsHold (v : Tile) (q : TaskRec) : Bool :=
  v.loc.ringsHold q.img && v.loc.landHolds q.img && !((recNeeds q.img).any fun n => v.ringHeld n.1)

/-- R117, R118: the recheck at dispatch. A task that RETRY runs again has released its rings (R123) and has its state region
in the park store; one that comes back from a parking keeps both and does not repeat the recheck (log 8). -/
def Tile.recheck (v : Tile) (r : Nat) (q : TaskRec) : Bool :=
  match aget? v.loc.park r with
  | some e => e.wait != .retry || v.partsHold q
  | none => v.partsHold q && v.loc.stateHolds q.img

/-- The x registers with which a task starts (R42): x1 to x6, then ARG. -/
def startX (q : TaskRec) : Assoc Word :=
  (upto 7).map fun i => (i + 1, if i < 6 then q.first.getD i 0 else q.img.arg)

/-- R42: the registers that are undefined at dispatch hold free values (log 1). -/
def undefinedX (free : Nat) : Assoc Word := (upto 24).map fun i => (i + 8, Config.freeWord (free + i))

/-- R42: the registers of a task at its dispatch. The rings of the valid needs are bound to h0 and h1 in the order of the needs, a lone
need 1 to h0: which handle a lone need 1 takes, R41 leaves open, and this is the model's choice (log 92). -/
def startRegs (q : TaskRec) (free : Nat) (c : Assoc Cap) : Regs :=
  { x := startX q ++ undefinedX free
    p := ((Config.freeWord (free + 24)).setWidth 8) &&& 0xFE
    c := c
    v := []
    h := (recNeeds q.img).zipIdx.map fun n => (n.2, n.1.1)
    fpstat := 0
    pc := BitVec.ofNat 32 q.img.entry
    resume := .none }

/-- The accumulators that a task is granted, mapped in ascending order (R122). -/
def Tile.granted (v : Tile) (n : Nat) : List Nat := v.freeAccs.take n

/-- Words of an accumulator (R230). -/
def accWords : Nat := 1024

/-- R122: a task dispatched into a slot with its registers, fresh resources and a fresh W_h count. -/
def State.dispatchFresh (s : State) (t c r prio stamp : Nat) (q : TaskRec) (caps : Assoc Cap) (origin : Option Parked) :
    State :=
  let v := s.tile t
  let accs := v.granted q.img.nacc
  let regs := startRegs q s.free caps
  let ctx : Context :=
    { Context.reset with
      regs := regs
      run := { Run.reset with
        task := some r, dispatched := s.cycle, issueAt := s.cycle + 2, accs := accs, reply := q.img.reply,
        rings := (recNeeds q.img).map (·.1), prio := prio, stamp := stamp, origin := origin, placed := s.cycle,
        first := v.core.issued }
      mxRec := some r, shzLog := (s.ctxAt t c).shzLog, shzPosts := (s.ctxAt t c).shzPosts }
  let base := s.free + 25
  let s := s.draw (25 + accWords * accs.length)
  (s.onCore t fun k =>
    { k with accs := accs.zipIdx.foldl (fun m a => aset m a.1 ⟨base + accWords * a.2, [], none⟩) k.accs }).setCtxAt t c ctx

/-- R275: a parked task gets its saved state back. -/
def State.dispatchParked (s : State) (t c r prio stamp : Nat) (e : Parked) : State :=
  s.setCtxAt t c
    { Context.reset with
      regs := e.regs
      run := { Run.reset with
        task := some r, trapEntry := e.trapEntry, kept := e.kept, faultPc := e.faultPc, dispatched := s.cycle,
        issueAt := s.cycle + 2, accs := e.accs, reply := e.reply, rings := e.rings, nsig := e.nsig, noRetry := e.noRetry,
        prio := prio, rejected := e.rejected, stamp := stamp, origin := some e, placed := s.cycle,
        first := (s.tile t).core.issued }
      mx := { MxCtx.reset with flags := e.mxFlags, err := e.mxErr }
      mxRec := some r
      spec := { Spec.reset with abort := e.abort, rolled := e.rolled }
      shzLog := (s.ctxAt t c).shzLog, shzPosts := (s.ctxAt t c).shzPosts }

/-- R32, R122: the state region leaves its slot for c14, the slot is held for it. -/
def State.takeRegion (s : State) (t : Nat) (q : TaskRec) : State × Assoc Cap :=
  if q.img.stv then
    let v := (s.tile t).loc.slot q.img.stSlot
    (s.setSlot t q.img.stSlot { v with cap := none, held := true }, match v.cap with
      | some c => [(14, c)]
      | none => [])
  else (s, [])

/-- R122: a task is dispatched into a slot. -/
def State.dispatchTo (s : State) (t c r : Nat) (q : TaskRec) (prio stamp : Nat) : State :=
  let park := aget? (s.tile t).loc.park r
  let s := s.onLocal t fun l =>
    { l with recs := aset l.recs r { q with q := .running c, cap := none }, park := aerase l.park r }
  let s := (s.unhold t r).onCore t fun k => { k with disp := { k.disp with next := s.cycle + 1 } }
  let s := match park with
    | some e =>
      if e.wait = ParkWait.retry then s.dispatchFresh t c r prio stamp q e.regs.c (some e)
      else s.dispatchParked t c r prio stamp e
    | none =>
      let (s, region) := s.takeRegion t q
      s.dispatchFresh t c r prio stamp q ((q.cap.map fun k => [(0, k)]).getD [] ++ region) none
  s.onCtxAt t c fun v => { v with run := { v.run with tries := q.retries } }

/-- R119: selection, with the records tried so far. -/
def State.select (s : State) (t c : Nat) : Nat → List Nat → State
  | 0, _ => s
  | fuel + 1, tried =>
    let v := s.tile t
    match v.loc.pick tried with
    | none => s
    | some (r, q) =>
      match q.q with
      | .ready p stamp place since since6 _ =>
        let stopped := ((s.partOfTile t).bind fun pt => pt.2.kernel q.kslot).all fun k => k.retire != .no
        if stopped || s.cycle ≤ stamp then s.select t c fuel (r :: tried)
        else if !v.grants r q then ((s.setQ t r (.ready p stamp place since since6 true)).hold t).select t c fuel (r :: tried)
        else if v.heldOff r p stamp then s.select t c fuel (r :: tried)
        else if v.recheck r q then s.dispatchTo t c r q p stamp
        else ((s.setQ t r .waiting).unhold t r).select t c fuel (r :: tried)
      | _ => s

/-- DISPATCH (R119, R121, R122): aging, a task that qualifies is held, then at most one task of a tile in a cycle, into the lowest free slot. A tile of a partition
that is halted or halting dispatches none (R438). -/
def execDispatch (s : State) : Host.Outcome State Fault Refusal :=
  let t := s.cur.tile
  let s := (s.age t).hold t
  let k := (s.tile t).core
  match s.partOfTile t with
  | some p =>
    let slot := (upto 8).find? fun c => k.slotFree c && decide ((aget k.ctxs .reset c).run.issueAt ≤ s.cycle)
    match slot with
    | some c =>
      if p.2.state = .active ∧ p.2.halt = none ∧ k.disp.next ≤ s.cycle then
        .next (s.select t c (s.tile t).loc.recs.length [])
      else .next s
    | none => .next s
  | none => .next s

/-! ## Posts that leave (R326, R335, R336) -/

/-- R327: a packet that another context of the core posted earlier for the same destination and network is still held by the
strike horizon. -/
def CoreSt.overtakes (k : CoreSt) (c : Nat) (p : HeldPost) : Bool :=
  match p.packet? with
  | some q => k.ctxs.any fun x => x.1 != c && x.2.shzPosts.any fun h =>
      h.taken && h.ord < p.ord && (h.packet?.map fun x => x.vn == q.vn && x.dst == q.dst).getD false
  | none => false

/-- R326: an injection entry is there for a post. -/
def CoreSt.entryFree (k : CoreSt) (p : HeldPost) : Bool :=
  match p.post with
  | .packet q reserved => if q.vn = 0 then k.vn0Used < 32 else if q.vn = 1 then reserved || k.vn1Used < 16 else true
  | _ => true

/-- The log of a context's commit drains to other chips: its held posts go on behind that (R389 step 3). -/
def Hold.draining (h : Hold) : Bool := match h with | .drain _ _ => true | _ => false

/-- R336: posts that a commit has released take their entries in order, as far as there are any. -/
def State.takeEntries (s : State) (t c : Nat) : Nat → State
  | 0 => s
  | n + 1 =>
    let v := s.ctxAt t c
    match v.shzPosts.find? fun p => !p.taken with
    | some p =>
      if !v.hold.draining && (s.tile t).core.entryFree p then
        State.takeEntries
          (s.setCtxAt t c { v with shzPosts := v.shzPosts.map fun q => if q.ord = p.ord then { q with taken := true } else q }) t c n
      else s
    | none => s

/-- A held post may take effect now: nothing holds it, it has its entry, no earlier one of its stream is held, and what acts on the
tile alone waits for the accesses before it (R335), a task for a free record. -/
def State.canRelease (s : State) (t c : Nat) (p : HeldPost) : Bool :=
  p.taken && decide (p.due ≤ s.cycle) && match p.post with
    | .packet _ _ => !(s.tile t).core.overtakes c p
    | .kick _ => s.before t c p.ord
    | .task _ _ _ => s.before t c p.ord && (s.tile t).loc.freeRec.isSome

/-- Held posts released in order until one has to wait. -/
def State.releaseAll (s : State) (t c : Nat) : List HeldPost → State × List HeldPost
  | [] => (s, [])
  | h :: hs => if s.canRelease t c h then (s.release t c h).releaseAll t c hs else (s, h :: hs)

/-- R194, R336, R389, R450: a held end is performed once nothing holds it. A matrix error that has arisen since END was issued is one of
a task that has ended (R240). -/
def State.heldEnd (s : State) (t c : Nat) : State :=
  let v := s.ctxAt t c
  match v.endHeld, v.hold with
  | some kind, .ending due =>
    if !v.spec.on && v.pending.isEmpty && decide (due ≤ s.cycle) && s.released t c then
      let late := v.mx.err.bind fun e => (s.recAt t c).map fun q => (e, q)
      let s := (s.onCtxAt t c fun v => { v with endHeld := none, hold := .none }).finishEnd t c kind
      match late with
      | some ((code, sub), r, q) => s.lateError t c q.kslot ⟨r, q.born⟩ code sub
      | none => s
    else s
  | _, _ => s

/-- Writes of the horizon's log that are due, performed in order. -/
def State.releaseWrites (s : State) (t : Nat) : List LogWrite → State × List LogWrite
  | [] => (s, [])
  | l :: ls => if l.due ≤ s.cycle then (s.perform t l.cap l.addr l.bytes).releaseWrites t ls else (s, l :: ls)

/-- What a context has issued and may take effect now does: due writes, due posts, posts that a commit has released, a held end (R336,
R450). -/
def State.pump (s : State) (t c : Nat) : State :=
  let r := s.releaseWrites t (s.ctxAt t c).shzLog
  let s := r.1.onCtxAt t c fun v => { v with shzLog := r.2 }
  let s := s.takeEntries t c (s.ctxAt t c).shzPosts.length
  let r := s.releaseAll t c (s.ctxAt t c).shzPosts
  (r.1.onCtxAt t c fun v => { v with shzPosts := r.2 }).heldEnd t c

/-- R420: a contribution that leaves the core is tracked until its record arrives. -/
def State.trackContribution (s : State) (b : Body) : State :=
  match b with
  | .contrib h i _ _ vf => { s with fabric := { s.fabric with opened := s.fabric.opened ++ [(h, i, vf)] } }
  | _ => s

/-- R335: an operation packet does not wait for the accesses before it (R353); every post does. -/
def isOperation (b : Body) : Bool :=
  match b with
  | .op _ _ _ _ _ _ _ _ _ | .operate _ _ _ _ _ _ _ _ => true
  | _ => false

/-- INJECTION_ENTRY_FREE (R326, R335): the entry that `sub` names leaves the core, behind earlier ones for its
destination and network; held posts take the places that become free. -/
def execInjectionEntryFree (s : State) : Host.Outcome State Fault Refusal :=
  let t := s.cur.tile
  match (s.tile t).core.inj[s.cur.sub]? with
  | none => .next s
  | some e =>
    let first := !((s.tile t).core.inj.take s.cur.sub).any fun q => q.vn == e.vn && q.pkt.dst == e.pkt.dst
    if first ∧ (isOperation e.pkt.body ∨ s.before t e.ctx e.ord) then
      let s := s.onCore t fun k => { k with inj := k.inj.eraseIdx s.cur.sub }
      let s := (s.sendPkt e.pkt).trackContribution e.pkt.body
      .next ((upto 8).foldl (fun s c => s.pump t c) s)
    else .next s

/-! ## The strike horizon's releases (R450) -/

/-- The cycle of a change. -/
def Undo.cycle : Undo → Nat
  | .landing c _ _ | .mset c _ _ _ | .parked c _ | .unparked c _ _ | .head c _ _ | .kick c _ _ | .entry c _ _ _ _ | .ring c _ _ _
  | .bar c _ => c

/-- What the horizon's history no longer needs. -/
def State.trimHistory (s : State) (t : Nat) : State :=
  let young (c : Nat) : Bool := s.cycle < c + Config.horizon
  s.onTile t fun v =>
    { v with
      core := { v.core with
        history := v.core.history.filter fun h => young h.cycle, undo := v.core.undo.filter fun u => young u.2.cycle }
      stwHistory := v.stwHistory.filter fun h => young h.1 }

/-- The context holds what the strike horizon or a commit keeps back, or its end. -/
def Context.keeps (v : Context) : Bool := !v.shzLog.isEmpty || !v.shzPosts.isEmpty || v.endHeld.isSome

/-- Everything that is due on the tiles takes effect (R336, R450). -/
def State.pumpAll (s : State) : State :=
  s.tiles.foldl (fun s v => v.2.core.ctxs.foldl (fun s c => if c.2.keeps then s.pump v.1 c.1 else s) s) s

/-- HORIZON_RELEASE (R336, R450): what a context issued 160 cycles ago and more takes effect, and held posts for which there
is now room. -/
def execHorizonRelease (s : State) : Host.Outcome State Fault Refusal :=
  .next ((s.pump s.cur.tile s.cur.ctx).trimHistory s.cur.tile)

/-! ## The watchdog (R383, R406, R427) -/

/-- R450: the context whose turn it is is kept in the horizon's history, before it issues or the watchdog stops it. -/
def State.ctxRemember (s : State) : State :=
  if s.shz s.cur.tile then
    s.onCore s.cur.tile fun k => { k with history := ⟨s.cycle, s.cur.ctx, s.ctx⟩ :: k.history }
  else s

/-- R383, R427: the task's context is stopped at its boundary, or its speculation ends. The time for which an instruction is
held counts against W_h (R280, R300, R378); BARRIVE and BAREND are held until the home has answered them, whatever the count is
(R378); a task that waits for its barrier's completion in its slot has its count stopped (R384). -/
def State.watchdog (s : State) (w : Who) : State :=
  let v := s.ctx
  let spent := v.run.graceEnd.isNone && decide (v.run.dispatched + w.image.budget ≤ s.cycle)
  if !spent then s
  else if v.spec.on then s.rollback s.cur.tile s.cur.ctx 3
  else
    match v.hold with
    | .none => s.takeTrap w (.of cWdog 0)
    | .remote _ => (s.onCtx fun v => { v.freeUnit with hold := .none, answer := none }).takeTrap w (.of cWdog 2)
    | .parkFull (.pages _ _) | .reclaim _ _ | .cdrop _ _ =>
      (s.onCtx fun v => { v with hold := .none }).takeTrap w (.of cWdog 0)
    | .barrier _ _ _ | .keystone _ _ _ | .parkFull _ | .ending _ | .watchdog _ | .commit _ _ | .drain _ _ => s

/-- WATCHDOG_EXPIRY (R427). -/
def execWatchdogExpiry (s : State) : Host.Outcome State Fault Refusal :=
  match s.who with
  | some w => .next (s.ctxRemember.watchdog w)
  | none => .next s

/-- GRACE_EXPIRY (R427): the task still runs when its grace has ended; it passes to containment and does not run on. -/
def execGraceExpiry (s : State) : Host.Outcome State Fault Refusal :=
  match s.who, s.ctx.run.graceEnd with
  | some w, some g =>
    if g ≤ s.cycle then
      .next ((s.ctxRemember.onCtx fun v =>
        { v with hold := .watchdog 3, run := { v.run with graceEnd := none } }).takeTrap w (.of cWdog 3))
    else .next s
  | _, _ => .next s

/-- SPECULATION_BUDGET_LOW (R383): 128 cycles or fewer of W_h remain. -/
def execSpeculationBudgetLow (s : State) : Host.Outcome State Fault Refusal :=
  match s.who with
  | some w =>
    if s.ctx.spec.on ∧ s.ctx.run.dispatched + w.image.budget ≤ s.cycle + 128 then
      .next (s.rollback s.cur.tile s.cur.ctx 3)
    else .next s
  | none => .next s

/-- VECTOR_STREAM_COMPLETE (R206): the vector unit is free, and so are the capability registers that its instruction
captured. One that awaits another chip is not complete. -/
def execVectorStreamComplete (s : State) : Host.Outcome State Fault Refusal :=
  .next (if s.ctx.vecBusy = some unitWaits then s else s.onCtx fun v => { v with vecBusy := none })

/-! ## Conflict probes (R386) -/

/-- CONFLICT_PROBE (R386): a reader that has read the line rolls back, every reader acknowledges. -/
def execConflictProbe (s : State) : Host.Outcome State Fault Refusal :=
  arrival s fun s p => match p.body with
    | .probe line id =>
      let t := p.dst.tile
      let s := (upto 8).foldl (fun s c =>
        let v := s.ctxAt t c
        if v.spec.on && v.spec.reads.contains line then s.rollback t c 6 else s) s
      some (some (s.send 2 p.part p.dst .home p.src 0 16 (.probeAck id)))
    | _ => none

/-- PROBE_ACKNOWLEDGED (R386): with the last acknowledgement, the write counts as performed. -/
def execProbeAcknowledged (s : State) : Host.Outcome State Fault Refusal :=
  arrival s fun s p => match p.body with
    | .probeAck id =>
      let ack (q : Probe) : Probe := if q.id = id then { q with waiting := q.waiting.filter (· != p.src) } else q
      some (some { s with probes := (s.probes.map ack).filter fun q => !q.waiting.isEmpty })
    | _ => none

/-! ## Barriers (R378 to R389) -/

/-- The instruction at PC is complete: PC advances by one instruction, and the next issues `n` cycles and its STAG later. -/
def State.finishHeld (s : State) (w : Who) (n : Nat) : State :=
  s.onCtx fun v =>
    { v with
      regs := { v.regs with pc := v.regs.pc + 12, resume := .none }
      run := { v.run with
        issueAt := s.cycle + n + field (s.iword w.part w.image v.regs.pc.toNat) 72 2, noRetry := true, rejected := [] }
      hold := .none }

/-- R378: an accepted BARRIVE that leaves the phase incomplete: the snapshot is taken, the task speculates; while its tile halts, it
rolls back at once (R393). -/
def State.speculate (s : State) (w : Who) (bar : Place) (bidx phase n : Nat) : State :=
  let s := (s.finishHeld w (n + 4)).onCtx fun v =>
    { v with
      spec := { v.spec with
        on := true, bar := bar, bidx := bidx, phase := phase, log := [], reads := [], looks := []
        snap := some { regs := v.regs, nsig := v.run.nsig, trapEntry := v.run.trapEntry, kept := v.run.kept,
                       faultPc := v.run.faultPc } } }
  if (s.tile s.cur.tile).core.disp.halting then s.rollback s.cur.tile s.cur.ctx 8 else s

/-- The cycles until an answer of the home reaches the party (R328). -/
def answerTime (p : Packet) : Nat := latency p.dst.tile p.src.tile 16

/-- The home answers the context that waits for it: `f` is applied with the turn standing at that context. -/
def State.answerParty (s : State) (p : Packet) (bidx ctx : Nat) (f : State → Who → State) : State :=
  let s' := { s with cur := { s.cur with tile := p.src.tile, ctx := ctx } }
  match s'.ctx.hold, s'.who with
  | .barrier place b _, some w => if place = p.dst ∧ b = bidx then f s' w else s
  | _, _ => s

/-- R378 step 4: why an arrival is refused: the code and subcode. -/
def refusedArrival (b : Option Barrier) (hallmark party : Nat) (stale : Bool) : Option (Nat × Nat) :=
  match b with
  | none => some (cCapfault, cRevoked)
  | some b =>
    if b.hallmark ≠ hallmark ∨ stale then some (cCapfault, cRevoked)
    else if b.arrived.contains party then some (cIllopnd, 9)
    else none

/-- R378, R379: an arrival recorded at its home, its publication opened. -/
def State.recordArrival (s : State) (t bidx party : Nat) (b : Barrier) (pub : Option Cap) (dests : Word) : State :=
  let b := { b with arrived := party :: b.arrived, pubs := match pub with
    | some c => aset b.pubs party (c, dests)
    | none => b.pubs }
  let s := match pub with
    | some c => if s.current c then s.onCt c.key fun e => { e with laopen := true } else s
    | none => s
  s.onLocal t fun l => { l with bars := aset l.bars bidx b }

/-- R378: an arrival at its barrier's home. One of a party that has been killed since it left is not taken: the party counts as arrived
(R394). -/
def State.arriveAt (s : State) (p : Packet) (bidx hallmark party : Nat) (pub : Option Cap) (dests : Word) (ctx : Nat)
    (ends : Bool) : State :=
  let t := p.dst.tile
  let b := aget? (s.tile t).loc.bars bidx
  let stale := (b.map fun b => (s.ct (ctKey .tile t b.ctidx)).hallmark != hallmark).getD true
  match refusedArrival b hallmark party stale, b with
  | some (code, sub), _ =>
    s.answerParty p bidx ctx fun s w => (s.onCtx fun v => { v with hold := .none }).takeTrap w (.of code sub)
  | none, none => s
  | none, some b =>
    if b.killed.contains party then s else
    let s := s.recordArrival t bidx party b pub dests
    let keystone := ((aget? (s.tile t).loc.bars bidx).map fun b => b.full).getD false
    let s := s.answerParty p bidx ctx fun s w =>
      if ends then
        (s.onCtx fun v => { v with hold := .ending (s.horizonDue s.cur.tile), endHeld := some .plain }).heldEnd s.cur.tile
          s.cur.ctx
      else if keystone then s.onCtx fun v => { v with hold := .keystone p.dst bidx b.phase }
      else s.speculate w p.dst bidx b.phase (answerTime p)
    s.barCheck t bidx

/-- BARRIER_ARRIVAL (R378, R388). -/
def execBarrierArrival (s : State) : Host.Outcome State Fault Refusal :=
  arrival s fun s p => match p.body with
    | .arrive bidx hallmark party pub dests ctx ends => some (some (s.arriveAt p bidx hallmark party pub dests ctx ends))
    | _ => none

/-- BARRIER_PARK_ACKNOWLEDGED (R388 steps 2 and 3): the parks of the completion are acknowledged, the phase advances, and
each party's tile gets a notice. `sub` names the table entry. No notice leaves while a probe of a published buffer is out:
a reader that has read the line rolls back before it could commit (R366, R386). A completion that waits for writes to the published
buffers starts once they are performed. -/
def execBarrierParkAcknowledged (s : State) : Host.Outcome State Fault Refusal :=
  let t := s.cur.tile
  match aget? (s.tile t).loc.bars s.cur.sub, s.partOfTile t with
  | some b, some p =>
    let probed := s.probes.any fun q => b.prev.any fun x => x.2.1.key == q.key
    if b.completing && !probed then
      let b' := { b with
        phase := (b.phase + 1) % 2 ^ 32, arrived := [], prev := b.pubs, pubs := [], completing := false }
      let s := s.onLocal t fun l => { l with bars := aset l.bars s.cur.sub b' }
      let tiles := ((p.2.kernel b.kslot).map fun k => (upto b.n).filterMap fun i => k.tiles[b.rbase + i]?).getD []
      let home : Place := ⟨s.chip, t⟩
      .next (tiles.foldl (fun s q =>
        s.send 2 p.1 home .home ⟨s.chip, q⟩ b.kslot 16 (.notice s.cur.sub b.phase)) s)
    else .next (if b.completing then s else s.barCheck t s.cur.sub)
  | _, _ => .next s

/-- A logged write goes to another chip or to space 0x1. -/
def LogWrite.far (l : LogWrite) : Bool := l.place != .here

/-- R389 step 1: a logged write checked again under R53 with the capability that made it, and where it goes. A buffer of
another chip is checked at its home. -/
def State.recheck (s : State) (t : Nat) (w : Who) (l : LogWrite) : Option LogWrite :=
  match s.checkCap [] w.kernel.supv (some l.cap) .write l.off l.bytes.length with
  | .ok va =>
    if va / 2 ^ 52 = 0 ∨ va / 2 ^ 52 = 1 then
      match (s.translate t w.pnum w.part w.kernel.xlat va true false).2 with
      | .ok out => some { l with addr := if l.far then out else w.part.prec.phys out }
      | _ => none
    else some l
  | .away => some l
  | _ => none

/-- Capability registers without lookahead capabilities. -/
def Regs.noLooks (r : Regs) : Regs := { r with c := r.c.filter fun x => x.2.mode != .lookahead }

/-- R389: a request about a logged write to its home on another chip: a check of it, or the write itself. The number of the
request is that of `nextId`. -/
def State.askCommit (s : State) (t : Nat) (w : Who) (l : LogWrite) (write : Bool) : State :=
  let id := s.fabric.nextId
  let bs := if write then l.bytes else []
  let a : Ask := match l.place with
    | .fabric => .fabric l.addr (some bs) l.bytes.length
    | _ => .access l.cap l.off (some bs) l.bytes.length
  let q := a.packet id
  let p : Packet := ⟨0, w.pnum, ⟨s.chip, t⟩, .core, q.1, w.kslot, max s.cycle l.due, a.len, q.2, none, false, none⟩
  { s with fabric := { s.fabric with out := s.fabric.out ++ [p], nextId := id + 1 } }

/-- What a context does next when its commit is complete: its held end, or its next instruction. -/
def State.afterCommit (s : State) (t : Nat) (v : Context) : Hold :=
  if v.endHeld.isSome then .ending (s.horizonDue t) else .none

/-- R389 step 2: the writes to other chips are sent one after another; behind the last, the held posts go on (step 3). -/
def State.drainLog (s : State) (t c : Nat) (w : Who) : List LogWrite → State
  | l :: ls =>
    (s.onCtxAt t c fun v => { v with hold := .drain ls s.fabric.nextId, spec := { v.spec with log := l :: ls } }).askCommit t w l
      true
  | [] =>
    let h := s.afterCommit t (s.ctxAt t c)
    (s.onCtxAt t c fun v => { v with hold := h, spec := { v.spec with log := [] } }).pump t c

/-- Held posts take their places in the order of issue behind everything that the core has issued, and wait for their entries (R336,
R389 step 3). -/
def renumber (n : Nat) (posts : List HeldPost) : List HeldPost :=
  posts.zipIdx.map fun p => { p.1 with ord := n + p.2, taken := false }

/-- R389 steps 2 to 4, when every logged write has passed its check: the log drains, one line a cycle, the lookahead
capabilities vanish, and the held posts go on behind the drain. -/
def State.commitNow (s : State) (t c : Nat) (w : Who) : State :=
  let v := s.ctxAt t c
  let log := v.spec.log.filter fun l => !l.far
  let s := if s.shz t then s.onCtxAt t c fun v => { v with shzLog := v.shzLog ++ log }
    else log.foldl (fun s l => s.perform t l.cap l.addr l.bytes) s
  let s := v.spec.looks.foldl (fun s k => s.clearReader k ⟨s.chip, t⟩) s
  let n := (s.tile t).core.issued
  let s := s.onCore t fun k => { k with issued := n + v.spec.held.length }
  let s := s.onCtxAt t c fun v =>
    { v with
      regs := v.regs.noLooks
      run := { v.run with issueAt := max v.run.issueAt (s.cycle + (logLines v.spec.log).length) }
      spec := { Spec.reset with abort := v.spec.abort, rolled := v.spec.rolled }
      shzPosts := v.shzPosts ++ renumber n v.spec.held }
  s.drainLog t c w (v.spec.log.filter LogWrite.far)

/-- R389 step 1 for the writes to other chips: each is checked at its home. -/
def State.checkLog (s : State) (t c : Nat) (w : Who) : List LogWrite → State
  | l :: ls => (s.onCtxAt t c fun v => { v with hold := .commit ls s.fabric.nextId }).askCommit t w l false
  | [] => s.commitNow t c w

/-- R389: a context commits; or rolls back when a logged write fails its check. The lines that have passed are accesses in
flight from now on (R66, R277). -/
def State.commit (s : State) (t c : Nat) (w : Who) : State :=
  let log := (s.ctxAt t c).spec.log
  if log.all fun l => (s.recheck t w l).isSome then
    let log := log.filterMap (s.recheck t w)
    (s.onCtxAt t c fun v => { v with spec := { v.spec with log := log } }).checkLog t c w (log.filter LogWrite.far)
  else s.rollback t c 0x0A

/-- R389: the answer of another chip's home to a commit of the context whose turn it is. -/
def State.commitAnswer (s : State) (w : Who) (ok : Bool) : State :=
  let t := s.cur.tile
  let c := s.cur.ctx
  match s.ctx.hold with
  | .commit ls _ => if ok then s.checkLog t c w ls else s.rollback t c 0x0A
  | .drain ls _ => s.drainLog t c w ls
  | _ => s

/-- The context is concerned by a notice: it speculates on the barrier's phase. -/
def Spec.awaits (sp : Spec) (bar : Place) (bidx phase : Nat) : Bool :=
  sp.on && sp.bar == bar && sp.bidx == bidx && sp.phase == phase

/-- R384, R389: one context at a notice. -/
def State.noticeCtx (s : State) (t : Nat) (bar : Place) (bidx phase c : Nat) : State :=
  let s := { s with cur := { s.cur with tile := t, ctx := c } }
  let v := s.ctx
  match s.who with
  | none => s
  | some w =>
    let goOn (s : State) : State :=
      if s.ctx.hold = .parkFull (.barrier bar bidx phase) then
        s.onCtx fun v => { v with hold := .none, run := { v.run with dispatched := s.cycle } }
      else s
    if v.spec.awaits bar bidx phase then goOn (s.commit t c w)
    else if v.hold = .keystone bar bidx phase then s.finishHeld w 1
    else goOn s

/-- R389: rolled-back tasks that are parked on the barrier become ready. -/
def State.readyParked (s : State) (t : Nat) (wait : ParkWait) : State :=
  (s.tile t).loc.park.foldl (fun s e =>
    match aget? (s.tile t).loc.recs e.1 with
    | some q => if e.2.wait = wait ∧ q.q = .parked then s.setQ t e.1 (.ready q.prio s.cycle e.1 s.cycle s.cycle false) else s
    | none => s) s

/-- COMPLETION_NOTICE (R389): a notice at a party's tile. A rolled-back task that parked meanwhile becomes ready too. -/
def execCompletionNotice (s : State) : Host.Outcome State Fault Refusal :=
  arrival s fun s p => match p.body with
    | .notice bidx phase =>
      let t := p.dst.tile
      let s := (upto 8).foldl (fun s c => s.noticeCtx t p.src bidx phase c) s
      some (some (s.readyParked t (.barrier p.src bidx phase)))
    | _ => none

end Sys2Proof.Machine
end

