-- ==== Sys2Proof/Machine/Homes.lean ====
section
/-!
DEFINITION. Reclaim after its first step (R66, R50, R300), the invalidation of translations (R277), page requests that
wait for the queue (R272). The event's turn names the tile, and by `sub` the CT entry, the partition or the VF.
-/

namespace Sys2Proof.Machine

/-! ## Reclaim (R66) -/

/-- RECLAIM_INVALIDATION (R66 step 2) at the tile of the turn, of the entry `sub`: the cached validations go, and the core and the
steward acknowledge once what they issued under them has been performed. -/
def execReclaimInvalidation (s : State) : Host.Outcome State Fault Refusal :=
  let t := s.cur.tile
  let key := s.cur.sub
  match (s.ct key).recl with
  | none => .next s
  | some r =>
    if r.waiting.contains t || r.waitingStw.contains t then
      let s := s.onTile t fun v =>
        { v with
          core := { v.core with vcache := v.core.vcache.filter fun e => e.key != key }
          svcache := v.svcache.filter fun e => e.key != key }
      let core := if s.drained t key then r.waiting.filter (· != t) else r.waiting
      let stw := if s.stwDrained t key then r.waitingStw.filter (· != t) else r.waitingStw
      .next (s.onCt key fun e => { e with recl := some { r with waiting := core, waitingStw := stw } })
    else .next s

/-- The exclusive capability over the whole of an entry's buffer (R66 step 4). -/
def State.wholeBuffer (s : State) (key : Nat) : Cap :=
  let e := s.ct key
  { hallmark := e.hallmark, ctidx := key % 65536, agent := key / 65536 % 4096, chip := s.chip, mode := .exclusive,
    rights := e.maxr, kind := (HomeKind.ofCode (key / 2 ^ 28)).getD .tile, tokens := 0, woff := 0, wlen := e.len }

/-- R66 step 3, R50, R60: the hallmark rises, and MAXR is CRGT again, or the entry retires. -/
def CtEntry.reclaimed (e : CtEntry) (caller : Place) : CtEntry :=
  let e := { e with tokOut := 0, tokLost := 0, lrs := [], laopen := false, recl := none, ownk := 3, owner := caller }
  if e.hallmark = 0xFFFF then { e with state := .retired }
  else { e with state := .exclusive, hallmark := e.hallmark + 1, maxr := e.crgt }

/-- R66 step 4: the caller receives the new capability; none when the entry retired. What a tile group that has been killed would have
received goes by R69. -/
def State.giveReclaimed (s : State) (key : Nat) (c : Caller) (cap : Option Cap) : State :=
  let part := (s.ct key).part
  match c with
  | .register t i creg k =>
    let s' := { s with cur := { s.cur with tile := t, ctx := i } }
    match s'.ctx.hold, s'.who with
    | .reclaim key' creg', some w =>
      if key' = key ∧ creg' = creg then
        let s' := match cap with
          | some v => s'.setOwner v 0 ⟨s.chip, t⟩
          | none => s'
        let retried := s'.ctx.run.noRetry
        ((s'.setC creg cap).finishHeld w 1).onRun fun r => { r with noRetry := retried }
      else s
    | _, _ => match cap with
      | some v => if s.groupGone t k then s.letKill part k t v (s.goneCode t k cOk) else s.reclaimPath part k t v cOk
      | none => s
  | .slot t i kslot =>
    let v := (s.tile t).loc.slot i
    match cap, kslot.filter (s.groupGone t) with
    | some c, some k => (s.setSlot t i { v with reserved := false }).letKill part k t c (s.goneCode t k cOk)
    | some c, none =>
      if v.cap.isNone ∧ !v.held then
        (s.setOwner c 0 ⟨s.chip, t⟩).setSlot t i { v with cap := some c, kslot := kslot, reserved := false }
      else (s.setSlot t i { v with reserved := false }).supvDeliver part c cOk
    | none, _ => s.setSlot t i { v with reserved := false }

/-- A request of another chip to a home: the CT entry that it names and its number. -/
def askOf (b : Body) : Option (Nat × Nat) :=
  match b with
  | .access c _ _ _ id => some (c.key, id)
  | .operate _ _ c _ none _ _ id => some (c.key, id)
  | .consult op c _ id => if op < 4 ∨ op = 6 then some (c.key, id) else none
  | _ => none

/-- A home of the chip answers a request of another chip; the packet is charged to the partition that owns the answering
resource (R408). -/
def State.answerRequest (s : State) (p : Packet) (part id code sub : Nat) (bytes : List Byte) : State :=
  s.send 1 part ⟨s.chip, p.dst.tile⟩ .home p.src 0 (16 + bytes.length) (.answer id code sub bytes)

/-- R66 step 4, R407: requests of other chips that were held at the home are answered with REVOKED. -/
def State.answerHeld (s : State) (key : Nat) : State :=
  let waits (q : Packet) : Bool := q.src.chip != s.chip && ((askOf q.body).map (·.1)) == some key
  let part := (s.ct key).part
  (s.net.filter waits).foldl (fun s q => s.answerRequest q part (((askOf q.body).map (·.2)).getD 0) cCapfault cRevoked [])
    { s with net := s.net.filter fun q => !waits q }

/-- Table 3.6: a CDROP that a context waits with at the home of the reclaimed buffer faults with REVOKED; its register keeps what it
holds. -/
def State.faultDrop (s : State) (key t c : Nat) : State :=
  let s' := { s with cur := { s.cur with tile := t, ctx := c } }
  match s'.ctx.hold, s'.who with
  | .cdrop key' creg, some w =>
    if key' = key then
      (s'.onCtx fun v => { v with hold := .none }).takeTrap w ⟨cCapfault, cRevoked, creg, s'.c creg, 0, 0, 0⟩
    else s
  | _, _ => s

/-- The same for every context of the chip. -/
def State.faultDrops (s : State) (key : Nat) : State :=
  s.tiles.foldl (fun s v => (upto 8).foldl (fun s c => s.faultDrop key v.1 c) s) s

/-- RECLAIM_COMPLETE (R66 steps 3 and 4), of the entry `sub`. -/
def execReclaimComplete (s : State) : Host.Outcome State Fault Refusal :=
  let key := s.cur.sub
  match (s.ct key).recl with
  | none => .next s
  | some r =>
    if r.waiting = [] ∧ r.waitingStw = [] then
      let at' : Place := match r.caller with
        | .register t _ _ _ => ⟨s.chip, t⟩
        | .slot t _ _ => ⟨s.chip, t⟩
      let s := s.onCt key fun e => e.reclaimed at'
      let cap := if (s.ct key).state = .retired then none else some (s.wholeBuffer key)
      .next (((s.giveReclaimed key r.caller cap).answerHeld key).faultDrops key)
    else .next s

/-! ## Invalidation of translations (R277) -/

/-- The range of an invalidation meets an entry: TLBI names virtual addresses in whole 512 KiB pages, MAP.S2 guest
addresses. An empty range meets none (R201). -/
def Inval.covers (i : Inval) (e : TlbEntry) : Bool :=
  let lo := if i.s2 then e.gpa else e.page * 2 ^ e.log2
  let first := i.base / 2 ^ 19 * 2 ^ 19
  let last := (i.base + i.len + 2 ^ 19 - 1) / 2 ^ 19 * 2 ^ 19
  0 < i.len && lo < last && first < lo + 2 ^ e.log2

/-- The scope of an invalidation of partition `p` takes in an entry. -/
def Inval.hits (i : Inval) (p : Nat) (e : TlbEntry) : Bool :=
  e.part == p && (i.vf.map (· == e.vf)).getD true && (i.asid.map (· == e.asid)).getD true
  && (!i.s2 || e.page * 2 ^ e.log2 / 2 ^ 52 == 0) && i.covers e

/-- R277 step 2: the entries go from the TLBs of a tile and of its cluster. -/
def State.dropTlb (s : State) (t p : Nat) (i : Inval) : State :=
  let s := s.onCore t fun k => { k with l1 := k.l1.filter fun e => !i.hits p e }
  { s with l2 := aalter s.l2 [] (tileCluster t) fun l => l.filter fun e => !i.hits p e }

/-- R277 step 3: accesses of the tile under translations have been performed: writes in flight, operation packets (R356), and
requests of its core and its move engine to another chip's space, wherever they wait. -/
def State.translatedDone (s : State) (t : Nat) : Bool :=
  !((s.tile t).core.ctxs.any fun c => c.2.writing.any fun l => l.place == .fabric || (l.place == .here && isHbm l.addr))
  && (s.opsOf t).isEmpty && !s.fabricOut t [.core, .engine]

/-- R277 step 2: the bursts of a tile that hold on a page walk again, but for one whose page has been rejected. -/
def Steward.walkAgain (w : Steward) : Steward :=
  { w with ops := w.ops.map fun o => if o.rejected then o else { o with page := none } }

/-- TLB_INVALIDATION (R277 steps 2 and 3): the tile of the turn, for the first invalidation of the partition's queue. -/
def execTlbInvalidation (s : State) : Host.Outcome State Fault Refusal :=
  let t := s.cur.tile
  match (aget? s.parts s.cur.part).bind (·.invq.head?) with
  | some i =>
    if i.waiting.contains t then
      let s := (s.dropTlb t s.cur.part i).onSteward t Steward.walkAgain
      if s.translatedDone t then
        .next (s.onPart s.cur.part fun p => { p with invq := match p.invq with
          | i :: is => { i with waiting := i.waiting.filter (· != t) } :: is
          | [] => [] })
      else .next s
    else .next s
  | none => .next s

/-- The mailbox takes its result (R98). -/
def State.mailboxDone (s : State) (code sub : Nat) (res : Word) : State :=
  { s with assay := { s.assay with box := { s.assay.box with
      busy := false, started := false, code := code, sub := sub, res := res, seq := (s.assay.box.seq + 1) % 2 ^ 64 } } }

/-- TLBI_ACKNOWLEDGED (R277 step 4): the first invalidation of the queue has every acknowledgement. -/
def execTlbiAcknowledged (s : State) : Host.Outcome State Fault Refusal :=
  match (aget? s.parts s.cur.part).bind (·.invq.head?) with
  | some i =>
    if i.waiting = [] then
      let s := s.onPart s.cur.part fun p => { p with invq := p.invq.drop 1 }
      match i.notify with
      | some (t, c) =>
        .next (s.send 0 s.cur.part ⟨s.chip, t⟩ .home ⟨s.chip, t⟩ 0 16 (.inc c 1 true))
      | none => .next (if i.s2 ∧ s.assay.box.started then s.mailboxDone cOk 0 0 else s)
    else .next s
  | none => .next s

/-- PAGE_REQUEST_ENTRY (R272): a page request that waits at the Assay root enters the queue of VF `sub`. -/
def execPageRequestEntry (s : State) : Host.Outcome State Fault Refusal :=
  let v := aget s.vfs .reset s.cur.sub
  match v.prqWaiting with
  | r :: rs =>
    if v.prq.length < 64 then
      .next { s with vfs := aset s.vfs s.cur.sub { v with prq := v.prq ++ [r], prqWaiting := rs } }
    else .next s
  | [] => .next s

end Sys2Proof.Machine
end

