-- ==== Sys2Proof/Machine/Launch.lean ====
section
/-!
DEFINITION. Queues, launches and images (R81 to R91), and retirement (R435 to R437). The event's turn names the
partition and, by `sub`, the queue slot.
-/

namespace Sys2Proof.Machine

/-! ## Partition memory as the device reads it (log 5: VA bits [51:0] are the partition offset) -/

/-- `n` bytes at a partition VA, as a number. -/
def State.devNat (s : State) (p : Part) (va n : Nat) : Nat := s.poffNat p.prec (va % 2 ^ 52) n
/-- Bytes written at a partition VA by the device for software. None reaches the image store (R80). -/
def State.devBytes (s : State) (p : Part) (va : Nat) (bs : List Byte) : State :=
  let a := va % 2 ^ 52
  if p.prec.covers a bs.length then s.putPoff p.prec a bs
  else bs.zipIdx.foldl (fun s b => if p.prec.covers (a + b.2) 1 then s.putPoff p.prec (a + b.2) [b.1] else s) s
/-- A number of `n` bytes written at a partition VA. -/
def State.devPut (s : State) (p : Part) (va n v : Nat) : State := s.devBytes p va (leBytes n v)
/-- A VF. -/
def State.vf (s : State) (v : Nat) : Vf := aget s.vfs .reset v
/-- A VF changed. -/
def State.onVf (s : State) (v : Nat) (f : Vf → Vf) : State := { s with vfs := aset s.vfs v (f (s.vf v)) }
/-- The partition that holds a VF (R73). -/
def State.partOfVf (s : State) (v : Nat) : Option (Nat × Part) := s.parts.find? fun p => bit p.2.prec.vfmask v

/-! ## Queue slots (R81 to R84) -/

/-- A queue's slot. -/
def Part.slotOf (p : Part) (vf q : Nat) : Option (Nat × QSlot) := p.qslots.find? fun x => x.2.vf == vf && x.2.queue == q
/-- The address of a queue's descriptor. -/
def Vf.descriptor (v : Vf) (q : Nat) : Nat := v.qtbase + 64 * q
/-- Records between HEAD and TAIL. -/
def queueLeft (head tail : Nat) : Nat := (tail + 2 ^ 32 - head) % 2 ^ 32

/-- The latched queue whose PEND bit was set first: its VF and number. -/
def State.firstLatched (s : State) (p : Part) : Option (Nat × Nat) :=
  let l := (upto 128).flatMap fun v =>
    if bit p.prec.vfmask v then (s.vf v).pend.map fun e => (e.2.1, v, e.1) else []
  (l.foldl (fun best e =>
    match best with
    | none => some e
    | some b => if e.1 < b.1 ∨ (e.1 = b.1 ∧ (e.2.1 < b.2.1 ∨ (e.2.1 = b.2.1 ∧ e.2.2 < b.2.2))) then some e else some b)
    none).map (·.2)

/-- R83: a notify is latched. -/
def State.latch (s : State) (vf q : Nat) : State :=
  s.onVf vf fun v => if v.pend.any (fun e => e.1 == q) then v else { v with pend := v.pend ++ [(q, s.cycle, false)] }

/-- R81: a queue gains a slot: its descriptor is read. One without records takes none. The spec does not say what becomes of a
descriptor with QLOG2 13 to 15, a misaligned QVA or CKVA or a RES bit set: it is taken as it stands (log 84). -/
def State.gainSlot (s : State) (pn k vf q : Nat) : State :=
  match aget? s.parts pn with
  | none => s
  | some p =>
    let d := s.devNat p ((s.vf vf).descriptor q) 64
    let head := field d 64 32
    let s := s.onVf vf fun v => { v with pend := v.pend.filter fun e => e.1 != q }
    let tail := aget (s.vf vf).tails head q
    if queueLeft head tail = 0 then s
    else
      let x : QSlot :=
        { vf := vf, queue := q, qva := field d 0 56, qlog2 := field d 56 4, nopre := bit d 60, supv := bit d 61,
          ckva := field d 128 56, kernel := none, waitingLaunch := none, pending := none, boundary := false }
      (s.onVf vf fun v => { v with heads := aset v.heads q head }).onPart pn fun p => { p with qslots := aset p.qslots k x }

/-- R81: HEAD and TAIL written back to a queue's descriptor. -/
def State.writeBack (s : State) (p : Part) (x : QSlot) : State :=
  let v := s.vf x.vf
  s.devPut p (v.descriptor x.queue + 8) 8 (aget v.heads 0 x.queue + aget v.tails 0 x.queue * 2 ^ 32)

/-- R81, R83: a queue loses its slot; one that still has records is latched. -/
def State.loseSlot (s : State) (pn k : Nat) : State :=
  match aget? s.parts pn with
  | none => s
  | some p =>
    match aget? p.qslots k with
    | none => s
    | some x =>
      let s := (s.writeBack p x).onPart pn fun p => { p with qslots := aerase p.qslots k }
      let v := s.vf x.vf
      if queueLeft (aget v.heads 0 x.queue) (aget v.tails 0 x.queue) = 0 then s else s.latch x.vf x.queue

/-- The slot runs, awaits and records nothing. -/
def QSlot.idle (x : QSlot) : Bool := x.kernel.isNone && x.waitingLaunch.isNone && x.pending.isNone

/-- R83: a queue without NOPRE that stands at a launch boundary. -/
def Part.yields (p : Part) : Option Nat :=
  (p.qslots.find? fun x => x.2.idle && x.2.boundary && !x.2.nopre).map (·.1)

/-- R83: latched queues take free or yielded slots, in their order. Which of several free slots a queue takes, and which of several
queues at a launch boundary yields, the spec does not say: the lowest slot is the model's choice (log 92). -/
def State.serveQueues (s : State) (pn : Nat) : Nat → State
  | 0 => s
  | fuel + 1 =>
    match aget? s.parts pn with
    | none => s
    | some p =>
      if p.state ≠ .active ∨ p.halt ≠ none then s
      else
        match s.firstLatched p with
        | none => s
        | some (vf, q) =>
          match freeKey p.qslots (upto 32), p.yields with
          | some k, _ => (s.gainSlot pn k vf q).serveQueues pn fuel
          | none, some k => ((s.loseSlot pn k).gainSlot pn k vf q).serveQueues pn fuel
          | none, none => s

/-- QERR counts an ignored write (Table 4.1). -/
def State.countQerr (s : State) (vf : Nat) : State := s.onVf vf fun v => { v with qerr := min (v.qerr + 1) 0xFFFFFFFF }

/-- R82, R83: a notify. -/
def State.notify (s : State) (vf q : Nat) (val : Word) : State :=
  match s.partOfVf vf with
  | none => s
  | some (pn, p) =>
    let v := s.vf vf
    let d := s.devNat p (v.descriptor q) 64
    let (head, log2) := match p.slotOf vf q with
      | some x => (aget v.heads 0 q, x.2.qlog2)
      | none => (field d 64 32, field d 56 4)
    let tail := val.toNat % 2 ^ 32
    if p.state = .evicted ∨ v.qcount ≤ q ∨ 2 ^ 32 ≤ val.toNat ∨ 2 ^ log2 < queueLeft head tail then s.countQerr vf
    else
      let s := s.onVf vf fun v => { v with tails := aset v.tails q tail }
      if (p.slotOf vf q).isSome ∨ queueLeft head tail = 0 then s else (s.latch vf q).serveQueues pn 64

/-- QNOTIFY (R82, R83). -/
def execQnotify (vf q : Nat) (val : Word) (s : State) : Host.Outcome State Fault Refusal :=
  .next (if q < 64 then s.notify vf q val else s)

/-- QUEUE_SLOT_GRANT (R83). -/
def execQueueSlotGrant (s : State) : Host.Outcome State Fault Refusal := .next (s.serveQueues s.cur.part 64)

/-- NOTIFY_STARVATION (R84): a latched notify of VF `sub` has waited for TSTARV µs. -/
def execNotifyStarvation (s : State) : Host.Outcome State Fault Refusal :=
  match s.partOfVf s.cur.sub with
  | none => .next s
  | some (pn, p) =>
    let due := (s.vf s.cur.sub).pend.find? fun e =>
      !e.2.2 && decide (e.2.1 + p.prec.tstarv * Config.cyclesPerMicro ≤ s.cycle)
    match due with
    | some (q, _, _) =>
      let s := s.onVf s.cur.sub fun v =>
        { v with pend := v.pend.map fun e => if e.1 = q then (e.1, e.2.1, true) else e }
      .next (s.mgmtEvent pn cTimeout 0x10 (s.cur.sub + q * 2 ^ 8))
    | none => .next s

/-! ## Records at HEAD (R86, R88) -/

/-- The fields of a number are zero. -/
def zeroFields (n : Nat) (l : List (Nat × Nat)) : Bool := l.all fun f => field n f.1 f.2 == 0

/-- The record at HEAD of a slot that is idle: its index and its 1,024 bits. -/
def State.recordAt (s : State) (p : Part) (x : QSlot) : Option (Nat × Nat) :=
  let v := s.vf x.vf
  let head := aget v.heads 0 x.queue
  if p.state = .active ∧ p.halt = none ∧ x.idle ∧ queueLeft head (aget v.tails 0 x.queue) ≠ 0 then
    some (head, s.devNat p (x.qva + 128 * (head % 2 ^ x.qlog2)) 128)
  else none

/-- A completion record waits to be written; the queue's HEAD moves past its record then. -/
def State.endRecord (s : State) (pn k : Nat) (r : PendingRec) : State :=
  s.onQSlot pn k fun x => { x with kernel := none, waitingLaunch := none, pending := some r, boundary := false }

/-- The record of a queue record that ended without a kernel. -/
def plainRecord (kind code sub qckpt result index : Nat) : PendingRec :=
  { kind := kind, code := code, sub := sub, left := 0, qckpt := qckpt, nfault := 0, result := result, index := index,
    ckpt := none }

/-! ## Launch (R86, R89, R90) -/

/-- The launch record's fields (Table 4.5). -/
def launchOf (n : Nat) : LaunchRec :=
  { rootent := field n 928 32, ilen := field n 912 13, ibase := field n 896 12, dslot := field n 408 8,
    arglen := field n 376 24, argva := field n 320 56, qckpt := field n 256 32, rchan := field n 236 4,
    roff := field n 224 12, ctarget := field n 192 32, cidx := field n 172 8, coff := field n 160 12,
    datlen := field n 120 24, datva := field n 64 56, imgh := field n 32 32, rbv := bit n 18, ckpt := bit n 17,
    skip := bit n 16, prio := field n 8 3 }

/-- RES fields of a launch record are zero. -/
def launchZero (n : Nat) : Bool :=
  zeroFields n [(960, 64), (925, 3), (908, 4), (416, 480), (400, 8), (288, 32), (240, 16), (180, 12), (144, 16), (19, 13),
    (11, 5), (4, 4)]

/-- R263: the translation entry of a launch from a queue; none when a RES field is set. -/
def State.launchXlat (s : State) (p : Part) (vf q : Nat) : Option Xlat :=
  match aget? p.xrecs vf with
  | none => some (.none' vf)
  | some o =>
    let e := s.poffNat p.prec (o + 32 * q) 32
    if zeroFields e [(192, 64), (180, 12), (128, 13), (116, 12), (64, 13), (18, 46)] then
      some ⟨vf, bit e 16, bit e 17, field e 77 39 * 2 ^ 13, field e 141 39 * 2 ^ 13, field e 0 16⟩
    else none

/-- R90: a tile of an interval is usable. -/
def State.usable (s : State) (im : Image) (t : Nat) : Bool := im.nomx || !(s.tile t).core.eng.dead

/-- Two ranges of addresses meet. -/
def rangeMeets (a n b m : Nat) : Bool := a < b + m && b < a + n

/-- The partition offset at which an address lies under a translation context; none when it does not translate. -/
def State.offsetOf (s : State) (pn : Nat) (p : Part) (xl : Xlat) (va : Nat) : Option Nat :=
  match (s.walkFor pn p xl va true false).1 with
  | .ok out => some out
  | _ => none

/-- Every granule of a range either lies in partition HBM outside the image store, or has no stage-two entry yet. -/
def State.unitsInside (s : State) (pn : Nat) (p : Part) (xl : Xlat) (va granules : Nat) : Bool :=
  (upto granules).all fun i =>
    match (s.walkFor pn p xl (va + 65536 * i) true false).1 with
    | .ok out => p.prec.covers out 65536
    | .xlate => false
    | .miss _ _ => true

/-- A live buffer of the partition covers a byte of the range (R49). Whether buffers meet by virtual address or by what they
translate to, the spec does not say: the model compares virtual addresses, whatever the translation contexts are (log 92). -/
def State.bufferMeets (s : State) (pn base len : Nat) : Bool :=
  s.cts.any fun e => e.2.part == pn && (e.2.state == .exclusive || e.2.state == .sealed)
    && rangeMeets base len e.2.base (e.2.len * ((HomeKind.ofCode (e.1 / 2 ^ 28)).getD .tile).granule)

/-- Table 4.6, 0x14: where a buffer of a launch may lie: its addresses are judged as they are translated (R263). -/
def State.bufferOk (s : State) (pn : Nat) (p : Part) (xl : Xlat) (va granules : Nat) : Bool :=
  va % 65536 == 0 && va + granules * 65536 ≤ 2 ^ 52 && !s.bufferMeets pn va (granules * 65536)
  && s.unitsInside pn p xl va granules

/-- Table 4.6 and R90: a launch record checked: the refusal's code and subcode, or the kernel. Of several reasons that hold at once the
spec names none: the lowest subcode is the model's choice (log 92). -/
def State.checkLaunch (s : State) (pn : Nat) (p : Part) (x : QSlot) (index n : Nat) : Except (Nat × Nat) Kernel :=
  let r := launchOf n
  match launchZero n, s.launchXlat p x.vf x.queue with
  | false, _ | _, none => .error (cRefused, 0x10)
  | true, some xl =>
    match (aget? p.images r.imgh).bind fun im => if im.released then none else some im with
    | none => .error (cRefused, 0x11)
    | some im =>
      if r.ilen = 0 ∨ p.prec.plen < r.ibase + r.ilen then .error (cRefused, 0x12)
      else
        let interval := (upto r.ilen).map fun i => tileOfHilbert (p.prec.pbase + r.ibase + i)
        let tiles := interval.filter (s.usable im)
        let outside (o : Nat) : Bool := ((interval[o]?).map fun t => !tiles.contains t).getD true
        if tiles ≠ [] ∧ (outside r.coff ∨ (r.rbv ∧ outside r.roff)) then .error (cRefused, 0x13)
        else if (r.datlen ≠ 0 ∧ !s.bufferOk pn p xl r.datva r.datlen) ∨ (r.arglen ≠ 0 ∧ !s.bufferOk pn p xl r.argva r.arglen)
            ∨ (r.datlen ≠ 0 ∧ r.arglen ≠ 0 ∧ rangeMeets r.datva (r.datlen * 65536) r.argva (r.arglen * 65536))
            ∨ r.datlen * 65536 < im.dataLen then .error (cRefused, 0x14)
        else if (tiles.head?.map fun t => !((s.tile t).loc.slot r.dslot).open).getD false
            ∨ (r.datlen ≠ 0 ∧ im.dataLen = 0) then .error (cRefused, 0x15)
        else if r.prio = 7 ∧ !x.supv then .error (cRefused, 0x16)
        else if !im.legal r.rootent then .error (cRefused, 0x17)
        else if tiles = [] ∨ (tiles ≠ interval ∧ !r.skip) then .error (cMxdead, 0)
        else
          .ok { image := r.imgh, lrec := r, supv := x.supv, vf := x.vf, queue := x.queue, index := index,
                interval := interval, tiles := tiles, bias := 0, biasOld := 0, biasAt := 0, nfault := 0, xlat := xl, retire := .no,
                compTile := interval.getD r.coff 0 }

/-- R35, R305, R89 step 3: what a launch waits for: channel indices of its image that are bound on its interval, tiles
that a steward section owns or needs. -/
def State.launchWaits (s : State) (p : Part) (k : Kernel) : Bool :=
  let im := aget? p.images k.image
  let chans := (im.map fun i => i.chans.map (·.1)).getD []
  let own := (im.map fun i => decide (0 < i.stwLen)).getD false
  let meet (a b : List Nat) : Bool := a.any fun t => b.contains t
  (k.interval.any fun t => chans.any fun c => s.bound t c)
  || p.qslots.any fun x => (x.2.kernel.map fun o =>
      (own && meet k.tiles o.tiles)
      || (((aget? p.images o.image).map fun i => decide (0 < i.stwLen)).getD false && meet k.interval o.tiles)).getD false

/-- A free entry of a home's table, of those that the partition may use (R49, R78). -/
def State.freeEntry (s : State) (p : Part) (k : HomeKind) (agent : Nat) : Option Nat :=
  let ok (i : Nat) : Bool :=
    match k with
    | .tile => i < 1016
    | .cluster => p.tiles.any fun t => tileCluster t == agent && clusterPos t == i / 256
    | _ => true
  (upto (ctEntries k)).find? fun i => ok i && (s.ct (ctKey k agent i)).state == .free

/-- R49: a buffer created in an entry: its exclusive capability. -/
def State.createBuffer (s : State) (pn : Nat) (k : HomeKind) (agent i base len : Nat) (rights : Rights)
    (kslot : Option Nat) (owner : Place) (xl : Xlat) : State × Cap :=
  let key := ctKey k agent i
  let e := s.ct key
  let s := s.setCt key
    { e with
      state := .exclusive, base := base, len := len, tokOut := 0, tokLost := 0, maxr := rights, crgt := rights,
      laopen := false, recl := none, owner := owner, ownk := 0, kv := kslot.isSome, kslot := kslot.getD 0, lrs := [],
      part := pn, xlat := xl }
  (s, { hallmark := e.hallmark, ctidx := i, agent := agent, chip := s.chip, mode := .exclusive, rights := rights, kind := k,
        tokens := 0, woff := 0, wlen := len })

/-- R262: the memory agent of a buffer of partition HBM: that of its first partition offset. -/
def PartRec.agentOf (r : PartRec) (off : Nat) : Nat := r.chans.getD (off / 4096 % r.nch) 0

/-- Where each 4 KiB unit of a range of partition VA lies, under a launch's context; none when one does not
translate. -/
def State.unitsOf (s : State) (pn : Nat) (p : Part) (xl : Xlat) (va n : Nat) : Option (List Nat) :=
  (upto n).mapM fun i => (s.offsetOf pn p xl (va + 4096 * i)).bind fun out =>
    if p.prec.covers out 4096 then some (p.prec.phys out) else none

/-- A section of an image, `len` bytes at partition offset `off`, copied into units of 4 KiB, zero beyond its end. -/
def State.fillUnits (s : State) (p : Part) (off len : Nat) (units : List Nat) : State :=
  units.zipIdx.foldl (fun s u =>
    let at' := 4096 * u.2
    let data := s.poffBytes p.prec (off + at') (min 4096 (len - at'))
    (s.putBytes u.1 (data ++ List.replicate (4096 - data.length) 0)).eccWrite u.1 4096) s

/-- The rights R, W and G. -/
def rwg : Rights := ⟨true, true, false, true⟩

/-- R89 step 6: the record of a root task. -/
def rootRecord (s : State) (k : Nat) (kern : Kernel) (im : Image) (rank t : Nat) (cap : Option Cap) : TaskRec :=
  { img := { entry := kern.lrec.rootent, prio := kern.lrec.prio, nacc := im.nacc, reply := false, stv := false, stSlot := 0,
             ctrv := false, ctr := 0, target := 0, rv0 := false, rnum0 := 0, rcnt0 := 0, rv1 := false, rnum1 := 0,
             rcnt1 := 0, lmask := 0, arg := 0, resZero := true }
    kslot := k, sigmask := 0, retries := 0
    first := [word rank, word kern.tiles.length, word kern.lrec.qckpt, 0, placeWord ⟨s.chip, t⟩, BitVec.allOnes 64]
    cap := cap, prio := fixedPrio kern.lrec.prio 0, latched := false, q := .waiting, sender := none, born := s.cycle }

/-- R89 steps 4 to 6. An error refuses the launch, and nothing of it remains. A launch that has waited at step 3 meets the
slot and the buffers as they are now. The memory agent whose CT is the home of a buffer is that of VA bits [51:0] taken as a partition
offset, also where a translation stage leads elsewhere: the spec does not say which agent it is, and this is the model's choice (log
92). -/
def State.startKernel (s : State) (pn : Nat) (p : Part) (k : Nat) (kern : Kernel) : Except (Nat × Nat) State :=
  match aget? p.images kern.image, kern.tiles with
  | some im, t0 :: _ =>
    let r := kern.lrec
    let home (va : Nat) : Nat := p.prec.agentOf (va % 2 ^ 52)
    let here : Place := ⟨s.chip, t0⟩
    let data : Except (Nat × Nat) State :=
      if r.datlen = 0 then .ok s
      else
        match s.freeEntry p .hbm (home r.datva), s.unitsOf pn p kern.xlat r.datva (16 * r.datlen) with
        | some i, some units =>
          let (s, c) := s.createBuffer pn .hbm (home r.datva) i r.datva r.datlen rwg (some k) here kern.xlat
          .ok ((s.fillUnits p (im.base + im.dataOff) im.dataLen units).setSlot t0 r.dslot { cap := some c, kslot := some k, reserved := false, held := false })
        | _, _ => .error (cRefused, 0x14)
    let arg (s : State) : Except (Nat × Nat) (State × Option Cap) :=
      if r.arglen = 0 then .ok (s, none)
      else
        match s.freeEntry p .hbm (home r.argva) with
        | some i =>
          let (s, c) := s.createBuffer pn .hbm (home r.argva) i r.argva r.arglen rwg (some k) here kern.xlat
          .ok (s, some c)
        | none => .error (cRefused, 0x14)
    let meets (va len : Nat) : Bool := len != 0 && s.bufferMeets pn va (len * 65536)
    if kern.tiles.any fun t => (s.tile t).loc.freeRec.isNone then .error (cRefused, 1)
    else if meets r.datva r.datlen ∨ meets r.argva r.arglen then .error (cRefused, 0x14)
    else if !((s.tile t0).loc.slot r.dslot).open then .error (cRefused, 0x15)
    else
      match data.bind arg with
      | .error e => .error e
      | .ok (s, cap) =>
        let s := s.onQSlot pn k fun x => { x with kernel := some kern, waitingLaunch := none, boundary := false }
        let s := if 0 < im.stwLen then kern.tiles.foldl (fun s t => s.loadSteward t) s else s
        let s := kern.interval.foldl (fun s t =>
          (s.onLocal t fun l =>
            { l with chans := im.chans.foldl (fun m c => aset m c.1 { c.2 with kslot := k, dead := false }) l.chans }).onTile t
            fun v => { v with killed := aerase v.killed k }) s
        let c := (s.tile kern.compTile).loc.ctr r.cidx
        let s := s.setCtr kern.compTile r.cidx { c with value := 0 }
        .ok (kern.tiles.zipIdx.foldl (fun s t =>
          match (s.tile t.1).loc.freeRec with
          | some i => s.putRec t.1 i (rootRecord s k kern im t.2 t.1 (if t.2 = 0 then cap else none))
          | none => s) s)
  | _, _ => .error (cRefused, 0x11)

/-- A launch that has passed its checks starts, waits, or is refused (R89). -/
def State.tryLaunch (s : State) (pn : Nat) (p : Part) (k : Nat) (kern : Kernel) : State :=
  if s.launchWaits p kern then s.onQSlot pn k fun x => { x with waitingLaunch := some kern, boundary := false }
  else
    match s.startKernel pn p k kern with
    | .ok s => s.supvFlush pn
    | .error (code, sub) => s.endRecord pn k (plainRecord 0 code sub kern.lrec.qckpt 0 kern.index)

/-- R87: released images that no kernel, waiting launch or resident program uses leave the store. -/
def State.collectImages (s : State) (pn : Nat) : State :=
  s.onPart pn fun p =>
    let used (h : Nat) : Bool := p.supv.resident == some h
      || p.qslots.any fun x => (x.2.kernel.map fun k => k.image == h).getD false
          || (x.2.waitingLaunch.map fun k => k.image == h).getD false
    { p with images := p.images.filter fun i => !i.2.released || used i.1 }

/-- LAUNCH (R86, R88 to R90), of the record at HEAD of slot `sub`. -/
def execLaunch (s : State) : Host.Outcome State Fault Refusal :=
  let pn := s.cur.part
  let k := s.cur.sub
  match (aget? s.parts pn).bind fun p => (aget? p.qslots k).bind fun x => (s.recordAt p x).map fun r => (p, x, r) with
  | none => .next s
  | some (p, x, index, n) =>
    if field n 0 4 = 0 then
      match s.checkLaunch pn p x index n with
      | .error (code, sub) => .next (s.endRecord pn k (plainRecord 0 code sub (launchOf n).qckpt 0 index))
      | .ok kern => .next (s.tryLaunch pn p k kern)
    else if 3 ≤ field n 0 4 then .next (s.endRecord pn k (plainRecord 0 cRefused 0x10 0 0 index))
    else .next s

/-- LAUNCH_CHANNELS_FREE (R89 step 3). -/
def execLaunchChannelsFree (s : State) : Host.Outcome State Fault Refusal :=
  match (aget? s.parts s.cur.part).bind fun p => (aget? p.qslots s.cur.sub).bind fun x => x.waitingLaunch.map fun r => (p, r) with
  | some (p, kern) =>
    if p.state = .active ∧ p.halt = none then .next ((s.tryLaunch s.cur.part p s.cur.sub kern).collectImages s.cur.part)
    else .next s
  | none => .next s

/-! ## Images (R23 to R27, R87) -/

/-- The header's fields of an image of `len` bytes at `base` in the image store (Table 2.1), without its channels. -/
def headerOf (base len h : Nat) : Image :=
  { base := base, len := len, codeOff := field h 192 32, codeLen := field h 224 32, constOff := field h 256 32,
    constLen := field h 288 32, dataOff := field h 320 32, dataLen := field h 352 32, stwOff := field h 384 32,
    stwLen := field h 416 32, trapEnt := field h 160 32, nretry := field h 136 8, polTask := field h 128 2,
    polGrp := field h 130 2, polKern := field h 132 2, wh := field h 112 16, nview := field h 104 4,
    nring := field h 100 4, nacc := field h 96 3, nomx := bit h 65, det := bit h 64, chans := [], released := false }

/-- R34: a channel binding (Table 2.3). -/
def bindingOf (n : Nat) : Chan :=
  { entry := field n 0 32, prio := field n 32 4, reply := bit n 36, cring := if bit n 41 then some (field n 37 4) else none,
    nacc := field n 52 3, stv := bit n 55, stSlot := field n 56 8, arg := word (field n 64 64), kslot := 0, dead := false }

/-- R23: sections, as offset and length, lie behind the header at multiples of 64, apart and within the image. The offset of a
section of length 0 is not looked at: the spec does not say whether it must be one (log 84). -/
def sectionsOk (len : Nat) (l : List (Nat × Nat)) : Bool :=
  let l := l.filter fun x => x.2 != 0
  l.all (fun x => x.1 % 64 == 0 && 128 ≤ x.1 && x.1 + x.2 ≤ len)
  && (upto l.length).all fun i => (upto i).all fun j =>
    !rangeMeets (l.getD i (0, 0)).1 (l.getD i (0, 0)).2 (l.getD j (0, 0)).1 (l.getD j (0, 0)).2

/-- R25, R34, R305: the header and the channel table of an image as it stands in partition memory at `va`. The spec does not say
whether IMGLEN must equal the length that the record gives: any IMGLEN from 128 up to it is accepted (log 84). -/
def State.checkImage (s : State) (p : Part) (va len base : Nat) : Option Image :=
  let h := s.devNat p va 128
  let im := headerOf base len h
  let nchan := field h 480 8
  let chanOff := field h 448 32
  let table := (upto nchan).map fun i => s.devNat p (va + chanOff + 16 * i) 16
  let chans := table.map fun n => (field n 48 4, bindingOf n)
  let indices := chans.map (·.1)
  let imgLen := field h 512 32
  if field h 0 32 = 0x4B434843 ∧ field h 48 16 = 1
    ∧ zeroFields h [(544, 480), (488, 24), (144, 16), (134, 2), (108, 4), (99, 1), (66, 30)]
    ∧ 128 ≤ imgLen ∧ imgLen ≤ len ∧ len < 2 ^ 32
    ∧ im.codeLen ≠ 0 ∧ im.codeLen % 12 = 0 ∧ (im.wh = 0 ∨ (64 ≤ im.wh ∧ im.wh ≤ 1080)) ∧ im.nview ≤ 8 ∧ im.nring ≤ 8
    ∧ im.nacc ≤ 4 ∧ nchan ≤ 16 ∧ im.stwLen ≤ 32768 ∧ im.polGrp ≠ 1 ∧ im.polKern ≠ 1
    ∧ (im.trapEnt = 0xFFFFFFFF ∨ im.legal im.trapEnt)
    ∧ sectionsOk imgLen [(im.codeOff, im.codeLen), (im.constOff, im.constLen), (im.dataOff, im.dataLen),
        (im.stwOff, im.stwLen), (chanOff, 16 * nchan)]
    ∧ (table.all fun n => field n 42 6 == 0)
    ∧ (chans.all fun c => c.2.prio ≤ 6 && c.2.nacc ≤ im.nacc && im.legal c.2.entry)
    ∧ indices.eraseDups.length = indices.length
  then some { im with chans := chans }
  else none

/-- What the image store holds, as partition offsets and lengths: images (R87) and stage-two tables of 8 KiB (R264, R265). -/
def Part.stored (p : Part) : List (Nat × Nat) :=
  (p.images.map fun i => (i.2.base, i.2.len)) ++ p.s2tabs.map fun x => (x.2, 8192)

/-- R87, R264: room in the image store for `len` bytes at a multiple of `align`: the lowest place, as a partition offset
(log 10). -/
def Part.storeRoom (p : Part) (len align : Nat) : Option Nat :=
  let lo := p.prec.isoff * 65536
  let hi := lo + p.prec.islen * 65536
  let ends := lo :: p.stored.map fun i => (i.1 + i.2 + align - 1) / align * align
  (ends.filter fun b => b + len ≤ hi && !p.stored.any fun i => rangeMeets b len i.1 i.2).min?

/-- The granules of partition HBM where a sealed copy may start, the highest first. -/
def Part.constPlaces (p : Part) (granules : Nat) : List Nat :=
  let top := p.prec.nch * 32768
  if granules ≤ top then (upto (top - granules + 1)).map fun i => (top - granules - i) * 65536 else []

/-- R87: the place of the sealed copy of a const section: its address and the physical addresses of its 4 KiB units. It is the
highest one that no live buffer covers and that translates, under the context of the queue whose record registers the image, to
partition HBM outside the image store; if none translates, the highest partition offsets that no live buffer covers (log 10). -/
def State.constRoom (s : State) (pn : Nat) (p : Part) (xl : Xlat) (granules : Nat) : Option (Nat × List Nat) :=
  let free := (p.constPlaces granules).filter fun va => !s.bufferMeets pn va (granules * 65536)
  (free.findSome? fun va => (s.unitsOf pn p xl va (16 * granules)).map fun us => (va, us)).orElse fun _ =>
    (free.find? fun va => p.prec.covers va (granules * 65536)).map fun va =>
      (va, (upto (16 * granules)).map fun i => p.prec.phys (va + 4096 * i))

/-- R59, R87: the sealed buffer of an image's const section, held by the partition supervisor (OWNK 11). -/
def State.sealConst (s : State) (pn : Nat) (p : Part) (xl : Xlat) (im : Image) : State :=
  let g := (im.constLen + 65535) / 65536
  if g = 0 then s
  else
    match s.constRoom pn p xl g with
    | none => s
    | some (va, units) =>
      match s.freeEntry p .hbm (p.prec.agentOf va) with
      | none => s
      | some i =>
        let rights : Rights := ⟨true, false, false, true⟩
        let (s, c) := s.createBuffer pn .hbm (p.prec.agentOf va) i va g rights none ⟨s.chip, fabricTile⟩ xl
        let s := s.onCt c.key fun e => { e with state := .sealed, ownk := 3 }
        (s.fillUnits p (im.base + im.constOff) im.constLen units).supvDeliver pn { c with mode := .sealed } cOk

/-- R87: an image registered: the refusal's subcode, or the state and the handle. An image that finds no room in the store is
refused for that before its header is checked: the spec gives the two refusals no order (log 84). -/
def State.register (s : State) (pn : Nat) (p : Part) (xl : Xlat) (va len : Nat) : Except Nat (State × Nat) :=
  match p.storeRoom len 64 with
  | none => .error 0x18
  | some base =>
    match s.checkImage p va len base with
    | none => .error 0x19
    | some im =>
      let bytes := s.poffBytes p.prec (va % 2 ^ 52) len
      let s := s.putPoff p.prec base bytes
      let h := p.nextImage
      let s := s.onPart pn fun p =>
        { p with
          images := aset p.images h im, nextImage := h + 1
          imageLog := Config.shake256 (p.imageLog ++ Config.shake256 bytes 64) 64 }
      .ok (s.sealConst pn p xl im, h)

/-- REGISTER_IMAGE (R87, R88), of the record at HEAD of slot `sub`. -/
def execRegisterImage (s : State) : Host.Outcome State Fault Refusal :=
  let pn := s.cur.part
  let k := s.cur.sub
  match (aget? s.parts pn).bind fun p => (aget? p.qslots k).bind fun x => (s.recordAt p x).map fun r => (p, x, r) with
  | none => .next s
  | some (p, x, index, n) =>
    if field n 0 4 ≠ 1 then .next s
    else if !zeroFields n [(160, 864), (120, 8), (4, 60)] then
      .next (s.endRecord pn k (plainRecord 1 cRefused 0x10 0 0 index))
    else
      match s.register pn p ((s.launchXlat p x.vf x.queue).getD (.none' x.vf)) (field n 64 56) (field n 128 32) with
      | .ok (s, h) => .next (s.endRecord pn k (plainRecord 1 cOk 0 0 h index))
      | .error sub => .next (s.endRecord pn k (plainRecord 1 cRefused sub 0 0 index))

/-- RELEASE_IMAGE (R87, R88), of the record at HEAD of slot `sub`. -/
def execReleaseImage (s : State) : Host.Outcome State Fault Refusal :=
  let pn := s.cur.part
  let k := s.cur.sub
  match (aget? s.parts pn).bind fun p => (aget? p.qslots k).bind fun x => (s.recordAt p x).map fun r => (p, r) with
  | none => .next s
  | some (p, index, n) =>
    if field n 0 4 ≠ 2 then .next s
    else if !zeroFields n [(64, 960), (4, 28)] then .next (s.endRecord pn k (plainRecord 2 cRefused 0x10 0 0 index))
    else
      match aget? p.images (field n 32 32) with
      | some im =>
        if im.released then .next (s.endRecord pn k (plainRecord 2 cRefused 0x11 0 0 index))
        else
          let s := s.onPart pn fun p => { p with images := aset p.images (field n 32 32) { im with released := true } }
          .next ((s.collectImages pn).endRecord pn k (plainRecord 2 cOk 0 0 0 index))
      | none => .next (s.endRecord pn k (plainRecord 2 cRefused 0x11 0 0 index))

/-! ## Completion records (R435, R436, R447) -/

/-- The 256 bits of a completion record (Table 19.7). -/
def PendingRec.nat (r : PendingRec) (vf q : Nat) : Nat :=
  r.code % 2 ^ 8 + r.sub % 2 ^ 8 * 2 ^ 8 + r.kind % 2 ^ 4 * 2 ^ 16 + q % 2 ^ 6 * 2 ^ 48 + vf % 2 ^ 7 * 2 ^ 64
    + r.nfault % 2 ^ 8 * 2 ^ 72 + r.index % 2 ^ 32 * 2 ^ 96 + r.qckpt % 2 ^ 32 * 2 ^ 128 + r.left % 2 ^ 32 * 2 ^ 160
    + r.result % 2 ^ 64 * 2 ^ 192

/-- R447: the 64 bytes of a VF's error block. -/
def Vf.errorBlock (v : Vf) : List Byte :=
  leBytes 64 ((v.errs.getD 0 0) % 2 ^ 64 + (v.errs.getD 1 0) % 2 ^ 64 * 2 ^ 64 + (v.errs.getD 2 0) % 2 ^ 64 * 2 ^ 128
    + (v.errs.getD 3 0) % 2 ^ 64 * 2 ^ 192 + (v.errs.getD 4 0) % 2 ^ 64 * 2 ^ 256)

/-- R83: a queue at its launch boundary gives up its slot when it is empty; latched queues are served. -/
def State.launchBoundary (s : State) (pn k : Nat) : State :=
  match (aget? s.parts pn).bind fun p => aget? p.qslots k with
  | none => s
  | some x =>
    let v := s.vf x.vf
    let s := if queueLeft (aget v.heads 0 x.queue) (aget v.tails 0 x.queue) = 0 then s.loseSlot pn k
      else s.onQSlot pn k fun x => { x with boundary := true }
    s.serveQueues pn 64

/-- COMPLETION_RECORD_WRITE (R435 to R437), of slot `sub`: the record, the error block, the checkpoint pair, HEAD. -/
def execCompletionRecordWrite (s : State) : Host.Outcome State Fault Refusal :=
  let pn := s.cur.part
  let k := s.cur.sub
  match (aget? s.parts pn).bind fun p => (aget? p.qslots k).bind fun x => x.pending.map fun r => (p, x, r) with
  | none => .next s
  | some (p, x, r) =>
    let v := s.vf x.vf
    let h := s.devNat p (v.qtbase + 0x1000) 64
    let tail := field h 96 32
    let log2 := field h 60 4
    if p.state ≠ .active ∨ p.halt ≠ none ∨ queueLeft (field h 64 32) tail = 2 ^ log2 then .next s
    else
      let s := s.devPut p (field h 0 56 + 32 * (tail % 2 ^ log2)) 32 (r.nat x.vf x.queue)
      let s := s.devPut p (v.qtbase + 0x1000 + 12) 4 (tail + 1)
      let s := s.devBytes p (v.qtbase + 0x1040) v.errorBlock
      let next := (r.index + 1) % 2 ^ 32
      let s := match r.ckpt with
        | some n => s.devPut p x.ckva 16 (n + next * 2 ^ 64)
        | none => s
      let s := s.onVf x.vf fun v => { v with heads := aset v.heads x.queue next }
      let s := s.onQSlot pn k fun x => { x with pending := none }
      .next (s.launchBoundary pn k)

/-! ## Retirement (R437) -/

/-- R70, R437 step 6: a capability returns to the partition supervisor; a stale one or a lookahead vanishes. -/
def State.returnCap (s : State) (pn t : Nat) (cap : Cap) (reason : Nat) : State :=
  match cap.mode with
  | .lookahead => s.clearReader cap ⟨s.chip, t⟩
  | _ => if cap.chip = s.chip ∧ !s.current cap then s else s.supvDeliver pn cap reason

/-- A task of the kernel runs in a slot of the tile. -/
def State.runsOn (s : State) (k t : Nat) : Bool :=
  (s.tile t).loc.recs.any fun r => r.2.kslot == k && match r.2.q with
    | .running _ => true
    | _ => false

/-- R437 step 2: the kernel's waiting, ready and parked records on a tile are freed. -/
def State.freeRecords (s : State) (pn k t : Nat) : State :=
  (s.tile t).loc.recs.foldl (fun s r =>
    match r.2.q with
    | .running _ => s
    | _ =>
      if r.2.kslot = k then
        let park := aget? (s.tile t).loc.park r.1
        let caps : List (Nat × Cap) := match park, r.2.cap with
          | some e, _ => e.regs.c
          | none, some c => [(0, c)]
          | none, none => []
        let s := (s.unhold t r.1).keepAccs t r.1 ((park.map fun e => e.accs).getD [])
        let s := s.onLocal t fun l => { l with recs := aerase l.recs r.1, park := aerase l.park r.1 }
        let s := s.disposeAll caps fun s c => s.returnCap pn t c cOk
        if park.isSome && r.2.img.stv then
          s.setSlot t r.2.img.stSlot { (s.tile t).loc.slot r.2.img.stSlot with held := false }
        else s
      else s) s

/-- R437 steps 3 and 4: commands or steward operations of the kernel are still under way on a tile, or capabilities that it has given
up have yet to leave it. -/
def State.stillBusy (s : State) (k t : Nat) : Bool :=
  let v := s.tile t
  (v.core.ctxs.any fun c => c.2.mx.queue.any fun m => m.kslot == k)
  || ((v.core.eng.running.map fun r => r.2.kslot == k).getD false)
  || v.core.giving.any (·.kslot == k) || v.stw.ops.any fun o => o.kslot == k || v.stw.prog == .kernel k

/-- R437 steps 5 and 6 on a tile: rings, barrier entries and bindings go, and what the kernel still holds returns to the
supervisor. -/
def State.clearKernel (s : State) (pn k t : Nat) : State :=
  let l := (s.tile t).loc
  let w := (s.tile t).stw
  let caps := (l.rings.filter fun r => r.2.kslot == k).map (fun r => r.2.cap)
    ++ (l.slots.filter fun x => x.2.kslot == some k).filterMap (fun x => x.2.cap)
    ++ (l.kicks.filter fun x => x.2.kslot == k).filterMap (fun x => x.2.cap)
    ++ (w.k.filter fun x => x.2.2 == k).map (fun x => x.2.1)
  let slots := l.slots.filter fun x => x.2.kslot == some k
  let s := s.onLocal t fun l =>
    { l with
      rings := l.rings.filter fun r => r.2.kslot != k, bars := l.bars.filter fun b => b.2.kslot != k
      chans := l.chans.filter fun c => c.2.kslot != k
      kicks := (l.kicks.filter fun x => x.2.kslot != k || x.2.state == .claimed).map fun x =>
        if x.2.kslot = k then (x.1, { x.2 with cap := none }) else x }
  let s := slots.foldl (fun s x => s.setSlot t x.1 { x.2 with cap := none, kslot := none }) s
  let s := s.onSteward t fun w => { w with k := w.k.filter fun x => x.2.2 != k }
  let s := caps.foldl (fun s c => s.returnCap pn t c cOk) s
  let s := s.onTile t fun v => { v with killed := aerase v.killed k }
  if w.prog = .kernel k then s.loadSteward t else s

/-- The completion record of a kernel (R436). -/
def Kernel.record (k : Kernel) (code sub left : Nat) : PendingRec :=
  { kind := 0, code := code, sub := sub, left := left, qckpt := k.lrec.qckpt, nfault := k.nfault, result := 0, index := k.index,
    ckpt := if k.lrec.ckpt then some k.lrec.qckpt else none }

/-- R446: the slot of a kernel that a VF reset killed is released; latched queues are served. -/
def State.releaseSlot (s : State) (pn k : Nat) : State :=
  ((s.onPart pn fun p => { p with qslots := aerase p.qslots k }).collectImages pn).serveQueues pn 64

/-- R437: a kernel that stops goes on: its records are freed when no task of it runs; with its commands and operations
done it leaves its tiles. `done` then takes the number of its records that were freed here. -/
def State.retireOn (s : State) (pn k : Nat) (kern : Kernel) (wait : State → Nat → State) (done : State → Nat → State) :
    State :=
  if kern.interval.any (s.runsOn k) then s
  else
    let left := (kern.interval.map fun t => s.leftOn k t).sum
    let s := kern.interval.foldl (fun s t => s.freeRecords pn k t) s
    if kern.interval.any (s.stillBusy k) then wait s left
    else done (kern.interval.foldl (fun s t => s.clearKernel pn k t) s) left

/-- KERNEL_RETIRE (R91, R437), of slot `sub`: by its counter, after a kill, or after a VF reset (R446). But for the last, it
waits while the partition is halted (R448). -/
def execKernelRetire (s : State) : Host.Outcome State Fault Refusal :=
  let pn := s.cur.part
  let k := s.cur.sub
  match (aget? s.parts pn).bind fun p => (p.kernel k).map fun x => (p, x) with
  | none => .next s
  | some (p, kern) =>
    let runs := p.state = .active ∧ p.halt = none
    match kern.retire with
    | .no =>
      if runs ∧ reaches ((s.tile kern.compTile).loc.ctr kern.lrec.cidx).value kern.lrec.ctarget then
        .next (s.onKernel pn k fun x => { x with retire := .stopping cOk 0 false 0 })
      else .next s
    | .stopping code sub killed left =>
      if runs then
        .next (s.retireOn pn k kern
          (fun s n => s.onKernel pn k fun x => { x with retire := .stopping code sub killed (left + n) })
          fun s n => (s.endRecord pn k (kern.record code sub (left + n))).collectImages pn)
      else .next s
    | .withdrawn =>
      if p.state = .evicted then .next s
      else .next (s.retireOn pn k kern (fun s _ => s) fun s _ => s.releaseSlot pn k)

end Sys2Proof.Machine
end

