-- ==== Sys2Proof/Machine/Mgmt.lean ====
section
/-!
DEFINITION. The requests that a partition supervisor sends to the management agent (R95, Table 4.7). The event's turn
names the partition; each serves the request at the head of its queue.
-/

namespace Sys2Proof.Machine

/-! ## The frame of a request -/

/-- What a request answers: code, subcode, the words of x2 to x4, a capability for c0. -/
structure Reply where
  code : Nat
  sub : Nat
  x2 : Word
  x3 : Word
  x4 : Word
  cap : Option Cap
deriving DecidableEq, Repr

/-- A reply without result words. -/
def Reply.plain (code sub : Nat) (cap : Option Cap) : Reply := ⟨code, sub, 0, 0, 0, cap⟩
/-- OK with result words. -/
def Reply.words (x2 x3 x4 : Nat) : Reply := ⟨cOk, 0, word x2, word x3, word x4, none⟩
/-- A resource outside the partition (R95). -/
def Reply.outside : Reply := .plain cRefused 0x23 none
/-- An operand outside its range (R95). -/
def Reply.range : Reply := .plain cIllopnd 0 none

/-- One request as its operation sees it: the partition, the packet, the words x2 to x4 as numbers. -/
structure Request where
  pn : Nat
  part : Part
  pkt : Packet
  w0 : Nat
  w1 : Nat
  w2 : Nat
  cap : Option Cap
deriving DecidableEq, Repr

/-- The answer to a request: a message on VN1 to the channel it names (R95). -/
def State.reply (s : State) (p : Packet) (tag tile chan : Nat) (r : Reply) : State :=
  let s := match r.cap with
    | some c => s.setOwner c 2 ⟨s.chip, tile⟩
    | none => s
  s.send 1 p.part ⟨s.chip, fabricTile⟩ .fabric ⟨s.chip, tile⟩ p.kslot (if r.cap.isSome then 40 else 24)
    (.msg chan (word (r.code + r.sub * 2 ^ 8 + tag * 2 ^ 16)) r.x2 r.x3 r.x4 r.cap)

/-- The operations of Table 4.7. -/
def mgmtOps : Nat := 13

/-- The request at the head of the partition's queue is served when its operation is `op`. An unknown operation, a RES bit
set, and a capability with an operation that takes none, answer ILLOPND, the capability coming back in c0; so does BUF.FREE
without one (R95). A request that `f` does not answer yet stays at the head, and the agent serves no other. -/
def serveMay (op : Nat) (s : State) (f : State → Request → State × Option Reply) : Host.Outcome State Fault Refusal :=
  match (aget? s.parts s.cur.part).bind fun q => q.supv.requests.head?.map fun p => (q, p) with
  | none => .next s
  | some (q, p) =>
    match p.body with
    | .mgmt o tag zero words cap tile chan =>
      let known := 1 ≤ o && o ≤ mgmtOps
      if known && o != op then .next s
      else
        let answered (s : State) (r : Reply) : State :=
          (s.onSupv s.cur.part fun v => { v with requests := v.requests.drop 1 }).reply p tag tile chan r
        if !known || !zero || (cap.isSome != (o == 2)) then .next (answered s (.plain cIllopnd 0 cap))
        else
          let w := fun i => (words.getD i 0).toNat
          match f s ⟨s.cur.part, q, p, w 0, w 1, w 2, cap⟩ with
          | (s, some r) => .next (answered s r)
          | (s, none) => .next s
    | _ => .next (s.onSupv s.cur.part fun v => { v with requests := v.requests.drop 1 })

/-- The same for an operation that is answered at once. -/
def serve (op : Nat) (s : State) (f : State → Request → State × Reply) : Host.Outcome State Fault Refusal :=
  serveMay op s fun s r => ((f s r).1, some (f s r).2)

/-! ## Buffers (R49, R66) -/

/-- R78: an offset of a cluster's SRAM lies in a slice that the partition holds. -/
def Part.holdsSlice (p : Part) (cluster off : Nat) : Bool :=
  p.tiles.any fun t => tileCluster t == cluster && clusterPos t == off / 2 ^ 19

/-- R49, R78, R80, R256, R401: a buffer of `n` granules may lie at `base`: nothing; it is not the partition's: `outside`;
it is no place for a buffer: `range`. -/
def bufferPlace (p : Part) (k : HomeKind) (agent base n : Nat) : Option Reply :=
  let len := n * k.granule
  if base % k.granule ≠ 0 ∨ n = 0 ∨ kindAgents k ≤ agent then some .range
  else
    match k with
    | .tile =>
      if base / 2 ^ 40 ≠ 0x8 * 2 ^ 12 + agent ∨ 0x6FE00 < base % 2 ^ 40 + len then some .range
      else if p.holds agent then none else some .outside
    | .cluster =>
      let off := base % 2 ^ 40
      if base / 2 ^ 40 ≠ 0x9 * 2 ^ 12 + agent ∨ Config.clusterBytes < off + len then some .range
      else if (upto ((off + len - 1) / 2 ^ 19 + 1)).all fun i => i < off / 2 ^ 19 || p.holdsSlice agent (i * 2 ^ 19) then none
      else some .outside
    | .hbm =>
      if 1 < base / 2 ^ 52 ∨ 2 ^ 52 < base % 2 ^ 52 + len then some .range
      else if base / 2 ^ 52 = 0 then (if p.prec.chans.contains agent then none else some .outside)
      else if p.prec.chans[0]? = some agent then none else some .outside
    | .weight =>
      if base / 2 ^ 40 ≠ 0xA * 2 ^ 12 + agent ∨ Config.segmentBytes < base % 2 ^ 40 + len then some .range
      else if bit p.prec.wsmask agent then none else some .outside

/-- A slot of a request's word: tile in [11:0], parking slot in [19:12], the rest zero. -/
def slotWord (p : Part) (w : Nat) : Except Reply (Nat × Nat) :=
  if 2 ^ 20 ≤ w then .error .range
  else if p.holds (field w 0 12) then .ok (field w 0 12, field w 12 8) else .error .outside

/-- BUF.CREATE. -/
def bufCreate (s : State) (r : Request) : State × Reply :=
  let n := field r.w1 0 24
  let agent := field r.w1 28 12
  match slotWord r.part r.w2, HomeKind.ofCode (field r.w1 24 4) with
  | .error e, _ => (s, e)
  | .ok _, none => (s, .range)
  | .ok (t, slot), some k =>
    match bufferPlace r.part k agent r.w0 n with
    | some e => (s, e)
    | none =>
      if 2 ^ 44 ≤ r.w1 ∨ s.bufferMeets r.pn r.w0 (n * k.granule) then (s, .range)
      else if !((s.tile t).loc.slot slot).open then (s, .plain cRefused 2 none)
      else
        match s.freeEntry r.part k agent with
        | none => (s, .outside)
        | some i =>
          let xl := ((r.part.kernel r.pkt.kslot).map (·.xlat)).getD (.none' 0)
          let (s, c) := s.createBuffer r.pn k agent i r.w0 n (.ofCode (field r.w1 40 4)) none ⟨s.chip, t⟩ xl
          (s.setSlot t slot { cap := some c, kslot := none, reserved := false, held := false }, .words 0 0 0)

/-- BUF_CREATE (R49, R95). -/
def execBufCreate (s : State) : Host.Outcome State Fault Refusal := serve 1 s bufCreate

/-- BUF.FREE. A capability of another partition's buffer, or of another chip's, is a resource outside the partition. -/
def bufFree (s : State) (r : Request) : State × Reply :=
  match r.cap with
  | none => (s, .range)
  | some c =>
    let e := s.ct c.key
    if c.chip ≠ s.chip ∨ (s.current c ∧ e.part ≠ r.pn) then (s, .plain cRefused 0x23 (some c))
    else if !s.current c ∨ e.recl.isSome then (s, .plain cRevoked 0 (some c))
    else if c.mode ≠ .exclusive then (s, .plain cIllopnd 0 (some c))
    else if e.tokOut + e.tokLost ≠ 0 then (s, .plain cNotowner 0 (some c))
    else if e.laopen then (s, .plain cIllopnd 0 (some c))
    else (s.setCt c.key { CtEntry.free with hallmark := e.hallmark }, .words 0 0 0)

/-- BUF_FREE (R95). -/
def execBufFree (s : State) : Host.Outcome State Fault Refusal := serve 2 s bufFree

/-- A CT entry that a request names, KIND [3:0], AGENT [15:4], index [31:16], of those that the partition holds (R48,
R78). -/
def entryWord (p : Part) (w : Nat) : Except Reply Nat :=
  let agent := field w 4 12
  let i := field w 16 16
  match HomeKind.ofCode (field w 0 4) with
  | none => .error .range
  | some k =>
    if 2 ^ 32 ≤ w ∨ kindAgents k ≤ agent ∨ ctEntries k ≤ i then .error .range
    else
      let mine := match k with
        | .tile => p.holds agent
        | .cluster => p.holdsSlice agent (i / 256 * 2 ^ 19)
        | .hbm => p.prec.chans.contains agent
        | .weight => bit p.prec.wsmask agent
      if mine then .ok (ctKey k agent i) else .error .outside

/-- BUF.RECOVER begins: the reclaim of R66 starts, or the request is refused, or it waits for a reclaim of the entry that is under
way (Table 3.6). -/
def startRecover (s : State) (r : Request) : State × Option Reply :=
  match entryWord r.part r.w0, slotWord r.part r.w1 with
  | .error e, _ | .ok _, .error e => (s, some e)
  | .ok key, .ok (t, slot) =>
    let e := s.ct key
    let live := e.state == .exclusive || e.state == .sealed
    let v := (s.tile t).loc.slot slot
    if e.recl.isSome then (s, none)
    else if !live ∨ e.ownk ≠ 3 ∨ r.part.supv.hold.any (fun h => h.cap.key == key && h.cap.hallmark == e.hallmark) then
      (s, some .range)
    else if !v.open then (s, some (.plain cRefused 2 none))
    else
      (((s.setSlot t slot { v with reserved := true }).startReclaim key (.slot t slot none)).onSupv r.pn fun v =>
        { v with recover := some key }, none)

/-- BUF.RECOVER: the answer comes once the reclaim is complete and its capability is parked. An entry that retired leaves the slot
empty, and the answer is then REVOKED: the spec names no code for it (log 84). -/
def bufRecover (s : State) (r : Request) : State × Option Reply :=
  match r.part.supv.recover with
  | none => startRecover s r
  | some key =>
    if (s.ct key).recl.isSome then (s, none)
    else
      (s.onSupv r.pn fun v => { v with recover := none },
        some (if (s.ct key).state = .retired then .plain cRevoked 0 none else .words 0 0 0))

/-- BUF_RECOVER (R66, R95). -/
def execBufRecover (s : State) : Host.Outcome State Fault Refusal := serveMay 3 s bufRecover

/-- STATE of an entry. -/
def CtState.code : CtState → Nat
  | .free => 0 | .exclusive => 1 | .sealed => 2 | .retired => 3

/-- A lookahead-reader field (Table 3.3). -/
def lrCode (e : CtEntry) (i : Nat) : Nat :=
  match aget? e.lrs i with
  | some p => 2 ^ 22 + p.chip * 2 ^ 12 + p.tile
  | none => 0

/-- The 256 bits of a CT entry (Table 3.3). -/
def CtEntry.bits (e : CtEntry) : Nat :=
  e.base / 64 % 2 ^ 50 + e.len % 2 ^ 24 * 2 ^ 50 + e.hallmark % 2 ^ 16 * 2 ^ 74 + e.tokOut % 2 ^ 16 * 2 ^ 90
    + e.tokLost % 2 ^ 16 * 2 ^ 106 + e.state.code * 2 ^ 122 + e.maxr.code * 2 ^ 124 + boolNat e.laopen * 2 ^ 128
    + boolNat e.recl.isSome * 2 ^ 129 + e.owner.tile % 2 ^ 12 * 2 ^ 130 + e.owner.chip % 2 ^ 10 * 2 ^ 142
    + e.ownk % 4 * 2 ^ 152 + boolNat e.kv * 2 ^ 154 + e.kslot % 2 ^ 5 * 2 ^ 155 + lrCode e 0 * 2 ^ 160 + lrCode e 1 * 2 ^ 183
    + lrCode e 2 * 2 ^ 206 + lrCode e 3 * 2 ^ 229 + e.crgt.code * 2 ^ 252

/-- CT.READ. -/
def ctRead (s : State) (r : Request) : State × Reply :=
  match entryWord r.part r.w0 with
  | .error e => (s, e)
  | .ok key =>
    if 1 < r.w1 then (s, .range)
    else
      let n := (s.ct key).bits / 2 ^ (128 * r.w1)
      (s, .words (field n 0 64) (field n 64 64) 0)

/-- CT_READ (R95). -/
def execCtRead (s : State) : Host.Outcome State Fault Refusal := serve 4 s ctRead

/-! ## Tasks (R28, R125) -/

/-- The 512 bits of a record as the dispatcher keeps it (Table 2.2), HWQ without its queue links. -/
def TaskRec.bits (v : TaskRec) : Nat :=
  let i := v.img
  i.entry + i.prio * 2 ^ 32 + i.nacc * 2 ^ 36 + boolNat i.reply * 2 ^ 39 + v.sigmask.toNat * 2 ^ 40
    + v.retries % 2 ^ 8 * 2 ^ 56 + i.stSlot * 2 ^ 102 + boolNat i.stv * 2 ^ 110 + i.ctr * 2 ^ 111 + boolNat i.ctrv * 2 ^ 119
    + i.target * 2 ^ 128 + i.rcnt0 * 2 ^ 190 + i.rnum0 * 2 ^ 198 + boolNat i.rv0 * 2 ^ 202 + i.rcnt1 * 2 ^ 203
    + i.rnum1 * 2 ^ 211 + boolNat i.rv1 * 2 ^ 215 + i.lmask * 2 ^ 216

/-- State of a listed task: 00 waiting, 01 ready, 10 parked; none for one that runs. -/
def QState.code : QState → Option Nat
  | .waiting => some 0
  | .ready _ _ _ _ _ _ => some 1
  | .running _ => none
  | .parked => some 2

/-- TASK.LIST. -/
def taskList (s : State) (r : Request) : State × Reply :=
  if 2 ^ 12 ≤ r.w0 ∨ 1 < r.w2 then (s, .range)
  else if !r.part.holds r.w0 then (s, .outside)
  else
    let l := (s.tile r.w0).loc.recs.filterMap fun q => q.2.q.code.map fun c => (q.1, q.2, c)
    match l[r.w1]? with
    | none => (s, .plain cPartial 0 none)
    | some (i, v, c) =>
      let n := v.bits
      let x2 := recOffset i + v.kslot * 2 ^ 24 + c * 2 ^ 30 + min (s.cycle - v.born) (2 ^ 32 - 1) * 2 ^ 32
      if r.w2 = 0 then (s, .words x2 (field n 64 64) (field n 192 64)) else (s, .words x2 (field n 128 64) (field n 0 64))

/-- TASK_LIST (R95). -/
def execTaskList (s : State) : Host.Outcome State Fault Refusal := serve 5 s taskList

/-- BIAS.SET. -/
def biasSet (s : State) (r : Request) : State × Reply :=
  let b := signExtend r.w1 64
  if 32 ≤ r.w0 ∨ b < -6 ∨ 6 < b ∨ (r.part.kernel r.w0).isNone then (s, .range)
  else
    (s.onKernel r.pn r.w0 fun k => { k with bias := b, biasOld := k.biasIn s.cycle, biasAt := s.cycle }, .words 0 0 0)

/-- BIAS_SET (R95, R125). -/
def execBiasSet (s : State) : Host.Outcome State Fault Refusal := serve 6 s biasSet

/-! ## The partition's records, logs and places -/

/-- The 1,024 bits of a partition record (Table 4.2). -/
def PartRec.bits (r : PartRec) : Nat :=
  r.pbase + r.plen * 2 ^ 12 + r.ppol * 2 ^ 32 + boolNat r.shz * 2 ^ 34 + r.nch * 2 ^ 48 + r.wsmask * 2 ^ 64
    + r.vfmask * 2 ^ 128 + r.pnum * 2 ^ 320 + r.tstarv * 2 ^ 352 + r.isoff * 2 ^ 384 + r.islen * 2 ^ 416

/-- PREC.READ. -/
def precRead (s : State) (r : Request) : State × Reply :=
  let p := r.part.prec
  if r.w0 < 16 then (s, .words (field p.bits (64 * r.w0) 64) 0 0)
  else if r.w0 < 48 then
    (s, .words (leNat ((p.list.drop (8 * (r.w0 - 16))).take 8)) 0 0)
  else (s, .range)

/-- PREC_READ (R75, R95). -/
def execPrecRead (s : State) : Host.Outcome State Fault Refusal := serve 7 s precRead

/-- FLOG.SET: the log is placed and emptied. One that reaches beyond the partition's HBM is outside it. -/
def flogSet (s : State) (r : Request) : State × Reply :=
  if r.w0 % 64 ≠ 0 ∨ 2 ^ 56 ≤ r.w0 ∨ r.w1 < 4 ∨ 16 < r.w1 then (s, .range)
  else if r.part.prec.covers (r.w0 % 2 ^ 52) (64 * 2 ^ r.w1) then
    (s.onSupv r.pn fun v =>
      { v with flog := { base := some (r.w0 % 2 ^ 52), k := r.w1, head := 0, tail := 0, overflow := 0 } }, .words 0 0 0)
  else (s, .outside)

/-- FLOG_SET (R95, R428). -/
def execFlogSet (s : State) : Host.Outcome State Fault Refusal := serve 8 s flogSet

/-- FLOG.HEAD: the head advances, at most to the tail. -/
def flogHead (s : State) (r : Request) : State × Reply :=
  let f := r.part.supv.flog
  if r.w0 < f.head ∨ f.tail < r.w0 then (s, .range)
  else (s.onSupv r.pn fun v => { v with flog := { v.flog with head := r.w0 } }, .words f.tail f.overflow 0)

/-- FLOG_HEAD (R95, R428). -/
def execFlogHead (s : State) : Host.Outcome State Fault Refusal := serve 9 s flogHead

/-- XLAT.SET: the partition offset of a VF's translation record of 2,048 bytes (R263). -/
def xlatSet (s : State) (r : Request) : State × Reply :=
  if 128 ≤ r.w0 ∨ r.w1 % 32 ≠ 0 then (s, .range)
  else if bit r.part.prec.vfmask r.w0 ∧ r.part.prec.covers r.w1 2048 then
    (s.onPart r.pn fun p => { p with xrecs := aset p.xrecs r.w0 r.w1 }, .words 0 0 0)
  else (s, .outside)

/-- XLAT_SET (R95, R263). -/
def execXlatSet (s : State) : Host.Outcome State Fault Refusal := serve 10 s xlatSet

/-- R305: the program installed runs on every tile whose steward runs no kernel section. -/
def State.installProgram (s : State) (pn : Nat) (h : Option Nat) : State :=
  let s := s.onSupv pn fun v => { v with resident := h }
  match aget? s.parts pn with
  | none => s
  | some p =>
    (p.tiles.filter fun t => match (s.tile t).stw.prog with
      | .kernel _ => false
      | _ => true).foldl (fun s t => s.loadSteward t) s

/-- STW.INSTALL. -/
def stwInstall (s : State) (r : Request) : State × Reply :=
  if r.w0 = 0 then ((s.installProgram r.pn none).collectImages r.pn, .words 0 0 0)
  else
    match aget? r.part.images r.w0 with
    | some im =>
      if im.released ∨ im.stwLen = 0 then (s, .range)
      else ((s.installProgram r.pn (some r.w0)).collectImages r.pn, .words 0 0 0)
    | none => (s, .range)

/-- STW_INSTALL (R95, R305). -/
def execStwInstall (s : State) : Host.Outcome State Fault Refusal := serve 11 s stwInstall

/-- A place of a request's word: tile in [11:0], channel in [19:16], the rest zero. -/
def channelWord (p : Part) (w : Nat) : Except Reply (Nat × Nat) :=
  if 2 ^ 20 ≤ w ∨ field w 12 4 ≠ 0 then .error .range
  else if p.holds (field w 0 12) then .ok (field w 0 12, field w 16 4) else .error .outside

/-- SUPV.RECV: capabilities in the hold leave at once when the channel is bound (R94). -/
def supvRecv (s : State) (r : Request) : State × Reply :=
  match channelWord r.part r.w0 with
  | .error e => (s, e)
  | .ok at' => ((s.onSupv r.pn fun v => { v with recv := some at' }).supvFlush r.pn, .words 0 0 0)

/-- SUPV_RECV (R94, R95). -/
def execSupvRecv (s : State) : Host.Outcome State Fault Refusal := serve 12 s supvRecv

/-- SUPV.EVENTS. -/
def supvEvents (s : State) (r : Request) : State × Reply :=
  match channelWord r.part r.w0 with
  | .error e => (s, e)
  | .ok at' => (s.onSupv r.pn fun v => { v with mgmt := some at' }, .words 0 0 0)

/-- SUPV_EVENTS (R95, R429). -/
def execSupvEvents (s : State) : Host.Outcome State Fault Refusal := serve 13 s supvEvents

end Sys2Proof.Machine
end

