-- ==== Sys2Proof/Machine/Halt.lean ====
section
/-!
DEFINITION. Halted partitions (R438 to R440), REPLAY (R92, R445), the clearing of tiles (R443, R444), VF reset (R446).
-/

namespace Sys2Proof.Machine

/-! ## When a partition is halted (R438, R439) -/

/-- A burst of an operation is in the middle: the engine stops at its boundary (R438 step 5). One that waits for a page has not
begun its access. -/
def EngOp.midBurst (o : EngOp) : Bool :=
  o.flights.any fun f => match o.page with
    | some (_, _, start) => decide (f.start < start)
    | none => true

/-- R439: the tile has completed step 5. -/
def Tile.haltDone (v : Tile) (cycle : Nat) : Bool := v.stopped cycle && v.stw.ops.all fun o => !o.midBurst

/-- R441: the mesh traffic of a partition has drained: nothing of its tiles waits to be injected or is under way, but for
what waits at a tile; the strike horizon holds none of its writes and posts; its homes reclaim and invalidate nothing. -/
def State.meshDrained (s : State) (pn : Nat) (p : Part) : Bool :=
  (s.net.all fun q => q.part != pn || q.held)
  && (p.tiles.all fun t => (s.tile t).core.inj.isEmpty
      && (s.tile t).core.ctxs.all fun c => c.2.shzLog.isEmpty && c.2.shzPosts.isEmpty)
  && (s.cts.all fun e => e.2.part != pn || e.2.recl.isNone)
  && p.invq.isEmpty && p.supv.recover.isNone && s.probes.all fun q => !p.tiles.contains q.writer

/-- Every tile of a partition changed. -/
def State.onTiles (s : State) (p : Part) (f : Tile → Tile) : State := p.tiles.foldl (fun s t => s.onTile t f) s

/-- R440: each queue with a slot writes back HEAD and TAIL. -/
def State.writeBackAll (s : State) (p : Part) : State :=
  p.qslots.foldl (fun s x => if x.2.queue < 64 then s.writeBack p x.2 else s) s

/-- The tile stands halted (R438). -/
def Tile.halt (v : Tile) : Tile :=
  { v with core := { v.core with disp := { v.core.disp with halting := true, halted := true } }, stw := { v.stw with stopped := true } }

/-- The place of a record among the tile's ready tasks in the order of their stamps. -/
def Local.rankOf (l : Local) (r : TaskRec) : Nat :=
  match readyKey r with
  | some (_, n) => (l.recs.filter fun x => match readyKey x.2 with
      | some (_, m) => stampLt m n
      | none => false).length
  | none => 0

/-- R440: a ready task at PART.RESUME: its stamp is the resume cycle, it keeps its place and the level it has reached (R120), and
aging starts anew. -/
def TaskRec.anew (r : TaskRec) (cycle place : Nat) : TaskRec :=
  match r.q with
  | .ready prio _ _ _ _ _ => { r with q := .ready prio cycle place cycle cycle false }
  | _ => r

/-- R440: a tile of a partition that resumes: the halt line falls, the steward goes on. -/
def Tile.resume (v : Tile) (cycle : Nat) : Tile :=
  { v with
    core := { v.core with disp := { v.core.disp with halting := false, halted := false } }
    loc := { v.loc with recs := amap v.loc.recs fun _ r => r.anew cycle (v.loc.rankOf r) }
    stw := { v.stw with stopped := false } }

/-- R440: the partition goes on: ACTIVE, its tiles resumed, latched queues served. -/
def State.resumePart (s : State) (pn : Nat) : State :=
  match aget? s.parts pn with
  | none => s
  | some p =>
    let s := (s.onTiles p fun v => v.resume s.cycle).onPart pn fun p => { p with state := .active, halt := none, since := s.cycle }
    s.serveQueues pn 64

/-! ## REPLAY (R92, R93, R445) -/

/-- The capability that an engine operation holds outside the k registers. -/
def EngOp.carries (o : EngOp) : Option Cap :=
  match o.kind with
  | .deliver (some k) _ _ _ _ _ _ _ | .xfer (some k) _ _ _ _ _ false | .give (some k) _ => some k.cap
  | _ => none

/-- The capability that a held post carries. -/
def HeldPost.carries (h : HeldPost) : Option Cap :=
  h.packet?.bind fun p => match p.body with
    | .msg _ _ _ _ _ c | .mgmt _ _ _ _ c _ _ => c
    | _ => none

/-- The capabilities that a tile holds outside its running tasks: in slots, kick entries, rings, k registers, records, the park
store, engine operations, posts that have not left, and on their way out. -/
def Tile.heldCaps (v : Tile) : List Cap :=
  (v.loc.slots.filterMap fun x => x.2.cap) ++ (v.loc.kicks.filterMap fun x => x.2.cap)
    ++ (v.loc.rings.map fun x => x.2.cap) ++ (v.stw.k.map fun x => x.2.1)
    ++ (v.loc.recs.filterMap fun x => match x.2.q with
        | .running _ => none
        | _ => if (aget? v.loc.park x.1).isSome then none else x.2.cap)
    ++ (v.loc.park.flatMap fun x => x.2.regs.c.map fun c => c.2) ++ v.stw.ops.filterMap EngOp.carries
    ++ (v.core.ctxs.flatMap fun c => (c.2.spec.held ++ c.2.shzPosts).filterMap HeldPost.carries)
    ++ v.core.giving.map fun g => g.cap

/-- The local state of a tile with nothing in it; kicks keep their sequence count. -/
def Local.empty (seq : Nat) : Local :=
  { recs := [], park := [], slots := [], rings := [], ctrs := [], land := [], landHold := [], landFreed := [], chans := [], bars := [],
    kicks := [], kickSeq := seq }

/-- R92, R445: what a REPLAY clears on a tile: tasks, records, counters, landing registers, commands, operations. -/
def Tile.replayed (v : Tile) : Tile :=
  { v with
    core := { v.core with
      ctxs := [], accs := [], undo := [], history := [], giving := [], disp := { v.core.disp with held := none, left := [] } }
    loc := .empty v.loc.kickSeq
    stw := { v.stw with ops := [], k := [], sleep := none, fault := none }
    stwHistory := []
    killed := [] }

/-- R92: a queue's HEAD goes to the next-record index of its checkpoint pair. -/
def State.rewind (s : State) (p : Part) (vf q : Nat) : State :=
  let v := s.vf vf
  let d := s.devNat p (v.descriptor q) 64
  let head := s.devNat p (field d 128 56 + 8) 8 % 2 ^ 32
  (s.devPut p (v.descriptor q + 8) 4 head).onVf vf fun v => { v with heads := aset v.heads q head }

/-- R92: the queues of a VF that have records are latched anew. -/
def State.relatch (s : State) (p : Part) (vf : Nat) : State :=
  let s := (upto (min 64 (s.vf vf).qcount)).foldl (fun s q => s.rewind p vf q) s
  let s := s.onVf vf fun v => { v with pend := [] }
  (upto (min 64 (s.vf vf).qcount)).foldl (fun s q =>
    let v := s.vf vf
    let head := aget v.heads 0 q
    if queueLeft head (aget v.tails head q) = 0 then s else s.latch vf q) s

/-- R92, R445: the partition is reset. -/
def State.replayPart (s : State) (pn : Nat) : State :=
  match aget? s.parts pn with
  | none => s
  | some p =>
    let s := p.tiles.foldl (fun s t =>
      let caps := (s.tile t).heldCaps
      let s := s.onTile t Tile.replayed
      caps.foldl (fun s c => s.returnCap pn t c cOk) s) s
    let s := s.withdrawPart pn
    let s := (s.writeBackAll p).onPart pn fun p => { p with qslots := [], replay := false }
    let s := p.tiles.foldl (fun s t => s.loadSteward t) s
    (((upto 128).filter fun v => bit p.prec.vfmask v).foldl (fun s v => s.relatch p v) s).collectImages pn

/-! ## Clearing (R443, R444) -/

/-- R443, R50: an entry of a home that leaves its partition: free, its hallmark one higher. At the hallmark's end it retires, until
its partition is destroyed: `gone`. Fault-record buffers stay the device's. -/
def CtEntry.left (e : CtEntry) (device gone : Bool) : CtEntry :=
  if e.state = .retired ∨ e.hallmark = 0xFFFF then
    if gone then { (if device then e else CtEntry.free) with hallmark := 0 }
    else { CtEntry.free with state := .retired, hallmark := 0xFFFF }
  else if device then { e with hallmark := e.hallmark + 1 }
  else { CtEntry.free with hallmark := e.hallmark + 1 }

/-- The entries of a home, from an index on, leave their partition. -/
def State.freeEntries (s : State) (k : HomeKind) (agent first n : Nat) (gone : Bool) : State :=
  (upto n).foldl (fun s i =>
    s.onCt (ctKey k agent (first + i)) fun e => e.left (k == .tile && decide (1016 ≤ first + i)) gone) s

/-- The memory of a range of on-chip addresses is written with zeros (R444), its errors with it. -/
def State.zeroRange (s : State) (a n : Nat) : State :=
  let out (x : Nat) : Bool := x < a || a + n ≤ x
  { s with
    mem := s.mem.filter fun c => out c.1
    ecc := s.ecc.filter fun e => out (e.1 * 8)
    poison := s.poison.filter fun l => out (l * 64) }

/-- Address of a tile's cluster slice (R78). -/
def sliceAddr (t : Nat) : Nat := 0x9 * 2 ^ 52 + tileCluster t * 2 ^ 40 + clusterPos t * 2 ^ 19

/-- R444: the partition-held state of a tile is cleared; counts, and the mark of a failed engine, are the part's. -/
def Tile.cleared (v : Tile) : Tile :=
  { Tile.reset with
    core := { Tile.reset.core with eng := { Tile.reset.core.eng with count := v.core.eng.count, dead := v.core.eng.dead } }
    stored := v.stored, counts := v.counts }

/-- R444: a tile and its cluster slice are cleared. -/
def State.clearTile (s : State) (t : Nat) : State :=
  ((s.onTile t Tile.cleared).zeroRange (tileAddr t 0) Config.tileBytes).zeroRange (sliceAddr t) (2 ^ 19)

/-- R443: a tile and its cluster slice leave their partition. -/
def State.leaveTile (s : State) (t : Nat) (gone : Bool) : State :=
  ((s.clearTile t).freeEntries .tile t 0 1024 gone).freeEntries .cluster (tileCluster t) (clusterPos t * 256) 256 gone

/-- Address of a weight-store segment. -/
def segmentAddr (g : Nat) : Nat := 0xA * 2 ^ 52 + g * 2 ^ 40

/-- The segments of a mask. -/
def segmentsOf (mask : Nat) : List Nat := (upto Config.segments).filter fun g => bit mask g

/-- R444: a segment is written with zeros. -/
def State.clearSegment (s : State) (g : Nat) : State := s.zeroRange (segmentAddr g) Config.segmentBytes

/-- A segment leaves its partition. -/
def State.leaveSegment (s : State) (g : Nat) (gone : Bool) : State := (s.clearSegment g).freeEntries .weight g 0 1024 gone

/-- R111, R106: the content of a channel that leaves its partition cannot be read any more, and its entries are free. -/
def State.leaveChannel (s : State) (c : Nat) (gone : Bool) : State :=
  (s.zeroRange (c * 2 ^ 31) (2 ^ 31)).freeEntries .hbm c 0 65536 gone

/-- Translations of a partition leave the L2 TLBs of its clusters. -/
def State.dropL2 (s : State) (pn : Nat) : State :=
  { s with l2 := amap s.l2 fun _ l => l.filter fun e => e.part != pn }

/-- Where the bucket of a partition number and a port is kept (R408). -/
def bucketKey (pnum port : Nat) : Nat := pnum * 32 + port

/-- The depth of a bucket in bytes: its rate times 1 µs, and never less than 1,024 (R408). -/
def Bucket.depth (b : Bucket) : Nat := max b.rate 1024

/-- What a bucket holds at a cycle, in units of 1/1400 byte: above its depth it loses tokens (R409). -/
def Bucket.settle (b : Bucket) (cycle : Nat) : Bucket :=
  let raw := b.tokens + b.rate * (cycle - b.since)
  let top := b.depth * Config.cyclesPerMicro
  { b with tokens := min raw top, spill := b.spill + (raw - top), since := max b.since cycle }

/-- A bucket that nothing has set: of rate 0 on a UALink port, of 8,000 MB/s on CXL port 1 (R408). -/
def Bucket.fresh (port : Nat) : Bucket := { rate := if port = 16 then 8000 else 0, tokens := 0, spill := 0, since := 0 }

/-- R420: what outlives a partition that leaves: the record of a slot for a contributor outside the tiles of the slot's partition, and
a withdrawal that this chip sends. -/
def outlives (q : Packet) (chip : Nat) (p : Part) : Bool :=
  match q.body with
  | .collRecord _ _ _ _ _ _ => q.dst.chip != chip || !p.tiles.contains q.dst.tile
  | .withdraw _ _ => q.src.chip == chip
  | _ => false

/-- R109, R111: a partition's tiles, slices, segments and rates are freed. -/
def State.leavePlaces (s : State) (pn : Nat) (p : Part) (gone : Bool) : State :=
  let s := p.tiles.foldl (fun s t => s.leaveTile t gone) s
  let s := (segmentsOf p.prec.wsmask).foldl (fun s g => s.leaveSegment g gone) s
  let s := s.dropL2 pn
  { s with
    fabric := { s.fabric with buckets := s.fabric.buckets.filter fun b => b.1 / 32 != pn }
    net := s.net.filter fun q => q.part != pn || q.src.chip != s.chip || outlives q s.chip p }

/-! ## VF reset (R446) -/

/-- R446 step 1: a kernel is killed, its capabilities going to the supervisor; its slot leaves its queue. In an evicted
partition the kill waits for the saved state to come back. -/
def State.withdrawKernel (s : State) (pn k : Nat) (saved : Bool) : State :=
  let s := s.onKernel pn k fun x => { x with lrec := { x.lrec with rbv := false }, retire := .no }
  let s := if saved then s else s.killKernel pn k cWithdrawn 0
  s.onQSlot pn k fun x =>
    { x with
      queue := 64, waitingLaunch := none, pending := none
      kernel := x.kernel.map fun y => { y with retire := .withdrawn } }

/-- R446 step 2: a queue slot of the VF. -/
def State.withdrawQSlot (s : State) (pn vf : Nat) (saved : Bool) (x : Nat × QSlot) : State :=
  if x.2.vf = vf ∧ x.2.queue < 64 then
    if x.2.kernel.isSome then s.withdrawKernel pn x.1 saved
    else (s.onPart pn fun p => { p with qslots := aerase p.qslots x.1 }).collectImages pn
  else s

/-- R276, R446 step 4: the page requests of a VF are cancelled, and what waits for them is rejected. -/
def State.cancelPages (s : State) (p : Part) (vf : Nat) : State :=
  let s := s.onVf vf fun v => { v with prq := [], prqWaiting := [] }
  if p.state = .evicted then s
  else s.onTiles p fun v =>
    { v with stw := { v.stw with ops := v.stw.ops.map fun o =>
        if (o.page.map fun q => q.1 == vf).getD false then { o with rejected := true } else o } }

end Sys2Proof.Machine
end

