-- ==== Sys2Proof/Machine/Evict.lean ====
section
/-!
DEFINITION. Eviction and restore (R108 to R110, R441 to R444), and what follows when a partition is halted (R438, R439,
R445).
-/

namespace Sys2Proof.Machine

/-- What a blob holds of one channel, segment or tile (R441): the tile, the CT entries of its homes, its memory, the packets that waited
there. -/
structure SealedPiece where
  tile : Option Tile
  cts : Assoc CtEntry
  mem : Memory
  held : List Packet
deriving DecidableEq, Repr

end Sys2Proof.Machine

namespace Sys2Proof.Config

/-- The sealing secret of the part, 32 bytes (R108). -/
opaque sealingSecret : List Byte
/-- A piece of the body of a blob in the clear, of a channel, a segment or a tile: how its state is laid out in it is not in the spec
(R109). -/
opaque blobPiece : Machine.SealedPiece → Nat → Byte
/-- The key stream of AES-256-GCM under a key and a nonce of 96 zero bits (R108). -/
opaque gcmStream : List Byte → Nat → Byte
/-- The tag of AES-256-GCM under a key, over the additional authenticated data and the ciphertext (R109). -/
opaque gcmTag : List Byte → List Byte → List Byte → List Byte

end Sys2Proof.Config

namespace Sys2Proof.Machine

/-! ## Placing a sealed state elsewhere (R442) -/

/-- How a sealed state is placed anew: what becomes of capabilities, the hallmark that an entry's holder names, places, CT keys
and physical addresses. -/
structure Placement where
  cap : Cap → Cap
  mark : Nat → Nat → Nat
  place : Place → Place
  key : Nat → Nat
  addr : Nat → Nat

/-- A destination word for the new placement. -/
def Placement.word (m : Placement) (w : Word) : Word :=
  let p := m.place (placeOf w)
  BitVec.ofNat 64 (w.toNat / 2 ^ 22 * 2 ^ 22 + p.chip * 2 ^ 12 + p.tile)

/-- A captured view. -/
def Placement.view (m : Placement) (b : BoundView) : BoundView := { b with cap := b.cap.map m.cap }

/-- A queued matrix command. -/
def Placement.cmd (m : Placement) (c : MxCmd) : MxCmd :=
  { c with
    op := match c.op with
      | .mma t d a b sat => .mma t d (m.view a) (m.view b) sat
      | .mmat d a b sat => .mmat d (m.view a) (m.view b) sat
      | .load t d a => .load t d (m.view a)
      | .store t d a i sat mode => .store t (m.view d) a i sat mode
      | .scale d a b sat => .scale d a (m.view b) sat
      | o => o
    keys := c.keys.map m.key
    reads := c.reads.map fun r => (m.addr r.1, r.2)
    writes := c.writes.map fun r => (m.addr r.1, r.2) }

/-- A register file. -/
def Placement.regs (m : Placement) (r : Regs) : Regs := { r with c := amap r.c fun _ c => m.cap c }

/-- What a parked task waits for. -/
def Placement.wait (m : Placement) (w : ParkWait) : ParkWait :=
  match w with
  | .barrier p i ph => .barrier (m.place p) i ph
  | o => o

/-- A record: its capability, and x5 when a message created it. -/
def Placement.record (m : Placement) (r : TaskRec) : TaskRec :=
  { r with
    cap := r.cap.map m.cap
    first := if r.sender.isSome then r.first.set 4 (m.word (r.first.getD 4 0)) else r.first
    sender := r.sender.map m.place }

/-- A parked task: its capabilities, its barrier, and x5 while it holds what its message gave (log 17). -/
def Placement.parked (m : Placement) (r : Option TaskRec) (e : Parked) : Parked :=
  let given := (r.map fun q => q.sender.isSome && aget e.regs.x 0 5 == q.first.getD 4 0).getD false
  let g := m.regs e.regs
  { e with regs := if given then { g with x := aset g.x 5 (m.word (aget g.x 0 5)) } else g, wait := m.wait e.wait }

/-- A kick entry: its capability, and the receiver of a COPY. -/
def Placement.kick (m : Placement) (k : Kick) : Kick :=
  { k with
    cap := k.cap.map m.cap
    args := if k.kind = 1 then k.args.set 0 (m.word (k.args.getD 0 0)) else k.args }

/-- A capability of an engine operation. -/
def Placement.kcap (m : Placement) (k : Option KCap) : Option KCap := k.map fun k => { k with cap := m.cap k.cap }

/-- An engine operation. -/
def Placement.op (m : Placement) (o : EngOp) : EngOp :=
  { o with kind := match o.kind with
      | .copy a b x y => .copy (m.kcap a) (m.kcap b) x y
      | .fill a x w => .fill (m.kcap a) x w
      | .deliver a x p d c w g n => .deliver (m.kcap a) x p (m.place d) c w g n
      | .xfer a d c h w b t => .xfer (m.kcap a) d c h w b t
      | .give a i => .give (m.kcap a) i
      | k => k }

/-- A ring: PTILE, its capability, the senders of its deliveries. -/
def Placement.ring (m : Placement) (r : Ring) : Ring :=
  let p := m.place ⟨r.pchip, r.ptile⟩
  { r with
    pchip := p.chip, ptile := p.tile, cap := m.cap r.cap
    deliveries := r.deliveries.map fun d => { d with src := m.place d.src } }

/-- A barrier entry of tile `t`: its buffer's hallmark, its publications. -/
def Placement.barrier (m : Placement) (t : Nat) (b : Barrier) : Barrier :=
  { b with hallmark := m.mark (ctKey .tile t b.ctidx) b.hallmark, pubs := amap b.pubs fun _ q => (m.cap q.1, q.2), prev := amap b.prev fun _ q => (m.cap q.1, q.2) }

/-- R276: a task parked on pages is ready again after a restore: its requests are cancelled, and it misses again. -/
def TaskRec.readied (r : TaskRec) (i : Nat) (e : Option Parked) (cycle : Nat) : TaskRec :=
  match r.q, e.map fun e => e.wait with
  | .parked, some (ParkWait.pages _ _) => { r with q := .ready r.prio cycle i cycle cycle false }
  | _, _ => r

/-- R442: the sealed state `o` of tile `t` over the cleared tile `v`. -/
def Placement.tile (m : Placement) (cycle t : Nat) (o v : Tile) : Tile :=
  { v with
    core := { v.core with
      ctxs := amap o.core.ctxs fun _ c => { c with regs := m.regs c.regs, mx := { c.mx with queue := c.mx.queue.map m.cmd } }
      disp := o.core.disp
      accs := o.core.accs
      overfill := o.core.overfill
      issued := o.core.issued
      giving := o.core.giving.map fun g => { g with cap := m.cap g.cap, ask := none }
      eng := { v.core.eng with slot := o.core.eng.slot } }
    loc := { o.loc with
      recs := amap o.loc.recs fun i r => (m.record r).readied i (aget? o.loc.park i) cycle
      park := amap o.loc.park fun i e => m.parked (aget? o.loc.recs i) e
      slots := amap o.loc.slots fun _ x => { x with cap := x.cap.map m.cap }
      rings := amap o.loc.rings fun _ r => m.ring r
      bars := amap o.loc.bars fun _ b => m.barrier t b
      kicks := amap o.loc.kicks fun _ k => m.kick k }
    stw := { o.stw with k := amap o.stw.k fun _ x => (m.cap x.1, x.2), ops := o.stw.ops.map m.op }
    killed := o.killed }

/-! ## The new places -/

/-- The Hilbert offset of a tile in a sealed partition. -/
def PartRec.offsetOf (r : PartRec) (t : Nat) : Option Nat :=
  let h := hilbert t
  if r.pbase ≤ h ∧ h < r.pbase + r.plen then some (h - r.pbase) else none

/-- The tile of a new placement for a tile of the old one. -/
def movedTile (old new : PartRec) (t : Nat) : Nat :=
  match old.offsetOf t with
  | some i => tileOfHilbert (new.pbase + i)
  | none => t

/-- The tile of a partition at a cluster position. -/
def PartRec.tileAt (r : PartRec) (cluster pos : Nat) : Option Nat :=
  ((upto r.plen).map fun i => tileOfHilbert (r.pbase + i)).find? fun t => tileCluster t == cluster && clusterPos t == pos

/-- The channel of a new list for a channel of the old one. -/
def movedChannel (old new : PartRec) (c : Nat) : Nat :=
  match old.chans.findIdx? (· == c) with
  | some i => new.chans.getD i c
  | none => c

/-- The new CT key of an entry (Table 3.4, R78). -/
def movedKey (old new : PartRec) (key : Nat) : Nat :=
  let agent := key / 65536 % 4096
  let i := key % 65536
  match HomeKind.ofCode (key / 2 ^ 28) with
  | some .tile => ctKey .tile (movedTile old new agent) i
  | some .cluster =>
    match old.tileAt agent (i / 256) with
    | some t =>
      let u := movedTile old new t
      ctKey .cluster (tileCluster u) (clusterPos u * 256 + i % 256)
    | none => key
  | some .hbm => ctKey .hbm (movedChannel old new agent) i
  | _ => key

/-- The new place of a physical address (R78, R80). -/
def movedAddr (old new : PartRec) (a : Nat) : Nat :=
  if a < 2 ^ 39 then movedChannel old new (a / 2 ^ 31) * 2 ^ 31 + a % 2 ^ 31
  else if a / 2 ^ 52 = 0x8 then tileAddr (movedTile old new (a / 2 ^ 40 % 2 ^ 12)) (a % 2 ^ 40)
  else if a / 2 ^ 52 = 0x9 then
    match old.tileAt (a / 2 ^ 40 % 2 ^ 12) (a % 2 ^ 40 / 2 ^ 19) with
    | some t => sliceAddr (movedTile old new t) + a % 2 ^ 19
    | none => a
  else a

/-- The hallmark that the entries of a home kind take at a restore is that of the new place; HBM entries keep theirs when
the channels were kept (R443). -/
def rehallmarks (key : Nat) (relhbm : Bool) : Bool := key / 2 ^ 28 != 2 || relhbm

/-- R442, R443: the new key and hallmark of an entry that was live under a hallmark when the state was sealed, and that takes
the hallmark of its new place. -/
def movedMark (s : State) (x : Sealed) (new : PartRec) (relhbm : Bool) (key mark : Nat) : Option (Nat × Nat) :=
  let i := key % 65536
  let e := aget x.cts (if 1016 ≤ i ∧ key / 2 ^ 28 = 0 then faultEntry (key / 65536) i else .free) key
  let k := movedKey x.prec new key
  if rehallmarks key relhbm ∧ e.hallmark = mark ∧ (e.state = .exclusive ∨ e.state = .sealed) then some (k, (s.ct k).hallmark)
  else none

/-- R442, R443: a capability of the sealed state that was current when it was sealed follows its buffer. -/
def movedCap (s : State) (x : Sealed) (new : PartRec) (relhbm : Bool) (c : Cap) : Cap :=
  match if c.chip = s.chip then movedMark s x new relhbm c.key c.hallmark else none with
  | some (k, h) => { c with agent := k / 65536 % 4096, ctidx := k % 65536, hallmark := h }
  | none => c

/-- The placement of a restore. -/
def placementOf (s : State) (x : Sealed) (new : PartRec) (relhbm : Bool) : Placement :=
  { cap := movedCap s x new relhbm
    mark := fun key h => ((movedMark s x new relhbm key h).map (·.2)).getD h
    place := fun p => if p.chip = s.chip then ⟨p.chip, movedTile x.prec new p.tile⟩ else p
    key := movedKey x.prec new
    addr := movedAddr x.prec new }

/-- A sealed CT entry goes to its new home with the names of its tiles rewritten, but where that entry has been retired (R50) and for
the device's own. -/
def State.restoreEntry (s : State) (m : Placement) (relhbm : Bool) (x : Nat × CtEntry) : State :=
  let k := m.key x.1
  let now := s.ct k
  let device := decide (x.1 / 2 ^ 28 = 0 ∧ 1016 ≤ x.1 % 65536)
  if device ∨ now.state = .retired ∨ (x.2.state ≠ .exclusive ∧ x.2.state ≠ .sealed) then s
  else
    s.setCt k
      { x.2 with
        base := if x.1 / 2 ^ 28 = 2 then x.2.base else m.addr x.2.base
        hallmark := if rehallmarks x.1 relhbm then now.hallmark else x.2.hallmark
        owner := m.place x.2.owner, lrs := amap x.2.lrs fun _ p => m.place p }

/-! ## Sealing and restoring -/

/-- The homes whose entries are sealed: those of the channels among them, also where the channels stay (R109). -/
def PartRec.sealsKey (r : PartRec) (p : Part) (key : Nat) : Bool :=
  let agent := key / 65536 % 4096
  let i := key % 65536
  match HomeKind.ofCode (key / 2 ^ 28) with
  | some .tile => p.holds agent
  | some .cluster => (r.tileAt agent (i / 256)).isSome
  | some .hbm => r.chans.contains agent
  | some .weight => bit r.wsmask agent
  | none => false

/-- The addresses whose bytes are sealed. -/
def PartRec.sealsAddr (r : PartRec) (p : Part) (relhbm : Bool) (a : Nat) : Bool :=
  if a < 2 ^ 39 then relhbm && r.chans.contains (a / 2 ^ 31)
  else if a / 2 ^ 52 = 0x8 then p.holds (a / 2 ^ 40 % 2 ^ 12)
  else if a / 2 ^ 52 = 0x9 then (r.tileAt (a / 2 ^ 40 % 2 ^ 12) (a % 2 ^ 40 / 2 ^ 19)).isSome
  else bit r.wsmask (a / 2 ^ 40 % 2 ^ 12)

/-- R441: the state of a partition sealed. -/
def State.sealPart (s : State) (pn : Nat) (p : Part) (relhbm : Bool) : Sealed :=
  { prec := p.prec
    tiles := p.tiles.foldl (fun m t => aset m t (s.tile t)) []
    cts := s.cts.filter fun e => p.prec.sealsKey p e.1
    mem := s.mem.filter fun c => p.prec.sealsAddr p relhbm c.1
    held := s.net.filter fun q => q.part == pn && q.held }

/-- The blob length of R109. -/
def PartRec.blobLen (r : PartRec) (relhbm : Bool) : Nat :=
  4096 + r.plen * 1114112 + (segmentsOf r.wsmask).length * 67108864 + r.nch * 2097152 + 16
    + if relhbm then r.nch * 2 ^ 31 else 0

/-- A field of exactly `n` bytes. -/
def fixedBytes (n : Nat) (bs : List Byte) : List Byte := (bs ++ List.replicate n 0).take n

/-- The clear header of a blob (R109). -/
def blobHeader (p : Part) (relhbm : Bool) : List Byte :=
  leBytes 4 0x4C424F42 ++ leBytes 4 1 ++ leBytes 8 p.handle.toNat ++ leBytes 4 p.epoch ++ leBytes 4 p.prec.plen
    ++ leBytes 4 p.prec.nch ++ leBytes 4 (segmentsOf p.prec.wsmask).length ++ leBytes 4 (boolNat relhbm)
    ++ fixedBytes 32 (Config.shake256 Config.identityKey 32) ++ List.replicate (4096 - 68) 0

/-- The blob key of a handle and an epoch (R108). -/
def blobKey (handle : Word) (epoch : Nat) : List Byte :=
  fixedBytes 32 (Config.shake256 (fixedBytes 32 Config.sealingSecret ++ leBytes 8 handle.toNat ++ leBytes 4 epoch) 32)

/-- What the blob holds of a channel of the partition: its CT, and its bytes when it leaves (R109). -/
def Sealed.channel (x : Sealed) (c : Nat) : SealedPiece :=
  { tile := none, cts := x.cts.filter fun e => e.1 / 65536 == ctKey .hbm c 0 / 65536
    mem := x.mem.filter fun b => decide (b.1 < 2 ^ 39) && b.1 / 2 ^ 31 == c, held := [] }

/-- What the blob holds of a segment. -/
def Sealed.segment (x : Sealed) (g : Nat) : SealedPiece :=
  { tile := none, cts := x.cts.filter fun e => e.1 / 65536 == ctKey .weight g 0 / 65536
    mem := x.mem.filter fun b => segmentAddr g ≤ b.1 && b.1 < segmentAddr g + Config.segmentBytes, held := [] }

/-- What the blob holds of a tile: its state, its CT, its part of the cluster's, its SRAM, its cluster slice. -/
def Sealed.tile (x : Sealed) (t : Nat) : SealedPiece :=
  { tile := aget? x.tiles t
    cts := x.cts.filter fun e => e.1 / 65536 == ctKey .tile t 0 / 65536
      || (e.1 / 65536 == ctKey .cluster (tileCluster t) 0 / 65536 && e.1 % 65536 / 256 == clusterPos t)
    mem := x.mem.filter fun b => (tileAddr t 0 ≤ b.1 && b.1 < tileAddr t 0 + Config.tileBytes)
      || (sliceAddr t ≤ b.1 && b.1 < sliceAddr t + 2 ^ 19)
    held := x.held.filter fun q => q.dst.tile == t }

/-- The body in the clear: the HBM part, channel by channel, then the segments, then the tiles in Hilbert order (R109, R441); the bytes within
a part are open (log 85). -/
def blobPlain (x : Sealed) (relhbm : Bool) (n : Nat) : Byte :=
  let chan := 2097152 + if relhbm then 2 ^ 31 else 0
  let segs := segmentsOf x.prec.wsmask
  let a := x.prec.nch * chan
  let b := a + segs.length * 67108864
  if n < a then Config.blobPiece (x.channel (x.prec.chans.getD (n / chan) 0)) (n % chan)
  else if n < b then Config.blobPiece (x.segment (segs.getD ((n - a) / 67108864) 0)) ((n - a) % 67108864)
  else Config.blobPiece (x.tile (tileOfHilbert (x.prec.pbase + (n - b) / 1114112))) ((n - b) % 1114112)

/-- The encrypted body of a blob of a sealed state (R109). -/
def blobBody (key : List Byte) (x : Sealed) (relhbm : Bool) (n : Nat) : List Byte :=
  (upto n).map fun i => blobPlain x relhbm i ^^^ Config.gcmStream key i

/-- The tag of a blob: its header is the additional authenticated data (R109). -/
def blobTag (key header body : List Byte) : List Byte := fixedBytes 16 (Config.gcmTag key header body)

/-- The bytes of a blob: the clear header, the encrypted body, the tag (R109). -/
def blobBytes (p : Part) (x : Sealed) (relhbm : Bool) : List Byte :=
  let key := blobKey p.handle p.epoch
  let header := blobHeader p relhbm
  let body := blobBody key x relhbm (p.prec.blobLen relhbm - 4112)
  header ++ body ++ blobTag key header body

/-- R109, R276, R420, R440, R441, R443: the eviction of a halted partition. -/
def State.evictPart (s : State) (pn : Nat) (p : Part) (relhbm : Bool) : State :=
  let s := s.writeBackAll p
  let x := s.sealPart pn p relhbm
  let vfs := (upto 128).filter fun v => bit p.prec.vfmask v
  let s := vfs.foldl (fun s v => s.onVf v fun f => { f with prq := [], prqWaiting := [], ide := false }) s
  let s := (s.withdrawPart pn).leavePlaces pn p false
  let s := if relhbm then p.prec.chans.foldl (fun s c => s.leaveChannel c false) s else s
  let p' : Part :=
    { p with
      state := .evicted, halt := none, epoch := (p.epoch + 1) % 2 ^ 32, evictions := p.evictions + 1, box := some x,
      relHbm := relhbm }
  let s := s.onPart pn fun q =>
    { q with
      state := .evicted, halt := none, epoch := p'.epoch, evictions := p'.evictions, box := some x, relHbm := relhbm }
  let s := { s with assay := { s.assay with hostOut := blobBytes p' x relhbm } }
  s.mailboxDone cOk 0 (word (p.prec.blobLen relhbm))

/-- The kernels of a partition after a restore (R442). -/
def Placement.kernel (m : Placement) (chip : Nat) (k : Kernel) : Kernel :=
  let mv (t : Nat) : Nat := (m.place ⟨chip, t⟩).tile
  { k with interval := k.interval.map mv, tiles := k.tiles.map mv, compTile := mv k.compTile }

/-- A packet that waited at a tile. -/
def Placement.packet (m : Placement) (q : Packet) : Packet := { q with dst := m.place q.dst, src := m.place q.src }
/-- A capability in the supervisor hold (log 17). -/
def Placement.heldCap (m : Placement) (h : HeldCap) : HeldCap := { h with cap := m.cap h.cap }

/-- R110, R442 to R444: the sealed state placed from a new PBASE on; the partition is PAUSED. -/
def State.restorePart (s : State) (pn : Nat) (p : Part) (x : Sealed) (pbase : Nat) : State :=
  let new := { p.prec with pbase := pbase }
  let p' : Part := { p with prec := new, state := .paused }
  let m := placementOf s x new p.relHbm
  let s := p'.tiles.foldl (fun s t => s.clearTile t) s
  let s := (segmentsOf new.wsmask).foldl (fun s g => s.clearSegment g) s
  let s := x.tiles.foldl (fun s t => s.onTile (movedTile x.prec new t.1) fun v => (m.tile s.cycle t.1 t.2 v).halt) s
  let s := x.cts.foldl (fun s e => s.restoreEntry m p.relHbm e) s
  let s := x.mem.foldl (fun s c => s.putBytes (m.addr c.1) [c.2]) s
  let s := { s with net := s.net ++ x.held.map m.packet }
  let mv (q : Nat × Nat) : Nat × Nat := ((m.place ⟨s.chip, q.1⟩).tile, q.2)
  let s := s.onPart pn fun q =>
    { q with
      prec := new, state := .paused, epoch := (q.epoch + 1) % 2 ^ 32, box := none, relHbm := false
      qslots := amap q.qslots fun _ y =>
        { y with kernel := y.kernel.map (m.kernel s.chip), waitingLaunch := y.waitingLaunch.map (m.kernel s.chip) }
      supv := { q.supv with
        recv := q.supv.recv.map mv, mgmt := q.supv.mgmt.map mv
        hold := q.supv.hold.map m.heldCap } }
  p.qslots.foldl (fun s y =>
    if (y.2.kernel.map fun k => k.retire == .withdrawn).getD false then s.withdrawKernel pn y.1 false else s) s

/-! ## PARTITION_HALTED -/

/-- PARTITION_HALTED (R439): every tile of the partition of the turn has completed step 5. A REPLAY that is due resets it; a
halt leaves it PAUSED; an eviction seals it once the mesh has drained. -/
def execPartitionHalted (s : State) : Host.Outcome State Fault Refusal :=
  let pn := s.cur.part
  match aget? s.parts pn with
  | none => .next s
  | some p =>
    match p.halt with
    | none => .next s
    | some why =>
      let mesh := match why with
        | .evict _ _ => s.meshDrained pn p
        | _ => true
      if !(p.tiles.all fun t => (s.tile t).haltDone s.cycle) || !mesh then .next s
      else
        let s := if p.replay then s.replayPart pn else s
        let s := s.onTiles p Tile.halt
        let pause (s : State) (p : Part) : State :=
          (s.writeBackAll p).onPart pn fun p => { p with state := .paused, halt := none }
        match why, aget? s.parts pn with
        | .evict relhbm _, some p => .next (s.evictPart pn p relhbm)
        | .replay, some p =>
          .next (if p.state = .active then s.resumePart pn else s.onPart pn fun p => { p with halt := none })
        | .pause, some p => .next ((pause s p).mailboxDone cOk 0 0)
        | _, some p => .next (pause s p)
        | _, none => .next s

end Sys2Proof.Machine
end

