-- ==== Sys2Proof/Machine/Fabric.lean ====
section
/-!
DEFINITION. The pod fabric (R396 to R409, R483): departures and token buckets, outstanding transfers and their outcomes,
packets and requests that arrive from other chips, routing generations, ports, the time base. The event's turn names by
`sub` a packet in the queues, a transfer or a ring.
-/

namespace Sys2Proof.Machine

/-! ## Routes (R398, R399, R401) -/

/-- Where a packet to another chip goes: a port, a memory pool behind CXL port 1, nowhere. -/
inductive Route where
  | port (n : Nat)
  | pool (w : Nat)
  | lost
deriving DecidableEq, Repr

/-- R399: the route of a packet in a generation. Which port of PORTS is chosen is a free value (log 1). The entry of the chip's own number
is ignored (R398): a request under a fabric address of the chip itself has no route (log 93). -/
def State.route (s : State) (gen : Bool) (p : Packet) : Route :=
  let e := s.fabric.entry gen p.dst.chip
  if p.dst.chip = s.chip || !bit e 31 || bit e 30 then .lost
  else
    match field e 27 2 with
    | 0 =>
      let l := portList (field e 0 16)
      if l.isEmpty then .lost else .port (l.getD (Config.freePort p.src.tile p.dst.tile (field e 0 16) % l.length) 0)
    | 1 => .port 16
    | 2 => .pool (field e 16 4)
    | _ => .lost

/-- The port at which a packet waits. -/
def State.portOf (s : State) (p : Packet) : Option Nat :=
  match s.route s.fabric.gencur p with
  | .port n => some n
  | .pool _ => some 16
  | .lost => none

/-- R407: capability packets, posts and collective packets, which only chips with CAPOK may exchange. -/
def needsCapok (b : Body) : Bool :=
  match b with
  | .access _ _ _ _ _ | .fabric _ _ _ _ | .operate _ _ _ _ _ _ _ _ | .answer _ _ _ _ => false
  | _ => true

/-! ## Outcomes (Table 18.3) -/

/-- A request to a home on another chip. -/
def isRequest (b : Body) : Bool :=
  match b with
  | .access _ _ _ _ _ | .fabric _ _ _ _ | .consult _ _ _ _ | .operate _ _ _ _ _ _ _ _ => true
  | _ => false

/-- Which outcome a packet has at its sender. -/
def transferFor (p : Packet) : TransferFor :=
  let asks := if p.op.isSome then TransferFor.engine else .access
  match p.body with
  | .answer _ _ _ _ => .reply
  | .aoprResult _ _ | .collRecord _ _ _ _ _ _ | .withdraw _ _ | .inc _ _ _ => .post
  | .grant _ _ _ => .grant
  | .access _ _ _ _ _ | .fabric _ _ _ _ | .operate _ _ _ _ _ _ _ _ => asks
  | .consult op _ _ _ => if op = 4 ∨ op = 5 then .post else asks
  | .collOpen _ _ _ _ _ | .contrib _ _ _ _ _ => .coll
  | _ => if p.op.isSome then .engine else .post

/-- The number that a request carries. -/
def requestId (b : Body) : Option Nat :=
  match b with
  | .access _ _ _ _ id | .fabric _ _ _ id | .consult _ _ _ id | .operate _ _ _ _ _ _ _ id | .burst _ _ _ id => some id
  | _ => none

/-- The virtual address of an element of a buffer of this chip. -/
def State.elementVa (s : State) (c : Cap) (off : Nat) : Nat := s.recordVa (some c) off

/-- VA, kind, payload and capability of a record about a packet (Table 19.11). -/
def State.packetRecord (s : State) (p : Packet) : Nat × Nat × Word × Option Cap :=
  let at' := targetVa p.dst
  match p.body with
  | .msg ch _ x2 _ _ cap => (at' ch, 0, x2, cap)
  | .inc i amount _ => (counterVa p.dst i, 1, word amount, none)
  | .land y vals => (at' y, 2, vals.getD 0 0, none)
  | .aoprResult y vals => (at' y, 3, vals.getD 0 0, none)
  | .op _ _ cap off args _ _ _ _ => (s.elementVa cap off, 3, args.getD 0 0, some cap)
  | .operate _ _ cap off fab args _ _ => ((fab.map (·.2)).getD (s.elementVa cap off), 3, args.getD 0 0, some cap)
  | .spawn _ words _ => (at' 0, 4, words.getD 0 0, none)
  | .collOpen _ _ _ _ ret => (at' 0, 5, word ret.reg, none)
  | .contrib h _ v _ _ => (at' (handleSlot h.toNat), 5, v, none)
  | .collClose h => (at' (handleSlot h.toNat), 5, h, none)
  | .withdraw h _ => (at' (handleSlot h.toNat), 5, h, none)
  | .collRecord (.land l) v _ _ _ _ => (at' l.reg, 5, v, none)
  | .collRecord (.ring _ r) v _ _ _ _ => (at' r, 5, v, none)
  | .slotReq _ ch _ x2 => (at' ch, 6, x2, none)
  | .access cap _ _ _ _ | .consult _ cap _ _ => (at' 0, 6, 0, some cap)
  | _ => (at' 0, 6, 0, none)

/-- The record of a packet (R482). -/
def State.recordOf (s : State) (p : Packet) (code sub : Nat) : FRec :=
  let r := s.packetRecord p
  { FRec.zero with
    code := code, sub := sub, src := 5, va := r.1, ord := ordSource p.src p.part r.2.1, iword := r.2.2.1.toNat,
    kslot := if p.src.chip = s.chip then p.kslot else 0, cap := r.2.2.2 }

/-- R482: a delivery that was not confirmed, in the log of the sending partition. -/
def State.logUnconfirmed (s : State) (p : Packet) (code sub : Nat) : State :=
  s.logFault p.part (s.recordOf p code sub) (s.vfOf p.part p.kslot)

/-- A commit awaits the answer to a request (R389). -/
def Hold.commits (h : Hold) (id : Nat) : Bool :=
  match h with
  | .commit _ i | .drain _ i => i == id
  | _ => false

/-- A home of the chip answers a relayed request, or performs the next piece of it under its fabric address (R401, R407). -/
def State.relayNext (s : State) (r : Relay) : State :=
  match r.left with
  | [] => s.answerRequest r.pkt r.part ((requestId r.pkt.body).getD 0) cOk 0 r.got
  | (fa, wr, n) :: rest =>
    let id := s.fabric.nextId
    let a : Ask := .fabric fa wr n
    let q := a.packet id
    let p : Packet := ⟨0, r.part, r.pkt.dst, .home, q.1, 0, s.cycle, a.len, q.2, none, false, none⟩
    { s with fabric := { s.fabric with
      out := s.fabric.out ++ [p], nextId := id + 1, relays := aset s.fabric.relays id { r with left := rest } } }

/-- The answer to a request with which a home performs one of another chip. -/
def State.answerRelay (s : State) (a : RemoteAnswer) : State :=
  match aget? s.fabric.relays a.id with
  | some r =>
    let s := { s with fabric := { s.fabric with relays := aerase s.fabric.relays a.id } }
    if a.code = cOk then s.relayNext { r with got := r.got ++ a.bytes }
    else s.answerRequest r.pkt r.part ((requestId r.pkt.body).getD 0) a.code a.sub []
  | none => s

/-- The context that awaits an answer (R285). The horizon's history takes the answer as given, since the request stands when the
tile rolls back to a cycle after it (R451). Otherwise the answer is about a capability that was given up (R298), or one to a home. -/
def State.answerAccess (s : State) (t : Nat) (a : RemoteAnswer) : State :=
  let give (v : Context) : Context := { v with hold := .none, answer := some a }
  match (upto 8).find? fun c => (s.ctxAt t c).hold == .remote a.id with
  | some c =>
    (s.onCore t fun k =>
      { k with history := k.history.map fun x =>
          if x.ctx = c ∧ x.before.hold = .remote a.id then { x with before := give x.before } else x }).onCtxAt t c give
  | none => (s.answerGiving t a).answerRelay a

/-- An answer at the tile that asked: for a context's access, or for its commit (R389), which rolls back when the check of a logged
write is refused or not confirmed. -/
def State.answerContext (s : State) (t : Nat) (a : RemoteAnswer) : State :=
  match (upto 8).find? fun c => (s.ctxAt t c).hold.commits a.id with
  | some c =>
    let s' := { s with cur := { s.cur with tile := t, ctx := c } }
    match s'.who with
    | some w => s'.commitAnswer w (a.code == cOk)
    | none => s
  | none => s.answerAccess t a

/-- The code with which an operation stops (R311, R315): of a capability fault, its subcode; of a page that was rejected, XLATE. -/
def stopCode (code sub : Nat) : Nat × Nat :=
  if code = cCapfault then (sub, 0) else if code = cStage2 then (cXlate, 1) else (code, sub)

/-- A burst awaits the answer to a request. -/
def Flight.awaits (f : Flight) (id : Nat) : Bool := f.out == .asked id || f.parts.contains (.asked id)

/-- A request of an operation has failed: the operation stops before the burst that the request serves, and the bursts behind it are
not confirmed (R315). -/
def EngOp.fails (id code sub : Nat) (o : EngOp) : EngOp :=
  match o.flights.find? fun f => f.awaits id with
  | some f => { o with stop := some (stopCode code sub), flights := o.flights.filter fun g => g.start < f.start }
  | none => if o.waitTag.isSome then { o with stop := some (stopCode code sub), waitTag := none } else o

/-- R483: a granted delivery whose grant was not confirmed ends at the tile that granted it (log 86). -/
def State.grantLost (s : State) (t : Nat) (src : Place) (dl code : Nat) : State :=
  match (s.tile t).loc.ringOf src dl with
  | some (r, _) => s.onDelivery t r src dl fun d => if d.granted ∧ d.done.isNone then { d with done := some (code, 0, d.got) } else d
  | none => s

/-- A packet of this chip completes with a code other than OK (Table 18.3). The loss of an answer is noticed by the chip that awaits it. -/
def State.lose (s : State) (p : Packet) (id : Nat) (k : TransferFor) (code sub : Nat) : State :=
  match k, p.body with
  | .access, _ => s.answerContext p.src.tile ⟨id, code, sub, []⟩
  | .engine, .msg _ _ _ _ _ (some c) =>
    (s.reclaimPath p.part p.kslot p.src.tile c code).onOp p.src.tile (p.op.getD 0) (EngOp.fails id code sub)
  | .engine, _ | .granted, _ => s.onOp p.src.tile (p.op.getD 0) (EngOp.fails id code sub)
  | .grant, .grant dl _ _ => s.grantLost p.src.tile p.dst dl code
  | .post, .msg _ _ _ _ _ (some c) => s.reclaimPath p.part p.kslot p.src.tile c code
  | .coll, .contrib h i _ dest _ => s.sendRecord p.part dest 0 (collStatus code 0 0 none) 0 h i
  | .coll, .collOpen _ _ _ _ ret =>
    s.send 1 p.part ⟨s.chip, fabricTile⟩ .fabric ret.place p.kslot 32 (.land ret.reg [0, collStatus code 0 0 none])
  | .reply, _ => s
  | _, _ => s.logUnconfirmed p code sub

/-- The same for a packet that is not a transfer yet. -/
def State.losePacket (s : State) (p : Packet) (code sub : Nat) : State :=
  s.lose p ((requestId p.body).getD 0) (transferFor p) code sub

/-! ## Departures (R400, R403, R408) -/

/-- The bucket of a partition number and a port. -/
def State.bucket (s : State) (pn port : Nat) : Bucket := aget s.fabric.buckets (Bucket.fresh port) (bucketKey pn port)

/-- R400: FLIPWIN has come and the generation is still the old one. -/
def State.flipDue (s : State) : Bool := !s.fabric.flipped && s.fabric.flipwin ≤ s.window

/-- R409: pod time of the boundary that is to be taken next. -/
def State.nextBoundary (s : State) : Nat := (s.fabric.pooledAt + 1) * Config.cyclesPerMicro
/-- R409: that boundary has come. -/
def State.boundaryDue (s : State) : Bool := s.nextBoundary ≤ s.cycle + s.fabric.base

/-- R400: a flow's first packet of the new generation waits for those of the old one. -/
def State.waitsForOld (s : State) (p : Packet) : Bool :=
  s.fabric.transfers.any fun x => x.gen != boolNat s.fabric.gencur && sameStream x.pkt p

/-- R408, R327: an earlier packet is ahead in the queue of the partition and the port, or in the flow. -/
def State.behind (s : State) (i : Nat) (p : Packet) : Bool :=
  (s.fabric.out.take i).any fun q =>
    sameStream q p || (q.part == p.part && s.portOf q == s.portOf p && !s.waitsForOld q)

/-- The packet leaves the queues. -/
def State.unqueued (s : State) (i : Nat) : State :=
  { s with fabric := { s.fabric with out := s.fabric.out.eraseIdx i } }

/-- A packet of this chip becomes a transfer stamped with the current window; `sent` when it leaves. An operation whose result comes back
here is followed by the transfer of that result (R406), a request for slots by that of the grant (R483). -/
def State.addTransfer (s : State) (p : Packet) (port : Nat) (sent : Bool) : State :=
  let id := (requestId p.body).getD s.fabric.nextId
  let x : Transfer :=
    { id := id, stamp := s.window, gen := boolNat s.fabric.gencur, port := port, sent := sent, lost := !sent, pkt := p,
      kind := transferFor p }
  let more := match p.body with
    | .operate _ _ _ _ _ _ (some r) _ => if sent && r.place.chip == s.chip then [{ x with kind := .result }] else []
    | .slotReq _ _ _ _ => if sent then [{ x with kind := .granted }] else []
    | _ => []
  { s with fabric := { s.fabric with transfers := s.fabric.transfers ++ x :: more, nextId := s.fabric.nextId + 1 } }

/-- R408: a packet departs when its bucket holds its charge, L plus 16 bytes, and its port is up. What a partition that has been destroyed
still has to send is charged to nobody (log 54). -/
def State.departOn (s : State) (i : Nat) (p : Packet) (port : Nat) : State :=
  let b := (s.bucket p.part port).settle s.cycle
  let charge := if (aget? s.parts p.part).isNone then 0 else (p.len + 16) * Config.cyclesPerMicro
  if b.tokens < charge ∨ !s.fabric.portsUp.getLsbD port then s
  else
    let s := { s with fabric := { s.fabric with
      buckets := aset s.fabric.buckets (bucketKey p.part port) { b with tokens := b.tokens - charge } } }
    (s.unqueued i).addTransfer p port true

/-- R401, KIND 10: a CXL.mem request at the window's base plus the offset; an operation packet and an offset beyond the window
are refused. -/
def State.departPool (s : State) (i : Nat) (p : Packet) (w : Nat) : State :=
  let pool := aget s.fabric.pools (0, 0) w
  match p.body with
  | .fabric fa wr len id =>
    if pool.2 ≤ field fa 0 42 then (s.unqueued i).losePacket p cXlate 2
    else s.departOn i { p with body := .fabric (pool.1 + field fa 0 42) wr len id } 16
  | .operate _ _ _ _ (some _) _ _ _ => (s.unqueued i).losePacket p cIllopnd 2
  | _ => (s.unqueued i).addTransfer p 16 false

/-- R404: the code of a delivery to a chip that is not confirmed. -/
def State.lostCode (s : State) (chip : Nat) : Nat :=
  if s.fabric.unsync.isSome ∨ s.fabric.peerDown s.fabric.gencur chip then cPeerlost else cTimeout

/-- PACKET_DEPARTURE (R408): the packet `sub` of the queues. A packet without a route becomes a transfer that ends with
PEERLOST; an AOPR result whose windows are over leaves no more (R406). -/
def execPacketDeparture (s : State) : Host.Outcome State Fault Refusal :=
  let i := s.cur.sub
  match s.fabric.out[i]? with
  | none => .next s
  | some p =>
    if s.cycle < p.due ∨ s.fabric.unsync.isSome ∨ s.flipDue ∨ s.boundaryDue ∨ s.behind i p ∨ s.waitsForOld p then .next s
    else if p.last.any fun n => n < s.window then .next ((s.unqueued i).losePacket p (s.lostCode p.dst.chip) 0)
    else
      match s.route s.fabric.gencur p with
      | .lost => .next ((s.unqueued i).addTransfer p 0 false)
      | .pool w => .next (s.departPool i p w)
      | .port n => .next (s.departOn i p n)

/-- R409: a port's pool is shared among the partitions that have packets waiting there. -/
def State.sharePool (s : State) (cycle : Nat) (m : Assoc Bucket) (port : Nat) : Assoc Bucket :=
  let all := (upto 16).map fun pn => (pn, (aget m (Bucket.fresh port) (bucketKey pn port)).settle cycle)
  let pool := (all.map fun b => b.2.spill).sum
  let waits (pn : Nat) : Bool := s.fabric.out.any fun p => p.part == pn && s.portOf p == some port
  let ws := all.filter fun b => waits b.1
  let rates := (ws.map fun b => b.2.rate).sum
  all.foldl (fun m b =>
    let share := if !waits b.1 then 0 else if rates = 0 then pool / ws.length else pool * b.2.rate / rates
    let b' := { b.2 with spill := 0, tokens := min (b.2.tokens + share) (b.2.depth * Config.cyclesPerMicro) }
    if b' = Bucket.fresh port then m else aset m (bucketKey b.1 port) b') m

/-- TOKEN_REDISTRIBUTE (R409): the next 1 µs boundary is taken. -/
def execTokenRedistribute (s : State) : Host.Outcome State Fault Refusal :=
  if s.boundaryDue then
    let cycle := s.nextBoundary - s.fabric.base
    .next { s with fabric := { s.fabric with
      buckets := (upto 17).foldl (s.sharePool cycle) s.fabric.buckets, pooledAt := s.fabric.pooledAt + 1 } }
  else .next s

/-! ## Confirmation (R404, R406) -/

/-- A transfer is no longer outstanding. -/
def State.withoutTransfer (s : State) (i : Nat) : State :=
  { s with fabric := { s.fabric with transfers := s.fabric.transfers.eraseIdx i } }

/-- A packet or an acknowledgement is discarded and counted (R396, R399, R404). -/
def State.discard (s : State) : State := { s with fabric := { s.fabric with discarded := s.fabric.discarded + 1 } }

/-- A request is confirmed by its answer, every other transfer by an acknowledgement. -/
def answered (b : Body) : Bool := (requestId b).isSome

/-- The outstanding transfer with a number that an answer, or an acknowledgement, confirms in time. -/
def State.confirmed (s : State) (id : Nat) (byAnswer : Bool) : Option (Nat × Transfer) :=
  (s.fabric.transfers.findIdx? fun x =>
    x.id == id && x.sent && x.kind != .result && x.kind != .granted && answered x.pkt.body == byAnswer && s.window < x.stamp + 2).bind fun i =>
      (s.fabric.transfers[i]?).map fun x => (i, x)

/-- R396: a chip from which packets are taken: its routing entry is valid, in the current generation or in one that has not retired. -/
def State.knows (s : State) (chip : Nat) : Bool :=
  let f := s.fabric
  bit (f.entry f.gencur chip) 31 || (!f.retired && bit (f.entry (!f.gencur) chip) 31)

/-- FABRIC_ACKNOWLEDGEMENT (R396, R404): the transfer completes with OK; one that comes too late is discarded and counted. -/
def execFabricAcknowledgement (id : Nat) (s : State) : Host.Outcome State Fault Refusal :=
  match s.confirmed id false with
  | none => .next s.discard
  | some (i, x) =>
    if !s.knows x.pkt.dst.chip then .next s.discard
    else
    let s := s.withoutTransfer i
    match x.kind, x.pkt.body with
    | .engine, .msg _ _ _ _ _ _ | .engine, .endNotice _ _ _ _ =>
      .next (s.onOp x.pkt.src.tile (x.pkt.op.getD 0) fun o => { o with waitTag := none })
    | _, _ => .next s

/-- The subcodes of CAPFAULT (R8). -/
def capSubs : List Nat := [cRevoked, cRights, cBounds, cNotowner]

/-- What a home may answer to a request (R7, R8): OK; of an access a capability fault, XLATE (R53, R402), STAGE2 (R275) or UNCORR (R455);
of a question and an operation ILLOPND too (R280, R353, R401); of what it has performed under a fabric address TIMEOUT and PEERLOST
(R401, R404); of a burst the code of R54 with which its write was refused. -/
def answerCode (b : Body) (code sub : Nat) : Bool :=
  let cap := code == cCapfault && capSubs.contains sub
  let ill := code == cIllopnd && [0, 2].contains sub
  let xlat := (code == cXlate && [0, 2].contains sub) || (code == cStage2 && sub == 0)
  let lost := (code == cTimeout || code == cPeerlost) && sub == 0
  (code == cOk && sub == 0) || match b with
    | .access _ _ wr _ _ | .fabric _ wr _ _ => cap || xlat || lost || (wr.isNone && code == cUncorr && sub ≤ 1)
    | .operate _ _ _ _ _ _ _ _ => cap || ill || xlat || lost
    | .consult _ _ _ _ => cap || ill
    | .burst _ _ _ _ => capSubs.contains code && sub == 0
    | _ => false

/-- The code of an answer is one that its request may get, and its bytes are those that the request reads. -/
def answerFits (b : Body) (a : RemoteAnswer) : Bool :=
  let n := match b with
    | .access _ _ none len _ | .fabric _ none len _ => len
    | .consult 6 _ _ _ => 1
    | _ => 0
  answerCode b a.code a.sub && a.bytes.length == (if a.code = cOk then n else 0)

/-- A burst with the answer to a request of it. -/
def Flight.takes (a : RemoteAnswer) (f : Flight) : Flight :=
  { f with
    parts := f.parts.map fun p => if p = .asked a.id then .bytes a.bytes else p
    out := if f.out = .asked a.id then .done else f.out }

/-- The answer to a request of an operation (R315). -/
def EngOp.takes (a : RemoteAnswer) (o : EngOp) : EngOp :=
  if a.code ≠ cOk then o.fails a.id a.code a.sub else EngOp.confirm { o with flights := o.flights.map (Flight.takes a) }

/-- A result or a grant is no longer awaited: it has come, or its request was refused. -/
def State.dropAwaited (s : State) (k : TransferFor) (f : Transfer → Bool) : State :=
  match s.fabric.transfers.findIdx? fun x => x.kind == k && f x with
  | some i => s.withoutTransfer i
  | none => s

/-- An uncorrectable error that a burst met at a home on another chip is counted for its kernel's VF (R447, R459). -/
def State.countAnswer (s : State) (p : Packet) (a : RemoteAnswer) : State :=
  if a.code = cUncorr then s.countMemory (s.accessorOf p) 0 1 else s

/-- REMOTE_ACCESS_ANSWER (R285, R315, R396): the home's answer. -/
def execRemoteAccessAnswer (ans : RemoteAnswer) (s : State) : Host.Outcome State Fault Refusal :=
  match s.confirmed ans.id true with
  | none => .next s.discard
  | some (i, x) =>
    if !s.knows x.pkt.dst.chip then .next s.discard
    else if answerFits x.pkt.body ans then
      let s := s.withoutTransfer i
      match x.kind with
      | .engine => .next ((s.countAnswer x.pkt ans).onOp x.pkt.src.tile (x.pkt.op.getD 0) (EngOp.takes ans))
      | _ =>
        let s := if ans.code = cOk then s else s.dropAwaited .result fun y => y.id == ans.id
        .next (s.answerContext x.pkt.src.tile ans)
    else .next s

/-- The outcome of a transfer that was not confirmed. -/
def State.unconfirmed (s : State) (x : Transfer) (code : Nat) : State :=
  match x.kind with
  | .result => s.logUnconfirmed x.pkt code 0
  | k => s.lose x.pkt x.id k code 0

/-- TRANSFER_TIMEOUT (R404, R406): the transfer `sub` at the start of window N + 2, an awaited result at that of N + 3; a packet
that could not leave at once. An awaited grant may be given up from window N + 3 on: R483 gives it no bound (log 86). -/
def execTransferTimeout (s : State) : Host.Outcome State Fault Refusal :=
  match s.fabric.transfers[s.cur.sub]? with
  | none => .next s
  | some x =>
    let last := if x.kind = .result ∨ x.kind = .granted then x.stamp + 3 else x.stamp + 2
    if last ≤ s.window ∨ !x.sent then
      .next ((s.withoutTransfer s.cur.sub).unconfirmed x (if x.lost then cPeerlost else cTimeout))
    else .next s

/-- The AOPR result whose last words are applied is no longer awaited; one that comes after window N + 2 of its request is recorded
as not confirmed (R406). -/
def State.resultComes (s : State) (p : Packet) (y : Nat) (vals : List Word) : State :=
  let awaits (x : Transfer) : Bool := x.kind == .result && match x.pkt.body with
    | .operate fn _ _ _ _ _ (some l) _ => l.place == p.dst && l.reg + (if fn = 9 then 2 else 1) == y + vals.length
    | _ => false
  match s.fabric.transfers.findIdx? awaits with
  | some i =>
    match s.fabric.transfers[i]? with
    | some x =>
      let s := s.withoutTransfer i
      if x.stamp + 3 ≤ s.window then s.unconfirmed x (if x.lost then cPeerlost else cTimeout) else s
    | none => s
  | none => s

/-- AOPR_RESULT_ARRIVAL (R356, R406). -/
def execAoprResultArrival (s : State) : Host.Outcome State Fault Refusal :=
  arrival s fun s p => match p.body with
    | .aoprResult y vals =>
      let t := s.landOr p y vals .aoprResult
      some (some (if t.net.length = s.net.length && p.src.chip != s.chip then t.resultComes p y vals else t))
    | _ => none

/-! ## Arrivals (R396, R399, R402, R403, R407) -/

/-- The partition that owns the home of a capability. -/
def State.homePart (s : State) (c : Cap) : Option Nat :=
  match c.kind with
  | .tile => (s.partOfTile c.agent).map (·.1)
  | .hbm => (s.parts.find? fun q => q.2.holdsChan c.agent).map (·.1)
  | _ => if (s.ct c.key).state = .free then none else (aget? s.parts (s.ct c.key).part).map fun _ => (s.ct c.key).part

/-- A partition that the chip holds. -/
def State.livePart (s : State) (pn : Nat) : Option Nat := (aget? s.parts pn).map fun _ => pn

/-- The request is for a fabric address, whose partition the fabric MMUs tell (R402). -/
def fabricAddress (b : Body) : Option Nat :=
  match b with
  | .fabric fa _ _ _ | .operate _ _ _ _ (some (fa, _)) _ _ _ => some (field fa 0 42)
  | _ => none

/-- R407: the partition in which the destination of a packet lies: its home, the memory to which a fabric address is mapped, its
reduction slot, its tile. -/
def State.destPart (s : State) (p : Packet) : Option Nat :=
  match fabricAddress p.body with
  | some off => (s.fmmuAt p.src.chip p.part off).map (·.1)
  | none =>
    match p.body with
    | .access c _ _ _ _ | .consult _ c _ _ | .operate _ _ c _ _ _ _ _ => s.homePart c
    | .contrib h _ _ _ _ | .collClose h | .withdraw h _ => s.livePart (s.slotPart p (handleSlot h.toNat))
    | .collOpen _ _ _ _ _ => s.livePart p.part
    | _ => (s.partOfTile p.dst.tile).map (·.1)

/-- R482: a packet from another chip that is discarded, in the log of the destination partition or the host log. -/
def State.logArrival (s : State) (p : Packet) (code sub : Nat) : State :=
  match s.destPart p with
  | some q => s.logFault q (s.recordOf p code sub) none
  | none => s.logHost (s.recordOf p code sub)

/-- The statuses with which an engine operation may stop, and the subcode of each (R311, R315). -/
def moveStop (code sub : Nat) : Bool :=
  ((capSubs ++ [cTimeout, cPeerlost]).contains code && sub == 0) || (code == cXlate && sub ≤ 2) || (code == cUncorr && sub ≤ 1)

/-- The status of a COPY that an end notice may bring (R7, R311): PARTIAL has a code as its subcode. -/
def copyStatus (code sub done : Nat) : Bool :=
  (code == cOk && sub == 0) || (code == cPartial && 0 < done && (upto 3).any (moveStop sub)) || (done == 0 && moveStop code sub)

/-- The status word of a record that a slot sends (Table 18.6, R413): a code that it may have, its fields in range, its reserved bits
zero. -/
def recordStatus (st : Nat) : Bool :=
  [cOk, cTimeout, cWithdrawn, cLate, cNanseen].contains (field st 0 8) && field st 8 8 == 0 && field st 16 8 ≤ 64
  && field st 25 7 == 0 && field st 40 24 == 0 && (if bit st 24 then field st 32 8 < 64 else field st 32 8 == 0)

/-- R396, R407: what another chip may send, with fields in range. -/
def State.mayArrive (s : State) (p : Packet) : Bool :=
  p.vn < 3 && p.part < 16 && p.dst.tile < 4096 && p.src.tile < 4096 && match p.body with
  | .msg ch _ _ _ _ _ => ch < 16
  | .inc i amount _ => i < 256 && amount < 2 ^ 32
  | .land y vals | .aoprResult y vals => y + vals.length ≤ 32
  | .collOpen op fmt count dl _ => collAccepts op fmt && 1 ≤ count && count ≤ 64 && 1 ≤ dl && dl ≤ 255
  | .contrib h i _ dest _ =>
    handleChip h.toNat == s.chip && i < 64 && match dest with
      | .land l => l.place.chip == p.src.chip && l.reg ≤ 29
      | .ring q r => q.chip == p.src.chip && r < 16
  | .collClose h => handleChip h.toNat == s.chip
  | .withdraw h m => handleChip h.toNat == s.chip && m < 2 ^ 64
  | .collRecord (.land l) _ st _ _ _ => l.place == p.dst && l.reg ≤ 29 && recordStatus st.toNat
  | .collRecord (.ring q r) _ st _ _ _ => q == p.dst && r < 16 && recordStatus st.toNat
  | .access c _ _ _ _ | .operate _ _ c _ none _ _ _ => c.chip == s.chip
  | .consult op c _ _ => c.chip == s.chip && op < 7
  | .fabric fa _ _ _ | .operate _ _ _ _ (some (fa, _)) _ _ _ => field fa 42 10 == s.chip
  | .slotReq _ ch _ _ => ch < 16
  | .endNotice _ code sub done => copyStatus code sub done
  | .grant _ _ _ | .burst _ _ _ _ => true
  | _ => false

/-- The bytes of runs of memory that an access of another chip reads, or the subcode of UNCORR. Its errors are counted on the chip that
made it, if at all (log 89). -/
def State.readRuns (s : State) : List (Nat × Nat) → State × Except Nat (List Byte)
  | [] => (s, .ok [])
  | (a, n) :: rest =>
    match s.eccRead ⟨none, none⟩ a n with
    | (s, some sub) => (s, .error sub)
    | (s, none) =>
      match s.readRuns rest with
      | (s', .ok bs) => (s', .ok (s.bytes a n ++ bs))
      | r => r

/-- An access performed at its home, in the pieces `runs` whose physical addresses `phys` gives, or why it is not: the state, the
code and subcode, the bytes. A write that brings no bytes is a check alone (R389). -/
def State.homeAccess (s : State) (runs : List (Nat × Nat)) (phys : Nat → Option Nat) (xsub : Nat) (wr : Option (List Byte))
    (put : State → Nat → List Byte → State) : State × Nat × Nat × List Byte :=
  if runs.any fun r => (phys r.1).isNone then (s, cXlate, xsub, [])
  else
    let at' := runs.map fun r => ((phys r.1).getD 0, r)
    match wr with
    | some bs =>
      (if bs = [] then s else at'.foldl (fun s r => put s r.1 ((bs.drop r.2.1).take r.2.2)) s, cOk, 0, [])
    | none =>
      match s.readRuns (at'.map fun r => (r.1, r.2.2)) with
      | (s, .ok bs) => (s, cOk, 0, bs)
      | (s, .error sub) => (s, cUncorr, sub, [])

/-- Step 6 of R53 at the home of a buffer for an access of another chip, under the context that the home recorded with the CT entry (R263,
R407): a partition offset, a fabric address for space 0x1 (R401), or why there is none. -/
def State.homeXlat (s : State) (e : CtEntry) (va : Nat) (wr op : Bool) : XRes :=
  match aget? s.parts e.part with
  | none => .xlate
  | some q =>
    match (s.walkFor e.part q e.xlat va wr op).1 with
    | .ok out => if va / 2 ^ 52 = 1 ∨ q.prec.covers out 1 then .ok out else .xlate
    | r => r

/-- A page that one of the translations misses: the guest address, ACC. -/
def missOf (xs : List XRes) : Option (Nat × Nat) := xs.findSome? fun x => match x with | .miss g a => some (g, a) | _ => none

/-- The output of a translation. -/
def XRes.out? (x : XRes) : Option Nat := match x with | .ok a => some a | _ => none

/-- R407: an access of another chip at its home: served, or not as long as a reclaim holds it (R66) or a page that it misses has not been
answered, which it requests (R269, R274). For a buffer of space 0x1 the home makes requests of its own (R401). An access
of no bytes asks for steps 1 to 4 of R53 (R224). -/
def State.serveAccess (s : State) (p : Packet) (c : Cap) (off : Nat) (wr : Option (List Byte)) (len id : Nat) : State × Bool :=
  let e := s.ct c.key
  match s.checkCap [] false (some c) (if wr.isSome then .write else .read) off len with
  | .held => (s, false)
  | .ok va =>
    let s := { s with cur := { s.cur with tile := p.dst.tile } }
    let runs := lineRuns va len
    let xs := runs.map fun r => s.homeXlat e (va + r.1) wr.isSome false
    let put (s : State) (a : Nat) (bs : List Byte) : State := s.perform p.src.tile c a bs
    let done (r : State × Nat × Nat × List Byte) : State × Bool :=
      (r.1.answerRequest p e.part id r.2.1 r.2.2.1 r.2.2.2, true)
    if len = 0 then done (s, cOk, 0, [])
    else if 1 < va / 2 ^ 52 then done (s.homeAccess runs (fun i => some (va + i)) 0 wr put)
    else
      match missOf xs with
      | some (g, acc) => (s.pageRequest e.xlat.vf g acc, false)
      | none =>
        if va / 2 ^ 52 = 1 ∧ xs.all fun x => x.out?.isSome then
          let pieces := (runs.zip xs).map fun r => ((r.2.out?).getD 0, wr.map fun bs => (bs.drop r.1.1).take r.1.2, r.1.2)
          (s.relayNext ⟨p, e.part, [], pieces⟩, true)
        else
          let phys (i : Nat) : Option Nat :=
            (aget? s.parts e.part).bind fun q => if va / 2 ^ 52 = 1 then none else (s.homeXlat e (va + i) wr.isSome false).out?.map q.prec.phys
          done (s.homeAccess runs phys 0 wr put)
  | .fault sub => (s.answerRequest p e.part id cCapfault sub [], true)
  | .away => (s.answerRequest p e.part id cCapfault cRevoked [], true)

/-- R402: an access under a fabric address, through the fabric MMUs. -/
def State.serveFabric (s : State) (p : Packet) (fa : Nat) (wr : Option (List Byte)) (len id : Nat) : State :=
  match s.fmmuAt p.src.chip p.part (field fa 0 42) with
  | none => s.answerRequest p p.part id cXlate 2 []
  | some (pn, _, _) =>
    let phys (i : Nat) : Option Nat := (s.fmmuAt p.src.chip p.part (field fa 0 42 + i)).map fun m => m.2.1.prec.phys m.2.2
    let r := s.homeAccess (lineRuns fa len) phys 2 wr fun s a bs => (s.putBytes a bs).eccWrite a bs.length
    r.1.answerRequest p pn id r.2.1 r.2.2.1 r.2.2.2

/-- An operation for an element of space 0x1, sent on under its fabric address (R401). -/
def State.relayOperate (s : State) (p : Packet) (part fn fmt : Nat) (c : Cap) (off fa va : Nat) (args : List Word)
    (ret : Option LandAt) : State :=
  let id := s.fabric.nextId
  let a : Ask := .operate fn fmt c off (some (fa, va)) args ret
  let q := a.packet id
  let p' : Packet := ⟨0, part, p.dst, .home, q.1, 0, s.cycle, a.len, q.2, none, false, none⟩
  { s with fabric := { s.fabric with
    out := s.fabric.out ++ [p'], nextId := id + 1, relays := aset s.fabric.relays id ⟨p, part, [], []⟩ } }

/-- R407: an operation of another chip, for a buffer of this chip or under a fabric address: served, or not yet, as an access. -/
def State.serveOperate (s : State) (p : Packet) (fn fmt : Nat) (c : Cap) (off : Nat) (fab : Option (Nat × Nat)) (args : List Word)
    (ret : Option LandAt) (id : Nat) : State × Bool :=
  let s := { s with cur := { s.cur with tile := p.dst.tile } }
  let e := s.ct c.key
  match fab with
  | some (fa, va) =>
    match s.fmmuAt p.src.chip p.part (field fa 0 42) with
    | none => (s.answerRequest p p.part id cXlate 2 [], true)
    | some (pn, _, _) =>
      ((s.agentStep p (.fabric pn (field fa 0 42) off va) fn fmt c off args ret).answerRequest p pn id cOk 0 [], true)
  | none =>
    let a0 := (args.getD 0 0).toNat
    match s.checkCap [] false (some c) .operation off (opBytes fn fmt) with
    | .held => (s, false)
    | .ok va =>
      if c.kind ≠ .hbm then (s.answerRequest p e.part id cIllopnd 2 [], true)
      else if fn = 10 ∧ (a0 % 8 ≠ 0 ∨ c.bytes < a0 + 8) then (s.answerRequest p e.part id cCapfault cBounds [], true)
      else
        match s.homeXlat e va true true with
        | .xlate => (s.answerRequest p e.part id cXlate 0 [], true)
        | .miss g acc => (s.pageRequest e.xlat.vf g acc, false)
        | .ok out =>
          if va / 2 ^ 52 = 1 then (s.relayOperate p e.part fn fmt c off out va args ret, true)
          else ((s.agentStep p (.window e.part e.xlat off out) fn fmt c off args ret).answerRequest p e.part id cOk 0 [], true)
    | .fault sub => (s.answerRequest p e.part id cCapfault sub [], true)
    | .away => (s.answerRequest p e.part id cCapfault cRevoked [], true)

/-- R280 step 5, R407: a capability instruction of another chip consults its home; not yet while a reclaim holds it. CDROP of a
capability of a retired entry faults (R50); otherwise the home says whether the capability is live. -/
def State.serveConsult (s : State) (p : Packet) (op : Nat) (c : Cap) (arg id : Nat) : State × Bool :=
  let e := s.ct c.key
  let answer (s : State) (code sub : Nat) : State × Bool := (s.answerRequest p e.part id code sub [], true)
  if op = 4 ∨ op = 5 then (if s.current c then s.onCt c.key fun e => e.tokensBack arg (op == 5) else s, true)
  else if e.recl.isSome then (s, false)
  else if op = 6 then
    if e.state = .retired then answer s cCapfault cRevoked
    else (s.answerRequest p e.part id cOk 0 [if s.current c then 1 else 0], true)
  else if !s.current c then answer s cCapfault cRevoked
  else
    match op with
    | 0 =>
      if c.mode ≠ .exclusive then answer s cOk 0
      else if 65535 < e.tokOut + e.tokLost + arg then answer s cIllopnd 0
      else answer (s.setCt c.key { e with tokOut := e.tokOut + arg }) cOk 0
    | 1 => answer (s.onCt c.key fun e => e.tokensBack arg false) cOk 0
    | 3 =>
      if 0 < e.tokOut + e.tokLost then answer s cCapfault cNotowner
      else if e.laopen then answer s cIllopnd 0
      else answer (s.setCt c.key { e with state := .sealed, maxr := { e.maxr with w := false } }) cOk 0
    | _ => answer s cOk 0

/-- R483: a packet of a delivery that has ended is discarded and recorded. -/
def State.endedDelivery (s : State) (p : Packet) : State := s.logArrival p cTimeout 0

/-- A delivery of a tile. -/
def State.deliveryAt (s : State) (t : Nat) (src : Place) (id : Nat) : Option (Nat × Delivery) :=
  ((s.tile t).loc.ringOf src id).bind fun r => (r.2.deliveries.find? fun d => d.src == src && d.id == id).map fun d => (r.1, d)

/-- R63, R483: a burst at the receiving tile, confirmed by an answer. -/
def State.takeBurst (s : State) (p : Packet) (dl off : Nat) (bs : List Byte) (id : Nat) : State :=
  let t := p.dst.tile
  let part := ((s.partOfTile t).map (·.1)).getD 0
  match s.deliveryAt t p.src dl with
  | some (_, d) =>
    if d.granted ∧ d.done.isNone then
      match s.slotWrite t p.src dl off bs with
      | .ok s => s.answerRequest p part id cOk 0 []
      | .error code => s.answerRequest p part id code 0 []
    else s.endedDelivery p
  | none => s.endedDelivery p

/-- R483: the end notice at the receiving tile. A request that has not been granted is withdrawn and consumes no slot. -/
def State.takeEndNotice (s : State) (p : Packet) (dl code sub done : Nat) : State :=
  let t := p.dst.tile
  match s.deliveryAt t p.src dl with
  | some (r, d) =>
    if d.done.isSome then s.endedDelivery p
    else if d.granted then s.onDelivery t r p.src dl fun d => { d with done := some (code, sub, done), lastWindow := s.window }
    else
      s.onLocal t fun l => { l with rings := match aget? l.rings r with
        | some g => aset l.rings r { g with deliveries := g.deliveries.filter fun d => !(d.src == p.src && d.id == dl) }
        | none => l.rings }
  | none => s.endedDelivery p

/-- A COPY delivery awaits the grant of a tile. -/
def EngOp.awaitsGrant (o : EngOp) (src : Place) : Bool :=
  o.waitTag == some 0 && o.stop.isNone && match o.kind with
    | .deliver _ _ _ dest _ _ none _ => dest == src
    | _ => false

/-- R63, R483: the grant of a delivery reaches the move engine that awaits it, which takes it or, when it was discarded, ends. -/
def State.grantComes (s : State) (p : Packet) (dl : Nat) (f : EngOp → EngOp) : State :=
  (s.dropAwaited .granted fun x => x.pkt.src == p.dst && x.pkt.op == some dl).onOp p.dst.tile dl fun o =>
    if o.awaitsGrant p.src then f o else o

/-- R63: the answer to a request for slots. -/
def State.takeGrant (s : State) (p : Packet) (dl : Nat) (slots : Option (Nat × Nat)) (slotBytes : Nat) : State :=
  s.grantComes p dl fun o => o.answered (slots.map fun g => (g.1, g.2, slotBytes))

/-- A packet of another chip that is discarded with a record (R482). A grant that is discarded ends the delivery that awaits it
with TIMEOUT (log 86). -/
def State.refuseArrival (s : State) (p : Packet) (code sub : Nat) : State :=
  let s := s.logArrival p code sub
  match p.body with
  | .grant dl _ _ => s.grantComes p dl (EngOp.fails (2 ^ 64) cTimeout 0)
  | _ => s

/-- The packet is a request of another chip that waits at its home. -/
def State.waitsHome (s : State) (p : Packet) : Bool := p.src.chip != s.chip && isRequest p.body

/-- R407: a request of another chip is performed at its home, or waits there, behind the earlier ones of its flow (R327). -/
def State.serve (s : State) (p : Packet) : State :=
  let r : State × Bool :=
    if s.net.any fun q => s.waitsHome q && sameStream q p then (s, false)
    else
      match p.body with
      | .access c off wr len id => s.serveAccess p c off wr len id
      | .fabric fa wr len id => (s.serveFabric p fa wr len id, true)
      | .operate fn fmt c off fab args ret id => s.serveOperate p fn fmt c off fab args ret id
      | .consult op c arg id => s.serveConsult p op c arg id
      | _ => (s, true)
  if r.2 then r.1 else { r.1 with net := r.1.net ++ [p] }

/-- The requests of other chips that wait at their homes are tried again, in order. -/
def State.serveWaiting (s : State) : State :=
  if s.net.any s.waitsHome then
    { ((s.net.filter s.waitsHome).foldl State.serve { s with net := s.net.filter fun p => !s.waitsHome p }) with cur := s.cur }
  else s

/-- R275, R276: pages of a VF were rejected, or their requests cancelled: the requests of other chips that wait for them are refused. -/
def State.refuseWaiting (s : State) (vf : Nat) (pages : Nat → Bool) : State :=
  let misses (c : Cap) (wr op : Bool) (off len : Nat) : Bool :=
    let e := s.ct c.key
    e.xlat.vf == vf && match s.checkCap [] false (some c) (if op then .operation else if wr then .write else .read) off len with
      | .ok va => ((missOf ((lineRuns va len).map fun r => s.homeXlat e (va + r.1) wr op)).map fun m => pages (guestPage m.1)).getD false
      | _ => false
  let refused (p : Packet) : Bool := s.waitsHome p && match p.body with
    | .access c off wr len _ => misses c wr.isSome false off len
    | .operate fn fmt c off none _ _ _ => misses c true true off (opBytes fn fmt)
    | _ => false
  (s.net.filter refused).foldl (fun s p =>
    s.answerRequest p (match p.body with
      | .access c _ _ _ _ | .operate _ _ c _ _ _ _ _ => (s.ct c.key).part
      | _ => p.part) ((requestId p.body).getD 0) cStage2 0 []) { s with net := s.net.filter fun p => !refused p }

/-- R407: an accepted packet is handled as one of this chip would be: a post enters the mesh at the fabric interface, a request is
performed at its home. `n` is the packet's stamp: the result of an operation leaves by window `n` + 1 (R406). -/
def State.accept (s : State) (p : Packet) (n : Nat) : State :=
  match p.body with
  | .burst dl off bs id => s.takeBurst p dl off bs id
  | .endNotice dl code sub done => s.takeEndNotice p dl code sub done
  | .grant dl slots sb => s.takeGrant p dl slots sb
  | b =>
    let p := { p with held := false, op := none, last := match b with
      | .operate _ _ _ _ _ _ _ _ => some (n + 1)
      | _ => none }
    if isRequest b then s.serve { p with due := s.cycle }
    else
      let b := match b with
        | .inc i amount _ => .inc i amount false
        | b => b
      let due := s.cycle + latency fabricTile p.dst.tile p.len
      { s with net := s.net ++ [{ p with due := due, body := b }] }

/-- A packet whose receiver applies it at once waits for the packets of its flow before it (R327). -/
def State.flowWaits (s : State) (p : Packet) : Bool :=
  match p.body with
  | .burst _ _ _ _ | .endNotice _ _ _ _ => s.net.any fun q => sameStream q p
  | _ => false

/-- R396: where the sequence number of a chip and a network is kept. -/
def seqKey (p : Packet) : Nat := p.src.chip * 4 + p.vn

/-- FABRIC_PACKET_ARRIVAL (R396, R399, R403, R405, R407). -/
def execFabricPacketArrival (p : FabPacket) (s : State) : Host.Outcome State Fault Refusal :=
  let q := p.pkt
  let f := s.fabric
  let gen := p.gen == 1
  let e := f.entry gen q.src.chip
  if f.unsync.isSome ∨ s.flowWaits q then .next s
  else if q.dst.chip ≠ s.chip ∨ q.src.chip = s.chip ∨ !s.mayArrive q ∨ !bit e 31 ∨ (f.retired ∧ gen ≠ f.gencur) then
    .next s.discard
  else if p.seq < aget f.seqs 0 (seqKey q) then .next s
  else
    let s := { s with fabric := { f with seqs := aset f.seqs (seqKey q) (p.seq + 1) } }
    if p.stamp + 2 ≤ s.window then .next (s.refuseArrival q cTimeout 0)
    else if needsCapok q.body ∧ !bit e 29 then .next (s.refuseArrival q cIllopnd 0x0C)
    else if (fabricAddress q.body).isNone ∧ (s.destPart q).isNone then .next (s.logArrival q cIllopnd 8)
    else .next (s.accept q p.stamp)

/-- COPY_DELIVERY_TIMEOUT (R483): the granted deliveries of ring `sub` from other chips that saw no packet in two whole
windows. -/
def execCopyDeliveryTimeout (s : State) : Host.Outcome State Fault Refusal :=
  let ends (d : Delivery) : Delivery :=
    if d.granted ∧ d.done.isNone ∧ d.src.chip ≠ s.chip ∧ d.lastWindow + 3 ≤ s.window then
      { d with done := some (s.lostCode d.src.chip, 0, d.got) }
    else d
  .next (s.onLocal s.cur.tile fun l => { l with rings := match aget? l.rings s.cur.sub with
    | some g => aset l.rings s.cur.sub { g with deliveries := g.deliveries.map ends }
    | none => l.rings })

/-! ## Routing generations (R400) -/

/-- ROUTING_FLIP (R400 step 3). -/
def execRoutingFlip (s : State) : Host.Outcome State Fault Refusal :=
  if s.flipDue then
    .next { s with fabric := { s.fabric with gencur := !s.fabric.gencur, flipped := true, retired := false } }
  else .next s

/-- ROUTING_RETIRE (R400 step 5). -/
def execRoutingRetire (s : State) : Host.Outcome State Fault Refusal :=
  if s.fabric.flipped ∧ s.fabric.flipwin + 2 ≤ s.window then .next { s with fabric := { s.fabric with retired := true } }
  else .next s

/-! ## Ports (R396, R398, R447) -/

/-- A shared-link event: a record in the host log, and SHARED of the VFs whose traffic it touched (R447). The record has SRC 3
and the port in VA (log 18). -/
def State.linkEvent (s : State) (code port : Nat) (vfs : List Nat) : State :=
  vfs.foldl (fun s v => s.vfCount v 4) (s.logHost { FRec.zero with code := code, src := 3, va := port })

/-- The VFs whose packets are outstanding on a port. -/
def State.portVfs (s : State) (port : Nat) : List Nat :=
  ((s.fabric.transfers.filter fun x => x.port == port && x.sent).filterMap fun x => s.vfOf x.pkt.part x.pkt.kslot).eraseDups

/-- PORT_DOWN (R398, R404). -/
def execPortDown (port : Nat) (s : State) : Host.Outcome State Fault Refusal :=
  if s.fabric.portsUp.getLsbD port then
    let s := s.linkEvent cPeerlost port (s.portVfs port)
    .next { s with fabric :=
      { s.fabric with portsUp := s.fabric.portsUp &&& ~~~(BitVec.ofNat 17 (2 ^ port)) }.marked }
  else .next s

/-- PORT_UP (R404). -/
def execPortUp (port : Nat) (s : State) : Host.Outcome State Fault Refusal :=
  if port < 17 then .next { s with fabric := { s.fabric with portsUp := s.fabric.portsUp ||| BitVec.ofNat 17 (2 ^ port) } }
  else .next s

/-- LINK_CRC_ERROR (R447): `vfs` are the VFs whose traffic the flits carried. -/
def execLinkCrcError (port : Nat) (vfs : List Nat) (s : State) : Host.Outcome State Fault Refusal :=
  if port < 17 then .next (s.linkEvent cOk port (vfs.filter fun v => v < 128)) else .next s

/-! ## The time base (R405) -/

/-- CHIP_UNSYNCHRONIZED (R405): every outstanding transfer completes with PEERLOST, and each partition's supervisor is told. -/
def execChipUnsynchronized (s : State) : Host.Outcome State Fault Refusal :=
  let xs := s.fabric.transfers
  let s := { s with fabric := { s.fabric with transfers := [], unsync := some (s.window + 2) } }
  let s := xs.foldl (fun s x => s.unconfirmed x cPeerlost) s
  let s := s.parts.foldl (fun s q => s.mgmtEvent q.1 cPeerlost 0x10 s.chip) s
  .next (s.logHost { FRec.zero with code := cPeerlost, sub := 0x10, src := 3, va := s.chip })

/-- CHIP_RESYNCHRONIZED (R405): after one whole window back within the bound. -/
def execChipResynchronized (s : State) : Host.Outcome State Fault Refusal :=
  match s.fabric.unsync with
  | some w => if w ≤ s.window then .next { s with fabric := { s.fabric with unsync := none } } else .next s
  | none => .next s

/-! ## VF reset (R446) -/

/-- R446 step 5: the error block of a VF that has queues is cleared where it stands in memory. -/
def State.clearErrorBlock (s : State) (p : Part) (vf : Nat) : State :=
  let v := s.vf vf
  if v.qcount = 0 ∨ (p.state = .evicted ∧ p.relHbm) then s else s.devBytes p (v.qtbase + 0x1040) (List.replicate 64 0)

/-- R446: a VF is reset. -/
def State.resetVf (s : State) (vf : Nat) : State :=
  let s : State := match s.partOfVf vf with
    | none => s
    | some (pn, p) =>
      let s := p.qslots.foldl (fun (s : State) x => s.withdrawQSlot pn vf (p.state == .evicted) x) s
      ((((s.withdrawVf pn vf).cancelPages p vf).refuseWaiting vf fun _ => true)).clearErrorBlock p vf
  let s := s.onVf vf fun v => { Vf.reset with nextTag := v.nextTag }
  match s.partOfVf vf with
  | some (pn, _) => s.serveQueues pn 64
  | none => s

/-- FUNCTION_LEVEL_RESET (R446). -/
def execFunctionLevelReset (vf : Nat) (s : State) : Host.Outcome State Fault Refusal :=
  .next (if vf < 128 then s.resetVf vf else s)

end Sys2Proof.Machine
end

