-- ==== Sys2Proof/Machine/Matrix.lean ====
section
/-!
DEFINITION. Class 0x8 and the matrix engine (R127, R230 to R254): the checks at issue, the queue, staging, what each
command computes, the engine's turns, a failed engine.
-/

namespace Sys2Proof.Machine

/-! ## Operands (R242 to R244) -/

/-- The accumulator that a task's name maps to (R122, R138). -/
def accOf (s : State) (m : Mreg) : Eff Nat :=
  match s.ctx.run.accs[m.toNat]? with
  | some a => .ok a
  | none => raise s cIllopnd 0

/-- R242: the homes of matrix operands. -/
def mxHome (s : State) (c : Cap) (dest : Bool) : Bool :=
  c.chip == s.chip && match c.kind with
  | .tile => c.agent == s.cur.tile
  | .cluster => c.agent == tileCluster s.cur.tile
  | .weight => !dest && c.mode == .sealed && c.agent / 16 == tileDie s.cur.tile
  | .hbm => false

/-- A matrix operand view of rank `rank` whose first two extents satisfy `shape`. -/
def mxView (s : State) (w : Who) (r : Vreg) (dest : Bool) (rank : Nat) (shape : Nat → Nat → Bool) : Eff BoundView := do
  let v ← viewIn s w r
  need s (viewLegal v && v.rank == rank && shape (v.extent 0) (v.extent 1))
  let b ← (if v.ringf then do
      let (_, g) ← boundRing s (BitVec.ofNat 3 v.rh)
      .ok ⟨v, some g.cap, g.head, g.slots, g.slotBytes⟩
    else .ok ⟨v, s.c v.cap, 0, 1, 0⟩ : Eff BoundView)
  match b.cap with
  | none => .ok b
  | some c => do
    need s (rotationOk s v b.cap)
    if mxHome s c dest then .ok b else raise s cIllopnd 2

/-- A byte run added to a list, joined to the one before it where they meet. -/
def addRun (l : List (Nat × Nat)) (a n : Nat) : List (Nat × Nat) :=
  match l with
  | (b, m) :: l => if b + m = a then (b, m + n) :: l else (a, n) :: (b, m) :: l
  | [] => [(a, n)]

/-- R237 step 2 for one view: every element checked under R53, in ordinal order; the bytes it names. -/
def mxCheck (w : Who) (b : BoundView) (t : Ty) (acc : Access) (es : List Nat) :
    Nat → Nat → State → List (Nat × Nat) → Eff (State × List (Nat × Nat))
  | 0, _, s, runs => .ok (s, runs)
  | n + 1, k, s, runs =>
    match s.elemCheck w b (elemOf b t (indexOf es k)) acc k with
    | .ok (s, _, _, a) => mxCheck w b t acc es n (k + 1) s (addRun runs a (elemOf b t (indexOf es k)).size)
    | .error e => .error e

/-- The extents of a view. -/
def extents (b : BoundView) : List Nat := (upto 4).map b.view.extent

/-- An operand of a command: its view and the type of its elements. -/
abbrev MxArg := BoundView × Ty

/-- R237 step 2: the sources, then the destination. -/
def mxRuns (s : State) (w : Who) (acc : Access) : List MxArg → Eff (State × List (Nat × Nat))
  | [] => .ok (s, [])
  | (b, t) :: l => do
    let (s, r) ← mxCheck w b t acc (extents b) (elements (extents b)) 0 s []
    let (s, rs) ← mxRuns s w acc l
    .ok (s, r ++ rs)

/-! ## Rounds (R127) -/

/-- A context whose queue holds a command that the engine does not run. Commands that a task queued in another slot before it
parked run first (R234, R274). -/
def CoreSt.queued (k : CoreSt) (c : Nat) : Bool :=
  let v := aget k.ctxs .reset c
  (if k.running c then 1 else 0) < v.mx.queue.length && (k.queueOf c).length == v.mx.queue.length

/-- R127: the next context to serve, from the slot where the round stands; none: the round is over. -/
def CoreSt.nextServed (k : CoreSt) : Option Nat :=
  ((upto 8).filter fun c => k.eng.slot ≤ c).find? fun c => k.queued c && 0 < (aget k.ctxs .reset c).mx.credits

/-- R127: a new round: each context with queued commands receives credits, no other has any. -/
def CoreSt.newRound (k : CoreSt) : CoreSt :=
  { k with
    ctxs := amap k.ctxs fun _ v => { v with mx := { v.mx with credits := if v.mx.queue.isEmpty then 0 else 1 + v.run.prio } }
    eng := { k.eng with slot := 0 } }

/-- The context that the engine serves next, with the core after a new round where one begins. -/
def CoreSt.serve (k : CoreSt) : Option (Nat × CoreSt) :=
  match k.nextServed with
  | some c => some (c, k)
  | none => k.newRound.nextServed.map fun c => (c, k.newRound)

/-- Nothing is queued for the engine: rounds pass with nothing to serve. -/
def CoreSt.engineIdle (k : CoreSt) : Bool := k.eng.running.isNone && k.ctxs.all fun c => c.2.mx.queue.isEmpty

/-- R234, R237, R240, R241: a command that has passed its operand checks: its elements, speculation, the error state, a
failed engine, room in the queue. -/
def enqueueCommand (s : State) (w : Who) (op : MxOp) (sources dests : List MxArg) : Eff State := do
  let (s, reads) ← mxRuns s w .read sources
  let (s, writes) ← mxRuns s w .write dests
  noSpec s
  match s.ctx.mx.err with
  | some (code, sub) => raise (s.onCtx fun v => { v with mx := { v.mx with err := none } }) code sub
  | none => .ok ()
  if (s.tile s.cur.tile).core.eng.dead then raise s cMxdead 0
  waitWhile s (8 ≤ s.ctx.mx.queue.length)
  let idle := (s.tile s.cur.tile).core.engineIdle
  let views := (sources ++ dests).map (·.1)
  let m : MxCmd :=
    { op := op, kslot := w.kslot, regs := captured views, keys := views.filterMap fun b => b.cap.map Cap.key,
      reads := reads, writes := writes, staged := none,
      notBefore := if s.shz s.cur.tile then s.cycle + Config.horizon else 0, poison := none, sflags := 0,
      ord := s.nextOrd, task := (s.tile s.cur.tile).loc.taskId w.rec' }
  let s := s.takeOrd.onCtx fun v => { v with mx := { v.mx with queue := v.mx.queue ++ [m] } }
  .ok (if idle then s.onCore s.cur.tile CoreSt.newRound else s)

/-! ## The instructions (R245 to R252) -/

/-- MZERO (R245). -/
def execMzero (h : Hint) (d : Mreg) (s : State) : Host.Outcome State Fault Refusal :=
  issueMatrix s h fun w => do
    let m ← accOf s d
    enqueueCommand s w (.zero m) [] []

/-- The limits of K (R246). -/
def mmaDepth (t : Ty) (k : Nat) : Bool :=
  match t with
  | .f32 => 1 ≤ k && k ≤ 16
  | .f16 | .bf16 => k % 32 == 0 && 32 ≤ k && k ≤ 128
  | _ => k % 32 == 0 && 32 ≤ k && k ≤ 256

/-- MMA (R246). -/
def execMma (h : Hint) (t : Ty) (d : Mreg) (a b : Vreg) (s : State) : Host.Outcome State Fault Refusal :=
  issueMatrix s h fun w => do
    let m ← accOf s d
    let va ← mxView s w a false 2 fun e0 e1 => e1 == 32 && mmaDepth t e0
    let vb ← mxView s w b false 2 fun e0 e1 => e0 == 32 && e1 == va.view.extent 0
    enqueueCommand s w (.mma t m va vb h.sat) [(va, t), (vb, t)] []

/-- MMAT (R247). -/
def execMmat (h : Hint) (d : Mreg) (a b : Vreg) (s : State) : Host.Outcome State Fault Refusal :=
  issueMatrix s h fun w => do
    let m ← accOf s d
    let va ← mxView s w a false 2 fun e0 e1 => e1 == 32 && e0 % 32 == 0 && 32 ≤ e0 && e0 ≤ 1024
    let vb ← mxView s w b false 2 fun e0 e1 => e0 == 32 && e1 == va.view.extent 0
    enqueueCommand s w (.mmat m va vb h.sat) [(va, .i8), (vb, .t5)] []

/-- A 32 × 32 view. -/
def square (e0 e1 : Nat) : Bool := e0 == 32 && e1 == 32

/-- MLD (R248). -/
def execMld (h : Hint) (t : Ty) (d : Mreg) (a : Vreg) (s : State) : Host.Outcome State Fault Refusal :=
  issueMatrix s h fun w => do
    let m ← accOf s d
    let va ← mxView s w a false 2 square
    enqueueCommand s w (.load t m va) [(va, t)] []

/-- MST (R249). Mode(I) is read at issue. -/
def execMst (h : Hint) (t : Ty) (d : Vreg) (a : Mreg) (b : Option Imm) (s : State) : Host.Outcome State Fault Refusal :=
  issueMatrix s h fun w => do
    let sel := (b.map fun v => (immWord v).toNat).getD 0
    let m ← accOf s a
    let vd ← mxView s w d true 2 square
    need s (sel ≤ 1 && !(h.sat && sel == 0 && t.isInt))
    enqueueCommand s w (.store t vd m (sel == 1) h.sat (s.mode h).code) [] [(vd, t)]

/-- MSCALE (R250). -/
def execMscale (h : Hint) (d a : Mreg) (b : Vreg) (s : State) : Host.Outcome State Fault Refusal :=
  issueMatrix s h fun w => do
    let md ← accOf s d
    let ma ← accOf s a
    let vb ← mxView s w b false 1 fun e0 _ => e0 == 64
    enqueueCommand s w (.scale md ma vb h.sat) [(vb, .e8m0)] []

/-- MSIG (R252). -/
def execMsig (h : Hint) (d : Reg) (a b : RegImm) (s : State) : Host.Outcome State Fault Refusal :=
  issueMatrix s h fun w => do
    let dst ← checkDest s w (s.x d) ⟨false, false, false⟩
    let c := RegImm.nat a s
    need s (c < 256)
    enqueueCommand s w (.sig dst c (RegImm.nat b s % 2 ^ 32)) [] []

/-- The word of MSTAT (Table 11.3). -/
def mxStatus (m : MxCtx) (dead : Bool) : Word :=
  word (m.flags.toNat + m.queue.length * 2 ^ 8 + boolNat dead * 2 ^ 12 + (m.err.map (·.1)).getD 0 * 2 ^ 16)

/-- MSTAT (R251): it executes in the core. -/
def execMstat (h : Hint) (d : Reg) (a : Imm) (s : State) : Host.Outcome State Fault Refusal :=
  issueMatrix s h fun w => do
    let sel := (immWord a).toNat
    need s (sel ≤ 3)
    waitWhile s ((bit sel 1 || w.image.det) && !s.mxQueue.isEmpty)
    let s' := s.setX d (mxStatus s.ctx.mx (s.tile s.cur.tile).core.eng.dead)
    .ok (if bit sel 0 then s'.onCtx fun v => { v with mx := { v.mx with flags := 0 } } else s')

/-! ## Accumulators (R232) -/

/-- Word `i` of an accumulator. -/
def AccVal.word (v : AccVal) (i : Nat) : Nat := ((aget? v.words i).getD (Config.freeAcc (v.seed + i))).toNat

/-- An accumulator of a tile. -/
def State.acc (s : State) (t a : Nat) : AccVal := aget (s.tile t).core.accs ⟨0, (upto 1024).map fun i => (i, 0), none⟩ a

/-- An accumulator with every word given. -/
def accFrom (f : Nat → Nat) : AccVal := ⟨0, (upto 1024).map fun i => (i, BitVec.ofNat 32 (f i)), none⟩

/-- An accumulator replaced. -/
def State.setAcc (s : State) (t a : Nat) (v : AccVal) : State :=
  s.onCore t fun k => { k with accs := aset k.accs a v }

/-- An accumulator left undefined (R240, R253). -/
def State.freeAccWords (s : State) (t a : Nat) : State := (s.setAcc t a ⟨s.free, [], none⟩).draw 1024

/-- The accumulator that an operation writes. -/
def MxOp.dest : MxOp → Option Nat
  | .zero d | .mma _ d _ _ _ | .mmat d _ _ _ | .load _ d _ | .scale d _ _ _ => some d
  | .store _ _ _ _ _ _ | .sig _ _ _ => none

/-- The accumulators that an operation reads. -/
def MxOp.accReads : MxOp → List Nat
  | .mma _ d _ _ _ | .mmat d _ _ _ => [d]
  | .store _ _ a _ _ _ => [a]
  | .scale d a _ _ => [d, a]
  | .zero _ | .load _ _ _ | .sig _ _ _ => []

/-! ## Where flags and errors go (R240, R274) -/

/-- Matrix flags and error state of the task that issued a command changed: in the slot in which it runs now, or in the park
store; none when it has ended, or waits to be dispatched once more by RETRY. -/
def State.onMxTask (s : State) (t : Nat) (id : TaskId) (f : Flags × Option (Nat × Nat) → Flags × Option (Nat × Nat)) :
    Option State :=
  (aget? (s.tile t).loc.recs id.rec').bind fun q =>
    if q.born ≠ id.born then none
    else match q.q with
      | .running i => some (s.onCtxAt t i fun v =>
          let g := f (v.mx.flags, v.mx.err)
          { v with mx := { v.mx with flags := g.1, err := g.2 } })
      | _ => (aget? (s.tile t).loc.park id.rec').bind fun e =>
          if e.wait = .retry then none
          else
            let g := f (e.mxFlags, e.mxErr)
            some (s.onLocal t fun l => { l with park := aset l.park id.rec' { e with mxFlags := g.1, mxErr := g.2 } })

/-- Matrix flags set for the task of a command. -/
def State.mxFlags (s : State) (t : Nat) (id : TaskId) (fl : Flags) : State := (s.onMxTask t id fun g => (g.1 ||| fl, g.2)).getD s

/-- R240: a matrix error of a task of context `c`: its error state, or a deferred error when it has ended. -/
def State.taskError (s : State) (t c kslot : Nat) (id : TaskId) (code sub : Nat) : State :=
  (s.onMxTask t id fun g => (g.1, some (code, sub))).getD (s.lateError t c kslot id code sub)

/-- The same for the task of a command. -/
def State.mxError (s : State) (t c : Nat) (m : MxCmd) (code sub : Nat) : State := s.taskError t c m.kslot m.task code sub

/-! ## What a command computes (R170, R171, R245 to R250) -/

/-- One exact group sum: Σ A[i][k] × B[k][j] over consecutive k, with the flags of R170. -/
def groupSum (xs : List (Num × Num)) : Num × Flags := exactSum .rne (xs.map fun x => (false, mulNum x.1 x.2))

/-- One group of a floating-point MMA (R170). -/
def mmaStep (sat : Bool) (acc : Nat × Flags) (xs : List (Num × Num)) : Nat × Flags :=
  let g := groupSum xs
  let s := round g.1 .f32 .rne false
  let m := decodeNum .f32 acc.1
  let r := addNum .rne m (decodeNum .f32 s.bits)
  let v := round r.1 .f32 .rne sat
  (v.bits, acc.2 ||| g.2 ||| s.fl ||| r.2 ||| v.fl ||| sigFlag (m :: xs.flatMap fun x => [x.1, x.2]))

/-- One group of an integer product (R170). -/
def mmaIntStep (sat : Bool) (acc : Nat) (xs : List (Int × Int)) : Nat :=
  narrowBits (intIn .i32 acc + (xs.map fun x => x.1 * x.2).sum) .i32 sat

/-- The groups of 32 consecutive indices of K (R170). -/
def groups (k : Nat) : List (List Nat) := (upto ((k + 31) / 32)).map fun g => (upto (min 32 (k - 32 * g))).map fun i => 32 * g + i

/-- Element of a staged operand: row `r` and column `c` of a view with `e0` columns. -/
def stagedAt (l : List Nat) (e0 r c : Nat) : Nat := l.getD (r * e0 + c) 0

/-- An MMA's element (i, j) with its flags. -/
def mmaElem (t : Ty) (sat : Bool) (k : Nat) (a b : List Nat) (m : Nat) (i j : Nat) : Nat × Flags :=
  if t = .i8 then
    ((groups k).foldl (fun m ks => mmaIntStep sat m (ks.map fun x => (intIn .i8 (stagedAt a k i x), intIn .i8 (stagedAt b 32 x j)))) m, 0)
  else
    (groups k).foldl (fun m ks =>
      mmaStep sat m (ks.map fun x => (decodeNum t (stagedAt a k i x), decodeNum t (stagedAt b 32 x j)))) (m, 0)

/-- An MMAT's element (i, j). -/
def mmatElem (sat : Bool) (k : Nat) (a b : List Nat) (m : Nat) (i j : Nat) : Nat :=
  (groups k).foldl (fun m ks => mmaIntStep sat m (ks.map fun x => (intIn .i8 (stagedAt a k i x), tritVal (stagedAt b 32 x j)))) m

/-- An element that MLD loads (R248). -/
def mldElem (t : Ty) (x : Nat) : Res :=
  if t.isInt then ⟨wrapNat (intIn t x) 32, 0⟩ else convert t .f32 x .rne false

/-- An element that MST stores (R249). -/
def mstElem (t : Ty) (asInt sat : Bool) (mode : Mode) (x : Nat) : Res := convert (if asInt then .i32 else .f32) t x mode sat

/-- An element of MSCALE (R171). -/
def mscaleElem (sat : Bool) (m src ea eb : Nat) : Res :=
  if ea = 255 ∨ eb = 255 then ⟨canonNaN .f32, fInvalid⟩
  else
    let x := decodeNum .f32 m
    let y := decodeNum .f32 src
    roundFl .f32 .rne sat (addNum .rne x (y.scale ((ea : Int) + eb - 254))) [x, y]

/-- The flags of a list of results. -/
def flagsOf (l : List Flags) : Flags := l.foldl (· ||| ·) 0

/-- An accumulator and the flags from an element function. -/
def accWith (f : Nat → Nat → Nat × Flags) : AccVal × Flags :=
  let rs := (upto 1024).map fun n => f (n / 32) (n % 32)
  (accFrom fun n => (rs.getD n (0, 0)).1, flagsOf (rs.map (·.2)))

/-- The elements of a view in ordinal order as memory holds them; T5 bytes above 242 read as zeros, with their flag. -/
def State.stageView (s : State) (b : BoundView) (t : Ty) : List Nat × Flags :=
  let es := extents b
  let base := match b.cap with | some c => s.windowBase c | none => 0
  let rs := (upto (elements es)).map fun k =>
    let e := elemOf b t (indexOf es k)
    let v := leNat (s.bytes (rotated b.view.rot (base + e.off.toNat)) e.size)
    if t = .t5 then tritOf v e.digit else (v, 0)
  (rs.map (·.1), flagsOf (rs.map (·.2)))

/-- The operands that a command stages (R236). -/
def MxOp.sources : MxOp → List MxArg
  | .mma t _ a b _ => [(a, t), (b, t)]
  | .mmat _ a b _ => [(a, .i8), (b, .t5)]
  | .load t _ a => [(a, t)]
  | .scale _ _ b _ => [(b, .e8m0)]
  | .zero _ | .store _ _ _ _ _ _ | .sig _ _ _ => []

/-- The elements of MST written in ordinal order (R249). -/
def State.storeAcc (s : State) (t : Nat) (d : BoundView) (ty : Ty) (f : Nat → Nat) : State :=
  match d.cap with
  | none => s
  | some c =>
    let base := s.windowBase c
    (upto 1024).foldl (fun s k =>
      let e := elemOf d ty (indexOf [32, 32, 1, 1] k)
      s.perform t c (rotated d.view.rot (base + e.off.toNat)) (leBytes e.size (f k))) s

/-- The effect of a command that runs to its end. -/
def State.runCommand (s : State) (t : Nat) (m : MxCmd) (tern : Flags) : State :=
  let st := m.staged.getD []
  let a := st.getD 0 []
  let b := st.getD 1 []
  let write (d : Nat) (r : AccVal × Flags) : State := (s.setAcc t d r.1).mxFlags t m.task (r.2 ||| tern)
  match m.op with
  | .zero d => s.setAcc t d (accFrom fun _ => 0)
  | .mma ty d va _ sat => let v := s.acc t d; write d (accWith fun i j => mmaElem ty sat (va.view.extent 0) a b (v.word (32 * i + j)) i j)
  | .mmat d va _ sat => let v := s.acc t d; write d (accWith fun i j => (mmatElem sat (va.view.extent 0) a b (v.word (32 * i + j)) i j, 0))
  | .load ty d _ => write d (accWith fun i j => let r := mldElem ty (stagedAt a 32 i j); (r.bits, r.fl))
  | .store ty d src asInt sat mode =>
    let v := s.acc t src
    let rs := (upto 1024).map fun n => mstElem ty asInt sat (.ofRmode mode) (v.word n)
    (s.storeAcc t d ty fun n => (rs.getD n ⟨0, 0⟩).bits).mxFlags t m.task (flagsOf (rs.map (·.fl)))
  | .scale d src _ sat =>
    let v := s.acc t d
    let u := s.acc t src
    write d (accWith fun i j =>
      let r := mscaleElem sat (v.word (32 * i + j)) (u.word (32 * i + j)) (a.getD i 0) (a.getD (32 + j) 0)
      (r.bits, r.fl))
  | .sig dst ctr amount =>
    match s.partOfTile t with
    | some p =>
      s.send 0 p.1 ⟨s.chip, t⟩ .engine dst m.kslot 16 (.inc ctr amount (dst == ⟨s.chip, t⟩))
    | none => s

/-! ## The engine's turns (R127, R234 to R236, R253) -/

/-- R238, R361: a command waits for the context's own writes that it meets: those that the strike horizon holds (R450), to the
bytes that it reads or writes, and those of its queued MST commands before it, to the bytes that it reads. -/
def heldWrites (v : Context) (before : List MxCmd) (m : MxCmd) : Bool :=
  (m.reads ++ m.writes).any (fun r => v.shzLog.any fun l => meets l.addr l.bytes.length r)
  || m.reads.any fun r => before.any fun q => q.writes.any fun x => meets x.1 x.2 r

/-- The flag of W bytes above 242 (R247). -/
def State.stagedTern (s : State) (m : MxCmd) : Flags :=
  match m.op with
  | .mmat _ _ b _ => (s.stageView b .t5).2
  | _ => 0

/-- The accessor behind a command: its tile and the VF of its kernel (R447, R459). -/
def State.mxBy (s : State) (t : Nat) (m : MxCmd) : Accessor := ⟨some t, (s.partOfTile t).bind fun p => s.vfOf p.1 m.kslot⟩

/-- R455: the runs that a command reads: corrected errors are written back and counted; the subcode of the first that is not
corrected. -/
def State.stageRuns (s : State) (t : Nat) (m : MxCmd) : State × Option Nat :=
  m.reads.foldl (fun a r =>
    let x := a.1.eccRead (a.1.mxBy t m) r.1 r.2
    (x.1, a.2 <|> x.2)) (s, none)

/-- The place in a context's queue of its first command that the engine does not run. -/
def CoreSt.waitingAt (k : CoreSt) (c : Nat) : Nat := if k.running c then 1 else 0

/-- The command of a context that the engine would serve next has its operands staged, if nothing holds that back (R236,
R238). -/
def State.stageOf (s : State) (t c : Nat) : State :=
  let k := (s.tile t).core
  let v := s.ctxAt t c
  let i := k.waitingAt c
  match v.mx.queue[i]? with
  | some m =>
    if m.staged.isSome || k.eng.dead || (s.tile t).quiet s.cycle || decide (s.cycle < m.notBefore) || heldWrites v (v.mx.queue.take i) m
    then s
    else
      let r := s.stageRuns t m
      let m' := { m with
        staged := some (m.op.sources.map fun x => (s.stageView x.1 x.2).1), poison := r.2, sflags := s.stagedTern m }
      r.1.onCtxAt t c fun v => { v with mx := { v.mx with queue := v.mx.queue.set i m' } }
  | none => s

/-- The engine starts the staged command of a context. -/
def State.startOf (s : State) (t c : Nat) : State :=
  match (s.ctxAt t c).mx.queue.head? with
  | some m =>
    if m.staged.isSome then
      (s.onCtxAt t c fun v => { v with mx := { v.mx with credits := v.mx.credits - 1 } }).onCore t fun k =>
        { k with eng := { k.eng with running := some (c, m), started := s.cycle, slot := c } }
    else s
  | none => s

/-- R236: behind the command that runs, the operands of the one that follows it are staged. -/
def State.stageNext (s : State) (t : Nat) : State :=
  match (s.tile t).core.serve with
  | some (c, _) => s.stageOf t c
  | none => s

/-- MATRIX_COMMAND_START (R127, R234, R236): the idle engine stages the operands of the next command, unless they were staged
behind the one before it, and starts it; a running engine stages those of the command that follows. -/
def execMatrixCommandStart (s : State) : Host.Outcome State Fault Refusal :=
  let t := s.cur.tile
  let k := (s.tile t).core
  if k.eng.dead ∨ (s.tile t).quiet s.cycle then .next s
  else
    match k.eng.running, k.serve with
    | none, some (c, k') => .next ((((s.onCore t fun _ => k').stageOf t c).startOf t c).stageNext t)
    | some _, _ => .next (s.stageNext t)
    | none, none => .next s

/-- R127: behind a command's end the round stays at its slot while commands are queued there and credits remain, and moves on
otherwise. -/
def CoreSt.roundAt (k : CoreSt) (c : Nat) : Nat := if k.queued c && 0 < (aget k.ctxs .reset c).mx.credits then c else c + 1

/-- The command that ends leaves the queue and the engine; a round that has nothing left to serve ends, and the next one
begins at once (R127). -/
def State.endCommand (s : State) (t c : Nat) : State :=
  let s := s.onCtxAt t c fun v => { v with mx := { v.mx with queue := v.mx.queue.drop 1 } }.drained
  s.onCore t fun k =>
    let ran := match k.eng.running with
      | some (_, m) => ⟨s.cycle, c, m.task, m.kslot⟩ :: recent s.cycle k.eng.ran
      | none => k.eng.ran
    let k := { k with eng := { k.eng with running := none, count := k.eng.count + 1, ran := ran } }
    let k := { k with eng := { k.eng with slot := k.roundAt c } }
    if k.nextServed.isSome then k else k.newRound

/-- R253: the engine of a tile is marked failed. -/
def State.engineFailed (s : State) (t : Nat) : State :=
  let k := (s.tile t).core
  let s := match k.eng.running with
    | some (_, m) => match m.op.dest with | some d => s.freeAccWords t d | none => s
    | none => s
  let s := (upto 8).foldl (fun s c =>
    match (s.ctxAt t c).mx.queue with
    | m :: _ =>
      let s := s.mxError t c m cMxdead 0
      s.onCtxAt t c fun v => { v with mx := { v.mx with queue := [] } }.drained
    | [] => s) s
  let s := s.onCore t fun k => { k with eng := { k.eng with running := none, dead := true } }
  let s := s.logHost { FRec.zero with code := cMxdead, src := 3, va := t }
  match s.partOfTile t with
  | some p => s.mgmtEvent p.1 cMxdead 0 t
  | none => s

/-- A mismatch of the shadow column counted (R459). -/
def State.columnCount (s : State) (t n : Nat) : State :=
  let j := (s.tile t).core.eng.count % 32
  s.onTile t fun v => { v with counts := { v.counts with subm := aalter v.counts.subm 0 j fun x => min (x + n) 65535 } }

/-- R240, R455: the accumulators that a command reads: a corrected error is written back and counted. -/
def State.correctAccs (s : State) (t : Nat) (m : MxCmd) : State :=
  m.op.accReads.foldl (fun s a =>
    if (s.acc t a).err = some false then
      (s.setAcc t a { s.acc t a with err := none }).countMemory (s.mxBy t m) 1 0
    else s) s

/-- R240: the subcode of UNCORR with which a command ends: of its staged operands, or of an accumulator that it reads. -/
def State.cmdError (s : State) (t : Nat) (m : MxCmd) : Option Nat :=
  if m.poison.isSome then m.poison
  else if m.op.accReads.any fun a => (s.acc t a).err = some true then some 0 else none

/-- R240, R455: an uncorrectable error in an accumulator is counted when a command meets it. -/
def State.countAccError (s : State) (t : Nat) (m : MxCmd) : State := if m.poison.isSome then s else s.countMemory (s.mxBy t m) 0 1

/-- The end of a command's run (R234, R240). -/
def State.finishCommand (s : State) (t c : Nat) (m : MxCmd) : State :=
  match s.cmdError t m with
  | some sub =>
    let s := s.countAccError t m
    let s := match m.op.dest with | some d => s.freeAccWords t d | none => s
    (s.mxError t c m cUncorr sub).endCommand t c
  | none => ((s.correctAccs t m).runCommand t m m.sflags).endCommand t c

/-- R252: MSIG posts once every access of its context that precedes it has been performed. -/
def State.mayPost (s : State) (t c : Nat) (m : MxCmd) : Bool :=
  match m.op with
  | .sig _ _ _ => s.before t c m.ord
  | _ => true

/-- MATRIX_COMMAND_COMPLETE (R235, R240, R252, R458): the running command's effect, after the shadow column's check. -/
def execMatrixCommandComplete (shadow : Shadow) (s : State) : Host.Outcome State Fault Refusal :=
  let t := s.cur.tile
  match (s.tile t).core.eng.running with
  | none => .next s
  | some (c, m) =>
    if s.mayPost t c m then
      match shadow with
      | .agree => .next (s.finishCommand t c m)
      | .rerun _ => .next ((s.columnCount t 1).finishCommand t c m)
      | .confirmed => .next ((s.columnCount t 2).engineFailed t)
    else .next s

end Sys2Proof.Machine
end

