-- ==== Sys2Proof/Machine/Assay.lean ====
section
/-!
DEFINITION. The host's side (R73, R74, R96 to R113): the registers of the physical and virtual functions, the mailbox
operations, the CXL.mem windows and their keys.
-/

namespace Sys2Proof.Machine

/-! ## Registers (R74, R98) -/

/-- The Assay's registers changed. -/
def State.onBox (s : State) (f : Mailbox → Mailbox) : State := { s with assay := { s.assay with box := f s.assay.box } }

/-- An ignored write (Table 5.1). -/
def Mailbox.ignored (b : Mailbox) : Mailbox := { b with err := min (b.err + 1) 0xFFFFFFFF }

/-- A write to a register of the physical function (Table 5.1). The spec does not say what becomes of an AMADDR that is not a multiple of
64, nor whether a write to AMGO of another value than 1, which is ignored, counts in AMERR: clearing the six low bits, and not counting
it, are the model's choices (log 92). -/
def State.pfWrite (s : State) (off : Nat) (v : Word) : State :=
  let b := s.assay.box
  match off with
  | 0x00 => s.onBox fun b => if b.busy then b.ignored else { b with addr := v &&& ~~~63 }
  | 0x08 => s.onBox fun b => if b.busy then b.ignored else { b with len := v.toNat }
  | 0x10 =>
    if b.busy then s.onBox Mailbox.ignored
    else if v ≠ 1 then s
    else if b.len < 64 ∨ 2 ^ 20 < b.len then s.mailboxDone cRefused 0x20 0
    else s.onBox fun b => { b with busy := true, started := false }
  | 0x30 => s.onBox fun b => { b with err := b.err &&& (2 ^ 64 - 1 - v.toNat) }
  | _ => s

/-- A queue of the VF holds a slot, or has a latched notify (Table 4.1 MAPPED, PEND). -/
def State.vfBusy (s : State) (p : Part) (vf : Nat) : Bool :=
  !(s.vf vf).pend.isEmpty || p.qslots.any fun x => x.2.vf == vf && decide (x.2.queue < 64)

/-- A write to a register of a virtual function (Table 4.1, R74). What the spec leaves open of QTBASE and QCOUNT is log 84: an
unaligned QTBASE is rounded down and forgets what the device knows of HEAD and TAIL, a QCOUNT above 64 is ignored. -/
def State.vfWrite (s : State) (vf off : Nat) (v : Word) : State :=
  match s.partOfVf vf with
  | none => s
  | some (_, p) =>
    if off < 0x200 then (if off % 8 = 0 then s.notify vf (off / 8) v else s)
    else
      match off with
      | 0x200 =>
        if s.vfBusy p vf then s.countQerr vf
        else s.onVf vf fun f => { f with qtbase := v.toNat % 2 ^ 56 / 2 ^ 12 * 2 ^ 12, heads := [], tails := [] }
      | 0x208 =>
        if s.vfBusy p vf then s.countQerr vf
        else if 64 < v.toNat then s
        else s.onVf vf fun f => { f with qcount := v.toNat }
      | 0x220 => s.onVf vf fun f => { f with qerr := f.qerr &&& (2 ^ 64 - 1 - v.toNat) }
      | _ => s

/-- Bit `q` set for each queue of a list. -/
def queueBits (l : List Nat) : Nat := ((upto 64).map fun q => if l.contains q then 2 ^ q else 0).sum

/-- What a read of a register of the physical function gives (Table 5.1). -/
def State.pfRead (s : State) (off : Nat) : Word :=
  let b := s.assay.box
  match off with
  | 0x00 => b.addr
  | 0x08 => word b.len
  | 0x18 => word (boolNat b.busy * 2 ^ 16 + b.sub % 2 ^ 8 * 2 ^ 8 + b.code % 2 ^ 8)
  | 0x20 => b.res
  | 0x28 => word b.seq
  | 0x30 => word b.err
  | _ => 0

/-- PEND of a VF (Table 4.1). -/
def State.pendBits (s : State) (vf : Nat) : Nat := queueBits ((s.vf vf).pend.map fun e => e.1)

/-- MAPPED of a VF (Table 4.1). -/
def Part.mappedBits (p : Part) (vf : Nat) : Nat :=
  queueBits ((p.qslots.filter fun x => x.2.vf == vf && decide (x.2.queue < 64)).map fun x => x.2.queue)

/-- What a read of a register of a virtual function gives (Table 4.1): a VF that no partition holds returns zero (R74), and so
do QNOTIFY, which is write only, and what is reserved. -/
def State.vfRead (s : State) (vf off : Nat) : Word :=
  match s.partOfVf vf with
  | none => 0
  | some (_, p) =>
    match off with
    | 0x200 => word (s.vf vf).qtbase
    | 0x208 => word (s.vf vf).qcount
    | 0x210 => word (s.pendBits vf)
    | 0x218 => word (p.mappedBits vf)
    | 0x220 => word (s.vf vf).qerr
    | _ => 0

/-- REGISTER_WRITE (R74, R98): the host writes a BAR0 register. -/
def execRegisterWrite (pf : Bool) (vf off : Nat) (val : Word) (s : State) : Host.Outcome State Fault Refusal :=
  .next (if pf then s.pfWrite off val else if vf < 128 then s.vfWrite vf off val else s)

/-! ## The frame of a mailbox operation (R99, R104) -/

/-- The outcome of an operation's checks: a refusal, or a state. -/
abbrev Check := Except (Nat × Nat)

/-- REFUSED, subcode 0x20 (R104 step 1). -/
def bad1 {α : Type} : Check α := .error (cRefused, 0x20)
/-- REFUSED, subcode 0x21 (R104 step 2). -/
def bad2 {α : Type} : Check α := .error (cRefused, 0x21)
/-- REFUSED, subcode 0x22 (R104 step 3). -/
def bad3 {α : Type} : Check α := .error (cRefused, 0x22)
/-- POLICY, subcode 0x00 (R104 step 5). -/
def bad5 {α : Type} : Check α := .error (cPolicy, 0)
/-- REFUSED, subcode 0x23 (R104 step 6). -/
def bad6 {α : Type} : Check α := .error (cRefused, 0x23)
/-- Goes on when the condition holds. -/
def must (b : Bool) (e : Check Unit) : Check Unit := if b then .ok () else e

/-- The operations of Table 5.4 and their argument lengths. -/
def mailboxOps : List (Nat × Nat) :=
  [(0x01, 50496), (0x02, 0), (0x03, 0), (0x04, 24), (0x05, 24), (0x06, 0), (0x07, 32), (0x08, 256), (0x09, 32), (0x0A, 16),
    (0x20, 40), (0x21, 16), (0x30, 8), (0x31, 16), (0x32, 24)]

/-- A command as its operation sees it: HANDLE and the argument bytes. -/
structure Cmd where
  handle : Word
  args : List Byte
deriving DecidableEq, Repr

/-- A number of `n` bytes of the arguments. -/
def Cmd.nat (c : Cmd) (off n : Nat) : Nat := leNat ((c.args.drop off).take n)

/-- What an operation comes to: it is refused, it is done with a result word, or it goes on (R438, R277). -/
inductive Done where
  | ok (s : State) (res : Word)
  | later (s : State)

/-- The header of a command buffer is right for its operation (R104 step 1). -/
def headerOk (h len : Nat) : Bool :=
  field h 64 32 == 0 && field h 104 24 == 0 && field h 160 352 == 0
  && mailboxOps.any fun o => o.1 == field h 96 8 && o.2 == field h 128 32 && decide (64 + o.2 ≤ len)

/-- The mailbox operation that waits is carried out, when it is `op` and `which` holds of its command. One that is unknown
or whose header is wrong is refused (R104). The spec gives AMRES for operations that succeed only: 0 after a refused one is the model's
choice (log 92). -/
def mailbox (op : Nat) (buf : Mbox) (s : State) (which : Cmd → Bool) (f : State → Cmd → Check Done) :
    Host.Outcome State Fault Refusal :=
  let b := s.assay.box
  if !b.busy || b.started then .next s
  else
    let bytes := buf.bytes.take b.len
    let h := leNat (bytes.take 64)
    if !headerOk h b.len then .next (s.mailboxDone cRefused 0x20 0)
    else
      let c : Cmd := ⟨word (field h 0 64), (bytes.drop 64).take (field h 128 32)⟩
      if field h 96 8 ≠ op ∨ !which c then .next s
      else
        match f s c with
        | .error (code, sub) => .next (s.mailboxDone code sub 0)
        | .ok (.ok s res) => .next (s.mailboxDone cOk 0 res)
        | .ok (.later s) => .next (s.onBox fun b => { b with started := true })

/-- The partition of a handle (R100, R104 step 2). -/
def named (s : State) (c : Cmd) : Check (Nat × Part) :=
  match s.parts.find? fun p => p.2.handle == c.handle with
  | some p => .ok p
  | none => bad2

/-- R104 step 5: the command's CMDMASK bit. -/
def allows (p : Part) (op : Nat) : Check Unit := must (bit p.policy.cmdmask op) bad5

/-! ## PART.CREATE (R75, R76, R100 to R102, R106) -/

/-- The partition record of 1,024 bits and its channel list (Table 4.2, R75). -/
def recordOf (n : Nat) (list : List Byte) : PartRec :=
  { islen := field n 416 32, isoff := field n 384 32, tstarv := field n 352 32, pnum := field n 320 4,
    vfmask := field n 128 128, wsmask := field n 64 64, nch := field n 48 9, shz := bit n 34, ppol := field n 32 2,
    plen := field n 12 13, pbase := field n 0 12, chans := (list.take (field n 48 9)).map BitVec.toNat
    rest := (list.drop (field n 48 9)).map BitVec.toNat }

/-- RES fields of a partition record are zero; PPOL is no reserved value. -/
def recordZero (n : Nat) : Bool :=
  zeroFields n [(448, 576), (324, 28), (256, 64), (57, 7), (35, 13), (33, 1), (25, 7)]

/-- A policy body (Table 5.3). -/
def policyOf (n : Nat) (body : List Byte) : PolicyBody :=
  { minrate := field n 736 32, relok := bit n 707, s2alias := bit n 706, reqreplay := bit n 705, reqshz := bit n 704,
    maxevict := field n 672 32, maxvf := field n 656 8, nchhi := field n 640 9, nchlo := field n 624 9,
    plenhi := field n 608 13, plenlo := field n 592 13, cmdmask := field n 576 16, body := body
    measurement := fixedBytes 64 (Config.shake256 body 64) }

/-- TENKEY of a policy (Table 5.3). -/
def PolicyBody.tenkey (p : PolicyBody) : List Byte := (p.body.drop 8).take 64

/-- A signature of 49,856 bytes under the private key that matches a public key (R101, R107): its first 32 bytes are the
randomizer with which it was made. -/
def slhValid (key msg sig : List Byte) : Bool :=
  sig.length == 49856 && sig.drop 32 == fixedBytes 49824 (Config.slhSign key msg (sig.take 32))

/-- A policy body is well formed: magic, version, RES fields and CMDMASK's reserved bits. -/
def policyZero (n : Nat) : Bool :=
  field n 0 32 == 0x59434C50 && field n 32 16 == 1
  && zeroFields n [(768, 1280), (708, 28), (664, 8), (649, 7), (633, 7), (621, 3), (605, 3), (587, 5), (576, 1), (48, 16)]

/-- The number of set bits below `n`. -/
def countBits (v n : Nat) : Nat := ((upto n).filter fun i => bit v i).length

/-- R104 step 5 for the shape of a partition. -/
def shapeOk (p : PolicyBody) (r : PartRec) : Bool :=
  p.plenlo ≤ r.plen && r.plen ≤ p.plenhi && p.nchlo ≤ r.nch && r.nch ≤ p.nchhi
  && countBits r.vfmask 128 ≤ p.maxvf && (!p.reqshz || r.shz) && (!p.reqreplay || r.ppol == 1)

/-- R76: intervals of tiles are disjoint. -/
def tilesMeet (a b : PartRec) : Bool := a.pbase < b.pbase + b.plen && b.pbase < a.pbase + a.plen

/-- The partitions other than one. -/
def State.others (s : State) (pn : Nat) : List (Nat × Part) := s.parts.filter fun p => p.1 != pn

/-- Tiles and segments of a record are held by no other partition (R76). -/
def State.placesFree (s : State) (pn : Nat) (r : PartRec) : Bool :=
  r.pbase + r.plen ≤ 4096
  && (s.others pn).all fun p => p.2.state == .evicted || (!tilesMeet p.2.prec r && p.2.prec.wsmask &&& r.wsmask == 0)

/-- Channels are distinct and held by no other partition (R76). -/
def State.chansFree (s : State) (pn : Nat) (cs : List Nat) : Bool :=
  cs.eraseDups.length == cs.length && (s.others pn).all fun p => cs.all fun c => !p.2.holdsChan c

/-- VFs are held by no other partition (R76). -/
def State.vfsFree (s : State) (pn mask : Nat) : Bool := (s.others pn).all fun p => p.2.prec.vfmask &&& mask == 0

/-- R76: a record that a partition may have. -/
def recordOk (r : PartRec) : Bool :=
  1 ≤ r.plen && r.plen ≤ 4096 && r.nch ≤ 256 && 1 ≤ r.tstarv && r.isoff + r.islen ≤ r.nch * 32768
  && r.chans.length == r.nch

/-- R100: the first word from `w` on that is not 0 and has not been drawn. -/
def freshHandle (drawn : List Word) : Nat → Word → Word
  | 0, w => w
  | n + 1, w => if w = 0 ∨ drawn.contains w then freshHandle drawn n (w + 1) else w

/-- A supervisor that has named nothing (R94). -/
def Supv.empty : Supv :=
  { recv := none, hold := [], mgmt := none, requests := [], recover := none,
    flog := { base := none, k := 0, head := 0, tail := 0, overflow := 0 }, resident := none }

/-- The partition of a record, ACTIVE, epoch 0. -/
def newPart (r : PartRec) (p : PolicyBody) (h : Word) (gen cycle : Nat) : Part :=
  { prec := r, handle := h, policy := p, state := .active, halt := none, replay := false, epoch := 0, evictions := 0,
    keyGen := gen, imageLog := List.replicate 64 0, images := [], nextImage := 1, qslots := [], supv := .empty,
    s2roots := [], s2tabs := [], fmmu := [], invq := [], xrecs := []
    counts := { aborts := [], discarded := 0, scrubbed := 0, poisoned := 0 }, box := none, relHbm := false, since := cycle }

/-- PART.CREATE. -/
def partCreate (s : State) (c : Cmd) : Check Done := do
  let rec' := c.nat 0 128
  let body := (c.args.drop 384).take 256
  let pol := leNat body
  must (recordZero rec' && policyZero pol) bad1
  must (c.handle == 0) bad2
  let p := policyOf pol body
  must (slhValid p.tenkey body (c.args.drop 640)) (.error (cPolicy, 1))
  let r := recordOf rec' ((c.args.drop 128).take 256)
  must (bit p.cmdmask 1 && shapeOk p r) bad5
  must (recordOk r && s.placesFree 16 r && s.chansFree 16 r.chans && s.vfsFree 16 r.vfmask
    && (aget? s.parts r.pnum).isNone) bad6
  let h := freshHandle s.assay.drawn (s.assay.drawn.length + 2) (Config.freeHandle s.free)
  let gen := s.keyGen + 1
  let s := s.draw 1
  let s := { s with
    parts := aset s.parts r.pnum (newPart r p h gen s.cycle), keyGen := gen
    assay := { s.assay with drawn := h :: s.assay.drawn } }
  let q := newPart r p h gen s.cycle
  let s := q.tiles.foldl (fun s t => (s.clearTile t).loadSteward t) s
  let s := (segmentsOf r.wsmask).foldl (fun s g => s.clearSegment g) s
  .ok (.ok (r.chans.foldl (fun s c => s.zeroRange (c * 2 ^ 31) (2 ^ 31)) s) h)

/-- PART_CREATE (R103). The command stands in host memory as `buf` and, after it, its last argument, the signature `sig`. -/
def execPartCreate (buf : Mbox) (sig : List Byte) (s : State) : Host.Outcome State Fault Refusal :=
  mailbox 0x01 ⟨buf.bytes ++ sig⟩ s (fun _ => true) partCreate

/-! ## PART.PAUSE, PART.RESUME, PART.EVICT, PART.RESTORE, PART.DESTROY -/

/-- A halt of the partition that the command names is under way: the command is accepted after it (R448). -/
def State.halting (s : State) (c : Cmd) : Bool := s.parts.any fun p => p.2.handle == c.handle && p.2.halt.isSome

/-- PART.PAUSE. -/
def partPause (s : State) (c : Cmd) : Check Done := do
  let (pn, p) ← named s c
  must (p.state != .evicted) bad3
  allows p 2
  if p.state = .active then .ok (.later (s.startHalt pn .pause)) else .ok (.ok s 0)

/-- PART_PAUSE (R440). -/
def execPartPause (buf : Mbox) (s : State) : Host.Outcome State Fault Refusal :=
  mailbox 0x02 buf s (fun c => !s.halting c) partPause

/-- PART.RESUME. -/
def partResume (s : State) (c : Cmd) : Check Done := do
  let (pn, p) ← named s c
  must (p.state != .evicted) bad3
  allows p 3
  .ok (.ok (if p.state = .paused then s.resumePart pn else s) 0)

/-- PART_RESUME (R440). -/
def execPartResume (buf : Mbox) (s : State) : Host.Outcome State Fault Refusal :=
  mailbox 0x03 buf s (fun c => !s.halting c) partResume

/-- PART.EVICT: blob address, buffer length, flags. -/
def partEvict (s : State) (c : Cmd) : Check Done := do
  let flags := c.nat 16 8
  must (flags / 2 == 0) bad1
  let (pn, p) ← named s c
  must (p.state != .evicted) bad3
  let rel := bit flags 0
  must (bit p.policy.cmdmask 4 && (!rel || p.policy.relok)
    && (p.policy.maxevict == 0xFFFFFFFF || decide (p.evictions + 1 ≤ p.policy.maxevict))) bad5
  must (decide (p.prec.blobLen rel ≤ c.nat 8 8)) (.error (cRefused, 0x24))
  let why : HaltFor := .evict rel (c.nat 8 8)
  .ok (.later (if p.state = .active then s.startHalt pn why else s.onPart pn fun p => { p with halt := some why }))

/-- PART_EVICT (R109, R441). -/
def execPartEvict (buf : Mbox) (s : State) : Host.Outcome State Fault Refusal :=
  mailbox 0x04 buf s (fun c => !s.halting c) partEvict

/-- R109, R110: the blob is one of this module for the partition: its tag verifies over its header and body, its handle, epoch and
identity digest match. -/
def blobOk (p : Part) (blob : List Byte) (len : Nat) : Bool :=
  let header := blob.take 4096
  let body := (blob.take (len - 16)).drop 4096
  let num (off n : Nat) : Nat := leNat ((header.drop off).take n)
  len == p.prec.blobLen p.relHbm && (blob.take len).drop (len - 16) == blobTag (blobKey (word (num 8 8)) (num 16 4)) header body
  && num 8 8 == p.handle.toNat && num 16 4 == p.epoch
  && (header.drop 36).take 32 == fixedBytes 32 (Config.shake256 Config.identityKey 32)

/-- PART.RESTORE: blob address, blob length, new PBASE. A blob that passes is the one that the module sealed (log 85). -/
def partRestore (blob : List Byte) (s : State) (c : Cmd) : Check Done := do
  must (c.nat 16 8 / 2 ^ 12 == 0) bad1
  let (pn, p) ← named s c
  match p.state, p.box with
  | .evicted, some x => do
    allows p 5
    let new := { p.prec with pbase := c.nat 16 8 }
    must (s.placesFree pn new && (!p.relHbm || s.chansFree pn new.chans)) bad6
    must (blobOk p blob (c.nat 8 8)) (.error (cRefused, 0x25))
    .ok (.ok (s.restorePart pn p x (c.nat 16 8)) 0)
  | _, _ => bad3

/-- PART_RESTORE (R110, R442). `blob` is what stands in host memory from the blob's address on. -/
def execPartRestore (buf : Mbox) (blob : List Byte) (s : State) : Host.Outcome State Fault Refusal :=
  mailbox 0x05 buf s (fun _ => true) (partRestore blob)

/-- R111: the partition ends. -/
def State.destroyPart (s : State) (pn : Nat) (p : Part) : State :=
  let s := ((upto 128).filter fun v => bit p.prec.vfmask v).foldl (fun s v => s.resetVf v) s
  let s := s.withdrawPart pn
  let s := if p.state = .evicted then s else s.leavePlaces pn p true
  let s := if p.state = .evicted ∧ p.relHbm then s else p.prec.chans.foldl (fun s c => s.leaveChannel c true) s
  { s with
    parts := aerase s.parts pn
    fabric := { s.fabric with
      out := s.fabric.out.filter fun q => q.part != pn || outlives q s.chip p
      buckets := s.fabric.buckets.filter fun b => b.1 / 32 != pn } }

/-- PART.DESTROY. -/
def partDestroy (s : State) (c : Cmd) : Check Done := do
  let (pn, p) ← named s c
  allows p 6
  .ok (.ok (s.destroyPart pn p) 0)

/-- PART_DESTROY (R111). -/
def execPartDestroy (buf : Mbox) (s : State) : Host.Outcome State Fault Refusal :=
  mailbox 0x06 buf s (fun _ => true) partDestroy

/-! ## VF.ASSIGN, CHAN.ASSIGN, RATE.SET -/

/-- VF.ASSIGN: VFs to add, VFs to remove. -/
def vfAssign (s : State) (c : Cmd) : Check Done := do
  let (pn, p) ← named s c
  must (p.state != .active) bad3
  let add := c.nat 0 16
  let old := p.prec.vfmask
  let gone := (upto 128).filter fun v => bit (c.nat 16 16) v
  let new := ((upto 128).map fun v => if (bit old v || bit add v) && !gone.contains v then 2 ^ v else 0).sum
  must (bit p.policy.cmdmask 7 && decide (countBits new 128 ≤ p.policy.maxvf)) bad5
  must (s.vfsFree pn add) bad6
  let s := (gone.filter fun v => bit old v).foldl (fun s v => s.resetVf v) s
  .ok (.ok (s.onPart pn fun p => { p with prec := { p.prec with vfmask := new } }) 0)

/-- VF_ASSIGN (R103, R446). -/
def execVfAssign (buf : Mbox) (s : State) : Host.Outcome State Fault Refusal :=
  mailbox 0x07 buf s (fun c => !s.halting c) vfAssign

/-- CHAN.ASSIGN. -/
def chanAssign (s : State) (c : Cmd) : Check Done := do
  let (pn, p) ← named s c
  must (p.state == .evicted && p.relHbm) bad3
  allows p 8
  let cs := (c.args.take p.prec.nch).map BitVec.toNat
  must (s.chansFree pn cs) bad6
  .ok (.ok (s.onPart pn fun p => { p with prec := { p.prec with chans := cs } }) 0)

/-- CHAN_ASSIGN (R103, R110). -/
def execChanAssign (buf : Mbox) (s : State) : Host.Outcome State Fault Refusal :=
  mailbox 0x08 buf s (fun _ => true) chanAssign

/-- R408: the rates that other partitions have on a port, in MB/s. -/
def State.ratesOn (s : State) (pn port : Nat) : Nat :=
  ((s.fabric.buckets.filter fun b => b.1 % 32 == port && b.1 / 32 != pn).map fun b => b.2.rate).sum

/-- RATE.SET: port mask, rate. -/
def rateSet (s : State) (c : Cmd) : Check Done := do
  let mask := c.nat 0 8
  let rate := c.nat 8 8
  must (mask / 2 ^ 16 == 0) bad1
  let (pn, p) ← named s c
  must (bit p.policy.cmdmask 10 && decide (p.policy.minrate ≤ rate)) bad5
  let ports := (upto 16).filter fun i => bit mask i
  must (ports.all fun i => s.ratesOn pn i + rate ≤ 100000) bad6
  let set (m : Assoc Bucket) (i : Nat) : Assoc Bucket :=
    aalter m (Bucket.fresh i) (bucketKey pn i) fun b =>
      { b.settle s.cycle with rate := rate, tokens := min (b.settle s.cycle).tokens (max rate 1024 * Config.cyclesPerMicro) }
  .ok (.ok { s with fabric := { s.fabric with buckets := ports.foldl set s.fabric.buckets } } 0)

/-- RATE_SET (R103, R408). -/
def execRateSet (buf : Mbox) (s : State) : Host.Outcome State Fault Refusal :=
  mailbox 0x0A buf s (fun _ => true) rateSet

/-! ## MAP.S2 (R264, R272, R273, R402, R472) -/

/-- The page size of SIZE. -/
def s2Log (size : Nat) : Nat := if size = 0 then 19 else if size = 1 then 21 else if size = 2 then 25 else 29

/-- A stage-two entry of a VF meets a range of guest addresses. -/
def S2Entry.meets (e : S2Entry) (vf gpa log2 : Nat) : Bool := e.vf == vf && rangeMeets e.gpa (2 ^ e.log2) gpa (2 ^ log2)

/-- The pages of a range that stand as requests of a VF, 512 KiB each. -/
def pageIn (gpa log2 page : Nat) : Bool := gpa ≤ page * 2 ^ 19 && page * 2 ^ 19 < gpa + 2 ^ log2

/-- R272, R275: requests of a VF in a range leave. What waits for them notes a rejection, and does not wait for those pages any more: a
page that a replayed element misses again is requested again. -/
def State.answerPages (s : State) (p : Part) (vf gpa log2 : Nat) (reject : Bool) : State :=
  let v := s.vf vf
  let mine := ((v.prq ++ v.prqWaiting).map fun r => r.gpa).filter (pageIn gpa log2)
  let s := s.onVf vf fun v =>
    { v with
      prq := v.prq.filter fun r => !pageIn gpa log2 r.gpa, prqWaiting := v.prqWaiting.filter fun r => !pageIn gpa log2 r.gpa }
  let refused (w : ParkWait) : List Nat :=
    match w with
    | .pages vf' pages => if reject && vf' == vf then pages.filter mine.contains else []
    | _ => []
  let left (w : ParkWait) : ParkWait :=
    match w with
    | .pages vf' pages => if vf' = vf then .pages vf' (pages.filter fun g => !mine.contains g) else w
    | _ => w
  let stands (w : ParkWait) : Bool :=
    match w with
    | .pages _ pages => !pages.isEmpty
    | _ => true
  s.onTiles p fun t =>
    let park := amap t.loc.park fun _ e => { e with rejected := e.rejected ++ refused e.wait, wait := left e.wait }
    { t with
      core := { t.core with ctxs := amap t.core.ctxs fun _ c => match c.hold with
          | .parkFull w => { c with hold := .parkFull (left w), run := { c.run with rejected := c.run.rejected ++ refused w } }
          | _ => c }
      loc := { t.loc with
        park := park
        recs := amap t.loc.recs fun i r => match r.q, aget? park i with
          | .parked, some e =>
            if stands e.wait then r else { r with q := .ready r.prio s.cycle i s.cycle s.cycle false }
          | _, _ => r }
      stw := { t.stw with ops := t.stw.ops.map fun o =>
        match o.page with
        | some (vf', g, _) => if reject && vf' == vf && mine.contains g then { o with rejected := true } else o
        | none => o } }

/-- R277: the invalidation that MAP.S2 awaits. -/
def State.joinInval (s : State) (pn : Nat) (p : Part) (vf gpa log2 : Nat) : State :=
  s.onPart pn fun q =>
    { q with invq := q.invq ++
        [{ s2 := true, vf := some vf, asid := none, base := gpa, len := 2 ^ log2, waiting := p.tiles, notify := none }] }

/-- The guest addresses that an entry at a table level covers: 2 to this power (R266). -/
def levelLog2 (level : Nat) : Nat := if level = 3 then 19 else if level = 2 then 29 else if level = 1 then 39 else 49

/-- The entries used at a table level (R266). -/
def levelEntries (level : Nat) : Nat := if level = 0 then 8 else 1024

/-- The valid leaves and blocks below a stage-two table, `base` the first guest address under it; a group stands once
(R265 to R267). -/
def State.s2Leaves (s : State) (p : Part) (vf : Nat) : Nat → Nat → Nat → Nat → List S2Entry
  | 0, _, _, _ => []
  | fuel + 1, level, table, base =>
    (upto (levelEntries level)).flatMap fun i =>
      let e := s.tableNat p (table + 8 * i) 8
      let gpa := base + i * 2 ^ levelLog2 level
      if !bit e 0 then []
      else if bit e 1 then (if gpa % 2 ^ pteLog2 e level = 0 then [⟨vf, gpa, pteLog2 e level, pteBase e⟩] else [])
      else s.s2Leaves p vf fuel (level + 1) (pteBase e) gpa

/-- Every valid stage-two leaf and block of a partition (R264). -/
def State.s2Entries (s : State) (p : Part) : List S2Entry := p.s2roots.flatMap fun r => s.s2Leaves p r.1 4 0 r.2 0

/-- The stage-two tables reached from a table on. -/
def State.s2Tables (s : State) (p : Part) : Nat → Nat → Nat → List Nat
  | 0, _, _ => []
  | fuel + 1, level, table =>
    table :: (if level = 3 then [] else (upto (levelEntries level)).flatMap fun i =>
      let e := s.tableNat p (table + 8 * i) 8
      if bit e 0 && !bit e 1 then s.s2Tables p fuel (level + 1) (pteBase e) else [])

/-- A new, empty stage-two table of a VF in the image store; none without room (R264, log 39). -/
def State.newTable (s : State) (pn vf : Nat) : Option (State × Nat) :=
  (aget? s.parts pn).bind fun p =>
  (p.storeRoom 8192 8192).map fun off =>
    let old (a : Nat) : Bool :=
      decide (a < 2 ^ 39) && p.prec.chans.contains (a / 2 ^ 31) && decide (off ≤ p.prec.offset a ∧ p.prec.offset a < off + 8192)
    (State.onPart { s with mem := s.mem.filter fun c => !old c.1 } pn fun q => { q with s2tabs := q.s2tabs ++ [(vf, off)] }, off)

/-- An entry of a stage-two table is written. -/
def State.putEntry (s : State) (p : Part) (table i e : Nat) : State := s.putPoff p.prec (table + 8 * i) (leBytes 8 e)

/-- The tables of a guest address from a level on down to the table of the given depth, made where there is none (R264). -/
def State.tableFor (s : State) (pn : Nat) (p : Part) (vf gpa : Nat) : Nat → Nat → Nat → Option (State × Nat)
  | 0, _, table => some (s, table)
  | n + 1, level, table =>
    let e := s.tableNat p (table + 8 * pteIndex gpa level) 8
    if bit e 0 && !bit e 1 then s.tableFor pn p vf gpa n (level + 1) (pteBase e)
    else
      (s.newTable pn vf).bind fun x =>
        (x.1.putEntry p table (pteIndex gpa level) (x.2 + 1)).tableFor pn p vf gpa n (level + 1) x.2

/-- The root of a VF's stage-two tree, made where there is none (R264). -/
def State.rootFor (s : State) (pn : Nat) (p : Part) (vf : Nat) : Option (State × Nat) :=
  match aget? p.s2roots vf with
  | some r => some (s, r)
  | none => (s.newTable pn vf).map fun x => (x.1.onPart pn fun q => { q with s2roots := aset q.s2roots vf x.2 }, x.2)

/-- The entries that a page of a size takes in its table (R266, R267). -/
def pageEntries (log2 : Nat) : Nat := if log2 = 29 then 1 else 2 ^ (log2 - 19)

/-- The value of a leaf or block of a size (Table 12.4); stage-two entries carry no rights (R264). -/
def leafOf (poff log2 : Nat) : Nat :=
  poff + (if log2 = 21 then 1 else if log2 = 25 then 2 else 0) * 2 ^ 5 + 2 + 1

/-- The tables of a page of a size, and its entries there written with `e`. -/
def State.putLeaf (s : State) (pn : Nat) (p : Part) (vf gpa log2 e : Nat) : Option State :=
  let level := if log2 = 29 then 2 else 3
  (s.rootFor pn p vf).bind fun r =>
  (r.1.tableFor pn p vf gpa level 0 r.2).map fun x =>
    (upto (pageEntries log2)).foldl (fun s i => s.putEntry p x.2 (pteIndex gpa level + i) e) x.1

/-- Tables of a VF that its root does not reach any more leave the image store. -/
def State.dropTables (s : State) (pn : Nat) (p : Part) (vf : Nat) : State :=
  let live := match (aget? s.parts pn).bind fun q => aget? q.s2roots vf with
    | some r => s.s2Tables p 4 0 r
    | none => []
  s.onPart pn fun q => { q with s2tabs := q.s2tabs.filter fun x => x.1 != vf || live.contains x.2 }

/-- R264, R472: the tables after a map or unmap of a range whose entries `met` it covers; none when a map finds no room. -/
def State.changeTables (s : State) (pn : Nat) (p : Part) (vf gpa poff log2 : Nat) (met : List S2Entry) (map' : Bool) :
    Option State :=
  let s := met.foldl (fun s e => (s.putLeaf pn p vf e.gpa e.log2 0).getD s) s
  if map' then
    (s.putLeaf pn p vf gpa log2 (leafOf poff log2)).map fun s => if log2 = 29 then s.dropTables pn p vf else s
  else some s

/-- R472: a map or unmap of a stage-two range. -/
def mapStageTwo (s : State) (pn : Nat) (p : Part) (vf gpa poff log2 : Nat) (map' : Bool) : Check Done := do
  let all := s.s2Entries p
  let met := all.filter fun e => e.meets vf gpa log2
  let rest := all.filter fun e => !e.meets vf gpa log2
  must (bit p.policy.cmdmask 9
    && (!map' || p.policy.s2alias || rest.all fun e => !rangeMeets e.poff (2 ^ e.log2) poff (2 ^ log2))) bad5
  must (!map' || p.prec.covers poff (2 ^ log2)) bad6
  must (met.all fun e => e.log2 ≤ log2) bad6
  match s.changeTables pn p vf gpa poff log2 met map' with
  | none => bad6
  | some s =>
    let s := s.answerPages p vf gpa log2 (!map')
    let s := if map' then s else s.refuseWaiting vf (pageIn gpa log2)
    if met = [] then .ok (.ok s 0) else .ok (.later (s.joinInval pn p vf gpa log2))

/-- R402: an entry of the fabric MMU. -/
def mapFabric (s : State) (pn : Nat) (p : Part) (vfw foff poff log2 : Nat) (map' : Bool) : Check Done := do
  let i := field vfw 0 6
  let e : FmmuEntry := ⟨poff, foff, field vfw 20 4, field vfw 10 10, log2⟩
  let clash := p.fmmu.any fun x => x.1 != i && x.2.schip == e.schip && x.2.spart == e.spart
    && rangeMeets x.2.foff (2 ^ x.2.log2) foff (2 ^ log2)
  allows p 9
  must (!map' || (!clash && p.prec.covers poff (2 ^ log2))) bad6
  .ok (.ok (s.onPart pn fun q => { q with fmmu := if map' then aset q.fmmu i e else aerase q.fmmu i }) 0)

/-- MAP.S2. -/
def mapS2 (s : State) (c : Cmd) : Check Done := do
  let n := c.nat 0 32
  let vfw := field n 0 31
  let gpa := field n 64 64
  let poff := field n 128 64
  let log2 := s2Log (field n 192 2)
  let map' := bit n 200
  let fab := bit n 31
  must (zeroFields n [(32, 32), (194, 6), (201, 55)] && gpa % 2 ^ log2 == 0 && (!map' || poff % 2 ^ log2 == 0)
    && decide (gpa < (if fab then 2 ^ 42 else 2 ^ 52))
    && (if fab then field vfw 6 4 == 0 && field vfw 24 7 == 0 else decide (vfw < 128))) bad1
  let (pn, p) ← named s c
  must (fab || bit p.prec.vfmask vfw) bad1
  must (p.state != .evicted) bad3
  if fab then mapFabric s pn p vfw gpa poff log2 map' else mapStageTwo s pn p vfw gpa poff log2 map'

/-- MAP_S2 (R273, R472). -/
def execMapS2 (buf : Mbox) (s : State) : Host.Outcome State Fault Refusal := mailbox 0x09 buf s (fun _ => true) mapS2

/-! ## REPORT, CERT (R112) -/

/-- What an operation writes to host memory. -/
def State.toHost (s : State) (bs : List Byte) : State := { s with assay := { s.assay with hostOut := bs } }

/-- The state's code in a report. -/
def PState.code : PState → Nat
  | .active => 0 | .paused => 1 | .evicted => 2

/-- The 512 bytes of a report's body. -/
def reportBody (p : Part) (nonce : List Byte) : List Byte :=
  let rec' := leBytes 128 p.prec.bits ++ p.prec.list
  fixedBytes 512
    (fixedBytes 64 Config.identityKey ++ fixedBytes 64 Config.firmwareMeasurement ++ fixedBytes 64 p.policy.measurement
      ++ fixedBytes 64 (Config.shake256 rec' 64) ++ fixedBytes 64 p.imageLog ++ leBytes 4 p.state.code ++ leBytes 4 p.epoch
      ++ fixedBytes 32 nonce)

/-- REPORT. -/
def report (s : State) (c : Cmd) : Check Done := do
  let (_, p) ← named s c
  let body := reportBody p (c.args.take 32)
  .ok (.ok (s.toHost (body ++ fixedBytes 49856 (Config.identitySign body))) 50368)

/-- REPORT (R112). -/
def execReport (buf : Mbox) (s : State) : Host.Outcome State Fault Refusal := mailbox 0x20 buf s (fun _ => true) report

/-- CERT: as much of the chain as the buffer holds is written; the result is the chain's length. -/
def cert (s : State) (c : Cmd) : Check Done := do
  must (c.handle == 0) bad2
  let chain := Config.certificateChain
  .ok (.ok (s.toHost (chain.take (c.nat 8 8))) (word chain.length))

/-- CERT (R112). -/
def execCert (buf : Mbox) (s : State) : Host.Outcome State Fault Refusal := mailbox 0x21 buf s (fun _ => true) cert

/-! ## Management registers (R113) -/

/-- A management register (Table 5.8). -/
inductive MReg where
  | rtab (i : Nat)
  | flipwin
  | gencur
  | wlen
  | skew
  | poolbase (p : Nat)
  | poollen (p : Nat)
  | scrub
  | power
  | temp (d : Nat)
  | emark (t : Nat)
  | health (t w : Nat)
  | hostlog (n w : Nat)
  | hltail
  | hlhead
deriving DecidableEq, Repr

/-- The register at an address (Table 5.8). -/
def mregOf (a : Nat) : Option MReg :=
  if a % 8 ≠ 0 then none
  else if a < 0x4000 then some (.rtab (a / 8))
  else if a = 0x10000 then some .flipwin
  else if a = 0x10008 then some .gencur
  else if a = 0x10010 then some .wlen
  else if a = 0x10018 then some .skew
  else if 0x10100 ≤ a ∧ a < 0x10200 then
    if a % 16 = 0 then some (.poolbase ((a - 0x10100) / 16)) else some (.poollen ((a - 0x10100) / 16))
  else if a = 0x10200 then some .scrub
  else if a = 0x10208 then some .power
  else if 0x10210 ≤ a ∧ a < 0x10230 then some (.temp ((a - 0x10210) / 8))
  else if 0x20000 ≤ a ∧ a < 0x28000 then some (.emark ((a - 0x20000) / 8))
  else if 0x100000 ≤ a ∧ a < 0x200000 then some (.health ((a - 0x100000) / 256) (a / 8 % 32))
  else if 0x200000 ≤ a ∧ a < 0x240000 then some (.hostlog ((a - 0x200000) / 64) (a / 8 % 8))
  else if a = 0x300000 then some .hltail
  else if a = 0x300008 then some .hlhead
  else none

/-- The 2,048 bits of a tile's stored health record (Table 20.2). -/
def Counts.bits (c : Counts) : Nat :=
  ((upto 32).map fun i => aget c.lanem 0 i % 2 ^ 16 * 2 ^ (16 * i) + aget c.subm 0 i % 2 ^ 16 * 2 ^ (512 + 16 * i)).sum
    + c.vconf.toNat * 2 ^ 1024 + c.strikes % 2 ^ 32 * 2 ^ 1056 + c.sreplay % 2 ^ 32 * 2 ^ 1088 + c.cecc % 2 ^ 32 * 2 ^ 1120
    + c.uecc % 2 ^ 32 * 2 ^ 1152 + c.seq % 2 ^ 32 * 2 ^ 1184

/-- The value of a management register; power and temperature are free values (log 1). SEQ of a health record is its stored count and the
flushes (R459). -/
def State.mread (s : State) (r : MReg) : Nat :=
  let f := s.fabric
  match r with
  | .rtab i => (aget f.rtab 0 i).toNat
  | .flipwin => f.flipwin
  | .gencur => boolNat f.gencur
  | .wlen => f.wlen
  | .skew => f.skew
  | .poolbase p => (aget f.pools (0, 0) p).1
  | .poollen p => (aget f.pools (0, 0) p).2
  | .scrub => s.assay.scrub
  | .power => (Config.freeReading 4 s.free).toNat
  | .temp d => (Config.freeReading d s.free).toNat
  | .emark t => boolNat (s.tile t).core.eng.dead
  | .health t w => field { (s.tile t).stored with seq := (s.tile t).stored.seq + s.flushes }.bits (64 * w) 64
  | .hostlog n w => leNat (((aget s.assay.hostLog [] n).drop (8 * w)).take 8)
  | .hltail => s.assay.hltail
  | .hlhead => s.assay.hlhead

/-- MGMT.READ: an address outside the table is an operand outside its range. -/
def mgmtRead (s : State) (c : Cmd) : Check Done := do
  must (mregOf (c.nat 0 8)).isSome bad1
  must (c.handle == 0) bad2
  match mregOf (c.nat 0 8) with
  | some r => .ok (.ok (s.draw 1) (word (s.mread r)))
  | none => bad1

/-- MGMT_READ (R113). -/
def execMgmtRead (buf : Mbox) (s : State) : Host.Outcome State Fault Refusal := mailbox 0x30 buf s (fun _ => true) mgmtRead

/-- A value that a register takes (Table 5.8, Table 18.1); HLHEAD goes from where it stands to HLTAIL. -/
def State.mvalueOk (s : State) (r : MReg) (v : Nat) : Bool :=
  match r with
  | .rtab _ => v < 2 ^ 32 && field v 20 7 == 0 && field v 27 2 != 3 && (field v 27 2 == 0 || field v 0 16 == 0)
  | .wlen => 1 ≤ v && v ≤ 64
  | .scrub => v ≤ 20
  | .emark _ => v ≤ 1
  | .hlhead => s.assay.hlhead ≤ v && v ≤ s.assay.hltail
  | .gencur | .power | .temp _ | .hostlog _ _ | .hltail => false
  | _ => true

/-- A management register written; EMARK and HEALTH have their own events. -/
def State.mwrite (s : State) (r : MReg) (v : Nat) : State :=
  let f := s.fabric
  match r with
  | .rtab i => { s with fabric := { f with rtab := aset f.rtab i (BitVec.ofNat 32 v) }.marked }
  | .flipwin => { s with fabric := { f with flipwin := v, flipped := false, retired := false } }
  | .wlen => { s with fabric := { f with wlen := v } }
  | .skew => { s with fabric := { f with skew := v } }
  | .poolbase p => { s with fabric := { f with pools := aalter f.pools (0, 0) p fun x => (v, x.2) } }
  | .poollen p => { s with fabric := { f with pools := aalter f.pools (0, 0) p fun x => (x.1, v) } }
  | .scrub => { s with assay := { s.assay with scrub := v } }
  | .hlhead => { s with assay := { s.assay with hlhead := v } }
  | _ => s

/-- MGMT.WRITE with the effect `f`. -/
def mgmtWrite (f : State → MReg → Nat → State) (s : State) (c : Cmd) : Check Done := do
  let v := c.nat 8 8
  must (((mregOf (c.nat 0 8)).map fun r => s.mvalueOk r v).getD false) bad1
  must (c.handle == 0) bad2
  match mregOf (c.nat 0 8) with
  | some r => .ok (.ok (f s r v) 0)
  | none => bad1

/-- The register of a MGMT.WRITE is EMARK. -/
def isEmark (c : Cmd) : Bool := match mregOf (c.nat 0 8) with | some (.emark _) => true | _ => false
/-- The register of a MGMT.WRITE is HEALTH. -/
def isHealth (c : Cmd) : Bool := match mregOf (c.nat 0 8) with | some (.health _ _) => true | _ => false

/-- MGMT_WRITE (R113): a register other than EMARK and HEALTH. -/
def execMgmtWrite (buf : Mbox) (s : State) : Host.Outcome State Fault Refusal :=
  mailbox 0x31 buf s (fun c => !isEmark c && !isHealth c) (mgmtWrite State.mwrite)

/-- EMARK_WRITE (R113, R253): an engine is marked failed, or its mark is cleared. -/
def execEmarkWrite (buf : Mbox) (s : State) : Host.Outcome State Fault Refusal :=
  mailbox 0x31 buf s isEmark (mgmtWrite fun s r v =>
    match r with
    | .emark t =>
      let dead := (s.tile t).core.eng.dead
      if v = 1 then (if dead then s else s.engineFailed t)
      else s.onCore t fun k => { k with eng := { k.eng with dead := false } }
    | _ => s)

/-- HEALTH_WRITE (R113, R459): a write to word 0 clears a tile's health record. -/
def execHealthWrite (buf : Mbox) (s : State) : Host.Outcome State Fault Refusal :=
  mailbox 0x31 buf s isHealth (mgmtWrite fun s r _ =>
    match r with
    | .health t 0 => s.onTile t fun v => { v with stored := { Counts.reset with seq := 2 ^ 32 - s.flushes % 2 ^ 32 }, counts := .reset }
    | _ => s)

/-! ## PRQ.READ (R113, R271) -/

/-- The 128 bits of a page-request record (Table 12.5). -/
def PageReq.bits (r : PageReq) (vf : Nat) : Nat :=
  r.acc + r.gpa % 2 ^ 33 * 2 ^ 19 + vf * 2 ^ 64 + r.tag % 2 ^ 32 * 2 ^ 96

/-- PRQ.READ: VF, output address, buffer length. -/
def prqRead (s : State) (c : Cmd) : Check Done := do
  let vf := c.nat 0 8
  must (decide (vf < 128)) bad1
  must (c.handle == 0) bad2
  let l := (s.vf vf).prq.take (c.nat 16 8 / 16)
  .ok (.ok (s.toHost (l.flatMap fun r => leBytes 16 (r.bits vf))) (word l.length))

/-- PRQ_READ (R113, R271). -/
def execPrqRead (buf : Mbox) (s : State) : Host.Outcome State Fault Refusal := mailbox 0x32 buf s (fun _ => true) prqRead

/-! ## CXL.mem windows and their keys (R73, R107) -/

/-- The partition of a VF's window, while its channels are its own. -/
def State.windowOf (s : State) (vf : Nat) : Option Part :=
  match s.partOfVf vf with
  | some (_, p) => if p.state = .evicted ∧ p.relHbm then none else some p
  | none => none

/-- A byte as a VF's window shows it: plaintext under an IDE stream, otherwise the stored ciphertext, of the 64-byte data unit
whose tweak is the offset divided by 64 (R106, R107). Only the device reads the image store (R80): of it a stream gives a free
value (log 85). -/
def State.windowByte (s : State) (p : Part) (ide : Bool) (off : Nat) : Byte :=
  if !ide then Config.xts p.keyGen (off / 64) (s.poffBytes p.prec (off / 64 * 64) 64) (off % 64)
  else if p.prec.covers off 1 then s.poffByte p.prec off
  else Config.freeByte 0 (2 ^ 61 + off)

/-- The partition that holds a physical address. -/
def State.holderOf (s : State) (a : Nat) : Option Nat :=
  (s.parts.find? fun p =>
    if a < 2 ^ 39 then p.2.holdsChan (a / 2 ^ 31) else p.2.state != .evicted && p.2.prec.sealsAddr p.2 true a).map (·.1)

/-- R447, R456: a memory error that no kernel's access met goes to the host log and to the management counters of the partition that
holds the address: corrected, with code OK, or not. -/
def State.memoryEvent (s : State) (a code sub : Nat) : State :=
  let s := s.logHost { FRec.zero with code := code, sub := sub, src := 3, va := a }
  match s.holderOf a with
  | some p => s.onPart p fun q => { q with counts :=
      if code = cOk then { q.counts with scrubbed := q.counts.scrubbed + 1 }
      else { q.counts with poisoned := q.counts.poisoned + 1 } }
  | none => s

/-- The lines of a window that a read of the host covers, one after another: a corrected error is written back, one that is not is noted;
both are events (R447, R455). The result has the offsets of the lines with an uncorrectable error. -/
def State.windowLines (s : State) (r : PartRec) (off len : Nat) : State × List Nat :=
  if s.poison.isEmpty && s.ecc.isEmpty then (s, [])
  else (lineRuns off len).foldl (fun x run =>
    let line := (off + run.1) / 64 * 64
    if r.nch * 2 ^ 31 ≤ line then x
    else
      let a := r.phys line
      match x.1.eccAt a 64 with
      | some sub => (x.1.memoryEvent a cUncorr sub, line :: x.2)
      | none => if x.1.eccHits a 64 = 0 then x else ((x.1.eccFixed a 64).memoryEvent a cOk 0, x.2)) (s, [])

/-- CXL_MEM_READ (R107): the window of a VF gives partition offsets (log 5). What a line with an uncorrectable error gives the host is
open: a free value (log 85). So is a read through the window of a VF that no partition holds, or whose partition was evicted with its
channels: that nothing is handed out is the model's choice (log 92). -/
def execCxlMemRead (vf off len : Nat) (s : State) : Host.Outcome State Fault Refusal :=
  match s.windowOf vf with
  | some p =>
    let r := s.windowLines p.prec off len
    .next (r.1.toHost ((upto len).map fun i =>
      if r.2.contains ((off + i) / 64 * 64) then Config.freeByte 0 (2 ^ 62 + off + i) else s.windowByte p (s.vf vf).ide (off + i)))
  | none => .next s

/-- CXL_MEM_WRITE (R107): without an IDE stream, and over the image store, which is device storage (R80), a write is
discarded. A full line clears its poison (R456). -/
def execCxlMemWrite (vf off : Nat) (bytes : List Byte) (s : State) : Host.Outcome State Fault Refusal :=
  match s.windowOf vf with
  | some p => .next (if (s.vf vf).ide ∧ p.prec.covers off bytes.length then s.putPoff p.prec off bytes else s)
  | none => .next s

/-- An SPDM session changed. -/
def State.setSession (s : State) (i : Nat) (x : Session) : State :=
  { s with assay := { s.assay with sessions := aset s.assay.sessions i x } }

/-- KEY_EXCHANGE (R107 step 1): a session is opened. The module answers under its SPDM session key, and both messages make the
session's transcript (log 85). -/
def execKeyExchange (x : Exchange) (s : State) : Host.Outcome State Fault Refusal :=
  let reply := Config.spdmReply s.free x.request
  let reply := reply ++ Config.spdmSign (x.request ++ reply)
  .next (((s.draw 1).toHost reply).setSession x.session { transcript := x.request ++ reply, proven := none })

/-- The partition of a handle holds the VF. -/
def State.holdsVf (s : State) (h : Word) (vf : Nat) : Bool := s.parts.any fun p => p.2.handle == h && bit p.2.prec.vfmask vf

/-- The tenant key of a handle's partition signs the transcript hash of a session (R107 step 2). -/
def State.proves (s : State) (x : Session) (handle : Word) (sig : List Byte) : Bool :=
  s.parts.any fun p => p.2.handle == handle && slhValid p.2.policy.tenkey (Config.sha384 x.transcript) sig

/-- VENDOR_DEFINED_REQUEST (R107 step 2): the requester proves that it holds the tenant key. -/
def execVendorDefinedRequest (session : Nat) (handle : Word) (vf : Nat) (v : VendorProof) (s : State) :
    Host.Outcome State Fault Refusal :=
  match aget? s.assay.sessions session with
  | some x =>
    .next (if v.vendor = Config.vendorId ∧ v.code = 1 ∧ s.holdsVf handle vf ∧ s.proves x handle v.sig then
        s.setSession session { x with proven := some (handle, vf) }
      else s)
  | none => .next s

/-- IDE_KEY_PROGRAMMING (R107): keys for the stream of the VF that the session has proven. -/
def execIdeKeyProgramming (session vf : Nat) (s : State) : Host.Outcome State Fault Refusal :=
  match (aget? s.assay.sessions session).bind (·.proven) with
  | some (h, v) => .next (if v = vf ∧ s.holdsVf h vf then s.onVf vf fun f => { f with ide := true } else s)
  | none => .next s

end Sys2Proof.Machine
end

