-- ==== Sys2Proof/Machine/Control.lean ====
section
/-!
DEFINITION. Class 0x0: control and system instructions (R192 to R203).
-/

namespace Sys2Proof.Machine

/-- PC set to a code offset. -/
def State.jump (s : State) (pc : BitVec 32) : State := (s.onRegs fun r => { r with pc := pc }).clearResume

/-- The target of a relative branch: PC + 12k (R132). -/
def branchTarget (s : State) (k : Imm) : BitVec 32 := s.regs.pc + 12 * k.signExtend 32

/-- R193: an absolute target must be a legal code offset. -/
def absolute (s : State) (w : Who) (v : Word) : Eff (BitVec 32) := do
  need s (w.image.legal v.toNat)
  .ok (v.setWidth 32)

/-- NOP (R203). -/
def execNop (h : Hint) (s : State) : Host.Outcome State Fault Refusal := issue s h fun _ => .ok s

/-- BR (R192). -/
def execBr (h : Hint) (b : Imm) (s : State) : Host.Outcome State Fault Refusal :=
  issueJump s h fun _ => .ok (s.jump (branchTarget s b))

/-- BRI (R193). -/
def execBri (h : Hint) (a : Reg) (s : State) : Host.Outcome State Fault Refusal :=
  issueJump s h fun w => do
    let pc ← absolute s w (s.x a)
    .ok (s.jump pc)

/-- CALL (R192). The register operand is read before x31 is written (log 6). -/
def execCall (h : Hint) (b : RegImm) (s : State) : Host.Outcome State Fault Refusal :=
  issueJump s h fun w =>
    let link := s.setX 31 ((s.regs.pc + 12).setWidth 64)
    match b with
    | .imm k => .ok (link.jump (branchTarget s k))
    | .reg r => do
      let pc ← absolute s w (s.x r)
      .ok (link.jump pc)

/-- RET (R193). -/
def execRet (h : Hint) (s : State) : Host.Outcome State Fault Refusal :=
  issueJump s h fun w => do
    let pc ← absolute s w (s.x 31)
    .ok (s.jump pc)

/-- LOOP (R192). On x0 it always branches. -/
def execLoop (h : Hint) (a : Reg) (b : Imm) (s : State) : Host.Outcome State Fault Refusal :=
  issueJump s h fun _ =>
    let v := s.x a - 1
    let s' := s.setX a v
    .ok (if v = 0 then s'.nextPc.clearResume else s'.jump (branchTarget s b))

/-- R122: with LAST, the slot of a task that has ended counts as free in the same cycle. -/
def State.lastHint (s : State) (h : Hint) : State :=
  if h.last ∧ s.ctx.run.task.isNone then s.onRun fun r => { r with issueAt := s.cycle } else s

/-- END (R194). -/
def execEndTask (h : Hint) (s : State) : Host.Outcome State Fault Refusal :=
  issueEnd s h fun _ => (s.endTask .plain).map fun s => s.lastHint h

/-- ENDC (R195). -/
def execEndc (h : Hint) (d : Imm) (a : Reg) (b : RegImm) (s : State) : Host.Outcome State Fault Refusal :=
  issueEnd s h fun w => do
    need s (w.image.legal (immWord d).toNat && (s.x a).toNat < 256)
    let s ← s.endTask (.cont (recContinued w.task.img (immWord d).toNat (s.x a).toNat (RegImm.nat b s)))
    .ok (s.lastHint h)

/-- TRAP and BRK (R196): a precise trap with subcode n. -/
def softTrap (h : Hint) (b : Imm) (code : Nat) (s : State) : Host.Outcome State Fault Refusal :=
  issueJump s h fun _ => do
    need s ((immWord b).toNat < 256)
    raise s code (immWord b).toNat

/-- TRAP (R196). -/
def execTrap (h : Hint) (b : Imm) (s : State) : Host.Outcome State Fault Refusal := softTrap h b cTrapsw s
/-- BRK (R196). -/
def execBrk (h : Hint) (b : Imm) (s : State) : Host.Outcome State Fault Refusal := softTrap h b cBrkpt s

/-- %refsched (Table 12.2): PLOG2 16 and BURST 128. -/
def refsched : Word := 0x100080

/-- The value of a special register (Table 7.4). -/
def specialValue (s : State) (w : Who) (r : SReg) : Word :=
  match r with
  | .tile => word s.cur.tile
  | .chip => word s.chip
  | .part => word w.part.prec.pnum
  | .rank => word (w.kernel.rank s.cur.tile)
  | .nrank => word w.kernel.tiles.length
  | .ctx => word s.cur.ctx
  | .hlb => word (hilbert s.cur.tile)
  | .fpstat => s.regs.fpstat
  | .wdog => word w.image.budget
  | .cycle => word s.cycle
  | .window => word s.window
  | .refsched => refsched

/-- GETS (R199). %cycle and %window pass DetCheck (R139). -/
def execGets (h : Hint) (d : Reg) (a : SReg) (s : State) : Host.Outcome State Fault Refusal :=
  issue s h fun w => do
    if a = .cycle ∨ a = .window then detCheck s w
    .ok (s.setX d (specialValue s w a))

/-- SETS (R199). Only %fpstat may be written, and its RES field must be zero (R139, R160). -/
def execSets (h : Hint) (d : SReg) (a : RegImm) (s : State) : Host.Outcome State Fault Refusal :=
  issue s h fun _ => do
    need s (d == .fpstat && RegImm.value a s &&& ~~~fpstatMask == 0)
    .ok (s.onRegs fun r => { r with fpstat := RegImm.value a s })

/-- TLBI (R201): the request joins the partition's invalidation queue (R277) and completes at issue. -/
def execTlbi (h : Hint) (d a b : Reg) (s : State) : Host.Outcome State Fault Refusal :=
  issue s h fun w => do
    privCheck s w
    noSpec s
    let base := (s.x d).toNat
    let len := (s.x a).toNat
    let sc := (s.x b).toNat
    let vf := field sc 17 7
    need s (field sc 33 31 == 0 && (bit sc 24 || bit w.part.prec.vfmask vf) && base < 2 ^ 53 && base + len ≤ 2 ^ 56)
    let i : Inval :=
      { s2 := false, vf := if bit sc 24 then none else some vf, asid := if bit sc 16 then none else some (field sc 0 16),
        base := base, len := len, waiting := w.part.tiles, notify := some (s.cur.tile, field sc 25 8) }
    .ok (s.onPart w.pnum fun p => { p with invq := p.invq ++ [i] })

/-- ERET (R198). A fault that it raises goes to containment, with the trap-entry state clear too (R426, which governs over R198 by R6,
log 91). -/
def execEret (h : Hint) (b : Imm) (s : State) : Host.Outcome State Fault Refusal :=
  issueJump s h fun w =>
    if (immWord b).toNat ≤ 1 ∧ s.ctx.run.trapEntry then .ok (s.returnFromTrap w (immWord b).toNat)
    else .error (s, .contained (.of cIllopnd 0))

/-- WDOG (R200): fewer than n cycles of the budget remain. -/
def execWdog (h : Hint) (b : RegImm) (s : State) : Host.Outcome State Fault Refusal :=
  issue s h fun w => do
    let n := RegImm.nat b s
    need s (n ≤ 1080)
    if ((s.ctx.run.dispatched + w.image.budget : Nat) : Int) - s.cycle < n then raise s cWdog 1 else .ok s

/-- HALT (R202). -/
def execHalt (h : Hint) (s : State) : Host.Outcome State Fault Refusal :=
  issueEnd s h fun w => do
    privCheck s w
    noSpec s
    s.endTask .halt

end Sys2Proof.Machine
end

