-- ==== Sys2Proof/Machine/Float.lean ====
section
/-!
DEFINITION. Class 0x3: the scalar floating-point instructions (R186 to R191).
-/

namespace Sys2Proof.Machine

/-- The frame of R187: operands decoded, the exact value rounded once. -/
def floatArith (h : Hint) (t : Ty) (d a b : Reg) (f : Mode → Num → Num → Num → Num × Flags) (s : State) :
    Host.Outcome State Fault Refusal :=
  issue s h fun _ =>
    let read (r : Reg) : Num := decodeNum t (pattern (s.x r) t)
    let v := f (s.mode h) (read a) (read b) (read d)
    let r := round v.1 t (s.mode h) h.sat
    .ok (s.putFloat d ⟨r.bits, r.fl ||| v.2⟩)

/-- FADD (R187). -/
def execFadd (h : Hint) (t : Ty) (d a b : Reg) (s : State) : Host.Outcome State Fault Refusal :=
  floatArith h t d a b (fun m a b _ => ((addNum m a b).1, (addNum m a b).2 ||| sigFlag [a, b])) s
/-- FSUB (R187). -/
def execFsub (h : Hint) (t : Ty) (d a b : Reg) (s : State) : Host.Outcome State Fault Refusal :=
  floatArith h t d a b (fun m a b _ => ((subNum m a b).1, (subNum m a b).2 ||| sigFlag [a, b])) s
/-- FMUL (R187). -/
def execFmul (h : Hint) (t : Ty) (d a b : Reg) (s : State) : Host.Outcome State Fault Refusal :=
  floatArith h t d a b (fun _ a b _ => ((mulNum a b).1, (mulNum a b).2 ||| sigFlag [a, b])) s
/-- FFMA (R187): a × b + d. -/
def execFfma (h : Hint) (t : Ty) (d a b : Reg) (s : State) : Host.Outcome State Fault Refusal :=
  floatArith h t d a b (fun m a b d => ((fmaNum m a b d).1, (fmaNum m a b d).2 ||| sigFlag [a, b, d])) s
/-- FDIV (R187). -/
def execFdiv (h : Hint) (t : Ty) (d a b : Reg) (s : State) : Host.Outcome State Fault Refusal :=
  floatArith h t d a b (fun _ a b _ => ((divNum a b).1, (divNum a b).2 ||| sigFlag [a, b])) s
/-- FSQRT (R187). -/
def execFsqrt (h : Hint) (t : Ty) (d a : Reg) (s : State) : Host.Outcome State Fault Refusal :=
  floatArith h t d a a (fun _ a _ _ => ((sqrtNum a).1, (sqrtNum a).2 ||| sigFlag [a])) s

/-- FMIN (R188). -/
def execFmin (h : Hint) (t : Ty) (d a b : Reg) (s : State) : Host.Outcome State Fault Refusal :=
  issue s h fun _ => .ok (s.putFloat d (minMax t false (pattern (s.x a) t) (pattern (s.x b) t)))
/-- FMAX (R188). -/
def execFmax (h : Hint) (t : Ty) (d a b : Reg) (s : State) : Host.Outcome State Fault Refusal :=
  issue s h fun _ => .ok (s.putFloat d (minMax t true (pattern (s.x a) t) (pattern (s.x b) t)))

/-- The frame of R189. -/
def floatCompare (h : Hint) (t : Ty) (d : Preg) (a b : Reg) (c : Cond) (s : State) : Host.Outcome State Fault Refusal :=
  issue s h fun _ =>
    let x := decodeNum t (pattern (s.x a) t)
    let y := decodeNum t (pattern (s.x b) t)
    .ok ((s.putPred d (condHolds c x y)).setFlags (condFlags c x y))

/-- FCMPEQ (R189). -/
def execFcmpeq (h : Hint) (t : Ty) (d : Preg) (a b : Reg) (s : State) : Host.Outcome State Fault Refusal :=
  floatCompare h t d a b .eq s
/-- FCMPLT (R189). -/
def execFcmplt (h : Hint) (t : Ty) (d : Preg) (a b : Reg) (s : State) : Host.Outcome State Fault Refusal :=
  floatCompare h t d a b .lt s
/-- FCMPLE (R189). -/
def execFcmple (h : Hint) (t : Ty) (d : Preg) (a b : Reg) (s : State) : Host.Outcome State Fault Refusal :=
  floatCompare h t d a b .le s
/-- FCMPUN (R189). -/
def execFcmpun (h : Hint) (t : Ty) (d : Preg) (a b : Reg) (s : State) : Host.Outcome State Fault Refusal :=
  floatCompare h t d a b .un s

/-- The source type of FCVT, if its code is one that R190 accepts. -/
def cvtSource (b : Imm) : Option Ty :=
  let n := (immWord b).toNat
  if n ≤ 12 ∨ n = 15 then some (Ty.ofCode n) else none

/-- FCVT (R190): T is the destination type, B holds the source type. -/
def execFcvt (h : Hint) (t : Ty) (d a : Reg) (b : Imm) (s : State) : Host.Outcome State Fault Refusal :=
  issue s h fun _ =>
    match cvtSource b with
    | none => raise s cIllopnd 0
    | some src => do
      need s (!(h.sat && src.isFloat && t.isInt))
      let r := convert src t (pattern (s.x a) src) (s.mode h) h.sat
      .ok ((s.setX d (if t.isInt then wordOfInt (intIn t r.bits) else word r.bits)).setFlags r.fl)

/-- FCLASS (R191): one bit of ten, no flag. -/
def execFclass (h : Hint) (t : Ty) (d a : Reg) (s : State) : Host.Outcome State Fault Refusal :=
  issue s h fun _ => .ok (s.setX d (word (2 ^ classOf t (pattern (s.x a) t))))

end Sys2Proof.Machine
end

