-- ==== Sys2Proof/Machine/Integer.lean ====
section
/-!
DEFINITION. Class 0x1: the integer and predicate instructions (R177 to R181).
-/

namespace Sys2Proof.Machine

/-- The frame of R177: a, b and d read as integers of type `t`, the exact result narrowed once. -/
def intArith (h : Hint) (t : Ty) (d a : Reg) (b : RegImm) (f : Int → Int → Int → Int) (s : State) :
    Host.Outcome State Fault Refusal :=
  issue s h fun _ =>
    .ok (s.putInt d (narrowInt (f (intOf (s.x a) t) (intOf (RegImm.value b s) t) (intOf (s.x d) t)) t h.sat))

/-- The frame of R173 for operations on patterns. -/
def intBits (h : Hint) (t : Ty) (d a : Reg) (b : RegImm) (f : Nat → Nat → Nat) (s : State) :
    Host.Outcome State Fault Refusal :=
  issue s h fun _ => .ok (s.putPattern d t (f (pattern (s.x a) t) (pattern (RegImm.value b s) t)))

/-- The shift amount: b modulo w (Table 9.2). -/
def shiftOf (t : Ty) (b : Int) : Nat := (b % t.width).toNat

/-- DIV (Table 9.2): truncated toward zero; all ones for a divisor of 0. -/
def divInt (t : Ty) (a b : Int) : Int := if b = 0 then (if t.isSignedInt then -1 else 2 ^ t.width - 1) else a.tdiv b

/-- REM (Table 9.2): a − b × (a div b); a for a divisor of 0. -/
def remInt (a b : Int) : Int := if b = 0 then a else a - b * a.tdiv b

/-- Rotation to the left within `w` bits. -/
def rotl (w a n : Nat) : Nat := (a * 2 ^ (n % w) + a / 2 ^ (w - n % w)) % 2 ^ w

/-- ADD (R177). -/
def execAdd (h : Hint) (t : Ty) (d a : Reg) (b : RegImm) (s : State) : Host.Outcome State Fault Refusal :=
  intArith h t d a b (fun a b _ => a + b) s
/-- SUB (R177). -/
def execSub (h : Hint) (t : Ty) (d a : Reg) (b : RegImm) (s : State) : Host.Outcome State Fault Refusal :=
  intArith h t d a b (fun a b _ => a - b) s
/-- MUL (R177). -/
def execMul (h : Hint) (t : Ty) (d a : Reg) (b : RegImm) (s : State) : Host.Outcome State Fault Refusal :=
  intArith h t d a b (fun a b _ => a * b) s
/-- MULH (R177): floor(a × b / 2^w). -/
def execMulh (h : Hint) (t : Ty) (d a : Reg) (b : RegImm) (s : State) : Host.Outcome State Fault Refusal :=
  intArith h t d a b (fun a b _ => (a * b).fdiv (2 ^ t.width)) s
/-- DIV (R177). -/
def execDiv (h : Hint) (t : Ty) (d a : Reg) (b : RegImm) (s : State) : Host.Outcome State Fault Refusal :=
  intArith h t d a b (fun a b _ => divInt t a b) s
/-- REM (R177). -/
def execRem (h : Hint) (t : Ty) (d a : Reg) (b : RegImm) (s : State) : Host.Outcome State Fault Refusal :=
  intArith h t d a b (fun a b _ => remInt a b) s
/-- AND (R177). -/
def execAnd (h : Hint) (t : Ty) (d a : Reg) (b : RegImm) (s : State) : Host.Outcome State Fault Refusal :=
  intBits h t d a b (fun a b => a &&& b) s
/-- OR (R177). -/
def execOr (h : Hint) (t : Ty) (d a : Reg) (b : RegImm) (s : State) : Host.Outcome State Fault Refusal :=
  intBits h t d a b (fun a b => a ||| b) s
/-- XOR (R177). -/
def execXor (h : Hint) (t : Ty) (d a : Reg) (b : RegImm) (s : State) : Host.Outcome State Fault Refusal :=
  intBits h t d a b (fun a b => a ^^^ b) s
/-- ANDN (R177): a AND NOT b. -/
def execAndn (h : Hint) (t : Ty) (d a : Reg) (b : RegImm) (s : State) : Host.Outcome State Fault Refusal :=
  intBits h t d a b (fun a b => a &&& (2 ^ t.width - 1 - b)) s
/-- SHL (R177): a × 2^s. -/
def execShl (h : Hint) (t : Ty) (d a : Reg) (b : RegImm) (s : State) : Host.Outcome State Fault Refusal :=
  intArith h t d a b (fun a b _ => a * 2 ^ shiftOf t b) s
/-- SHR (R177): ZeroExtend(a, w) div 2^s. -/
def execShr (h : Hint) (t : Ty) (d a : Reg) (b : RegImm) (s : State) : Host.Outcome State Fault Refusal :=
  intBits h t d a b (fun a b => a / 2 ^ (b % t.width)) s
/-- SRA (R177): floor(SignExtend(a, w) / 2^s). -/
def execSra (h : Hint) (t : Ty) (d a : Reg) (b : RegImm) (s : State) : Host.Outcome State Fault Refusal :=
  intBits h t d a b (fun a b => wrapNat ((signExtend a t.width).fdiv (2 ^ (b % t.width))) t.width) s
/-- ROT (R177). -/
def execRot (h : Hint) (t : Ty) (d a : Reg) (b : RegImm) (s : State) : Host.Outcome State Fault Refusal :=
  intBits h t d a b (fun a b => rotl t.width a b) s
/-- MIN (R177). -/
def execMin (h : Hint) (t : Ty) (d a : Reg) (b : RegImm) (s : State) : Host.Outcome State Fault Refusal :=
  intArith h t d a b (fun a b _ => min a b) s
/-- MAX (R177). -/
def execMax (h : Hint) (t : Ty) (d a : Reg) (b : RegImm) (s : State) : Host.Outcome State Fault Refusal :=
  intArith h t d a b (fun a b _ => max a b) s
/-- MAD (R177): d + a × b. -/
def execMad (h : Hint) (t : Ty) (d a : Reg) (b : RegImm) (s : State) : Host.Outcome State Fault Refusal :=
  intArith h t d a b (fun a b d => d + a * b) s

/-- SEL (R178): a when the guard holds, else b; it always executes. -/
def execSel (h : Hint) (t : Ty) (d a : Reg) (b : RegImm) (s : State) : Host.Outcome State Fault Refusal :=
  issueAlways s h fun _ =>
    .ok (s.putInt d (wrapInt (if guardTrue s.regs h.g then intOf (s.x a) t else intOf (RegImm.value b s) t) t))

/-- The frame of R179: operands of width w, read as signed or as unsigned. -/
def intCompare (h : Hint) (t : Ty) (d : Preg) (a : Reg) (b : RegImm) (signed : Bool) (f : Int → Int → Bool) (s : State) :
    Host.Outcome State Fault Refusal :=
  let read (v : Word) : Int := if signed then signExtend v.toNat t.width else (pattern v t : Int)
  issue s h fun _ => .ok (s.putPred d (f (read (s.x a)) (read (RegImm.value b s))))

/-- CMPEQ (R179). -/
def execCmpeq (h : Hint) (t : Ty) (d : Preg) (a : Reg) (b : RegImm) (s : State) : Host.Outcome State Fault Refusal :=
  intCompare h t d a b true (fun a b => a == b) s
/-- CMPNE (R179). -/
def execCmpne (h : Hint) (t : Ty) (d : Preg) (a : Reg) (b : RegImm) (s : State) : Host.Outcome State Fault Refusal :=
  intCompare h t d a b true (fun a b => a != b) s
/-- CMPLT (R179). -/
def execCmplt (h : Hint) (t : Ty) (d : Preg) (a : Reg) (b : RegImm) (s : State) : Host.Outcome State Fault Refusal :=
  intCompare h t d a b true (fun a b => decide (a < b)) s
/-- CMPLE (R179). -/
def execCmple (h : Hint) (t : Ty) (d : Preg) (a : Reg) (b : RegImm) (s : State) : Host.Outcome State Fault Refusal :=
  intCompare h t d a b true (fun a b => decide (a ≤ b)) s
/-- CMPLTU (R179). -/
def execCmpltu (h : Hint) (t : Ty) (d : Preg) (a : Reg) (b : RegImm) (s : State) : Host.Outcome State Fault Refusal :=
  intCompare h t d a b false (fun a b => decide (a < b)) s
/-- CMPLEU (R179). -/
def execCmpleu (h : Hint) (t : Ty) (d : Preg) (a : Reg) (b : RegImm) (s : State) : Host.Outcome State Fault Refusal :=
  intCompare h t d a b false (fun a b => decide (a ≤ b)) s

/-- LI (R180). -/
def execLi (h : Hint) (d : Reg) (v : BitVec 48) (s : State) : Host.Outcome State Fault Refusal :=
  issue s h fun _ => .ok (s.setX d (v.signExtend 64))

/-- The frame of R181. -/
def predOp (h : Hint) (d a b : Preg) (f : Bool → Bool → Bool) (s : State) : Host.Outcome State Fault Refusal :=
  issue s h fun _ => .ok (s.putPred d (f (s.regs.readP a) (s.regs.readP b)))

/-- PAND (R181). -/
def execPand (h : Hint) (d a b : Preg) (s : State) : Host.Outcome State Fault Refusal := predOp h d a b (· && ·) s
/-- POR (R181). -/
def execPor (h : Hint) (d a b : Preg) (s : State) : Host.Outcome State Fault Refusal := predOp h d a b (· || ·) s
/-- PXOR (R181). -/
def execPxor (h : Hint) (d a b : Preg) (s : State) : Host.Outcome State Fault Refusal := predOp h d a b (· != ·) s
/-- PNOT (R181). -/
def execPnot (h : Hint) (d a : Preg) (s : State) : Host.Outcome State Fault Refusal := predOp h d a a (fun a _ => !a) s

end Sys2Proof.Machine
end

