-- ==== Sys2Proof/Machine/Keystone.lean ====
section
/-!
DEFINITION. The Keystone instructions (R376 to R391): creating a barrier, arriving at one, lookahead capabilities,
SPECQ.
-/

namespace Sys2Proof.Machine

/-- The parties of a barrier whose tile group is killed already (R394). -/
def State.killedParties (s : State) (k : Kernel) (kslot rbase n : Nat) : List Nat :=
  ((upto n).map fun i => rbase + i).filter fun r => ((k.tiles[r]?).map fun t => (s.tile t).groupKilled kslot).getD false

/-- BARINIT (R377): the buffer becomes a barrier whose home is the executing tile. It abandons speculation, as CSEAL
does (log 9). -/
def execBarinit (h : Hint) (d a : CapOp) (b : Reg) (s : State) : Host.Outcome State Fault Refusal :=
  issue s h fun w => do
    let cd ← wholeCap s d
    let ca ← wholeCap s a
    waitWhile s (s.capBusy cd || s.capBusy ca)
    noSpec s
    let n := (s.x b).toNat
    let rbase := field n 0 13
    let parties := field n 13 7
    let bidx := field n 20 4
    need s ((s.c cd).isNone && field n 24 40 == 0 && 1 ≤ parties && parties ≤ 64 && rbase + parties ≤ w.kernel.tiles.length
      && (aget? (s.tile s.cur.tile).loc.bars bidx).isNone)
    match s.c ca with
    | none => capFault s ca none 0 0 cRights
    | some c => do
      need s (c.mode == .exclusive && c.rights.r && c.rights.w && c.rights.g && c.kind == .tile && c.agent == s.cur.tile
        && c.chip == s.chip && c.wlen == 1)
      waitWhile s ((s.ct c.key).recl.isSome || !s.written s.cur.tile s.cur.ctx c.key)
      if !s.current c then capFault s ca (some c) 0 0 cRevoked
      let e := s.ct c.key
      if 0 < e.tokOut + e.tokLost then capFault s ca (some c) 0 0 cNotowner
      need s (!e.laopen)
      let s ← s.writeOut c 0 (s.windowBase c) (leBytes 64 n)
      let s := (s.setCt c.key { s.ct c.key with state := .sealed, maxr := { e.maxr with w := false } }).remember
        (.entry s.cycle c.key c.hallmark 0 (e.state, e.maxr))
      let k : Cap := { c with mode := .sealed, rights := ⟨true, false, false, true⟩ }
      let bar : Barrier :=
        { ctidx := c.ctidx, hallmark := c.hallmark, rbase := rbase, n := parties, kslot := w.kslot, phase := 0,
          arrived := [], killed := s.killedParties w.kernel w.kslot rbase parties, pubs := [], prev := [], completing := false }
      .ok ((((s.setC ca none).setC cd (some k)).onLocal s.cur.tile fun l => { l with bars := aset l.bars bidx bar }).remember
        (.bar s.cycle bidx))

/-- R378 step 1: the barrier that a capability names: its capability, the entry's number, its table entry. A stale capability
may find only entries of other hallmarks: the home refuses it (step 4). -/
def barrierOf (s : State) (w : Who) (i : Nat) : Eff (Cap × Nat × Barrier) :=
  match s.c i with
  | none => capFault s i none 0 0 cRights
  | some c =>
    let bars := (s.tile c.agent).loc.bars.filter fun b => b.2.ctidx == c.ctidx && b.2.kslot == w.kslot
    let found := (bars.find? fun b => b.2.hallmark == c.hallmark).orElse fun _ => bars.head?
    match found with
    | some b =>
      let rank := w.kernel.rank s.cur.tile
      if c.mode == .sealed && c.kind == .tile && c.chip == s.chip && b.2.rbase ≤ rank && rank < b.2.rbase + b.2.n
      then .ok (c, b.1, b.2) else raise s cIllopnd 9
    | none => raise s cIllopnd 9

/-- R378 step 3: the publication that an arrival names. -/
def publication (s : State) (a : Option CapOp) : Eff (Option Cap) :=
  match a with
  | none => .ok none
  | some f => do
    let i ← wholeCap s f
    waitWhile s (s.capBusy i)
    match s.c i with
    | none => capFault s i none 0 0 cRights
    | some c => do
      need s (c.mode == .exclusive && c.rights.g && (c.kind == .tile || c.kind == .cluster) && c.chip == s.chip)
      waitWhile s (s.ct c.key).recl.isSome
      if !s.current c then capFault s i (some c) 0 0 cRevoked
      need s (!(s.ct c.key).laopen)
      .ok (some c)

/-- The latency and length of the packets of a barrier (R328, the worked run of the chapter). -/
def arrivalBytes : Nat := 24

/-- R378: the arrival is posted and the context waits for the home's answer. -/
def arrive (s : State) (w : Who) (d : CapOp) (a : Option CapOp) (b : Reg) (ends : Bool) : Eff State := do
  let cb ← wholeCap s d
  noSpec s
  waitWhile s (ends && (s.ctx.vecBusy.isSome || !s.ctx.mx.queue.isEmpty))
  let (c, bidx, _) ← barrierOf s w cb
  let x := s.x b
  need s (!bit x.toNat 63 && ((pubDests x).all fun d => d.1 < w.kernel.tiles.length) && (a.isSome || b == 0))
  let pub ← publication s a
  match s.ctx.mx.err, ends with
  | some (code, sub), true => raise (s.onCtx fun v => { v with mx := { v.mx with err := none } }) code sub
  | _, _ => .ok ()
  let dst : Place := ⟨s.chip, c.agent⟩
  let body : Body := .arrive bidx c.hallmark (w.kernel.rank s.cur.tile) pub x s.cur.ctx ends
  let s ← s.post (.packet (s.corePacket w 2 dst arrivalBytes body) false) none
  .error (s.onCtx fun v => { v with hold := .barrier dst bidx ends }, .wait)

/-- BARRIVE (R378). -/
def execBarrive (h : Hint) (d : CapOp) (a : Option CapOp) (b : Reg) (s : State) : Host.Outcome State Fault Refusal :=
  issue s h fun w => arrive s w d a b false

/-- BAREND (R378). -/
def execBarend (h : Hint) (d : CapOp) (a : Option CapOp) (b : Reg) (s : State) : Host.Outcome State Fault Refusal :=
  issue s h fun w => arrive s w d a b true

/-- The lookahead capability over a buffer (Table 3.2, R385). -/
def lookaheadOf (c : Cap) (len : Nat) : Cap :=
  { c with mode := .lookahead, rights := ⟨true, false, false, false⟩, tokens := 0, woff := 0, wlen := len }

/-- CLOOK (R385, R61). Once the completion that the task awaits has taken place, no publication is due at it. -/
def execClook (h : Hint) (d a : CapOp) (b : RegImm) (s : State) : Host.Outcome State Fault Refusal :=
  issue s h fun w => do
    let cd ← wholeCap s d
    let cb ← wholeCap s a
    if !s.ctx.spec.on then raise s cIllopnd 10
    waitWhile s (s.capBusy cd)
    let (c, bidx, bar) ← barrierOf s w cb
    let r := RegImm.nat b s
    if s.ctx.spec.bar != ⟨s.chip, c.agent⟩ || s.ctx.spec.bidx != bidx then raise s cIllopnd 10
    need s ((s.c cd).isNone && r < bar.n)
    if !s.current c then capFault s cb (some c) 0 0 cRevoked
    if bar.phase != s.ctx.spec.phase then .error (s, .abandon 5)
    match aget? bar.prev (bar.rbase + r) with
    | none => .error (s, .abandon 5)
    | some (pub, _) =>
      let e := s.ct pub.key
      match s.current pub && e.laopen, freeKey e.lrs (upto 4) with
      | true, some lr =>
        let k := lookaheadOf pub e.len
        let s := s.setCt pub.key { e with lrs := aset e.lrs lr ⟨s.chip, s.cur.tile⟩ }
        .ok ((s.setC cd (some k)).onCtx fun v => { v with spec := { v.spec with looks := v.spec.looks ++ [k] } })
      | _, _ => .error (s, .abandon 5)

/-- The word of SPECQ (Table 17.4). -/
def specWord (sp : Spec) (det : Bool) : Word :=
  let timed := if det then 0
    else sp.abort * 2 ^ 32 + sp.held.length * 2 ^ 24 + (logLines sp.log).length * 2 ^ 16
  word (boolNat sp.on + 2 * boolNat sp.rolled + timed)

/-- SPECQ (R390). -/
def execSpecq (h : Hint) (d : Reg) (s : State) : Host.Outcome State Fault Refusal :=
  issue s h fun w => .ok (s.setX d (specWord s.ctx.spec w.image.det))

end Sys2Proof.Machine
end

