-- ==== Sys2Proof/Machine/Rv64.lean ====
section
/-!
DEFINITION. The steward's hart: RV64I, M and C with Zicsr, Zba and Zbb in machine mode (R302 to R304). The spec names
the extensions and leaves their meaning to the RISC-V specifications (log 3).
-/

namespace Sys2Proof.Machine

/-! ## Arithmetic -/

/-- A word sign-extended from its low 32 bits. -/
def sext32 (v : Word) : Word := (v.setWidth 32).signExtend 64
/-- The low 32 bits, zero-extended. -/
def zext32 (v : Word) : Word := (v.setWidth 32).setWidth 64

/-- Truncating division as RV64M defines it at a width: all ones for a zero divisor, the dividend on overflow. -/
def rvDiv {w : Nat} (a b : BitVec w) : BitVec w := if b = 0 then BitVec.allOnes w else BitVec.ofInt w (a.toInt.tdiv b.toInt)
/-- The remainder of `rvDiv`. -/
def rvRem {w : Nat} (a b : BitVec w) : BitVec w := if b = 0 then a else BitVec.ofInt w (a.toInt.tmod b.toInt)
/-- Unsigned division. -/
def rvDivu {w : Nat} (a b : BitVec w) : BitVec w := if b = 0 then BitVec.allOnes w else a / b
/-- Unsigned remainder. -/
def rvRemu {w : Nat} (a b : BitVec w) : BitVec w := if b = 0 then a else a % b

/-- Two-operand operations. -/
def rvOp (op : RvOp) (a b : Word) : Word :=
  let sh := b.toNat % 64
  match op with
  | .add => a + b
  | .sub => a - b
  | .sll => a <<< sh
  | .slt => word (boolNat (a.toInt < b.toInt))
  | .sltu => word (boolNat (a.toNat < b.toNat))
  | .xor => a ^^^ b
  | .srl => a >>> sh
  | .sra => a.sshiftRight sh
  | .or => a ||| b
  | .and => a &&& b
  | .mul => a * b
  | .mulh => wordOfInt (a.toInt * b.toInt / 2 ^ 64)
  | .mulhsu => wordOfInt (a.toInt * (b.toNat : Int) / 2 ^ 64)
  | .mulhu => word (a.toNat * b.toNat / 2 ^ 64)
  | .div => rvDiv a b
  | .divu => rvDivu a b
  | .rem => rvRem a b
  | .remu => rvRemu a b
  | .sh1add => (a <<< 1) + b
  | .sh2add => (a <<< 2) + b
  | .sh3add => (a <<< 3) + b
  | .addUw => zext32 a + b
  | .sh1addUw => (zext32 a <<< 1) + b
  | .sh2addUw => (zext32 a <<< 2) + b
  | .sh3addUw => (zext32 a <<< 3) + b
  | .andn => a &&& ~~~b
  | .orn => a ||| ~~~b
  | .xnor => ~~~(a ^^^ b)
  | .max => if a.toInt < b.toInt then b else a
  | .maxu => if a.toNat < b.toNat then b else a
  | .min => if a.toInt < b.toInt then a else b
  | .minu => if a.toNat < b.toNat then a else b
  | .rol => a.rotateLeft sh
  | .ror => a.rotateRight sh

/-- Two-operand operations on the low words; the result is sign-extended. -/
def rvOpW (op : RvOpW) (a b : Word) : Word :=
  let x : BitVec 32 := a.setWidth 32
  let y : BitVec 32 := b.setWidth 32
  let sh := y.toNat % 32
  let r : BitVec 32 := match op with
    | .addw => x + y
    | .subw => x - y
    | .sllw => x <<< sh
    | .srlw => x >>> sh
    | .sraw => x.sshiftRight sh
    | .mulw => x * y
    | .divw => rvDiv x y
    | .divuw => rvDivu x y
    | .remw => rvRem x y
    | .remuw => rvRemu x y
    | .rolw => x.rotateLeft sh
    | .rorw => x.rotateRight sh
  r.signExtend 64

/-- Operations with a 12-bit immediate. -/
def rvImm (op : RvImm) (a : Word) (imm : BitVec 12) : Word :=
  let b := imm.signExtend 64
  match op with
  | .addi => a + b
  | .slti => word (boolNat (a.toInt < b.toInt))
  | .sltiu => word (boolNat (a.toNat < b.toNat))
  | .xori => a ^^^ b
  | .ori => a ||| b
  | .andi => a &&& b
  | .addiw => sext32 (a + b)

/-- Operations with a shift amount. -/
def rvShift (op : RvSh) (a : Word) (sh : BitVec 6) : Word :=
  let n := sh.toNat
  let x : BitVec 32 := a.setWidth 32
  match op with
  | .slli => a <<< n
  | .srli => a >>> n
  | .srai => a.sshiftRight n
  | .rori => a.rotateRight n
  | .slliUw => zext32 a <<< n
  | .slliw => (x <<< (n % 32)).signExtend 64
  | .srliw => (x >>> (n % 32)).signExtend 64
  | .sraiw => (x.sshiftRight (n % 32)).signExtend 64
  | .roriw => (x.rotateRight (n % 32)).signExtend 64

/-- Leading zeros of the low `n` bits. -/
def leadingZeros (v : Nat) : Nat → Nat
  | 0 => 0
  | n + 1 => if bit v n then 0 else 1 + leadingZeros v n

/-- Trailing zeros of `n` bits. -/
def trailingZeros (v n : Nat) : Nat := ((upto n).find? fun i => bit v i).getD n

/-- Ones of the low `n` bits. -/
def ones (v n : Nat) : Nat := ((upto n).filter fun i => bit v i).length

/-- The bytes of a word mapped and put back in place. -/
def mapBytes (f : Nat → Nat) (v : Nat) : Nat := ((upto 8).map fun i => f (field v (8 * i) 8) * 2 ^ (8 * i)).sum

/-- Unary operations of Zbb. -/
def rvUnary (op : RvUn) (a : Word) : Word :=
  let n := a.toNat
  match op with
  | .clz => word (leadingZeros n 64)
  | .ctz => word (trailingZeros n 64)
  | .cpop => word (ones n 64)
  | .clzw => word (leadingZeros n 32)
  | .ctzw => word (trailingZeros n 32)
  | .cpopw => word (ones n 32)
  | .sextb => (a.setWidth 8).signExtend 64
  | .sexth => (a.setWidth 16).signExtend 64
  | .zexth => word (n % 2 ^ 16)
  | .orcb => word (mapBytes (fun b => if b = 0 then 0 else 255) n)
  | .rev8 => word ((upto 8).map fun i => field n (8 * i) 8 * 2 ^ (56 - 8 * i)).sum

/-- Branch conditions. -/
def rvTaken (c : RvBr) (a b : Word) : Bool :=
  match c with
  | .beq => a == b
  | .bne => a != b
  | .blt => a.toInt < b.toInt
  | .bge => b.toInt ≤ a.toInt
  | .bltu => a.toNat < b.toNat
  | .bgeu => b.toNat ≤ a.toNat

/-! ## CSRs (R304) -/

/-- A counter CSR, whose reads DET forbids (R321). -/
def csrCounter (n : Nat) : Bool := n == 0xB00 || n == 0xB02 || n == 0xC00 || n == 0xC01 || n == 0xC02

/-- The value of a CSR; none for a number that is not implemented. -/
def State.csrRead (s : State) (n : Nat) : Option Word :=
  let w := s.stw
  if n = 0x300 then some 0x1800
  else if n = 0x301 then some 0x8000000000001104
  else if n = 0xF11 ∨ n = 0xF12 ∨ n = 0xF13 ∨ n = 0x305 ∨ n = 0x304 ∨ n = 0x344 then some 0
  else if n = 0xF14 then some (word (s.chip * 4096 + s.cur.tile))
  else if n = 0x340 then some w.csr.mscratch
  else if n = 0x341 then some w.csr.mepc
  else if n = 0x342 then some w.csr.mcause
  else if n = 0x343 then some w.csr.mtval
  else if n = 0xB00 ∨ n = 0xC00 ∨ n = 0xC01 then some (word (s.cycle - w.csr.loadedAt))
  else if n = 0xB02 ∨ n = 0xC02 then some w.csr.minstret
  else none

/-- A CSR written; the other writable numbers ignore it. -/
def Steward.csrWrite (w : Steward) (n : Nat) (v : Word) : Steward :=
  if n = 0x340 then { w with csr := { w.csr with mscratch := v } }
  else if n = 0x341 then { w with csr := { w.csr with mepc := v } }
  else if n = 0x342 then { w with csr := { w.csr with mcause := v } }
  else if n = 0x343 then { w with csr := { w.csr with mtval := v } }
  else w

/-- A CSR instruction. Numbers of the form 11xx_xxxx_xxxx are read-only. -/
def csrStep (s : State) (op : RvCsr) (rd : Reg) (num : BitVec 12) (src : CsrSrc) (w : Word) : StwEff :=
  let n := num.toNat
  let v := match src with | .reg r => s.stw.readX r | .imm i => i.setWidth 64
  let none' := match src with | .reg r => r == 0 | .imm i => i == 0
  let writes := op == .rw || !none'
  let reads := !(op == .rw && rd == 0)
  match s.csrRead n with
  | none => .error (.exception 2 w)
  | some old =>
    if writes && n / 2 ^ 10 == 3 then .error (.exception 2 w)
    else if reads && csrCounter n && s.stwDet then .error (.fault cDetviol 0)
    else
      let new := match op with | .rw => v | .rs => old ||| v | .rc => old &&& ~~~v
      .ok (s.onStw fun w => (if writes then w.csrWrite n new else w).writeX rd old)

/-! ## Loads, stores and jumps -/

/-- A load (R302, R303): bytes of scratch, or of the kick window. -/
def rvLoad (s : State) (a : Nat) (n : Nat) : Except StwStop (State × Nat) :=
  if inScratch a n then .ok (s, s.stw.scratchNat a n)
  else if inKicks a n then .ok (s.draw 1, leNat ((upto n).map fun i => s.kickByte (a + i)))
  else .error (.exception 5 (word a))

/-- An instruction of the hart that does not set pc. -/
def rvStep (s : State) (rv : Rv) (len : Nat) : StwEff :=
  let w := s.stw
  let set (rd : Reg) (v : Word) : StwEff := .ok (s.onStw fun w => w.writeX rd v)
  match rv with
  | .lui rd imm => set rd ((imm ++ (0 : BitVec 12)).signExtend 64)
  | .auipc rd imm => set rd (w.pc + (imm ++ (0 : BitVec 12)).signExtend 64)
  | .load size signed rd rs1 off => do
    let n := 2 ^ size.toNat
    let (s, v) ← rvLoad s (w.readX rs1 + off.signExtend 64).toNat n
    .ok (s.onStw fun w => w.writeX rd (if signed then wordOfInt (signExtend v (8 * n)) else word v))
  | .store size rs2 rs1 off =>
    let n := 2 ^ size.toNat
    let a := (w.readX rs1 + off.signExtend 64).toNat
    if inScratch a n then .ok (s.onStw fun w => w.putBytes a (leBytes n (w.readX rs2).toNat))
    else .error (.exception 7 (word a))
  | .opImm op rd rs1 imm => set rd (rvImm op (w.readX rs1) imm)
  | .shift op rd rs1 sh => set rd (rvShift op (w.readX rs1) sh)
  | .op op rd rs1 rs2 => set rd (rvOp op (w.readX rs1) (w.readX rs2))
  | .opW op rd rs1 rs2 => set rd (rvOpW op (w.readX rs1) (w.readX rs2))
  | .unary op rd rs1 => set rd (rvUnary op (w.readX rs1))
  | .csr op rd num src => csrStep s op rd num src (word (w.wordAt len))
  | .ecall => .error (.exception 11 0)
  | .ebreak => .error (.exception 3 w.pc)
  | .illegal v => .error (.exception 2 (v.setWidth 64))
  | .fence | .fenceI | .wfi | .jal _ _ | .jalr _ _ _ | .branch _ _ _ _ => .ok s

/-- Where an instruction leaves pc. -/
def rvNext (w : Steward) (rv : Rv) (len : Nat) : Word :=
  match rv with
  | .jal _ off => w.pc + off.signExtend 64
  | .jalr _ rs1 off => (w.readX rs1 + off.signExtend 64) &&& ~~~1
  | .branch c rs1 rs2 off => if rvTaken c (w.readX rs1) (w.readX rs2) then w.pc + off.signExtend 64 else w.pc + word len
  | _ => w.pc + word len

/-- The link register that an instruction writes with the address of the next one. -/
def rvLink (rv : Rv) : Reg :=
  match rv with
  | .jal rd _ | .jalr rd _ _ => rd
  | _ => 0

/-- The registers that an instruction names. -/
def rvRegs (rv : Rv) : List Reg :=
  match rv with
  | .lui rd _ | .auipc rd _ | .jal rd _ => [rd]
  | .jalr rd rs1 _ | .load _ _ rd rs1 _ | .opImm _ rd rs1 _ | .shift _ rd rs1 _ | .unary _ rd rs1 => [rd, rs1]
  | .branch _ rs1 rs2 _ | .store _ rs2 rs1 _ => [rs1, rs2]
  | .op _ rd rs1 rs2 | .opW _ rd rs1 rs2 => [rd, rs1, rs2]
  | .csr _ rd _ (.reg r) => [rd, r]
  | .csr _ rd _ (.imm _) => [rd]
  | _ => []

/-- One instruction of the hart other than Xgnmv (R302), `len` bytes long. -/
def execStewardRv64Instruction (len : Nat) (rv : Rv) (s : State) : Host.Outcome State Fault Refusal :=
  stewardJump s len (rvRegs rv) fun s => do
    let w := s.stw
    let s ← rvStep s rv len
    .ok (s.onStw fun v => { v.writeX (rvLink rv) (w.pc + word len) with pc := rvNext w rv len })

end Sys2Proof.Machine
end

