-- ==== Sys2Proof/Machine/SoftErr.lean ====
section
/-!
DEFINITION. Strikes, scrubbing, health records (R449 to R460), module reset and power loss (R100, R253, R459).
-/

namespace Sys2Proof.Machine

/-! ## Rollback of a tile to the horizon (R451, R392) -/

/-- A count of a tile's health record raised (R459). -/
def State.count (s : State) (t : Nat) (f : Counts → Counts) : State := s.onTile t fun v => { v with counts := f v.counts }

/-- A change undone (R450). A landing register that has filled again since hands its value to the hold, and a
counter keeps the increments that arrived. A CT entry that is still the same buffer's gives back or takes back the tokens, or is what it
was before it was sealed. -/
def State.undo (s : State) (t : Nat) (u : Undo) : State :=
  match u with
  | .landing _ y v =>
    let s := match aget? (s.tile t).loc.land y with
      | some w => s.onLocal t fun l => { l with landHold := ⟨y, w⟩ :: l.landHold }
      | none => s
    s.setLand t y (some v)
  | .mset _ i old new =>
    let now := (s.tile t).loc.ctr i
    s.setCtr t i { value := old.value + (now.value - new), loc := old.loc }
  | .parked _ i => s.setSlot t i { (s.tile t).loc.slot i with cap := none, kslot := none }
  | .unparked _ i old => s.setSlot t i old
  | .head _ r k =>
    (s.onLocal t fun l => { l with rings := match aget? l.rings r with
      | some g => aset l.rings r { g with head := (g.head + 2 ^ 32 - k) % 2 ^ 32, relsd := (g.relsd + 2 ^ 32 - k) % 2 ^ 32 }
      | none => l.rings }).reeval t fun q => (recNeeds q.img).any fun n => n.1 == r
  | .kick _ e old =>
    s.onLocal t fun l =>
      match aget? l.kicks e with
      | some k => if k.seq = old.seq then { l with kicks := aset l.kicks e old } else l
      | none => { l with kicks := aset l.kicks e old }
  | .entry _ key hallmark tokens old =>
    let x := s.ct key
    if x.hallmark ≠ hallmark then s
    else if tokens = 0 then s.setCt key { x with state := old.1, maxr := old.2 }
    else s.setCt key { x with tokOut := ((x.tokOut : Int) - tokens).toNat }
  | .ring _ r old _ =>
    (s.onLocal t fun l => { l with rings := match old with
      | some g => aset l.rings r g
      | none => aerase l.rings r }).reeval t fun q => (recNeeds q.img).any fun n => n.1 == r
  | .bar _ i => s.onLocal t fun l => { l with bars := aerase l.bars i }

/-- The earliest state of a context that the history keeps after cycle `h`. -/
def CoreSt.asOf (k : CoreSt) (c h : Nat) : Option Context :=
  ((k.history.filter fun x => x.ctx == c && decide (h < x.cycle)).getLast?).map (·.before)

/-- What a context issued at or before the horizon and still holds. -/
def heldStill (now : Nat) (l : List HeldPost) : List HeldPost := l.filter fun p => p.due ≤ now

/-- R451 step 2: what a context issued after the horizon and is still held is discarded: posts, with the kick entries that they were to
show, writes, commands that have not started. -/
def State.dropHeld (s : State) (t c : Nat) : State :=
  let s := s.onLocal t fun l => l.freeHeldKicks ((s.ctxAt t c).shzPosts.filter fun p => s.cycle < p.due)
  s.onCtxAt t c fun v =>
    { v with
      shzPosts := heldStill s.cycle v.shzPosts, shzLog := v.shzLog.filter fun w => w.due ≤ s.cycle
      mx := { v.mx with queue := v.mx.queue.filter fun m => m.notBefore ≤ s.cycle } }.drained

/-- What the speculation of a context keeps outside its registers goes (R384). -/
def State.dropSpec (s : State) (t c : Nat) : State :=
  let v := s.ctxAt t c
  let s := s.onLocal t fun l => l.freeHeldKicks v.spec.held
  v.spec.looks.foldl (fun s k => s.clearReader k ⟨s.chip, t⟩) s

/-- Capabilities that the context, or the steward, gave up after cycle `h` have not left (R450): they are where they were. -/
def State.dropGiving (s : State) (t by' h : Nat) : State :=
  s.onCore t fun k => { k with giving := k.giving.filter fun g => !(g.by' == by' && decide (h + Config.horizon < g.due)) }

/-- A task was dispatched into its slot after cycle `h`. -/
def State.dispatchedSince (s : State) (t c h : Nat) : Bool := (s.ctxAt t c).run.task.isSome && decide (h < (s.ctxAt t c).run.placed)

/-- R451 step 3: a task dispatched after the horizon returns to ready with its stamp, and with what it was dispatched with. -/
def State.undispatch (s : State) (t c h : Nat) : State :=
  let v := s.ctxAt t c
  match s.recAt t c with
  | some (r, q) =>
    if s.dispatchedSince t c h then
      let start := ((s.tile t).core.asOf c v.run.placed).getD v
      let s := (s.dropSpec t c).dropGiving t c v.run.placed
      let v := s.ctxAt t c
      let s := s.setCtxAt t c { v.leave with run := { v.leave.run with accs := [], issueAt := s.cycle + 12 } }
      let s := if q.img.stv ∧ v.run.origin.isNone then
          s.setSlot t q.img.stSlot
            { (s.tile t).loc.slot q.img.stSlot with cap := start.regs.readC 14, held := false }
        else s
      s.onLocal t fun l =>
        { l with
          park := match v.run.origin with
            | some e => aset l.park r e
            | none => l.park
          recs := aset l.recs r
            { q with
              cap := if v.run.origin.isNone then start.regs.readC 0 else none
              q := .ready v.run.prio v.run.stamp r s.cycle s.cycle false } }
    else s
  | none => s

/-- The state in which the history shows a context after cycle `h`, when its task ran there before that and is still a task: it may have
parked since. A task whose speculation was rolled back since stands at its snapshot (R392). -/
def State.past (s : State) (t c h : Nat) : Option Context :=
  ((s.tile t).core.asOf c h).bind fun b =>
    (b.run.task.bind fun r => aget? (s.tile t).loc.recs r).bind fun q =>
      let v := s.ctxAt t c
      let gone := v.run.task != b.run.task || (match v.hold with | .parkFull (.barrier _ _ _) => true | _ => false)
      if b.run.placed ≤ h ∧ q.born ≤ b.run.placed ∧ (v.run.task = b.run.task ∨ v.run.task = none) ∧ !(b.spec.on && gone) then some b
      else none

/-- The task of a context's past is that of its slot: one that has parked since is taken out of the park store again, and RETRIES is
what it was (R460). -/
def State.retake (s : State) (t c : Nat) (b : Context) : State :=
  match b.run.task with
  | some r =>
    s.onLocal t fun l =>
      { l with park := aerase l.park r, recs := match aget? l.recs r with
          | some q => aset l.recs r { q with q := .running c, retries := b.run.tries }
          | none => l.recs }
  | none => s

/-- Two contexts speculate on the same phase of the same barrier. -/
def Spec.sameRun (a b : Spec) : Bool := a.on && b.on && a.bar == b.bar && a.bidx == b.bidx && a.phase == b.phase

/-- The watchdog's count as it stood, `n` cycles having been lost (R451, R454). -/
def Run.later (r : Run) (n : Nat) : Run :=
  { r with dispatched := r.dispatched + n, graceEnd := r.graceEnd.map (· + n) }

/-- R392, R451: a context goes back to cycle `h`, or to its speculation's snapshot when that is older. One that has issued
nothing since `h` stands at `h` already, but for its count; one that was taken back to ready stands where it was. What a
speculation of cycle `h` has committed since stands, and its lookahead capabilities have vanished. The matrix queue stands. `from'` is the
cycle whose beginning the tile returns to: `h + 1`, or the one in which it last went on after a strike. -/
def State.rewindCtx (s : State) (t c h from' : Nat) : State :=
  let v := s.ctxAt t c
  let lost := s.cycle + 12 - from'
  match s.past t c h with
  | none =>
    if ((s.tile t).core.asOf c h).isSome ∨ v.run.task.isNone then s
    else if v.spec.on then s.rollback t c 7
    else s.onCtxAt t c fun v => { v with run := { v.run.later lost with issueAt := max (s.cycle + 12) v.run.issueAt } }
  | some b =>
    if b.spec.sameRun v.spec then s.rollback t c 7
    else
      let s := ((s.dropSpec t c).dropGiving t c h).retake t c b
      let w := s.ctxAt t c
      s.setCtxAt t c
        { b with
          mx := w.mx, shzLog := w.shzLog, shzPosts := w.shzPosts
          regs := if b.spec.on then b.regs.noLooks else b.regs
          spec := if b.spec.on then { Spec.reset with abort := v.spec.abort, rolled := v.spec.rolled } else b.spec
          run := { b.run.later lost with issueAt := max (s.cycle + 12) (b.run.issueAt + lost) } }

/-- R451: the steward goes back to cycle `h`; operations that it started after the horizon never begin. -/
def State.rewindStw (s : State) (t h : Nat) : State :=
  s.onTile t fun v =>
    let ops := v.stw.ops.filter fun o => o.notBefore ≤ s.cycle
    match (v.stwHistory.filter fun x => h < x.1).getLast? with
    | some (_, b) =>
      { v with stw := { b with ops := ops, nextOp := v.stw.nextOp, stopped := v.stw.stopped, prog := v.stw.prog }, stwHistory := [] }
    | none => { v with stw := { v.stw with ops := ops } }

/-- R447: a strike replay is counted for the VF of every task that runs on the tile. -/
def State.countReplays (s : State) (t : Nat) : State :=
  (upto 8).foldl (fun s c =>
    match s.whoAt t c with
    | some w => s.vfCount w.kernel.vf 2
    | none => s) s

/-- Requests to other chips that the tile's core issued after the horizon and that are still held are discarded (R451
step 2). -/
def State.dropAsked (s : State) (t : Nat) : State :=
  { s with fabric := { s.fabric with out := s.fabric.out.filter fun p =>
      !(p.unit == .core && p.src == ⟨s.chip, t⟩ && isRequest p.body && decide (s.cycle < p.due)) } }

/-- R451: the tile rolls back to 160 cycles ago. What is held and was issued since is discarded first; then the changes of the
contexts that go back, and of the steward, are undone, the newest first; then they go back. -/
def State.strikeRollback (s : State) (t : Nat) : State :=
  let h := s.cycle - Config.horizon
  let from' := max (h + 1) (s.tile t).core.resumed
  let s := (s.count t fun k => { k with sreplay := min (k.sreplay + 1) (2 ^ 32 - 1) }).countReplays t
  let s := (upto 8).foldl (fun s c => s.dropHeld t c) (s.dropAsked t)
  let back := (upto 8).filter fun c => s.dispatchedSince t c h
  let s := back.foldl (fun s c => s.undispatch t c h) s
  let going := back ++ ((upto 8).filter fun c => (s.past t c h).isSome) ++ [8]
  let s := ((s.tile t).core.undo.filter fun u => h < u.2.cycle && going.contains u.1).foldl (fun s u => s.undo t u.2) s
  let s := ((upto 8).foldl (fun s c => s.rewindCtx t c h from') s).dropGiving t 8 h
  (s.rewindStw t h).onCore t fun k => { k with history := [], undo := [], resumed := s.cycle + 12 }

/-! ## Strikes (R449, R452, R453) -/

/-- The tasks of a list that still ran in the last 160 cycles, each once. -/
def struck (cycle : Nat) (l : List PastTask) : List PastTask :=
  (recent cycle l).foldl (fun out x => if out.any fun y => y.task == x.task then out else out ++ [x]) []

/-- R452: a strike in the matrix engine zone sets the error state of each task whose command ran in the last 160 cycles. -/
def State.strikeMatrix (s : State) (t : Nat) : State :=
  let e := (s.tile t).core.eng
  let now : List PastTask := match e.running with
    | some (c, m) => [⟨s.cycle, c, m.task, m.kslot⟩]
    | none => []
  (struck s.cycle (now ++ e.ran)).foldl (fun s x => s.taskError t x.ctx x.kslot x.task cUncorr 3) s

/-- R453: a strike without the horizon is a deferred error of each task that ran on the tile in the last 160 cycles; one
that has ended is charged at its tile group. -/
def State.strikePlain (s : State) (t : Nat) : State :=
  let now := (upto 8).filterMap fun c => (s.recAt t c).map fun q => (⟨s.cycle, c, ⟨q.1, q.2.born⟩, q.2.kslot⟩ : PastTask)
  (struck s.cycle (now ++ (s.tile t).core.disp.left)).foldl (fun s x =>
    match s.onMxTask t x.task fun g => (g.1, some (cUncorr, 2)), s.partOfTile t with
    | some s, _ => s
    | none, some p =>
      s.contain p.1 x.kslot t none true
        { FRec.zero with code := cUncorr, sub := 2, ctx := x.ctx, kslot := x.kslot, src := 1, trec := recOffset x.task.rec' } .group
    | none, none => s) s

/-- STRIKE_REPORT (R449 to R453, R460): of the tile of the turn. A strike on a tile of no running partition, or of one that became ACTIVE
less than 160 cycles ago, is counted and logged only. -/
def execStrikeReport (zone : Zone) (s : State) : Host.Outcome State Fault Refusal :=
  let t := s.cur.tile
  let s := s.count t fun k => { k with strikes := min (k.strikes + 1) (2 ^ 32 - 1) }
  match s.partOfTile t with
  | some p =>
    if p.2.state ≠ .active ∨ s.cycle < p.2.since + Config.horizon then .next (s.logHost { FRec.zero with code := cUncorr, sub := 2, src := 3, va := t })
    else if p.2.prec.shz then
      match zone with
      | .matrix => .next (s.strikeMatrix t)
      | _ => .next (s.strikeRollback t)
    else .next (s.strikePlain t)
  | none => .next (s.logHost { FRec.zero with code := cUncorr, sub := 2, src := 3, va := t })

/-! ## Scrubbing (R456) -/

/-- SCRUB_VISIT (R456, R447): the scrubber visits a 64-byte line: corrected errors are written back, an uncorrectable one
poisons the line, and both are events of no kernel. -/
def execScrubVisit (line : Nat) (s : State) : Host.Outcome State Fault Refusal :=
  let a := line * 64
  let bad := s.ecc.any fun p => p.2 && eccMeets a 64 p.1
  let hits := s.eccHits a 64
  let s := if hits = 0 then s else (s.eccFixed a 64).memoryEvent a cOk 0
  .next (if bad then
      State.memoryEvent
        { s with ecc := s.ecc.filter fun p => !eccMeets a 64 p.1, poison := line :: s.poison.filter (· != line) } a cUncorr 1
    else s)

/-! ## Health records (R459) -/

/-- Two counts added, saturating. -/
def addSat (n a b : Nat) : Nat := min (a + b) (2 ^ n - 1)

/-- R459: counts flushed to a tile's stored record; the flush itself is counted for every tile at once (`flushes`). -/
def Counts.flushed (stored new : Counts) : Counts :=
  { seq := stored.seq, uecc := addSat 32 stored.uecc new.uecc, cecc := addSat 32 stored.cecc new.cecc,
    sreplay := addSat 32 stored.sreplay new.sreplay, strikes := addSat 32 stored.strikes new.strikes,
    vconf := stored.vconf ||| new.vconf
    subm := (upto 32).map fun i => (i, addSat 16 (aget stored.subm 0 i) (aget new.subm 0 i))
    lanem := (upto 32).map fun i => (i, addSat 16 (aget stored.lanem 0 i) (aget new.lanem 0 i)) }

/-- R459: every tile's counts flushed. -/
def State.flushHealth (s : State) : State :=
  { s with
    tiles := amap s.tiles fun _ v => { v with stored := v.stored.flushed v.counts, counts := .reset }, flushes := s.flushes + 1 }

/-- HEALTH_FLUSH (R459). -/
def execHealthFlush (s : State) : Host.Outcome State Fault Refusal := .next s.flushHealth

/-! ## Reset and power -/

/-- What survives a module reset: health records and engine marks. -/
def Tile.survives (v : Tile) : Tile :=
  { Tile.reset with
    core := { Tile.reset.core with eng := { Tile.reset.core.eng with dead := v.core.eng.dead } }
    stored := v.stored }

/-- The module after a reset: no partition and no handle survive (R110), and pod time goes on (R403). The agenda, the chip's
number and the free values' numbers are not the machine's to reset (log 1, log 49). -/
def State.afterReset (s : State) : State :=
  { State.reset with
    chip := s.chip, tiles := amap s.tiles fun _ v => v.survives, agenda := s.agenda, cur := s.cur, free := s.free,
    keyGen := s.keyGen, flushes := s.flushes, fabric := { Fabric.reset with base := s.fabric.base + s.cycle } }

/-- R253: the engines that fail their self-test are marked, and the host log says so. -/
def State.selfTest (s : State) (failed : List Nat) : State :=
  failed.foldl (fun s t =>
    if t < Config.tiles ∧ !(s.tile t).core.eng.dead then
      (s.onCore t fun k => { k with eng := { k.eng with dead := true } }).logHost
        { FRec.zero with code := cMxdead, src := 3, va := t }
    else s) s

/-- MODULE_RESET (R100, R253, R459): the tiles in `failed` fail their self-test. -/
def execModuleReset (failed : List Nat) (s : State) : Host.Outcome State Fault Refusal :=
  .next (s.flushHealth.afterReset.selfTest failed)

/-- POWER_LOSS (R459): an orderly one flushes the counts first. -/
def execPowerLoss (orderly : Bool) (s : State) : Host.Outcome State Fault Refusal :=
  .next (if orderly then s.flushHealth.afterReset else s.afterReset)

end Sys2Proof.Machine
end

