-- ==== Sys2Proof/Machine/Dispatch.lean ====
section
/-!
DEFINITION. The meaning of every instruction and event: one arm for each constructor.
-/

namespace Sys2Proof.Machine

def exec (i : Instr) (s : State) : Host.Outcome State Fault Refusal :=
  match i with
  | .nop h => Sys2Proof.Machine.execNop h s
  | .br h b => Sys2Proof.Machine.execBr h b s
  | .bri h a => Sys2Proof.Machine.execBri h a s
  | .call h b => Sys2Proof.Machine.execCall h b s
  | .ret h => Sys2Proof.Machine.execRet h s
  | .loop h a b => Sys2Proof.Machine.execLoop h a b s
  | .endTask h => Sys2Proof.Machine.execEndTask h s
  | .endc h d a b => Sys2Proof.Machine.execEndc h d a b s
  | .trap h b => Sys2Proof.Machine.execTrap h b s
  | .brk h b => Sys2Proof.Machine.execBrk h b s
  | .gets h d a => Sys2Proof.Machine.execGets h d a s
  | .sets h d a => Sys2Proof.Machine.execSets h d a s
  | .tlbi h d a b => Sys2Proof.Machine.execTlbi h d a b s
  | .eret h b => Sys2Proof.Machine.execEret h b s
  | .wdog h b => Sys2Proof.Machine.execWdog h b s
  | .halt h => Sys2Proof.Machine.execHalt h s
  | .add h t d a b => Sys2Proof.Machine.execAdd h t d a b s
  | .sub h t d a b => Sys2Proof.Machine.execSub h t d a b s
  | .mul h t d a b => Sys2Proof.Machine.execMul h t d a b s
  | .mulh h t d a b => Sys2Proof.Machine.execMulh h t d a b s
  | .div h t d a b => Sys2Proof.Machine.execDiv h t d a b s
  | .rem h t d a b => Sys2Proof.Machine.execRem h t d a b s
  | .and h t d a b => Sys2Proof.Machine.execAnd h t d a b s
  | .or h t d a b => Sys2Proof.Machine.execOr h t d a b s
  | .xor h t d a b => Sys2Proof.Machine.execXor h t d a b s
  | .andn h t d a b => Sys2Proof.Machine.execAndn h t d a b s
  | .shl h t d a b => Sys2Proof.Machine.execShl h t d a b s
  | .shr h t d a b => Sys2Proof.Machine.execShr h t d a b s
  | .sra h t d a b => Sys2Proof.Machine.execSra h t d a b s
  | .rot h t d a b => Sys2Proof.Machine.execRot h t d a b s
  | .min h t d a b => Sys2Proof.Machine.execMin h t d a b s
  | .max h t d a b => Sys2Proof.Machine.execMax h t d a b s
  | .sel h t d a b => Sys2Proof.Machine.execSel h t d a b s
  | .cmpeq h t d a b => Sys2Proof.Machine.execCmpeq h t d a b s
  | .cmpne h t d a b => Sys2Proof.Machine.execCmpne h t d a b s
  | .cmplt h t d a b => Sys2Proof.Machine.execCmplt h t d a b s
  | .cmple h t d a b => Sys2Proof.Machine.execCmple h t d a b s
  | .cmpltu h t d a b => Sys2Proof.Machine.execCmpltu h t d a b s
  | .cmpleu h t d a b => Sys2Proof.Machine.execCmpleu h t d a b s
  | .li h d v => Sys2Proof.Machine.execLi h d v s
  | .mad h t d a b => Sys2Proof.Machine.execMad h t d a b s
  | .pand h d a b => Sys2Proof.Machine.execPand h d a b s
  | .por h d a b => Sys2Proof.Machine.execPor h d a b s
  | .pxor h d a b => Sys2Proof.Machine.execPxor h d a b s
  | .pnot h d a => Sys2Proof.Machine.execPnot h d a s
  | .popc h t d a => Sys2Proof.Machine.execPopc h t d a s
  | .clz h t d a => Sys2Proof.Machine.execClz h t d a s
  | .ctz h t d a => Sys2Proof.Machine.execCtz h t d a s
  | .fns h t d a b => Sys2Proof.Machine.execFns h t d a b s
  | .brev h t d a => Sys2Proof.Machine.execBrev h t d a s
  | .bswap h t d a => Sys2Proof.Machine.execBswap h t d a s
  | .bext h t d a b => Sys2Proof.Machine.execBext h t d a b s
  | .bexts h t d a b => Sys2Proof.Machine.execBexts h t d a b s
  | .bins h t d a b => Sys2Proof.Machine.execBins h t d a b s
  | .pdep h t d a b => Sys2Proof.Machine.execPdep h t d a b s
  | .pext h t d a b => Sys2Proof.Machine.execPext h t d a b s
  | .fadd h t d a b => Sys2Proof.Machine.execFadd h t d a b s
  | .fsub h t d a b => Sys2Proof.Machine.execFsub h t d a b s
  | .fmul h t d a b => Sys2Proof.Machine.execFmul h t d a b s
  | .ffma h t d a b => Sys2Proof.Machine.execFfma h t d a b s
  | .fdiv h t d a b => Sys2Proof.Machine.execFdiv h t d a b s
  | .fsqrt h t d a => Sys2Proof.Machine.execFsqrt h t d a s
  | .fmin h t d a b => Sys2Proof.Machine.execFmin h t d a b s
  | .fmax h t d a b => Sys2Proof.Machine.execFmax h t d a b s
  | .fcmpeq h t d a b => Sys2Proof.Machine.execFcmpeq h t d a b s
  | .fcmplt h t d a b => Sys2Proof.Machine.execFcmplt h t d a b s
  | .fcmple h t d a b => Sys2Proof.Machine.execFcmple h t d a b s
  | .fcmpun h t d a b => Sys2Proof.Machine.execFcmpun h t d a b s
  | .fcvt h t d a b => Sys2Proof.Machine.execFcvt h t d a b s
  | .fclass h t d a => Sys2Proof.Machine.execFclass h t d a s
  | .ld h t d a => Sys2Proof.Machine.execLd h t d a s
  | .st h t d a => Sys2Proof.Machine.execSt h t d a s
  | .vwset h d a => Sys2Proof.Machine.execVwset h d a s
  | .vwgetMemory h d a => Sys2Proof.Machine.execVwgetMemory h d a s
  | .vwgetField h d a b => Sys2Proof.Machine.execVwgetField h d a b s
  | .vwsub h d a b => Sys2Proof.Machine.execVwsub h d a b s
  | .vwadv h d a b => Sys2Proof.Machine.execVwadv h d a b s
  | .rbindInstall h d a b => Sys2Proof.Machine.execRbindInstall h d a b s
  | .rbindAttach h d a => Sys2Proof.Machine.execRbindAttach h d a s
  | .rbindRemove h d b => Sys2Proof.Machine.execRbindRemove h d b s
  | .radv h d b => Sys2Proof.Machine.execRadv h d b s
  | .rstatFill h d a => Sys2Proof.Machine.execRstatFill h d a s
  | .rstatDescriptor h d a => Sys2Proof.Machine.execRstatDescriptor h d a s
  | .cmovMove h d a => Sys2Proof.Machine.execCmovMove h d a s
  | .cmovPark h d a => Sys2Proof.Machine.execCmovPark h d a s
  | .cmovUnpark h d a => Sys2Proof.Machine.execCmovUnpark h d a s
  | .csplit h d a b => Sys2Proof.Machine.execCsplit h d a b s
  | .cjoin h d a => Sys2Proof.Machine.execCjoin h d a s
  | .cnarrow h d a b => Sys2Proof.Machine.execCnarrow h d a b s
  | .cmerge h d a => Sys2Proof.Machine.execCmerge h d a s
  | .crights h d a b => Sys2Proof.Machine.execCrights h d a b s
  | .cinfo h d a b => Sys2Proof.Machine.execCinfo h d a b s
  | .cdrop h d => Sys2Proof.Machine.execCdrop h d s
  | .cseal h d a => Sys2Proof.Machine.execCseal h d a s
  | .creclaimRegister h d => Sys2Proof.Machine.execCreclaimRegister h d s
  | .creclaimSlot h d b => Sys2Proof.Machine.execCreclaimSlot h d b s
  | .vadd h t d a b => Sys2Proof.Machine.execVadd h t d a b s
  | .vsub h t d a b => Sys2Proof.Machine.execVsub h t d a b s
  | .vmul h t d a b => Sys2Proof.Machine.execVmul h t d a b s
  | .vfma h t d a b => Sys2Proof.Machine.execVfma h t d a b s
  | .vmin h t d a b => Sys2Proof.Machine.execVmin h t d a b s
  | .vmax h t d a b => Sys2Proof.Machine.execVmax h t d a b s
  | .vabs h t d a => Sys2Proof.Machine.execVabs h t d a s
  | .vneg h t d a => Sys2Proof.Machine.execVneg h t d a s
  | .vcmul h d a b => Sys2Proof.Machine.execVcmul h d a b s
  | .vbfly h d a b => Sys2Proof.Machine.execVbfly h d a b s
  | .vred h t d a b => Sys2Proof.Machine.execVred h t d a b s
  | .vscan h t d a b => Sys2Proof.Machine.execVscan h t d a b s
  | .vcmp h t cond d a b => Sys2Proof.Machine.execVcmp h t cond d a b s
  | .vsel h t d a b => Sys2Proof.Machine.execVsel h t d a b s
  | .vcopy h t d a => Sys2Proof.Machine.execVcopy h t d a s
  | .vfill h t d a => Sys2Proof.Machine.execVfill h t d a s
  | .vgather h t d a b => Sys2Proof.Machine.execVgather h t d a b s
  | .vscatter h t d a b => Sys2Proof.Machine.execVscatter h t d a b s
  | .vscale h t d a b => Sys2Proof.Machine.execVscale h t d a b s
  | .vquant h t d a b => Sys2Proof.Machine.execVquant h t d a b s
  | .vand h t d a b => Sys2Proof.Machine.execVand h t d a b s
  | .vor h t d a b => Sys2Proof.Machine.execVor h t d a b s
  | .vxor h t d a b => Sys2Proof.Machine.execVxor h t d a b s
  | .vnot h t d a => Sys2Proof.Machine.execVnot h t d a s
  | .vshl h t d a b => Sys2Proof.Machine.execVshl h t d a b s
  | .vshr h t d a b => Sys2Proof.Machine.execVshr h t d a b s
  | .vsra h t d a b => Sys2Proof.Machine.execVsra h t d a b s
  | .vpopc h t d a => Sys2Proof.Machine.execVpopc h t d a s
  | .vclz h t d a => Sys2Proof.Machine.execVclz h t d a s
  | .vctz h t d a => Sys2Proof.Machine.execVctz h t d a s
  | .vfns h t d a b => Sys2Proof.Machine.execVfns h t d a b s
  | .vbrev h t d a => Sys2Proof.Machine.execVbrev h t d a s
  | .vcvt h t d a b => Sys2Proof.Machine.execVcvt h t d a b s
  | .vrcp h t d a => Sys2Proof.Machine.execVrcp h t d a s
  | .vrsq h t d a => Sys2Proof.Machine.execVrsq h t d a s
  | .vsqrt h t d a => Sys2Proof.Machine.execVsqrt h t d a s
  | .vexp2 h t d a => Sys2Proof.Machine.execVexp2 h t d a s
  | .vlog2 h t d a => Sys2Proof.Machine.execVlog2 h t d a s
  | .vsin h t d a => Sys2Proof.Machine.execVsin h t d a s
  | .vcos h t d a => Sys2Proof.Machine.execVcos h t d a s
  | .vidx h t d a => Sys2Proof.Machine.execVidx h t d a s
  | .vtrans h t d a => Sys2Proof.Machine.execVtrans h t d a s
  | .mzero h d => Sys2Proof.Machine.execMzero h d s
  | .mma h t d a b => Sys2Proof.Machine.execMma h t d a b s
  | .mmat h d a b => Sys2Proof.Machine.execMmat h d a b s
  | .mld h t d a => Sys2Proof.Machine.execMld h t d a s
  | .mst h t d a b => Sys2Proof.Machine.execMst h t d a b s
  | .mscale h d a b => Sys2Proof.Machine.execMscale h d a b s
  | .mstat h d a => Sys2Proof.Machine.execMstat h d a s
  | .msig h d a b => Sys2Proof.Machine.execMsig h d a b s
  | .sendq h n d a b => Sys2Proof.Machine.execSendq h n d a b s
  | .replyq h n d a b => Sys2Proof.Machine.execReplyq h n d a b s
  | .sendc h pol d a b => Sys2Proof.Machine.execSendc h pol d a b s
  | .sendr h d a => Sys2Proof.Machine.execSendr h d a s
  | .spawn h n d a => Sys2Proof.Machine.execSpawn h n d a s
  | .spawnr h n d a b => Sys2Proof.Machine.execSpawnr h n d a b s
  | .minc h d a b => Sys2Proof.Machine.execMinc h d a b s
  | .mrdCounter h d a => Sys2Proof.Machine.execMrdCounter h d a s
  | .mrdLanding h d a => Sys2Proof.Machine.execMrdLanding h d a s
  | .mset h n d a => Sys2Proof.Machine.execMset h n d a s
  | .arm h d a b => Sys2Proof.Machine.execArm h d a b s
  | .kick h d a => Sys2Proof.Machine.execKick h d a s
  | .barinit h d a b => Sys2Proof.Machine.execBarinit h d a b s
  | .barrive h d a b => Sys2Proof.Machine.execBarrive h d a b s
  | .barend h d a b => Sys2Proof.Machine.execBarend h d a b s
  | .clook h d a b => Sys2Proof.Machine.execClook h d a b s
  | .specq h d => Sys2Proof.Machine.execSpecq h d s
  | .aop h n f d a => Sys2Proof.Machine.execAop h n f d a s
  | .aopr h n f d a b => Sys2Proof.Machine.execAopr h n f d a b s
  | .coll h t d a b => Sys2Proof.Machine.execColl h t d a b s
  | .collopen h t d a b => Sys2Proof.Machine.execCollopen h t d a b s
  | .collclose h a => Sys2Proof.Machine.execCollclose h a s
  | .mvNext rd rs1 rs2 => Sys2Proof.Machine.execMvNext rd rs1 rs2 s
  | .mvTake rd rs1 rs2 => Sys2Proof.Machine.execMvTake rd rs1 rs2 s
  | .mvCopy rd rs1 rs2 => Sys2Proof.Machine.execMvCopy rd rs1 rs2 s
  | .mvFill rd rs1 rs2 => Sys2Proof.Machine.execMvFill rd rs1 rs2 s
  | .mvXfer rd rs1 rs2 => Sys2Proof.Machine.execMvXfer rd rs1 rs2 s
  | .mvGive rd rs1 rs2 => Sys2Proof.Machine.execMvGive rd rs1 rs2 s
  | .mvMbx rd rs1 rs2 => Sys2Proof.Machine.execMvMbx rd rs1 rs2 s
  | .mvStat rd rs1 rs2 => Sys2Proof.Machine.execMvStat rd rs1 rs2 s
  | .matrixCommandComplete shadow => Sys2Proof.Machine.execMatrixCommandComplete shadow s
  | .remoteAccessAnswer ans => Sys2Proof.Machine.execRemoteAccessAnswer ans s
  | .strikeReport zone => Sys2Proof.Machine.execStrikeReport zone s
  | .scrubVisit line => Sys2Proof.Machine.execScrubVisit line s
  | .moduleReset failed => Sys2Proof.Machine.execModuleReset failed s
  | .qnotify vf q val => Sys2Proof.Machine.execQnotify vf q val s
  | .registerWrite pf vf off val => Sys2Proof.Machine.execRegisterWrite pf vf off val s
  | .partCreate buf sig => Sys2Proof.Machine.execPartCreate buf sig s
  | .partPause buf => Sys2Proof.Machine.execPartPause buf s
  | .partResume buf => Sys2Proof.Machine.execPartResume buf s
  | .partEvict buf => Sys2Proof.Machine.execPartEvict buf s
  | .partRestore buf blob => Sys2Proof.Machine.execPartRestore buf blob s
  | .partDestroy buf => Sys2Proof.Machine.execPartDestroy buf s
  | .vfAssign buf => Sys2Proof.Machine.execVfAssign buf s
  | .chanAssign buf => Sys2Proof.Machine.execChanAssign buf s
  | .mapS2 buf => Sys2Proof.Machine.execMapS2 buf s
  | .rateSet buf => Sys2Proof.Machine.execRateSet buf s
  | .report buf => Sys2Proof.Machine.execReport buf s
  | .cert buf => Sys2Proof.Machine.execCert buf s
  | .mgmtRead buf => Sys2Proof.Machine.execMgmtRead buf s
  | .mgmtWrite buf => Sys2Proof.Machine.execMgmtWrite buf s
  | .prqRead buf => Sys2Proof.Machine.execPrqRead buf s
  | .emarkWrite buf => Sys2Proof.Machine.execEmarkWrite buf s
  | .healthWrite buf => Sys2Proof.Machine.execHealthWrite buf s
  | .functionLevelReset vf => Sys2Proof.Machine.execFunctionLevelReset vf s
  | .fabricPacketArrival p => Sys2Proof.Machine.execFabricPacketArrival p s
  | .fabricAcknowledgement id => Sys2Proof.Machine.execFabricAcknowledgement id s
  | .portDown port => Sys2Proof.Machine.execPortDown port s
  | .stewardRv64Instruction len rv => Sys2Proof.Machine.execStewardRv64Instruction len rv s
  | .cxlMemRead vf off len => Sys2Proof.Machine.execCxlMemRead vf off len s
  | .cxlMemWrite vf off bytes => Sys2Proof.Machine.execCxlMemWrite vf off bytes s
  | .keyExchange x => Sys2Proof.Machine.execKeyExchange x s
  | .vendorDefinedRequest session handle vf x => Sys2Proof.Machine.execVendorDefinedRequest session handle vf x s
  | .ideKeyProgramming session vf => Sys2Proof.Machine.execIdeKeyProgramming session vf s
  | .portUp port => Sys2Proof.Machine.execPortUp port s
  | .linkCrcError port vfs => Sys2Proof.Machine.execLinkCrcError port vfs s
  | .powerLoss orderly => Sys2Proof.Machine.execPowerLoss orderly s
  | .stewardWake => Sys2Proof.Machine.execStewardWake s
  | .stewardFault => Sys2Proof.Machine.execStewardFault s
  | .moveBurst => Sys2Proof.Machine.execMoveBurst s
  | .engineOpComplete => Sys2Proof.Machine.execEngineOpComplete s
  | .matrixCommandStart => Sys2Proof.Machine.execMatrixCommandStart s
  | .watchdogExpiry => Sys2Proof.Machine.execWatchdogExpiry s
  | .graceExpiry => Sys2Proof.Machine.execGraceExpiry s
  | .dispatch => Sys2Proof.Machine.execDispatch s
  | .aging => Sys2Proof.Machine.execAging s
  | .heldTask => Sys2Proof.Machine.execHeldTask s
  | .messageArrival => Sys2Proof.Machine.execMessageArrival s
  | .capabilityArrival => Sys2Proof.Machine.execCapabilityArrival s
  | .remoteSpawnArrival => Sys2Proof.Machine.execRemoteSpawnArrival s
  | .poolWaitRelease => Sys2Proof.Machine.execPoolWaitRelease s
  | .counterIncrementArrival => Sys2Proof.Machine.execCounterIncrementArrival s
  | .landingWriteArrival => Sys2Proof.Machine.execLandingWriteArrival s
  | .landingHoldApply => Sys2Proof.Machine.execLandingHoldApply s
  | .memoryAgentOperation => Sys2Proof.Machine.execMemoryAgentOperation s
  | .aoprResultArrival => Sys2Proof.Machine.execAoprResultArrival s
  | .copySlotRequest => Sys2Proof.Machine.execCopySlotRequest s
  | .copySlotGrant => Sys2Proof.Machine.execCopySlotGrant s
  | .copyAnnounce => Sys2Proof.Machine.execCopyAnnounce s
  | .copyDeliveryTimeout => Sys2Proof.Machine.execCopyDeliveryTimeout s
  | .reclaimInvalidation => Sys2Proof.Machine.execReclaimInvalidation s
  | .reclaimComplete => Sys2Proof.Machine.execReclaimComplete s
  | .tlbInvalidation => Sys2Proof.Machine.execTlbInvalidation s
  | .tlbiAcknowledged => Sys2Proof.Machine.execTlbiAcknowledged s
  | .pageRequestEntry => Sys2Proof.Machine.execPageRequestEntry s
  | .conflictProbe => Sys2Proof.Machine.execConflictProbe s
  | .probeAcknowledged => Sys2Proof.Machine.execProbeAcknowledged s
  | .barrierArrival => Sys2Proof.Machine.execBarrierArrival s
  | .barrierParkAcknowledged => Sys2Proof.Machine.execBarrierParkAcknowledged s
  | .completionNotice => Sys2Proof.Machine.execCompletionNotice s
  | .horizonRelease => Sys2Proof.Machine.execHorizonRelease s
  | .healthFlush => Sys2Proof.Machine.execHealthFlush s
  | .queueSlotGrant => Sys2Proof.Machine.execQueueSlotGrant s
  | .notifyStarvation => Sys2Proof.Machine.execNotifyStarvation s
  | .launch => Sys2Proof.Machine.execLaunch s
  | .launchChannelsFree => Sys2Proof.Machine.execLaunchChannelsFree s
  | .registerImage => Sys2Proof.Machine.execRegisterImage s
  | .releaseImage => Sys2Proof.Machine.execReleaseImage s
  | .kernelRetire => Sys2Proof.Machine.execKernelRetire s
  | .completionRecordWrite => Sys2Proof.Machine.execCompletionRecordWrite s
  | .partitionHalted => Sys2Proof.Machine.execPartitionHalted s
  | .bufCreate => Sys2Proof.Machine.execBufCreate s
  | .bufFree => Sys2Proof.Machine.execBufFree s
  | .bufRecover => Sys2Proof.Machine.execBufRecover s
  | .ctRead => Sys2Proof.Machine.execCtRead s
  | .taskList => Sys2Proof.Machine.execTaskList s
  | .biasSet => Sys2Proof.Machine.execBiasSet s
  | .precRead => Sys2Proof.Machine.execPrecRead s
  | .flogSet => Sys2Proof.Machine.execFlogSet s
  | .flogHead => Sys2Proof.Machine.execFlogHead s
  | .xlatSet => Sys2Proof.Machine.execXlatSet s
  | .stwInstall => Sys2Proof.Machine.execStwInstall s
  | .supvRecv => Sys2Proof.Machine.execSupvRecv s
  | .supvEvents => Sys2Proof.Machine.execSupvEvents s
  | .transferTimeout => Sys2Proof.Machine.execTransferTimeout s
  | .packetDeparture => Sys2Proof.Machine.execPacketDeparture s
  | .tokenRedistribute => Sys2Proof.Machine.execTokenRedistribute s
  | .routingFlip => Sys2Proof.Machine.execRoutingFlip s
  | .routingRetire => Sys2Proof.Machine.execRoutingRetire s
  | .chipUnsynchronized => Sys2Proof.Machine.execChipUnsynchronized s
  | .chipResynchronized => Sys2Proof.Machine.execChipResynchronized s
  | .collopenRequest => Sys2Proof.Machine.execCollopenRequest s
  | .contributionArrival => Sys2Proof.Machine.execContributionArrival s
  | .collcloseArrival => Sys2Proof.Machine.execCollcloseArrival s
  | .slotDeadline => Sys2Proof.Machine.execSlotDeadline s
  | .slotExpire => Sys2Proof.Machine.execSlotExpire s
  | .collectiveRecordArrival => Sys2Proof.Machine.execCollectiveRecordArrival s
  | .speculationBudgetLow => Sys2Proof.Machine.execSpeculationBudgetLow s
  | .injectionEntryFree => Sys2Proof.Machine.execInjectionEntryFree s
  | .vectorStreamComplete => Sys2Proof.Machine.execVectorStreamComplete s

end Sys2Proof.Machine
end

