-- ==== Sys2Proof/WellFormed.lean ====
section
/-!
DEFINITION. Which instructions are legal words (R135, R136, R141): the guard, the hint bits, the type code or
count, and the fields that may be zero.
-/

namespace Sys2Proof

/-- R136: a hint bit may be set only where the entry accepts it. -/
def Instr.hintsOk : Instr → Bool
  | .nop h => h.accepts false false false
  | .br h _ => h.accepts false false false
  | .bri h _ => h.accepts false false false
  | .call h _ => h.accepts false false false
  | .ret h => h.accepts false false false
  | .loop h _ _ => h.accepts false false false
  | .endTask h => h.accepts false false true
  | .endc h _ _ _ => h.accepts false false true
  | .trap h _ => h.accepts false false false
  | .brk h _ => h.accepts false false false
  | .gets h _ _ => h.accepts false false false
  | .sets h _ _ => h.accepts false false false
  | .tlbi h _ _ _ => h.accepts false false false
  | .eret h _ => h.accepts false false false
  | .wdog h _ => h.accepts false false false
  | .halt h => h.accepts false false false
  | .add h _ _ _ _ => h.accepts true false false
  | .sub h _ _ _ _ => h.accepts true false false
  | .mul h _ _ _ _ => h.accepts true false false
  | .mulh h _ _ _ _ => h.accepts false false false
  | .div h _ _ _ _ => h.accepts false false false
  | .rem h _ _ _ _ => h.accepts false false false
  | .and h _ _ _ _ => h.accepts false false false
  | .or h _ _ _ _ => h.accepts false false false
  | .xor h _ _ _ _ => h.accepts false false false
  | .andn h _ _ _ _ => h.accepts false false false
  | .shl h _ _ _ _ => h.accepts false false false
  | .shr h _ _ _ _ => h.accepts false false false
  | .sra h _ _ _ _ => h.accepts false false false
  | .rot h _ _ _ _ => h.accepts false false false
  | .min h _ _ _ _ => h.accepts false false false
  | .max h _ _ _ _ => h.accepts false false false
  | .sel h _ _ _ _ => h.accepts false false false
  | .cmpeq h _ _ _ _ => h.accepts false false false
  | .cmpne h _ _ _ _ => h.accepts false false false
  | .cmplt h _ _ _ _ => h.accepts false false false
  | .cmple h _ _ _ _ => h.accepts false false false
  | .cmpltu h _ _ _ _ => h.accepts false false false
  | .cmpleu h _ _ _ _ => h.accepts false false false
  | .li h _ _ => h.accepts false false false
  | .mad h _ _ _ _ => h.accepts true false false
  | .pand h _ _ _ => h.accepts false false false
  | .por h _ _ _ => h.accepts false false false
  | .pxor h _ _ _ => h.accepts false false false
  | .pnot h _ _ => h.accepts false false false
  | .popc h _ _ _ => h.accepts false false false
  | .clz h _ _ _ => h.accepts false false false
  | .ctz h _ _ _ => h.accepts false false false
  | .fns h _ _ _ _ => h.accepts false false false
  | .brev h _ _ _ => h.accepts false false false
  | .bswap h _ _ _ => h.accepts false false false
  | .bext h _ _ _ _ => h.accepts false false false
  | .bexts h _ _ _ _ => h.accepts false false false
  | .bins h _ _ _ _ => h.accepts false false false
  | .pdep h _ _ _ _ => h.accepts false false false
  | .pext h _ _ _ _ => h.accepts false false false
  | .fadd h _ _ _ _ => h.accepts true true false
  | .fsub h _ _ _ _ => h.accepts true true false
  | .fmul h _ _ _ _ => h.accepts true true false
  | .ffma h _ _ _ _ => h.accepts true true false
  | .fdiv h _ _ _ _ => h.accepts true true false
  | .fsqrt h _ _ _ => h.accepts true true false
  | .fmin h _ _ _ _ => h.accepts false false false
  | .fmax h _ _ _ _ => h.accepts false false false
  | .fcmpeq h _ _ _ _ => h.accepts false false false
  | .fcmplt h _ _ _ _ => h.accepts false false false
  | .fcmple h _ _ _ _ => h.accepts false false false
  | .fcmpun h _ _ _ _ => h.accepts false false false
  | .fcvt h _ _ _ _ => h.accepts true true false
  | .fclass h _ _ _ => h.accepts false false false
  | .ld h _ _ _ => h.accepts false false false
  | .st h t _ _ => h.accepts (t.code ≤ 6) false false
  | .vwset h _ _ => h.accepts false false false
  | .vwgetMemory h _ _ => h.accepts false false false
  | .vwgetField h _ _ _ => h.accepts false false false
  | .vwsub h _ _ _ => h.accepts false false false
  | .vwadv h _ _ _ => h.accepts false false false
  | .rbindInstall h _ _ _ => h.accepts false false false
  | .rbindAttach h _ _ => h.accepts false false false
  | .rbindRemove h _ _ => h.accepts false false false
  | .radv h _ _ => h.accepts false false false
  | .rstatFill h _ _ => h.accepts false false false
  | .rstatDescriptor h _ _ => h.accepts false false false
  | .cmovMove h _ _ => h.accepts false false false
  | .cmovPark h _ _ => h.accepts false false false
  | .cmovUnpark h _ _ => h.accepts false false false
  | .csplit h _ _ _ => h.accepts false false false
  | .cjoin h _ _ => h.accepts false false false
  | .cnarrow h _ _ _ => h.accepts false false false
  | .cmerge h _ _ => h.accepts false false false
  | .crights h _ _ _ => h.accepts false false false
  | .cinfo h _ _ _ => h.accepts false false false
  | .cdrop h _ => h.accepts false false false
  | .cseal h _ _ => h.accepts false false false
  | .creclaimRegister h _ => h.accepts false false false
  | .creclaimSlot h _ _ => h.accepts false false false
  | .vadd h t _ _ _ => h.accepts true (t.isFloat || t == .cf32) false
  | .vsub h t _ _ _ => h.accepts true (t.isFloat || t == .cf32) false
  | .vmul h t _ _ _ => h.accepts true (t.isFloat || t == .cf32) false
  | .vfma h t _ _ _ => h.accepts true (t.isFloat) false
  | .vmin h _ _ _ _ => h.accepts true false false
  | .vmax h _ _ _ _ => h.accepts true false false
  | .vabs h t _ _ => h.accepts true (t.isFloat) false
  | .vneg h t _ _ => h.accepts true (t.isFloat) false
  | .vcmul h _ _ _ => h.accepts true true false
  | .vbfly h _ _ _ => h.accepts true true false
  | .vred h _ _ _ b => h.accepts true (b.extractLsb' 0 4 == 0) false
  | .vscan h _ _ _ b => h.accepts true (b.extractLsb' 0 4 == 0) false
  | .vcmp h _ _ _ _ _ => h.accepts false false false
  | .vsel h _ _ _ _ => h.accepts false false false
  | .vcopy h _ _ _ => h.accepts false false false
  | .vfill h _ _ _ => h.accepts true true false
  | .vgather h _ _ _ _ => h.accepts false false false
  | .vscatter h _ _ _ _ => h.accepts false false false
  | .vscale h _ _ _ _ => h.accepts true true false
  | .vquant h t _ _ _ => h.accepts (t != .i8) true false
  | .vand h _ _ _ _ => h.accepts false false false
  | .vor h _ _ _ _ => h.accepts false false false
  | .vxor h _ _ _ _ => h.accepts false false false
  | .vnot h _ _ _ => h.accepts false false false
  | .vshl h _ _ _ _ => h.accepts false false false
  | .vshr h _ _ _ _ => h.accepts false false false
  | .vsra h _ _ _ _ => h.accepts false false false
  | .vpopc h _ _ _ => h.accepts false false false
  | .vclz h _ _ _ => h.accepts false false false
  | .vctz h _ _ _ => h.accepts false false false
  | .vfns h _ _ _ _ => h.accepts false false false
  | .vbrev h _ _ _ => h.accepts false false false
  | .vcvt h _ _ _ _ => h.accepts true true false
  | .vrcp h _ _ _ => h.accepts true false false
  | .vrsq h _ _ _ => h.accepts true false false
  | .vsqrt h _ _ _ => h.accepts true false false
  | .vexp2 h _ _ _ => h.accepts true false false
  | .vlog2 h _ _ _ => h.accepts true false false
  | .vsin h _ _ _ => h.accepts true false false
  | .vcos h _ _ _ => h.accepts true false false
  | .vidx h t _ _ => h.accepts true (t.isFloat) false
  | .vtrans h _ _ _ => h.accepts false false false
  | .mzero h _ => h.accepts false false false
  | .mma h _ _ _ _ => h.accepts true false false
  | .mmat h _ _ _ => h.accepts true false false
  | .mld h _ _ _ => h.accepts false false false
  | .mst h _ _ _ _ => h.accepts true true false
  | .mscale h _ _ _ => h.accepts true false false
  | .mstat h _ _ => h.accepts false false false
  | .msig h _ _ _ => h.accepts false false false
  | .sendq h _ _ _ _ => h.accepts false false false
  | .replyq h _ _ _ _ => h.accepts false false false
  | .sendc h _ _ _ _ => h.accepts false false false
  | .sendr h _ _ => h.accepts false false false
  | .spawn h _ _ _ => h.accepts false false false
  | .spawnr h _ _ _ _ => h.accepts false false false
  | .minc h _ _ _ => h.accepts false false false
  | .mrdCounter h _ _ => h.accepts false false false
  | .mrdLanding h _ _ => h.accepts false false false
  | .mset h _ _ _ => h.accepts false false false
  | .arm h _ _ _ => h.accepts false false false
  | .kick h _ _ => h.accepts false false false
  | .barinit h _ _ _ => h.accepts false false false
  | .barrive h _ _ _ => h.accepts false false false
  | .barend h _ _ _ => h.accepts false false false
  | .clook h _ _ _ => h.accepts false false false
  | .specq h _ => h.accepts false false false
  | .aop h _ _ _ _ => h.accepts false false false
  | .aopr h _ _ _ _ _ => h.accepts false false false
  | .coll h _ _ _ _ => h.accepts false false false
  | .collopen h _ _ _ _ => h.accepts false false false
  | .collclose h _ => h.accepts false false false
  | .mvNext _ _ _ => true
  | .mvTake _ _ _ => true
  | .mvCopy _ _ _ => true
  | .mvFill _ _ _ => true
  | .mvXfer _ _ _ => true
  | .mvGive _ _ _ => true
  | .mvMbx _ _ _ => true
  | .mvStat _ _ _ => true
  | .matrixCommandComplete _ => true
  | .remoteAccessAnswer _ => true
  | .strikeReport _ => true
  | .scrubVisit _ => true
  | .moduleReset _ => true
  | .qnotify _ _ _ => true
  | .registerWrite _ _ _ _ => true
  | .partCreate _ _ => true
  | .partPause _ => true
  | .partResume _ => true
  | .partEvict _ => true
  | .partRestore _ _ => true
  | .partDestroy _ => true
  | .vfAssign _ => true
  | .chanAssign _ => true
  | .mapS2 _ => true
  | .rateSet _ => true
  | .report _ => true
  | .cert _ => true
  | .mgmtRead _ => true
  | .mgmtWrite _ => true
  | .prqRead _ => true
  | .emarkWrite _ => true
  | .healthWrite _ => true
  | .functionLevelReset _ => true
  | .fabricPacketArrival _ => true
  | .fabricAcknowledgement _ => true
  | .portDown _ => true
  | .stewardRv64Instruction _ _ => true
  | .cxlMemRead _ _ _ => true
  | .cxlMemWrite _ _ _ => true
  | .keyExchange _ => true
  | .vendorDefinedRequest _ _ _ _ => true
  | .ideKeyProgramming _ _ => true
  | .portUp _ => true
  | .linkCrcError _ _ => true
  | .powerLoss _ => true
  | .stewardWake => true
  | .stewardFault => true
  | .moveBurst => true
  | .engineOpComplete => true
  | .matrixCommandStart => true
  | .watchdogExpiry => true
  | .graceExpiry => true
  | .dispatch => true
  | .aging => true
  | .heldTask => true
  | .messageArrival => true
  | .capabilityArrival => true
  | .remoteSpawnArrival => true
  | .poolWaitRelease => true
  | .counterIncrementArrival => true
  | .landingWriteArrival => true
  | .landingHoldApply => true
  | .memoryAgentOperation => true
  | .aoprResultArrival => true
  | .copySlotRequest => true
  | .copySlotGrant => true
  | .copyAnnounce => true
  | .copyDeliveryTimeout => true
  | .reclaimInvalidation => true
  | .reclaimComplete => true
  | .tlbInvalidation => true
  | .tlbiAcknowledged => true
  | .pageRequestEntry => true
  | .conflictProbe => true
  | .probeAcknowledged => true
  | .barrierArrival => true
  | .barrierParkAcknowledged => true
  | .completionNotice => true
  | .horizonRelease => true
  | .healthFlush => true
  | .queueSlotGrant => true
  | .notifyStarvation => true
  | .launch => true
  | .launchChannelsFree => true
  | .registerImage => true
  | .releaseImage => true
  | .kernelRetire => true
  | .completionRecordWrite => true
  | .partitionHalted => true
  | .bufCreate => true
  | .bufFree => true
  | .bufRecover => true
  | .ctRead => true
  | .taskList => true
  | .biasSet => true
  | .precRead => true
  | .flogSet => true
  | .flogHead => true
  | .xlatSet => true
  | .stwInstall => true
  | .supvRecv => true
  | .supvEvents => true
  | .transferTimeout => true
  | .packetDeparture => true
  | .tokenRedistribute => true
  | .routingFlip => true
  | .routingRetire => true
  | .chipUnsynchronized => true
  | .chipResynchronized => true
  | .collopenRequest => true
  | .contributionArrival => true
  | .collcloseArrival => true
  | .slotDeadline => true
  | .slotExpire => true
  | .collectiveRecordArrival => true
  | .speculationBudgetLow => true
  | .injectionEntryFree => true
  | .vectorStreamComplete => true

/-- R141: the type code or count is one that the entry accepts. -/
def Instr.typeOk : Instr → Bool
  | .nop _ => true
  | .br _ _ => true
  | .bri _ _ => true
  | .call _ _ => true
  | .ret _ => true
  | .loop _ _ _ => true
  | .endTask _ => true
  | .endc _ _ _ _ => true
  | .trap _ _ => true
  | .brk _ _ => true
  | .gets _ _ _ => true
  | .sets _ _ _ => true
  | .tlbi _ _ _ _ => true
  | .eret _ _ => true
  | .wdog _ _ => true
  | .halt _ => true
  | .add _ t _ _ _ => t.isScalarInt
  | .sub _ t _ _ _ => t.isScalarInt
  | .mul _ t _ _ _ => t.isScalarInt
  | .mulh _ t _ _ _ => t.isScalarInt
  | .div _ t _ _ _ => t.isScalarInt
  | .rem _ t _ _ _ => t.isScalarInt
  | .and _ t _ _ _ => t.isScalarInt
  | .or _ t _ _ _ => t.isScalarInt
  | .xor _ t _ _ _ => t.isScalarInt
  | .andn _ t _ _ _ => t.isScalarInt
  | .shl _ t _ _ _ => t.isScalarInt
  | .shr _ t _ _ _ => t.isScalarInt
  | .sra _ t _ _ _ => t.isScalarInt
  | .rot _ t _ _ _ => t.isScalarInt
  | .min _ t _ _ _ => t.isScalarInt
  | .max _ t _ _ _ => t.isScalarInt
  | .sel _ t _ _ _ => t.isScalarInt
  | .cmpeq _ t _ _ _ => t.isCmpInt
  | .cmpne _ t _ _ _ => t.isCmpInt
  | .cmplt _ t _ _ _ => t.isCmpInt
  | .cmple _ t _ _ _ => t.isCmpInt
  | .cmpltu _ t _ _ _ => t.isCmpInt
  | .cmpleu _ t _ _ _ => t.isCmpInt
  | .li _ _ _ => true
  | .mad _ t _ _ _ => t.isScalarInt
  | .pand _ _ _ _ => true
  | .por _ _ _ _ => true
  | .pxor _ _ _ _ => true
  | .pnot _ _ _ => true
  | .popc _ t _ _ => t.isScalarInt
  | .clz _ t _ _ => t.isScalarInt
  | .ctz _ t _ _ => t.isScalarInt
  | .fns _ t _ _ _ => t.isScalarInt
  | .brev _ t _ _ => t.isScalarInt
  | .bswap _ t _ _ => t.isScalarInt
  | .bext _ t _ _ _ => t.isScalarInt
  | .bexts _ t _ _ _ => t.isScalarInt
  | .bins _ t _ _ _ => t.isScalarInt
  | .pdep _ t _ _ _ => t.isScalarInt
  | .pext _ t _ _ _ => t.isScalarInt
  | .fadd _ t _ _ _ => t.isScalarFloat
  | .fsub _ t _ _ _ => t.isScalarFloat
  | .fmul _ t _ _ _ => t.isScalarFloat
  | .ffma _ t _ _ _ => t.isScalarFloat
  | .fdiv _ t _ _ _ => t.isScalarFloat
  | .fsqrt _ t _ _ => t.isScalarFloat
  | .fmin _ t _ _ _ => t.isScalarFloat
  | .fmax _ t _ _ _ => t.isScalarFloat
  | .fcmpeq _ t _ _ _ => t.isScalarFloat
  | .fcmplt _ t _ _ _ => t.isScalarFloat
  | .fcmple _ t _ _ _ => t.isScalarFloat
  | .fcmpun _ t _ _ _ => t.isScalarFloat
  | .fcvt _ t _ _ _ => t.code ≤ 12 || t == .e8m0
  | .fclass _ t _ _ => t.isScalarFloat
  | .ld _ t _ _ => t != .t5
  | .st _ t _ _ => t != .t5
  | .vwset _ _ _ => true
  | .vwgetMemory _ _ _ => true
  | .vwgetField _ _ _ _ => true
  | .vwsub _ _ _ _ => true
  | .vwadv _ _ _ _ => true
  | .rbindInstall _ _ _ _ => true
  | .rbindAttach _ _ _ => true
  | .rbindRemove _ _ _ => true
  | .radv _ _ _ => true
  | .rstatFill _ _ _ => true
  | .rstatDescriptor _ _ _ => true
  | .cmovMove _ _ _ => true
  | .cmovPark _ _ _ => true
  | .cmovUnpark _ _ _ => true
  | .csplit _ _ _ _ => true
  | .cjoin _ _ _ => true
  | .cnarrow _ _ _ _ => true
  | .cmerge _ _ _ => true
  | .crights _ _ _ _ => true
  | .cinfo _ _ _ _ => true
  | .cdrop _ _ => true
  | .cseal _ _ _ => true
  | .creclaimRegister _ _ => true
  | .creclaimSlot _ _ _ => true
  | .vadd _ t _ _ _ => t.code ≤ 13
  | .vsub _ t _ _ _ => t.code ≤ 13
  | .vmul _ t _ _ _ => t.code ≤ 12
  | .vfma _ t _ _ _ => t.code ≤ 6 || (9 ≤ t.code && t.code ≤ 12)
  | .vmin _ t _ _ _ => t.code ≤ 12
  | .vmax _ t _ _ _ => t.code ≤ 12
  | .vabs _ t _ _ => t.isSignedInt || t.isFloat
  | .vneg _ t _ _ => t.isSignedInt || t.isFloat
  | .vcmul _ _ _ _ => true
  | .vbfly _ _ _ _ => true
  | .vred _ _ _ _ _ => true
  | .vscan _ _ _ _ _ => true
  | .vcmp _ t _ _ _ _ => t.code ≤ 12
  | .vsel _ _ _ _ _ => true
  | .vcopy _ _ _ _ => true
  | .vfill _ _ _ _ => true
  | .vgather _ t _ _ _ => t != .t5
  | .vscatter _ t _ _ _ => t != .t5
  | .vscale _ t _ _ _ => t.isFloat
  | .vquant _ t _ _ _ => t == .i8 || (7 ≤ t.code && t.code ≤ 10)
  | .vand _ t _ _ _ => t.code ≤ 6
  | .vor _ t _ _ _ => t.code ≤ 6
  | .vxor _ t _ _ _ => t.code ≤ 6
  | .vnot _ t _ _ => t.code ≤ 6
  | .vshl _ t _ _ _ => t.code ≤ 6
  | .vshr _ t _ _ _ => t.code ≤ 6
  | .vsra _ t _ _ _ => t.code ≤ 6
  | .vpopc _ t _ _ => t.code ≤ 6
  | .vclz _ t _ _ => t.code ≤ 6
  | .vctz _ t _ _ => t.code ≤ 6
  | .vfns _ t _ _ _ => t.code ≤ 6
  | .vbrev _ t _ _ => t.code ≤ 6
  | .vcvt _ _ _ _ _ => true
  | .vrcp _ t _ _ => t.isSpecialFn || t == .f64
  | .vrsq _ t _ _ => t.isSpecialFn
  | .vsqrt _ t _ _ => t.isSpecialFn || t == .f64
  | .vexp2 _ t _ _ => t.isSpecialFn
  | .vlog2 _ t _ _ => t.isSpecialFn
  | .vsin _ t _ _ => t.isSpecialFn
  | .vcos _ t _ _ => t.isSpecialFn
  | .vidx _ t _ _ => t.code ≤ 12
  | .vtrans _ t _ _ => t.code ≤ 13
  | .mzero _ _ => true
  | .mma _ t _ _ _ => t == .i8 || (7 ≤ t.code && t.code ≤ 11)
  | .mmat _ _ _ _ => true
  | .mld _ t _ _ => t == .i8 || t == .i32 || (7 ≤ t.code && t.code ≤ 11)
  | .mst _ t _ _ _ => t == .i8 || t == .i32 || (7 ≤ t.code && t.code ≤ 11)
  | .mscale _ _ _ _ => true
  | .mstat _ _ _ => true
  | .msig _ _ _ _ => true
  | .sendq _ n _ _ _ => n.toNat ≤ 3
  | .replyq _ n _ _ _ => n.toNat ≤ 3
  | .sendc _ _ _ _ _ => true
  | .sendr _ _ _ => true
  | .spawn _ n _ _ => n.toNat ≤ 4
  | .spawnr _ n _ _ _ => n.toNat ≤ 4
  | .minc _ _ _ _ => true
  | .mrdCounter _ _ _ => true
  | .mrdLanding _ _ _ => true
  | .mset _ n _ _ => n.toNat ≤ 1
  | .arm _ _ _ _ => true
  | .kick _ _ _ => true
  | .barinit _ _ _ _ => true
  | .barrive _ _ _ _ => true
  | .barend _ _ _ _ => true
  | .clook _ _ _ _ => true
  | .specq _ _ => true
  | .aop _ n f _ _ => aopFormatOk n f && n.toNat ≤ 10
  | .aopr _ n f _ _ _ => aopFormatOk n f && n.toNat ≤ 11
  | .coll _ _ _ _ _ => true
  | .collopen _ _ _ _ _ => true
  | .collclose _ _ => true
  | .mvNext _ _ _ => true
  | .mvTake _ _ _ => true
  | .mvCopy _ _ _ => true
  | .mvFill _ _ _ => true
  | .mvXfer _ _ _ => true
  | .mvGive _ _ _ => true
  | .mvMbx _ _ _ => true
  | .mvStat _ _ _ => true
  | .matrixCommandComplete _ => true
  | .remoteAccessAnswer _ => true
  | .strikeReport _ => true
  | .scrubVisit _ => true
  | .moduleReset _ => true
  | .qnotify _ _ _ => true
  | .registerWrite _ _ _ _ => true
  | .partCreate _ _ => true
  | .partPause _ => true
  | .partResume _ => true
  | .partEvict _ => true
  | .partRestore _ _ => true
  | .partDestroy _ => true
  | .vfAssign _ => true
  | .chanAssign _ => true
  | .mapS2 _ => true
  | .rateSet _ => true
  | .report _ => true
  | .cert _ => true
  | .mgmtRead _ => true
  | .mgmtWrite _ => true
  | .prqRead _ => true
  | .emarkWrite _ => true
  | .healthWrite _ => true
  | .functionLevelReset _ => true
  | .fabricPacketArrival _ => true
  | .fabricAcknowledgement _ => true
  | .portDown _ => true
  | .stewardRv64Instruction _ _ => true
  | .cxlMemRead _ _ _ => true
  | .cxlMemWrite _ _ _ => true
  | .keyExchange _ => true
  | .vendorDefinedRequest _ _ _ _ => true
  | .ideKeyProgramming _ _ => true
  | .portUp _ => true
  | .linkCrcError _ _ => true
  | .powerLoss _ => true
  | .stewardWake => true
  | .stewardFault => true
  | .moveBurst => true
  | .engineOpComplete => true
  | .matrixCommandStart => true
  | .watchdogExpiry => true
  | .graceExpiry => true
  | .dispatch => true
  | .aging => true
  | .heldTask => true
  | .messageArrival => true
  | .capabilityArrival => true
  | .remoteSpawnArrival => true
  | .poolWaitRelease => true
  | .counterIncrementArrival => true
  | .landingWriteArrival => true
  | .landingHoldApply => true
  | .memoryAgentOperation => true
  | .aoprResultArrival => true
  | .copySlotRequest => true
  | .copySlotGrant => true
  | .copyAnnounce => true
  | .copyDeliveryTimeout => true
  | .reclaimInvalidation => true
  | .reclaimComplete => true
  | .tlbInvalidation => true
  | .tlbiAcknowledged => true
  | .pageRequestEntry => true
  | .conflictProbe => true
  | .probeAcknowledged => true
  | .barrierArrival => true
  | .barrierParkAcknowledged => true
  | .completionNotice => true
  | .horizonRelease => true
  | .healthFlush => true
  | .queueSlotGrant => true
  | .notifyStarvation => true
  | .launch => true
  | .launchChannelsFree => true
  | .registerImage => true
  | .releaseImage => true
  | .kernelRetire => true
  | .completionRecordWrite => true
  | .partitionHalted => true
  | .bufCreate => true
  | .bufFree => true
  | .bufRecover => true
  | .ctRead => true
  | .taskList => true
  | .biasSet => true
  | .precRead => true
  | .flogSet => true
  | .flogHead => true
  | .xlatSet => true
  | .stwInstall => true
  | .supvRecv => true
  | .supvEvents => true
  | .transferTimeout => true
  | .packetDeparture => true
  | .tokenRedistribute => true
  | .routingFlip => true
  | .routingRetire => true
  | .chipUnsynchronized => true
  | .chipResynchronized => true
  | .collopenRequest => true
  | .contributionArrival => true
  | .collcloseArrival => true
  | .slotDeadline => true
  | .slotExpire => true
  | .collectiveRecordArrival => true
  | .speculationBudgetLow => true
  | .injectionEntryFree => true
  | .vectorStreamComplete => true

/-- R134, R279: a field that is either a register or the zero field never names x0 in the register form. -/
def Instr.fieldsOk : Instr → Bool
  | .nop _ => true
  | .br _ _ => true
  | .bri _ _ => true
  | .call _ _ => true
  | .ret _ => true
  | .loop _ _ _ => true
  | .endTask _ => true
  | .endc _ _ _ _ => true
  | .trap _ _ => true
  | .brk _ _ => true
  | .gets _ _ _ => true
  | .sets _ _ _ => true
  | .tlbi _ _ _ _ => true
  | .eret _ _ => true
  | .wdog _ _ => true
  | .halt _ => true
  | .add _ _ _ _ _ => true
  | .sub _ _ _ _ _ => true
  | .mul _ _ _ _ _ => true
  | .mulh _ _ _ _ _ => true
  | .div _ _ _ _ _ => true
  | .rem _ _ _ _ _ => true
  | .and _ _ _ _ _ => true
  | .or _ _ _ _ _ => true
  | .xor _ _ _ _ _ => true
  | .andn _ _ _ _ _ => true
  | .shl _ _ _ _ _ => true
  | .shr _ _ _ _ _ => true
  | .sra _ _ _ _ _ => true
  | .rot _ _ _ _ _ => true
  | .min _ _ _ _ _ => true
  | .max _ _ _ _ _ => true
  | .sel _ _ _ _ _ => true
  | .cmpeq _ _ _ _ _ => true
  | .cmpne _ _ _ _ _ => true
  | .cmplt _ _ _ _ _ => true
  | .cmple _ _ _ _ _ => true
  | .cmpltu _ _ _ _ _ => true
  | .cmpleu _ _ _ _ _ => true
  | .li _ _ _ => true
  | .mad _ _ _ _ _ => true
  | .pand _ _ _ _ => true
  | .por _ _ _ _ => true
  | .pxor _ _ _ _ => true
  | .pnot _ _ _ => true
  | .popc _ _ _ _ => true
  | .clz _ _ _ _ => true
  | .ctz _ _ _ _ => true
  | .fns _ _ _ _ _ => true
  | .brev _ _ _ _ => true
  | .bswap _ _ _ _ => true
  | .bext _ _ _ _ _ => true
  | .bexts _ _ _ _ _ => true
  | .bins _ _ _ _ _ => true
  | .pdep _ _ _ _ _ => true
  | .pext _ _ _ _ _ => true
  | .fadd _ _ _ _ _ => true
  | .fsub _ _ _ _ _ => true
  | .fmul _ _ _ _ _ => true
  | .ffma _ _ _ _ _ => true
  | .fdiv _ _ _ _ _ => true
  | .fsqrt _ _ _ _ => true
  | .fmin _ _ _ _ _ => true
  | .fmax _ _ _ _ _ => true
  | .fcmpeq _ _ _ _ _ => true
  | .fcmplt _ _ _ _ _ => true
  | .fcmple _ _ _ _ _ => true
  | .fcmpun _ _ _ _ _ => true
  | .fcvt _ _ _ _ _ => true
  | .fclass _ _ _ _ => true
  | .ld _ _ _ _ => true
  | .st _ _ _ _ => true
  | .vwset _ _ _ => true
  | .vwgetMemory _ _ _ => true
  | .vwgetField _ _ _ _ => true
  | .vwsub _ _ _ _ => true
  | .vwadv _ _ _ _ => true
  | .rbindInstall _ _ _ _ => true
  | .rbindAttach _ _ _ => true
  | .rbindRemove _ _ _ => true
  | .radv _ _ _ => true
  | .rstatFill _ _ _ => true
  | .rstatDescriptor _ _ _ => true
  | .cmovMove _ _ _ => true
  | .cmovPark _ _ _ => true
  | .cmovUnpark _ _ _ => true
  | .csplit _ _ _ _ => true
  | .cjoin _ _ _ => true
  | .cnarrow _ _ _ _ => true
  | .cmerge _ _ _ => true
  | .crights _ _ _ _ => true
  | .cinfo _ _ _ _ => true
  | .cdrop _ _ => true
  | .cseal _ _ _ => true
  | .creclaimRegister _ _ => true
  | .creclaimSlot _ _ b => b != .reg 0
  | .vadd _ _ _ _ _ => true
  | .vsub _ _ _ _ _ => true
  | .vmul _ _ _ _ _ => true
  | .vfma _ _ _ _ _ => true
  | .vmin _ _ _ _ _ => true
  | .vmax _ _ _ _ _ => true
  | .vabs _ _ _ _ => true
  | .vneg _ _ _ _ => true
  | .vcmul _ _ _ _ => true
  | .vbfly _ _ _ _ => true
  | .vred _ _ _ _ _ => true
  | .vscan _ _ _ _ _ => true
  | .vcmp _ _ _ _ _ _ => true
  | .vsel _ _ _ _ _ => true
  | .vcopy _ _ _ _ => true
  | .vfill _ _ _ _ => true
  | .vgather _ _ _ _ _ => true
  | .vscatter _ _ _ _ _ => true
  | .vscale _ _ _ _ _ => true
  | .vquant _ _ _ _ _ => true
  | .vand _ _ _ _ _ => true
  | .vor _ _ _ _ _ => true
  | .vxor _ _ _ _ _ => true
  | .vnot _ _ _ _ => true
  | .vshl _ _ _ _ _ => true
  | .vshr _ _ _ _ _ => true
  | .vsra _ _ _ _ _ => true
  | .vpopc _ _ _ _ => true
  | .vclz _ _ _ _ => true
  | .vctz _ _ _ _ => true
  | .vfns _ _ _ _ _ => true
  | .vbrev _ _ _ _ => true
  | .vcvt _ _ _ _ _ => true
  | .vrcp _ _ _ _ => true
  | .vrsq _ _ _ _ => true
  | .vsqrt _ _ _ _ => true
  | .vexp2 _ _ _ _ => true
  | .vlog2 _ _ _ _ => true
  | .vsin _ _ _ _ => true
  | .vcos _ _ _ _ => true
  | .vidx _ _ _ _ => true
  | .vtrans _ _ _ _ => true
  | .mzero _ _ => true
  | .mma _ _ _ _ _ => true
  | .mmat _ _ _ _ => true
  | .mld _ _ _ _ => true
  | .mst _ _ _ _ _ => true
  | .mscale _ _ _ _ => true
  | .mstat _ _ _ => true
  | .msig _ _ _ _ => true
  | .sendq _ _ _ _ _ => true
  | .replyq _ _ _ _ _ => true
  | .sendc _ _ _ _ _ => true
  | .sendr _ _ _ => true
  | .spawn _ _ _ _ => true
  | .spawnr _ _ _ _ _ => true
  | .minc _ _ _ _ => true
  | .mrdCounter _ _ _ => true
  | .mrdLanding _ _ _ => true
  | .mset _ _ _ _ => true
  | .arm _ _ _ _ => true
  | .kick _ _ _ => true
  | .barinit _ _ _ _ => true
  | .barrive _ _ _ _ => true
  | .barend _ _ _ _ => true
  | .clook _ _ _ _ => true
  | .specq _ _ => true
  | .aop _ _ _ _ _ => true
  | .aopr _ _ _ _ _ _ => true
  | .coll _ _ _ _ _ => true
  | .collopen _ _ _ _ _ => true
  | .collclose _ _ => true
  | .mvNext _ _ _ => true
  | .mvTake _ _ _ => true
  | .mvCopy _ _ _ => true
  | .mvFill _ _ _ => true
  | .mvXfer _ _ _ => true
  | .mvGive _ _ _ => true
  | .mvMbx _ _ _ => true
  | .mvStat _ _ _ => true
  | .matrixCommandComplete _ => true
  | .remoteAccessAnswer _ => true
  | .strikeReport _ => true
  | .scrubVisit _ => true
  | .moduleReset _ => true
  | .qnotify _ _ _ => true
  | .registerWrite _ _ _ _ => true
  | .partCreate _ _ => true
  | .partPause _ => true
  | .partResume _ => true
  | .partEvict _ => true
  | .partRestore _ _ => true
  | .partDestroy _ => true
  | .vfAssign _ => true
  | .chanAssign _ => true
  | .mapS2 _ => true
  | .rateSet _ => true
  | .report _ => true
  | .cert _ => true
  | .mgmtRead _ => true
  | .mgmtWrite _ => true
  | .prqRead _ => true
  | .emarkWrite _ => true
  | .healthWrite _ => true
  | .functionLevelReset _ => true
  | .fabricPacketArrival _ => true
  | .fabricAcknowledgement _ => true
  | .portDown _ => true
  | .stewardRv64Instruction _ _ => true
  | .cxlMemRead _ _ _ => true
  | .cxlMemWrite _ _ _ => true
  | .keyExchange _ => true
  | .vendorDefinedRequest _ _ _ _ => true
  | .ideKeyProgramming _ _ => true
  | .portUp _ => true
  | .linkCrcError _ _ => true
  | .powerLoss _ => true
  | .stewardWake => true
  | .stewardFault => true
  | .moveBurst => true
  | .engineOpComplete => true
  | .matrixCommandStart => true
  | .watchdogExpiry => true
  | .graceExpiry => true
  | .dispatch => true
  | .aging => true
  | .heldTask => true
  | .messageArrival => true
  | .capabilityArrival => true
  | .remoteSpawnArrival => true
  | .poolWaitRelease => true
  | .counterIncrementArrival => true
  | .landingWriteArrival => true
  | .landingHoldApply => true
  | .memoryAgentOperation => true
  | .aoprResultArrival => true
  | .copySlotRequest => true
  | .copySlotGrant => true
  | .copyAnnounce => true
  | .copyDeliveryTimeout => true
  | .reclaimInvalidation => true
  | .reclaimComplete => true
  | .tlbInvalidation => true
  | .tlbiAcknowledged => true
  | .pageRequestEntry => true
  | .conflictProbe => true
  | .probeAcknowledged => true
  | .barrierArrival => true
  | .barrierParkAcknowledged => true
  | .completionNotice => true
  | .horizonRelease => true
  | .healthFlush => true
  | .queueSlotGrant => true
  | .notifyStarvation => true
  | .launch => true
  | .launchChannelsFree => true
  | .registerImage => true
  | .releaseImage => true
  | .kernelRetire => true
  | .completionRecordWrite => true
  | .partitionHalted => true
  | .bufCreate => true
  | .bufFree => true
  | .bufRecover => true
  | .ctRead => true
  | .taskList => true
  | .biasSet => true
  | .precRead => true
  | .flogSet => true
  | .flogHead => true
  | .xlatSet => true
  | .stwInstall => true
  | .supvRecv => true
  | .supvEvents => true
  | .transferTimeout => true
  | .packetDeparture => true
  | .tokenRedistribute => true
  | .routingFlip => true
  | .routingRetire => true
  | .chipUnsynchronized => true
  | .chipResynchronized => true
  | .collopenRequest => true
  | .contributionArrival => true
  | .collcloseArrival => true
  | .slotDeadline => true
  | .slotExpire => true
  | .collectiveRecordArrival => true
  | .speculationBudgetLow => true
  | .injectionEntryFree => true
  | .vectorStreamComplete => true

/-- R135: the guard of an instruction (1000 is the illegal guard). Steward instructions and events carry none. -/
def Instr.hint? : Instr → Option Hint
  | .nop h => some h
  | .br h _ => some h
  | .bri h _ => some h
  | .call h _ => some h
  | .ret h => some h
  | .loop h _ _ => some h
  | .endTask h => some h
  | .endc h _ _ _ => some h
  | .trap h _ => some h
  | .brk h _ => some h
  | .gets h _ _ => some h
  | .sets h _ _ => some h
  | .tlbi h _ _ _ => some h
  | .eret h _ => some h
  | .wdog h _ => some h
  | .halt h => some h
  | .add h _ _ _ _ => some h
  | .sub h _ _ _ _ => some h
  | .mul h _ _ _ _ => some h
  | .mulh h _ _ _ _ => some h
  | .div h _ _ _ _ => some h
  | .rem h _ _ _ _ => some h
  | .and h _ _ _ _ => some h
  | .or h _ _ _ _ => some h
  | .xor h _ _ _ _ => some h
  | .andn h _ _ _ _ => some h
  | .shl h _ _ _ _ => some h
  | .shr h _ _ _ _ => some h
  | .sra h _ _ _ _ => some h
  | .rot h _ _ _ _ => some h
  | .min h _ _ _ _ => some h
  | .max h _ _ _ _ => some h
  | .sel h _ _ _ _ => some h
  | .cmpeq h _ _ _ _ => some h
  | .cmpne h _ _ _ _ => some h
  | .cmplt h _ _ _ _ => some h
  | .cmple h _ _ _ _ => some h
  | .cmpltu h _ _ _ _ => some h
  | .cmpleu h _ _ _ _ => some h
  | .li h _ _ => some h
  | .mad h _ _ _ _ => some h
  | .pand h _ _ _ => some h
  | .por h _ _ _ => some h
  | .pxor h _ _ _ => some h
  | .pnot h _ _ => some h
  | .popc h _ _ _ => some h
  | .clz h _ _ _ => some h
  | .ctz h _ _ _ => some h
  | .fns h _ _ _ _ => some h
  | .brev h _ _ _ => some h
  | .bswap h _ _ _ => some h
  | .bext h _ _ _ _ => some h
  | .bexts h _ _ _ _ => some h
  | .bins h _ _ _ _ => some h
  | .pdep h _ _ _ _ => some h
  | .pext h _ _ _ _ => some h
  | .fadd h _ _ _ _ => some h
  | .fsub h _ _ _ _ => some h
  | .fmul h _ _ _ _ => some h
  | .ffma h _ _ _ _ => some h
  | .fdiv h _ _ _ _ => some h
  | .fsqrt h _ _ _ => some h
  | .fmin h _ _ _ _ => some h
  | .fmax h _ _ _ _ => some h
  | .fcmpeq h _ _ _ _ => some h
  | .fcmplt h _ _ _ _ => some h
  | .fcmple h _ _ _ _ => some h
  | .fcmpun h _ _ _ _ => some h
  | .fcvt h _ _ _ _ => some h
  | .fclass h _ _ _ => some h
  | .ld h _ _ _ => some h
  | .st h _ _ _ => some h
  | .vwset h _ _ => some h
  | .vwgetMemory h _ _ => some h
  | .vwgetField h _ _ _ => some h
  | .vwsub h _ _ _ => some h
  | .vwadv h _ _ _ => some h
  | .rbindInstall h _ _ _ => some h
  | .rbindAttach h _ _ => some h
  | .rbindRemove h _ _ => some h
  | .radv h _ _ => some h
  | .rstatFill h _ _ => some h
  | .rstatDescriptor h _ _ => some h
  | .cmovMove h _ _ => some h
  | .cmovPark h _ _ => some h
  | .cmovUnpark h _ _ => some h
  | .csplit h _ _ _ => some h
  | .cjoin h _ _ => some h
  | .cnarrow h _ _ _ => some h
  | .cmerge h _ _ => some h
  | .crights h _ _ _ => some h
  | .cinfo h _ _ _ => some h
  | .cdrop h _ => some h
  | .cseal h _ _ => some h
  | .creclaimRegister h _ => some h
  | .creclaimSlot h _ _ => some h
  | .vadd h _ _ _ _ => some h
  | .vsub h _ _ _ _ => some h
  | .vmul h _ _ _ _ => some h
  | .vfma h _ _ _ _ => some h
  | .vmin h _ _ _ _ => some h
  | .vmax h _ _ _ _ => some h
  | .vabs h _ _ _ => some h
  | .vneg h _ _ _ => some h
  | .vcmul h _ _ _ => some h
  | .vbfly h _ _ _ => some h
  | .vred h _ _ _ _ => some h
  | .vscan h _ _ _ _ => some h
  | .vcmp h _ _ _ _ _ => some h
  | .vsel h _ _ _ _ => some h
  | .vcopy h _ _ _ => some h
  | .vfill h _ _ _ => some h
  | .vgather h _ _ _ _ => some h
  | .vscatter h _ _ _ _ => some h
  | .vscale h _ _ _ _ => some h
  | .vquant h _ _ _ _ => some h
  | .vand h _ _ _ _ => some h
  | .vor h _ _ _ _ => some h
  | .vxor h _ _ _ _ => some h
  | .vnot h _ _ _ => some h
  | .vshl h _ _ _ _ => some h
  | .vshr h _ _ _ _ => some h
  | .vsra h _ _ _ _ => some h
  | .vpopc h _ _ _ => some h
  | .vclz h _ _ _ => some h
  | .vctz h _ _ _ => some h
  | .vfns h _ _ _ _ => some h
  | .vbrev h _ _ _ => some h
  | .vcvt h _ _ _ _ => some h
  | .vrcp h _ _ _ => some h
  | .vrsq h _ _ _ => some h
  | .vsqrt h _ _ _ => some h
  | .vexp2 h _ _ _ => some h
  | .vlog2 h _ _ _ => some h
  | .vsin h _ _ _ => some h
  | .vcos h _ _ _ => some h
  | .vidx h _ _ _ => some h
  | .vtrans h _ _ _ => some h
  | .mzero h _ => some h
  | .mma h _ _ _ _ => some h
  | .mmat h _ _ _ => some h
  | .mld h _ _ _ => some h
  | .mst h _ _ _ _ => some h
  | .mscale h _ _ _ => some h
  | .mstat h _ _ => some h
  | .msig h _ _ _ => some h
  | .sendq h _ _ _ _ => some h
  | .replyq h _ _ _ _ => some h
  | .sendc h _ _ _ _ => some h
  | .sendr h _ _ => some h
  | .spawn h _ _ _ => some h
  | .spawnr h _ _ _ _ => some h
  | .minc h _ _ _ => some h
  | .mrdCounter h _ _ => some h
  | .mrdLanding h _ _ => some h
  | .mset h _ _ _ => some h
  | .arm h _ _ _ => some h
  | .kick h _ _ => some h
  | .barinit h _ _ _ => some h
  | .barrive h _ _ _ => some h
  | .barend h _ _ _ => some h
  | .clook h _ _ _ => some h
  | .specq h _ => some h
  | .aop h _ _ _ _ => some h
  | .aopr h _ _ _ _ _ => some h
  | .coll h _ _ _ _ => some h
  | .collopen h _ _ _ _ => some h
  | .collclose h _ => some h
  | .mvNext _ _ _ => none
  | .mvTake _ _ _ => none
  | .mvCopy _ _ _ => none
  | .mvFill _ _ _ => none
  | .mvXfer _ _ _ => none
  | .mvGive _ _ _ => none
  | .mvMbx _ _ _ => none
  | .mvStat _ _ _ => none
  | .matrixCommandComplete _ => none
  | .remoteAccessAnswer _ => none
  | .strikeReport _ => none
  | .scrubVisit _ => none
  | .moduleReset _ => none
  | .qnotify _ _ _ => none
  | .registerWrite _ _ _ _ => none
  | .partCreate _ _ => none
  | .partPause _ => none
  | .partResume _ => none
  | .partEvict _ => none
  | .partRestore _ _ => none
  | .partDestroy _ => none
  | .vfAssign _ => none
  | .chanAssign _ => none
  | .mapS2 _ => none
  | .rateSet _ => none
  | .report _ => none
  | .cert _ => none
  | .mgmtRead _ => none
  | .mgmtWrite _ => none
  | .prqRead _ => none
  | .emarkWrite _ => none
  | .healthWrite _ => none
  | .functionLevelReset _ => none
  | .fabricPacketArrival _ => none
  | .fabricAcknowledgement _ => none
  | .portDown _ => none
  | .stewardRv64Instruction _ _ => none
  | .cxlMemRead _ _ _ => none
  | .cxlMemWrite _ _ _ => none
  | .keyExchange _ => none
  | .vendorDefinedRequest _ _ _ _ => none
  | .ideKeyProgramming _ _ => none
  | .portUp _ => none
  | .linkCrcError _ _ => none
  | .powerLoss _ => none
  | .stewardWake => none
  | .stewardFault => none
  | .moveBurst => none
  | .engineOpComplete => none
  | .matrixCommandStart => none
  | .watchdogExpiry => none
  | .graceExpiry => none
  | .dispatch => none
  | .aging => none
  | .heldTask => none
  | .messageArrival => none
  | .capabilityArrival => none
  | .remoteSpawnArrival => none
  | .poolWaitRelease => none
  | .counterIncrementArrival => none
  | .landingWriteArrival => none
  | .landingHoldApply => none
  | .memoryAgentOperation => none
  | .aoprResultArrival => none
  | .copySlotRequest => none
  | .copySlotGrant => none
  | .copyAnnounce => none
  | .copyDeliveryTimeout => none
  | .reclaimInvalidation => none
  | .reclaimComplete => none
  | .tlbInvalidation => none
  | .tlbiAcknowledged => none
  | .pageRequestEntry => none
  | .conflictProbe => none
  | .probeAcknowledged => none
  | .barrierArrival => none
  | .barrierParkAcknowledged => none
  | .completionNotice => none
  | .horizonRelease => none
  | .healthFlush => none
  | .queueSlotGrant => none
  | .notifyStarvation => none
  | .launch => none
  | .launchChannelsFree => none
  | .registerImage => none
  | .releaseImage => none
  | .kernelRetire => none
  | .completionRecordWrite => none
  | .partitionHalted => none
  | .bufCreate => none
  | .bufFree => none
  | .bufRecover => none
  | .ctRead => none
  | .taskList => none
  | .biasSet => none
  | .precRead => none
  | .flogSet => none
  | .flogHead => none
  | .xlatSet => none
  | .stwInstall => none
  | .supvRecv => none
  | .supvEvents => none
  | .transferTimeout => none
  | .packetDeparture => none
  | .tokenRedistribute => none
  | .routingFlip => none
  | .routingRetire => none
  | .chipUnsynchronized => none
  | .chipResynchronized => none
  | .collopenRequest => none
  | .contributionArrival => none
  | .collcloseArrival => none
  | .slotDeadline => none
  | .slotExpire => none
  | .collectiveRecordArrival => none
  | .speculationBudgetLow => none
  | .injectionEntryFree => none
  | .vectorStreamComplete => none

/-- R135: G = 1000 is illegal. -/
def Instr.guardOk (i : Instr) : Bool :=
  match i.hint? with
  | some h => h.g != 8
  | none => true

/-- R141: the instruction is one that a legal word stands for. -/
def Instr.wellFormed (i : Instr) : Bool := i.guardOk && i.hintsOk && i.typeOk && i.fieldsOk

end Sys2Proof
end

