-- ==== Sys2Proof/Decode.lean ====
section
/-!
DEFINITION. From bits to instructions (R131 to R143) and back. `decode` reads a 96-bit Tchina word, `decodeSteward`
a steward word, and `encode` gives the word of an instruction from the same tables.
-/

namespace Sys2Proof

/-- Why a word is illegal (R141). -/
inductive Illegal where
  /-- the OPC is unassigned, or a field has a kind that no form of the entry accepts -/
  | form
  /-- G = 1000 -/
  | guard
  /-- a hint bit breaks R136 -/
  | hint
  /-- T holds a code or count that the entry does not accept -/
  | type
deriving DecidableEq, Repr

/-- The raw fields of a word (Table 7.1): OPC, T, G, bits [77:72], D, A and B. -/
structure Raw where
  opc : Nat
  t : Nat
  g : Nat
  h : Nat
  d : Nat
  a : Nat
  b : Nat
deriving DecidableEq, Repr

/-- The fields of a 96-bit word (R131). -/
def Raw.ofWord (w : Nat) : Raw :=
  ⟨field w 86 10, field w 82 4, field w 78 4, field w 72 6, field w 48 24, field w 24 24, field w 0 24⟩

/-- The 96-bit word of its fields (R131). -/
def Raw.word (r : Raw) : Nat :=
  r.b + 2 ^ 24 * (r.a + 2 ^ 24 * (r.d + 2 ^ 24 * (r.h + 2 ^ 6 * (r.g + 2 ^ 4 * (r.t + 2 ^ 4 * r.opc)))))

/-- The hint bits of a word that accepts them in place. -/
def Raw.hint (r : Raw) : Hint :=
  ⟨BitVec.ofNat 4 r.g, r.h / 32 % 2 == 1, BitVec.ofNat 2 (r.h / 8), r.h / 4 % 2 == 1, BitVec.ofNat 2 r.h⟩

/-- The hint bits of a word whose bits [77:75] hold something else (R136, R218, R338). -/
def Raw.hintGuard (r : Raw) : Hint :=
  ⟨BitVec.ofNat 4 r.g, false, 0, r.h / 4 % 2 == 1, BitVec.ofNat 2 r.h⟩

/-! Operand fields (Table 7.2): the kind stands in bits [23:21], unused bits are zero. -/

/-- REG. -/
def encReg (r : Reg) : Nat := r.toNat
/-- REG: kind 000, bits [20:5] zero. -/
def decReg (f : Nat) : Option Reg := if f < 32 then some (BitVec.ofNat 5 f) else none
/-- RING. -/
def encRing (r : RingOp) : Nat := 2 ^ 21 + r.count.toNat * 8 + r.h.toNat
/-- RING: kind 001, bits [20:11] zero. -/
def decRing (f : Nat) : Option RingOp :=
  if f / 2 ^ 11 = 2 ^ 10 then some ⟨BitVec.ofNat 8 (f / 8), BitVec.ofNat 3 f⟩ else none
/-- IMM. -/
def encImm (v : Imm) : Nat := 3 * 2 ^ 21 + v.toNat
/-- IMM: kind 011. -/
def decImm (f : Nat) : Option Imm := if f / 2 ^ 21 = 3 then some (BitVec.ofNat 21 f) else none
/-- VIEW. -/
def encView (v : Vreg) : Nat := 4 * 2 ^ 21 + v.toNat
/-- VIEW: kind 100, bits [20:3] zero. -/
def decView (f : Nat) : Option Vreg := if f / 8 = 2 ^ 20 then some (BitVec.ofNat 3 f) else none
/-- CAP. -/
def encCap (c : CapOp) : Nat := 5 * 2 ^ 21 + c.off.toNat * 2 ^ 9 + c.idx.toNat * 2 ^ 4 + c.c.toNat
/-- CAP: kind 101. -/
def decCap (f : Nat) : Option CapOp :=
  if f / 2 ^ 21 = 5 then some ⟨BitVec.ofNat 12 (f / 2 ^ 9), BitVec.ofNat 5 (f / 2 ^ 4), BitVec.ofNat 4 f⟩ else none
/-- PRED. -/
def encPred (p : Preg) : Nat := 6 * 2 ^ 21 + p.toNat
/-- PRED: kind 110, bits [20:3] zero. -/
def decPred (f : Nat) : Option Preg := if f / 8 = 3 * 2 ^ 19 then some (BitVec.ofNat 3 f) else none
/-- SPECIAL of a register of Table 7.4 that GETS and SETS accept. -/
def encSReg (s : SReg) : Nat := 7 * 2 ^ 21 + s.code
/-- SPECIAL: kind 111, bits [20:8] zero, a number of Table 7.4. -/
def decSReg (f : Nat) : Option SReg := if f / 2 ^ 8 = 7 * 2 ^ 13 then SReg.ofCode (f % 2 ^ 8) else none
/-- SPECIAL of a landing register, numbers 0xC0 to 0xDF. -/
def encLand (y : Yreg) : Nat := 7 * 2 ^ 21 + 0xC0 + y.toNat
/-- SPECIAL of a landing register. -/
def decLand (f : Nat) : Option Yreg := if f / 32 = 7 * 2 ^ 16 + 6 then some (BitVec.ofNat 5 f) else none
/-- SPECIAL of an accumulator name, numbers 0xE0 to 0xE3. -/
def encAcc (m : Mreg) : Nat := 7 * 2 ^ 21 + 0xE0 + m.toNat
/-- SPECIAL of an accumulator name. -/
def decAcc (f : Nat) : Option Mreg := if f / 4 = 7 * 2 ^ 19 + 56 then some (BitVec.ofNat 2 f) else none
/-- REMOTE. -/
def encRemote (x : Reg) (n : Yreg) : Nat := 2 * 2 ^ 21 + x.toNat * 2 ^ 5 + n.toNat
/-- REMOTE: kind 010, bits [20:10] zero. -/
def decRemote (f : Nat) : Option (Reg × Yreg) :=
  if f / 2 ^ 10 = 2 ^ 12 then some (BitVec.ofNat 5 (f / 32), BitVec.ofNat 5 f) else none

/-- REG or IMM. -/
def encRegImm : RegImm → Nat
  | .reg r => encReg r
  | .imm v => encImm v
/-- REG or IMM. -/
def decRegImm (f : Nat) : Option RegImm := (decReg f).map .reg <|> (decImm f).map .imm
/-- VIEW, REG or IMM. -/
def encSrc : Src → Nat
  | .view v => encView v
  | .reg r => encReg r
  | .imm v => encImm v
/-- VIEW, REG or IMM. -/
def decSrc (f : Nat) : Option Src := (decView f).map .view <|> (decReg f).map .reg <|> (decImm f).map .imm
/-- VIEW or REG. -/
def encViewReg : ViewReg → Nat
  | .view v => encView v
  | .reg r => encReg r
/-- VIEW or REG. -/
def decViewReg (f : Nat) : Option ViewReg := (decView f).map .view <|> (decReg f).map .reg
/-- CAP or IMM. -/
def encCapImm : CapImm → Nat
  | .cap c => encCap c
  | .imm v => encImm v
/-- CAP or IMM. -/
def decCapImm (f : Nat) : Option CapImm := (decCap f).map .cap <|> (decImm f).map .imm
/-- CAP or the zero field. -/
def encOptCap : Option CapOp → Nat
  | some c => encCap c
  | none => 0
/-- CAP or the zero field. -/
def decOptCap (f : Nat) : Option (Option CapOp) := if f = 0 then some none else (decCap f).map some
/-- IMM or the zero field. -/
def encOptImm : Option Imm → Nat
  | some v => encImm v
  | none => 0
/-- IMM or the zero field. -/
def decOptImm (f : Nat) : Option (Option Imm) := if f = 0 then some none else (decImm f).map some
/-- REMOTE, or SPECIAL y. -/
def encLandDest : LandDest → Nat
  | .remote x n => encRemote x n
  | .land n => encLand n
/-- REMOTE, or SPECIAL y. -/
def decLandDest (f : Nat) : Option LandDest :=
  (decRemote f).map (fun p => .remote p.1 p.2) <|> (decLand f).map .land
/-- REMOTE, SPECIAL y, or RING. -/
def encCollDest : CollDest → Nat
  | .remote x n => encRemote x n
  | .land n => encLand n
  | .ring r => encRing r
/-- REMOTE, SPECIAL y, or RING. -/
def decCollDest (f : Nat) : Option CollDest :=
  (decRemote f).map (fun p => .remote p.1 p.2) <|> (decLand f).map .land <|> (decRing f).map .ring
/-- R136: SENDC's policy stands in bits [77:76] and bit [75] is zero. -/
def decPolicy (c : Nat) : Option Policy :=
  match c with
  | 0 => some .auto
  | 2 => some .xfer
  | 4 => some .copy
  | _ => none

/-- Operations of class 0x0 (R140, Table 7.5): the fields of a word, each in a kind that its entry accepts (R133, R134). -/
def decodeClass0 (op : Nat) (r : Raw) : Option Instr :=
  match op with
  | 0 => do
      if r.t = 0 ∧ r.d = 0 ∧ r.a = 0 ∧ r.b = 0 then some (.nop r.hint) else none
  | 1 => do
      let b ← decImm r.b
      if r.t = 0 ∧ r.d = 0 ∧ r.a = 0 then some (.br r.hint b) else none
  | 2 => do
      let a ← decReg r.a
      if r.t = 0 ∧ r.d = 0 ∧ r.b = 0 then some (.bri r.hint a) else none
  | 3 => do
      let b ← decRegImm r.b
      if r.t = 0 ∧ r.d = 0 ∧ r.a = 0 then some (.call r.hint b) else none
  | 4 => do
      if r.t = 0 ∧ r.d = 0 ∧ r.a = 0 ∧ r.b = 0 then some (.ret r.hint) else none
  | 5 => do
      let a ← decReg r.a
      let b ← decImm r.b
      if r.t = 0 ∧ r.d = 0 then some (.loop r.hint a b) else none
  | 6 => do
      if r.t = 0 ∧ r.d = 0 ∧ r.a = 0 ∧ r.b = 0 then some (.endTask r.hint) else none
  | 7 => do
      let d ← decImm r.d
      let a ← decReg r.a
      let b ← decRegImm r.b
      if r.t = 0 then some (.endc r.hint d a b) else none
  | 8 => do
      let b ← decImm r.b
      if r.t = 0 ∧ r.d = 0 ∧ r.a = 0 then some (.trap r.hint b) else none
  | 9 => do
      let b ← decImm r.b
      if r.t = 0 ∧ r.d = 0 ∧ r.a = 0 then some (.brk r.hint b) else none
  | 10 => do
      let d ← decReg r.d
      let a ← decSReg r.a
      if r.t = 0 ∧ r.b = 0 then some (.gets r.hint d a) else none
  | 11 => do
      let d ← decSReg r.d
      let a ← decRegImm r.a
      if r.t = 0 ∧ r.b = 0 then some (.sets r.hint d a) else none
  | 12 => do
      let d ← decReg r.d
      let a ← decReg r.a
      let b ← decReg r.b
      if r.t = 0 then some (.tlbi r.hint d a b) else none
  | 13 => do
      let b ← decImm r.b
      if r.t = 0 ∧ r.d = 0 ∧ r.a = 0 then some (.eret r.hint b) else none
  | 14 => do
      let b ← decRegImm r.b
      if r.t = 0 ∧ r.d = 0 ∧ r.a = 0 then some (.wdog r.hint b) else none
  | 15 => do
      if r.t = 0 ∧ r.d = 0 ∧ r.a = 0 ∧ r.b = 0 then some (.halt r.hint) else none
  | _ => none

/-- Operations of class 0x1 (R140, Table 7.5): the fields of a word, each in a kind that its entry accepts (R133, R134). -/
def decodeClass1 (op : Nat) (r : Raw) : Option Instr :=
  match op with
  | 0 => do
      let d ← decReg r.d
      let a ← decReg r.a
      let b ← decRegImm r.b
      some (.add r.hint (Ty.ofCode r.t) d a b)
  | 1 => do
      let d ← decReg r.d
      let a ← decReg r.a
      let b ← decRegImm r.b
      some (.sub r.hint (Ty.ofCode r.t) d a b)
  | 2 => do
      let d ← decReg r.d
      let a ← decReg r.a
      let b ← decRegImm r.b
      some (.mul r.hint (Ty.ofCode r.t) d a b)
  | 3 => do
      let d ← decReg r.d
      let a ← decReg r.a
      let b ← decRegImm r.b
      some (.mulh r.hint (Ty.ofCode r.t) d a b)
  | 4 => do
      let d ← decReg r.d
      let a ← decReg r.a
      let b ← decRegImm r.b
      some (.div r.hint (Ty.ofCode r.t) d a b)
  | 5 => do
      let d ← decReg r.d
      let a ← decReg r.a
      let b ← decRegImm r.b
      some (.rem r.hint (Ty.ofCode r.t) d a b)
  | 6 => do
      let d ← decReg r.d
      let a ← decReg r.a
      let b ← decRegImm r.b
      some (.and r.hint (Ty.ofCode r.t) d a b)
  | 7 => do
      let d ← decReg r.d
      let a ← decReg r.a
      let b ← decRegImm r.b
      some (.or r.hint (Ty.ofCode r.t) d a b)
  | 8 => do
      let d ← decReg r.d
      let a ← decReg r.a
      let b ← decRegImm r.b
      some (.xor r.hint (Ty.ofCode r.t) d a b)
  | 9 => do
      let d ← decReg r.d
      let a ← decReg r.a
      let b ← decRegImm r.b
      some (.andn r.hint (Ty.ofCode r.t) d a b)
  | 10 => do
      let d ← decReg r.d
      let a ← decReg r.a
      let b ← decRegImm r.b
      some (.shl r.hint (Ty.ofCode r.t) d a b)
  | 11 => do
      let d ← decReg r.d
      let a ← decReg r.a
      let b ← decRegImm r.b
      some (.shr r.hint (Ty.ofCode r.t) d a b)
  | 12 => do
      let d ← decReg r.d
      let a ← decReg r.a
      let b ← decRegImm r.b
      some (.sra r.hint (Ty.ofCode r.t) d a b)
  | 13 => do
      let d ← decReg r.d
      let a ← decReg r.a
      let b ← decRegImm r.b
      some (.rot r.hint (Ty.ofCode r.t) d a b)
  | 14 => do
      let d ← decReg r.d
      let a ← decReg r.a
      let b ← decRegImm r.b
      some (.min r.hint (Ty.ofCode r.t) d a b)
  | 15 => do
      let d ← decReg r.d
      let a ← decReg r.a
      let b ← decRegImm r.b
      some (.max r.hint (Ty.ofCode r.t) d a b)
  | 16 => do
      let d ← decReg r.d
      let a ← decReg r.a
      let b ← decRegImm r.b
      some (.sel r.hint (Ty.ofCode r.t) d a b)
  | 17 => do
      let d ← decPred r.d
      let a ← decReg r.a
      let b ← decRegImm r.b
      some (.cmpeq r.hint (Ty.ofCode r.t) d a b)
  | 18 => do
      let d ← decPred r.d
      let a ← decReg r.a
      let b ← decRegImm r.b
      some (.cmpne r.hint (Ty.ofCode r.t) d a b)
  | 19 => do
      let d ← decPred r.d
      let a ← decReg r.a
      let b ← decRegImm r.b
      some (.cmplt r.hint (Ty.ofCode r.t) d a b)
  | 20 => do
      let d ← decPred r.d
      let a ← decReg r.a
      let b ← decRegImm r.b
      some (.cmple r.hint (Ty.ofCode r.t) d a b)
  | 21 => do
      let d ← decPred r.d
      let a ← decReg r.a
      let b ← decRegImm r.b
      some (.cmpltu r.hint (Ty.ofCode r.t) d a b)
  | 22 => do
      let d ← decPred r.d
      let a ← decReg r.a
      let b ← decRegImm r.b
      some (.cmpleu r.hint (Ty.ofCode r.t) d a b)
  | 23 => do
      let d ← decReg r.d
      if r.t = 0 then some (.li r.hint d (BitVec.ofNat 48 (r.a * 2 ^ 24 + r.b))) else none
  | 24 => do
      let d ← decReg r.d
      let a ← decReg r.a
      let b ← decRegImm r.b
      some (.mad r.hint (Ty.ofCode r.t) d a b)
  | 25 => do
      let d ← decPred r.d
      let a ← decPred r.a
      let b ← decPred r.b
      if r.t = 0 then some (.pand r.hint d a b) else none
  | 26 => do
      let d ← decPred r.d
      let a ← decPred r.a
      let b ← decPred r.b
      if r.t = 0 then some (.por r.hint d a b) else none
  | 27 => do
      let d ← decPred r.d
      let a ← decPred r.a
      let b ← decPred r.b
      if r.t = 0 then some (.pxor r.hint d a b) else none
  | 28 => do
      let d ← decPred r.d
      let a ← decPred r.a
      if r.t = 0 ∧ r.b = 0 then some (.pnot r.hint d a) else none
  | _ => none

/-- Operations of class 0x2 (R140, Table 7.5): the fields of a word, each in a kind that its entry accepts (R133, R134). -/
def decodeClass2 (op : Nat) (r : Raw) : Option Instr :=
  match op with
  | 0 => do
      let d ← decReg r.d
      let a ← decReg r.a
      if r.b = 0 then some (.popc r.hint (Ty.ofCode r.t) d a) else none
  | 1 => do
      let d ← decReg r.d
      let a ← decReg r.a
      if r.b = 0 then some (.clz r.hint (Ty.ofCode r.t) d a) else none
  | 2 => do
      let d ← decReg r.d
      let a ← decReg r.a
      if r.b = 0 then some (.ctz r.hint (Ty.ofCode r.t) d a) else none
  | 3 => do
      let d ← decReg r.d
      let a ← decReg r.a
      let b ← decRegImm r.b
      some (.fns r.hint (Ty.ofCode r.t) d a b)
  | 4 => do
      let d ← decReg r.d
      let a ← decReg r.a
      if r.b = 0 then some (.brev r.hint (Ty.ofCode r.t) d a) else none
  | 5 => do
      let d ← decReg r.d
      let a ← decReg r.a
      if r.b = 0 then some (.bswap r.hint (Ty.ofCode r.t) d a) else none
  | 6 => do
      let d ← decReg r.d
      let a ← decReg r.a
      let b ← decRegImm r.b
      some (.bext r.hint (Ty.ofCode r.t) d a b)
  | 7 => do
      let d ← decReg r.d
      let a ← decReg r.a
      let b ← decRegImm r.b
      some (.bexts r.hint (Ty.ofCode r.t) d a b)
  | 8 => do
      let d ← decReg r.d
      let a ← decReg r.a
      let b ← decRegImm r.b
      some (.bins r.hint (Ty.ofCode r.t) d a b)
  | 9 => do
      let d ← decReg r.d
      let a ← decReg r.a
      let b ← decReg r.b
      some (.pdep r.hint (Ty.ofCode r.t) d a b)
  | 10 => do
      let d ← decReg r.d
      let a ← decReg r.a
      let b ← decReg r.b
      some (.pext r.hint (Ty.ofCode r.t) d a b)
  | _ => none

/-- Operations of class 0x3 (R140, Table 7.5): the fields of a word, each in a kind that its entry accepts (R133, R134). -/
def decodeClass3 (op : Nat) (r : Raw) : Option Instr :=
  match op with
  | 0 => do
      let d ← decReg r.d
      let a ← decReg r.a
      let b ← decReg r.b
      some (.fadd r.hint (Ty.ofCode r.t) d a b)
  | 1 => do
      let d ← decReg r.d
      let a ← decReg r.a
      let b ← decReg r.b
      some (.fsub r.hint (Ty.ofCode r.t) d a b)
  | 2 => do
      let d ← decReg r.d
      let a ← decReg r.a
      let b ← decReg r.b
      some (.fmul r.hint (Ty.ofCode r.t) d a b)
  | 3 => do
      let d ← decReg r.d
      let a ← decReg r.a
      let b ← decReg r.b
      some (.ffma r.hint (Ty.ofCode r.t) d a b)
  | 4 => do
      let d ← decReg r.d
      let a ← decReg r.a
      let b ← decReg r.b
      some (.fdiv r.hint (Ty.ofCode r.t) d a b)
  | 5 => do
      let d ← decReg r.d
      let a ← decReg r.a
      if r.b = 0 then some (.fsqrt r.hint (Ty.ofCode r.t) d a) else none
  | 6 => do
      let d ← decReg r.d
      let a ← decReg r.a
      let b ← decReg r.b
      some (.fmin r.hint (Ty.ofCode r.t) d a b)
  | 7 => do
      let d ← decReg r.d
      let a ← decReg r.a
      let b ← decReg r.b
      some (.fmax r.hint (Ty.ofCode r.t) d a b)
  | 8 => do
      let d ← decPred r.d
      let a ← decReg r.a
      let b ← decReg r.b
      some (.fcmpeq r.hint (Ty.ofCode r.t) d a b)
  | 9 => do
      let d ← decPred r.d
      let a ← decReg r.a
      let b ← decReg r.b
      some (.fcmplt r.hint (Ty.ofCode r.t) d a b)
  | 10 => do
      let d ← decPred r.d
      let a ← decReg r.a
      let b ← decReg r.b
      some (.fcmple r.hint (Ty.ofCode r.t) d a b)
  | 11 => do
      let d ← decPred r.d
      let a ← decReg r.a
      let b ← decReg r.b
      some (.fcmpun r.hint (Ty.ofCode r.t) d a b)
  | 12 => do
      let d ← decReg r.d
      let a ← decReg r.a
      let b ← decImm r.b
      some (.fcvt r.hint (Ty.ofCode r.t) d a b)
  | 13 => do
      let d ← decReg r.d
      let a ← decReg r.a
      if r.b = 0 then some (.fclass r.hint (Ty.ofCode r.t) d a) else none
  | _ => none

/-- Operations of class 0x4 (R140, Table 7.5): the fields of a word, each in a kind that its entry accepts (R133, R134). -/
def decodeClass4 (op : Nat) (r : Raw) : Option Instr :=
  match op with
  | 0 => do
      let d ← decReg r.d
      let a ← decCap r.a
      if r.b = 0 then some (.ld r.hint (Ty.ofCode r.t) d a) else none
  | 1 => do
      let d ← decCap r.d
      let a ← decReg r.a
      if r.b = 0 then some (.st r.hint (Ty.ofCode r.t) d a) else none
  | 2 => do
      let d ← decView r.d
      let a ← decCapImm r.a
      if r.t = 0 ∧ r.b = 0 then some (.vwset r.hint d a) else none
  | 3 =>
    (do
      let d ← decCap r.d
      let a ← decView r.a
      if r.t = 0 ∧ r.b = 0 then some (.vwgetMemory r.hint d a) else none) <|>
    (do
      let d ← decReg r.d
      let a ← decView r.a
      let b ← decImm r.b
      if r.t = 0 then some (.vwgetField r.hint d a b) else none)
  | 4 => do
      let d ← decView r.d
      let a ← decView r.a
      let b ← decReg r.b
      if r.t = 0 then some (.vwsub r.hint d a b) else none
  | 5 => do
      let d ← decView r.d
      let a ← decImm r.a
      let b ← decRegImm r.b
      if r.t = 0 then some (.vwadv r.hint d a b) else none
  | 6 =>
    (do
      let d ← decRegImm r.d
      let a ← decCap r.a
      let b ← decCap r.b
      if r.t = 0 then some (.rbindInstall r.hint d a b) else none) <|>
    (do
      let d ← decRing r.d
      let a ← decImm r.a
      if r.t = 0 ∧ r.b = 0 then some (.rbindAttach r.hint d a) else none) <|>
    (do
      let d ← decRegImm r.d
      let b ← decCap r.b
      if r.t = 0 ∧ r.a = 0 then some (.rbindRemove r.hint d b) else none)
  | 7 => do
      let d ← decRing r.d
      let b ← decReg r.b
      if r.t = 0 ∧ r.a = 0 then some (.radv r.hint d b) else none
  | 8 =>
    (do
      let d ← decReg r.d
      let a ← decRing r.a
      if r.t = 0 ∧ r.b = 0 then some (.rstatFill r.hint d a) else none) <|>
    (do
      let d ← decCap r.d
      let a ← decImm r.a
      if r.t = 0 ∧ r.b = 0 then some (.rstatDescriptor r.hint d a) else none)
  | _ => none

/-- Operations of class 0x5 (R140, Table 7.5): the fields of a word, each in a kind that its entry accepts (R133, R134). -/
def decodeClass5 (op : Nat) (r : Raw) : Option Instr :=
  match op with
  | 0 =>
    (do
      let d ← decCap r.d
      let a ← decCap r.a
      if r.t = 0 ∧ r.b = 0 then some (.cmovMove r.hint d a) else none) <|>
    (do
      let d ← decRegImm r.d
      let a ← decCap r.a
      if r.t = 0 ∧ r.b = 0 then some (.cmovPark r.hint d a) else none) <|>
    (do
      let d ← decCap r.d
      let a ← decRegImm r.a
      if r.t = 0 ∧ r.b = 0 then some (.cmovUnpark r.hint d a) else none)
  | 1 => do
      let d ← decCap r.d
      let a ← decCap r.a
      let b ← decRegImm r.b
      if r.t = 0 then some (.csplit r.hint d a b) else none
  | 2 => do
      let d ← decCap r.d
      let a ← decCap r.a
      if r.t = 0 ∧ r.b = 0 then some (.cjoin r.hint d a) else none
  | 3 => do
      let d ← decCap r.d
      let a ← decCap r.a
      let b ← decReg r.b
      if r.t = 0 then some (.cnarrow r.hint d a b) else none
  | 4 => do
      let d ← decCap r.d
      let a ← decCap r.a
      if r.t = 0 ∧ r.b = 0 then some (.cmerge r.hint d a) else none
  | 5 => do
      let d ← decCap r.d
      let a ← decCap r.a
      let b ← decRegImm r.b
      if r.t = 0 then some (.crights r.hint d a b) else none
  | 6 => do
      let d ← decReg r.d
      let a ← decCap r.a
      let b ← decImm r.b
      if r.t = 0 then some (.cinfo r.hint d a b) else none
  | 7 => do
      let d ← decCap r.d
      if r.t = 0 ∧ r.a = 0 ∧ r.b = 0 then some (.cdrop r.hint d) else none
  | 8 => do
      let d ← decCap r.d
      let a ← decCap r.a
      if r.t = 0 ∧ r.b = 0 then some (.cseal r.hint d a) else none
  | 9 =>
    (do
      let d ← decCap r.d
      if r.t = 0 ∧ r.a = 0 ∧ r.b = 0 then some (.creclaimRegister r.hint d) else none) <|>
    (do
      let d ← decCap r.d
      let b ← decRegImm r.b
      if r.t = 0 ∧ r.a = 0 then some (.creclaimSlot r.hint d b) else none)
  | _ => none

/-- Operations of class 0x6 (R140, Table 7.5): the fields of a word, each in a kind that its entry accepts (R133, R134). -/
def decodeClass6 (op : Nat) (r : Raw) : Option Instr :=
  match op with
  | 0 => do
      let d ← decView r.d
      let a ← decView r.a
      let b ← decSrc r.b
      some (.vadd r.hint (Ty.ofCode r.t) d a b)
  | 1 => do
      let d ← decView r.d
      let a ← decView r.a
      let b ← decSrc r.b
      some (.vsub r.hint (Ty.ofCode r.t) d a b)
  | 2 => do
      let d ← decView r.d
      let a ← decView r.a
      let b ← decSrc r.b
      some (.vmul r.hint (Ty.ofCode r.t) d a b)
  | 3 => do
      let d ← decView r.d
      let a ← decView r.a
      let b ← decSrc r.b
      some (.vfma r.hint (Ty.ofCode r.t) d a b)
  | 4 => do
      let d ← decView r.d
      let a ← decView r.a
      let b ← decSrc r.b
      some (.vmin r.hint (Ty.ofCode r.t) d a b)
  | 5 => do
      let d ← decView r.d
      let a ← decView r.a
      let b ← decSrc r.b
      some (.vmax r.hint (Ty.ofCode r.t) d a b)
  | 6 => do
      let d ← decView r.d
      let a ← decView r.a
      if r.b = 0 then some (.vabs r.hint (Ty.ofCode r.t) d a) else none
  | 7 => do
      let d ← decView r.d
      let a ← decView r.a
      if r.b = 0 then some (.vneg r.hint (Ty.ofCode r.t) d a) else none
  | 8 => do
      let d ← decView r.d
      let a ← decView r.a
      let b ← decViewReg r.b
      if r.t = 13 then some (.vcmul r.hint d a b) else none
  | 9 => do
      let d ← decView r.d
      let a ← decView r.a
      let b ← decImm r.b
      if r.t = 13 then some (.vbfly r.hint d a b) else none
  | 10 => do
      let d ← decViewReg r.d
      let a ← decView r.a
      let b ← decImm r.b
      some (.vred r.hint (Ty.ofCode r.t) d a b)
  | 11 => do
      let d ← decView r.d
      let a ← decView r.a
      let b ← decImm r.b
      some (.vscan r.hint (Ty.ofCode r.t) d a b)
  | 12 => do
      let d ← decView r.d
      let a ← decView r.a
      let b ← decSrc r.b
      some (.vcmp r.hintGuard (Ty.ofCode r.t) (Cond.ofCode (r.h / 8)) d a b)
  | 13 => do
      let d ← decView r.d
      let a ← decSrc r.a
      let b ← decView r.b
      some (.vsel r.hint (Ty.ofCode r.t) d a b)
  | 14 => do
      let d ← decView r.d
      let a ← decView r.a
      if r.b = 0 then some (.vcopy r.hint (Ty.ofCode r.t) d a) else none
  | 15 => do
      let d ← decView r.d
      let a ← decRegImm r.a
      if r.b = 0 then some (.vfill r.hint (Ty.ofCode r.t) d a) else none
  | 16 => do
      let d ← decView r.d
      let a ← decCap r.a
      let b ← decView r.b
      some (.vgather r.hint (Ty.ofCode r.t) d a b)
  | 17 => do
      let d ← decCap r.d
      let a ← decView r.a
      let b ← decView r.b
      some (.vscatter r.hint (Ty.ofCode r.t) d a b)
  | 18 => do
      let d ← decView r.d
      let a ← decView r.a
      let b ← decView r.b
      some (.vscale r.hint (Ty.ofCode r.t) d a b)
  | 19 => do
      let d ← decView r.d
      let a ← decView r.a
      let b ← decView r.b
      some (.vquant r.hint (Ty.ofCode r.t) d a b)
  | _ => none

/-- Operations of class 0x7 (R140, Table 7.5): the fields of a word, each in a kind that its entry accepts (R133, R134). -/
def decodeClass7 (op : Nat) (r : Raw) : Option Instr :=
  match op with
  | 0 => do
      let d ← decView r.d
      let a ← decView r.a
      let b ← decSrc r.b
      some (.vand r.hint (Ty.ofCode r.t) d a b)
  | 1 => do
      let d ← decView r.d
      let a ← decView r.a
      let b ← decSrc r.b
      some (.vor r.hint (Ty.ofCode r.t) d a b)
  | 2 => do
      let d ← decView r.d
      let a ← decView r.a
      let b ← decSrc r.b
      some (.vxor r.hint (Ty.ofCode r.t) d a b)
  | 3 => do
      let d ← decView r.d
      let a ← decView r.a
      if r.b = 0 then some (.vnot r.hint (Ty.ofCode r.t) d a) else none
  | 4 => do
      let d ← decView r.d
      let a ← decView r.a
      let b ← decSrc r.b
      some (.vshl r.hint (Ty.ofCode r.t) d a b)
  | 5 => do
      let d ← decView r.d
      let a ← decView r.a
      let b ← decSrc r.b
      some (.vshr r.hint (Ty.ofCode r.t) d a b)
  | 6 => do
      let d ← decView r.d
      let a ← decView r.a
      let b ← decSrc r.b
      some (.vsra r.hint (Ty.ofCode r.t) d a b)
  | 7 => do
      let d ← decView r.d
      let a ← decView r.a
      if r.b = 0 then some (.vpopc r.hint (Ty.ofCode r.t) d a) else none
  | 8 => do
      let d ← decView r.d
      let a ← decView r.a
      if r.b = 0 then some (.vclz r.hint (Ty.ofCode r.t) d a) else none
  | 9 => do
      let d ← decView r.d
      let a ← decView r.a
      if r.b = 0 then some (.vctz r.hint (Ty.ofCode r.t) d a) else none
  | 10 => do
      let d ← decView r.d
      let a ← decView r.a
      let b ← decSrc r.b
      some (.vfns r.hint (Ty.ofCode r.t) d a b)
  | 11 => do
      let d ← decView r.d
      let a ← decView r.a
      if r.b = 0 then some (.vbrev r.hint (Ty.ofCode r.t) d a) else none
  | 12 => do
      let d ← decView r.d
      let a ← decView r.a
      let b ← decImm r.b
      some (.vcvt r.hint (Ty.ofCode r.t) d a b)
  | 13 => do
      let d ← decView r.d
      let a ← decView r.a
      if r.b = 0 then some (.vrcp r.hint (Ty.ofCode r.t) d a) else none
  | 14 => do
      let d ← decView r.d
      let a ← decView r.a
      if r.b = 0 then some (.vrsq r.hint (Ty.ofCode r.t) d a) else none
  | 15 => do
      let d ← decView r.d
      let a ← decView r.a
      if r.b = 0 then some (.vsqrt r.hint (Ty.ofCode r.t) d a) else none
  | 16 => do
      let d ← decView r.d
      let a ← decView r.a
      if r.b = 0 then some (.vexp2 r.hint (Ty.ofCode r.t) d a) else none
  | 17 => do
      let d ← decView r.d
      let a ← decView r.a
      if r.b = 0 then some (.vlog2 r.hint (Ty.ofCode r.t) d a) else none
  | 18 => do
      let d ← decView r.d
      let a ← decView r.a
      if r.b = 0 then some (.vsin r.hint (Ty.ofCode r.t) d a) else none
  | 19 => do
      let d ← decView r.d
      let a ← decView r.a
      if r.b = 0 then some (.vcos r.hint (Ty.ofCode r.t) d a) else none
  | 20 => do
      let d ← decView r.d
      let a ← decImm r.a
      if r.b = 0 then some (.vidx r.hint (Ty.ofCode r.t) d a) else none
  | 21 => do
      let d ← decView r.d
      let a ← decView r.a
      if r.b = 0 then some (.vtrans r.hint (Ty.ofCode r.t) d a) else none
  | _ => none

/-- Operations of class 0x8 (R140, Table 7.5): the fields of a word, each in a kind that its entry accepts (R133, R134). -/
def decodeClass8 (op : Nat) (r : Raw) : Option Instr :=
  match op with
  | 0 => do
      let d ← decAcc r.d
      if r.t = 0 ∧ r.a = 0 ∧ r.b = 0 then some (.mzero r.hint d) else none
  | 1 => do
      let d ← decAcc r.d
      let a ← decView r.a
      let b ← decView r.b
      some (.mma r.hint (Ty.ofCode r.t) d a b)
  | 2 => do
      let d ← decAcc r.d
      let a ← decView r.a
      let b ← decView r.b
      if r.t = 0 then some (.mmat r.hint d a b) else none
  | 3 => do
      let d ← decAcc r.d
      let a ← decView r.a
      if r.b = 0 then some (.mld r.hint (Ty.ofCode r.t) d a) else none
  | 4 => do
      let d ← decView r.d
      let a ← decAcc r.a
      let b ← decOptImm r.b
      some (.mst r.hint (Ty.ofCode r.t) d a b)
  | 5 => do
      let d ← decAcc r.d
      let a ← decAcc r.a
      let b ← decView r.b
      if r.t = 15 then some (.mscale r.hint d a b) else none
  | 6 => do
      let d ← decReg r.d
      let a ← decImm r.a
      if r.t = 0 ∧ r.b = 0 then some (.mstat r.hint d a) else none
  | 7 => do
      let d ← decReg r.d
      let a ← decRegImm r.a
      let b ← decRegImm r.b
      if r.t = 0 then some (.msig r.hint d a b) else none
  | _ => none

/-- Operations of class 0x9 (R140, Table 7.5): the fields of a word, each in a kind that its entry accepts (R133, R134). -/
def decodeClass9 (op : Nat) (r : Raw) : Option Instr :=
  match op with
  | 0 => do
      let d ← decReg r.d
      let a ← decImm r.a
      let b ← decReg r.b
      some (.sendq r.hint (BitVec.ofNat 4 r.t) d a b)
  | 1 => do
      let d ← decReg r.d
      let a ← decImm r.a
      let b ← decReg r.b
      some (.replyq r.hint (BitVec.ofNat 4 r.t) d a b)
  | 2 => do
      let pol ← decPolicy (r.h / 8)
      let d ← decReg r.d
      let a ← decCap r.a
      let b ← decReg r.b
      if r.t = 0 then some (.sendc r.hintGuard pol d a b) else none
  | 3 => do
      let d ← decLandDest r.d
      let a ← decRegImm r.a
      if r.t = 0 ∧ r.b = 0 then some (.sendr r.hint d a) else none
  | 4 => do
      let d ← decCapImm r.d
      let a ← decReg r.a
      if r.b = 0 then some (.spawn r.hint (BitVec.ofNat 4 r.t) d a) else none
  | 5 => do
      let d ← decReg r.d
      let a ← decImm r.a
      let b ← decReg r.b
      some (.spawnr r.hint (BitVec.ofNat 4 r.t) d a b)
  | 6 => do
      let d ← decReg r.d
      let a ← decRegImm r.a
      let b ← decRegImm r.b
      if r.t = 0 then some (.minc r.hint d a b) else none
  | 7 =>
    (do
      let d ← decReg r.d
      let a ← decRegImm r.a
      if r.t = 0 ∧ r.b = 0 then some (.mrdCounter r.hint d a) else none) <|>
    (do
      let d ← decReg r.d
      let a ← decLand r.a
      if r.t = 0 ∧ r.b = 0 then some (.mrdLanding r.hint d a) else none)
  | 8 => do
      let d ← decRegImm r.d
      let a ← decRegImm r.a
      if r.b = 0 then some (.mset r.hint (BitVec.ofNat 4 r.t) d a) else none
  | 9 => do
      let d ← decImm r.d
      let a ← decReg r.a
      let b ← decRegImm r.b
      if r.t = 0 then some (.arm r.hint d a b) else none
  | 10 => do
      let d ← decOptCap r.d
      let a ← decReg r.a
      if r.t = 0 ∧ r.b = 0 then some (.kick r.hint d a) else none
  | _ => none

/-- Operations of class 0xA (R140, Table 7.5): the fields of a word, each in a kind that its entry accepts (R133, R134). -/
def decodeClassA (op : Nat) (r : Raw) : Option Instr :=
  match op with
  | 0 => do
      let d ← decCap r.d
      let a ← decCap r.a
      let b ← decReg r.b
      if r.t = 0 then some (.barinit r.hint d a b) else none
  | 1 => do
      let d ← decCap r.d
      let a ← decOptCap r.a
      let b ← decReg r.b
      if r.t = 0 then some (.barrive r.hint d a b) else none
  | 2 => do
      let d ← decCap r.d
      let a ← decOptCap r.a
      let b ← decReg r.b
      if r.t = 0 then some (.barend r.hint d a b) else none
  | 3 => do
      let d ← decCap r.d
      let a ← decCap r.a
      let b ← decRegImm r.b
      if r.t = 0 then some (.clook r.hint d a b) else none
  | 4 => do
      let d ← decReg r.d
      if r.t = 0 ∧ r.a = 0 ∧ r.b = 0 then some (.specq r.hint d) else none
  | 5 => do
      let d ← decCap r.d
      let a ← decReg r.a
      if r.b = 0 then some (.aop r.hintGuard (BitVec.ofNat 4 r.t) (BitVec.ofNat 3 (r.h / 8)) d a) else none
  | 6 => do
      let d ← decLandDest r.d
      let a ← decCap r.a
      let b ← decReg r.b
      some (.aopr r.hintGuard (BitVec.ofNat 4 r.t) (BitVec.ofNat 3 (r.h / 8)) d a b)
  | 7 => do
      let d ← decCollDest r.d
      let a ← decReg r.a
      let b ← decReg r.b
      some (.coll r.hint (Ty.ofCode r.t) d a b)
  | 8 => do
      let d ← decLandDest r.d
      let a ← decReg r.a
      let b ← decReg r.b
      some (.collopen r.hint (Ty.ofCode r.t) d a b)
  | 9 => do
      let a ← decReg r.a
      if r.t = 0 ∧ r.d = 0 ∧ r.b = 0 then some (.collclose r.hint a) else none
  | _ => none


/-- The instruction of a word's fields, before the checks of `Instr.wellFormed`. -/
def decodeRaw (r : Raw) : Option Instr :=
  match r.opc / 64 with
  | 0 => decodeClass0 (r.opc % 64) r
  | 1 => decodeClass1 (r.opc % 64) r
  | 2 => decodeClass2 (r.opc % 64) r
  | 3 => decodeClass3 (r.opc % 64) r
  | 4 => decodeClass4 (r.opc % 64) r
  | 5 => decodeClass5 (r.opc % 64) r
  | 6 => decodeClass6 (r.opc % 64) r
  | 7 => decodeClass7 (r.opc % 64) r
  | 8 => decodeClass8 (r.opc % 64) r
  | 9 => decodeClass9 (r.opc % 64) r
  | 10 => decodeClassA (r.opc % 64) r
  | _ => none

/-- The Tchina instruction of a 96-bit word, or why the word is illegal (R141). -/
def decode (w : Nat) : Except Illegal Instr :=
  match decodeRaw (Raw.ofWord w) with
  | none => .error .form
  | some i =>
    if !i.guardOk then .error .guard
    else if !i.hintsOk then .error .hint
    else if !i.typeOk then .error .type
    else if !i.fieldsOk then .error .form
    else .ok i

/-- The fields of an instruction's word, for the instructions that have a Tchina word. -/
def Instr.raw? : Instr → Option Raw
  | .nop h => some ⟨0x000, 0, h.g.toNat, h.bits, 0, 0, 0⟩
  | .br h b => some ⟨0x001, 0, h.g.toNat, h.bits, 0, 0, encImm b⟩
  | .bri h a => some ⟨0x002, 0, h.g.toNat, h.bits, 0, encReg a, 0⟩
  | .call h b => some ⟨0x003, 0, h.g.toNat, h.bits, 0, 0, encRegImm b⟩
  | .ret h => some ⟨0x004, 0, h.g.toNat, h.bits, 0, 0, 0⟩
  | .loop h a b => some ⟨0x005, 0, h.g.toNat, h.bits, 0, encReg a, encImm b⟩
  | .endTask h => some ⟨0x006, 0, h.g.toNat, h.bits, 0, 0, 0⟩
  | .endc h d a b => some ⟨0x007, 0, h.g.toNat, h.bits, encImm d, encReg a, encRegImm b⟩
  | .trap h b => some ⟨0x008, 0, h.g.toNat, h.bits, 0, 0, encImm b⟩
  | .brk h b => some ⟨0x009, 0, h.g.toNat, h.bits, 0, 0, encImm b⟩
  | .gets h d a => some ⟨0x00A, 0, h.g.toNat, h.bits, encReg d, encSReg a, 0⟩
  | .sets h d a => some ⟨0x00B, 0, h.g.toNat, h.bits, encSReg d, encRegImm a, 0⟩
  | .tlbi h d a b => some ⟨0x00C, 0, h.g.toNat, h.bits, encReg d, encReg a, encReg b⟩
  | .eret h b => some ⟨0x00D, 0, h.g.toNat, h.bits, 0, 0, encImm b⟩
  | .wdog h b => some ⟨0x00E, 0, h.g.toNat, h.bits, 0, 0, encRegImm b⟩
  | .halt h => some ⟨0x00F, 0, h.g.toNat, h.bits, 0, 0, 0⟩
  | .add h t d a b => some ⟨0x040, t.code, h.g.toNat, h.bits, encReg d, encReg a, encRegImm b⟩
  | .sub h t d a b => some ⟨0x041, t.code, h.g.toNat, h.bits, encReg d, encReg a, encRegImm b⟩
  | .mul h t d a b => some ⟨0x042, t.code, h.g.toNat, h.bits, encReg d, encReg a, encRegImm b⟩
  | .mulh h t d a b => some ⟨0x043, t.code, h.g.toNat, h.bits, encReg d, encReg a, encRegImm b⟩
  | .div h t d a b => some ⟨0x044, t.code, h.g.toNat, h.bits, encReg d, encReg a, encRegImm b⟩
  | .rem h t d a b => some ⟨0x045, t.code, h.g.toNat, h.bits, encReg d, encReg a, encRegImm b⟩
  | .and h t d a b => some ⟨0x046, t.code, h.g.toNat, h.bits, encReg d, encReg a, encRegImm b⟩
  | .or h t d a b => some ⟨0x047, t.code, h.g.toNat, h.bits, encReg d, encReg a, encRegImm b⟩
  | .xor h t d a b => some ⟨0x048, t.code, h.g.toNat, h.bits, encReg d, encReg a, encRegImm b⟩
  | .andn h t d a b => some ⟨0x049, t.code, h.g.toNat, h.bits, encReg d, encReg a, encRegImm b⟩
  | .shl h t d a b => some ⟨0x04A, t.code, h.g.toNat, h.bits, encReg d, encReg a, encRegImm b⟩
  | .shr h t d a b => some ⟨0x04B, t.code, h.g.toNat, h.bits, encReg d, encReg a, encRegImm b⟩
  | .sra h t d a b => some ⟨0x04C, t.code, h.g.toNat, h.bits, encReg d, encReg a, encRegImm b⟩
  | .rot h t d a b => some ⟨0x04D, t.code, h.g.toNat, h.bits, encReg d, encReg a, encRegImm b⟩
  | .min h t d a b => some ⟨0x04E, t.code, h.g.toNat, h.bits, encReg d, encReg a, encRegImm b⟩
  | .max h t d a b => some ⟨0x04F, t.code, h.g.toNat, h.bits, encReg d, encReg a, encRegImm b⟩
  | .sel h t d a b => some ⟨0x050, t.code, h.g.toNat, h.bits, encReg d, encReg a, encRegImm b⟩
  | .cmpeq h t d a b => some ⟨0x051, t.code, h.g.toNat, h.bits, encPred d, encReg a, encRegImm b⟩
  | .cmpne h t d a b => some ⟨0x052, t.code, h.g.toNat, h.bits, encPred d, encReg a, encRegImm b⟩
  | .cmplt h t d a b => some ⟨0x053, t.code, h.g.toNat, h.bits, encPred d, encReg a, encRegImm b⟩
  | .cmple h t d a b => some ⟨0x054, t.code, h.g.toNat, h.bits, encPred d, encReg a, encRegImm b⟩
  | .cmpltu h t d a b => some ⟨0x055, t.code, h.g.toNat, h.bits, encPred d, encReg a, encRegImm b⟩
  | .cmpleu h t d a b => some ⟨0x056, t.code, h.g.toNat, h.bits, encPred d, encReg a, encRegImm b⟩
  | .li h d v => some ⟨0x057, 0, h.g.toNat, h.bits, encReg d, v.toNat / 2 ^ 24, v.toNat % 2 ^ 24⟩
  | .mad h t d a b => some ⟨0x058, t.code, h.g.toNat, h.bits, encReg d, encReg a, encRegImm b⟩
  | .pand h d a b => some ⟨0x059, 0, h.g.toNat, h.bits, encPred d, encPred a, encPred b⟩
  | .por h d a b => some ⟨0x05A, 0, h.g.toNat, h.bits, encPred d, encPred a, encPred b⟩
  | .pxor h d a b => some ⟨0x05B, 0, h.g.toNat, h.bits, encPred d, encPred a, encPred b⟩
  | .pnot h d a => some ⟨0x05C, 0, h.g.toNat, h.bits, encPred d, encPred a, 0⟩
  | .popc h t d a => some ⟨0x080, t.code, h.g.toNat, h.bits, encReg d, encReg a, 0⟩
  | .clz h t d a => some ⟨0x081, t.code, h.g.toNat, h.bits, encReg d, encReg a, 0⟩
  | .ctz h t d a => some ⟨0x082, t.code, h.g.toNat, h.bits, encReg d, encReg a, 0⟩
  | .fns h t d a b => some ⟨0x083, t.code, h.g.toNat, h.bits, encReg d, encReg a, encRegImm b⟩
  | .brev h t d a => some ⟨0x084, t.code, h.g.toNat, h.bits, encReg d, encReg a, 0⟩
  | .bswap h t d a => some ⟨0x085, t.code, h.g.toNat, h.bits, encReg d, encReg a, 0⟩
  | .bext h t d a b => some ⟨0x086, t.code, h.g.toNat, h.bits, encReg d, encReg a, encRegImm b⟩
  | .bexts h t d a b => some ⟨0x087, t.code, h.g.toNat, h.bits, encReg d, encReg a, encRegImm b⟩
  | .bins h t d a b => some ⟨0x088, t.code, h.g.toNat, h.bits, encReg d, encReg a, encRegImm b⟩
  | .pdep h t d a b => some ⟨0x089, t.code, h.g.toNat, h.bits, encReg d, encReg a, encReg b⟩
  | .pext h t d a b => some ⟨0x08A, t.code, h.g.toNat, h.bits, encReg d, encReg a, encReg b⟩
  | .fadd h t d a b => some ⟨0x0C0, t.code, h.g.toNat, h.bits, encReg d, encReg a, encReg b⟩
  | .fsub h t d a b => some ⟨0x0C1, t.code, h.g.toNat, h.bits, encReg d, encReg a, encReg b⟩
  | .fmul h t d a b => some ⟨0x0C2, t.code, h.g.toNat, h.bits, encReg d, encReg a, encReg b⟩
  | .ffma h t d a b => some ⟨0x0C3, t.code, h.g.toNat, h.bits, encReg d, encReg a, encReg b⟩
  | .fdiv h t d a b => some ⟨0x0C4, t.code, h.g.toNat, h.bits, encReg d, encReg a, encReg b⟩
  | .fsqrt h t d a => some ⟨0x0C5, t.code, h.g.toNat, h.bits, encReg d, encReg a, 0⟩
  | .fmin h t d a b => some ⟨0x0C6, t.code, h.g.toNat, h.bits, encReg d, encReg a, encReg b⟩
  | .fmax h t d a b => some ⟨0x0C7, t.code, h.g.toNat, h.bits, encReg d, encReg a, encReg b⟩
  | .fcmpeq h t d a b => some ⟨0x0C8, t.code, h.g.toNat, h.bits, encPred d, encReg a, encReg b⟩
  | .fcmplt h t d a b => some ⟨0x0C9, t.code, h.g.toNat, h.bits, encPred d, encReg a, encReg b⟩
  | .fcmple h t d a b => some ⟨0x0CA, t.code, h.g.toNat, h.bits, encPred d, encReg a, encReg b⟩
  | .fcmpun h t d a b => some ⟨0x0CB, t.code, h.g.toNat, h.bits, encPred d, encReg a, encReg b⟩
  | .fcvt h t d a b => some ⟨0x0CC, t.code, h.g.toNat, h.bits, encReg d, encReg a, encImm b⟩
  | .fclass h t d a => some ⟨0x0CD, t.code, h.g.toNat, h.bits, encReg d, encReg a, 0⟩
  | .ld h t d a => some ⟨0x100, t.code, h.g.toNat, h.bits, encReg d, encCap a, 0⟩
  | .st h t d a => some ⟨0x101, t.code, h.g.toNat, h.bits, encCap d, encReg a, 0⟩
  | .vwset h d a => some ⟨0x102, 0, h.g.toNat, h.bits, encView d, encCapImm a, 0⟩
  | .vwgetMemory h d a => some ⟨0x103, 0, h.g.toNat, h.bits, encCap d, encView a, 0⟩
  | .vwgetField h d a b => some ⟨0x103, 0, h.g.toNat, h.bits, encReg d, encView a, encImm b⟩
  | .vwsub h d a b => some ⟨0x104, 0, h.g.toNat, h.bits, encView d, encView a, encReg b⟩
  | .vwadv h d a b => some ⟨0x105, 0, h.g.toNat, h.bits, encView d, encImm a, encRegImm b⟩
  | .rbindInstall h d a b => some ⟨0x106, 0, h.g.toNat, h.bits, encRegImm d, encCap a, encCap b⟩
  | .rbindAttach h d a => some ⟨0x106, 0, h.g.toNat, h.bits, encRing d, encImm a, 0⟩
  | .rbindRemove h d b => some ⟨0x106, 0, h.g.toNat, h.bits, encRegImm d, 0, encCap b⟩
  | .radv h d b => some ⟨0x107, 0, h.g.toNat, h.bits, encRing d, 0, encReg b⟩
  | .rstatFill h d a => some ⟨0x108, 0, h.g.toNat, h.bits, encReg d, encRing a, 0⟩
  | .rstatDescriptor h d a => some ⟨0x108, 0, h.g.toNat, h.bits, encCap d, encImm a, 0⟩
  | .cmovMove h d a => some ⟨0x140, 0, h.g.toNat, h.bits, encCap d, encCap a, 0⟩
  | .cmovPark h d a => some ⟨0x140, 0, h.g.toNat, h.bits, encRegImm d, encCap a, 0⟩
  | .cmovUnpark h d a => some ⟨0x140, 0, h.g.toNat, h.bits, encCap d, encRegImm a, 0⟩
  | .csplit h d a b => some ⟨0x141, 0, h.g.toNat, h.bits, encCap d, encCap a, encRegImm b⟩
  | .cjoin h d a => some ⟨0x142, 0, h.g.toNat, h.bits, encCap d, encCap a, 0⟩
  | .cnarrow h d a b => some ⟨0x143, 0, h.g.toNat, h.bits, encCap d, encCap a, encReg b⟩
  | .cmerge h d a => some ⟨0x144, 0, h.g.toNat, h.bits, encCap d, encCap a, 0⟩
  | .crights h d a b => some ⟨0x145, 0, h.g.toNat, h.bits, encCap d, encCap a, encRegImm b⟩
  | .cinfo h d a b => some ⟨0x146, 0, h.g.toNat, h.bits, encReg d, encCap a, encImm b⟩
  | .cdrop h d => some ⟨0x147, 0, h.g.toNat, h.bits, encCap d, 0, 0⟩
  | .cseal h d a => some ⟨0x148, 0, h.g.toNat, h.bits, encCap d, encCap a, 0⟩
  | .creclaimRegister h d => some ⟨0x149, 0, h.g.toNat, h.bits, encCap d, 0, 0⟩
  | .creclaimSlot h d b => some ⟨0x149, 0, h.g.toNat, h.bits, encCap d, 0, encRegImm b⟩
  | .vadd h t d a b => some ⟨0x180, t.code, h.g.toNat, h.bits, encView d, encView a, encSrc b⟩
  | .vsub h t d a b => some ⟨0x181, t.code, h.g.toNat, h.bits, encView d, encView a, encSrc b⟩
  | .vmul h t d a b => some ⟨0x182, t.code, h.g.toNat, h.bits, encView d, encView a, encSrc b⟩
  | .vfma h t d a b => some ⟨0x183, t.code, h.g.toNat, h.bits, encView d, encView a, encSrc b⟩
  | .vmin h t d a b => some ⟨0x184, t.code, h.g.toNat, h.bits, encView d, encView a, encSrc b⟩
  | .vmax h t d a b => some ⟨0x185, t.code, h.g.toNat, h.bits, encView d, encView a, encSrc b⟩
  | .vabs h t d a => some ⟨0x186, t.code, h.g.toNat, h.bits, encView d, encView a, 0⟩
  | .vneg h t d a => some ⟨0x187, t.code, h.g.toNat, h.bits, encView d, encView a, 0⟩
  | .vcmul h d a b => some ⟨0x188, 13, h.g.toNat, h.bits, encView d, encView a, encViewReg b⟩
  | .vbfly h d a b => some ⟨0x189, 13, h.g.toNat, h.bits, encView d, encView a, encImm b⟩
  | .vred h t d a b => some ⟨0x18A, t.code, h.g.toNat, h.bits, encViewReg d, encView a, encImm b⟩
  | .vscan h t d a b => some ⟨0x18B, t.code, h.g.toNat, h.bits, encView d, encView a, encImm b⟩
  | .vcmp h t cond d a b => some ⟨0x18C, t.code, h.g.toNat, h.bitsWith cond.code, encView d, encView a, encSrc b⟩
  | .vsel h t d a b => some ⟨0x18D, t.code, h.g.toNat, h.bits, encView d, encSrc a, encView b⟩
  | .vcopy h t d a => some ⟨0x18E, t.code, h.g.toNat, h.bits, encView d, encView a, 0⟩
  | .vfill h t d a => some ⟨0x18F, t.code, h.g.toNat, h.bits, encView d, encRegImm a, 0⟩
  | .vgather h t d a b => some ⟨0x190, t.code, h.g.toNat, h.bits, encView d, encCap a, encView b⟩
  | .vscatter h t d a b => some ⟨0x191, t.code, h.g.toNat, h.bits, encCap d, encView a, encView b⟩
  | .vscale h t d a b => some ⟨0x192, t.code, h.g.toNat, h.bits, encView d, encView a, encView b⟩
  | .vquant h t d a b => some ⟨0x193, t.code, h.g.toNat, h.bits, encView d, encView a, encView b⟩
  | .vand h t d a b => some ⟨0x1C0, t.code, h.g.toNat, h.bits, encView d, encView a, encSrc b⟩
  | .vor h t d a b => some ⟨0x1C1, t.code, h.g.toNat, h.bits, encView d, encView a, encSrc b⟩
  | .vxor h t d a b => some ⟨0x1C2, t.code, h.g.toNat, h.bits, encView d, encView a, encSrc b⟩
  | .vnot h t d a => some ⟨0x1C3, t.code, h.g.toNat, h.bits, encView d, encView a, 0⟩
  | .vshl h t d a b => some ⟨0x1C4, t.code, h.g.toNat, h.bits, encView d, encView a, encSrc b⟩
  | .vshr h t d a b => some ⟨0x1C5, t.code, h.g.toNat, h.bits, encView d, encView a, encSrc b⟩
  | .vsra h t d a b => some ⟨0x1C6, t.code, h.g.toNat, h.bits, encView d, encView a, encSrc b⟩
  | .vpopc h t d a => some ⟨0x1C7, t.code, h.g.toNat, h.bits, encView d, encView a, 0⟩
  | .vclz h t d a => some ⟨0x1C8, t.code, h.g.toNat, h.bits, encView d, encView a, 0⟩
  | .vctz h t d a => some ⟨0x1C9, t.code, h.g.toNat, h.bits, encView d, encView a, 0⟩
  | .vfns h t d a b => some ⟨0x1CA, t.code, h.g.toNat, h.bits, encView d, encView a, encSrc b⟩
  | .vbrev h t d a => some ⟨0x1CB, t.code, h.g.toNat, h.bits, encView d, encView a, 0⟩
  | .vcvt h t d a b => some ⟨0x1CC, t.code, h.g.toNat, h.bits, encView d, encView a, encImm b⟩
  | .vrcp h t d a => some ⟨0x1CD, t.code, h.g.toNat, h.bits, encView d, encView a, 0⟩
  | .vrsq h t d a => some ⟨0x1CE, t.code, h.g.toNat, h.bits, encView d, encView a, 0⟩
  | .vsqrt h t d a => some ⟨0x1CF, t.code, h.g.toNat, h.bits, encView d, encView a, 0⟩
  | .vexp2 h t d a => some ⟨0x1D0, t.code, h.g.toNat, h.bits, encView d, encView a, 0⟩
  | .vlog2 h t d a => some ⟨0x1D1, t.code, h.g.toNat, h.bits, encView d, encView a, 0⟩
  | .vsin h t d a => some ⟨0x1D2, t.code, h.g.toNat, h.bits, encView d, encView a, 0⟩
  | .vcos h t d a => some ⟨0x1D3, t.code, h.g.toNat, h.bits, encView d, encView a, 0⟩
  | .vidx h t d a => some ⟨0x1D4, t.code, h.g.toNat, h.bits, encView d, encImm a, 0⟩
  | .vtrans h t d a => some ⟨0x1D5, t.code, h.g.toNat, h.bits, encView d, encView a, 0⟩
  | .mzero h d => some ⟨0x200, 0, h.g.toNat, h.bits, encAcc d, 0, 0⟩
  | .mma h t d a b => some ⟨0x201, t.code, h.g.toNat, h.bits, encAcc d, encView a, encView b⟩
  | .mmat h d a b => some ⟨0x202, 0, h.g.toNat, h.bits, encAcc d, encView a, encView b⟩
  | .mld h t d a => some ⟨0x203, t.code, h.g.toNat, h.bits, encAcc d, encView a, 0⟩
  | .mst h t d a b => some ⟨0x204, t.code, h.g.toNat, h.bits, encView d, encAcc a, encOptImm b⟩
  | .mscale h d a b => some ⟨0x205, 15, h.g.toNat, h.bits, encAcc d, encAcc a, encView b⟩
  | .mstat h d a => some ⟨0x206, 0, h.g.toNat, h.bits, encReg d, encImm a, 0⟩
  | .msig h d a b => some ⟨0x207, 0, h.g.toNat, h.bits, encReg d, encRegImm a, encRegImm b⟩
  | .sendq h n d a b => some ⟨0x240, n.toNat, h.g.toNat, h.bits, encReg d, encImm a, encReg b⟩
  | .replyq h n d a b => some ⟨0x241, n.toNat, h.g.toNat, h.bits, encReg d, encImm a, encReg b⟩
  | .sendc h pol d a b => some ⟨0x242, 0, h.g.toNat, h.bitsWith (pol.code * 2), encReg d, encCap a, encReg b⟩
  | .sendr h d a => some ⟨0x243, 0, h.g.toNat, h.bits, encLandDest d, encRegImm a, 0⟩
  | .spawn h n d a => some ⟨0x244, n.toNat, h.g.toNat, h.bits, encCapImm d, encReg a, 0⟩
  | .spawnr h n d a b => some ⟨0x245, n.toNat, h.g.toNat, h.bits, encReg d, encImm a, encReg b⟩
  | .minc h d a b => some ⟨0x246, 0, h.g.toNat, h.bits, encReg d, encRegImm a, encRegImm b⟩
  | .mrdCounter h d a => some ⟨0x247, 0, h.g.toNat, h.bits, encReg d, encRegImm a, 0⟩
  | .mrdLanding h d a => some ⟨0x247, 0, h.g.toNat, h.bits, encReg d, encLand a, 0⟩
  | .mset h n d a => some ⟨0x248, n.toNat, h.g.toNat, h.bits, encRegImm d, encRegImm a, 0⟩
  | .arm h d a b => some ⟨0x249, 0, h.g.toNat, h.bits, encImm d, encReg a, encRegImm b⟩
  | .kick h d a => some ⟨0x24A, 0, h.g.toNat, h.bits, encOptCap d, encReg a, 0⟩
  | .barinit h d a b => some ⟨0x280, 0, h.g.toNat, h.bits, encCap d, encCap a, encReg b⟩
  | .barrive h d a b => some ⟨0x281, 0, h.g.toNat, h.bits, encCap d, encOptCap a, encReg b⟩
  | .barend h d a b => some ⟨0x282, 0, h.g.toNat, h.bits, encCap d, encOptCap a, encReg b⟩
  | .clook h d a b => some ⟨0x283, 0, h.g.toNat, h.bits, encCap d, encCap a, encRegImm b⟩
  | .specq h d => some ⟨0x284, 0, h.g.toNat, h.bits, encReg d, 0, 0⟩
  | .aop h n f d a => some ⟨0x285, n.toNat, h.g.toNat, h.bitsWith f.toNat, encCap d, encReg a, 0⟩
  | .aopr h n f d a b => some ⟨0x286, n.toNat, h.g.toNat, h.bitsWith f.toNat, encLandDest d, encCap a, encReg b⟩
  | .coll h t d a b => some ⟨0x287, t.code, h.g.toNat, h.bits, encCollDest d, encReg a, encReg b⟩
  | .collopen h t d a b => some ⟨0x288, t.code, h.g.toNat, h.bits, encLandDest d, encReg a, encReg b⟩
  | .collclose h a => some ⟨0x289, 0, h.g.toNat, h.bits, 0, encReg a, 0⟩
  | .mvNext _ _ _ => none
  | .mvTake _ _ _ => none
  | .mvCopy _ _ _ => none
  | .mvFill _ _ _ => none
  | .mvXfer _ _ _ => none
  | .mvGive _ _ _ => none
  | .mvMbx _ _ _ => none
  | .mvStat _ _ _ => none
  | .matrixCommandComplete _ => none
  | .remoteAccessAnswer _ => none
  | .strikeReport _ => none
  | .scrubVisit _ => none
  | .moduleReset _ => none
  | .qnotify _ _ _ => none
  | .registerWrite _ _ _ _ => none
  | .partCreate _ _ => none
  | .partPause _ => none
  | .partResume _ => none
  | .partEvict _ => none
  | .partRestore _ _ => none
  | .partDestroy _ => none
  | .vfAssign _ => none
  | .chanAssign _ => none
  | .mapS2 _ => none
  | .rateSet _ => none
  | .report _ => none
  | .cert _ => none
  | .mgmtRead _ => none
  | .mgmtWrite _ => none
  | .prqRead _ => none
  | .emarkWrite _ => none
  | .healthWrite _ => none
  | .functionLevelReset _ => none
  | .fabricPacketArrival _ => none
  | .fabricAcknowledgement _ => none
  | .portDown _ => none
  | .stewardRv64Instruction _ _ => none
  | .cxlMemRead _ _ _ => none
  | .cxlMemWrite _ _ _ => none
  | .keyExchange _ => none
  | .vendorDefinedRequest _ _ _ _ => none
  | .ideKeyProgramming _ _ => none
  | .portUp _ => none
  | .linkCrcError _ _ => none
  | .powerLoss _ => none
  | .stewardWake => none
  | .stewardFault => none
  | .moveBurst => none
  | .engineOpComplete => none
  | .matrixCommandStart => none
  | .watchdogExpiry => none
  | .graceExpiry => none
  | .dispatch => none
  | .aging => none
  | .heldTask => none
  | .messageArrival => none
  | .capabilityArrival => none
  | .remoteSpawnArrival => none
  | .poolWaitRelease => none
  | .counterIncrementArrival => none
  | .landingWriteArrival => none
  | .landingHoldApply => none
  | .memoryAgentOperation => none
  | .aoprResultArrival => none
  | .copySlotRequest => none
  | .copySlotGrant => none
  | .copyAnnounce => none
  | .copyDeliveryTimeout => none
  | .reclaimInvalidation => none
  | .reclaimComplete => none
  | .tlbInvalidation => none
  | .tlbiAcknowledged => none
  | .pageRequestEntry => none
  | .conflictProbe => none
  | .probeAcknowledged => none
  | .barrierArrival => none
  | .barrierParkAcknowledged => none
  | .completionNotice => none
  | .horizonRelease => none
  | .healthFlush => none
  | .queueSlotGrant => none
  | .notifyStarvation => none
  | .launch => none
  | .launchChannelsFree => none
  | .registerImage => none
  | .releaseImage => none
  | .kernelRetire => none
  | .completionRecordWrite => none
  | .partitionHalted => none
  | .bufCreate => none
  | .bufFree => none
  | .bufRecover => none
  | .ctRead => none
  | .taskList => none
  | .biasSet => none
  | .precRead => none
  | .flogSet => none
  | .flogHead => none
  | .xlatSet => none
  | .stwInstall => none
  | .supvRecv => none
  | .supvEvents => none
  | .transferTimeout => none
  | .packetDeparture => none
  | .tokenRedistribute => none
  | .routingFlip => none
  | .routingRetire => none
  | .chipUnsynchronized => none
  | .chipResynchronized => none
  | .collopenRequest => none
  | .contributionArrival => none
  | .collcloseArrival => none
  | .slotDeadline => none
  | .slotExpire => none
  | .collectiveRecordArrival => none
  | .speculationBudgetLow => none
  | .injectionEntryFree => none
  | .vectorStreamComplete => none


/-! ## Steward words -/

/-- The base opcode custom-0 with funct7 0 (R143, Table 7.6). -/
def decodeMv (w : Nat) : Option Instr :=
  let rd := BitVec.ofNat 5 (w / 2 ^ 7)
  let rs1 := BitVec.ofNat 5 (w / 2 ^ 15)
  let rs2 := BitVec.ofNat 5 (w / 2 ^ 20)
  if field w 0 7 = 0x0B ∧ field w 25 7 = 0 then
    match field w 12 3 with
    | 0 => some (.mvNext rd rs1 rs2)
    | 1 => some (.mvTake rd rs1 rs2)
    | 2 => some (.mvCopy rd rs1 rs2)
    | 3 => some (.mvFill rd rs1 rs2)
    | 4 => some (.mvXfer rd rs1 rs2)
    | 5 => some (.mvGive rd rs1 rs2)
    | 6 => some (.mvMbx rd rs1 rs2)
    | _ => some (.mvStat rd rs1 rs2)
  else none

/-- The word of an Xgnmv instruction. -/
def mvWord (f3 : Nat) (rd rs1 rs2 : Reg) : Nat :=
  0x0B + 2 ^ 7 * (rd.toNat + 2 ^ 5 * (f3 + 2 ^ 3 * (rs1.toNat + 2 ^ 5 * rs2.toNat)))

/-- The word of a steward Xgnmv instruction. -/
def Instr.mvWord? : Instr → Option Nat
  | .mvNext rd rs1 rs2 => some (mvWord 0 rd rs1 rs2)
  | .mvTake rd rs1 rs2 => some (mvWord 1 rd rs1 rs2)
  | .mvCopy rd rs1 rs2 => some (mvWord 2 rd rs1 rs2)
  | .mvFill rd rs1 rs2 => some (mvWord 3 rd rs1 rs2)
  | .mvXfer rd rs1 rs2 => some (mvWord 4 rd rs1 rs2)
  | .mvGive rd rs1 rs2 => some (mvWord 5 rd rs1 rs2)
  | .mvMbx rd rs1 rs2 => some (mvWord 6 rd rs1 rs2)
  | .mvStat rd rs1 rs2 => some (mvWord 7 rd rs1 rs2)
  | _ => none

/-- Bits `[lo + n - 1 : lo]` of `w` as a bit vector of width `k`. -/
def bv (k w lo n : Nat) : BitVec k := BitVec.ofNat k (field w lo n)

/-- OP-IMM shifts and unary operations of funct3 001 (PRESUMED: the RISC-V manuals, log 3). -/
def decodeRvImm1 (w : Nat) (rd rs1 : Reg) : Rv :=
  let sh := bv 6 w 20 6
  if field w 26 6 = 0 then .shift .slli rd rs1 sh
  else match field w 20 12 with
    | 0x600 => .unary .clz rd rs1
    | 0x601 => .unary .ctz rd rs1
    | 0x602 => .unary .cpop rd rs1
    | 0x604 => .unary .sextb rd rs1
    | 0x605 => .unary .sexth rd rs1
    | _ => .illegal (BitVec.ofNat 32 w)

/-- OP-IMM of funct3 101 (PRESUMED: log 3). -/
def decodeRvImm5 (w : Nat) (rd rs1 : Reg) : Rv :=
  let sh := bv 6 w 20 6
  match field w 26 6 with
  | 0 => .shift .srli rd rs1 sh
  | 0x10 => .shift .srai rd rs1 sh
  | 0x18 => .shift .rori rd rs1 sh
  | _ =>
    match field w 20 12 with
    | 0x287 => .unary .orcb rd rs1
    | 0x6B8 => .unary .rev8 rd rs1
    | _ => .illegal (BitVec.ofNat 32 w)

/-- OP-IMM-32 (PRESUMED: log 3). -/
def decodeRvImmW (w : Nat) (rd rs1 : Reg) : Rv :=
  let sh := bv 6 w 20 5
  match field w 12 3, field w 25 7 with
  | 0, _ => .opImm .addiw rd rs1 (bv 12 w 20 12)
  | 1, 0 => .shift .slliw rd rs1 sh
  | 1, 4 => .shift .slliUw rd rs1 (bv 6 w 20 6)
  | 1, 5 => .shift .slliUw rd rs1 (bv 6 w 20 6)
  | 1, 0x30 =>
    match field w 20 5 with
    | 0 => .unary .clzw rd rs1
    | 1 => .unary .ctzw rd rs1
    | 2 => .unary .cpopw rd rs1
    | _ => .illegal (BitVec.ofNat 32 w)
  | 5, 0 => .shift .srliw rd rs1 sh
  | 5, 0x20 => .shift .sraiw rd rs1 sh
  | 5, 0x30 => .shift .roriw rd rs1 sh
  | _, _ => .illegal (BitVec.ofNat 32 w)

/-- OP (PRESUMED: log 3). -/
def rvOpOf (f7 f3 : Nat) : Option RvOp :=
  match f7, f3 with
  | 0, 0 => some .add | 0, 1 => some .sll | 0, 2 => some .slt | 0, 3 => some .sltu
  | 0, 4 => some .xor | 0, 5 => some .srl | 0, 6 => some .or | 0, 7 => some .and
  | 0x20, 0 => some .sub | 0x20, 5 => some .sra | 0x20, 4 => some .xnor | 0x20, 6 => some .orn | 0x20, 7 => some .andn
  | 1, 0 => some .mul | 1, 1 => some .mulh | 1, 2 => some .mulhsu | 1, 3 => some .mulhu
  | 1, 4 => some .div | 1, 5 => some .divu | 1, 6 => some .rem | 1, 7 => some .remu
  | 0x10, 2 => some .sh1add | 0x10, 4 => some .sh2add | 0x10, 6 => some .sh3add
  | 5, 4 => some .min | 5, 5 => some .minu | 5, 6 => some .max | 5, 7 => some .maxu
  | 0x30, 1 => some .rol | 0x30, 5 => some .ror
  | _, _ => none

/-- OP-32 (PRESUMED: log 3). -/
def decodeRvOpW (w : Nat) (rd rs1 rs2 : Reg) : Rv :=
  match field w 25 7, field w 12 3 with
  | 0, 0 => .opW .addw rd rs1 rs2 | 0, 1 => .opW .sllw rd rs1 rs2 | 0, 5 => .opW .srlw rd rs1 rs2
  | 0x20, 0 => .opW .subw rd rs1 rs2 | 0x20, 5 => .opW .sraw rd rs1 rs2
  | 1, 0 => .opW .mulw rd rs1 rs2 | 1, 4 => .opW .divw rd rs1 rs2 | 1, 5 => .opW .divuw rd rs1 rs2
  | 1, 6 => .opW .remw rd rs1 rs2 | 1, 7 => .opW .remuw rd rs1 rs2
  | 4, 0 => .op .addUw rd rs1 rs2
  | 4, 4 => if rs2 = 0 then .unary .zexth rd rs1 else .illegal (BitVec.ofNat 32 w)
  | 0x10, 2 => .op .sh1addUw rd rs1 rs2 | 0x10, 4 => .op .sh2addUw rd rs1 rs2 | 0x10, 6 => .op .sh3addUw rd rs1 rs2
  | 0x30, 1 => .opW .rolw rd rs1 rs2 | 0x30, 5 => .opW .rorw rd rs1 rs2
  | _, _ => .illegal (BitVec.ofNat 32 w)

/-- SYSTEM (PRESUMED: log 3; R143 and R302 fix MRET, SRET, SFENCE.VMA and WFI). -/
def decodeRvSystem (w : Nat) (rd rs1 : Reg) : Rv :=
  let num := bv 12 w 20 12
  match field w 12 3 with
  | 0 =>
    match w with
    | 0x00000073 => .ecall
    | 0x00100073 => .ebreak
    | 0x10500073 => .wfi
    | _ => .illegal (BitVec.ofNat 32 w)
  | 1 => .csr .rw rd num (.reg rs1)
  | 2 => .csr .rs rd num (.reg rs1)
  | 3 => .csr .rc rd num (.reg rs1)
  | 5 => .csr .rw rd num (.imm rs1)
  | 6 => .csr .rs rd num (.imm rs1)
  | 7 => .csr .rc rd num (.imm rs1)
  | _ => .illegal (BitVec.ofNat 32 w)

/-- The B-type immediate. -/
def rvImmB (w : Nat) : BitVec 13 :=
  BitVec.ofNat 13 (field w 31 1 * 2 ^ 12 + field w 7 1 * 2 ^ 11 + field w 25 6 * 2 ^ 5 + field w 8 4 * 2)

/-- The J-type immediate. -/
def rvImmJ (w : Nat) : BitVec 21 :=
  BitVec.ofNat 21 (field w 31 1 * 2 ^ 20 + field w 12 8 * 2 ^ 12 + field w 20 1 * 2 ^ 11 + field w 21 10 * 2)

/-- A 32-bit steward word other than Xgnmv (PRESUMED: the encodings of the RISC-V manuals, log 3). -/
def decodeRv (w : Nat) : Rv :=
  let rd := bv 5 w 7 5
  let rs1 := bv 5 w 15 5
  let rs2 := bv 5 w 20 5
  let f3 := field w 12 3
  let bad := Rv.illegal (BitVec.ofNat 32 w)
  match field w 0 7 with
  | 0x37 => .lui rd (bv 20 w 12 20)
  | 0x17 => .auipc rd (bv 20 w 12 20)
  | 0x6F => .jal rd (rvImmJ w)
  | 0x67 => if f3 = 0 then .jalr rd rs1 (bv 12 w 20 12) else bad
  | 0x63 =>
    match f3 with
    | 0 => .branch .beq rs1 rs2 (rvImmB w) | 1 => .branch .bne rs1 rs2 (rvImmB w)
    | 4 => .branch .blt rs1 rs2 (rvImmB w) | 5 => .branch .bge rs1 rs2 (rvImmB w)
    | 6 => .branch .bltu rs1 rs2 (rvImmB w) | 7 => .branch .bgeu rs1 rs2 (rvImmB w)
    | _ => bad
  | 0x03 => if f3 = 7 then bad else .load (BitVec.ofNat 2 f3) (f3 < 4) rd rs1 (bv 12 w 20 12)
  | 0x23 => if f3 < 4 then .store (BitVec.ofNat 2 f3) rs2 rs1 (BitVec.ofNat 12 (field w 25 7 * 32 + field w 7 5)) else bad
  | 0x13 =>
    match f3 with
    | 0 => .opImm .addi rd rs1 (bv 12 w 20 12)
    | 1 => decodeRvImm1 w rd rs1
    | 2 => .opImm .slti rd rs1 (bv 12 w 20 12)
    | 3 => .opImm .sltiu rd rs1 (bv 12 w 20 12)
    | 4 => .opImm .xori rd rs1 (bv 12 w 20 12)
    | 5 => decodeRvImm5 w rd rs1
    | 6 => .opImm .ori rd rs1 (bv 12 w 20 12)
    | _ => .opImm .andi rd rs1 (bv 12 w 20 12)
  | 0x1B => decodeRvImmW w rd rs1
  | 0x33 =>
    match rvOpOf (field w 25 7) f3 with
    | some o => .op o rd rs1 rs2
    | none => bad
  | 0x3B => decodeRvOpW w rd rs1 rs2
  | 0x0F => if f3 = 0 then .fence else if f3 = 1 then .fenceI else bad
  | 0x73 => decodeRvSystem w rd rs1
  | _ => bad

/-- A compressed register field. -/
def rvcReg (w lo : Nat) : Reg := BitVec.ofNat 5 (8 + field w lo 3)

/-- Quadrant 0 of the compressed instructions (PRESUMED: log 3). -/
def decodeRvc0 (w : Nat) : Rv :=
  let bad := Rv.illegal (BitVec.ofNat 32 w)
  let wOff := field w 10 3 * 8 + field w 6 1 * 4 + field w 5 1 * 64
  let dOff := field w 10 3 * 8 + field w 5 2 * 64
  match field w 13 3 with
  | 0 =>
    let imm := field w 11 2 * 16 + field w 7 4 * 64 + field w 6 1 * 4 + field w 5 1 * 8
    if imm = 0 then bad else .opImm .addi (rvcReg w 2) 2 (BitVec.ofNat 12 imm)
  | 2 => .load 2 true (rvcReg w 2) (rvcReg w 7) (BitVec.ofNat 12 wOff)
  | 3 => .load 3 true (rvcReg w 2) (rvcReg w 7) (BitVec.ofNat 12 dOff)
  | 6 => .store 2 (rvcReg w 2) (rvcReg w 7) (BitVec.ofNat 12 wOff)
  | 7 => .store 3 (rvcReg w 2) (rvcReg w 7) (BitVec.ofNat 12 dOff)
  | _ => bad

/-- The arithmetic group of quadrant 1 (PRESUMED: log 3). -/
def decodeRvcArith (w : Nat) : Rv :=
  let bad := Rv.illegal (BitVec.ofNat 32 w)
  let r := rvcReg w 7
  let r2 := rvcReg w 2
  let sh := BitVec.ofNat 6 (field w 12 1 * 32 + field w 2 5)
  match field w 10 2 with
  | 0 => .shift .srli r r sh
  | 1 => .shift .srai r r sh
  | 2 => .opImm .andi r r (BitVec.ofInt 12 (signExtend (field w 12 1 * 32 + field w 2 5) 6))
  | _ =>
    match field w 12 1, field w 5 2 with
    | 0, 0 => .op .sub r r r2 | 0, 1 => .op .xor r r r2 | 0, 2 => .op .or r r r2 | 0, 3 => .op .and r r r2
    | 1, 0 => .opW .subw r r r2 | 1, 1 => .opW .addw r r r2
    | _, _ => bad

/-- Quadrant 1 of the compressed instructions (PRESUMED: log 3). -/
def decodeRvc1 (w : Nat) : Rv :=
  let bad := Rv.illegal (BitVec.ofNat 32 w)
  let rd := bv 5 w 7 5
  let i6 := signExtend (field w 12 1 * 32 + field w 2 5) 6
  match field w 13 3 with
  | 0 => .opImm .addi rd rd (BitVec.ofInt 12 i6)
  | 1 => if rd = 0 then bad else .opImm .addiw rd rd (BitVec.ofInt 12 i6)
  | 2 => .opImm .addi rd 0 (BitVec.ofInt 12 i6)
  | 3 =>
    if rd = 2 then
      let n := field w 12 1 * 512 + field w 6 1 * 16 + field w 5 1 * 64 + field w 3 2 * 128 + field w 2 1 * 32
      if n = 0 then bad else .opImm .addi 2 2 (BitVec.ofInt 12 (signExtend n 10))
    else if i6 = 0 then bad else .lui rd (BitVec.ofInt 20 i6)
  | 4 => decodeRvcArith w
  | 5 =>
    .jal 0 (BitVec.ofInt 21 (signExtend (field w 12 1 * 2048 + field w 11 1 * 16 + field w 9 2 * 256 + field w 8 1 * 1024
      + field w 7 1 * 64 + field w 6 1 * 128 + field w 3 3 * 2 + field w 2 1 * 32) 12))
  | k =>
    let off := BitVec.ofInt 13 (signExtend (field w 12 1 * 256 + field w 10 2 * 8 + field w 5 2 * 64 + field w 3 2 * 2
      + field w 2 1 * 32) 9)
    .branch (if k = 6 then .beq else .bne) (rvcReg w 7) 0 off

/-- Quadrant 2 of the compressed instructions (PRESUMED: log 3). -/
def decodeRvc2 (w : Nat) : Rv :=
  let bad := Rv.illegal (BitVec.ofNat 32 w)
  let rd := bv 5 w 7 5
  let rs2 := bv 5 w 2 5
  match field w 13 3 with
  | 0 => .shift .slli rd rd (BitVec.ofNat 6 (field w 12 1 * 32 + field w 2 5))
  | 2 =>
    if rd = 0 then bad else .load 2 true rd 2 (BitVec.ofNat 12 (field w 12 1 * 32 + field w 4 3 * 4 + field w 2 2 * 64))
  | 3 =>
    if rd = 0 then bad else .load 3 true rd 2 (BitVec.ofNat 12 (field w 12 1 * 32 + field w 5 2 * 8 + field w 2 3 * 64))
  | 4 =>
    if field w 12 1 = 0 then
      if rs2 = 0 then (if rd = 0 then bad else .jalr 0 rd 0) else .op .add rd 0 rs2
    else
      if rs2 = 0 then (if rd = 0 then .ebreak else .jalr 1 rd 0) else .op .add rd rd rs2
  | 6 => .store 2 rs2 2 (BitVec.ofNat 12 (field w 9 4 * 4 + field w 7 2 * 64))
  | 7 => .store 3 rs2 2 (BitVec.ofNat 12 (field w 10 3 * 8 + field w 7 3 * 64))
  | _ => bad

/-- A 16-bit steward parcel (PRESUMED: log 3). -/
def decodeRvc (w : Nat) : Rv :=
  match field w 0 2 with
  | 0 => decodeRvc0 w
  | 1 => decodeRvc1 w
  | _ => decodeRvc2 w

/-- A steward parcel is 16 bits long unless its two low bits are set. -/
def stewardLength (w : Nat) : Nat := if field w 0 2 = 3 then 4 else 2

/-- The steward instruction of the 32 bits at the pc (R143): Xgnmv, or an instruction of the hart. -/
def decodeSteward (w : Nat) : Instr :=
  if stewardLength w = 2 then .stewardRv64Instruction 2 (decodeRvc (w % 2 ^ 16))
  else match decodeMv w with
    | some i => i
    | none => .stewardRv64Instruction 4 (decodeRv w)

/-- An instruction's word and its length in bits. -/
structure Code where
  nbits : Nat
  w : Nat
deriving DecidableEq, Repr

/-- The encoder: the word of a Tchina or Xgnmv instruction. Events have no word, and the encodings of the
hart's other instructions are those of the RISC-V manuals. -/
def encode (i : Instr) : Option Code :=
  match i.raw? with
  | some r => some ⟨96, r.word⟩
  | none =>
    match i.mvWord? with
    | some w => some ⟨32, w⟩
    | none => none

/-- The instruction that the decoder reads from a table word of `nbits` bits: a steward word for up to 32 bits, a
Tchina word above. -/
def decodeTableWord (nbits w : Nat) : Option Instr :=
  if nbits ≤ 32 then
    match decodeSteward (w % 2 ^ 32) with
    | .stewardRv64Instruction _ (.illegal _) => none
    | i => some i
  else
    match decode (w % 2 ^ 96) with
    | .ok i => some i
    | .error _ => none

end Sys2Proof
end

