-- ==== Sys2Proof/Machine/Turn.lean ====
section
/-!
DEFINITION. What a turn does before an instruction runs: the agenda (log 1), which context issues (R126), fetching the word
of a task (R132, R142) or of the steward (R303), a task that waits for room in the park store (R274) or for its end to take
effect (R450), a latent memory error that arises (R455).
-/

namespace Sys2Proof.Machine

/-- What a turn comes to before an instruction: the instruction to run, or the state it leaves. -/
inductive Ready where
  | run (i : Instr) (s : State)
  | done (r : Host.Outcome State Fault Refusal)

/-- Cycles pass. In the first of them the writes that the landing holds keep for registers freed before it are applied
(R331). -/
def State.pass (s : State) (n : Nat) : State :=
  if n = 0 then s else { State.applyAllHeld { s with cycle := s.cycle + 1 } with cycle := s.cycle + n }

/-- What waits for nothing but its time, or for something that has come, happens: held effects that are due (R336, R450), capabilities that
may leave their tiles (R362), requests of other chips (R407). -/
def State.catchUp (s : State) : State := s.pumpAll.letAllGo.serveWaiting

/-- The turn at the head of the agenda begins: its cycles pass, what falls due in them happens, its place is set. -/
def State.begin (s : State) (t : Turn) (rest : List Turn) : State :=
  { (s.pass t.dt).catchUp with cycle := s.cycle + t.dt, cur := t.cur, agenda := rest }

/-! ## Which context issues (R126) -/

/-- The instruction of a context of the turn's tile has nothing that holds it back, but for what its own operands wait for. -/
def State.canIssue (s : State) (c : Nat) : Bool := State.issuer { s with cur := { s.cur with ctx := c } } |>.isSome

/-- R126: the context of the turn issues in this cycle: no other has, and those that the round robin serves before it have
nothing to issue or were found interlocked in this cycle. -/
def State.mayIssue (s : State) : Bool :=
  let v := (s.tile s.cur.tile).core.issue
  v.at' != some s.cycle
  && (upto ((s.cur.ctx + 7 - v.last % 8) % 8)).all fun i =>
    let c := (v.last + 1 + i) % 8
    !s.canIssue c || (v.heldAt == s.cycle && v.held.contains c)

/-- R126: the context of the turn issues in this cycle. -/
def State.issues (s : State) : State :=
  s.onCore s.cur.tile fun k => { k with issue := k.issue.issues s.cur.ctx s.cycle }

/-- R132, R142 steps 1 and 2: the word at PC is fetched and decoded; an illegal PC or word is ILLEGAL, subcode 0x00. -/
def State.fetch (s : State) (w : Who) : Ready :=
  let s := s.ctxRemember
  let pc := s.regs.pc.toNat
  let trap (code sub : Nat) : Ready := .done (settle s w (raise s code sub))
  if w.image.legal pc then
    match s.imageCheck w (w.image.codeOff + pc) 12 with
    | .error e => .done (settle s w (.error e))
    | .ok s' =>
      match decode (s.iword w.part w.image pc) with
      | .ok i => .run i s'
      | .error _ => .done (settle s' w (raise s' cIllegal 0))
  else trap cIllegal 0

/-- R274: a task that found the park store full: it parks when there is room, and goes on when its pages are answered. -/
def State.retryPark (s : State) (w : ParkWait) : State :=
  let t := s.cur.tile
  let c := s.cur.ctx
  match w with
  | .retry => if (s.tile t).loc.parkRoom then (s.onCtx fun v => { v with hold := .none }).redispatch t c else s
  | .pages vf pages =>
    if pages.any fun g => (aget s.vfs .reset vf).prq.any (fun r => r.gpa == g) || (aget s.vfs .reset vf).prqWaiting.any fun r => r.gpa == g
    then (if (s.tile t).loc.parkRoom then (s.onCtx fun v => { v with hold := .none }).parkTask t c w else s)
    else s.onCtx fun v => { v with hold := .none }
  | .barrier _ _ _ =>
    if (s.tile t).loc.parkRoom then (s.onCtx fun v => { v with hold := .none }).parkTask t c w else s

/-- A turn of a context: its next instruction, if it may issue. -/
def State.coreReady (s : State) : Ready :=
  match s.ctx.hold with
  | .parkFull w => .done (.next (s.retryPark w))
  | .ending _ => .done (.next (s.pump s.cur.tile s.cur.ctx))
  | _ =>
    match if s.mayIssue then s.issuer else none with
    | some w => s.issues.fetch w
    | none => .done (.next s)

/-- A turn of the steward (R303): the parcel at pc, or one turn of the built-in program. -/
def State.stewardReady (s : State) : Ready :=
  let w := s.stw
  if w.prog = .builtin then .done (.next s.builtinTurn)
  else if s.stwStopped || !w.runs then .done (.next s)
  else
    let pc := w.pc.toNat
    let len := stewardLength (w.scratchNat pc 2)
    if inScratch pc len then .run (decodeSteward (w.scratchNat pc 4)) s
    else .done (.next (s.onStw fun w => w.enterException 1 w.pc len))

/-- R240, R455: an accumulator of the turn's tile takes a latent error. -/
def State.accUpset (s : State) (a : Nat) (uncorrectable : Bool) : State :=
  if a < 16 then
    let v := s.acc s.cur.tile a
    s.setAcc s.cur.tile a { v with err := some (uncorrectable || v.err == some true) }
  else s

/-- R455: a unit of ECC takes a latent error. R430: one that cannot be corrected in a tile's record pool is a fault of the tile
group of every kernel with state there; its record is that of a deferred error (log 46). -/
def State.upset (s : State) (a : Nat) (uncorrectable : Bool) : State :=
  if a / 2 ^ 52 = 0x8 ∧ Config.poolOffset ≤ a % 2 ^ 40 ∧ uncorrectable then
    let t := a / 2 ^ 40 % 2 ^ 12
    match s.partOfTile t with
    | none => s
    | some p =>
      let l := (s.tile t).loc
      let ks := ((l.recs.map fun r => r.2.kslot) ++ l.rings.map fun r => r.2.kslot).eraseDups
      ks.foldl (fun s k => s.contain p.1 k t none true { FRec.zero with code := cUncorr, kslot := k, src := 1 } .group) s
  else if physExists a then { s with ecc := aset s.ecc (eccUnit a) (uncorrectable || aget s.ecc false (eccUnit a)) }
  else s

end Sys2Proof.Machine
end

