-- ==== Sys2Proof/Machine/Step.lean ====
section
/-!
DEFINITION. One step of the module, and a state whose next step runs a given instruction word.
-/

namespace Sys2Proof.Machine

/-- What a turn comes to is carried out. -/
def Ready.go (r : Ready) : Host.Outcome State Fault Refusal :=
  match r with
  | .run i s => exec i s
  | .done o => o

/-- One step: the turn at the head of the agenda. With an empty agenda a cycle passes (log 1). -/
def step (s : State) : Host.Outcome State Fault Refusal :=
  match s.agenda with
  | [] => .next (s.pass 1).catchUp
  | t :: rest =>
    let s := s.begin t rest
    match t.act with
    | .core => s.coreReady.go
    | .steward => s.stewardReady.go
    | .event i => exec i s
    | .upset a unc => .next (s.upset a unc)
    | .accUpset a unc => .next (s.accUpset a unc)

/-! ## The state that runs a word next -/

/-- Bytes of a word of `nbits` bits, at least `n` of them, those above `nbits` zero. -/
def wordBytes (n nbits w : Nat) : List Byte := leBytes n (w % 2 ^ nbits)

/-- The agenda's first turn is one of tile 0, context 0. -/
def State.nextTurn (s : State) (a : Act) : State :=
  { s with agenda := ⟨0, { Cur.reset with quota := 0 }, a⟩ :: s.agenda }

/-- A kernel image whose code section is one word (R22 to R27). -/
def fetchImage : Image :=
  { base := 0, len := 256, codeOff := 128, codeLen := 12, constOff := 140, constLen := 0, dataOff := 140, dataLen := 0,
    stwOff := 140, stwLen := 0, trapEnt := 0xFFFFFFFF, nretry := 0, polTask := 0, polGrp := 0, polKern := 0, wh := 0,
    nview := 8, nring := 8, nacc := 4, nomx := false, det := false, chans := [], released := false }

/-- A launch record of zeros. -/
def fetchLaunch : LaunchRec :=
  { rootent := 0, ilen := 1, ibase := 0, dslot := 0, arglen := 0, argva := 0, qckpt := 0, rchan := 0, roff := 0,
    ctarget := 0, cidx := 0, coff := 0, datlen := 0, datva := 0, imgh := 0, rbv := false, ckpt := false, skip := false,
    prio := 0 }

/-- A kernel of that image on tile 0, of a supervisor queue. -/
def fetchKernel : Kernel :=
  { image := 0, lrec := fetchLaunch, supv := true, vf := 0, queue := 0, index := 0, interval := [0], tiles := [0],
    bias := 0, biasOld := 0, biasAt := 0, nfault := 0, xlat := .none' 0, retire := .no, compTile := 0 }

/-- A partition that holds tile 0 and HBM channel 0, its image store first, and runs that kernel in queue slot 0. -/
def fetchPart : Part :=
  { prec := { islen := 1, isoff := 0, tstarv := 0, pnum := 0, vfmask := 1, wsmask := 0, nch := 1, shz := false, ppol := 0,
              plen := 1, pbase := 0, chans := [0], rest := [] }
    handle := 0
    policy := { minrate := 0, relok := false, s2alias := false, reqreplay := false, reqshz := false, maxevict := 0,
                maxvf := 1, nchhi := 1, nchlo := 1, plenhi := 1, plenlo := 1, cmdmask := 0, body := [], measurement := [] }
    state := .active, halt := none, replay := false, epoch := 0, evictions := 0, keyGen := 0, imageLog := [], images := [(0, fetchImage)],
    nextImage := 1
    qslots := [(0, { vf := 0, queue := 0, qva := 0, qlog2 := 0, nopre := false, supv := true, ckva := 0,
                     kernel := some fetchKernel, waitingLaunch := none, pending := none,
                     boundary := false })]
    supv := { recv := none, hold := [], mgmt := none, requests := [], recover := none,
              flog := { base := none, k := 0, head := 0, tail := 0, overflow := 0 }, resident := none }
    s2roots := [], s2tabs := [], fmmu := [], invq := [], xrecs := [], box := none
    counts := { aborts := [], discarded := 0, scrubbed := 0, poisoned := 0 }, relHbm := false, since := 0 }

/-- A record of a task that enters at code offset 0. -/
def fetchRecord : TaskRec :=
  { img := { entry := 0, prio := 0, nacc := 0, reply := false, stv := false, stSlot := 0, ctrv := false, ctr := 0,
             target := 0, rv0 := false, rnum0 := 0, rcnt0 := 0, rv1 := false, rnum1 := 0, rcnt1 := 0, lmask := 0,
             arg := 0, resZero := true }
    kslot := 0, sigmask := 0, retries := 0, first := [], cap := none, prio := 0, latched := false, q := .running 0,
    sender := none, born := 0 }

/-- Tile 0 runs a task of that kernel in context 0. -/
def State.withTask (s : State) : State :=
  let c : Context := { Context.reset with
    run := { Run.reset with task := some 0, dispatched := s.cycle, issueAt := s.cycle }, mxRec := some 0 }
  (({ s with parts := aset s.parts 0 fetchPart }.onLocal 0 fun l => { l with recs := aset l.recs 0 fetchRecord }).setCtxAt 0
    0 c)

/-- The word of a task at the place where context 0 of tile 0 fetches next. -/
def State.withTaskWord (s : State) (nbits w : Nat) : State :=
  let s := match s.whoAt 0 0 with
    | some _ => s
    | none => s.withTask
  match s.whoAt 0 0 with
  | some v =>
    let pc := (s.ctxAt 0 0).regs.pc.toNat
    let s := s.onCore 0 fun k => { k with issue := ⟨7, 7, none, [], 0⟩ }
    (s.putPoff v.part.prec (v.image.base + v.image.codeOff + pc) (wordBytes 12 nbits w)).nextTurn .core
  | none => s

/-- The word of the steward of tile 0 at its pc, in a loaded program. -/
def State.withStewardWord (s : State) (nbits w : Nat) : State :=
  (s.onSteward 0 fun v => { v with prog := .resident 0 }.putBytes v.pc.toNat (wordBytes 4 nbits w)).nextTurn .steward

/-- The state whose next step runs the word (log 4): up to 32 bits a steward word, otherwise a Tchina word. The loaded
program, its partition, kernel and task stand for what the host and the launch of R89 set up. -/
def State.withFetchWord (s : State) (nbits w : Nat) : State :=
  if nbits ≤ 32 then s.withStewardWord nbits w else s.withTaskWord nbits w

end Sys2Proof.Machine
end

