-- ==== Sys2Proof/Safety.lean ====
section
/-!
DEFINITION. The terms that claims use: runs, invariants that every step keeps, when an instruction issues, what a
completed instruction or a delivered trap leaves.
-/

namespace Sys2Proof

/-- `t` is reached from `s` by steps that answer next states. -/
inductive Reaches : Machine.State → Machine.State → Prop where
  | refl (s : Machine.State) : Reaches s s
  | step (s t u : Machine.State) (h : Reaches s t) (n : Machine.step t = .next u) : Reaches s u

/-- A property of states that every step keeps. -/
def Kept (inv : Machine.State → Prop) : Prop := ∀ s t, inv s → Machine.step s = .next t → inv t

end Sys2Proof

namespace Sys2Proof.Machine

/-! ## Issuing -/

/-- `w` is the task of the context whose turn it is, nothing holds its issue back, and the guard is true (R135, R149). -/
def Issues (s : State) (h : Hint) (w : Who) : Prop := s.issuer = some w ∧ guardTrue s.regs h.g = true

/-- The matrix instructions of the core (Table 11.2). -/
def isMatrix (i : Instr) : Bool :=
  match i with
  | .mzero .. | .mma .. | .mmat .. | .mld .. | .mst .. | .mscale .. | .mstat .. | .msig .. => true
  | _ => false

/-- Effects of the context take effect at once: it does not speculate, holds no post and no write, and the strike horizon of its
partition is off (R336, R381, R450). -/
def Prompt (s : State) : Prop :=
  s.ctx.spec.on = false ∧ s.ctx.spec.held = [] ∧ s.shz s.cur.tile = false ∧ s.ctx.shzPosts = [] ∧ s.ctx.shzLog = []

/-- The context whose turn it is after an instruction that changed its registers by `f`: PC stands 12 further (R132), the
resume point is used up, and the next instruction issues after the hold of R136. -/
def State.stepped (s : State) (h : Hint) (f : Regs → Regs) : State :=
  s.onCtx fun v =>
    { v with
      regs := { f v.regs with pc := v.regs.pc + 12, resume := .none }
      run := { v.run with rejected := [], issueAt := s.cycle + 1 + h.stag.toNat } }

/-- The same after an instruction that set PC to `pc`. -/
def State.jumped (s : State) (h : Hint) (pc : BitVec 32) (f : Regs → Regs) : State :=
  s.onCtx fun v =>
    { v with
      regs := { f v.regs with pc := pc, resume := .none }
      run := { v.run with rejected := [], issueAt := s.cycle + 1 + h.stag.toNat } }

/-- `u`, an effect's end, with PC advanced by one instruction, the resume point used up, and the hold of R136. -/
def State.onward (u : State) (h : Hint) : State := u.nextPc.clearResume.issueHold h.stag.toNat

/-- PC of the context whose turn it is has advanced by one instruction, with the hold of R136, and it awaits nothing. -/
def Advanced (s t : State) (h : Hint) : Prop :=
  t.regs.pc = s.regs.pc + 12 ∧ t.regs.resume = .none ∧ t.ctx.run.issueAt = s.cycle + 1 + h.stag.toNat ∧ t.cur = s.cur

/-- Nothing but the context slot of the turn differs. -/
def OnlyContext (s t : State) : Prop := t = s.setCtxAt s.cur.tile s.cur.ctx t.ctx

/-- Every byte of memory reads as before. -/
def SameMemory (s t : State) : Prop := ∀ a, t.byte a = s.byte a

/-- Every byte of memory outside `n` bytes from `a` on reads as before. -/
def SameMemoryBut (s t : State) (a n : Nat) : Prop := ∀ b, b < a ∨ a + n ≤ b → t.byte b = s.byte b

/-- An instruction that reads and computes: registers changed by `f`, PC and the issue hold of R136, no byte of memory and
no CT entry. -/
def Computed (s t : State) (h : Hint) (f : Regs → Regs) : Prop :=
  t.regs = { f s.regs with pc := s.regs.pc + 12, resume := .none } ∧ Advanced s t h ∧ SameMemory s t ∧ t.cts = s.cts

/-- An instruction that stores: the bytes `bs` stand at `a`, every other byte reads as before, no register but PC differs. -/
def Stored (s t : State) (h : Hint) (a : Nat) (bs : List Byte) : Prop :=
  (∀ i : Nat, ∀ hi : i < bs.length, t.byte (a + i) = bs[i]) ∧ SameMemoryBut s t a bs.length
  ∧ t.regs = { s.regs with pc := s.regs.pc + 12, resume := .none } ∧ Advanced s t h ∧ t.cts = s.cts

/-! ## Traps -/

/-- The context has a trap entry to which a trap with this cause is delivered (R197, R423, R431). -/
def Delivers (s : State) (w : Who) : Prop :=
  w.image.trapEnt ≠ 0xFFFFFFFF ∧ s.ctx.run.trapEntry = false ∧ s.ctx.spec.on = false

/-- A trap with cause `code` and subcode `sub` was delivered to the task's trap entry (R423): PC stands there, the fault PC
and what the trap-entry state keeps of the resume point are kept, x1 names the cause, x2 the fault PC, c15 the fault record. -/
def Trapped (s t : State) (w : Who) (code sub : Nat) : Prop :=
  t.regs.pc = BitVec.ofNat 32 w.image.trapEnt
  ∧ t.ctx.run.trapEntry = true
  ∧ t.ctx.run.faultPc = s.regs.pc
  ∧ t.ctx.run.kept = s.regs.resume.kept
  ∧ (t.regs.readX 1).toNat % 256 = code
  ∧ (t.regs.readX 1).toNat / 256 % 256 = sub
  ∧ t.regs.readX 2 = s.regs.pc.setWidth 64
  ∧ ∃ c, t.regs.readC 15 = some c ∧ c.mode = .sealed ∧ c.kind = .tile ∧ c.agent = s.cur.tile
      ∧ c.ctidx = faultIndex s.cur.ctx ∧ c.rights = ⟨true, false, false, false⟩ ∧ c.wlen = 1

/-! ## Accesses on the chip -/

/-- The capability of `c` admits an access of `n` bytes of this kind at the element the operand names (R53), and the
address `va` that it answers lies in on-chip memory, where virtual and physical addresses are the same (Table 12.1). -/
def OnChip (s : State) (w : Who) (c : CapOp) (n : Nat) (acc : Access) (k : Cap) (va : Nat) : Prop :=
  s.c c.c.toNat = some k
  ∧ s.checkCap (s.tile s.cur.tile).core.vcache w.kernel.supv (some k) acc (CapOp.index c s.regs * n) n = .ok va
  ∧ va / 2 ^ 52 ≠ 0 ∧ va / 2 ^ 52 ≠ 1 ∧ physExists va = true

/-- Nothing earlier of the context or its tile keeps an access to these bytes waiting (R238, R353), and no page that
the instruction waited for was rejected (R275). -/
def Unhindered (s : State) : Prop :=
  s.mxQueue = [] ∧ s.postsOf s.cur.tile = [] ∧ s.ctx.run.rejected = []

/-- No latent memory error and no poison (R455, R456). -/
def Clean (s : State) : Prop := s.ecc = [] ∧ s.poison = []

/-- Nothing waits for its time or for what has come: no context keeps held writes, posts or its end, no capability is on its way out
of a tile, no request of another chip waits at its home. -/
def Quiescent (s : State) : Prop :=
  (∀ x ∈ s.tiles, x.2.core.giving = [] ∧ ∀ c ∈ x.2.core.ctxs, c.2.keeps = false) ∧ ∀ p ∈ s.net, s.waitsHome p = false

/-! ## Streams (R204 to R210) -/

/-- The vector unit of the tile is free, the context's effects take place at once, nothing of the context waits, no
latent error stands, the instruction starts anew, and the turn lets the stream run to its end. -/
structure StreamReady (s : State) : Prop where
  free : vectorBusy s = false
  prompt : Prompt s
  clean : Clean s
  queue : s.mxQueue = []
  posts : s.postsOf s.cur.tile = []
  log : s.ctx.spec.log = []
  resume : s.regs.resume = .none
  quota : s.cur.quota = 0
  lanes : s.cur.lanes = []

/-- Every element of the iteration space `es` of a bound view passes the checks of R53 (T5: its byte), in a buffer of this
chip that is not being reclaimed or looked ahead at. -/
def Admitted (s : State) (w : Who) (b : BoundView) (t : Ty) (acc : Access) (at' : Nat → List Nat) (n : Nat) : Prop :=
  ∃ c, b.cap = some c ∧ (s.ct c.key).recl = none ∧ (s.ct c.key).laopen = false
    ∧ ∀ k < n, let e := elemOf b t (at' k)
        e.inside = true ∧ s.checkCap [] w.kernel.supv b.cap acc e.off e.size = .ok (s.windowBase c + e.off.toNat)
        ∧ physExists (s.windowBase c + e.off.toNat) = true

/-- The physical address of an element. -/
def elemPlace (s : State) (b : BoundView) (e : Elem) : Nat :=
  rotated b.view.rot ((match b.cap with | some c => s.windowBase c | none => 0) + e.off.toNat)

/-- An element's pattern as memory holds it, with the flag of an invalid T5 byte (R153). -/
def State.elemValue (s : State) (b : BoundView) (t : Ty) (idx : List Nat) : Nat × Flags :=
  let e := elemOf b t idx
  let n := leNat (s.bytes (elemPlace s b e) e.size)
  if t = .t5 then tritOf n e.digit else (n, 0)

/-- The pattern of a source's element. -/
def State.srcValue (s : State) (x : VSrc) (t : Ty) (idx : List Nat) : Nat × Flags :=
  match x with
  | .view b => s.elemValue b t idx
  | .scalar v => (v, 0)

/-- The state with an element's pattern in memory; a T5 byte keeps its other trits (R220). -/
def State.putElement (s : State) (b : BoundView) (t : Ty) (idx : List Nat) (v : Nat) : State × Flags :=
  let e := elemOf b t idx
  let a := elemPlace s b e
  if t = .t5 then
    let d := setTrit (leNat (s.bytes a 1)) e.digit v
    (s.putBytes a (leBytes 1 d.1), d.2)
  else (s.putBytes a (leBytes e.size v), 0)

/-- A result at an element, its flags and those of its operands set (R161). -/
def State.putResult (s : State) (b : BoundView) (t : Ty) (idx : List Nat) (r : Res) (fl : Flags) : State :=
  let p := s.putElement b t idx r.bits
  p.1.setFlags (r.fl ||| fl ||| p.2)

/-- The elements with ordinals 0 to `n - 1` performed in order (R205). -/
def State.inOrder (s : State) (n : Nat) (f : Nat → State → State) : State := (upto n).foldl (fun s k => f k s) s

/-- A vector instruction that ran to its end with the effect `r` on memory and registers: PC advanced, the unit taken with the
capability registers that its views captured; CT entries and all other registers as `r` leaves them. -/
def Streamed (s t : State) (h : Hint) (r : State) (regs : List Nat) : Prop :=
  t.mem = r.mem ∧ t.regs = { r.regs with pc := s.regs.pc + 12, resume := .none } ∧ Advanced s t h
  ∧ t.ctx.vecBusy = some regs ∧ t.cts = s.cts

/-- A reduction of the elements of a view taken in the order of R217: row by row, SUM.ORD by steps within groups of as many
rows as `u` has lanes. `out` performs what the row's running value at an element does to memory and registers. -/
def State.reduced (s : State) (mode : Nat) (t u : Ty) (m : Mode) (sat : Bool) (b : BoundView)
    (out : State → Nat → Nat → RunVal → Nat → State) : State :=
  let es := extents b
  let e0 := es.getD 0 1
  let rows := elements es / e0
  ((upto (rows * e0)).foldl (fun (q : State × List RunVal) p =>
    let (row, i, place) := reducePlace (mode == 0) e0 rows u.lanes p
    let k := row * e0 + i
    let old := if i = 0 then RunVal.zero else q.2.getD place .zero
    let new := reduceStep mode t u m sat old (q.1.elemValue b t (indexOf es k)).1
    let slots := if q.2.length ≤ place then q.2 ++ List.replicate (place + 1 - q.2.length) .zero else q.2
    (out q.1 row i new k, slots.set place new)) (s, [])).1

/-- The virtual address of an indexed element of a gather or scatter (R223): e + the signed index, in elements of type `t`. -/
def State.indexedElem (s : State) (c : CapOp) (vi : BoundView) (es : List Nat) (k : Nat) : Int :=
  CapOp.index c s.regs + signExtend (s.elemValue vi .i32 (indexOf es k)).1 32

/-- Every indexed element of a gather or scatter is admitted by the capability `k`, at an address in on-chip memory. -/
def IndexedOnChip (s : State) (w : Who) (c : CapOp) (k : Cap) (t : Ty) (acc : Access) (vi : BoundView) (es : List Nat) : Prop :=
  s.c c.c.toNat = some k ∧ k.chip = s.chip ∧ (s.ct k.key).recl = none ∧ (s.ct k.key).laopen = false
  ∧ ∀ n < elements es, let off := s.indexedElem c vi es n * t.size
      let va := s.windowBase k + off.toNat
      s.checkCap [] w.kernel.supv (some k) acc off t.size = .ok va ∧ va / 2 ^ 52 ≠ 0 ∧ va / 2 ^ 52 ≠ 1
      ∧ physExists va = true

/-! ## Posts (R326, R335, R337) -/

/-- The signal that the task is about to execute has not been sent in an earlier run (R33). -/
def Fresh (s : State) (w : Who) : Prop :=
  ¬(0 < w.task.retries ∧ s.ctx.run.nsig < 16 ∧ w.task.sigmask.getLsbD s.ctx.run.nsig = true)

/-- R33: the task's signals so far number one more, and one of the first 16 is recorded in SIGMASK of its record. -/
def Signalled (s t : State) : Prop :=
  t.ctx.run.nsig = s.ctx.run.nsig + 1
  ∧ ∀ r q, s.ctx.run.task = some r → aget? (s.tile s.cur.tile).loc.recs r = some q → s.ctx.run.nsig < 16 →
      ∃ q', aget? (t.tile s.cur.tile).loc.recs r = some q' ∧ q'.sigmask = q.sigmask ||| BitVec.twoPow 16 s.ctx.run.nsig

/-- The packet `p` has joined the injection queue of the tile as a post of the context; registers as `f` leaves them, no
byte of memory. -/
def Sent (s t : State) (h : Hint) (f : Regs → Regs) (p : Packet) : Prop :=
  (t.tile s.cur.tile).core.inj = (s.tile s.cur.tile).core.inj ++ [⟨p.vn, s.cur.ctx, false, p, s.nextOrd⟩]
  ∧ t.regs = { f s.regs with pc := s.regs.pc + 12, resume := .none } ∧ Advanced s t h ∧ SameMemory s t

/-- The sealed capability `c` names the barrier in entry `bidx` of its home's table, no other entry of its kernel with that CT
index and hallmark stands there, and the task's rank is one of its parties (R376, R378 step 1). -/
def AtBarrier (s : State) (w : Who) (c : Cap) (bidx : Nat) (b : Barrier) : Prop :=
  c.mode = .sealed ∧ c.kind = .tile ∧ c.chip = s.chip ∧ aget? (s.tile c.agent).loc.bars bidx = some b
  ∧ b.ctidx = c.ctidx ∧ b.hallmark = c.hallmark ∧ b.kslot = w.kslot
  ∧ (∀ x ∈ (s.tile c.agent).loc.bars, x.2.ctidx = c.ctidx → x.2.hallmark = c.hallmark → x.2.kslot = w.kslot → x = (bidx, b))
  ∧ b.rbase ≤ w.kernel.rank s.cur.tile ∧ w.kernel.rank s.cur.tile < b.rbase + b.n

/-- A record that stands in the pool of a tile: waiting, or ready at once where its dispatch condition holds (R117). -/
def Enqueued (s t : State) (r : Nat) (v : TaskRec) : Prop :=
  aget? (t.tile s.cur.tile).loc.recs r = some (if (s.tile s.cur.tile).loc.holds r v
    then { v with latched := v.img.ctrv, q := .ready v.prio s.cycle r s.cycle s.cycle false } else v)

end Sys2Proof.Machine
end

