-- ==== Sys2Proof/Certificates/Slice0/Obligations.lean ====
section
/-!
DEFINITION. The statements for the provers: one `def Obligations.<Name> : Prop` each.
-/

open Sys2Proof Sys2Proof.Machine

/-! ## Encoding and stepping -/

/-- Worked encodings of the spec decode to the instructions they stand for: those beside R187, R189, R213, R218, R244, R282, R323, R391
and R415, Table 15.5 (R338) and the TLBI of R461. -/
def Obligations.WorkedWordsDecode : Prop :=
  decode 0x30EC0000000B00000C00000A = .ok (.ffma ⟨0, false, 0, false, 0⟩ .f32 11 12 10)
  ∧ decode 0x326EC0C00001000004000009 = .ok (.fcmplt ⟨11, false, 0, false, 0⟩ .f32 1 4 9)
  ∧ decode 0x60EC0080000080000180_0002 = .ok (.vfma ⟨0, false, 0, false, 0⟩ .f32 0 1 (.view 2))
  ∧ decode 0x632C1080000380000180_0002 = .ok (.vcmp ⟨0, false, 0, false, 0⟩ .f32 .lt 3 1 (.view 2))
  ∧ decode 0x805C00E000E080000080_0001 = .ok (.mma ⟨0, false, 0, false, 0⟩ .e4m3 0 0 1)
  ∧ decode 0x817C00E000E1E000E080_0005 = .ok (.mscale ⟨0, false, 0, false, 0⟩ 1 0 5)
  ∧ decode 0x402C00000004A0065200_0000 = .ok (.ld ⟨0, false, 0, false, 0⟩ .f32 4 ⟨3, 5, 2⟩)
  ∧ decode 0x504000A00004A0000169_0003 = .ok (.csplit ⟨0, false, 0, false, 0⟩ ⟨0, 0, 4⟩ ⟨0, 0, 1⟩ (.imm 0x90003))
  ∧ decode 0x90080000000960000300_000C = .ok (.sendq ⟨0, false, 0, false, 0⟩ 2 9 3 12)
  ∧ decode 0x90440000000560000500_0008 = .ok (.replyq ⟨0, false, 0, false, 0⟩ 1 5 5 8)
  ∧ decode 0x908020000009A0000300_0004
      = .ok (.sendc ⟨0, false, 0, false, 0⟩ .copy 9 ⟨0, 0, 3⟩ 4)
  ∧ decode 0xA1A000400125A0080200_000A
      = .ok (.aopr ⟨0, false, 0, false, 0⟩ 8 0 (.remote 9 5) ⟨4, 0, 2⟩ 10)
  ∧ decode 0xA04000A00001A0000200_0003 = .ok (.barrive ⟨0, false, 0, false, 0⟩ ⟨0, 0, 1⟩ (some ⟨0, 0, 2⟩) 3)
  ∧ decode 0xA0C000A00005A0000160_0002 = .ok (.clook ⟨0, false, 0, false, 0⟩ ⟨0, 0, 5⟩ ⟨0, 0, 1⟩ (.imm 2))
  ∧ decode 0xA1000000000400000000_0000 = .ok (.specq ⟨0, false, 0, false, 0⟩ 4)
  ∧ decode 0xA22C00E000C600000600_0007 = .ok (.collopen ⟨0, false, 0, false, 0⟩ .f32 (.land 6) 6 7)
  ∧ decode 0xA2400000000000000800_0000 = .ok (.collclose ⟨0, false, 0, false, 0⟩ 8)
  ∧ decode 0xA1EC00E000C400000800_000A = .ok (.coll ⟨0, false, 0, false, 0⟩ .f32 (.land 4) 8 10)
  ∧ decode 0x03000000000A00000B00_000C = .ok (.tlbi ⟨0, false, 0, false, 0⟩ 10 11 12)
  ∧ decodeSteward 0x01C4B60B = .mvFill 12 9 28
  ∧ decodeSteward 0x0004050B = .mvNext 10 8 0

/-- Decoding the word of a well-formed instruction gives it back, with every operand at every value that the encoding
admits: no bit of an encoding is dropped (R131 to R143). -/
def Obligations.EncodedWordDecodesBack : Prop :=
  ∀ (i : Instr) (c : Code), i.wellFormed = true → encode i = some c → decodeTableWord c.nbits c.w = some i

/-- Every bit of a legal Tchina word is accounted for: the instruction that the decoder reads encodes to the same word, and
is well-formed (R131 to R142). -/
def Obligations.LegalWordEncodesBack : Prop :=
  ∀ (w : Nat) (i : Instr), w < 2 ^ 96 → decode w = .ok i → encode i = some ⟨96, w⟩ ∧ i.wellFormed = true

/-- The step that a task's turn takes when its context issues (R126, R132): the word at PC, fetched from the kernel image
without an uncorrectable memory error, is decoded and run by `exec` in the state after the turn's cycles have passed, the
core has noted the issue and the strike horizon's history the context. A fetch that meets no memory error changes nothing,
and `ctxRemember` nothing unless the strike horizon is on. The steward's turn runs the instruction that its parcel at pc
decodes to, and an event's turn runs the event (R302, R303, log 1). With an empty agenda a cycle passes; one that passes
changes nothing but the time while no landing hold keeps a write and nothing waits for its time. -/
def Obligations.StepRunsTheDecodedInstruction : Prop :=
  (∀ (s v : State) (t : Turn) (rest : List Turn) (w : Who) (i : Instr),
      s.agenda = t :: rest → t.act = .core →
      let s' := s.begin t rest
      let u := s'.issues.ctxRemember
      let pc := s'.regs.pc.toNat
      s'.issuer = some w → s'.mayIssue = true → w.image.legal pc = true →
      u.imageCheck w (w.image.codeOff + pc) 12 = .ok v → decode (u.iword w.part w.image pc) = .ok i →
      step s = exec i v ∧ (Clean s' → v = u) ∧ (s'.shz s'.cur.tile = false → u = s'.issues)
        ∧ u.ctx = s'.ctx ∧ u.mem = s'.mem ∧ s'.cycle = s.cycle + t.dt ∧ s'.cur = t.cur ∧ s'.agenda = rest)
  ∧ (∀ (s : State) (t : Turn) (rest : List Turn), (s.agenda = [] → step s = .next (s.pass 1).catchUp)
      ∧ (Quiescent s → s.catchUp = s)
      ∧ (∀ n, (∀ x ∈ s.tiles, x.2.loc.landHold = []) → s.pass n = { s with cycle := s.cycle + n })
      ∧ (s.agenda = t :: rest →
          let s' := s.begin t rest
          (∀ i, t.act = .event i → step s = exec i s')
          ∧ (t.act = .steward → s'.stw.prog ≠ .builtin → s'.stwStopped = false → s'.stw.runs = true →
              inScratch s'.stw.pc.toNat (stewardLength (s'.stw.scratchNat s'.stw.pc.toNat 2)) = true →
              step s = exec (decodeSteward (s'.stw.scratchNat s'.stw.pc.toNat 4)) s')))

/-- A word at PC that is illegal, or a PC that is no legal code offset, traps with ILLEGAL, subcode 0x00, whatever the
word's guard says (R141, R142). -/
def Obligations.IllegalWordTraps : Prop :=
  ∀ (s : State) (t : Turn) (rest : List Turn) (w : Who),
    s.agenda = t :: rest → t.act = .core →
    let s' := s.begin t rest
    let pc := s'.regs.pc.toNat
    s'.issuer = some w → s'.mayIssue = true → Delivers s' w →
    (w.image.legal pc = false
      ∨ (∃ v, s'.issues.ctxRemember.imageCheck w (w.image.codeOff + pc) 12 = .ok v)
        ∧ ∃ e, decode (s'.issues.iword w.part w.image pc) = .error e) →
    ∃ u, step s = .next u ∧ Trapped s' u w cIllegal 0

/-- No instruction and no event is refused: every one answers a next state, but for an access to a physical address that
does not exist (Table 1.1): there the model stops, which is its own choice (log 63, DESIGN CHOICE). -/
def Obligations.EveryInstructionAnswers : Prop :=
  ∀ (i : Instr) (s : State), (∃ t, exec i s = .next t) ∨ exec i s = .fault .absentAddress

/-- R135. G = 0000 is true, 0nnn is p<n>, 1nnn is not p<n>, 1000 is illegal; a false guard suppresses every guarded instruction
but SEL: PC advances by 12, and registers, memory, counters, flags, queues and engines stand (the hold of R136 does not apply
to it). A matrix instruction in a NOMX kernel traps at decode and is left out. SEL executes either way and its guard
selects. -/
def Obligations.FalseGuardSuppresses : Prop :=
  (∀ r : Regs, guardTrue r 0 = true)
  ∧ (∀ (r : Regs) (n : BitVec 3), n ≠ 0 →
      guardTrue r (n.setWidth 4) = r.readP n ∧ guardTrue r (8 ||| n.setWidth 4) = !r.readP n)
  ∧ (∀ (w : Nat) (i : Instr), field w 78 4 = 8 → decode w ≠ .ok i)
  ∧ (∀ (i : Instr) (s : State) (w : Who) (h : Hint), i.hint? = some h → s.issuer = some w → guardTrue s.regs h.g = false →
      w.image.nomx = false ∨ isMatrix i = false → (∀ t d a b, i ≠ .sel h t d a b) →
      exec i s = .next (s.stepped { h with stag := 0 } id))
  ∧ ∀ (s : State) (w : Who) (h : Hint) (t : Ty) (d a : Reg) (b : RegImm), s.issuer = some w →
      exec (.sel h t d a b) s = .next (s.stepped h fun r => r.writeX d (wordOfInt (wrapInt
        (if guardTrue s.regs h.g then intOf (s.x a) t else intOf (RegImm.value b s) t) t)))

/-- x0 reads zero and p0 true, writes to them are discarded; any other register reads as it was last written, and a write
leaves every other register alone (R137, R138). -/
def Obligations.RegisterFile : Prop :=
  ∀ (r : Regs) (i j : Reg) (v : Word) (p q : Preg) (b : Bool) (m n : Nat) (c : Cap),
    r.readX 0 = 0 ∧ r.writeX 0 v = r ∧ r.readP 0 = true ∧ r.writeP 0 b = r
    ∧ (i ≠ 0 → (r.writeX i v).readX i = v) ∧ (j ≠ i → (r.writeX i v).readX j = r.readX j)
    ∧ (p ≠ 0 → (r.writeP p b).readP p = b) ∧ (q ≠ p → (r.writeP p b).readP q = r.readP q)
    ∧ (r.writeC m (some c)).readC m = some c ∧ (n ≠ m → (r.writeC m (some c)).readC n = r.readC n)
    ∧ (n ≠ m → (r.writeC m none).readC n = r.readC n)

/-- Every step keeps memory in its canonical form: addresses rise and no entry equals what an unlisted address reads
as. -/
def Obligations.StepsKeepMemoryCanonical : Prop := Kept fun s => Memory.wf s.mem = true

/-- Memory after reset lists nothing and has the canonical form; no partition, no kernel and no task exists, W is 4 µs (R403), the cycle
is 0 (R100). The x registers are 0 and the agenda is empty, which are the model's own (logs 2 and 1, DESIGN CHOICE). -/
def Obligations.ResetState : Prop :=
  Memory.wf State.reset.mem = true ∧ State.reset.mem = [] ∧ State.reset.parts = [] ∧ State.reset.cycle = 0
  ∧ State.reset.agenda = []
  ∧ (∀ t c, State.reset.whoAt t c = none)
  ∧ (∀ t c i, (State.reset.ctxAt t c).regs.readX i = 0)
  ∧ State.reset.fabric.wlen = 4

/-! ## Scalar results (classes 0x0 to 0x3) -/

/-- The integer instructions (R173, R177): operands read at the width of T, the exact result narrowed once, logical results
read as type T. Only x[D], PC and the issue hold change. -/
def Obligations.IntegerResults : Prop :=
  ∀ (s : State) (w : Who) (h : Hint) (t : Ty) (d a : Reg) (b : RegImm), Issues s h w →
    let x := intOf (s.x a) t
    let y := intOf (RegImm.value b s) t
    let p := pattern (s.x a) t
    let q := pattern (RegImm.value b s) t
    let sh := (y % t.width).toNat
    let puts (i : Instr) (v : Int) : Prop := exec i s = .next (s.stepped h fun r => r.writeX d (wordOfInt v))
    puts (.add h t d a b) (narrowInt (x + y) t h.sat)
    ∧ puts (.sub h t d a b) (narrowInt (x - y) t h.sat)
    ∧ puts (.mul h t d a b) (narrowInt (x * y) t h.sat)
    ∧ puts (.mulh h t d a b) (narrowInt ((x * y).fdiv (2 ^ t.width)) t h.sat)
    ∧ puts (.div h t d a b) (narrowInt (if y = 0 then (if t.isSignedInt then -1 else 2 ^ t.width - 1) else x.tdiv y) t h.sat)
    ∧ puts (.rem h t d a b) (narrowInt (if y = 0 then x else x - y * x.tdiv y) t h.sat)
    ∧ puts (.and h t d a b) (intIn t (p &&& q))
    ∧ puts (.or h t d a b) (intIn t (p ||| q))
    ∧ puts (.xor h t d a b) (intIn t (p ^^^ q))
    ∧ puts (.andn h t d a b) (intIn t (p &&& (2 ^ t.width - 1 - q)))
    ∧ puts (.shl h t d a b) (narrowInt (x * 2 ^ sh) t h.sat)
    ∧ puts (.shr h t d a b) (intIn t (p / 2 ^ (q % t.width)))
    ∧ puts (.sra h t d a b) (intIn t (wrapNat ((signExtend p t.width).fdiv (2 ^ (q % t.width))) t.width))
    ∧ puts (.rot h t d a b)
        (intIn t ((p * 2 ^ (q % t.width) + p / 2 ^ (t.width - q % t.width)) % 2 ^ t.width))
    ∧ puts (.min h t d a b) (narrowInt (min x y) t h.sat)
    ∧ puts (.max h t d a b) (narrowInt (max x y) t h.sat)
    ∧ puts (.mad h t d a b) (narrowInt (intOf (s.x d) t + x * y) t h.sat)

/-- SEL always executes and writes the operand that its guard selects, wrapped (R178); LI writes its immediate sign-extended
(R180). The integer compares and the predicate instructions write p<d> (R179, R181). -/
def Obligations.SelectsAndCompares : Prop :=
  (∀ (s : State) (w : Who) (h : Hint) (t : Ty) (d a : Reg) (b : RegImm) (v : BitVec 48), s.issuer = some w →
      exec (.sel h t d a b) s = .next (s.stepped h fun r => r.writeX d (wordOfInt (wrapInt
        (if guardTrue s.regs h.g then intOf (s.x a) t else intOf (RegImm.value b s) t) t)))
      ∧ (guardTrue s.regs h.g = true → exec (.li h d v) s = .next (s.stepped h fun r => r.writeX d (v.signExtend 64))))
  ∧ (∀ (s : State) (w : Who) (h : Hint) (t : Ty) (d m n : Preg) (a : Reg) (b : RegImm), Issues s h w →
      let x := signExtend (s.x a).toNat t.width
      let y := signExtend (RegImm.value b s).toNat t.width
      let p := pattern (s.x a) t
      let q := pattern (RegImm.value b s) t
      let puts (i : Instr) (v : Bool) : Prop := exec i s = .next (s.stepped h fun r => r.writeP d v)
      puts (.cmpeq h t d a b) (decide (x = y))
      ∧ puts (.cmpne h t d a b) (decide (x ≠ y))
      ∧ puts (.cmplt h t d a b) (decide (x < y))
      ∧ puts (.cmple h t d a b) (decide (x ≤ y))
      ∧ puts (.cmpltu h t d a b) (decide (p < q))
      ∧ puts (.cmpleu h t d a b) (decide (p ≤ q))
      ∧ puts (.pand h d m n) (s.regs.readP m && s.regs.readP n)
      ∧ puts (.por h d m n) (s.regs.readP m || s.regs.readP n)
      ∧ puts (.pxor h d m n) (xor (s.regs.readP m) (s.regs.readP n))
      ∧ puts (.pnot h d m) (!s.regs.readP m))

/-- The bit instructions (R182 to R185), each result given by its bits: POPC counts, CLZ and CTZ find the outermost set
bit, FNS the n-th, BREV and BSWAP reverse, BEXT, BEXTS and BINS move a field, PDEP and PEXT scatter and gather. BEXT,
BEXTS and BINS need a descriptor whose width is at most 64, an immediate one within 13 bits; with any other they trap with
ILLOPND. -/
def Obligations.BitResults : Prop :=
  ∀ (s : State) (w : Who) (h : Hint) (t : Ty) (d a b : Reg) (c : RegImm), Issues s h w →
    let p := pattern (s.x a) t
    let q := pattern (s.x b) t
    let puts (i : Instr) (v : Nat) : Prop := exec i s = .next (s.stepped h fun r => r.writeX d (wordOfInt (intIn t v)))
    let desc := (match c with | .reg r => (s.x r).toNat % 2 ^ 13 | .imm v => (immWord v).toNat)
    let o := field desc 0 6
    let f := field desc 6 7
    puts (.popc h t d a) ((List.range t.width).countP fun i => bit p i)
    ∧ puts (.clz h t d a) (if p = 0 then t.width else t.width - 1 - Nat.log2 p)
    ∧ puts (.ctz h t d a) (((List.range t.width).find? fun i => bit p i).getD t.width)
    ∧ puts (.fns h t d a c) (((List.range t.width).filter fun i => bit p i).getD (RegImm.nat c s) t.width)
    ∧ (∃ v, puts (.brev h t d a) v ∧ v < 2 ^ t.width ∧ ∀ i < t.width, bit v i = bit p (t.width - 1 - i))
    ∧ puts (.bswap h t d a) (leNat (leBytes (t.width / 8) p).reverse)
    ∧ puts (.pdep h t d a b) (pdepBits t.width p q)
    ∧ puts (.pext h t d a b) (pextBits t.width p q)
    ∧ (desc < 2 ^ 13 → f ≤ 64 →
        exec (.bext h t d a c) s = .next (s.stepped h fun r => r.writeX d (word (p / 2 ^ o % 2 ^ f)))
        ∧ exec (.bexts h t d a c) s
            = .next (s.stepped h fun r => r.writeX d
              (wordOfInt (intIn t (wrapNat (signExtend (p / 2 ^ o % 2 ^ f) f) t.width))))
        ∧ (f = 0 ∨ t.width ≤ o → exec (.bins h t d a c) s = .next (s.stepped h id))
        ∧ (f ≠ 0 → o < t.width → puts (.bins h t d a c) (insertBits t.width (pattern (s.x d) t) p o f)))
    ∧ (2 ^ 13 ≤ desc ∨ 64 < f → Delivers s w →
        let traps (i : Instr) : Prop := ∃ u, exec i s = .next u ∧ Trapped s u w cIllopnd 0
        traps (.bext h t d a c) ∧ traps (.bexts h t d a c) ∧ traps (.bins h t d a c))

/-- The floating-point instructions (R187 to R191): the exact value of the formula rounded once in Mode(I), the sticky flags
set, minimum and maximum, compares, conversion and class. FCVT traps with ILLOPND on a source code that it does not accept, and with
SAT from floating point to an integer. -/
def Obligations.FloatResults : Prop :=
  ∀ (s : State) (w : Who) (h : Hint) (t : Ty) (d a b : Reg) (p : Preg) (i : Imm), Issues s h w →
    let m := modeOf h.rnd s.regs.fpstat
    let read (r : Reg) : Machine.Num := decodeNum t (pattern (s.x r) t)
    let rounds (i : Instr) (v : Machine.Num × Flags) (ops : List Machine.Num) : Prop :=
      exec i s = .next (s.stepped h fun r =>
        (r.writeX d (word (round v.1 t m h.sat).bits)).setFlags ((round v.1 t m h.sat).fl ||| (v.2 ||| sigFlag ops)))
    let compares (i : Instr) (c : Cond) : Prop :=
      exec i s = .next (s.stepped h fun r => (r.writeP p (condHolds c (read a) (read b))).setFlags
        (condFlags c (read a) (read b)))
    let picks (i : Instr) (max : Bool) : Prop :=
      let v := minMax t max (pattern (s.x a) t) (pattern (s.x b) t)
      exec i s = .next (s.stepped h fun r => (r.writeX d (word v.bits)).setFlags v.fl)
    rounds (.fadd h t d a b) (addNum m (read a) (read b)) [read a, read b]
    ∧ rounds (.fsub h t d a b) (subNum m (read a) (read b)) [read a, read b]
    ∧ rounds (.fmul h t d a b) (mulNum (read a) (read b)) [read a, read b]
    ∧ rounds (.ffma h t d a b) (fmaNum m (read a) (read b) (read d)) [read a, read b, read d]
    ∧ rounds (.fdiv h t d a b) (divNum (read a) (read b)) [read a, read b]
    ∧ rounds (.fsqrt h t d a) (sqrtNum (read a)) [read a]
    ∧ picks (.fmin h t d a b) false ∧ picks (.fmax h t d a b) true
    ∧ compares (.fcmpeq h t p a b) .eq ∧ compares (.fcmplt h t p a b) .lt
    ∧ compares (.fcmple h t p a b) .le ∧ compares (.fcmpun h t p a b) .un
    ∧ (∀ u, cvtSource i = some u → (h.sat && u.isFloat && t.isInt) = false →
        let r' := convert u t (pattern (s.x a) u) m h.sat
        exec (.fcvt h t d a i) s = .next (s.stepped h fun r =>
          (r.writeX d (if t.isInt then wordOfInt (intIn t r'.bits) else word r'.bits)).setFlags r'.fl))
    ∧ (cvtSource i = none ∨ (∃ u, cvtSource i = some u ∧ (h.sat && u.isFloat && t.isInt) = true) → Delivers s w →
        ∃ u, exec (.fcvt h t d a i) s = .next u ∧ Trapped s u w cIllopnd 0)
    ∧ exec (.fclass h t d a) s = .next (s.stepped h fun r => r.writeX d (word (2 ^ classOf t (pattern (s.x a) t))))

/-- NOP and the branches (R192, R193, R203): where PC goes, the link of CALL, the count of LOOP. An absolute target is a
legal code offset. CALL through x31 takes the target from the old x31, before it writes the link, which is the model's reading (log 6,
DEDUCED). -/
def Obligations.BranchResults : Prop :=
  ∀ (s : State) (w : Who) (h : Hint) (a : Reg) (k : Imm), Issues s h w →
    let next := s.regs.pc + 12
    let target := s.regs.pc + 12 * k.signExtend 32
    let count := s.x a - 1
    exec (.nop h) s = .next (s.stepped h id)
    ∧ exec (.br h k) s = .next (s.jumped h target id)
    ∧ exec (.call h (.imm k)) s = .next (s.jumped h target fun r => r.writeX 31 (next.setWidth 64))
    ∧ exec (.loop h a k) s
        = .next (s.jumped h (if count = 0 then next else target) fun r => r.writeX a count)
    ∧ (w.image.legal (s.x a).toNat = true →
        exec (.bri h a) s = .next (s.jumped h ((s.x a).setWidth 32) id)
        ∧ exec (.call h (.reg a)) s
            = .next (s.jumped h ((s.x a).setWidth 32) fun r => r.writeX 31 (next.setWidth 64)))
    ∧ (w.image.legal (s.x 31).toNat = true → exec (.ret h) s = .next (s.jumped h ((s.x 31).setWidth 32) id))

/-- GETS reads the special registers of Table 7.4, SETS writes %fpstat when the reserved bits are zero, WDOG with enough of
its budget left does nothing (R139, R199, R200). -/
def Obligations.SpecialRegisters : Prop :=
  ∀ (s : State) (w : Who) (h : Hint) (d : Reg) (a : SReg) (b : RegImm), Issues s h w →
    let gets (v : Word) : Prop := exec (.gets h d a) s = .next (s.stepped h fun r => r.writeX d v)
    (a = .tile → gets (word s.cur.tile)) ∧ (a = .chip → gets (word s.chip)) ∧ (a = .ctx → gets (word s.cur.ctx))
    ∧ (a = .part → gets (word w.part.prec.pnum)) ∧ (a = .rank → gets (word (w.kernel.rank s.cur.tile)))
    ∧ (a = .nrank → gets (word w.kernel.tiles.length)) ∧ (a = .hlb → gets (word (hilbert s.cur.tile)))
    ∧ (a = .fpstat → gets s.regs.fpstat) ∧ (a = .wdog → gets (word (if w.image.wh = 0 then 896 else w.image.wh)))
    ∧ (a = .refsched → gets 0x100080)
    ∧ (w.image.det = false → (a = .cycle → gets (word s.cycle)) ∧ (a = .window → gets (word s.window)))
    ∧ (RegImm.value b s &&& ~~~(0x33F : Word) = 0 →
        exec (.sets h .fpstat b) s = .next (s.stepped h fun r => { r with fpstat := RegImm.value b s }))
    ∧ (RegImm.nat b s ≤ 1080 →
        ¬((s.ctx.run.dispatched + w.image.budget : Nat) : Int) - s.cycle < RegImm.nat b s →
        exec (.wdog h b) s = .next (s.stepped h id))

/-- The frame of the scalar instructions: when one answers a next state, either nothing at all changed, or the context slot
of the turn alone did; there every x register but the destination, every predicate but the destination, every
capability, view and ring register, the run of the task but its issue cycle and its rejected pages, what it speculates on, its matrix
state, and every byte of memory stand. %fpstat changes in floating-point instructions only, and there in no other way than that
sticky flags, bits [5:0], are set. BEXT, BEXTS, BINS and FCVT are taken with the operands on which they do not trap. -/
def Obligations.ScalarFrame : Prop :=
  ∀ (s u : State) (h : Hint) (t y : Ty) (d a b : Reg) (p m n : Preg) (c : RegImm) (i : Imm) (v : BitVec 48),
    let same : Prop := OnlyContext s u ∧ SameMemory s u ∧ u.regs.c = s.regs.c ∧ u.regs.v = s.regs.v ∧ u.regs.h = s.regs.h
      ∧ u.ctx.spec = s.ctx.spec ∧ u.ctx.mx = s.ctx.mx
      ∧ u.ctx.run = { s.ctx.run with rejected := u.ctx.run.rejected, issueAt := u.ctx.run.issueAt }
    let onlyX : Prop := (∀ r, r ≠ d → u.x r = s.x r) ∧ u.regs.p = s.regs.p
    let onlyP : Prop := u.regs.x = s.regs.x ∧ ∀ q, q ≠ p → u.regs.readP q = s.regs.readP q
    let flags : Prop := s.regs.fpstat &&& u.regs.fpstat = s.regs.fpstat ∧ u.regs.fpstat >>> 6 = s.regs.fpstat >>> 6
    let regs (i : Instr) : Prop := exec i s = .next u → u = s ∨ (same ∧ onlyX ∧ u.regs.fpstat = s.regs.fpstat)
    let floats (i : Instr) : Prop := exec i s = .next u → u = s ∨ (same ∧ onlyX ∧ flags)
    let preds (i : Instr) : Prop := exec i s = .next u → u = s ∨ (same ∧ onlyP ∧ u.regs.fpstat = s.regs.fpstat)
    let compares (i : Instr) : Prop := exec i s = .next u → u = s ∨ (same ∧ onlyP ∧ flags)
    let desc := (match c with | .reg r => (s.x r).toNat % 2 ^ 13 | .imm v => (immWord v).toNat)
    regs (.add h t d a c) ∧ regs (.sub h t d a c) ∧ regs (.mul h t d a c) ∧ regs (.mulh h t d a c)
    ∧ regs (.div h t d a c) ∧ regs (.rem h t d a c) ∧ regs (.and h t d a c) ∧ regs (.or h t d a c)
    ∧ regs (.xor h t d a c) ∧ regs (.andn h t d a c) ∧ regs (.shl h t d a c) ∧ regs (.shr h t d a c)
    ∧ regs (.sra h t d a c) ∧ regs (.rot h t d a c) ∧ regs (.min h t d a c) ∧ regs (.max h t d a c)
    ∧ regs (.mad h t d a c) ∧ regs (.sel h t d a c) ∧ regs (.li h d v) ∧ regs (.popc h t d a) ∧ regs (.clz h t d a)
    ∧ regs (.ctz h t d a) ∧ regs (.fns h t d a c) ∧ regs (.brev h t d a) ∧ regs (.bswap h t d a)
    ∧ regs (.pdep h t d a b) ∧ regs (.pext h t d a b) ∧ regs (.fclass h t d a)
    ∧ floats (.fadd h t d a b) ∧ floats (.fsub h t d a b) ∧ floats (.fmul h t d a b) ∧ floats (.ffma h t d a b)
    ∧ floats (.fdiv h t d a b) ∧ floats (.fsqrt h t d a) ∧ floats (.fmin h t d a b) ∧ floats (.fmax h t d a b)
    ∧ preds (.cmpeq h t p a c) ∧ preds (.cmpne h t p a c) ∧ preds (.cmplt h t p a c) ∧ preds (.cmple h t p a c)
    ∧ preds (.cmpltu h t p a c) ∧ preds (.cmpleu h t p a c) ∧ preds (.pand h p m n) ∧ preds (.por h p m n)
    ∧ preds (.pxor h p m n) ∧ preds (.pnot h p m)
    ∧ compares (.fcmpeq h t p a b) ∧ compares (.fcmplt h t p a b) ∧ compares (.fcmple h t p a b) ∧ compares (.fcmpun h t p a b)
    ∧ (desc < 2 ^ 13 → field desc 6 7 ≤ 64 → regs (.bext h t d a c) ∧ regs (.bexts h t d a c) ∧ regs (.bins h t d a c))
    ∧ (cvtSource i = some y → (h.sat && y.isFloat && t.isInt) = false → floats (.fcvt h t d a i))

/-! ## Traps, privilege, the end of a task (R194 to R202, R423) -/

/-- TRAP and BRK deliver a trap whose subcode is their operand, which must be below 256 (R196, R423). Instructions that need
a supervisor kernel trap with PRIV in any other (R149, R201, R202, R297): TLBI, HALT, CINFO of a hallmark and of a CT index.
-/
def Obligations.TrapsTaken : Prop :=
  (∀ (s : State) (w : Who) (h : Hint) (b : Imm), Issues s h w → Delivers s w →
      let n := (immWord b).toNat
      let traps (i : Instr) (code sub : Nat) : Prop := ∃ u, exec i s = .next u ∧ Trapped s u w code sub
      (n < 256 → traps (.trap h b) cTrapsw n ∧ traps (.brk h b) cBrkpt n)
      ∧ (256 ≤ n → traps (.trap h b) cIllopnd 0 ∧ traps (.brk h b) cIllopnd 0))
  ∧ (∀ (s : State) (w : Who) (h : Hint) (d a b : Reg) (c : CapOp) (i : Imm), Issues s h w → Delivers s w →
      w.kernel.supv = false →
      let traps (i : Instr) : Prop := ∃ u, exec i s = .next u ∧ Trapped s u w cPriv 0
      traps (.tlbi h d a b) ∧ traps (.halt h)
      ∧ ((immWord i).toNat = 10 ∨ (immWord i).toNat = 11 → traps (.cinfo h d c i)))

/-- ERET k goes back to the fault PC plus 12k, with the kept resume point when k is 0; c15 is empty, the trap-entry state
ends, nothing else of the registers changes (R198). Outside a trap entry, and with another k, its ILLOPND goes to
containment and not to the trap entry (R426, which the model takes to govern over R198 by R6: log 91, DEDUCED). TLBI of a
supervisor kernel adds one invalidation, with its range and scope, to the partition's queue and completes at issue (R201,
R277). -/
def Obligations.SystemInstructions : Prop :=
  (∀ (s : State) (w : Who) (h : Hint) (b : Imm), Issues s h w →
      let k := (immWord b).toNat
      (s.ctx.run.trapEntry = true → k ≤ 1 → ∃ t, exec (.eret h b) s = .next t ∧ t.mem = s.mem ∧ t.cur = s.cur
        ∧ t.regs = { s.regs.writeC 15 none with
            pc := s.ctx.run.faultPc + BitVec.ofNat 32 (12 * k), resume := if k = 0 then s.ctx.run.kept else .none }
        ∧ t.ctx.run = { s.ctx.run with
            trapEntry := false, kept := .none, issueAt := s.cycle + 1 + h.stag.toNat })
      ∧ (s.ctx.run.trapEntry = false ∨ 1 < k → s.ctx.spec.on = false →
          exec (.eret h b) s = .next (s.passFault w (.of cIllopnd 0))))
  ∧ (∀ (s : State) (w : Who) (h : Hint) (d a b : Reg), Issues s h w → w.kernel.supv = true → s.ctx.spec.on = false →
      let base := (s.x d).toNat
      let len := (s.x a).toNat
      let sc := (s.x b).toNat
      field sc 33 31 = 0 → bit sc 24 = true ∨ bit w.part.prec.vfmask (field sc 17 7) = true → base < 2 ^ 53 →
      base + len ≤ 2 ^ 56 →
      ∃ t, exec (.tlbi h d a b) s = .next t ∧ Advanced s t h ∧ t.regs = { s.regs with pc := s.regs.pc + 12, resume := .none }
        ∧ t.mem = s.mem ∧ t.cts = s.cts ∧ ∀ p, aget? s.parts w.pnum = some p → aget? t.parts w.pnum = some { p with invq := p.invq ++
            [{ s2 := false, vf := if bit sc 24 then none else some (field sc 17 7),
               asid := if bit sc 16 then none else some (field sc 0 16), base := base, len := len, waiting := w.part.tiles,
               notify := some (s.cur.tile, field sc 25 8) }] })

/-- END, ENDC and HALT (R52, R123, R194, R195, R202): the slot is left without a task and with fresh registers; the record is
freed, or kept with ENDC's continuation; no byte of memory changes. The end waits until the accesses under the capabilities
that it gives up have been performed (R362, R364). HALT of a supervisor kernel ends its task as END
does and starts the halt of its partition unless one has begun. -/
def Obligations.TaskEnds : Prop :=
  ∀ (s : State) (w : Who) (h : Hint) (d : Imm) (a : Reg) (b : RegImm), Issues s h w → Prompt s → s.ctx.vecBusy = none →
    s.ctx.mx.err = none → s.released s.cur.tile s.cur.ctx = true →
    let left (t : State) : Prop := t.ctx.run.task = none ∧ t.ctx.regs = .reset ∧ t.ctx.hold = .none ∧ t.cur = s.cur
      ∧ t.mem = s.mem
    let rec' (t : State) : Option TaskRec := aget? (t.tile s.cur.tile).loc.recs w.rec'
    (∃ t, exec (.endTask h) s = .next t ∧ left t
      ∧ (risesFrom none (s.tile s.cur.tile).loc.recs = true → rec' t = none))
    ∧ (w.image.legal (immWord d).toNat = true → (s.x a).toNat < 256 →
        ∃ t, exec (.endc h d a b) s = .next t ∧ left t
          ∧ ∃ q, rec' t = some q ∧ q.kslot = w.kslot ∧ q.sigmask = 0 ∧ q.retries = 0 ∧ q.cap = none
            ∧ q.img = recContinued w.task.img (immWord d).toNat (s.x a).toNat (RegImm.nat b s))
    ∧ (w.kernel.supv = true → ∃ t u, left t ∧ exec (.halt h) s = .next u
        ∧ u = if w.part.halt.isSome then t else t.startHalt w.pnum .halt)

/-! ## Loads and stores (R53, R283, R284) -/

/-- LD of an element on the chip: x[d] holds the bytes as the context sees them, sign-extended for a signed type; nothing
else of the registers and no byte of memory changes (R149, R283). ST of an element on the chip: the element's bytes are
those of the register, saturated under SAT; every other byte, every register and every CT entry stands (R149, R284). -/
def Obligations.LoadAndStore : Prop :=
  (∀ (s : State) (w : Who) (h : Hint) (t : Ty) (d : Reg) (a : CapOp) (k : Cap) (va : Nat), Issues s h w → Unhindered s →
      Clean s → OnChip s w a t.size .read k va →
      ∃ u, exec (.ld h t d a) s = .next u ∧ Computed s u h fun r => r.writeX d (loadedWord t (s.seen va t.size)))
  ∧ (∀ (s : State) (w : Who) (h : Hint) (t : Ty) (d : CapOp) (a : Reg) (k : Cap) (va : Nat), Issues s h w → Unhindered s →
      Prompt s → Memory.wf s.mem = true → OnChip s w d t.size .write k va →
      ∃ u, exec (.st h t d a) s = .next u ∧ Stored s u h va (leBytes t.size
        (if h.sat then wrapNat (saturate (if t.isSignedInt then (s.x a).toInt else ((s.x a).toNat : Int)) t) t.width
         else (s.x a).toNat % 2 ^ t.width)))

/-- The checks of R53 in their order, for a capability of this chip whose buffer is not being reclaimed: an empty
register and a missing right give CAPFAULT RIGHTS, a stale hallmark REVOKED, outstanding tokens NOTOWNER for a write, an
element outside the window BOUNDS. -/
def Obligations.AccessChecks : Prop :=
  ∀ (s : State) (w : Who) (h : Hint) (t : Ty) (d : Reg) (a : CapOp), Issues s h w → Delivers s w →
    let traps (i : Instr) (sub : Nat) : Prop := ∃ u, exec i s = .next u ∧ Trapped s u w cCapfault sub
    let off : Int := CapOp.index a s.regs * t.size
    (s.c a.c.toNat = none → traps (.ld h t d a) cRights ∧ traps (.st h t a d) cRights)
    ∧ ∀ k, s.c a.c.toNat = some k → k.chip = s.chip → (s.ct k.key).recl = none →
        let e := s.ct k.key
        let outside := off < 0 ∨ (k.bytes : Int) < off + t.size
        (s.current k = false → traps (.ld h t d a) cRevoked ∧ traps (.st h t a d) cRevoked)
        ∧ (s.current k = true → k.rights.r = false → traps (.ld h t d a) cRights)
        ∧ (s.current k = true → k.rights.r = true → outside → traps (.ld h t d a) cBounds)
        ∧ (s.current k = true → k.rights.w = false → traps (.st h t a d) cRights)
        ∧ (s.current k = true → k.rights.w = true → k.kind = .weight → w.kernel.supv = false → traps (.st h t a d) cRights)
        ∧ (s.current k = true → k.rights.w = true → k.kind ≠ .weight ∨ w.kernel.supv = true → 0 < e.tokOut + e.tokLost →
            traps (.st h t a d) cNotowner)
        ∧ (s.current k = true → k.rights.w = true → k.kind ≠ .weight ∨ w.kernel.supv = true → e.tokOut + e.tokLost = 0 →
            outside → traps (.st h t a d) cBounds)

/-! ## Views and rings (R286 to R292) -/

/-- VWSET takes the 64-byte record from the const section or from memory, VWGET gives it back or one of its fields,
VWSUB narrows one dimension, VWADV moves the offset; a ring view's outermost dimension may not be changed (R286 to R289). -/
def Obligations.ViewResults : Prop :=
  ∀ (s : State) (w : Who) (h : Hint) (d : Vreg) (x : Reg) (a : Vreg) (v : View) (b : Reg) (i : Imm) (n : RegImm)
    (c : CapOp) (k : Cap) (va : Nat), Issues s h w → d.toNat < w.image.nview →
    let puts (r : Regs) (v : View) : Regs := { r with v := aset r.v d.toNat v }
    let off := (immWord i).toNat
    (Clean s → off % 64 = 0 → off + 64 ≤ w.image.constLen →
      viewLegal (viewOf (s.imageNat w.part w.image (w.image.constOff + off) 64)) = true →
      exec (.vwset h d (.imm i)) s
        = .next (s.stepped h fun r => puts r (viewOf (s.imageNat w.part w.image (w.image.constOff + off) 64))))
    ∧ (Unhindered s → Clean s → OnChip s w c 64 .read k va → viewLegal (viewOf (leNat (s.seen va 64))) = true →
        ∃ u, exec (.vwset h d (.cap c)) s = .next u ∧ Computed s u h fun r => puts r (viewOf (leNat (s.seen va 64))))
    ∧ (a.toNat < w.image.nview → aget? s.regs.v a.toNat = some v →
        (Unhindered s → Prompt s → Memory.wf s.mem = true → OnChip s w c 64 .write k va →
          ∃ u, exec (.vwgetMemory h c a) s = .next u ∧ Stored s u h va (leBytes 64 (viewNat v)))
        ∧ (off ≤ 10 → exec (.vwgetField h x a i) s = .next (s.stepped h fun r => r.writeX x (viewField v off)))
        ∧ (let m := (s.x b).toNat
           let dim := field m 0 2
           let step := field m 8 8
           let start := field m 16 24
           let len := field m 40 24
           let st := v.stride.getD dim 0
           let o : Int := v.offset + start * st
           field m 2 6 = 0 → dim < v.rank → step ≠ 0 → len ≠ 0 → start + (len - 1) * step < v.ext.getD dim 0 →
           0 ≤ o → o < 2 ^ 40 → -(2 ^ 31) ≤ st * step → st * step < 2 ^ 31 → ¬(v.ringf = true ∧ dim + 1 = v.rank) →
           exec (.vwsub h d a b) s = .next (s.stepped h fun r => puts r
             { v with offset := o.toNat, ext := v.ext.set dim len, stride := v.stride.set dim (st * step) })))
    ∧ (aget? s.regs.v d.toNat = some v →
        let o : Int := v.offset + (RegImm.value n s).toInt * v.stride.getD off 0
        off < v.rank → off ≤ 3 → 0 ≤ o → o < 2 ^ 40 → ¬(v.ringf = true ∧ off + 1 = v.rank) →
        exec (.vwadv h d i n) s = .next (s.stepped h fun r => puts r { v with offset := o.toNat }))

/-- RBIND installs a ring from its 32-byte descriptor with HEAD, RELSD and the fill counter at zero, attaches it to a handle,
and removes it again with its capability; RADV advances HEAD and posts the credit, RSTAT gives the fill count or the
descriptor (R41, R290 to R292). -/
def Obligations.RingResults : Prop :=
  ∀ (s : State) (w : Who) (h : Hint) (x : Reg) (n : RegImm) (r : RingOp) (i : Imm) (a b : CapOp) (k c : Cap) (g : Ring)
    (va : Nat), Issues s h w → Prompt s → Unhindered s →
    let t := s.tile s.cur.tile
    let ring := RegImm.nat n s
    let m := leNat (s.seen va 32)
    let slog := field m 0 3
    let nlog := field m 3 4
    (Clean s → b.whole = true → s.capBusy b.c.toNat = false → ring < 16 → s.ring ring = none → s.c b.c.toNat = some c →
      OnChip s w a 32 .read k va → slog ≤ 6 → nlog ≤ 8 → bit m 7 = false → field m 38 2 = 0 → field m 48 16 = 0 →
      field m 192 64 = 0 → c.kind = .tile → c.agent = s.cur.tile → c.chip = s.chip →
      64 * 2 ^ slog * 2 ^ nlog ≤ c.bytes → c.rights.r = true → c.rights.w = true → c.rights.g = true →
      ∃ u, exec (.rbindInstall h n a b) s = .next u ∧ Computed s u h (fun q => q.writeC b.c.toNat none)
        ∧ ((u.tile s.cur.tile).loc.ctr (field m 40 8)).value = 0
        ∧ ∃ q, u.ring ring = some q ∧ q.head = 0 ∧ q.relsd = 0 ∧ q.cap = c ∧ q.slog2 = slog ∧ q.nlog2 = nlog
          ∧ q.kslot = w.kslot ∧ q.pctr = field m 8 8 ∧ q.ptile = field m 16 12 ∧ q.pchip = field m 28 10 ∧ q.fctr = field m 40 8)
    ∧ (r.count = 0 → r.h.toNat < w.image.nring ∨ r.h.toNat < 2 → (immWord i).toNat < 16 →
        s.ring (immWord i).toNat = some g → aget? s.regs.h r.h.toNat = none → s.heldByOther (immWord i).toNat = false →
        ∃ u, exec (.rbindAttach h r i) s = .next u
          ∧ Computed s u h (fun q => { q with h := aset q.h r.h.toNat (immWord i).toNat })
          ∧ (immWord i).toNat ∈ u.ctx.run.rings)
    ∧ (b.whole = true → ring < 16 → s.ring ring = some g → t.ringHeld ring = false → s.c b.c.toNat = none →
        (∀ q ∈ t.loc.recs, (∃ c, q.2.q = .running c) ∨ ∀ y ∈ recNeeds q.2.img, y.1 ≠ ring) →
        risesFrom none t.loc.rings = true →
        ∃ u, exec (.rbindRemove h n b) s = .next u ∧ Computed s u h (fun q => q.writeC b.c.toNat (some g.cap))
          ∧ u.ring ring = none)
    ∧ (aget? s.regs.h r.h.toNat = some ring → s.ring ring = some g →
        let q := if r.count = 0 then (s.x x).toNat else r.count.toNat
        (r.count = 0 ∨ x = 0 → q ≤ t.loc.fill g → 0 < q → g.pchip = s.chip → w.part.holds g.ptile = true →
          t.core.vn0Used < 32 →
          ∃ u e, exec (.radv h r x) s = .next u ∧ Computed s u h id
            ∧ e.pkt.body = .inc g.pctr q ((⟨g.pchip, g.ptile⟩ : Place) == ⟨s.chip, s.cur.tile⟩) ∧ e.pkt.dst = ⟨g.pchip, g.ptile⟩ ∧ e.pkt.vn = 0
            ∧ (u.tile s.cur.tile).core.inj = [e]
            ∧ u.ring ring = some { g with head := (g.head + q) % 2 ^ 32, relsd := (g.relsd + q) % 2 ^ 32 })
        ∧ (w.image.det = false →
          exec (.rstatFill h x r) s = .next (s.stepped h fun p => p.writeX x (word (t.loc.fill g)))))
    ∧ (w.image.det = false → (immWord i).toNat < 16 → s.ring (immWord i).toNat = some g → Memory.wf s.mem = true →
        OnChip s w a 32 .write k va →
        ∃ u, exec (.rstatDescriptor h a i) s = .next u ∧ Stored s u h va (leBytes 32 (ringNat g)))

/-! ## Capabilities (R279 to R300) -/

/-- Moves of capabilities and changes that need no home (R293, R296, R297): between registers, to and from a parking slot, with
a narrower window, with fewer rights, and the fields that CINFO reads. -/
def Obligations.CapabilityMoves : Prop :=
  ∀ (s : State) (w : Who) (h : Hint) (d a : CapOp) (b x : Reg) (n : RegImm) (i : Imm) (c : Cap), Issues s h w → Prompt s →
    d.whole = true → a.whole = true → s.capBusy d.c.toNat = false → s.capBusy a.c.toNat = false →
    let cd := d.c.toNat
    let ca := a.c.toNat
    let m := (s.x b).toNat
    let slot := (s.tile s.cur.tile).loc.slot (RegImm.nat n s)
    (s.c ca = some c →
      (s.c cd = none → exec (.cmovMove h d a) s = .next (s.stepped h fun r => (r.writeC ca none).writeC cd (some c)))
      ∧ (RegImm.nat n s < 256 → slot.open = true → s.written s.cur.tile s.cur.ctx c.key = true → exec (.cmovPark h n a) s = .next (((s.setC ca none).setSlot s.cur.tile
          (RegImm.nat n s) { slot with cap := some c, kslot := some w.kslot }).onward h))
      ∧ (cd = ca ∨ s.c cd = none → c.rights.g = true →
          (m < 2 ^ 48 → field m 24 24 + field m 0 24 ≤ c.wlen → exec (.cnarrow h d a b) s = .next (s.stepped h fun r =>
            (r.writeC ca none).writeC cd (some { c with woff := c.woff + field m 24 24, wlen := field m 0 24 })))
          ∧ (RegImm.nat n s < 16 → (Rights.ofCode (RegImm.nat n s)).sub c.rights = true →
              exec (.crights h d a n) s = .next (s.stepped h fun r =>
                (r.writeC ca none).writeC cd (some { c with rights := Rights.ofCode (RegImm.nat n s) })))))
    ∧ (RegImm.nat n s < 256 → s.c cd = none → slot.cap = some c → exec (.cmovUnpark h d n) s
        = .next (((s.setSlot s.cur.tile (RegImm.nat n s) { slot with cap := none, kslot := none }).setC cd (some c)).onward h))
    ∧ ((immWord i).toNat ≤ 11 → (immWord i).toNat < 10 ∨ (w.kernel.supv = true ∧ w.image.det = false) →
        exec (.cinfo h x a i) s = .next (s.stepped h fun r => r.writeX x (word (capInfo (s.c ca) (immWord i).toNat))))

/-- Fractions of a buffer whose home lies on this chip, is current and is not being reclaimed (R57, R294, R295, R298): the
entry counts the tokens that are out; CSPLIT takes from an exclusive capability, from a fraction or from a sealed one,
CJOIN gives tokens back, CMERGE adds two fractions with adjoining windows, CDROP gives up. CSPLIT, CJOIN and CDROP take the
buffer's entries out of the core's validation cache (R55); CSPLIT and CDROP wait until the context's writes under the
capability have been performed (R362, R364), and what CDROP gives up waits on its tile until nothing there accesses the buffer any more
(log 88) and the strike horizon lets it go (R450). `rememberEntry` writes the horizon's history, where there is one (log 45, DEDUCED).
CDROP of a capability of a retired entry traps with REVOKED, which the model takes from R50 against R298 (log 87, DEDUCED). -/
def Obligations.Fractions : Prop :=
  ∀ (s : State) (w : Who) (h : Hint) (d a : CapOp) (n : RegImm) (c x : Cap), Issues s h w → s.ctx.spec.on = false →
    d.whole = true → a.whole = true → s.capBusy d.c.toNat = false → s.capBusy a.c.toNat = false →
    c.chip = s.chip → s.current c = true → (s.ct c.key).recl = none →
    let cd := d.c.toNat
    let ca := a.c.toNat
    let t := s.cur.tile
    let e := s.ct c.key
    let k := field (RegImm.nat n s) 0 16
    let q := Rights.ofCode (field (RegImm.nat n s) 16 4)
    let v := s.dropValidation t c
    let written (y : Cap) : Prop := s.written t s.cur.ctx y.key = true
    (s.c ca = some c → s.c cd = none → RegImm.nat n s < 2 ^ 20 → q.w = false → q.sub c.rights = true → c.rights.g = true →
      written c →
      (c.mode = .exclusive → 1 ≤ k → e.tokOut + e.tokLost + k ≤ 65535 → exec (.csplit h d a n) s
        = .next ((((v.setCt c.key { e with tokOut := e.tokOut + k }).rememberEntry c k e).setC cd
            (some { c with mode := .fraction, rights := q, tokens := k })).onward h))
      ∧ (c.mode = .fraction → 1 ≤ k → k < c.tokens → exec (.csplit h d a n) s = .next (((v.setC ca
          (some { c with tokens := c.tokens - k })).setC cd (some { c with rights := q, tokens := k })).onward h))
      ∧ (c.mode = .sealed → k = 0 → exec (.csplit h d a n) s
          = .next ((v.setC cd (some { c with rights := q })).onward h)))
    ∧ (cd ≠ ca → s.c cd = some x → s.c ca = some c → sameBuffer x c = true → x.hallmark = c.hallmark → c.mode = .fraction →
        (x.mode = .exclusive → exec (.cjoin h d a) s
          = .next ((((v.setCt c.key { e with tokOut := e.tokOut - c.tokens }).rememberEntry c (-c.tokens) e).setC ca none).onward h))
        ∧ (x.mode = .fraction → ∀ o l, joinWindows x c = some (o, l) → exec (.cmerge h d a) s = .next (s.stepped h fun r =>
            (r.writeC ca none).writeC cd (some { x with
              tokens := x.tokens + c.tokens, rights := x.rights.inter c.rights, woff := o, wlen := l }))))
    ∧ (s.c cd = none → exec (.cdrop h d) s = .next (s.stepped h id))
    ∧ (s.c cd = some c →
        let gone := (s.setC cd none).dropValidation t c
        let g : Giving := ⟨c, w.pnum, w.kslot, cOk, .drop, s.horizonDue t, none, s.cur.ctx⟩
        (c.mode = .sealed ∨ c.mode = .lookahead ∨ written c → exec (.cdrop h d) s = .next ((gone.giveUp t g).onward h))
        ∧ (gone.mayGo t g = false → gone.giveUp t g = gone.onCore t fun k => { k with giving := k.giving ++ [g] })
        ∧ (gone.mayGo t g = true →
            (c.mode = .fraction → gone.giveUp t g = gone.setCt c.key { e with tokOut := e.tokOut - c.tokens })
            ∧ (c.mode = .sealed ∨ c.mode = .lookahead → gone.giveUp t g = gone)
            ∧ (c.mode = .exclusive → gone.giveUp t g = gone.reclaimPath w.pnum w.kslot t c cOk)))
    ∧ (s.c cd = some x → x.chip = s.chip → (s.ct x.key).state = .retired → x.mode = .sealed ∨ x.mode = .lookahead ∨ written x →
        Delivers s w → ∃ u, exec (.cdrop h d) s = .next u ∧ Trapped s u w cCapfault cRevoked)

/-- CSEAL turns an exclusive capability without outstanding tokens into a sealed one without W, for good: the entry is
sealed and its highest rights lose W; with tokens out it traps with CAPFAULT NOTOWNER (R299). CRECLAIM of a supervisor
kernel starts a reclaim at the entry (R65, R66, R300): every core and steward of the partition is to be invalidated. The
register form holds the context at the instruction; the slot form reserves the slot and goes on. -/
def Obligations.SealAndReclaim : Prop :=
  (∀ (s : State) (w : Who) (h : Hint) (d a : CapOp) (c : Cap), Issues s h w → s.ctx.spec.on = false →
      d.whole = true → a.whole = true → s.capBusy d.c.toNat = false → s.capBusy a.c.toNat = false →
      c.chip = s.chip → s.current c = true → (s.ct c.key).recl = none → s.c d.c.toNat = none → s.c a.c.toNat = some c →
      c.mode = .exclusive → c.rights.g = true → s.written s.cur.tile s.cur.ctx c.key = true →
      let e := s.ct c.key
      (e.tokOut + e.tokLost = 0 → e.laopen = false → exec (.cseal h d a) s
        = .next (((((s.setCt c.key { e with state := .sealed, maxr := { e.maxr with w := false } }).rememberEntry c 0 e).setC
            a.c.toNat none).setC d.c.toNat (some { c with mode := .sealed, rights := { c.rights with w := false } })).onward h))
      ∧ (0 < e.tokOut + e.tokLost → Delivers s w → ∃ t, exec (.cseal h d a) s = .next t ∧ Trapped s t w cCapfault cNotowner))
  ∧ (∀ (s : State) (w : Who) (h : Hint) (d : CapOp) (n : RegImm) (c : Cap), Issues s h w → s.ctx.spec.on = false →
      d.whole = true → s.capBusy d.c.toNat = false → s.c d.c.toNat = some c → w.kernel.supv = true → c.chip = s.chip →
      (s.ct c.key).state = .exclusive ∨ (s.ct c.key).state = .sealed → (s.ct c.key).part = w.pnum →
      (s.ct c.key).recl = none → (s.ct c.key).laopen = false →
      let tiles := ((aget? s.parts w.pnum).map Part.tiles).getD []
      let slot := (s.tile s.cur.tile).loc.slot (RegImm.nat n s)
      let begun (r : Caller) : State := s.setCt c.key { s.ct c.key with recl := some ⟨r, tiles, tiles⟩ }
      exec (.creclaimRegister h d) s = .next ((begun (.register s.cur.tile s.cur.ctx d.c.toNat w.kslot)).onCtx fun v =>
        { v with hold := .reclaim c.key d.c.toNat })
      ∧ (RegImm.nat n s < 256 → slot.open = true → exec (.creclaimSlot h d n) s
          = .next ((((begun (.slot s.cur.tile (RegImm.nat n s) (some w.kslot))).setC d.c.toNat none).setSlot s.cur.tile
              (RegImm.nat n s) { slot with reserved := true }).onward h)))

/-! ## Vector stream instructions (R204 to R229) -/

/-- The binary element-wise instructions (R213, R214, R218, R226, R227): for each element in ordinal order the operands are
read, the result is formed once and written, and its flags are set; an immediate scalar is narrowed once beforehand. The
unary element-wise instructions (R213, R220, R227 to R229). -/
def Obligations.VectorElementwise : Prop :=
  (∀ (s : State) (w : Who) (h : Hint) (t : Ty) (d a b' : Vreg) (b : Src) (b'' : ViewReg) (cond : Cond) (vd va : BoundView),
      Issues s h w → StreamReady s → bindView s w d true = .ok vd → bindView s w a false = .ok va →
      let m := s.mode h
      let runs (i : Instr) (dt at' bt : Ty) (readsD : Bool) (b : Src) (f : Nat → Nat → Nat → Res) : Prop :=
        ∀ vb fb es, bindSrc s w b bt m h.sat = .ok (vb, fb) →
          matchedInto s vd.view ((va :: viewsOf [vb]).map (·.view)) = .ok es →
          Admitted s w vd dt .write (indexOf es) (elements es) → Admitted s w va at' .read (indexOf es) (elements es) →
          (∀ x, vb = .view x → Admitted s w x bt .read (indexOf es) (elements es)) →
          (readsD = true → Admitted s w vd dt .read (indexOf es) (elements es)) →
          ∃ u, exec i s = .next u ∧ Streamed s u h ((s.setFlags fb).inOrder (elements es) fun k q =>
              let x := q.elemValue va at' (indexOf es k)
              let y := q.srcValue vb bt (indexOf es k)
              let z := if readsD then (q.elemValue vd dt (indexOf es k)).1 else 0
              q.putResult vd dt (indexOf es k) (f x.1 y.1 z) (x.2 ||| y.2))
            (captured (vd :: va :: viewsOf [vb]))
      let same (i : Instr) (f : Nat → Nat → Nat → Res) : Prop := runs i t t t false b f
      same (.vadd h t d a b) (fun x y _ => arith (fun x y _ => x + y) (fun m x y _ => addNum m x y) false t m h.sat x y 0)
      ∧ same (.vsub h t d a b) (fun x y _ => arith (fun x y _ => x - y) (fun m x y _ => subNum m x y) false t m h.sat x y 0)
      ∧ same (.vmul h t d a b) (fun x y _ => arith (fun x y _ => x * y) (fun _ x y _ => mulNum x y) false t m h.sat x y 0)
      ∧ runs (.vfma h t d a b) t t t true b (fun x y z => arith (fun x y z => x * y + z) fmaNum true t m h.sat x y z)
      ∧ same (.vmin h t d a b) (fun x y _ => minMax t false x y) ∧ same (.vmax h t d a b) (fun x y _ => minMax t true x y)
      ∧ runs (.vcmul h d a b'') .cf32 .cf32 .cf32 false (ViewReg.src b'') (fun x y _ => complexMul m h.sat x y)
      ∧ runs (.vcmp h t cond d a b) .u8 t t false b (fun x y _ =>
          ⟨if condHolds cond (decodeNum t x) (decodeNum t y) then 1 else 0, condFlags cond (decodeNum t x) (decodeNum t y)⟩)
      ∧ runs (.vscale h t d a b') t t .e8m0 false (.view b') (fun x y _ => scaleElem t m h.sat x y)
      ∧ runs (.vquant h t d a b') t .f32 .e8m0 false (.view b') (fun x y _ => quantElem t m h.sat x y)
      ∧ same (.vand h t d a b) (fun x y _ => ⟨x &&& y, 0⟩) ∧ same (.vor h t d a b) (fun x y _ => ⟨x ||| y, 0⟩)
      ∧ same (.vxor h t d a b) (fun x y _ => ⟨x ^^^ y, 0⟩)
      ∧ same (.vshl h t d a b) (fun x y _ => ⟨x * 2 ^ (y % t.width) % 2 ^ t.width, 0⟩)
      ∧ same (.vshr h t d a b) (fun x y _ => ⟨x / 2 ^ (y % t.width), 0⟩)
      ∧ same (.vsra h t d a b) (fun x y _ => ⟨wrapNat ((signExtend x t.width).fdiv (2 ^ (y % t.width))) t.width, 0⟩)
      ∧ same (.vfns h t d a b) (fun x y _ => ⟨fnsBits t.width x
          (match b with | .view _ => y | .reg r => (s.x r).toNat | .imm v => (immWord v).toNat), 0⟩))
  ∧ (∀ (s : State) (w : Who) (h : Hint) (t : Ty) (d a : Vreg) (b : Imm) (vd va : BoundView) (es : List Nat),
      Issues s h w → StreamReady s → bindView s w d true = .ok vd → bindView s w a false = .ok va →
      matchedInto s vd.view [va.view] = .ok es → Admitted s w vd t .write (indexOf es) (elements es) →
      let m := s.mode h
      let runs (i : Instr) (at' : Ty) (f : Nat → Res) : Prop :=
        Admitted s w va at' .read (indexOf es) (elements es) →
          ∃ u, exec i s = .next u ∧ Streamed s u h (s.inOrder (elements es) fun k q =>
              let x := q.elemValue va at' (indexOf es k)
              q.putResult vd t (indexOf es k) (f x.1) x.2)
            (captured [vd, va])
      runs (.vabs h t d a) t (signElem false t h.sat) ∧ runs (.vneg h t d a) t (signElem true t h.sat)
      ∧ runs (.vcopy h t d a) t (fun x => ⟨x, 0⟩) ∧ runs (.vnot h t d a) t (fun x => ⟨2 ^ t.width - 1 - x, 0⟩)
      ∧ runs (.vpopc h t d a) t (fun x => ⟨popcount t.width x, 0⟩) ∧ runs (.vclz h t d a) t (fun x => ⟨clzBits t.width x, 0⟩)
      ∧ runs (.vctz h t d a) t (fun x => ⟨ctzBits t.width x, 0⟩) ∧ runs (.vbrev h t d a) t (fun x => ⟨brevBits t.width x, 0⟩)
      ∧ runs (.vrcp h t d a) t (specialFn .rcp t h.sat) ∧ runs (.vrsq h t d a) t (specialFn .rsq t h.sat)
      ∧ runs (.vsqrt h t d a) t (specialFn .sqrt t h.sat) ∧ runs (.vexp2 h t d a) t (specialFn .exp2 t h.sat)
      ∧ runs (.vlog2 h t d a) t (specialFn .log2 t h.sat) ∧ runs (.vsin h t d a) t (specialFn .sin t h.sat)
      ∧ runs (.vcos h t d a) t (specialFn .cos t h.sat)
      ∧ (∀ src, vcvtSource b = some src → cvtAllowed src t h.sat = true →
          runs (.vcvt h t d a b) src (fun x => cvtElem src t m h.sat x)))

/-- VFILL writes one scalar everywhere, VIDX an element's index in a dimension or its ordinal, VSEL a source where the mask is
not zero, VTRANS the source with its first two dimensions exchanged, VBFLY the two results of a butterfly (R215, R219 to
R222). -/
def Obligations.VectorArrange : Prop :=
  ∀ (s : State) (w : Who) (h : Hint) (t : Ty) (d a b : Vreg) (c : RegImm) (i : Imm) (x : Src) (vd va vm : BoundView)
    (es : List Nat), Issues s h w → StreamReady s → bindView s w d true = .ok vd →
    let m := s.mode h
    let ix := indexOf es
    let n := elements es
    (matchedInto s vd.view [] = .ok es → Admitted s w vd t .write ix n →
      (let v := scalarOf s c t m h.sat
       ∃ u, exec (.vfill h t d c) s = .next u ∧ Streamed s u h
          ((s.setFlags v.fl).inOrder n fun k q => q.putResult vd t (ix k) ⟨v.bits, 0⟩ 0) (captured [vd]))
      ∧ ((immWord i).toNat ≤ 4 → ∃ u, exec (.vidx h t d i) s = .next u ∧ Streamed s u h
          ((s.setFlags 0).inOrder n fun k q =>
            let v : Int := if (immWord i).toNat = 4 then (k : Int) else ((ix k).getD (immWord i).toNat 0 : Int)
            q.putResult vd t (ix k) (if t.isInt then ⟨narrowBits v t h.sat, 0⟩ else round (.ofInt v) t m h.sat) 0)
          (captured [vd])))
    ∧ (∀ vx fx, bindSrc s w x t m false = .ok (vx, fx) → bindView s w b false = .ok vm →
        matchedInto s vd.view ((vm :: viewsOf [vx]).map (·.view)) = .ok es → Admitted s w vd t .write ix n →
        Admitted s w vm .u8 .read ix n → (∀ y, vx = .view y → Admitted s w y t .read ix n) →
        ∃ u, exec (.vsel h t d x b) s = .next u ∧ Streamed s u h ((s.setFlags fx).inOrder n fun k q =>
            let e := q.srcValue vx t (ix k)
            if (q.elemValue vm .u8 (ix k)).1 = 0 then q else q.putResult vd t (ix k) ⟨e.1, 0⟩ e.2)
          (captured (vd :: vm :: viewsOf [vx])))
    ∧ (bindView s w a false = .ok va →
        let swap (l : List Nat) : List Nat := [l.getD 1 1, l.getD 0 1, l.getD 2 1, l.getD 3 1]
        (extents vd = es → extents va = swap es → Admitted s w vd t .write ix n →
          Admitted s w va t .read (fun k => swap (ix k)) n →
          ∃ u, exec (.vtrans h t d a) s = .next u ∧ Streamed s u h (s.inOrder n fun k q =>
              q.putResult vd t (ix k) ⟨(q.elemValue va t (swap (ix k))).1, 0⟩ 0) (captured [vd, va]))
        ∧ (let top := vd.view.rank - 1
           (immWord i).toNat ≤ 1 → 2 ≤ vd.view.rank → vd.view.extent top = 2 → (∀ k < 4, top ≤ k → va.view.extent k = 1) →
           matchedInto s { vd.view with rank := top, ext := vd.view.ext.set top 1 } [va.view] = .ok es →
           Admitted s w va .cf32 .read ix n →
           (∀ j < 2, Admitted s w vd .cf32 .read (fun k => (ix k).set top j) n
             ∧ Admitted s w vd .cf32 .write (fun k => (ix k).set top j) n) →
           ∃ u, exec (.vbfly h d a i) s = .next u ∧ Streamed s u h (s.inOrder n fun k q =>
               let lo := (ix k).set top 0
               let hi := (ix k).set top 1
               let r := butterfly m h.sat ((immWord i).toNat == 1) (q.elemValue vd .cf32 lo).1 (q.elemValue vd .cf32 hi).1
                 (q.elemValue va .cf32 (ix k)).1
               (q.putResult vd .cf32 lo r.1 0).putResult vd .cf32 hi r.2 0) (captured [vd, va])))

/-- VRED reduces each row of a view to one element, or a single row to a register, VSCAN writes every running value (R216,
R217). -/
def Obligations.VectorReduce : Prop :=
  ∀ (s : State) (w : Who) (h : Hint) (t u : Ty) (d a : Vreg) (x : Reg) (b : Imm) (mode : Nat) (vd va : BoundView),
    Issues s h w → StreamReady s → (immWord b).toNat < 256 → (immWord b).toNat % 16 = mode → mode ≤ 10 →
    Ty.ofCode ((immWord b).toNat / 16) = u → reduceTypes mode t u = true → bindView s w a false = .ok va →
    let m := s.mode h
    let es := extents va
    let e0 := va.view.extent 0
    Admitted s w va t .read (indexOf es) (elements es) →
    (elements es = e0 → ∃ q, exec (.vred h t (.reg x) a b) s = .next q ∧ Streamed s q h
      (s.reduced mode t u m h.sat va fun q _ i r _ =>
        if i + 1 = e0 then
          let o := reduceOut mode u h.sat r
          (q.putElem x u o.bits).setFlags o.fl
        else q) (captured [va]))
    ∧ (bindView s w d true = .ok vd →
        (vd.view.extent 0 = 1 → (∀ k < 4, k ≠ 0 → vd.view.extent k = va.view.extent k) →
          Admitted s w vd u .write (indexOf (extents vd)) (elements (extents vd)) →
          ∃ q, exec (.vred h t (.view d) a b) s = .next q ∧ Streamed s q h
            (s.reduced mode t u m h.sat va fun q row i r _ =>
              if i + 1 = e0 then q.putResult vd u (indexOf (extents vd) row) (reduceOut mode u h.sat r) 0 else q)
            (captured [va, vd]))
        ∧ (extents vd = es → Admitted s w vd u .write (indexOf es) (elements es) →
          ∃ q, exec (.vscan h t d a b) s = .next q ∧ Streamed s q h
            (s.reduced mode t u m h.sat va fun q _ _ r k =>
              q.putResult vd u (indexOf es k) (reduceOut mode u h.sat r) 0) (captured [va, vd])))

/-- VGATHER reads the elements that the indices name, VSCATTER writes them; of scattered elements that address the same bytes
the one with the highest ordinal stands (R223, R224).
The order of the reads of one element is the model's reading (log 24). -/
def Obligations.GatherScatter : Prop :=
  ∀ (s : State) (w : Who) (h : Hint) (t : Ty) (d a b : Vreg) (c : CapOp) (k : Cap) (vx vi : BoundView) (es : List Nat),
    Issues s h w → StreamReady s → Unhindered s → bindView s w b false = .ok vi → elements es ≤ 64 →
    let n := elements es
    let ix := indexOf es
    let place (j : Nat) : Nat := s.windowBase k + (s.indexedElem c vi es j * t.size).toNat
    Admitted s w vi .i32 .read ix n →
    (bindView s w d true = .ok vx → matchedInto s vx.view [vi.view] = .ok es → Admitted s w vx t .write ix n →
      IndexedOnChip s w c k t .read vi es →
      ∃ u, exec (.vgather h t d c b) s = .next u ∧ Streamed s u h (s.inOrder n fun j q =>
          q.putResult vx t (ix j) ⟨leNat (q.bytes (place j) t.size), 0⟩ 0) (c.c.toNat :: captured [vx, vi]))
    ∧ (bindView s w a false = .ok vx → matched [vx.view, vi.view] = some es → Admitted s w vx t .read ix n →
      IndexedOnChip s w c k t .write vi es →
      ∃ u, exec (.vscatter h t c a b) s = .next u ∧ Streamed s u h (s.inOrder n fun j q =>
          if ∃ l < n, j < l ∧ s.indexedElem c vi es l = s.indexedElem c vi es j then q
          else q.putBytes (place j) (leBytes t.size (q.elemValue vx t (ix j)).1)) (c.c.toNat :: captured [vx, vi]))

/-! ## The matrix engine (R230 to R254) -/

/-- A matrix instruction that passes its checks joins the queue of its context and PC advances; nothing else changes until the
engine takes it (R234, R237, R242 to R252). A NOMX kernel has no matrix instructions (R254). -/
def Obligations.MatrixIssue : Prop :=
  ∀ (s : State) (w : Who) (h : Hint) (t : Ty) (d a : Mreg) (x y : Vreg) (md ma : Nat) (vx vy : BoundView) (b : Option Imm)
    (r : Reg) (n k : RegImm) (p : Place), Issues s h w → w.image.nomx = false → s.ctx.spec.on = false → s.ctx.mx.err = none →
    (s.tile s.cur.tile).core.eng.dead = false → s.ctx.mx.queue.length < 8 →
    let queues (i : Instr) (op : MxOp) : Prop := ∃ u m, exec i s = .next u ∧ u.ctx.mx.queue = s.ctx.mx.queue ++ [m]
      ∧ u.ctx.mx.flags = s.ctx.mx.flags ∧ u.ctx.mx.err = none
      ∧ m.op = op ∧ m.task = (s.tile s.cur.tile).loc.taskId w.rec' ∧ m.kslot = w.kslot ∧ m.staged = none ∧ m.poison = none ∧ m.ord = s.nextOrd
      ∧ Computed s u h id
    let reads (v : BoundView) (t : Ty) : Prop := Admitted s w v t .read (indexOf (extents v)) (elements (extents v))
    let writes (v : BoundView) (t : Ty) : Prop := Admitted s w v t .write (indexOf (extents v)) (elements (extents v))
    let sel := (b.map fun v => (immWord v).toNat).getD 0
    (s.ctx.run.accs[d.toNat]? = some md →
      queues (.mzero h d) (.zero md)
      ∧ (mxView s w x false 2 (fun e0 e1 => e1 == 32 && mmaDepth t e0) = .ok vx →
          mxView s w y false 2 (fun e0 e1 => e0 == 32 && e1 == vx.view.extent 0) = .ok vy → reads vx t → reads vy t →
          queues (.mma h t d x y) (.mma t md vx vy h.sat))
      ∧ (mxView s w x false 2 (fun e0 e1 => e1 == 32 && e0 % 32 == 0 && 32 ≤ e0 && e0 ≤ 1024) = .ok vx →
          mxView s w y false 2 (fun e0 e1 => e0 == 32 && e1 == vx.view.extent 0) = .ok vy → reads vx .i8 → reads vy .t5 →
          queues (.mmat h d x y) (.mmat md vx vy h.sat))
      ∧ (mxView s w x false 2 square = .ok vx → reads vx t → queues (.mld h t d x) (.load t md vx))
      ∧ (s.ctx.run.accs[a.toNat]? = some ma → mxView s w y false 1 (fun e0 _ => e0 == 64) = .ok vy → reads vy .e8m0 →
          queues (.mscale h d a y) (.scale md ma vy h.sat)))
    ∧ (s.ctx.run.accs[a.toNat]? = some ma → mxView s w x true 2 square = .ok vx → sel ≤ 1 →
        (h.sat && sel == 0 && t.isInt) = false → writes vx t →
        queues (.mst h t x a b) (.store t vx ma (sel == 1) h.sat (s.mode h).code))
    ∧ (checkDest s w (s.x r) ⟨false, false, false⟩ = .ok p → RegImm.nat n s < 256 →
        queues (.msig h r n k) (.sig p (RegImm.nat n s) (RegImm.nat k s % 2 ^ 32)))

/-- MSTAT returns the matrix flags, the commands queued, whether the engine is dead and the pending error; its operand can
wait for the queue to drain and clear the flags (R251). In a NOMX kernel every matrix instruction traps with ILLEGAL,
subcode 0x01, whatever its guard (R254). The idle engine of a tile takes the next command in its round and stages its
operands: the elements as memory holds them at that moment, so that later writes do not change them; while it runs a command
it stages those of the next one; a command whose operands were staged then starts with them (R127, R236). It takes none
while it is dead, its tile is being halted, or nothing is queued. When operands are staged within what R236 allows is the
model's reading (log 27). -/
def Obligations.MatrixStatusAndStaging : Prop :=
  (∀ (s : State) (w : Who) (h : Hint) (t : Ty) (d : Reg) (i : Imm) (m a : Mreg) (x y : Vreg) (b : Option Imm)
      (n k : RegImm), s.issuer = some w →
      let sel := (immWord i).toNat
      (Issues s h w → w.image.nomx = false → sel ≤ 3 → (bit sel 1 = true ∨ w.image.det = true → s.mxQueue = []) →
        ∃ u, exec (.mstat h d i) s = .next u
          ∧ Computed s u h (fun r => r.writeX d (mxStatus s.ctx.mx (s.tile s.cur.tile).core.eng.dead))
          ∧ u.ctx.mx = { s.ctx.mx with flags := if bit sel 0 then 0 else s.ctx.mx.flags })
      ∧ (w.image.nomx = true → Delivers s w →
          let traps (i : Instr) : Prop := ∃ u, exec i s = .next u ∧ Trapped s u w cIllegal 1
          traps (.mzero h m) ∧ traps (.mma h t m x y) ∧ traps (.mmat h m x y) ∧ traps (.mld h t m x)
          ∧ traps (.mst h t x a b) ∧ traps (.mscale h m a y) ∧ traps (.mstat h d i) ∧ traps (.msig h d n k)))
  ∧ (∀ (s : State) (c : Nat) (k : CoreSt) (m : MxCmd),
      let t := s.cur.tile
      let eng := (s.tile t).core.eng
      let v := s.ctxAt t c
      let i := (s.tile t).core.waitingAt c
      let m' := { m with
        staged := some (m.op.sources.map fun x => (s.stageView x.1 x.2).1), poison := none, sflags := s.stagedTern m }
      (eng.dead = false → (s.tile t).quiet s.cycle = false → (s.tile t).core.serve = some (c, k) → v.mx.queue[i]? = some m →
        (m.staged = none → m.notBefore ≤ s.cycle → heldWrites v (v.mx.queue.take i) m = false → Clean s →
          (eng.running = none → ∃ u, exec .matrixCommandStart s = .next u ∧ u.mem = s.mem
            ∧ (u.tile t).core.eng.running = some (c, m') ∧ (u.ctxAt t c).mx.queue.head? = some m')
          ∧ (∀ r, eng.running = some r → ∃ u, exec .matrixCommandStart s = .next u ∧ u.mem = s.mem
            ∧ (u.tile t).core.eng.running = some r ∧ (u.ctxAt t c).mx = { v.mx with queue := v.mx.queue.set i m' }))
        ∧ (∀ x, m.staged = some x → eng.running = none → ∃ u, exec .matrixCommandStart s = .next u ∧ u.mem = s.mem
            ∧ (u.tile t).core.eng.running = some (c, m)))
      ∧ (eng.dead = true ∨ (s.tile t).quiet s.cycle = true ∨ eng.running = none ∧ (s.tile t).core.serve = none →
          exec .matrixCommandStart s = .next s))

/-- What a command comes to when the engine ends it without a mismatch (R170, R171, R232, R245 to R250): every word of the
accumulator, or the elements stored; the command leaves the queue and the engine. Elements and words are numbered row by
row. -/
def Obligations.MatrixCommandEffects : Prop :=
  ∀ (s : State) (c : Nat) (m : MxCmd) (A B : List Nat), (s.tile s.cur.tile).core.eng.running = some (c, m) → m.poison = none →
    (∀ a, (s.acc s.cur.tile a).err = none) →
    m.staged.getD [] = [A, B] ∨ m.staged.getD [] = [A] ∧ B = [] ∨ m.staged.getD [] = [] ∧ A = [] ∧ B = [] →
    let t := s.cur.tile
    let ends (u : State) : Prop := exec (.matrixCommandComplete .agree) s = .next u
      ∧ (u.tile t).core.eng.running = none ∧ (u.ctxAt t c).mx.queue = (s.ctxAt t c).mx.queue.drop 1
    let gives (d : Nat) (f : Nat → Nat → Nat) : Prop := ∃ u, ends u ∧ u.mem = s.mem
      ∧ (∀ i < 32, ∀ j < 32, (u.acc t d).word (32 * i + j) = f i j % 2 ^ 32) ∧ (∀ e, e ≠ d → u.acc t e = s.acc t e)
    (∀ d, m.op = .zero d → gives d fun _ _ => 0)
    ∧ (∀ ty d va vb sat, m.op = .mma ty d va vb sat →
        gives d fun i j => (mmaElem ty sat (va.view.extent 0) A B ((s.acc t d).word (32 * i + j)) i j).1)
    ∧ (∀ d va vb sat, m.op = .mmat d va vb sat →
        gives d fun i j => mmatElem sat (va.view.extent 0) A B ((s.acc t d).word (32 * i + j)) i j)
    ∧ (∀ ty d va, m.op = .load ty d va → gives d fun i j => (mldElem ty (A.getD (i * 32 + j) 0)).bits)
    ∧ (∀ d src vb sat, m.op = .scale d src vb sat → gives d fun i j =>
        (mscaleElem sat ((s.acc t d).word (32 * i + j)) ((s.acc t src).word (32 * i + j)) (A.getD i 0) (A.getD (32 + j) 0)).bits)
    ∧ (∀ ty vd src asInt sat mode, m.op = .store ty vd src asInt sat mode → ∃ u, ends u ∧ (∀ e, u.acc t e = s.acc t e)
        ∧ u.mem = (s.storeAcc t vd ty fun k => (mstElem ty asInt sat (.ofRmode mode) ((s.acc t src).word k)).bits).mem)
    ∧ (∀ dst ctr amount, m.op = .sig dst ctr amount → s.before t c m.ord = true → ∃ u, ends u ∧ u.mem = s.mem ∧ (∀ e, u.acc t e = s.acc t e)
        ∧ ∀ p, s.partOfTile t = some p → dst.chip = s.chip → ∃ q, u.net = s.net ++ [q] ∧ q.dst = dst
          ∧ q.body = .inc ctr amount (dst == ⟨s.chip, t⟩))

/-- R245. MZERO writes 0 to all 1,024 words of its accumulator, which is +0 as FP32 and 0 as INT32, and sets no flag: the
context's matrix flags and registers, the other accumulators and memory stand. -/
def Obligations.MzeroClears : Prop :=
  ∀ (s : State) (c d : Nat) (m : MxCmd), (s.tile s.cur.tile).core.eng.running = some (c, m) → m.op = .zero d → m.poison = none →
    ∃ u, exec (.matrixCommandComplete .agree) s = .next u ∧ u.mem = s.mem
      ∧ (u.ctxAt s.cur.tile c).mx.flags = (s.ctxAt s.cur.tile c).mx.flags
      ∧ (u.ctxAt s.cur.tile c).regs = (s.ctxAt s.cur.tile c).regs
      ∧ (∀ e, e ≠ d → u.acc s.cur.tile e = s.acc s.cur.tile e)
      ∧ ∀ i < 1024, (u.acc s.cur.tile d).word i = 0
        ∧ decodeNum .f32 ((u.acc s.cur.tile d).word i) = .fin false 0 0 ∧ intIn .i32 ((u.acc s.cur.tile d).word i) = 0

/-! ## Messages and posts (R324 to R353) -/

/-- SENDQ, REPLYQ, SENDR, MINC and SPAWNR put one packet into the injection queue of their tile, with the destination, the
network and the contents that the operands give, and go on (R337, R340, R341, R344, R346, R348); SENDQ with MGMT set sends a
request to the fabric interface (R95). Nothing else of the context changes but the count of its signals. A signal that
an earlier run has sent is not sent again (R33), and a full queue traps with QFULL (R326). That the bit of SIGMASK is set when the
post enters the injection queue is the model's reading (log 23). -/
def Obligations.MessageResults : Prop :=
  ∀ (s : State) (w : Who) (h : Hint) (n : BitVec 4) (d b : Reg) (a : Imm) (l : LandDest) (ra rb : RegImm) (p : Place)
    (at' : LandAt) (img : RecImage), Issues s h w → Prompt s →
    let tile := s.tile s.cur.tile
    let x := s.x d
    let words := s.group b n.toNat
    let hdr := field x.toNat 32 32
    let signals (i : Instr) (len : Nat) (dst : Place) (body : Body) : Prop := Fresh s w → tile.core.vn0Used < 32 →
      ∃ u, exec i s = .next u ∧ Sent s u h id (s.corePacket w 0 dst len body) ∧ Signalled s u ∧ u.cts = s.cts
    (checkDest s w x ⟨true, false, true⟩ = .ok p → (immWord a).toNat ≤ 15 → groupOk b n.toNat = true → n ≠ 0 ∨ b = 0 →
      (bit x.toNat 28 = false → signals (.sendq h n d a b) (16 + 8 * n.toNat) p
        (.msg (immWord a).toNat (word hdr) (words.getD 0 0) (words.getD 1 0) (words.getD 2 0) none))
      ∧ (bit x.toNat 28 = true → signals (.sendq h n d a b) (16 + 8 * n.toNat) ⟨s.chip, fabricTile⟩
        (.mgmt (field hdr 0 8) (field hdr 16 16) (field hdr 8 8 == 0) words none p.tile (immWord a).toNat)))
    ∧ (checkDest s w x ⟨true, false, false⟩ = .ok p → (immWord a).toNat ≤ 15 → groupOk b n.toNat = true → n ≠ 0 ∨ b = 0 →
        firstReply s.ctx = false → tile.core.vn1Used < 16 → ∃ u, exec (.replyq h n d a b) s = .next u
          ∧ Sent s u h id (s.corePacket w 1 p (16 + 8 * n.toNat)
              (.msg (immWord a).toNat (word hdr) (words.getD 0 0) (words.getD 1 0) (words.getD 2 0) none))
          ∧ u.ctx.run.nsig = s.ctx.run.nsig ∧ u.cts = s.cts)
    ∧ (landPlace s w l = .ok at' → signals (.sendr h l ra) 24 at'.place (.land at'.reg [RegImm.value ra s]))
    ∧ (checkDest s w x ⟨false, false, false⟩ = .ok p → RegImm.nat ra s < 256 →
        signals (.minc h d ra rb) 16 p (.inc (RegImm.nat ra s) (RegImm.nat rb s % 2 ^ 32) (p == ⟨s.chip, s.cur.tile⟩))
        ∧ (Fresh s w → 32 ≤ tile.core.vn0Used → Delivers s w →
            ∃ u, exec (.minc h d ra rb) s = .next u ∧ Trapped s u w cQfull 0)
        ∧ (¬Fresh s w → exec (.minc h d ra rb) s
            = .next ((s.onRun fun r => { r with nsig := r.nsig + 1 }).onward h)))
    ∧ (checkDest s w x ⟨false, false, false⟩ = .ok p → p.chip = s.chip → w.kernel.tiles.contains p.tile = true →
        groupOk b n.toNat = true → constImage s w a = .ok (s, img) → signals (.spawnr h n d a b) (144 + 8 * n.toNat) p
          (.spawn img (createdWords s.chip s.cur.tile words) (recOffset w.rec')))

/-- SENDC (R62 to R64, R342): a transfer sends the capability itself, which leaves its register and, when exclusive, is in
flight to the destination; a copy puts it into the lowest free kick entry of the tile for the steward, with the
destination, the channel, the payload word and the slot to which it returns. AUTO decides by the size and the place.
That OWNER names the destination is the model's reading (log 29), and so is when the bit of SIGMASK is set: as the post enters the
injection queue, or the kick entry becomes visible (log 23). -/
def Obligations.CapabilityMessages : Prop :=
  ∀ (s : State) (w : Who) (h : Hint) (pol : Policy) (d b : Reg) (a : CapOp) (p : Place) (c : Cap) (e : Nat), Issues s h w →
    Prompt s → Fresh s w → a.whole = true → s.capBusy a.c.toNat = false → s.c a.c.toNat = some c → c.rights.g = true →
    checkDest s w (s.x d) ⟨true, true, true⟩ = .ok p → field (s.x d).toNat 40 24 = 0 → bit (s.x d).toNat 28 = false →
    let chan := field (s.x d).toNat 24 4
    let l := (s.tile s.cur.tile).loc
    (actsAsCopy pol c p = false → (s.tile s.cur.tile).core.vn0Used < 32 → ∃ u, exec (.sendc h pol d a b) s = .next u
      ∧ Sent s u h (fun r => r.writeC a.c.toNat none) (s.corePacket w 0 p 40 (.msg chan (word cOk) (s.x b) 0 0 (some c)))
      ∧ Signalled s u ∧ u.cts = (s.setOwner c 2 p).cts)
    ∧ (actsAsCopy pol c p = true → c.rights.r = true → s.settled s.cur.tile s.cur.ctx = true →
        freeKey l.kicks (upto 64) = some e → ∃ u, exec (.sendc h pol d a b) s = .next u
          ∧ u.regs = { s.regs.writeC a.c.toNat none with pc := s.regs.pc + 12, resume := .none } ∧ Advanced s u h
          ∧ SameMemory s u ∧ Signalled s u ∧ u.cts = (s.setOwner c 1 ⟨s.chip, s.cur.tile⟩).cts
          ∧ aget? (u.tile s.cur.tile).loc.kicks e = some
            { state := .queued, kind := 1, cap := some c, ctx := s.cur.ctx, kslot := w.kslot, pslot := field (s.x d).toNat 32 8,
              seq := l.kickSeq, args := [word ((placeWord p).toNat + chan * 2 ^ 24), s.x b, 0, 0] })

/-- Counters and landing registers of the executing tile (R330, R332, R349, R350): MSET writes a counter, MRD reads one and
changes nothing, MRD of a landing register takes its value, and of an absent one traps. What takes effect on the executing
tile alone, once the accesses before it have been performed (R335): SPAWN and ARM create a task (R31, R345, R347), KICK
queues a kick entry for the steward (R307, R351). When they wait is the model's reading of R335 (log 23). -/
def Obligations.TileLocalPosts : Prop :=
  (∀ (s : State) (w : Who) (h : Hint) (n : BitVec 4) (d : Reg) (a b : RegImm) (y : Yreg) (v : Word), Issues s h w → Prompt s →
      let l := (s.tile s.cur.tile).loc
      let i := RegImm.nat a s
      (i < 256 → s.ownInc i = false →
        (exec (.mset h n a b) s
          = .next ((s.setCtr s.cur.tile i ⟨(RegImm.value b s).setWidth 32, n == 1⟩).onward h)
        ∧ (∃ u, exec (.mset h n a b) s = .next u ∧ Computed s u h id
            ∧ (u.tile s.cur.tile).loc.ctr i = ⟨(RegImm.value b s).setWidth 32, n == 1⟩))
        ∧ ((l.ctr i).loc = true ∨ w.image.det = false →
            exec (.mrdCounter h d a) s = .next (s.stepped h fun r => r.writeX d ((l.ctr i).value.setWidth 64)))
        ∧ ((l.ctr i).loc = false → w.image.det = true → Delivers s w →
            ∃ u, exec (.mrdCounter h d a) s = .next u ∧ Trapped s u w cDetviol 0))
      ∧ (aget? l.land y.toNat = some v → risesFrom none l.land = true →
          ∃ u, exec (.mrdLanding h d y) s = .next u ∧ Computed s u h (fun r => r.writeX d v)
            ∧ aget? (u.tile s.cur.tile).loc.land y.toNat = none)
      ∧ (aget? l.land y.toNat = none → s.ownLand y.toNat = false → Delivers s w →
          ∃ u, exec (.mrdLanding h d y) s = .next u ∧ Trapped s u w cIllopnd 5))
  ∧ (∀ (s : State) (w : Who) (h : Hint) (n : BitVec 4) (v i : Imm) (c : CapOp) (f : Option CapOp) (a : Reg) (b : RegImm)
      (img : RecImage) (r e : Nat), Issues s h w → Prompt s → s.settled s.cur.tile s.cur.ctx = true →
      let l := (s.tile s.cur.tile).loc
      let creates (i : Instr) (img : RecImage) (words : List Word) : Prop := ∃ u, exec i s = .next u ∧ Computed s u h id
        ∧ Enqueued s u r ⟨img, w.kslot, 0, 0, words, none, fixedPrio img.prio (s.bias w.pnum w.kslot), false, .waiting, none,
            s.cycle⟩
      let words := createdWords s.chip s.cur.tile (s.group a n.toNat)
      (Fresh s w → groupOk a n.toNat = true → l.freeRec = some r → recRefused img l w.image w.kernel.supv = false →
        (constImage s w v = .ok (s, img) → creates (.spawn h n (.imm v) a) img words)
        ∧ (∀ k va, OnChip s w c 128 .read k va → Unhindered s → Clean s → img = imageOf (leNat (s.seen va 128)) →
            creates (.spawn h n (.cap c) a) img words))
      ∧ (l.freeRec = some r → w.image.legal (immWord i).toNat = true → (s.x a).toNat < 256 →
          img = { recContinued w.task.img (immWord i).toNat (s.x a).toNat (RegImm.nat b s) with stv := false, stSlot := 0 } →
          creates (.arm h i a b) img (createdWords s.chip s.cur.tile [word img.target]))
      ∧ (∀ cap, Fresh s w → groupOk a 4 = true → freeKey l.kicks (upto 64) = some e →
          (f = none ∧ cap = none) ∨ (∃ o k, f = some o ∧ cap = some k ∧ o.whole = true ∧ s.capBusy o.c.toNat = false
            ∧ s.c o.c.toNat = some k ∧ k.rights.g = true) →
          ∃ u, exec (.kick h f a) s = .next u ∧ Advanced s u h ∧ SameMemory s u ∧ Signalled s u
            ∧ u.regs = { (match f with | some o => s.regs.writeC o.c.toNat none | none => s.regs) with
                pc := s.regs.pc + 12, resume := .none }
            ∧ aget? (u.tile s.cur.tile).loc.kicks e = some
              { state := .queued, kind := 0, cap := cap, ctx := s.cur.ctx, kslot := w.kslot, pslot := 0, seq := l.kickSeq,
                args := s.group a 4 }))

/-- AOP and AOPR check and translate the element and post an operation for the memory agent of its channel (R262, R353): a
function of Table 15.7 over an element of a format, at its partition offset, with the operand words, for AOPR the place of
the result, and the place among what the core has issued. The task is retried no more (R431). -/
def Obligations.AgentOperations : Prop :=
  ∀ (s s' : State) (w : Who) (h : Hint) (n : BitVec 4) (f : BitVec 3) (c : CapOp) (a : Reg) (l : LandDest) (k : Cap)
    (va out : Nat) (at' : LandAt), Issues s h w → Prompt s → n.toNat ≤ 11 → (7 ≤ n.toNat → w.image.det = false) →
    s.c c.c.toNat = some k → k.kind = .hbm → s.ctx.run.rejected = [] → s.mxQueue = [] →
    let size := opBytes n.toNat f.toNat
    let args := s.group a (aopWords n.toNat)
    let a0 := (args.getD 0 0).toNat
    groupOk a (aopWords n.toNat) = true → (n = 11 → 1 ≤ a0 ∧ a0 ≤ 64) → (n = 10 → a0 % 8 = 0 ∧ a0 + 8 ≤ k.bytes) →
    s.checkCap (s.tile s.cur.tile).core.vcache w.kernel.supv (some k) .operation (CapOp.index c s.regs * size) size = .ok va →
    va / 2 ^ 52 = 0 → (s.tile s.cur.tile).core.vn0Used < 32 →
    (s.validated s.cur.tile w.pnum k).translate s.cur.tile w.pnum w.part w.kernel.xlat va true true = (s', .ok out) →
    let p := w.part.prec.phys out
    w.part.prec.covers out 1 = true → physExists p = true →
    let posts (i : Instr) (ret : Option LandAt) : Prop := ∃ u, exec i s = .next u
      ∧ Sent s u h id (s.corePacket w 0 ⟨s.chip, agentTile (p / 2 ^ 31)⟩ (16 + 8 * aopWords n.toNat)
          (.op n.toNat f.toNat k (CapOp.index c s.regs * size).toNat args ret w.kernel.xlat (w.part.prec.offset p) s.nextOrd))
      ∧ u.ctx.run.noRetry = true ∧ u.cts = s.cts
    posts (.aop h n f c a) none
    ∧ (landPlace s w l = .ok at' → n ≠ 9 ∨ at'.reg ≤ 30 → posts (.aopr h n f l c a) (some at'))

/-! ## Barriers and lookahead (R376 to R391) -/

/-- BARINIT turns an exclusive one-granule buffer of the tile into a barrier (R377), at which the parties of killed groups count as
arrived (R394); BARRIVE and BAREND post the arrival to
the barrier's home and hold the context until it answers (R378); CLOOK creates a lookahead capability over the previous
publication of a party, or ends speculation with subcode 0x05 when there is none at the phase that the task awaits (R385);
SPECQ reads the state of speculation (R390). -/
def Obligations.BarrierResults : Prop :=
  ∀ (s : State) (w : Who) (h : Hint) (d a : CapOp) (b x : Reg) (r : RegImm) (c : Cap) (bidx : Nat) (bar : Barrier),
    Issues s h w → d.whole = true → a.whole = true →
    let n := (s.x b).toNat
    let e := s.ct c.key
    (s.ctx.spec.on = false → s.written s.cur.tile s.cur.ctx c.key = true → s.capBusy d.c.toNat = false →
      s.capBusy a.c.toNat = false → s.c d.c.toNat = none → field n 24 40 = 0 → 1 ≤ field n 13 7 → field n 13 7 ≤ 64 →
      field n 0 13 + field n 13 7 ≤ w.kernel.tiles.length → aget? (s.tile s.cur.tile).loc.bars (field n 20 4) = none →
      s.c a.c.toNat = some c → c.mode = .exclusive → c.rights.r = true → c.rights.w = true → c.rights.g = true →
      c.kind = .tile → c.agent = s.cur.tile → c.chip = s.chip → c.wlen = 1 → s.current c = true →
      e.recl = none → e.tokOut + e.tokLost = 0 → e.laopen = false →
      ∃ u, exec (.barinit h d a b) s = .next u ∧ Advanced s u h
        ∧ u.regs = { (s.regs.writeC a.c.toNat none).writeC d.c.toNat
            (some { c with mode := .sealed, rights := ⟨true, false, false, true⟩ }) with
            pc := s.regs.pc + 12, resume := .none }
        ∧ SameMemoryBut s u (s.windowBase c) 64
        ∧ (u.ct c.key).state = .sealed ∧ (u.ct c.key).maxr.w = false
        ∧ aget? (u.tile s.cur.tile).loc.bars (field n 20 4) = some
            { ctidx := c.ctidx, hallmark := c.hallmark, rbase := field n 0 13, n := field n 13 7, kslot := w.kslot, phase := 0,
              arrived := [], killed := s.killedParties w.kernel w.kslot (field n 0 13) (field n 13 7), pubs := [], prev := [], completing := false })
    ∧ (Prompt s → s.c d.c.toNat = some c → AtBarrier s w c bidx bar → bit n 63 = false →
        (∀ q ∈ pubDests (s.x b), q.1 < w.kernel.tiles.length) →
        let at' : Place := ⟨s.chip, c.agent⟩
        let holds (i : Instr) (pub : Option Cap) (ends : Bool) : Prop := ∃ u, exec i s = .next u ∧ u.regs = s.regs
          ∧ u.ctx.hold = .barrier at' bidx ends ∧ SameMemory s u ∧ u.cts = s.cts
          ∧ (u.tile s.cur.tile).core.inj = (s.tile s.cur.tile).core.inj ++ [⟨2, s.cur.ctx, false, s.corePacket w 2 at' 24
              (.arrive bidx c.hallmark (w.kernel.rank s.cur.tile) pub (s.x b) s.cur.ctx ends), s.nextOrd⟩]
        let ready : Prop := s.ctx.vecBusy = none ∧ s.ctx.mx.queue = [] ∧ s.ctx.mx.err = none
        (b = 0 → holds (.barrive h d none b) none false ∧ (ready → holds (.barend h d none b) none true))
        ∧ (∀ p, s.capBusy a.c.toNat = false → s.c a.c.toNat = some p → p.mode = .exclusive → p.rights.g = true →
            p.kind = .tile ∨ p.kind = .cluster → p.chip = s.chip → (s.ct p.key).recl = none → s.current p = true →
            (s.ct p.key).laopen = false → holds (.barrive h d (some a) b) (some p) false
              ∧ (ready → holds (.barend h d (some a) b) (some p) true)))
    ∧ (s.ctx.spec.on = true → s.capBusy d.c.toNat = false → s.c a.c.toNat = some c → AtBarrier s w c bidx bar →
        s.ctx.spec.bar = ⟨s.chip, c.agent⟩ → s.ctx.spec.bidx = bidx → s.c d.c.toNat = none → RegImm.nat r s < bar.n →
        s.current c = true →
        (∀ p q lr, bar.phase = s.ctx.spec.phase → aget? bar.prev (bar.rbase + RegImm.nat r s) = some (p, q) →
          s.current p = true → (s.ct p.key).laopen = true → freeKey (s.ct p.key).lrs (upto 4) = some lr →
          let k := lookaheadOf p (s.ct p.key).len
          ∃ u, exec (.clook h d a r) s = .next u ∧ Advanced s u h ∧ SameMemory s u
            ∧ u.regs = { s.regs.writeC d.c.toNat (some k) with pc := s.regs.pc + 12, resume := .none }
            ∧ u.ctx.spec = { s.ctx.spec with looks := s.ctx.spec.looks ++ [k] }
            ∧ aget? (u.ct p.key).lrs lr = some ⟨s.chip, s.cur.tile⟩)
        ∧ (bar.phase ≠ s.ctx.spec.phase ∨ aget? bar.prev (bar.rbase + RegImm.nat r s) = none →
            exec (.clook h d a r) s = .next (s.rollback s.cur.tile s.cur.ctx 5)))
    ∧ exec (.specq h x) s = .next (s.stepped h fun q => q.writeX x (specWord s.ctx.spec w.image.det))

/-! ## Collectives (R410 to R421) -/

/-- COLLOPEN, COLL and COLLCLOSE check their operands and send one packet to the home chip's fabric interface; the answer or
the record comes later, to landing registers or to a ring (R416, R417, R419, R421). The task is retried no more. -/
def Obligations.CollectiveInstructions : Prop :=
  ∀ (s : State) (w : Who) (h : Hint) (t : Ty) (l : LandDest) (g : CollDest) (a b : Reg) (at' : LandAt) (dest : RecordDest),
    Issues s h w → Prompt s → (s.tile s.cur.tile).core.vn0Used < 32 →
    let home := (s.x a).toNat
    let x := (s.x b).toNat
    let posts (i : Instr) (chip len : Nat) (body : Body) : Prop := ∃ u, exec i s = .next u
      ∧ Sent s u h id (s.corePacket w 0 ⟨chip, fabricTile⟩ len body) ∧ u.ctx.run.noRetry = true ∧ u.cts = s.cts
    (home < 1024 → bit x 7 = false → field x 12 4 = 0 → field x 24 40 = 0 → 1 ≤ field x 0 7 → field x 0 7 ≤ 64 →
      1 ≤ field x 16 8 → collAccepts (field x 8 4) t.code = true → s.homeChip home = true → landPlace s w l = .ok at' →
      at'.reg ≤ 30 →
      posts (.collopen h t l a b) home 24 (.collOpen (field x 8 4) t.code (field x 0 7) (field x 16 8) at'))
    ∧ (handleZero home = true → s.homeChip (handleChip home) = true →
        posts (.collclose h a) (handleChip home) 24 (.collClose (s.x a))
        ∧ (b.toNat ≤ 30 → t.code = field home 40 4 → (s.x (b + 1)).toNat < handleCount home →
            recordPlace s w g = .ok dest → posts (.coll h t g a b) (handleChip home) 40
              (.contrib (s.x a) (s.x (b + 1)).toNat (word (x % 2 ^ t.width)) dest w.kernel.vf)))

/-! ## The steward (R302 to R322) -/

/-- The steward's movement instructions. mv.next claims the oldest kick entry, or the hart sleeps (R312); mv.take moves the
capability of a claimed entry into a k register (R313); mv.copy, mv.fill, mv.xfer, mv.give and mv.mbx start an operation
of the move engine and go on (R314 to R320); mv.stat reads (R321). An operand error is a fault of R310. -/
def Obligations.StewardMoves : Prop :=
  ∀ (s : State) (rd rs1 rs2 : Reg), s.stwStopped = false → s.stw.runs = true → s.stw.ops = [] → s.shz s.cur.tile = false →
    let w := s.stw
    let x := w.readX rs1
    let y := w.readX rs2
    let l := (s.tile s.cur.tile).loc
    let done (u : State) (v : Steward) : Prop :=
      u.stw = { v with pc := w.pc + 4, csr := { w.csr with minstret := w.csr.minstret + 1 } } ∧ SameMemory s u
    let starts (i : Instr) (kind : EngKind) (d : Reg) (kslot : Nat) (kregs : List Nat) (len : Nat) (k : Assoc (Cap × Nat)) :
      Prop := ∃ u, exec i s = .next u ∧ done u { w with
        ops := [⟨w.nextOp, kind, d.toNat, kslot, kregs, len, 0, none, none, [], none, false, 0⟩], nextOp := w.nextOp + 1, k := k }
    (x = 64 →
      (∀ e v, l.nextKick = some (e, v) → ∃ u, exec (.mvNext rd rs1 rs2) s = .next u
        ∧ done u { w.writeX rd (word e) with sleep := none }
        ∧ aget? (u.tile s.cur.tile).loc.kicks e = some { v with state := .claimed })
      ∧ (l.nextKick = none → ∃ u, exec (.mvNext rd rs1 rs2) s = .next u ∧ u.stw = { w with sleep := some rd.toNat }))
    ∧ (∀ v c, y.toNat < 8 → claimed s x = some (x.toNat, v) → aget? w.k y.toNat = none → v.cap = some c →
        ∃ u, exec (.mvTake rd rs1 rs2) s = .next u
          ∧ done u { w.writeX rd (word c.bytes) with k := aset w.k y.toNat (c, v.kslot) }
          ∧ aget? (u.tile s.cur.tile).loc.kicks x.toNat = some { v with cap := none })
    ∧ (∀ d, descriptor s x = .ok d →
        let src := s.kReg (field d 0 3)
        let dst := s.kReg (field d 4 3)
        (bit d 8 = false →
          (kcapsMeet src (field d 64 64) (field d 192 64) dst (field d 128 64) (field d 192 64) = false →
            starts (.mvCopy rd rs1 rs2) (.copy src dst (field d 64 64) (field d 128 64)) rd (kslotOf src)
              [field d 0 3, field d 4 3] (field d 192 64) w.k)
          ∧ (field d 0 3 = 0 → starts (.mvFill rd rs1 rs2) (.fill dst (field d 128 64) y) rd (kslotOf dst) [field d 4 3]
              (field d 192 64) w.k))
        ∧ (∀ e v, bit d 8 = true → field d 4 3 = 0 → field d 128 64 = 0 →
            field d 192 64 = (src.map fun c => c.cap.bytes).getD 0 → claimed s (word (field d 16 6)) = some (e, v) → v.kind = 1 →
            starts (.mvCopy rd rs1 rs2) (deliveryOf src (field d 64 64) v) rd (kslotOf src) [field d 0 3] (field d 192 64)
              (aerase w.k (field d 0 3))))
    ∧ (x.toNat < 8 →
        let n := y.toNat
        let c := s.kReg x.toNat
        (field n 28 4 = 0 → field n 22 2 = 0 → stwDest s ⟨field n 12 10, field n 0 12⟩ = .ok () →
          starts (.mvXfer rd rs1 rs2) (.xfer c ⟨field n 12 10, field n 0 12⟩ (field n 24 4) (word (field n 32 32)) 0 0 false) rd
            (kslotOf c) [x.toNat] 0 (aerase w.k x.toNat))
        ∧ (field n 9 23 = 0 →
            (bit n 8 = false → starts (.mvGive rd rs1 rs2) (.give c (field n 0 8)) rd (kslotOf c) [x.toNat] 0
              (aerase w.k x.toNat))
            ∧ (bit n 8 = true → field n 4 4 = 0 → starts (.mvGive rd rs1 rs2)
                (.xfer c ⟨s.chip, s.cur.tile⟩ (field n 0 4) (word (field n 32 32)) 0 0 false) rd (kslotOf c) [x.toNat] 0
                (aerase w.k x.toNat))))
    ∧ (∀ p i, counterAddress x.toNat = some (p, i) → stwDest s p = .ok () →
        starts (.mvMbx rd rs1 rs2) (.mbx p i (y.toNat % 2 ^ 32)) 0 0 [] 0 w.k)
    ∧ (x = 0 → s.stwDet = false → ∃ u, exec (.mvStat rd rs1 rs2) s = .next u
        ∧ done u (w.writeX rd (word (l.kicks.filter fun k => k.2.state == .queued).length)))
    ∧ (x = 1 → s.stwDet = false → ∃ u, exec (.mvStat rd rs1 rs2) s = .next u ∧ done u (w.writeX rd 0))
    ∧ (2 < x.toNat → ∃ u, exec (.mvStat rd rs1 rs2) s = .next u
        ∧ u.stw = { w with fault := some ⟨cIllopnd, 4, w.pc.toNat, w.wordAt 4⟩ })

/-- An instruction of the hart other than Xgnmv (R302, R303, R306): registers, jumps and branches, loads and stores in
scratch, CSR reads and writes; a store outside scratch, a load outside scratch and the kick window, ECALL, EBREAK and illegal words
enter the fault path with mepc, mcause and mtval written. What the instructions of the RISC-V sets compute is PRESUMED
(log 3); that every load inside the kick window completes is DEDUCED (log 32). -/
def Obligations.StewardInstructions : Prop :=
  ∀ (s : State) (len : Nat) (rd rs1 rs2 : Reg) (op : RvOp) (opW : RvOpW) (imm12 : BitVec 12) (opi : RvImm) (imm20 : BitVec 20)
    (un : RvUn) (sh : RvSh) (amount : BitVec 6) (num : BitVec 12) (old : Word) (size : BitVec 2)
    (signed : Bool) (br : RvBr) (off13 : BitVec 13) (off21 : BitVec 21) (v : BitVec 32),
    s.stwStopped = false → s.stw.runs = true → s.stw.ops = [] → s.shz s.cur.tile = false →
    let w := s.stw
    let x := w.readX rs1
    let y := w.readX rs2
    let a := x + imm12.signExtend 64
    let n := 2 ^ size.toNat
    let run (rv : Rv) := exec (.stewardRv64Instruction len rv) s
    let next := w.pc + word len
    let ends (rv : Rv) (u : Steward) (pc : Word) : Prop := ∃ t, run rv = .next t
      ∧ t.stw = { u with pc := pc, csr := { u.csr with minstret := u.csr.minstret + 1 } } ∧ SameMemory s t ∧ t.cts = s.cts
    let faults (rv : Rv) (cause : Nat) (val : Word) : Prop := ∃ t, run rv = .next t ∧ t.stw = w.enterException cause val len
    ends (.op op rd rs1 rs2) (w.writeX rd (rvOp op x y)) next
    ∧ ends (.opW opW rd rs1 rs2) (w.writeX rd (rvOpW opW x y)) next
    ∧ ends (.opImm opi rd rs1 imm12) (w.writeX rd (rvImm opi x imm12)) next
    ∧ ends (.unary un rd rs1) (w.writeX rd (rvUnary un x)) next
    ∧ ends (.shift sh rd rs1 amount) (w.writeX rd (rvShift sh x amount)) next
    ∧ ends .fence w next ∧ ends .fenceI w next ∧ ends .wfi w next
    ∧ ends (.lui rd imm20) (w.writeX rd ((imm20 ++ (0 : BitVec 12)).signExtend 64)) next
    ∧ ends (.auipc rd imm20) (w.writeX rd (w.pc + (imm20 ++ (0 : BitVec 12)).signExtend 64)) next
    ∧ ends (.jal rd off21) (w.writeX rd next) (w.pc + off21.signExtend 64)
    ∧ ends (.jalr rd rs1 imm12) (w.writeX rd next) (a &&& ~~~1)
    ∧ ends (.branch br rs1 rs2 off13) w (if rvTaken br x y then w.pc + off13.signExtend 64 else next)
    ∧ (inScratch a.toNat n = true →
        ends (.load size signed rd rs1 imm12) (w.writeX rd (if signed then wordOfInt (signExtend (w.scratchNat a.toNat n) (8 * n))
          else word (w.scratchNat a.toNat n))) next
        ∧ ends (.store size rs2 rs1 imm12) (w.putBytes a.toNat (leBytes n y.toNat)) next)
    ∧ (inScratch a.toNat n = false → faults (.store size rs2 rs1 imm12) 7 a
        ∧ (inKicks a.toNat n = false → faults (.load size signed rd rs1 imm12) 5 a)
        ∧ (inKicks a.toNat n = true → let m := leNat ((upto n).map fun i => s.kickByte (a.toNat + i))
            ends (.load size signed rd rs1 imm12) (w.writeX rd (if signed then wordOfInt (signExtend m (8 * n)) else word m)) next))
    ∧ (s.csrRead num.toNat = some old → s.stwDet = false →
        ends (.csr .rs rd num (.reg 0)) (w.writeX rd old) next
        ∧ (num.toNat / 2 ^ 10 ≠ 3 →
            ends (.csr .rw rd num (.reg rs1)) ((w.csrWrite num.toNat x).writeX rd old) next
            ∧ (rs1 ≠ 0 → ends (.csr .rs rd num (.reg rs1)) ((w.csrWrite num.toNat (old ||| x)).writeX rd old) next
                ∧ ends (.csr .rc rd num (.reg rs1)) ((w.csrWrite num.toNat (old &&& ~~~x)).writeX rd old) next)))
    ∧ faults .ecall 11 0 ∧ faults .ebreak 3 w.pc ∧ faults (.illegal v) 2 (v.setWidth 64)

/-! ## Places (R10) -/

/-- R10. The tile at column col and row row has tile id row × 64 + col; its die and cluster follow from the position alone, and
%tile reads the id. -/
def Obligations.TileGeometry : Prop :=
  (∀ col row : Nat, col < 64 → row < 64 → let t := row * 64 + col
    tileCol t = col ∧ tileRow t = row ∧ tileDie t = row / 32 * 2 + col / 32 ∧ tileCluster t = row / 4 * 16 + col / 4)
  ∧ ∀ (s : State) (w : Who) (h : Hint) (d : Reg), Issues s h w →
      exec (.gets h d .tile) s = .next (s.stepped h fun r => r.writeX d (word s.cur.tile))

/-! ## Dispatch, the watchdog and posts that leave (R115 to R125, R326, R427, R450) -/

/-- DISPATCH applies aging (R120), holds a task that qualifies (R121), selects a ready task (R119) and starts it with the registers of R42: PC at its entry, x1 to x6 and x7, the
capability of its message in c0, its state region in c14, its rings at the handles, %fpstat 0; it issues first two
cycles later (R122). A parked task gets its saved registers back (R275). -/
def Obligations.DispatchStartsTask : Prop :=
  ∀ (s : State) (p : Nat × Part) (c r : Nat) (q : TaskRec) (prio stamp place since since6 : Nat) (sk : Bool),
    let t := s.cur.tile
    let v := ((s.age t).hold t).tile t
    s.partOfTile t = some p → p.2.state = .active → p.2.halt = none → v.core.disp.next ≤ s.cycle →
    (upto 8).find? (fun c => v.core.slotFree c && decide ((aget v.core.ctxs .reset c).run.issueAt ≤ s.cycle)) = some c →
    v.loc.pick [] = some (r, q) → q.q = .ready prio stamp place since since6 sk →
    (∃ k, p.2.kernel q.kslot = some k ∧ k.retire = .no) → stamp < s.cycle → v.grants r q = true →
    v.heldOff r prio stamp = false → v.recheck r q = true → aget? v.loc.recs r = some q →
    ∃ u, exec .dispatch s = .next u ∧ u.mem = s.mem
      ∧ let x := u.ctxAt t c
        x.run.task = some r ∧ x.run.dispatched = s.cycle ∧ x.run.issueAt = s.cycle + 2
        ∧ x.spec.on = false ∧ x.hold = .none
        ∧ (aget? v.loc.park r = none →
            x.regs.pc = BitVec.ofNat 32 q.img.entry
            ∧ (∀ i < 6, x.regs.readX (BitVec.ofNat 5 (i + 1)) = q.first.getD i 0) ∧ x.regs.readX 7 = q.img.arg
            ∧ x.regs.readC 0 = q.cap
            ∧ x.regs.readC 14 = (if q.img.stv then (v.loc.slot q.img.stSlot).cap else none)
            ∧ x.regs.h = (recNeeds q.img).zipIdx.map (fun n => (n.2, n.1.1)) ∧ x.regs.v = [] ∧ x.regs.fpstat = 0
            ∧ x.run.trapEntry = false ∧ x.run.accs = v.freeAccs.take q.img.nacc)
        ∧ (∀ e, aget? v.loc.park r = some e → e.wait ≠ .retry →
            x.regs = e.regs ∧ x.run.trapEntry = e.trapEntry ∧ x.run.accs = e.accs ∧ x.mx.flags = e.mxFlags)
        ∧ ∃ q', aget? (u.tile t).loc.recs r = some q' ∧ q'.q = .running c ∧ q'.cap = none ∧ q'.img = q.img

/-- R29. The dispatch condition of a record is the conjunction of its valid parts: the counter, the ring needs, the landing
registers of LMASK, the state slot. A record with no valid part is ready at enqueue. That a task which RETRY runs again, whose state
region is in the park store (R432), waits for its other parts alone is the model's reading (log 8). -/
def Obligations.DispatchCondition : Prop :=
  (∀ (l : Local) (i : Nat) (r : TaskRec), r.latched = false →
    (l.holds i r = true ↔
      (r.img.ctrv = true → ((l.ctr r.img.ctr).value - BitVec.ofNat 32 r.img.target).toNat < 2 ^ 31)
      ∧ (r.img.rv0 = true → ∃ g, aget? l.rings r.img.rnum0 = some g ∧ r.img.rcnt0 ≤ l.fill g)
      ∧ (r.img.rv1 = true → ∃ g, aget? l.rings r.img.rnum1 = some g ∧ r.img.rcnt1 ≤ l.fill g)
      ∧ (∀ y < 32, bit r.img.lmask y = true → ∃ v, aget? l.land y = some v)
      ∧ (r.img.stv = true → (∃ c, (l.slot r.img.stSlot).cap = some c) ∨ ∃ e, aget? l.park i = some e ∧ e.wait = .retry)))
  ∧ ∀ (s : State) (t n : Nat) (r : TaskRec), r.img.ctrv = false → r.img.rv0 = false → r.img.rv1 = false → r.img.lmask = 0 →
      r.img.stv = false → aget? ((s.putRec t n r).tile t).loc.recs n
        = some { r with latched := false, born := s.cycle, q := .ready r.prio s.cycle n s.cycle s.cycle false }

/-- AGING raises a task that has waited for more than 65,536 cycles one level and keeps its stamp (R120); HELD_TASK holds
the oldest task that has been skipped and has waited as long at level 6 (R121). The budget of a task (R383, R427): at W_h
cycles a task that does not speculate takes a WDOG trap and has 64 cycles of grace, one that speculates rolls back, as it
does when 128 cycles remain; at the end of its grace it is contained. Before, nothing happens, but that the strike horizon
keeps the context in its history (R450). -/
def Obligations.WaitingAndWatchdog : Prop :=
  (∀ (s : State) (r : Nat) (q : TaskRec) (prio stamp place since since6 : Nat) (sk : Bool),
      let v := s.tile s.cur.tile
      (aget? v.loc.recs r = some q → q.q = .ready prio stamp place since since6 sk →
        ∃ u, exec .aging s = .next u ∧ u.mem = s.mem ∧ u.ctx = s.ctx
          ∧ aget? (u.tile s.cur.tile).loc.recs r = some (if prio ≤ 5 ∧ since + 65536 < s.cycle then
              { q with q := .ready (prio + 1) stamp place s.cycle (if prio = 5 then s.cycle else since6) sk } else q))
      ∧ (v.heldTask = none → oldest v.loc (holdable s.cycle) = some r →
          ∃ u, exec .heldTask s = .next u ∧ (u.tile s.cur.tile).core.disp.held = some r ∧ u.ctx = s.ctx)
      ∧ (v.heldTask = none → oldest v.loc (holdable s.cycle) = none → exec .heldTask s = .next s))
  ∧ (∀ (s : State) (w : Who) (id g : Nat), s.who = some w →
      (s.ctx.run.graceEnd = none → s.ctx.run.dispatched + w.image.budget ≤ s.cycle →
        (Delivers s w → s.ctx.hold = .none → ∃ u, exec .watchdogExpiry s = .next u ∧ Trapped s u w cWdog 0
          ∧ u.ctx.run.graceEnd = some (s.cycle + 64))
        ∧ (Delivers s w → s.ctx.hold = .remote id → ∃ u, exec .watchdogExpiry s = .next u ∧ Trapped s u w cWdog 2)
        ∧ (s.ctx.spec.on = true → exec .watchdogExpiry s = .next (s.ctxRemember.rollback s.cur.tile s.cur.ctx 3)))
      ∧ (s.cycle < s.ctx.run.dispatched + w.image.budget → exec .watchdogExpiry s = .next s.ctxRemember)
      ∧ (s.ctx.spec.on = true → s.ctx.run.dispatched + w.image.budget ≤ s.cycle + 128 →
          exec .speculationBudgetLow s = .next (s.rollback s.cur.tile s.cur.ctx 3))
      ∧ (s.ctx.run.graceEnd = some g →
          (s.cycle < g → exec .graceExpiry s = .next s)
          ∧ (g ≤ s.cycle → ∃ u, u = s.ctxRemember.onCtx (fun v => { v with hold := .watchdog 3, run := { v.run with graceEnd := none } })
              ∧ exec .graceExpiry s
                = .next (u.contain w.pnum w.kslot s.cur.tile (some s.cur.ctx) true (u.trapRecord w (.of cWdog 3)) .task))))

/-- What leaves a core. A post leaves the injection queue behind earlier ones for its destination and network, once the
accesses before it have been performed, unless it is an operation packet (R326, R335); a write that the strike horizon has held
for its time is performed (R450); the vector unit becomes free, unless its instruction awaits another chip (R206). -/
def Obligations.ReleaseEvents : Prop :=
  ∀ (s : State) (e : InjEntry) (l : LogWrite),
    let t := s.cur.tile
    let inj := (s.tile t).core.inj
    (inj[s.cur.sub]? = some e →
      let first := !((inj.take s.cur.sub).any fun q => q.vn == e.vn && q.pkt.dst == e.pkt.dst)
      (first = true → isOperation e.pkt.body = true ∨ s.before t e.ctx e.ord = true →
        (∀ c < 8, (s.ctxAt t c).shzLog = [] ∧ (s.ctxAt t c).shzPosts = [] ∧ (s.ctxAt t c).endHeld = none) →
        ∃ u, exec .injectionEntryFree s = .next u ∧ (u.tile t).core.inj = inj.eraseIdx s.cur.sub ∧ u.mem = s.mem
          ∧ (e.pkt.dst.chip = s.chip → u.net = s.net ++ [e.pkt])
          ∧ (e.pkt.dst.chip ≠ s.chip → u.fabric.out = s.fabric.out ++ [e.pkt]))
      ∧ (first = false → exec .injectionEntryFree s = .next s))
    ∧ (s.ctx.shzLog = [l] → s.ctx.shzPosts = [] → s.ctx.endHeld = none → (s.ct l.cap.key).laopen = false →
        Memory.wf s.mem = true →
        (l.due ≤ s.cycle → ∃ u, exec .horizonRelease s = .next u ∧ u.ctx.shzLog = []
          ∧ (∀ i : Nat, ∀ hi : i < l.bytes.length, u.byte (l.addr + i) = l.bytes[i])
          ∧ SameMemoryBut s u l.addr l.bytes.length)
        ∧ (s.cycle < l.due → ∃ u, exec .horizonRelease s = .next u ∧ u.ctx.shzLog = [l] ∧ SameMemory s u))
    ∧ (s.ctx.vecBusy ≠ some unitWaits →
        ∃ u, exec .vectorStreamComplete s = .next u ∧ u.ctx = { s.ctx with vecBusy := none } ∧ SameMemory s u)
    ∧ (s.ctx.vecBusy = some unitWaits → exec .vectorStreamComplete s = .next s)

/-! ## What arrives at a tile (R31, R34, R63, R330 to R334, R346, R413) -/

/-- A message creates a task of its channel's kernel (R34): x1 to x4 from the message, x5 the sender, x6 the channel, the
capability in c0; while no record pair is free it waits in its lane (R31). A remote creation does so with its image (R346).
An increment adds to its counter (R333), unless a local counter's increment comes from elsewhere (R334). A write to landing
registers takes effect when they are empty and waits in the hold otherwise (R330, R331). -/
def Obligations.ArrivalResults : Prop :=
  ∀ (s : State) (p : Packet) (ch r i n y : Nat) (x1 x2 x3 x4 v : Word) (vals : List Word) (cap : Cap) (own : Bool)
    (img : RecImage) (k : Kernel) (im : Image) (pt : Nat × Part) (c : Chan), s.incoming = some p →
    let t := s.cur.tile
    let l := (s.tile t).loc
    let left (u : State) : Prop := u.net = s.net.eraseIdx s.cur.sub ∧ SameMemory s u
    let first := [x1, x2, x3, x4, placeWord p.src, word ch]
    let made (cap : Option Cap) : TaskRec := ⟨c.image (p.vn == 0), c.kslot, 0, 0, first, cap,
      fixedPrio c.prio (s.bias pt.1 c.kslot), false, .waiting, some p.src, s.cycle⟩
    (s.partOfTile t = some pt → aget? l.chans ch = some c → c.dead = false →
      (p.body = .msg ch x1 x2 x3 x4 none →
        (l.freeRec = some r → ∃ u, exec .messageArrival s = .next u ∧ left u ∧ Enqueued s u r (made none))
        ∧ (l.freeRec = none → exec .messageArrival s = .next { s with net := s.net.set s.cur.sub { p with held := true } })
        ∧ (p.held = true → l.freeRec = some r → ∃ u, exec .poolWaitRelease s = .next u ∧ left u ∧ Enqueued s u r (made none)))
      ∧ (p.body = .msg ch x1 x2 x3 x4 (some cap) → l.freeRec = some r → ∃ u, exec .capabilityArrival s = .next u ∧ left u
          ∧ Enqueued s u r (made (some cap)) ∧ u.cts = (s.setOwner cap 0 ⟨s.chip, t⟩).cts))
    ∧ (p.body = .spawn img vals n → aget? s.parts p.part = some pt.2 → pt.2.kernel p.kslot = some k →
        aget? pt.2.images k.image = some im → (s.tile t).groupKilled p.kslot = false → recRefused img l im k.supv = false →
        l.freeRec = some r → ∃ u, exec .remoteSpawnArrival s = .next u ∧ left u ∧ Enqueued s u r ⟨img, p.kslot, 0, 0, vals, none,
          fixedPrio img.prio (s.bias p.part p.kslot), false, .waiting, none, s.cycle⟩)
    ∧ (p.body = .inc i n own →
        ((l.ctr i).loc = false ∨ own = true → ∃ u, exec .counterIncrementArrival s = .next u ∧ left u
          ∧ (u.tile t).loc.ctr i = ⟨(l.ctr i).value + BitVec.ofNat 32 n, (l.ctr i).loc⟩)
        ∧ ((l.ctr i).loc = true → own = false → ∃ u, exec .counterIncrementArrival s = .next u
          ∧ (u.tile t).loc.ctr i = l.ctr i))
    ∧ ((p.body = .land y vals ∨ p.body = .aoprResult y vals) →
        let event : Instr := if p.body = .land y vals then .landingWriteArrival else .aoprResultArrival
        ((∀ j < vals.length, l.landBusy (y + j) = false) → ∃ u, exec event s = .next u ∧ left u
          ∧ ∀ j : Nat, ∀ hj : j < vals.length, aget? (u.tile t).loc.land (y + j) = some vals[j])
        ∧ (vals = [v] → l.landBusy y = true →
            (l.landHold.length < 8 → ∃ u, exec event s = .next u ∧ left u ∧ (u.tile t).loc.land = l.land
              ∧ (u.tile t).loc.landHold = l.landHold ++ [⟨y, v⟩])
            ∧ (8 ≤ l.landHold.length → exec event s = .next { s with net := s.net.set s.cur.sub { p with held := true } })))

/-- A held landing write is applied when its register has been read in an earlier cycle (R331). Deliveries to a COPY ring (R63, R413, R483): a
request joins the ring's list, or is answered that the copy goes as a transfer; the oldest one that fits is granted its
slots; the oldest, once ended, raises the fill counter and is announced on its channel. A collective's record goes to three
landing registers. -/
def Obligations.DeliveryEvents : Prop :=
  ∀ (s : State) (p : Packet) (h : HeldLanding) (i r id ch bytes code sub : Nat) (x2 v st mask hd : Word) (c : Chan) (g : Ring)
    (d : Delivery) (at' : LandAt),
    let t := s.cur.tile
    let l := (s.tile t).loc
    let ringOf (u : State) : Option Ring := aget? (u.tile t).loc.rings r
    (l.landHold.findIdx? (l.landDue s.cycle) = some i → l.landHold[i]? = some h →
      ∃ u, exec .landingHoldApply s = .next u ∧ aget? (u.tile t).loc.land h.reg = some h.val
        ∧ (u.tile t).loc.landHold = l.landHold.eraseIdx i)
    ∧ (s.incoming = some p → p.body = .slotReq id ch bytes x2 →
        (aget? l.chans ch = none → exec .copySlotRequest s = .next (s.taken.answerSlots t p.src id none))
        ∧ (aget? l.chans ch = some c → c.dead = false → c.cring = some r → aget? l.rings r = some g →
            bytes ≤ g.slots * g.slotBytes → ∃ u g', exec .copySlotRequest s = .next u ∧ ringOf u = some g'
              ∧ g'.deliveries.map (fun d => (d.src, d.id)) = g.deliveries.map (fun d => (d.src, d.id)) ++ [(p.src, id)]))
    ∧ (aget? l.rings s.cur.sub = some g → s.cur.sub = r → g.deliveries.find? (fun d => !d.granted) = some d →
        (g.fits d.n = true → ∃ u g', exec .copySlotGrant s = .next u ∧ ringOf u = some g'
          ∧ g'.rsv = (g.rsv + d.n) % 2 ^ 32)
        ∧ (g.fits d.n = false → exec .copySlotGrant s = .next s))
    ∧ (aget? l.rings s.cur.sub = some g → s.cur.sub = r → g.deliveries.head? = some d →
        (d.done = some (code, sub, bytes) → d.granted = true → ∃ u g', exec .copyAnnounce s = .next u ∧ ringOf u = some g'
          ∧ g'.deliveries = g.deliveries.drop 1
          ∧ ((u.tile t).loc.ctr g.fctr).value = (l.ctr g.fctr).value + BitVec.ofNat 32 d.n
          ∧ (d.record = none → ∃ q, u.net = s.net ++ [q] ∧ q.dst = ⟨s.chip, t⟩
              ∧ q.body = .msg d.chan (word (code + 2 ^ 8 + d.first * 2 ^ 9 + d.n * 2 ^ 17)) d.x2 (word bytes) 0 none))
        ∧ (d.done = none → exec .copyAnnounce s = .next s))
    ∧ (s.incoming = some p → p.body = .collRecord (.land at') v st mask hd i →
        (∀ j < 3, l.landBusy (at'.reg + j) = false) →
        ∃ u, exec .collectiveRecordArrival s = .next u ∧ u.net = s.net.eraseIdx s.cur.sub
          ∧ aget? (u.tile t).loc.land at'.reg = some v ∧ aget? (u.tile t).loc.land (at'.reg + 1) = some st
          ∧ aget? (u.tile t).loc.land (at'.reg + 2) = some mask)

/-! ## Memory agents, reclaim, translations, barriers at their homes (R66, R272, R277, R352 to R356, R378 to R389) -/

/-- An operation packet at the memory agent of its channel replaces the element, at the partition offset that was translated
at issue, by the function's value, and returns the old one (R262, R352, R354). CHASE follows links for as many steps as it is given
and returns the last word that it read. ENQ links its node behind the tail, or as the first node of an empty list, and returns the
old tail; with a tail that is no offset of a node it applies nothing, which is logged (R355). -/
def Obligations.AgentResults : Prop :=
  ∀ (s : State) (p : Packet) (fn fmt off poff ord : Nat) (cap : Cap) (args : List Word) (ret : Option LandAt) (xl : Xlat)
    (q : Part),
    s.incoming = some p → p.body = .op fn fmt cap off args ret xl poff ord → Clean s → Memory.wf s.mem = true →
    aget? s.parts p.part = some q → q.prec.covers poff 1 = true → (s.ct cap.key).laopen = false →
    let view : AgentView := .window p.part xl off poff
    let a := q.prec.phys poff
    let m := leNat (s.bytes a (opBytes fn fmt))
    let arg := fun i => (args.getD i 0).toNat
    let answers (u : State) (vals : List Word) : Prop :=
      (ret = none → u.net = s.net.eraseIdx s.cur.sub)
      ∧ (∀ r, ret = some r → r.place.chip = s.chip → ∃ q, u.net = s.net.eraseIdx s.cur.sub ++ [q] ∧ q.vn = 1 ∧ q.dst = r.place
          ∧ q.body = .aoprResult r.reg vals)
    let gives (bs : List Byte) (vals : List Word) : Prop := ∃ u, exec .memoryAgentOperation s = .next u
      ∧ (∀ i : Nat, ∀ hi : i < bs.length, u.byte (a + i) = bs[i]) ∧ SameMemoryBut s u a bs.length ∧ answers u vals
    let link (x : Nat) : Prop := x % 8 = 0 ∧ x + 8 ≤ cap.bytes
    (1 ≤ fn → fn ≤ 8 → gives (leBytes (opBytes fn fmt) (agentFn fn fmt m (arg 0) (arg 1))) [word m])
    ∧ (fn = 0 → ∀ x, Xa.ofImage m = some x → let y := x.add (decodeNum (exactTy fmt) (arg 0))
        gives (leBytes 64 y.image) [word (y.read .f64 false).bits])
    ∧ (fn = 9 → gives (if field m 0 64 = arg 0 ∧ field m 64 64 = arg 1 then leBytes 16 (arg 2 + arg 3 * 2 ^ 64) else [])
        [word (field m 0 64), word (field m 64 64)])
    ∧ (fn = 10 → let tail := field m 64 64
        (∀ na ta, s.agentAt p view cap (arg 0) true = some na →
          tail = nil64 ∧ ta = a ∨ link tail ∧ s.agentAt p view cap tail true = some ta →
          ∃ u, exec .memoryAgentOperation s = .next u ∧ answers u [word tail]
            ∧ u.mem = (((s.putBytes na (leBytes 8 nil64)).putBytes ta (leBytes 8 (arg 0))).putBytes (a + 8) (leBytes 8 (arg 0))).mem)
        ∧ (tail ≠ nil64 → ¬link tail → exec .memoryAgentOperation s
            = .next ((s.taken.logOp p view cap off cBounds 0 (args.getD 0 0)).sendResult p view ret [enqFailed])))
    ∧ (fn = 11 → ∀ at' word' : Nat → Nat, ∀ n < arg 0,
        (∀ k ≤ n, s.agentAt p view cap (if k = 0 then off else word' (k - 1)) false = some (at' k)
          ∧ leNat (s.bytes (at' k) 8) = word' k ∧ (k < n → link (word' k))) →
        n + 1 = arg 0 ∨ ¬link (word' n) → gives [] [word (word' n)])

/-- A reclaim ends when every tile has acknowledged (R66): the hallmark rises and the entry is exclusive again with the
rights of its creation, or it retires at the last hallmark (R50, R60). A tile's core and its steward acknowledge once each has drained.
Invalidations of translations remove entries and are acknowledged likewise, the requester's counter goes up at the end
(R277). A page request that waits enters its queue when there is room (R272). -/
def Obligations.ReclaimAndInvalidate : Prop :=
  ∀ (s : State) (r : Reclaim) (i : Inval) (is : List Inval) (p : Part) (q : PageReq) (qs : List PageReq) (tile ctr : Nat),
    let t := s.cur.tile
    let key := s.cur.sub
    let e := s.ct key
    let vf := aget s.vfs .reset s.cur.sub
    (e.recl = some r →
      (r.waiting.contains t = true ∨ r.waitingStw.contains t = true → ∃ u, exec .reclaimInvalidation s = .next u ∧ SameMemory s u
        ∧ (u.tile t).core.vcache = (s.tile t).core.vcache.filter (fun v => v.key != key)
        ∧ (u.tile t).svcache = (s.tile t).svcache.filter (fun v => v.key != key)
        ∧ (u.ct key).recl = some { r with
            waiting := if s.drained t key then r.waiting.filter (· != t) else r.waiting
            waitingStw := if s.stwDrained t key then r.waitingStw.filter (· != t) else r.waitingStw })
      ∧ (r.waiting ≠ [] → exec .reclaimComplete s = .next s)
      ∧ (r.waiting = [] → r.waitingStw = [] → (∀ x ∈ s.tiles, ∀ c < 8, ∀ y, (s.ctxAt x.1 c).hold ≠ .cdrop key y) →
          ∃ u, exec .reclaimComplete s = .next u ∧ u.mem = s.mem
          ∧ (u.ct key).recl = none ∧ (u.ct key).tokOut = 0 ∧ (u.ct key).lrs = [] ∧ (u.ct key).laopen = false
          ∧ (e.hallmark = 0xFFFF → (u.ct key).state = .retired ∧ (u.ct key).hallmark = 0xFFFF)
          ∧ (e.hallmark ≠ 0xFFFF → (u.ct key).state = .exclusive ∧ (u.ct key).hallmark = e.hallmark + 1
              ∧ (u.ct key).maxr = e.crgt)))
    ∧ (e.recl = none → exec .reclaimInvalidation s = .next s ∧ exec .reclaimComplete s = .next s)
    ∧ (aget? s.parts s.cur.part = some p → p.invq = i :: is →
        (i.waiting.contains t = true → ∃ u, exec .tlbInvalidation s = .next u ∧ u.mem = s.mem
          ∧ (u.tile t).core.l1 = (s.tile t).core.l1.filter (fun e => !i.hits s.cur.part e)
          ∧ aget u.l2 [] (tileCluster t) = (aget s.l2 [] (tileCluster t)).filter (fun e => !i.hits s.cur.part e)
          ∧ (s.translatedDone t = true → ∃ p', aget? u.parts s.cur.part = some p'
              ∧ p'.invq = { i with waiting := i.waiting.filter (· != t) } :: is))
        ∧ (i.waiting = [] → i.notify = some (tile, ctr) → ∃ u m, exec .tlbiAcknowledged s = .next u ∧ u.net = s.net ++ [m]
            ∧ m.dst = ⟨s.chip, tile⟩ ∧ m.body = .inc ctr 1 true ∧ (∃ p', aget? u.parts s.cur.part = some p' ∧ p'.invq = is))
        ∧ (i.waiting ≠ [] → exec .tlbiAcknowledged s = .next s))
    ∧ (vf.prqWaiting = q :: qs →
        (vf.prq.length < 64 → ∃ u, exec .pageRequestEntry s = .next u
          ∧ aget u.vfs .reset s.cur.sub = { vf with prq := vf.prq ++ [q], prqWaiting := qs })
        ∧ (64 ≤ vf.prq.length → exec .pageRequestEntry s = .next s))

/-- Barriers and probes at work: an arrival is recorded at the home and its party goes on speculating from a snapshot with PC
advanced (R378, R379); when the parks of a completion are acknowledged the phase rises and every party's tile is sent a notice
(R388); a notice is taken by every context of the tile (R389); a probed reader rolls back, and the probe is
acknowledged (R386). -/
def Obligations.KeystoneEvents : Prop :=
  ∀ (s : State) (p : Packet) (w : Who) (pt : Nat × Part) (b : Barrier) (bidx hallmark party c line id phase : Nat)
    (pub : Option Cap) (dests : Word) (m : Nat) (n : Snapshot),
    let t := s.cur.tile
    let src := p.src.tile
    let here : Place := ⟨s.chip, t⟩
    (s.incoming = some p → p.body = .arrive bidx hallmark party pub dests c false → p.src.chip = s.chip →
      aget? (s.tile t).loc.bars bidx = some b → b.hallmark = hallmark → (s.ct (ctKey .tile t b.ctidx)).hallmark = hallmark →
      b.arrived.contains party = false → b.killed.contains party = false → (s.tile src).core.disp.halting = false →
      s.whoAt src c = some w → (s.ctxAt src c).hold = .barrier here bidx false →
      (s.ctxAt src c).spec = Spec.reset →
      let b' := { b with arrived := party :: b.arrived, pubs := match pub with
        | some k => aset b.pubs party (k, dests)
        | none => b.pubs }
      b'.full = false → ∃ u, exec .barrierArrival s = .next u ∧ u.net = s.net.eraseIdx s.cur.sub ∧ SameMemory s u
        ∧ aget? (u.tile t).loc.bars bidx = some b'
        ∧ (∀ k, pub = some k → s.current k = true → (u.ct k.key).laopen = true)
        ∧ let v := u.ctxAt src c
          v.regs.pc = (s.ctxAt src c).regs.pc + 12 ∧ v.hold = .none ∧ v.spec.on = true ∧ v.spec.bar = here
          ∧ v.spec.bidx = bidx ∧ v.spec.phase = b.phase ∧ (v.spec.snap.map fun n => n.regs) = some v.regs)
    ∧ (aget? (s.tile t).loc.bars s.cur.sub = some b → s.partOfTile t = some pt → b.completing = true →
        (∀ q ∈ s.probes, ∀ x ∈ b.prev, x.2.1.key ≠ q.key) → ∃ u, exec .barrierParkAcknowledged s = .next u ∧ aget? (u.tile t).loc.bars s.cur.sub = some { b with
            phase := (b.phase + 1) % 2 ^ 32, arrived := [], prev := b.pubs, pubs := [], completing := false }
          ∧ ∀ k q, pt.2.kernel b.kslot = some k → m < b.n → k.tiles[b.rbase + m]? = some q →
              ∃ n ∈ u.net, n.dst = ⟨s.chip, q⟩ ∧ n.body = .notice s.cur.sub b.phase)
    ∧ (s.incoming = some p → p.body = .notice bidx phase → c < 8 → s.whoAt t c = some w →
        (∀ d < 8, d ≠ c → (s.ctxAt t d).run.task = none) → (s.tile t).loc.park = [] →
        let v := s.ctxAt t c
        (v.spec.awaits p.src bidx phase = true → v.spec.log = [] → v.spec.held = [] → v.spec.looks = [] → v.endHeld = none →
          v.shzLog = [] → v.shzPosts = [] → v.hold = .none → ∃ u, exec .completionNotice s = .next u ∧ u.net = s.net.eraseIdx s.cur.sub ∧ SameMemory s u
            ∧ (u.ctxAt t c).spec = { Spec.reset with abort := v.spec.abort, rolled := v.spec.rolled }
            ∧ (u.ctxAt t c).regs = v.regs.noLooks ∧ (u.ctxAt t c).hold = .none)
        ∧ (v.spec.on = false → v.hold = .keystone p.src bidx phase → ∃ u, exec .completionNotice s = .next u
            ∧ u.net = s.net.eraseIdx s.cur.sub ∧ SameMemory s u ∧ (u.ctxAt t c).hold = .none
            ∧ (u.ctxAt t c).regs = { v.regs with pc := v.regs.pc + 12, resume := .none }))
    ∧ (s.incoming = some p → p.body = .probe line id → p.src.chip = s.chip →
        (∀ c < 8, (s.ctxAt t c).spec.on = true → (s.ctxAt t c).spec.reads.contains line = false) →
        ∃ u q, exec .conflictProbe s = .next u ∧ u.net = s.net.eraseIdx s.cur.sub ++ [q] ∧ q.dst = p.src
          ∧ q.body = .probeAck id ∧ ∀ c < 8, u.ctxAt t c = s.ctxAt t c)
    ∧ (s.incoming = some p → p.body = .probe line id → c < 8 → (s.ctxAt t c).spec.on = true →
        (s.ctxAt t c).spec.reads.contains line = true → (s.ctxAt t c).spec.snap = some n →
        ∃ u, exec .conflictProbe s = .next u ∧ SameMemory s u ∧ (u.ctxAt t c).spec.on = false)
    ∧ (s.incoming = some p → p.body = .probeAck id → ∃ u, exec .probeAcknowledged s = .next u
        ∧ u.net = s.net.eraseIdx s.cur.sub ∧ ∀ q ∈ u.probes, q.id = id → p.src ∉ q.waiting)

/-! ## The steward's events (R303, R306, R311 to R320) -/

/-- The sleeping hart takes up the kick entry that has been queued (R312); a fault of the hart empties its k registers and
loads its program anew (R306). The engine moves the bytes of a copy or a fill burst by burst, to the next 64-byte boundary of
the destination (R315, R317); when an operation has moved all its bytes its status goes to rd (R311). An increment of mv.mbx is
posted after the operations before it (R320). -/
def Obligations.StewardEvents : Prop :=
  ∀ (s s1 s2 : State) (rd e a b : Nat) (v : Kick) (f : StwFault) (p : Nat × Part) (o : EngOp) (src dst : KCap) (soff doff : Nat)
    (pattern : Word) (at' : Place) (ctr n : Nat),
    let t := s.cur.tile
    let w := s.stw
    (w.sleep = some rd → s.stwStopped = false → s.shz t = false →
      ((s.tile t).loc.nextKick = some (e, v) → ∃ u, exec .stewardWake s = .next u
        ∧ u.stw = { w.writeX (BitVec.ofNat 5 rd) (word e) with
            sleep := none, pc := w.pc + 4, csr := { w.csr with minstret := w.csr.minstret + 1 } }
        ∧ aget? (u.tile t).loc.kicks e = some { v with state := .claimed })
      ∧ ((s.tile t).loc.nextKick = none → exec .stewardWake s = .next s))
    ∧ (w.fault = none → exec .stewardFault s = .next s)
    ∧ (w.fault = some f → s.partOfTile t = some p → w.k = [] →
        ((s.tile t).loc.kicks.filter fun k => k.2.state == .claimed) = [] →
        ∃ u, exec .stewardFault s = .next u ∧ u.stw.fault = none ∧ u.stw.pc = 0 ∧ u.stw.x = [] ∧ u.stw.csr.minstret = 0)
    ∧ (s.engOp = some o → w.ops = [o] → s.stwStopped = false → o.notBefore ≤ s.cycle → o.stop = none → o.waitTag = none →
        o.page = none → o.flights = [] → o.id = s.cur.sub → Clean s →
        (∀ k : Nat, o.kind = .copy (some src) (some dst) soff doff → k = o.burstLen → 0 < k →
          s.engineAt (some src) (soff + o.done) k .read = (s1, .phys a) → k ≤ 64 - a % 64 →
          (s1.setOp { o with flights := [⟨o.done, k, [.bytes (s1.bytes a k)], .waits⟩] }).engineAt (some dst) (doff + o.done) k
            .write = (s2, .phys b) → (s.ct dst.cap.key).laopen = false →
          Memory.wf s.mem = true → ∃ u, exec .moveBurst s = .next u
            ∧ (∀ i < k, u.byte (b + i) = s.byte (a + i)) ∧ SameMemoryBut s u b k
            ∧ u.stw.ops = [{ o with done := o.done + k }])
        ∧ (∀ k : Nat, o.kind = .fill (some dst) doff pattern → k = o.burstLen → 0 < k →
          let x (i : Nat) : Byte := BitVec.ofNat 8 (pattern.toNat / 2 ^ (8 * ((doff + o.done + i) % 8)))
          (s.setOp { o with flights := [⟨o.done, k, [.bytes ((upto k).map x)], .waits⟩] }).engineAt (some dst) (doff + o.done) k
            .write = (s2, .phys b) → (s.ct dst.cap.key).laopen = false →
          Memory.wf s.mem = true → ∃ u, exec .moveBurst s = .next u ∧ (∀ i < k, u.byte (b + i) = x i)
            ∧ SameMemoryBut s u b k ∧ u.stw.ops = [{ o with done := o.done + k }])
        ∧ (∀ x y, o.kind = .copy x y soff doff ∨ o.kind = .fill y doff pattern → o.kregs = [] →
            (o.done = o.len → ∃ u, exec .engineOpComplete s = .next u ∧ u.stw.ops = []
              ∧ u.stw.readX (BitVec.ofNat 5 o.rd) = (if o.rd % 32 = 0 then 0 else word (o.len * 2 ^ 16)) ∧ SameMemory s u)
            ∧ (o.done ≠ o.len → exec .engineOpComplete s = .next s))
        ∧ (o.kind = .mbx at' ctr n → ∃ u q, exec .engineOpComplete s = .next u ∧ u.stw.ops = []
            ∧ (at'.chip = s.chip → u.net = s.net ++ [q]) ∧ (at'.chip ≠ s.chip → u.fabric.out = s.fabric.out ++ [q])
            ∧ q.dst = at' ∧ q.body = .inc ctr n false))

/-! ## Queues, launches, images, retirement (R81 to R92, R435 to R437) -/

/-- The queues of a partition. A notify of a queue that holds a slot sets its TAIL, or is ignored and counted when it is out of
bounds (R82); one that has waited too long is reported (R84); a queue gains a slot (R83). The record at HEAD is a launch, a
registration or a release, and a refusal writes its completion record with the code and subcode of Table 4.6 (R86 to R88);
a launch starts, or waits for channels (R89). A kernel whose counter reaches its target stops (R91); its completion record is
written, its queue's HEAD moves, and the queue stands at a launch boundary (R435).
The model's choices: queue tables and records are read at partition offsets (log 5), the corners of the launch
checks (log 36), what waits while a partition is halted (log 37), where an image goes in the store and its handle (log 10), what is open of
an image's lengths and of its records (log 84). -/
def Obligations.QueueEvents : Prop :=
  ∀ (s : State) (p : Part) (x : QSlot) (kern : Kernel) (im : Image) (vf q index n code sub h base : Nat) (val : Word)
    (r : PendingRec) (since : Nat) (killed : Bool) (left : Nat),
    let pn := s.cur.part
    let k := s.cur.sub
    let slot (u : State) (k : Nat) : Option QSlot := (aget? u.parts pn).bind fun p => aget? p.qslots k
    let pending (u : State) (r : PendingRec) : Prop :=
      slot u k = some { x with kernel := none, waitingLaunch := none, pending := some r, boundary := false }
    let ends (e : Instr) (r : PendingRec) : Prop := ∃ u, exec e s = .next u ∧ u.mem = s.mem ∧ pending u r
    let waits (e : Instr) : Prop := ∃ u, exec e s = .next u ∧ u.mem = s.mem
      ∧ slot u k = some { x with waitingLaunch := some kern, boundary := false }
    let room (va granules : Nat) : Prop := granules ≠ 0 → s.bufferMeets pn va (granules * 65536) = false
      ∧ 2 ≤ ((upto (ctEntries .hbm)).filter fun i =>
        (s.ct (ctKey .hbm (p.prec.agentOf (va % 2 ^ 52)) i)).state == .free).length
    let startable : Prop := aget? p.images kern.image = some im ∧ kern.tiles ≠ [] ∧ kern.tiles.Nodup
      ∧ (∀ t ∈ kern.tiles, (s.tile t).loc.freeRec ≠ none)
      ∧ (∀ t, kern.tiles.head? = some t → ((s.tile t).loc.slot kern.lrec.dslot).open = true)
      ∧ room kern.lrec.datva kern.lrec.datlen ∧ room kern.lrec.argva kern.lrec.arglen
      ∧ (kern.lrec.datlen ≠ 0 → s.unitsOf pn p kern.xlat kern.lrec.datva (16 * kern.lrec.datlen) ≠ none)
    let starts (e : Instr) : Prop := ∃ u, exec e s = .next u
      ∧ slot u k = some { x with kernel := some kern, waitingLaunch := none, boundary := false }
      ∧ ∀ rank t, kern.tiles[rank]? = some t → ∃ i v, aget? (u.tile t).loc.recs i = some v ∧ v.kslot = k
          ∧ v.img.entry = kern.lrec.rootent ∧ v.first.take 2 = [word rank, word kern.tiles.length]
    (q < 64 → s.partOfVf vf = some (pn, p) → p.slotOf vf q = some (k, x) →
      let v := s.vf vf
      let bad := p.state = .evicted ∨ v.qcount ≤ q ∨ 2 ^ 32 ≤ val.toNat
        ∨ 2 ^ x.qlog2 < queueLeft (aget v.heads 0 q) (val.toNat % 2 ^ 32)
      (bad → ∃ u, exec (.qnotify vf q val) s = .next u ∧ (u.vf vf).qerr = min (v.qerr + 1) 0xFFFFFFFF
        ∧ (u.vf vf).tails = v.tails)
      ∧ (¬bad → ∃ u, exec (.qnotify vf q val) s = .next u ∧ (u.vf vf).tails = aset v.tails q val.toNat
          ∧ (u.vf vf).qerr = v.qerr))
    ∧ (s.partOfVf k = some (pn, p) → aget? s.parts pn = some p →
        ((s.vf k).pend.find? fun e => !e.2.2 && decide (e.2.1 + p.prec.tstarv * Config.cyclesPerMicro ≤ s.cycle))
          = some (q, since, false) →
        ∃ u, exec .notifyStarvation s = .next u
          ∧ (u.vf k).pend = (s.vf k).pend.map (fun e => if e.1 = q then (e.1, e.2.1, true) else e)
          ∧ ∀ m, p.supv.mgmt = some m → ∃ g ∈ u.net, g.dst = ⟨s.chip, m.1⟩
              ∧ g.body = .msg m.2 (word (cTimeout + 0x10 * 2 ^ 8 + 3 * 2 ^ 24)) (word (k + q * 2 ^ 8)) 0 0 none)
    ∧ (aget? s.parts pn = some p →
        (p.state = .active → p.halt = none → s.firstLatched p = some (vf, q) → freeKey p.qslots (upto 32) = some h →
          let d := s.devNat p ((s.vf vf).descriptor q) 64
          queueLeft (field d 64 32) (aget (s.vf vf).tails (field d 64 32) q) ≠ 0 →
          ∃ u, exec .queueSlotGrant s = .next u ∧ slot u h = some
            { vf := vf, queue := q, qva := field d 0 56, qlog2 := field d 56 4, nopre := bit d 60, supv := bit d 61,
              ckva := field d 128 56, kernel := none, waitingLaunch := none, pending := none, boundary := false })
        ∧ (s.firstLatched p = none → exec .queueSlotGrant s = .next s))
    ∧ (aget? s.parts pn = some p → aget? p.qslots k = some x → s.recordAt p x = some (index, n) →
        (field n 0 4 = 0 →
          (launchZero n = false → ends .launch (plainRecord 0 cRefused 0x10 (launchOf n).qckpt 0 index))
          ∧ (s.checkLaunch pn p x index n = .error (code, sub) →
            ends .launch (plainRecord 0 code sub (launchOf n).qckpt 0 index))
          ∧ (s.checkLaunch pn p x index n = .ok kern →
              (s.launchWaits p kern = true → waits .launch)
              ∧ (s.launchWaits p kern = false → startable → starts .launch)
              ∧ (s.launchWaits p kern = false → aget? p.images kern.image = some im → kern.tiles ≠ [] →
                  (kern.tiles.any fun t => (s.tile t).loc.freeRec.isNone) = true →
                  ends .launch (plainRecord 0 cRefused 1 kern.lrec.qckpt 0 kern.index))))
        ∧ (3 ≤ field n 0 4 → ends .launch (plainRecord 0 cRefused 0x10 0 0 index))
        ∧ (field n 0 4 = 1 →
            let va := field n 64 56
            let len := field n 128 32
            let bytes := s.poffBytes p.prec (va % 2 ^ 52) len
            (zeroFields n [(160, 864), (120, 8), (4, 60)] = false →
              ends .registerImage (plainRecord 1 cRefused 0x10 0 0 index))
            ∧ (zeroFields n [(160, 864), (120, 8), (4, 60)] = true →
                (p.storeRoom len 64 = none → ends .registerImage (plainRecord 1 cRefused 0x18 0 0 index))
                ∧ (p.storeRoom len 64 = some base → s.checkImage p va len base = none →
                  ends .registerImage (plainRecord 1 cRefused 0x19 0 0 index))
                ∧ (p.storeRoom len 64 = some base → s.checkImage p va len base = some im →
                  ∃ u, exec .registerImage s = .next u ∧ pending u (plainRecord 1 cOk 0 0 p.nextImage index)
                    ∧ (aget? u.parts pn).map (fun q => (aget? q.images p.nextImage, q.nextImage, q.imageLog))
                      = some (some im, p.nextImage + 1,
                        Config.shake256 (p.imageLog ++ Config.shake256 bytes 64) 64)
                    ∧ (im.constLen = 0 → u.mem = (s.putPoff p.prec base bytes).mem))))
        ∧ (field n 0 4 = 2 →
            let img := field n 32 32
            let used := p.supv.resident = some img ∨ ∃ y ∈ p.qslots,
              y.2.kernel.map (·.image) = some img ∨ y.2.waitingLaunch.map (·.image) = some img
            (zeroFields n [(64, 960), (4, 28)] = false →
              ends .releaseImage (plainRecord 2 cRefused 0x10 0 0 index))
            ∧ (zeroFields n [(64, 960), (4, 28)] = true →
                (aget? p.images img = none ∨ (aget? p.images img = some im ∧ im.released = true) →
                  ends .releaseImage (plainRecord 2 cRefused 0x11 0 0 index))
                ∧ (aget? p.images img = some im → im.released = false → risesFrom none p.images = true →
                    ends .releaseImage (plainRecord 2 cOk 0 0 0 index)
                    ∧ ∃ u, exec .releaseImage s = .next u
                      ∧ (used → (aget? u.parts pn).bind (fun q => aget? q.images img) = some { im with released := true })
                      ∧ (¬used → (aget? u.parts pn).bind (fun q => aget? q.images img) = none)))))
    ∧ (aget? s.parts pn = some p → aget? p.qslots k = some x → x.waitingLaunch = some kern → p.state = .active →
        p.halt = none →
        (s.launchWaits p kern = true → waits .launchChannelsFree)
        ∧ (s.launchWaits p kern = false → startable → starts .launchChannelsFree))
    ∧ (aget? s.parts pn = some p → aget? p.qslots k = some x → x.kernel = some kern → p.state = .active → p.halt = none →
        (kern.retire = .no →
          let reached := reaches ((s.tile kern.compTile).loc.ctr kern.lrec.cidx).value kern.lrec.ctarget
          (reached = true → ∃ u, exec .kernelRetire s = .next u ∧ u.mem = s.mem
            ∧ slot u k = some { x with kernel := some { kern with retire := .stopping cOk 0 false 0 } })
          ∧ (reached = false → exec .kernelRetire s = .next s))
        ∧ (kern.retire = .stopping code sub killed left →
            (kern.interval.any (s.runsOn k) = true → exec .kernelRetire s = .next s)
            ∧ (kern.interval.any (s.runsOn k) = false → kern.interval.any (s.stillBusy k) = false →
                ∃ u, exec .kernelRetire s = .next u
                  ∧ pending u (kern.record code sub (left + (kern.interval.map fun t => s.leftOn k t).sum))
                  ∧ ∀ t ∈ kern.interval, (∀ c ∈ (u.tile t).loc.chans, c.2.kslot ≠ k)
                      ∧ (∀ c ∈ (u.tile t).loc.rings, c.2.kslot ≠ k) ∧ (∀ c ∈ (u.tile t).loc.bars, c.2.kslot ≠ k))))
    ∧ (aget? s.parts pn = some p → aget? p.qslots k = some x → x.pending = some r →
        let v := s.vf x.vf
        let d := s.devNat p (v.qtbase + 0x1000) 64
        let tail := field d 96 32
        let full := queueLeft (field d 64 32) tail = 2 ^ field d 60 4
        let next := (r.index + 1) % 2 ^ 32
        let w := ((s.devPut p (field d 0 56 + 32 * (tail % 2 ^ field d 60 4)) 32 (r.nat x.vf x.queue)).devPut p
          (v.qtbase + 0x1000 + 12) 4 (tail + 1)).devBytes p (v.qtbase + 0x1040) v.errorBlock
        let w := match r.ckpt with
          | some n => w.devPut p x.ckva 16 (n + next * 2 ^ 64)
          | none => w
        (p.state ≠ .active ∨ p.halt ≠ none ∨ full → exec .completionRecordWrite s = .next s)
        ∧ (p.state = .active → p.halt = none → ¬full → s.firstLatched p = none →
            ∃ u, exec .completionRecordWrite s = .next u ∧ aget (u.vf x.vf).heads 0 x.queue = next
              ∧ (queueLeft next (aget v.tails 0 x.queue) ≠ 0 →
                  slot u k = some { x with pending := none, boundary := true } ∧ u.mem = w.mem)
              ∧ (queueLeft next (aget v.tails 0 x.queue) = 0 → risesFrom none p.qslots = true → slot u k = none)))

/-! ## Requests of a partition supervisor (R95, Table 4.7) -/

/-- The management agent serves the request at the head of a partition's queue and answers it on VN1 with code, subcode and
the request's tag: buffers created, freed and recovered, entries and records read, biases, the fault log, translation records,
the resident program and the supervisor's points set. An unknown operation answers ILLOPND.
The model's choices: the order of checks and the age of a listed task (log 38), the offsets of records (log 12), what is open of
the fields of a request (log 84), the k registers at the load of a program (log 83), the handles of images (log 10). -/
def Obligations.SupervisorRequests : Prop :=
  ∀ (s : State) (q : Part) (p : Packet) (rest : List Packet) (op tag tile chan : Nat) (zero : Bool) (words : List Word)
    (cap : Option Cap) (c : Cap) (k : HomeKind) (i : Nat) (im : Image) (kern : Kernel) (rec' : TaskRec) (code key : Nat),
    let pn := s.cur.part
    aget? s.parts pn = some q → q.supv.requests = p :: rest → p.body = .mgmt op tag zero words cap tile chan →
    let w := fun i => (words.getD i 0).toNat
    let part (u : State) : Option Part := aget? u.parts pn
    let answers (e : Instr) (code sub : Nat) (x2 x3 : Nat) (c0 : Option Cap) (more : State → Prop) : Prop := ∃ u m,
      exec e s = .next u ∧ u.net = s.net ++ [m] ∧ m.vn = 1 ∧ m.dst = ⟨s.chip, tile⟩
      ∧ m.body = .msg chan (word (code + sub * 2 ^ 8 + tag * 2 ^ 16)) (word x2) (word x3) 0 c0
      ∧ (part u).map (fun v => v.supv.requests) = some rest ∧ more u
    let stewards (u : State) (g : Prog) : Prop := ∀ t ∈ q.tiles, (∀ j, (s.tile t).stw.prog ≠ .kernel j) →
      q.sectionOn t = none → (s.partOfTile t).map (·.1) = some pn → (u.tile t).stw.prog = g
    let installs (h : Option Nat) (g : Prog) : Prop := ∃ u m, exec .stwInstall s = .next u ∧ m ∈ u.net ∧ m.dst = ⟨s.chip, tile⟩
      ∧ m.body = .msg chan (word (cOk + tag * 2 ^ 16)) 0 0 0 none
      ∧ (part u).map (fun v => (v.supv.resident, v.supv.requests)) = some (h, rest) ∧ stewards u g
    let ok (e : Instr) (more : State → Prop) : Prop := answers e cOk 0 0 0 none more
    (op = 0 ∨ 13 < op ∨ (op = 1 ∧ (zero = false ∨ cap.isSome = true)) → answers .bufCreate cIllopnd 0 0 0 cap fun _ => True)
    ∧ (zero = true → cap = none →
        (op = 1 → ∀ n, n = field (w 1) 0 24 → let t := field (w 2) 0 12
          let slot := field (w 2) 12 8
          w 2 < 2 ^ 20 → q.holds t = true → HomeKind.ofCode (field (w 1) 24 4) = some k →
          bufferPlace q k (field (w 1) 28 12) (w 0) n = none → w 1 < 2 ^ 44 →
          s.bufferMeets pn (w 0) (n * k.granule) = false → ((s.tile t).loc.slot slot).open = true →
          s.freeEntry q k (field (w 1) 28 12) = some i → ok .bufCreate fun u =>
            let e := u.ct (ctKey k (field (w 1) 28 12) i)
            e.state = .exclusive ∧ e.base = w 0 ∧ e.len = n ∧ e.maxr = .ofCode (field (w 1) 40 4) ∧ e.part = pn
            ∧ ∃ h, ((u.tile t).loc.slot slot).cap = some h ∧ h.mode = .exclusive ∧ h.wlen = n ∧ h.ctidx = i)
        ∧ (op = 3 →
            (∀ e, let t := field (w 1) 0 12
              let slot := field (w 1) 12 8
              q.supv.recover = none → entryWord q (w 0) = .ok key → w 1 < 2 ^ 20 → q.holds t = true → e = s.ct key →
              e.state = .exclusive ∨ e.state = .sealed → e.ownk = 3 → e.recl = none → e.laopen = false → q.supv.hold = [] →
              ((s.tile t).loc.slot slot).open = true → ∃ u, exec .bufRecover s = .next u
                ∧ (u.ct key).recl.map (fun r => r.caller) = some (.slot t slot none)
                ∧ ((u.tile t).loc.slot slot).reserved = true
                ∧ (part u).map (fun v => (v.supv.recover, v.supv.requests)) = some (some key, p :: rest))
            ∧ (q.supv.recover = some key →
                (∀ x, (s.ct key).recl = some x → exec .bufRecover s = .next s)
                ∧ ((s.ct key).recl = none →
                    ((s.ct key).state ≠ .retired → ok .bufRecover fun u => (part u).map (fun v => v.supv.recover) = some none)
                    ∧ ((s.ct key).state = .retired → answers .bufRecover cRevoked 0 0 0 none fun u =>
                      (part u).map (fun v => v.supv.recover) = some none))))
        ∧ (op = 4 → entryWord q (w 0) = .ok key → w 1 ≤ 1 → let n := (s.ct key).bits / 2 ^ (128 * w 1)
            answers .ctRead cOk 0 (field n 0 64) (field n 64 64) none fun _ => True)
        ∧ (op = 5 → w 0 < 2 ^ 12 → q.holds (w 0) = true → w 2 ≤ 1 →
            let l := (s.tile (w 0)).loc.recs.filterMap fun r => r.2.q.code.map fun c => (r.1, r.2, c)
            (l[w 1]? = none → answers .taskList cPartial 0 0 0 none fun _ => True)
            ∧ (l[w 1]? = some (i, rec', code) → ∃ u m, exec .taskList s = .next u ∧ u.net = s.net ++ [m]
                ∧ m.dst = ⟨s.chip, tile⟩ ∧ (part u).map (fun v => v.supv.requests) = some rest
                ∧ m.body = .msg chan (word (cOk + tag * 2 ^ 16)) (word (recOffset i + rec'.kslot * 2 ^ 24 + code * 2 ^ 30
                  + min (s.cycle - rec'.born) (2 ^ 32 - 1) * 2 ^ 32))
                  (word (field rec'.bits (if w 2 = 0 then 64 else 128) 64)) (word (field rec'.bits (if w 2 = 0 then 192 else 0) 64))
                  none))
        ∧ (op = 6 → w 0 < 32 → -6 ≤ signExtend (w 1) 64 → signExtend (w 1) 64 ≤ 6 → q.kernel (w 0) = some kern →
            ok .biasSet fun u => (part u).bind (fun v => v.kernel (w 0)) = some
              { kern with bias := signExtend (w 1) 64, biasOld := kern.biasIn s.cycle, biasAt := s.cycle })
        ∧ (op = 7 →
            (w 0 < 16 → answers .precRead cOk 0 (field q.prec.bits (64 * w 0) 64) 0 none fun _ => True)
            ∧ (16 ≤ w 0 → w 0 < 48 →
              answers .precRead cOk 0 (leNat ((q.prec.list.drop (8 * (w 0 - 16))).take 8)) 0 none fun _ => True))
        ∧ (op = 8 → w 0 % 64 = 0 → w 0 < 2 ^ 56 → 4 ≤ w 1 → w 1 ≤ 16 →
            q.prec.covers (w 0 % 2 ^ 52) (64 * 2 ^ w 1) = true → ok .flogSet fun u => (part u).map (fun v => v.supv.flog)
              = some { base := some (w 0 % 2 ^ 52), k := w 1, head := 0, tail := 0, overflow := 0 })
        ∧ (op = 9 → q.supv.flog.head ≤ w 0 → w 0 ≤ q.supv.flog.tail →
            answers .flogHead cOk 0 q.supv.flog.tail q.supv.flog.overflow none fun u =>
              (part u).map (fun v => v.supv.flog) = some { q.supv.flog with head := w 0 })
        ∧ (op = 10 → w 0 < 128 → w 1 % 32 = 0 → bit q.prec.vfmask (w 0) = true → q.prec.covers (w 1) 2048 = true →
            ok .xlatSet fun u => (part u).map (fun v => aget? v.xrecs (w 0)) = some (some (w 1)))
        ∧ (op = 11 → (w 0 = 0 → installs none .builtin)
            ∧ (w 0 ≠ 0 → aget? q.images (w 0) = some im → im.released = false → 0 < im.stwLen →
              installs (some (w 0)) (.resident (w 0))))
        ∧ (let at' := (field (w 0) 0 12, field (w 0) 16 4)
          w 0 < 2 ^ 20 → field (w 0) 12 4 = 0 → q.holds at'.1 = true →
            (op = 12 → q.supv.hold = [] → ok .supvRecv fun u => (part u).map (fun v => v.supv.recv) = some (some at'))
            ∧ (op = 13 → ok .supvEvents fun u => (part u).map (fun v => v.supv.mgmt) = some (some at'))))
    ∧ (zero = true → cap = some c → op = 2 → c.chip = s.chip → s.current c = true → (s.ct c.key).part = pn →
        (s.ct c.key).recl = none → c.mode = .exclusive → (s.ct c.key).tokOut + (s.ct c.key).tokLost = 0 →
        (s.ct c.key).laopen = false → ok .bufFree fun u =>
          (u.ct c.key).state = .free ∧ (u.ct c.key).hallmark = (s.ct c.key).hallmark)

/-! ## The Assay root (R96 to R113, R440 to R446) -/

/-- A mailbox command whose header is right for its operation is carried out: it is refused with the code and subcode of the
first check that fails, completes with its result, or goes on until the partition is halted or the invalidation done (R99,
R104). A wrong header is refused with 0x20. A partition that has halted is PAUSED and its command answered (R439).
The model's choices: at which of the six steps a field is judged (log 39, log 40), the draw of a handle (log 50), what of a
partition is sealed (log 44), the layout of a blob's body and of a report's signed text (log 85), AMRES of a refusal (log 92). -/
def Obligations.MailboxCommands : Prop :=
  ∀ (s : State) (buf pre : Mbox) (sig : List Byte) (h : Nat) (c : Cmd) (blob : List Byte) (p : Part) (pn : Nat) (x : Sealed) (r : MReg) (n : Nat)
    (rel : Bool),
    let b := s.assay.box
    let part (u : State) (k : Nat) : Option Part := aget? u.parts k
    let ends (e : Instr) (code sub : Nat) (res : Word) (more : State → Prop) : Prop := ∃ u, exec e s = .next u
      ∧ u.assay.box.busy = false ∧ u.assay.box.code = code ∧ u.assay.box.sub = sub ∧ u.assay.box.res = res ∧ more u
    let ok (e : Instr) (more : State → Prop) : Prop := ends e cOk 0 0 more
    let refused (e : Instr) (code sub : Nat) : Prop := ends e code sub 0 fun u => u.parts = s.parts ∧ u.mem = s.mem
    let starts (e : Instr) (more : State → Prop) : Prop := ∃ u, exec e s = .next u ∧ u.assay.box.started = true ∧ more u
    let allowed (k : Nat) : Prop := bit p.policy.cmdmask k = true
    (b.busy = true → b.started = false → h = leNat ((buf.bytes.take b.len).take 64) →
      (headerOk h b.len = false → refused (.partPause buf) cRefused 0x20)
      ∧ (headerOk h b.len = true → c = ⟨word (field h 0 64), ((buf.bytes.take b.len).drop 64).take (field h 128 32)⟩ →
        let op := field h 96 8
        let named := s.parts.find? fun q => q.2.handle == c.handle
        (op = 0x01 → pre.bytes ++ sig = buf.bytes →
          let rec' := recordOf (c.nat 0 128) ((c.args.drop 128).take 256)
          let body := (c.args.drop 384).take 256
          let pol := policyOf (leNat body) body
          let formed := recordZero (c.nat 0 128) = true ∧ policyZero (leNat body) = true
          let signed := slhValid pol.tenkey body (c.args.drop 640) = true
          let permitted := bit pol.cmdmask 1 = true ∧ shapeOk pol rec' = true
          let places := recordOk rec' = true ∧ s.placesFree 16 rec' = true ∧ s.chansFree 16 rec'.chans = true
            ∧ s.vfsFree 16 rec'.vfmask = true ∧ aget? s.parts rec'.pnum = none
          (¬formed → refused (.partCreate pre sig) cRefused 0x20)
          ∧ (formed → c.handle ≠ 0 → refused (.partCreate pre sig) cRefused 0x21)
          ∧ (formed → c.handle = 0 → ¬signed → refused (.partCreate pre sig) cPolicy 1)
          ∧ (formed → c.handle = 0 → signed → ¬permitted → refused (.partCreate pre sig) cPolicy 0)
          ∧ (formed → c.handle = 0 → signed → permitted → ¬places → refused (.partCreate pre sig) cRefused 0x23)
          ∧ (formed → c.handle = 0 → signed → permitted → places → ∃ w, ends (.partCreate pre sig) cOk 0 w fun u =>
              (part u rec'.pnum).map (fun q => (q.prec, q.policy, q.handle, q.state, q.epoch)) = some (rec', pol, w, .active, 0)
              ∧ u.assay.drawn = w :: s.assay.drawn
              ∧ (Config.freeHandle s.free ≠ 0 → ¬Config.freeHandle s.free ∈ s.assay.drawn → w = Config.freeHandle s.free)))
        ∧ (named = none → s.halting c = false →
            (op = 0x02 → refused (.partPause buf) cRefused 0x21) ∧ (op = 0x03 → refused (.partResume buf) cRefused 0x21)
            ∧ (op = 0x06 → refused (.partDestroy buf) cRefused 0x21) ∧ (op = 0x07 → refused (.vfAssign buf) cRefused 0x21)
            ∧ (op = 0x08 → refused (.chanAssign buf) cRefused 0x21) ∧ (op = 0x20 → refused (.report buf) cRefused 0x21))
        ∧ (named = some (pn, p) → part s pn = some p → s.halting c = false →
          (op = 0x02 → (p.state = .evicted → refused (.partPause buf) cRefused 0x22)
            ∧ (p.state ≠ .evicted → ¬allowed 2 → refused (.partPause buf) cPolicy 0)
            ∧ (allowed 2 → p.state = .paused → ok (.partPause buf) fun u => u.parts = s.parts)
            ∧ (allowed 2 → p.state = .active → starts (.partPause buf) fun u => (part u pn).bind (fun q => q.halt) = some .pause
                ∧ ∀ t ∈ p.tiles, (u.tile t).core.disp.halting = true))
          ∧ (op = 0x03 → (p.state = .evicted → refused (.partResume buf) cRefused 0x22)
            ∧ (allowed 3 → p.state = .active → ok (.partResume buf) fun u => u.parts = s.parts)
            ∧ (allowed 3 → p.state = .paused → ok (.partResume buf) fun u => (part u pn).map (fun q => q.state) = some .active
                ∧ ∀ t ∈ p.tiles, (u.tile t).core.disp.halting = false))
          ∧ (op = 0x04 → c.nat 16 8 / 2 = 0 → rel = bit (c.nat 16 8) 0 → p.state ≠ .evicted → allowed 4 →
              (rel = true → p.policy.relok = true) → p.policy.maxevict = 0xFFFFFFFF ∨ p.evictions + 1 ≤ p.policy.maxevict →
              (c.nat 8 8 < p.prec.blobLen rel → refused (.partEvict buf) cRefused 0x24)
              ∧ (p.prec.blobLen rel ≤ c.nat 8 8 → starts (.partEvict buf) fun u =>
                  (part u pn).bind (fun q => q.halt) = some (.evict rel (c.nat 8 8))))
          ∧ (op = 0x05 → c.nat 16 8 < 2 ^ 12 → p.state = .evicted → p.box = some x → allowed 5 →
              let new := { p.prec with pbase := c.nat 16 8 }
              s.placesFree pn new = true → (p.relHbm = true → s.chansFree pn new.chans = true) →
              (blobOk p blob (c.nat 8 8) = false → refused (.partRestore buf blob) cRefused 0x25)
              ∧ (blobOk p blob (c.nat 8 8) = true → ok (.partRestore buf blob) fun u =>
                  (part u pn).map (fun q => (q.state, q.prec, q.epoch, q.box)) = some (.paused, new, (p.epoch + 1) % 2 ^ 32, none)))
          ∧ (op = 0x06 → (¬allowed 6 → refused (.partDestroy buf) cPolicy 0)
            ∧ (allowed 6 → risesFrom none s.parts = true → ok (.partDestroy buf) fun u => part u pn = none))
          ∧ (op = 0x07 →
              let add := c.nat 0 16
              let gone := (upto 128).filter fun v => bit (c.nat 16 16) v
              let new := ((upto 128).map fun v => if (bit p.prec.vfmask v || bit add v) && !gone.contains v then 2 ^ v else 0).sum
              (p.state = .active → refused (.vfAssign buf) cRefused 0x22)
              ∧ (p.state ≠ .active → allowed 7 → countBits new 128 ≤ p.policy.maxvf →
                  (s.vfsFree pn add = false → refused (.vfAssign buf) cRefused 0x23)
                  ∧ (s.vfsFree pn add = true → ok (.vfAssign buf) fun u => (part u pn).map (fun q => q.prec.vfmask) = some new
                      ∧ ∀ v < 128, bit new v = ((bit p.prec.vfmask v || bit add v) && !bit (c.nat 16 16) v))))
          ∧ (op = 0x08 → let cs := (c.args.take p.prec.nch).map BitVec.toNat
              (p.state ≠ .evicted ∨ p.relHbm = false → refused (.chanAssign buf) cRefused 0x22)
              ∧ (p.state = .evicted → p.relHbm = true → allowed 8 →
                  (s.chansFree pn cs = false → refused (.chanAssign buf) cRefused 0x23)
                  ∧ (s.chansFree pn cs = true → ok (.chanAssign buf) fun u =>
                    (part u pn).map (fun q => q.prec) = some { p.prec with chans := cs })))
          ∧ (op = 0x09 →
              let n := c.nat 0 32
              let vfw := field n 0 31
              let gpa := field n 64 64
              let poff := field n 128 64
              let log2 := s2Log (field n 192 2)
              let i := field vfw 0 6
              let all := s.s2Entries p
              let met := all.filter fun e => e.meets vfw gpa log2
              zeroFields n [(32, 32), (194, 6), (201, 55)] = true → gpa % 2 ^ log2 = 0 →
              (bit n 200 = true → poff % 2 ^ log2 = 0) → p.state ≠ .evicted → allowed 9 →
              (bit n 31 = true → gpa < 2 ^ 42 → field vfw 6 4 = 0 → field vfw 24 7 = 0 →
                (bit n 200 = true → p.prec.covers poff (2 ^ log2) = true →
                  (∀ y ∈ p.fmmu, y.1 = i ∨ y.2.schip ≠ field vfw 10 10 ∨ y.2.spart ≠ field vfw 20 4
                    ∨ rangeMeets y.2.foff (2 ^ y.2.log2) gpa (2 ^ log2) = false) →
                  ok (.mapS2 buf) fun u => (part u pn).bind (fun q => aget? q.fmmu i)
                    = some ⟨poff, gpa, field vfw 20 4, field vfw 10 10, log2⟩)
                ∧ (bit n 200 = false → risesFrom none p.fmmu = true →
                  ok (.mapS2 buf) fun u => (part u pn).bind (fun q => aget? q.fmmu i) = none))
              ∧ (bit n 31 = false → gpa < 2 ^ 52 → vfw < 128 → bit p.prec.vfmask vfw = true → (∀ e ∈ met, e.log2 ≤ log2) →
                (bit n 200 = true → met = [] →
                  (p.policy.s2alias = true ∨ ∀ e ∈ all, rangeMeets e.poff (2 ^ e.log2) poff (2 ^ log2) = false) →
                  (p.prec.covers poff (2 ^ log2) = false → refused (.mapS2 buf) cRefused 0x23)
                  ∧ (p.prec.covers poff (2 ^ log2) = true → s.changeTables pn p vfw gpa poff log2 [] true = none →
                      refused (.mapS2 buf) cRefused 0x23)
                  ∧ (∀ t, p.prec.covers poff (2 ^ log2) = true → s.changeTables pn p vfw gpa poff log2 [] true = some t →
                      ok (.mapS2 buf) fun u => u.mem = t.mem))
                ∧ (bit n 200 = false → met = [] → ok (.mapS2 buf) fun u => u.mem = s.mem)
                ∧ (bit n 200 = false → met ≠ [] → starts (.mapS2 buf) fun u => (part u pn).bind (fun q => q.invq.getLast?)
                    = some { s2 := true, vf := some vfw, asid := none, base := gpa, len := 2 ^ log2, waiting := p.tiles,
                             notify := none })))
          ∧ (op = 0x0A → let mask := c.nat 0 8
              let rate := c.nat 8 8
              mask < 2 ^ 16 → allowed 10 → p.policy.minrate ≤ rate →
              ((∃ i < 16, bit mask i = true ∧ 100000 < s.ratesOn pn i + rate) → refused (.rateSet buf) cRefused 0x23)
              ∧ ((∀ i < 16, bit mask i = true → s.ratesOn pn i + rate ≤ 100000) → ok (.rateSet buf) fun u =>
                  ∀ i < 16, bit mask i = true → (aget? u.fabric.buckets (bucketKey pn i)).map (fun y => y.rate) = some rate))
          ∧ (op = 0x20 → let body := reportBody p (c.args.take 32)
              ends (.report buf) cOk 0 50368 fun u =>
                u.assay.hostOut = body ++ fixedBytes 49856 (Config.identitySign body) ∧ u.parts = s.parts ∧ u.mem = s.mem))
        ∧ (c.handle ≠ 0 → (op = 0x21 → refused (.cert buf) cRefused 0x21)
            ∧ (op = 0x30 → mregOf (c.nat 0 8) ≠ none → refused (.mgmtRead buf) cRefused 0x21))
        ∧ (c.handle = 0 →
          (op = 0x21 → ends (.cert buf) cOk 0 (word Config.certificateChain.length) fun u =>
            u.assay.hostOut = Config.certificateChain.take (c.nat 8 8))
          ∧ (op = 0x30 → (mregOf (c.nat 0 8) = none → refused (.mgmtRead buf) cRefused 0x20)
              ∧ (mregOf (c.nat 0 8) = some r → ends (.mgmtRead buf) cOk 0 (word (s.mread r)) fun u => u.mem = s.mem))
          ∧ (op = 0x31 → mregOf (c.nat 0 8) = some r → let v := c.nat 8 8
              (isEmark c = false → isHealth c = false →
                (s.mvalueOk r v = false → refused (.mgmtWrite buf) cRefused 0x20)
                ∧ (s.mvalueOk r v = true → ok (.mgmtWrite buf) fun u => u.mread r = match r with
                  | .rtab _ => s.fabric.markEntry v
                  | _ => v))
              ∧ (r = .emark n →
                  (v = 0 → ok (.emarkWrite buf) fun u => (u.tile n).core.eng.dead = false)
                  ∧ (v = 1 → ok (.emarkWrite buf) fun u => (u.tile n).core.eng.dead = true)
                  ∧ (1 < v → refused (.emarkWrite buf) cRefused 0x20))
              ∧ (r = .health n 0 → ok (.healthWrite buf) fun u => (u.tile n).counts = .reset
                  ∧ ∀ k, u.mread (.health n k) = 0))
          ∧ (op = 0x32 → let vf := c.nat 0 8
              let l := (s.vf vf).prq.take (c.nat 16 8 / 16)
              (128 ≤ vf → refused (.prqRead buf) cRefused 0x20)
              ∧ (vf < 128 → ends (.prqRead buf) cOk 0 (word l.length) fun u =>
                  u.assay.hostOut = l.flatMap fun y => leBytes 16 (y.bits vf))))))
    ∧ (b.busy = false → exec (.partPause buf) s = .next s ∧ exec (.report buf) s = .next s)
    ∧ (aget? s.parts s.cur.part = some p →
        (p.halt = none → exec .partitionHalted s = .next s)
        ∧ (p.halt ≠ none → p.tiles.all (fun t => (s.tile t).haltDone s.cycle) = false → exec .partitionHalted s = .next s)
        ∧ (p.halt = some .pause → p.replay = false → p.tiles.all (fun t => (s.tile t).haltDone s.cycle) = true →
            ∃ u, exec .partitionHalted s = .next u
              ∧ (aget? u.parts s.cur.part).map (fun q => (q.state, q.halt)) = some (.paused, none)
              ∧ u.assay.box.busy = false ∧ u.assay.box.code = cOk)
        ∧ (p.halt = some (.evict rel n) → p.replay = false → p.tiles.all (fun t => (s.tile t).haltDone s.cycle) = true →
            (s.meshDrained s.cur.part p = false → exec .partitionHalted s = .next s)
            ∧ (s.meshDrained s.cur.part p = true → ∃ u, exec .partitionHalted s = .next u
              ∧ (aget? u.parts s.cur.part).map (fun q => (q.state, q.halt, q.epoch, q.relHbm))
                = some (.evicted, none, (p.epoch + 1) % 2 ^ 32, rel)
              ∧ u.assay.box.busy = false ∧ u.assay.box.code = cOk ∧ u.assay.box.res = word (p.prec.blobLen rel)
              ∧ u.assay.hostOut.length = p.prec.blobLen rel)))

/-- The host at the module: a PF register takes a value only while the mailbox is idle (R98); a VF's window shows plaintext only
under its IDE stream, and writes need one (R107); keys are programmed for the VF whose tenant key was proven. A VF's reset
withdraws its kernels (R446). A reset of the module leaves no partition and no memory (R100), marks the engines that failed
(R253), and flushes health counts, as an orderly power loss does (R459). The scrubber poisons an uncorrectable line (R456); a
strike is counted, and under the horizon rolls the tile back (R449 to R451).
The model's choices: a window's offsets (log 5), the records of the host log (log 18, log 46), what a
reset keeps beside the spec's list (log 49), the low bits of AMADDR (log 92) and of QTBASE (log 84), the TAG counter of a VF
that is reset (log 42), a write of the host over the image store (log 41), what a rollback restores (log 45), the messages of a
session (log 85). -/
def Obligations.HostAndErrorEvents : Prop :=
  ∀ (s : State) (vf off len session line n vendor code : Nat) (v : Word) (bytes request sig : List Byte) (p : Part) (h : Word)
    (failed : List Nat) (pt : Nat × Part) (zone : Zone) (orderly : Bool) (c : Nat) (m : MxCmd) (r : TaskRec),
    let t := s.cur.tile
    let b := s.assay.box
    let struck := min ((s.tile t).counts.strikes + 1) (2 ^ 32 - 1)
    (∃ u, exec (.registerWrite true vf 0 v) s = .next u
      ∧ u.assay.box = if b.busy then { b with err := min (b.err + 1) 0xFFFFFFFF } else { b with addr := v &&& ~~~63 })
    ∧ (b.busy = false → 64 ≤ b.len → b.len ≤ 2 ^ 20 → ∃ u, exec (.registerWrite true vf 0x10 1) s = .next u
        ∧ u.assay.box = { b with busy := true, started := false })
    ∧ (vf < 128 → s.partOfVf vf = some pt → s.vfBusy pt.2 vf = false → ∃ u, exec (.registerWrite false vf 0x200 v) s = .next u
        ∧ (u.vf vf).qtbase = v.toNat % 2 ^ 56 / 2 ^ 12 * 2 ^ 12)
    ∧ (vf < 128 → s.partOfVf vf = none → exec (.registerWrite false vf off v) s = .next s ∧ s.vfRead vf off = 0)
    ∧ (s.windowOf vf = some p →
        (Clean s → ∃ u, exec (.cxlMemRead vf off len) s = .next u ∧ SameMemory s u ∧ u.assay.hostOut.length = len ∧ ∀ i < len,
          let a := off + i
          ((s.vf vf).ide = true → p.prec.covers a 1 = true → u.assay.hostOut[i]? = some (s.poffByte p.prec a))
          ∧ ((s.vf vf).ide = false → u.assay.hostOut[i]?
              = some (Config.xts p.keyGen (a / 64) (s.poffBytes p.prec (a / 64 * 64) 64) (a % 64))))
        ∧ ((s.vf vf).ide = true → p.prec.covers off bytes.length = true →
            ∃ u, exec (.cxlMemWrite vf off bytes) s = .next u ∧ u = s.putPoff p.prec off bytes)
        ∧ ((s.vf vf).ide = false ∨ p.prec.covers off bytes.length = false → exec (.cxlMemWrite vf off bytes) s = .next s))
    ∧ (∃ u reply, exec (.keyExchange ⟨session, request⟩) s = .next u ∧ u.assay.hostOut = reply
        ∧ aget? u.assay.sessions session = some { transcript := request ++ reply, proven := none })
    ∧ (∀ x, aget? s.assay.sessions session = some x →
        (vendor = Config.vendorId → code = 1 → s.holdsVf h vf = true →
          (∃ q ∈ s.parts, q.2.handle = h ∧ slhValid q.2.policy.tenkey (Config.sha384 x.transcript) sig = true) →
          ∃ u, exec (.vendorDefinedRequest session h vf ⟨vendor, code, sig⟩) s = .next u
            ∧ aget? u.assay.sessions session = some { x with proven := some (h, vf) })
        ∧ (vendor ≠ Config.vendorId ∨ code ≠ 1 ∨ s.holdsVf h vf = false
            ∨ (∀ q ∈ s.parts, q.2.handle = h → slhValid q.2.policy.tenkey (Config.sha384 x.transcript) sig = false) →
          exec (.vendorDefinedRequest session h vf ⟨vendor, code, sig⟩) s = .next s)
        ∧ (x.proven = some (h, vf) → s.holdsVf h vf = true → ∃ u, exec (.ideKeyProgramming session vf) s = .next u
            ∧ (u.vf vf).ide = true)
        ∧ (x.proven = none → exec (.ideKeyProgramming session vf) s = .next s))
    ∧ (vf < 128 → s.partOfVf vf = none → ∃ u, exec (.functionLevelReset vf) s = .next u
        ∧ u.vf vf = { Vf.reset with nextTag := (s.vf vf).nextTag })
    ∧ (vf < 128 → s.partOfVf vf = some pt → ∃ u, exec (.functionLevelReset vf) s = .next u
        ∧ (u.vf vf).qtbase = Vf.reset.qtbase ∧ (u.vf vf).qcount = Vf.reset.qcount ∧ (u.vf vf).qerr = Vf.reset.qerr
        ∧ (u.vf vf).errs = Vf.reset.errs ∧ (u.vf vf).ide = false ∧ (u.vf vf).prq = [])
    ∧ (∃ u, exec (.moduleReset failed) s = .next u ∧ u.parts = [] ∧ u.mem = [] ∧ u.net = [] ∧ u.cts = [] ∧ u.chip = s.chip
        ∧ ∀ n ∈ failed, n < 4096 → (u.tile n).core.eng.dead = true)
    ∧ (∃ u, exec (.powerLoss orderly) s = .next u ∧ u.parts = [] ∧ u.mem = [] ∧ u.net = [] ∧ u.cts = []
        ∧ ∀ x, aget? s.tiles n = some x → (u.tile n).stored = if orderly then x.stored.flushed x.counts else x.stored)
    ∧ (∃ u, exec .healthFlush s = .next u ∧ SameMemory s u ∧ u.flushes = s.flushes + 1 ∧ ∀ x, aget? s.tiles n = some x →
        (u.tile n).stored = x.stored.flushed x.counts ∧ (u.tile n).counts = .reset)
    ∧ (let a := line * 64
      let bad : Prop := (s.ecc.any fun e => e.2 && eccMeets a 64 e.1) = true
      let hit : Prop := (s.ecc.any fun e => !e.2 && eccMeets a 64 e.1) = true
      ∃ u, exec (.scrubVisit line) s = .next u ∧ SameMemory s u
        ∧ (∀ e ∈ u.ecc, e ∈ s.ecc ∧ eccMeets a 64 e.1 = false) ∧ (∀ e ∈ s.ecc, eccMeets a 64 e.1 = false → e ∈ u.ecc)
        ∧ (bad → line ∈ u.poison) ∧ (¬bad → u.poison = s.poison)
        ∧ (bad → hit → u.assay.hltail = s.assay.hltail + 2) ∧ (bad → ¬hit → u.assay.hltail = s.assay.hltail + 1)
        ∧ (¬bad → hit → u.assay.hltail = s.assay.hltail + 1) ∧ (¬bad → ¬hit → u = s))
    ∧ (s.partOfTile t = none ∨ s.partOfTile t = some pt ∧ (pt.2.state ≠ .active ∨ s.cycle < pt.2.since + 160) → ∃ u, exec (.strikeReport zone) s = .next u
        ∧ (u.tile t).counts.strikes = struck ∧ u.assay.hltail = s.assay.hltail + 1)
    ∧ (s.partOfTile t = some pt → pt.2.state = .active → pt.2.since + 160 ≤ s.cycle →
        (pt.2.prec.shz = true → zone ≠ .matrix → ∃ u, exec (.strikeReport zone) s = .next u
          ∧ (u.tile t).counts = { (s.tile t).counts with
              strikes := struck, sreplay := min ((s.tile t).counts.sreplay + 1) (2 ^ 32 - 1) }
          ∧ (u.tile t).core.history = [] ∧ (u.tile t).core.undo = [])
        ∧ (pt.2.prec.shz = true → zone = .matrix → (s.tile t).core.eng.running = some (c, m) → (s.tile t).core.eng.ran = [] →
            aget? (s.tile t).loc.recs m.task.rec' = some r → r.born = m.task.born → r.q = .running c → c < 8 →
            ∃ u, exec (.strikeReport zone) s = .next u
              ∧ (u.ctxAt t c).mx.err = some (cUncorr, 3) ∧ (u.tile t).counts.strikes = struck)
        ∧ (pt.2.prec.shz = false → (s.tile t).core.disp.left = [] → ∃ u, exec (.strikeReport zone) s = .next u
            ∧ (u.tile t).counts.strikes = struck
            ∧ ((∀ d < 8, ∀ q, s.recAt t d = some q → q.2.q = .running d) →
              ∀ d < 8, (s.recAt t d).isSome = true → (u.ctxAt t d).mx.err = some (cUncorr, 2))))

/-! ## The pod fabric and reduction slots (R396 to R421, R483) -/

/-- The fabric interface. A packet leaves when its bucket holds its charge, in order with its flow (R408); a transfer is
confirmed by its acknowledgement or its answer within its window and the next (R404), otherwise it ends with TIMEOUT or
PEERLOST, which an access gives its context (R285, R406). A packet from another chip is taken in order, at most once, and
refused when it is late or has no CAPOK (R396, R399, R403, R407). Generations flip and retire at their windows (R400), ports
go down and up (R404), buckets are refilled (R409), and a chip out of the time base loses every transfer (R405).
The model's choices: the order of one partition's packets for a port (log 52), the units of a bucket (log 58), L of a request (log 19), the first window after an unsynchronized one (log 56), the port of a packet and the end of one without a route (log 51). -/
def Obligations.FabricEvents : Prop :=
  ∀ (s : State) (p : Packet) (x : Transfer) (i id port n c : Nat) (vfs : List Nat) (ans : RemoteAnswer) (q : FabPacket) (g : Ring)
    (o : EngOp),
    let f := s.fabric
    let outstanding (id : Nat) (request known : Bool) : Prop := f.transfers[i]? = some x ∧ x.id = id ∧ x.sent = true
      ∧ x.kind ≠ .result ∧ x.kind ≠ .granted ∧ (requestId x.pkt.body).isSome = request ∧ s.window < x.stamp + 2
      ∧ s.knows x.pkt.dst.chip = known
      ∧ ∀ (j : Nat) (y : Transfer), j < i → f.transfers[j]? = some y → y.id ≠ id
    let tooLate (id : Nat) : Prop := ∀ y ∈ f.transfers, y.id = id → y.stamp + 2 ≤ s.window
    let awaits (id : Nat) : Prop := c < 8 ∧ (∀ d < c, (s.ctxAt x.pkt.src.tile d).hold ≠ .remote id)
      ∧ (∀ d < 8, (s.ctxAt x.pkt.src.tile d).hold.commits id = false) ∧ (s.ctxAt x.pkt.src.tile c).hold = .remote id
    (f.out[s.cur.sub]? = some p →
      (s.cycle < p.due ∨ f.unsync.isSome = true ∨ s.flipDue = true ∨ s.boundaryDue = true ∨ s.behind s.cur.sub p = true
        ∨ s.waitsForOld p = true → exec .packetDeparture s = .next s)
      ∧ (p.due ≤ s.cycle → f.unsync = none → s.flipDue = false → s.boundaryDue = false → s.behind s.cur.sub p = false →
          s.waitsForOld p = false → (aget? s.parts p.part).isSome = true → (∀ n, p.last = some n → s.window ≤ n) →
          (s.route f.gencur p = .port n →
            let b := (s.bucket p.part n).settle s.cycle
            let charge := (p.len + 16) * 1400
            (b.tokens < charge ∨ f.portsUp.getLsbD n = false → exec .packetDeparture s = .next s)
            ∧ (charge ≤ b.tokens → f.portsUp.getLsbD n = true → ∃ u, exec .packetDeparture s = .next u
                ∧ u.fabric.out = f.out.eraseIdx s.cur.sub
                ∧ aget? u.fabric.buckets (bucketKey p.part n) = some { b with tokens := b.tokens - charge }
                ∧ ∃ y more, u.fabric.transfers = f.transfers ++ y :: more ∧ y.pkt = p
                  ∧ y.stamp = s.window ∧ y.sent = true ∧ y.port = n))
          ∧ (s.route f.gencur p = .lost → ∃ u, exec .packetDeparture s = .next u ∧ u.fabric.out = f.out.eraseIdx s.cur.sub
              ∧ ∃ y, u.fabric.transfers = f.transfers ++ [y] ∧ y.pkt = p ∧ y.sent = false ∧ y.lost = true)))
    ∧ (tooLate id ∨ outstanding id false false → ∃ u, exec (.fabricAcknowledgement id) s = .next u
        ∧ u = { s with fabric := { f with discarded := f.discarded + 1 } })
    ∧ (outstanding id false true → ∃ u, exec (.fabricAcknowledgement id) s = .next u
        ∧ u.fabric = { f with transfers := f.transfers.eraseIdx i })
    ∧ (tooLate ans.id ∨ outstanding ans.id true false → ∃ u, exec (.remoteAccessAnswer ans) s = .next u
        ∧ u = { s with fabric := { f with discarded := f.discarded + 1 } })
    ∧ (outstanding ans.id true true → answerFits x.pkt.body ans = true → ans.code = cOk →
        (x.kind = .access → awaits ans.id → ∃ u, exec (.remoteAccessAnswer ans) s = .next u
          ∧ u.fabric = { f with transfers := f.transfers.eraseIdx i }
          ∧ u.ctxAt x.pkt.src.tile c = { s.ctxAt x.pkt.src.tile c with hold := .none, answer := some ans })
        ∧ (x.kind = .engine → x.pkt.op = some o.id → (s.tile x.pkt.src.tile).stw.ops = [o] →
          ∃ u, exec (.remoteAccessAnswer ans) s = .next u ∧ u.fabric = { f with transfers := f.transfers.eraseIdx i }
            ∧ (u.tile x.pkt.src.tile).stw.ops = [EngOp.confirm { o with flights := o.flights.map (Flight.takes ans) }]))
    ∧ (f.transfers[s.cur.sub]? = some x → x.kind = .access →
        (s.window < x.stamp + 2 → x.sent = true → exec .transferTimeout s = .next s)
        ∧ (x.stamp + 2 ≤ s.window ∨ x.sent = false → awaits x.id → ∃ u, exec .transferTimeout s = .next u
              ∧ u.fabric = { f with transfers := f.transfers.eraseIdx s.cur.sub }
              ∧ (u.ctxAt x.pkt.src.tile c).hold = .none
              ∧ (u.ctxAt x.pkt.src.tile c).answer = some ⟨x.id, if x.lost then cPeerlost else cTimeout, 0, []⟩))
    ∧ (f.unsync = none → s.flowWaits q.pkt = false →
        let e := f.entry (q.gen == 1) q.pkt.src.chip
        (q.pkt.dst.chip ≠ s.chip ∨ bit e 31 = false → ∃ u, exec (.fabricPacketArrival q) s = .next u
            ∧ u = { s with fabric := { f with discarded := f.discarded + 1 } })
        ∧ (q.pkt.dst.chip = s.chip → q.pkt.src.chip ≠ s.chip → s.mayArrive q.pkt = true → bit e 31 = true →
            f.retired = false ∨ (q.gen == 1) = f.gencur →
            let next := aget f.seqs 0 (seqKey q.pkt)
            let dropped : Prop := ∃ u, exec (.fabricPacketArrival q) s = .next u ∧ u.net = s.net
              ∧ aget? u.fabric.seqs (seqKey q.pkt) = some (q.seq + 1)
              ∧ (s.destPart q.pkt = none → u.assay.hltail = s.assay.hltail + 1)
            let posts (b : Body) : Prop := ∃ u, exec (.fabricPacketArrival q) s = .next u
              ∧ aget? u.fabric.seqs (seqKey q.pkt) = some (q.seq + 1)
              ∧ u.net = s.net ++ [{ q.pkt with
                due := s.cycle + latency fabricTile q.pkt.dst.tile q.pkt.len, body := b, held := false, op := none, last := none }]
            (q.seq < next → exec (.fabricPacketArrival q) s = .next s)
            ∧ (next ≤ q.seq → (∀ x1 x2 x3 x4 cap, q.pkt.body = .msg c x1 x2 x3 x4 cap →
                  (q.stamp + 2 ≤ s.window ∨ bit e 29 = false ∨ s.destPart q.pkt = none → dropped)
                  ∧ (s.window < q.stamp + 2 → bit e 29 = true → s.destPart q.pkt ≠ none →
                    posts (.msg c x1 x2 x3 x4 cap)))
              ∧ (∀ a m own, q.pkt.body = .inc a m own → s.window < q.stamp + 2 → bit e 29 = true → s.destPart q.pkt ≠ none →
                  posts (.inc a m false))
              ∧ (∀ k off len, q.pkt.body = .access k off none len id → s.window < q.stamp + 2 → s.destPart q.pkt ≠ none →
                  ∀ va, s.checkCap [] false (some k) .read off len = .ok va → 1 < va / 2 ^ 52 → 0 < len → va % 64 + len ≤ 64 →
                  Clean s → (s.net.any fun m => s.waitsHome m && sameStream m q.pkt) = false → ∃ u m, exec (.fabricPacketArrival q) s = .next u ∧ SameMemory s u
                    ∧ u.fabric.out = f.out ++ [m] ∧ m.dst = q.pkt.src ∧ m.body = .answer id cOk 0 (s.bytes va len)))))
    ∧ (s.flipDue = true → ∃ u, exec .routingFlip s = .next u ∧ u.fabric.gencur = !f.gencur ∧ u.fabric.flipped = true)
    ∧ (s.flipDue = false → exec .routingFlip s = .next s)
    ∧ (f.flipped = true → f.flipwin + 2 ≤ s.window → ∃ u, exec .routingRetire s = .next u ∧ u.fabric = { f with retired := true })
    ∧ (port < 17 → f.portsUp.getLsbD port = true → ∃ u, exec (.portDown port) s = .next u
        ∧ u.fabric.portsUp.getLsbD port = false ∧ ∀ j, j ≠ port → u.fabric.portsUp.getLsbD j = f.portsUp.getLsbD j)
    ∧ (port < 17 → ∃ u, exec (.portUp port) s = .next u ∧ u.fabric.portsUp.getLsbD port = true
        ∧ ∀ j, j ≠ port → u.fabric.portsUp.getLsbD j = f.portsUp.getLsbD j)
    ∧ (port < 17 → ∃ u, exec (.linkCrcError port vfs) s = .next u ∧ u.fabric = f ∧ u.assay.hltail = s.assay.hltail + 1)
    ∧ (s.boundaryDue = true → ∃ u, exec .tokenRedistribute s = .next u ∧ u.fabric.pooledAt = f.pooledAt + 1
        ∧ u.fabric.out = f.out ∧ u.fabric.transfers = f.transfers ∧ SameMemory s u)
    ∧ (s.boundaryDue = false → exec .tokenRedistribute s = .next s)
    ∧ (∃ u, exec .chipUnsynchronized s = .next u ∧ u.fabric.transfers = [] ∧ u.fabric.unsync = some (s.window + 2))
    ∧ (f.unsync = some n → (n ≤ s.window → ∃ u, exec .chipResynchronized s = .next u ∧ u.fabric = { f with unsync := none })
        ∧ (s.window < n → exec .chipResynchronized s = .next s))
    ∧ (aget? (s.tile s.cur.tile).loc.rings s.cur.sub = some g → ∃ u g', exec .copyDeliveryTimeout s = .next u
        ∧ aget? (u.tile s.cur.tile).loc.rings s.cur.sub = some g' ∧ g'.deliveries.length = g.deliveries.length
        ∧ ∀ (j : Nat) (d : Delivery), g.deliveries[j]? = some d → g'.deliveries[j]? = some (
            if d.granted ∧ d.done = none ∧ d.src.chip ≠ s.chip ∧ d.lastWindow + 3 ≤ s.window then
              { d with done := some (s.lostCode d.src.chip, 0, d.got) } else d))

/-- Reduction slots (R410 to R419): an open takes the lowest slot that its partition may take, or is refused; a contribution is
folded in, the last one completes the slot and every contributor gets the record; a close frees a slot that is DONE; at its
deadline a slot completes with TIMEOUT, and 256 windows after its completion it is free.
The model's choices: log 54 and log 59. -/
def Obligations.CollectiveSlots : Prop :=
  ∀ (s : State) (p : Packet) (op fmt count dl i k : Nat) (ret : LandAt) (h v : Word) (dest : RecordDest) (vf : Nat) (r : RedSlot),
    let j := s.cur.sub
    let mayTake (i : Nat) : Prop := (s.redSlot i).state = .free ∧ (i / 4 = p.part ∨ s.liveNumber (i / 4) = false)
    let idle : Prop := ∀ i < 64, ((s.redSlot i).state = .opened → s.window < (s.redSlot i).deadline)
      ∧ ((s.redSlot i).state = .done → s.window < (s.redSlot i).doneWindow + 256)
    (s.incoming = some p → p.body = .collOpen op fmt count dl ret → ret.place.chip = s.chip → idle →
      (i < 64 → mayTake i → (∀ k < i, ¬mayTake k) → ∃ u m, exec .collopenRequest s = .next u
        ∧ (u.redSlot i).state = .opened ∧ (u.redSlot i).part = p.part ∧ (u.redSlot i).op = op ∧ (u.redSlot i).fmt = fmt
        ∧ (u.redSlot i).count = count ∧ (u.redSlot i).deadline = s.window + dl ∧ (u.redSlot i).present = 0
        ∧ (u.redSlot i).handle.toNat % 2 ^ 48 = (i + s.chip * 2 ^ 12 + count * 2 ^ 33 + fmt * 2 ^ 40 + op * 2 ^ 44) % 2 ^ 48
        ∧ u.net = s.net.eraseIdx s.cur.sub ++ [m] ∧ m.dst = ret.place
        ∧ m.body = .land ret.reg [(u.redSlot i).handle, word cOk])
      ∧ ((∀ k < 64, ¬mayTake k) → ∃ u m, exec .collopenRequest s = .next u ∧ u.fabric = s.fabric
          ∧ u.net = s.net.eraseIdx s.cur.sub ++ [m] ∧ m.dst = ret.place
          ∧ m.body = .land ret.reg [0, word (cRefused + 3 * 2 ^ 8)]))
    ∧ (s.incoming = some p → p.body = .contrib h i v dest vf → k = handleSlot h.toNat → r = s.redSlot k → r.handle = h →
        (r.state = .opened → s.window < r.deadline → i < r.count →
          (bit r.present i = false → let r' := r.fold i v dest p.src
            r'.present = r.present ||| 2 ^ i
            ∧ (maskCount r'.present ≠ r.count → ∃ u, exec .contributionArrival s = .next u ∧ u.redSlot k = r'
              ∧ u.net = s.net.eraseIdx s.cur.sub)
            ∧ (maskCount r'.present = r.count → r.closing = false → ∃ u, exec .contributionArrival s = .next u
                ∧ (u.redSlot k).state = .done ∧ (u.redSlot k).doneWindow = s.window
                ∧ (u.redSlot k).record = some (r'.value 0, collStatus r'.doneCode 0 r.count r'.nanidx, word r'.present)))
          ∧ (bit r.present i = true → ∃ u, exec .contributionArrival s = .next u ∧ u.redSlot k = r
              ∧ u.net = s.net.eraseIdx s.cur.sub))
        ∧ (∀ x st m, r.state = .done → r.record = some (x, st, m) → s.window < r.doneWindow + 256 → (∀ l, dest = .land l → l.place.chip = s.chip →
            ∃ u q, exec .contributionArrival s = .next u ∧ u.redSlot k = r ∧ u.net = s.net.eraseIdx s.cur.sub ++ [q]
              ∧ q.dst = l.place
              ∧ q.body = .collRecord dest x (collStatus cLate 0 (maskCount m.toNat) r.nanidx) m h i)))
    ∧ (s.incoming = some p → p.body = .collClose h → k = handleSlot h.toNat → r = s.redSlot k → r.handle = h →
        r.part = p.part → risesFrom none s.fabric.slots = true →
        (r.state = .done → s.window < r.doneWindow + 256 → ∃ u, exec .collcloseArrival s = .next u ∧ u.redSlot k = .zero)
        ∧ (r.state = .opened → s.window < r.deadline → ∃ u, exec .collcloseArrival s = .next u
            ∧ u.redSlot k = { r with closing := true }))
    ∧ (r = s.redSlot j → r.state = .opened →
        (s.window < r.deadline → exec .slotDeadline s = .next s)
        ∧ (r.deadline ≤ s.window → r.closing = false → ∃ u, exec .slotDeadline s = .next u ∧ (u.redSlot j).state = .done
            ∧ (u.redSlot j).doneWindow = r.deadline
            ∧ (u.redSlot j).record.map (fun q => q.2.1) = some (collStatus cTimeout 0 (maskCount r.present) r.nanidx)))
    ∧ (r = s.redSlot j → r.state = .done → risesFrom none s.fabric.slots = true →
        (r.doneWindow + 256 ≤ s.window → ∃ u, exec .slotExpire s = .next u ∧ u.redSlot j = .zero)
        ∧ (s.window < r.doneWindow + 256 → exec .slotExpire s = .next s))
end

