-- ==== Sys2Proof/Laws/Assoc.lean ====
section
/-!
SUPPORT. Laws of the maps and of the memory built on them: read after write, writes to other keys, and that every memory
operation keeps the canonical form.
-/

namespace Sys2Proof.Machine

variable {β : Type}

/-! ## Maps -/

@[simp] theorem aget?_nil (a : Nat) : aget? ([] : Assoc β) a = none := rfl

theorem aget?_cons (k : Nat) (v : β) (m : Assoc β) (a : Nat) :
    aget? ((k, v) :: m) a = if a = k then some v else aget? m a := rfl

@[simp] theorem aget?_aset_self (m : Assoc β) (a : Nat) (b : β) : aget? (aset m a b) a = some b := by
  induction m with
  | nil => simp [aset, aget?]
  | cons p m ih =>
    obtain ⟨k, v⟩ := p
    simp only [aset]
    split
    · simp [aget?]
    · split
      · simp [aget?]
      · simp only [aget?]
        split
        · omega
        · exact ih

theorem aget?_aset_ne (m : Assoc β) {a c : Nat} (b : β) (h : c ≠ a) : aget? (aset m a b) c = aget? m c := by
  induction m with
  | nil => simp [aset, aget?, h]
  | cons p m ih =>
    obtain ⟨k, v⟩ := p
    simp only [aset]
    split
    · simp [aget?, h]
    · split
      · subst_vars; simp [aget?, h]
      · simp only [aget?, ih]

@[simp] theorem aget_aset_self (m : Assoc β) (d : β) (a : Nat) (b : β) : aget (aset m a b) d a = b := by simp [aget]

theorem aget_aset_ne (m : Assoc β) (d : β) {a c : Nat} (b : β) (h : c ≠ a) : aget (aset m a b) d c = aget m d c := by
  simp [aget, aget?_aset_ne m b h]

@[simp] theorem aset_aset (m : Assoc β) (a : Nat) (b c : β) : aset (aset m a b) a c = aset m a c := by
  induction m with
  | nil => simp [aset]
  | cons p m ih =>
    obtain ⟨k, v⟩ := p
    simp only [aset]
    split
    · simp [aset]
    · split
      · simp [aset]
      · rename_i h1 h2
        simp [aset, h1, h2, ih]

theorem aget?_aerase_ne (m : Assoc β) {a c : Nat} (h : c ≠ a) : aget? (aerase m a) c = aget? m c := by
  induction m with
  | nil => rfl
  | cons p m ih =>
    obtain ⟨k, v⟩ := p
    simp only [aerase]
    split
    · subst_vars; simp [aget?, h]
    · simp only [aget?, ih]

/-! ## Rising keys -/

/-- Every key lies above the bound. -/
def above (lo : Option Nat) (a : Nat) : Bool := match lo with | none => true | some l => decide (l < a)

theorem risesFrom_cons (lo : Option Nat) (k : Nat) (v : β) (m : List (Nat × β)) :
    risesFrom lo ((k, v) :: m) = (above lo k && risesFrom (some k) m) := by
  cases lo <;> simp [risesFrom, above]

theorem risesFrom_weaken {lo lo' : Option Nat} {m : List (Nat × β)} (h : risesFrom lo m = true)
    (w : ∀ a, above lo a = true → above lo' a = true) : risesFrom lo' m = true := by
  cases m with
  | nil => cases lo' <;> rfl
  | cons p m =>
    obtain ⟨k, v⟩ := p
    rw [risesFrom_cons, Bool.and_eq_true] at h ⊢
    exact ⟨w k h.1, h.2⟩

theorem aget?_of_rises {l : Nat} {m : Assoc β} (h : risesFrom (some l) m = true) {a : Nat} (ha : a ≤ l) :
    aget? m a = none := by
  induction m generalizing l with
  | nil => rfl
  | cons p m ih =>
    obtain ⟨k, v⟩ := p
    rw [risesFrom_cons, Bool.and_eq_true] at h
    simp only [above, decide_eq_true_eq] at h
    have : a ≠ k := by omega
    simp [aget?, this, ih h.2 (by omega)]

theorem risesFrom_aset {lo : Option Nat} {m : Assoc β} (h : risesFrom lo m = true) {a : Nat} (b : β)
    (ha : above lo a = true) : risesFrom lo (aset m a b) = true := by
  induction m generalizing lo with
  | nil => simp [aset, risesFrom_cons, ha, risesFrom]
  | cons p m ih =>
    obtain ⟨k, v⟩ := p
    rw [risesFrom_cons, Bool.and_eq_true] at h
    simp only [aset]
    split
    · rename_i hk
      rw [risesFrom_cons, risesFrom_cons, ha, h.2]
      simpa [above] using hk
    · split
      · subst_vars; simp [risesFrom_cons, ha, h.2]
      · rw [risesFrom_cons, Bool.and_eq_true]
        exact ⟨h.1, ih h.2 (by simp [above]; omega)⟩

theorem risesFrom_aerase {lo : Option Nat} {m : Assoc β} (h : risesFrom lo m = true) (a : Nat) :
    risesFrom lo (aerase m a) = true := by
  induction m generalizing lo with
  | nil => exact h
  | cons p m ih =>
    obtain ⟨k, v⟩ := p
    rw [risesFrom_cons, Bool.and_eq_true] at h
    simp only [aerase]
    split
    · exact risesFrom_weaken h.2 fun x hx => by
        cases lo with
        | none => rfl
        | some l => simp [above] at *; omega
    · rw [risesFrom_cons, Bool.and_eq_true]
      exact ⟨h.1, ih h.2⟩

theorem aget?_aerase_self {lo : Option Nat} {m : Assoc β} (h : risesFrom lo m = true) (a : Nat) :
    aget? (aerase m a) a = none := by
  induction m generalizing lo with
  | nil => rfl
  | cons p m ih =>
    obtain ⟨k, v⟩ := p
    rw [risesFrom_cons, Bool.and_eq_true] at h
    simp only [aerase]
    split
    · subst_vars; exact aget?_of_rises h.2 (Nat.le_refl _)
    · rename_i hk; simp [aget?, hk, ih h.2]

theorem risesFrom_filter {lo : Option Nat} {m : Assoc β} (h : risesFrom lo m = true) (f : Nat × β → Bool) :
    risesFrom lo (m.filter f) = true := by
  induction m generalizing lo with
  | nil => exact h
  | cons p m ih =>
    obtain ⟨k, v⟩ := p
    rw [risesFrom_cons, Bool.and_eq_true] at h
    by_cases hf : f (k, v) = true
    · rw [List.filter_cons_of_pos hf, risesFrom_cons, Bool.and_eq_true]
      exact ⟨h.1, ih h.2⟩
    · rw [List.filter_cons_of_neg hf]
      exact risesFrom_weaken (ih h.2) fun x hx => by
        cases lo with
        | none => rfl
        | some l => simp [above] at *; omega

/-! ## Memory: the canonical form is kept -/

theorem mem_aset {m : Assoc β} {a : Nat} {b : β} {c : Nat × β} (h : c ∈ aset m a b) : c = (a, b) ∨ c ∈ m := by
  induction m with
  | nil => simpa [aset] using h
  | cons p m ih =>
    obtain ⟨k, v⟩ := p
    simp only [aset] at h
    split at h
    · simpa using h
    · split at h
      · simp at h; rcases h with h | h <;> simp [h]
      · simp at h
        rcases h with h | h
        · simp [h]
        · rcases ih h with h | h <;> simp [h]

theorem aget?_mem {m : Assoc β} {a : Nat} {v : β} (h : aget? m a = some v) : (a, v) ∈ m := by
  induction m with
  | nil => simp at h
  | cons p m ih =>
    obtain ⟨k, w⟩ := p
    rw [aget?_cons] at h
    split at h
    · rename_i hk
      injection h with h
      subst hk; subst h
      exact List.mem_cons_self ..
    · exact List.mem_cons_of_mem _ (ih h)

theorem mem_or_aget? {m : Assoc β} {a : Nat} {b : β} {c : Nat × β} (h : c ∈ m) :
    c ∈ aset m a b ∨ ∃ v, c = (a, v) ∧ aget? m a = some v := by
  induction m with
  | nil => cases h
  | cons p m ih =>
    obtain ⟨k, w⟩ := p
    unfold aset
    split
    · exact .inl (List.mem_cons_of_mem _ h)
    · split
      · rename_i hk
        cases h with
        | head => exact .inr ⟨w, by rw [hk], by rw [aget?_cons, if_pos hk]⟩
        | tail _ h => exact .inl (List.mem_cons_of_mem _ h)
      · rename_i hk
        cases h with
        | head => exact .inl (List.mem_cons_self ..)
        | tail _ h =>
          rcases ih h with h | ⟨v, h1, h2⟩
          · exact .inl (List.mem_cons_of_mem _ h)
          · exact .inr ⟨v, h1, by rw [aget?_cons, if_neg hk]; exact h2⟩

/-- A property that a changed entry has if and only if the old one had it holds of all entries as before. -/
theorem aset_all {m : Assoc β} {d : β} {a : Nat} {b : β} {P : Nat × β → Prop} (hd : P (a, d))
    (hb : P (a, b) ↔ P (a, aget m d a)) : (∀ c ∈ aset m a b, P c) ↔ ∀ c ∈ m, P c := by
  constructor
  · intro h c hc
    rcases mem_or_aget? (a := a) (b := b) hc with hc | ⟨v, rfl, hv⟩
    · exact h c hc
    · have hx : (a, b) ∈ aset m a b := aget?_mem (aget?_aset_self m a b)
      have := hb.mp (h _ hx)
      simpa [aget, hv] using this
  · intro h c hc
    rcases mem_aset hc with rfl | hc
    · rw [hb, aget]
      cases hv : aget? m a with
      | none => exact hd
      | some v => exact h _ (aget?_mem hv)
    · exact h c hc

theorem mem_aerase {m : Assoc β} {a : Nat} {c : Nat × β} (h : c ∈ aerase m a) : c ∈ m := by
  induction m with
  | nil => exact h
  | cons p m ih =>
    obtain ⟨k, v⟩ := p
    simp only [aerase] at h
    split at h
    · simp [h]
    · simp at h
      rcases h with h | h
      · simp [h]
      · simp [ih h]

/-- The canonical form in two parts. -/
theorem memory_wf_iff (m : Memory) :
    Memory.wf m = true ↔ risesFrom none m = true ∧ ∀ c ∈ m, unlisted c.1 ≠ some c.2 := by
  simp [Memory.wf, List.all_eq_true]

theorem memory_wf_nil : Memory.wf [] = true := rfl

/-- A write of one byte keeps the canonical form. -/
theorem memSet_wf {m : Memory} (h : Memory.wf m = true) (a : Nat) (b : Byte) : Memory.wf (memSet m a b) = true := by
  rw [memory_wf_iff] at h ⊢
  unfold memSet
  split
  · exact ⟨risesFrom_aerase h.1 a, fun c hc => h.2 c (mem_aerase hc)⟩
  · rename_i hu
    refine ⟨risesFrom_aset h.1 b rfl, fun c hc => ?_⟩
    rcases mem_aset hc with rfl | hc
    · exact hu
    · exact h.2 c hc

/-- A write of several bytes keeps the canonical form. -/
theorem memSetBytes_wf {m : Memory} (h : Memory.wf m = true) (a : Nat) (bs : List Byte) :
    Memory.wf (memSetBytes m a bs) = true := by
  induction bs generalizing m a with
  | nil => exact h
  | cons b bs ih => exact ih (memSet_wf h a b) (a + 1)

/-- Forgetting some bytes keeps the canonical form. -/
theorem memory_filter_wf {m : Memory} (h : Memory.wf m = true) (f : Host.Cell → Bool) : Memory.wf (m.filter f) = true := by
  rw [memory_wf_iff] at h ⊢
  exact ⟨risesFrom_filter h.1 f, fun c hc => h.2 c (List.mem_filter.mp hc).1⟩

/-! ## Memory: read after write -/

/-- A byte written is the byte read. -/
theorem memGet?_memSet_self {m : Memory} (h : Memory.wf m = true) (a : Nat) (b : Byte) :
    memGet? (memSet m a b) a = some b := by
  rw [memory_wf_iff] at h
  unfold memSet memGet?
  split
  · rename_i hu; simp [aget?_aerase_self h.1, hu]
  · simp

/-- A write leaves every other byte alone. -/
theorem memGet?_memSet_ne (m : Memory) {a c : Nat} (b : Byte) (h : c ≠ a) : memGet? (memSet m a b) c = memGet? m c := by
  unfold memSet memGet?
  split
  · rw [aget?_aerase_ne m h]
  · rw [aget?_aset_ne m b h]

/-- A run of bytes leaves every byte outside it alone. -/
theorem memGet?_memSetBytes_outside (m : Memory) (a : Nat) (bs : List Byte) {c : Nat} (h : c < a ∨ a + bs.length ≤ c) :
    memGet? (memSetBytes m a bs) c = memGet? m c := by
  induction bs generalizing m a with
  | nil => rfl
  | cons b bs ih =>
    simp only [List.length_cons] at h
    rw [memSetBytes, ih (memSet m a b) (a + 1) (by omega), memGet?_memSet_ne m b (by omega)]

/-- A run of bytes is read back. -/
theorem memGet?_memSetBytes_inside {m : Memory} (h : Memory.wf m = true) (a : Nat) (bs : List Byte) {i : Nat}
    (hi : i < bs.length) : memGet? (memSetBytes m a bs) (a + i) = some bs[i] := by
  induction bs generalizing m a i with
  | nil => simp at hi
  | cons b bs ih =>
    rw [memSetBytes]
    cases i with
    | zero =>
      rw [memGet?_memSetBytes_outside _ _ _ (by omega)]
      exact memGet?_memSet_self h a b
    | succ i =>
      have := ih (memSet_wf h a b) (a + 1) (i := i) (by simpa using hi)
      rw [show a + (i + 1) = a + 1 + i by omega, this]
      rfl

end Sys2Proof.Machine
end

