-- ==== Sys2Proof/Laws/State.lean ====
section
/-!
SUPPORT. Laws of the updates of a state: for every update the fields that it leaves alone, and what it writes.
-/

namespace Sys2Proof.Machine

/-! ## Fields that an update leaves alone -/

@[simp] theorem State.setTile_cycle (s : State) (t : Nat) (v : Tile) : (s.setTile t v).cycle = s.cycle := rfl
@[simp] theorem State.setTile_chip (s : State) (t : Nat) (v : Tile) : (s.setTile t v).chip = s.chip := rfl
@[simp] theorem State.setTile_mem (s : State) (t : Nat) (v : Tile) : (s.setTile t v).mem = s.mem := rfl
@[simp] theorem State.setTile_ecc (s : State) (t : Nat) (v : Tile) : (s.setTile t v).ecc = s.ecc := rfl
@[simp] theorem State.setTile_poison (s : State) (t : Nat) (v : Tile) : (s.setTile t v).poison = s.poison := rfl
@[simp] theorem State.setTile_cts (s : State) (t : Nat) (v : Tile) : (s.setTile t v).cts = s.cts := rfl
@[simp] theorem State.setTile_l2 (s : State) (t : Nat) (v : Tile) : (s.setTile t v).l2 = s.l2 := rfl
@[simp] theorem State.setTile_parts (s : State) (t : Nat) (v : Tile) : (s.setTile t v).parts = s.parts := rfl
@[simp] theorem State.setTile_vfs (s : State) (t : Nat) (v : Tile) : (s.setTile t v).vfs = s.vfs := rfl
@[simp] theorem State.setTile_net (s : State) (t : Nat) (v : Tile) : (s.setTile t v).net = s.net := rfl
@[simp] theorem State.setTile_probes (s : State) (t : Nat) (v : Tile) : (s.setTile t v).probes = s.probes := rfl
@[simp] theorem State.setTile_nextProbe (s : State) (t : Nat) (v : Tile) : (s.setTile t v).nextProbe = s.nextProbe := rfl
@[simp] theorem State.setTile_fabric (s : State) (t : Nat) (v : Tile) : (s.setTile t v).fabric = s.fabric := rfl
@[simp] theorem State.setTile_assay (s : State) (t : Nat) (v : Tile) : (s.setTile t v).assay = s.assay := rfl
@[simp] theorem State.setTile_flushes (s : State) (t : Nat) (v : Tile) : (s.setTile t v).flushes = s.flushes := rfl
@[simp] theorem State.setTile_agenda (s : State) (t : Nat) (v : Tile) : (s.setTile t v).agenda = s.agenda := rfl
@[simp] theorem State.setTile_cur (s : State) (t : Nat) (v : Tile) : (s.setTile t v).cur = s.cur := rfl
@[simp] theorem State.setTile_free (s : State) (t : Nat) (v : Tile) : (s.setTile t v).free = s.free := rfl
@[simp] theorem State.setTile_keyGen (s : State) (t : Nat) (v : Tile) : (s.setTile t v).keyGen = s.keyGen := rfl

@[simp] theorem State.onTile_cycle (s : State) (t : Nat) (f : Tile → Tile) : (s.onTile t f).cycle = s.cycle := rfl
@[simp] theorem State.onTile_chip (s : State) (t : Nat) (f : Tile → Tile) : (s.onTile t f).chip = s.chip := rfl
@[simp] theorem State.onTile_mem (s : State) (t : Nat) (f : Tile → Tile) : (s.onTile t f).mem = s.mem := rfl
@[simp] theorem State.onTile_ecc (s : State) (t : Nat) (f : Tile → Tile) : (s.onTile t f).ecc = s.ecc := rfl
@[simp] theorem State.onTile_poison (s : State) (t : Nat) (f : Tile → Tile) : (s.onTile t f).poison = s.poison := rfl
@[simp] theorem State.onTile_cts (s : State) (t : Nat) (f : Tile → Tile) : (s.onTile t f).cts = s.cts := rfl
@[simp] theorem State.onTile_l2 (s : State) (t : Nat) (f : Tile → Tile) : (s.onTile t f).l2 = s.l2 := rfl
@[simp] theorem State.onTile_parts (s : State) (t : Nat) (f : Tile → Tile) : (s.onTile t f).parts = s.parts := rfl
@[simp] theorem State.onTile_vfs (s : State) (t : Nat) (f : Tile → Tile) : (s.onTile t f).vfs = s.vfs := rfl
@[simp] theorem State.onTile_net (s : State) (t : Nat) (f : Tile → Tile) : (s.onTile t f).net = s.net := rfl
@[simp] theorem State.onTile_probes (s : State) (t : Nat) (f : Tile → Tile) : (s.onTile t f).probes = s.probes := rfl
@[simp] theorem State.onTile_nextProbe (s : State) (t : Nat) (f : Tile → Tile) : (s.onTile t f).nextProbe = s.nextProbe := rfl
@[simp] theorem State.onTile_fabric (s : State) (t : Nat) (f : Tile → Tile) : (s.onTile t f).fabric = s.fabric := rfl
@[simp] theorem State.onTile_assay (s : State) (t : Nat) (f : Tile → Tile) : (s.onTile t f).assay = s.assay := rfl
@[simp] theorem State.onTile_flushes (s : State) (t : Nat) (f : Tile → Tile) : (s.onTile t f).flushes = s.flushes := rfl
@[simp] theorem State.onTile_agenda (s : State) (t : Nat) (f : Tile → Tile) : (s.onTile t f).agenda = s.agenda := rfl
@[simp] theorem State.onTile_cur (s : State) (t : Nat) (f : Tile → Tile) : (s.onTile t f).cur = s.cur := rfl
@[simp] theorem State.onTile_free (s : State) (t : Nat) (f : Tile → Tile) : (s.onTile t f).free = s.free := rfl
@[simp] theorem State.onTile_keyGen (s : State) (t : Nat) (f : Tile → Tile) : (s.onTile t f).keyGen = s.keyGen := rfl

@[simp] theorem State.onLocal_cycle (s : State) (t : Nat) (f : Local → Local) : (s.onLocal t f).cycle = s.cycle := rfl
@[simp] theorem State.onLocal_chip (s : State) (t : Nat) (f : Local → Local) : (s.onLocal t f).chip = s.chip := rfl
@[simp] theorem State.onLocal_mem (s : State) (t : Nat) (f : Local → Local) : (s.onLocal t f).mem = s.mem := rfl
@[simp] theorem State.onLocal_ecc (s : State) (t : Nat) (f : Local → Local) : (s.onLocal t f).ecc = s.ecc := rfl
@[simp] theorem State.onLocal_poison (s : State) (t : Nat) (f : Local → Local) : (s.onLocal t f).poison = s.poison := rfl
@[simp] theorem State.onLocal_cts (s : State) (t : Nat) (f : Local → Local) : (s.onLocal t f).cts = s.cts := rfl
@[simp] theorem State.onLocal_l2 (s : State) (t : Nat) (f : Local → Local) : (s.onLocal t f).l2 = s.l2 := rfl
@[simp] theorem State.onLocal_parts (s : State) (t : Nat) (f : Local → Local) : (s.onLocal t f).parts = s.parts := rfl
@[simp] theorem State.onLocal_vfs (s : State) (t : Nat) (f : Local → Local) : (s.onLocal t f).vfs = s.vfs := rfl
@[simp] theorem State.onLocal_net (s : State) (t : Nat) (f : Local → Local) : (s.onLocal t f).net = s.net := rfl
@[simp] theorem State.onLocal_probes (s : State) (t : Nat) (f : Local → Local) : (s.onLocal t f).probes = s.probes := rfl
@[simp] theorem State.onLocal_nextProbe (s : State) (t : Nat) (f : Local → Local) : (s.onLocal t f).nextProbe = s.nextProbe := rfl
@[simp] theorem State.onLocal_fabric (s : State) (t : Nat) (f : Local → Local) : (s.onLocal t f).fabric = s.fabric := rfl
@[simp] theorem State.onLocal_assay (s : State) (t : Nat) (f : Local → Local) : (s.onLocal t f).assay = s.assay := rfl
@[simp] theorem State.onLocal_flushes (s : State) (t : Nat) (f : Local → Local) : (s.onLocal t f).flushes = s.flushes := rfl
@[simp] theorem State.onLocal_agenda (s : State) (t : Nat) (f : Local → Local) : (s.onLocal t f).agenda = s.agenda := rfl
@[simp] theorem State.onLocal_cur (s : State) (t : Nat) (f : Local → Local) : (s.onLocal t f).cur = s.cur := rfl
@[simp] theorem State.onLocal_free (s : State) (t : Nat) (f : Local → Local) : (s.onLocal t f).free = s.free := rfl
@[simp] theorem State.onLocal_keyGen (s : State) (t : Nat) (f : Local → Local) : (s.onLocal t f).keyGen = s.keyGen := rfl

@[simp] theorem State.onCore_cycle (s : State) (t : Nat) (f : CoreSt → CoreSt) : (s.onCore t f).cycle = s.cycle := rfl
@[simp] theorem State.onCore_chip (s : State) (t : Nat) (f : CoreSt → CoreSt) : (s.onCore t f).chip = s.chip := rfl
@[simp] theorem State.onCore_mem (s : State) (t : Nat) (f : CoreSt → CoreSt) : (s.onCore t f).mem = s.mem := rfl
@[simp] theorem State.onCore_ecc (s : State) (t : Nat) (f : CoreSt → CoreSt) : (s.onCore t f).ecc = s.ecc := rfl
@[simp] theorem State.onCore_poison (s : State) (t : Nat) (f : CoreSt → CoreSt) : (s.onCore t f).poison = s.poison := rfl
@[simp] theorem State.onCore_cts (s : State) (t : Nat) (f : CoreSt → CoreSt) : (s.onCore t f).cts = s.cts := rfl
@[simp] theorem State.onCore_l2 (s : State) (t : Nat) (f : CoreSt → CoreSt) : (s.onCore t f).l2 = s.l2 := rfl
@[simp] theorem State.onCore_parts (s : State) (t : Nat) (f : CoreSt → CoreSt) : (s.onCore t f).parts = s.parts := rfl
@[simp] theorem State.onCore_vfs (s : State) (t : Nat) (f : CoreSt → CoreSt) : (s.onCore t f).vfs = s.vfs := rfl
@[simp] theorem State.onCore_net (s : State) (t : Nat) (f : CoreSt → CoreSt) : (s.onCore t f).net = s.net := rfl
@[simp] theorem State.onCore_probes (s : State) (t : Nat) (f : CoreSt → CoreSt) : (s.onCore t f).probes = s.probes := rfl
@[simp] theorem State.onCore_nextProbe (s : State) (t : Nat) (f : CoreSt → CoreSt) : (s.onCore t f).nextProbe = s.nextProbe := rfl
@[simp] theorem State.onCore_fabric (s : State) (t : Nat) (f : CoreSt → CoreSt) : (s.onCore t f).fabric = s.fabric := rfl
@[simp] theorem State.onCore_assay (s : State) (t : Nat) (f : CoreSt → CoreSt) : (s.onCore t f).assay = s.assay := rfl
@[simp] theorem State.onCore_flushes (s : State) (t : Nat) (f : CoreSt → CoreSt) : (s.onCore t f).flushes = s.flushes := rfl
@[simp] theorem State.onCore_agenda (s : State) (t : Nat) (f : CoreSt → CoreSt) : (s.onCore t f).agenda = s.agenda := rfl
@[simp] theorem State.onCore_cur (s : State) (t : Nat) (f : CoreSt → CoreSt) : (s.onCore t f).cur = s.cur := rfl
@[simp] theorem State.onCore_free (s : State) (t : Nat) (f : CoreSt → CoreSt) : (s.onCore t f).free = s.free := rfl
@[simp] theorem State.onCore_keyGen (s : State) (t : Nat) (f : CoreSt → CoreSt) : (s.onCore t f).keyGen = s.keyGen := rfl

@[simp] theorem State.onSteward_cycle (s : State) (t : Nat) (f : Steward → Steward) : (s.onSteward t f).cycle = s.cycle := rfl
@[simp] theorem State.onSteward_chip (s : State) (t : Nat) (f : Steward → Steward) : (s.onSteward t f).chip = s.chip := rfl
@[simp] theorem State.onSteward_mem (s : State) (t : Nat) (f : Steward → Steward) : (s.onSteward t f).mem = s.mem := rfl
@[simp] theorem State.onSteward_ecc (s : State) (t : Nat) (f : Steward → Steward) : (s.onSteward t f).ecc = s.ecc := rfl
@[simp] theorem State.onSteward_poison (s : State) (t : Nat) (f : Steward → Steward) : (s.onSteward t f).poison = s.poison := rfl
@[simp] theorem State.onSteward_cts (s : State) (t : Nat) (f : Steward → Steward) : (s.onSteward t f).cts = s.cts := rfl
@[simp] theorem State.onSteward_l2 (s : State) (t : Nat) (f : Steward → Steward) : (s.onSteward t f).l2 = s.l2 := rfl
@[simp] theorem State.onSteward_parts (s : State) (t : Nat) (f : Steward → Steward) : (s.onSteward t f).parts = s.parts := rfl
@[simp] theorem State.onSteward_vfs (s : State) (t : Nat) (f : Steward → Steward) : (s.onSteward t f).vfs = s.vfs := rfl
@[simp] theorem State.onSteward_net (s : State) (t : Nat) (f : Steward → Steward) : (s.onSteward t f).net = s.net := rfl
@[simp] theorem State.onSteward_probes (s : State) (t : Nat) (f : Steward → Steward) : (s.onSteward t f).probes = s.probes := rfl
@[simp] theorem State.onSteward_nextProbe (s : State) (t : Nat) (f : Steward → Steward) : (s.onSteward t f).nextProbe = s.nextProbe := rfl
@[simp] theorem State.onSteward_fabric (s : State) (t : Nat) (f : Steward → Steward) : (s.onSteward t f).fabric = s.fabric := rfl
@[simp] theorem State.onSteward_assay (s : State) (t : Nat) (f : Steward → Steward) : (s.onSteward t f).assay = s.assay := rfl
@[simp] theorem State.onSteward_flushes (s : State) (t : Nat) (f : Steward → Steward) : (s.onSteward t f).flushes = s.flushes := rfl
@[simp] theorem State.onSteward_agenda (s : State) (t : Nat) (f : Steward → Steward) : (s.onSteward t f).agenda = s.agenda := rfl
@[simp] theorem State.onSteward_cur (s : State) (t : Nat) (f : Steward → Steward) : (s.onSteward t f).cur = s.cur := rfl
@[simp] theorem State.onSteward_free (s : State) (t : Nat) (f : Steward → Steward) : (s.onSteward t f).free = s.free := rfl
@[simp] theorem State.onSteward_keyGen (s : State) (t : Nat) (f : Steward → Steward) : (s.onSteward t f).keyGen = s.keyGen := rfl

@[simp] theorem State.setCtxAt_cycle (s : State) (t c : Nat) (v : Context) : (s.setCtxAt t c v).cycle = s.cycle := rfl
@[simp] theorem State.setCtxAt_chip (s : State) (t c : Nat) (v : Context) : (s.setCtxAt t c v).chip = s.chip := rfl
@[simp] theorem State.setCtxAt_mem (s : State) (t c : Nat) (v : Context) : (s.setCtxAt t c v).mem = s.mem := rfl
@[simp] theorem State.setCtxAt_ecc (s : State) (t c : Nat) (v : Context) : (s.setCtxAt t c v).ecc = s.ecc := rfl
@[simp] theorem State.setCtxAt_poison (s : State) (t c : Nat) (v : Context) : (s.setCtxAt t c v).poison = s.poison := rfl
@[simp] theorem State.setCtxAt_cts (s : State) (t c : Nat) (v : Context) : (s.setCtxAt t c v).cts = s.cts := rfl
@[simp] theorem State.setCtxAt_l2 (s : State) (t c : Nat) (v : Context) : (s.setCtxAt t c v).l2 = s.l2 := rfl
@[simp] theorem State.setCtxAt_parts (s : State) (t c : Nat) (v : Context) : (s.setCtxAt t c v).parts = s.parts := rfl
@[simp] theorem State.setCtxAt_vfs (s : State) (t c : Nat) (v : Context) : (s.setCtxAt t c v).vfs = s.vfs := rfl
@[simp] theorem State.setCtxAt_net (s : State) (t c : Nat) (v : Context) : (s.setCtxAt t c v).net = s.net := rfl
@[simp] theorem State.setCtxAt_probes (s : State) (t c : Nat) (v : Context) : (s.setCtxAt t c v).probes = s.probes := rfl
@[simp] theorem State.setCtxAt_nextProbe (s : State) (t c : Nat) (v : Context) : (s.setCtxAt t c v).nextProbe = s.nextProbe := rfl
@[simp] theorem State.setCtxAt_fabric (s : State) (t c : Nat) (v : Context) : (s.setCtxAt t c v).fabric = s.fabric := rfl
@[simp] theorem State.setCtxAt_assay (s : State) (t c : Nat) (v : Context) : (s.setCtxAt t c v).assay = s.assay := rfl
@[simp] theorem State.setCtxAt_flushes (s : State) (t c : Nat) (v : Context) : (s.setCtxAt t c v).flushes = s.flushes := rfl
@[simp] theorem State.setCtxAt_agenda (s : State) (t c : Nat) (v : Context) : (s.setCtxAt t c v).agenda = s.agenda := rfl
@[simp] theorem State.setCtxAt_cur (s : State) (t c : Nat) (v : Context) : (s.setCtxAt t c v).cur = s.cur := rfl
@[simp] theorem State.setCtxAt_free (s : State) (t c : Nat) (v : Context) : (s.setCtxAt t c v).free = s.free := rfl
@[simp] theorem State.setCtxAt_keyGen (s : State) (t c : Nat) (v : Context) : (s.setCtxAt t c v).keyGen = s.keyGen := rfl

@[simp] theorem State.onCtxAt_cycle (s : State) (t c : Nat) (f : Context → Context) : (s.onCtxAt t c f).cycle = s.cycle := rfl
@[simp] theorem State.onCtxAt_chip (s : State) (t c : Nat) (f : Context → Context) : (s.onCtxAt t c f).chip = s.chip := rfl
@[simp] theorem State.onCtxAt_mem (s : State) (t c : Nat) (f : Context → Context) : (s.onCtxAt t c f).mem = s.mem := rfl
@[simp] theorem State.onCtxAt_ecc (s : State) (t c : Nat) (f : Context → Context) : (s.onCtxAt t c f).ecc = s.ecc := rfl
@[simp] theorem State.onCtxAt_poison (s : State) (t c : Nat) (f : Context → Context) : (s.onCtxAt t c f).poison = s.poison := rfl
@[simp] theorem State.onCtxAt_cts (s : State) (t c : Nat) (f : Context → Context) : (s.onCtxAt t c f).cts = s.cts := rfl
@[simp] theorem State.onCtxAt_l2 (s : State) (t c : Nat) (f : Context → Context) : (s.onCtxAt t c f).l2 = s.l2 := rfl
@[simp] theorem State.onCtxAt_parts (s : State) (t c : Nat) (f : Context → Context) : (s.onCtxAt t c f).parts = s.parts := rfl
@[simp] theorem State.onCtxAt_vfs (s : State) (t c : Nat) (f : Context → Context) : (s.onCtxAt t c f).vfs = s.vfs := rfl
@[simp] theorem State.onCtxAt_net (s : State) (t c : Nat) (f : Context → Context) : (s.onCtxAt t c f).net = s.net := rfl
@[simp] theorem State.onCtxAt_probes (s : State) (t c : Nat) (f : Context → Context) : (s.onCtxAt t c f).probes = s.probes := rfl
@[simp] theorem State.onCtxAt_nextProbe (s : State) (t c : Nat) (f : Context → Context) : (s.onCtxAt t c f).nextProbe = s.nextProbe := rfl
@[simp] theorem State.onCtxAt_fabric (s : State) (t c : Nat) (f : Context → Context) : (s.onCtxAt t c f).fabric = s.fabric := rfl
@[simp] theorem State.onCtxAt_assay (s : State) (t c : Nat) (f : Context → Context) : (s.onCtxAt t c f).assay = s.assay := rfl
@[simp] theorem State.onCtxAt_flushes (s : State) (t c : Nat) (f : Context → Context) : (s.onCtxAt t c f).flushes = s.flushes := rfl
@[simp] theorem State.onCtxAt_agenda (s : State) (t c : Nat) (f : Context → Context) : (s.onCtxAt t c f).agenda = s.agenda := rfl
@[simp] theorem State.onCtxAt_cur (s : State) (t c : Nat) (f : Context → Context) : (s.onCtxAt t c f).cur = s.cur := rfl
@[simp] theorem State.onCtxAt_free (s : State) (t c : Nat) (f : Context → Context) : (s.onCtxAt t c f).free = s.free := rfl
@[simp] theorem State.onCtxAt_keyGen (s : State) (t c : Nat) (f : Context → Context) : (s.onCtxAt t c f).keyGen = s.keyGen := rfl

@[simp] theorem State.onCtx_cycle (s : State) (f : Context → Context) : (s.onCtx f).cycle = s.cycle := rfl
@[simp] theorem State.onCtx_chip (s : State) (f : Context → Context) : (s.onCtx f).chip = s.chip := rfl
@[simp] theorem State.onCtx_mem (s : State) (f : Context → Context) : (s.onCtx f).mem = s.mem := rfl
@[simp] theorem State.onCtx_ecc (s : State) (f : Context → Context) : (s.onCtx f).ecc = s.ecc := rfl
@[simp] theorem State.onCtx_poison (s : State) (f : Context → Context) : (s.onCtx f).poison = s.poison := rfl
@[simp] theorem State.onCtx_cts (s : State) (f : Context → Context) : (s.onCtx f).cts = s.cts := rfl
@[simp] theorem State.onCtx_l2 (s : State) (f : Context → Context) : (s.onCtx f).l2 = s.l2 := rfl
@[simp] theorem State.onCtx_parts (s : State) (f : Context → Context) : (s.onCtx f).parts = s.parts := rfl
@[simp] theorem State.onCtx_vfs (s : State) (f : Context → Context) : (s.onCtx f).vfs = s.vfs := rfl
@[simp] theorem State.onCtx_net (s : State) (f : Context → Context) : (s.onCtx f).net = s.net := rfl
@[simp] theorem State.onCtx_probes (s : State) (f : Context → Context) : (s.onCtx f).probes = s.probes := rfl
@[simp] theorem State.onCtx_nextProbe (s : State) (f : Context → Context) : (s.onCtx f).nextProbe = s.nextProbe := rfl
@[simp] theorem State.onCtx_fabric (s : State) (f : Context → Context) : (s.onCtx f).fabric = s.fabric := rfl
@[simp] theorem State.onCtx_assay (s : State) (f : Context → Context) : (s.onCtx f).assay = s.assay := rfl
@[simp] theorem State.onCtx_flushes (s : State) (f : Context → Context) : (s.onCtx f).flushes = s.flushes := rfl
@[simp] theorem State.onCtx_agenda (s : State) (f : Context → Context) : (s.onCtx f).agenda = s.agenda := rfl
@[simp] theorem State.onCtx_cur (s : State) (f : Context → Context) : (s.onCtx f).cur = s.cur := rfl
@[simp] theorem State.onCtx_free (s : State) (f : Context → Context) : (s.onCtx f).free = s.free := rfl
@[simp] theorem State.onCtx_keyGen (s : State) (f : Context → Context) : (s.onCtx f).keyGen = s.keyGen := rfl

@[simp] theorem State.onRegs_cycle (s : State) (f : Regs → Regs) : (s.onRegs f).cycle = s.cycle := rfl
@[simp] theorem State.onRegs_chip (s : State) (f : Regs → Regs) : (s.onRegs f).chip = s.chip := rfl
@[simp] theorem State.onRegs_mem (s : State) (f : Regs → Regs) : (s.onRegs f).mem = s.mem := rfl
@[simp] theorem State.onRegs_ecc (s : State) (f : Regs → Regs) : (s.onRegs f).ecc = s.ecc := rfl
@[simp] theorem State.onRegs_poison (s : State) (f : Regs → Regs) : (s.onRegs f).poison = s.poison := rfl
@[simp] theorem State.onRegs_cts (s : State) (f : Regs → Regs) : (s.onRegs f).cts = s.cts := rfl
@[simp] theorem State.onRegs_l2 (s : State) (f : Regs → Regs) : (s.onRegs f).l2 = s.l2 := rfl
@[simp] theorem State.onRegs_parts (s : State) (f : Regs → Regs) : (s.onRegs f).parts = s.parts := rfl
@[simp] theorem State.onRegs_vfs (s : State) (f : Regs → Regs) : (s.onRegs f).vfs = s.vfs := rfl
@[simp] theorem State.onRegs_net (s : State) (f : Regs → Regs) : (s.onRegs f).net = s.net := rfl
@[simp] theorem State.onRegs_probes (s : State) (f : Regs → Regs) : (s.onRegs f).probes = s.probes := rfl
@[simp] theorem State.onRegs_nextProbe (s : State) (f : Regs → Regs) : (s.onRegs f).nextProbe = s.nextProbe := rfl
@[simp] theorem State.onRegs_fabric (s : State) (f : Regs → Regs) : (s.onRegs f).fabric = s.fabric := rfl
@[simp] theorem State.onRegs_assay (s : State) (f : Regs → Regs) : (s.onRegs f).assay = s.assay := rfl
@[simp] theorem State.onRegs_flushes (s : State) (f : Regs → Regs) : (s.onRegs f).flushes = s.flushes := rfl
@[simp] theorem State.onRegs_agenda (s : State) (f : Regs → Regs) : (s.onRegs f).agenda = s.agenda := rfl
@[simp] theorem State.onRegs_cur (s : State) (f : Regs → Regs) : (s.onRegs f).cur = s.cur := rfl
@[simp] theorem State.onRegs_free (s : State) (f : Regs → Regs) : (s.onRegs f).free = s.free := rfl
@[simp] theorem State.onRegs_keyGen (s : State) (f : Regs → Regs) : (s.onRegs f).keyGen = s.keyGen := rfl

@[simp] theorem State.onRun_cycle (s : State) (f : Run → Run) : (s.onRun f).cycle = s.cycle := rfl
@[simp] theorem State.onRun_chip (s : State) (f : Run → Run) : (s.onRun f).chip = s.chip := rfl
@[simp] theorem State.onRun_mem (s : State) (f : Run → Run) : (s.onRun f).mem = s.mem := rfl
@[simp] theorem State.onRun_ecc (s : State) (f : Run → Run) : (s.onRun f).ecc = s.ecc := rfl
@[simp] theorem State.onRun_poison (s : State) (f : Run → Run) : (s.onRun f).poison = s.poison := rfl
@[simp] theorem State.onRun_cts (s : State) (f : Run → Run) : (s.onRun f).cts = s.cts := rfl
@[simp] theorem State.onRun_l2 (s : State) (f : Run → Run) : (s.onRun f).l2 = s.l2 := rfl
@[simp] theorem State.onRun_parts (s : State) (f : Run → Run) : (s.onRun f).parts = s.parts := rfl
@[simp] theorem State.onRun_vfs (s : State) (f : Run → Run) : (s.onRun f).vfs = s.vfs := rfl
@[simp] theorem State.onRun_net (s : State) (f : Run → Run) : (s.onRun f).net = s.net := rfl
@[simp] theorem State.onRun_probes (s : State) (f : Run → Run) : (s.onRun f).probes = s.probes := rfl
@[simp] theorem State.onRun_nextProbe (s : State) (f : Run → Run) : (s.onRun f).nextProbe = s.nextProbe := rfl
@[simp] theorem State.onRun_fabric (s : State) (f : Run → Run) : (s.onRun f).fabric = s.fabric := rfl
@[simp] theorem State.onRun_assay (s : State) (f : Run → Run) : (s.onRun f).assay = s.assay := rfl
@[simp] theorem State.onRun_flushes (s : State) (f : Run → Run) : (s.onRun f).flushes = s.flushes := rfl
@[simp] theorem State.onRun_agenda (s : State) (f : Run → Run) : (s.onRun f).agenda = s.agenda := rfl
@[simp] theorem State.onRun_cur (s : State) (f : Run → Run) : (s.onRun f).cur = s.cur := rfl
@[simp] theorem State.onRun_free (s : State) (f : Run → Run) : (s.onRun f).free = s.free := rfl
@[simp] theorem State.onRun_keyGen (s : State) (f : Run → Run) : (s.onRun f).keyGen = s.keyGen := rfl

@[simp] theorem State.setX_cycle (s : State) (i : Reg) (v : Word) : (s.setX i v).cycle = s.cycle := rfl
@[simp] theorem State.setX_chip (s : State) (i : Reg) (v : Word) : (s.setX i v).chip = s.chip := rfl
@[simp] theorem State.setX_mem (s : State) (i : Reg) (v : Word) : (s.setX i v).mem = s.mem := rfl
@[simp] theorem State.setX_ecc (s : State) (i : Reg) (v : Word) : (s.setX i v).ecc = s.ecc := rfl
@[simp] theorem State.setX_poison (s : State) (i : Reg) (v : Word) : (s.setX i v).poison = s.poison := rfl
@[simp] theorem State.setX_cts (s : State) (i : Reg) (v : Word) : (s.setX i v).cts = s.cts := rfl
@[simp] theorem State.setX_l2 (s : State) (i : Reg) (v : Word) : (s.setX i v).l2 = s.l2 := rfl
@[simp] theorem State.setX_parts (s : State) (i : Reg) (v : Word) : (s.setX i v).parts = s.parts := rfl
@[simp] theorem State.setX_vfs (s : State) (i : Reg) (v : Word) : (s.setX i v).vfs = s.vfs := rfl
@[simp] theorem State.setX_net (s : State) (i : Reg) (v : Word) : (s.setX i v).net = s.net := rfl
@[simp] theorem State.setX_probes (s : State) (i : Reg) (v : Word) : (s.setX i v).probes = s.probes := rfl
@[simp] theorem State.setX_nextProbe (s : State) (i : Reg) (v : Word) : (s.setX i v).nextProbe = s.nextProbe := rfl
@[simp] theorem State.setX_fabric (s : State) (i : Reg) (v : Word) : (s.setX i v).fabric = s.fabric := rfl
@[simp] theorem State.setX_assay (s : State) (i : Reg) (v : Word) : (s.setX i v).assay = s.assay := rfl
@[simp] theorem State.setX_flushes (s : State) (i : Reg) (v : Word) : (s.setX i v).flushes = s.flushes := rfl
@[simp] theorem State.setX_agenda (s : State) (i : Reg) (v : Word) : (s.setX i v).agenda = s.agenda := rfl
@[simp] theorem State.setX_cur (s : State) (i : Reg) (v : Word) : (s.setX i v).cur = s.cur := rfl
@[simp] theorem State.setX_free (s : State) (i : Reg) (v : Word) : (s.setX i v).free = s.free := rfl
@[simp] theorem State.setX_keyGen (s : State) (i : Reg) (v : Word) : (s.setX i v).keyGen = s.keyGen := rfl

@[simp] theorem State.setC_cycle (s : State) (i : Nat) (v : Option Cap) : (s.setC i v).cycle = s.cycle := rfl
@[simp] theorem State.setC_chip (s : State) (i : Nat) (v : Option Cap) : (s.setC i v).chip = s.chip := rfl
@[simp] theorem State.setC_mem (s : State) (i : Nat) (v : Option Cap) : (s.setC i v).mem = s.mem := rfl
@[simp] theorem State.setC_ecc (s : State) (i : Nat) (v : Option Cap) : (s.setC i v).ecc = s.ecc := rfl
@[simp] theorem State.setC_poison (s : State) (i : Nat) (v : Option Cap) : (s.setC i v).poison = s.poison := rfl
@[simp] theorem State.setC_cts (s : State) (i : Nat) (v : Option Cap) : (s.setC i v).cts = s.cts := rfl
@[simp] theorem State.setC_l2 (s : State) (i : Nat) (v : Option Cap) : (s.setC i v).l2 = s.l2 := rfl
@[simp] theorem State.setC_parts (s : State) (i : Nat) (v : Option Cap) : (s.setC i v).parts = s.parts := rfl
@[simp] theorem State.setC_vfs (s : State) (i : Nat) (v : Option Cap) : (s.setC i v).vfs = s.vfs := rfl
@[simp] theorem State.setC_net (s : State) (i : Nat) (v : Option Cap) : (s.setC i v).net = s.net := rfl
@[simp] theorem State.setC_probes (s : State) (i : Nat) (v : Option Cap) : (s.setC i v).probes = s.probes := rfl
@[simp] theorem State.setC_nextProbe (s : State) (i : Nat) (v : Option Cap) : (s.setC i v).nextProbe = s.nextProbe := rfl
@[simp] theorem State.setC_fabric (s : State) (i : Nat) (v : Option Cap) : (s.setC i v).fabric = s.fabric := rfl
@[simp] theorem State.setC_assay (s : State) (i : Nat) (v : Option Cap) : (s.setC i v).assay = s.assay := rfl
@[simp] theorem State.setC_flushes (s : State) (i : Nat) (v : Option Cap) : (s.setC i v).flushes = s.flushes := rfl
@[simp] theorem State.setC_agenda (s : State) (i : Nat) (v : Option Cap) : (s.setC i v).agenda = s.agenda := rfl
@[simp] theorem State.setC_cur (s : State) (i : Nat) (v : Option Cap) : (s.setC i v).cur = s.cur := rfl
@[simp] theorem State.setC_free (s : State) (i : Nat) (v : Option Cap) : (s.setC i v).free = s.free := rfl
@[simp] theorem State.setC_keyGen (s : State) (i : Nat) (v : Option Cap) : (s.setC i v).keyGen = s.keyGen := rfl

@[simp] theorem State.setFlags_cycle (s : State) (f : Flags) : (s.setFlags f).cycle = s.cycle := rfl
@[simp] theorem State.setFlags_chip (s : State) (f : Flags) : (s.setFlags f).chip = s.chip := rfl
@[simp] theorem State.setFlags_mem (s : State) (f : Flags) : (s.setFlags f).mem = s.mem := rfl
@[simp] theorem State.setFlags_ecc (s : State) (f : Flags) : (s.setFlags f).ecc = s.ecc := rfl
@[simp] theorem State.setFlags_poison (s : State) (f : Flags) : (s.setFlags f).poison = s.poison := rfl
@[simp] theorem State.setFlags_cts (s : State) (f : Flags) : (s.setFlags f).cts = s.cts := rfl
@[simp] theorem State.setFlags_l2 (s : State) (f : Flags) : (s.setFlags f).l2 = s.l2 := rfl
@[simp] theorem State.setFlags_parts (s : State) (f : Flags) : (s.setFlags f).parts = s.parts := rfl
@[simp] theorem State.setFlags_vfs (s : State) (f : Flags) : (s.setFlags f).vfs = s.vfs := rfl
@[simp] theorem State.setFlags_net (s : State) (f : Flags) : (s.setFlags f).net = s.net := rfl
@[simp] theorem State.setFlags_probes (s : State) (f : Flags) : (s.setFlags f).probes = s.probes := rfl
@[simp] theorem State.setFlags_nextProbe (s : State) (f : Flags) : (s.setFlags f).nextProbe = s.nextProbe := rfl
@[simp] theorem State.setFlags_fabric (s : State) (f : Flags) : (s.setFlags f).fabric = s.fabric := rfl
@[simp] theorem State.setFlags_assay (s : State) (f : Flags) : (s.setFlags f).assay = s.assay := rfl
@[simp] theorem State.setFlags_flushes (s : State) (f : Flags) : (s.setFlags f).flushes = s.flushes := rfl
@[simp] theorem State.setFlags_agenda (s : State) (f : Flags) : (s.setFlags f).agenda = s.agenda := rfl
@[simp] theorem State.setFlags_cur (s : State) (f : Flags) : (s.setFlags f).cur = s.cur := rfl
@[simp] theorem State.setFlags_free (s : State) (f : Flags) : (s.setFlags f).free = s.free := rfl
@[simp] theorem State.setFlags_keyGen (s : State) (f : Flags) : (s.setFlags f).keyGen = s.keyGen := rfl

@[simp] theorem State.draw_cycle (s : State) (n : Nat) : (s.draw n).cycle = s.cycle := rfl
@[simp] theorem State.draw_chip (s : State) (n : Nat) : (s.draw n).chip = s.chip := rfl
@[simp] theorem State.draw_mem (s : State) (n : Nat) : (s.draw n).mem = s.mem := rfl
@[simp] theorem State.draw_ecc (s : State) (n : Nat) : (s.draw n).ecc = s.ecc := rfl
@[simp] theorem State.draw_poison (s : State) (n : Nat) : (s.draw n).poison = s.poison := rfl
@[simp] theorem State.draw_tiles (s : State) (n : Nat) : (s.draw n).tiles = s.tiles := rfl
@[simp] theorem State.draw_cts (s : State) (n : Nat) : (s.draw n).cts = s.cts := rfl
@[simp] theorem State.draw_l2 (s : State) (n : Nat) : (s.draw n).l2 = s.l2 := rfl
@[simp] theorem State.draw_parts (s : State) (n : Nat) : (s.draw n).parts = s.parts := rfl
@[simp] theorem State.draw_vfs (s : State) (n : Nat) : (s.draw n).vfs = s.vfs := rfl
@[simp] theorem State.draw_net (s : State) (n : Nat) : (s.draw n).net = s.net := rfl
@[simp] theorem State.draw_probes (s : State) (n : Nat) : (s.draw n).probes = s.probes := rfl
@[simp] theorem State.draw_nextProbe (s : State) (n : Nat) : (s.draw n).nextProbe = s.nextProbe := rfl
@[simp] theorem State.draw_fabric (s : State) (n : Nat) : (s.draw n).fabric = s.fabric := rfl
@[simp] theorem State.draw_assay (s : State) (n : Nat) : (s.draw n).assay = s.assay := rfl
@[simp] theorem State.draw_flushes (s : State) (n : Nat) : (s.draw n).flushes = s.flushes := rfl
@[simp] theorem State.draw_agenda (s : State) (n : Nat) : (s.draw n).agenda = s.agenda := rfl
@[simp] theorem State.draw_cur (s : State) (n : Nat) : (s.draw n).cur = s.cur := rfl
@[simp] theorem State.draw_keyGen (s : State) (n : Nat) : (s.draw n).keyGen = s.keyGen := rfl

@[simp] theorem State.setCt_cycle (s : State) (k : Nat) (e : CtEntry) : (s.setCt k e).cycle = s.cycle := rfl
@[simp] theorem State.setCt_chip (s : State) (k : Nat) (e : CtEntry) : (s.setCt k e).chip = s.chip := rfl
@[simp] theorem State.setCt_mem (s : State) (k : Nat) (e : CtEntry) : (s.setCt k e).mem = s.mem := rfl
@[simp] theorem State.setCt_ecc (s : State) (k : Nat) (e : CtEntry) : (s.setCt k e).ecc = s.ecc := rfl
@[simp] theorem State.setCt_poison (s : State) (k : Nat) (e : CtEntry) : (s.setCt k e).poison = s.poison := rfl
@[simp] theorem State.setCt_tiles (s : State) (k : Nat) (e : CtEntry) : (s.setCt k e).tiles = s.tiles := rfl
@[simp] theorem State.setCt_l2 (s : State) (k : Nat) (e : CtEntry) : (s.setCt k e).l2 = s.l2 := rfl
@[simp] theorem State.setCt_parts (s : State) (k : Nat) (e : CtEntry) : (s.setCt k e).parts = s.parts := rfl
@[simp] theorem State.setCt_vfs (s : State) (k : Nat) (e : CtEntry) : (s.setCt k e).vfs = s.vfs := rfl
@[simp] theorem State.setCt_net (s : State) (k : Nat) (e : CtEntry) : (s.setCt k e).net = s.net := rfl
@[simp] theorem State.setCt_probes (s : State) (k : Nat) (e : CtEntry) : (s.setCt k e).probes = s.probes := rfl
@[simp] theorem State.setCt_nextProbe (s : State) (k : Nat) (e : CtEntry) : (s.setCt k e).nextProbe = s.nextProbe := rfl
@[simp] theorem State.setCt_fabric (s : State) (k : Nat) (e : CtEntry) : (s.setCt k e).fabric = s.fabric := rfl
@[simp] theorem State.setCt_assay (s : State) (k : Nat) (e : CtEntry) : (s.setCt k e).assay = s.assay := rfl
@[simp] theorem State.setCt_flushes (s : State) (k : Nat) (e : CtEntry) : (s.setCt k e).flushes = s.flushes := rfl
@[simp] theorem State.setCt_agenda (s : State) (k : Nat) (e : CtEntry) : (s.setCt k e).agenda = s.agenda := rfl
@[simp] theorem State.setCt_cur (s : State) (k : Nat) (e : CtEntry) : (s.setCt k e).cur = s.cur := rfl
@[simp] theorem State.setCt_free (s : State) (k : Nat) (e : CtEntry) : (s.setCt k e).free = s.free := rfl
@[simp] theorem State.setCt_keyGen (s : State) (k : Nat) (e : CtEntry) : (s.setCt k e).keyGen = s.keyGen := rfl

@[simp] theorem State.onCt_cycle (s : State) (k : Nat) (f : CtEntry → CtEntry) : (s.onCt k f).cycle = s.cycle := rfl
@[simp] theorem State.onCt_chip (s : State) (k : Nat) (f : CtEntry → CtEntry) : (s.onCt k f).chip = s.chip := rfl
@[simp] theorem State.onCt_mem (s : State) (k : Nat) (f : CtEntry → CtEntry) : (s.onCt k f).mem = s.mem := rfl
@[simp] theorem State.onCt_ecc (s : State) (k : Nat) (f : CtEntry → CtEntry) : (s.onCt k f).ecc = s.ecc := rfl
@[simp] theorem State.onCt_poison (s : State) (k : Nat) (f : CtEntry → CtEntry) : (s.onCt k f).poison = s.poison := rfl
@[simp] theorem State.onCt_tiles (s : State) (k : Nat) (f : CtEntry → CtEntry) : (s.onCt k f).tiles = s.tiles := rfl
@[simp] theorem State.onCt_l2 (s : State) (k : Nat) (f : CtEntry → CtEntry) : (s.onCt k f).l2 = s.l2 := rfl
@[simp] theorem State.onCt_parts (s : State) (k : Nat) (f : CtEntry → CtEntry) : (s.onCt k f).parts = s.parts := rfl
@[simp] theorem State.onCt_vfs (s : State) (k : Nat) (f : CtEntry → CtEntry) : (s.onCt k f).vfs = s.vfs := rfl
@[simp] theorem State.onCt_net (s : State) (k : Nat) (f : CtEntry → CtEntry) : (s.onCt k f).net = s.net := rfl
@[simp] theorem State.onCt_probes (s : State) (k : Nat) (f : CtEntry → CtEntry) : (s.onCt k f).probes = s.probes := rfl
@[simp] theorem State.onCt_nextProbe (s : State) (k : Nat) (f : CtEntry → CtEntry) : (s.onCt k f).nextProbe = s.nextProbe := rfl
@[simp] theorem State.onCt_fabric (s : State) (k : Nat) (f : CtEntry → CtEntry) : (s.onCt k f).fabric = s.fabric := rfl
@[simp] theorem State.onCt_assay (s : State) (k : Nat) (f : CtEntry → CtEntry) : (s.onCt k f).assay = s.assay := rfl
@[simp] theorem State.onCt_flushes (s : State) (k : Nat) (f : CtEntry → CtEntry) : (s.onCt k f).flushes = s.flushes := rfl
@[simp] theorem State.onCt_agenda (s : State) (k : Nat) (f : CtEntry → CtEntry) : (s.onCt k f).agenda = s.agenda := rfl
@[simp] theorem State.onCt_cur (s : State) (k : Nat) (f : CtEntry → CtEntry) : (s.onCt k f).cur = s.cur := rfl
@[simp] theorem State.onCt_free (s : State) (k : Nat) (f : CtEntry → CtEntry) : (s.onCt k f).free = s.free := rfl
@[simp] theorem State.onCt_keyGen (s : State) (k : Nat) (f : CtEntry → CtEntry) : (s.onCt k f).keyGen = s.keyGen := rfl

@[simp] theorem State.putBytes_cycle (s : State) (a : Nat) (bs : List Byte) : (s.putBytes a bs).cycle = s.cycle := rfl
@[simp] theorem State.putBytes_chip (s : State) (a : Nat) (bs : List Byte) : (s.putBytes a bs).chip = s.chip := rfl
@[simp] theorem State.putBytes_ecc (s : State) (a : Nat) (bs : List Byte) : (s.putBytes a bs).ecc = s.ecc := rfl
@[simp] theorem State.putBytes_poison (s : State) (a : Nat) (bs : List Byte) : (s.putBytes a bs).poison = s.poison := rfl
@[simp] theorem State.putBytes_tiles (s : State) (a : Nat) (bs : List Byte) : (s.putBytes a bs).tiles = s.tiles := rfl
@[simp] theorem State.putBytes_cts (s : State) (a : Nat) (bs : List Byte) : (s.putBytes a bs).cts = s.cts := rfl
@[simp] theorem State.putBytes_l2 (s : State) (a : Nat) (bs : List Byte) : (s.putBytes a bs).l2 = s.l2 := rfl
@[simp] theorem State.putBytes_parts (s : State) (a : Nat) (bs : List Byte) : (s.putBytes a bs).parts = s.parts := rfl
@[simp] theorem State.putBytes_vfs (s : State) (a : Nat) (bs : List Byte) : (s.putBytes a bs).vfs = s.vfs := rfl
@[simp] theorem State.putBytes_net (s : State) (a : Nat) (bs : List Byte) : (s.putBytes a bs).net = s.net := rfl
@[simp] theorem State.putBytes_probes (s : State) (a : Nat) (bs : List Byte) : (s.putBytes a bs).probes = s.probes := rfl
@[simp] theorem State.putBytes_nextProbe (s : State) (a : Nat) (bs : List Byte) : (s.putBytes a bs).nextProbe = s.nextProbe := rfl
@[simp] theorem State.putBytes_fabric (s : State) (a : Nat) (bs : List Byte) : (s.putBytes a bs).fabric = s.fabric := rfl
@[simp] theorem State.putBytes_assay (s : State) (a : Nat) (bs : List Byte) : (s.putBytes a bs).assay = s.assay := rfl
@[simp] theorem State.putBytes_flushes (s : State) (a : Nat) (bs : List Byte) : (s.putBytes a bs).flushes = s.flushes := rfl
@[simp] theorem State.putBytes_agenda (s : State) (a : Nat) (bs : List Byte) : (s.putBytes a bs).agenda = s.agenda := rfl
@[simp] theorem State.putBytes_cur (s : State) (a : Nat) (bs : List Byte) : (s.putBytes a bs).cur = s.cur := rfl
@[simp] theorem State.putBytes_free (s : State) (a : Nat) (bs : List Byte) : (s.putBytes a bs).free = s.free := rfl
@[simp] theorem State.putBytes_keyGen (s : State) (a : Nat) (bs : List Byte) : (s.putBytes a bs).keyGen = s.keyGen := rfl

@[simp] theorem State.nextPc_cycle (s : State) : (s.nextPc).cycle = s.cycle := rfl
@[simp] theorem State.nextPc_chip (s : State) : (s.nextPc).chip = s.chip := rfl
@[simp] theorem State.nextPc_mem (s : State) : (s.nextPc).mem = s.mem := rfl
@[simp] theorem State.nextPc_ecc (s : State) : (s.nextPc).ecc = s.ecc := rfl
@[simp] theorem State.nextPc_poison (s : State) : (s.nextPc).poison = s.poison := rfl
@[simp] theorem State.nextPc_cts (s : State) : (s.nextPc).cts = s.cts := rfl
@[simp] theorem State.nextPc_l2 (s : State) : (s.nextPc).l2 = s.l2 := rfl
@[simp] theorem State.nextPc_parts (s : State) : (s.nextPc).parts = s.parts := rfl
@[simp] theorem State.nextPc_vfs (s : State) : (s.nextPc).vfs = s.vfs := rfl
@[simp] theorem State.nextPc_net (s : State) : (s.nextPc).net = s.net := rfl
@[simp] theorem State.nextPc_probes (s : State) : (s.nextPc).probes = s.probes := rfl
@[simp] theorem State.nextPc_nextProbe (s : State) : (s.nextPc).nextProbe = s.nextProbe := rfl
@[simp] theorem State.nextPc_fabric (s : State) : (s.nextPc).fabric = s.fabric := rfl
@[simp] theorem State.nextPc_assay (s : State) : (s.nextPc).assay = s.assay := rfl
@[simp] theorem State.nextPc_flushes (s : State) : (s.nextPc).flushes = s.flushes := rfl
@[simp] theorem State.nextPc_agenda (s : State) : (s.nextPc).agenda = s.agenda := rfl
@[simp] theorem State.nextPc_cur (s : State) : (s.nextPc).cur = s.cur := rfl
@[simp] theorem State.nextPc_free (s : State) : (s.nextPc).free = s.free := rfl
@[simp] theorem State.nextPc_keyGen (s : State) : (s.nextPc).keyGen = s.keyGen := rfl

@[simp] theorem State.clearResume_cycle (s : State) : (s.clearResume).cycle = s.cycle := rfl
@[simp] theorem State.clearResume_chip (s : State) : (s.clearResume).chip = s.chip := rfl
@[simp] theorem State.clearResume_mem (s : State) : (s.clearResume).mem = s.mem := rfl
@[simp] theorem State.clearResume_ecc (s : State) : (s.clearResume).ecc = s.ecc := rfl
@[simp] theorem State.clearResume_poison (s : State) : (s.clearResume).poison = s.poison := rfl
@[simp] theorem State.clearResume_cts (s : State) : (s.clearResume).cts = s.cts := rfl
@[simp] theorem State.clearResume_l2 (s : State) : (s.clearResume).l2 = s.l2 := rfl
@[simp] theorem State.clearResume_parts (s : State) : (s.clearResume).parts = s.parts := rfl
@[simp] theorem State.clearResume_vfs (s : State) : (s.clearResume).vfs = s.vfs := rfl
@[simp] theorem State.clearResume_net (s : State) : (s.clearResume).net = s.net := rfl
@[simp] theorem State.clearResume_probes (s : State) : (s.clearResume).probes = s.probes := rfl
@[simp] theorem State.clearResume_nextProbe (s : State) : (s.clearResume).nextProbe = s.nextProbe := rfl
@[simp] theorem State.clearResume_fabric (s : State) : (s.clearResume).fabric = s.fabric := rfl
@[simp] theorem State.clearResume_assay (s : State) : (s.clearResume).assay = s.assay := rfl
@[simp] theorem State.clearResume_flushes (s : State) : (s.clearResume).flushes = s.flushes := rfl
@[simp] theorem State.clearResume_agenda (s : State) : (s.clearResume).agenda = s.agenda := rfl
@[simp] theorem State.clearResume_cur (s : State) : (s.clearResume).cur = s.cur := rfl
@[simp] theorem State.clearResume_free (s : State) : (s.clearResume).free = s.free := rfl
@[simp] theorem State.clearResume_keyGen (s : State) : (s.clearResume).keyGen = s.keyGen := rfl

@[simp] theorem State.issueHold_cycle (s : State) (n : Nat) : (s.issueHold n).cycle = s.cycle := rfl
@[simp] theorem State.issueHold_chip (s : State) (n : Nat) : (s.issueHold n).chip = s.chip := rfl
@[simp] theorem State.issueHold_mem (s : State) (n : Nat) : (s.issueHold n).mem = s.mem := rfl
@[simp] theorem State.issueHold_ecc (s : State) (n : Nat) : (s.issueHold n).ecc = s.ecc := rfl
@[simp] theorem State.issueHold_poison (s : State) (n : Nat) : (s.issueHold n).poison = s.poison := rfl
@[simp] theorem State.issueHold_cts (s : State) (n : Nat) : (s.issueHold n).cts = s.cts := rfl
@[simp] theorem State.issueHold_l2 (s : State) (n : Nat) : (s.issueHold n).l2 = s.l2 := rfl
@[simp] theorem State.issueHold_parts (s : State) (n : Nat) : (s.issueHold n).parts = s.parts := rfl
@[simp] theorem State.issueHold_vfs (s : State) (n : Nat) : (s.issueHold n).vfs = s.vfs := rfl
@[simp] theorem State.issueHold_net (s : State) (n : Nat) : (s.issueHold n).net = s.net := rfl
@[simp] theorem State.issueHold_probes (s : State) (n : Nat) : (s.issueHold n).probes = s.probes := rfl
@[simp] theorem State.issueHold_nextProbe (s : State) (n : Nat) : (s.issueHold n).nextProbe = s.nextProbe := rfl
@[simp] theorem State.issueHold_fabric (s : State) (n : Nat) : (s.issueHold n).fabric = s.fabric := rfl
@[simp] theorem State.issueHold_assay (s : State) (n : Nat) : (s.issueHold n).assay = s.assay := rfl
@[simp] theorem State.issueHold_flushes (s : State) (n : Nat) : (s.issueHold n).flushes = s.flushes := rfl
@[simp] theorem State.issueHold_agenda (s : State) (n : Nat) : (s.issueHold n).agenda = s.agenda := rfl
@[simp] theorem State.issueHold_cur (s : State) (n : Nat) : (s.issueHold n).cur = s.cur := rfl
@[simp] theorem State.issueHold_free (s : State) (n : Nat) : (s.issueHold n).free = s.free := rfl
@[simp] theorem State.issueHold_keyGen (s : State) (n : Nat) : (s.issueHold n).keyGen = s.keyGen := rfl

@[simp] theorem State.notRetriable_cycle (s : State) : (s.notRetriable).cycle = s.cycle := rfl
@[simp] theorem State.notRetriable_chip (s : State) : (s.notRetriable).chip = s.chip := rfl
@[simp] theorem State.notRetriable_mem (s : State) : (s.notRetriable).mem = s.mem := rfl
@[simp] theorem State.notRetriable_ecc (s : State) : (s.notRetriable).ecc = s.ecc := rfl
@[simp] theorem State.notRetriable_poison (s : State) : (s.notRetriable).poison = s.poison := rfl
@[simp] theorem State.notRetriable_cts (s : State) : (s.notRetriable).cts = s.cts := rfl
@[simp] theorem State.notRetriable_l2 (s : State) : (s.notRetriable).l2 = s.l2 := rfl
@[simp] theorem State.notRetriable_parts (s : State) : (s.notRetriable).parts = s.parts := rfl
@[simp] theorem State.notRetriable_vfs (s : State) : (s.notRetriable).vfs = s.vfs := rfl
@[simp] theorem State.notRetriable_net (s : State) : (s.notRetriable).net = s.net := rfl
@[simp] theorem State.notRetriable_probes (s : State) : (s.notRetriable).probes = s.probes := rfl
@[simp] theorem State.notRetriable_nextProbe (s : State) : (s.notRetriable).nextProbe = s.nextProbe := rfl
@[simp] theorem State.notRetriable_fabric (s : State) : (s.notRetriable).fabric = s.fabric := rfl
@[simp] theorem State.notRetriable_assay (s : State) : (s.notRetriable).assay = s.assay := rfl
@[simp] theorem State.notRetriable_flushes (s : State) : (s.notRetriable).flushes = s.flushes := rfl
@[simp] theorem State.notRetriable_agenda (s : State) : (s.notRetriable).agenda = s.agenda := rfl
@[simp] theorem State.notRetriable_cur (s : State) : (s.notRetriable).cur = s.cur := rfl
@[simp] theorem State.notRetriable_free (s : State) : (s.notRetriable).free = s.free := rfl
@[simp] theorem State.notRetriable_keyGen (s : State) : (s.notRetriable).keyGen = s.keyGen := rfl

/-! ## What an update writes -/

@[simp] theorem State.putBytes_mem (s : State) (a : Nat) (bs : List Byte) : (s.putBytes a bs).mem = memSetBytes s.mem a bs := rfl
@[simp] theorem State.draw_free (s : State) (n : Nat) : (s.draw n).free = s.free + n := rfl

@[simp] theorem State.tile_setTile_self (s : State) (t : Nat) (v : Tile) : (s.setTile t v).tile t = v := by
  simp [State.tile, State.setTile]
theorem State.tile_setTile_ne (s : State) {t u : Nat} (v : Tile) (h : u ≠ t) : (s.setTile t v).tile u = s.tile u := by
  simp [State.tile, State.setTile, aget_aset_ne _ _ _ h]
@[simp] theorem State.tile_onTile_self (s : State) (t : Nat) (f : Tile → Tile) : (s.onTile t f).tile t = f (s.tile t) := by
  simp [State.onTile]
theorem State.tile_onTile_ne (s : State) {t u : Nat} (f : Tile → Tile) (h : u ≠ t) : (s.onTile t f).tile u = s.tile u := by
  simp [State.onTile, State.tile_setTile_ne s _ h]
@[simp] theorem State.setTile_setTile (s : State) (t : Nat) (v w : Tile) : (s.setTile t v).setTile t w = s.setTile t w := by
  simp [State.setTile]
theorem State.onTile_onTile (s : State) (t : Nat) (f g : Tile → Tile) :
    (s.onTile t f).onTile t g = s.onTile t fun v => g (f v) := by
  simp [State.onTile]

@[simp] theorem State.tile_setCtxAt_self (s : State) (t c : Nat) (v : Context) :
    (s.setCtxAt t c v).tile t
      = { s.tile t with core := { (s.tile t).core with ctxs := aset (s.tile t).core.ctxs c v } } := by
  simp [State.setCtxAt, State.onCore]
theorem State.tile_setCtxAt_ne (s : State) {t u : Nat} (c : Nat) (v : Context) (h : u ≠ t) :
    (s.setCtxAt t c v).tile u = s.tile u := by
  simp [State.setCtxAt, State.onCore, State.tile_onTile_ne s _ h]
@[simp] theorem State.setCtxAt_setCtxAt (s : State) (t c : Nat) (v w : Context) :
    (s.setCtxAt t c v).setCtxAt t c w = s.setCtxAt t c w := by
  simp [State.setCtxAt, State.onCore, State.onTile]
@[simp] theorem State.ctxAt_setCtxAt_self (s : State) (t c : Nat) (v : Context) : (s.setCtxAt t c v).ctxAt t c = v := by
  simp [State.ctxAt]

/-- A context slot other than the one written stands as it was. -/
theorem State.ctxAt_setCtxAt_ne (s : State) {t c u d : Nat} (v : Context) (h : ¬(u = t ∧ d = c)) :
    (s.setCtxAt t c v).ctxAt u d = s.ctxAt u d := by
  unfold State.ctxAt
  by_cases hu : u = t
  · subst hu
    have hd : d ≠ c := fun e => h ⟨rfl, e⟩
    simp [aget_aset_ne _ _ _ hd]
  · rw [State.tile_setCtxAt_ne s c v hu]

@[simp] theorem State.ctx_onCtx (s : State) (f : Context → Context) : (s.onCtx f).ctx = f s.ctx := by
  simp [State.ctx, State.onCtx, State.onCtxAt]
@[simp] theorem State.onCtx_onCtx (s : State) (f g : Context → Context) :
    (s.onCtx f).onCtx g = s.onCtx fun v => g (f v) := by
  simp [State.onCtx, State.onCtxAt]
@[simp] theorem State.regs_onCtx (s : State) (f : Context → Context) : (s.onCtx f).regs = (f s.ctx).regs := by
  simp [State.regs]

/-- Changes of the registers, of the run and of the sticky flags are changes of the context slot. -/
theorem State.onRegs_eq (s : State) (f : Regs → Regs) : s.onRegs f = s.onCtx fun v => { v with regs := f v.regs } := rfl
theorem State.onRun_eq (s : State) (f : Run → Run) : s.onRun f = s.onCtx fun v => { v with run := f v.run } := rfl
theorem State.setX_eq (s : State) (i : Reg) (v : Word) :
    s.setX i v = s.onCtx fun c => { c with regs := c.regs.writeX i v } := rfl
theorem State.setC_eq (s : State) (i : Nat) (v : Option Cap) :
    s.setC i v = s.onCtx fun c => { c with regs := c.regs.writeC i v } := rfl
theorem State.setFlags_eq (s : State) (f : Flags) :
    s.setFlags f = s.onCtx fun c => { c with regs := c.regs.setFlags f } := rfl
theorem State.nextPc_eq (s : State) : s.nextPc = s.onCtx fun c => { c with regs := { c.regs with pc := c.regs.pc + 12 } } := rfl
theorem State.clearResume_eq (s : State) :
    s.clearResume = s.onCtx fun c => { c with regs := { c.regs with resume := .none }, run := { c.run with rejected := [] } } := rfl
theorem State.issueHold_eq (s : State) (n : Nat) :
    s.issueHold n = s.onCtx fun c => { c with run := { c.run with issueAt := s.cycle + 1 + n } } := rfl
theorem State.notRetriable_eq (s : State) :
    s.notRetriable = s.onCtx fun c => { c with run := { c.run with noRetry := true } } := rfl

/-! ## Registers -/

/-- x0 reads zero. -/
@[simp] theorem Regs.readX_zero (r : Regs) : r.readX 0 = 0 := rfl
/-- A write of x0 is discarded. -/
@[simp] theorem Regs.writeX_zero (r : Regs) (v : Word) : r.writeX 0 v = r := rfl

theorem Regs.readX_writeX_self (r : Regs) {i : Reg} (v : Word) (h : i ≠ 0) : (r.writeX i v).readX i = v := by
  unfold Regs.readX Regs.writeX
  rw [if_neg h, if_neg h]
  simp

theorem Regs.readX_writeX_ne (r : Regs) {i j : Reg} (v : Word) (h : j ≠ i) : (r.writeX i v).readX j = r.readX j := by
  unfold Regs.readX Regs.writeX
  split
  · rfl
  · split
    · rfl
    · have : j.toNat ≠ i.toNat := fun e => h (BitVec.eq_of_toNat_eq e)
      simp [aget_aset_ne _ _ _ this]

@[simp] theorem Regs.writeX_pc (r : Regs) (i : Reg) (v : Word) : (r.writeX i v).pc = r.pc := by
  unfold Regs.writeX; split <;> rfl
@[simp] theorem Regs.writeX_resume (r : Regs) (i : Reg) (v : Word) : (r.writeX i v).resume = r.resume := by
  unfold Regs.writeX; split <;> rfl
@[simp] theorem Regs.writeX_p (r : Regs) (i : Reg) (v : Word) : (r.writeX i v).p = r.p := by
  unfold Regs.writeX; split <;> rfl
@[simp] theorem Regs.writeX_c (r : Regs) (i : Reg) (v : Word) : (r.writeX i v).c = r.c := by
  unfold Regs.writeX; split <;> rfl
@[simp] theorem Regs.writeX_v (r : Regs) (i : Reg) (v : Word) : (r.writeX i v).v = r.v := by
  unfold Regs.writeX; split <;> rfl
@[simp] theorem Regs.writeX_h (r : Regs) (i : Reg) (v : Word) : (r.writeX i v).h = r.h := by
  unfold Regs.writeX; split <;> rfl
@[simp] theorem Regs.writeX_fpstat (r : Regs) (i : Reg) (v : Word) : (r.writeX i v).fpstat = r.fpstat := by
  unfold Regs.writeX; split <;> rfl

@[simp] theorem Regs.writeC_pc (r : Regs) (i : Nat) (c : Option Cap) : (r.writeC i c).pc = r.pc := by cases c <;> rfl
@[simp] theorem Regs.writeC_x (r : Regs) (i : Nat) (c : Option Cap) : (r.writeC i c).x = r.x := by cases c <;> rfl
@[simp] theorem Regs.writeC_p (r : Regs) (i : Nat) (c : Option Cap) : (r.writeC i c).p = r.p := by cases c <;> rfl
@[simp] theorem Regs.writeC_resume (r : Regs) (i : Nat) (c : Option Cap) : (r.writeC i c).resume = r.resume := by
  cases c <;> rfl
@[simp] theorem Regs.writeC_fpstat (r : Regs) (i : Nat) (c : Option Cap) : (r.writeC i c).fpstat = r.fpstat := by
  cases c <;> rfl

theorem Regs.readC_writeC_some (r : Regs) (i : Nat) (c : Cap) : (r.writeC i (some c)).readC i = some c := by
  simp [Regs.readC, Regs.writeC]
theorem Regs.readC_writeC_ne (r : Regs) {i j : Nat} (c : Option Cap) (h : j ≠ i) :
    (r.writeC i c).readC j = r.readC j := by
  cases c <;> simp [Regs.readC, Regs.writeC, aget?_aset_ne _ _ h, aget?_aerase_ne _ h]

/-- p0 reads true. -/
@[simp] theorem Regs.readP_zero (r : Regs) : r.readP 0 = true := rfl
/-- A write of p0 is discarded. -/
@[simp] theorem Regs.writeP_zero (r : Regs) (b : Bool) : r.writeP 0 b = r := rfl

/-! ## Memory -/

@[simp] theorem State.byte_onTile (s : State) (t : Nat) (f : Tile → Tile) (a : Nat) : (s.onTile t f).byte a = s.byte a := rfl
@[simp] theorem State.byte_onCtx (s : State) (f : Context → Context) (a : Nat) : (s.onCtx f).byte a = s.byte a := rfl
@[simp] theorem State.byte_setCt (s : State) (k : Nat) (e : CtEntry) (a : Nat) : (s.setCt k e).byte a = s.byte a := rfl

/-- A store leaves every byte outside it alone. -/
theorem State.byte_putBytes_outside (s : State) (a : Nat) (bs : List Byte) {c : Nat} (h : c < a ∨ a + bs.length ≤ c) :
    (s.putBytes a bs).byte c = s.byte c := by
  simp [State.byte, memGet?_memSetBytes_outside _ _ _ h, State.genOf]

/-- A byte stored is the byte read. -/
theorem State.byte_putBytes_inside (s : State) (w : Memory.wf s.mem = true) (a : Nat) (bs : List Byte) {i : Nat}
    (h : i < bs.length) : (s.putBytes a bs).byte (a + i) = bs[i] := by
  simp [State.byte, memGet?_memSetBytes_inside w a bs h]

/-- A store keeps the canonical form of memory. -/
theorem State.putBytes_wf (s : State) (w : Memory.wf s.mem = true) (a : Nat) (bs : List Byte) :
    Memory.wf (s.putBytes a bs).mem = true := memSetBytes_wf w a bs

/-- The memory of the machine after reset has the canonical form. -/
theorem reset_mem_wf : Memory.wf State.reset.mem = true := rfl

end Sys2Proof.Machine
end

