-- ==== Sys2Proof/Laws/Caps.lean ====
section
/-!
SUPPORT. Laws of what happens to a capability that its holder gives up (R52, R69, R70, R94, R298, R362): no context, no memory and
no agenda changes, only CT entries, partitions' supervisors, packets under way and what waits to leave a tile.
-/

namespace Sys2Proof.Machine

/-- What giving up a capability leaves alone. -/
structure Elsewhere (s t : State) : Prop where
  cycle : t.cycle = s.cycle
  chip : t.chip = s.chip
  mem : t.mem = s.mem
  ecc : t.ecc = s.ecc
  poison : t.poison = s.poison
  tiles : t.tiles = s.tiles
  l2 : t.l2 = s.l2
  vfs : t.vfs = s.vfs
  probes : t.probes = s.probes
  assay : t.assay = s.assay
  agenda : t.agenda = s.agenda
  cur : t.cur = s.cur
  free : t.free = s.free

namespace Elsewhere

theorem refl (s : State) : Elsewhere s s := ⟨rfl, rfl, rfl, rfl, rfl, rfl, rfl, rfl, rfl, rfl, rfl, rfl, rfl⟩

theorem trans {s t u : State} (a : Elsewhere s t) (b : Elsewhere t u) : Elsewhere s u :=
  ⟨b.cycle.trans a.cycle, b.chip.trans a.chip, b.mem.trans a.mem, b.ecc.trans a.ecc, b.poison.trans a.poison,
    b.tiles.trans a.tiles, b.l2.trans a.l2, b.vfs.trans a.vfs, b.probes.trans a.probes, b.assay.trans a.assay,
    b.agenda.trans a.agenda, b.cur.trans a.cur, b.free.trans a.free⟩

theorem foldl {α : Type} {f : State → α → State} (h : ∀ s a, Elsewhere s (f s a)) (l : List α) (s : State) :
    Elsewhere s (l.foldl f s) := by
  induction l generalizing s with
  | nil => exact refl s
  | cons a l ih => exact (h s a).trans (ih (f s a))

theorem setCt (s : State) (k : Nat) (e : CtEntry) : Elsewhere s (s.setCt k e) :=
  ⟨rfl, rfl, rfl, rfl, rfl, rfl, rfl, rfl, rfl, rfl, rfl, rfl, rfl⟩

theorem onCt (s : State) (k : Nat) (f : CtEntry → CtEntry) : Elsewhere s (s.onCt k f) := setCt s k _

theorem sendPkt (s : State) (p : Packet) : Elsewhere s (s.sendPkt p) := by
  unfold State.sendPkt
  split <;> exact ⟨rfl, rfl, rfl, rfl, rfl, rfl, rfl, rfl, rfl, rfl, rfl, rfl, rfl⟩

theorem send (s : State) (vn part : Nat) (src : Place) (unit : Agent) (dst : Place) (kslot len : Nat) (b : Body) :
    Elsewhere s (s.send vn part src unit dst kslot len b) := sendPkt s _

theorem onPart (s : State) (p : Nat) (f : Part → Part) : Elsewhere s (s.onPart p f) := by
  unfold State.onPart
  split
  · exact ⟨rfl, rfl, rfl, rfl, rfl, rfl, rfl, rfl, rfl, rfl, rfl, rfl, rfl⟩
  · exact refl s

theorem onSupv (s : State) (p : Nat) (f : Supv → Supv) : Elsewhere s (s.onSupv p f) := onPart s p _

theorem setOwner (s : State) (c : Cap) (k : Nat) (a : Place) : Elsewhere s (s.setOwner c k a) := by
  unfold State.setOwner
  split
  · exact onCt s _ _
  · exact refl s

theorem ownSupv (s : State) (c : Cap) : Elsewhere s (s.ownSupv c) := by
  unfold State.ownSupv
  split
  · exact onCt s _ _
  · exact setOwner s _ _ _

theorem toReception (s : State) (p : Nat) (r : Nat × Nat) (h : HeldCap) : Elsewhere s (s.toReception p r h) := send s _ _ _ _ _ _ _ _

theorem supvDeliver (s : State) (p : Nat) (c : Cap) (reason : Nat) : Elsewhere s (s.supvDeliver p c reason) := by
  unfold State.supvDeliver
  have h := ownSupv s c
  dsimp only
  split
  · exact h
  · split
    · split
      · exact h.trans (toReception _ _ _ _)
      · exact h.trans (onSupv _ _ _)
    · split
      · exact h.trans (onSupv _ _ _)
      · exact h

theorem reclaimPath (s : State) (p k t : Nat) (c : Cap) (reason : Nat) : Elsewhere s (s.reclaimPath p k t c reason) := by
  unfold State.reclaimPath
  dsimp only
  split
  · exact (setOwner s _ _ _).trans (send _ _ _ _ _ _ _ _ _)
  · exact supvDeliver s p c reason

theorem clearReader (s : State) (c : Cap) (a : Place) : Elsewhere s (s.clearReader c a) := by
  unfold State.clearReader
  split
  · exact onCt s _ _
  · exact refl s

theorem returnTokens (s : State) (p k t : Nat) (c : Cap) (lost : Bool) : Elsewhere s (s.returnTokens p k t c lost) := by
  unfold State.returnTokens
  split
  · exact send s _ _ _ _ _ _ _ _
  · split
    · exact onCt s _ _
    · exact refl s

/-- A dropped capability (R298). -/
theorem dropCap (s : State) (p k t : Nat) (c : Cap) (reason : Nat) : Elsewhere s (s.dropCap p k t c reason) := by
  unfold State.dropCap
  split
  · exact returnTokens s _ _ _ _ _
  · exact refl s
  · exact refl s
  · split
    · exact refl s
    · exact reclaimPath s p k t c reason

/-- A capability of a killed tile group (R69). -/
theorem killCap (s : State) (p k t : Nat) (c : Cap) (reason : Nat) : Elsewhere s (s.killCap p k t c reason) := by
  unfold State.killCap
  split
  · exact returnTokens s _ _ _ _ _
  · exact refl s
  · exact clearReader s _ _
  · exact reclaimPath s p k t c reason

theorem tile {s t : State} (h : Elsewhere s t) (n : Nat) : t.tile n = s.tile n := by simp [State.tile, h.tiles]
theorem ctxAt {s t : State} (h : Elsewhere s t) (n c : Nat) : t.ctxAt n c = s.ctxAt n c := by simp [State.ctxAt, h.tile]
theorem ctx {s t : State} (h : Elsewhere s t) : t.ctx = s.ctx := by simp [State.ctx, h.cur, h.ctxAt]

end Elsewhere

/-- An update of a tile's core that leaves the context slots alone leaves every context alone. -/
theorem ctxAt_onCore (s : State) (t : Nat) (f : CoreSt → CoreSt) (hf : ∀ k, (f k).ctxs = k.ctxs) (u c : Nat) :
    (s.onCore t f).ctxAt u c = s.ctxAt u c := by
  unfold State.ctxAt State.onCore
  by_cases h : u = t
  · subst h; simp [hf]
  · rw [State.tile_onTile_ne s _ h]

/-- What giving up a capability leaves alone where it may have to wait on its tile (R362): memory, every context, what the tasks of
the tiles share, the stewards. -/
structure GivenUp (s t : State) : Prop where
  cycle : t.cycle = s.cycle
  chip : t.chip = s.chip
  mem : t.mem = s.mem
  ecc : t.ecc = s.ecc
  poison : t.poison = s.poison
  vfs : t.vfs = s.vfs
  probes : t.probes = s.probes
  assay : t.assay = s.assay
  agenda : t.agenda = s.agenda
  cur : t.cur = s.cur
  free : t.free = s.free
  ctxAt : ∀ n c, t.ctxAt n c = s.ctxAt n c
  loc : ∀ n, (t.tile n).loc = (s.tile n).loc
  stw : ∀ n, (t.tile n).stw = (s.tile n).stw

namespace GivenUp

theorem of {s t : State} (h : Elsewhere s t) : GivenUp s t :=
  ⟨h.cycle, h.chip, h.mem, h.ecc, h.poison, h.vfs, h.probes, h.assay, h.agenda, h.cur, h.free, h.ctxAt,
    fun n => by rw [h.tile], fun n => by rw [h.tile]⟩

theorem trans {s t u : State} (a : GivenUp s t) (b : GivenUp t u) : GivenUp s u :=
  ⟨b.cycle.trans a.cycle, b.chip.trans a.chip, b.mem.trans a.mem, b.ecc.trans a.ecc, b.poison.trans a.poison,
    b.vfs.trans a.vfs, b.probes.trans a.probes, b.assay.trans a.assay, b.agenda.trans a.agenda, b.cur.trans a.cur,
    b.free.trans a.free, fun n c => (b.ctxAt n c).trans (a.ctxAt n c), fun n => (b.loc n).trans (a.loc n),
    fun n => (b.stw n).trans (a.stw n)⟩

theorem onCore (s : State) (t : Nat) (f : CoreSt → CoreSt) (hf : ∀ k, (f k).ctxs = k.ctxs) : GivenUp s (s.onCore t f) := by
  have h (n : Nat) : ((s.onCore t f).tile n).loc = (s.tile n).loc ∧ ((s.onCore t f).tile n).stw = (s.tile n).stw := by
    unfold State.onCore
    by_cases e : n = t
    · subst e; simp
    · rw [State.tile_onTile_ne s _ e]; exact ⟨rfl, rfl⟩
  exact ⟨rfl, rfl, rfl, rfl, rfl, rfl, rfl, rfl, rfl, rfl, rfl, ctxAt_onCore s t f hf, fun n => (h n).1, fun n => (h n).2⟩

theorem askStale (s : State) (t : Nat) (g : Giving) : GivenUp s (s.askStale t g) := by
  unfold State.askStale
  dsimp only
  refine trans (of (Elsewhere.trans ?_ (Elsewhere.send _ _ _ _ _ _ _ _ _))) (onCore _ _ _ fun _ => rfl)
  exact ⟨rfl, rfl, rfl, rfl, rfl, rfl, rfl, rfl, rfl, rfl, rfl, rfl, rfl⟩

theorem dispose (s : State) (t : Nat) (g : Giving) : GivenUp s (s.dispose t g) := by
  unfold State.dispose
  split
  · exact of (Elsewhere.killCap _ _ _ _ _ _)
  · exact of (Elsewhere.reclaimPath _ _ _ _ _ _)
  · split
    · exact askStale s t g
    · exact of (Elsewhere.dropCap _ _ _ _ _ _)

/-- A capability given up on a tile goes, or waits there. -/
theorem giveUp (s : State) (t : Nat) (g : Giving) : GivenUp s (s.giveUp t g) := by
  unfold State.giveUp
  split
  · exact dispose s t g
  · exact onCore _ _ _ fun _ => rfl

theorem ctx {s t : State} (h : GivenUp s t) : t.ctx = s.ctx := by simp [State.ctx, h.cur, h.ctxAt]

end GivenUp

/-- A dropped capability leaves memory alone. -/
@[simp] theorem dropCap_mem (s : State) (p k t : Nat) (c : Cap) (r : Nat) : (s.dropCap p k t c r).mem = s.mem :=
  (Elsewhere.dropCap s p k t c r).mem
@[simp] theorem dropCap_tiles (s : State) (p k t : Nat) (c : Cap) (r : Nat) : (s.dropCap p k t c r).tiles = s.tiles :=
  (Elsewhere.dropCap s p k t c r).tiles
@[simp] theorem dropCap_cur (s : State) (p k t : Nat) (c : Cap) (r : Nat) : (s.dropCap p k t c r).cur = s.cur :=
  (Elsewhere.dropCap s p k t c r).cur
@[simp] theorem dropCap_cycle (s : State) (p k t : Nat) (c : Cap) (r : Nat) : (s.dropCap p k t c r).cycle = s.cycle :=
  (Elsewhere.dropCap s p k t c r).cycle
@[simp] theorem dropCap_chip (s : State) (p k t : Nat) (c : Cap) (r : Nat) : (s.dropCap p k t c r).chip = s.chip :=
  (Elsewhere.dropCap s p k t c r).chip

end Sys2Proof.Machine
end

