-- ==== Sys2Proof/Laws/Issue.lean ====
section
/-!
SUPPORT. Laws of the frame in which a task's instruction runs (R149): what it answers when nothing issues, when the guard
is false, when the effect succeeds, stalls, waits or traps.
-/

namespace Sys2Proof.Machine

variable {s : State} {h : Hint} {w : Who}

/-! ## What a frame answers -/

theorem issueJump_none (hn : s.issuer = none) (body : Who → Eff State) : issueJump s h body = .next s := by
  simp [issueJump, hn]

theorem issueJump_false (hi : s.issuer = some w) (hg : guardTrue s.regs h.g = false) (body : Who → Eff State) :
    issueJump s h body = .next (s.nextPc.clearResume.issueHold 0) := by
  simp [issueJump, hi, hg]

theorem issueJump_ok (hi : Issues s h w) {body : Who → Eff State} {u : State} (hb : body w = .ok u) :
    issueJump s h body = .next (u.issueHold h.stag.toNat) := by
  simp [issueJump, hi.1, hi.2, hb, settle, Except.map]

theorem issueJump_error (hi : Issues s h w) {body : Who → Eff State} {e : State × Stop} (hb : body w = .error e) :
    issueJump s h body = settle s w (.error e) := by
  simp [issueJump, hi.1, hi.2, hb, Except.map]

theorem issue_none (hn : s.issuer = none) (body : Who → Eff State) : issue s h body = .next s := issueJump_none hn _

theorem issue_false (hi : s.issuer = some w) (hg : guardTrue s.regs h.g = false) (body : Who → Eff State) :
    issue s h body = .next (s.nextPc.clearResume.issueHold 0) := issueJump_false hi hg _

theorem issue_ok (hi : Issues s h w) {body : Who → Eff State} {u : State} (hb : body w = .ok u) :
    issue s h body = .next (u.nextPc.clearResume.issueHold h.stag.toNat) :=
  issueJump_ok hi (by simp [hb, Except.map])

theorem issue_error (hi : Issues s h w) {body : Who → Eff State} {e : State × Stop} (hb : body w = .error e) :
    issue s h body = settle s w (.error e) :=
  issueJump_error hi (by simp [hb, Except.map])

theorem issueAlways_ok (hi : s.issuer = some w) {body : Who → Eff State} {u : State} (hb : body w = .ok u) :
    issueAlways s h body = .next (u.nextPc.clearResume.issueHold h.stag.toNat) := by
  simp [issueAlways, hi, hb, settle, Except.map]

theorem issueEnd_ok (hi : Issues s h w) {body : Who → Eff State} {u : State} (hb : body w = .ok u) :
    issueEnd s h body = .next u := by
  simp [issueEnd, hi.1, hi.2, hb, settle]

theorem issueMatrix_eq (hi : s.issuer = some w) (hn : w.image.nomx = false) (body : Who → Eff State) :
    issueMatrix s h body = issue s h body := by
  simp [issueMatrix, hi, hn]

/-! ## Updates of the context slot -/

theorem cycle_onCtx (f : Context → Context) : (s.onCtx f).cycle = s.cycle := rfl

/-- An instruction that changed its own registers, and nothing else, leaves `State.stepped`. -/
theorem stepped_of_onRegs (f : Regs → Regs) (hf : ∀ r, (f r).pc = r.pc) :
    ((s.onRegs f).nextPc.clearResume.issueHold h.stag.toNat) = s.stepped h f := by
  simp only [State.onRegs_eq, State.nextPc_eq, State.clearResume_eq, State.issueHold_eq, State.onCtx_onCtx, cycle_onCtx, hf,
    State.stepped]

theorem stepped_of_id : (s.nextPc.clearResume.issueHold h.stag.toNat) = s.stepped h id := by
  simp only [State.nextPc_eq, State.clearResume_eq, State.issueHold_eq, State.onCtx_onCtx, cycle_onCtx, State.stepped, id]

/-- An effect on registers alone. -/
theorem issue_regs (hi : Issues s h w) {body : Who → Eff State} (f : Regs → Regs) (hf : ∀ r, (f r).pc = r.pc)
    (hb : body w = .ok (s.onRegs f)) : issue s h body = .next (s.stepped h f) := by
  rw [issue_ok hi hb, stepped_of_onRegs f hf]

theorem issue_id (hi : Issues s h w) {body : Who → Eff State} (hb : body w = .ok s) :
    issue s h body = .next (s.stepped h id) := by
  rw [issue_ok hi hb, stepped_of_id]

/-- An effect on registers that sets PC. -/
theorem issueJump_regs (hi : Issues s h w) {body : Who → Eff State} (f : Regs → Regs) (pc : BitVec 32)
    (hb : body w = .ok ((s.onRegs f).jump pc)) : issueJump s h body = .next (s.jumped h pc f) := by
  rw [issueJump_ok hi hb]
  simp only [State.jump, State.onRegs_eq, State.clearResume_eq, State.issueHold_eq, State.onCtx_onCtx, cycle_onCtx,
    State.jumped]

theorem issueJump_id (hi : Issues s h w) {body : Who → Eff State} (pc : BitVec 32)
    (hb : body w = .ok (s.jump pc)) : issueJump s h body = .next (s.jumped h pc id) := by
  rw [issueJump_ok hi hb]
  simp only [State.jump, State.onRegs_eq, State.clearResume_eq, State.issueHold_eq, State.onCtx_onCtx, cycle_onCtx,
    State.jumped, id]

/-! ## What `stepped` leaves -/

@[simp] theorem stepped_ctx (f : Regs → Regs) : (s.stepped h f).ctx =
    { s.ctx with
      regs := { f s.ctx.regs with pc := s.ctx.regs.pc + 12, resume := .none }
      run := { s.ctx.run with rejected := [], issueAt := s.cycle + 1 + h.stag.toNat } } := by
  simp [State.stepped]

@[simp] theorem stepped_cur (f : Regs → Regs) : (s.stepped h f).cur = s.cur := rfl
@[simp] theorem stepped_mem (f : Regs → Regs) : (s.stepped h f).mem = s.mem := rfl
@[simp] theorem stepped_byte (f : Regs → Regs) (a : Nat) : (s.stepped h f).byte a = s.byte a := rfl

theorem stepped_onlyContext (f : Regs → Regs) : OnlyContext s (s.stepped h f) := by
  unfold OnlyContext
  rw [stepped_ctx]
  rfl

/-! ## The guard -/

/-- An effect that traps in a task with a trap entry is delivered there. -/
theorem settle_trap (t : Trap) (u : State) (hs : s.ctx.spec.on = false) :
    settle s w (.error (u, .trap t)) = .next (u.takeTrap w t) := by
  simp [settle, hs]

theorem settle_stall (u : State) : settle s w (.error (u, .stall)) = .next s.stalled := rfl
theorem settle_wait (u : State) : settle s w (.error (u, .wait)) = .next u := rfl

/-- The frame never refuses. -/
theorem settle_answers (e : Eff State) : (∃ t, settle s w e = .next t) ∨ settle s w e = .fault .absentAddress := by
  match e with
  | .ok u => exact .inl ⟨u, rfl⟩
  | .error (u, .trap t) => exact .inl ⟨_, rfl⟩
  | .error (u, .contained t) => exact .inl ⟨_, rfl⟩
  | .error (u, .stall) => exact .inl ⟨_, rfl⟩
  | .error (u, .wait) => exact .inl ⟨_, rfl⟩
  | .error (u, .abandon n) => exact .inl ⟨_, rfl⟩
  | .error (u, .park p) => exact .inl ⟨_, rfl⟩
  | .error (u, .absent) => exact .inr rfl

end Sys2Proof.Machine
end

