-- ==== Sys2Proof/Laws/Access.lean ====
section
/-!
SUPPORT. Laws of a task's accesses (R53, R149): what the validation cache and the lookahead marks leave alone, what a load
and a store come to when the capability admits them, what a checked write does to memory.
-/

namespace Sys2Proof.Machine

variable {s : State} {w : Who}

/-! ## What an access leaves alone -/

/-- Nothing of a tile's core is posted and unapplied (R353). -/
theorem postsOf_nil (s : State) (t : Nat) : s.postsOf t = [] ↔
    (∀ c ∈ (s.tile t).core.ctxs, (c.2.spec.held ++ c.2.shzPosts).filterMap HeldPost.packet? = [])
    ∧ (s.tile t).core.inj = [] ∧ (s.net.filter fun p => p.src == ⟨s.chip, t⟩ && p.unit == .core) = [] := by
  simp only [State.postsOf, CoreSt.unsent, List.append_eq_nil_iff, List.flatMap_eq_nil_iff, List.map_eq_nil_iff, and_assoc]

/-- An update of a context that leaves its held posts alone leaves none posted. -/
theorem postsOf_onCtx (s : State) (f : Context → Context)
    (hf : (f s.ctx).spec.held = s.ctx.spec.held ∧ (f s.ctx).shzPosts = s.ctx.shzPosts) :
    (s.onCtx f).postsOf s.cur.tile = [] ↔ s.postsOf s.cur.tile = [] := by
  rw [postsOf_nil, postsOf_nil]
  have ht : ((s.onCtx f).tile s.cur.tile).core
      = { (s.tile s.cur.tile).core with ctxs := aset (s.tile s.cur.tile).core.ctxs s.cur.ctx (f s.ctx) } := by
    simp [State.onCtx, State.onCtxAt, State.setCtxAt, State.onCore, State.ctx]
  have hc := aset_all (m := (s.tile s.cur.tile).core.ctxs) (d := Context.reset) (a := s.cur.ctx) (b := f s.ctx)
    (P := fun c => (c.2.spec.held ++ c.2.shzPosts).filterMap HeldPost.packet? = []) rfl
    (by dsimp only; rw [hf.1, hf.2]; rfl)
  rw [ht]
  exact and_congr hc Iff.rfl

/-- An update of a context that leaves its task and its commands alone leaves no command queued. -/
theorem mxQueue_onCtx (s : State) (f : Context → Context)
    (hf : (f s.ctx).run.task = s.ctx.run.task ∧ (f s.ctx).mx = s.ctx.mx) : (s.onCtx f).mxQueue = [] ↔ s.mxQueue = [] := by
  have hx : ∀ q : State, q.mxQueue = [] ↔
      (∀ x ∈ (q.tile q.cur.tile).core.ctxs,
        (if x.1 ≠ q.cur.ctx ∧ q.ctx.run.task.isSome ∧ x.2.mxRec = q.ctx.run.task then x.2.mx.queue else []) = [])
      ∧ q.ctx.mx.queue = [] := fun q => by
    simp only [State.mxQueue, CoreSt.queueOf, List.append_eq_nil_iff, List.flatMap_eq_nil_iff]
    rfl
  have ht : ((s.onCtx f).tile s.cur.tile).core.ctxs = aset (s.tile s.cur.tile).core.ctxs s.cur.ctx (f s.ctx) := by
    simp [State.onCtx, State.onCtxAt, State.setCtxAt, State.onCore, State.ctx]
  have hcur : (s.onCtx f).cur = s.cur := rfl
  rw [hx, hx, hcur, ht, State.ctx_onCtx, hf.1, hf.2]
  exact and_congr (aset_all (m := (s.tile s.cur.tile).core.ctxs) (d := Context.reset) (a := s.cur.ctx) (b := f s.ctx)
    (P := fun x => (if x.1 ≠ s.cur.ctx ∧ s.ctx.run.task.isSome ∧ x.2.mxRec = s.ctx.run.task then x.2.mx.queue else []) = [])
    (by simp) (by simp)) Iff.rfl

/-- An update of a tile's core that leaves its contexts and injection entries alone leaves its posts alone. -/
theorem postsOf_onCore (s : State) (t : Nat) (f : CoreSt → CoreSt) (hf : ∀ k, (f k).ctxs = k.ctxs ∧ (f k).inj = k.inj) :
    (s.onCore t f).postsOf t = s.postsOf t := by
  simp [State.postsOf, CoreSt.unsent, State.onCore, hf]

/-- An update of a tile's core that leaves its contexts alone leaves the queued commands alone. -/
theorem mxQueue_onCore (s : State) (f : CoreSt → CoreSt) (hf : ∀ k, (f k).ctxs = k.ctxs) :
    (s.onCore s.cur.tile f).mxQueue = s.mxQueue := by
  simp [State.mxQueue, CoreSt.queueOf, State.onCore, hf]

/-- Only a tile's validation cache, its contexts' marks of speculative reads, and vector-unit bookkeeping may differ. -/
structure Fetched (s t : State) : Prop where
  mem : t.mem = s.mem
  parts : t.parts = s.parts
  cycle : t.cycle = s.cycle
  chip : t.chip = s.chip
  cur : t.cur = s.cur
  cts : t.cts = s.cts
  net : t.net = s.net
  ecc : t.ecc = s.ecc
  poison : t.poison = s.poison
  probes : t.probes = s.probes
  fabric : t.fabric = s.fabric
  vfs : t.vfs = s.vfs
  regs : t.ctx.regs = s.ctx.regs
  run : t.ctx.run = s.ctx.run
  mx : t.ctx.mx = s.ctx.mx
  on : t.ctx.spec.on = s.ctx.spec.on
  held : t.ctx.spec.held = s.ctx.spec.held
  log : t.ctx.spec.log = s.ctx.spec.log
  shzLog : t.ctx.shzLog = s.ctx.shzLog
  shzPosts : t.ctx.shzPosts = s.ctx.shzPosts
  vecBusy : t.ctx.vecBusy = s.ctx.vecBusy
  posts : s.postsOf s.cur.tile = [] → t.postsOf s.cur.tile = []
  queue : s.mxQueue = [] → t.mxQueue = []
  loc : (t.tile s.cur.tile).loc = (s.tile s.cur.tile).loc

namespace Fetched

theorem refl (s : State) : Fetched s s :=
  ⟨rfl, rfl, rfl, rfl, rfl, rfl, rfl, rfl, rfl, rfl, rfl, rfl, rfl, rfl, rfl, rfl, rfl, rfl, rfl, rfl, rfl, id, id, rfl⟩

theorem trans {s t u : State} (a : Fetched s t) (b : Fetched t u) : Fetched s u :=
  ⟨b.mem.trans a.mem, b.parts.trans a.parts, b.cycle.trans a.cycle, b.chip.trans a.chip, b.cur.trans a.cur,
    b.cts.trans a.cts, b.net.trans a.net, b.ecc.trans a.ecc, b.poison.trans a.poison, b.probes.trans a.probes,
    b.fabric.trans a.fabric, b.vfs.trans a.vfs, b.regs.trans a.regs, b.run.trans a.run, b.mx.trans a.mx, b.on.trans a.on,
    b.held.trans a.held, b.log.trans a.log, b.shzLog.trans a.shzLog, b.shzPosts.trans a.shzPosts, b.vecBusy.trans a.vecBusy,
    (fun h => by rw [← a.cur]; exact b.posts (by rw [a.cur]; exact a.posts h)), (fun h => b.queue (a.queue h)), (by rw [← a.cur]; exact b.loc.trans (by rw [a.cur]; exact a.loc))⟩

theorem byte {s t : State} (h : Fetched s t) (a : Nat) : t.byte a = s.byte a := by
  simp [State.byte, State.genOf, h.mem, h.parts]

/-- The validation cache (R55). -/
theorem validated (s : State) (p : Nat) (c : Cap) : Fetched s (s.validated s.cur.tile p c) := by
  unfold State.validated
  generalize hg : (fun k : CoreSt => { k with vcache := addEntry k.vcache (s.entryFor p c) }) = g
  have h1 : ∀ k, (g k).ctxs = k.ctxs := fun k => by rw [← hg]
  have h2 : ∀ k, (g k).inj = k.inj := fun k => by rw [← hg]
  have h (u c' : Nat) := ctxAt_onCore s s.cur.tile g h1 u c'
  refine ⟨rfl, rfl, rfl, rfl, rfl, rfl, rfl, rfl, rfl, rfl, rfl, rfl, ?_, ?_, ?_, ?_, ?_, ?_, ?_, ?_, ?_,
    fun hp => (postsOf_onCore s _ g fun k => ⟨h1 k, h2 k⟩).trans hp, fun hq => (mxQueue_onCore s g h1).trans hq, ?_⟩ <;>
    first
    | (simp only [State.ctx, State.onCore_cur, h])
    | (simp [State.onCore])

/-- A speculative read's marks (R386). -/
theorem markRead (s : State) (c : Option Cap) (a n : Nat) : Fetched s (s.markRead c a n) := by
  unfold State.markRead
  split
  · split
    · refine ⟨rfl, rfl, rfl, rfl, rfl, rfl, rfl, rfl, rfl, rfl, rfl, rfl, ?_, ?_, ?_, ?_, ?_, ?_, ?_, ?_, ?_,
        fun hp => (postsOf_onCtx s _ ⟨rfl, rfl⟩).mpr hp, fun hq => (mxQueue_onCtx s _ ⟨rfl, rfl⟩).mpr hq, ?_⟩ <;>
        first
        | (simp only [State.ctx_onCtx]; done)
        | (simp [State.onCtx, State.onCtxAt])
    · exact refl s
  · exact refl s

theorem seen {s t : State} (h : Fetched s t) (a n : Nat) : t.seen a n = s.seen a n := by
  simp only [State.seen, State.logged, Context.heldWrites, h.log, h.shzLog, h.run, State.bytes, h.byte]

end Fetched

/-! ## Loads -/

theorem eccAt_clean (hc : Clean s) (a n : Nat) : s.eccAt a n = none := by
  simp [State.eccAt, hc.1, hc.2]

theorem eccCheck_clean (hc : Clean s) (a n va creg : Nat) (cap : Option Cap) (ord : Nat) :
    s.eccCheck w a n va creg cap ord = .ok s := by
  unfold State.eccCheck State.eccCorrect
  rw [eccAt_clean hc]
  simp [State.eccHits, hc.1]

theorem opBusy_none {t : Nat} (hn : s.postsOf t = []) (a n : Nat) : s.opBusy t a n = false := by
  simp [State.opBusy, hn]

theorem readBusy_none (hq : s.mxQueue = []) (a n : Nat) : s.readBusy a n = false := by
  simp [State.readBusy, hq]

theorem writeBusy_none (hq : s.mxQueue = []) (a n : Nat) : s.writeBusy a n = false := by
  simp [State.writeBusy, hq]

/-- CheckCap and Translate for an element on the chip. -/
theorem access_ok {c : CapOp} {n : Nat} {acc : Access} {k : Cap} {va : Nat} (ho : OnChip s w c n acc k va)
    (hr : s.ctx.run.rejected = []) :
    s.access w c n acc
      = .ok (s.validated s.cur.tile w.pnum k, k, (CapOp.index c s.regs * n).toNat, .phys va) := by
  obtain ⟨h1, h2, h3, h4, h5⟩ := ho
  unfold State.access
  have hres (t : State) (b o : Bool) (r : Nat) (e : Option Cap) : t.resolve w va b o r e 0 = .ok (t, .phys va) := by
    unfold State.resolve
    rw [if_neg (fun h => h.elim h3 h4), if_pos h5]
  simp only [h1, h2, hr, hres]
  rfl

theorem Fetched.unhindered {s t : State} (h : Fetched s t) (hu : Unhindered s) : Unhindered t :=
  ⟨h.queue hu.1, by rw [h.cur]; exact h.posts hu.2.1, by rw [h.run]; exact hu.2.2⟩

/-- Load(c, e, t) of R149 on the chip. -/
theorem load_ok {c : CapOp} {n : Nat} {k : Cap} {va : Nat} (ho : OnChip s w c n .read k va) (hu : Unhindered s)
    (hc : Clean s) : ∃ t, s.load w c n = .ok (t, s.seen va n) ∧ Fetched s t := by
  have hv := Fetched.validated s w.pnum k
  refine ⟨(s.validated s.cur.tile w.pnum k).markRead (some k) va n, ?_, hv.trans (Fetched.markRead _ _ _ _)⟩
  have hu' := hv.unhindered hu
  unfold State.load
  rw [access_ok ho hu.2.2]
  simp only [bind, Except.bind, readBusy_none hu'.1, waitWhile]
  rw [opBusy_none hu'.2.1, eccCheck_clean ⟨hv.ecc.trans hc.1, hv.poison.trans hc.2⟩]
  simp only [Bool.false_or, Bool.false_eq_true, if_false]
  rw [(Fetched.markRead _ _ _ _).seen, hv.seen]

/-! ## Stores -/

/-- A write performed at its home changes memory at its bytes, and beside it latent errors and probes only. -/
structure Wrote (s t : State) (a : Nat) (bs : List Byte) : Prop where
  mem : t.mem = (s.putBytes a bs).mem
  parts : t.parts = s.parts
  cycle : t.cycle = s.cycle
  chip : t.chip = s.chip
  cur : t.cur = s.cur
  tiles : t.tiles = s.tiles
  cts : t.cts = s.cts
  vfs : t.vfs = s.vfs

theorem eccWrite_wrote (s : State) (a : Nat) (bs : List Byte) (b n : Nat) : Wrote s ((s.putBytes a bs).eccWrite b n) a bs := by
  unfold State.eccWrite
  dsimp only
  split <;> exact ⟨rfl, rfl, rfl, rfl, rfl, rfl, rfl, rfl⟩

theorem sendPkt_wrote {s t : State} {a : Nat} {bs : List Byte} (h : Wrote s t a bs) (p : Packet) :
    Wrote s (t.sendPkt p) a bs := by
  unfold State.sendPkt
  split <;> exact ⟨h.mem, h.parts, h.cycle, h.chip, h.cur, h.tiles, h.cts, h.vfs⟩

theorem foldl_wrote {α : Type} {f : State → α → State} {s : State} {a : Nat} {bs : List Byte}
    (hf : ∀ t x, Wrote s t a bs → Wrote s (f t x) a bs) (l : List α) (t : State) (h : Wrote s t a bs) :
    Wrote s (l.foldl f t) a bs := by
  induction l generalizing t with
  | nil => exact h
  | cons x l ih => exact ih _ (hf t x h)

theorem probeLine_wrote {s t : State} {a : Nat} {bs : List Byte} (h : Wrote s t a bs) (n : Nat) (cap : Cap) (line : Nat) :
    Wrote s (t.probeLine n cap line) a bs := by
  unfold State.probeLine
  dsimp only
  split
  · refine foldl_wrote (fun u x hu => sendPkt_wrote hu _) _ _ ?_
    exact ⟨h.mem, h.parts, h.cycle, h.chip, h.cur, h.tiles, h.cts, h.vfs⟩
  · exact h

theorem perform_wrote (s : State) (t : Nat) (cap : Cap) (a : Nat) (bs : List Byte) : Wrote s (s.perform t cap a bs) a bs := by
  unfold State.perform
  dsimp only
  split
  · exact foldl_wrote (fun u x hu => probeLine_wrote hu _ _ _) _ _ (eccWrite_wrote s a bs _ _)
  · exact eccWrite_wrote s a bs _ _

namespace Wrote

theorem byte_outside {s t : State} {a : Nat} {bs : List Byte} (h : Wrote s t a bs) {b : Nat}
    (hb : b < a ∨ a + bs.length ≤ b) : t.byte b = s.byte b := by
  rw [← State.byte_putBytes_outside s a bs hb]
  simp [State.byte, State.genOf, h.mem, h.parts]

theorem byte_inside {s t : State} {a : Nat} {bs : List Byte} (h : Wrote s t a bs) (hw : Memory.wf s.mem = true) {i : Nat}
    (hi : i < bs.length) : t.byte (a + i) = bs[i] := by
  rw [← State.byte_putBytes_inside s hw a bs hi]
  simp [State.byte, State.genOf, h.mem, h.parts]

theorem ctxAt {s t : State} {a : Nat} {bs : List Byte} (h : Wrote s t a bs) (u c : Nat) : t.ctxAt u c = s.ctxAt u c := by
  simp [State.ctxAt, State.tile, h.tiles]

theorem ctx {s t : State} {a : Nat} {bs : List Byte} (h : Wrote s t a bs) : t.ctx = s.ctx := by
  simp [State.ctx, h.cur, h.ctxAt]

end Wrote

/-- A checked write of a task whose effects take place at once. -/
theorem writeOut_ok (hp : Prompt s) (cap : Cap) (off a : Nat) (bs : List Byte) :
    s.writeOut cap off a bs = .ok (s.perform s.cur.tile cap a bs) := by
  simp [State.writeOut, hp.1, hp.2.2.1]

theorem Fetched.prompt {s t : State} (h : Fetched s t) (hp : Prompt s) : Prompt t :=
  ⟨h.on.trans hp.1, h.held.trans hp.2.1, by
    have := hp.2.2.1
    simpa [State.shz, State.partOfTile, h.cur, h.parts] using this, h.shzPosts.trans hp.2.2.2.1, h.shzLog.trans hp.2.2.2.2⟩

/-- Store(c, e, t, val) of R149 on the chip. -/
theorem store_ok {c : CapOp} {bs : List Byte} {k : Cap} {va : Nat} (ho : OnChip s w c bs.length .write k va)
    (hu : Unhindered s) (hp : Prompt s) :
    ∃ t, Fetched s t ∧ s.store w c bs = .ok (t.perform s.cur.tile k va bs) := by
  have hv := Fetched.validated s w.pnum k
  refine ⟨s.validated s.cur.tile w.pnum k, hv, ?_⟩
  have hu' := hv.unhindered hu
  unfold State.store
  rw [access_ok ho hu.2.2]
  simp only [bind, Except.bind, writeBusy_none hu'.1, waitWhile]
  rw [opBusy_none hu'.2.1]
  simp only [Bool.false_or, Bool.false_eq_true, if_false]
  rw [writeOut_ok (hv.prompt hp), hv.cur]

end Sys2Proof.Machine
end

