-- ==== Sys2Proof/Laws/Bytes.lean ====
section
/-!
SUPPORT. Bytes of numbers, and that what the module signs and seals it accepts: a signature made with the private key verifies
(R101, R107), a blob of a partition's epoch passes the checks of R110.
-/
namespace Sys2Proof.Machine

theorem length_leBytes (n v : Nat) : (leBytes n v).length = n := by
  induction n generalizing v with
  | zero => rfl
  | succ n ih => simp [leBytes, ih]

theorem length_fixedBytes (n : Nat) (l : List Byte) : (fixedBytes n l).length = n := by simp [fixedBytes]

theorem leNat_leBytes (n v : Nat) : leNat (leBytes n v) = v % 256 ^ n := by
  induction n generalizing v with
  | zero => simp [leBytes, leNat, Nat.mod_one]
  | succ n ih =>
    have h : 256 ^ (n + 1) = 256 * 256 ^ n := by ring
    simp only [leBytes, leNat, ih, BitVec.toNat_ofNat, h, Nat.mod_mul]

/-- A signature under the private key that matches `key`, with the randomizer 0. -/
def signedBy (key msg : List Byte) : List Byte :=
  List.replicate 32 0 ++ fixedBytes 49824 (Config.slhSign key msg (List.replicate 32 0))

theorem length_signedBy (key msg : List Byte) : (signedBy key msg).length = 49856 := by
  rw [signedBy, List.length_append, List.length_replicate, length_fixedBytes]

theorem slhValid_signedBy (key msg : List Byte) : slhValid key msg (signedBy key msg) = true := by
  have t : (signedBy key msg).take 32 = List.replicate 32 0 := List.take_left' (List.length_replicate ..)
  have d : (signedBy key msg).drop 32 = fixedBytes 49824 (Config.slhSign key msg (List.replicate 32 0)) :=
    List.drop_left' (List.length_replicate ..)
  simp only [slhValid, length_signedBy, t, d, beq_self_eq_true, Bool.and_self]

theorem length_blobHeader (p : Part) (rel : Bool) : (blobHeader p rel).length = 4096 := by
  simp only [blobHeader, List.length_append, length_leBytes, length_fixedBytes, List.length_replicate]

/-- The parts of a blob. -/
theorem blob_parts {h b t : List Byte} {n : Nat} (hh : h.length = 4096) (hb : b.length = n - 4112) (ht : t.length = 16)
    (hn : 4112 ≤ n) : (h ++ b ++ t).take 4096 = h ∧ ((h ++ b ++ t).take (n - 16)).drop 4096 = b
      ∧ ((h ++ b ++ t).take n).drop (n - 16) = t := by
  have hhb : (h ++ b).length = n - 16 := by rw [List.length_append, hh, hb]; omega
  refine ⟨?_, ?_, ?_⟩
  · rw [List.append_assoc]; exact List.take_left' hh
  · rw [List.take_left' hhb]; exact List.drop_left' hh
  · rw [List.take_of_length_le (by rw [List.length_append, hhb, ht]; omega)]; exact List.drop_left' hhb

/-- R109, R110: the blob of a partition passes the module's checks while the partition's epoch stands. -/
theorem blobOk_blobBytes (p : Part) (x : Sealed) (he : p.epoch < 2 ^ 32) :
    blobOk p (blobBytes p x p.relHbm) (p.prec.blobLen p.relHbm) = true := by
  have hn : 4112 ≤ p.prec.blobLen p.relHbm := by simp only [PartRec.blobLen]; omega
  have h8 : leNat (((blobHeader p p.relHbm).drop 8).take 8) = p.handle.toNat :=
    (leNat_leBytes 8 p.handle.toNat).trans (Nat.mod_eq_of_lt p.handle.isLt)
  have h16 : leNat (((blobHeader p p.relHbm).drop 16).take 4) = p.epoch :=
    (leNat_leBytes 4 p.epoch).trans (Nat.mod_eq_of_lt he)
  have h36 : ((blobHeader p p.relHbm).drop 36).take 32 = fixedBytes 32 (Config.shake256 Config.identityKey 32) :=
    List.take_left' (l₂ := List.replicate (4096 - 68) 0) (length_fixedBytes _ _)
  obtain ⟨t1, t2, t3⟩ := blob_parts (n := p.prec.blobLen p.relHbm) (length_blobHeader p p.relHbm)
    (show (blobBody (blobKey p.handle p.epoch) x p.relHbm (p.prec.blobLen p.relHbm - 4112)).length = _ by simp [blobBody, upto])
    (length_fixedBytes 16 (Config.gcmTag (blobKey p.handle p.epoch) (blobHeader p p.relHbm)
      (blobBody (blobKey p.handle p.epoch) x p.relHbm (p.prec.blobLen p.relHbm - 4112)))) hn
  simp only [blobOk, blobBytes, blobTag, t1, t2, t3, h8, h16, h36, word, BitVec.ofNat_toNat, BitVec.setWidth_eq,
    beq_self_eq_true, Bool.and_self]

end Sys2Proof.Machine
end

