-- ==== Sys2Proof/Laws/Encoding.lean ====
section
/-!
SUPPORT. Laws of the encoding: the fields of a word are read back, and so is each operand form.
-/

namespace Sys2Proof

/-! ## The word -/

theorem field_lt (v lo n : Nat) : field v lo n < 2 ^ n := Nat.mod_lt _ (Nat.two_pow_pos n)

/-- A field that stands `lo` bits up is read below a higher part. -/
theorem field_mul_add {lo n x y : Nat} (hx : x < 2 ^ lo) : field (x + 2 ^ lo * y) lo n = y % 2 ^ n := by
  unfold field
  rw [Nat.add_mul_div_left _ _ (Nat.two_pow_pos lo), Nat.div_eq_of_lt hx, Nat.zero_add]

/-- The fields of a word are those it was made of. -/
theorem Raw.ofWord_word (r : Raw) (ho : r.opc < 2 ^ 10) (ht : r.t < 2 ^ 4) (hg : r.g < 2 ^ 4) (hh : r.h < 2 ^ 6)
    (hd : r.d < 2 ^ 24) (ha : r.a < 2 ^ 24) (hb : r.b < 2 ^ 24) : Raw.ofWord r.word = r := by
  obtain ⟨opc, t, g, h, d, a, b⟩ := r
  simp only at *
  simp only [Raw.ofWord, Raw.word, field, Raw.mk.injEq]
  refine ⟨?_, ?_, ?_, ?_, ?_, ?_, ?_⟩ <;> omega

theorem Raw.word_lt (r : Raw) (ho : r.opc < 2 ^ 10) (ht : r.t < 2 ^ 4) (hg : r.g < 2 ^ 4) (hh : r.h < 2 ^ 6)
    (hd : r.d < 2 ^ 24) (ha : r.a < 2 ^ 24) (hb : r.b < 2 ^ 24) : r.word < 2 ^ 96 := by
  obtain ⟨opc, t, g, h, d, a, b⟩ := r
  simp only at *
  simp only [Raw.word]
  omega

/-! ## Guard and hint bits -/

theorem boolNat_lt (b : Bool) : boolNat b < 2 := by cases b <;> decide

theorem Hint.bits_lt (h : Hint) : h.bits < 2 ^ 6 := by
  have := boolNat_lt h.sat; have := boolNat_lt h.last; have := h.rnd.isLt; have := h.stag.isLt
  unfold Hint.bits; omega

theorem Hint.bitsWith_lt (h : Hint) {c : Nat} (hc : c < 8) : h.bitsWith c < 2 ^ 6 := by
  have := boolNat_lt h.last; have := h.stag.isLt
  unfold Hint.bitsWith; omega

/-- The hint bits are read back. -/
theorem Raw.hint_bits (h : Hint) (o t d a b : Nat) : Raw.hint ⟨o, t, h.g.toNat, h.bits, d, a, b⟩ = h := by
  obtain ⟨g, s, r, l, st⟩ := h
  have hr := r.isLt; have hs := st.isLt
  simp only [Raw.hint, Hint.bits, Hint.mk.injEq]
  refine ⟨by simp, ?_, ?_, ?_, ?_⟩
  · cases s <;> cases l <;> simp [boolNat] <;> omega
  · apply BitVec.eq_of_toNat_eq; cases s <;> cases l <;> simp [boolNat] <;> omega
  · cases s <;> cases l <;> simp [boolNat] <;> omega
  · apply BitVec.eq_of_toNat_eq; cases s <;> cases l <;> simp [boolNat] <;> omega

/-- The guard, LAST and STAG are read back where bits [77:75] hold something else. -/
theorem Raw.hintGuard_bitsWith (h : Hint) (c o t d a b : Nat) (hs : h.sat = false) (hr : h.rnd = 0) :
    Raw.hintGuard ⟨o, t, h.g.toNat, h.bitsWith c, d, a, b⟩ = h := by
  obtain ⟨g, s, r, l, st⟩ := h
  simp only at hs hr
  subst hs; subst hr
  have := st.isLt
  simp only [Raw.hintGuard, Hint.bitsWith, Hint.mk.injEq]
  refine ⟨by simp, trivial, trivial, ?_, ?_⟩
  · cases l <;> simp [boolNat] <;> omega
  · apply BitVec.eq_of_toNat_eq; cases l <;> simp [boolNat] <;> omega

theorem Hint.bitsWith_top (h : Hint) (c : Nat) : h.bitsWith c / 8 = c := by
  have := boolNat_lt h.last; have := h.stag.isLt
  unfold Hint.bitsWith; omega

/-! ## Operand fields -/

theorem encReg_lt (r : Reg) : encReg r < 32 := r.isLt
@[simp] theorem decReg_encReg (r : Reg) : decReg (encReg r) = some r := by
  have := r.isLt
  unfold decReg encReg
  rw [if_pos (by omega)]
  simp

theorem encImm_lt (v : Imm) : encImm v < 2 ^ 24 := by have := v.isLt; unfold encImm; omega
@[simp] theorem decImm_encImm (v : Imm) : decImm (encImm v) = some v := by
  have h := v.isLt
  unfold decImm encImm
  rw [if_pos (by omega)]
  congr 1
  apply BitVec.eq_of_toNat_eq
  simp only [BitVec.toNat_ofNat]
  omega
@[simp] theorem decReg_encImm (v : Imm) : decReg (encImm v) = none := by
  unfold decReg encImm; rw [if_neg (by omega)]
@[simp] theorem decImm_encReg (r : Reg) : decImm (encReg r) = none := by
  have := r.isLt
  unfold decImm encReg; rw [if_neg (by omega)]
@[simp] theorem decImm_zero : decImm 0 = none := rfl

theorem encRing_lt (r : RingOp) : encRing r < 2 ^ 24 := by
  have := r.count.isLt; have := r.h.isLt; unfold encRing; omega
@[simp] theorem decRing_encRing (r : RingOp) : decRing (encRing r) = some r := by
  obtain ⟨c, h⟩ := r
  have hc := c.isLt; have hh := h.isLt
  unfold decRing encRing
  rw [if_pos (by simp only; omega)]
  congr 1
  simp only [RingOp.mk.injEq]
  constructor <;> apply BitVec.eq_of_toNat_eq <;> simp only [BitVec.toNat_ofNat] <;> omega

theorem encView_lt (v : Vreg) : encView v < 2 ^ 24 := by have := v.isLt; unfold encView; omega
@[simp] theorem decView_encView (v : Vreg) : decView (encView v) = some v := by
  have h := v.isLt
  unfold decView encView
  rw [if_pos (by omega)]
  congr 1
  apply BitVec.eq_of_toNat_eq
  simp only [BitVec.toNat_ofNat]
  omega
@[simp] theorem decView_encReg (r : Reg) : decView (encReg r) = none := by
  have := r.isLt
  unfold decView encReg; rw [if_neg (by omega)]
@[simp] theorem decView_encImm (v : Imm) : decView (encImm v) = none := by
  have := v.isLt
  unfold decView encImm; rw [if_neg (by omega)]

theorem encCap_lt (c : CapOp) : encCap c < 2 ^ 24 := by
  have := c.off.isLt; have := c.idx.isLt; have := c.c.isLt; unfold encCap; omega
@[simp] theorem decCap_encCap (c : CapOp) : decCap (encCap c) = some c := by
  obtain ⟨o, i, c⟩ := c
  have ho := o.isLt; have hi := i.isLt; have hc := c.isLt
  unfold decCap encCap
  rw [if_pos (by simp only; omega)]
  congr 1
  simp only [CapOp.mk.injEq]
  refine ⟨?_, ?_, ?_⟩ <;> apply BitVec.eq_of_toNat_eq <;> simp only [BitVec.toNat_ofNat] <;> omega
@[simp] theorem decCap_encImm (v : Imm) : decCap (encImm v) = none := by
  have := v.isLt
  unfold decCap encImm; rw [if_neg (by omega)]
@[simp] theorem decCap_encReg (r : Reg) : decCap (encReg r) = none := by
  have := r.isLt
  unfold decCap encReg; rw [if_neg (by omega)]
@[simp] theorem decReg_encCap (c : CapOp) : decReg (encCap c) = none := by
  unfold decReg encCap; rw [if_neg (by omega)]
@[simp] theorem decImm_encCap (c : CapOp) : decImm (encCap c) = none := by
  have := c.off.isLt; have := c.idx.isLt; have := c.c.isLt
  unfold decImm encCap; rw [if_neg (by omega)]
@[simp] theorem decView_encCap (c : CapOp) : decView (encCap c) = none := by
  have := c.off.isLt; have := c.idx.isLt; have := c.c.isLt
  unfold decView encCap; rw [if_neg (by omega)]
@[simp] theorem decCap_encView (v : Vreg) : decCap (encView v) = none := by
  have := v.isLt
  unfold decCap encView; rw [if_neg (by omega)]
@[simp] theorem decReg_encView (v : Vreg) : decReg (encView v) = none := by
  unfold decReg encView; rw [if_neg (by omega)]
@[simp] theorem decImm_encView (v : Vreg) : decImm (encView v) = none := by
  have := v.isLt
  unfold decImm encView; rw [if_neg (by omega)]
@[simp] theorem decCap_encRing (r : RingOp) : decCap (encRing r) = none := by
  have := r.count.isLt; have := r.h.isLt
  unfold decCap encRing; rw [if_neg (by omega)]
@[simp] theorem decReg_encRing (r : RingOp) : decReg (encRing r) = none := by
  unfold decReg encRing; rw [if_neg (by omega)]
@[simp] theorem decImm_encRing (r : RingOp) : decImm (encRing r) = none := by
  have := r.count.isLt; have := r.h.isLt
  unfold decImm encRing; rw [if_neg (by omega)]
@[simp] theorem decRing_encReg (r : Reg) : decRing (encReg r) = none := by
  have := r.isLt
  unfold decRing encReg; rw [if_neg (by omega)]
@[simp] theorem decRing_encImm (v : Imm) : decRing (encImm v) = none := by
  have := v.isLt
  unfold decRing encImm; rw [if_neg (by omega)]
@[simp] theorem decRing_encCap (c : CapOp) : decRing (encCap c) = none := by
  have := c.off.isLt; have := c.idx.isLt; have := c.c.isLt
  unfold decRing encCap; rw [if_neg (by omega)]

theorem encPred_lt (p : Preg) : encPred p < 2 ^ 24 := by have := p.isLt; unfold encPred; omega
@[simp] theorem decPred_encPred (p : Preg) : decPred (encPred p) = some p := by
  have h := p.isLt
  unfold decPred encPred
  rw [if_pos (by omega)]
  congr 1
  apply BitVec.eq_of_toNat_eq
  simp only [BitVec.toNat_ofNat]
  omega

theorem SReg.code_lt (s : SReg) : s.code < 2 ^ 8 := by cases s <;> decide
theorem SReg.ofCode_code (s : SReg) : SReg.ofCode s.code = some s := by cases s <;> rfl
theorem encSReg_lt (s : SReg) : encSReg s < 2 ^ 24 := by have := s.code_lt; unfold encSReg; omega
@[simp] theorem decSReg_encSReg (s : SReg) : decSReg (encSReg s) = some s := by
  have h := s.code_lt
  unfold decSReg encSReg
  rw [if_pos (by omega), show (7 * 2 ^ 21 + s.code) % 2 ^ 8 = s.code by omega]
  exact s.ofCode_code

theorem encLand_lt (y : Yreg) : encLand y < 2 ^ 24 := by have := y.isLt; unfold encLand; omega
@[simp] theorem decLand_encLand (y : Yreg) : decLand (encLand y) = some y := by
  have h := y.isLt
  unfold decLand encLand
  rw [if_pos (by omega)]
  congr 1
  apply BitVec.eq_of_toNat_eq
  simp only [BitVec.toNat_ofNat]
  omega
@[simp] theorem decReg_encLand (y : Yreg) : decReg (encLand y) = none := by
  unfold decReg encLand; rw [if_neg (by omega)]
@[simp] theorem decImm_encLand (y : Yreg) : decImm (encLand y) = none := by
  have := y.isLt
  unfold decImm encLand; rw [if_neg (by omega)]
@[simp] theorem decLand_encReg (r : Reg) : decLand (encReg r) = none := by
  have := r.isLt
  unfold decLand encReg; rw [if_neg (by omega)]
@[simp] theorem decLand_encImm (v : Imm) : decLand (encImm v) = none := by
  have := v.isLt
  unfold decLand encImm; rw [if_neg (by omega)]

theorem encAcc_lt (m : Mreg) : encAcc m < 2 ^ 24 := by have := m.isLt; unfold encAcc; omega
@[simp] theorem decAcc_encAcc (m : Mreg) : decAcc (encAcc m) = some m := by
  have h := m.isLt
  unfold decAcc encAcc
  rw [if_pos (by omega)]
  congr 1
  apply BitVec.eq_of_toNat_eq
  simp only [BitVec.toNat_ofNat]
  omega

theorem encRemote_lt (x : Reg) (n : Yreg) : encRemote x n < 2 ^ 24 := by
  have := x.isLt; have := n.isLt; unfold encRemote; omega
@[simp] theorem decRemote_encRemote (x : Reg) (n : Yreg) : decRemote (encRemote x n) = some (x, n) := by
  have hx := x.isLt; have hn := n.isLt
  unfold decRemote encRemote
  rw [if_pos (by omega)]
  congr 1
  simp only [Prod.mk.injEq]
  constructor <;> apply BitVec.eq_of_toNat_eq <;> simp only [BitVec.toNat_ofNat] <;> omega
@[simp] theorem decRemote_encLand (y : Yreg) : decRemote (encLand y) = none := by
  have := y.isLt
  unfold decRemote encLand; rw [if_neg (by omega)]
@[simp] theorem decRemote_encRing (r : RingOp) : decRemote (encRing r) = none := by
  have := r.count.isLt; have := r.h.isLt
  unfold decRemote encRing; rw [if_neg (by omega)]
@[simp] theorem decLand_encRing (r : RingOp) : decLand (encRing r) = none := by
  have := r.count.isLt; have := r.h.isLt
  unfold decLand encRing; rw [if_neg (by omega)]

/-! ## Fields of several forms -/

theorem encRegImm_lt (b : RegImm) : encRegImm b < 2 ^ 24 := by
  cases b with
  | reg r => have := encReg_lt r; simp only [encRegImm]; omega
  | imm v => exact encImm_lt v
@[simp] theorem decRegImm_encRegImm (b : RegImm) : decRegImm (encRegImm b) = some b := by
  cases b <;> simp [decRegImm, encRegImm]

@[simp] theorem decCap_zero : decCap 0 = none := rfl
@[simp] theorem decCap_encRegImm (b : RegImm) : decCap (encRegImm b) = none := by cases b <;> simp [encRegImm]
@[simp] theorem decRegImm_encCap (c : CapOp) : decRegImm (encCap c) = none := by simp [decRegImm]
@[simp] theorem decRegImm_encLand (y : Yreg) : decRegImm (encLand y) = none := by simp [decRegImm]

theorem encSrc_lt (b : Src) : encSrc b < 2 ^ 24 := by
  cases b with
  | view v => exact encView_lt v
  | reg r => have := encReg_lt r; simp only [encSrc]; omega
  | imm v => exact encImm_lt v
@[simp] theorem decSrc_encSrc (b : Src) : decSrc (encSrc b) = some b := by
  cases b <;> simp [decSrc, encSrc]

theorem encViewReg_lt (b : ViewReg) : encViewReg b < 2 ^ 24 := by
  cases b with
  | view v => exact encView_lt v
  | reg r => have := encReg_lt r; simp only [encViewReg]; omega
@[simp] theorem decViewReg_encViewReg (b : ViewReg) : decViewReg (encViewReg b) = some b := by
  cases b <;> simp [decViewReg, encViewReg]

theorem encCapImm_lt (b : CapImm) : encCapImm b < 2 ^ 24 := by
  cases b with
  | cap c => exact encCap_lt c
  | imm v => exact encImm_lt v
@[simp] theorem decCapImm_encCapImm (b : CapImm) : decCapImm (encCapImm b) = some b := by
  cases b <;> simp [decCapImm, encCapImm]

theorem encOptCap_lt (b : Option CapOp) : encOptCap b < 2 ^ 24 := by
  cases b with
  | some c => exact encCap_lt c
  | none => simp [encOptCap]
@[simp] theorem decOptCap_encOptCap (b : Option CapOp) : decOptCap (encOptCap b) = some b := by
  cases b with
  | none => rfl
  | some c =>
    have h : encCap c ≠ 0 := by unfold encCap; omega
    simp only [decOptCap, encOptCap, h, if_false, decCap_encCap, Option.map_some]

theorem encOptImm_lt (b : Option Imm) : encOptImm b < 2 ^ 24 := by
  cases b with
  | some c => exact encImm_lt c
  | none => simp [encOptImm]
@[simp] theorem decOptImm_encOptImm (b : Option Imm) : decOptImm (encOptImm b) = some b := by
  cases b with
  | none => rfl
  | some c =>
    have h : encImm c ≠ 0 := by unfold encImm; omega
    simp only [decOptImm, encOptImm, h, if_false, decImm_encImm, Option.map_some]

theorem encLandDest_lt (b : LandDest) : encLandDest b < 2 ^ 24 := by
  cases b with
  | remote x n => exact encRemote_lt x n
  | land n => exact encLand_lt n
@[simp] theorem decLandDest_encLandDest (b : LandDest) : decLandDest (encLandDest b) = some b := by
  cases b <;> simp [decLandDest, encLandDest]

theorem encCollDest_lt (b : CollDest) : encCollDest b < 2 ^ 24 := by
  cases b with
  | remote x n => exact encRemote_lt x n
  | land n => exact encLand_lt n
  | ring r => exact encRing_lt r
@[simp] theorem decCollDest_encCollDest (b : CollDest) : decCollDest (encCollDest b) = some b := by
  cases b <;> simp [decCollDest, encCollDest]

/-! ## Codes -/

theorem Ty.code_lt (t : Ty) : t.code < 2 ^ 4 := by cases t <;> decide
@[simp] theorem Ty.ofCode_code (t : Ty) : Ty.ofCode t.code = t := by cases t <;> rfl
theorem Cond.code_lt (c : Cond) : c.code < 8 := by cases c <;> decide
@[simp] theorem Cond.ofCode_code (c : Cond) : Cond.ofCode c.code = c := by cases c <;> rfl
theorem decPolicy_code (p : Policy) : decPolicy (2 * p.code) = some p := by cases p <;> rfl
theorem Policy.code_lt (p : Policy) : 2 * p.code < 8 := by cases p <;> decide
@[simp] theorem ofNat_toNat_four (n : BitVec 4) : BitVec.ofNat 4 n.toNat = n := by simp
@[simp] theorem ofNat_toNat_three (n : BitVec 3) : BitVec.ofNat 3 n.toNat = n := by simp

end Sys2Proof
end

