-- ==== Sys2Proof/Laws/PerInstr.lean ====
section
/-!
SUPPORT. The per-instruction family of LAWS.json: decoding the word of a well-formed instruction gives the instruction back
(R131 to R143). Events and the hart's other instructions have no word of the spec's tables.
-/

namespace Sys2Proof.Laws
set_option Elab.async false

/-- Decoding the word that the encoder gives a well-formed instruction gives the instruction back. -/
def RoundTrip.Statement (i : Instr) : Prop :=
  i.wellFormed = true → ∀ c, encode i = some c → decodeTableWord c.nbits c.w = some i

/-- An instruction whose fields fit their places and are read back. -/
theorem roundTrip_of_raw {i : Instr} {r : Raw} (hr : i.raw? = some r) (ho : r.opc < 2 ^ 10) (ht : r.t < 2 ^ 4)
    (hg : r.g < 2 ^ 4) (hh : r.h < 2 ^ 6) (hd : r.d < 2 ^ 24) (ha : r.a < 2 ^ 24) (hb : r.b < 2 ^ 24)
    (hi : i.wellFormed = true → decodeRaw r = some i) : RoundTrip.Statement i := by
  intro hw c hc
  have hi := hi hw
  simp only [Instr.wellFormed, Bool.and_eq_true] at hw
  obtain ⟨⟨⟨h1, h2⟩, h3⟩, h4⟩ := hw
  simp only [encode, hr, Option.some.injEq] at hc
  subst hc
  have hlt := Raw.word_lt r ho ht hg hh hd ha hb
  simp only [decodeTableWord, Nat.mod_eq_of_lt hlt, decode, Raw.ofWord_word r ho ht hg hh hd ha hb, hi, h1, h2, h3, h4]
  simp

/-- An instruction without a word. -/
theorem roundTrip_of_none {i : Instr} (h : encode i = none) : RoundTrip.Statement i := fun _ c hc => by
  rw [h] at hc; exact nomatch hc

theorem encReg_lt24 (r : Reg) : encReg r < 2 ^ 24 := Nat.lt_trans (encReg_lt r) (by decide)

/-- The fields of an Xgnmv word (Table 7.6). -/
theorem roundTrip_of_mv {i : Instr} {f3 : Nat} {rd rs1 rs2 : Reg} (hf : f3 < 8) (hr : i.raw? = none)
    (hm : i.mvWord? = some (mvWord f3 rd rs1 rs2))
    (hi : ∀ w, field w 0 7 = 0x0B → field w 25 7 = 0 → field w 12 3 = f3 → BitVec.ofNat 5 (w / 2 ^ 7) = rd →
      BitVec.ofNat 5 (w / 2 ^ 15) = rs1 → BitVec.ofNat 5 (w / 2 ^ 20) = rs2 → decodeMv w = some i) :
    RoundTrip.Statement i := by
  intro _ c hc
  simp only [encode, hr, hm, Option.some.injEq] at hc
  subst hc
  have h1 := rd.isLt
  have h2 := rs1.isLt
  have h3 := rs2.isLt
  have hlt : mvWord f3 rd rs1 rs2 < 2 ^ 32 := by unfold mvWord; omega
  have hl : stewardLength (mvWord f3 rd rs1 rs2) = 4 := by
    unfold stewardLength
    rw [if_pos (by unfold field mvWord; omega)]
  have hmv : decodeMv (mvWord f3 rd rs1 rs2) = some i := by
    refine hi _ ?_ ?_ ?_ ?_ ?_ ?_
    · unfold field mvWord; omega
    · unfold field mvWord; omega
    · unfold field mvWord; omega
    all_goals
      apply BitVec.eq_of_toNat_eq
      simp only [BitVec.toNat_ofNat, mvWord]
      omega
  simp only [decodeTableWord, Nat.mod_eq_of_lt hlt, decodeSteward, hl, hmv]
  cases i <;> first | rfl | simp [Instr.mvWord?] at hm


theorem RoundTrip.nop (h : Hint) : RoundTrip.Statement (.nop h) :=
  roundTrip_of_raw rfl (by show (0x000 : Nat) < _; decide) (by show (0 : Nat) < _; decide) h.g.isLt h.bits_lt
    (by show (0 : Nat) < _; decide) (by show (0 : Nat) < _; decide) (by show (0 : Nat) < _; decide)
    (fun _ => by simp [decodeRaw, decodeClass0, Raw.hint_bits])
theorem RoundTrip.br (h : Hint) (b : Imm) : RoundTrip.Statement (.br h b) :=
  roundTrip_of_raw rfl (by show (0x001 : Nat) < _; decide) (by show (0 : Nat) < _; decide) h.g.isLt h.bits_lt
    (by show (0 : Nat) < _; decide) (by show (0 : Nat) < _; decide) (encImm_lt b)
    (fun _ => by simp [decodeRaw, decodeClass0, Raw.hint_bits])
theorem RoundTrip.bri (h : Hint) (a : Reg) : RoundTrip.Statement (.bri h a) :=
  roundTrip_of_raw rfl (by show (0x002 : Nat) < _; decide) (by show (0 : Nat) < _; decide) h.g.isLt h.bits_lt
    (by show (0 : Nat) < _; decide) (encReg_lt24 a) (by show (0 : Nat) < _; decide)
    (fun _ => by simp [decodeRaw, decodeClass0, Raw.hint_bits])
theorem RoundTrip.call (h : Hint) (b : RegImm) : RoundTrip.Statement (.call h b) :=
  roundTrip_of_raw rfl (by show (0x003 : Nat) < _; decide) (by show (0 : Nat) < _; decide) h.g.isLt h.bits_lt
    (by show (0 : Nat) < _; decide) (by show (0 : Nat) < _; decide) (encRegImm_lt b)
    (fun _ => by simp [decodeRaw, decodeClass0, Raw.hint_bits])
theorem RoundTrip.ret (h : Hint) : RoundTrip.Statement (.ret h) :=
  roundTrip_of_raw rfl (by show (0x004 : Nat) < _; decide) (by show (0 : Nat) < _; decide) h.g.isLt h.bits_lt
    (by show (0 : Nat) < _; decide) (by show (0 : Nat) < _; decide) (by show (0 : Nat) < _; decide)
    (fun _ => by simp [decodeRaw, decodeClass0, Raw.hint_bits])
theorem RoundTrip.loop (h : Hint) (a : Reg) (b : Imm) : RoundTrip.Statement (.loop h a b) :=
  roundTrip_of_raw rfl (by show (0x005 : Nat) < _; decide) (by show (0 : Nat) < _; decide) h.g.isLt h.bits_lt
    (by show (0 : Nat) < _; decide) (encReg_lt24 a) (encImm_lt b)
    (fun _ => by simp [decodeRaw, decodeClass0, Raw.hint_bits])
theorem RoundTrip.endTask (h : Hint) : RoundTrip.Statement (.endTask h) :=
  roundTrip_of_raw rfl (by show (0x006 : Nat) < _; decide) (by show (0 : Nat) < _; decide) h.g.isLt h.bits_lt
    (by show (0 : Nat) < _; decide) (by show (0 : Nat) < _; decide) (by show (0 : Nat) < _; decide)
    (fun _ => by simp [decodeRaw, decodeClass0, Raw.hint_bits])
theorem RoundTrip.endc (h : Hint) (d : Imm) (a : Reg) (b : RegImm) : RoundTrip.Statement (.endc h d a b) :=
  roundTrip_of_raw rfl (by show (0x007 : Nat) < _; decide) (by show (0 : Nat) < _; decide) h.g.isLt h.bits_lt
    (encImm_lt d) (encReg_lt24 a) (encRegImm_lt b)
    (fun _ => by simp [decodeRaw, decodeClass0, Raw.hint_bits])
theorem RoundTrip.trap (h : Hint) (b : Imm) : RoundTrip.Statement (.trap h b) :=
  roundTrip_of_raw rfl (by show (0x008 : Nat) < _; decide) (by show (0 : Nat) < _; decide) h.g.isLt h.bits_lt
    (by show (0 : Nat) < _; decide) (by show (0 : Nat) < _; decide) (encImm_lt b)
    (fun _ => by simp [decodeRaw, decodeClass0, Raw.hint_bits])
theorem RoundTrip.brk (h : Hint) (b : Imm) : RoundTrip.Statement (.brk h b) :=
  roundTrip_of_raw rfl (by show (0x009 : Nat) < _; decide) (by show (0 : Nat) < _; decide) h.g.isLt h.bits_lt
    (by show (0 : Nat) < _; decide) (by show (0 : Nat) < _; decide) (encImm_lt b)
    (fun _ => by simp [decodeRaw, decodeClass0, Raw.hint_bits])
theorem RoundTrip.gets (h : Hint) (d : Reg) (a : SReg) : RoundTrip.Statement (.gets h d a) :=
  roundTrip_of_raw rfl (by show (0x00A : Nat) < _; decide) (by show (0 : Nat) < _; decide) h.g.isLt h.bits_lt
    (encReg_lt24 d) (encSReg_lt a) (by show (0 : Nat) < _; decide)
    (fun _ => by simp [decodeRaw, decodeClass0, Raw.hint_bits])
theorem RoundTrip.sets (h : Hint) (d : SReg) (a : RegImm) : RoundTrip.Statement (.sets h d a) :=
  roundTrip_of_raw rfl (by show (0x00B : Nat) < _; decide) (by show (0 : Nat) < _; decide) h.g.isLt h.bits_lt
    (encSReg_lt d) (encRegImm_lt a) (by show (0 : Nat) < _; decide)
    (fun _ => by simp [decodeRaw, decodeClass0, Raw.hint_bits])
theorem RoundTrip.tlbi (h : Hint) (d : Reg) (a : Reg) (b : Reg) : RoundTrip.Statement (.tlbi h d a b) :=
  roundTrip_of_raw rfl (by show (0x00C : Nat) < _; decide) (by show (0 : Nat) < _; decide) h.g.isLt h.bits_lt
    (encReg_lt24 d) (encReg_lt24 a) (encReg_lt24 b)
    (fun _ => by simp [decodeRaw, decodeClass0, Raw.hint_bits])
theorem RoundTrip.eret (h : Hint) (b : Imm) : RoundTrip.Statement (.eret h b) :=
  roundTrip_of_raw rfl (by show (0x00D : Nat) < _; decide) (by show (0 : Nat) < _; decide) h.g.isLt h.bits_lt
    (by show (0 : Nat) < _; decide) (by show (0 : Nat) < _; decide) (encImm_lt b)
    (fun _ => by simp [decodeRaw, decodeClass0, Raw.hint_bits])
theorem RoundTrip.wdog (h : Hint) (b : RegImm) : RoundTrip.Statement (.wdog h b) :=
  roundTrip_of_raw rfl (by show (0x00E : Nat) < _; decide) (by show (0 : Nat) < _; decide) h.g.isLt h.bits_lt
    (by show (0 : Nat) < _; decide) (by show (0 : Nat) < _; decide) (encRegImm_lt b)
    (fun _ => by simp [decodeRaw, decodeClass0, Raw.hint_bits])
theorem RoundTrip.halt (h : Hint) : RoundTrip.Statement (.halt h) :=
  roundTrip_of_raw rfl (by show (0x00F : Nat) < _; decide) (by show (0 : Nat) < _; decide) h.g.isLt h.bits_lt
    (by show (0 : Nat) < _; decide) (by show (0 : Nat) < _; decide) (by show (0 : Nat) < _; decide)
    (fun _ => by simp [decodeRaw, decodeClass0, Raw.hint_bits])
theorem RoundTrip.add (h : Hint) (t : Ty) (d : Reg) (a : Reg) (b : RegImm) : RoundTrip.Statement (.add h t d a b) :=
  roundTrip_of_raw rfl (by show (0x040 : Nat) < _; decide) t.code_lt h.g.isLt h.bits_lt (encReg_lt24 d)
    (encReg_lt24 a) (encRegImm_lt b)
    (fun _ => by simp [decodeRaw, decodeClass1, Raw.hint_bits])
theorem RoundTrip.sub (h : Hint) (t : Ty) (d : Reg) (a : Reg) (b : RegImm) : RoundTrip.Statement (.sub h t d a b) :=
  roundTrip_of_raw rfl (by show (0x041 : Nat) < _; decide) t.code_lt h.g.isLt h.bits_lt (encReg_lt24 d)
    (encReg_lt24 a) (encRegImm_lt b)
    (fun _ => by simp [decodeRaw, decodeClass1, Raw.hint_bits])
theorem RoundTrip.mul (h : Hint) (t : Ty) (d : Reg) (a : Reg) (b : RegImm) : RoundTrip.Statement (.mul h t d a b) :=
  roundTrip_of_raw rfl (by show (0x042 : Nat) < _; decide) t.code_lt h.g.isLt h.bits_lt (encReg_lt24 d)
    (encReg_lt24 a) (encRegImm_lt b)
    (fun _ => by simp [decodeRaw, decodeClass1, Raw.hint_bits])
theorem RoundTrip.mulh (h : Hint) (t : Ty) (d : Reg) (a : Reg) (b : RegImm) : RoundTrip.Statement (.mulh h t d a b) :=
  roundTrip_of_raw rfl (by show (0x043 : Nat) < _; decide) t.code_lt h.g.isLt h.bits_lt (encReg_lt24 d)
    (encReg_lt24 a) (encRegImm_lt b)
    (fun _ => by simp [decodeRaw, decodeClass1, Raw.hint_bits])
theorem RoundTrip.div (h : Hint) (t : Ty) (d : Reg) (a : Reg) (b : RegImm) : RoundTrip.Statement (.div h t d a b) :=
  roundTrip_of_raw rfl (by show (0x044 : Nat) < _; decide) t.code_lt h.g.isLt h.bits_lt (encReg_lt24 d)
    (encReg_lt24 a) (encRegImm_lt b)
    (fun _ => by simp [decodeRaw, decodeClass1, Raw.hint_bits])
theorem RoundTrip.rem (h : Hint) (t : Ty) (d : Reg) (a : Reg) (b : RegImm) : RoundTrip.Statement (.rem h t d a b) :=
  roundTrip_of_raw rfl (by show (0x045 : Nat) < _; decide) t.code_lt h.g.isLt h.bits_lt (encReg_lt24 d)
    (encReg_lt24 a) (encRegImm_lt b)
    (fun _ => by simp [decodeRaw, decodeClass1, Raw.hint_bits])
theorem RoundTrip.and (h : Hint) (t : Ty) (d : Reg) (a : Reg) (b : RegImm) : RoundTrip.Statement (.and h t d a b) :=
  roundTrip_of_raw rfl (by show (0x046 : Nat) < _; decide) t.code_lt h.g.isLt h.bits_lt (encReg_lt24 d)
    (encReg_lt24 a) (encRegImm_lt b)
    (fun _ => by simp [decodeRaw, decodeClass1, Raw.hint_bits])
theorem RoundTrip.or (h : Hint) (t : Ty) (d : Reg) (a : Reg) (b : RegImm) : RoundTrip.Statement (.or h t d a b) :=
  roundTrip_of_raw rfl (by show (0x047 : Nat) < _; decide) t.code_lt h.g.isLt h.bits_lt (encReg_lt24 d)
    (encReg_lt24 a) (encRegImm_lt b)
    (fun _ => by simp [decodeRaw, decodeClass1, Raw.hint_bits])
theorem RoundTrip.xor (h : Hint) (t : Ty) (d : Reg) (a : Reg) (b : RegImm) : RoundTrip.Statement (.xor h t d a b) :=
  roundTrip_of_raw rfl (by show (0x048 : Nat) < _; decide) t.code_lt h.g.isLt h.bits_lt (encReg_lt24 d)
    (encReg_lt24 a) (encRegImm_lt b)
    (fun _ => by simp [decodeRaw, decodeClass1, Raw.hint_bits])
theorem RoundTrip.andn (h : Hint) (t : Ty) (d : Reg) (a : Reg) (b : RegImm) : RoundTrip.Statement (.andn h t d a b) :=
  roundTrip_of_raw rfl (by show (0x049 : Nat) < _; decide) t.code_lt h.g.isLt h.bits_lt (encReg_lt24 d)
    (encReg_lt24 a) (encRegImm_lt b)
    (fun _ => by simp [decodeRaw, decodeClass1, Raw.hint_bits])
theorem RoundTrip.shl (h : Hint) (t : Ty) (d : Reg) (a : Reg) (b : RegImm) : RoundTrip.Statement (.shl h t d a b) :=
  roundTrip_of_raw rfl (by show (0x04A : Nat) < _; decide) t.code_lt h.g.isLt h.bits_lt (encReg_lt24 d)
    (encReg_lt24 a) (encRegImm_lt b)
    (fun _ => by simp [decodeRaw, decodeClass1, Raw.hint_bits])
theorem RoundTrip.shr (h : Hint) (t : Ty) (d : Reg) (a : Reg) (b : RegImm) : RoundTrip.Statement (.shr h t d a b) :=
  roundTrip_of_raw rfl (by show (0x04B : Nat) < _; decide) t.code_lt h.g.isLt h.bits_lt (encReg_lt24 d)
    (encReg_lt24 a) (encRegImm_lt b)
    (fun _ => by simp [decodeRaw, decodeClass1, Raw.hint_bits])
theorem RoundTrip.sra (h : Hint) (t : Ty) (d : Reg) (a : Reg) (b : RegImm) : RoundTrip.Statement (.sra h t d a b) :=
  roundTrip_of_raw rfl (by show (0x04C : Nat) < _; decide) t.code_lt h.g.isLt h.bits_lt (encReg_lt24 d)
    (encReg_lt24 a) (encRegImm_lt b)
    (fun _ => by simp [decodeRaw, decodeClass1, Raw.hint_bits])
theorem RoundTrip.rot (h : Hint) (t : Ty) (d : Reg) (a : Reg) (b : RegImm) : RoundTrip.Statement (.rot h t d a b) :=
  roundTrip_of_raw rfl (by show (0x04D : Nat) < _; decide) t.code_lt h.g.isLt h.bits_lt (encReg_lt24 d)
    (encReg_lt24 a) (encRegImm_lt b)
    (fun _ => by simp [decodeRaw, decodeClass1, Raw.hint_bits])
theorem RoundTrip.min (h : Hint) (t : Ty) (d : Reg) (a : Reg) (b : RegImm) : RoundTrip.Statement (.min h t d a b) :=
  roundTrip_of_raw rfl (by show (0x04E : Nat) < _; decide) t.code_lt h.g.isLt h.bits_lt (encReg_lt24 d)
    (encReg_lt24 a) (encRegImm_lt b)
    (fun _ => by simp [decodeRaw, decodeClass1, Raw.hint_bits])
theorem RoundTrip.max (h : Hint) (t : Ty) (d : Reg) (a : Reg) (b : RegImm) : RoundTrip.Statement (.max h t d a b) :=
  roundTrip_of_raw rfl (by show (0x04F : Nat) < _; decide) t.code_lt h.g.isLt h.bits_lt (encReg_lt24 d)
    (encReg_lt24 a) (encRegImm_lt b)
    (fun _ => by simp [decodeRaw, decodeClass1, Raw.hint_bits])
theorem RoundTrip.sel (h : Hint) (t : Ty) (d : Reg) (a : Reg) (b : RegImm) : RoundTrip.Statement (.sel h t d a b) :=
  roundTrip_of_raw rfl (by show (0x050 : Nat) < _; decide) t.code_lt h.g.isLt h.bits_lt (encReg_lt24 d)
    (encReg_lt24 a) (encRegImm_lt b)
    (fun _ => by simp [decodeRaw, decodeClass1, Raw.hint_bits])
theorem RoundTrip.cmpeq (h : Hint) (t : Ty) (d : Preg) (a : Reg) (b : RegImm) : RoundTrip.Statement (.cmpeq h t d a b) :=
  roundTrip_of_raw rfl (by show (0x051 : Nat) < _; decide) t.code_lt h.g.isLt h.bits_lt (encPred_lt d) (encReg_lt24 a)
    (encRegImm_lt b)
    (fun _ => by simp [decodeRaw, decodeClass1, Raw.hint_bits])
theorem RoundTrip.cmpne (h : Hint) (t : Ty) (d : Preg) (a : Reg) (b : RegImm) : RoundTrip.Statement (.cmpne h t d a b) :=
  roundTrip_of_raw rfl (by show (0x052 : Nat) < _; decide) t.code_lt h.g.isLt h.bits_lt (encPred_lt d) (encReg_lt24 a)
    (encRegImm_lt b)
    (fun _ => by simp [decodeRaw, decodeClass1, Raw.hint_bits])
theorem RoundTrip.cmplt (h : Hint) (t : Ty) (d : Preg) (a : Reg) (b : RegImm) : RoundTrip.Statement (.cmplt h t d a b) :=
  roundTrip_of_raw rfl (by show (0x053 : Nat) < _; decide) t.code_lt h.g.isLt h.bits_lt (encPred_lt d) (encReg_lt24 a)
    (encRegImm_lt b)
    (fun _ => by simp [decodeRaw, decodeClass1, Raw.hint_bits])
theorem RoundTrip.cmple (h : Hint) (t : Ty) (d : Preg) (a : Reg) (b : RegImm) : RoundTrip.Statement (.cmple h t d a b) :=
  roundTrip_of_raw rfl (by show (0x054 : Nat) < _; decide) t.code_lt h.g.isLt h.bits_lt (encPred_lt d) (encReg_lt24 a)
    (encRegImm_lt b)
    (fun _ => by simp [decodeRaw, decodeClass1, Raw.hint_bits])
theorem RoundTrip.cmpltu (h : Hint) (t : Ty) (d : Preg) (a : Reg) (b : RegImm) : RoundTrip.Statement (.cmpltu h t d a b) :=
  roundTrip_of_raw rfl (by show (0x055 : Nat) < _; decide) t.code_lt h.g.isLt h.bits_lt (encPred_lt d) (encReg_lt24 a)
    (encRegImm_lt b)
    (fun _ => by simp [decodeRaw, decodeClass1, Raw.hint_bits])
theorem RoundTrip.cmpleu (h : Hint) (t : Ty) (d : Preg) (a : Reg) (b : RegImm) : RoundTrip.Statement (.cmpleu h t d a b) :=
  roundTrip_of_raw rfl (by show (0x056 : Nat) < _; decide) t.code_lt h.g.isLt h.bits_lt (encPred_lt d) (encReg_lt24 a)
    (encRegImm_lt b)
    (fun _ => by simp [decodeRaw, decodeClass1, Raw.hint_bits])
theorem RoundTrip.li (h : Hint) (d : Reg) (v : BitVec 48) : RoundTrip.Statement (.li h d v) :=
  roundTrip_of_raw rfl (by show (0x057 : Nat) < _; decide) (by show (0 : Nat) < _; decide) h.g.isLt h.bits_lt
    (encReg_lt24 d) (by have := v.isLt; show v.toNat / 2 ^ 24 < 2 ^ 24; omega)
    (by show v.toNat % 2 ^ 24 < 2 ^ 24; omega)
    (fun _ => by
      have := v.isLt
      simp [decodeRaw, decodeClass1, Raw.hint_bits]
      rw [show v.toNat / 16777216 * 16777216 + v.toNat % 16777216 = v.toNat by omega]
      simp)
theorem RoundTrip.mad (h : Hint) (t : Ty) (d : Reg) (a : Reg) (b : RegImm) : RoundTrip.Statement (.mad h t d a b) :=
  roundTrip_of_raw rfl (by show (0x058 : Nat) < _; decide) t.code_lt h.g.isLt h.bits_lt (encReg_lt24 d)
    (encReg_lt24 a) (encRegImm_lt b)
    (fun _ => by simp [decodeRaw, decodeClass1, Raw.hint_bits])
theorem RoundTrip.pand (h : Hint) (d : Preg) (a : Preg) (b : Preg) : RoundTrip.Statement (.pand h d a b) :=
  roundTrip_of_raw rfl (by show (0x059 : Nat) < _; decide) (by show (0 : Nat) < _; decide) h.g.isLt h.bits_lt
    (encPred_lt d) (encPred_lt a) (encPred_lt b)
    (fun _ => by simp [decodeRaw, decodeClass1, Raw.hint_bits])
theorem RoundTrip.por (h : Hint) (d : Preg) (a : Preg) (b : Preg) : RoundTrip.Statement (.por h d a b) :=
  roundTrip_of_raw rfl (by show (0x05A : Nat) < _; decide) (by show (0 : Nat) < _; decide) h.g.isLt h.bits_lt
    (encPred_lt d) (encPred_lt a) (encPred_lt b)
    (fun _ => by simp [decodeRaw, decodeClass1, Raw.hint_bits])
theorem RoundTrip.pxor (h : Hint) (d : Preg) (a : Preg) (b : Preg) : RoundTrip.Statement (.pxor h d a b) :=
  roundTrip_of_raw rfl (by show (0x05B : Nat) < _; decide) (by show (0 : Nat) < _; decide) h.g.isLt h.bits_lt
    (encPred_lt d) (encPred_lt a) (encPred_lt b)
    (fun _ => by simp [decodeRaw, decodeClass1, Raw.hint_bits])
theorem RoundTrip.pnot (h : Hint) (d : Preg) (a : Preg) : RoundTrip.Statement (.pnot h d a) :=
  roundTrip_of_raw rfl (by show (0x05C : Nat) < _; decide) (by show (0 : Nat) < _; decide) h.g.isLt h.bits_lt
    (encPred_lt d) (encPred_lt a) (by show (0 : Nat) < _; decide)
    (fun _ => by simp [decodeRaw, decodeClass1, Raw.hint_bits])
theorem RoundTrip.popc (h : Hint) (t : Ty) (d : Reg) (a : Reg) : RoundTrip.Statement (.popc h t d a) :=
  roundTrip_of_raw rfl (by show (0x080 : Nat) < _; decide) t.code_lt h.g.isLt h.bits_lt (encReg_lt24 d)
    (encReg_lt24 a) (by show (0 : Nat) < _; decide)
    (fun _ => by simp [decodeRaw, decodeClass2, Raw.hint_bits])
theorem RoundTrip.clz (h : Hint) (t : Ty) (d : Reg) (a : Reg) : RoundTrip.Statement (.clz h t d a) :=
  roundTrip_of_raw rfl (by show (0x081 : Nat) < _; decide) t.code_lt h.g.isLt h.bits_lt (encReg_lt24 d)
    (encReg_lt24 a) (by show (0 : Nat) < _; decide)
    (fun _ => by simp [decodeRaw, decodeClass2, Raw.hint_bits])
theorem RoundTrip.ctz (h : Hint) (t : Ty) (d : Reg) (a : Reg) : RoundTrip.Statement (.ctz h t d a) :=
  roundTrip_of_raw rfl (by show (0x082 : Nat) < _; decide) t.code_lt h.g.isLt h.bits_lt (encReg_lt24 d)
    (encReg_lt24 a) (by show (0 : Nat) < _; decide)
    (fun _ => by simp [decodeRaw, decodeClass2, Raw.hint_bits])
theorem RoundTrip.fns (h : Hint) (t : Ty) (d : Reg) (a : Reg) (b : RegImm) : RoundTrip.Statement (.fns h t d a b) :=
  roundTrip_of_raw rfl (by show (0x083 : Nat) < _; decide) t.code_lt h.g.isLt h.bits_lt (encReg_lt24 d)
    (encReg_lt24 a) (encRegImm_lt b)
    (fun _ => by simp [decodeRaw, decodeClass2, Raw.hint_bits])
theorem RoundTrip.brev (h : Hint) (t : Ty) (d : Reg) (a : Reg) : RoundTrip.Statement (.brev h t d a) :=
  roundTrip_of_raw rfl (by show (0x084 : Nat) < _; decide) t.code_lt h.g.isLt h.bits_lt (encReg_lt24 d)
    (encReg_lt24 a) (by show (0 : Nat) < _; decide)
    (fun _ => by simp [decodeRaw, decodeClass2, Raw.hint_bits])
theorem RoundTrip.bswap (h : Hint) (t : Ty) (d : Reg) (a : Reg) : RoundTrip.Statement (.bswap h t d a) :=
  roundTrip_of_raw rfl (by show (0x085 : Nat) < _; decide) t.code_lt h.g.isLt h.bits_lt (encReg_lt24 d)
    (encReg_lt24 a) (by show (0 : Nat) < _; decide)
    (fun _ => by simp [decodeRaw, decodeClass2, Raw.hint_bits])
theorem RoundTrip.bext (h : Hint) (t : Ty) (d : Reg) (a : Reg) (b : RegImm) : RoundTrip.Statement (.bext h t d a b) :=
  roundTrip_of_raw rfl (by show (0x086 : Nat) < _; decide) t.code_lt h.g.isLt h.bits_lt (encReg_lt24 d)
    (encReg_lt24 a) (encRegImm_lt b)
    (fun _ => by simp [decodeRaw, decodeClass2, Raw.hint_bits])
theorem RoundTrip.bexts (h : Hint) (t : Ty) (d : Reg) (a : Reg) (b : RegImm) : RoundTrip.Statement (.bexts h t d a b) :=
  roundTrip_of_raw rfl (by show (0x087 : Nat) < _; decide) t.code_lt h.g.isLt h.bits_lt (encReg_lt24 d)
    (encReg_lt24 a) (encRegImm_lt b)
    (fun _ => by simp [decodeRaw, decodeClass2, Raw.hint_bits])
theorem RoundTrip.bins (h : Hint) (t : Ty) (d : Reg) (a : Reg) (b : RegImm) : RoundTrip.Statement (.bins h t d a b) :=
  roundTrip_of_raw rfl (by show (0x088 : Nat) < _; decide) t.code_lt h.g.isLt h.bits_lt (encReg_lt24 d)
    (encReg_lt24 a) (encRegImm_lt b)
    (fun _ => by simp [decodeRaw, decodeClass2, Raw.hint_bits])
theorem RoundTrip.pdep (h : Hint) (t : Ty) (d : Reg) (a : Reg) (b : Reg) : RoundTrip.Statement (.pdep h t d a b) :=
  roundTrip_of_raw rfl (by show (0x089 : Nat) < _; decide) t.code_lt h.g.isLt h.bits_lt (encReg_lt24 d)
    (encReg_lt24 a) (encReg_lt24 b)
    (fun _ => by simp [decodeRaw, decodeClass2, Raw.hint_bits])
theorem RoundTrip.pext (h : Hint) (t : Ty) (d : Reg) (a : Reg) (b : Reg) : RoundTrip.Statement (.pext h t d a b) :=
  roundTrip_of_raw rfl (by show (0x08A : Nat) < _; decide) t.code_lt h.g.isLt h.bits_lt (encReg_lt24 d)
    (encReg_lt24 a) (encReg_lt24 b)
    (fun _ => by simp [decodeRaw, decodeClass2, Raw.hint_bits])
theorem RoundTrip.fadd (h : Hint) (t : Ty) (d : Reg) (a : Reg) (b : Reg) : RoundTrip.Statement (.fadd h t d a b) :=
  roundTrip_of_raw rfl (by show (0x0C0 : Nat) < _; decide) t.code_lt h.g.isLt h.bits_lt (encReg_lt24 d)
    (encReg_lt24 a) (encReg_lt24 b)
    (fun _ => by simp [decodeRaw, decodeClass3, Raw.hint_bits])
theorem RoundTrip.fsub (h : Hint) (t : Ty) (d : Reg) (a : Reg) (b : Reg) : RoundTrip.Statement (.fsub h t d a b) :=
  roundTrip_of_raw rfl (by show (0x0C1 : Nat) < _; decide) t.code_lt h.g.isLt h.bits_lt (encReg_lt24 d)
    (encReg_lt24 a) (encReg_lt24 b)
    (fun _ => by simp [decodeRaw, decodeClass3, Raw.hint_bits])
theorem RoundTrip.fmul (h : Hint) (t : Ty) (d : Reg) (a : Reg) (b : Reg) : RoundTrip.Statement (.fmul h t d a b) :=
  roundTrip_of_raw rfl (by show (0x0C2 : Nat) < _; decide) t.code_lt h.g.isLt h.bits_lt (encReg_lt24 d)
    (encReg_lt24 a) (encReg_lt24 b)
    (fun _ => by simp [decodeRaw, decodeClass3, Raw.hint_bits])
theorem RoundTrip.ffma (h : Hint) (t : Ty) (d : Reg) (a : Reg) (b : Reg) : RoundTrip.Statement (.ffma h t d a b) :=
  roundTrip_of_raw rfl (by show (0x0C3 : Nat) < _; decide) t.code_lt h.g.isLt h.bits_lt (encReg_lt24 d)
    (encReg_lt24 a) (encReg_lt24 b)
    (fun _ => by simp [decodeRaw, decodeClass3, Raw.hint_bits])
theorem RoundTrip.fdiv (h : Hint) (t : Ty) (d : Reg) (a : Reg) (b : Reg) : RoundTrip.Statement (.fdiv h t d a b) :=
  roundTrip_of_raw rfl (by show (0x0C4 : Nat) < _; decide) t.code_lt h.g.isLt h.bits_lt (encReg_lt24 d)
    (encReg_lt24 a) (encReg_lt24 b)
    (fun _ => by simp [decodeRaw, decodeClass3, Raw.hint_bits])
theorem RoundTrip.fsqrt (h : Hint) (t : Ty) (d : Reg) (a : Reg) : RoundTrip.Statement (.fsqrt h t d a) :=
  roundTrip_of_raw rfl (by show (0x0C5 : Nat) < _; decide) t.code_lt h.g.isLt h.bits_lt (encReg_lt24 d)
    (encReg_lt24 a) (by show (0 : Nat) < _; decide)
    (fun _ => by simp [decodeRaw, decodeClass3, Raw.hint_bits])
theorem RoundTrip.fmin (h : Hint) (t : Ty) (d : Reg) (a : Reg) (b : Reg) : RoundTrip.Statement (.fmin h t d a b) :=
  roundTrip_of_raw rfl (by show (0x0C6 : Nat) < _; decide) t.code_lt h.g.isLt h.bits_lt (encReg_lt24 d)
    (encReg_lt24 a) (encReg_lt24 b)
    (fun _ => by simp [decodeRaw, decodeClass3, Raw.hint_bits])
theorem RoundTrip.fmax (h : Hint) (t : Ty) (d : Reg) (a : Reg) (b : Reg) : RoundTrip.Statement (.fmax h t d a b) :=
  roundTrip_of_raw rfl (by show (0x0C7 : Nat) < _; decide) t.code_lt h.g.isLt h.bits_lt (encReg_lt24 d)
    (encReg_lt24 a) (encReg_lt24 b)
    (fun _ => by simp [decodeRaw, decodeClass3, Raw.hint_bits])
theorem RoundTrip.fcmpeq (h : Hint) (t : Ty) (d : Preg) (a : Reg) (b : Reg) : RoundTrip.Statement (.fcmpeq h t d a b) :=
  roundTrip_of_raw rfl (by show (0x0C8 : Nat) < _; decide) t.code_lt h.g.isLt h.bits_lt (encPred_lt d) (encReg_lt24 a)
    (encReg_lt24 b)
    (fun _ => by simp [decodeRaw, decodeClass3, Raw.hint_bits])
theorem RoundTrip.fcmplt (h : Hint) (t : Ty) (d : Preg) (a : Reg) (b : Reg) : RoundTrip.Statement (.fcmplt h t d a b) :=
  roundTrip_of_raw rfl (by show (0x0C9 : Nat) < _; decide) t.code_lt h.g.isLt h.bits_lt (encPred_lt d) (encReg_lt24 a)
    (encReg_lt24 b)
    (fun _ => by simp [decodeRaw, decodeClass3, Raw.hint_bits])
theorem RoundTrip.fcmple (h : Hint) (t : Ty) (d : Preg) (a : Reg) (b : Reg) : RoundTrip.Statement (.fcmple h t d a b) :=
  roundTrip_of_raw rfl (by show (0x0CA : Nat) < _; decide) t.code_lt h.g.isLt h.bits_lt (encPred_lt d) (encReg_lt24 a)
    (encReg_lt24 b)
    (fun _ => by simp [decodeRaw, decodeClass3, Raw.hint_bits])
theorem RoundTrip.fcmpun (h : Hint) (t : Ty) (d : Preg) (a : Reg) (b : Reg) : RoundTrip.Statement (.fcmpun h t d a b) :=
  roundTrip_of_raw rfl (by show (0x0CB : Nat) < _; decide) t.code_lt h.g.isLt h.bits_lt (encPred_lt d) (encReg_lt24 a)
    (encReg_lt24 b)
    (fun _ => by simp [decodeRaw, decodeClass3, Raw.hint_bits])
theorem RoundTrip.fcvt (h : Hint) (t : Ty) (d : Reg) (a : Reg) (b : Imm) : RoundTrip.Statement (.fcvt h t d a b) :=
  roundTrip_of_raw rfl (by show (0x0CC : Nat) < _; decide) t.code_lt h.g.isLt h.bits_lt (encReg_lt24 d)
    (encReg_lt24 a) (encImm_lt b)
    (fun _ => by simp [decodeRaw, decodeClass3, Raw.hint_bits])
theorem RoundTrip.fclass (h : Hint) (t : Ty) (d : Reg) (a : Reg) : RoundTrip.Statement (.fclass h t d a) :=
  roundTrip_of_raw rfl (by show (0x0CD : Nat) < _; decide) t.code_lt h.g.isLt h.bits_lt (encReg_lt24 d)
    (encReg_lt24 a) (by show (0 : Nat) < _; decide)
    (fun _ => by simp [decodeRaw, decodeClass3, Raw.hint_bits])
theorem RoundTrip.ld (h : Hint) (t : Ty) (d : Reg) (a : CapOp) : RoundTrip.Statement (.ld h t d a) :=
  roundTrip_of_raw rfl (by show (0x100 : Nat) < _; decide) t.code_lt h.g.isLt h.bits_lt (encReg_lt24 d) (encCap_lt a)
    (by show (0 : Nat) < _; decide)
    (fun _ => by simp [decodeRaw, decodeClass4, Raw.hint_bits])
theorem RoundTrip.st (h : Hint) (t : Ty) (d : CapOp) (a : Reg) : RoundTrip.Statement (.st h t d a) :=
  roundTrip_of_raw rfl (by show (0x101 : Nat) < _; decide) t.code_lt h.g.isLt h.bits_lt (encCap_lt d) (encReg_lt24 a)
    (by show (0 : Nat) < _; decide)
    (fun _ => by simp [decodeRaw, decodeClass4, Raw.hint_bits])
theorem RoundTrip.vwset (h : Hint) (d : Vreg) (a : CapImm) : RoundTrip.Statement (.vwset h d a) :=
  roundTrip_of_raw rfl (by show (0x102 : Nat) < _; decide) (by show (0 : Nat) < _; decide) h.g.isLt h.bits_lt
    (encView_lt d) (encCapImm_lt a) (by show (0 : Nat) < _; decide)
    (fun _ => by simp [decodeRaw, decodeClass4, Raw.hint_bits])
theorem RoundTrip.vwgetMemory (h : Hint) (d : CapOp) (a : Vreg) : RoundTrip.Statement (.vwgetMemory h d a) :=
  roundTrip_of_raw rfl (by show (0x103 : Nat) < _; decide) (by show (0 : Nat) < _; decide) h.g.isLt h.bits_lt
    (encCap_lt d) (encView_lt a) (by show (0 : Nat) < _; decide)
    (fun _ => by simp [decodeRaw, decodeClass4, Raw.hint_bits])
theorem RoundTrip.vwgetField (h : Hint) (d : Reg) (a : Vreg) (b : Imm) : RoundTrip.Statement (.vwgetField h d a b) :=
  roundTrip_of_raw rfl (by show (0x103 : Nat) < _; decide) (by show (0 : Nat) < _; decide) h.g.isLt h.bits_lt
    (encReg_lt24 d) (encView_lt a) (encImm_lt b)
    (fun _ => by simp [decodeRaw, decodeClass4, Raw.hint_bits])
theorem RoundTrip.vwsub (h : Hint) (d : Vreg) (a : Vreg) (b : Reg) : RoundTrip.Statement (.vwsub h d a b) :=
  roundTrip_of_raw rfl (by show (0x104 : Nat) < _; decide) (by show (0 : Nat) < _; decide) h.g.isLt h.bits_lt
    (encView_lt d) (encView_lt a) (encReg_lt24 b)
    (fun _ => by simp [decodeRaw, decodeClass4, Raw.hint_bits])
theorem RoundTrip.vwadv (h : Hint) (d : Vreg) (a : Imm) (b : RegImm) : RoundTrip.Statement (.vwadv h d a b) :=
  roundTrip_of_raw rfl (by show (0x105 : Nat) < _; decide) (by show (0 : Nat) < _; decide) h.g.isLt h.bits_lt
    (encView_lt d) (encImm_lt a) (encRegImm_lt b)
    (fun _ => by simp [decodeRaw, decodeClass4, Raw.hint_bits])
theorem RoundTrip.rbindInstall (h : Hint) (d : RegImm) (a : CapOp) (b : CapOp) : RoundTrip.Statement (.rbindInstall h d a b) :=
  roundTrip_of_raw rfl (by show (0x106 : Nat) < _; decide) (by show (0 : Nat) < _; decide) h.g.isLt h.bits_lt
    (encRegImm_lt d) (encCap_lt a) (encCap_lt b)
    (fun _ => by simp [decodeRaw, decodeClass4, Raw.hint_bits])
theorem RoundTrip.rbindAttach (h : Hint) (d : RingOp) (a : Imm) : RoundTrip.Statement (.rbindAttach h d a) :=
  roundTrip_of_raw rfl (by show (0x106 : Nat) < _; decide) (by show (0 : Nat) < _; decide) h.g.isLt h.bits_lt
    (encRing_lt d) (encImm_lt a) (by show (0 : Nat) < _; decide)
    (fun _ => by simp [decodeRaw, decodeClass4, Raw.hint_bits])
theorem RoundTrip.rbindRemove (h : Hint) (d : RegImm) (b : CapOp) : RoundTrip.Statement (.rbindRemove h d b) :=
  roundTrip_of_raw rfl (by show (0x106 : Nat) < _; decide) (by show (0 : Nat) < _; decide) h.g.isLt h.bits_lt
    (encRegImm_lt d) (by show (0 : Nat) < _; decide) (encCap_lt b)
    (fun _ => by simp [decodeRaw, decodeClass4, Raw.hint_bits])
theorem RoundTrip.radv (h : Hint) (d : RingOp) (b : Reg) : RoundTrip.Statement (.radv h d b) :=
  roundTrip_of_raw rfl (by show (0x107 : Nat) < _; decide) (by show (0 : Nat) < _; decide) h.g.isLt h.bits_lt
    (encRing_lt d) (by show (0 : Nat) < _; decide) (encReg_lt24 b)
    (fun _ => by simp [decodeRaw, decodeClass4, Raw.hint_bits])
theorem RoundTrip.rstatFill (h : Hint) (d : Reg) (a : RingOp) : RoundTrip.Statement (.rstatFill h d a) :=
  roundTrip_of_raw rfl (by show (0x108 : Nat) < _; decide) (by show (0 : Nat) < _; decide) h.g.isLt h.bits_lt
    (encReg_lt24 d) (encRing_lt a) (by show (0 : Nat) < _; decide)
    (fun _ => by simp [decodeRaw, decodeClass4, Raw.hint_bits])
theorem RoundTrip.rstatDescriptor (h : Hint) (d : CapOp) (a : Imm) : RoundTrip.Statement (.rstatDescriptor h d a) :=
  roundTrip_of_raw rfl (by show (0x108 : Nat) < _; decide) (by show (0 : Nat) < _; decide) h.g.isLt h.bits_lt
    (encCap_lt d) (encImm_lt a) (by show (0 : Nat) < _; decide)
    (fun _ => by simp [decodeRaw, decodeClass4, Raw.hint_bits])
theorem RoundTrip.cmovMove (h : Hint) (d : CapOp) (a : CapOp) : RoundTrip.Statement (.cmovMove h d a) :=
  roundTrip_of_raw rfl (by show (0x140 : Nat) < _; decide) (by show (0 : Nat) < _; decide) h.g.isLt h.bits_lt
    (encCap_lt d) (encCap_lt a) (by show (0 : Nat) < _; decide)
    (fun _ => by simp [decodeRaw, decodeClass5, Raw.hint_bits])
theorem RoundTrip.cmovPark (h : Hint) (d : RegImm) (a : CapOp) : RoundTrip.Statement (.cmovPark h d a) :=
  roundTrip_of_raw rfl (by show (0x140 : Nat) < _; decide) (by show (0 : Nat) < _; decide) h.g.isLt h.bits_lt
    (encRegImm_lt d) (encCap_lt a) (by show (0 : Nat) < _; decide)
    (fun _ => by simp [decodeRaw, decodeClass5, Raw.hint_bits])
theorem RoundTrip.cmovUnpark (h : Hint) (d : CapOp) (a : RegImm) : RoundTrip.Statement (.cmovUnpark h d a) :=
  roundTrip_of_raw rfl (by show (0x140 : Nat) < _; decide) (by show (0 : Nat) < _; decide) h.g.isLt h.bits_lt
    (encCap_lt d) (encRegImm_lt a) (by show (0 : Nat) < _; decide)
    (fun _ => by simp [decodeRaw, decodeClass5, Raw.hint_bits])
theorem RoundTrip.csplit (h : Hint) (d : CapOp) (a : CapOp) (b : RegImm) : RoundTrip.Statement (.csplit h d a b) :=
  roundTrip_of_raw rfl (by show (0x141 : Nat) < _; decide) (by show (0 : Nat) < _; decide) h.g.isLt h.bits_lt
    (encCap_lt d) (encCap_lt a) (encRegImm_lt b)
    (fun _ => by simp [decodeRaw, decodeClass5, Raw.hint_bits])
theorem RoundTrip.cjoin (h : Hint) (d : CapOp) (a : CapOp) : RoundTrip.Statement (.cjoin h d a) :=
  roundTrip_of_raw rfl (by show (0x142 : Nat) < _; decide) (by show (0 : Nat) < _; decide) h.g.isLt h.bits_lt
    (encCap_lt d) (encCap_lt a) (by show (0 : Nat) < _; decide)
    (fun _ => by simp [decodeRaw, decodeClass5, Raw.hint_bits])
theorem RoundTrip.cnarrow (h : Hint) (d : CapOp) (a : CapOp) (b : Reg) : RoundTrip.Statement (.cnarrow h d a b) :=
  roundTrip_of_raw rfl (by show (0x143 : Nat) < _; decide) (by show (0 : Nat) < _; decide) h.g.isLt h.bits_lt
    (encCap_lt d) (encCap_lt a) (encReg_lt24 b)
    (fun _ => by simp [decodeRaw, decodeClass5, Raw.hint_bits])
theorem RoundTrip.cmerge (h : Hint) (d : CapOp) (a : CapOp) : RoundTrip.Statement (.cmerge h d a) :=
  roundTrip_of_raw rfl (by show (0x144 : Nat) < _; decide) (by show (0 : Nat) < _; decide) h.g.isLt h.bits_lt
    (encCap_lt d) (encCap_lt a) (by show (0 : Nat) < _; decide)
    (fun _ => by simp [decodeRaw, decodeClass5, Raw.hint_bits])
theorem RoundTrip.crights (h : Hint) (d : CapOp) (a : CapOp) (b : RegImm) : RoundTrip.Statement (.crights h d a b) :=
  roundTrip_of_raw rfl (by show (0x145 : Nat) < _; decide) (by show (0 : Nat) < _; decide) h.g.isLt h.bits_lt
    (encCap_lt d) (encCap_lt a) (encRegImm_lt b)
    (fun _ => by simp [decodeRaw, decodeClass5, Raw.hint_bits])
theorem RoundTrip.cinfo (h : Hint) (d : Reg) (a : CapOp) (b : Imm) : RoundTrip.Statement (.cinfo h d a b) :=
  roundTrip_of_raw rfl (by show (0x146 : Nat) < _; decide) (by show (0 : Nat) < _; decide) h.g.isLt h.bits_lt
    (encReg_lt24 d) (encCap_lt a) (encImm_lt b)
    (fun _ => by simp [decodeRaw, decodeClass5, Raw.hint_bits])
theorem RoundTrip.cdrop (h : Hint) (d : CapOp) : RoundTrip.Statement (.cdrop h d) :=
  roundTrip_of_raw rfl (by show (0x147 : Nat) < _; decide) (by show (0 : Nat) < _; decide) h.g.isLt h.bits_lt
    (encCap_lt d) (by show (0 : Nat) < _; decide) (by show (0 : Nat) < _; decide)
    (fun _ => by simp [decodeRaw, decodeClass5, Raw.hint_bits])
theorem RoundTrip.cseal (h : Hint) (d : CapOp) (a : CapOp) : RoundTrip.Statement (.cseal h d a) :=
  roundTrip_of_raw rfl (by show (0x148 : Nat) < _; decide) (by show (0 : Nat) < _; decide) h.g.isLt h.bits_lt
    (encCap_lt d) (encCap_lt a) (by show (0 : Nat) < _; decide)
    (fun _ => by simp [decodeRaw, decodeClass5, Raw.hint_bits])
theorem RoundTrip.creclaimRegister (h : Hint) (d : CapOp) : RoundTrip.Statement (.creclaimRegister h d) :=
  roundTrip_of_raw rfl (by show (0x149 : Nat) < _; decide) (by show (0 : Nat) < _; decide) h.g.isLt h.bits_lt
    (encCap_lt d) (by show (0 : Nat) < _; decide) (by show (0 : Nat) < _; decide)
    (fun _ => by simp [decodeRaw, decodeClass5, Raw.hint_bits])
theorem RoundTrip.creclaimSlot (h : Hint) (d : CapOp) (b : RegImm) : RoundTrip.Statement (.creclaimSlot h d b) :=
  roundTrip_of_raw rfl (by show (0x149 : Nat) < _; decide) (by show (0 : Nat) < _; decide) h.g.isLt h.bits_lt
    (encCap_lt d) (by show (0 : Nat) < _; decide) (encRegImm_lt b)
    (fun hw => by
      have hb : encRegImm b ≠ 0 := by
        cases b with
        | reg r =>
          simp [Instr.wellFormed, Instr.fieldsOk] at hw
          simp [encRegImm, encReg]
          intro e
          exact hw.2 (BitVec.eq_of_toNat_eq e)
        | imm v => simp [encRegImm, encImm]
      simp [decodeRaw, decodeClass5, Raw.hint_bits, hb])
theorem RoundTrip.vadd (h : Hint) (t : Ty) (d : Vreg) (a : Vreg) (b : Src) : RoundTrip.Statement (.vadd h t d a b) :=
  roundTrip_of_raw rfl (by show (0x180 : Nat) < _; decide) t.code_lt h.g.isLt h.bits_lt (encView_lt d) (encView_lt a)
    (encSrc_lt b)
    (fun _ => by simp [decodeRaw, decodeClass6, Raw.hint_bits])
theorem RoundTrip.vsub (h : Hint) (t : Ty) (d : Vreg) (a : Vreg) (b : Src) : RoundTrip.Statement (.vsub h t d a b) :=
  roundTrip_of_raw rfl (by show (0x181 : Nat) < _; decide) t.code_lt h.g.isLt h.bits_lt (encView_lt d) (encView_lt a)
    (encSrc_lt b)
    (fun _ => by simp [decodeRaw, decodeClass6, Raw.hint_bits])
theorem RoundTrip.vmul (h : Hint) (t : Ty) (d : Vreg) (a : Vreg) (b : Src) : RoundTrip.Statement (.vmul h t d a b) :=
  roundTrip_of_raw rfl (by show (0x182 : Nat) < _; decide) t.code_lt h.g.isLt h.bits_lt (encView_lt d) (encView_lt a)
    (encSrc_lt b)
    (fun _ => by simp [decodeRaw, decodeClass6, Raw.hint_bits])
theorem RoundTrip.vfma (h : Hint) (t : Ty) (d : Vreg) (a : Vreg) (b : Src) : RoundTrip.Statement (.vfma h t d a b) :=
  roundTrip_of_raw rfl (by show (0x183 : Nat) < _; decide) t.code_lt h.g.isLt h.bits_lt (encView_lt d) (encView_lt a)
    (encSrc_lt b)
    (fun _ => by simp [decodeRaw, decodeClass6, Raw.hint_bits])
theorem RoundTrip.vmin (h : Hint) (t : Ty) (d : Vreg) (a : Vreg) (b : Src) : RoundTrip.Statement (.vmin h t d a b) :=
  roundTrip_of_raw rfl (by show (0x184 : Nat) < _; decide) t.code_lt h.g.isLt h.bits_lt (encView_lt d) (encView_lt a)
    (encSrc_lt b)
    (fun _ => by simp [decodeRaw, decodeClass6, Raw.hint_bits])
theorem RoundTrip.vmax (h : Hint) (t : Ty) (d : Vreg) (a : Vreg) (b : Src) : RoundTrip.Statement (.vmax h t d a b) :=
  roundTrip_of_raw rfl (by show (0x185 : Nat) < _; decide) t.code_lt h.g.isLt h.bits_lt (encView_lt d) (encView_lt a)
    (encSrc_lt b)
    (fun _ => by simp [decodeRaw, decodeClass6, Raw.hint_bits])
theorem RoundTrip.vabs (h : Hint) (t : Ty) (d : Vreg) (a : Vreg) : RoundTrip.Statement (.vabs h t d a) :=
  roundTrip_of_raw rfl (by show (0x186 : Nat) < _; decide) t.code_lt h.g.isLt h.bits_lt (encView_lt d) (encView_lt a)
    (by show (0 : Nat) < _; decide)
    (fun _ => by simp [decodeRaw, decodeClass6, Raw.hint_bits])
theorem RoundTrip.vneg (h : Hint) (t : Ty) (d : Vreg) (a : Vreg) : RoundTrip.Statement (.vneg h t d a) :=
  roundTrip_of_raw rfl (by show (0x187 : Nat) < _; decide) t.code_lt h.g.isLt h.bits_lt (encView_lt d) (encView_lt a)
    (by show (0 : Nat) < _; decide)
    (fun _ => by simp [decodeRaw, decodeClass6, Raw.hint_bits])
theorem RoundTrip.vcmul (h : Hint) (d : Vreg) (a : Vreg) (b : ViewReg) : RoundTrip.Statement (.vcmul h d a b) :=
  roundTrip_of_raw rfl (by show (0x188 : Nat) < _; decide) (by show (13 : Nat) < _; decide) h.g.isLt h.bits_lt
    (encView_lt d) (encView_lt a) (encViewReg_lt b)
    (fun _ => by simp [decodeRaw, decodeClass6, Raw.hint_bits])
theorem RoundTrip.vbfly (h : Hint) (d : Vreg) (a : Vreg) (b : Imm) : RoundTrip.Statement (.vbfly h d a b) :=
  roundTrip_of_raw rfl (by show (0x189 : Nat) < _; decide) (by show (13 : Nat) < _; decide) h.g.isLt h.bits_lt
    (encView_lt d) (encView_lt a) (encImm_lt b)
    (fun _ => by simp [decodeRaw, decodeClass6, Raw.hint_bits])
theorem RoundTrip.vred (h : Hint) (t : Ty) (d : ViewReg) (a : Vreg) (b : Imm) : RoundTrip.Statement (.vred h t d a b) :=
  roundTrip_of_raw rfl (by show (0x18A : Nat) < _; decide) t.code_lt h.g.isLt h.bits_lt (encViewReg_lt d)
    (encView_lt a) (encImm_lt b)
    (fun _ => by simp [decodeRaw, decodeClass6, Raw.hint_bits])
theorem RoundTrip.vscan (h : Hint) (t : Ty) (d : Vreg) (a : Vreg) (b : Imm) : RoundTrip.Statement (.vscan h t d a b) :=
  roundTrip_of_raw rfl (by show (0x18B : Nat) < _; decide) t.code_lt h.g.isLt h.bits_lt (encView_lt d) (encView_lt a)
    (encImm_lt b)
    (fun _ => by simp [decodeRaw, decodeClass6, Raw.hint_bits])
theorem RoundTrip.vcmp (h : Hint) (t : Ty) (cond : Cond) (d : Vreg) (a : Vreg) (b : Src) : RoundTrip.Statement (.vcmp h t cond d a b) :=
  roundTrip_of_raw rfl (by show (0x18C : Nat) < _; decide) t.code_lt h.g.isLt (h.bitsWith_lt cond.code_lt)
    (encView_lt d) (encView_lt a) (encSrc_lt b)
    (by
      intro hw
      have hh : h.sat = false ∧ h.rnd = 0 := by
        simp [Instr.wellFormed, Instr.hintsOk, Hint.accepts] at hw
        simp_all
      simp [decodeRaw, decodeClass6, Raw.hintGuard_bitsWith h _ _ _ _ _ _ hh.1 hh.2, Hint.bitsWith_top])
theorem RoundTrip.vsel (h : Hint) (t : Ty) (d : Vreg) (a : Src) (b : Vreg) : RoundTrip.Statement (.vsel h t d a b) :=
  roundTrip_of_raw rfl (by show (0x18D : Nat) < _; decide) t.code_lt h.g.isLt h.bits_lt (encView_lt d) (encSrc_lt a)
    (encView_lt b)
    (fun _ => by simp [decodeRaw, decodeClass6, Raw.hint_bits])
theorem RoundTrip.vcopy (h : Hint) (t : Ty) (d : Vreg) (a : Vreg) : RoundTrip.Statement (.vcopy h t d a) :=
  roundTrip_of_raw rfl (by show (0x18E : Nat) < _; decide) t.code_lt h.g.isLt h.bits_lt (encView_lt d) (encView_lt a)
    (by show (0 : Nat) < _; decide)
    (fun _ => by simp [decodeRaw, decodeClass6, Raw.hint_bits])
theorem RoundTrip.vfill (h : Hint) (t : Ty) (d : Vreg) (a : RegImm) : RoundTrip.Statement (.vfill h t d a) :=
  roundTrip_of_raw rfl (by show (0x18F : Nat) < _; decide) t.code_lt h.g.isLt h.bits_lt (encView_lt d)
    (encRegImm_lt a) (by show (0 : Nat) < _; decide)
    (fun _ => by simp [decodeRaw, decodeClass6, Raw.hint_bits])
theorem RoundTrip.vgather (h : Hint) (t : Ty) (d : Vreg) (a : CapOp) (b : Vreg) : RoundTrip.Statement (.vgather h t d a b) :=
  roundTrip_of_raw rfl (by show (0x190 : Nat) < _; decide) t.code_lt h.g.isLt h.bits_lt (encView_lt d) (encCap_lt a)
    (encView_lt b)
    (fun _ => by simp [decodeRaw, decodeClass6, Raw.hint_bits])
theorem RoundTrip.vscatter (h : Hint) (t : Ty) (d : CapOp) (a : Vreg) (b : Vreg) : RoundTrip.Statement (.vscatter h t d a b) :=
  roundTrip_of_raw rfl (by show (0x191 : Nat) < _; decide) t.code_lt h.g.isLt h.bits_lt (encCap_lt d) (encView_lt a)
    (encView_lt b)
    (fun _ => by simp [decodeRaw, decodeClass6, Raw.hint_bits])
theorem RoundTrip.vscale (h : Hint) (t : Ty) (d : Vreg) (a : Vreg) (b : Vreg) : RoundTrip.Statement (.vscale h t d a b) :=
  roundTrip_of_raw rfl (by show (0x192 : Nat) < _; decide) t.code_lt h.g.isLt h.bits_lt (encView_lt d) (encView_lt a)
    (encView_lt b)
    (fun _ => by simp [decodeRaw, decodeClass6, Raw.hint_bits])
theorem RoundTrip.vquant (h : Hint) (t : Ty) (d : Vreg) (a : Vreg) (b : Vreg) : RoundTrip.Statement (.vquant h t d a b) :=
  roundTrip_of_raw rfl (by show (0x193 : Nat) < _; decide) t.code_lt h.g.isLt h.bits_lt (encView_lt d) (encView_lt a)
    (encView_lt b)
    (fun _ => by simp [decodeRaw, decodeClass6, Raw.hint_bits])
theorem RoundTrip.vand (h : Hint) (t : Ty) (d : Vreg) (a : Vreg) (b : Src) : RoundTrip.Statement (.vand h t d a b) :=
  roundTrip_of_raw rfl (by show (0x1C0 : Nat) < _; decide) t.code_lt h.g.isLt h.bits_lt (encView_lt d) (encView_lt a)
    (encSrc_lt b)
    (fun _ => by simp [decodeRaw, decodeClass7, Raw.hint_bits])
theorem RoundTrip.vor (h : Hint) (t : Ty) (d : Vreg) (a : Vreg) (b : Src) : RoundTrip.Statement (.vor h t d a b) :=
  roundTrip_of_raw rfl (by show (0x1C1 : Nat) < _; decide) t.code_lt h.g.isLt h.bits_lt (encView_lt d) (encView_lt a)
    (encSrc_lt b)
    (fun _ => by simp [decodeRaw, decodeClass7, Raw.hint_bits])
theorem RoundTrip.vxor (h : Hint) (t : Ty) (d : Vreg) (a : Vreg) (b : Src) : RoundTrip.Statement (.vxor h t d a b) :=
  roundTrip_of_raw rfl (by show (0x1C2 : Nat) < _; decide) t.code_lt h.g.isLt h.bits_lt (encView_lt d) (encView_lt a)
    (encSrc_lt b)
    (fun _ => by simp [decodeRaw, decodeClass7, Raw.hint_bits])
theorem RoundTrip.vnot (h : Hint) (t : Ty) (d : Vreg) (a : Vreg) : RoundTrip.Statement (.vnot h t d a) :=
  roundTrip_of_raw rfl (by show (0x1C3 : Nat) < _; decide) t.code_lt h.g.isLt h.bits_lt (encView_lt d) (encView_lt a)
    (by show (0 : Nat) < _; decide)
    (fun _ => by simp [decodeRaw, decodeClass7, Raw.hint_bits])
theorem RoundTrip.vshl (h : Hint) (t : Ty) (d : Vreg) (a : Vreg) (b : Src) : RoundTrip.Statement (.vshl h t d a b) :=
  roundTrip_of_raw rfl (by show (0x1C4 : Nat) < _; decide) t.code_lt h.g.isLt h.bits_lt (encView_lt d) (encView_lt a)
    (encSrc_lt b)
    (fun _ => by simp [decodeRaw, decodeClass7, Raw.hint_bits])
theorem RoundTrip.vshr (h : Hint) (t : Ty) (d : Vreg) (a : Vreg) (b : Src) : RoundTrip.Statement (.vshr h t d a b) :=
  roundTrip_of_raw rfl (by show (0x1C5 : Nat) < _; decide) t.code_lt h.g.isLt h.bits_lt (encView_lt d) (encView_lt a)
    (encSrc_lt b)
    (fun _ => by simp [decodeRaw, decodeClass7, Raw.hint_bits])
theorem RoundTrip.vsra (h : Hint) (t : Ty) (d : Vreg) (a : Vreg) (b : Src) : RoundTrip.Statement (.vsra h t d a b) :=
  roundTrip_of_raw rfl (by show (0x1C6 : Nat) < _; decide) t.code_lt h.g.isLt h.bits_lt (encView_lt d) (encView_lt a)
    (encSrc_lt b)
    (fun _ => by simp [decodeRaw, decodeClass7, Raw.hint_bits])
theorem RoundTrip.vpopc (h : Hint) (t : Ty) (d : Vreg) (a : Vreg) : RoundTrip.Statement (.vpopc h t d a) :=
  roundTrip_of_raw rfl (by show (0x1C7 : Nat) < _; decide) t.code_lt h.g.isLt h.bits_lt (encView_lt d) (encView_lt a)
    (by show (0 : Nat) < _; decide)
    (fun _ => by simp [decodeRaw, decodeClass7, Raw.hint_bits])
theorem RoundTrip.vclz (h : Hint) (t : Ty) (d : Vreg) (a : Vreg) : RoundTrip.Statement (.vclz h t d a) :=
  roundTrip_of_raw rfl (by show (0x1C8 : Nat) < _; decide) t.code_lt h.g.isLt h.bits_lt (encView_lt d) (encView_lt a)
    (by show (0 : Nat) < _; decide)
    (fun _ => by simp [decodeRaw, decodeClass7, Raw.hint_bits])
theorem RoundTrip.vctz (h : Hint) (t : Ty) (d : Vreg) (a : Vreg) : RoundTrip.Statement (.vctz h t d a) :=
  roundTrip_of_raw rfl (by show (0x1C9 : Nat) < _; decide) t.code_lt h.g.isLt h.bits_lt (encView_lt d) (encView_lt a)
    (by show (0 : Nat) < _; decide)
    (fun _ => by simp [decodeRaw, decodeClass7, Raw.hint_bits])
theorem RoundTrip.vfns (h : Hint) (t : Ty) (d : Vreg) (a : Vreg) (b : Src) : RoundTrip.Statement (.vfns h t d a b) :=
  roundTrip_of_raw rfl (by show (0x1CA : Nat) < _; decide) t.code_lt h.g.isLt h.bits_lt (encView_lt d) (encView_lt a)
    (encSrc_lt b)
    (fun _ => by simp [decodeRaw, decodeClass7, Raw.hint_bits])
theorem RoundTrip.vbrev (h : Hint) (t : Ty) (d : Vreg) (a : Vreg) : RoundTrip.Statement (.vbrev h t d a) :=
  roundTrip_of_raw rfl (by show (0x1CB : Nat) < _; decide) t.code_lt h.g.isLt h.bits_lt (encView_lt d) (encView_lt a)
    (by show (0 : Nat) < _; decide)
    (fun _ => by simp [decodeRaw, decodeClass7, Raw.hint_bits])
theorem RoundTrip.vcvt (h : Hint) (t : Ty) (d : Vreg) (a : Vreg) (b : Imm) : RoundTrip.Statement (.vcvt h t d a b) :=
  roundTrip_of_raw rfl (by show (0x1CC : Nat) < _; decide) t.code_lt h.g.isLt h.bits_lt (encView_lt d) (encView_lt a)
    (encImm_lt b)
    (fun _ => by simp [decodeRaw, decodeClass7, Raw.hint_bits])
theorem RoundTrip.vrcp (h : Hint) (t : Ty) (d : Vreg) (a : Vreg) : RoundTrip.Statement (.vrcp h t d a) :=
  roundTrip_of_raw rfl (by show (0x1CD : Nat) < _; decide) t.code_lt h.g.isLt h.bits_lt (encView_lt d) (encView_lt a)
    (by show (0 : Nat) < _; decide)
    (fun _ => by simp [decodeRaw, decodeClass7, Raw.hint_bits])
theorem RoundTrip.vrsq (h : Hint) (t : Ty) (d : Vreg) (a : Vreg) : RoundTrip.Statement (.vrsq h t d a) :=
  roundTrip_of_raw rfl (by show (0x1CE : Nat) < _; decide) t.code_lt h.g.isLt h.bits_lt (encView_lt d) (encView_lt a)
    (by show (0 : Nat) < _; decide)
    (fun _ => by simp [decodeRaw, decodeClass7, Raw.hint_bits])
theorem RoundTrip.vsqrt (h : Hint) (t : Ty) (d : Vreg) (a : Vreg) : RoundTrip.Statement (.vsqrt h t d a) :=
  roundTrip_of_raw rfl (by show (0x1CF : Nat) < _; decide) t.code_lt h.g.isLt h.bits_lt (encView_lt d) (encView_lt a)
    (by show (0 : Nat) < _; decide)
    (fun _ => by simp [decodeRaw, decodeClass7, Raw.hint_bits])
theorem RoundTrip.vexp2 (h : Hint) (t : Ty) (d : Vreg) (a : Vreg) : RoundTrip.Statement (.vexp2 h t d a) :=
  roundTrip_of_raw rfl (by show (0x1D0 : Nat) < _; decide) t.code_lt h.g.isLt h.bits_lt (encView_lt d) (encView_lt a)
    (by show (0 : Nat) < _; decide)
    (fun _ => by simp [decodeRaw, decodeClass7, Raw.hint_bits])
theorem RoundTrip.vlog2 (h : Hint) (t : Ty) (d : Vreg) (a : Vreg) : RoundTrip.Statement (.vlog2 h t d a) :=
  roundTrip_of_raw rfl (by show (0x1D1 : Nat) < _; decide) t.code_lt h.g.isLt h.bits_lt (encView_lt d) (encView_lt a)
    (by show (0 : Nat) < _; decide)
    (fun _ => by simp [decodeRaw, decodeClass7, Raw.hint_bits])
theorem RoundTrip.vsin (h : Hint) (t : Ty) (d : Vreg) (a : Vreg) : RoundTrip.Statement (.vsin h t d a) :=
  roundTrip_of_raw rfl (by show (0x1D2 : Nat) < _; decide) t.code_lt h.g.isLt h.bits_lt (encView_lt d) (encView_lt a)
    (by show (0 : Nat) < _; decide)
    (fun _ => by simp [decodeRaw, decodeClass7, Raw.hint_bits])
theorem RoundTrip.vcos (h : Hint) (t : Ty) (d : Vreg) (a : Vreg) : RoundTrip.Statement (.vcos h t d a) :=
  roundTrip_of_raw rfl (by show (0x1D3 : Nat) < _; decide) t.code_lt h.g.isLt h.bits_lt (encView_lt d) (encView_lt a)
    (by show (0 : Nat) < _; decide)
    (fun _ => by simp [decodeRaw, decodeClass7, Raw.hint_bits])
theorem RoundTrip.vidx (h : Hint) (t : Ty) (d : Vreg) (a : Imm) : RoundTrip.Statement (.vidx h t d a) :=
  roundTrip_of_raw rfl (by show (0x1D4 : Nat) < _; decide) t.code_lt h.g.isLt h.bits_lt (encView_lt d) (encImm_lt a)
    (by show (0 : Nat) < _; decide)
    (fun _ => by simp [decodeRaw, decodeClass7, Raw.hint_bits])
theorem RoundTrip.vtrans (h : Hint) (t : Ty) (d : Vreg) (a : Vreg) : RoundTrip.Statement (.vtrans h t d a) :=
  roundTrip_of_raw rfl (by show (0x1D5 : Nat) < _; decide) t.code_lt h.g.isLt h.bits_lt (encView_lt d) (encView_lt a)
    (by show (0 : Nat) < _; decide)
    (fun _ => by simp [decodeRaw, decodeClass7, Raw.hint_bits])
theorem RoundTrip.mzero (h : Hint) (d : Mreg) : RoundTrip.Statement (.mzero h d) :=
  roundTrip_of_raw rfl (by show (0x200 : Nat) < _; decide) (by show (0 : Nat) < _; decide) h.g.isLt h.bits_lt
    (encAcc_lt d) (by show (0 : Nat) < _; decide) (by show (0 : Nat) < _; decide)
    (fun _ => by simp [decodeRaw, decodeClass8, Raw.hint_bits])
theorem RoundTrip.mma (h : Hint) (t : Ty) (d : Mreg) (a : Vreg) (b : Vreg) : RoundTrip.Statement (.mma h t d a b) :=
  roundTrip_of_raw rfl (by show (0x201 : Nat) < _; decide) t.code_lt h.g.isLt h.bits_lt (encAcc_lt d) (encView_lt a)
    (encView_lt b)
    (fun _ => by simp [decodeRaw, decodeClass8, Raw.hint_bits])
theorem RoundTrip.mmat (h : Hint) (d : Mreg) (a : Vreg) (b : Vreg) : RoundTrip.Statement (.mmat h d a b) :=
  roundTrip_of_raw rfl (by show (0x202 : Nat) < _; decide) (by show (0 : Nat) < _; decide) h.g.isLt h.bits_lt
    (encAcc_lt d) (encView_lt a) (encView_lt b)
    (fun _ => by simp [decodeRaw, decodeClass8, Raw.hint_bits])
theorem RoundTrip.mld (h : Hint) (t : Ty) (d : Mreg) (a : Vreg) : RoundTrip.Statement (.mld h t d a) :=
  roundTrip_of_raw rfl (by show (0x203 : Nat) < _; decide) t.code_lt h.g.isLt h.bits_lt (encAcc_lt d) (encView_lt a)
    (by show (0 : Nat) < _; decide)
    (fun _ => by simp [decodeRaw, decodeClass8, Raw.hint_bits])
theorem RoundTrip.mst (h : Hint) (t : Ty) (d : Vreg) (a : Mreg) (b : Option Imm) : RoundTrip.Statement (.mst h t d a b) :=
  roundTrip_of_raw rfl (by show (0x204 : Nat) < _; decide) t.code_lt h.g.isLt h.bits_lt (encView_lt d) (encAcc_lt a)
    (encOptImm_lt b)
    (fun _ => by simp [decodeRaw, decodeClass8, Raw.hint_bits])
theorem RoundTrip.mscale (h : Hint) (d : Mreg) (a : Mreg) (b : Vreg) : RoundTrip.Statement (.mscale h d a b) :=
  roundTrip_of_raw rfl (by show (0x205 : Nat) < _; decide) (by show (15 : Nat) < _; decide) h.g.isLt h.bits_lt
    (encAcc_lt d) (encAcc_lt a) (encView_lt b)
    (fun _ => by simp [decodeRaw, decodeClass8, Raw.hint_bits])
theorem RoundTrip.mstat (h : Hint) (d : Reg) (a : Imm) : RoundTrip.Statement (.mstat h d a) :=
  roundTrip_of_raw rfl (by show (0x206 : Nat) < _; decide) (by show (0 : Nat) < _; decide) h.g.isLt h.bits_lt
    (encReg_lt24 d) (encImm_lt a) (by show (0 : Nat) < _; decide)
    (fun _ => by simp [decodeRaw, decodeClass8, Raw.hint_bits])
theorem RoundTrip.msig (h : Hint) (d : Reg) (a : RegImm) (b : RegImm) : RoundTrip.Statement (.msig h d a b) :=
  roundTrip_of_raw rfl (by show (0x207 : Nat) < _; decide) (by show (0 : Nat) < _; decide) h.g.isLt h.bits_lt
    (encReg_lt24 d) (encRegImm_lt a) (encRegImm_lt b)
    (fun _ => by simp [decodeRaw, decodeClass8, Raw.hint_bits])
theorem RoundTrip.sendq (h : Hint) (n : BitVec 4) (d : Reg) (a : Imm) (b : Reg) : RoundTrip.Statement (.sendq h n d a b) :=
  roundTrip_of_raw rfl (by show (0x240 : Nat) < _; decide) n.isLt h.g.isLt h.bits_lt (encReg_lt24 d) (encImm_lt a)
    (encReg_lt24 b)
    (fun _ => by simp [decodeRaw, decodeClass9, Raw.hint_bits])
theorem RoundTrip.replyq (h : Hint) (n : BitVec 4) (d : Reg) (a : Imm) (b : Reg) : RoundTrip.Statement (.replyq h n d a b) :=
  roundTrip_of_raw rfl (by show (0x241 : Nat) < _; decide) n.isLt h.g.isLt h.bits_lt (encReg_lt24 d) (encImm_lt a)
    (encReg_lt24 b)
    (fun _ => by simp [decodeRaw, decodeClass9, Raw.hint_bits])
theorem RoundTrip.sendc (h : Hint) (pol : Policy) (d : Reg) (a : CapOp) (b : Reg) : RoundTrip.Statement (.sendc h pol d a b) :=
  roundTrip_of_raw rfl (by show (0x242 : Nat) < _; decide) (by show (0 : Nat) < _; decide) h.g.isLt
    (h.bitsWith_lt (by rw [Nat.mul_comm]; exact pol.code_lt)) (encReg_lt24 d) (encCap_lt a) (encReg_lt24 b)
    (by
      intro hw
      have hh : h.sat = false ∧ h.rnd = 0 := by
        simp [Instr.wellFormed, Instr.hintsOk, Hint.accepts] at hw
        simp_all
      simp [decodeRaw, decodeClass9, Raw.hintGuard_bitsWith h _ _ _ _ _ _ hh.1 hh.2, Hint.bitsWith_top, Nat.mul_comm, decPolicy_code])
theorem RoundTrip.sendr (h : Hint) (d : LandDest) (a : RegImm) : RoundTrip.Statement (.sendr h d a) :=
  roundTrip_of_raw rfl (by show (0x243 : Nat) < _; decide) (by show (0 : Nat) < _; decide) h.g.isLt h.bits_lt
    (encLandDest_lt d) (encRegImm_lt a) (by show (0 : Nat) < _; decide)
    (fun _ => by simp [decodeRaw, decodeClass9, Raw.hint_bits])
theorem RoundTrip.spawn (h : Hint) (n : BitVec 4) (d : CapImm) (a : Reg) : RoundTrip.Statement (.spawn h n d a) :=
  roundTrip_of_raw rfl (by show (0x244 : Nat) < _; decide) n.isLt h.g.isLt h.bits_lt (encCapImm_lt d) (encReg_lt24 a)
    (by show (0 : Nat) < _; decide)
    (fun _ => by simp [decodeRaw, decodeClass9, Raw.hint_bits])
theorem RoundTrip.spawnr (h : Hint) (n : BitVec 4) (d : Reg) (a : Imm) (b : Reg) : RoundTrip.Statement (.spawnr h n d a b) :=
  roundTrip_of_raw rfl (by show (0x245 : Nat) < _; decide) n.isLt h.g.isLt h.bits_lt (encReg_lt24 d) (encImm_lt a)
    (encReg_lt24 b)
    (fun _ => by simp [decodeRaw, decodeClass9, Raw.hint_bits])
theorem RoundTrip.minc (h : Hint) (d : Reg) (a : RegImm) (b : RegImm) : RoundTrip.Statement (.minc h d a b) :=
  roundTrip_of_raw rfl (by show (0x246 : Nat) < _; decide) (by show (0 : Nat) < _; decide) h.g.isLt h.bits_lt
    (encReg_lt24 d) (encRegImm_lt a) (encRegImm_lt b)
    (fun _ => by simp [decodeRaw, decodeClass9, Raw.hint_bits])
theorem RoundTrip.mrdCounter (h : Hint) (d : Reg) (a : RegImm) : RoundTrip.Statement (.mrdCounter h d a) :=
  roundTrip_of_raw rfl (by show (0x247 : Nat) < _; decide) (by show (0 : Nat) < _; decide) h.g.isLt h.bits_lt
    (encReg_lt24 d) (encRegImm_lt a) (by show (0 : Nat) < _; decide)
    (fun _ => by simp [decodeRaw, decodeClass9, Raw.hint_bits])
theorem RoundTrip.mrdLanding (h : Hint) (d : Reg) (a : Yreg) : RoundTrip.Statement (.mrdLanding h d a) :=
  roundTrip_of_raw rfl (by show (0x247 : Nat) < _; decide) (by show (0 : Nat) < _; decide) h.g.isLt h.bits_lt
    (encReg_lt24 d) (encLand_lt a) (by show (0 : Nat) < _; decide)
    (fun _ => by simp [decodeRaw, decodeClass9, Raw.hint_bits])
theorem RoundTrip.mset (h : Hint) (n : BitVec 4) (d : RegImm) (a : RegImm) : RoundTrip.Statement (.mset h n d a) :=
  roundTrip_of_raw rfl (by show (0x248 : Nat) < _; decide) n.isLt h.g.isLt h.bits_lt (encRegImm_lt d) (encRegImm_lt a)
    (by show (0 : Nat) < _; decide)
    (fun _ => by simp [decodeRaw, decodeClass9, Raw.hint_bits])
theorem RoundTrip.arm (h : Hint) (d : Imm) (a : Reg) (b : RegImm) : RoundTrip.Statement (.arm h d a b) :=
  roundTrip_of_raw rfl (by show (0x249 : Nat) < _; decide) (by show (0 : Nat) < _; decide) h.g.isLt h.bits_lt
    (encImm_lt d) (encReg_lt24 a) (encRegImm_lt b)
    (fun _ => by simp [decodeRaw, decodeClass9, Raw.hint_bits])
theorem RoundTrip.kick (h : Hint) (d : Option CapOp) (a : Reg) : RoundTrip.Statement (.kick h d a) :=
  roundTrip_of_raw rfl (by show (0x24A : Nat) < _; decide) (by show (0 : Nat) < _; decide) h.g.isLt h.bits_lt
    (encOptCap_lt d) (encReg_lt24 a) (by show (0 : Nat) < _; decide)
    (fun _ => by simp [decodeRaw, decodeClass9, Raw.hint_bits])
theorem RoundTrip.barinit (h : Hint) (d : CapOp) (a : CapOp) (b : Reg) : RoundTrip.Statement (.barinit h d a b) :=
  roundTrip_of_raw rfl (by show (0x280 : Nat) < _; decide) (by show (0 : Nat) < _; decide) h.g.isLt h.bits_lt
    (encCap_lt d) (encCap_lt a) (encReg_lt24 b)
    (fun _ => by simp [decodeRaw, decodeClassA, Raw.hint_bits])
theorem RoundTrip.barrive (h : Hint) (d : CapOp) (a : Option CapOp) (b : Reg) : RoundTrip.Statement (.barrive h d a b) :=
  roundTrip_of_raw rfl (by show (0x281 : Nat) < _; decide) (by show (0 : Nat) < _; decide) h.g.isLt h.bits_lt
    (encCap_lt d) (encOptCap_lt a) (encReg_lt24 b)
    (fun _ => by simp [decodeRaw, decodeClassA, Raw.hint_bits])
theorem RoundTrip.barend (h : Hint) (d : CapOp) (a : Option CapOp) (b : Reg) : RoundTrip.Statement (.barend h d a b) :=
  roundTrip_of_raw rfl (by show (0x282 : Nat) < _; decide) (by show (0 : Nat) < _; decide) h.g.isLt h.bits_lt
    (encCap_lt d) (encOptCap_lt a) (encReg_lt24 b)
    (fun _ => by simp [decodeRaw, decodeClassA, Raw.hint_bits])
theorem RoundTrip.clook (h : Hint) (d : CapOp) (a : CapOp) (b : RegImm) : RoundTrip.Statement (.clook h d a b) :=
  roundTrip_of_raw rfl (by show (0x283 : Nat) < _; decide) (by show (0 : Nat) < _; decide) h.g.isLt h.bits_lt
    (encCap_lt d) (encCap_lt a) (encRegImm_lt b)
    (fun _ => by simp [decodeRaw, decodeClassA, Raw.hint_bits])
theorem RoundTrip.specq (h : Hint) (d : Reg) : RoundTrip.Statement (.specq h d) :=
  roundTrip_of_raw rfl (by show (0x284 : Nat) < _; decide) (by show (0 : Nat) < _; decide) h.g.isLt h.bits_lt
    (encReg_lt24 d) (by show (0 : Nat) < _; decide) (by show (0 : Nat) < _; decide)
    (fun _ => by simp [decodeRaw, decodeClassA, Raw.hint_bits])
theorem RoundTrip.aop (h : Hint) (n : BitVec 4) (f : BitVec 3) (d : CapOp) (a : Reg) : RoundTrip.Statement (.aop h n f d a) :=
  roundTrip_of_raw rfl (by show (0x285 : Nat) < _; decide) n.isLt h.g.isLt (h.bitsWith_lt f.isLt) (encCap_lt d)
    (encReg_lt24 a) (by show (0 : Nat) < _; decide)
    (by
      intro hw
      have hh : h.sat = false ∧ h.rnd = 0 := by
        simp [Instr.wellFormed, Instr.hintsOk, Hint.accepts] at hw
        simp_all
      simp [decodeRaw, decodeClassA, Raw.hintGuard_bitsWith h _ _ _ _ _ _ hh.1 hh.2, Hint.bitsWith_top])
theorem RoundTrip.aopr (h : Hint) (n : BitVec 4) (f : BitVec 3) (d : LandDest) (a : CapOp) (b : Reg) : RoundTrip.Statement (.aopr h n f d a b) :=
  roundTrip_of_raw rfl (by show (0x286 : Nat) < _; decide) n.isLt h.g.isLt (h.bitsWith_lt f.isLt) (encLandDest_lt d)
    (encCap_lt a) (encReg_lt24 b)
    (by
      intro hw
      have hh : h.sat = false ∧ h.rnd = 0 := by
        simp [Instr.wellFormed, Instr.hintsOk, Hint.accepts] at hw
        simp_all
      simp [decodeRaw, decodeClassA, Raw.hintGuard_bitsWith h _ _ _ _ _ _ hh.1 hh.2, Hint.bitsWith_top])
theorem RoundTrip.coll (h : Hint) (t : Ty) (d : CollDest) (a : Reg) (b : Reg) : RoundTrip.Statement (.coll h t d a b) :=
  roundTrip_of_raw rfl (by show (0x287 : Nat) < _; decide) t.code_lt h.g.isLt h.bits_lt (encCollDest_lt d)
    (encReg_lt24 a) (encReg_lt24 b)
    (fun _ => by simp [decodeRaw, decodeClassA, Raw.hint_bits])
theorem RoundTrip.collopen (h : Hint) (t : Ty) (d : LandDest) (a : Reg) (b : Reg) : RoundTrip.Statement (.collopen h t d a b) :=
  roundTrip_of_raw rfl (by show (0x288 : Nat) < _; decide) t.code_lt h.g.isLt h.bits_lt (encLandDest_lt d)
    (encReg_lt24 a) (encReg_lt24 b)
    (fun _ => by simp [decodeRaw, decodeClassA, Raw.hint_bits])
theorem RoundTrip.collclose (h : Hint) (a : Reg) : RoundTrip.Statement (.collclose h a) :=
  roundTrip_of_raw rfl (by show (0x289 : Nat) < _; decide) (by show (0 : Nat) < _; decide) h.g.isLt h.bits_lt
    (by show (0 : Nat) < _; decide) (encReg_lt24 a) (by show (0 : Nat) < _; decide)
    (fun _ => by simp [decodeRaw, decodeClassA, Raw.hint_bits])
theorem RoundTrip.mvNext (rd : Reg) (rs1 : Reg) (rs2 : Reg) : RoundTrip.Statement (.mvNext rd rs1 rs2) :=
  roundTrip_of_mv (by decide) rfl rfl fun w h1 h2 h3 h4 h5 h6 => by
    simp only [decodeMv, h1, h2, h3, h4, h5, h6, and_self, if_true]
theorem RoundTrip.mvTake (rd : Reg) (rs1 : Reg) (rs2 : Reg) : RoundTrip.Statement (.mvTake rd rs1 rs2) :=
  roundTrip_of_mv (by decide) rfl rfl fun w h1 h2 h3 h4 h5 h6 => by
    simp only [decodeMv, h1, h2, h3, h4, h5, h6, and_self, if_true]
theorem RoundTrip.mvCopy (rd : Reg) (rs1 : Reg) (rs2 : Reg) : RoundTrip.Statement (.mvCopy rd rs1 rs2) :=
  roundTrip_of_mv (by decide) rfl rfl fun w h1 h2 h3 h4 h5 h6 => by
    simp only [decodeMv, h1, h2, h3, h4, h5, h6, and_self, if_true]
theorem RoundTrip.mvFill (rd : Reg) (rs1 : Reg) (rs2 : Reg) : RoundTrip.Statement (.mvFill rd rs1 rs2) :=
  roundTrip_of_mv (by decide) rfl rfl fun w h1 h2 h3 h4 h5 h6 => by
    simp only [decodeMv, h1, h2, h3, h4, h5, h6, and_self, if_true]
theorem RoundTrip.mvXfer (rd : Reg) (rs1 : Reg) (rs2 : Reg) : RoundTrip.Statement (.mvXfer rd rs1 rs2) :=
  roundTrip_of_mv (by decide) rfl rfl fun w h1 h2 h3 h4 h5 h6 => by
    simp only [decodeMv, h1, h2, h3, h4, h5, h6, and_self, if_true]
theorem RoundTrip.mvGive (rd : Reg) (rs1 : Reg) (rs2 : Reg) : RoundTrip.Statement (.mvGive rd rs1 rs2) :=
  roundTrip_of_mv (by decide) rfl rfl fun w h1 h2 h3 h4 h5 h6 => by
    simp only [decodeMv, h1, h2, h3, h4, h5, h6, and_self, if_true]
theorem RoundTrip.mvMbx (rd : Reg) (rs1 : Reg) (rs2 : Reg) : RoundTrip.Statement (.mvMbx rd rs1 rs2) :=
  roundTrip_of_mv (by decide) rfl rfl fun w h1 h2 h3 h4 h5 h6 => by
    simp only [decodeMv, h1, h2, h3, h4, h5, h6, and_self, if_true]
theorem RoundTrip.mvStat (rd : Reg) (rs1 : Reg) (rs2 : Reg) : RoundTrip.Statement (.mvStat rd rs1 rs2) :=
  roundTrip_of_mv (by decide) rfl rfl fun w h1 h2 h3 h4 h5 h6 => by
    simp only [decodeMv, h1, h2, h3, h4, h5, h6, and_self, if_true]
theorem RoundTrip.matrixCommandComplete (shadow : Shadow) : RoundTrip.Statement (.matrixCommandComplete shadow) := roundTrip_of_none rfl
theorem RoundTrip.remoteAccessAnswer (ans : RemoteAnswer) : RoundTrip.Statement (.remoteAccessAnswer ans) := roundTrip_of_none rfl
theorem RoundTrip.strikeReport (zone : Zone) : RoundTrip.Statement (.strikeReport zone) := roundTrip_of_none rfl
theorem RoundTrip.scrubVisit (line : Nat) : RoundTrip.Statement (.scrubVisit line) := roundTrip_of_none rfl
theorem RoundTrip.moduleReset (failed : List Nat) : RoundTrip.Statement (.moduleReset failed) := roundTrip_of_none rfl
theorem RoundTrip.qnotify (vf : Nat) (q : Nat) (val : Word) : RoundTrip.Statement (.qnotify vf q val) := roundTrip_of_none rfl
theorem RoundTrip.registerWrite (pf : Bool) (vf : Nat) (off : Nat) (val : Word) : RoundTrip.Statement (.registerWrite pf vf off val) := roundTrip_of_none rfl
theorem RoundTrip.partCreate (buf : Mbox) (sig : List Byte) : RoundTrip.Statement (.partCreate buf sig) := roundTrip_of_none rfl
theorem RoundTrip.partPause (buf : Mbox) : RoundTrip.Statement (.partPause buf) := roundTrip_of_none rfl
theorem RoundTrip.partResume (buf : Mbox) : RoundTrip.Statement (.partResume buf) := roundTrip_of_none rfl
theorem RoundTrip.partEvict (buf : Mbox) : RoundTrip.Statement (.partEvict buf) := roundTrip_of_none rfl
theorem RoundTrip.partRestore (buf : Mbox) (blob : List Byte) : RoundTrip.Statement (.partRestore buf blob) := roundTrip_of_none rfl
theorem RoundTrip.partDestroy (buf : Mbox) : RoundTrip.Statement (.partDestroy buf) := roundTrip_of_none rfl
theorem RoundTrip.vfAssign (buf : Mbox) : RoundTrip.Statement (.vfAssign buf) := roundTrip_of_none rfl
theorem RoundTrip.chanAssign (buf : Mbox) : RoundTrip.Statement (.chanAssign buf) := roundTrip_of_none rfl
theorem RoundTrip.mapS2 (buf : Mbox) : RoundTrip.Statement (.mapS2 buf) := roundTrip_of_none rfl
theorem RoundTrip.rateSet (buf : Mbox) : RoundTrip.Statement (.rateSet buf) := roundTrip_of_none rfl
theorem RoundTrip.report (buf : Mbox) : RoundTrip.Statement (.report buf) := roundTrip_of_none rfl
theorem RoundTrip.cert (buf : Mbox) : RoundTrip.Statement (.cert buf) := roundTrip_of_none rfl
theorem RoundTrip.mgmtRead (buf : Mbox) : RoundTrip.Statement (.mgmtRead buf) := roundTrip_of_none rfl
theorem RoundTrip.mgmtWrite (buf : Mbox) : RoundTrip.Statement (.mgmtWrite buf) := roundTrip_of_none rfl
theorem RoundTrip.prqRead (buf : Mbox) : RoundTrip.Statement (.prqRead buf) := roundTrip_of_none rfl
theorem RoundTrip.emarkWrite (buf : Mbox) : RoundTrip.Statement (.emarkWrite buf) := roundTrip_of_none rfl
theorem RoundTrip.healthWrite (buf : Mbox) : RoundTrip.Statement (.healthWrite buf) := roundTrip_of_none rfl
theorem RoundTrip.functionLevelReset (vf : Nat) : RoundTrip.Statement (.functionLevelReset vf) := roundTrip_of_none rfl
theorem RoundTrip.fabricPacketArrival (p : FabPacket) : RoundTrip.Statement (.fabricPacketArrival p) := roundTrip_of_none rfl
theorem RoundTrip.fabricAcknowledgement (id : Nat) : RoundTrip.Statement (.fabricAcknowledgement id) := roundTrip_of_none rfl
theorem RoundTrip.portDown (port : Nat) : RoundTrip.Statement (.portDown port) := roundTrip_of_none rfl
theorem RoundTrip.stewardRv64Instruction (len : Nat) (rv : Rv) : RoundTrip.Statement (.stewardRv64Instruction len rv) := roundTrip_of_none rfl
theorem RoundTrip.cxlMemRead (vf : Nat) (off : Nat) (len : Nat) : RoundTrip.Statement (.cxlMemRead vf off len) := roundTrip_of_none rfl
theorem RoundTrip.cxlMemWrite (vf : Nat) (off : Nat) (bytes : List Byte) : RoundTrip.Statement (.cxlMemWrite vf off bytes) := roundTrip_of_none rfl
theorem RoundTrip.keyExchange (x : Exchange) : RoundTrip.Statement (.keyExchange x) := roundTrip_of_none rfl
theorem RoundTrip.vendorDefinedRequest (session : Nat) (handle : Word) (vf : Nat) (x : VendorProof) : RoundTrip.Statement (.vendorDefinedRequest session handle vf x) := roundTrip_of_none rfl
theorem RoundTrip.ideKeyProgramming (session : Nat) (vf : Nat) : RoundTrip.Statement (.ideKeyProgramming session vf) := roundTrip_of_none rfl
theorem RoundTrip.portUp (port : Nat) : RoundTrip.Statement (.portUp port) := roundTrip_of_none rfl
theorem RoundTrip.linkCrcError (port : Nat) (vfs : List Nat) : RoundTrip.Statement (.linkCrcError port vfs) := roundTrip_of_none rfl
theorem RoundTrip.powerLoss (orderly : Bool) : RoundTrip.Statement (.powerLoss orderly) := roundTrip_of_none rfl
theorem RoundTrip.stewardWake : RoundTrip.Statement .stewardWake := roundTrip_of_none rfl
theorem RoundTrip.stewardFault : RoundTrip.Statement .stewardFault := roundTrip_of_none rfl
theorem RoundTrip.moveBurst : RoundTrip.Statement .moveBurst := roundTrip_of_none rfl
theorem RoundTrip.engineOpComplete : RoundTrip.Statement .engineOpComplete := roundTrip_of_none rfl
theorem RoundTrip.matrixCommandStart : RoundTrip.Statement .matrixCommandStart := roundTrip_of_none rfl
theorem RoundTrip.watchdogExpiry : RoundTrip.Statement .watchdogExpiry := roundTrip_of_none rfl
theorem RoundTrip.graceExpiry : RoundTrip.Statement .graceExpiry := roundTrip_of_none rfl
theorem RoundTrip.dispatch : RoundTrip.Statement .dispatch := roundTrip_of_none rfl
theorem RoundTrip.aging : RoundTrip.Statement .aging := roundTrip_of_none rfl
theorem RoundTrip.heldTask : RoundTrip.Statement .heldTask := roundTrip_of_none rfl
theorem RoundTrip.messageArrival : RoundTrip.Statement .messageArrival := roundTrip_of_none rfl
theorem RoundTrip.capabilityArrival : RoundTrip.Statement .capabilityArrival := roundTrip_of_none rfl
theorem RoundTrip.remoteSpawnArrival : RoundTrip.Statement .remoteSpawnArrival := roundTrip_of_none rfl
theorem RoundTrip.poolWaitRelease : RoundTrip.Statement .poolWaitRelease := roundTrip_of_none rfl
theorem RoundTrip.counterIncrementArrival : RoundTrip.Statement .counterIncrementArrival := roundTrip_of_none rfl
theorem RoundTrip.landingWriteArrival : RoundTrip.Statement .landingWriteArrival := roundTrip_of_none rfl
theorem RoundTrip.landingHoldApply : RoundTrip.Statement .landingHoldApply := roundTrip_of_none rfl
theorem RoundTrip.memoryAgentOperation : RoundTrip.Statement .memoryAgentOperation := roundTrip_of_none rfl
theorem RoundTrip.aoprResultArrival : RoundTrip.Statement .aoprResultArrival := roundTrip_of_none rfl
theorem RoundTrip.copySlotRequest : RoundTrip.Statement .copySlotRequest := roundTrip_of_none rfl
theorem RoundTrip.copySlotGrant : RoundTrip.Statement .copySlotGrant := roundTrip_of_none rfl
theorem RoundTrip.copyAnnounce : RoundTrip.Statement .copyAnnounce := roundTrip_of_none rfl
theorem RoundTrip.copyDeliveryTimeout : RoundTrip.Statement .copyDeliveryTimeout := roundTrip_of_none rfl
theorem RoundTrip.reclaimInvalidation : RoundTrip.Statement .reclaimInvalidation := roundTrip_of_none rfl
theorem RoundTrip.reclaimComplete : RoundTrip.Statement .reclaimComplete := roundTrip_of_none rfl
theorem RoundTrip.tlbInvalidation : RoundTrip.Statement .tlbInvalidation := roundTrip_of_none rfl
theorem RoundTrip.tlbiAcknowledged : RoundTrip.Statement .tlbiAcknowledged := roundTrip_of_none rfl
theorem RoundTrip.pageRequestEntry : RoundTrip.Statement .pageRequestEntry := roundTrip_of_none rfl
theorem RoundTrip.conflictProbe : RoundTrip.Statement .conflictProbe := roundTrip_of_none rfl
theorem RoundTrip.probeAcknowledged : RoundTrip.Statement .probeAcknowledged := roundTrip_of_none rfl
theorem RoundTrip.barrierArrival : RoundTrip.Statement .barrierArrival := roundTrip_of_none rfl
theorem RoundTrip.barrierParkAcknowledged : RoundTrip.Statement .barrierParkAcknowledged := roundTrip_of_none rfl
theorem RoundTrip.completionNotice : RoundTrip.Statement .completionNotice := roundTrip_of_none rfl
theorem RoundTrip.horizonRelease : RoundTrip.Statement .horizonRelease := roundTrip_of_none rfl
theorem RoundTrip.healthFlush : RoundTrip.Statement .healthFlush := roundTrip_of_none rfl
theorem RoundTrip.queueSlotGrant : RoundTrip.Statement .queueSlotGrant := roundTrip_of_none rfl
theorem RoundTrip.notifyStarvation : RoundTrip.Statement .notifyStarvation := roundTrip_of_none rfl
theorem RoundTrip.launch : RoundTrip.Statement .launch := roundTrip_of_none rfl
theorem RoundTrip.launchChannelsFree : RoundTrip.Statement .launchChannelsFree := roundTrip_of_none rfl
theorem RoundTrip.registerImage : RoundTrip.Statement .registerImage := roundTrip_of_none rfl
theorem RoundTrip.releaseImage : RoundTrip.Statement .releaseImage := roundTrip_of_none rfl
theorem RoundTrip.kernelRetire : RoundTrip.Statement .kernelRetire := roundTrip_of_none rfl
theorem RoundTrip.completionRecordWrite : RoundTrip.Statement .completionRecordWrite := roundTrip_of_none rfl
theorem RoundTrip.partitionHalted : RoundTrip.Statement .partitionHalted := roundTrip_of_none rfl
theorem RoundTrip.bufCreate : RoundTrip.Statement .bufCreate := roundTrip_of_none rfl
theorem RoundTrip.bufFree : RoundTrip.Statement .bufFree := roundTrip_of_none rfl
theorem RoundTrip.bufRecover : RoundTrip.Statement .bufRecover := roundTrip_of_none rfl
theorem RoundTrip.ctRead : RoundTrip.Statement .ctRead := roundTrip_of_none rfl
theorem RoundTrip.taskList : RoundTrip.Statement .taskList := roundTrip_of_none rfl
theorem RoundTrip.biasSet : RoundTrip.Statement .biasSet := roundTrip_of_none rfl
theorem RoundTrip.precRead : RoundTrip.Statement .precRead := roundTrip_of_none rfl
theorem RoundTrip.flogSet : RoundTrip.Statement .flogSet := roundTrip_of_none rfl
theorem RoundTrip.flogHead : RoundTrip.Statement .flogHead := roundTrip_of_none rfl
theorem RoundTrip.xlatSet : RoundTrip.Statement .xlatSet := roundTrip_of_none rfl
theorem RoundTrip.stwInstall : RoundTrip.Statement .stwInstall := roundTrip_of_none rfl
theorem RoundTrip.supvRecv : RoundTrip.Statement .supvRecv := roundTrip_of_none rfl
theorem RoundTrip.supvEvents : RoundTrip.Statement .supvEvents := roundTrip_of_none rfl
theorem RoundTrip.transferTimeout : RoundTrip.Statement .transferTimeout := roundTrip_of_none rfl
theorem RoundTrip.packetDeparture : RoundTrip.Statement .packetDeparture := roundTrip_of_none rfl
theorem RoundTrip.tokenRedistribute : RoundTrip.Statement .tokenRedistribute := roundTrip_of_none rfl
theorem RoundTrip.routingFlip : RoundTrip.Statement .routingFlip := roundTrip_of_none rfl
theorem RoundTrip.routingRetire : RoundTrip.Statement .routingRetire := roundTrip_of_none rfl
theorem RoundTrip.chipUnsynchronized : RoundTrip.Statement .chipUnsynchronized := roundTrip_of_none rfl
theorem RoundTrip.chipResynchronized : RoundTrip.Statement .chipResynchronized := roundTrip_of_none rfl
theorem RoundTrip.collopenRequest : RoundTrip.Statement .collopenRequest := roundTrip_of_none rfl
theorem RoundTrip.contributionArrival : RoundTrip.Statement .contributionArrival := roundTrip_of_none rfl
theorem RoundTrip.collcloseArrival : RoundTrip.Statement .collcloseArrival := roundTrip_of_none rfl
theorem RoundTrip.slotDeadline : RoundTrip.Statement .slotDeadline := roundTrip_of_none rfl
theorem RoundTrip.slotExpire : RoundTrip.Statement .slotExpire := roundTrip_of_none rfl
theorem RoundTrip.collectiveRecordArrival : RoundTrip.Statement .collectiveRecordArrival := roundTrip_of_none rfl
theorem RoundTrip.speculationBudgetLow : RoundTrip.Statement .speculationBudgetLow := roundTrip_of_none rfl
theorem RoundTrip.injectionEntryFree : RoundTrip.Statement .injectionEntryFree := roundTrip_of_none rfl
theorem RoundTrip.vectorStreamComplete : RoundTrip.Statement .vectorStreamComplete := roundTrip_of_none rfl

end Sys2Proof.Laws
end

