-- ==== Sys2Proof/Laws/Stream.lean ====
section
/-!
SUPPORT. Laws of streams (R204 to R210): reading and writing an admitted element, and the walk in ordinal order.
-/

namespace Sys2Proof.Machine

variable {s u v : State} {w : Who}

/-! ## What the pure description of a stream keeps -/

/-- What elements of a stream leave alone: everything but memory, x registers and the sticky flags. -/
structure Steady (s v : State) : Prop where
  cts : v.cts = s.cts
  chip : v.chip = s.chip
  cur : v.cur = s.cur
  cycle : v.cycle = s.cycle
  parts : v.parts = s.parts
  ecc : v.ecc = s.ecc
  poison : v.poison = s.poison
  run : v.ctx.run = s.ctx.run
  mx : v.ctx.mx = s.ctx.mx
  spec : v.ctx.spec = s.ctx.spec
  shzLog : v.ctx.shzLog = s.ctx.shzLog
  shzPosts : v.ctx.shzPosts = s.ctx.shzPosts
  pc : v.regs.pc = s.regs.pc
  posts : s.postsOf s.cur.tile = [] → v.postsOf s.cur.tile = []
  queue : s.mxQueue = [] → v.mxQueue = []

theorem Steady.refl (s : State) : Steady s s := ⟨rfl, rfl, rfl, rfl, rfl, rfl, rfl, rfl, rfl, rfl, rfl, rfl, rfl, id, id⟩

theorem Steady.trans {s t u : State} (a : Steady s t) (b : Steady t u) : Steady s u :=
  ⟨b.cts.trans a.cts, b.chip.trans a.chip, b.cur.trans a.cur, b.cycle.trans a.cycle, b.parts.trans a.parts, b.ecc.trans a.ecc,
    b.poison.trans a.poison, b.run.trans a.run, b.mx.trans a.mx, b.spec.trans a.spec, b.shzLog.trans a.shzLog, b.shzPosts.trans a.shzPosts,
    b.pc.trans a.pc, fun h => by rw [← a.cur]; exact b.posts (by rw [a.cur]; exact a.posts h), fun h => b.queue (a.queue h)⟩

theorem Steady.putBytes (s : State) (a : Nat) (bs : List Byte) : Steady s (s.putBytes a bs) :=
  ⟨rfl, rfl, rfl, rfl, rfl, rfl, rfl, rfl, rfl, rfl, rfl, rfl, rfl, id, id⟩

theorem Steady.setFlags (s : State) (f : Flags) : Steady s (s.setFlags f) := by
  refine ⟨rfl, rfl, rfl, rfl, rfl, rfl, rfl, ?_, ?_, ?_, ?_, ?_, ?_, ?_, ?_⟩
  · simp [State.setFlags_eq, Regs.setFlags]
  · simp [State.setFlags_eq, Regs.setFlags]
  · simp [State.setFlags_eq, Regs.setFlags]
  · simp [State.setFlags_eq, Regs.setFlags]
  · simp [State.setFlags_eq, Regs.setFlags]
  · simp [State.setFlags_eq, State.regs, Regs.setFlags]
  · rw [State.setFlags_eq]; exact (postsOf_onCtx s _ ⟨rfl, rfl⟩).mpr
  · rw [State.setFlags_eq]; exact (mxQueue_onCtx s _ ⟨rfl, rfl⟩).mpr

theorem Steady.putElement (s : State) (b : BoundView) (t : Ty) (idx : List Nat) (x : Nat) :
    Steady s (s.putElement b t idx x).1 := by
  unfold State.putElement
  dsimp only
  split <;> exact Steady.putBytes _ _ _

theorem Steady.putResult (s : State) (b : BoundView) (t : Ty) (idx : List Nat) (r : Res) (fl : Flags) :
    Steady s (s.putResult b t idx r fl) := (Steady.putElement s b t idx r.bits).trans (Steady.setFlags _ _)

theorem Steady.inOrder {s : State} {f : Nat → State → State} (h : ∀ k v, Steady v (f k v)) (n : Nat) :
    Steady s (s.inOrder n f) := by
  unfold State.inOrder
  generalize upto n = l
  induction l generalizing s with
  | nil => exact .refl s
  | cons k l ih => exact (h k s).trans ih

/-! ## The relation between the machine and the pure description -/

theorem Fetched.putBytes (h : Fetched v u) (a : Nat) (bs : List Byte) : Fetched (v.putBytes a bs) (u.putBytes a bs) :=
  ⟨by simp only [State.putBytes, h.mem], h.parts, h.cycle, h.chip, h.cur, h.cts, h.net, h.ecc, h.poison, h.probes, h.fabric,
    h.vfs, h.regs, h.run, h.mx, h.on, h.held, h.log, h.shzLog, h.shzPosts, h.vecBusy, h.posts, h.queue, h.loc⟩

/-- The same change of the context's registers on both sides. -/
theorem Fetched.onRegs (h : Fetched v u) (f : Regs → Regs) : Fetched (v.onRegs f) (u.onRegs f) := by
  refine ⟨h.mem, h.parts, h.cycle, h.chip, h.cur, h.cts, h.net, h.ecc, h.poison, h.probes, h.fabric, h.vfs, ?_, ?_, ?_, ?_, ?_,
    ?_, ?_, ?_, ?_, ?_, ?_, ?_⟩
  · simp only [State.onRegs_eq, State.ctx_onCtx, h.regs]
  · simp only [State.onRegs_eq, State.ctx_onCtx, h.run]
  · simp only [State.onRegs_eq, State.ctx_onCtx, h.mx]
  · simp only [State.onRegs_eq, State.ctx_onCtx, h.on]
  · simp only [State.onRegs_eq, State.ctx_onCtx, h.held]
  · simp only [State.onRegs_eq, State.ctx_onCtx, h.log]
  · simp only [State.onRegs_eq, State.ctx_onCtx, h.shzLog]
  · simp only [State.onRegs_eq, State.ctx_onCtx, h.shzPosts]
  · simp only [State.onRegs_eq, State.ctx_onCtx, h.vecBusy]
  · intro hp
    rw [State.onRegs_eq] at hp ⊢
    have hx := (postsOf_onCtx u (fun c => { c with regs := f c.regs }) ⟨rfl, rfl⟩).mpr (by
      rw [h.cur]
      exact h.posts ((postsOf_onCtx v _ ⟨rfl, rfl⟩).mp hp))
    rw [h.cur] at hx
    exact hx
  · intro hq
    rw [State.onRegs_eq] at hq ⊢
    exact (mxQueue_onCtx u _ ⟨rfl, rfl⟩).mpr (h.queue ((mxQueue_onCtx v _ ⟨rfl, rfl⟩).mp hq))
  · have := h.loc
    simp only [State.onRegs_eq, State.onCtx, State.onCtxAt]
    rw [← h.cur] at this ⊢
    simpa [h.cur] using this

theorem Fetched.setFlags (h : Fetched v u) (f : Flags) : Fetched (v.setFlags f) (u.setFlags f) := h.onRegs _

/-! ## Admitted elements -/

theorem ct_congr (h : u.cts = s.cts) (k : Nat) : u.ct k = s.ct k := by simp only [State.ct, h]

theorem windowBase_congr (h : u.cts = s.cts) (c : Cap) : u.windowBase c = s.windowBase c := by
  simp only [State.windowBase, ct_congr h]

theorem current_congr (h : u.cts = s.cts) (hc : u.chip = s.chip) (c : Cap) : u.current c = s.current c := by
  simp only [State.current, ct_congr h, hc]

/-- A check that passes without the validation cache passes with it, when no reclaim stands. -/
theorem checkCap_congr (h : u.cts = s.cts) (hc : u.chip = s.chip) {c : Cap} (hr : (s.ct c.key).recl = none)
    (vc : List VEntry) (supv : Bool) (acc : Access) (off : Int) (n : Nat) :
    u.checkCap vc supv (some c) acc off n = s.checkCap [] supv (some c) acc off n := by
  simp [State.checkCap, CtEntry.notOwner, ct_congr h, windowBase_congr h, current_congr h hc, hc, hr]

theorem elemPlace_congr (h : u.cts = s.cts) (b : BoundView) (e : Elem) : elemPlace u b e = elemPlace s b e := by
  unfold elemPlace
  cases b.cap <;> simp only [windowBase_congr h]

/-- The checks of R53 pass for an admitted element. -/
theorem elemCheck_ok {b : BoundView} {t : Ty} {acc : Access} {at' : Nat → List Nat} {n k : Nat}
    (ha : Admitted s w b t acc at' n) (hk : k < n) (hu : Steady s v) (hf : Fetched v u) (ord : Nat) :
    ∃ c q, b.cap = some c ∧ (s.ct c.key).laopen = false ∧ Fetched v q
      ∧ u.elemCheck w b (elemOf b t (at' k)) acc ord
        = .ok (q, c, (elemOf b t (at' k)).off.toNat, elemPlace s b (elemOf b t (at' k))) := by
  obtain ⟨c, hc, hr, hl, hall⟩ := ha
  obtain ⟨hin, hck, hph⟩ := hall k hk
  refine ⟨c, _, hc, hl, hf.trans (Fetched.validated u w.pnum c), ?_⟩
  have hcts : u.cts = s.cts := hf.cts.trans hu.cts
  have hchip : u.chip = s.chip := hf.chip.trans hu.chip
  rw [hc] at hck
  unfold State.elemCheck
  simp only [hc, hin, if_true, checkCap_congr hcts hchip hr, hck, hph]
  simp only [elemPlace, hc]

/-- What a stream needs of the context, in the pure description's states. -/
theorem Steady.streams (h : Steady s v) (hs : StreamReady s) :
    Prompt v ∧ Clean v ∧ v.mxQueue = [] ∧ v.ctx.spec.log = [] ∧ v.ctx.shzLog = [] := by
  refine ⟨⟨by rw [h.spec]; exact hs.prompt.1, by rw [h.spec]; exact hs.prompt.2.1, ?_, by rw [h.shzPosts]; exact hs.prompt.2.2.2.1,
      by rw [h.shzLog]; exact hs.prompt.2.2.2.2⟩,
    ⟨h.ecc.trans hs.clean.1, h.poison.trans hs.clean.2⟩, h.queue hs.queue, by rw [h.spec]; exact hs.log,
    by rw [h.shzLog]; exact hs.prompt.2.2.2.2⟩
  have := hs.prompt.2.2.1
  simpa [State.shz, State.partOfTile, h.cur, h.parts] using this

theorem seen_plain (hl : u.ctx.spec.log = []) (hz : u.ctx.shzLog = []) (a n : Nat) : u.seen a n = u.bytes a n := by
  simp [State.seen, State.logged, hl, hz]

theorem bytes_fetched (h : Fetched v u) (a n : Nat) : u.bytes a n = v.bytes a n := by
  simp [State.bytes, h.byte]

/-- Reading an admitted element. -/
theorem readElem_ok {b : BoundView} {t : Ty} {at' : Nat → List Nat} {n k : Nat} (hs : StreamReady s)
    (ha : Admitted s w b t .read at' n) (hk : k < n) (hu : Steady s v) (hf : Fetched v u) (ord : Nat) :
    ∃ q, u.readElem w b t (at' k) ord = .ok (q, (v.elemValue b t (at' k)).1, (v.elemValue b t (at' k)).2)
      ∧ Fetched v q := by
  obtain ⟨c, q, hc, hl, hq, he⟩ := elemCheck_ok ha hk hu hf ord
  obtain ⟨hp, hcl, hqu, hlog, hz⟩ := hu.streams hs
  have hcl' : Clean q := ⟨hq.ecc.trans hcl.1, hq.poison.trans hcl.2⟩
  generalize hcr : (if b.view.ringf then 0 else b.view.cap) = cr
  have hbytes : u.elemBytes w b (elemOf b t (at' k)) ord
      = .ok (q.markRead b.cap (elemPlace s b (elemOf b t (at' k))) (elemOf b t (at' k)).size,
          v.bytes (elemPlace s b (elemOf b t (at' k))) (elemOf b t (at' k)).size) := by
    unfold State.elemBytes
    simp only [he, bind, Except.bind, readBusy_none (hq.queue hqu), waitWhile,
      Bool.false_eq_true, if_false, eccCheck_clean hcl']
    have hm := Fetched.markRead q b.cap (elemPlace s b (elemOf b t (at' k))) (elemOf b t (at' k)).size
    rw [seen_plain (by rw [hm.log, hq.log]; exact hlog) (by rw [hm.shzLog, hq.shzLog]; exact hz),
      bytes_fetched (hq.trans hm)]
  refine ⟨_, ?_, hq.trans (Fetched.markRead q b.cap (elemPlace s b (elemOf b t (at' k))) (elemOf b t (at' k)).size)⟩
  unfold State.readElem State.elemValue
  dsimp only
  simp only [hbytes, bind, Except.bind, elemPlace_congr hu.cts]
  split <;> rfl

/-- Performing a write without latent errors in a buffer that is not looked ahead at. -/
theorem perform_plain (hc : Clean u) {c : Cap} (hl : (u.ct c.key).laopen = false) (t a : Nat) (bs : List Byte) :
    u.perform t c a bs = u.putBytes a bs := by
  unfold State.perform State.eccWrite
  simp [hc.1, hc.2, show (State.ct (u.putBytes a bs) c.key).laopen = false from hl]

/-- Writing an admitted element. -/
theorem writeElem_ok {b : BoundView} {t : Ty} {at' : Nat → List Nat} {n k : Nat} (hs : StreamReady s)
    (ha : Admitted s w b t .write at' n) (hk : k < n) (hu : Steady s v) (hf : Fetched v u) (x ord : Nat) :
    ∃ q, u.writeElem w b t (at' k) x ord = .ok (q, (v.putElement b t (at' k) x).2)
      ∧ Fetched (v.putElement b t (at' k) x).1 q := by
  obtain ⟨c, q, hc, hl, hq, he⟩ := elemCheck_ok ha hk hu hf ord
  obtain ⟨hp, hcl, hqu, hlog, hz⟩ := hu.streams hs
  have hcl' : Clean q := ⟨hq.ecc.trans hcl.1, hq.poison.trans hcl.2⟩
  have hl' : (q.ct c.key).laopen = false := by rw [ct_congr (hq.cts.trans hu.cts)]; exact hl
  have hw (off a : Nat) (bs : List Byte) : q.writeOut c off a bs = .ok (q.putBytes a bs) := by
    rw [writeOut_ok (hq.prompt hp), perform_plain hcl' hl']
  unfold State.writeElem State.putElement
  dsimp only
  simp only [he, bind, Except.bind, writeBusy_none (hq.queue hqu), waitWhile,
    Bool.false_eq_true, if_false, hw, elemPlace_congr hu.cts]
  rw [seen_plain (by rw [hq.log]; exact hlog) (by rw [hq.shzLog]; exact hz), bytes_fetched hq]
  split
  · exact ⟨_, rfl, hq.putBytes _ _⟩
  · exact ⟨_, rfl, hq.putBytes _ _⟩

/-- Writing an element's result with its flags. -/
theorem element_ok {b : BoundView} {t : Ty} {at' : Nat → List Nat} {n k : Nat} (hs : StreamReady s)
    (ha : Admitted s w b t .write at' n) (hk : k < n) (hu : Steady s v) (hf : Fetched v u) (r : Res) (fl : Flags) (ord : Nat) :
    ∃ q, u.element w b t (at' k) ord r fl = .ok q ∧ Fetched (v.putResult b t (at' k) r fl) q := by
  obtain ⟨q, he, hq⟩ := writeElem_ok hs ha hk hu hf r.bits ord
  refine ⟨_, ?_, hq.setFlags (r.fl ||| fl ||| (v.putElement b t (at' k) r.bits).2)⟩
  unfold State.element
  simp only [he, bind, Except.bind]

/-! ## The walk -/

theorem upto_succ (n : Nat) : upto (n + 1) = upto n ++ [n] := by
  simp [upto, List.range_succ]

theorem inOrder_succ (s : State) (n : Nat) (f : Nat → State → State) : s.inOrder (n + 1) f = f n (s.inOrder n f) := by
  simp [State.inOrder, upto_succ]

/-- A walk whose elements each come to what a pure description gives. -/
theorem walk_ok {f : Nat → State → Eff State} {g : Nat → State → State} {total : Nat} (hg : ∀ k v, Steady v (g k v))
    (hfg : ∀ k v u, k < total → Steady s v → Fetched v u → ∃ q, f k u = .ok q ∧ Fetched (g k v) q) :
    ∀ n k u, k + n = total → Fetched (s.inOrder k g) u → ∃ q, walk f n k u = .ok q ∧ Fetched (s.inOrder total g) q := by
  intro n
  induction n with
  | zero =>
    intro k u hk hf
    have : k = total := by omega
    subst this
    exact ⟨u, rfl, hf⟩
  | succ n ih =>
    intro k u hk hf
    obtain ⟨q, hq, hfq⟩ := hfg k _ u (by omega) (Steady.inOrder hg k) hf
    rw [← inOrder_succ s k g] at hfq
    obtain ⟨r, hr, hfr⟩ := ih (k + 1) q (by omega) hfq
    exact ⟨r, by simp only [walk, hq, hr], hfr⟩

/-- A stream that starts anew and runs to its end. -/
theorem stream_ok {f : Nat → State → Eff State} {g : Nat → State → State} {es : List Nat} {lanes : Nat} (hr : s.regs.resume = .none)
    (hq : s.cur.quota = 0) (hl : s.cur.lanes = []) (hg : ∀ k v, Steady v (g k v))
    (hfg : ∀ k v u, k < elements es → Steady s v → Fetched v u → ∃ q, f k u = .ok q ∧ Fetched (g k v) q) :
    ∃ q, stream s es lanes f = .ok q ∧ Fetched (s.inOrder (elements es) g) q := by
  have hst : startOf s = (0, []) := by simp [startOf, hr]
  have hlim : passLimit (es.getD 0 1) lanes (elements es) 0 s.cur.quota = elements es := by simp [passLimit, hq]
  have hln : s.cur.lanes.isEmpty = true := by simp [hl]
  obtain ⟨q, hw, hf⟩ := walk_ok (s := s) hg hfg (elements es) 0 s (by omega) (by simpa [State.inOrder, upto] using Fetched.refl s)
  refine ⟨q, ?_, hf⟩
  unfold stream
  simp only [hst, hlim, hln, if_true, hw, Nat.sub_zero, bind, Except.bind, Nat.lt_irrefl, if_false]

/-- What the frame of a vector instruction leaves when its effect succeeds. -/
theorem issueVector_ok {h : Hint} (hi : Issues s h w) (hb : vectorBusy s = false) {body : Who → Eff (State × List Nat)} {r q : State}
    {regs : List Nat} (hbody : body w = .ok (q, regs)) (hs : Steady s r) (hf : Fetched r q) :
    ∃ t, issueVector s h body = .next t ∧ Streamed s t h r regs := by
  refine ⟨_, issue_ok hi (u := q.onCtx fun v => { v with vecBusy := some regs }) ?_, ?_⟩
  · simp only [hb, Bool.false_and, waitWhile, bind, Except.bind, hbody, Bool.false_eq_true, if_false]
  · simp only [State.nextPc_eq, State.clearResume_eq, State.issueHold_eq, State.onCtx_onCtx]
    have hpc : r.ctx.regs.pc = s.ctx.regs.pc := hs.pc
    refine ⟨?_, ?_, ⟨?_, ?_, ?_, ?_⟩, ?_, ?_⟩ <;>
      simp [State.regs, hf.mem, hf.regs, hf.cycle, hs.cycle, hf.cur, hs.cur, hf.cts, hs.cts, hpc]

/-! ## The frames of element-wise instructions -/

/-- Reading an admitted source. -/
theorem readSrc_ok {x : VSrc} {t : Ty} {at' : Nat → List Nat} {n k : Nat} (hs : StreamReady s)
    (ha : ∀ b, x = .view b → Admitted s w b t .read at' n) (hk : k < n) (hu : Steady s v) (hf : Fetched v u) (ord : Nat) :
    ∃ q, u.readSrc w x t (at' k) ord = .ok (q, (v.srcValue x t (at' k)).1, (v.srcValue x t (at' k)).2)
      ∧ Fetched v q := by
  cases x with
  | view b => exact readElem_ok hs (ha b rfl) hk hu hf ord
  | scalar n => exact ⟨u, rfl, hf⟩

/-- The frame of R213. -/
theorem binary_ok {h : Hint} {dt at' bt : Ty} {readsD : Bool} {d a : Vreg} {b : Src} {f : Mode → Nat → Nat → Nat → Res}
    {vd va : BoundView} {vb : VSrc} {fb : Flags} {es : List Nat} (hi : Issues s h w) (hs : StreamReady s)
    (hd : bindView s w d true = .ok vd) (ha : bindView s w a false = .ok va)
    (hb : bindSrc s w b bt (s.mode h) h.sat = .ok (vb, fb))
    (hm : matchedInto s vd.view ((va :: viewsOf [vb]).map (·.view)) = .ok es)
    (ad : Admitted s w vd dt .write (indexOf es) (elements es)) (aa : Admitted s w va at' .read (indexOf es) (elements es))
    (ab : ∀ x, vb = .view x → Admitted s w x bt .read (indexOf es) (elements es))
    (adr : readsD = true → Admitted s w vd dt .read (indexOf es) (elements es)) :
    ∃ t, binary h dt at' bt readsD d a b f s = .next t
      ∧ Streamed s t h ((s.setFlags fb).inOrder (elements es) fun k q =>
          let x := q.elemValue va at' (indexOf es k)
          let y := q.srcValue vb bt (indexOf es k)
          let z := if readsD then (q.elemValue vd dt (indexOf es k)).1 else 0
          q.putResult vd dt (indexOf es k) (f (s.mode h) x.1 y.1 z) (x.2 ||| y.2))
        (captured (vd :: va :: viewsOf [vb])) := by
  have hv := Steady.setFlags s fb
  have hres : (s.setFlags fb).regs.resume = .none := by
    have := hs.resume
    simpa [State.setFlags_eq, State.regs, Regs.setFlags] using this
  have hgs : ∀ k q, Steady q ((fun k (q : State) =>
      let x := q.elemValue va at' (indexOf es k)
      let y := q.srcValue vb bt (indexOf es k)
      let z := if readsD then (q.elemValue vd dt (indexOf es k)).1 else 0
      q.putResult vd dt (indexOf es k) (f (s.mode h) x.1 y.1 z) (x.2 ||| y.2)) k q) := fun k q => Steady.putResult _ _ _ _ _ _
  obtain ⟨q, hq, hf⟩ := stream_ok (s := s.setFlags fb) (es := es) (lanes := min (min dt.lanes at'.lanes) bt.lanes)
    (f := fun k s' => do
      let idx := indexOf es k
      let (s', x, fx) ← s'.readElem w va at' idx k
      let (s', y, fy) ← s'.readSrc w vb bt idx k
      let (s', z) ← (if readsD then do
          let (s', z, _) ← s'.readElem w vd dt idx k
          .ok (s', z)
        else .ok (s', 0) : Eff (State × Nat))
      s'.element w vd dt idx k (f (s.mode h) x y z) (fx ||| fy))
    hres (by rw [hv.cur]; exact hs.quota) (by rw [hv.cur]; exact hs.lanes) hgs
    (by
      intro k p u hk hp hf
      have hp' := hv.trans hp
      obtain ⟨u1, e1, f1⟩ := readElem_ok hs aa hk hp' hf k
      obtain ⟨u2, e2, f2⟩ := readSrc_ok hs ab hk hp' f1 k
      have : ∃ u3, (if readsD then do
          let (s', z, _) ← u2.readElem w vd dt (indexOf es k) k
          .ok (s', z)
        else .ok (u2, 0) : Eff (State × Nat))
          = .ok (u3, if readsD then (p.elemValue vd dt (indexOf es k)).1 else 0) ∧ Fetched p u3 := by
        cases readsD with
        | false => exact ⟨u2, rfl, f2⟩
        | true =>
          obtain ⟨u3, e3, f3⟩ := readElem_ok hs (adr rfl) hk hp' f2 k
          refine ⟨u3, ?_, f3⟩
          simp only [if_true, e3, bind, Except.bind]
      obtain ⟨u3, e3, f3⟩ := this
      obtain ⟨u4, e4, f4⟩ := element_ok hs ad hk hp' f3 (f (s.mode h) (p.elemValue va at' (indexOf es k)).1
        (p.srcValue vb bt (indexOf es k)).1 (if readsD then (p.elemValue vd dt (indexOf es k)).1 else 0))
        ((p.elemValue va at' (indexOf es k)).2 ||| (p.srcValue vb bt (indexOf es k)).2) k
      refine ⟨u4, ?_, f4⟩
      simp only [e1, e2, bind, Except.bind]
      simp only [bind, Except.bind] at e3
      rw [e3]
      exact e4)
  refine issueVector_ok hi hs.free ?_ (hv.trans (Steady.inOrder hgs _)) hf
  simp only [hd, ha, hb, hm, bind, Except.bind]
  simp only [bind, Except.bind] at hq
  rw [hq]

/-- The frame of the unary instructions. -/
theorem unary_ok {h : Hint} {dt at' : Ty} {d a : Vreg} {f : Mode → Nat → Res} {vd va : BoundView} {es : List Nat}
    (hi : Issues s h w) (hs : StreamReady s) (hd : bindView s w d true = .ok vd) (ha : bindView s w a false = .ok va)
    (hm : matchedInto s vd.view [va.view] = .ok es) (ad : Admitted s w vd dt .write (indexOf es) (elements es))
    (aa : Admitted s w va at' .read (indexOf es) (elements es)) :
    ∃ t, unary h dt at' d a f s = .next t
      ∧ Streamed s t h (s.inOrder (elements es) fun k q =>
          let x := q.elemValue va at' (indexOf es k)
          q.putResult vd dt (indexOf es k) (f (s.mode h) x.1) x.2)
        (captured [vd, va]) := by
  have hgs : ∀ k q, Steady q ((fun k (q : State) =>
      let x := q.elemValue va at' (indexOf es k)
      q.putResult vd dt (indexOf es k) (f (s.mode h) x.1) x.2) k q) := fun k q => Steady.putResult _ _ _ _ _ _
  obtain ⟨q, hq, hf⟩ := stream_ok (s := s) (es := es) (lanes := min dt.lanes at'.lanes)
    (f := fun k s' => do
      let idx := indexOf es k
      let (s', x, fx) ← s'.readElem w va at' idx k
      s'.element w vd dt idx k (f (s.mode h) x) fx)
    hs.resume hs.quota hs.lanes hgs
    (by
      intro k p u hk hp hf
      obtain ⟨u1, e1, f1⟩ := readElem_ok hs aa hk hp hf k
      obtain ⟨u4, e4, f4⟩ := element_ok hs ad hk hp f1 (f (s.mode h) (p.elemValue va at' (indexOf es k)).1)
        (p.elemValue va at' (indexOf es k)).2 k
      refine ⟨u4, ?_, f4⟩
      simp only [e1, bind, Except.bind]
      exact e4)
  refine issueVector_ok hi hs.free ?_ (Steady.inOrder hgs _) hf
  simp only [hd, ha, hm, bind, Except.bind]
  simp only [bind, Except.bind] at hq
  rw [hq]

/-- The frame of VFILL and VIDX. -/
theorem fillWith_ok {h : Hint} {t : Ty} {d : Vreg} {pre : State → Eff Unit} {fl : State → Flags}
    {f : State → List Nat → Nat → Res} {vd : BoundView} {es : List Nat} (hi : Issues s h w) (hs : StreamReady s)
    (hpre : pre s = .ok ()) (hd : bindView s w d true = .ok vd) (hm : matchedInto s vd.view [] = .ok es)
    (ad : Admitted s w vd t .write (indexOf es) (elements es)) :
    ∃ q, fillWith h t d pre fl f s = .next q
      ∧ Streamed s q h ((s.setFlags (fl s)).inOrder (elements es) fun k q =>
          q.putResult vd t (indexOf es k) (f s (indexOf es k) k) 0)
        (captured [vd]) := by
  have hv := Steady.setFlags s (fl s)
  have hgs : ∀ k q, Steady q ((fun k (q : State) =>
      q.putResult vd t (indexOf es k) (f s (indexOf es k) k) 0) k q) := fun k q => Steady.putResult _ _ _ _ _ _
  have hres : (s.setFlags (fl s)).regs.resume = .none := by
    have := hs.resume
    simpa [State.setFlags_eq, State.regs, Regs.setFlags] using this
  obtain ⟨q, hq, hf⟩ := stream_ok (s := s.setFlags (fl s)) (es := es) (lanes := t.lanes)
    (f := fun k s' => do
      let idx := indexOf es k
      s'.element w vd t idx k (f s idx k) 0)
    hres hs.quota hs.lanes hgs
    (by
      intro k p u hk hp hf
      exact element_ok hs ad hk (hv.trans hp) hf _ _ k)
  refine issueVector_ok hi hs.free ?_ (hv.trans (Steady.inOrder hgs _)) hf
  simp only [hpre, hd, hm, bind, Except.bind]
  dsimp only at hq
  rw [hq]

end Sys2Proof.Machine
end

