-- ==== Sys2Proof/Laws/Traps.lean ====
section
/-!
SUPPORT. Laws of traps (R423): what a delivered trap leaves in the context, and that nothing else of the tile changes but
the context's fault record.
-/

namespace Sys2Proof.Machine

variable {s : State} {w : Who}

/-- What a trap counts does not touch contexts, registers or memory. -/
theorem countUncorr_same (s : State) (w : Who) (t : Trap) :
    (s.countUncorr w t).ctx = s.ctx ∧ (s.countUncorr w t).cur = s.cur ∧ (s.countUncorr w t).mem = s.mem
      ∧ (s.countUncorr w t).cycle = s.cycle ∧ (s.countUncorr w t).parts = s.parts := by
  unfold State.countUncorr
  split
  · refine ⟨?_, rfl, rfl, rfl, rfl⟩
    have h (u : State) (v i n : Nat) : (u.vfAdd v i n).ctx = u.ctx := rfl
    simp only [State.countMemory, h]
    simp [State.ctx, State.ctxAt, State.tile, State.onTile, State.setTile]
  · exact ⟨rfl, rfl, rfl, rfl, rfl⟩

@[simp] theorem countUncorr_ctx (t : Trap) : (s.countUncorr w t).ctx = s.ctx := (countUncorr_same s w t).1
@[simp] theorem countUncorr_cur (t : Trap) : (s.countUncorr w t).cur = s.cur := (countUncorr_same s w t).2.1

/-- A record's first word names the cause and the subcode (Table 19.1). -/
theorem record_word (r : FRec) : r.nat % 2 ^ 32 % 256 = r.code % 256 ∧ r.nat % 2 ^ 32 / 256 % 256 = r.sub % 256 := by
  unfold FRec.nat
  constructor <;> omega

/-- The registers at the trap entry. -/
theorem trapped_regs (r : Regs) (rec' iword entry : Nat) (cap : Cap) :
    (r.trapped rec' iword entry cap).pc = BitVec.ofNat 32 entry
    ∧ (r.trapped rec' iword entry cap).readX 1 = word (rec' % 2 ^ 32)
    ∧ (r.trapped rec' iword entry cap).readX 2 = r.pc.setWidth 64
    ∧ (r.trapped rec' iword entry cap).readC 15 = some cap := by
  refine ⟨rfl, ?_, ?_, ?_⟩
  · show Regs.readX _ 1 = _
    unfold Regs.trapped
    simp only [Regs.readX, Regs.writeC]
    simp [Regs.writeX, aget_aset_ne]
  · unfold Regs.trapped
    simp only [Regs.readX, Regs.writeC]
    simp [Regs.writeX, aget_aset_ne]
  · unfold Regs.trapped
    simp [Regs.readC, Regs.writeC]

theorem word_record_toNat (n : Nat) : (word (n % 2 ^ 32)).toNat = n % 2 ^ 32 := by
  have h := Nat.mod_lt n (Nat.two_pow_pos 32)
  generalize n % 2 ^ 32 = k at *
  simp [word]
  omega

/-- What the delivery writes into the context: the registers of the trap entry and what the task keeps for ERET. -/
theorem trapped_onCtx {p q : State} (r : FRec) (e : Option Nat) (t : Trap) (hq : q.ctx = s.ctx) (hcur : p.cur = s.cur)
    (hcode : r.nat % 2 ^ 32 % 256 = t.code) (hsub : r.nat % 2 ^ 32 / 256 % 256 = t.sub) :
    Trapped s (q.onCtx fun v =>
      { v with
        regs := v.regs.trapped r.nat r.iword w.image.trapEnt (p.faultCap p.cur.tile p.cur.ctx)
        run := { v.run with
          trapEntry := true, faultPc := v.regs.pc, kept := v.regs.resume.kept, rejected := []
          graceEnd := e } })
      w t.code t.sub := by
  have hregs : s.regs = q.ctx.regs := by rw [hq]; rfl
  have hx := trapped_regs q.ctx.regs r.nat r.iword w.image.trapEnt (p.faultCap p.cur.tile p.cur.ctx)
  unfold Trapped
  simp only [State.ctx_onCtx, State.regs_onCtx, hregs, hx.1, hx.2.1, hx.2.2.1, hx.2.2.2]
  rw [word_record_toNat]
  refine ⟨trivial, trivial, trivial, trivial, hcode, hsub, trivial, p.faultCap p.cur.tile p.cur.ctx, ?_⟩
  rw [hcur]
  exact ⟨rfl, rfl, rfl, rfl, rfl, rfl, rfl⟩

/-- A delivered trap leaves what R423 gives the trap entry. -/
theorem takeTrap_delivers (hd : Delivers s w) (t : Trap) (hw : (t.code == cWdog) = false) (hc : t.code < 256)
    (hs : t.sub < 256) : Trapped s (s.takeTrap w t) w t.code t.sub := by
  obtain ⟨h1, h2, h3⟩ := hd
  have hpc (b : List Byte) (a : Nat) : ((s.countUncorr w t).putBytes a b).ctx = s.ctx
      ∧ ((s.countUncorr w t).putBytes a b).cur = s.cur := ⟨countUncorr_ctx t, countUncorr_cur t⟩
  have hrec := record_word ((s.countUncorr w t).trapRecord w t)
  have hcode : ((s.countUncorr w t).trapRecord w t).code = t.code ∧ ((s.countUncorr w t).trapRecord w t).sub = t.sub :=
    ⟨rfl, rfl⟩
  rw [hcode.1, hcode.2, Nat.mod_eq_of_lt hc, Nat.mod_eq_of_lt hs] at hrec
  unfold State.takeTrap
  rw [if_pos (by rw [h2, hw]; exact ⟨h1, rfl, rfl⟩)]
  have hd15 (q : State) : (q.dropC15 w).ctx = q.ctx ∧ (q.dropC15 w).cur = q.cur := by
    unfold State.dropC15
    split
    · exact ⟨(GivenUp.giveUp _ _ _).ctx, (GivenUp.giveUp _ _ _).cur⟩
    · exact ⟨rfl, rfl⟩
  dsimp only
  generalize (s.countUncorr w t).trapRecord w t = r at *
  exact trapped_onCtx r _ t ((hd15 _).1.trans (hpc _ _).1) (hpc _ _).2 hrec.1 hrec.2

/-- An effect that traps in a task with a trap entry. -/
theorem settle_delivers {u : State} {t : Trap} (hs : s.ctx.spec.on = false) (hu : Delivers u w)
    (hw : (t.code == cWdog) = false) (hc : t.code < 256) (hsub : t.sub < 256) :
    ∃ v, settle s w (.error (u, .trap t)) = .next v ∧ Trapped u v w t.code t.sub :=
  ⟨_, settle_trap t u hs, takeTrap_delivers hu t hw hc hsub⟩

end Sys2Proof.Machine
end

