-- ==== Sys2Proof/Laws/Vector.lean ====
section
/-!
SUPPORT. Laws that name, for each element-wise vector instruction, its frame and its element function (R213, R214, R218, R220,
R226 to R229).
-/

namespace Sys2Proof.Machine

variable (s : State) (h : Hint)

/-! ## Binary instructions -/

theorem exec_vadd (t : Ty) (d a : Vreg) (b : Src) :
    exec (.vadd h t d a b) s = binary h t t t false d a b
      (fun m x y _ => arith (fun a b _ => a + b) (fun m a b _ => addNum m a b) false t m h.sat x y 0) s := rfl
theorem exec_vsub (t : Ty) (d a : Vreg) (b : Src) :
    exec (.vsub h t d a b) s = binary h t t t false d a b
      (fun m x y _ => arith (fun a b _ => a - b) (fun m a b _ => subNum m a b) false t m h.sat x y 0) s := rfl
theorem exec_vmul (t : Ty) (d a : Vreg) (b : Src) :
    exec (.vmul h t d a b) s = binary h t t t false d a b
      (fun m x y _ => arith (fun a b _ => a * b) (fun _ a b _ => mulNum a b) false t m h.sat x y 0) s := rfl
theorem exec_vfma (t : Ty) (d a : Vreg) (b : Src) :
    exec (.vfma h t d a b) s = binary h t t t true d a b
      (fun m x y z => arith (fun a b d => a * b + d) fmaNum true t m h.sat x y z) s := rfl
theorem exec_vmin (t : Ty) (d a : Vreg) (b : Src) :
    exec (.vmin h t d a b) s = binary h t t t false d a b
      (fun _ x y _ => minMax t false x y) s := rfl
theorem exec_vmax (t : Ty) (d a : Vreg) (b : Src) :
    exec (.vmax h t d a b) s = binary h t t t false d a b
      (fun _ x y _ => minMax t true x y) s := rfl
theorem exec_vcmul (d a : Vreg) (b : ViewReg) :
    exec (.vcmul h d a b) s = binary h .cf32 .cf32 .cf32 false d a (ViewReg.src b)
      (fun m x y _ => complexMul m h.sat x y) s := rfl
theorem exec_vcmp (t : Ty) (cond : Cond) (d a : Vreg) (b : Src) :
    exec (.vcmp h t cond d a b) s = binary h .u8 t t false d a b
      (fun _ x y _ => ⟨if condHolds cond (decodeNum t x) (decodeNum t y) then 1 else 0,
      condFlags cond (decodeNum t x) (decodeNum t y)⟩) s := rfl
theorem exec_vscale (t : Ty) (d a b : Vreg) :
    exec (.vscale h t d a b) s = binary h t t .e8m0 false d a (.view b)
      (fun m x y _ => scaleElem t m h.sat x y) s := rfl
theorem exec_vquant (t : Ty) (d a b : Vreg) :
    exec (.vquant h t d a b) s = binary h t .f32 .e8m0 false d a (.view b)
      (fun m x y _ => quantElem t m h.sat x y) s := rfl
theorem exec_vand (t : Ty) (d a : Vreg) (b : Src) :
    exec (.vand h t d a b) s = binary h t t t false d a b
      (fun _ x y _ => ⟨x &&& y, 0⟩) s := rfl
theorem exec_vor (t : Ty) (d a : Vreg) (b : Src) :
    exec (.vor h t d a b) s = binary h t t t false d a b
      (fun _ x y _ => ⟨x ||| y, 0⟩) s := rfl
theorem exec_vxor (t : Ty) (d a : Vreg) (b : Src) :
    exec (.vxor h t d a b) s = binary h t t t false d a b
      (fun _ x y _ => ⟨x ^^^ y, 0⟩) s := rfl
theorem exec_vshl (t : Ty) (d a : Vreg) (b : Src) :
    exec (.vshl h t d a b) s = binary h t t t false d a b
      (fun _ x y _ => ⟨x * 2 ^ (y % t.width) % 2 ^ t.width, 0⟩) s := rfl
theorem exec_vshr (t : Ty) (d a : Vreg) (b : Src) :
    exec (.vshr h t d a b) s = binary h t t t false d a b
      (fun _ x y _ => ⟨x / 2 ^ (y % t.width), 0⟩) s := rfl
theorem exec_vsra (t : Ty) (d a : Vreg) (b : Src) :
    exec (.vsra h t d a b) s = binary h t t t false d a b
      (fun _ x y _ => ⟨wrapNat ((signExtend x t.width).fdiv (2 ^ (y % t.width))) t.width, 0⟩) s := rfl
/-- VFNS takes n at full width from a register or an immediate. -/
theorem exec_vfns (t : Ty) (d a : Vreg) (b : Src) :
    exec (.vfns h t d a b) s = binary h t t t false d a b
      (fun _ x y _ => ⟨fnsBits t.width x
        (match b with | .view _ => y | .reg r => (s.x r).toNat | .imm v => (immWord v).toNat), 0⟩) s := by
  cases b <;> rfl

/-! ## Unary instructions -/

theorem exec_vabs (t : Ty) (d a : Vreg) : exec (.vabs h t d a) s = unary h t t d a (fun _ x => signElem false t h.sat x) s := rfl
theorem exec_vneg (t : Ty) (d a : Vreg) : exec (.vneg h t d a) s = unary h t t d a (fun _ x => signElem true t h.sat x) s := rfl
theorem exec_vcopy (t : Ty) (d a : Vreg) : exec (.vcopy h t d a) s = unary h t t d a (fun _ x => ⟨x, 0⟩) s := rfl
theorem exec_vnot (t : Ty) (d a : Vreg) : exec (.vnot h t d a) s = unary h t t d a (fun _ x => ⟨2 ^ t.width - 1 - x, 0⟩) s := rfl
theorem exec_vpopc (t : Ty) (d a : Vreg) : exec (.vpopc h t d a) s = unary h t t d a (fun _ x => ⟨popcount t.width x, 0⟩) s := rfl
theorem exec_vclz (t : Ty) (d a : Vreg) : exec (.vclz h t d a) s = unary h t t d a (fun _ x => ⟨clzBits t.width x, 0⟩) s := rfl
theorem exec_vctz (t : Ty) (d a : Vreg) : exec (.vctz h t d a) s = unary h t t d a (fun _ x => ⟨ctzBits t.width x, 0⟩) s := rfl
theorem exec_vbrev (t : Ty) (d a : Vreg) : exec (.vbrev h t d a) s = unary h t t d a (fun _ x => ⟨brevBits t.width x, 0⟩) s := rfl
theorem exec_vrcp (t : Ty) (d a : Vreg) : exec (.vrcp h t d a) s = unary h t t d a (fun _ x => specialFn .rcp t h.sat x) s := rfl
theorem exec_vrsq (t : Ty) (d a : Vreg) : exec (.vrsq h t d a) s = unary h t t d a (fun _ x => specialFn .rsq t h.sat x) s := rfl
theorem exec_vsqrt (t : Ty) (d a : Vreg) : exec (.vsqrt h t d a) s = unary h t t d a (fun _ x => specialFn .sqrt t h.sat x) s := rfl
theorem exec_vexp2 (t : Ty) (d a : Vreg) : exec (.vexp2 h t d a) s = unary h t t d a (fun _ x => specialFn .exp2 t h.sat x) s := rfl
theorem exec_vlog2 (t : Ty) (d a : Vreg) : exec (.vlog2 h t d a) s = unary h t t d a (fun _ x => specialFn .log2 t h.sat x) s := rfl
theorem exec_vsin (t : Ty) (d a : Vreg) : exec (.vsin h t d a) s = unary h t t d a (fun _ x => specialFn .sin t h.sat x) s := rfl
theorem exec_vcos (t : Ty) (d a : Vreg) : exec (.vcos h t d a) s = unary h t t d a (fun _ x => specialFn .cos t h.sat x) s := rfl
theorem exec_vcvt (t : Ty) (d a : Vreg) (b : Imm) {src : Ty} (hs : vcvtSource b = some src)
    (ha : cvtAllowed src t h.sat = true) :
    exec (.vcvt h t d a b) s = unary h t src d a (fun m x => cvtElem src t m h.sat x) s := by
  show execVcvt _ _ _ _ _ _ = _
  unfold execVcvt
  simp only [hs, ha, if_true]

end Sys2Proof.Machine
end

