-- ==== Sys2Proof/Tests/Slice0.lean ====
section
/-!
SUPPORT. Own tests.
-/
namespace Sys2Proof.Tests
open Sys2Proof Sys2Proof.Machine
set_option Elab.async false

/-! ## A small machine -/

/-- No guard, SAT, RND, LAST or issue hold. -/
def hint : Hint := ⟨0, false, 0, false, 0⟩
/-- An image with 100 code words, a const section and a trap entry. -/
def image : Image :=
  { fetchImage with len := 4096, codeLen := 1200, constOff := 1328, constLen := 256, dataOff := 1584, stwOff := 1584, trapEnt := 24 }
/-- A user kernel on two tiles. -/
def kernel : Kernel := { fetchKernel with supv := false, interval := [0, 1], tiles := [0, 1] }
/-- A partition of four tiles that runs the kernel `k` of image `im`. -/
def partOf (im : Image) (k : Kernel) : Machine.Part :=
  { fetchPart with
    prec := { fetchPart.prec with plen := 4 }, images := [(0, im)],
    qslots := [(0, { vf := 0, queue := 0, qva := 0, qlog2 := 2, nopre := false, supv := k.supv, ckva := 0, kernel := some k,
                     waitingLaunch := none, pending := none, boundary := false })] }
/-- What tile 0 holds besides its contexts. -/
def loc0 : Local := { Tile.reset.loc with recs := [(0, fetchRecord)] }
/-- Context 0 of tile 0, running the task of record 0 with registers `g`. -/
def ctx0 (g : Regs) : Context :=
  { Context.reset with
    regs := g, mxRec := some 0
    run := { Run.reset with task := some 0, dispatched := 900, issueAt := 1000, accs := [4, 5] } }
/-- The machine at cycle 1,000: tile 0, context 0. -/
def machineOf (im : Image) (k : Kernel) (v : Context) (l : Local) : State :=
  { State.reset with
    cycle := 1000, parts := [(0, partOf im k)]
    tiles := [(0, { Tile.reset with loc := l, core := { Tile.reset.core with ctxs := [(0, v)] } })] }
/-- The same, for a user kernel's task with registers `g`. -/
def machine (g : Regs) : State := machineOf image kernel (ctx0 g) loc0
/-- The same, for a supervisor kernel's task. -/
def supervisor (g : Regs) : State := machineOf image { kernel with supv := true } (ctx0 g) loc0
/-- The task of a machine's context. -/
def who (s : State) : Who := (s.issuer).getD ⟨0, partOf image kernel, 0, kernel, image, 0, fetchRecord⟩
/-- The state that an instruction leaves. -/
def ran (i : Instr) (s : State) : State := match exec i s with | .next t => t | _ => State.reset

/-- Registers with x1 to x4. -/
def regs (a b c d : Word) : Regs := { Regs.reset with x := [(1, a), (2, b), (3, c), (4, d)], pc := 60 }

/-- chapter 9: bexts.i64 x3, x7, #776. -/
theorem test_decode_bexts : decode 0x21D000000003000007600308 = .ok (.bexts ⟨0, false, 0, false, 0⟩ .i64 3 7 (.imm 776)) := rfl
/-- chapter 22: fcvt.e8m0 x15, x12, #11. -/
theorem test_decode_fcvt : decode 0x333C0000000F00000C60000B = .ok (.fcvt ⟨0, false, 0, false, 0⟩ .e8m0 15 12 11) := rfl
/-- chapter 23: pdep.i64 x20, x14, x13. -/
theorem test_decode_pdep : decode 0x22500000001400000E00000D = .ok (.pdep ⟨0, false, 0, false, 0⟩ .i64 20 14 13) := rfl
/-- chapter 23: eret #0. -/
theorem test_decode_eret : decode 0x034000000000000000600000 = .ok (.eret ⟨0, false, 0, false, 0⟩ 0) := rfl
/-- chapter 26: p1? br, offset 4. -/
theorem test_decode_br : decode 0x004040000000000000600004 = .ok (.br ⟨1, false, 0, false, 0⟩ 4) := rfl
/-- chapter 24: st.bf16 [c14 + 15], x10. -/
theorem test_decode_st : decode 0x406800A01E0E00000A000000 = .ok (.st ⟨0, false, 0, false, 0⟩ .bf16 ⟨15, 0, 14⟩ 10) := rfl
/-- chapter 25: ld.i64 x8, [c15 + 5]. -/
theorem test_decode_ld : decode 0x401000000008A00A0F000000 = .ok (.ld ⟨0, false, 0, false, 0⟩ .i64 8 ⟨5, 0, 15⟩) := rfl
/-- chapter 13: vwset v0, #0. -/
theorem test_decode_vwset : decode 0x408000800000600000000000 = .ok (.vwset ⟨0, false, 0, false, 0⟩ 0 (.imm 0)) := rfl
/-- chapter 24: cjoin [c14], [c1]. -/
theorem test_decode_cjoin : decode 0x508000A0000EA00001000000 = .ok (.cjoin ⟨0, false, 0, false, 0⟩ ⟨0, 0, 14⟩ ⟨0, 0, 1⟩) := rfl
/-- chapter 21: creclaim [c14]. -/
theorem test_decode_creclaim : decode 0x524000A0000E000000000000 = .ok (.creclaimRegister ⟨0, false, 0, false, 0⟩ ⟨0, 0, 14⟩) := rfl
/-- chapter 22: vred.f32 x10, v0, #0xB4. -/
theorem test_decode_vred : decode 0x62AC0000000A8000006000B4 = .ok (.vred ⟨0, false, 0, false, 0⟩ .f32 (.reg 10) 0 0xB4) := rfl
/-- chapter 22: vquant.e4m3 v1, v0, v2 :sat. -/
theorem test_decode_vquant : decode 0x64DC20800001800000800002 = .ok (.vquant ⟨0, true, 0, false, 0⟩ .e4m3 1 0 2) := rfl
/-- chapter 25: vgather.f32 v1, [c0], v0. -/
theorem test_decode_vgather : decode 0x642C00800001A00000800000 = .ok (.vgather ⟨0, false, 0, false, 0⟩ .f32 1 ⟨0, 0, 0⟩ 0) := rfl
/-- chapter 24: mma.bf16 m0, v2, v2. -/
theorem test_decode_mma : decode 0x806800E000E0800002800002 = .ok (.mma ⟨0, false, 0, false, 0⟩ .bf16 0 2 2) := rfl
/-- Table 15.5: sendq.2 x9, #3, x12. -/
theorem test_decode_sendq : decode 0x90080000000960000300000C = .ok (.sendq ⟨0, false, 0, false, 0⟩ 2 9 3 12) := rfl
/-- chapter 23: !p4? sendq.1 x9, #1, x17. -/
theorem test_decode_sendq_guarded : decode 0x900700000009600001000011 = .ok (.sendq ⟨12, false, 0, false, 0⟩ 1 9 1 17) := rfl
/-- Table 15.5: replyq.1 x5, #5, x8. -/
theorem test_decode_replyq : decode 0x904400000005600005000008 = .ok (.replyq ⟨0, false, 0, false, 0⟩ 1 5 5 8) := rfl
/-- chapter 24: sendc x10, [c0], x21 :xfer. -/
theorem test_decode_sendc : decode 0x90801000000AA00000000015 = .ok (.sendc ⟨0, false, 0, false, 0⟩ .xfer 10 ⟨0, 0, 0⟩ 21) := rfl
/-- chapter 26: barinit [c2], [c1], x8. -/
theorem test_decode_barinit : decode 0xA00000A00002A00001000008 = .ok (.barinit ⟨0, false, 0, false, 0⟩ ⟨0, 0, 2⟩ ⟨0, 0, 1⟩ 8) := rfl
/-- chapter 26: barrive [c1]. -/
theorem test_decode_barrive : decode 0xA04000A00001000000000000 = .ok (.barrive ⟨0, false, 0, false, 0⟩ ⟨0, 0, 1⟩ none 0) := rfl
/-- chapter 17: clook [c5], [c1], #2. -/
theorem test_decode_clook : decode 0xA0C000A00005A00001600002 = .ok (.clook ⟨0, false, 0, false, 0⟩ ⟨0, 0, 5⟩ ⟨0, 0, 1⟩ (.imm 2)) := rfl
/-- chapter 17: specq x4. -/
theorem test_decode_specq : decode 0xA10000000004000000000000 = .ok (.specq ⟨0, false, 0, false, 0⟩ 4) := rfl
/-- chapter 22: collopen.f32 y0, x0, x21. -/
theorem test_decode_collopen : decode 0xA22C00E000C0000000000015 = .ok (.collopen ⟨0, false, 0, false, 0⟩ .f32 (.land 0) 0 21) := rfl
/-- chapter 18: collclose x8. -/
theorem test_decode_collclose : decode 0xA24000000000000008000000 = .ok (.collclose ⟨0, false, 0, false, 0⟩ 8) := rfl

/-- Words written out from the encoding tables of chapter 9. -/
theorem test_words_control :
    [0x000000000000000000000000,
      0x004000000000000000600005,
      0x008000000000000001000000,
      0x00C000000000000000600005,
      0x010000000000000000000000,
      0x014000000000000001600005,
      0x018000000000000000000000,
      0x01C000600005000001600005,
      0x020000000000000000600005,
      0x024000000000000000600005,
      0x028000000003E00009000000,
      0x02C000E00007600005000000,
      0x030000000003000001000002,
      0x034000000000000000600005,
      0x038000000000000000000002,
      0x03C000000000000000000000].map (fun w => (decode w).toOption)
    = let h := hint
      [some (.nop h),
       some (.br h 5),
       some (.bri h 1),
       some (.call h (.imm 5)),
       some (.ret h),
       some (.loop h 1 5),
       some (.endTask h),
       some (.endc h 5 1 (.imm 5)),
       some (.trap h 5),
       some (.brk h 5),
       some (.gets h 3 .cycle),
       some (.sets h .fpstat (.imm 5)),
       some (.tlbi h 3 1 2),
       some (.eret h 5),
       some (.wdog h (.reg 2)),
       some (.halt h)] := rfl

/-- Words written out from the encoding tables of chapter 9. -/
theorem test_words_integer_1 :
    [0x100C00000003000001000002,
      0x104C00000003000001600005,
      0x108C00000003000001000002,
      0x10CC00000003000001600005,
      0x110C00000003000001000002,
      0x114C00000003000001600005,
      0x118C00000003000001000002,
      0x11CC00000003000001600005,
      0x120C00000003000001000002,
      0x124C00000003000001600005,
      0x128C00000003000001000002,
      0x12CC00000003000001600005,
      0x130C00000003000001000002,
      0x134C00000003000001600005,
      0x138C00000003000001000002,
      0x13CC00000003000001600005,
      0x140C00000003000001000002,
      0x144C00C00003000001600005,
      0x148C00C00003000001000002,
      0x14CC00C00003000001600005].map (fun w => (decode w).toOption)
    = let h := hint
      [some (.add h .i32 3 1 (.reg 2)),
       some (.sub h .i32 3 1 (.imm 5)),
       some (.mul h .i32 3 1 (.reg 2)),
       some (.mulh h .i32 3 1 (.imm 5)),
       some (.div h .i32 3 1 (.reg 2)),
       some (.rem h .i32 3 1 (.imm 5)),
       some (.and h .i32 3 1 (.reg 2)),
       some (.or h .i32 3 1 (.imm 5)),
       some (.xor h .i32 3 1 (.reg 2)),
       some (.andn h .i32 3 1 (.imm 5)),
       some (.shl h .i32 3 1 (.reg 2)),
       some (.shr h .i32 3 1 (.imm 5)),
       some (.sra h .i32 3 1 (.reg 2)),
       some (.rot h .i32 3 1 (.imm 5)),
       some (.min h .i32 3 1 (.reg 2)),
       some (.max h .i32 3 1 (.imm 5)),
       some (.sel h .i32 3 1 (.reg 2)),
       some (.cmpeq h .i32 3 1 (.imm 5)),
       some (.cmpne h .i32 3 1 (.reg 2)),
       some (.cmplt h .i32 3 1 (.imm 5))] := rfl

/-- Words written out from the encoding tables of chapter 9. -/
theorem test_words_integer_2 :
    [0x150C00C00003000001000002,
      0x154C00C00003000001600005,
      0x158C00C00003000001000002,
      0x15C0000000030123456789AB,
      0x160C00000003000001000002,
      0x164000C00003C00001C00002,
      0x168000C00003C00001C00002,
      0x16C000C00003C00001C00002,
      0x170000C00003C00001000000].map (fun w => (decode w).toOption)
    = let h := hint
      [some (.cmple h .i32 3 1 (.reg 2)),
       some (.cmpltu h .i32 3 1 (.imm 5)),
       some (.cmpleu h .i32 3 1 (.reg 2)),
       some (.li h 3 0x0123456789AB),
       some (.mad h .i32 3 1 (.reg 2)),
       some (.pand h 3 1 2),
       some (.por h 3 1 2),
       some (.pxor h 3 1 2),
       some (.pnot h 3 1)] := rfl

/-- Words written out from the encoding tables of chapter 9. -/
theorem test_words_bits :
    [0x200C00000003000001000000,
      0x204C00000003000001000000,
      0x208C00000003000001000000,
      0x20CC00000003000001600005,
      0x210C00000003000001000000,
      0x215000000003000001000000,
      0x218C00000003000001000002,
      0x21CC00000003000001600005,
      0x220C00000003000001000002,
      0x224C00000003000001000002,
      0x228C00000003000001000002].map (fun w => (decode w).toOption)
    = let h := hint
      [some (.popc h .i32 3 1),
       some (.clz h .i32 3 1),
       some (.ctz h .i32 3 1),
       some (.fns h .i32 3 1 (.imm 5)),
       some (.brev h .i32 3 1),
       some (.bswap h .i64 3 1),
       some (.bext h .i32 3 1 (.reg 2)),
       some (.bexts h .i32 3 1 (.imm 5)),
       some (.bins h .i32 3 1 (.reg 2)),
       some (.pdep h .i32 3 1 2),
       some (.pext h .i32 3 1 2)] := rfl

/-- Words written out from the encoding tables of chapter 9. -/
theorem test_words_float :
    [0x302C00000003000001000002,
      0x306C00000003000001000002,
      0x30AC00000003000001000002,
      0x30EC00000003000001000002,
      0x312C00000003000001000002,
      0x316C00000003000001000000,
      0x31AC00000003000001000002,
      0x31EC00000003000001000002,
      0x322C00C00003000001000002,
      0x326C00C00003000001000002,
      0x32AC00C00003000001000002,
      0x32EC00C00003000001000002,
      0x332C00000003000001600005,
      0x336C00000003000001000000].map (fun w => (decode w).toOption)
    = let h := hint
      [some (.fadd h .f32 3 1 2),
       some (.fsub h .f32 3 1 2),
       some (.fmul h .f32 3 1 2),
       some (.ffma h .f32 3 1 2),
       some (.fdiv h .f32 3 1 2),
       some (.fsqrt h .f32 3 1),
       some (.fmin h .f32 3 1 2),
       some (.fmax h .f32 3 1 2),
       some (.fcmpeq h .f32 3 1 2),
       some (.fcmplt h .f32 3 1 2),
       some (.fcmple h .f32 3 1 2),
       some (.fcmpun h .f32 3 1 2),
       some (.fcvt h .f32 3 1 5),
       some (.fclass h .f32 3 1)] := rfl

/-- Words written out from the encoding tables of chapter 13. -/
theorem test_words_memory :
    [0x400C00000003A00E91000000,
      0x404C00A00E93000001000000,
      0x408000800003600005000000,
      0x40C000A00003800001000000,
      0x40C000000003800001600005,
      0x410000800003800001000002,
      0x414000800003600005600005,
      0x418000000003A00001A00002,
      0x418000200003600005000000,
      0x418000000003000000A00002,
      0x41C000200023000000000002,
      0x420000000003200001000000,
      0x420000A00003600005000000].map (fun w => (decode w).toOption)
    = let h := hint
      [some (.ld h .i32 3 ⟨7, 9, 1⟩),
       some (.st h .i32 ⟨7, 9, 3⟩ 1),
       some (.vwset h 3 (.imm 5)),
       some (.vwgetMemory h ⟨0, 0, 3⟩ 1),
       some (.vwgetField h 3 1 5),
       some (.vwsub h 3 1 2),
       some (.vwadv h 3 5 (.imm 5)),
       some (.rbindInstall h (.reg 3) ⟨0, 0, 1⟩ ⟨0, 0, 2⟩),
       some (.rbindAttach h ⟨0, 3⟩ 5),
       some (.rbindRemove h (.reg 3) ⟨0, 0, 2⟩),
       some (.radv h ⟨4, 3⟩ 2),
       some (.rstatFill h 3 ⟨0, 1⟩),
       some (.rstatDescriptor h ⟨0, 0, 3⟩ 5)] := rfl

/-- Words written out from the encoding tables of chapter 13. -/
theorem test_words_capability :
    [0x500000A00003A00001000000,
      0x500000000003A00001000000,
      0x500000A00003000001000000,
      0x504000A00003A00001600005,
      0x508000A00003A00001000000,
      0x50C000A00003A00001000002,
      0x510000A00003A00001000000,
      0x514000A00003A00001600005,
      0x518000000003A00001600005,
      0x51C000A00003000000000000,
      0x520000A00003A00001000000,
      0x524000A00003000000000000,
      0x524000A00003000000600005].map (fun w => (decode w).toOption)
    = let h := hint
      [some (.cmovMove h ⟨0, 0, 3⟩ ⟨0, 0, 1⟩),
       some (.cmovPark h (.reg 3) ⟨0, 0, 1⟩),
       some (.cmovUnpark h ⟨0, 0, 3⟩ (.reg 1)),
       some (.csplit h ⟨0, 0, 3⟩ ⟨0, 0, 1⟩ (.imm 5)),
       some (.cjoin h ⟨0, 0, 3⟩ ⟨0, 0, 1⟩),
       some (.cnarrow h ⟨0, 0, 3⟩ ⟨0, 0, 1⟩ 2),
       some (.cmerge h ⟨0, 0, 3⟩ ⟨0, 0, 1⟩),
       some (.crights h ⟨0, 0, 3⟩ ⟨0, 0, 1⟩ (.imm 5)),
       some (.cinfo h 3 ⟨0, 0, 1⟩ 5),
       some (.cdrop h ⟨0, 0, 3⟩),
       some (.cseal h ⟨0, 0, 3⟩ ⟨0, 0, 1⟩),
       some (.creclaimRegister h ⟨0, 0, 3⟩),
       some (.creclaimSlot h ⟨0, 0, 3⟩ (.imm 5))] := rfl

/-- Words written out from the encoding tables of chapter 10. -/
theorem test_words_vector :
    [0x602C00800003800001800002,
      0x606C00800003800001000002,
      0x60AC00800003800001600005,
      0x60EC00800003800001800002,
      0x612C00800003800001000002,
      0x616C00800003800001600005,
      0x61AC00800003800001000000,
      0x61EC00800003800001000000,
      0x623400800003800001800002,
      0x627400800003800001600005,
      0x62AC00800003800001600005,
      0x62EC00800003800001600005,
      0x632C10800003800001800002,
      0x636C00800003000001800002,
      0x63AC00800003800001000000,
      0x63EC00800003600005000000,
      0x642C00800003A00E91800002,
      0x646C00A00E93800001800002,
      0x64AC00800003800001800002,
      0x64DC00800003800001800002].map (fun w => (decode w).toOption)
    = let h := hint
      [some (.vadd h .f32 3 1 (.view 2)),
       some (.vsub h .f32 3 1 (.reg 2)),
       some (.vmul h .f32 3 1 (.imm 5)),
       some (.vfma h .f32 3 1 (.view 2)),
       some (.vmin h .f32 3 1 (.reg 2)),
       some (.vmax h .f32 3 1 (.imm 5)),
       some (.vabs h .f32 3 1),
       some (.vneg h .f32 3 1),
       some (.vcmul h 3 1 (.view 2)),
       some (.vbfly h 3 1 5),
       some (.vred h .f32 (.view 3) 1 5),
       some (.vscan h .f32 3 1 5),
       some (.vcmp h .f32 .lt 3 1 (.view 2)),
       some (.vsel h .f32 3 (.reg 1) 2),
       some (.vcopy h .f32 3 1),
       some (.vfill h .f32 3 (.imm 5)),
       some (.vgather h .f32 3 ⟨7, 9, 1⟩ 2),
       some (.vscatter h .f32 ⟨7, 9, 3⟩ 1 2),
       some (.vscale h .f32 3 1 2),
       some (.vquant h .e4m3 3 1 2)] := rfl

/-- Words written out from the encoding tables of chapter 10. -/
theorem test_words_vector_bits_1 :
    [0x700C00800003800001800002,
      0x704C00800003800001000002,
      0x708C00800003800001600005,
      0x70CC00800003800001000000,
      0x710C00800003800001000002,
      0x714C00800003800001600005,
      0x718C00800003800001800002,
      0x71CC00800003800001000000,
      0x720C00800003800001000000,
      0x724C00800003800001000000,
      0x728C00800003800001000002,
      0x72CC00800003800001000000,
      0x732C00800003800001600005,
      0x736C00800003800001000000,
      0x73AC00800003800001000000,
      0x73EC00800003800001000000,
      0x742C00800003800001000000,
      0x746C00800003800001000000,
      0x74AC00800003800001000000,
      0x74EC00800003800001000000].map (fun w => (decode w).toOption)
    = let h := hint
      [some (.vand h .i32 3 1 (.view 2)),
       some (.vor h .i32 3 1 (.reg 2)),
       some (.vxor h .i32 3 1 (.imm 5)),
       some (.vnot h .i32 3 1),
       some (.vshl h .i32 3 1 (.reg 2)),
       some (.vshr h .i32 3 1 (.imm 5)),
       some (.vsra h .i32 3 1 (.view 2)),
       some (.vpopc h .i32 3 1),
       some (.vclz h .i32 3 1),
       some (.vctz h .i32 3 1),
       some (.vfns h .i32 3 1 (.reg 2)),
       some (.vbrev h .i32 3 1),
       some (.vcvt h .f32 3 1 5),
       some (.vrcp h .f32 3 1),
       some (.vrsq h .f32 3 1),
       some (.vsqrt h .f32 3 1),
       some (.vexp2 h .f32 3 1),
       some (.vlog2 h .f32 3 1),
       some (.vsin h .f32 3 1),
       some (.vcos h .f32 3 1)] := rfl

/-- Words written out from the encoding tables of chapter 10. -/
theorem test_words_vector_bits_2 :
    [0x750C00800003600005000000,
      0x754C00800003800001000000].map (fun w => (decode w).toOption)
    = let h := hint
      [some (.vidx h .i32 3 5),
       some (.vtrans h .i32 3 1)] := rfl

/-- Words written out from the encoding tables of chapter 11. -/
theorem test_words_matrix :
    [0x800000E000E3000000000000,
      0x806800E000E3800001800002,
      0x808000E000E3800001800002,
      0x80CC00E000E3800001000000,
      0x810C00800003E000E1600001,
      0x817C00E000E3E000E1800002,
      0x818000000003600005000000,
      0x81C000000003600005600005].map (fun w => (decode w).toOption)
    = let h := hint
      [some (.mzero h 3),
       some (.mma h .bf16 3 1 2),
       some (.mmat h 3 1 2),
       some (.mld h .i32 3 1),
       some (.mst h .i32 3 1 (some 1)),
       some (.mscale h 3 1 2),
       some (.mstat h 3 5),
       some (.msig h 3 (.imm 5) (.imm 5))] := rfl

/-- Words written out from the encoding tables of chapter 15. -/
theorem test_words_message :
    [0x900800000003600005000002,
      0x904800000003600005000002,
      0x908020000003A00001000002,
      0x90C000400123600005000000,
      0x910800A00003000001000000,
      0x914800000003600005000002,
      0x918000000003000001000002,
      0x91C000000003600005000000,
      0x91C000000003E000C1000000,
      0x920400000003000001000000,
      0x924000600005000001600005,
      0x928000A00003000001000000].map (fun w => (decode w).toOption)
    = let h := hint
      [some (.sendq h 2 3 5 2),
       some (.replyq h 2 3 5 2),
       some (.sendc h .copy 3 ⟨0, 0, 1⟩ 2),
       some (.sendr h (.remote 9 3) (.imm 5)),
       some (.spawn h 2 (.cap ⟨0, 0, 3⟩) 1),
       some (.spawnr h 2 3 5 2),
       some (.minc h 3 (.reg 1) (.reg 2)),
       some (.mrdCounter h 3 (.imm 5)),
       some (.mrdLanding h 3 1),
       some (.mset h 1 (.reg 3) (.reg 1)),
       some (.arm h 5 1 (.imm 5)),
       some (.kick h (some ⟨0, 0, 3⟩) 1)] := rfl

/-- Words written out from the encoding tables of chapters 15, 17 and 18. -/
theorem test_words_agent :
    [0xA00000A00003A00001000002,
      0xA04000A00003A00001000002,
      0xA08000A00003A00001000002,
      0xA0C000A00003A00001600005,
      0xA10000000003000000000000,
      0xA16000A00E93000001000000,
      0xA1A000400123A00E91000002,
      0xA1EC00200003000001000002,
      0xA22C00E000C3000001000002,
      0xA24000000000000001000000].map (fun w => (decode w).toOption)
    = let h := hint
      [some (.barinit h ⟨0, 0, 3⟩ ⟨0, 0, 1⟩ 2),
       some (.barrive h ⟨0, 0, 3⟩ (some ⟨0, 0, 1⟩) 2),
       some (.barend h ⟨0, 0, 3⟩ (some ⟨0, 0, 1⟩) 2),
       some (.clook h ⟨0, 0, 3⟩ ⟨0, 0, 1⟩ (.imm 5)),
       some (.specq h 3),
       some (.aop h 8 0 ⟨7, 9, 3⟩ 1),
       some (.aopr h 8 0 (.remote 9 3) ⟨7, 9, 1⟩ 2),
       some (.coll h .f32 (.ring ⟨0, 3⟩) 1 2),
       some (.collopen h .f32 (.land 3) 1 2),
       some (.collclose h 1)] := rfl

/-! ## The steward's words, and what is not well formed -/

/-- Table 7.6. -/
theorem test_words_table_7_6 :
    [0x00C5850B, 0x00C5950B, 0x00C5A50B, 0x00C5B50B, 0x00C5C50B, 0x00C5D50B, 0x00C5E50B, 0x00C5F50B].map decodeSteward
    = [.mvNext 10 11 12, .mvTake 10 11 12, .mvCopy 10 11 12, .mvFill 10 11 12, .mvXfer 10 11 12, .mvGive 10 11 12,
       .mvMbx 10 11 12, .mvStat 10 11 12] := rfl
/-- R143: a custom-0 word with funct7 1, custom-1, MRET, SRET and SFENCE.VMA are illegal; WFI is not. The words of RISC-V are
those of its manuals (log 3). -/
theorem test_words_illegal :
    [0x02C5850B, 0x00C5852B, 0x30200073, 0x10200073, 0x12000073].map decodeSteward
    = [0x02C5850B, 0x00C5852B, 0x30200073, 0x10200073, 0x12000073].map (fun w => .stewardRv64Instruction 4 (.illegal w))
    ∧ decodeSteward 0x10500073 = .stewardRv64Instruction 4 .wfi := ⟨rfl, rfl⟩
/-- ADDI, JALR, ADD.UW, SH1ADD, CPOP, C.JR and C.LI (log 3). -/
theorem test_words_rv64 :
    [0x00150513, 0x00008067, 0x08C5853B, 0x20C5A533, 0x60251513, 0x8082, 0x4505].map decodeSteward
    = [.stewardRv64Instruction 4 (.opImm .addi 10 10 1), .stewardRv64Instruction 4 (.jalr 0 1 0),
       .stewardRv64Instruction 4 (.op .addUw 10 11 12), .stewardRv64Instruction 4 (.op .sh1add 10 11 12),
       .stewardRv64Instruction 4 (.unary .cpop 10 10), .stewardRv64Instruction 2 (.jalr 0 1 0),
       .stewardRv64Instruction 2 (.opImm .addi 10 0 1)] := rfl
/-- The guard 1000; SAT on NOP; LAST on ADD; ADD of FP32; CRECLAIM with x0 as its slot. -/
theorem test_ill_formed :
    (Instr.nop { hint with g := 8 }).guardOk = false ∧ (Instr.nop { hint with sat := true }).hintsOk = false
    ∧ (Instr.add { hint with last := true } .i32 1 2 (.reg 3)).hintsOk = false
    ∧ (Instr.add hint .f32 1 2 (.reg 3)).typeOk = false ∧ (Instr.coll hint .e8m0 (.land 3) 1 2).wellFormed = true ∧ (Instr.nop { hint with g := 8 }).wellFormed = false
    ∧ (Instr.nop { hint with sat := true }).wellFormed = false ∧ (Instr.add hint .f32 1 2 (.reg 3)).wellFormed = false
    ∧ (Instr.creclaimSlot hint ⟨0, 0, 3⟩ (.reg 0)).fieldsOk = false
    ∧ (Instr.add hint .i32 1 2 (.reg 3)).wellFormed = true ∧ encode (.add hint .i32 1 2 (.reg 3)) ≠ none := by
  decide

/-! ## Numbers -/

/-- x3 after an instruction with x1 = `a` and x2 = `b`. -/
def x3 (i : Instr) (a b : Word) : Word := (ran i (machine (regs a b 0 0))).x 3
/-- x3 and %fpstat after it. -/
def x3f (i : Instr) (a b : Word) : Word × Word := let t := ran i (machine (regs a b 0 0)); (t.x 3, t.regs.fpstat)
/-- With SAT. -/
def saturating : Hint := ⟨0, true, 0, false, 0⟩
/-- With RND = RTZ. -/
def towardZero : Hint := ⟨0, false, 2, false, 0⟩

/-- Table 9.3. -/
theorem test_division : x3 (.div hint .i64 3 1 (.reg 2)) 0x8000000000000000 (-1) = 0x8000000000000000
    ∧ x3 (.rem hint .i64 3 1 (.reg 2)) 0x8000000000000000 (-1) = 0
    ∧ x3 (.div hint .u64 3 1 (.reg 2)) 7 0 = 0xFFFFFFFFFFFFFFFF ∧ x3 (.rem hint .u64 3 1 (.reg 2)) 7 0 = 7
    ∧ x3 (.div hint .u32 3 1 (.reg 2)) 7 0 = 0x00000000FFFFFFFF
    ∧ x3 (.div hint .i32 3 1 (.reg 2)) 0x80000000 (-1) = 0xFFFFFFFF80000000
    ∧ x3 (.div hint .i32 3 1 (.reg 2)) (-7) 2 = 0xFFFFFFFFFFFFFFFD ∧ x3 (.rem hint .i32 3 1 (.reg 2)) (-7) 2 = -1 := by
  decide
/-- Table 9.3. -/
theorem test_integers : x3 (.add hint .i32 3 1 (.imm 1)) 0x7FFFFFFF 0 = 0xFFFFFFFF80000000
    ∧ x3 (.add saturating .i32 3 1 (.imm 1)) 0x7FFFFFFF 0 = 0x7FFFFFFF
    ∧ x3 (.add saturating .u64 3 1 (.imm 1)) 0xFFFFFFFFFFFFFFFF 0 = 0xFFFFFFFFFFFFFFFF
    ∧ x3 (.shl hint .i64 3 1 (.reg 2)) 1 65 = 2 ∧ x3 (.sra hint .i32 3 1 (.imm 4)) 0x80000000 0 = 0xFFFFFFFFF8000000
    ∧ x3 (.shr hint .i32 3 1 (.imm 4)) 0x80000000 0 = 0x08000000 ∧ x3 (.mulh hint .u64 3 1 (.imm 4)) 0x8000000000000000 0 = 2
    ∧ x3 (.rot hint .i64 3 1 (.reg 2)) 0x8000000000000001 (-1) = 0xC000000000000000 := by decide
/-- Chapter 9: BEXTS, BEXT and BINS of the worked operands; the guard of SEL; a write to x0 is discarded (R138). -/
theorem test_bits : x3 (.bexts hint .i64 3 1 (.imm 776)) 0xABCDEF 0 = 0xFFFFFFFFFFFFFBCD
    ∧ x3 (.bexts hint .u32 3 1 (.imm 776)) 0xABCDEF 0 = 0x00000000FFFFFBCD
    ∧ x3 (.bext hint .u64 3 1 (.imm 776)) 0xABCDEF 0 = 0xBCD
    ∧ (ran (.bins hint .i64 4 1 (.imm 520)) (machine (regs 0 0 0 (-1)))).x 4 = 0xFFFFFFFFFFFF00FF
    ∧ (ran (.bins hint .i64 4 1 (.imm 572)) (machine (regs 0 0 0 (-1)))).x 4 = 0x0FFFFFFFFFFFFFFF
    ∧ x3 (.sel { hint with g := 9 } .i64 3 1 (.reg 2)) 5 6 = 5 ∧ x3 (.sel { hint with g := 1 } .i64 3 1 (.reg 2)) 5 6 = 6
    ∧ (ran (.add hint .i64 0 1 (.imm 1)) (machine (regs 5 0 0 0))).x 0 = 0 := by decide
/-- Table 8.5: results with their flags. -/
theorem test_conversions : x3f (.fcvt hint .f16 3 1 11) 0x3FC00000 0 = (0x3E00, 0)
    ∧ x3f (.fcvt hint .bf16 3 1 11) 0x3F808000 0 = (0x3F80, 16) ∧ x3f (.fcvt hint .bf16 3 1 11) 0x3F818000 0 = (0x3F82, 16)
    ∧ x3f (.fcvt towardZero .bf16 3 1 11) 0x3F818000 0 = (0x3F81, 16)
    ∧ x3f (.fcvt hint .e4m3 3 1 11) 0x43960000 0 = (0x79, 16) ∧ x3f (.fcvt hint .e4m3 3 1 11) 0x43FA0000 0 = (0x7F, 20)
    ∧ x3f (.fcvt saturating .e4m3 3 1 11) 0x43FA0000 0 = (0x7E, 20) ∧ x3f (.fcvt hint .e5m2 3 1 11) 0x43FA0000 0 = (0x60, 16)
    ∧ x3f (.fcvt hint .f32 3 1 7) 0x01 0 = (0x3B000000, 0) ∧ x3f (.fcvt hint .f32 3 1 15) 0x00 0 = (0x00400000, 0)
    ∧ x3f (.fcvt hint .f32 3 1 15) 0xFE 0 = (0x7F000000, 0) ∧ x3f (.fcvt hint .e8m0 3 1 11) 0x43960000 0 = (0x87, 16)
    ∧ x3f (.fcvt hint .i32 3 1 11) 0x40300000 0 = (3, 16) ∧ x3f (.fcvt towardZero .i32 3 1 11) 0x40300000 0 = (2, 16)
    ∧ x3f (.fcvt hint .i32 3 1 11) 0x4F32D05E 0 = (0x7FFFFFFF, 1) := by decide +kernel
/-- Chapter 9, the worked task: 2.5 − 3.0 = −0.5 and −0.625 + 0.5 = −0.125 by one FFMA each; IEEE: 1.0 + 2.0, 1.0 / 3.0, √2. -/
theorem test_float : (ran (.ffma hint .f32 4 1 2) (machine (regs 0x40000000 0x3FA00000 0 0xC0400000))).x 4 = 0xBF000000
    ∧ x3 (.fadd hint .f32 3 1 2) 0x3F800000 0x40000000 = 0x40400000
    ∧ x3f (.fdiv hint .f32 3 1 2) 0x3F800000 0x40400000 = (0x3EAAAAAB, 16)
    ∧ x3 (.fsqrt hint .f32 3 1) 0x40000000 0 = 0x3FB504F3 := by decide +kernel
/-- R156: zeros of different signs give +0 in RNE, −0 in RDN is not asked here; R170, R246: a group with a quiet NaN and infinite
products of both signs sets INVALID. -/
theorem test_zeros : x3f (.fsub hint .f32 3 1 2) 0x80000000 0 = (0, 0) ∧ x3f (.fsub hint .f32 3 1 2) 0 0 = (0, 0)
    ∧ x3f (.fadd hint .f32 3 1 2) 0x80000000 0x80000000 = (0x80000000, 0)
    ∧ (groupSum [(.nan false, .ofInt 1), (.inf false, .ofInt 1), (.inf true, .ofInt 1)]).2 &&& fInvalid = fInvalid := by decide +kernel
/-- R172: the exact powers, √ and logarithms; 1/3 rounds to nearest. -/
theorem test_special_functions : (specialFn .exp2 .f32 false 0x41200000).bits = 0x44800000
    ∧ (specialFn .log2 .f32 false 0x44800000).bits = 0x41200000 ∧ (specialFn .rcp .f32 false 0x40400000).bits = 0x3EAAAAAB
    ∧ (specialFn .rsq .f32 false 0x40800000).bits = 0x3F000000 ∧ (specialFn .sqrt .f32 false 0x41100000).bits = 0x40400000
    ∧ (specialFn .sin .f32 false 0).bits = 0 ∧ (specialFn .cos .f32 false 0).bits = 0x3F800000 := by decide +kernel
/-- Chapter 8: MSCALE and VQUANT in hex. -/
theorem test_scaling : (mscaleElem false 0 0x7F000000 0x90 0x7F).bits = 0x7F800000
    ∧ (mscaleElem true 0 0x7F000000 0x90 0x7F).bits = 0x7F7FFFFF
    ∧ (quantElem .e4m3 .rne false 0x43A00000 0x82).bits = 0x62 ∧ (quantElem .e4m3 .rne false 0x43A00000 0x82).fl = 0
    ∧ (quantElem .e4m3 .rne false 0x43A00000 0x7C).bits = 0x7F ∧ (quantElem .e4m3 .rne true 0x43A00000 0x7C).bits = 0x7E := by
  decide +kernel
/-- Chapter 8: 1.0, 2^−149 and −1.0 added exactly leave 2^−149. -/
theorem test_exact : let x := ((Xa.zero.add (decodeNum .f32 0x3F800000)).add (decodeNum .f32 1)).add (decodeNum .f32 0xBF800000)
    x.sum = 1 ∧ (x.read .f32 false).bits = 1 := by decide +kernel
/-- Chapter 3: the bits of the worked capability and of its fraction. -/
theorem test_capability_bits :
    let c : Cap := ⟨3, 0x21, 5, 2, .exclusive, ⟨true, true, false, true⟩, .cluster, 0, 16, 256⟩
    c.bits = 0x00030021005008D10000000010000100
    ∧ { c with mode := .fraction, rights := ⟨true, false, false, true⟩, tokens := 3 }.bits = 0x00030021005009910003000010000100 := by
  decide
/-- Chapter 12: where a partition offset lies; R77: the ends of the Hilbert curve lie in one quarter of the mesh each. -/
theorem test_places : { fetchPart.prec with nch := 3, chans := [17, 18, 40] }.phys 0x01280123 = 40 * 2 ^ 31 + 0x0062A123
    ∧ hilbert 0 = 0 ∧ tileOfHilbert 0 = 0 ∧ hilbert (tileOfHilbert 1234) = 1234 ∧ tileCluster 261 = 17 ∧ tileDie 2080 = 3 := by
  decide

/-! ## Witnesses: the core -/

/-- A window of 64 granules over CT entry 5 of tile 0. -/
def buf : Cap := ⟨1, 5, 0, 0, .exclusive, ⟨true, true, false, true⟩, .tile, 0, 0, 64⟩
/-- Its entry: 4 KiB of tile SRAM from 0x1000. -/
def bufEntry : CtEntry :=
  { CtEntry.free with
    state := .exclusive, base := tileAddr 0 0x1000, len := 64, hallmark := 1, maxr := ⟨true, true, false, true⟩
    crgt := ⟨true, true, false, true⟩, ownk := 0 }
/-- A fraction with three of the five tokens out of CT entry 6, over the second half of its buffer. -/
def frac : Cap := ⟨2, 6, 0, 0, .fraction, ⟨true, false, false, true⟩, .tile, 3, 32, 32⟩
/-- Its entry. -/
def fracEntry : CtEntry := { bufEntry with base := tileAddr 0 0x2000, hallmark := 2, tokOut := 5 }
/-- Registers with c0 = `buf` and the given ones. -/
def capRegs (g : Regs) (l : Assoc Cap) : Regs := { g with c := (0, buf) :: l }
/-- A machine with CT entries 5 and 6 of tile 0. -/
def withBufs (s : State) : State := { s with cts := [(5, bufEntry), (6, fracEntry)] }
/-- A user task with `buf` in c0 and the given capabilities. -/
def user (g : Regs) (l : Assoc Cap) : State := withBufs (machine (capRegs g l))
/-- The same for a supervisor kernel's task. -/
def chief (g : Regs) (l : Assoc Cap) : State := withBufs (supervisor (capRegs g l))
/-- The first turn of an agenda, of tile 0, context 0. -/
def turn (a : Act) : Turn := ⟨0, Cur.reset, a⟩

/-- StepRunsTheDecodedInstruction: a fetched NOP; the steward's turn with `addi a0, a0, 1` at 0; an empty agenda. -/
theorem witness_fetch :
    let s := (State.reset.withTask).withFetchWord 96 0
    let u := s.begin (turn .core) []
    s.agenda = [turn .core] ∧ u.issuer = some (who u) ∧ u.mayIssue = true ∧ (who u).image.legal u.regs.pc.toNat = true
    ∧ u.issues.ctxRemember.imageCheck (who u) ((who u).image.codeOff + u.regs.pc.toNat) 12 = .ok u.issues.ctxRemember
    ∧ Clean u ∧ u.shz u.cur.tile = false ∧ decode (u.issues.ctxRemember.iword (who u).part (who u).image u.regs.pc.toNat) = .ok (.nop hint) := by
  repeat' apply And.intro
  all_goals decide +kernel
theorem witness_fetch_steward :
    let s := State.reset.withFetchWord 32 0x00150513
    let u := s.begin (turn .steward) []
    s.agenda = [turn .steward] ∧ u.stw.prog ≠ .builtin ∧ u.stwStopped = false ∧ u.stw.runs = true
    ∧ inScratch u.stw.pc.toNat (stewardLength (u.stw.scratchNat u.stw.pc.toNat 2)) = true
    ∧ decodeSteward (u.stw.scratchNat u.stw.pc.toNat 4) = .stewardRv64Instruction 4 (.opImm .addi 10 10 1) := by
  repeat' apply And.intro
  all_goals decide +kernel
theorem witness_fetch_event : (State.reset.nextTurn (.event .aging)).agenda = [turn (.event .aging)] ∧ State.reset.agenda = []
    ∧ Quiescent (machine Regs.reset) := by
  unfold Quiescent
  decide +kernel
/-- IllegalWordTraps: a PC that is no code offset; a word with an unused class. -/
theorem witness_illegal :
    let s := machine { Regs.reset with pc := 1300 }
    let v := (machine Regs.reset).putPoff fetchPart.prec 128 (leBytes 12 (2 ^ 96 - 1))
    s.issuer = some (who s) ∧ s.mayIssue = true ∧ Delivers s (who s) ∧ (who s).image.legal s.regs.pc.toNat = false
    ∧ v.issuer = some (who v) ∧ v.mayIssue = true ∧ Delivers v (who v)
    ∧ v.issues.ctxRemember.imageCheck (who v) 128 12 = .ok v.issues.ctxRemember ∧ (decode (v.issues.iword (who v).part (who v).image 0)).toOption = none := by
  repeat' apply And.intro
  all_goals decide +kernel
/-- EncodedWordDecodesBack, LegalWordEncodesBack. -/
theorem witness_encoding : (Instr.ffma hint .f32 11 12 10).wellFormed = true
    ∧ encode (.ffma hint .f32 11 12 10) = some ⟨96, 0x30EC0000000B00000C00000A⟩
    ∧ decode 0x30EC0000000B00000C00000A = .ok (.ffma hint .f32 11 12 10) := by
  repeat' apply And.intro
  all_goals decide +kernel
/-- FalseGuardSuppresses: p1 is false after reset, in a kernel with matrix instructions and in one without. -/
theorem witness_guard :
    let s := machine (regs 1 2 3 4)
    let n := machineOf { image with nomx := true } kernel (ctx0 (regs 1 2 3 4)) loc0
    (Instr.mul { hint with g := 1 } .i32 3 1 (.reg 2)).hint? = some { hint with g := 1 } ∧ s.issuer = some (who s)
    ∧ guardTrue s.regs 1 = false ∧ (who s).image.nomx = false ∧ n.issuer = some (who n) ∧ (who n).image.nomx = true
    ∧ isMatrix (.mul hint .i32 3 1 (.reg 2)) = false ∧ field (8 * 2 ^ 78) 78 4 = 8 := by
  repeat' apply And.intro
  all_goals decide +kernel
/-- StepsKeepMemoryCanonical: a state whose memory is canonical and whose step answers a next state. -/
theorem witness_canonical : Memory.wf (user (regs 0 0 0 0) []).mem = true
    ∧ step (user (regs 0 0 0 0) []) = .next { user (regs 0 0 0 0) [] with cycle := 1001 } :=
  ⟨by decide, rfl⟩
/-- The scalar results: an issuing context; descriptors at both ends; conversions; legal targets; each special register. -/
theorem witness_scalar :
    let s := machine { regs 12 24 0 0 with x := [(1, 12), (2, 4160), (31, 48)] }
    Issues s hint (who s) ∧ (who s).image.det = false ∧ (who s).image.legal (s.x 1).toNat = true
    ∧ (who s).image.legal (s.x 31).toNat = true ∧ (s.x 2).toNat % 2 ^ 13 = 4160 ∧ field 4160 6 7 = 65
    ∧ field 4096 6 7 = 64 ∧ field 776 6 7 = 12 ∧ field 63 6 7 = 0 ∧ Ty.i32.width ≤ field 40 0 6
    ∧ Delivers s (who s) ∧ 64 < field ((s.x 2).toNat % 2 ^ 13) 6 7 ∧ cvtSource 16 = none ∧ Issues s saturating (who s)
    ∧ (saturating.sat && Ty.f32.isFloat && Ty.i32.isInt) = true
    ∧ cvtSource 11 = some .f32 ∧ (hint.sat && Ty.f32.isFloat && Ty.i32.isInt) = false
    ∧ RegImm.value (.imm 0x3F) s &&& ~~~(0x33F : Word) = 0 ∧ RegImm.nat (.imm 100) s ≤ 1080
    ∧ ¬((s.ctx.run.dispatched + (who s).image.budget : Nat) : Int) - s.cycle < RegImm.nat (.imm 100) s := by
  repeat' apply And.intro
  all_goals decide +kernel
/-- ScalarFrame: each answers a next state. -/
theorem witness_frame :
    let s := machine (regs 1 2 3 4)
    exec (.add hint .i32 3 1 (.reg 2)) s = .next (ran (.add hint .i32 3 1 (.reg 2)) s)
    ∧ exec (.fadd hint .f32 3 1 2) s = .next (ran (.fadd hint .f32 3 1 2) s)
    ∧ exec (.cmpeq hint .i32 3 1 (.reg 2)) s = .next (ran (.cmpeq hint .i32 3 1 (.reg 2)) s)
    ∧ exec (.fcmpeq hint .f32 3 1 2) s = .next (ran (.fcmpeq hint .f32 3 1 2) s)
    ∧ exec (.bext hint .i32 3 1 (.imm 776)) s = .next (ran (.bext hint .i32 3 1 (.imm 776)) s)
    ∧ exec (.fcvt hint .i32 3 1 11) s = .next (ran (.fcvt hint .i32 3 1 11) s)
    ∧ (immWord 776).toNat < 2 ^ 13 ∧ field (immWord 776).toNat 6 7 ≤ 64 := by
  refine ⟨rfl, rfl, rfl, rfl, rfl, rfl, ?_, ?_⟩ <;> decide
/-- TrapsTaken: a user task with a trap entry; operands on both sides of 256; CINFO of a hallmark and of a CT index. -/
theorem witness_traps :
    let s := machine (regs 1 2 3 4)
    Issues s hint (who s) ∧ Delivers s (who s) ∧ (immWord 255).toNat < 256 ∧ 256 ≤ (immWord 256).toNat
    ∧ (who s).kernel.supv = false ∧ (immWord 10).toNat = 10 ∧ (immWord 11).toNat = 11 := by
  repeat' apply And.intro
  all_goals decide +kernel
/-- A task at its trap entry. -/
def trapped (s : State) : State := s.onRun fun r => { r with trapEntry := true, faultPc := 120, kept := .elem 3 [] }
/-- SystemInstructions: ERET in and outside a trap entry; TLBI of a supervisor kernel over all of its VF's ASIDs. -/
theorem witness_system :
    let s := trapped (machine (regs 1 2 3 4))
    let v := machine (regs 1 2 3 4)
    let u := supervisor (regs 0x10000 0x80000 0x1000000 0)
    Issues s hint (who s) ∧ (immWord 1).toNat ≤ 1 ∧ s.ctx.run.trapEntry = true ∧ 1 < (immWord 2).toNat ∧ s.ctx.spec.on = false
    ∧ Issues v hint (who v) ∧ v.ctx.run.trapEntry = false ∧ v.ctx.spec.on = false
    ∧ Issues u hint (who u) ∧ (who u).kernel.supv = true ∧ u.ctx.spec.on = false
    ∧ field (u.x 3).toNat 33 31 = 0 ∧ bit (u.x 3).toNat 24 = true ∧ bit (who u).part.prec.vfmask (field 0 17 7) = true
    ∧ (u.x 1).toNat < 2 ^ 53 ∧ (u.x 1).toNat + (u.x 2).toNat ≤ 2 ^ 56
    ∧ aget? u.parts (who u).pnum = some (who u).part := by
  repeat' apply And.intro
  all_goals decide +kernel
/-- TaskEnds: a user's and a supervisor's task with nothing outstanding; a continuation's entry and counter. -/
theorem witness_ends :
    let s := machine (regs 255 2 3 4)
    let u := supervisor (regs 1 2 3 4)
    Issues s hint (who s) ∧ Prompt s ∧ s.ctx.vecBusy = none ∧ s.ctx.mx.err = none ∧ s.released s.cur.tile s.cur.ctx = true
    ∧ u.released u.cur.tile u.cur.ctx = true
    ∧ risesFrom none (s.tile s.cur.tile).loc.recs = true ∧ (who s).image.legal (immWord 24).toNat = true ∧ (s.x 1).toNat < 256
    ∧ Issues u hint (who u) ∧ Prompt u ∧ u.ctx.vecBusy = none ∧ u.ctx.mx.err = none ∧ (who u).kernel.supv = true := by
  repeat' apply And.intro
  all_goals decide +kernel
/-- LoadAndStore: the last element of the window, read and written. -/
theorem witness_memory :
    let s := user (regs 1 2 3 4) []
    let a : CapOp := ⟨1023, 0, 0⟩
    Issues s hint (who s) ∧ Unhindered s ∧ Clean s ∧ Prompt s ∧ Memory.wf s.mem = true
    ∧ OnChip s (who s) a 4 .read buf (tileAddr 0 0x1FFC) ∧ OnChip s (who s) a 4 .write buf (tileAddr 0 0x1FFC) := by
  repeat' apply And.intro
  all_goals decide +kernel
/-- AccessChecks: an empty register, a stale hallmark, no R, no W, a weight-store window, tokens out, the element past the
window. -/
theorem witness_checks :
    let stale := { buf with hallmark := 7 }
    let blind := { buf with rights := ⟨false, false, false, true⟩ }
    let weights := { buf with kind := .weight }
    let s := user (regs 1 2 3 4) [(1, frac), (2, stale), (3, blind), (4, { frac with mode := .exclusive, rights := ⟨true, true, false, true⟩, tokens := 0 })]
    let v := { s with cts := s.cts ++ [(weights.key, { bufEntry with hallmark := 1 })] }
    Issues s hint (who s) ∧ Delivers s (who s) ∧ s.c 15 = none ∧ s.c 0 = some buf ∧ buf.chip = s.chip
    ∧ (s.ct buf.key).recl = none ∧ s.current buf = true ∧ s.current stale = false ∧ s.current blind = true
    ∧ blind.rights.r = false ∧ blind.rights.w = false ∧ v.current weights = true ∧ weights.rights.w = true
    ∧ (who v).kernel.supv = false ∧ s.current frac = true ∧ 0 < (s.ct frac.key).tokOut + (s.ct frac.key).tokLost
    ∧ (s.ct buf.key).tokOut + (s.ct buf.key).tokLost = 0
    ∧ ((buf.bytes : Int) < CapOp.index ⟨1024, 0, 0⟩ s.regs * Ty.i32.size + Ty.i32.size) := by
  repeat' apply And.intro
  all_goals decide +kernel
/-! ## Witnesses: views, rings, capabilities -/

/-- A view of four elements from element `off` of the window of c0. -/
def viewAt (off : Nat) : View := ⟨0, 1, false, 0, 0, off, [4, 1, 1, 1], [1, 0, 0, 0], true⟩
/-- Registers with views v0 to v2 of four elements each. -/
def viewRegs (g : Regs) : Regs := { g with v := [(0, viewAt 0), (1, viewAt 16), (2, viewAt 32)] }
/-- The second half of the window of `buf`, for a ring of two slots of 64 bytes. -/
def ringCap : Cap := { buf with woff := 32, wlen := 32 }
/-- That ring, after two notices of its producer, tile 1. -/
def ring0 : Ring := ⟨0, 1, 3, 1, 0, 9, 0, 0, 0, ringCap, 0, []⟩
/-- A user task on a tile with ring 2 and two filled slots. -/
def ringed (g : Regs) (l : Assoc Cap) : State :=
  withBufs (machineOf image kernel (ctx0 (capRegs g l)) { loc0 with rings := [(2, ring0)], ctrs := [(9, ⟨2, false⟩)] })

/-- ViewResults: a record of the const section and one in memory; each form of VWGET; a narrowing and a move of v1. -/
theorem witness_views :
    let rec' := leBytes 64 (viewNat (viewAt 0))
    let s := (user (viewRegs { regs (2 ^ 8 + 2 ^ 16 + 2 ^ 40) 3 0 0 with resume := .none }) []).putPoff fetchPart.prec (1328 + 64) rec'
    let m := s.putBytes (tileAddr 0 0x1040) rec'
    let a : CapOp := ⟨1, 0, 0⟩
    Issues s hint (who s) ∧ Clean s ∧ (7 : Vreg).toNat < (who s).image.nview ∧ (immWord 64).toNat % 64 = 0
    ∧ (immWord 64).toNat + 64 ≤ (who s).image.constLen
    ∧ viewLegal (viewOf (s.imageNat (who s).part (who s).image ((who s).image.constOff + 64) 64)) = true
    ∧ Issues m hint (who m) ∧ Unhindered m ∧ Clean m ∧ OnChip m (who m) a 64 .read buf (tileAddr 0 0x1040)
    ∧ viewLegal (viewOf (leNat (m.seen (tileAddr 0 0x1040) 64))) = true
    ∧ aget? s.regs.v 1 = some (viewAt 16) ∧ Prompt s ∧ Memory.wf s.mem = true
    ∧ OnChip s (who s) a 64 .write buf (tileAddr 0 0x1040) ∧ (immWord 10).toNat ≤ 10
    ∧ (let w := (s.x 1).toNat
       field w 2 6 = 0 ∧ field w 0 2 < (viewAt 16).rank ∧ field w 8 8 ≠ 0 ∧ field w 40 24 ≠ 0
       ∧ field w 16 24 + (field w 40 24 - 1) * field w 8 8 < (viewAt 16).ext.getD (field w 0 2) 0)
    ∧ (immWord 0).toNat < (viewAt 16).rank ∧ (viewAt 16).ringf = false := by
  repeat' apply And.intro
  all_goals decide +kernel
/-- RingResults: a descriptor in memory for ring 3; ring 2 attached, removed, advanced by one and by both slots, and read. -/
theorem witness_rings :
    let m := 8 + 3 * 2 ^ 8 + 2 ^ 16 + 9 * 2 ^ 40
    let s := (ringed (regs 0 0 0 0) [(1, ringCap)]).putBytes (tileAddr 0 0x1020) (leBytes 32 m)
    let a : CapOp := ⟨1, 0, 0⟩
    let b : CapOp := ⟨0, 0, 1⟩
    let u := ringed { regs 2 0 0 0 with h := [(1, 2)] } []
    let t := u.tile u.cur.tile
    Issues s hint (who s) ∧ Prompt s ∧ Unhindered s ∧ Clean s ∧ b.whole = true ∧ s.capBusy b.c.toNat = false
    ∧ s.ring 3 = none ∧ s.c b.c.toNat = some ringCap ∧ OnChip s (who s) a 32 .read buf (tileAddr 0 0x1020)
    ∧ leNat (s.seen (tileAddr 0 0x1020) 32) = m ∧ field m 0 3 ≤ 6 ∧ field m 3 4 ≤ 8 ∧ bit m 7 = false ∧ field m 38 2 = 0
    ∧ field m 48 16 = 0 ∧ field m 192 64 = 0 ∧ 64 * 2 ^ 0 * 2 ^ 1 ≤ ringCap.bytes
    ∧ (5 : Hreg).toNat < (who s).image.nring ∧ s.ring 2 = some ring0 ∧ aget? s.regs.h 5 = none ∧ s.heldByOther 2 = false
    ∧ Issues u hint (who u) ∧ Prompt u ∧ Unhindered u ∧ t.ringHeld 2 = false ∧ u.c 1 = none
    ∧ (∀ q ∈ t.loc.recs, ∀ y ∈ recNeeds q.2.img, y.1 ≠ 2) ∧ risesFrom none t.loc.rings = true
    ∧ aget? u.regs.h 1 = some 2 ∧ u.ring 2 = some ring0 ∧ (u.x 1).toNat ≤ t.loc.fill ring0 ∧ 0 < (u.x 1).toNat
    ∧ (1 : BitVec 8).toNat ≤ t.loc.fill ring0 ∧ ring0.pchip = u.chip ∧ (who u).part.holds ring0.ptile = true
    ∧ t.core.vn0Used < 32 ∧ (who u).image.det = false ∧ Memory.wf u.mem = true
    ∧ OnChip u (who u) a 32 .write buf (tileAddr 0 0x1020) := by
  repeat' apply And.intro
  all_goals decide +kernel
/-- CapabilityMoves: c0 moved, parked in the last slot, narrowed and weakened; a parked capability taken; CINFO of every
selector. -/
theorem witness_moves :
    let s := user (regs (2 ^ 24 * 63 + 1) 0 0 0) []
    let l := s.tile s.cur.tile
    let p := withBufs (machineOf image { kernel with supv := true } (ctx0 (regs 0 0 0 0))
      { loc0 with slots := [(255, ⟨some buf, some 0, false, false⟩)] })
    Issues s hint (who s) ∧ Prompt s ∧ (⟨0, 0, 3⟩ : CapOp).whole = true ∧ s.capBusy 0 = false ∧ s.capBusy 3 = false
    ∧ s.c 0 = some buf ∧ s.c 3 = none ∧ RegImm.nat (.imm 255) s < 256 ∧ (l.loc.slot 255).open = true ∧ buf.rights.g = true
    ∧ s.written s.cur.tile s.cur.ctx buf.key = true
    ∧ (s.x 1).toNat < 2 ^ 48 ∧ field (s.x 1).toNat 24 24 + field (s.x 1).toNat 0 24 ≤ buf.wlen
    ∧ RegImm.nat (.imm 9) s < 16 ∧ (Rights.ofCode 9).sub buf.rights = true
    ∧ Issues p hint (who p) ∧ Prompt p ∧ p.c 3 = none ∧ ((p.tile p.cur.tile).loc.slot 255).cap = some buf
    ∧ (immWord 9).toNat < 10 ∧ (immWord 11).toNat ≤ 11 ∧ (who p).kernel.supv = true ∧ (who p).image.det = false := by
  repeat' apply And.intro
  all_goals decide +kernel
/-- Fractions: a split of each mode, a token joined to an exclusive capability and merged into a fraction, each drop. -/
theorem witness_fractions :
    let whole := { frac with mode := .exclusive, rights := ⟨true, true, false, true⟩, tokens := 0, woff := 0, wlen := 64 }
    let low := { frac with woff := 0, tokens := 1 }
    let shut := { frac with mode := .sealed, tokens := 0 }
    let s := (user (regs 0 0 0 0) [(1, frac), (2, whole), (4, low), (5, shut), (6, { buf with ctidx := 9 })]).setCt 9
      { bufEntry with state := .retired, hallmark := 0xFFFF }
    let going : Giving := ⟨frac, 0, 0, cOk, .drop, s.horizonDue 0, none, 0⟩
    s.mayGo 0 going = true ∧ s.mayGo 0 { going with due := 2000 } = false ∧ s.written s.cur.tile s.cur.ctx frac.key = true ∧ s.written s.cur.tile s.cur.ctx buf.key = true ∧ Delivers s (who s)
    ∧ s.c 6 = some { buf with ctidx := 9 } ∧ (s.ct 9).state = .retired ∧ Issues s hint (who s) ∧ s.ctx.spec.on = false ∧ s.capBusy 1 = false ∧ s.capBusy 3 = false ∧ frac.chip = s.chip
    ∧ s.current frac = true ∧ s.current buf = true ∧ (s.ct frac.key).recl = none ∧ s.c 1 = some frac ∧ s.c 3 = none
    ∧ RegImm.nat (.imm 0x90001) s < 2 ^ 20 ∧ RegImm.nat (.imm 0x90000) s < 2 ^ 20
    ∧ field (RegImm.nat (.imm 0x90001) s) 0 16 = 1 ∧ field (RegImm.nat (.imm 0x90000) s) 0 16 = 0
    ∧ (Rights.ofCode (field 0x90001 16 4)).w = false ∧ (Rights.ofCode 9).sub frac.rights = true
    ∧ (Rights.ofCode 9).sub buf.rights = true ∧ frac.rights.g = true
    ∧ (s.ct buf.key).tokOut + (s.ct buf.key).tokLost + 1 ≤ 65535 ∧ 1 < frac.tokens ∧ s.c 5 = some shut ∧ shut.mode = .sealed
    ∧ s.c 2 = some whole ∧ sameBuffer whole frac = true ∧ whole.hallmark = frac.hallmark ∧ whole.mode = .exclusive
    ∧ s.c 4 = some low ∧ sameBuffer low frac = true ∧ low.mode = .fraction ∧ joinWindows low frac = some (0, 64) := by
  repeat' apply And.intro
  all_goals decide +kernel
/-- SealAndReclaim: `buf` sealed, one with tokens out not; a reclaim by a supervisor, into the register and into slot 0. -/
theorem witness_seal :
    let whole := { frac with mode := .exclusive, rights := ⟨true, true, false, true⟩, tokens := 0 }
    let s := user (regs 0 0 0 0) [(2, whole)]
    let u := chief (regs 0 0 0 0) []
    Issues s hint (who s) ∧ s.ctx.spec.on = false ∧ s.capBusy 0 = false ∧ s.capBusy 3 = false ∧ s.current buf = true
    ∧ (s.ct buf.key).recl = none ∧ s.c 3 = none ∧ s.c 0 = some buf ∧ buf.rights.g = true ∧ s.written s.cur.tile s.cur.ctx buf.key = true
    ∧ s.written s.cur.tile s.cur.ctx whole.key = true
    ∧ (s.ct buf.key).tokOut + (s.ct buf.key).tokLost = 0 ∧ (s.ct buf.key).laopen = false ∧ s.c 2 = some whole
    ∧ s.current whole = true ∧ 0 < (s.ct whole.key).tokOut + (s.ct whole.key).tokLost ∧ Delivers s (who s)
    ∧ Issues u hint (who u) ∧ u.ctx.spec.on = false ∧ u.c 0 = some buf ∧ (who u).kernel.supv = true ∧ buf.chip = u.chip
    ∧ (u.ct buf.key).state = .exclusive ∧ (u.ct buf.key).part = (who u).pnum ∧ (u.ct buf.key).recl = none
    ∧ (u.ct buf.key).laopen = false ∧ ((u.tile 0).loc.slot 0).open = true := by
  repeat' apply And.intro
  all_goals decide +kernel

/-! ## Witnesses: streams -/

/-- A task with views v0, v1 and v2. -/
def streaming : State := user (viewRegs (regs 1 2 3 4)) []
/-- A view of `buf` as a stream binds it. -/
def bound (v : View) : BoundView := ⟨v, some buf, 0, 1, 0⟩
theorem witness_ready : StreamReady streaming ∧ Issues streaming hint (who streaming) ∧ Unhindered streaming := by
  refine ⟨⟨?_, ⟨?_, ?_, ?_, ?_, ?_⟩, ⟨?_, ?_⟩, ?_, ?_, ?_, ?_, ?_, ?_⟩, ⟨?_, ?_⟩, ⟨?_, ?_, ?_⟩⟩ <;> decide +kernel
/-- VectorElementwise, VectorArrange, VectorReduce: the views bind and match, and every element of each type is admitted. -/
theorem witness_streams :
    let s := streaming
    let w := who s
    bindView s w 0 true = .ok (bound (viewAt 0)) ∧ bindView s w 1 false = .ok (bound (viewAt 16))
    ∧ bindSrc s w (.view 2) .f32 .rne false = .ok (.view (bound (viewAt 32)), 0)
    ∧ bindSrc s w (.reg 1) .i32 .rne false = .ok (.scalar 1, 0)
    ∧ matchedInto s (viewAt 0) [viewAt 16, viewAt 32] = .ok [4, 1, 1, 1] ∧ matchedInto s (viewAt 0) [viewAt 16] = .ok [4, 1, 1, 1]
    ∧ matchedInto s (viewAt 0) [] = .ok [4, 1, 1, 1] ∧ cvtAllowed .i8 .f32 false = true ∧ vcvtSource 0 = some .i8
    ∧ (∀ t ∈ [Ty.f32, .i32, .u8, .e8m0, .cf32, .i8, .t5], ∀ v ∈ [viewAt 0, viewAt 16, viewAt 32], ∀ acc ∈ [Access.read, .write],
        ∀ k < 4, let e := elemOf (bound v) t (indexOf [4, 1, 1, 1] k)
          e.inside = true ∧ s.checkCap [] w.kernel.supv (some buf) acc e.off e.size = .ok (s.windowBase buf + e.off.toNat)
          ∧ physExists (s.windowBase buf + e.off.toNat) = true)
    ∧ (s.ct buf.key).recl = none ∧ (s.ct buf.key).laopen = false ∧ (immWord 0x30).toNat < 256 ∧ (immWord 0x30).toNat % 16 = 0
    ∧ Ty.ofCode (0x30 / 16) = .i32 ∧ reduceTypes 0 .i32 .i32 = true ∧ elements [4, 1, 1, 1] = (viewAt 0).extent 0
    ∧ extents (bound (viewAt 0)) = extents (bound (viewAt 16)) := by
  repeat' apply And.intro
  all_goals decide +kernel
/-- A 2 × 4 view, its transpose, and a column of two. -/
def wide : View := ⟨0, 2, false, 0, 0, 0, [2, 4, 1, 1], [1, 2, 0, 0], true⟩
/-- Four rows of two. -/
def tall : View := ⟨0, 2, false, 0, 0, 64, [4, 2, 1, 1], [1, 4, 0, 0], true⟩
/-- One column: the row results of `wide`. -/
def column : View := ⟨0, 2, false, 0, 0, 128, [1, 4, 1, 1], [1, 1, 0, 0], true⟩
/-- VectorArrange, VectorReduce: a transposition, a butterfly, a mask, rows reduced to a column and scanned in place. -/
theorem witness_arranged :
    let s := user { regs 1 2 3 4 with v := [(0, wide), (1, tall), (2, column), (3, viewAt 32)] } []
    let w := who s
    StreamReady s ∧ bindView s w 0 true = .ok (bound wide) ∧ bindView s w 1 false = .ok (bound tall)
    ∧ bindView s w 1 true = .ok (bound tall) ∧ bindView s w 2 true = .ok (bound column) ∧ bindView s w 3 false = .ok (bound (viewAt 32))
    ∧ extents (bound wide) = [2, 4, 1, 1] ∧ extents (bound tall) = [4, 2, 1, 1]
    ∧ (immWord 4).toNat ≤ 4 ∧ (immWord 1).toNat ≤ 1 ∧ 2 ≤ tall.rank ∧ tall.extent 1 = 2
    ∧ (∀ k < 4, 1 ≤ k → (viewAt 32).extent k = 1)
    ∧ matchedInto s { tall with rank := 1, ext := tall.ext.set 1 1 } [viewAt 32] = .ok [4, 1, 1, 1]
    ∧ column.extent 0 = 1 ∧ (∀ k < 4, k ≠ 0 → column.extent k = wide.extent k)
    ∧ (∀ v ∈ [(wide, [2, 4, 1, 1]), (tall, [4, 2, 1, 1]), (column, [1, 4, 1, 1])], ∀ t ∈ [Ty.f32, .cf32], ∀ acc ∈ [Access.read, .write],
        ∀ k < 8, let e := elemOf (bound v.1) t (indexOf v.2 k)
          e.inside = true ∧ s.checkCap [] w.kernel.supv (some buf) acc e.off e.size = .ok (s.windowBase buf + e.off.toNat)
          ∧ physExists (s.windowBase buf + e.off.toNat) = true) := by
  refine ⟨⟨?_, ⟨?_, ?_, ?_, ?_, ?_⟩, ⟨?_, ?_⟩, ?_, ?_, ?_, ?_, ?_, ?_⟩, ?_⟩
  on_goal 15 => repeat' apply And.intro
  all_goals decide +kernel
/-- GatherScatter: indices 0, 1, 1, 3 in v2, in a window of its own. -/
theorem witness_gather :
    let s := streaming.putBytes (tileAddr 0 0x1080) (leBytes 16 (2 ^ 32 + 2 ^ 64 + 3 * 2 ^ 96))
    let w := who s
    let c : CapOp := ⟨4, 0, 0⟩
    StreamReady s ∧ Unhindered s ∧ bindView s w 2 false = .ok (bound (viewAt 32)) ∧ elements [4, 1, 1, 1] ≤ 64
    ∧ matched [viewAt 0, viewAt 32] = some [4, 1, 1, 1]
    ∧ (upto 4).map (s.indexedElem c (bound (viewAt 32)) [4, 1, 1, 1]) = [4, 5, 5, 7]
    ∧ (∀ acc ∈ [Access.read, .write], IndexedOnChip s w c buf .f32 acc (bound (viewAt 32)) [4, 1, 1, 1]) := by
  refine ⟨⟨?_, ⟨?_, ?_, ?_, ?_, ?_⟩, ⟨?_, ?_⟩, ?_, ?_, ?_, ?_, ?_, ?_⟩, ⟨?_, ?_, ?_⟩, ?_, ?_, ?_, ?_, ?_⟩
  on_goal 22 => unfold IndexedOnChip
  all_goals decide +kernel
/-! ## Witnesses: the matrix engine -/

/-- Views of rank 2 with all strides 0, and a scale vector of rank 1. -/
def flat (e0 e1 : Nat) : View := ⟨0, 2, false, 0, 0, 0, [e0, e1, 1, 1], [0, 0, 0, 0], true⟩
/-- MatrixIssue: views of the shapes that each command takes, and an MSIG to the own tile. -/
theorem witness_matrix :
    let s := user { regs 0 2 3 4 with v := [(0, flat 1 32), (1, flat 32 1), (2, flat 32 32), (3, ⟨0, 1, false, 0, 0, 0, [64, 1, 1, 1], [0, 0, 0, 0], true⟩)] } []
    let w := who s
    Issues s hint w ∧ w.image.nomx = false ∧ s.ctx.spec.on = false ∧ s.ctx.mx.err = none
    ∧ (s.tile s.cur.tile).core.eng.dead = false ∧ s.ctx.mx.queue.length < 8 ∧ s.ctx.run.accs[0]? = some 4 ∧ s.ctx.run.accs[1]? = some 5
    ∧ mxView s w 0 false 2 (fun e0 e1 => e1 == 32 && mmaDepth .f32 e0) = .ok (bound (flat 1 32))
    ∧ mxView s w 1 false 2 (fun e0 e1 => e0 == 32 && e1 == (flat 1 32).extent 0) = .ok (bound (flat 32 1))
    ∧ mxView s w 2 false 2 (fun e0 e1 => e1 == 32 && e0 % 32 == 0 && 32 ≤ e0 && e0 ≤ 1024) = .ok (bound (flat 32 32))
    ∧ mxView s w 2 true 2 square = .ok (bound (flat 32 32))
    ∧ mxView s w 3 false 1 (fun e0 _ => e0 == 64) = .ok (bound ⟨0, 1, false, 0, 0, 0, [64, 1, 1, 1], [0, 0, 0, 0], true⟩)
    ∧ (∀ v ∈ [flat 1 32, flat 32 1], ∀ k < 32, let e := elemOf (bound v) .f32 (indexOf v.ext k)
          e.inside = true ∧ s.checkCap [] w.kernel.supv (some buf) .read e.off e.size = .ok (s.windowBase buf + e.off.toNat)
          ∧ physExists (s.windowBase buf + e.off.toNat) = true)
    ∧ (∀ t ∈ [Ty.i8, .t5], ∀ acc ∈ [Access.read, .write], ∀ k < 1024, let e := elemOf (bound (flat 32 32)) t (indexOf [32, 32, 1, 1] k)
          e.inside = true ∧ s.checkCap [] w.kernel.supv (some buf) acc e.off e.size = .ok (s.windowBase buf + e.off.toNat)
          ∧ physExists (s.windowBase buf + e.off.toNat) = true)
    ∧ checkDest s w (s.x 1) ⟨false, false, false⟩ = .ok ⟨0, 0⟩ ∧ RegImm.nat (.imm 255) s < 256 ∧ (s.ct buf.key).recl = none := by
  repeat' apply And.intro
  all_goals decide +kernel
/-- A command at the head of the queue of context 0. -/
def command (op : MxOp) : MxCmd := ⟨op, 0, [], [], [], [], some [], 0, none, 0, 0, ⟨0, 0⟩⟩
/-- Context 0 with that command queued, and running or not. -/
def engineOf (op : MxOp) (staged : List (List Nat)) (running : Bool) : State :=
  let m := { command op with staged := some staged }
  let next := { command op with staged := none }
  let s := (user (regs 0 0 0 0) []).onCtxAt 0 0 fun v => { v with mx := { v.mx with queue := [m, next], credits := 1 } }
  if running then s.onCore 0 fun k => { k with eng := { k.eng with running := some (0, m) } } else s
/-- The engine idle and a command queued whose operands are not staged. -/
def unstaged : State :=
  (user (regs 0 0 0 0) []).onCtxAt 0 0 fun v => { v with mx := { v.mx with queue := [{ command (.zero 4) with staged := none }], credits := 1 } }
/-- MatrixStatusAndStaging: a drained queue, a NOMX kernel; a command that is staged and starts, one that starts as it was
staged, one staged behind a running one, none that starts. -/
theorem witness_engine :
    let s := machine (regs 0 0 0 0)
    let n := machineOf { image with nomx := true } kernel (ctx0 (regs 0 0 0 0)) loc0
    let q := engineOf (.zero 4) [] false
    let r := engineOf (.zero 4) [] true
    let m := command (.zero 4)
    let m' := { m with staged := none }
    let v := unstaged
    Issues s hint (who s) ∧ (who s).image.nomx = false ∧ (immWord 3).toNat ≤ 3 ∧ s.mxQueue = []
    ∧ n.issuer = some (who n) ∧ (who n).image.nomx = true ∧ Delivers n (who n)
    ∧ (q.tile 0).core.eng.running = none ∧ ((q.tile 0).core.serve.map fun x => x.1) = some 0 ∧ q.ctx.mx.queue = [m, m']
    ∧ (q.tile 0).core.waitingAt 0 = 0 ∧ (r.tile 0).core.waitingAt 0 = 1 ∧ ((r.tile 0).core.serve.map fun x => x.1) = some 0
    ∧ (r.tile 0).core.eng.running = some (0, m) ∧ r.ctx.mx.queue = [m, m'] ∧ heldWrites r.ctx [m] m' = false
    ∧ (v.tile 0).core.eng.running = none ∧ ((v.tile 0).core.serve.map fun x => x.1) = some 0 ∧ v.ctx.mx.queue = [m']
    ∧ (v.tile 0).core.eng.dead = false ∧ (v.tile 0).quiet v.cycle = false ∧ m'.notBefore ≤ v.cycle ∧ heldWrites v.ctx [] m' = false
    ∧ Clean v ∧ (s.tile 0).core.eng.running = none ∧ (s.tile 0).core.serve = none
    ∧ ((ran .matrixCommandStart v).tile 0).core.eng.running = some (0, m)
    ∧ (ran .matrixCommandStart r).ctx.mx.queue = [m, m] ∧ ((ran .matrixCommandStart q).tile 0).core.eng.running = some (0, m) := by
  repeat' apply And.intro
  all_goals decide +kernel
/-- MatrixCommandEffects, MzeroClears: each running command without a mismatch, with its staged operands. -/
theorem witness_commands : ∀ op ∈ [MxOp.zero 4, .mma .f32 4 (bound (flat 1 32)) (bound (flat 32 1)) false,
      .mmat 4 (bound (flat 32 32)) (bound (flat 32 32)) false, .load .i8 4 (bound (flat 32 32)), .scale 4 5 (bound (flat 64 1)) true,
      .store .i8 (bound (flat 32 32)) 4 true true 0, .sig ⟨0, 0⟩ 9 1],
    (∃ m, ((engineOf op [] true).tile 0).core.eng.running = some (0, m) ∧ m.op = op ∧ m.poison = none ∧ m.staged.getD [] = [])
    ∧ (∃ m, ((engineOf op [[1], [2]] true).tile 0).core.eng.running = some (0, m) ∧ m.op = op ∧ m.poison = none
        ∧ m.staged.getD [] = [[1], [2]])
    ∧ ((engineOf op [] true).partOfTile 0).isSome = true ∧ (∀ a, ((engineOf op [] true).acc 0 a).err = none)
    ∧ (engineOf op [] true).before 0 0 0 = true := by
  intro op h
  refine ⟨⟨_, rfl, rfl, rfl, rfl⟩, ⟨_, rfl, rfl, rfl, rfl⟩, rfl, fun _ => rfl, rfl⟩
/-- MZERO leaves zeros; M0 + 2 × 3 in one MMA step of depth 1. -/
theorem test_matrix_zero : ((ran (.matrixCommandComplete .agree) (engineOf (.zero 4) [] true)).acc 0 4).word 1023 = 0 := by decide +kernel
theorem test_matrix_step : mmaElem .f32 false 1 (List.replicate 32 0x40000000) (List.replicate 32 0x40400000) 0x3F800000 31 31
    = (0x40E00000, 0) := by decide +kernel
/-! ## Witnesses: messages, operations, barriers, collectives -/

/-- x9's usual content: channel 3 of tile 1. -/
def toTile1 : Word := 0x03000001
/-- A record image in the const section: entry at code offset 24, no needs. -/
def withConst (s : State) : State := s.putPoff fetchPart.prec 1328 (leBytes 128 24)
/-- MessageResults: SENDQ to a channel and to the management point; REPLYQ, SENDR, MINC and SPAWNR to tile 1; a full queue; a
signal that an earlier run has sent. -/
theorem witness_messages :
    let s := user (regs 1 1 0x10000000 0) []
    let u := chief (regs 0x10000000 1 0 0) []
    let w := who s
    let f := s.onCore 0 fun k => { k with inj := List.replicate 32 ⟨0, 1, false, s.corePacket w 0 ⟨0, 1⟩ 16 (.inc 0 1 false), 0⟩ }
    let o := withBufs (machineOf image kernel (ctx0 (capRegs (regs toTile1 1 0 0) [])) { loc0 with recs := [(0, { fetchRecord with retries := 1, sigmask := 1 })] })
    Issues s hint w ∧ Prompt s ∧ (s.tile s.cur.tile).core.vn0Used < 32 ∧ (s.tile s.cur.tile).core.vn1Used < 16
    ∧ firstReply s.ctx = false ∧ checkDest s w (s.x 1) ⟨true, false, true⟩ = .ok ⟨0, 1⟩ ∧ bit (s.x 1).toNat 28 = false
    ∧ checkDest s w (s.x 2) ⟨true, false, false⟩ = .ok ⟨0, 1⟩ ∧ checkDest s w (s.x 2) ⟨false, false, false⟩ = .ok ⟨0, 1⟩
    ∧ (immWord 15).toNat ≤ 15 ∧ groupOk 30 2 = true ∧ groupOk 0 0 = true
    ∧ Issues u hint (who u) ∧ Prompt u ∧ checkDest u (who u) (u.x 1) ⟨true, false, true⟩ = .ok ⟨0, 0⟩ ∧ bit (u.x 1).toNat 28 = true
    ∧ landPlace s w (.remote 2 31) = .ok ⟨⟨0, 1⟩, 31⟩ ∧ landPlace s w (.land 0) = .ok ⟨⟨0, 0⟩, 0⟩
    ∧ RegImm.nat (.imm 255) s < 256 ∧ Issues f hint w ∧ 32 ≤ (f.tile f.cur.tile).core.vn0Used ∧ Delivers f w
    ∧ Issues o hint (who o) ∧ (0 < (who o).task.retries ∧ o.ctx.run.nsig < 16 ∧ (who o).task.sigmask.getLsbD o.ctx.run.nsig = true)
    ∧ w.kernel.tiles.contains 1 = true ∧ (constImage (withConst s) w 0).toOption.isSome = true
    ∧ ¬(0 < w.task.retries ∧ s.ctx.run.nsig < 16 ∧ w.task.sigmask.getLsbD s.ctx.run.nsig = true) := by
  repeat' apply And.intro
  all_goals decide +kernel
/-- CapabilityMessages: `buf`, at most 4 KiB, as a transfer by XFER and as a copy by AUTO. -/
theorem witness_sendc :
    let s := user (regs toTile1 1 0 0) []
    let w := who s
    Issues s hint w ∧ Prompt s ∧ Fresh s w ∧ s.capBusy 0 = false ∧ s.c 0 = some buf ∧ buf.rights.g = true
    ∧ checkDest s w (s.x 1) ⟨true, true, true⟩ = .ok ⟨0, 1⟩ ∧ field (s.x 1).toNat 40 24 = 0 ∧ bit (s.x 1).toNat 28 = false
    ∧ actsAsCopy .xfer buf ⟨0, 1⟩ = false ∧ actsAsCopy .auto buf ⟨0, 1⟩ = true ∧ buf.rights.r = true
    ∧ s.settled s.cur.tile s.cur.ctx = true ∧ freeKey (s.tile s.cur.tile).loc.kicks (upto 64) = some 0
    ∧ (s.tile s.cur.tile).core.vn0Used < 32 := by
  unfold Fresh
  repeat' apply And.intro
  all_goals decide +kernel
/-- TileLocalPosts: counters at both ends, LOCAL and not; a present and an absent landing register; SPAWN from the const section
and from memory, ARM, KICK with and without a capability. -/
theorem witness_local :
    let s := withConst (withBufs (machineOf image kernel (ctx0 (capRegs (regs 255 0 0 0) [])) { loc0 with land := [(31, 9)] }))
    let d := machineOf { image with det := true } kernel (ctx0 (regs 0 0 0 0)) loc0
    let w := who s
    let l := (s.tile s.cur.tile).loc
    let i := imageOf (s.imageNat w.part w.image w.image.constOff 128)
    Issues s hint w ∧ Prompt s ∧ RegImm.nat (.imm 0) s < 256 ∧ RegImm.nat (.imm 255) s < 256 ∧ s.ownInc 255 = false
    ∧ (l.ctr 255).loc = false ∧ w.image.det = false ∧ Issues d hint (who d) ∧ Prompt d ∧ (who d).image.det = true ∧ Delivers d (who d)
    ∧ aget? l.land 31 = some 9 ∧ risesFrom none l.land = true ∧ aget? l.land 30 = none ∧ s.ownLand 30 = false ∧ Delivers s w
    ∧ s.settled s.cur.tile s.cur.ctx = true ∧ groupOk 4 4 = true ∧ l.freeRec = some 1
    ∧ constImage s w 0 = .ok (s, i) ∧ recRefused i l w.image w.kernel.supv = false ∧ OnChip s w ⟨0, 0, 0⟩ 128 .read buf (tileAddr 0 0x1000)
    ∧ Unhindered s ∧ Clean s ∧ w.image.legal (immWord 24).toNat = true ∧ (s.x 1).toNat < 256 ∧ freeKey l.kicks (upto 64) = some 0
    ∧ s.capBusy 0 = false ∧ s.c 0 = some buf ∧ Fresh s w := by
  repeat' apply And.intro
  all_goals first | decide +kernel | (unfold Fresh; decide +kernel)
/-- A window of one granule of HBM over CT entry 7 of memory agent 0. -/
def far : Cap := ⟨1, 7, 0, 0, .exclusive, ⟨true, true, false, true⟩, .hbm, 0, 0, 1⟩
/-- Its buffer at virtual address 0x100000, which stage two maps to partition offset 0x80000. -/
def withFar (s : State) : State :=
  let s := { s with cts := s.cts ++ [(far.key, { bufEntry with base := 0x100000, len := 1 })] }
  (s.putLeaf 0 ((aget? s.parts 0).getD fetchPart) 0 0x100000 19 (leafOf 0x80000 19)).getD s
/-- AgentOperations: ADD, DEQ and ENQ over the first elements of the window. -/
theorem witness_operations :
    let s := withFar (user (regs 1 16 0 0) [(1, far)])
    let w := who s
    let v := s.validated s.cur.tile w.pnum far
    let t := v.translate s.cur.tile w.pnum w.part w.kernel.xlat 0x100000 true true
    Issues s hint w ∧ Prompt s ∧ w.image.det = false ∧ s.c 1 = some far ∧ s.ctx.run.rejected = [] ∧ s.mxQueue = []
    ∧ groupOk 28 4 = true ∧ ((s.x 1).toNat = 1) ∧ (s.x 2).toNat % 8 = 0 ∧ (s.x 2).toNat + 8 ≤ far.bytes
    ∧ (∀ n ∈ [8, 16, 64], s.checkCap (s.tile s.cur.tile).core.vcache w.kernel.supv (some far) .operation (0 * n) n.toNat = .ok 0x100000)
    ∧ (s.tile s.cur.tile).core.vn0Used < 32 ∧ t.2 = .ok 0x80000 ∧ w.part.prec.covers 0x80000 1 = true
    ∧ physExists (w.part.prec.phys 0x80000) = true ∧ landPlace s w (.land 30) = .ok ⟨⟨0, 0⟩, 30⟩ := by
  repeat' apply And.intro
  all_goals decide +kernel
/-- A sealed one-granule window over CT entry 5: the barrier's capability. -/
def gate : Cap := { buf with mode := .sealed, rights := ⟨true, false, false, true⟩, wlen := 1 }
/-- The barrier in entry 3 of tile 0: parties 0 and 1, phase 7, a publication of party 1 before. -/
def barrier : Barrier :=
  { ctidx := 5, hallmark := 1, rbase := 0, n := 2, kslot := 0, phase := 7, arrived := [], killed := [], pubs := [],
    prev := [(1, ({ buf with hallmark := 2, ctidx := 6 }, 0))], completing := false }
/-- The task with the barrier's capability in c1 and an exclusive buffer in c2. -/
def gated (g : Regs) : State :=
  withBufs (machineOf image kernel (ctx0 { g with c := [(1, gate), (2, { buf with hallmark := 2, ctidx := 6 })] }) { loc0 with bars := [(3, barrier)] })
/-- BarrierResults: a barrier made for both ranks; arrivals with and without a publication; a lookahead at party 1. -/
theorem witness_barrier :
    let one := { buf with wlen := 1 }
    let s := withBufs (machine { regs (2 * 2 ^ 13 + 15 * 2 ^ 20) 0 0 0 with c := [(1, one)] })
    let e := (gated (regs 0 0 0 0)).setCt 6 { fracEntry with tokOut := 0 }
    let k := ((gated (regs 1 0 0 0)).setCt 6 { fracEntry with tokOut := 0, laopen := true }).onCtx fun v =>
      { v with spec := { v.spec with on := true, bar := ⟨0, 0⟩, bidx := 3, phase := 7 } }
    let b := (s.x 1).toNat
    Issues s hint (who s) ∧ s.ctx.spec.on = false ∧ s.written s.cur.tile s.cur.ctx one.key = true ∧ s.capBusy 0 = false ∧ s.capBusy 1 = false
    ∧ s.c 0 = none ∧ field b 24 40 = 0 ∧ 1 ≤ field b 13 7 ∧ field b 13 7 ≤ 64 ∧ field b 0 13 + field b 13 7 ≤ (who s).kernel.tiles.length
    ∧ aget? (s.tile s.cur.tile).loc.bars (field b 20 4) = none ∧ s.c 1 = some one ∧ s.current one = true
    ∧ (s.ct one.key).recl = none ∧ (s.ct one.key).tokOut + (s.ct one.key).tokLost = 0 ∧ (s.ct one.key).laopen = false
    ∧ Issues e hint (who e) ∧ Prompt e ∧ e.c 1 = some gate ∧ AtBarrier e (who e) gate 3 barrier ∧ bit (e.x 0).toNat 63 = false
    ∧ (pubDests (e.x 0)).all (fun q => decide (q.1 < (who e).kernel.tiles.length)) = true ∧ e.ctx.vecBusy = none
    ∧ e.ctx.mx.queue = [] ∧ e.ctx.mx.err = none ∧ e.capBusy 2 = false ∧ e.c 2 = some { buf with hallmark := 2, ctidx := 6 }
    ∧ e.current { buf with hallmark := 2, ctidx := 6 } = true ∧ (e.ct 6).recl = none ∧ (e.ct 6).laopen = false
    ∧ Issues k hint (who k) ∧ k.ctx.spec.on = true ∧ k.capBusy 5 = false ∧ k.c 1 = some gate ∧ AtBarrier k (who k) gate 3 barrier
    ∧ barrier.phase = k.ctx.spec.phase ∧ barrier.phase ≠ e.ctx.spec.phase ∧ aget? barrier.prev 0 = none
    ∧ k.ctx.spec.bar = ⟨k.chip, gate.agent⟩ ∧ k.ctx.spec.bidx = 3 ∧ k.c 5 = none ∧ RegImm.nat (.imm 1) k < barrier.n
    ∧ k.current gate = true ∧ aget? barrier.prev 1 = some ({ buf with hallmark := 2, ctidx := 6 }, 0)
    ∧ k.current { buf with hallmark := 2, ctidx := 6 } = true ∧ (k.ct 6).laopen = true ∧ freeKey (k.ct 6).lrs (upto 4) = some 0 := by
  repeat' apply And.intro
  all_goals decide +kernel
/-- CollectiveInstructions: an open of a MAX slot at this chip, a contribution to it and its closing. -/
theorem witness_collective :
    let handle : Word := word (0x3C5A * 2 ^ 48 + 1 * 2 ^ 44 + 11 * 2 ^ 40 + 8 * 2 ^ 33)
    let s := machineOf image kernel (ctx0 (regs 0 (2 + 2 ^ 8 + 4 * 2 ^ 16) handle 5)) loc0
    let w := who s
    let x := (s.x 2).toNat
    Issues s hint w ∧ Prompt s ∧ (s.tile s.cur.tile).core.vn0Used < 32 ∧ (s.x 1).toNat < 1024 ∧ bit x 7 = false ∧ field x 12 4 = 0
    ∧ field x 24 40 = 0 ∧ 1 ≤ field x 0 7 ∧ field x 0 7 ≤ 64 ∧ 1 ≤ field x 16 8 ∧ collAccepts (field x 8 4) Ty.f32.code = true
    ∧ s.homeChip 0 = true ∧ landPlace s w (.land 30) = .ok ⟨⟨0, 0⟩, 30⟩ ∧ handleZero handle.toNat = true
    ∧ s.homeChip (handleChip handle.toNat) = true ∧ (30 : Reg).toNat ≤ 30 ∧ Ty.f32.code = field handle.toNat 40 4
    ∧ (s.x 4).toNat < handleCount handle.toNat ∧ recordPlace s w (.land 29) = .ok (.land ⟨⟨0, 0⟩, 29⟩) := by
  repeat' apply And.intro
  all_goals decide +kernel
/-! ## Witnesses: the steward -/

/-- A steward that runs a loaded program, with the given x registers, scratch and k registers. -/
def steward (x : Assoc Word) (m : List Host.Cell) (k : Assoc (Cap × Nat)) : Steward :=
  { Steward.reset with x := x, scratch := m, k := k, prog := .resident 0, pc := 0x100 }
/-- A queued or claimed kick entry with `buf`: a KICK, or a COPY to channel 3 of tile 1. -/
def kick (st : KickState) (kind : Nat) : Kick := ⟨st, kind, some buf, 0, 0, 4, 0, [toTile1, 5, 0, 0]⟩
/-- The machine with that steward on tile 0 and those kick entries. -/
def stewarded (v : Steward) (l : Assoc Kick) : State :=
  withBufs ((machineOf image kernel (ctx0 (regs 0 0 0 0)) { loc0 with kicks := l }).onSteward 0 fun _ => v)
/-- A descriptor in scratch at 0x40: k0 from offset 64 to k1 at offset 0, 128 bytes; and one for the COPY of entry 2. -/
def descriptors : List Host.Cell :=
  (Steward.reset.putBytes 0x40 (leBytes 32 (0x10 + 64 * 2 ^ 64 + 128 * 2 ^ 192))).putBytes 0x80
    (leBytes 32 (0x100 + 2 * 2 ^ 16 + 4096 * 2 ^ 192)) |>.scratch
/-- StewardMoves: an entry claimed, the hart asleep, a capability taken, copies, fills, transfers and increments started. -/
theorem witness_moves_engine :
    let none' := stewarded (steward [(1, 64)] [] []) []
    let s := stewarded (steward [(1, 64), (2, 3), (3, 1), (4, 5)] [] []) [(1, kick .claimed 0), (2, kick .queued 1)]
    let d := stewarded (steward [(1, 0x40), (2, 0x80), (3, 0), (4, 1), (5, 0x03000001), (6, 0x104), (7, 0xE0010000000008), (8, 9)] descriptors
      [(0, (buf, 0)), (1, ({ frac with mode := .exclusive, rights := ⟨true, true, false, true⟩, tokens := 0, woff := 0, wlen := 64 }, 0))])
      [(2, kick .claimed 1)]
    s.stwStopped = false ∧ s.stw.runs = true ∧ s.stw.ops = [] ∧ s.shz s.cur.tile = false ∧ s.stw.readX 1 = 64
    ∧ (s.tile s.cur.tile).loc.nextKick = some (2, kick .queued 1) ∧ (none'.tile none'.cur.tile).loc.nextKick = none
    ∧ claimed s (s.stw.readX 3) = some (1, kick .claimed 0) ∧ (s.stw.readX 4).toNat < 8 ∧ aget? s.stw.k 5 = none
    ∧ d.stwStopped = false ∧ d.stw.runs = true ∧ d.stw.ops = [] ∧ d.shz d.cur.tile = false
    ∧ descriptor d (d.stw.readX 1) = .ok (0x10 + 64 * 2 ^ 64 + 128 * 2 ^ 192)
    ∧ kcapsMeet (d.kReg 0) 64 128 (d.kReg 1) 0 128 = false ∧ field (0x10 + 64 * 2 ^ 64 + 128 * 2 ^ 192) 0 3 = 0
    ∧ descriptor d (d.stw.readX 2) = .ok (0x100 + 2 * 2 ^ 16 + 4096 * 2 ^ 192) ∧ bit (0x100 + 2 * 2 ^ 16 + 4096 * 2 ^ 192) 8 = true
    ∧ ((d.kReg 0).map fun c => c.cap.bytes) = some 4096 ∧ claimed d (word 2) = some (2, kick .claimed 1)
    ∧ (d.stw.readX 4).toNat < 8 ∧ field 0x03000001 28 4 = 0 ∧ field 0x03000001 22 2 = 0
    ∧ stwDest d ⟨field 0x03000001 12 10, field 0x03000001 0 12⟩ = .ok () ∧ field 0x104 9 23 = 0 ∧ bit 0x104 8 = true ∧ field 0x104 4 4 = 0
    ∧ bit 1 8 = false ∧ counterAddress (d.stw.readX 7).toNat = some (⟨0, 1⟩, 2)
    ∧ stwDest d ⟨0, 1⟩ = .ok () ∧ d.stwDet = false := by
  repeat' apply And.intro
  all_goals decide +kernel
/-- StewardInstructions: scratch at its last doubleword and past it, the kick window, a readable and writable CSR. -/
theorem witness_steward :
    let s := stewarded (steward [(1, 0x7FF8), (2, 0x10000), (3, 0x8000)] [] []) [(0, kick .queued 0)]
    s.stwStopped = false ∧ s.stw.runs = true ∧ s.stw.ops = [] ∧ s.shz s.cur.tile = false ∧ inScratch (s.stw.readX 1).toNat 8 = true
    ∧ inScratch (s.stw.readX 2).toNat 8 = false ∧ inKicks (s.stw.readX 2).toNat 8 = true ∧ inScratch (s.stw.readX 3).toNat 1 = false
    ∧ inKicks (s.stw.readX 3).toNat 1 = false ∧ s.csrRead 0x340 = some 0 ∧ s.stwDet = false ∧ 0x340 / 2 ^ 10 ≠ 3 := by
  repeat' apply And.intro
  all_goals decide +kernel
/-! ## Witnesses: events of a tile -/

/-- A packet to tile 0 of this chip that takes effect now. -/
def packet (vn : Nat) (src : Place) (b : Body) : Packet := ⟨vn, 0, src, .core, ⟨0, 0⟩, 0, 0, 16, b, none, false, none⟩
/-- A ready record 1 of priority 3, stamped at cycle 500, with a message's first values. -/
def readyRec : TaskRec :=
  { fetchRecord with
    img := { fetchRecord.img with entry := 24, arg := 77, nacc := 2, rv0 := true, rnum0 := 2, rcnt0 := 2 }
    first := [1, 2, 3, 4, 5, 6], cap := some buf, q := .ready 3 500 1 500 500 false }
/-- A tile with that record, ring 2, counters and what `f` puts there, and no task running. -/
def idleTile (f : Local → Local) : State :=
  withBufs (machineOf image kernel { Context.reset with regs := Regs.reset }
    (f { loc0 with recs := [(1, readyRec)], rings := [(2, ring0)], ctrs := [(9, ⟨2, false⟩)] }))
/-- The saved state of a parked task. -/
def parkedRegs : Parked :=
  ⟨regs 9 8 7 6, true, .none, 12, 0, false, false, 0, .pages 0 [], [], 1, none, [6], [2], false⟩
/-- TileGeometry at the mesh's far corner; DispatchCondition with no valid part. -/
theorem witness_places : (63 : Nat) < 64 ∧ tileDie (63 * 64 + 63) = 63 / 32 * 2 + 63 / 32 ∧ tileCluster (63 * 64 + 63) = 15 * 16 + 15
    ∧ readyRec.latched = false ∧ fetchRecord.img.ctrv = false ∧ fetchRecord.img.rv0 = false ∧ fetchRecord.img.rv1 = false
    ∧ fetchRecord.img.lmask = 0 ∧ fetchRecord.img.stv = false := by decide
/-- DispatchStartsTask: a fresh task and a parked one. -/
theorem witness_dispatch : ∀ s ∈ [idleTile id, idleTile fun l => { l with park := [(1, parkedRegs)] }],
    let v := ((s.age 0).hold 0).tile 0
    (∃ p, s.partOfTile 0 = some p ∧ p.2.state = .active ∧ p.2.halt = none ∧ (p.2.kernel 0).map (fun k => k.retire) = some .no)
    ∧ v.core.disp.next ≤ s.cycle
    ∧ (upto 8).find? (fun c => v.core.slotFree c && decide ((aget v.core.ctxs .reset c).run.issueAt ≤ s.cycle)) = some 0
    ∧ v.loc.pick [] = some (1, readyRec) ∧ (500 : Nat) < s.cycle ∧ v.grants 1 readyRec = true ∧ v.heldOff 1 3 500 = false
    ∧ v.recheck 1 readyRec = true ∧ aget? v.loc.recs 1 = some readyRec
    ∧ ((ran .dispatch s).ctxAt 0 0).run.task = some 1 ∧ ((ran .dispatch s).ctxAt 0 0).run.issueAt = 1002 := by
  intro s h
  simp only [List.mem_cons, List.not_mem_nil, or_false] at h
  rcases h with rfl | rfl <;> refine ⟨⟨_, rfl, ?_, ?_, ?_⟩, ?_, ?_, ?_, ?_, ?_, ?_, ?_, ?_, ?_, ?_⟩ <;> decide +kernel
theorem test_dispatch_registers : let x := ((ran .dispatch (idleTile id)).ctxAt 0 0).regs
    x.pc = 24 ∧ x.readX 5 = 5 ∧ x.readX 7 = 77 ∧ x.readC 0 = some buf ∧ x.h = [(0, 2)]
    ∧ ((ran .dispatch (idleTile fun l => { l with park := [(1, parkedRegs)] })).ctxAt 0 0).regs = regs 9 8 7 6 := by decide +kernel
/-- WaitingAndWatchdog: a task that has waited long, one that has not; budgets reached and not, with and without speculation. -/
theorem witness_waiting :
    let old := { idleTile id with cycle := 70000 }
    let s := { machine (regs 0 0 0 0) with cycle := 900 + 896 }
    let e := machine (regs 0 0 0 0)
    let r := s.onCtx fun v => { v with hold := .remote 4 }
    let p := s.onCtx fun v => { v with spec := { v.spec with on := true } }
    let g := s.onRun fun q => { q with graceEnd := some 1796 }
    aget? (old.tile 0).loc.recs 1 = some readyRec ∧ (old.tile 0).heldTask = none ∧ oldest (old.tile 0).loc (holdable old.cycle) = none
    ∧ (idleTile id).cycle = 1000
    ∧ s.who = some (who e) ∧ s.ctx.run.graceEnd = none ∧ s.ctx.run.dispatched + (who e).image.budget ≤ s.cycle ∧ Delivers s (who e)
    ∧ s.ctx.hold = .none ∧ r.ctx.hold = .remote 4 ∧ Delivers r (who e) ∧ p.ctx.spec.on = true
    ∧ e.cycle < e.ctx.run.dispatched + (who e).image.budget ∧ g.ctx.run.graceEnd = some 1796 ∧ 1796 ≤ g.cycle
    ∧ (ran .watchdogExpiry s).ctx.run.graceEnd = some 1860 ∧ (ran .watchdogExpiry s).regs.pc = 24 := by
  repeat' apply And.intro
  all_goals decide +kernel
theorem witness_held :
    let q := { readyRec with q := .ready 6 500 1 500 500 true }
    let s := { idleTile (fun l => { l with recs := [(1, q)] }) with cycle := 70000 }
    (s.tile 0).heldTask = none ∧ oldest (s.tile 0).loc (holdable s.cycle) = some 1
    ∧ ((ran .heldTask s).tile 0).core.disp.held = some 1
    ∧ ((aget? ((ran .aging { idleTile id with cycle := 70000 }).tile 0).loc.recs 1).map fun r => r.q) = some (.ready 4 500 1 70000 500 false) := by
  decide +kernel
/-- ReleaseEvents: a post that leaves and one behind it; a held write that is due and one that is not. -/
theorem witness_release :
    let e : InjEntry := ⟨0, 0, false, packet 0 ⟨0, 1⟩ (.inc 9 1 false), 0⟩
    let s := (user (regs 0 0 0 0) []).onCore 0 fun k => { k with inj := [e, e] }
    let b := { s with cur := { s.cur with sub := 1 } }
    let l : LogWrite := ⟨.here, tileAddr 0 0x1000, [1, 2], buf, 0, 1000, 0⟩
    let h := (user (regs 0 0 0 0) []).onCtx fun v => { v with shzLog := [l] }
    (s.tile 0).core.inj[s.cur.sub]? = some e ∧ s.before 0 e.ctx e.ord = true ∧ (∀ c < 8, (s.ctxAt 0 c).shzLog = [] ∧ (s.ctxAt 0 c).shzPosts = [] ∧ (s.ctxAt 0 c).endHeld = none)
    ∧ (b.tile 0).core.inj[b.cur.sub]? = some e ∧ ((b.tile 0).core.inj.take 1).any (fun q => q.vn == e.vn && q.pkt.dst == e.pkt.dst) = true
    ∧ (ran .injectionEntryFree s).net = [e.pkt] ∧ ((ran .injectionEntryFree s).tile 0).core.inj = [e] ∧ ran .injectionEntryFree b = b
    ∧ h.ctx.shzLog = [l] ∧ h.ctx.shzPosts = [] ∧ h.ctx.endHeld = none ∧ (h.ct l.cap.key).laopen = false ∧ Memory.wf h.mem = true
    ∧ l.due ≤ h.cycle ∧ (ran .horizonRelease h).mem = [(tileAddr 0 0x1000, 1), (tileAddr 0 0x1001, 2)]
    ∧ (ran .horizonRelease { h with cycle := 999 }).ctx.shzLog = [l] ∧ s.ctx.vecBusy ≠ some unitWaits := by
  repeat' apply And.intro
  all_goals decide +kernel
/-- A channel of kernel slot 0. -/
def chan : Chan := ⟨36, 2, false, some 2, 0, false, 0, 5, 0, false⟩
/-- A tile with that channel and ring 2, with packets on their way to it. -/
def met (ps : List Packet) (f : Local → Local) : State :=
  { withBufs (machineOf image kernel (ctx0 (regs 0 0 0 0)) (f { loc0 with rings := [(2, ring0)], chans := [(3, chan)], ctrs := [(8, ⟨1, true⟩)] })) with net := ps }
/-- ArrivalResults. -/
theorem witness_arrivals :
    let m := packet 0 ⟨0, 1⟩ (.msg 3 1 2 3 4 none)
    let full := fun l : Local => { l with recs := (upto 256).map fun i => (i, fetchRecord) }
    let s := met [m] id
    let h := { m with held := true }
    let c := packet 0 ⟨0, 1⟩ (.msg 3 1 2 3 4 (some buf))
    let r := packet 0 ⟨0, 1⟩ (.spawn fetchRecord.img [1] 0)
    s.incoming = some m ∧ (∃ p, s.partOfTile 0 = some p) ∧ aget? (s.tile 0).loc.chans 3 = some chan ∧ (s.tile 0).loc.freeRec = some 1
    ∧ (met [m] full).incoming = some m ∧ ((met [m] full).tile 0).loc.freeRec = none ∧ (met [h] id).incoming = some h
    ∧ (met [c] id).incoming = some c ∧ (met [r] id).incoming = some r ∧ ((met [r] id).tile 0).groupKilled 0 = false
    ∧ recRefused fetchRecord.img (s.tile 0).loc image false = false
    ∧ ((aget? ((ran .messageArrival s).tile 0).loc.recs 1).map fun q => (q.img.entry, q.first, q.prio)) = some (36, [1, 2, 3, 4, 1, 3], 2)
    ∧ ((aget? ((ran .poolWaitRelease (met [h] id)).tile 0).loc.recs 1).map fun q => q.kslot) = some 0
    ∧ ((aget? ((ran .capabilityArrival (met [c] id)).tile 0).loc.recs 1).map fun q => q.cap) = some (some buf)
    ∧ ((aget? ((ran .remoteSpawnArrival (met [r] id)).tile 0).loc.recs 1).map fun q => q.first) = some [1] := by
  refine ⟨by decide +kernel, ⟨_, rfl⟩, ?_⟩
  repeat' apply And.intro
  all_goals decide +kernel
theorem witness_arrivals_shared :
    let own := packet 0 ⟨0, 0⟩ (.inc 8 5 true)
    let other := packet 0 ⟨0, 1⟩ (.inc 8 5 false)
    let y := packet 0 ⟨0, 1⟩ (.land 4 [9])
    let a := packet 1 ⟨0, 1⟩ (.aoprResult 4 [9])
    let busy := fun l : Local => { l with land := [(4, 1)] }
    let stuffed := fun l : Local => { l with land := [(4, 1)], landHold := List.replicate 8 ⟨5, 0⟩ }
    (∀ p ∈ [own, other, y, a], (met [p] id).incoming = some p)
    ∧ (((ran .counterIncrementArrival (met [own] id)).tile 0).loc.ctr 8).value = 6
    ∧ (((ran .counterIncrementArrival (met [other] id)).tile 0).loc.ctr 8).value = 1
    ∧ ((met [y] id).tile 0).loc.landBusy 4 = false ∧ ((met [y] busy).tile 0).loc.landBusy 4 = true
    ∧ aget? ((ran .landingWriteArrival (met [y] id)).tile 0).loc.land 4 = some 9
    ∧ aget? ((ran .aoprResultArrival (met [a] id)).tile 0).loc.land 4 = some 9
    ∧ ((ran .landingWriteArrival (met [y] busy)).tile 0).loc.landHold = [⟨4, 9⟩]
    ∧ (ran .landingWriteArrival (met [y] stuffed)).net.map (fun p => p.held) = [true]
    ∧ ((met [] fun l => { l with landHold := [⟨4, 9⟩] }).tile 0).loc.landHold.findIdx?
        ((met [] fun l => { l with landHold := [⟨4, 9⟩] }).tile 0 |>.loc.landDue 1000) = some 0
    ∧ ((ran .landingHoldApply (met [] fun l => { l with landHold := [⟨4, 9⟩] })).tile 0).loc.land = [(4, 9)] := by
  repeat' apply And.intro
  all_goals decide +kernel
/-- A delivery of 100 bytes in two slots. -/
def delivery (granted : Bool) (done : Option (Nat × Nat × Nat)) : Delivery := ⟨⟨0, 1⟩, 6, 0, 3, 2, 100, 0, granted, 0, done, 7, 0, none⟩
/-- DeliveryEvents. -/
theorem witness_deliveries :
    let req := packet 0 ⟨0, 1⟩ (.slotReq 6 3 100 7)
    let lost := packet 0 ⟨0, 1⟩ (.slotReq 6 4 100 7)
    let rec' := packet 1 ⟨0, 1⟩ (.collRecord (.land ⟨⟨0, 0⟩, 29⟩) 1 2 3 0 0)
    let ring := fun (g : Ring) (l : Local) => { l with rings := [(2, g)] }
    let at2 := fun (s : State) => { s with cur := { s.cur with sub := 2 } }
    let wait := at2 (met [] (ring { ring0 with deliveries := [delivery false none] }))
    let full := at2 (met [] (ring { ring0 with rsv := 1, deliveries := [delivery false none] }))
    let done := at2 (met [] (ring { ring0 with rsv := 2, deliveries := [delivery true (some (0, 0, 100))] }))
    (met [req] id).incoming = some req ∧ chan.cring = some 2 ∧ 100 ≤ ring0.slots * ring0.slotBytes
    ∧ (met [lost] id).incoming = some lost ∧ aget? ((met [lost] id).tile 0).loc.chans 4 = none
    ∧ ((aget? ((ran .copySlotRequest (met [req] id)).tile 0).loc.rings 2).map fun g => g.deliveries.length) = some 1
    ∧ (aget? (wait.tile 0).loc.rings 2).isSome = true ∧ ring0.fits 2 = true ∧ { ring0 with rsv := 1 }.fits 2 = false
    ∧ ((aget? ((ran .copySlotGrant wait).tile 0).loc.rings 2).map fun g => g.rsv) = some 2
    ∧ ran .copySlotGrant full = full
    ∧ ((aget? ((ran .copyAnnounce done).tile 0).loc.rings 2).map fun g => g.deliveries.length) = some 0
    ∧ (((ran .copyAnnounce done).tile 0).loc.ctr 9).value = 2 ∧ ran .copyAnnounce wait = wait
    ∧ (met [rec'] id).incoming = some rec' ∧ (∀ j < 3, ((met [rec'] id).tile 0).loc.landBusy (29 + j) = false)
    ∧ ((ran .collectiveRecordArrival (met [rec'] id)).tile 0).loc.land = [(29, 1), (30, 2), (31, 3)] := by
  repeat' apply And.intro
  all_goals decide +kernel
/-- AgentResults: an empty list with a node at offset 128 appended; one whose tail is no node; CHASE of two links. -/
theorem witness_agent_lists :
    let op := fun fn (args : List Word) => packet 0 ⟨0, 1⟩ (.op fn 4 far 64 args none (.none' 0) 0x80040 0)
    let view : AgentView := .window 0 (.none' 0) 64 0x80040
    let at' := fun p m => { (withFar (met [p] id)).putBytes 0x80040 (leBytes 16 m) with cur := Cur.reset }
    let q := op 10 [128]
    let e := at' q (nil64 + nil64 * 2 ^ 64)
    let bad := at' q (nil64 + 3 * 2 ^ 64)
    let c := (at' (op 11 [2]) 136).putBytes 0x80088 (leBytes 8 7)
    e.incoming = some q ∧ field (leNat (e.bytes 0x80040 16)) 64 64 = nil64 ∧ e.agentAt q view far 128 true = some 0x80080
    ∧ bad.incoming = some q ∧ field (leNat (bad.bytes 0x80040 16)) 64 64 = 3 ∧ Clean e ∧ Clean bad ∧ Memory.wf e.mem = true
    ∧ leNat ((ran .memoryAgentOperation e).bytes 0x80080 8) = nil64
    ∧ leNat ((ran .memoryAgentOperation e).bytes 0x80040 16) = 128 + 128 * 2 ^ 64
    ∧ leNat ((ran .memoryAgentOperation bad).bytes 0x80040 16) = nil64 + 3 * 2 ^ 64
    ∧ c.incoming = some (op 11 [2]) ∧ c.agentAt (op 11 [2]) view far 64 false = some 0x80040 ∧ leNat (c.bytes 0x80040 8) = 136
    ∧ 136 % 8 = 0 ∧ 136 + 8 ≤ far.bytes ∧ c.agentAt (op 11 [2]) view far 136 false = some 0x80088 ∧ leNat (c.bytes 0x80088 8) = 7 := by
  repeat' apply And.intro
  all_goals decide +kernel
/-- AgentResults: ADD.EXACT, an addition, CAS and CHASE of one link over the window of `far`. -/
theorem witness_agents :
    let op := fun fn (args : List Word) ret => packet 0 ⟨0, 1⟩ (.op fn 4 far 64 args ret (.none' 0) 0x80040 0)
    let s := fun (p : Packet) => { (withFar (met [p] id)).putBytes 0x80040 (leBytes 64 5) with cur := Cur.reset }
    let land : LandAt := ⟨⟨0, 1⟩, 4⟩
    (∀ p ∈ [op 0 [1] none, op 1 [3] (some land), op 9 [5, 0, 1, 2] (some land), op 11 [1] (some land)],
      (s p).incoming = some p ∧ Clean (s p) ∧ Memory.wf (s p).mem = true
      ∧ ((aget? (s p).parts p.part).map fun q => q.prec.covers 0x80040 1) = some true ∧ ((s p).ct far.key).laopen = false)
    ∧ leNat ((ran .memoryAgentOperation (s (op 1 [3] (some land)))).bytes 0x80040 8) = 8
    ∧ (ran .memoryAgentOperation (s (op 1 [3] (some land)))).net.map (fun q => q.body) = [.aoprResult 4 [5]]
    ∧ leNat ((ran .memoryAgentOperation (s (op 9 [5, 0, 1, 2] (some land)))).bytes 0x80040 16) = 1 + 2 * 2 ^ 64
    ∧ (Xa.ofImage 5).isSome = true := by
  refine ⟨?_, ?_⟩
  · intro p h
    simp only [List.mem_cons, List.not_mem_nil, or_false] at h
    rcases h with rfl | rfl | rfl | rfl <;> refine ⟨?_, ⟨?_, ?_⟩, ?_, ?_, ?_⟩ <;> decide +kernel
  · decide +kernel
/-! ## Witnesses: homes, barriers, the move engine -/

/-- A reclaim of entry 5 that awaits tile 0, and one that awaits nobody. -/
def reclaiming (waiting : List Nat) (hallmark : Nat) : State :=
  let s := user (regs 0 0 0 0) []
  { s.setCt 5 { bufEntry with hallmark := hallmark, tokOut := 2, recl := some ⟨.slot 0 4 (some 0), waiting, waiting⟩ } with
    cur := { Cur.reset with sub := 5 } }
/-- The partition's queue of invalidations. -/
def invalidating (waiting : List Nat) : State :=
  (user (regs 0 0 0 0) []).onPart 0 fun p => { p with invq := [⟨false, none, none, 0, 2 ^ 30, waiting, some (1, 9)⟩] }
/-- VF 0 with a waiting page request and `n` entries in its queue. -/
def paging (n : Nat) : State :=
  { user (regs 0 0 0 0) [] with vfs := [(0, { Vf.reset with prqWaiting := [⟨64, 0, 1⟩], prq := List.replicate n ⟨1, 0, 0⟩ })] }
/-- ReclaimAndInvalidate. -/
theorem witness_reclaim :
    let a := reclaiming [0, 1] 1
    let d := reclaiming [] 1
    let l := reclaiming [] 0xFFFF
    (∀ x ∈ d.tiles, ∀ c < 8, (d.ctxAt x.1 c).hold = .none) ∧ (∀ x ∈ l.tiles, ∀ c < 8, (l.ctxAt x.1 c).hold = .none) ∧
    (a.ct 5).recl = some ⟨.slot 0 4 (some 0), [0, 1], [0, 1]⟩ ∧ a.drained 0 5 = true ∧ a.stwDrained 0 5 = true
    ∧ (((ran .reclaimInvalidation a).ct 5).recl.map fun r => r.waiting) = some [1] ∧ ran .reclaimComplete a = a
    ∧ ((ran .reclaimComplete d).ct 5).hallmark = 2 ∧ ((ran .reclaimComplete d).ct 5).state = .exclusive
    ∧ ((ran .reclaimComplete d).ct 5).tokOut = 0 ∧ ((ran .reclaimComplete d).ct 5).recl = none
    ∧ ((ran .reclaimComplete l).ct 5).state = .retired ∧ ((user (regs 0 0 0 0) []).ct 5).recl = none
    ∧ (∃ p, aget? (invalidating [0]).parts 0 = some p ∧ p.invq.length = 1) ∧ (invalidating [0]).translatedDone 0 = true
    ∧ (((aget? (ran .tlbInvalidation (invalidating [0])).parts 0).map fun p => p.invq.map fun i => i.waiting)) = some [[]]
    ∧ ran .tlbiAcknowledged (invalidating [0]) = invalidating [0]
    ∧ ((ran .tlbiAcknowledged (invalidating [])).net.map fun q => (q.dst, q.body)) = [(⟨0, 1⟩, .inc 9 1 true)]
    ∧ ((paging 63).vf 0).prq.length < 64 ∧ 64 ≤ ((paging 64).vf 0).prq.length
    ∧ ((ran .pageRequestEntry (paging 63)).vf 0).prq.length = 64 ∧ ran .pageRequestEntry (paging 64) = paging 64 := by
  refine ⟨?_, ?_, ?_, ?_, ?_, ?_, ?_, ?_, ?_, ?_, ?_, ?_, ?_, ⟨_, rfl, ?_⟩, ?_⟩
  on_goal 15 => repeat' apply And.intro
  all_goals decide +kernel
/-- KeystoneEvents. -/
theorem witness_keystone :
    let p := packet 2 ⟨0, 0⟩ (.arrive 3 1 0 none 0 0 false)
    let s := { (gated (regs 0 0 0 0)).onCtx (fun v => { v with hold := .barrier ⟨0, 0⟩ 3 false }) with net := [p] }
    let done := (gated (regs 0 0 0 0)).onLocal 0 fun l => { l with bars := [(3, { barrier with completing := true })] }
    let n := packet 1 ⟨0, 0⟩ (.notice 3 7)
    let q := packet 1 ⟨0, 1⟩ (.probe 64 2)
    let a := packet 1 ⟨0, 1⟩ (.probeAck 2)
    let k := { met [a] id with probes := [⟨2, 9, 0, 1, 64, [⟨0, 1⟩]⟩] }
    let awaiting := fun (v : Context) => { v with spec := { v.spec with on := true, bar := ⟨0, 0⟩, bidx := 3, phase := 7 } }
    let goes := { (gated (regs 0 0 0 0)).onCtx awaiting with net := [n] }
    let stays := { (gated (regs 0 0 0 0)).onCtx (fun v => { v with hold := .keystone ⟨0, 0⟩ 3 7 }) with net := [n] }
    let hit := { (gated (regs 0 0 0 0)).onCtx (fun v => { awaiting v with
      spec := { (awaiting v).spec with reads := [64], snap := some ⟨v.regs, 0, false, .none, 0⟩ } }) with net := [q] }
    s.incoming = some p ∧ aget? (s.tile 0).loc.bars 3 = some barrier ∧ barrier.hallmark = 1 ∧ (s.ct (ctKey .tile 0 5)).hallmark = 1
    ∧ barrier.arrived.contains 0 = false ∧ barrier.killed.contains 0 = false ∧ (s.tile 0).core.disp.halting = false ∧ s.whoAt 0 0 = some (who (gated (regs 0 0 0 0))) ∧ (s.ctxAt 0 0).hold = .barrier ⟨0, 0⟩ 3 false
    ∧ (s.ctxAt 0 0).spec = Spec.reset ∧ { barrier with arrived := [0] }.full = false
    ∧ (ran .barrierArrival s).ctx.spec.on = true ∧ (ran .barrierArrival s).regs.pc = 72
    ∧ ((aget? ((ran .barrierArrival s).tile 0).loc.bars 3).map fun b => b.arrived) = some [0]
    ∧ ((aget? ((ran .barrierParkAcknowledged { done with cur := { Cur.reset with sub := 3 } }).tile 0).loc.bars 3).map fun b => b.phase) = some 8
    ∧ ((ran .barrierParkAcknowledged { done with cur := { Cur.reset with sub := 3 } }).net.map fun n => n.dst.tile) = [0, 1]
    ∧ (met [n] id).incoming = some n ∧ (met [q] id).incoming = some q ∧ k.incoming = some a
    ∧ goes.incoming = some n ∧ goes.whoAt 0 0 = some (who (gated (regs 0 0 0 0))) ∧ (∀ d < 8, d ≠ 0 → (goes.ctxAt 0 d).run.task = none)
    ∧ (goes.tile 0).loc.park = [] ∧ goes.ctx.spec.awaits ⟨0, 0⟩ 3 7 = true ∧ goes.ctx.spec.log = [] ∧ goes.ctx.spec.held = []
    ∧ goes.ctx.spec.looks = [] ∧ goes.ctx.endHeld = none ∧ goes.ctx.hold = .none
    ∧ goes.ctx.shzLog = [] ∧ goes.ctx.shzPosts = []
    ∧ ((ran .completionNotice goes).ctxAt 0 0).spec = Spec.reset ∧ stays.incoming = some n
    ∧ stays.whoAt 0 0 = some (who (gated (regs 0 0 0 0))) ∧ stays.ctx.spec.on = false ∧ stays.ctx.hold = .keystone ⟨0, 0⟩ 3 7
    ∧ ((ran .completionNotice stays).ctxAt 0 0).regs.pc = 72 ∧ hit.incoming = some q ∧ (hit.ctxAt 0 0).spec.on = true
    ∧ (hit.ctxAt 0 0).spec.reads.contains 64 = true ∧ (hit.ctxAt 0 0).spec.snap.isSome = true
    ∧ ((ran .conflictProbe hit).ctxAt 0 0).spec.on = false ∧ done.probes = []
    ∧ ((ran .conflictProbe (met [q] id)).net.map fun n => n.body) = [.probeAck 2] ∧ (ran .probeAcknowledged k).probes = [] := by
  repeat' apply And.intro
  all_goals decide +kernel
/-- An operation of the engine that has moved `n` bytes. -/
def engOp (k : EngKind) (n : Nat) : EngOp := ⟨0, k, 5, 0, [], 100, n, none, none, [], none, false, 0⟩
/-- The move engine at that operation, between the two halves of the window of `buf`. -/
def moving (k : KCap → EngKind) (n : Nat) : State :=
  let c : KCap := ⟨buf, 0, .none' 0, false⟩
  (stewarded (steward [] [] []) []).onSteward 0 fun w => { w with ops := [engOp (k c) n] }
/-- StewardEvents. -/
theorem witness_engine_events :
    let asleep := stewarded { steward [] [] [] with sleep := some 7 } [(2, kick .queued 0)]
    let alone := stewarded { steward [] [] [] with sleep := some 7 } []
    let bad := stewarded { steward [] [] [] with fault := some ⟨0x21, 4, 0x100, 0⟩ } []
    let cp := moving (fun c => .copy (some c) (some c) 0 2048)
    let fl := moving (fun c => .fill (some c) 10 0x0807060504030201)
    let mb := moving (fun _ => .mbx ⟨0, 1⟩ 9 3) 0
    asleep.stw.sleep = some 7 ∧ asleep.stwStopped = false ∧ asleep.shz 0 = false ∧ (asleep.tile 0).loc.nextKick = some (2, kick .queued 0)
    ∧ (ran .stewardWake asleep).stw.readX 7 = 2 ∧ (ran .stewardWake asleep).stw.pc = 0x104 ∧ ran .stewardWake alone = alone
    ∧ bad.stw.fault = some ⟨0x21, 4, 0x100, 0⟩ ∧ (ran .stewardFault bad).stw.pc = 0 ∧ (ran .stewardFault bad).stw.fault = none
    ∧ alone.stw.fault = none ∧ ran .stewardFault alone = alone
    ∧ ((cp 0).engOp.map fun o => o.burstLen) = some 64 ∧ ((fl 0).engOp.map fun o => o.burstLen) = some 54
    ∧ Clean (cp 0) ∧ (cp 0).stwStopped = false ∧ (cp 0).cur.sub = 0
    ∧ (let c : KCap := ⟨buf, 0, .none' 0, false⟩
       let r := (cp 0).engineAt (some c) 0 64 .read
       let o := engOp (.copy (some c) (some c) 0 2048) 0
       let w := (r.1.setOp { o with flights := [⟨0, 64, [.bytes (r.1.bytes (tileAddr 0 0x1000) 64)], .waits⟩] }).engineAt (some c) 2048 64 .write
       r.2 = .phys (tileAddr 0 0x1000) ∧ 64 ≤ 64 - tileAddr 0 0x1000 % 64 ∧ w.2 = .phys (tileAddr 0 0x1800)) ∧ Memory.wf (cp 0).mem = true
    ∧ ((ran .moveBurst ((cp 0).putBytes (tileAddr 0 0x1003) [9])).byte (tileAddr 0 0x1803)) = 9
    ∧ ((ran .moveBurst (fl 0)).bytes (tileAddr 0 0x100A) 8) = [1 + 2, 4, 5, 6, 7, 8, 1, 2]
    ∧ (ran .moveBurst (fl 0)).stw.ops.map (fun o => o.done) = [54]
    ∧ (ran .engineOpComplete (cp 100)).stw.readX 5 = word (100 * 2 ^ 16) ∧ ran .engineOpComplete (cp 64) = cp 64
    ∧ (ran .engineOpComplete mb).net.map (fun q => (q.dst, q.body)) = [(⟨0, 1⟩, .inc 9 3 false)] := by
  repeat' apply And.intro
  all_goals decide +kernel

/-! ## Witnesses: queues -/

/-- Cells of memory; of a partition with HBM channel 0 alone, `a` is a partition offset. -/
def cells (a : Nat) (l : List Byte) : List Host.Cell := l.zipIdx.map fun b => (a + b.2, b.1)
/-- A partition with a queue slot `x`, whose queue table is at 0x10000 and whose records are at 0x20000, the record at HEAD
`n`, memory with `lo` below and `hi` above it. -/
def queuedWith (lo : List Host.Cell) (n : Nat) (hi : List Host.Cell) (f : QSlot → QSlot) : State :=
  let x : QSlot := ⟨0, 0, 0x20000, 2, false, true, 0, none, none, none, false⟩
  { State.reset with
    cycle := 5000000, parts := [(0, { partOf image kernel with qslots := [(0, f x)] })]
    vfs := [(0, { Vf.reset with qtbase := 0x10000, qcount := 4, heads := [(0, 0)], tails := [(0, 1)] })]
    mem := lo ++ cells 0x20000 (leBytes 128 n) ++ hi }
/-- The slot is idle. -/
def queued (n : Nat) : State := queuedWith [] n [] id
/-- Its partition. -/
def thePart (s : State) : Machine.Part := (aget? s.parts 0).getD fetchPart
/-- Its slot. -/
def theSlot (s : State) : QSlot := (aget? (thePart s).qslots 0).getD ⟨0, 0, 0, 0, false, true, 0, none, none, none, false⟩
/-- A slot's code and subcode. -/
def theCode (s : State) : Option (Nat × Nat × Nat) := (theSlot s).pending.map fun r => (r.kind, r.code, r.sub)
/-- A launch of one tile at entry 24. -/
def launchBits : Nat := 24 * 2 ^ 928 + 2 ^ 912
/-- The header of an image of 140 bytes with code of 12 bytes at 128. -/
def headerBytes : List Byte :=
  leBytes 64 (0x4B434843 + 2 ^ 48 + 0xFFFFFFFF * 2 ^ 160 + 128 * 2 ^ 192 + 12 * 2 ^ 224) ++ leBytes 64 140
/-- A launch record passes its checks: whether it waits, and whether it starts otherwise. -/
def passes (s : State) (index n : Nat) : Option (Bool × Bool) :=
  match s.checkLaunch 0 (thePart s) (theSlot s) index n with
  | .ok k => some (s.launchWaits (thePart s) k, (s.startKernel 0 (thePart s) 0 k).toOption.isSome)
  | .error _ => none
/-- QueueEvents: notifies. -/
theorem witness_notify :
    let s := queuedWith [] 0 [] id
    let late := { s with vfs := [(0, { s.vf 0 with pend := [(1, 0, false)] })] }
    let d := { queuedWith (cells 0x10040 (leBytes 64 (0x30000 + 3 * 2 ^ 56))) 0 [] id with vfs := [(0, { late.vf 0 with tails := [(1, 2)] })] }
    let told := late.onPart 0 fun p => { p with supv := { p.supv with mgmt := some (0, 3) } }
    s.partOfVf 0 = some (0, thePart s) ∧ (thePart s).slotOf 0 0 = some (0, theSlot s)
    ∧ queueLeft (aget (s.vf 0).heads 0 0) 4 ≤ 2 ^ (theSlot s).qlog2 ∧ (ran (.qnotify 0 0 4) s |>.vf 0).tails = [(0, 4)]
    ∧ (ran (.qnotify 0 0 5) s |>.vf 0).qerr = 1 ∧ (ran (.qnotify 0 4 0) s |>.vf 0).qerr = 1
    ∧ late.partOfVf 0 = some (0, thePart late)
    ∧ ((late.vf 0).pend.find? fun e => !e.2.2 && decide (e.2.1 + 0 * Config.cyclesPerMicro ≤ late.cycle)) = some (1, 0, false)
    ∧ (ran .notifyStarvation told).net.map (fun q => q.body) = [.msg 3 (word (cTimeout + 0x1000 + 3 * 2 ^ 24)) 0x100 0 0 none]
    ∧ late.firstLatched (thePart late) = some (0, 1) ∧ 64 * 1 + 0x10000 = (d.vf 0).descriptor 1
    ∧ d.firstLatched (thePart d) = some (0, 1) ∧ freeKey (thePart d).qslots (upto 32) = some 1
    ∧ (let n := d.devNat (thePart d) ((d.vf 0).descriptor 1) 64
       queueLeft (field n 64 32) (aget (d.vf 0).tails (field n 64 32) 1) ≠ 0)
    ∧ ((aget? (thePart (ran .queueSlotGrant d)).qslots 1).map fun x => (x.queue, x.qva, x.qlog2)) = some (1, 0x30000, 3) ∧ freeKey (thePart late).qslots (upto 32) = some 1
    ∧ (thePart late).state = .active ∧ (thePart late).halt = none ∧ s.firstLatched (thePart s) = none := by
  repeat' apply And.intro
  all_goals decide +kernel
/-- QueueEvents: a launch at HEAD: one of no tiles, one that starts, one that waits for a channel, an unknown kind. -/
theorem witness_launches :
    let none' := queued 0
    let go := queued launchBits
    let busy := go.onPart 0 fun p => { p with images := [(0, { image with chans := [(3, chan)] })] }
    let waits := busy.onLocal 0 fun l => { l with chans := [(3, { chan with kslot := 7 })] }
    let other := queued 3
    let full := go.onLocal 0 fun l => { l with recs := (upto 256).map fun i => (i, fetchRecord) }
    let k := (go.checkLaunch 0 (thePart go) (theSlot go) 0 launchBits).toOption.getD kernel
    (none'.recordAt (thePart none') (theSlot none')).isSome = true ∧ theCode (ran .launch none') = some (0, cRefused, 0x12)
    ∧ (go.recordAt (thePart go) (theSlot go)).isSome = true
    ∧ passes go 0 launchBits = some (false, true) ∧ passes waits 0 launchBits = some (true, true)
    ∧ k.image = 0 ∧ k.tiles = [0] ∧ k.lrec.datlen = 0 ∧ k.lrec.arglen = 0 ∧ (go.tile 0).loc.freeRec = some 0
    ∧ ((go.tile 0).loc.slot k.lrec.dslot).open = true ∧ full.launchWaits (thePart full) k = false
    ∧ (full.tile 0).loc.freeRec.isNone = true ∧ theCode (ran .launch full) = some (0, cRefused, 1)
    ∧ (none'.checkLaunch 0 (thePart none') (theSlot none') 0 0).isOk = false ∧ launchZero 0 = true
    ∧ (theSlot (ran .launch go)).kernel.isSome = true
    ∧ ((aget? ((ran .launch go).tile 0).loc.recs 0).map fun r => r.img.entry) = some 24
    ∧ (theSlot (ran .launch waits)).waitingLaunch.isSome = true ∧ (theSlot (ran .launch waits)).kernel = none
    ∧ (other.recordAt (thePart other) (theSlot other)).isSome = true ∧ theCode (ran .launch other) = some (0, cRefused, 0x10) := by
  repeat' apply And.intro
  all_goals decide +kernel
/-- QueueEvents: an image is registered, or refused: no image there, a RES bit. -/
theorem witness_registration :
    let n := 1 + 0x30000 * 2 ^ 64 + 140 * 2 ^ 128
    let s := queuedWith [] n (cells 0x30000 (headerBytes ++ leBytes 12 0)) id
    let u := ran .registerImage s
    (s.recordAt (thePart s) (theSlot s)).isSome = true
    ∧ ((theSlot u).pending.map fun r => (r.code, r.result), (aget? (thePart u).images 1).map fun i => (i.base, i.codeOff, i.codeLen))
      = (some (cOk, 1), some (4096, 128, 12))
    ∧ theCode (ran .registerImage (queuedWith [] n (cells 0x30000 (leBytes 128 0)) id)) = some (1, cRefused, 0x19)
    ∧ (thePart s).storeRoom 140 64 = some 4096 ∧ (s.checkImage (thePart s) 0x30000 140 4096).isSome = true
    ∧ (thePart s).storeRoom 70000 64 = none
    ∧ theCode (ran .registerImage (queued (1 + 0x30000 * 2 ^ 64 + 70000 * 2 ^ 128))) = some (1, cRefused, 0x18)
    ∧ theCode (ran .registerImage (queued 17)) = some (1, cRefused, 0x10) := by
  repeat' apply And.intro
  all_goals decide +kernel
/-- QueueEvents: an image is released; one that is not there is not. -/
theorem witness_release_image :
    let rel := queued 2
    let gone := queued (2 + 5 * 2 ^ 32)
    let left := rel.onPart 0 fun p => { p with images := [(0, { image with released := true })] }
    let used := rel.onPart 0 fun p => { p with supv := { p.supv with resident := some 0 } }
    (rel.recordAt (thePart rel) (theSlot rel)).isSome = true ∧ (aget? (thePart rel).images 0).map (fun i => i.released) = some false
    ∧ theCode (ran .releaseImage rel) = some (2, cOk, 0) ∧ (thePart (ran .releaseImage rel)).images = []
    ∧ risesFrom none (thePart rel).images = true ∧ (thePart used).supv.resident = some 0
    ∧ ((aget? (thePart (ran .releaseImage used)).images 0).map fun i => i.released) = some true
    ∧ theCode (ran .releaseImage left) = some (2, cRefused, 0x11)
    ∧ aget? (thePart gone).images 5 = none ∧ theCode (ran .releaseImage gone) = some (2, cRefused, 0x11) := by
  repeat' apply And.intro
  all_goals decide +kernel
/-- QueueEvents: waiting launches, retirement, completion records. -/
theorem witness_retirement :
    let w := queuedWith [] 0 [] (fun x => { x with waitingLaunch := some kernel })
    let b := (w.onPart 0 fun p => { p with images := [(0, { image with chans := [(3, chan)] })] }).onLocal 0 fun l =>
      { l with chans := [(3, { chan with kslot := 7 })] }
    let k := queuedWith [] 0 [] (fun x => { x with kernel := some { kernel with lrec := { fetchLaunch with ctarget := 0 } } })
    let m := queuedWith [] 0 [] (fun x => { x with kernel := some { kernel with lrec := { fetchLaunch with ctarget := 1 } } })
    let e := queuedWith [] 0 [] (fun x => { x with kernel := some { kernel with retire := .stopping cOk 0 false 3 } })
    let e' := e.onLocal 0 fun l => { l with recs := [(0, fetchRecord)] }
    let full := fun n => queuedWith (cells 0x11000 (leBytes 64 (0x40000 + 4 * 2 ^ 60 + n * 2 ^ 96))) 0 []
      (fun x => { x with pending := some ⟨0, cOk, 0, 0, 7, 0, 0, 0, none⟩ })
    let r := full 0
    let f := full 16
    let done := ran .completionRecordWrite r
    let more := r.onVf 0 fun v => { v with tails := [(0, 2)] }
    b.launchWaits (thePart b) kernel = true ∧ (theSlot (ran .launchChannelsFree b)).kernel = none
    ∧ w.launchWaits (thePart w) kernel = false ∧ r.firstLatched (thePart r) = none ∧ risesFrom none (thePart r).qslots = true
    ∧ queueLeft 1 (aget (r.vf 0).tails 0 0) = 0 ∧ queueLeft 1 (aget (more.vf 0).tails 0 0) ≠ 0
    ∧ (theSlot (ran .completionRecordWrite more)).boundary = true ∧ (thePart done).qslots = []
    ∧ (theSlot w).waitingLaunch = some kernel ∧ (theSlot (ran .launchChannelsFree w)).kernel.isSome = true
    ∧ reaches ((k.tile 0).loc.ctr 0).value 0 = true ∧ reaches ((m.tile 0).loc.ctr 0).value 1 = false
    ∧ ((theSlot (ran .kernelRetire k)).kernel.map fun x => x.retire) = some (.stopping cOk 0 false 0) ∧ ran .kernelRetire m = m
    ∧ kernel.interval.any (e.runsOn 0) = false ∧ kernel.interval.any (e'.runsOn 0) = true ∧ ran .kernelRetire e' = e'
    ∧ kernel.interval.any ((kernel.interval.foldl (fun s t => s.freeRecords 0 0 t) e).stillBusy 0) = false
    ∧ ((theSlot (ran .kernelRetire e)).pending.map fun x => (x.code, x.left)) = some (cOk, 3)
    ∧ ((theSlot r).pending.map fun x => x.qckpt) = some 7
    ∧ (done.devNat (thePart r) 0x40010 4, aget (done.vf 0).heads 0 0) = (7, 1)
    ∧ queueLeft (field (f.devNat (thePart f) 0x11000 64) 64 32) (field (f.devNat (thePart f) 0x11000 64) 96 32) = 2 ^ 4
    ∧ ran .completionRecordWrite f = f := by
  repeat' apply And.intro
  all_goals decide +kernel

/-! ## Witnesses: the supervisor's requests and the host -/

/-- A request at the head of the partition's queue; the entries of `user`. -/
def asked (op : Nat) (words : List Word) (cap : Option Cap) (f : Machine.Part → Machine.Part) : State :=
  (user (regs 0 0 0 0) []).onPart 0 fun p => f { p with
    supv := { p.supv with requests := [packet 0 ⟨0, 0⟩ (.mgmt op 9 true words cap 0 3)] } }
/-- The answer's code, subcode and tag, its x2, its x3. -/
def answer (i : Instr) (s : State) : List (Word × Word × Word) :=
  (ran i s).net.filterMap fun p => match p.body with
    | .msg 3 a b c _ _ => some (a, b, c)
    | _ => none
/-- OK with the tag 9. -/
def fine : List (Word × Word × Word) := [(0x90000, 0, 0)]
/-- SupervisorRequests: buffers. -/
theorem witness_buffer_requests :
    let mk := asked 1 [word (tileAddr 0 0x4000), 2, 0x7000] none id
    let fr := asked 2 [] (some buf) id
    let lost := (asked 3 [0x50000, 0x7000] none id).onCt 5 fun e => { e with ownk := 3 }
    let found := asked 3 [0x50000, 0x7000] none fun p => { p with supv := { p.supv with recover := some 5 } }
    let busy := found.onCt 5 fun e => { e with recl := some ⟨.slot 0 7 none, [0], [0]⟩ }
    let gone := found.onCt 5 fun e => { e with state := .retired }
    let bad := asked 14 [] none id
    answer .bufCreate bad = [(word (cIllopnd + 9 * 2 ^ 16), 0, 0)] ∧ answer .bufCreate mk = fine
    ∧ slotWord (thePart mk) 0x7000 = .ok (0, 7) ∧ HomeKind.ofCode 0 = some .tile
    ∧ bufferPlace (thePart mk) .tile 0 (tileAddr 0 0x4000) 2 = none ∧ mk.bufferMeets 0 (tileAddr 0 0x4000) 128 = false
    ∧ ((mk.tile 0).loc.slot 7).open = true ∧ mk.freeEntry (thePart mk) .tile 0 = some 0
    ∧ (((ran .bufCreate mk).tile 0).loc.slot 7).cap.map (fun c => (c.ctidx, c.wlen)) = some (0, 2)
    ∧ fr.current buf = true ∧ (fr.ct 5).recl = none ∧ (fr.ct 5).tokOut + (fr.ct 5).tokLost = 0 ∧ (fr.ct 5).laopen = false
    ∧ answer .bufFree fr = fine ∧ ((ran .bufFree fr).ct 5).state = .free ∧ ((ran .bufFree fr).ct 5).hallmark = 1
    ∧ entryWord (thePart lost) 0x50000 = .ok 5 ∧ (lost.ct 5).ownk = 3 ∧ (lost.ct 5).recl = none ∧ (lost.ct 5).laopen = false
    ∧ (thePart lost).supv.recover = none ∧ (thePart lost).supv.hold = [] ∧ ((lost.tile 0).loc.slot 7).open = true
    ∧ (((ran .bufRecover lost).tile 0).loc.slot 7).reserved = true ∧ (thePart (ran .bufRecover lost)).supv.recover = some 5
    ∧ answer .bufRecover lost = [] ∧ ran .bufRecover busy = busy ∧ (found.ct 5).recl = none ∧ answer .bufRecover found = fine
    ∧ (thePart (ran .bufRecover found)).supv.recover = none
    ∧ answer .bufRecover gone = [(word (cRevoked + 9 * 2 ^ 16), 0, 0)] := by
  repeat' apply And.intro
  all_goals decide +kernel
/-- SupervisorRequests: what is read. -/
theorem witness_read_requests :
    let ct := asked 4 [0x50000, 0] none id
    let tl := (asked 5 [0, 0, 0] none id).onLocal 0 fun l => { l with recs := [(0, fetchRecord), (1, readyRec)] }
    let no := asked 5 [0, 0, 0] none id
    let pr := asked 7 [0] none id
    let pl := asked 7 [16] none fun p => { p with prec := { p.prec with chans := [5] } }
    let hd := asked 9 [3] none fun p => { p with supv := { p.supv with flog := ⟨some 0x10000, 4, 2, 5, 1⟩ } }
    answer .ctRead ct = [(0x90000, word (tileAddr 0 0x1000 / 64 + 64 * 2 ^ 50), word (64 / 2 ^ 14 + 2 ^ 10 + 2 ^ 58 + 13 * 2 ^ 60))]
    ∧ ((tl.tile 0).loc.recs.filterMap fun r => r.2.q.code.map fun c => (r.1, c)) = [(1, 1)]
    ∧ ((no.tile 0).loc.recs.filterMap fun r => r.2.q.code.map fun c => (r.1, c)) = []
    ∧ (answer .taskList tl).map (fun a => (a.1, a.2.1.toNat % 2 ^ 32)) = [(0x90000, 0x70080 + 2 ^ 30)]
    ∧ answer .taskList no = [(word (cPartial + 9 * 2 ^ 16), 0, 0)]
    ∧ answer .precRead pr = [(0x90000, word (4 * 2 ^ 12 + 2 ^ 48), 0)] ∧ answer .precRead pl = [(0x90000, 5, 0)]
    ∧ answer .flogHead hd = [(0x90000, 5, 1)]
    ∧ (thePart (ran .flogHead hd)).supv.flog.head = 3 := by
  repeat' apply And.intro
  all_goals decide +kernel
/-- SupervisorRequests: what is set. -/
theorem witness_set_requests :
    let b := asked 6 [0, -6] none id
    let f := asked 8 [0x10000, 4] none id
    let x := asked 10 [0, 0x10000] none id
    let prog := asked 11 [0] none fun p => { p with images := [(0, { image with stwLen := 64 })] }
    let other := asked 11 [1] none fun p => { p with images := [(1, { image with stwLen := 64 })] }
    let r := asked 12 [0x30001] none id
    let e := asked 13 [0x30001] none id
    signExtend (-6 : Word).toNat 64 = -6 ∧ answer .biasSet b = fine
    ∧ ((thePart (ran .biasSet b)).kernel 0).map (fun k => (k.bias, k.biasIn 1000, k.biasIn 1001)) = some (-6, 0, -6)
    ∧ (thePart f).prec.covers 0x10000 1024 = true ∧ answer .flogSet f = fine
    ∧ (thePart (ran .flogSet f)).supv.flog.base = some 0x10000 ∧ (thePart x).prec.covers 0x10000 2048 = true
    ∧ bit (thePart x).prec.vfmask 0 = true ∧ answer .xlatSet x = fine ∧ (thePart (ran .xlatSet x)).xrecs = [(0, 0x10000)]
    ∧ (thePart (ran .stwInstall prog)).supv.resident = none ∧ (thePart (ran .stwInstall other)).supv.resident = some 1
    ∧ channelWord (thePart r) 0x30001 = .ok (1, 3) ∧ answer .supvRecv r = fine ∧ (thePart (ran .supvRecv r)).supv.recv = some (1, 3)
    ∧ answer .supvEvents e = fine ∧ (thePart (ran .supvEvents e)).supv.mgmt = some (1, 3) := by
  repeat' apply And.intro
  all_goals decide +kernel
/-- A mailbox command with the operation, handle and arguments. -/
def command' (op n : Nat) (h : Nat) (args : List Byte) : Mbox := ⟨leBytes 64 (h + op * 2 ^ 96 + n * 2 ^ 128) ++ args⟩
/-- A machine whose mailbox is busy with a command; partition 0 has handle 77 and may do everything. -/
def boxed (f : Machine.Part → Machine.Part) : State :=
  let s := (user (regs 0 0 0 0) []).onPart 0 fun p => f { p with handle := 77, policy := { p.policy with cmdmask := 0xFFFF, maxvf := 128, relok := true, maxevict := 3 } }
  { s with assay := { s.assay with box := { s.assay.box with busy := true, len := 60000 } } }
/-- The mailbox after a command: BUSY, code, subcode. -/
def box (i : Instr) (s : State) : Bool × Nat × Nat := let b := (ran i s).assay.box; (b.busy, b.code, b.sub)
/-- The partition record and policy of a PART.CREATE: `plen` tiles from `pbase` on, no channel, partition number 1; at most one
tile is permitted. -/
def newPartition (pbase plen : Nat) : List Byte :=
  leBytes 64 (pbase + plen * 2 ^ 12 + 2 ^ 320 + 2 ^ 352) ++ leBytes 320 0
  ++ leBytes 256 (0x59434C50 + 2 ^ 32 + 0xFFFE * 2 ^ 576 - 0xF800 * 2 ^ 576 + 2 ^ 608)
/-- Its policy body, and its signature under the private key of TENKEY. -/
def policyBody (a n : Nat) : List Byte := ((newPartition a n).drop 384).take 256
def policySig (a n : Nat) : List Byte := signedBy (((policyBody a n).drop 8).take 64) (policyBody a n)
/-- The command as PART.CREATE sees it. -/
def creation (h : Word) (a n : Nat) : Cmd := ⟨h, newPartition a n ++ policySig a n⟩
/-- MailboxCommands: the command of a PART.CREATE, in a buffer and its signature, as the module reads it. -/
theorem witness_create_command :
    let bytes := (command' 0x01 50496 0 (newPartition 100 1)).bytes ++ policySig 100 1
    let b := (boxed id).assay.box
    let h := leNat ((bytes.take b.len).take 64)
    headerOk h b.len = true ∧ field h 96 8 = 1
    ∧ (⟨word (field h 0 64), ((bytes.take b.len).drop 64).take (field h 128 32)⟩ : Cmd) = creation 0 100 1 := by
  have hl : (policySig 100 1).length = 49856 := length_signedBy _ _
  have hn : (newPartition 100 1).length = 640 := by decide +kernel
  have h4 : (leBytes 64 (0 + 1 * 2 ^ 96 + 50496 * 2 ^ 128)).length = 64 := length_leBytes _ _
  have e : (command' 0x01 50496 0 (newPartition 100 1)).bytes ++ policySig 100 1
      = leBytes 64 (0 + 1 * 2 ^ 96 + 50496 * 2 ^ 128) ++ (newPartition 100 1 ++ policySig 100 1) := List.append_assoc _ _ _
  have t : ((leBytes 64 (0 + 1 * 2 ^ 96 + 50496 * 2 ^ 128)) ++ (newPartition 100 1 ++ policySig 100 1)).take 60000
      = leBytes 64 (0 + 1 * 2 ^ 96 + 50496 * 2 ^ 128) ++ (newPartition 100 1 ++ policySig 100 1) :=
    List.take_of_length_le (by simp only [List.length_append, h4, hn, hl]; omega)
  have f0 : word (field (leNat (leBytes 64 (0 + 1 * 2 ^ 96 + 50496 * 2 ^ 128))) 0 64) = 0 := by decide +kernel
  have f1 : field (leNat (leBytes 64 (0 + 1 * 2 ^ 96 + 50496 * 2 ^ 128))) 128 32 = 50496 := by decide +kernel
  have hb : (boxed id).assay.box.len = 60000 := by decide +kernel
  simp only [e, hb, t, List.take_left' h4, List.drop_left' h4, f0, f1]
  refine ⟨by decide +kernel, by decide +kernel, ?_⟩
  rw [List.take_of_length_le (by simp only [List.length_append, hn, hl]; omega)]
  rfl
/-- Its signature verifies, whatever the partition. -/
theorem witness_create_signed (h : Word) (a n : Nat) :
    let c := creation h a n
    let body := (c.args.drop 384).take 256
    slhValid (policyOf (leNat body) body).tenkey body (c.args.drop 640) = true := by
  have hn : (newPartition a n).length = 640 := by
    simp only [newPartition, List.length_append, length_leBytes]
  have hb : ((creation h a n).args.drop 384).take 256 = policyBody a n := by
    show ((newPartition a n ++ policySig a n).drop 384).take 256 = _
    rw [List.drop_append_of_le_length (by omega), List.take_append_of_le_length (by rw [List.length_drop]; omega)]
    rfl
  have hs : (creation h a n).args.drop 640 = policySig a n := List.drop_left' hn
  simp only [hb, hs]
  exact slhValid_signedBy _ _
/-- It may be made; without a signature, with a handle, with more tiles than permitted, on tiles that are held, with a RES
field, it may not. -/
theorem witness_create :
    let s := boxed id
    let formed := fun c : Cmd =>
      let body := (c.args.drop 384).take 256
      recordZero (c.nat 0 128) = true ∧ policyZero (leNat body) = true
    let permitted := fun c : Cmd =>
      let body := (c.args.drop 384).take 256
      let pol := policyOf (leNat body) body
      bit pol.cmdmask 1 = true ∧ shapeOk pol (recordOf (c.nat 0 128) ((c.args.drop 128).take 256)) = true
    let places := fun c : Cmd =>
      let r := recordOf (c.nat 0 128) ((c.args.drop 128).take 256)
      recordOk r = true ∧ s.placesFree 16 r = true ∧ s.chansFree 16 r.chans = true ∧ s.vfsFree 16 r.vfmask = true
        ∧ aget? s.parts r.pnum = none
    let bad : Cmd := ⟨0, newPartition (100 + 2 ^ 448) 1⟩
    let none' : Cmd := ⟨0, newPartition 100 1⟩
    formed (creation 0 100 1) ∧ permitted (creation 0 100 1) ∧ places (creation 0 100 1)
    ∧ formed (creation 77 100 1) ∧ ¬formed bad ∧ formed none'
    ∧ slhValid (policyOf 0 (policyBody 100 1)).tenkey (policyBody 100 1) (none'.args.drop 640) = false
    ∧ formed (creation 0 100 2) ∧ ¬permitted (creation 0 100 2) ∧ formed (creation 0 0 1) ∧ permitted (creation 0 0 1)
    ∧ ¬places (creation 0 0 1) := by
  repeat' apply And.intro
  all_goals decide +kernel
/-- MailboxCommands: each operation, done, going on, or refused. -/
theorem witness_mailbox :
    let s := boxed id
    let paused := boxed fun p => { p with state := .paused }
    let away := boxed fun p => { p with state := .evicted, relHbm := true }
    let ok := (false, cOk, 0)
    headerOk (leNat (command' 0x02 0 77 []).bytes) 64 = true ∧ headerOk (leNat (command' 0x02 1 77 []).bytes) 64 = false
    ∧ s.halting ⟨77, []⟩ = false
    ∧ box (.partPause (command' 0x02 1 77 [])) s = (false, cRefused, 0x20)
    ∧ box (.partCreate (command' 0x01 50496 0 (newPartition 100 1)) []) s = (false, cPolicy, 1)
    ∧ box (.partPause (command' 0x02 0 76 [])) s = (false, cRefused, 0x21)
    ∧ (ran (.partPause (command' 0x02 0 77 [])) s).assay.box.started = true
    ∧ (thePart (ran (.partPause (command' 0x02 0 77 [])) s)).halt = some .pause
    ∧ box (.partPause (command' 0x02 0 77 [])) paused = ok ∧ box (.partPause (command' 0x02 0 77 [])) away = (false, cRefused, 0x22)
    ∧ box (.partResume (command' 0x03 0 77 [])) paused = ok ∧ (thePart (ran (.partResume (command' 0x03 0 77 [])) paused)).state = .active
    ∧ box (.partResume (command' 0x03 0 76 [])) paused = (false, cRefused, 0x21) := by
  repeat' apply And.intro
  all_goals decide +kernel
/-- MailboxCommands, continued. -/
theorem witness_more_mailbox :
    let s := boxed id
    let paused := boxed fun p => { p with state := .paused }
    let away := boxed fun p => { p with state := .evicted, relHbm := true }
    let ok := (false, cOk, 0)
    box (.partEvict (command' 0x04 24 77 (leBytes 24 0))) s = (false, cRefused, 0x24)
    ∧ (thePart (ran (.partEvict (command' 0x04 24 77 (leBytes 24 (2 ^ 127)))) s)).halt = some (.evict false (2 ^ 63))
    ∧ box (.partRestore (command' 0x05 24 77 (leBytes 24 0)) []) s = (false, cRefused, 0x22)
    ∧ box (.partDestroy (command' 0x06 0 76 [])) s = (false, cRefused, 0x21)
    ∧ box (.vfAssign (command' 0x07 32 77 (leBytes 32 2))) paused = ok
    ∧ bit (thePart (ran (.vfAssign (command' 0x07 32 77 (leBytes 32 2))) paused)).prec.vfmask 1 = true
    ∧ box (.vfAssign (command' 0x07 32 77 (leBytes 32 2))) s = (false, cRefused, 0x22)
    ∧ box (.chanAssign (command' 0x08 256 77 (leBytes 256 9))) away = ok
    ∧ (thePart (ran (.chanAssign (command' 0x08 256 77 (leBytes 256 9))) away)).prec.chans = [9]
    ∧ box (.chanAssign (command' 0x08 256 77 (leBytes 256 9))) s = (false, cRefused, 0x22)
    ∧ box (.mapS2 (command' 0x09 32 77 (leBytes 32 (2 ^ 64)))) s = (false, cRefused, 0x20)
    ∧ box (.rateSet (command' 0x0A 16 77 (leBytes 16 (1 + 5000 * 2 ^ 64)))) s = ok
    ∧ box (.rateSet (command' 0x0A 16 77 (leBytes 16 (1 + 100001 * 2 ^ 64)))) s = (false, cRefused, 0x23) := by
  repeat' apply And.intro
  all_goals decide +kernel
/-- A MAP.S2 of VF 0. -/
def mapping (n : Nat) : Instr := .mapS2 (command' 0x09 32 77 (leBytes 32 n))
/-- Guest page 0 is mapped to partition offset 2^21. -/
def mapped : State := ran (mapping (2 ^ 200 + 2 ^ (128 + 21))) (boxed id)
/-- An entry below a table. -/
theorem leaf_under {s : State} {p : Machine.Part} {vf fuel level table base i : Nat} {x : S2Entry} (h : i < levelEntries level)
    (v : bit (s.tableNat p (table + 8 * i) 8) 0 = true) (t : bit (s.tableNat p (table + 8 * i) 8) 1 = false)
    (hx : x ∈ s.s2Leaves p vf fuel (level + 1) (pteBase (s.tableNat p (table + 8 * i) 8)) (base + i * 2 ^ levelLog2 level)) :
    x ∈ s.s2Leaves p vf (fuel + 1) level table base := by
  simp only [State.s2Leaves, List.mem_flatMap]
  exact ⟨i, List.mem_range.mpr h, by simpa [v, t] using hx⟩
/-- A leaf of a table. -/
theorem leaf_at {s : State} {p : Machine.Part} {vf fuel level table base i : Nat} (h : i < levelEntries level)
    (v : bit (s.tableNat p (table + 8 * i) 8) 0 = true) (t : bit (s.tableNat p (table + 8 * i) 8) 1 = true)
    (g : (base + i * 2 ^ levelLog2 level) % 2 ^ pteLog2 (s.tableNat p (table + 8 * i) 8) level = 0) :
    ⟨vf, base + i * 2 ^ levelLog2 level, pteLog2 (s.tableNat p (table + 8 * i) 8) level, pteBase (s.tableNat p (table + 8 * i) 8)⟩
      ∈ s.s2Leaves p vf (fuel + 1) level table base := by
  simp only [State.s2Leaves, List.mem_flatMap]
  exact ⟨i, List.mem_range.mpr h, by simp [v, t, g]⟩
/-- MailboxCommands: a page mapped, its entry in the tables; a store with no room for them. -/
theorem witness_map : box (mapping (2 ^ 200 + 2 ^ (128 + 21))) (boxed id) = (false, cOk, 0)
    ∧ mapped.stageTwo (thePart mapped) 0 0x1234 = some (2 ^ 21 + 0x1234, 19)
    ∧ (((boxed id).changeTables 0 (thePart (boxed id)) 0 0 (2 ^ 21) 19 [] true).map fun t => t.mem) = some mapped.mem := by decide +kernel
theorem witness_mapped : ∃ e ∈ mapped.s2Entries (thePart mapped), e.meets 0 0 19 = true ∧ e.log2 ≤ 19 := by
  refine ⟨_, List.mem_flatMap.mpr ⟨(0, 8192), by decide +kernel, leaf_under (i := 0) (by decide) (by decide +kernel) (by decide +kernel)
    (leaf_under (i := 0) (by decide) (by decide +kernel) (by decide +kernel) (leaf_under (i := 0) (by decide) (by decide +kernel)
      (by decide +kernel) (leaf_at (i := 0) (by decide) (by decide +kernel) (by decide +kernel) (by decide +kernel))))⟩, ?_, ?_⟩
  all_goals decide +kernel
theorem witness_no_map :
    let s := boxed id
    let full := boxed fun p => { p with images := [(0, { image with len := 65536 })] }
    s.s2Entries (thePart s) = [] ∧ (thePart s).prec.covers (2 ^ 21) (2 ^ 19) = true
    ∧ (full.changeTables 0 (thePart full) 0 0 (2 ^ 21) 19 [] true).isNone = true
    ∧ box (mapping (2 ^ 200 + 2 ^ (128 + 21))) full = (false, cRefused, 0x23)
    ∧ box (mapping (2 ^ 200 + 2 ^ (128 + 31))) s = (false, cRefused, 0x23) ∧ box (mapping 0) s = (false, cOk, 0) := by decide +kernel
theorem witness_map_fabric :
    let s := boxed id
    let n := 2 ^ 200 + 2 ^ (128 + 21) + 2 ^ 31 + 3 * 2 ^ 10 + 5
    box (mapping n) s = (false, cOk, 0) ∧ (thePart (ran (mapping n) s)).fmmu = [(5, ⟨2 ^ 21, 0, 0, 3, 19⟩)]
    ∧ box (mapping (2 ^ 31)) s = (false, cOk, 0) := by decide +kernel
/-- MailboxCommands: an evicted partition whose blob is restored, and another blob. -/
theorem witness_restore :
    let x : Sealed := ⟨fetchPart.prec, [], [], [], []⟩
    let s := boxed fun p => { p with state := .evicted, box := some x, epoch := 1 }
    let p := thePart s
    let c : Cmd := ⟨77, leBytes 24 (p.prec.blobLen p.relHbm * 2 ^ 64 + 8 * 2 ^ 128)⟩
    c.nat 16 8 = 8 ∧ c.nat 8 8 = p.prec.blobLen p.relHbm ∧ p.state = .evicted ∧ p.box = some x ∧ bit p.policy.cmdmask 5 = true
    ∧ s.placesFree 0 { p.prec with pbase := 8 } = true ∧ blobOk p (blobBytes p x p.relHbm) (p.prec.blobLen p.relHbm) = true
    ∧ blobOk p [] 0 = false ∧ box (.partRestore (command' 0x05 24 77 (leBytes 24 (8 * 2 ^ 128))) []) s = (false, cRefused, 0x25) := by
  refine ⟨?_, ?_, ?_, ?_, ?_, ?_, blobOk_blobBytes _ _ (by decide +kernel), ?_, ?_⟩ <;> decide +kernel
/-- MailboxCommands, those of the module. -/
theorem witness_module_commands :
    let s := boxed id
    let ok := (false, cOk, 0)
    let dead := s.onCore 2 fun k => { k with eng := { k.eng with dead := true } }
    box (.report (command' 0x20 40 76 (leBytes 40 0))) s = (false, cRefused, 0x21)
    ∧ box (.report (command' 0x20 40 77 (leBytes 40 0))) s = ok ∧ (ran (.report (command' 0x20 40 77 (leBytes 40 0))) s).assay.box.res = 50368
    ∧ box (.cert (command' 0x21 16 0 (leBytes 16 0))) s = ok ∧ box (.cert (command' 0x21 16 1 (leBytes 16 0))) s = (false, cRefused, 0x21)
    ∧ box (.mgmtRead (command' 0x30 8 0 (leBytes 8 0x10010))) s = ok
    ∧ (ran (.mgmtRead (command' 0x30 8 0 (leBytes 8 0x10010))) s).assay.box.res = word s.fabric.wlen
    ∧ box (.mgmtRead (command' 0x30 8 0 (leBytes 8 0x10020))) s = (false, cRefused, 0x20)
    ∧ box (.mgmtWrite (command' 0x31 16 0 (leBytes 16 (0x10010 + 3 * 2 ^ 64)))) s = ok
    ∧ (ran (.mgmtWrite (command' 0x31 16 0 (leBytes 16 (0x10010 + 3 * 2 ^ 64)))) s).fabric.wlen = 3
    ∧ box (.mgmtWrite (command' 0x31 16 0 (leBytes 16 0x10010))) s = (false, cRefused, 0x20)
    ∧ box (.prqRead (command' 0x32 24 0 (leBytes 24 0))) s = ok ∧ box (.prqRead (command' 0x32 24 0 (leBytes 24 128))) s = (false, cRefused, 0x20)
    ∧ mregOf 0x20010 = some (.emark 2) ∧ ((ran (.emarkWrite (command' 0x31 16 0 (leBytes 16 0x20010))) dead).tile 2).core.eng.dead = false
    ∧ mregOf 0x100200 = some (.health 2 0) ∧ box (.healthWrite (command' 0x31 16 0 (leBytes 16 0x100200))) s = ok
    ∧ isEmark ⟨0, leBytes 16 0x10010⟩ = false ∧ isHealth ⟨0, leBytes 16 0x10010⟩ = false := by
  repeat' apply And.intro
  all_goals decide +kernel
/-- MailboxCommands: a partition that has halted, and one that has not. -/
theorem witness_halted :
    let s := (boxed fun p => { p with halt := some .pause }).onTiles (thePart (boxed id)) Tile.halt
    let t := boxed fun p => { p with halt := some .pause }
    let e := (boxed fun p => { p with halt := some (.evict false (2 ^ 30)) }).onTiles (thePart (boxed id)) Tile.halt
    let f := { e with net := [packet 0 ⟨0, 1⟩ (.inc 8 5 false)] }
    (thePart s).halt = some .pause ∧ (thePart s).replay = false ∧ (thePart s).tiles.all (fun t => (s.tile t).haltDone s.cycle) = true
    ∧ (thePart (ran .partitionHalted s)).state = .paused ∧ box .partitionHalted s = (false, cOk, 0)
    ∧ (thePart t).tiles.all (fun n => (t.tile n).haltDone t.cycle) = false ∧ ran .partitionHalted t = t
    ∧ (thePart e).halt = some (.evict false (2 ^ 30)) ∧ (thePart e).replay = false ∧ e.meshDrained 0 (thePart e) = true
    ∧ (thePart e).tiles.all (fun t => (e.tile t).haltDone e.cycle) = true ∧ f.meshDrained 0 (thePart f) = false
    ∧ ran .partitionHalted f = f
    ∧ (user (regs 0 0 0 0) []).assay.box.busy = false ∧ (thePart (boxed id)).halt = none := by
  repeat' apply And.intro
  all_goals decide +kernel
/-- HostAndErrorEvents: registers, windows. -/
theorem witness_host :
    let s := (boxed id).onVf 0 fun v => { v with ide := true }
    let free := { s with assay := { s.assay with box := { s.assay.box with busy := false } } }
    (ran (.registerWrite true 0 0 0x12345) free).assay.box.addr = 0x12340 ∧ (ran (.registerWrite true 0 0 1) s).assay.box.err = 1
    ∧ (ran (.registerWrite true 0 0x10 1) free).assay.box.busy = true ∧ s.partOfVf 0 = some (0, thePart s)
    ∧ s.partOfVf 5 = none ∧ ran (.registerWrite false 5 0x200 0x12345) s = s ∧ s.vfRead 5 0x200 = 0
    ∧ (s.onPart 0 fun p => { p with qslots := [] }).vfBusy { thePart s with qslots := [] } 0 = false
    ∧ ((ran (.registerWrite false 0 0x200 0x12345) (s.onPart 0 fun p => { p with qslots := [] })).vf 0).qtbase = 0x12000
    ∧ s.windowOf 0 = some (thePart s) ∧ (s.vf 0).ide = true ∧ (thePart s).prec.covers 0x20000 2 = true ∧ Clean s
    ∧ (ran (.cxlMemRead 0 0x20001 1) (ran (.cxlMemWrite 0 0x20000 [7, 8]) s)).assay.hostOut = [8]
    ∧ ((boxed id).vf 0).ide = false ∧ ran (.cxlMemWrite 0 0x20000 [7, 8]) (boxed id) = boxed id := by
  repeat' apply And.intro
  all_goals decide +kernel
/-- HostAndErrorEvents: a session whose tenant key is proven by a signature over its transcript, and one that is not. -/
theorem witness_session :
    let x : Session := ⟨[1, 2, 3], none⟩
    let s := { boxed id with assay := { (boxed id).assay with sessions := [(4, x)] } }
    let y := { s with assay := { s.assay with sessions := [(4, { x with proven := some (77, 0) })] } }
    aget? s.assay.sessions 4 = some x ∧ s.holdsVf 77 0 = true ∧ s.holdsVf 77 9 = false
    ∧ (∃ q ∈ s.parts, q.2.handle = 77
        ∧ slhValid q.2.policy.tenkey (Config.sha384 x.transcript) (signedBy [] (Config.sha384 [1, 2, 3])) = true)
    ∧ (∀ q ∈ s.parts, q.2.handle = 77 → slhValid q.2.policy.tenkey (Config.sha384 x.transcript) [] = false)
    ∧ Config.vendorId + 1 ≠ Config.vendorId ∧ ran (.ideKeyProgramming 4 0) s = s
    ∧ ((ran (.ideKeyProgramming 4 0) y).vf 0).ide = true
    ∧ ((aget? (ran (.keyExchange ⟨9, [5]⟩) s).assay.sessions 9).map fun z => z.proven) = some none := by
  refine ⟨by decide +kernel, by decide +kernel, by decide +kernel, ⟨_, List.mem_cons_self .., rfl, slhValid_signedBy [] _⟩, ?_,
    Nat.succ_ne_self _, by decide +kernel, by decide +kernel, by decide +kernel⟩
  intro q _ _
  rfl
/-- HostAndErrorEvents: resets and errors. -/
theorem witness_errors :
    let s := boxed id
    let at' := tileAddr 0 0x240
    let eccLine := at' / 64
    let e := { s with ecc := [(at' / 8, true), (at' / 8 + 1, false), (at' / 8 + 9, true)], parts := [] }
    let hit := s.onPart 0 fun p => { p with prec := { p.prec with shz := true } }
    let m := (engineOf (.zero 4) [] true).onPart 0 fun p => { p with prec := { p.prec with shz := true } }
    (ran (.functionLevelReset 5) { s with vfs := [(5, { Vf.reset with nextTag := 8, qcount := 3 })] }).vf 5 = { Vf.reset with nextTag := 8 }
    ∧ s.partOfVf 5 = none ∧ (ran (.moduleReset [2]) s).parts = [] ∧ ((ran (.moduleReset [2]) s).tile 2).core.eng.dead = true
    ∧ (ran (.powerLoss true) s).mem = [] ∧ aget? s.tiles 0 = some (s.tile 0) ∧ (ran .healthFlush s).tiles.map (fun t => t.2.counts) = [.reset]
    ∧ (e.ecc.any fun q => q.2 && eccMeets (eccLine * 64) 64 q.1) = true ∧ (e.ecc.any fun q => !q.2 && eccMeets (eccLine * 64) 64 q.1) = true
    ∧ (ran (.scrubVisit eccLine) e).poison = [eccLine] ∧ (ran (.scrubVisit eccLine) e).ecc = [(at' / 8 + 9, true)] ∧ ran (.scrubVisit 1) e = e ∧ e.partOfTile 0 = none ∧ ((ran (.strikeReport .core) e).tile 0).counts.strikes = 1
    ∧ hit.partOfTile 0 = some (0, thePart hit) ∧ (thePart hit).state = .active ∧ (thePart hit).prec.shz = true
    ∧ ((ran (.strikeReport .core) hit).tile 0).counts.strikes = 1 ∧ ((ran (.strikeReport .core) hit).tile 0).counts.sreplay = 1
    ∧ ((m.tile 0).core.eng.running.map fun r => r.1) = some 0 ∧ (m.tile 0).core.eng.ran = []
    ∧ ((aget? (m.tile 0).loc.recs 0).map fun r => (r.born, r.q)) = some (0, .running 0) ∧ (thePart s).since + 160 ≤ s.cycle
    ∧ (∀ d < 8, d ≠ 0 → s.recAt 0 d = none) ∧ (s.recAt 0 0).map (fun q => q.2.q) = some (.running 0)
    ∧ ((ran (.strikeReport .matrix) m).ctxAt 0 0).mx.err = some (cUncorr, 3)
    ∧ s.partOfTile 0 = some (0, thePart s) ∧ (thePart s).prec.shz = false ∧ (s.tile 0).core.disp.left = []
    ∧ ((ran (.strikeReport .core) s).ctxAt 0 0).mx.err = some (cUncorr, 2)
    ∧ s.partOfVf 0 = some (0, thePart s) ∧ ((ran (.functionLevelReset 0) (s.onVf 0 fun v => { v with qcount := 3 })).vf 0).qcount = 0 := by
  repeat' apply And.intro
  all_goals decide +kernel

/-! ## Witnesses: the fabric -/

/-- A packet to tile 0 of chip 3. -/
def away (b : Body) : Packet := { packet 0 ⟨0, 0⟩ b with dst := ⟨3, 0⟩, due := 28000 }
/-- Cycle 28,000, window 5: chip 3 is behind port 16, which is up, with tokens for partition 0. -/
def pod (f : Fabric → Fabric) : State :=
  { user (regs 0 0 0 0) [] with
    cycle := 28000
    fabric := f { Fabric.reset with
      rtab := [(3, 0xA8000000)], portsUp := 0x10000, pooledAt := 20, buckets := [(16, ⟨2000, 100000, 0, 28000⟩)] } }
/-- A read of eight bytes of chip 3, outstanding since window `w`. -/
def reading (w : Nat) : Transfer := ⟨9, w, 0, 16, true, false, away (.access { buf with chip := 3 } 0 none 8 9), .access⟩
/-- Context 0 awaits it. -/
def awaiting (w : Nat) : State := (pod fun f => { f with transfers := [reading w] }).onCtx fun v => { v with hold := .remote 9 }
/-- FabricEvents: departures. -/
theorem witness_departure :
    let p := away (.inc 9 3 false)
    let s := pod fun f => { f with out := [p] }
    let low := pod fun f => { f with out := [p], buckets := [(16, ⟨0, 44799, 0, 28000⟩)] }
    let wait := { s with cycle := 27999 }
    let lost := pod fun f => { f with out := [p], rtab := [] }
    s.fabric.out[0]? = some p ∧ s.flipDue = false ∧ s.boundaryDue = false ∧ s.behind 0 p = false ∧ s.waitsForOld p = false
    ∧ s.route false p = .port 16 ∧ bit (s.fabric.entry false 3) 29 = true ∧ ((s.bucket 0 16).settle 28000).tokens = 100000
    ∧ (aget? s.parts p.part).isSome = true ∧ p.last = none ∧ s.window = 5 ∧ (ran .packetDeparture s).fabric.out = []
    ∧ (ran .packetDeparture s).fabric.transfers = [⟨0, 5, 0, 16, true, false, p, .post⟩]
    ∧ (ran .packetDeparture s).fabric.buckets = [(16, ⟨2000, 100000 - 32 * 1400, 0, 28000⟩)]
    ∧ lost.route false p = .lost ∧ (ran .packetDeparture lost).fabric.out = []
    ∧ ((ran .packetDeparture lost).fabric.transfers.map fun x => (x.sent, x.lost)) = [(false, true)]
    ∧ ran .packetDeparture low = low ∧ ran .packetDeparture wait = wait := by
  repeat' apply And.intro
  all_goals decide +kernel
/-- FabricEvents: outcomes. -/
theorem witness_outcomes :
    let post : Transfer := ⟨4, 5, 0, 16, true, false, away (.inc 9 3 false), .post⟩
    let s := pod fun f => { f with transfers := [post] }
    let shut := pod fun f => { f with transfers := [post], rtab := [] }
    let a := awaiting 5
    let late := awaiting 3
    let ans : RemoteAnswer := ⟨9, cOk, 0, [1, 2, 3, 4, 5, 6, 7, 8]⟩
    let engine : Transfer := { reading 5 with kind := .engine, pkt := { (reading 5).pkt with op := some 0 } }
    let o : EngOp := { engOp (.copy (some ⟨{ buf with chip := 3 }, 0, .none' 0, false⟩) none 0 0) 0 with flights := [⟨0, 8, [.asked 9], .waits⟩] }
    let e := (pod fun f => { f with transfers := [engine] }).onSteward 0 fun w => { w with ops := [o] }
    let gone := pod fun f => { f with transfers := [{ reading 5 with sent := false, lost := true }] }
    a.fabric.transfers[0]? = some (reading 5) ∧ (reading 5).sent = true ∧ (requestId (reading 5).pkt.body).isSome = true
    ∧ (requestId post.pkt.body).isSome = false ∧ a.window < 5 + 2 ∧ (∀ y ∈ late.fabric.transfers, y.id = 9 → y.stamp + 2 ≤ late.window)
    ∧ (ran (.remoteAccessAnswer ans) late).fabric.discarded = 1 ∧ (a.ctxAt 0 0).hold = .remote 9
    ∧ (∀ d < 8, (a.ctxAt 0 d).hold.commits 9 = false) ∧ engine.kind = .engine ∧ engine.pkt.op = some o.id
    ∧ (e.tile 0).stw.ops = [o] ∧ e.fabric.transfers[0]? = some engine ∧ answerFits engine.pkt.body ans = true
    ∧ (ran (.remoteAccessAnswer ans) e).fabric.transfers = []
    ∧ (gone.fabric.transfers.map fun x => (x.sent, x.lost)) = [(false, true)]
    ∧ s.confirmed 4 false = some (0, post) ∧ s.knows 3 = true ∧ shut.knows 3 = false ∧ shut.confirmed 4 false = some (0, post)
    ∧ (ran (.fabricAcknowledgement 4) shut).fabric.discarded = 1 ∧ s.confirmed 5 false = none ∧ (ran (.fabricAcknowledgement 4) s).fabric.transfers = []
    ∧ (ran (.fabricAcknowledgement 5) s).fabric.discarded = 1 ∧ a.confirmed 9 true = some (0, reading 5)
    ∧ answerFits (reading 5).pkt.body ans = true ∧ (a.ctxAt 0 0).hold = .remote 9
    ∧ (ran (.remoteAccessAnswer ans) a).ctx.answer = some ans ∧ (ran (.remoteAccessAnswer ans) a).ctx.hold = .none
    ∧ a.confirmed 8 true = none ∧ late.fabric.transfers[0]? = some (reading 3) ∧ 3 + 2 ≤ late.window ∧ a.window < 5 + 2
    ∧ (ran .transferTimeout late).ctx.answer = some ⟨9, cTimeout, 0, []⟩ ∧ ran .transferTimeout a = a := by
  repeat' apply And.intro
  all_goals decide +kernel
/-- FabricEvents: arrivals. -/
theorem witness_fabric_arrivals :
    let q : Packet := { packet 0 ⟨3, 0⟩ (.inc 9 3 false) with due := 28000 }
    let at' := fun stamp seq : Nat => (⟨stamp, 0, 1, seq, q⟩ : FabPacket)
    let s := pod fun f => { f with seqs := [(12, 2)] }
    let closed := pod fun f => { f with rtab := [(3, 0x88000000)] }
    let m : Packet := { packet 0 ⟨3, 0⟩ (.msg 4 1 2 3 4 none) with due := 28000 }
    let k : Cap := { buf with rights := ⟨true, false, false, true⟩ }
    let x : Packet := { packet 1 ⟨3, 0⟩ (.access k 0 none 8 9) with due := 28000 }
    s.flowWaits m = false ∧ s.mayArrive m = true ∧ aget s.fabric.seqs 0 (seqKey m) = 2 ∧ s.destPart m = some 0
    ∧ (ran (.fabricPacketArrival ⟨4, 0, 1, 2, m⟩) s).net.map (fun p => p.body) = [m.body]
    ∧ (ran (.fabricPacketArrival ⟨3, 0, 1, 2, m⟩) s).net = [] ∧ s.flowWaits x = false ∧ s.mayArrive x = true ∧ s.destPart x = some 0
    ∧ s.checkCap [] false (some k) .read 0 8 = .ok (tileAddr 0 0x1000) ∧ 1 < tileAddr 0 0x1000 / 2 ^ 52 ∧ Clean s ∧ s.net = []
    ∧ (ran (.fabricPacketArrival ⟨4, 0, 9, 0, x⟩)
      (s.putBytes (tileAddr 0 0x1000) (leBytes 8 7))).fabric.out.map (fun p => p.body) = [.answer 9 cOk 0 (leBytes 8 7)]
    ∧ s.flowWaits q = false ∧ bit (s.fabric.entry false 3) 31 = true ∧ s.mayArrive q = true ∧ aget s.fabric.seqs 0 (seqKey q) = 2
    ∧ s.destPart q = some 0 ∧ needsCapok q.body = true ∧ bit (closed.fabric.entry false 3) 29 = false
    ∧ ran (.fabricPacketArrival (at' 4 1)) s = s ∧ (ran (.fabricPacketArrival (at' 4 2)) s).net.map (fun p => p.body) = [.inc 9 3 false]
    ∧ (ran (.fabricPacketArrival (at' 4 2)) s).fabric.seqs = [(12, 3)] ∧ (ran (.fabricPacketArrival (at' 3 2)) s).net = []
    ∧ (thePart (ran (.fabricPacketArrival (at' 3 2)) s)).supv.flog.overflow = 1
    ∧ (ran (.fabricPacketArrival (at' 4 2)) closed).net = []
    ∧ (ran (.fabricPacketArrival (at' 4 2)) (pod fun f => { f with rtab := [] })).fabric.discarded = 1 := by
  repeat' apply And.intro
  all_goals decide +kernel
/-- FabricEvents: generations, ports, buckets, the time base, deliveries. -/
theorem witness_fabric_state :
    let s := pod id
    let flip := pod fun f => { f with flipped := false, retired := false, flipwin := 5 }
    let flipped := pod fun f => { f with retired := false, flipwin := 3 }
    let due := { s with cycle := 29400 }
    let un := { s with fabric := { s.fabric with unsync := some 5 } }
    let un' := { s with fabric := { s.fabric with unsync := some 6 } }
    let d : Delivery := { delivery true none with src := ⟨3, 1⟩, lastWindow := 2 }
    let r := s.onLocal 0 fun l => { l with rings := [(0, { ring0 with deliveries := [d] })] }
    flip.flipDue = true ∧ (ran .routingFlip flip).fabric.gencur = true ∧ s.flipDue = false ∧ flipped.fabric.flipped = true
    ∧ flipped.fabric.flipwin + 2 ≤ flipped.window ∧ (ran .routingRetire flipped).fabric.retired = true
    ∧ s.fabric.portsUp.getLsbD 16 = true ∧ (ran (.portDown 16) s).fabric.portsUp = 0 ∧ (ran (.portUp 2) s).fabric.portsUp = 0x10004
    ∧ (ran (.linkCrcError 16 [0]) s).assay.hltail = 1 ∧ due.boundaryDue = true ∧ (ran .tokenRedistribute due).fabric.pooledAt = 21
    ∧ s.boundaryDue = false ∧ (ran .chipUnsynchronized (awaiting 5)).fabric.transfers = []
    ∧ (ran .chipUnsynchronized s).fabric.unsync = some 7 ∧ (ran .chipResynchronized un).fabric.unsync = none
    ∧ ran .chipResynchronized un' = un'
    ∧ ((aget? ((ran .copyDeliveryTimeout r).tile 0).loc.rings 0).map fun g => g.deliveries.map fun d => d.done)
      = some [some (cTimeout, 0, d.got)] := by
  repeat' apply And.intro
  all_goals decide +kernel
/-- A slot that is open for two INT32 sums, with the contribution `a` of index 0 when there is one. -/
def slotWith (present : Nat) : RedSlot :=
  let s : RedSlot := { RedSlot.zero with state := .opened, handle := 0x0005_0304_0000_0000, op := 0, fmt := 3, count := 2, deadline := 9 }
  if present = 0 then s else s.fold 0 40 (.land ⟨⟨0, 1⟩, 4⟩) ⟨0, 1⟩
/-- The interface with that slot at number 0 and a packet. -/
def slotted (r : RedSlot) (b : Body) : State := { pod (fun f => { f with slots := [(0, r)] }) with net := [packet 0 ⟨0, 0⟩ b] }
/-- CollectiveSlots. -/
theorem witness_slots :
    let h : Word := 0x0005_0304_0000_0000
    let o := { pod id with net := [packet 0 ⟨0, 0⟩ (.collOpen 0 3 2 4 ⟨⟨0, 0⟩, 6⟩)] }
    let full := slotted { RedSlot.zero with state := .done, doneWindow := 4 } (.collOpen 0 3 2 4 ⟨⟨0, 0⟩, 6⟩)
    let none' := { full with fabric := { full.fabric with slots := (upto 64).map fun i => (i, { RedSlot.zero with state := .done, doneWindow := 4 }) } }
    let c0 := slotted (slotWith 0) (.contrib h 0 40 (.land ⟨⟨0, 1⟩, 4⟩) 0)
    let c1 := slotted (slotWith 1) (.contrib h 1 2 (.land ⟨⟨0, 0⟩, 5⟩) 0)
    let x := slotted { slotWith 1 with state := .done } (.collClose h)
    let w := slotted (slotWith 1) (.collClose h)
    let late := { slotted (slotWith 1) (.collClose h) with cycle := 9 * 5600 }
    let old := { slotted { slotWith 1 with state := .done } (.collClose h) with cycle := 256 * 5600 }
    let again := slotted (slotWith 1) (.contrib h 0 2 (.land ⟨⟨0, 0⟩, 5⟩) 0)
    let tardy := slotted ((slotWith 1).fold 1 2 (.land ⟨⟨0, 0⟩, 5⟩) ⟨0, 0⟩ |> fun r => { r with state := .done, record := some (42, 0x20000, 3) })
      (.contrib h 1 2 (.land ⟨⟨0, 0⟩, 5⟩) 0)
    bit (again.redSlot 0).present 0 = true ∧ (ran .contributionArrival again).redSlot 0 = again.redSlot 0
    ∧ (ran .contributionArrival again).net = []
    ∧ (tardy.redSlot 0).state = .done ∧ (tardy.redSlot 0).record = some (42, 0x20000, 3)
    ∧ ((ran .contributionArrival tardy).net.map fun p => (p.dst, p.body))
      = [(⟨0, 0⟩, .collRecord (.land ⟨⟨0, 0⟩, 5⟩) 42 (collStatus cLate 0 2 none) 3 h 1)]
    ∧ tardy.window < (tardy.redSlot 0).doneWindow + 256 ∧ x.window < (x.redSlot 0).doneWindow + 256 ∧ w.window < (w.redSlot 0).deadline
    ∧ (∀ i < 64, ((o.redSlot i).state = .free) ∧ (full.redSlot i).state ≠ .opened)
    ∧ (∀ i < 64, full.window < (full.redSlot i).doneWindow + 256 ∧ none'.window < (none'.redSlot i).doneWindow + 256)
    ∧ ((ran .slotDeadline late).redSlot 0).doneWindow = 9 ∧ (c0.redSlot 0).closing = false ∧ bit (c0.redSlot 0).present 0 = false
    ∧ (x.redSlot 0).part = 0 ∧ (w.redSlot 0).part = 0 ∧ (late.redSlot 0).closing = false
    ∧ o.incoming.isSome = true ∧ o.freeSlotFor 0 = some 0 ∧ ((ran .collopenRequest o).redSlot 0).deadline = 9
    ∧ ((ran .collopenRequest o).redSlot 0).count = 2 ∧ ((ran .collopenRequest o).net.map fun p => p.dst) = [⟨0, 0⟩]
    ∧ full.freeSlotFor 0 = some 1 ∧ none'.freeSlotFor 0 = none ∧ handleSlot h.toNat = 0 ∧ (c0.redSlot 0).handle = h ∧ c0.window < 9
    ∧ ((ran .contributionArrival c0).redSlot 0).present = 1 ∧ ((ran .contributionArrival c1).redSlot 0).state = .done
    ∧ ((ran .contributionArrival c1).redSlot 0).record = some (42, 0x20000, 3)
    ∧ (ran .contributionArrival c1).net.map (fun p => p.dst) = [⟨0, 1⟩, ⟨0, 0⟩]
    ∧ risesFrom none x.fabric.slots = true ∧ (ran .collcloseArrival x).redSlot 0 = .zero
    ∧ ((ran .collcloseArrival w).redSlot 0).closing = true ∧ (late.redSlot 0).deadline ≤ late.window
    ∧ ((ran .slotDeadline late).redSlot 0).record = some (40, word (cTimeout + 0x10000), 1) ∧ ran .slotDeadline w = w
    ∧ (ran .slotExpire old).redSlot 0 = .zero ∧ ran .slotExpire x = x := by
  repeat' apply And.intro
  all_goals decide +kernel
/-- The run of Table 18.9, in windows of 4 µs: a slot with deadline window 503 completes there with 1.5 and mask 3. -/
theorem test_slot_times_out :
    let at' : LandAt := ⟨⟨0, 0⟩, 4⟩
    let r := (({ RedSlot.zero with state := .opened, fmt := 11, count := 3, deadline := 503 }).fold 0 0x3FC00000 (.land at') ⟨0, 0⟩).fold
      1 0x33800000 (.land at') ⟨0, 0⟩
    let s := { slotted r (.collClose 0) with cycle := 503 * 5600 }
    ((ran .slotDeadline s).redSlot 0).record = some (0x3FC00000, 0x20007, 3) := by
  decide +kernel
/-- With contribution 2, −1.5, in time, the sum is 2^−24. -/
theorem test_slot_completes :
    let at' : LandAt := ⟨⟨0, 0⟩, 4⟩
    let r := (({ RedSlot.zero with state := .opened, fmt := 11, count := 3, deadline := 503 }).fold 0 0x3FC00000 (.land at') ⟨0, 0⟩).fold
      1 0x33800000 (.land at') ⟨0, 0⟩
    let s := slotted r (.contrib 0 2 0xBFC00000 (.land at') 0)
    ((ran .contributionArrival s).redSlot 0).record = some (0x33800000, 0x30000, 7) := by
  decide +kernel

end Sys2Proof.Tests
end

section
/-!
PROOFS. Where a tile stands in the mesh (R10), and what GETS reads of a special register that no DetCheck guards (R199).
-/

namespace Sys2Proof.Machine

/-! ## Column and row of a tile id (R10) -/

section
variable {col row : Nat}

theorem tileCol_position (hc : col < 64) : tileCol (row * 64 + col) = col :=
  Nat.mul_add_mod_of_lt hc

theorem tileRow_position (hc : col < 64) (hr : row < 64) : tileRow (row * 64 + col) = row := by
  unfold tileRow
  omega

theorem tileDie_position (hc : col < 64) (hr : row < 64) : tileDie (row * 64 + col) = row / 32 * 2 + col / 32 := by
  rw [tileDie, tileRow_position hc hr, tileCol_position hc]

theorem tileCluster_position (hc : col < 64) (hr : row < 64) :
    tileCluster (row * 64 + col) = row / 4 * 16 + col / 4 := by
  rw [tileCluster, tileRow_position hc hr, tileCol_position hc]

end

/-! ## GETS (R199) -/

theorem exec_gets_of_unguarded {s : State} {w : Who} {h : Hint} {a : SReg} (hi : Issues s h w) (d : Reg)
    (ha : ¬ (a = .cycle ∨ a = .window)) :
    exec (.gets h d a) s = .next (s.stepped h fun r => r.writeX d (specialValue s w a)) :=
  issue_regs hi _ (fun r => Regs.writeX_pc r d _) (by rw [if_neg ha]; rfl)

/-- Settles O44: the coordinates of a tile id are its base-64 digits, die and cluster are functions of these alone, and %tile
is read under no DetCheck. -/
theorem tileGeometry : Obligations.TileGeometry := by
  unfold Obligations.TileGeometry
  constructor
  · intro col row hc hr
    exact ⟨tileCol_position hc, tileRow_position hc hr, tileDie_position hc hr, tileCluster_position hc hr⟩
  · intro s w h d hi
    exact exec_gets_of_unguarded hi d (by decide)

end Sys2Proof.Machine
end

section
/-!
PROOFS. The guard of an instruction (R135): what a guard reads, that no legal word has G = 1000, and that a false guard
leaves only the advanced PC.
-/

namespace Sys2Proof

/-! ## G = 1000 is illegal -/

/-- Whatever instruction `o` holds has the guard field of the word's fields `r` for its guard. -/
def ReadsGuard (r : Raw) (o : Option Instr) : Prop :=
  ∀ i, o = some i → ∃ h, i.hint? = some h ∧ h.g = BitVec.ofNat 4 r.g

section
variable {r : Raw}

@[simp] theorem readsGuard_none : ReadsGuard r none := fun _ h => nomatch h

@[simp] theorem readsGuard_some {i : Instr} :
    ReadsGuard r (some i) ↔ ∃ h, i.hint? = some h ∧ h.g = BitVec.ofNat 4 r.g := by
  simp [ReadsGuard]

@[simp] theorem readsGuard_ite {c : Prop} [Decidable c] {o p : Option Instr} :
    ReadsGuard r (if c then o else p) ↔ (c → ReadsGuard r o) ∧ (¬ c → ReadsGuard r p) := by
  split <;> simp [*]

@[simp] theorem readsGuard_bind {α : Type} {o : Option α} {f : α → Option Instr} :
    ReadsGuard r (o.bind f) ↔ ∀ x, o = some x → ReadsGuard r (f x) := by
  cases o <;> simp

@[simp] theorem readsGuard_or {o p : Option Instr} :
    ReadsGuard r (o.or p) ↔ ReadsGuard r o ∧ (o = none → ReadsGuard r p) := by
  cases o <;> simp

@[simp] theorem Raw.hint_g : r.hint.g = BitVec.ofNat 4 r.g := rfl
@[simp] theorem Raw.hintGuard_g : r.hintGuard.g = BitVec.ofNat 4 r.g := rfl
end

/-- R131: every form of every entry takes its guard from field G. -/
theorem readsGuard_decodeRaw (r : Raw) : ReadsGuard r (decodeRaw r) := by
  unfold decodeRaw decodeClass0 decodeClass1 decodeClass2 decodeClass3 decodeClass4 decodeClass5 decodeClass6 decodeClass7
    decodeClass8 decodeClass9 decodeClassA
  split
  case h_12 => exact readsGuard_none
  all_goals split <;> simp [Instr.hint?]

/-- R141: the legal words are those whose fields give an instruction that passes every check. -/
theorem decode_eq_ok_iff {w : Nat} {i : Instr} :
    decode w = .ok i ↔ decodeRaw (Raw.ofWord w) = some i ∧ i.wellFormed = true := by
  cases hr : decodeRaw (Raw.ofWord w) with
  | none => simp [decode, hr]
  | some j =>
    constructor
    · intro hd
      simp only [decode, hr] at hd
      split_ifs at hd
      simp_all [Instr.wellFormed]
    · rintro ⟨hj, hw⟩
      obtain rfl := Option.some.inj hj
      simp only [Instr.wellFormed, Bool.and_eq_true] at hw
      simp [decode, hr, hw]

theorem decode_ne_ok_of_guard_eight {w : Nat} (hf : field w 78 4 = 8) (i : Instr) : decode w ≠ .ok i := by
  intro hd
  obtain ⟨hr, hw⟩ := decode_eq_ok_iff.mp hd
  obtain ⟨h, hh, hg⟩ := readsGuard_decodeRaw _ i hr
  have hg8 : h.g = 8 := hg.trans (congrArg (BitVec.ofNat 4) hf)
  simp [Instr.wellFormed, Instr.guardOk, hh, hg8] at hw

end Sys2Proof

namespace Sys2Proof.Machine

/-! ## What a guard reads -/

section
variable (r : Regs) (n : BitVec 3)

theorem guardTrue_setWidth : guardTrue r (n.setWidth 4) = r.readP n := by
  have htop : ∀ m : BitVec 3, (m.setWidth 4).extractLsb' 3 1 = 0 := by decide
  have hlow : ∀ m : BitVec 3, (m.setWidth 4).extractLsb' 0 3 = m := by decide
  rw [guardTrue, if_pos (htop n), hlow]

theorem guardTrue_eight_or : guardTrue r (8 ||| n.setWidth 4) = !r.readP n := by
  have htop : ∀ m : BitVec 3, (8 ||| m.setWidth 4 : BitVec 4).extractLsb' 3 1 ≠ 0 := by decide
  have hlow : ∀ m : BitVec 3, (8 ||| m.setWidth 4 : BitVec 4).extractLsb' 0 3 = m := by decide
  rw [guardTrue, if_neg (htop n), hlow]

theorem guardTrue_zero : guardTrue r 0 = true := guardTrue_setWidth r 0

end

/-! ## A false guard -/

section
variable {s : State} {w : Who} {h : Hint}

theorem issueEnd_false (hi : s.issuer = some w) (hg : guardTrue s.regs h.g = false) (body : Who → Eff State) :
    issueEnd s h body = .next (s.nextPc.clearResume.issueHold 0) := by
  simp [issueEnd, hi, hg]

theorem issueMatrix_false (hi : s.issuer = some w) (hg : guardTrue s.regs h.g = false) (hn : w.image.nomx = false)
    (body : Who → Eff State) : issueMatrix s h body = .next (s.nextPc.clearResume.issueHold 0) := by
  rw [issueMatrix_eq hi hn, issue_false hi hg]

theorem issueVector_false (hi : s.issuer = some w) (hg : guardTrue s.regs h.g = false)
    (body : Who → Eff (State × List Nat)) : issueVector s h body = .next (s.nextPc.clearResume.issueHold 0) :=
  issue_false hi hg _

theorem execVcvt_false (hi : s.issuer = some w) (hg : guardTrue s.regs h.g = false) (t : Ty) (d a : Vreg) (b : Imm) :
    execVcvt h t d a b s = .next (s.nextPc.clearResume.issueHold 0) := by
  unfold execVcvt
  split
  · exact issueVector_false hi hg _
  · split
    · exact issueVector_false hi hg _
    · exact issueVector_false hi hg _

end

/-- What the frames do under a false guard is all that an instruction does: the cases left at the end are those of the frame
`issue`; events and steward instructions have no guard. -/
theorem exec_of_guard_false {i : Instr} {s : State} {w : Who} {h : Hint} (hh : i.hint? = some h) (hi : s.issuer = some w)
    (hg : guardTrue s.regs h.g = false) (hm : w.image.nomx = false ∨ isMatrix i = false)
    (hsel : ∀ t d a b, i ≠ .sel h t d a b) : exec i s = .next (s.nextPc.clearResume.issueHold 0) := by
  cases i <;> cases hh
  case sel.refl => exact absurd rfl (hsel _ _ _ _)
  case br.refl | bri.refl | call.refl | ret.refl | loop.refl | trap.refl | brk.refl | eret.refl =>
    exact issueJump_false hi hg _
  case endTask.refl | endc.refl | halt.refl => exact issueEnd_false hi hg _
  case mzero.refl | mma.refl | mmat.refl | mld.refl | mst.refl | mscale.refl | mstat.refl | msig.refl =>
    exact issueMatrix_false hi hg (hm.resolve_right Bool.noConfusion) _
  case vcvt.refl => exact execVcvt_false hi hg _ _ _ _
  all_goals exact issue_false hi hg _

/-- SEL executes whether its guard is true or false. -/
theorem exec_sel {s : State} {w : Who} (hi : s.issuer = some w) (h : Hint) (t : Ty) (d a : Reg) (b : RegImm) :
    exec (.sel h t d a b) s = .next (s.stepped h fun r => r.writeX d (wordOfInt (wrapInt
      (if guardTrue s.regs h.g then intOf (s.x a) t else intOf (RegImm.value b s) t) t))) :=
  (issueAlways_ok hi rfl).trans (congrArg _ (stepped_of_onRegs _ fun r => Regs.writeX_pc r d _))

/-- Settles O7: G is read off by its bits; every instruction of the decoder has field G for its guard; every frame but that of
SEL answers a false guard by the advanced PC alone. -/
theorem falseGuardSuppresses : Obligations.FalseGuardSuppresses := by
  unfold Obligations.FalseGuardSuppresses
  refine ⟨guardTrue_zero, ?_, ?_, ?_, ?_⟩
  · intro r n _
    exact ⟨guardTrue_setWidth r n, guardTrue_eight_or r n⟩
  · intro w i hw
    exact decode_ne_ok_of_guard_eight hw i
  · intro i s w h hh hi hg hm hsel
    rw [exec_of_guard_false hh hi hg hm hsel]
    exact congrArg _ (stepped_of_id (h := { h with stag := 0 }))
  · intro s w h t d a b hi
    exact exec_sel hi h t d a b

end Sys2Proof.Machine
end

section
/-!
PROOFS. MZERO (R245): what an accumulator holds after a write, what the end of a command leaves alone, what MZERO comes to,
and that the pattern of its words decodes to +0 with the exponent of FP32's subnormals.
-/

namespace Sys2Proof.Machine

/-! ## Maps that a function gives -/

theorem aget?_amap {β γ : Type} (m : Assoc β) (f : Nat → β → γ) (a : Nat) : aget? (amap m f) a = (aget? m a).map (f a) := by
  induction m with
  | nil => rfl
  | cons p m ih =>
    obtain ⟨k, v⟩ := p
    change aget? ((k, f k v) :: amap m f) a = _
    rw [aget?_cons, aget?_cons, ih]
    split
    · subst_vars; rfl
    · rfl

theorem aget?_map_of_mem {β : Type} (f : Nat → β) {l : List Nat} {a : Nat} (h : a ∈ l) :
    aget? (l.map fun i => (i, f i)) a = some (f a) := by
  induction l with
  | nil => cases h
  | cons k l ih =>
    rw [List.map_cons, aget?_cons]
    split
    · subst_vars; rfl
    · rename_i hk
      exact ih ((List.mem_cons.mp h).resolve_left hk)

/-! ## Accumulators (R232) -/

theorem AccVal.word_accFrom (f : Nat → Nat) {i : Nat} (hi : i < 1024) : (accFrom f).word i = f i % 2 ^ 32 := by
  have hm : i ∈ upto 1024 := List.mem_range.mpr hi
  simp only [AccVal.word, accFrom, aget?_map_of_mem (fun i => BitVec.ofNat 32 (f i)) hm, Option.getD_some,
    BitVec.toNat_ofNat]

section
variable (s : State) (t : Nat)

@[simp] theorem State.setAcc_mem (d : Nat) (v : AccVal) : (s.setAcc t d v).mem = s.mem := rfl

@[simp] theorem State.acc_setAcc_self (d : Nat) (v : AccVal) : (s.setAcc t d v).acc t d = v := by
  simp [State.acc, State.setAcc, State.onCore]

theorem State.acc_setAcc_ne {d e : Nat} (v : AccVal) (h : e ≠ d) : (s.setAcc t d v).acc t e = s.acc t e := by
  simp [State.acc, State.setAcc, State.onCore, aget_aset_ne _ _ _ h]

@[simp] theorem State.ctxAt_setAcc (d : Nat) (v : AccVal) (u c : Nat) : (s.setAcc t d v).ctxAt u c = s.ctxAt u c :=
  ctxAt_onCore s t (fun k => { k with accs := aset k.accs d v }) (fun _ => rfl) u c

end

/-! ## The end of a command (R127, R234) -/

/-- A context whose first command has ended. -/
def Context.dequeued (v : Context) : Context := { v with mx := { v.mx with queue := v.mx.queue.drop 1 } }.drained

@[simp] theorem Context.drained_regs (v : Context) : v.drained.regs = v.regs := by
  unfold Context.drained; split <;> rfl

@[simp] theorem Context.drained_mx (v : Context) : v.drained.mx = v.mx := by
  unfold Context.drained; split <;> rfl

@[simp] theorem Context.dequeued_regs (v : Context) : v.dequeued.regs = v.regs := Context.drained_regs _

@[simp] theorem Context.dequeued_mx (v : Context) : v.dequeued.mx = { v.mx with queue := v.mx.queue.drop 1 } :=
  Context.drained_mx _

/-- A new round gives a context credits and nothing else. -/
theorem CoreSt.newRound_ctx (k : CoreSt) (c : Nat) :
    ∃ n, aget k.newRound.ctxs .reset c
      = { aget k.ctxs .reset c with mx := { (aget k.ctxs .reset c).mx with credits := n } } := by
  unfold CoreSt.newRound aget
  rw [aget?_amap]
  cases aget? k.ctxs c with
  | none => exact ⟨0, rfl⟩
  | some v => exact ⟨_, rfl⟩

section
variable (s : State) (t c : Nat)

@[simp] theorem State.endCommand_mem : (s.endCommand t c).mem = s.mem := rfl

/-- The end of a command changes a core by the context it leaves, the engine, and the new round that may begin. -/
theorem State.core_endCommand : ∃ e,
    let k := { (s.tile t).core with ctxs := aset (s.tile t).core.ctxs c (s.ctxAt t c).dequeued, eng := e }
    ((s.endCommand t c).tile t).core = k ∨ ((s.endCommand t c).tile t).core = k.newRound := by
  unfold State.endCommand State.onCtxAt
  rw [State.onCore, State.tile_onTile_self, State.tile_setCtxAt_self]
  exact ⟨_, ite_eq_or_eq _ _ _⟩

@[simp] theorem State.acc_endCommand (a : Nat) : (s.endCommand t c).acc t a = s.acc t a := by
  obtain ⟨e, hk | hk⟩ := s.core_endCommand t c <;> rw [State.acc, hk] <;> rfl

theorem State.ctxAt_endCommand : ∃ n, (s.endCommand t c).ctxAt t c =
    { (s.ctxAt t c).dequeued with mx := { (s.ctxAt t c).dequeued.mx with credits := n } } := by
  obtain ⟨e, hk | hk⟩ := s.core_endCommand t c
  · exact ⟨(s.ctxAt t c).dequeued.mx.credits, by rw [State.ctxAt, hk, aget_aset_self]⟩
  · obtain ⟨n, hn⟩ := CoreSt.newRound_ctx
      { (s.tile t).core with ctxs := aset (s.tile t).core.ctxs c (s.ctxAt t c).dequeued, eng := e } c
    rw [aget_aset_self] at hn
    exact ⟨n, by rw [State.ctxAt, hk, hn]⟩

@[simp] theorem State.endCommand_regs : ((s.endCommand t c).ctxAt t c).regs = (s.ctxAt t c).regs := by
  obtain ⟨n, hn⟩ := s.ctxAt_endCommand t c
  rw [hn, Context.dequeued_regs]

@[simp] theorem State.endCommand_flags : ((s.endCommand t c).ctxAt t c).mx.flags = (s.ctxAt t c).mx.flags := by
  obtain ⟨n, hn⟩ := s.ctxAt_endCommand t c
  rw [hn, Context.dequeued_mx]

end

/-! ## MZERO (R245) -/

/-- MZERO that the engine ends: its accumulator is all zeros, and the command leaves the engine. -/
theorem exec_matrixCommandComplete_zero {s : State} {c d : Nat} {m : MxCmd}
    (hr : (s.tile s.cur.tile).core.eng.running = some (c, m)) (ho : m.op = .zero d) (hp : m.poison = none) :
    exec (.matrixCommandComplete .agree) s
      = .next ((s.setAcc s.cur.tile d (accFrom fun _ => 0)).endCommand s.cur.tile c) := by
  change execMatrixCommandComplete .agree s = _
  simp [execMatrixCommandComplete, hr, State.mayPost, ho, State.finishCommand, State.cmdError, hp, MxOp.accReads,
    State.correctAccs, State.runCommand]

/-- The pattern 0 of FP32 is a zero significand at the exponent of the subnormals, 1 − 127 − 23. -/
theorem decodeNum_f32_zero : decodeNum .f32 0 = .fin false 0 (-149) := by decide

/-- R245 in full, with +0 as `decodeNum` gives it. -/
theorem matrixCommandComplete_clears {s : State} {c d : Nat} {m : MxCmd}
    (hr : (s.tile s.cur.tile).core.eng.running = some (c, m)) (ho : m.op = .zero d) (hp : m.poison = none) :
    ∃ u, exec (.matrixCommandComplete .agree) s = .next u ∧ u.mem = s.mem
      ∧ (u.ctxAt s.cur.tile c).mx.flags = (s.ctxAt s.cur.tile c).mx.flags
      ∧ (u.ctxAt s.cur.tile c).regs = (s.ctxAt s.cur.tile c).regs
      ∧ (∀ e, e ≠ d → u.acc s.cur.tile e = s.acc s.cur.tile e)
      ∧ ∀ i < 1024, (u.acc s.cur.tile d).word i = 0
        ∧ decodeNum .f32 ((u.acc s.cur.tile d).word i) = .fin false 0 (-149)
        ∧ intIn .i32 ((u.acc s.cur.tile d).word i) = 0 := by
  refine ⟨_, exec_matrixCommandComplete_zero hr ho hp, by simp, by simp, by simp, fun e he => ?_, fun i hi => ?_⟩
  · rw [State.acc_endCommand, State.acc_setAcc_ne _ _ _ he]
  · have hw : (((s.setAcc s.cur.tile d (accFrom fun _ => 0)).endCommand s.cur.tile c).acc s.cur.tile d).word i = 0 := by
      rw [State.acc_endCommand, State.acc_setAcc_self, AccVal.word_accFrom _ hi, Nat.zero_mod]
    rw [hw]
    exact ⟨rfl, decodeNum_f32_zero, by decide⟩

/-- The machine after reset, but for an MZERO of accumulator 4 that runs on tile 0. -/
def zeroing : State :=
  State.reset.onCore 0 fun k => { k with
    eng := { k.eng with running := some (0, ⟨.zero 4, 0, [], [], [], [], some [], 0, none, 0, 0, ⟨0, 0⟩⟩) } }

/-- Refutes O35: R245 itself holds of the model (`matrixCommandComplete_clears`), but no word 0 reads as the statement has it.
Its FP32 value is `.fin false 0 (-149)`, +0 at the exponent of the subnormals, and the statement asks for `.fin false 0 0`, the
same number with another exponent. -/
theorem not_mzeroClears : ¬ Obligations.MzeroClears := by
  unfold Obligations.MzeroClears
  intro h
  obtain ⟨u, hu, -, -, -, -, hclaimed⟩ := h zeroing 0 4 _ rfl rfl rfl
  obtain ⟨v, hv, -, -, -, -, hgiven⟩ := matrixCommandComplete_clears (s := zeroing) rfl rfl rfl
  obtain rfl : u = v := Host.Outcome.next.inj (hu.symm.trans hv)
  obtain ⟨-, hzero, -⟩ := hclaimed 0 (by decide)
  obtain ⟨-, hsub, -⟩ := hgiven 0 (by decide)
  exact absurd (hzero.symm.trans hsub) (by decide)

end Sys2Proof.Machine
end

section
/-!
PROOFS. Encoding (R131 to R143): every instruction's word decodes to it.
-/

namespace Sys2Proof.Laws

/-- The family of round trips, one for each constructor. -/
theorem roundTrip (i : Instr) : RoundTrip.Statement i :=
  i.casesOn
    RoundTrip.nop RoundTrip.br RoundTrip.bri RoundTrip.call RoundTrip.ret RoundTrip.loop RoundTrip.endTask
    RoundTrip.endc RoundTrip.trap RoundTrip.brk RoundTrip.gets RoundTrip.sets RoundTrip.tlbi RoundTrip.eret
    RoundTrip.wdog RoundTrip.halt RoundTrip.add RoundTrip.sub RoundTrip.mul RoundTrip.mulh RoundTrip.div RoundTrip.rem
    RoundTrip.and RoundTrip.or RoundTrip.xor RoundTrip.andn RoundTrip.shl RoundTrip.shr RoundTrip.sra RoundTrip.rot
    RoundTrip.min RoundTrip.max RoundTrip.sel RoundTrip.cmpeq RoundTrip.cmpne RoundTrip.cmplt RoundTrip.cmple
    RoundTrip.cmpltu RoundTrip.cmpleu RoundTrip.li RoundTrip.mad RoundTrip.pand RoundTrip.por RoundTrip.pxor
    RoundTrip.pnot RoundTrip.popc RoundTrip.clz RoundTrip.ctz RoundTrip.fns RoundTrip.brev RoundTrip.bswap
    RoundTrip.bext RoundTrip.bexts RoundTrip.bins RoundTrip.pdep RoundTrip.pext RoundTrip.fadd RoundTrip.fsub
    RoundTrip.fmul RoundTrip.ffma RoundTrip.fdiv RoundTrip.fsqrt RoundTrip.fmin RoundTrip.fmax RoundTrip.fcmpeq
    RoundTrip.fcmplt RoundTrip.fcmple RoundTrip.fcmpun RoundTrip.fcvt RoundTrip.fclass RoundTrip.ld RoundTrip.st
    RoundTrip.vwset RoundTrip.vwgetMemory RoundTrip.vwgetField RoundTrip.vwsub RoundTrip.vwadv RoundTrip.rbindInstall
    RoundTrip.rbindAttach RoundTrip.rbindRemove RoundTrip.radv RoundTrip.rstatFill RoundTrip.rstatDescriptor
    RoundTrip.cmovMove RoundTrip.cmovPark RoundTrip.cmovUnpark RoundTrip.csplit RoundTrip.cjoin RoundTrip.cnarrow
    RoundTrip.cmerge RoundTrip.crights RoundTrip.cinfo RoundTrip.cdrop RoundTrip.cseal RoundTrip.creclaimRegister
    RoundTrip.creclaimSlot RoundTrip.vadd RoundTrip.vsub RoundTrip.vmul RoundTrip.vfma RoundTrip.vmin RoundTrip.vmax
    RoundTrip.vabs RoundTrip.vneg RoundTrip.vcmul RoundTrip.vbfly RoundTrip.vred RoundTrip.vscan RoundTrip.vcmp
    RoundTrip.vsel RoundTrip.vcopy RoundTrip.vfill RoundTrip.vgather RoundTrip.vscatter RoundTrip.vscale
    RoundTrip.vquant RoundTrip.vand RoundTrip.vor RoundTrip.vxor RoundTrip.vnot RoundTrip.vshl RoundTrip.vshr
    RoundTrip.vsra RoundTrip.vpopc RoundTrip.vclz RoundTrip.vctz RoundTrip.vfns RoundTrip.vbrev RoundTrip.vcvt
    RoundTrip.vrcp RoundTrip.vrsq RoundTrip.vsqrt RoundTrip.vexp2 RoundTrip.vlog2 RoundTrip.vsin RoundTrip.vcos
    RoundTrip.vidx RoundTrip.vtrans RoundTrip.mzero RoundTrip.mma RoundTrip.mmat RoundTrip.mld RoundTrip.mst
    RoundTrip.mscale RoundTrip.mstat RoundTrip.msig RoundTrip.sendq RoundTrip.replyq RoundTrip.sendc RoundTrip.sendr
    RoundTrip.spawn RoundTrip.spawnr RoundTrip.minc RoundTrip.mrdCounter RoundTrip.mrdLanding RoundTrip.mset
    RoundTrip.arm RoundTrip.kick RoundTrip.barinit RoundTrip.barrive RoundTrip.barend RoundTrip.clook RoundTrip.specq
    RoundTrip.aop RoundTrip.aopr RoundTrip.coll RoundTrip.collopen RoundTrip.collclose RoundTrip.mvNext
    RoundTrip.mvTake RoundTrip.mvCopy RoundTrip.mvFill RoundTrip.mvXfer RoundTrip.mvGive RoundTrip.mvMbx
    RoundTrip.mvStat RoundTrip.matrixCommandComplete RoundTrip.remoteAccessAnswer RoundTrip.strikeReport
    RoundTrip.scrubVisit RoundTrip.moduleReset RoundTrip.qnotify RoundTrip.registerWrite RoundTrip.partCreate
    RoundTrip.partPause RoundTrip.partResume RoundTrip.partEvict RoundTrip.partRestore RoundTrip.partDestroy
    RoundTrip.vfAssign RoundTrip.chanAssign RoundTrip.mapS2 RoundTrip.rateSet RoundTrip.report RoundTrip.cert
    RoundTrip.mgmtRead RoundTrip.mgmtWrite RoundTrip.prqRead RoundTrip.emarkWrite RoundTrip.healthWrite
    RoundTrip.functionLevelReset RoundTrip.fabricPacketArrival RoundTrip.fabricAcknowledgement RoundTrip.portDown
    RoundTrip.stewardRv64Instruction RoundTrip.cxlMemRead RoundTrip.cxlMemWrite RoundTrip.keyExchange
    RoundTrip.vendorDefinedRequest RoundTrip.ideKeyProgramming RoundTrip.portUp RoundTrip.linkCrcError
    RoundTrip.powerLoss RoundTrip.stewardWake RoundTrip.stewardFault RoundTrip.moveBurst RoundTrip.engineOpComplete
    RoundTrip.matrixCommandStart RoundTrip.watchdogExpiry RoundTrip.graceExpiry RoundTrip.dispatch RoundTrip.aging
    RoundTrip.heldTask RoundTrip.messageArrival RoundTrip.capabilityArrival RoundTrip.remoteSpawnArrival
    RoundTrip.poolWaitRelease RoundTrip.counterIncrementArrival RoundTrip.landingWriteArrival
    RoundTrip.landingHoldApply RoundTrip.memoryAgentOperation RoundTrip.aoprResultArrival RoundTrip.copySlotRequest
    RoundTrip.copySlotGrant RoundTrip.copyAnnounce RoundTrip.copyDeliveryTimeout RoundTrip.reclaimInvalidation
    RoundTrip.reclaimComplete RoundTrip.tlbInvalidation RoundTrip.tlbiAcknowledged RoundTrip.pageRequestEntry
    RoundTrip.conflictProbe RoundTrip.probeAcknowledged RoundTrip.barrierArrival RoundTrip.barrierParkAcknowledged
    RoundTrip.completionNotice RoundTrip.horizonRelease RoundTrip.healthFlush RoundTrip.queueSlotGrant
    RoundTrip.notifyStarvation RoundTrip.launch RoundTrip.launchChannelsFree RoundTrip.registerImage
    RoundTrip.releaseImage RoundTrip.kernelRetire RoundTrip.completionRecordWrite RoundTrip.partitionHalted
    RoundTrip.bufCreate RoundTrip.bufFree RoundTrip.bufRecover RoundTrip.ctRead RoundTrip.taskList RoundTrip.biasSet
    RoundTrip.precRead RoundTrip.flogSet RoundTrip.flogHead RoundTrip.xlatSet RoundTrip.stwInstall RoundTrip.supvRecv
    RoundTrip.supvEvents RoundTrip.transferTimeout RoundTrip.packetDeparture RoundTrip.tokenRedistribute
    RoundTrip.routingFlip RoundTrip.routingRetire RoundTrip.chipUnsynchronized RoundTrip.chipResynchronized
    RoundTrip.collopenRequest RoundTrip.contributionArrival RoundTrip.collcloseArrival RoundTrip.slotDeadline
    RoundTrip.slotExpire RoundTrip.collectiveRecordArrival RoundTrip.speculationBudgetLow RoundTrip.injectionEntryFree
    RoundTrip.vectorStreamComplete

/-- Settles O2: the round trip of each instruction. -/
theorem encodedWordDecodesBack : Obligations.EncodedWordDecodesBack := by
  unfold Obligations.EncodedWordDecodesBack
  intro i c hw hc
  exact roundTrip i hw c hc

end Sys2Proof.Laws
end

section
/-!
PROOFS. Every bit of a legal Tchina word is accounted for (R131 to R142): each operand form encodes to the field it was read from,
and each entry of the opcode map to the fields it was read from.
-/

namespace Sys2Proof

/-! ## Operand fields (Table 7.2) -/

section
variable {f : Nat}

@[simp] theorem decReg_eq_some {r : Reg} : decReg f = some r ↔ f = encReg r := by
  refine ⟨fun h => ?_, fun h => by rw [h]; simp⟩
  obtain ⟨hf, rfl⟩ : _ ∧ _ := by simpa only [decReg, Option.ite_none_right_eq_some, Option.some.injEq] using h
  simp only [encReg, BitVec.toNat_ofNat]
  omega

@[simp] theorem decImm_eq_some {v : Imm} : decImm f = some v ↔ f = encImm v := by
  refine ⟨fun h => ?_, fun h => by rw [h]; simp⟩
  obtain ⟨hf, rfl⟩ : _ ∧ _ := by simpa only [decImm, Option.ite_none_right_eq_some, Option.some.injEq] using h
  simp only [encImm, BitVec.toNat_ofNat]
  omega

@[simp] theorem decRing_eq_some {r : RingOp} : decRing f = some r ↔ f = encRing r := by
  refine ⟨fun h => ?_, fun h => by rw [h]; simp⟩
  obtain ⟨hf, rfl⟩ : _ ∧ _ := by simpa only [decRing, Option.ite_none_right_eq_some, Option.some.injEq] using h
  simp only [encRing, BitVec.toNat_ofNat]
  omega

@[simp] theorem decView_eq_some {v : Vreg} : decView f = some v ↔ f = encView v := by
  refine ⟨fun h => ?_, fun h => by rw [h]; simp⟩
  obtain ⟨hf, rfl⟩ : _ ∧ _ := by simpa only [decView, Option.ite_none_right_eq_some, Option.some.injEq] using h
  simp only [encView, BitVec.toNat_ofNat]
  omega

@[simp] theorem decCap_eq_some {c : CapOp} : decCap f = some c ↔ f = encCap c := by
  refine ⟨fun h => ?_, fun h => by rw [h]; simp⟩
  obtain ⟨hf, rfl⟩ : _ ∧ _ := by simpa only [decCap, Option.ite_none_right_eq_some, Option.some.injEq] using h
  simp only [encCap, BitVec.toNat_ofNat]
  omega

@[simp] theorem decPred_eq_some {p : Preg} : decPred f = some p ↔ f = encPred p := by
  refine ⟨fun h => ?_, fun h => by rw [h]; simp⟩
  obtain ⟨hf, rfl⟩ : _ ∧ _ := by simpa only [decPred, Option.ite_none_right_eq_some, Option.some.injEq] using h
  simp only [encPred, BitVec.toNat_ofNat]
  omega

@[simp] theorem decLand_eq_some {y : Yreg} : decLand f = some y ↔ f = encLand y := by
  refine ⟨fun h => ?_, fun h => by rw [h]; simp⟩
  obtain ⟨hf, rfl⟩ : _ ∧ _ := by simpa only [decLand, Option.ite_none_right_eq_some, Option.some.injEq] using h
  simp only [encLand, BitVec.toNat_ofNat]
  omega

@[simp] theorem decAcc_eq_some {m : Mreg} : decAcc f = some m ↔ f = encAcc m := by
  refine ⟨fun h => ?_, fun h => by rw [h]; simp⟩
  obtain ⟨hf, rfl⟩ : _ ∧ _ := by simpa only [decAcc, Option.ite_none_right_eq_some, Option.some.injEq] using h
  simp only [encAcc, BitVec.toNat_ofNat]
  omega

@[simp] theorem decRemote_eq_some {p : Reg × Yreg} : decRemote f = some p ↔ f = encRemote p.1 p.2 := by
  refine ⟨fun h => ?_, fun h => by rw [h]; simp⟩
  obtain ⟨hf, rfl⟩ : _ ∧ _ := by simpa only [decRemote, Option.ite_none_right_eq_some, Option.some.injEq] using h
  simp only [encRemote, BitVec.toNat_ofNat]
  omega

theorem SReg.code_of_ofCode {n : Nat} {s : SReg} (h : SReg.ofCode n = some s) : s.code = n := by
  unfold SReg.ofCode at h
  split at h <;> cases h <;> rfl

@[simp] theorem decSReg_eq_some {s : SReg} : decSReg f = some s ↔ f = encSReg s := by
  constructor
  · intro h
    unfold decSReg at h
    split at h
    · have := SReg.code_of_ofCode h
      simp only [encSReg]; omega
    · cases h
  · rintro rfl; simp

/-! ## Fields of several kinds -/

@[simp] theorem decRegImm_eq_some {b : RegImm} : decRegImm f = some b ↔ f = encRegImm b := by
  constructor
  · intro h
    simp only [decRegImm, Option.orElse_eq_orElse, Option.orElse_eq_or, Option.or_eq_some_iff, Option.map_eq_some_iff,
      decReg_eq_some, decImm_eq_some] at h
    rcases h with ⟨r, rfl, rfl⟩ | ⟨-, v, rfl, rfl⟩ <;> rfl
  · rintro rfl; simp

@[simp] theorem decSrc_eq_some {b : Src} : decSrc f = some b ↔ f = encSrc b := by
  constructor
  · intro h
    simp only [decSrc, Option.orElse_eq_orElse, Option.orElse_eq_or, Option.or_eq_some_iff, Option.map_eq_some_iff,
      decReg_eq_some, decImm_eq_some, decView_eq_some] at h
    rcases h with ⟨v, rfl, rfl⟩ | ⟨-, ⟨r, rfl, rfl⟩ | ⟨-, v, rfl, rfl⟩⟩ <;> rfl
  · rintro rfl; simp

@[simp] theorem decViewReg_eq_some {b : ViewReg} : decViewReg f = some b ↔ f = encViewReg b := by
  constructor
  · intro h
    simp only [decViewReg, Option.orElse_eq_orElse, Option.orElse_eq_or, Option.or_eq_some_iff, Option.map_eq_some_iff,
      decReg_eq_some, decView_eq_some] at h
    rcases h with ⟨v, rfl, rfl⟩ | ⟨-, r, rfl, rfl⟩ <;> rfl
  · rintro rfl; simp

@[simp] theorem decCapImm_eq_some {b : CapImm} : decCapImm f = some b ↔ f = encCapImm b := by
  constructor
  · intro h
    simp only [decCapImm, Option.orElse_eq_orElse, Option.orElse_eq_or, Option.or_eq_some_iff, Option.map_eq_some_iff,
      decCap_eq_some, decImm_eq_some] at h
    rcases h with ⟨c, rfl, rfl⟩ | ⟨-, v, rfl, rfl⟩ <;> rfl
  · rintro rfl; simp

@[simp] theorem decLandDest_eq_some {b : LandDest} : decLandDest f = some b ↔ f = encLandDest b := by
  constructor
  · intro h
    simp only [decLandDest, Option.orElse_eq_orElse, Option.orElse_eq_or, Option.or_eq_some_iff, Option.map_eq_some_iff,
      decRemote_eq_some, decLand_eq_some] at h
    rcases h with ⟨p, rfl, rfl⟩ | ⟨-, y, rfl, rfl⟩ <;> rfl
  · rintro rfl; simp

@[simp] theorem decCollDest_eq_some {b : CollDest} : decCollDest f = some b ↔ f = encCollDest b := by
  constructor
  · intro h
    simp only [decCollDest, Option.orElse_eq_orElse, Option.orElse_eq_or, Option.or_eq_some_iff, Option.map_eq_some_iff,
      decRemote_eq_some, decLand_eq_some, decRing_eq_some] at h
    rcases h with ⟨p, rfl, rfl⟩ | ⟨-, ⟨y, rfl, rfl⟩ | ⟨-, r, rfl, rfl⟩⟩ <;> rfl
  · rintro rfl; simp

@[simp] theorem decOptCap_eq_some {b : Option CapOp} : decOptCap f = some b ↔ f = encOptCap b := by
  constructor
  · intro h
    unfold decOptCap at h
    split at h
    · cases h; assumption
    · obtain ⟨c, hc, rfl⟩ := Option.map_eq_some_iff.mp h
      exact decCap_eq_some.mp hc
  · rintro rfl; simp

@[simp] theorem decOptImm_eq_some {b : Option Imm} : decOptImm f = some b ↔ f = encOptImm b := by
  constructor
  · intro h
    unfold decOptImm at h
    split at h
    · cases h; assumption
    · obtain ⟨v, hv, rfl⟩ := Option.map_eq_some_iff.mp h
      exact decImm_eq_some.mp hv
  · rintro rfl; simp

theorem Policy.code_of_decPolicy {c : Nat} {p : Policy} (h : decPolicy c = some p) : p.code * 2 = c := by
  unfold decPolicy at h
  split at h <;> cases h <;> rfl

end

/-! ## Guard, hints and type -/

theorem Raw.bits_hint (r : Raw) (hh : r.h < 64) : r.hint.bits = r.h := by
  have hb (n : Nat) : boolNat (n % 2 == 1) = n % 2 := by
    rcases Nat.mod_two_eq_zero_or_one n with h | h <;> simp [h, boolNat]
  simp only [Raw.hint, Hint.bits, hb, BitVec.toNat_ofNat]
  omega

theorem Raw.bitsWith_hintGuard (r : Raw) : r.hintGuard.bitsWith (r.h / 8) = r.h := by
  have hb (n : Nat) : boolNat (n % 2 == 1) = n % 2 := by
    rcases Nat.mod_two_eq_zero_or_one n with h | h <;> simp [h, boolNat]
  simp only [Raw.hintGuard, Hint.bitsWith, hb, BitVec.toNat_ofNat]
  omega

theorem Raw.bitsWith_of_decPolicy {r : Raw} {p : Policy} (h : decPolicy (r.h / 8) = some p) :
    r.hintGuard.bitsWith (p.code * 2) = r.h := by
  rw [Policy.code_of_decPolicy h, r.bitsWith_hintGuard]

theorem Ty.code_ofCode {n : Nat} (h : n < 16) : (Ty.ofCode n).code = n := by
  interval_cases n <;> rfl

theorem Cond.code_ofCode {n : Nat} (h : n < 8) : (Cond.ofCode n).code = n := by
  interval_cases n <;> rfl

/-! ## The opcode map (Table 7.5) -/

/-- Whatever instruction `o` holds has the fields `q`. -/
def Encodes (q : Raw) (o : Option Instr) : Prop := ∀ i, o = some i → i.raw? = some q

section
variable {q : Raw}

@[simp] theorem encodes_none : Encodes q none := fun _ h => nomatch h

@[simp] theorem encodes_some {i : Instr} : Encodes q (some i) ↔ i.raw? = some q := by simp [Encodes]

@[simp] theorem encodes_ite {c : Prop} [Decidable c] {o p : Option Instr} :
    Encodes q (if c then o else p) ↔ (c → Encodes q o) ∧ (¬ c → Encodes q p) := by
  split <;> simp [*]

@[simp] theorem encodes_bind {α : Type} {o : Option α} {f : α → Option Instr} :
    Encodes q (o.bind f) ↔ ∀ x, o = some x → Encodes q (f x) := by
  cases o <;> simp

@[simp] theorem encodes_or {o p : Option Instr} : Encodes q (o.or p) ↔ Encodes q o ∧ (o = none → Encodes q p) := by
  cases o <;> simp
end

/-- The fields of a word other than OPC lie within their places (Table 7.1). -/
structure Raw.Fits (r : Raw) : Prop where
  t : r.t < 16
  g : r.g < 16
  h : r.h < 64
  d : r.d < 16777216
  a : r.a < 16777216
  b : r.b < 16777216

section
variable {r : Raw} (hf : r.Fits)
include hf

/-- LI's immediate fills fields A and B (R180). -/
theorem Raw.Fits.immediate : (r.a * 16777216 + r.b) % 281474976710656 / 16777216 = r.a := by
  have := hf.a
  have := hf.b
  omega

theorem Raw.Fits.cond_code : (Cond.ofCode (r.h / 8)).code = r.h / 8 :=
  Cond.code_ofCode (Nat.div_lt_of_lt_mul hf.h)

theorem Raw.Fits.function_mod : r.h / 8 % 8 = r.h / 8 := Nat.mod_eq_of_lt (Nat.div_lt_of_lt_mul hf.h)

end

section
variable {r : Raw} (hf : r.Fits) (op : Nat)
include hf

theorem encodes_decodeClass0 : Encodes { r with opc := 64 * 0 + op } (decodeClass0 op r) := by
  unfold decodeClass0
  split <;> simp +contextual [Instr.raw?, hf.g, r.bits_hint hf.h]

theorem encodes_decodeClass1 : Encodes { r with opc := 64 * 1 + op } (decodeClass1 op r) := by
  unfold decodeClass1
  split <;> simp +contextual [Instr.raw?, hf.g, hf.t, Ty.code_ofCode, r.bits_hint hf.h, hf.immediate, hf.b]

theorem encodes_decodeClass2 : Encodes { r with opc := 64 * 2 + op } (decodeClass2 op r) := by
  unfold decodeClass2
  split <;> simp +contextual [Instr.raw?, hf.g, hf.t, Ty.code_ofCode, r.bits_hint hf.h]

theorem encodes_decodeClass3 : Encodes { r with opc := 64 * 3 + op } (decodeClass3 op r) := by
  unfold decodeClass3
  split <;> simp +contextual [Instr.raw?, hf.g, hf.t, Ty.code_ofCode, r.bits_hint hf.h]

theorem encodes_decodeClass4 : Encodes { r with opc := 64 * 4 + op } (decodeClass4 op r) := by
  unfold decodeClass4
  split <;> simp +contextual [Instr.raw?, hf.g, hf.t, Ty.code_ofCode, r.bits_hint hf.h]

theorem encodes_decodeClass5 : Encodes { r with opc := 64 * 5 + op } (decodeClass5 op r) := by
  unfold decodeClass5
  split <;> simp +contextual [Instr.raw?, hf.g, r.bits_hint hf.h]

theorem encodes_decodeClass6 : Encodes { r with opc := 64 * 6 + op } (decodeClass6 op r) := by
  unfold decodeClass6
  split <;> simp +contextual [Instr.raw?, hf.g, hf.t, Ty.code_ofCode, r.bits_hint hf.h, hf.cond_code, r.bitsWith_hintGuard]

theorem encodes_decodeClass7 : Encodes { r with opc := 64 * 7 + op } (decodeClass7 op r) := by
  unfold decodeClass7
  split <;> simp +contextual [Instr.raw?, hf.g, hf.t, Ty.code_ofCode, r.bits_hint hf.h]

theorem encodes_decodeClass8 : Encodes { r with opc := 64 * 8 + op } (decodeClass8 op r) := by
  unfold decodeClass8
  split <;> simp +contextual [Instr.raw?, hf.g, hf.t, Ty.code_ofCode, r.bits_hint hf.h]

theorem encodes_decodeClass9 : Encodes { r with opc := 64 * 9 + op } (decodeClass9 op r) := by
  unfold decodeClass9
  split <;> simp +contextual [Instr.raw?, hf.g, hf.t, r.bits_hint hf.h, Raw.bitsWith_of_decPolicy]

theorem encodes_decodeClassA : Encodes { r with opc := 64 * 10 + op } (decodeClassA op r) := by
  unfold decodeClassA
  split <;> simp +contextual [Instr.raw?, hf.g, hf.t, Ty.code_ofCode, r.bits_hint hf.h, hf.function_mod, r.bitsWith_hintGuard]

end

/-- A class and an operation make up OPC (R140). -/
theorem Encodes.of_class {r : Raw} {o : Option Instr} {c : Nat} (h : Encodes { r with opc := 64 * c + r.opc % 64 } o)
    (hc : r.opc / 64 = c) : Encodes r o := by
  rwa [← hc, Nat.div_add_mod] at h

/-- The fields that the decoder takes apart are the fields of the instruction that it reads. -/
theorem encodes_decodeRaw {r : Raw} (hf : r.Fits) : Encodes r (decodeRaw r) := by
  unfold decodeRaw
  split
  case h_1 hc => exact (encodes_decodeClass0 hf _).of_class hc
  case h_2 hc => exact (encodes_decodeClass1 hf _).of_class hc
  case h_3 hc => exact (encodes_decodeClass2 hf _).of_class hc
  case h_4 hc => exact (encodes_decodeClass3 hf _).of_class hc
  case h_5 hc => exact (encodes_decodeClass4 hf _).of_class hc
  case h_6 hc => exact (encodes_decodeClass5 hf _).of_class hc
  case h_7 hc => exact (encodes_decodeClass6 hf _).of_class hc
  case h_8 hc => exact (encodes_decodeClass7 hf _).of_class hc
  case h_9 hc => exact (encodes_decodeClass8 hf _).of_class hc
  case h_10 hc => exact (encodes_decodeClass9 hf _).of_class hc
  case h_11 hc => exact (encodes_decodeClassA hf _).of_class hc
  case h_12 => exact encodes_none

/-! ## The word -/

theorem Raw.fits_ofWord (w : Nat) : (Raw.ofWord w).Fits :=
  ⟨field_lt _ _ 4, field_lt _ _ 4, field_lt _ _ 6, field_lt _ _ 24, field_lt _ _ 24, field_lt _ _ 24⟩

theorem Raw.word_ofWord {w : Nat} (hw : w < 2 ^ 96) : (Raw.ofWord w).word = w := by
  simp only [Raw.ofWord, Raw.word, field]
  omega

/-- Settles O3: the fields of a legal word are those of the instruction that the decoder reads, and the word is their sum. -/
theorem legalWordEncodesBack : Obligations.LegalWordEncodesBack := by
  unfold Obligations.LegalWordEncodesBack
  intro w i hw hd
  obtain ⟨hr, hi⟩ := decode_eq_ok_iff.mp hd
  have hraw : i.raw? = some (Raw.ofWord w) := encodes_decodeRaw (Raw.fits_ofWord w) i hr
  refine ⟨?_, hi⟩
  rw [encode, hraw]
  simp only [Raw.word_ofWord hw]

end Sys2Proof
end

section
/-!
PROOFS. The register file (R137, R138), the integer, select, compare and predicate instructions (R173, R177 to R181), branches (R192,
R193, R203), special registers (R139, R199, R200).
-/

namespace Sys2Proof.Machine

/-! ## Registers -/

section
variable (r : Regs)

theorem Regs.readP_writeP_self {p : Preg} (hp : p ≠ 0) (b : Bool) : (r.writeP p b).readP p = b := by
  have h8 : p.toNat < 8 := p.isLt
  have h0 : (p == 0) = false := beq_false_of_ne hp
  rw [Regs.readP, Regs.writeP, if_neg hp, h0]
  cases b <;> simp [h8]

theorem Regs.readP_writeP_ne {p q : Preg} (hq : q ≠ p) (b : Bool) : (r.writeP p b).readP q = r.readP q := by
  have hn : p.toNat ≠ q.toNat := fun e => hq (BitVec.eq_of_toNat_eq e.symm)
  have h8 : q.toNat < 8 := q.isLt
  by_cases hp : p = 0
  · rw [hp, Regs.writeP_zero]
  · rw [Regs.readP, Regs.writeP, if_neg hp, Regs.readP]
    cases b <;> simp [hn.symm, h8]

@[simp] theorem Regs.writeP_pc (p : Preg) (b : Bool) : (r.writeP p b).pc = r.pc := by
  unfold Regs.writeP; split <;> rfl

@[simp] theorem Regs.setFlags_pc (f : Flags) : (r.setFlags f).pc = r.pc := rfl

end

/-- Settles O8: each register class by its read-after-write laws. -/
theorem registerFile : Obligations.RegisterFile := by
  unfold Obligations.RegisterFile
  intro r i j v p q b m n c
  exact ⟨rfl, rfl, rfl, rfl, Regs.readX_writeX_self r v, Regs.readX_writeX_ne r v, fun hp => Regs.readP_writeP_self r hp b,
    fun hq => Regs.readP_writeP_ne r hq b, Regs.readC_writeC_some r m c, Regs.readC_writeC_ne r _, Regs.readC_writeC_ne r _⟩

/-- Settles O10: the lists of the reset state are empty. -/
theorem resetState : Obligations.ResetState := by
  unfold Obligations.ResetState
  have hx (i : Reg) : Regs.reset.readX i = 0 := ite_self 0
  exact ⟨reset_mem_wf, rfl, rfl, rfl, rfl, fun _ _ => rfl, fun _ _ i => hx i, rfl⟩

/-! ## The frames of the scalar instructions -/

section
variable {s : State} {h : Hint} {w : Who}

theorem issue_setX (hi : Issues s h w) {body : Who → Eff State} {d : Reg} {v : Word} (hb : body w = .ok (s.setX d v)) :
    issue s h body = .next (s.stepped h fun r => r.writeX d v) :=
  issue_regs hi _ (fun r => Regs.writeX_pc r d v) hb

theorem issue_putPred (hi : Issues s h w) {body : Who → Eff State} {d : Preg} {v : Bool} (hb : body w = .ok (s.putPred d v)) :
    issue s h body = .next (s.stepped h fun r => r.writeP d v) :=
  issue_regs hi _ (fun r => Regs.writeP_pc r d v) hb

theorem intArith_eq (hi : Issues s h w) (t : Ty) (d a : Reg) (b : RegImm) (f : Int → Int → Int → Int) :
    intArith h t d a b f s = .next (s.stepped h fun r => r.writeX d (wordOfInt
      (narrowInt (f (intOf (s.x a) t) (intOf (RegImm.value b s) t) (intOf (s.x d) t)) t h.sat))) :=
  issue_setX hi rfl

theorem intBits_eq (hi : Issues s h w) (t : Ty) (d a : Reg) (b : RegImm) (f : Nat → Nat → Nat) :
    intBits h t d a b f s = .next (s.stepped h fun r => r.writeX d (wordOfInt
      (intIn t (f (pattern (s.x a) t) (pattern (RegImm.value b s) t))))) :=
  issue_setX hi rfl

theorem intCompare_signed (hi : Issues s h w) (t : Ty) (d : Preg) (a : Reg) (b : RegImm) (f : Int → Int → Bool) :
    intCompare h t d a b true f s = .next (s.stepped h fun r => r.writeP d
      (f (signExtend (s.x a).toNat t.width) (signExtend (RegImm.value b s).toNat t.width))) :=
  issue_putPred hi rfl

theorem intCompare_unsigned (hi : Issues s h w) (t : Ty) (d : Preg) (a : Reg) (b : RegImm) (f : Int → Int → Bool) :
    intCompare h t d a b false f s = .next (s.stepped h fun r => r.writeP d
      (f (pattern (s.x a) t) (pattern (RegImm.value b s) t))) :=
  issue_putPred hi rfl

theorem predOp_eq (hi : Issues s h w) (d a b : Preg) (f : Bool → Bool → Bool) :
    predOp h d a b f s = .next (s.stepped h fun r => r.writeP d (f (s.regs.readP a) (s.regs.readP b))) :=
  issue_putPred hi rfl

/-! ## Checks that pass -/

@[simp] theorem ok_bind {α β : Type} (a : α) (f : α → Eff β) : ((.ok a : Eff α) >>= f) = f a := rfl

@[simp] theorem error_bind {α β : Type} (e : State × Stop) (f : α → Eff β) : ((.error e : Eff α) >>= f) = .error e := rfl

theorem need_of {b : Bool} (hb : b = true) : need s b = .ok () := if_pos hb

theorem need_not {b : Bool} (hb : b = false) : need s b = raise s cIllopnd 0 := if_neg (Bool.eq_false_iff.mp hb)

theorem detCheck_of (hd : w.image.det = false) : detCheck s w = .ok () := if_neg (Bool.eq_false_iff.mp hd)

theorem absolute_of_legal {v : Word} (hv : w.image.legal v.toNat = true) : absolute s w v = .ok (v.setWidth 32) := by
  simp [absolute, need_of hv]

end

/-- Settles O11: each instruction is one of the two frames of R173. -/
theorem integerResults : Obligations.IntegerResults := by
  unfold Obligations.IntegerResults
  intro s w h t d a b hi
  exact ⟨intArith_eq hi t d a b fun x y _ => x + y,
    intArith_eq hi t d a b fun x y _ => x - y,
    intArith_eq hi t d a b fun x y _ => x * y,
    intArith_eq hi t d a b fun x y _ => (x * y).fdiv (2 ^ t.width),
    intArith_eq hi t d a b fun x y _ => divInt t x y,
    intArith_eq hi t d a b fun x y _ => remInt x y,
    intBits_eq hi t d a b fun p q => p &&& q,
    intBits_eq hi t d a b fun p q => p ||| q,
    intBits_eq hi t d a b fun p q => p ^^^ q,
    intBits_eq hi t d a b fun p q => p &&& (2 ^ t.width - 1 - q),
    intArith_eq hi t d a b fun x y _ => x * 2 ^ shiftOf t y,
    intBits_eq hi t d a b fun p q => p / 2 ^ (q % t.width),
    intBits_eq hi t d a b fun p q => wrapNat ((signExtend p t.width).fdiv (2 ^ (q % t.width))) t.width,
    intBits_eq hi t d a b fun p q => rotl t.width p q,
    intArith_eq hi t d a b fun x y _ => min x y,
    intArith_eq hi t d a b fun x y _ => max x y,
    intArith_eq hi t d a b fun x y z => z + x * y⟩

/-- Settles O12: SEL and LI write a register, the rest one predicate. -/
theorem selectsAndCompares : Obligations.SelectsAndCompares := by
  unfold Obligations.SelectsAndCompares
  refine ⟨fun s w h t d a b v hi => ⟨exec_sel hi h t d a b, fun hg => issue_setX ⟨hi, hg⟩ rfl⟩, ?_⟩
  intro s w h t d m n a b hi
  have hltu (x y : Nat) : decide ((x : Int) < y) = decide (x < y) := by simp
  have hleu (x y : Nat) : decide ((x : Int) ≤ y) = decide (x ≤ y) := by simp
  have hne (x y : Int) : (x != y) = decide (x ≠ y) := by simp [bne, Bool.beq_eq_decide_eq]
  refine ⟨intCompare_signed hi t d a b fun x y => x == y, ?_, intCompare_signed hi t d a b fun x y => decide (x < y),
    intCompare_signed hi t d a b fun x y => decide (x ≤ y), ?_, ?_, predOp_eq hi d m n (· && ·), predOp_eq hi d m n (· || ·),
    predOp_eq hi d m n (· != ·), predOp_eq hi d m m fun x _ => !x⟩
  · rw [← hne]; exact intCompare_signed hi t d a b fun x y => x != y
  · rw [← hltu]; exact intCompare_unsigned hi t d a b fun x y => decide (x < y)
  · rw [← hleu]; exact intCompare_unsigned hi t d a b fun x y => decide (x ≤ y)

theorem onCtx_congr {s : State} {f g : Context → Context} (hfg : f s.ctx = g s.ctx) : s.onCtx f = s.onCtx g :=
  congrArg (s.setCtxAt s.cur.tile s.cur.ctx) hfg

theorem stepped_eq_jumped (s : State) (h : Hint) (f : Regs → Regs) : s.stepped h f = s.jumped h (s.regs.pc + 12) f :=
  onCtx_congr rfl

/-- LOOP goes on behind itself when the count is used up (R192). -/
theorem loop_eq {s : State} {h : Hint} {w : Who} (hi : Issues s h w) (a : Reg) (k : Imm) :
    exec (.loop h a k) s = .next (s.jumped h (if s.x a - 1 = 0 then s.regs.pc + 12 else s.regs.pc + 12 * k.signExtend 32)
      fun r => r.writeX a (s.x a - 1)) := by
  by_cases hc : s.x a - 1 = 0
  · rw [if_pos hc, ← stepped_eq_jumped, ← stepped_of_onRegs _ fun r => Regs.writeX_pc r a _]
    exact issueJump_ok hi (by dsimp only; rw [if_pos hc]; rfl)
  · rw [if_neg hc]
    exact issueJump_regs hi _ _ (by dsimp only; rw [if_neg hc]; rfl)

/-- Settles O15: a relative target is added, an absolute one must be legal. -/
theorem branchResults : Obligations.BranchResults := by
  unfold Obligations.BranchResults
  intro s w h a k hi
  refine ⟨issue_id hi rfl, issueJump_id hi _ rfl, issueJump_regs hi _ _ rfl, ?_, fun ha => ⟨?_, ?_⟩, fun ha => ?_⟩
  · exact loop_eq hi a k
  · exact issueJump_id hi _ (by rw [absolute_of_legal ha]; rfl)
  · exact issueJump_regs hi _ _ (by dsimp only; rw [absolute_of_legal ha]; rfl)
  · exact issueJump_id hi _ (by rw [absolute_of_legal ha]; rfl)

/-- Settles O16: GETS of an unguarded register, of a guarded one outside a DET kernel, SETS and WDOG. -/
theorem specialRegisters : Obligations.SpecialRegisters := by
  unfold Obligations.SpecialRegisters
  intro s w h d a b hi
  have hu (ha : ¬ (a = .cycle ∨ a = .window)) := exec_gets_of_unguarded hi d ha
  have hdet (hd : w.image.det = false) : exec (.gets h d a) s = .next (s.stepped h fun r => r.writeX d (specialValue s w a)) :=
    issue_setX hi (by simp [detCheck_of hd])
  refine ⟨?_, ?_, ?_, ?_, ?_, ?_, ?_, ?_, ?_, ?_, fun hd => ⟨?_, ?_⟩, fun hb => ?_, fun hn hl => ?_⟩
  case refine_11 => rintro rfl; exact hdet hd
  case refine_12 => rintro rfl; exact hdet hd
  case refine_13 =>
    exact issue_regs hi _ (fun _ => rfl) (by
      have hm : (SReg.fpstat == .fpstat && RegImm.value b s &&& ~~~fpstatMask == 0) = true := beq_iff_eq.mpr hb
      rw [need_of hm, ok_bind])
  case refine_14 =>
    exact issue_id hi (by
      have hb : (decide (RegImm.nat b s ≤ 1080)) = true := decide_eq_true hn
      simp only [need_of hb, ok_bind, if_neg hl])
  all_goals rintro rfl; exact hu (by decide)

end Sys2Proof.Machine
end

section
/-!
PROOFS. Bit instructions (R182 to R185) and scalar floating point (R187 to R191).
-/

namespace Sys2Proof.Machine

/-! ## An instruction that traps -/

section
variable {s : State} {h : Hint} {w : Who}

theorem issue_raises (hi : Issues s h w) (hd : Delivers s w) {body : Who → Eff State} {code sub : Nat}
    (hb : body w = raise s code sub) (hw : (code == cWdog) = false) (hc : code < 256) (hs : sub < 256) :
    ∃ u, issue s h body = .next u ∧ Trapped s u w code sub := by
  rw [issue_error hi hb]
  exact settle_delivers hd.2.2 hd hw hc hs

theorem issue_illopnd (hi : Issues s h w) (hd : Delivers s w) {body : Who → Eff State} (hb : body w = raise s cIllopnd 0) :
    ∃ u, issue s h body = .next u ∧ Trapped s u w cIllopnd 0 :=
  issue_raises hi hd hb (by decide) (by decide) (by decide)

end

/-! ## Bits -/

theorem bit_eq_testBit (v i : Nat) : bit v i = v.testBit i := by
  rw [Nat.testBit_eq_decide_div_mod_eq]; rfl

/-- A sum of powers that fall from 2^(w-1) on is a number whose bits stand in reverse order. -/
theorem foldl_falling_powers (f : Nat → Bool) {w n : Nat} (hn : n ≤ w) :
    ∃ k, (upto n).foldl (fun r i => r + if f i then 2 ^ (w - 1 - i) else 0) 0 = 2 ^ (w - n) * k
      ∧ k < 2 ^ n ∧ ∀ j < n, k.testBit j = f (n - 1 - j) := by
  induction n with
  | zero => exact ⟨0, by simp [upto], by simp, by simp⟩
  | succ n ih =>
    obtain ⟨k, hk, hlt, hbits⟩ := ih (by omega)
    refine ⟨2 * k + (f n).toNat, ?_, ?_, ?_⟩
    · have hp : 2 ^ (w - n) = 2 * 2 ^ (w - (n + 1)) := by rw [← Nat.pow_succ']; congr 1; omega
      have he : w - 1 - n = w - (n + 1) := by omega
      rw [upto_succ, List.foldl_append, hk, List.foldl_cons, List.foldl_nil, hp, he]
      cases f n <;> simp <;> ring
    · have := (f n).toNat_lt
      rw [Nat.pow_succ]; omega
    · intro j hj
      cases j with
      | zero => cases hf : f n <;> simp [hf, Nat.testBit_zero]
      | succ j =>
        rw [show n + 1 - 1 - (j + 1) = n - 1 - j by omega, ← hbits j (by omega), Nat.testBit_succ]
        congr 1
        have := (f n).toNat_lt
        omega

theorem brevBits_lt (w a : Nat) : brevBits w a < 2 ^ w := by
  obtain ⟨k, hk, hlt, -⟩ := foldl_falling_powers (bit a) (Nat.le_refl w)
  rw [brevBits, hk, Nat.sub_self, Nat.pow_zero, Nat.one_mul]
  exact hlt

theorem bit_brevBits (a : Nat) {w i : Nat} (hi : i < w) : bit (brevBits w a) i = bit a (w - 1 - i) := by
  obtain ⟨k, hk, -, hbits⟩ := foldl_falling_powers (bit a) (Nat.le_refl w)
  rw [brevBits, hk, Nat.sub_self, Nat.pow_zero, Nat.one_mul, bit_eq_testBit, hbits i hi]

/-! ## The descriptor of a bit field (R184) -/

/-- The descriptor's number: the low 13 bits of a register, or the whole immediate. -/
def descNat (c : RegImm) (s : State) : Nat :=
  match c with
  | .reg r => (s.x r).toNat % 2 ^ 13
  | .imm v => (immWord v).toNat

section
variable {s : State} {c : RegImm}

theorem fieldDesc_eq : fieldDesc c s = (do
    need s (descNat c s < 2 ^ 13)
    need s (field (descNat c s) 6 7 ≤ 64)
    .ok (field (descNat c s) 0 6, field (descNat c s) 6 7)) := by
  cases c <;> rfl

theorem fieldDesc_ok (hd : descNat c s < 2 ^ 13) (hf : field (descNat c s) 6 7 ≤ 64) :
    fieldDesc c s = .ok (field (descNat c s) 0 6, field (descNat c s) 6 7) := by
  rw [fieldDesc_eq, need_of (decide_eq_true hd), need_of (decide_eq_true hf)]
  rfl

theorem fieldDesc_error (hb : 2 ^ 13 ≤ descNat c s ∨ 64 < field (descNat c s) 6 7) : fieldDesc c s = raise s cIllopnd 0 := by
  rw [fieldDesc_eq]
  by_cases hd : descNat c s < 2 ^ 13
  · rw [need_of (decide_eq_true hd), need_not (decide_eq_false (by omega))]; rfl
  · rw [need_not (decide_eq_false hd)]; rfl

end

section
variable {s : State} {h : Hint} {w : Who}

theorem unaryBits_eq (hi : Issues s h w) (t : Ty) (d a : Reg) (f : Nat → Nat → Nat) :
    unaryBits h t d a f s = .next (s.stepped h fun r => r.writeX d (wordOfInt (intIn t (f t.width (pattern (s.x a) t))))) :=
  issue_setX hi rfl

section
variable (hi : Issues s h w) (t : Ty) (d a : Reg) {c : RegImm} {o f : Nat} (hc : fieldDesc c s = .ok (o, f))
include hi hc

theorem exec_bext : exec (.bext h t d a c) s
    = .next (s.stepped h fun r => r.writeX d (word (pattern (s.x a) t / 2 ^ o % 2 ^ f))) :=
  issue_setX hi (by rw [hc]; rfl)

theorem exec_bexts : exec (.bexts h t d a c) s = .next (s.stepped h fun r => r.writeX d
    (wordOfInt (intIn t (wrapNat (signExtend (pattern (s.x a) t / 2 ^ o % 2 ^ f) f) t.width)))) :=
  issue_setX hi (by rw [hc]; rfl)

theorem exec_bins_nothing (hn : f = 0 ∨ t.width ≤ o) : exec (.bins h t d a c) s = .next (s.stepped h id) :=
  issue_id hi (by rw [hc, ok_bind]; exact congrArg _ (if_pos hn))

theorem exec_bins (hn : ¬(f = 0 ∨ t.width ≤ o)) : exec (.bins h t d a c) s = .next (s.stepped h fun r => r.writeX d
    (wordOfInt (intIn t (insertBits t.width (pattern (s.x d) t) (pattern (s.x a) t) o f)))) :=
  issue_setX hi (by rw [hc, ok_bind]; exact congrArg _ (if_neg hn))

end
end

/-- Settles O13: the functions on bits are the model's own; BREV by its bits; the field instructions by their descriptor. -/
theorem bitResults : Obligations.BitResults := by
  unfold Obligations.BitResults
  intro s w h t d a b c hi
  refine ⟨?_, unaryBits_eq hi t d a clzBits, unaryBits_eq hi t d a ctzBits, issue_setX hi rfl,
    ⟨_, unaryBits_eq hi t d a brevBits, brevBits_lt _ _, fun i => bit_brevBits _⟩, unaryBits_eq hi t d a bswapBits,
    issue_setX hi rfl, issue_setX hi rfl, fun hd hf => ?_, fun hbad hdel => ?_⟩
  · rw [List.countP_eq_length_filter]
    exact unaryBits_eq hi t d a popcount
  · have hc := fieldDesc_ok hd hf
    exact ⟨exec_bext hi t d a hc, exec_bexts hi t d a hc, exec_bins_nothing hi t d a hc,
      fun h0 ho => exec_bins hi t d a hc fun hn => hn.elim h0 ho.not_ge⟩
  · have hc := fieldDesc_error hbad
    exact ⟨issue_illopnd hi hdel (by rw [hc]; rfl), issue_illopnd hi hdel (by rw [hc]; rfl),
      issue_illopnd hi hdel (by rw [hc]; rfl)⟩

/-! ## Floating point -/

section
variable {s : State} {h : Hint} {w : Who}

theorem State.setX_setFlags (d : Reg) (v : Word) (f : Flags) :
    (s.setX d v).setFlags f = s.onRegs fun r => (r.writeX d v).setFlags f := by
  simp only [State.setX_eq, State.setFlags_eq, State.onRegs_eq, State.onCtx_onCtx]

theorem State.putPred_setFlags (d : Preg) (v : Bool) (f : Flags) :
    (s.putPred d v).setFlags f = s.onRegs fun r => (r.writeP d v).setFlags f := by
  simp only [State.putPred, State.setFlags_eq, State.onRegs_eq, State.onCtx_onCtx]

theorem issue_setX_setFlags (hi : Issues s h w) {body : Who → Eff State} {d : Reg} {v : Word} {f : Flags}
    (hb : body w = .ok ((s.setX d v).setFlags f)) :
    issue s h body = .next (s.stepped h fun r => (r.writeX d v).setFlags f) :=
  issue_regs hi _ (fun r => Regs.writeX_pc r d v) (hb.trans (congrArg _ (State.setX_setFlags d v f)))

theorem issue_putPred_setFlags (hi : Issues s h w) {body : Who → Eff State} {d : Preg} {v : Bool} {f : Flags}
    (hb : body w = .ok ((s.putPred d v).setFlags f)) :
    issue s h body = .next (s.stepped h fun r => (r.writeP d v).setFlags f) :=
  issue_regs hi _ (fun r => Regs.writeP_pc r d v) (hb.trans (congrArg _ (State.putPred_setFlags d v f)))

theorem floatArith_eq (hi : Issues s h w) (t : Ty) (d a b : Reg) (f : Mode → Num → Num → Num → Num × Flags) :
    let v := f (s.mode h) (decodeNum t (pattern (s.x a) t)) (decodeNum t (pattern (s.x b) t)) (decodeNum t (pattern (s.x d) t))
    let r' := round v.1 t (s.mode h) h.sat
    floatArith h t d a b f s = .next (s.stepped h fun r => (r.writeX d (word r'.bits)).setFlags (r'.fl ||| v.2)) :=
  issue_setX_setFlags hi rfl

theorem floatCompare_eq (hi : Issues s h w) (t : Ty) (d : Preg) (a b : Reg) (c : Cond) :
    let x := decodeNum t (pattern (s.x a) t)
    let y := decodeNum t (pattern (s.x b) t)
    floatCompare h t d a b c s = .next (s.stepped h fun r => (r.writeP d (condHolds c x y)).setFlags (condFlags c x y)) :=
  issue_putPred_setFlags hi rfl

theorem exec_fcvt (hi : Issues s h w) (t : Ty) (d a : Reg) {i : Imm} {u : Ty} (hu : cvtSource i = some u)
    (hs : (h.sat && u.isFloat && t.isInt) = false) :
    let r' := convert u t (pattern (s.x a) u) (s.mode h) h.sat
    exec (.fcvt h t d a i) s = .next (s.stepped h fun r =>
      (r.writeX d (if t.isInt then wordOfInt (intIn t r'.bits) else word r'.bits)).setFlags r'.fl) :=
  issue_setX_setFlags hi (by simp only [hu, need_of (congrArg (! ·) hs), ok_bind])

theorem exec_fcvt_illopnd (hi : Issues s h w) (hd : Delivers s w) (t : Ty) (d a : Reg) {i : Imm}
    (hu : cvtSource i = none ∨ ∃ u, cvtSource i = some u ∧ (h.sat && u.isFloat && t.isInt) = true) :
    ∃ v, exec (.fcvt h t d a i) s = .next v ∧ Trapped s v w cIllopnd 0 := by
  rcases hu with hu | ⟨u, hu, hs⟩
  · exact issue_illopnd hi hd (by simp only [hu])
  · exact issue_illopnd hi hd (by simp only [hu, need_not (congrArg (! ·) hs)]; rfl)

end

/-- Settles O14: the frames of R187 and R189, FCVT by its source code. -/
theorem floatResults : Obligations.FloatResults := by
  unfold Obligations.FloatResults
  intro s w h t d a b p i hi
  exact ⟨floatArith_eq hi t d a b fun m x y _ => ((addNum m x y).1, (addNum m x y).2 ||| sigFlag [x, y]),
    floatArith_eq hi t d a b fun m x y _ => ((subNum m x y).1, (subNum m x y).2 ||| sigFlag [x, y]),
    floatArith_eq hi t d a b fun _ x y _ => ((mulNum x y).1, (mulNum x y).2 ||| sigFlag [x, y]),
    floatArith_eq hi t d a b fun m x y z => ((fmaNum m x y z).1, (fmaNum m x y z).2 ||| sigFlag [x, y, z]),
    floatArith_eq hi t d a b fun _ x y _ => ((divNum x y).1, (divNum x y).2 ||| sigFlag [x, y]),
    floatArith_eq hi t d a a fun _ x _ _ => ((sqrtNum x).1, (sqrtNum x).2 ||| sigFlag [x]),
    issue_setX_setFlags hi rfl, issue_setX_setFlags hi rfl,
    floatCompare_eq hi t p a b .eq, floatCompare_eq hi t p a b .lt, floatCompare_eq hi t p a b .le, floatCompare_eq hi t p a b .un,
    fun u hu hs => exec_fcvt hi t d a hu hs, fun hu hd => exec_fcvt_illopnd hi hd t d a hu, issue_setX hi rfl⟩

end Sys2Proof.Machine
end

section
/-!
PROOFS. What the scalar instructions leave unchanged (R138, R161).
-/

namespace Sys2Proof.Machine

/-- What every scalar instruction leaves alone: all but the x registers, predicates, %fpstat, PC and the issue of the context whose
turn it is. -/
def ScalarSame (s u : State) : Prop :=
  OnlyContext s u ∧ SameMemory s u ∧ u.regs.c = s.regs.c ∧ u.regs.v = s.regs.v ∧ u.regs.h = s.regs.h
  ∧ u.ctx.spec = s.ctx.spec ∧ u.ctx.mx = s.ctx.mx
  ∧ u.ctx.run = { s.ctx.run with rejected := u.ctx.run.rejected, issueAt := u.ctx.run.issueAt }

/-- Only the x register `d` may differ among x registers and predicates. -/
def OnlyX (d : Reg) (s u : State) : Prop := (∀ r, r ≠ d → u.x r = s.x r) ∧ u.regs.p = s.regs.p

/-- Only the predicate `p` may differ among x registers and predicates. -/
def OnlyP (p : Preg) (s u : State) : Prop := u.regs.x = s.regs.x ∧ ∀ q, q ≠ p → u.regs.readP q = s.regs.readP q

/-- %fpstat stands. -/
def SameFpstat (s u : State) : Prop := u.regs.fpstat = s.regs.fpstat

/-- Sticky flags may have been set in %fpstat. -/
def OnlyFlags (s u : State) : Prop :=
  s.regs.fpstat &&& u.regs.fpstat = s.regs.fpstat ∧ u.regs.fpstat >>> 6 = s.regs.fpstat >>> 6

/-! ## Registers -/

section
variable (r : Regs) (p : Preg) (b : Bool) (d : Reg) (v : Word) (f : Flags)

@[simp] theorem Regs.writeP_x : (r.writeP p b).x = r.x := by unfold Regs.writeP; split <;> rfl
@[simp] theorem Regs.writeP_c : (r.writeP p b).c = r.c := by unfold Regs.writeP; split <;> rfl
@[simp] theorem Regs.writeP_v : (r.writeP p b).v = r.v := by unfold Regs.writeP; split <;> rfl
@[simp] theorem Regs.writeP_h : (r.writeP p b).h = r.h := by unfold Regs.writeP; split <;> rfl
@[simp] theorem Regs.writeP_fpstat : (r.writeP p b).fpstat = r.fpstat := by unfold Regs.writeP; split <;> rfl
@[simp] theorem Regs.setFlags_c : (r.setFlags f).c = r.c := rfl
@[simp] theorem Regs.setFlags_v : (r.setFlags f).v = r.v := rfl
@[simp] theorem Regs.setFlags_h : (r.setFlags f).h = r.h := rfl

theorem Regs.fpstat_and_setFlags : r.fpstat &&& (r.setFlags f).fpstat = r.fpstat := by
  simp only [Regs.setFlags]
  ext i
  simp
  tauto

theorem Regs.setFlags_fpstat_high : (r.setFlags f).fpstat >>> 6 = r.fpstat >>> 6 := by
  simp only [Regs.setFlags]
  ext i
  simp

end

/-! ## The frames -/

section
variable {s u : State} {h : Hint}

theorem stepped_regs (f : Regs → Regs) : (s.stepped h f).regs = { f s.regs with pc := s.regs.pc + 12, resume := .none } := by
  rw [State.regs, stepped_ctx]; rfl

/-- A change of registers that leaves capability, view and ring registers alone. -/
structure ScalarRegs (f : Regs → Regs) : Prop where
  c (r : Regs) : (f r).c = r.c
  v (r : Regs) : (f r).v = r.v
  h (r : Regs) : (f r).h = r.h

theorem scalarRegs_id : ScalarRegs id := ⟨fun _ => rfl, fun _ => rfl, fun _ => rfl⟩

theorem scalarSame_stepped {f : Regs → Regs} (hf : ScalarRegs f) : ScalarSame s (s.stepped h f) :=
  ⟨stepped_onlyContext f, stepped_byte f, by rw [stepped_regs]; exact hf.c _, by rw [stepped_regs]; exact hf.v _,
    by rw [stepped_regs]; exact hf.h _, by rw [stepped_ctx], by rw [stepped_ctx], by rw [stepped_ctx]⟩

/-- What the frame of R149 answers when the effect is on registers alone: the context does not issue, or its guard is false, or it is
true. -/
theorem issue_regs_cases {body : Who → Eff State} {f : Regs → Regs}
    (hb : ∀ w, Issues s h w → issue s h body = .next (s.stepped h f)) (hx : issue s h body = .next u) :
    u = s ∨ ∃ k, u = s.stepped k id ∨ u = s.stepped k f := by
  cases hi : s.issuer with
  | none => exact .inl (Host.Outcome.next.inj (hx.symm.trans (issue_none hi body)))
  | some w =>
    cases hg : guardTrue s.regs h.g with
    | false =>
      have hu := Host.Outcome.next.inj (hx.symm.trans (issue_false hi hg body))
      exact .inr ⟨{ h with stag := 0 }, .inl (hu.trans (stepped_of_id (h := { h with stag := 0 })))⟩
    | true => exact .inr ⟨h, .inr (Host.Outcome.next.inj (hx.symm.trans (hb w ⟨hi, hg⟩)))⟩

/-- The frame of an effect on registers alone, from what its change leaves alone. -/
theorem issue_regs_frame {body : Who → Eff State} {f : Regs → Regs} {P Q : State → Prop} (hf : ScalarRegs f)
    (hP : ∀ k, P (s.stepped k id) ∧ P (s.stepped k f)) (hQ : ∀ k, Q (s.stepped k id) ∧ Q (s.stepped k f))
    (hb : ∀ w, Issues s h w → issue s h body = .next (s.stepped h f)) (hx : issue s h body = .next u) :
    u = s ∨ (ScalarSame s u ∧ P u ∧ Q u) := by
  obtain rfl | ⟨k, rfl | rfl⟩ := issue_regs_cases hb hx
  · exact .inl rfl
  · exact .inr ⟨scalarSame_stepped scalarRegs_id, (hP k).1, (hQ k).1⟩
  · exact .inr ⟨scalarSame_stepped hf, (hP k).2, (hQ k).2⟩

theorem scalarRegs_writeX (d : Reg) (v : Word) : ScalarRegs fun r => r.writeX d v := ⟨by simp, by simp, by simp⟩
theorem scalarRegs_writeP (p : Preg) (v : Bool) : ScalarRegs fun r => r.writeP p v := ⟨by simp, by simp, by simp⟩
theorem scalarRegs_writeX_setFlags (d : Reg) (v : Word) (f : Flags) : ScalarRegs fun r => (r.writeX d v).setFlags f :=
  ⟨by simp, by simp, by simp⟩
theorem scalarRegs_writeP_setFlags (p : Preg) (v : Bool) (f : Flags) : ScalarRegs fun r => (r.writeP p v).setFlags f :=
  ⟨by simp, by simp, by simp⟩

theorem onlyX_id (d : Reg) (k : Hint) : OnlyX d s (s.stepped k id) := by
  simp only [OnlyX, State.x, stepped_regs]; exact ⟨fun _ _ => rfl, rfl⟩

theorem onlyX_writeX (d : Reg) (v : Word) (k : Hint) : OnlyX d s (s.stepped k fun r => r.writeX d v) := by
  simp only [OnlyX, State.x, stepped_regs]
  exact ⟨fun r hr => Regs.readX_writeX_ne s.regs v hr, by simp⟩

theorem onlyX_writeX_setFlags (d : Reg) (v : Word) (f : Flags) (k : Hint) :
    OnlyX d s (s.stepped k fun r => (r.writeX d v).setFlags f) := by
  simp only [OnlyX, State.x, stepped_regs]
  exact ⟨fun r hr => Regs.readX_writeX_ne s.regs v hr, Regs.writeX_p s.regs d v⟩

theorem onlyP_id (p : Preg) (k : Hint) : OnlyP p s (s.stepped k id) := by
  simp only [OnlyP, stepped_regs]; exact ⟨rfl, fun _ _ => rfl⟩

theorem onlyP_writeP (p : Preg) (v : Bool) (k : Hint) : OnlyP p s (s.stepped k fun r => r.writeP p v) := by
  simp only [OnlyP, stepped_regs]
  exact ⟨Regs.writeP_x s.regs p v, fun q hq => Regs.readP_writeP_ne s.regs hq v⟩

theorem onlyP_writeP_setFlags (p : Preg) (v : Bool) (f : Flags) (k : Hint) :
    OnlyP p s (s.stepped k fun r => (r.writeP p v).setFlags f) := by
  simp only [OnlyP, stepped_regs]
  exact ⟨Regs.writeP_x s.regs p v, fun q hq => Regs.readP_writeP_ne s.regs hq v⟩

theorem onlyFlags_id (k : Hint) : OnlyFlags s (s.stepped k id) := by
  simp only [OnlyFlags, stepped_regs]; exact ⟨BitVec.and_self, rfl⟩

theorem onlyFlags_setFlags {g : Regs → Regs} (hg : ∀ r, (g r).fpstat = r.fpstat) (f : Flags) (k : Hint) :
    OnlyFlags s (s.stepped k fun r => (g r).setFlags f) := by
  simp only [OnlyFlags, stepped_regs]
  rw [← hg s.regs]
  exact ⟨Regs.fpstat_and_setFlags _ _, Regs.setFlags_fpstat_high _ _⟩

theorem sameFpstat_stepped {f : Regs → Regs} (hf : ∀ r, (f r).fpstat = r.fpstat) (k : Hint) :
    SameFpstat s (s.stepped k f) := by
  rw [SameFpstat, stepped_regs]; exact hf _

theorem sameFpstat_id (k : Hint) : SameFpstat s (s.stepped k id) := sameFpstat_stepped (fun _ => rfl) k

variable {body : Who → Eff State}

/-- An instruction whose effect is on x[d]. -/
theorem frame_setX {d : Reg} {v : Word} (hb : ∀ w, body w = .ok (s.setX d v)) (hx : issue s h body = .next u) :
    u = s ∨ (ScalarSame s u ∧ OnlyX d s u ∧ SameFpstat s u) :=
  issue_regs_frame (scalarRegs_writeX d v) (fun k => ⟨onlyX_id d k, onlyX_writeX d v k⟩)
    (fun k => ⟨sameFpstat_id k, sameFpstat_stepped (fun r => Regs.writeX_fpstat r d v) k⟩)
    (fun w hi => issue_setX hi (hb w)) hx

/-- One whose effect is on x[d] and the sticky flags. -/
theorem frame_putFloat {d : Reg} {v : Word} {f : Flags} (hb : ∀ w, body w = .ok ((s.setX d v).setFlags f))
    (hx : issue s h body = .next u) : u = s ∨ (ScalarSame s u ∧ OnlyX d s u ∧ OnlyFlags s u) :=
  issue_regs_frame (scalarRegs_writeX_setFlags d v f) (fun k => ⟨onlyX_id d k, onlyX_writeX_setFlags d v f k⟩)
    (fun k => ⟨onlyFlags_id k, onlyFlags_setFlags (fun r => Regs.writeX_fpstat r d v) f k⟩)
    (fun w hi => issue_setX_setFlags hi (hb w)) hx

/-- One whose effect is on p<d>. -/
theorem frame_putPred {p : Preg} {v : Bool} (hb : ∀ w, body w = .ok (s.putPred p v)) (hx : issue s h body = .next u) :
    u = s ∨ (ScalarSame s u ∧ OnlyP p s u ∧ SameFpstat s u) :=
  issue_regs_frame (scalarRegs_writeP p v) (fun k => ⟨onlyP_id p k, onlyP_writeP p v k⟩)
    (fun k => ⟨sameFpstat_id k, sameFpstat_stepped (fun r => Regs.writeP_fpstat r p v) k⟩)
    (fun w hi => issue_putPred hi (hb w)) hx

/-- One whose effect is on p<d> and the sticky flags. -/
theorem frame_putPred_setFlags {p : Preg} {v : Bool} {f : Flags} (hb : ∀ w, body w = .ok ((s.putPred p v).setFlags f))
    (hx : issue s h body = .next u) : u = s ∨ (ScalarSame s u ∧ OnlyP p s u ∧ OnlyFlags s u) :=
  issue_regs_frame (scalarRegs_writeP_setFlags p v f) (fun k => ⟨onlyP_id p k, onlyP_writeP_setFlags p v f k⟩)
    (fun k => ⟨onlyFlags_id k, onlyFlags_setFlags (fun r => Regs.writeP_fpstat r p v) f k⟩)
    (fun w hi => issue_putPred_setFlags hi (hb w)) hx

/-- SEL, which executes under either guard. -/
theorem frame_sel {t : Ty} {d a : Reg} {c : RegImm} (hx : exec (.sel h t d a c) s = .next u) :
    u = s ∨ (ScalarSame s u ∧ OnlyX d s u ∧ SameFpstat s u) := by
  cases hi : s.issuer with
  | none =>
    have hn : exec (.sel h t d a c) s = .next s := by change execSel h t d a c s = _; simp [execSel, issueAlways, hi]
    exact .inl (Host.Outcome.next.inj (hx.symm.trans hn))
  | some w =>
    obtain rfl := Host.Outcome.next.inj (hx.symm.trans (exec_sel hi h t d a c))
    exact .inr ⟨scalarSame_stepped (scalarRegs_writeX d _), onlyX_writeX d _ h, sameFpstat_stepped (fun r => Regs.writeX_fpstat r d _) h⟩

/-- BINS, whose field may be empty. -/
theorem frame_bins {t : Ty} {d a : Reg} {c : RegImm} {o f : Nat} (hc : fieldDesc c s = .ok (o, f))
    (hx : exec (.bins h t d a c) s = .next u) :
    u = s ∨ (ScalarSame s u ∧ OnlyX d s u ∧ SameFpstat s u) := by
  by_cases hn : f = 0 ∨ t.width ≤ o
  · exact issue_regs_frame scalarRegs_id (fun k => ⟨onlyX_id d k, onlyX_id d k⟩)
      (fun k => ⟨sameFpstat_id k, sameFpstat_id k⟩)
      (fun w hi => exec_bins_nothing hi t d a hc hn) hx
  · exact frame_setX (fun w => by rw [hc, ok_bind]; exact congrArg _ (if_neg hn)) hx

end

/-- Settles O17: every scalar instruction is of one of the frames above. -/
theorem scalarFrame : Obligations.ScalarFrame := by
  unfold Obligations.ScalarFrame
  intro s u h t y d a b p m n c i v
  refine ⟨frame_setX fun _ => rfl, frame_setX fun _ => rfl, frame_setX fun _ => rfl, frame_setX fun _ => rfl,
    frame_setX fun _ => rfl, frame_setX fun _ => rfl, frame_setX fun _ => rfl, frame_setX fun _ => rfl,
    frame_setX fun _ => rfl, frame_setX fun _ => rfl, frame_setX fun _ => rfl, frame_setX fun _ => rfl,
    frame_setX fun _ => rfl, frame_setX fun _ => rfl, frame_setX fun _ => rfl, frame_setX fun _ => rfl,
    frame_setX fun _ => rfl, frame_sel, frame_setX fun _ => rfl, frame_setX fun _ => rfl, frame_setX fun _ => rfl,
    frame_setX fun _ => rfl, frame_setX fun _ => rfl, frame_setX fun _ => rfl, frame_setX fun _ => rfl,
    frame_setX fun _ => rfl, frame_setX fun _ => rfl, frame_setX fun _ => rfl, frame_putFloat fun _ => rfl,
    frame_putFloat fun _ => rfl, frame_putFloat fun _ => rfl, frame_putFloat fun _ => rfl,
    frame_putFloat fun _ => rfl, frame_putFloat fun _ => rfl, frame_putFloat fun _ => rfl,
    frame_putFloat fun _ => rfl, frame_putPred fun _ => rfl, frame_putPred fun _ => rfl, frame_putPred fun _ => rfl,
    frame_putPred fun _ => rfl, frame_putPred fun _ => rfl, frame_putPred fun _ => rfl, frame_putPred fun _ => rfl,
    frame_putPred fun _ => rfl, frame_putPred fun _ => rfl, frame_putPred fun _ => rfl,
    frame_putPred_setFlags fun _ => rfl, frame_putPred_setFlags fun _ => rfl, frame_putPred_setFlags fun _ => rfl,
    frame_putPred_setFlags fun _ => rfl,
    fun hd hf => ?_, fun hy hs => ?_⟩
  · have hc := fieldDesc_ok hd hf
    exact ⟨frame_setX fun _ => by rw [hc]; rfl, frame_setX fun _ => by rw [hc]; rfl, frame_bins hc⟩
  · exact frame_putFloat fun _ => by simp only [hy, need_of (congrArg (! ·) hs), ok_bind]; rfl

end Sys2Proof.Machine
end

section
/-!
PROOFS. The step of a turn: fetch, decode and execution (R126, R132, R141, R142, R302, R303, log 1).
-/

namespace Sys2Proof.Machine

/-! ## What the issue of a context leaves alone -/

/-- Issuing and fetching may change counts, latent errors, the note of the issue and the horizon's history. -/
structure FetchOnly (s t : State) : Prop where
  ctx : t.ctx = s.ctx
  cur : t.cur = s.cur
  mem : t.mem = s.mem
  parts : t.parts = s.parts

namespace FetchOnly

theorem refl (s : State) : FetchOnly s s := ⟨rfl, rfl, rfl, rfl⟩

theorem trans {s t u : State} (a : FetchOnly s t) (b : FetchOnly t u) : FetchOnly s u :=
  ⟨b.ctx.trans a.ctx, b.cur.trans a.cur, b.mem.trans a.mem, b.parts.trans a.parts⟩

theorem onCore (s : State) (t : Nat) {f : CoreSt → CoreSt} (hf : ∀ k, (f k).ctxs = k.ctxs) : FetchOnly s (s.onCore t f) :=
  ⟨ctxAt_onCore s t f hf _ _, rfl, rfl, rfl⟩

theorem issues (s : State) : FetchOnly s s.issues := onCore s _ fun _ => rfl

theorem ctxRemember (s : State) : FetchOnly s s.ctxRemember := by
  unfold State.ctxRemember
  split
  · exact onCore s _ fun _ => rfl
  · exact refl s

theorem vfAdd (s : State) (v i n : Nat) : FetchOnly s (s.vfAdd v i n) := ⟨rfl, rfl, rfl, rfl⟩

theorem onCounts (s : State) (t : Nat) (f : Counts → Counts) : FetchOnly s (s.onTile t fun v => { v with counts := f v.counts }) := by
  refine ⟨?_, rfl, rfl, rfl⟩
  simp only [State.ctx, State.ctxAt, State.onTile_cur]
  by_cases h : s.cur.tile = t
  · rw [h, State.tile_onTile_self]
  · rw [State.tile_onTile_ne s _ h]

theorem countMemory (s : State) (a : Accessor) (n m : Nat) : FetchOnly s (s.countMemory a n m) := by
  have two (u : State) (v : Nat) : FetchOnly u ((u.vfAdd v 0 n).vfAdd v 1 m) := (vfAdd u v 0 n).trans (vfAdd _ v 1 m)
  obtain ⟨_ | t, _ | v⟩ := a
  · exact refl s
  · exact two s v
  · exact onCounts s t fun c => c.memory n m
  · exact (onCounts s t fun c => c.memory n m).trans (two _ v)

theorem eccCorrect (s : State) (a : Accessor) (p n : Nat) : FetchOnly s (s.eccCorrect a p n) := by
  unfold State.eccCorrect
  split
  · exact refl s
  · have hf : FetchOnly s (s.eccFixed p n) := ⟨rfl, rfl, rfl, rfl⟩
    exact hf.trans (countMemory _ _ _ _)

theorem eccCheck {s t : State} {w : Who} {a n va creg : Nat} {cap : Option Cap} {ord : Nat}
    (h : s.eccCheck w a n va creg cap ord = .ok t) : FetchOnly s t := by
  unfold State.eccCheck at h
  split at h
  · cases h
  · cases h; exact eccCorrect _ _ _ _

theorem foldlM {α : Type} {f : State → α → Eff State} (hf : ∀ u a v, f u a = .ok v → FetchOnly u v) (l : List α)
    {s t : State} (h : l.foldlM f s = .ok t) : FetchOnly s t := by
  induction l generalizing s with
  | nil => exact Except.ok.inj h ▸ refl _
  | cons a l ih =>
    rw [List.foldlM_cons] at h
    cases hs : f s a with
    | error e => rw [hs] at h; cases h
    | ok u => rw [hs] at h; exact (hf s a u hs).trans (ih h)

/-- The reading of an image's bytes. -/
theorem imageCheck {s t : State} {w : Who} {off n : Nat} (h : s.imageCheck w off n = .ok t) : FetchOnly s t := by
  unfold State.imageCheck at h
  split at h
  · cases h; exact refl s
  · exact foldlM (fun _ _ _ => eccCheck) _ h

theorem delivers {s t : State} (h : FetchOnly s t) {w : Who} (hd : Delivers s w) : Delivers t w :=
  ⟨hd.1, by rw [h.ctx]; exact hd.2.1, by rw [h.ctx]; exact hd.2.2⟩

/-- What a delivered trap gives the trap entry depends on the context and on the place of the turn alone. -/
theorem trapped {s t u : State} (h : FetchOnly s t) {w : Who} {code sub : Nat} (ht : Trapped t u w code sub) :
    Trapped s u w code sub := by
  have hr : t.regs = s.regs := congrArg Context.regs h.ctx
  unfold Trapped at *
  rwa [hr, h.cur] at ht

theorem iword {s t : State} (h : FetchOnly s t) (p : Part) (im : Image) (pc : Nat) : t.iword p im pc = s.iword p im pc := by
  simp only [State.iword, State.imageNat, State.poffNat, State.poffBytes, State.poffByte, State.byte, State.genOf, h.mem, h.parts]

end FetchOnly

theorem imageCheck_clean {s : State} (hc : Clean s) (w : Who) (off n : Nat) : s.imageCheck w off n = .ok s := by
  unfold State.imageCheck
  rw [hc.1, hc.2]
  rfl

/-! ## A turn of a context -/

section
variable {s v : State} {w : Who}

theorem coreReady_of_issuer (hi : s.issuer = some w) (hm : s.mayIssue = true) : s.coreReady = s.issues.fetch w := by
  have hh : s.ctx.hold = .none := by
    unfold State.issuer at hi
    split at hi
    · split at hi
      case isTrue h => exact h.1
      case isFalse => cases hi
    · cases hi
  unfold State.coreReady
  rw [hh]
  simp [hm, hi]

theorem fetch_run {i : Instr} (hl : w.image.legal s.ctxRemember.regs.pc.toNat = true)
    (hv : s.ctxRemember.imageCheck w (w.image.codeOff + s.ctxRemember.regs.pc.toNat) 12 = .ok v)
    (hd : decode (s.ctxRemember.iword w.part w.image s.ctxRemember.regs.pc.toNat) = .ok i) : s.fetch w = .run i v := by
  simp only [State.fetch, hl, if_true, hv, hd]

theorem fetch_illegal_pc (hl : w.image.legal s.ctxRemember.regs.pc.toNat = false) :
    s.fetch w = .done (settle s.ctxRemember w (raise s.ctxRemember cIllegal 0)) := by
  simp [State.fetch, hl]

theorem fetch_illegal_word {e : Illegal} (hl : w.image.legal s.ctxRemember.regs.pc.toNat = true)
    (hv : s.ctxRemember.imageCheck w (w.image.codeOff + s.ctxRemember.regs.pc.toNat) 12 = .ok v)
    (hd : decode (s.ctxRemember.iword w.part w.image s.ctxRemember.regs.pc.toNat) = .error e) :
    s.fetch w = .done (settle v w (raise v cIllegal 0)) := by
  simp only [State.fetch, hl, if_true, hv, hd]

end

/-- Settles O5: the fetch raises ILLEGAL in a state that has the context and the place of the turn, and the trap is delivered. -/
theorem illegalWordTraps : Obligations.IllegalWordTraps := by
  unfold Obligations.IllegalWordTraps
  intro s t rest w ha hact s' pc hi hm hd hbad
  have hu : FetchOnly s' s'.issues.ctxRemember := (FetchOnly.issues s').trans (FetchOnly.ctxRemember _)
  have hr : s'.issues.ctxRemember.regs.pc.toNat = pc := congrArg (fun c : Context => c.regs.pc.toNat) hu.ctx
  have hstep : step s = (s'.issues.fetch w).go := by
    simp only [step, ha, hact]
    rw [coreReady_of_issuer hi hm]
  have raised {v : State} (hv : FetchOnly s' v) :
      ∃ u, settle v w (raise v cIllegal 0) = .next u ∧ Trapped s' u w cIllegal 0 := by
    have hdv := hv.delivers hd
    obtain ⟨u, hset, ht⟩ := settle_delivers (t := .of cIllegal 0) hdv.2.2 hdv (by decide) (by decide) (by decide)
    exact ⟨u, hset, hv.trapped ht⟩
  rw [hstep]
  cases hl : w.image.legal pc with
  | false =>
    rw [fetch_illegal_pc (by rw [hr]; exact hl)]
    exact raised hu
  | true =>
    obtain ⟨⟨v, hv⟩, e, he⟩ := hbad.resolve_left (by simp [hl])
    rw [fetch_illegal_word (v := v) (e := e) (by rw [hr]; exact hl) (by rw [hr]; exact hv)
      (by rw [hr, (FetchOnly.ctxRemember _).iword]; exact he)]
    exact raised (hu.trans (FetchOnly.imageCheck hv))

/-! ## A cycle in which nothing is due -/

theorem foldl_eq_self {α : Type} {f : State → α → State} {l : List α} {s : State} (hf : ∀ a ∈ l, f s a = s) : l.foldl f s = s := by
  induction l with
  | nil => rfl
  | cons a l ih =>
    rw [List.foldl_cons, hf a (List.mem_cons_self ..)]
    exact ih fun b hb => hf b (List.mem_cons_of_mem _ hb)

theorem tile_cases (s : State) (t : Nat) : s.tile t = .reset ∨ (t, s.tile t) ∈ s.tiles := by
  unfold State.tile aget
  cases h : aget? s.tiles t with
  | none => exact .inl rfl
  | some v => exact .inr (aget?_mem h)

theorem catchUp_of_quiescent {s : State} (hq : Quiescent s) : s.catchUp = s := by
  have hpump : s.pumpAll = s := foldl_eq_self fun x hx => foldl_eq_self fun c hc => if_neg (by rw [(hq.1 x hx).2 c hc]; decide)
  have hgo : s.letAllGo = s := foldl_eq_self fun x _ => by
    have hg : (s.tile x.1).core.giving = [] := by
      rcases tile_cases s x.1 with h | h
      · rw [h]; rfl
      · exact (hq.1 _ h).1
    simp [State.letGo, hg]
  have hserve : s.serveWaiting = s := if_neg (by
    rw [List.any_eq_true]
    rintro ⟨p, hp, hw⟩
    exact absurd hw (by rw [hq.2 p hp]; decide))
  rw [State.catchUp, hpump, hgo, hserve]

theorem pass_of_no_hold {s : State} (hl : ∀ x ∈ s.tiles, x.2.loc.landHold = []) (n : Nat) :
    s.pass n = { s with cycle := s.cycle + n } := by
  have happly : State.applyAllHeld { s with cycle := s.cycle + 1 } = { s with cycle := s.cycle + 1 } :=
    foldl_eq_self fun x hx => by rw [hl x hx]; rfl
  unfold State.pass
  split
  · subst n; rfl
  · rw [happly]

/-- Settles O4: a turn of a context through fetch and decode, the turns of steward and event by the definition of a step. -/
theorem stepRunsTheDecodedInstruction : Obligations.StepRunsTheDecodedInstruction := by
  unfold Obligations.StepRunsTheDecodedInstruction
  constructor
  · intro s v t rest w i ha hact s' u pc hi hm hl hv hd
    have hu : FetchOnly s' u := (FetchOnly.issues s').trans (FetchOnly.ctxRemember _)
    have hr : u.regs.pc.toNat = pc := congrArg (fun c : Context => c.regs.pc.toNat) hu.ctx
    refine ⟨?_, fun hc => ?_, fun hz => ?_, hu.ctx, hu.mem, rfl, rfl, rfl⟩
    · have hrun : s'.issues.fetch w = .run i v :=
        fetch_run (by change w.image.legal u.regs.pc.toNat = true; rw [hr]; exact hl)
          (by change u.imageCheck w (w.image.codeOff + u.regs.pc.toNat) 12 = .ok v; rw [hr]; exact hv)
          (by change decode (u.iword w.part w.image u.regs.pc.toNat) = .ok i; rw [hr]; exact hd)
      simp only [step, ha, hact]
      rw [coreReady_of_issuer hi hm, hrun]
      rfl
    · have hclean : Clean u := by
        have : u.ecc = s'.ecc ∧ u.poison = s'.poison := by
          change (State.ctxRemember s'.issues).ecc = s'.ecc ∧ (State.ctxRemember s'.issues).poison = s'.poison
          unfold State.ctxRemember
          split <;> exact ⟨rfl, rfl⟩
        exact ⟨this.1.trans hc.1, this.2.trans hc.2⟩
      rw [imageCheck_clean hclean] at hv
      exact (Except.ok.inj hv).symm
    · exact if_neg (Bool.eq_false_iff.mp hz)
  · intro s t rest
    refine ⟨fun ha => by simp only [step, ha], catchUp_of_quiescent, fun n hl => pass_of_no_hold hl n, fun ha => ⟨?_, ?_⟩⟩
    · intro i hact
      simp only [step, ha, hact]
    · intro hact hp hs hr hsc
      simp only [step, ha, hact, State.stewardReady, if_neg hp, hs, hr, Bool.not_true, Bool.or_self, hsc]
      rfl

end Sys2Proof.Machine
end


section
/-!
PROOFS. No instruction and no event is refused: the frames answer what an effect comes to, and events answer next states (log 63).
-/

namespace Sys2Proof.Machine

/-- A next state, or the stop at a physical address that does not exist. -/
def Answers (o : Host.Outcome State Fault Refusal) : Prop := (∃ t, o = .next t) ∨ o = .fault .absentAddress

theorem answers_next (t : State) : Answers (.next t) := .inl ⟨t, rfl⟩
theorem answers_absent : Answers (.fault .absentAddress) := .inr rfl

section
variable {s : State} {h : Hint}

theorem answers_ite {c : Prop} [Decidable c] {o p : Host.Outcome State Fault Refusal} (ho : Answers o) (hp : Answers p) :
    Answers (if c then o else p) := by split <;> assumption

theorem issueJump_answers (body : Who → Eff State) : Answers (issueJump s h body) := by
  unfold issueJump
  split
  · exact answers_next s
  · exact answers_ite (settle_answers _) (answers_next _)

theorem issue_answers (body : Who → Eff State) : Answers (issue s h body) := issueJump_answers _

theorem issueEnd_answers (body : Who → Eff State) : Answers (issueEnd s h body) := by
  unfold issueEnd
  split
  · exact answers_next s
  · exact answers_ite (settle_answers _) (answers_next _)

theorem issueAlways_answers (body : Who → Eff State) : Answers (issueAlways s h body) := by
  unfold issueAlways
  split
  · exact answers_next s
  · exact settle_answers _

theorem issueMatrix_answers (body : Who → Eff State) : Answers (issueMatrix s h body) := by
  unfold issueMatrix
  split
  · exact answers_next s
  · exact answers_ite (settle_answers _) (issue_answers _)

end

section
variable {s : State}

theorem stewardJump_answers (len : Nat) (regs : List Reg) (body : State → StwEff) :
    Answers (stewardJump s len regs body) := by
  unfold stewardJump
  refine answers_ite (answers_next _) ?_
  extract_lets
  split <;> exact answers_next _

theorem stewardIssue_answers (len : Nat) (regs : List Reg) (body : State → StwEff) :
    Answers (stewardIssue s len regs body) := stewardJump_answers _ _ _

theorem mailbox_answers (op : Nat) (buf : Mbox) (which : Cmd → Bool) (f : State → Cmd → Check Done) :
    Answers (mailbox op buf s which f) := by
  refine answers_ite (answers_next _) (answers_ite (answers_next _) (answers_ite (answers_next _) ?_))
  split <;> exact answers_next _

theorem serveMay_answers (op : Nat) (f : State → Request → State × Option Reply) : Answers (serveMay op s f) := by
  unfold serveMay
  split
  · exact answers_next _
  · split
    · refine answers_ite (answers_next _) (answers_ite (answers_next _) ?_)
      extract_lets
      split <;> exact answers_next _
    · exact answers_next _

theorem serve_answers (op : Nat) (f : State → Request → State × Reply) : Answers (serve op s f) := serveMay_answers _ _

theorem arrival_answers (f : State → Packet → Option (Option State)) : Answers (arrival s f) := by
  unfold arrival
  split
  · exact answers_next _
  · split <;> exact answers_next _

end

section
variable {s : State}

theorem execStewardFault_answers : Answers (execStewardFault s) := by
  unfold execStewardFault
  dsimp only
  repeat' split
  all_goals exact answers_next _

theorem execMoveBurst_answers : Answers (execMoveBurst s) := by
  unfold execMoveBurst
  repeat' split
  all_goals first | exact answers_next _ | exact answers_absent

theorem execDispatch_answers : Answers (execDispatch s) := by
  unfold execDispatch
  dsimp only
  repeat' split
  all_goals exact answers_next _

theorem execNotifyStarvation_answers : Answers (execNotifyStarvation s) := by
  unfold execNotifyStarvation
  dsimp only
  repeat' split
  all_goals exact answers_next _

theorem execKernelRetire_answers : Answers (execKernelRetire s) := by
  unfold execKernelRetire
  extract_lets
  split
  · exact answers_next _
  · rename_i kern _
    obtain ⟨⟩ | _ | _ := kern.retire
    · exact answers_ite (answers_next _) (answers_next _)
    · exact answers_ite (answers_next _) (answers_next _)
    · exact answers_ite (answers_next _) (answers_next _)
theorem execVcvt_answers {h : Hint} {t : Ty} {d a : Vreg} {b : Imm} : Answers (execVcvt h t d a b s) := by
  unfold execVcvt
  split
  · exact issue_answers _
  · exact answers_ite (issue_answers _) (issue_answers _)

end

/-- Every arm of `exec` is a frame or an event all of whose branches end in a next state or at an absent address. -/
theorem exec_answers (i : Instr) (s : State) : Answers (exec i s) := by
  cases i with
  | nop | gets | sets | tlbi | wdog | add | sub | mul | mulh | div | rem | and | or | xor | andn | shl | shr | sra |
  rot | min | max | cmpeq | cmpne | cmplt | cmple | cmpltu | cmpleu | li | mad | pand | por | pxor | pnot | popc | clz
  | ctz | fns | brev | bswap | bext | bexts | bins | pdep | pext | fadd | fsub | fmul | ffma | fdiv | fsqrt | fmin |
  fmax | fcmpeq | fcmplt | fcmple | fcmpun | fcvt | fclass | ld | st | vwset | vwgetMemory | vwgetField | vwsub |
  vwadv | rbindInstall | rbindAttach | rbindRemove | radv | rstatFill | rstatDescriptor | cmovMove | cmovPark |
  cmovUnpark | csplit | cjoin | cnarrow | cmerge | crights | cinfo | cdrop | cseal | creclaimRegister | creclaimSlot |
  vadd | vsub | vmul | vfma | vmin | vmax | vabs | vneg | vcmul | vbfly | vred | vscan | vcmp | vsel | vcopy | vfill |
  vgather | vscatter | vscale | vquant | vand | vor | vxor | vnot | vshl | vshr | vsra | vpopc | vclz | vctz | vfns |
  vbrev | vrcp | vrsq | vsqrt | vexp2 | vlog2 | vsin | vcos | vidx | vtrans | sendq | replyq | sendc | sendr | spawn |
  spawnr | minc | mrdCounter | mrdLanding | mset | arm | kick | barinit | barrive | barend | clook | specq | aop |
  aopr | coll | collopen | collclose =>
    exact issue_answers _
  | br | bri | call | ret | loop | trap | brk | eret =>
    exact issueJump_answers _
  | endTask | endc | halt =>
    exact issueEnd_answers _
  | sel =>
    exact issueAlways_answers _
  | mzero | mma | mmat | mld | mst | mscale | mstat | msig =>
    exact issueMatrix_answers _
  | mvNext | mvTake | mvCopy | mvFill | mvXfer | mvGive | mvMbx | mvStat | stewardRv64Instruction =>
    simp -zeta only [exec, stewardIssue, execMvNext, execMvTake, execMvCopy, execMvFill, execMvXfer, execMvGive,
      execMvMbx, execMvStat, execStewardRv64Instruction]
    exact stewardJump_answers _ _ _
  | partCreate | partPause | partResume | partEvict | partRestore | partDestroy | vfAssign | chanAssign | mapS2 |
  rateSet | report | cert | mgmtRead | mgmtWrite | prqRead | emarkWrite | healthWrite =>
    simp -zeta only [exec, execPartCreate, execPartPause, execPartResume, execPartEvict, execPartRestore,
      execPartDestroy, execVfAssign, execChanAssign, execMapS2, execRateSet, execReport, execCert, execMgmtRead,
      execMgmtWrite, execPrqRead, execEmarkWrite, execHealthWrite]
    exact mailbox_answers _ _ _ _
  | bufCreate | bufFree | ctRead | taskList | biasSet | precRead | flogSet | flogHead | xlatSet | stwInstall |
  supvRecv | supvEvents =>
    simp -zeta only [exec, execBufCreate, execBufFree, execCtRead, execTaskList, execBiasSet, execPrecRead,
      execFlogSet, execFlogHead, execXlatSet, execStwInstall, execSupvRecv, execSupvEvents]
    exact serve_answers _ _
  | bufRecover =>
    simp -zeta only [exec, execBufRecover]
    exact serveMay_answers _ _
  | messageArrival | capabilityArrival | remoteSpawnArrival | poolWaitRelease | counterIncrementArrival |
  landingWriteArrival | memoryAgentOperation | aoprResultArrival | copySlotRequest | conflictProbe | probeAcknowledged
  | barrierArrival | completionNotice | collopenRequest | contributionArrival | collcloseArrival |
  collectiveRecordArrival =>
    simp -zeta only [exec, execMessageArrival, execCapabilityArrival, execRemoteSpawnArrival, execPoolWaitRelease,
      execCounterIncrementArrival, execLandingWriteArrival, execMemoryAgentOperation, execAoprResultArrival,
      execCopySlotRequest, execConflictProbe, execProbeAcknowledged, execBarrierArrival, execCompletionNotice,
      execCollopenRequest, execContributionArrival, execCollcloseArrival, execCollectiveRecordArrival]
    exact arrival_answers _
  | scrubVisit | moduleReset | qnotify | registerWrite | functionLevelReset | keyExchange | powerLoss | aging |
  heldTask | landingHoldApply | copySlotGrant | copyAnnounce | copyDeliveryTimeout | horizonRelease | healthFlush |
  queueSlotGrant | chipUnsynchronized | slotDeadline | slotExpire | vectorStreamComplete =>
    exact answers_next _
  | vcvt => exact execVcvt_answers
  | stewardFault => exact execStewardFault_answers
  | moveBurst => exact execMoveBurst_answers
  | dispatch => exact execDispatch_answers
  | notifyStarvation => exact execNotifyStarvation_answers
  | kernelRetire => exact execKernelRetire_answers
  | matrixCommandComplete | remoteAccessAnswer | strikeReport | fabricPacketArrival | fabricAcknowledgement | portDown
  | cxlMemRead | cxlMemWrite | vendorDefinedRequest | ideKeyProgramming | portUp | linkCrcError | stewardWake |
  engineOpComplete | matrixCommandStart | watchdogExpiry | graceExpiry | reclaimInvalidation | reclaimComplete |
  tlbInvalidation | tlbiAcknowledged | pageRequestEntry | barrierParkAcknowledged | launch | launchChannelsFree |
  registerImage | releaseImage | completionRecordWrite | partitionHalted | transferTimeout | packetDeparture |
  tokenRedistribute | routingFlip | routingRetire | chipResynchronized | speculationBudgetLow | injectionEntryFree =>
    simp -zeta only [exec, execMatrixCommandComplete, execRemoteAccessAnswer, execStrikeReport,
      execFabricPacketArrival, execFabricAcknowledgement, execPortDown, execCxlMemRead, execCxlMemWrite,
      execVendorDefinedRequest, execIdeKeyProgramming, execPortUp, execLinkCrcError, execStewardWake,
      execEngineOpComplete, execMatrixCommandStart, execWatchdogExpiry, execGraceExpiry, execReclaimInvalidation,
      execReclaimComplete, execTlbInvalidation, execTlbiAcknowledged, execPageRequestEntry,
      execBarrierParkAcknowledged, execLaunch, execLaunchChannelsFree, execRegisterImage, execReleaseImage,
      execCompletionRecordWrite, execPartitionHalted, execTransferTimeout, execPacketDeparture, execTokenRedistribute,
      execRoutingFlip, execRoutingRetire, execChipResynchronized, execSpeculationBudgetLow, execInjectionEntryFree]
    repeat' first | split | extract_lets
    all_goals exact answers_next _

/-- Settles O6: every arm of `exec` answers. -/
theorem everyInstructionAnswers : Obligations.EveryInstructionAnswers := exec_answers

end Sys2Proof.Machine
end

section
/-!
PROOFS. The worked words, evaluated.
-/

namespace Sys2Proof.Machine

/-- Settles O1: the decoder evaluates on each of the words. -/
theorem workedWordsDecode : Obligations.WorkedWordsDecode :=
  ⟨rfl, rfl, rfl, rfl, rfl, rfl, rfl, rfl, rfl, rfl, rfl, rfl, rfl, rfl, rfl, rfl, rfl, rfl, rfl, rfl, rfl⟩

end Sys2Proof.Machine
end

section
/-!
PROOFS. Traps and return, TLBI (R196 to R201), the ends of a task (R194, R195, R202).
-/

namespace Sys2Proof.Machine

variable {s : State} {h : Hint} {w : Who}

/-! ## Traps -/

theorem issueJump_raises (hi : Issues s h w) (hd : Delivers s w) {body : Who → Eff State} {code sub : Nat}
    (hb : body w = raise s code sub) (hw : (code == cWdog) = false) (hc : code < 256) (hs : sub < 256) :
    ∃ u, issueJump s h body = .next u ∧ Trapped s u w code sub := by
  rw [issueJump_error hi hb]
  exact settle_delivers hd.2.2 hd hw hc hs

theorem issueEnd_error (hi : Issues s h w) {body : Who → Eff State} {e : State × Stop} (hb : body w = .error e) :
    issueEnd s h body = settle s w (.error e) := by
  simp [issueEnd, hi.1, hi.2, hb]

theorem issueEnd_raises (hi : Issues s h w) (hd : Delivers s w) {body : Who → Eff State} {code sub : Nat}
    (hb : body w = raise s code sub) (hw : (code == cWdog) = false) (hc : code < 256) (hs : sub < 256) :
    ∃ u, issueEnd s h body = .next u ∧ Trapped s u w code sub := by
  rw [issueEnd_error hi hb]
  exact settle_delivers hd.2.2 hd hw hc hs

theorem privCheck_user (hk : w.kernel.supv = false) : privCheck s w = raise s cPriv 0 := if_neg (by simp [hk])
theorem privCheck_supervisor (hk : w.kernel.supv = true) : privCheck s w = .ok () := if_pos hk
theorem noSpec_of (hs : s.ctx.spec.on = false) : noSpec s = .ok () := if_neg (by simp [hs])
theorem raise_bind {α β : Type} (code sub : Nat) (f : α → Eff β) : raise s code sub >>= f = raise s code sub := rfl

/-- TRAP and BRK of an operand below 256. -/
theorem softTrap_traps (hi : Issues s h w) (hd : Delivers s w) {b : Imm} (hb : (immWord b).toNat < 256) {code : Nat}
    (hw : (code == cWdog) = false) (hc : code < 256) :
    ∃ u, softTrap h b code s = .next u ∧ Trapped s u w code (immWord b).toNat :=
  issueJump_raises hi hd (by simp [need_of (decide_eq_true hb)]) hw hc hb

/-- TRAP and BRK of an operand that is no subcode. -/
theorem softTrap_illopnd (hi : Issues s h w) (hd : Delivers s w) {b : Imm} (hb : 256 ≤ (immWord b).toNat) (code : Nat) :
    ∃ u, softTrap h b code s = .next u ∧ Trapped s u w cIllopnd 0 :=
  issueJump_raises hi hd (by simp [need_not (decide_eq_false (Nat.not_lt.mpr hb)), raise_bind])
    (by decide) (by decide) (by decide)

/-- CINFO of a hallmark or a CT index outside a supervisor kernel. -/
theorem cinfo_priv (hi : Issues s h w) (hd : Delivers s w) (hk : w.kernel.supv = false) {d : Reg} {c : CapOp} {i : Imm}
    (hf : (immWord i).toNat = 10 ∨ (immWord i).toNat = 11) :
    ∃ u, exec (.cinfo h d c i) s = .next u ∧ Trapped s u w cPriv 0 :=
  issue_raises hi hd (by simp only [if_pos hf, privCheck_user hk, raise_bind]) (by decide) (by decide) (by decide)

/-- Settles O18: each instruction raises its cause, which its frame delivers. -/
theorem trapsTaken : Obligations.TrapsTaken := by
  constructor
  · intro s w h b hi hd n traps
    refine ⟨fun hn => ⟨?_, ?_⟩, fun hn => ⟨?_, ?_⟩⟩
    · exact softTrap_traps hi hd hn (by decide) (by decide)
    · exact softTrap_traps hi hd hn (by decide) (by decide)
    · exact softTrap_illopnd hi hd hn _
    · exact softTrap_illopnd hi hd hn _
  · intro s w h d a b c i hi hd hk traps
    refine ⟨?_, ?_, cinfo_priv hi hd hk⟩
    · exact issue_raises hi hd (by simp only [privCheck_user hk, raise_bind]) (by decide) (by decide) (by decide)
    · exact issueEnd_raises hi hd (by simp only [privCheck_user hk, raise_bind]) (by decide) (by decide) (by decide)

/-! ## ERET and TLBI -/

theorem dropC15_givenUp (s : State) (w : Who) : GivenUp s (s.dropC15 w) := by
  unfold State.dropC15
  split
  · exact GivenUp.giveUp _ _ _
  · exact GivenUp.of (Elsewhere.refl s)

/-- ERET in a trap entry. -/
theorem eret_returns (hi : Issues s h w) {b : Imm} (ht : s.ctx.run.trapEntry = true) (hk : (immWord b).toNat ≤ 1) :
    exec (.eret h b) s = .next ((s.returnFromTrap w (immWord b).toNat).issueHold h.stag.toNat) :=
  issueJump_ok hi (if_pos ⟨hk, ht⟩)

/-- ERET outside a trap entry, or with another k. -/
theorem eret_contained (hi : Issues s h w) {b : Imm} (hb : s.ctx.run.trapEntry = false ∨ 1 < (immWord b).toNat)
    (hs : s.ctx.spec.on = false) : exec (.eret h b) s = .next (s.passFault w (.of cIllopnd 0)) := by
  have hb' : ¬((immWord b).toNat ≤ 1 ∧ s.ctx.run.trapEntry = true) := fun ⟨h1, h2⟩ => hb.elim (by simp [h2]) (by omega)
  exact (issueJump_error hi (if_neg hb')).trans (by simp [settle, hs])

/-- What ERET leaves in the context. -/
theorem returnFromTrap_ctx (s : State) (w : Who) (k n : Nat) :
    ((s.returnFromTrap w k).issueHold n).ctx = { s.ctx with
      regs := { s.ctx.regs.writeC 15 none with
        pc := s.ctx.run.faultPc + BitVec.ofNat 32 (12 * k), resume := if k = 0 then s.ctx.run.kept else .none }
      run := { s.ctx.run with trapEntry := false, kept := .none, issueAt := s.cycle + 1 + n } } := by
  have hg := dropC15_givenUp s w
  rw [State.returnFromTrap, State.issueHold_eq, State.onCtx_onCtx, State.ctx_onCtx, hg.ctx]
  simp only [cycle_onCtx, hg.cycle]

/-! ## What `onward` leaves -/

theorem onward_eq_stepped (u : State) (h : Hint) : u.onward h = u.stepped h id := stepped_of_id

theorem onward_regs (u : State) (h : Hint) : (u.onward h).regs = { u.regs with pc := u.regs.pc + 12, resume := .none } := by
  rw [onward_eq_stepped, State.regs, stepped_ctx]; rfl

@[simp] theorem onward_mem (u : State) : (u.onward h).mem = u.mem := rfl
@[simp] theorem onward_cur (u : State) : (u.onward h).cur = u.cur := rfl
@[simp] theorem onward_cts (u : State) : (u.onward h).cts = u.cts := rfl
@[simp] theorem onward_parts (u : State) : (u.onward h).parts = u.parts := rfl
@[simp] theorem onward_byte (u : State) (a : Nat) : (u.onward h).byte a = u.byte a := rfl

theorem advanced_onward {u : State} (hc : u.cur = s.cur) (hy : u.cycle = s.cycle) (hp : u.regs.pc = s.regs.pc) :
    Advanced s (u.onward h) h := by
  refine ⟨?_, ?_, ?_, hc⟩
  · rw [onward_regs, hp]
  · rw [onward_regs]
  · rw [onward_eq_stepped, stepped_ctx, hy]

/-- An update of what lies outside the contexts. -/
theorem Elsewhere.advanced {u : State} (he : Elsewhere s u) (h : Hint) : Advanced s (u.onward h) h :=
  advanced_onward he.cur he.cycle (congrArg (·.regs.pc) he.ctx)

theorem Elsewhere.onward_regs {u : State} (he : Elsewhere s u) (h : Hint) :
    (u.onward h).regs = { s.regs with pc := s.regs.pc + 12, resume := .none } := by
  rw [Machine.onward_regs, State.regs, he.ctx]; rfl

theorem State.onPart_cts (p : Nat) (f : Part → Part) : (s.onPart p f).cts = s.cts := by
  unfold State.onPart
  split <;> rfl

theorem State.onPart_parts {p : Nat} {v : Part} (hp : aget? s.parts p = some v) (f : Part → Part) :
    aget? (s.onPart p f).parts p = some (f v) := by
  simp [State.onPart, hp]

/-- TLBI of a supervisor kernel with operands that are right. -/
theorem tlbi_queues (hi : Issues s h w) (hk : w.kernel.supv = true) (hs : s.ctx.spec.on = false) {d a b : Reg}
    (hn : (field (s.x b).toNat 33 31 == 0 && (bit (s.x b).toNat 24 || bit w.part.prec.vfmask (field (s.x b).toNat 17 7))
      && (s.x d).toNat < 2 ^ 53 && (s.x d).toNat + (s.x a).toNat ≤ 2 ^ 56) = true) :
    exec (.tlbi h d a b) s = .next ((s.onPart w.pnum fun p => { p with invq := p.invq ++
      [{ s2 := false, vf := if bit (s.x b).toNat 24 then none else some (field (s.x b).toNat 17 7),
         asid := if bit (s.x b).toNat 16 then none else some (field (s.x b).toNat 0 16), base := (s.x d).toNat,
         len := (s.x a).toNat, waiting := w.part.tiles, notify := some (s.cur.tile, field (s.x b).toNat 25 8) }] }).onward h) :=
  issue_ok hi (by simp only [privCheck_supervisor hk, noSpec_of hs, need_of hn, ok_bind])

/-- Settles O19: ERET by what it leaves in the context or its containment, TLBI by the queue of its partition. -/
theorem systemInstructions : Obligations.SystemInstructions := by
  constructor
  · intro s w h b hi k
    refine ⟨fun ht hk => ⟨_, eret_returns hi ht hk, (dropC15_givenUp s w).mem, (dropC15_givenUp s w).cur, ?_, ?_⟩,
      eret_contained hi⟩
    · exact congrArg Context.regs (returnFromTrap_ctx s w k h.stag.toNat)
    · exact congrArg Context.run (returnFromTrap_ctx s w k h.stag.toNat)
  · intro s w h d a b hi hk hs base len sc h1 h2 h3 h4
    have he := Elsewhere.onPart s w.pnum
    refine ⟨_, tlbi_queues hi hk hs (by simp_all [base, len, sc]), (he _).advanced h, (he _).onward_regs h, (he _).mem,
      State.onPart_cts _ _, fun p hp => ?_⟩
    exact State.onPart_parts hp _

end Sys2Proof.Machine
end

section
/-!
PROOFS. What updates leave of a tile's contexts and of what its tasks share; the ends of a task (R52, R123, R194, R195, R202).
-/

namespace Sys2Proof.Machine

/-! ## Contexts and what a tile's tasks share -/

section
variable {s : State} {h : Hint} {w : Who} (t : Nat)

@[simp] theorem State.loc_onLocal_self (f : Local → Local) : ((s.onLocal t f).tile t).loc = f (s.tile t).loc := by
  simp [State.onLocal]

@[simp] theorem State.core_onLocal (f : Local → Local) (u : Nat) : ((s.onLocal t f).tile u).core = (s.tile u).core := by
  unfold State.onLocal
  by_cases hu : u = t
  · subst hu; simp
  · rw [State.tile_onTile_ne s _ hu]

@[simp] theorem State.ctxAt_onLocal (f : Local → Local) (u c : Nat) : (s.onLocal t f).ctxAt u c = s.ctxAt u c := by
  simp [State.ctxAt]

@[simp] theorem State.ctx_onLocal (f : Local → Local) : (s.onLocal t f).ctx = s.ctx := by simp [State.ctx]

@[simp] theorem State.core_onCore_self (f : CoreSt → CoreSt) : ((s.onCore t f).tile t).core = f (s.tile t).core := by
  simp [State.onCore]

@[simp] theorem State.loc_onCore (f : CoreSt → CoreSt) (u : Nat) : ((s.onCore t f).tile u).loc = (s.tile u).loc := by
  unfold State.onCore
  by_cases hu : u = t
  · subst hu; simp
  · rw [State.tile_onTile_ne s _ hu]

@[simp] theorem State.loc_setCtxAt (c : Nat) (v : Context) (u : Nat) : ((s.setCtxAt t c v).tile u).loc = (s.tile u).loc :=
  State.loc_onCore t _ u

@[simp] theorem State.loc_onCtxAt (c : Nat) (f : Context → Context) (u : Nat) :
    ((s.onCtxAt t c f).tile u).loc = (s.tile u).loc := State.loc_setCtxAt t c _ u

@[simp] theorem State.loc_onCtx (f : Context → Context) (u : Nat) : ((s.onCtx f).tile u).loc = (s.tile u).loc :=
  State.loc_setCtxAt _ _ _ u

@[simp] theorem State.reeval_mem (f : TaskRec → Bool) : (s.reeval t f).mem = s.mem := rfl
@[simp] theorem State.reeval_cur (f : TaskRec → Bool) : (s.reeval t f).cur = s.cur := rfl
@[simp] theorem State.ctxAt_reeval (f : TaskRec → Bool) (u c : Nat) : (s.reeval t f).ctxAt u c = s.ctxAt u c :=
  State.ctxAt_onLocal t _ u c

@[simp] theorem State.setSlot_mem (i : Nat) (v : Slot) : (s.setSlot t i v).mem = s.mem := rfl
@[simp] theorem State.setSlot_cur (i : Nat) (v : Slot) : (s.setSlot t i v).cur = s.cur := rfl
@[simp] theorem State.ctxAt_setSlot (i : Nat) (v : Slot) (u c : Nat) : (s.setSlot t i v).ctxAt u c = s.ctxAt u c := by
  simp [State.setSlot]

@[simp] theorem State.putRec_mem (r : Nat) (v : TaskRec) : (s.putRec t r v).mem = s.mem := rfl
@[simp] theorem State.putRec_cur (r : Nat) (v : TaskRec) : (s.putRec t r v).cur = s.cur := rfl
@[simp] theorem State.ctxAt_putRec (r : Nat) (v : TaskRec) (u c : Nat) : (s.putRec t r v).ctxAt u c = s.ctxAt u c := by
  simp [State.putRec]

end

/-! ## Records -/

/-- A map that a function gives from another keeps its order. -/
theorem risesFrom_amap {β γ : Type} {lo : Option Nat} {m : Assoc β} (h : risesFrom lo m = true) (f : Nat → β → γ) :
    risesFrom lo (amap m f) = true := by
  induction m generalizing lo with
  | nil => rfl
  | cons p m ih =>
    obtain ⟨k, v⟩ := p
    rw [risesFrom_cons, Bool.and_eq_true] at h
    change risesFrom lo ((k, f k v) :: amap m f) = true
    rw [risesFrom_cons, h.1, ih h.2]
    rfl

theorem State.recs_setSlot_rises {s : State} {t : Nat} {lo : Option Nat} (h : risesFrom lo (s.tile t).loc.recs = true) (i : Nat)
    (v : Slot) : risesFrom lo ((s.setSlot t i v).tile t).loc.recs = true := by
  unfold State.setSlot State.reeval
  simpa using risesFrom_amap h _

/-- A record put into the pool of its tile stands there, evaluated. -/
theorem State.recs_putRec (s : State) (t r : Nat) (v : TaskRec) :
    ∃ q l, aget? ((s.putRec t r v).tile t).loc.recs r = some { v with born := s.cycle, q := q, latched := l } := by
  unfold State.putRec State.reeval
  simp only [State.loc_onLocal_self, aget?_amap, aget?_aset_self, Option.map_some]
  split
  · split
    · exact ⟨_, _, rfl⟩
    · exact ⟨_, _, rfl⟩
  · exact ⟨_, _, rfl⟩

/-! ## The end of a task -/

/-- What the disposal of a task's context leaves: memory, the turn, what the tasks of the tiles share. -/
structure SharedKept (s t : State) : Prop where
  mem : t.mem = s.mem
  cur : t.cur = s.cur
  loc : ∀ n, (t.tile n).loc = (s.tile n).loc

namespace SharedKept

theorem refl (s : State) : SharedKept s s := ⟨rfl, rfl, fun _ => rfl⟩

theorem trans {s t u : State} (a : SharedKept s t) (b : SharedKept t u) : SharedKept s u :=
  ⟨b.mem.trans a.mem, b.cur.trans a.cur, fun n => (b.loc n).trans (a.loc n)⟩

theorem setCtxAt (s : State) (t c : Nat) (v : Context) : SharedKept s (s.setCtxAt t c v) :=
  ⟨rfl, rfl, State.loc_setCtxAt t c v⟩

theorem keepAccs (s : State) (t r : Nat) (accs : List Nat) : SharedKept s (s.keepAccs t r accs) := by
  unfold State.keepAccs
  generalize upto 8 = l
  induction l generalizing s with
  | nil => exact refl s
  | cons c l ih =>
    refine trans ?_ (ih _)
    dsimp only
    split
    · exact setCtxAt s _ _ _
    · exact refl s

end SharedKept

theorem GivenUp.refl (s : State) : GivenUp s s := .of (.refl s)

theorem GivenUp.shared {s t : State} (h : GivenUp s t) : SharedKept s t := ⟨h.mem, h.cur, h.loc⟩

theorem disposeAll_givenUp {f : State → Cap → State} (hf : ∀ s c, GivenUp s (f s c)) (s : State) (l : List (Nat × Cap)) :
    GivenUp s (s.disposeAll l f) := by
  unfold State.disposeAll
  induction l generalizing s with
  | nil => exact .refl s
  | cons x l ih => exact (hf s x.2).trans (ih _)

/-- A task that leaves its slot, its capabilities given up: what `endNow` does before the record goes or is kept. -/
def State.vacate (s : State) (t c r : Nat) (q : TaskRec) (p : Nat) (reason : Nat) : State :=
  let v := s.ctxAt t c
  let u := (s.keepAccs t r v.run.accs).setCtxAt t c
    { v.leave with run := { v.leave.run with issueAt := s.cycle + 1 } }
  ((u.noteLeft t c r q.kslot).disposeAll (if q.img.stv then v.regs.c.filter fun x => x.1 != 14 else v.regs.c)
    fun s cap => s.letDrop p q.kslot t cap reason).returnRegion t q.kslot q.img (v.regs.readC 14)

/-- What a slot holds after its task has left it. -/
def Context.Left (v : Context) : Prop := v.run.task = none ∧ v.regs = .reset ∧ v.hold = .none

theorem Context.left_leave (v : Context) (n : Nat) :
    Context.Left { v.leave with run := { v.leave.run with issueAt := n } } := ⟨rfl, rfl, rfl⟩

theorem State.returnRegion_keeps (s : State) (t k : Nat) (img : RecImage) (c14 : Option Cap) :
    (s.returnRegion t k img c14).mem = s.mem ∧ (s.returnRegion t k img c14).cur = s.cur
      ∧ (∀ u c, (s.returnRegion t k img c14).ctxAt u c = s.ctxAt u c)
      ∧ (risesFrom none (s.tile t).loc.recs = true → risesFrom none ((s.returnRegion t k img c14).tile t).loc.recs = true) := by
  unfold State.returnRegion
  split
  · exact ⟨rfl, rfl, fun u c => State.ctxAt_setSlot t _ _ u c, fun h => State.recs_setSlot_rises h _ _⟩
  · exact ⟨rfl, rfl, fun _ _ => rfl, id⟩

/-- What vacating a slot leaves: the slot without a task, memory and the turn, the pool in its order. -/
theorem State.vacate_leaves (s : State) (t c r : Nat) (q : TaskRec) (p reason : Nat) :
    (s.vacate t c r q p reason).mem = s.mem ∧ (s.vacate t c r q p reason).cur = s.cur
      ∧ ((s.vacate t c r q p reason).ctxAt t c).Left
      ∧ (risesFrom none (s.tile t).loc.recs = true →
          risesFrom none ((s.vacate t c r q p reason).tile t).loc.recs = true) := by
  unfold State.vacate
  dsimp only
  generalize hu : State.setCtxAt _ t c _ = u
  have hk : SharedKept s u := hu ▸ (SharedKept.keepAccs s _ _ _).trans (SharedKept.setCtxAt _ _ _ _)
  have hl : (u.ctxAt t c).Left := by
    rw [← hu, State.ctxAt_setCtxAt_self]
    exact Context.left_leave _ _
  have hn : GivenUp u (u.noteLeft t c r q.kslot) := by
    unfold State.noteLeft
    exact GivenUp.onCore _ _ _ fun _ => rfl
  have hg := hn.trans (disposeAll_givenUp (fun s cap => GivenUp.giveUp s t ⟨cap, p, q.kslot, reason, .drop, 0, none, 9⟩) _
    (if q.img.stv then (s.ctxAt t c).regs.c.filter fun x => x.1 != 14 else (s.ctxAt t c).regs.c))
  obtain ⟨hmem, hcur, hctx, hrises⟩ := State.returnRegion_keeps _ t q.kslot q.img ((s.ctxAt t c).regs.readC 14)
  refine ⟨hmem.trans (hg.mem.trans hk.mem), hcur.trans (hg.cur.trans hk.cur), ?_, fun h => hrises ?_⟩
  · exact (hctx t c).trans (hg.ctxAt t c) ▸ hl
  · exact (hg.shared.loc t).trans (hk.loc t) ▸ h

/-- The task of a slot, its record, its partition. -/
theorem State.whoAt_some {s : State} {t c : Nat} {w : Who} (h : s.whoAt t c = some w) :
    (s.ctxAt t c).run.task = some w.rec' ∧ aget? (s.tile t).loc.recs w.rec' = some w.task
      ∧ s.partOfTile t = some (w.pnum, w.part) ∧ w.kslot = w.task.kslot := by
  simp only [State.whoAt, State.recAt, Option.bind_eq_some_iff, Option.map_eq_some_iff] at h
  obtain ⟨_, ⟨r, hr, q, hq, rfl⟩, ⟨p, v⟩, hp, k, hk, im, him, rfl⟩ := h
  exact ⟨hr, hq, hp, rfl⟩

theorem Issues.who {s : State} {h : Hint} {w : Who} (hi : Issues s h w) : s.who = some w := by
  have h := hi.1
  unfold State.issuer at h
  split at h
  · rename_i v hv
    split at h
    · exact hv.trans h
    · cases h
  · cases h

section
variable {s : State} {h : Hint} {w : Who}

/-- The kept record pair of ENDC (R195). -/
def TaskRec.continued (q : TaskRec) (img : RecImage) (first : List Word) (prio : Nat) : TaskRec :=
  { q with img := img, sigmask := 0, retries := 0, latched := false, cap := none, sender := none, first := first, prio := prio }

theorem endNow_cont {t c : Nat} (hw : s.whoAt t c = some w) (img : RecImage) (reason : Nat) : ∃ first prio,
    s.endNow t c (.cont img) reason
      = (s.vacate t c w.rec' w.task w.pnum reason).putRec t w.rec' (w.task.continued img first prio) := by
  obtain ⟨htask, hrec, hpart, -⟩ := State.whoAt_some hw
  unfold State.endNow
  simp only [htask, hpart, hrec]
  exact ⟨_, _, rfl⟩

theorem endNow_gone {t c : Nat} (hw : s.whoAt t c = some w) {kind : EndKind} (hk : ∀ img, kind ≠ .cont img) (reason : Nat) :
    s.endNow t c kind reason
      = (s.vacate t c w.rec' w.task w.pnum reason).onLocal t fun l => { l with recs := aerase l.recs w.rec' } := by
  obtain ⟨htask, hrec, hpart, -⟩ := State.whoAt_some hw
  unfold State.endNow
  simp only [htask, hpart, hrec]
  cases kind with
  | cont img => exact absurd rfl (hk img)
  | plain => rfl
  | halt => rfl

/-- The end of a task whose effects take place at once and whose accesses have been performed. -/
theorem endTask_ok (hp : Prompt s) (hv : s.ctx.vecBusy = none) (he : s.ctx.mx.err = none)
    (hr : s.released s.cur.tile s.cur.ctx = true) (kind : EndKind) :
    s.endTask kind = .ok (s.finishEnd s.cur.tile s.cur.ctx kind) := by
  obtain ⟨hon, -, hz, hposts, hlog⟩ := hp
  have hpend : s.ctx.pending = [] := by simp [Context.pending, hposts, hlog]
  simp [State.endTask, waitWhile, hv, he, hr, hon, hpend, hz]

theorem finishEnd_eq {t c : Nat} {kind : EndKind} (hk : kind ≠ .halt) : s.finishEnd t c kind = s.endNow t c kind cOk := by
  cases kind with
  | halt => exact absurd rfl hk
  | plain => rfl
  | cont img => rfl

/-- HALT's end: the partition begins to halt unless it has. -/
theorem finishEnd_halt {t c : Nat} (hw : s.whoAt t c = some w) : s.finishEnd t c .halt
    = if w.part.halt.isSome then s.endNow t c .halt cOk else (s.endNow t c .halt cOk).startHalt w.pnum .halt := by
  obtain ⟨-, -, hpart, -⟩ := State.whoAt_some hw
  unfold State.finishEnd
  rw [hpart]

/-- What the end of the task in a slot leaves. -/
theorem endNow_leaves {t c : Nat} (hw : s.whoAt t c = some w) (kind : EndKind) (reason : Nat) :
    ((s.endNow t c kind reason).ctxAt t c).Left ∧ (s.endNow t c kind reason).cur = s.cur
      ∧ (s.endNow t c kind reason).mem = s.mem := by
  obtain ⟨hmem, hcur, hleft, -⟩ := State.vacate_leaves s t c w.rec' w.task w.pnum reason
  cases kind with
  | cont img =>
    obtain ⟨first, prio, he⟩ := endNow_cont hw img reason
    rw [he]
    exact ⟨(State.ctxAt_putRec t _ _ t c).symm ▸ hleft, hcur, hmem⟩
  | plain =>
    rw [endNow_gone hw (fun _ => EndKind.noConfusion) reason]
    exact ⟨(State.ctxAt_onLocal t _ t c).symm ▸ hleft, hcur, hmem⟩
  | halt =>
    rw [endNow_gone hw (fun _ => EndKind.noConfusion) reason]
    exact ⟨(State.ctxAt_onLocal t _ t c).symm ▸ hleft, hcur, hmem⟩

/-- The pool without the record of the task that has ended. -/
theorem endNow_plain_rec {t c : Nat} (hw : s.whoAt t c = some w) (reason : Nat)
    (hr : risesFrom none (s.tile t).loc.recs = true) :
    aget? ((s.endNow t c .plain reason).tile t).loc.recs w.rec' = none := by
  obtain ⟨-, -, -, hrises⟩ := State.vacate_leaves s t c w.rec' w.task w.pnum reason
  rw [endNow_gone hw (fun _ => EndKind.noConfusion) reason, State.loc_onLocal_self]
  exact aget?_aerase_self (hrises hr) _

/-- The pool with the record that ENDC keeps. -/
theorem endNow_cont_rec {t c : Nat} (hw : s.whoAt t c = some w) (img : RecImage) (reason : Nat) :
    ∃ q, aget? ((s.endNow t c (.cont img) reason).tile t).loc.recs w.rec' = some q ∧ q.kslot = w.kslot ∧ q.sigmask = 0
      ∧ q.retries = 0 ∧ q.cap = none ∧ q.img = img := by
  obtain ⟨-, -, -, hkslot⟩ := State.whoAt_some hw
  obtain ⟨first, prio, he⟩ := endNow_cont hw img reason
  obtain ⟨q, l, hq⟩ := State.recs_putRec (s.vacate t c w.rec' w.task w.pnum reason) t w.rec' (w.task.continued img first prio)
  rw [he]
  exact ⟨_, hq, hkslot.symm, rfl, rfl, rfl, rfl⟩

/-- The hint of the last instruction moves the slot's issue cycle alone. -/
theorem lastHint_keeps (u : State) (h : Hint) : (u.lastHint h).mem = u.mem ∧ (u.lastHint h).cur = u.cur
    ∧ ((u.lastHint h).ctx.Left ↔ u.ctx.Left) ∧ ∀ t, ((u.lastHint h).tile t).loc = (u.tile t).loc := by
  unfold State.lastHint
  split
  · refine ⟨rfl, rfl, ?_, fun t => State.loc_onCtx _ t⟩
    rw [State.onRun_eq, State.ctx_onCtx]
    exact Iff.rfl
  · exact ⟨rfl, rfl, Iff.rfl, fun _ => rfl⟩

end

/-- Settles O20: an end that waits for nothing vacates its slot; its record goes, or is put back continued. -/
theorem taskEnds : Obligations.TaskEnds := by
  intro s w h d a b hi hp hv he hr left rec'
  have hw : s.whoAt s.cur.tile s.cur.ctx = some w := hi.who
  have hends (u : State) (hm : u.mem = s.mem) (hc : u.cur = s.cur) (hl : u.ctx.Left) : left u :=
    ⟨hl.1, hl.2.1, hl.2.2, hc, hm⟩
  have hleft (kind : EndKind) : left (s.endNow s.cur.tile s.cur.ctx kind cOk) := by
    obtain ⟨hl, hc, hm⟩ := endNow_leaves hw kind cOk
    exact hends _ hm hc (by rw [State.ctx, hc]; exact hl)
  have hhint (kind : EndKind) : left ((s.endNow s.cur.tile s.cur.ctx kind cOk).lastHint h) := by
    obtain ⟨hm, hc, hl, -⟩ := lastHint_keeps (s.endNow s.cur.tile s.cur.ctx kind cOk) h
    obtain ⟨ht, hregs, hhold, hc', hm'⟩ := hleft kind
    exact hends _ (hm.trans hm') (hc.trans hc') (hl.mpr ⟨ht, hregs, hhold⟩)
  have hrec (kind : EndKind) : rec' ((s.endNow s.cur.tile s.cur.ctx kind cOk).lastHint h)
      = aget? ((s.endNow s.cur.tile s.cur.ctx kind cOk).tile s.cur.tile).loc.recs w.rec' := by
    obtain ⟨-, -, -, hloc⟩ := lastHint_keeps (s.endNow s.cur.tile s.cur.ctx kind cOk) h
    exact congrArg (fun l : Local => aget? l.recs w.rec') (hloc _)
  have hend := endTask_ok hp hv he hr
  refine ⟨⟨_, issueEnd_ok hi ?_, hhint .plain, fun hrise => (hrec _).trans (endNow_plain_rec hw cOk hrise)⟩, ?_, ?_⟩
  · rw [hend, finishEnd_eq (by simp)]
    rfl
  · intro hlegal hctr
    let kind := EndKind.cont (recContinued w.task.img (immWord d).toNat (s.x a).toNat (RegImm.nat b s))
    refine ⟨_, issueEnd_ok hi ?_, hhint kind, (hrec kind).symm ▸ endNow_cont_rec hw _ cOk⟩
    rw [need_of (by simp [hlegal, hctr]), ok_bind, hend, finishEnd_eq (by simp)]
    rfl
  · intro hsupv
    refine ⟨_, _, hleft .halt, issueEnd_ok hi ?_, finishEnd_halt hw⟩
    rw [privCheck_supervisor hsupv, ok_bind, noSpec_of hp.1, ok_bind, hend]

end Sys2Proof.Machine
end

section
/-!
PROOFS. LD and ST on the chip (R283, R284), the checks of an access in their order (R53).
-/

namespace Sys2Proof.Machine

variable {s : State} {h : Hint} {w : Who}

/-! ## What accesses on the chip come to -/

theorem SameMemory.of_byte {t u : State} (hb : ∀ a, u.byte a = t.byte a) (ht : ∀ a, t.byte a = s.byte a) : SameMemory s u :=
  fun a => (hb a).trans (ht a)

/-- A read followed by a change of registers. -/
theorem Fetched.computed {u : State} (hf : Fetched s u) (h : Hint) (f : Regs → Regs) (hpc : ∀ r, (f r).pc = r.pc) :
    Computed s ((u.onRegs f).onward h) h f := by
  have hregs : (u.onRegs f).regs = f s.regs := by
    rw [State.onRegs_eq, State.regs_onCtx, hf.regs]; rfl
  refine ⟨?_, advanced_onward hf.cur hf.cycle (by rw [hregs, hpc]), fun a => hf.byte a, hf.cts⟩
  rw [onward_regs, hregs, hpc]

/-- A write performed after the check of its address. -/
theorem Wrote.stored {t u : State} {a : Nat} {bs : List Byte} (hf : Fetched s t) (hu : Wrote t u a bs)
    (hw : Memory.wf s.mem = true) (h : Hint) : Stored s (u.onward h) h a bs := by
  have hregs : u.regs = s.regs := (congrArg Context.regs hu.ctx).trans hf.regs
  refine ⟨fun i hi => hu.byte_inside (hf.mem ▸ hw) hi, fun b hb => (hu.byte_outside hb).trans (hf.byte b), ?_,
    advanced_onward (hu.cur.trans hf.cur) (hu.cycle.trans hf.cycle) (congrArg Regs.pc hregs), hu.cts.trans hf.cts⟩
  rw [onward_regs, hregs]

/-- An instruction that stores bytes on the chip. -/
theorem issue_stores (hi : Issues s h w) (hu : Unhindered s) (hp : Prompt s) (hm : Memory.wf s.mem = true) {c : CapOp}
    {bs : List Byte} {k : Cap} {va : Nat} (ho : OnChip s w c bs.length .write k va) {body : Who → Eff State}
    (hb : body w = s.store w c bs) : ∃ u, issue s h body = .next u ∧ Stored s u h va bs := by
  obtain ⟨t, hf, hs⟩ := store_ok ho hu hp
  exact ⟨_, issue_ok hi (hb.trans hs), (perform_wrote t _ k va bs).stored hf hm h⟩

/-- Settles O21: a load and a store on the chip. -/
theorem loadAndStore : Obligations.LoadAndStore := by
  constructor
  · intro s w h t d a k va hi hu hc ho
    obtain ⟨u, hl, hf⟩ := load_ok ho hu hc
    refine ⟨_, issue_ok hi (u := u.setX d (loadedWord t (s.seen va t.size))) (by simp only [hl, ok_bind]), ?_⟩
    exact hf.computed h _ fun r => Regs.writeX_pc r d _
  · intro s w h t d a k va hi hu hp hm ho
    refine issue_stores hi hu hp hm (k := k) ?_ rfl
    rwa [length_leBytes]

/-! ## The checks of R53 -/

/-- An effect that traps with CAPFAULT. -/
theorem issue_capFaults (hi : Issues s h w) (hd : Delivers s w) {body : Who → Eff State} {sub creg va ord : Nat}
    {cap : Option Cap} (hb : body w = capFault s creg cap va ord sub) (hs : sub < 256) :
    ∃ u, issue s h body = .next u ∧ Trapped s u w cCapfault sub := by
  rw [issue_error hi hb]
  exact settle_delivers hd.2.2 hd (show (cCapfault == cWdog) = false by decide) (show cCapfault < 256 by decide) hs

/-- A check that fails raises CAPFAULT with its subcode. -/
theorem access_fault {c : CapOp} {n sub : Nat} {acc : Access}
    (hc : s.checkCap (s.tile s.cur.tile).core.vcache w.kernel.supv (s.c c.c.toNat) acc (CapOp.index c s.regs * n) n = .fault sub) :
    s.access w c n acc = capFault s c.c.toNat (s.c c.c.toNat) (s.recordVa (s.c c.c.toNat) (CapOp.index c s.regs * n)) 0 sub := by
  unfold State.access
  simp only [hc]

theorem ld_capFaults (hi : Issues s h w) (hd : Delivers s w) {t : Ty} {d : Reg} {a : CapOp} {sub : Nat} (hs : sub < 256)
    (hc : s.checkCap (s.tile s.cur.tile).core.vcache w.kernel.supv (s.c a.c.toNat) .read (CapOp.index a s.regs * t.size) t.size
      = .fault sub) : ∃ u, exec (.ld h t d a) s = .next u ∧ Trapped s u w cCapfault sub :=
  issue_capFaults hi hd (by rw [State.load, access_fault hc]; rfl) hs

theorem st_capFaults (hi : Issues s h w) (hd : Delivers s w) {t : Ty} {d : Reg} {a : CapOp} {sub : Nat} (hs : sub < 256)
    (hc : s.checkCap (s.tile s.cur.tile).core.vcache w.kernel.supv (s.c a.c.toNat) .write (CapOp.index a s.regs * t.size) t.size
      = .fault sub) : ∃ u, exec (.st h t a d) s = .next u ∧ Trapped s u w cCapfault sub :=
  issue_capFaults hi hd (by rw [State.store, length_leBytes, access_fault hc]; rfl) hs

/-- The outcome of R53's steps for a capability of this chip whose buffer is not being reclaimed, in their order. -/
theorem checkCap_home {k : Cap} (hk : k.chip = s.chip) (hr : (s.ct k.key).recl = none) (vc : List VEntry) (supv : Bool)
    (acc : Access) (off : Int) (n : Nat) : s.checkCap vc supv (some k) acc off n =
      if s.current k = false then .fault cRevoked
      else if hasRight supv k acc = false then .fault cRights
      else if (acc = .write ∨ acc = .operation) ∧ 0 < (s.ct k.key).tokOut + (s.ct k.key).tokLost then .fault cNotowner
      else if off < 0 ∨ (k.bytes : Int) < off + n then .fault cBounds
      else .ok (s.windowBase k + off.toNat) := by
  simp [State.checkCap, hk, hr, CtEntry.notOwner]

/-- Settles O22: each premise picks the step of R53 at which the check fails. -/
theorem accessChecks : Obligations.AccessChecks := by
  intro s w h t d a hi hd traps off
  refine ⟨fun hn => ⟨ld_capFaults hi hd (by decide) ?_, st_capFaults hi hd (by decide) ?_⟩, fun k hk hchip hrecl => ?_⟩
  · rw [hn]; rfl
  · rw [hn]; rfl
  · have hright : k.rights.w = true → k.kind ≠ .weight ∨ w.kernel.supv = true → ¬hasRight w.kernel.supv k .write = false :=
      fun h1 h2 => by simpa [hasRight, h1, imp_iff_not_or] using h2
    have hc := checkCap_home hchip hrecl (s.tile s.cur.tile).core.vcache w.kernel.supv
    refine ⟨fun h0 => ⟨?_, ?_⟩, fun h0 h1 => ?_, fun h0 h1 h2 => ?_, fun h0 h1 => ?_, fun h0 h1 h2 h3 => ?_,
      fun h0 h1 h2 h3 => ?_, fun h0 h1 h2 h3 h4 => ?_⟩
    · exact ld_capFaults hi hd (by decide) (by rw [hk, hc]; simp [h0])
    · exact st_capFaults hi hd (by decide) (by rw [hk, hc]; simp [h0])
    · exact ld_capFaults hi hd (by decide) (by rw [hk, hc]; simp [h0, h1, hasRight])
    · exact ld_capFaults hi hd (by decide) (by rw [hk, hc, if_neg (by simp [h0]), if_neg (by simp [hasRight, h1]), if_neg (by simp),
        if_pos h2])
    · exact st_capFaults hi hd (by decide) (by rw [hk, hc]; simp [h0, h1, hasRight])
    · exact st_capFaults hi hd (by decide) (by rw [hk, hc]; simp [h0, h1, h2, h3, hasRight])
    · exact st_capFaults hi hd (by decide) (by
        rw [hk, hc, if_neg (by simp [h0]), if_neg (hright h1 h2), if_pos ⟨.inl rfl, h3⟩])
    · exact st_capFaults hi hd (by decide) (by
        rw [hk, hc, if_neg (by simp [h0]), if_neg (hright h1 h2), if_neg (fun hp => hp.2.ne' h3), if_pos h4])

end Sys2Proof.Machine
end

section
/-!
PROOFS. View instructions (R286 to R289), moves of capabilities that need no home (R293, R296, R297).
-/

namespace Sys2Proof.Machine

variable {s : State} {h : Hint} {w : Who}

/-! ## Views -/

theorem viewNamed_of {d : Vreg} (hd : d.toNat < w.image.nview) : viewNamed s w d = .ok () := need_of (decide_eq_true hd)

theorem viewIn_of {a : Vreg} {v : View} (ha : a.toNat < w.image.nview) (hv : aget? s.regs.v a.toNat = some v) :
    viewIn s w a = .ok v := by
  simp [viewIn, viewNamed_of ha, hv]

theorem constNat_clean (hc : Clean s) (off n : Nat) :
    s.constNat w off n = .ok (s, s.imageNat w.part w.image (w.image.constOff + off) n) := by
  simp [State.constNat, imageCheck_clean hc]

/-- The registers with a view written. -/
def Regs.withView (r : Regs) (d : Nat) (v : View) : Regs := { r with v := aset r.v d v }

theorem issue_setV (hi : Issues s h w) {body : Who → Eff State} {d : Vreg} {v : View} (hb : body w = .ok (s.setV d v)) :
    issue s h body = .next (s.stepped h fun r => r.withView d.toNat v) :=
  issue_regs hi (fun r => r.withView d.toNat v) (fun _ => rfl) hb

theorem vwset_const (hi : Issues s h w) {d : Vreg} (hd : d.toNat < w.image.nview) {i : Imm} {n : Nat}
    (hn : ((immWord i).toNat % 64 == 0 && decide ((immWord i).toNat + 64 ≤ w.image.constLen)) = true)
    (hr : s.constNat w (immWord i).toNat 64 = .ok (s, n)) (hv : viewLegal (viewOf n) = true) :
    exec (.vwset h d (.imm i)) s = .next (s.stepped h fun r => r.withView d.toNat (viewOf n)) := by
  have hb : (do need s ((immWord i).toNat % 64 == 0 && (immWord i).toNat + 64 ≤ w.image.constLen)
                s.constNat w (immWord i).toNat 64 : Eff (State × Nat)) = .ok (s, n) := by rw [need_of hn, ok_bind, hr]
  refine issue_setV hi ?_
  simp only [viewNamed_of hd, hb, ok_bind, need_of hv]

theorem vwset_cap (hi : Issues s h w) (hu : Unhindered s) (hc : Clean s) {d : Vreg} (hd : d.toNat < w.image.nview) {c : CapOp}
    {k : Cap} {va : Nat} (ho : OnChip s w c 64 .read k va) (hv : viewLegal (viewOf (leNat (s.seen va 64))) = true) :
    ∃ u, exec (.vwset h d (.cap c)) s = .next u
      ∧ Computed s u h fun r => r.withView d.toNat (viewOf (leNat (s.seen va 64))) := by
  obtain ⟨u, hl, hf⟩ := load_ok ho hu hc
  refine ⟨_, issue_ok hi (u := u.setV d (viewOf (leNat (s.seen va 64)))) ?_, hf.computed h _ fun _ => rfl⟩
  simp only [viewNamed_of hd, hl, ok_bind, need_of hv]

theorem vwgetField_reads (hi : Issues s h w) {x : Reg} {a : Vreg} {i : Imm} {v : View} (ha : a.toNat < w.image.nview)
    (hv : aget? s.regs.v a.toNat = some v) (hf : (immWord i).toNat ≤ 10) :
    exec (.vwgetField h x a i) s = .next (s.stepped h fun r => r.writeX x (viewField v (immWord i).toNat)) :=
  issue_setX hi (by simp only [need_of (decide_eq_true hf), viewIn_of ha hv, ok_bind])

theorem ringDim_of {v : View} {dim : Nat} (hd : ¬(v.ringf = true ∧ dim + 1 = v.rank)) : ringDim v dim = false := by
  simpa [ringDim] using hd

theorem vwsub_narrows (hi : Issues s h w) {d a : Vreg} {b : Reg} {v : View} (hd : d.toNat < w.image.nview)
    (ha : a.toNat < w.image.nview) (hv : aget? s.regs.v a.toNat = some v) {dim step start len : Nat} {st : Int}
    (hdim : field (s.x b).toNat 0 2 = dim) (hstep : field (s.x b).toNat 8 8 = step) (hstart : field (s.x b).toNat 16 24 = start)
    (hlen : field (s.x b).toNat 40 24 = len) (hst : v.stride.getD dim 0 = st)
    (hn : (field (s.x b).toNat 2 6 == 0 && dim < v.rank && step != 0 && len != 0
      && start + (len - 1) * step < v.ext.getD dim 0 && offsetOk (v.offset + start * st) && -(2 ^ 31) ≤ st * step
      && st * step < 2 ^ 31 && !ringDim v dim) = true) :
    exec (.vwsub h d a b) s = .next (s.stepped h fun r => r.withView d.toNat
      { v with offset := (v.offset + start * st).toNat, ext := v.ext.set dim len, stride := v.stride.set dim (st * step) }) := by
  subst hdim hstep hstart hlen hst
  exact issue_setV hi (by simp only [viewNamed_of hd, viewIn_of ha hv, ok_bind, need_of hn])

theorem vwadv_moves (hi : Issues s h w) {d : Vreg} {i : Imm} {n : RegImm} {v : View} (hd : d.toNat < w.image.nview)
    (hv : aget? s.regs.v d.toNat = some v)
    (hn : ((immWord i).toNat < v.rank && (immWord i).toNat ≤ 3
      && offsetOk (v.offset + (RegImm.value n s).toInt * v.stride.getD (immWord i).toNat 0) && !ringDim v (immWord i).toNat) = true) :
    exec (.vwadv h d i n) s = .next (s.stepped h fun r => r.withView d.toNat
      { v with offset := (v.offset + (RegImm.value n s).toInt * v.stride.getD (immWord i).toNat 0).toNat }) :=
  issue_setV hi (by simp only [viewIn_of hd hv, ok_bind, need_of hn])

/-- Settles O23: a view from the const section or from memory, given back, narrowed, moved. -/
theorem viewResults : Obligations.ViewResults := by
  intro s w h d x a v b i n c k va hi hd puts off
  refine ⟨fun hc ho hl hv =>
    vwset_const hi hd (by simp [off] at ho hl; simp [ho, hl]) (constNat_clean hc _ _) hv, fun hu hc ho hv => vwset_cap hi hu hc hd ho hv,
    fun ha hv => ⟨fun hu hp hm ho => ?_, fun hf => ?_, ?_⟩, ?_⟩
  · refine issue_stores hi hu hp hm (k := k) ?_ ?_ (c := c)
    · rwa [length_leBytes]
    · simp only [viewIn_of ha hv, ok_bind]
  · exact vwgetField_reads hi ha hv hf
  · intro m dim step start len st o h1 h2 h3 h4 h5 h6 h7 h8 h9 h10
    refine vwsub_narrows hi hd ha hv rfl rfl rfl rfl rfl ?_
    simp only [Bool.and_eq_true, decide_eq_true_eq, beq_iff_eq, bne_iff_ne, offsetOk, Bool.not_eq_true']
    exact ⟨⟨⟨⟨⟨⟨⟨⟨h1, h2⟩, h3⟩, h4⟩, h5⟩, h6, h7⟩, h8⟩, h9⟩, ringDim_of h10⟩
  · intro hv o h1 h2 h3 h4 h5
    refine vwadv_moves hi hd hv ?_
    simp only [Bool.and_eq_true, decide_eq_true_eq, offsetOk, Bool.not_eq_true']
    exact ⟨⟨⟨h1, h2⟩, h3, h4⟩, ringDim_of h5⟩

end Sys2Proof.Machine
end

section
/-!
PROOFS. Capability registers: moves, narrowing, rights and CINFO (R293, R296, R297).
-/

namespace Sys2Proof.Machine

variable {s : State} {h : Hint} {w : Who}

/-! ## The checks of R280 that pass -/

theorem waitWhile_of {b : Bool} (hb : b = false) : waitWhile s b = .ok () := if_neg (by simp [hb])

theorem wholeCap_of {c : CapOp} (hc : c.whole = true) : wholeCap s c = .ok c.c.toNat := if_pos hc

theorem sourceCap_of {i : Nat} {c : Cap} (hc : s.c i = some c) : sourceCap s i = .ok c := by simp [sourceCap, hc]

theorem needG_of {i : Nat} {c : Cap} (hg : c.rights.g = true) : needG s i c = .ok () := if_pos hg

/-- Two capability registers are whole and free. -/
theorem capPair_of {d a : CapOp} (hd : s.capBusy d.c.toNat = false) (ha : s.capBusy a.c.toNat = false) :
    waitWhile s (s.capBusy d.c.toNat || s.capBusy a.c.toNat) = .ok () := waitWhile_of (by rw [hd, ha]; rfl)

/-- Outside the strike horizon nothing is kept for a rollback. -/
theorem remember_of (hz : s.shz s.cur.tile = false) (u : Undo) : s.remember u = s := if_neg (by simp [hz])

theorem setC_setC (i j : Nat) (a b : Option Cap) :
    (s.setC i a).setC j b = s.onRegs fun r => (r.writeC i a).writeC j b := by
  simp only [State.setC_eq, State.onRegs_eq, State.onCtx_onCtx]

/-- An instruction that empties a capability register and fills one. -/
theorem issue_setC_setC (hi : Issues s h w) {body : Who → Eff State} {i j : Nat} {a b : Option Cap}
    (hb : body w = .ok ((s.setC i a).setC j b)) :
    issue s h body = .next (s.stepped h fun r => (r.writeC i a).writeC j b) :=
  issue_regs hi _ (fun r => by simp) (hb.trans (by rw [setC_setC]))

/-! ## Moves -/

section
variable {d a : CapOp} {c : Cap}

theorem cmovMove_moves (hi : Issues s h w) (hd : d.whole = true) (ha : a.whole = true) (hbd : s.capBusy d.c.toNat = false)
    (hba : s.capBusy a.c.toNat = false) (hc : s.c a.c.toNat = some c) (he : s.c d.c.toNat = none) :
    exec (.cmovMove h d a) s
      = .next (s.stepped h fun r => (r.writeC a.c.toNat none).writeC d.c.toNat (some c)) :=
  issue_setC_setC hi (by
    simp only [wholeCap_of hd, wholeCap_of ha, capPair_of hbd hba, need_of (Option.isNone_iff_eq_none.mpr he), sourceCap_of hc, ok_bind])

theorem cmovPark_parks (hi : Issues s h w) (hp : Prompt s) (ha : a.whole = true) (hba : s.capBusy a.c.toNat = false) {n : RegImm}
    (hc : s.c a.c.toNat = some c)
    (hn : (RegImm.nat n s < 256 && ((s.tile s.cur.tile).loc.slot (RegImm.nat n s)).open) = true)
    (hw : s.written s.cur.tile s.cur.ctx c.key = true) :
    exec (.cmovPark h n a) s = .next (((s.setC a.c.toNat none).setSlot s.cur.tile (RegImm.nat n s)
      { (s.tile s.cur.tile).loc.slot (RegImm.nat n s) with cap := some c, kslot := some w.kslot }).onward h) :=
  issue_ok hi (by
    simp only [wholeCap_of ha, waitWhile_of hba, noSpec_of hp.1, need_of hn, sourceCap_of hc, waitWhile_of (congrArg (! ·) hw),
      ok_bind]
    exact congrArg _ (remember_of (by exact hp.2.2.1) _))

theorem cmovUnpark_unparks (hi : Issues s h w) (hp : Prompt s) (hd : d.whole = true) (hbd : s.capBusy d.c.toNat = false)
    {n : RegImm} (hn : (RegImm.nat n s < 256 && (s.c d.c.toNat).isNone) = true)
    (hc : ((s.tile s.cur.tile).loc.slot (RegImm.nat n s)).cap = some c) :
    exec (.cmovUnpark h d n) s = .next (((s.setSlot s.cur.tile (RegImm.nat n s)
      { (s.tile s.cur.tile).loc.slot (RegImm.nat n s) with cap := none, kslot := none }).setC d.c.toNat (some c)).onward h) :=
  issue_ok hi (by
    simp only [wholeCap_of hd, waitWhile_of hbd, noSpec_of hp.1, need_of hn, hc, ok_bind]
    exact congrArg _ (remember_of (by exact hp.2.2.1) _))

theorem reduceCap_reduces (hi : Issues s h w) (hd : d.whole = true) (ha : a.whole = true) (hbd : s.capBusy d.c.toNat = false)
    (hba : s.capBusy a.c.toNat = false) (hc : s.c a.c.toNat = some c)
    (he : d.c.toNat = a.c.toNat ∨ s.c d.c.toNat = none) (hg : c.rights.g = true) {pre : Bool} {ok : Cap → Bool} {f : Cap → Cap}
    (hpre : pre = true) (hok : ok c = true) :
    reduceCap h d a s pre ok f
      = .next (s.stepped h fun r => (r.writeC a.c.toNat none).writeC d.c.toNat (some (f c))) := by
  have hn : (pre && (d.c.toNat == a.c.toNat || (s.c d.c.toNat).isNone)) = true := by
    rw [hpre, Bool.true_and]
    obtain he | he := he <;> simp [he]
  exact issue_setC_setC hi (by
    simp only [wholeCap_of hd, wholeCap_of ha, capPair_of hbd hba, need_of hn, sourceCap_of hc, need_of hok, needG_of hg, ok_bind])

theorem cinfo_reads (hi : Issues s h w) (ha : a.whole = true) {x : Reg} {i : Imm} (hf : (immWord i).toNat ≤ 11)
    (hs : (immWord i).toNat < 10 ∨ (w.kernel.supv = true ∧ w.image.det = false)) :
    exec (.cinfo h x a i) s
      = .next (s.stepped h fun r => r.writeX x (word (capInfo (s.c a.c.toNat) (immWord i).toNat))) := by
  refine issue_setX hi ?_
  by_cases hsel : (immWord i).toNat = 10 ∨ (immWord i).toNat = 11
  · obtain hlt | ⟨hk, hdet⟩ := hs
    · omega
    · simp only [if_pos hsel, privCheck_supervisor hk, detCheck_of hdet, wholeCap_of ha, need_of (decide_eq_true hf), ok_bind]
  · simp only [if_neg hsel, wholeCap_of ha, need_of (decide_eq_true hf), ok_bind]

end

/-- Settles O25: every check passes, and what remains changes registers or a parking slot. -/
theorem capabilityMoves : Obligations.CapabilityMoves := by
  intro s w h d a b x n i c hi hp hd ha hbd hba cd ca m slot
  refine ⟨fun hc => ⟨cmovMove_moves hi hd ha hbd hba hc,
    fun hn ho hw => cmovPark_parks hi hp ha hba hc (by simp_all [slot]) hw,
    fun he hg => ⟨fun hm hl => ?_, fun hn hr => ?_⟩⟩, fun hn he hc => ?_, cinfo_reads hi ha⟩
  · exact reduceCap_reduces hi hd ha hbd hba hc he hg (decide_eq_true hm) (decide_eq_true hl)
  · exact reduceCap_reduces hi hd ha hbd hba hc he hg (decide_eq_true hn) hr
  · exact cmovUnpark_unparks hi hp hd hbd (by simp_all [cd]) hc

end Sys2Proof.Machine
end

section
/-!
PROOFS. Fractions (R57, R294, R295, R298), sealing and reclaim (R65, R66, R299, R300).
-/

namespace Sys2Proof.Machine

variable {s : State} {h : Hint} {w : Who}

/-- The home of a capability of this chip, not being reclaimed, that the entry has current. -/
theorem consultHome_of {c : Cap} (hc : c.chip = s.chip) (hr : (s.ct c.key).recl = none) (hcur : s.current c = true)
    (i op arg : Nat) : consultHome s w i c op arg = .ok (s, true) := by
  simp [consultHome, hc, hr, hcur, waitWhile_of]

theorem dropValidation_ct (t : Nat) (c : Cap) (k : Nat) : (s.dropValidation t c).ct k = s.ct k := rfl

section
variable {d a : CapOp} {n : RegImm} {c x : Cap}

/-! ## CSPLIT -/

/-- The checks of CSPLIT, without that of the mode. -/
structure Splits (s : State) (d a : CapOp) (n : RegImm) (c : Cap) : Prop where
  prompt : s.ctx.spec.on = false
  wholeD : d.whole = true
  wholeA : a.whole = true
  freeD : s.capBusy d.c.toNat = false
  freeA : s.capBusy a.c.toNat = false
  source : s.c a.c.toNat = some c
  operand : (RegImm.nat n s < 2 ^ 20 && (s.c d.c.toNat).isNone && !(Rights.ofCode (field (RegImm.nat n s) 16 4)).w) = true
  rights : (Rights.ofCode (field (RegImm.nat n s) 16 4)).sub c.rights = true
  grant : c.rights.g = true
  written : s.written s.cur.tile s.cur.ctx c.key = true
  chip : c.chip = s.chip
  recl : (s.ct c.key).recl = none
  current : s.current c = true

theorem csplit_exclusive (hi : Issues s h w) (hs : Splits s d a n c) (hm : c.mode = .exclusive)
    (h1 : 1 ≤ field (RegImm.nat n s) 0 16)
    (h2 : (s.ct c.key).tokOut + (s.ct c.key).tokLost + field (RegImm.nat n s) 0 16 ≤ 65535) :
    exec (.csplit h d a n) s = .next (((((s.dropValidation s.cur.tile c).setCt c.key
      { s.ct c.key with tokOut := (s.ct c.key).tokOut + field (RegImm.nat n s) 0 16 }).rememberEntry c
        (field (RegImm.nat n s) 0 16) (s.ct c.key)).setC d.c.toNat
      (some { c with mode := .fraction, rights := Rights.ofCode (field (RegImm.nat n s) 16 4),
                     tokens := field (RegImm.nat n s) 0 16 })).onward h) :=
  issue_ok hi (by
    simp only [wholeCap_of hs.wholeD, wholeCap_of hs.wholeA, capPair_of hs.freeD hs.freeA, noSpec_of hs.prompt,
      need_of hs.operand, sourceCap_of hs.source, hm, hs.rights, decide_eq_true h1, Bool.true_and, need_of,
      needG_of hs.grant, waitWhile_of (congrArg (! ·) hs.written), consultHome_of hs.chip hs.recl hs.current, ok_bind]
    rw [need_of (by rw [Bool.not_true, Bool.false_or]; exact decide_eq_true h2), ok_bind]
    rfl)

theorem csplit_fraction (hi : Issues s h w) (hs : Splits s d a n c) (hm : c.mode = .fraction)
    (h1 : 1 ≤ field (RegImm.nat n s) 0 16) (h2 : field (RegImm.nat n s) 0 16 < c.tokens) :
    exec (.csplit h d a n) s = .next ((((s.dropValidation s.cur.tile c).setC a.c.toNat
      (some { c with tokens := c.tokens - field (RegImm.nat n s) 0 16 })).setC d.c.toNat
      (some { c with rights := Rights.ofCode (field (RegImm.nat n s) 16 4), tokens := field (RegImm.nat n s) 0 16 })).onward h) :=
  issue_ok hi (by
    simp only [wholeCap_of hs.wholeD, wholeCap_of hs.wholeA, capPair_of hs.freeD hs.freeA, noSpec_of hs.prompt,
      need_of hs.operand, sourceCap_of hs.source, hm, hs.rights, decide_eq_true h1, decide_eq_true h2, Bool.true_and, need_of,
      needG_of hs.grant, waitWhile_of (congrArg (! ·) hs.written), consultHome_of hs.chip hs.recl hs.current, ok_bind])

theorem csplit_sealed (hi : Issues s h w) (hs : Splits s d a n c) (hm : c.mode = .sealed)
    (h0 : field (RegImm.nat n s) 0 16 = 0) :
    exec (.csplit h d a n) s = .next (((s.dropValidation s.cur.tile c).setC d.c.toNat
      (some { c with rights := Rights.ofCode (field (RegImm.nat n s) 16 4) })).onward h) :=
  issue_ok hi (by
    simp only [wholeCap_of hs.wholeD, wholeCap_of hs.wholeA, capPair_of hs.freeD hs.freeA, noSpec_of hs.prompt,
      need_of hs.operand, sourceCap_of hs.source, hm, hs.rights, h0, beq_self_eq_true, Bool.true_and, need_of,
      needG_of hs.grant, waitWhile_of (congrArg (! ·) hs.written), consultHome_of hs.chip hs.recl hs.current, ok_bind])

/-! ## CJOIN and CMERGE -/

/-- Two capabilities of one buffer of this chip with the same hallmark are current together. -/
theorem sameBuffer_current (hb : sameBuffer x c = true) (hh : x.hallmark = c.hallmark) (hc : c.chip = s.chip)
    (hcur : s.current c = true) : x.key = c.key ∧ x.chip = s.chip ∧ s.current x = true := by
  simp only [sameBuffer, Bool.and_eq_true, beq_iff_eq] at hb
  obtain ⟨⟨⟨hchip, hkind⟩, hagent⟩, hctidx⟩ := hb
  have hkey : x.key = c.key := by simp only [Cap.key, hkind, hagent, hctidx]
  exact ⟨hkey, hchip.trans hc, by simpa only [State.current, hkey, hchip, hh] using hcur⟩

/-- The two capabilities of CJOIN and CMERGE. -/
structure Joins (s : State) (d a : CapOp) (x c : Cap) : Prop where
  prompt : s.ctx.spec.on = false
  wholeD : d.whole = true
  wholeA : a.whole = true
  freeD : s.capBusy d.c.toNat = false
  freeA : s.capBusy a.c.toNat = false
  differ : d.c.toNat ≠ a.c.toNat
  dest : s.c d.c.toNat = some x
  source : s.c a.c.toNat = some c
  buffer : sameBuffer x c = true
  hallmark : x.hallmark = c.hallmark
  fraction : c.mode = .fraction
  chip : c.chip = s.chip
  recl : (s.ct c.key).recl = none
  current : s.current c = true

theorem Joins.home (hj : Joins s d a x c) (i op arg : Nat) : consultHome s w i x op arg = .ok (s, true) := by
  obtain ⟨hkey, hchip, hcur⟩ := sameBuffer_current hj.buffer hj.hallmark hj.chip hj.current
  exact consultHome_of hchip (by rw [hkey]; exact hj.recl) hcur _ _ _

theorem cjoin_returns (hi : Issues s h w) (hj : Joins s d a x c) (hm : x.mode = .exclusive) :
    exec (.cjoin h d a) s = .next (((((s.dropValidation s.cur.tile c).setCt c.key
      { s.ct c.key with tokOut := (s.ct c.key).tokOut - c.tokens }).rememberEntry c (-c.tokens) (s.ct c.key)).setC
        a.c.toNat none).onward h) :=
  issue_ok hi (by
    simp only [wholeCap_of hj.wholeD, wholeCap_of hj.wholeA, capPair_of hj.freeD hj.freeA, noSpec_of hj.prompt,
      need_of (bne_iff_ne.mpr hj.differ), sourceCap_of hj.dest, sourceCap_of hj.source, hj.buffer, hm, hj.fraction,
      beq_self_eq_true, Bool.true_and, need_of, hj.home, consultHome_of hj.chip hj.recl hj.current, if_true, ok_bind]
    rfl)

theorem cmerge_adds (hi : Issues s h w) (hj : Joins s d a x c) (hm : x.mode = .fraction) {o l : Nat}
    (hw : joinWindows x c = some (o, l)) :
    exec (.cmerge h d a) s = .next (s.stepped h fun r => (r.writeC a.c.toNat none).writeC d.c.toNat
      (some { x with tokens := x.tokens + c.tokens, rights := x.rights.inter c.rights, woff := o, wlen := l })) :=
  issue_setC_setC hi (by
    simp only [wholeCap_of hj.wholeD, wholeCap_of hj.wholeA, capPair_of hj.freeD hj.freeA, noSpec_of hj.prompt,
      need_of (bne_iff_ne.mpr hj.differ), sourceCap_of hj.dest, sourceCap_of hj.source, hj.buffer, hm, hj.fraction,
      beq_self_eq_true, Bool.true_and, need_of, hw, hj.home, consultHome_of hj.chip hj.recl hj.current, if_true, ok_bind])

/-! ## CDROP -/

theorem cdrop_empty (hi : Issues s h w) (hd : d.whole = true) (hb : s.capBusy d.c.toNat = false) (hn : s.c d.c.toNat = none) :
    exec (.cdrop h d) s = .next (s.stepped h id) :=
  issue_id hi (by simp only [wholeCap_of hd, waitWhile_of hb, hn, ok_bind])

theorem inert_iff (c : Cap) : inert c = true ↔ c.mode = .sealed ∨ c.mode = .lookahead := by
  simp [inert]

/-- A capability that is neither sealed nor a lookahead waits for the context's writes under it. -/
theorem written_of_not_inert (hw : c.mode = .sealed ∨ c.mode = .lookahead ∨ s.written s.cur.tile s.cur.ctx c.key = true)
    (hin : inert c = false) : s.written s.cur.tile s.cur.ctx c.key = true := by
  rw [← or_assoc, ← inert_iff] at hw
  exact hw.resolve_left (by simp [hin])

theorem dropCheck_of {i : Nat} (hc : c.chip = s.chip) (hcur : s.current c = true) : dropCheck s w i c = .ok (s, true) := by
  have hr : (s.ct c.key).state ≠ .retired := by
    intro hr
    simp [State.current, hr] at hcur
  simp [dropCheck, hc, hr, hcur]

theorem cdrop_gives (hi : Issues s h w) (hp : s.ctx.spec.on = false) (hd : d.whole = true) (hb : s.capBusy d.c.toNat = false)
    (hs : s.c d.c.toNat = some c) (hc : c.chip = s.chip) (hcur : s.current c = true) (hr : (s.ct c.key).recl = none)
    (hw : c.mode = .sealed ∨ c.mode = .lookahead ∨ s.written s.cur.tile s.cur.ctx c.key = true) :
    exec (.cdrop h d) s = .next ((((s.setC d.c.toNat none).dropValidation s.cur.tile c).giveUp s.cur.tile
      ⟨c, w.pnum, w.kslot, cOk, .drop, s.horizonDue s.cur.tile, none, s.cur.ctx⟩).onward h) := by
  refine issue_ok hi ?_
  simp only [wholeCap_of hd, waitWhile_of hb, hs, ok_bind]
  cases hin : inert c with
  | true =>
    simp only [Bool.not_true, Bool.false_eq_true, if_false, dropCheck_of hc hcur, Bool.false_and, Bool.or_true, if_true, ok_bind]
    rfl
  | false =>
    simp only [Bool.not_false, if_true, noSpec_of hp, waitWhile_of (congrArg (! ·) (written_of_not_inert hw hin)),
      dropCheck_of hc hcur, hr, Option.isSome_none, Bool.and_false, Bool.false_eq_true, if_false, Bool.true_or, ok_bind]
    rfl

theorem cdrop_retired (hi : Issues s h w) (hdel : Delivers s w) (hd : d.whole = true) (hb : s.capBusy d.c.toNat = false)
    (hs : s.c d.c.toNat = some c) (hc : c.chip = s.chip) (hr : (s.ct c.key).state = .retired)
    (hw : c.mode = .sealed ∨ c.mode = .lookahead ∨ s.written s.cur.tile s.cur.ctx c.key = true) :
    ∃ u, exec (.cdrop h d) s = .next u ∧ Trapped s u w cCapfault cRevoked := by
  have hdrop : dropCheck s w d.c.toNat c = capFault s d.c.toNat (some c) 0 0 cRevoked := by simp [dropCheck, hc, hr]
  refine issue_capFaults hi hdel (creg := d.c.toNat) (va := 0) (ord := 0) (cap := some c) ?_ (by decide)
  simp only [wholeCap_of hd, waitWhile_of hb, hs, ok_bind]
  cases hin : inert c with
  | true =>
    simp only [Bool.not_true, Bool.false_eq_true, if_false, hdrop]
    rfl
  | false =>
    simp only [Bool.not_false, if_true, noSpec_of hdel.2.2, waitWhile_of (congrArg (! ·) (written_of_not_inert hw hin)), hdrop,
      ok_bind]
    rfl

/-- What becomes of a capability of this chip that goes at once (R298). -/
theorem giveUp_drop {u : State} {t : Nat} {g : Giving} (hg : u.mayGo t g = true) (hh : g.how = .drop) (hc : g.cap.chip = u.chip) :
    u.giveUp t g = u.dropCap g.part g.kslot t g.cap g.reason := by
  rw [State.giveUp, if_pos hg, State.dispose, hh]
  exact if_neg fun hx => hx.2 hc

theorem dropCap_fraction {u : State} (hm : c.mode = .fraction) (hc : c.chip = u.chip) (hcur : u.current c = true) (p k t r : Nat) :
    u.dropCap p k t c r = u.setCt c.key { u.ct c.key with tokOut := (u.ct c.key).tokOut - c.tokens } := by
  simp only [State.dropCap, hm, State.returnTokens, hc, ne_eq, not_true_eq_false, if_false, hcur, if_true]
  rfl

theorem dropCap_inert {u : State} (hm : c.mode = .sealed ∨ c.mode = .lookahead) (p k t r : Nat) : u.dropCap p k t c r = u := by
  obtain hm | hm := hm <;> simp only [State.dropCap, hm]

theorem dropCap_exclusive {u : State} (hm : c.mode = .exclusive) (hcur : u.current c = true) (hr : (u.ct c.key).recl = none)
    (p k t r : Nat) : u.dropCap p k t c r = u.reclaimPath p k t c r := by
  simp [State.dropCap, hm, hcur, hr]

end

/-- Settles O26: the counts of CSPLIT and CJOIN at the entry, the windows of CMERGE, what CDROP gives up. -/
theorem fractions : Obligations.Fractions := by
  intro s w h d a n c x hi hp hd ha hbd hba hc hcur hr cd ca t e k q v written
  refine ⟨fun hs he hn hqw hq hg hw => ?_, fun hne hx hs hb hh hm => ?_, cdrop_empty hi hd hbd, ?_,
    fun hs hx hret hw hdel => cdrop_retired hi hdel hd hbd hs hx hret hw⟩
  · have hop : (RegImm.nat n s < 2 ^ 20 && (s.c d.c.toNat).isNone && !(Rights.ofCode (field (RegImm.nat n s) 16 4)).w) = true := by
      simp_all [q, cd]
    have hsp : Splits s d a n c := ⟨hp, hd, ha, hbd, hba, hs, hop, hq, hg, hw, hc, hr, hcur⟩
    exact ⟨csplit_exclusive hi hsp, csplit_fraction hi hsp, csplit_sealed hi hsp⟩
  · have hj : Joins s d a x c := ⟨hp, hd, ha, hbd, hba, hne, hx, hs, hb, hh, hm, hc, hr, hcur⟩
    exact ⟨cjoin_returns hi hj, fun hm o l hw => cmerge_adds hi hj hm hw⟩
  · intro hs gone g
    refine ⟨cdrop_gives hi hp hd hbd hs hc hcur hr, fun hno => if_neg (by simp [hno]), fun hgo => ?_⟩
    have hgive := giveUp_drop hgo rfl hc
    refine ⟨fun hm => hgive.trans (dropCap_fraction (u := gone) hm hc hcur _ _ _ _), fun hm => hgive.trans (dropCap_inert hm _ _ _ _),
      fun hm => hgive.trans (dropCap_exclusive (u := gone) hm hcur hr _ _ _ _)⟩

/-! ## CSEAL and CRECLAIM -/

section
variable {d a : CapOp} {c : Cap}

/-- The checks of CSEAL. -/
structure Seals (s : State) (d a : CapOp) (c : Cap) : Prop where
  prompt : s.ctx.spec.on = false
  wholeD : d.whole = true
  wholeA : a.whole = true
  freeD : s.capBusy d.c.toNat = false
  freeA : s.capBusy a.c.toNat = false
  empty : s.c d.c.toNat = none
  source : s.c a.c.toNat = some c
  exclusive : c.mode = .exclusive
  grant : c.rights.g = true
  written : s.written s.cur.tile s.cur.ctx c.key = true
  chip : c.chip = s.chip
  recl : (s.ct c.key).recl = none
  current : s.current c = true

theorem cseal_seals (hi : Issues s h w) (hs : Seals s d a c) (ht : (s.ct c.key).tokOut + (s.ct c.key).tokLost = 0)
    (hl : (s.ct c.key).laopen = false) :
    exec (.cseal h d a) s = .next (((((s.setCt c.key
      { s.ct c.key with state := .sealed, maxr := { (s.ct c.key).maxr with w := false } }).rememberEntry c 0 (s.ct c.key)).setC
        a.c.toNat none).setC d.c.toNat (some { c with mode := .sealed, rights := { c.rights with w := false } })).onward h) :=
  issue_ok hi (by
    simp only [wholeCap_of hs.wholeD, wholeCap_of hs.wholeA, capPair_of hs.freeD hs.freeA, noSpec_of hs.prompt,
      need_of (Option.isNone_iff_eq_none.mpr hs.empty), sourceCap_of hs.source, hs.exclusive, beq_self_eq_true, need_of,
      needG_of hs.grant, waitWhile_of (congrArg (! ·) hs.written), consultHome_of hs.chip hs.recl hs.current, ht, hl,
      Nat.lt_irrefl, decide_false, Bool.and_false, Bool.false_eq_true, if_false, Bool.not_true, Bool.not_false, Bool.false_or,
      if_true, ok_bind])

theorem cseal_notOwner (hi : Issues s h w) (hdel : Delivers s w) (hs : Seals s d a c)
    (ht : 0 < (s.ct c.key).tokOut + (s.ct c.key).tokLost) :
    ∃ t, exec (.cseal h d a) s = .next t ∧ Trapped s t w cCapfault cNotowner := by
  refine issue_capFaults hi hdel (creg := a.c.toNat) (va := 0) (ord := 0) (cap := some c) ?_ (by decide)
  simp only [wholeCap_of hs.wholeD, wholeCap_of hs.wholeA, capPair_of hs.freeD hs.freeA, noSpec_of hs.prompt,
    need_of (Option.isNone_iff_eq_none.mpr hs.empty), sourceCap_of hs.source, hs.exclusive, beq_self_eq_true, need_of,
    needG_of hs.grant, waitWhile_of (congrArg (! ·) hs.written), consultHome_of hs.chip hs.recl hs.current, decide_eq_true ht,
    Bool.and_true, if_true, ok_bind]
  rfl

/-- The partition supervisor may reclaim a live buffer of its partition that is not being reclaimed. -/
theorem mayReclaim_supervisor (hk : w.kernel.supv = true) (hc : c.chip = s.chip)
    (hl : (s.ct c.key).state = .exclusive ∨ (s.ct c.key).state = .sealed) (hp : (s.ct c.key).part = w.pnum)
    (hr : (s.ct c.key).recl = none) (i : Nat) : mayReclaim s w i c = .ok () := by
  have hlive : ((s.ct c.key).state == .exclusive || (s.ct c.key).state == .sealed) = true := by simpa using hl
  simp only [mayReclaim, hk, if_true, hlive, hc, hp, hr, beq_self_eq_true, Bool.and_true, Bool.not_true, Bool.false_eq_true,
    if_false, Option.isSome_none, waitWhile_of]

/-- The start of a reclaim of a buffer without lookahead readers. -/
theorem startReclaim_eq {key p : Nat} (hp : (s.ct key).part = p) (hl : (s.ct key).laopen = false) (r : Caller) :
    s.startReclaim key r = s.setCt key { s.ct key with recl := some ⟨r, ((aget? s.parts p).map Part.tiles).getD [],
      ((aget? s.parts p).map Part.tiles).getD []⟩ } := by
  subst hp
  unfold State.startReclaim
  dsimp only
  rw [if_neg (by simp [hl])]
  rfl

/-- An effect that holds its context. -/
theorem issue_waits (hi : Issues s h w) {body : Who → Eff State} {u : State} (hb : body w = .error (u, .wait)) :
    issue s h body = .next u := issue_error hi hb

end

/-- Settles O27: CSEAL at the entry, and the start of a reclaim in its two forms. -/
theorem sealAndReclaim : Obligations.SealAndReclaim := by
  constructor
  · intro s w h d a c hi hp hd ha hbd hba hc hcur hr he hs hm hg hw e
    have hse : Seals s d a c := ⟨hp, hd, ha, hbd, hba, he, hs, hm, hg, hw, hc, hr, hcur⟩
    exact ⟨cseal_seals hi hse, fun ht hdel => cseal_notOwner hi hdel hse ht⟩
  · intro s w h d n c hi hp hd hbd hs hk hc hl hpart hr hla tiles slot begun
    have hmay := mayReclaim_supervisor hk hc hl hpart hr d.c.toNat
    refine ⟨issue_waits hi ?_, fun hn ho => issue_ok hi ?_⟩
    · simp only [wholeCap_of hd, waitWhile_of hbd, noSpec_of hp, sourceCap_of hs, hmay, ok_bind,
        startReclaim_eq hpart hla]
      rfl
    · have hop : (decide (RegImm.nat n s < 256) && ((s.tile s.cur.tile).loc.slot (RegImm.nat n s)).open) = true := by
        simp_all [slot]
      simp only [wholeCap_of hd, waitWhile_of hbd, noSpec_of hp, need_of hop, sourceCap_of hs, hmay, ok_bind,
        startReclaim_eq hpart hla]
      rfl

end Sys2Proof.Machine
end

section
/-!
PROOFS. Posts (R33, R326, R335, R336): what a signal's mark, a post and the count of signals leave and change.
-/

namespace Sys2Proof.Machine

/-! ## The mark of a signal (R33) -/

/-- A signal's mark changes records of the tile only, and lists no other. -/
structure Marked (s u : State) (t : Nat) : Prop where
  mem : u.mem = s.mem
  cur : u.cur = s.cur
  cycle : u.cycle = s.cycle
  chip : u.chip = s.chip
  parts : u.parts = s.parts
  cts : u.cts = s.cts
  core : ∀ n, (u.tile n).core = (s.tile n).core
  loc : ∃ recs, (u.tile t).loc = { (s.tile t).loc with recs := recs }
    ∧ ∀ k, (aget? recs k).isNone = (aget? (s.tile t).loc.recs k).isNone

theorem Marked.refl (s : State) (t : Nat) : Marked s s t := ⟨rfl, rfl, rfl, rfl, rfl, rfl, fun _ => rfl, _, rfl, fun _ => rfl⟩

theorem Marked.ctx {s u : State} {t : Nat} (h : Marked s u t) : u.ctx = s.ctx := by
  simp [State.ctx, State.ctxAt, h.cur, h.core]

/-- A value put where one stood. -/
theorem isNone_aset_of_some {β : Type} {m : Assoc β} {r : Nat} {q : β} (hq : aget? m r = some q) (v : β) (k : Nat) :
    (aget? (aset m r v) k).isNone = (aget? m k).isNone := by
  by_cases hk : k = r
  · subst hk; simp [hq]
  · rw [aget?_aset_ne _ _ hk]

theorem markSignal_marked (s : State) (t : Nat) (n : Option (Nat × Nat)) : Marked s (s.markSignal t n) t := by
  unfold State.markSignal
  split
  · split
    · refine ⟨rfl, rfl, rfl, rfl, rfl, rfl, State.core_onLocal t _, _, State.loc_onLocal_self t _, fun k => ?_⟩
      split
      · rename_i hq
        exact isNone_aset_of_some hq _ k
      · rfl
    · exact .refl s t
  · exact .refl s t

theorem markSignal_records {s : State} {t r i : Nat} {q : TaskRec} (hi : i < 16) (hq : aget? (s.tile t).loc.recs r = some q) :
    aget? ((s.markSignal t (some (r, i))).tile t).loc.recs r
      = some { q with sigmask := q.sigmask ||| BitVec.twoPow 16 i } := by
  simp [State.markSignal, hi, hq]

/-! ## The release of a post (R326, R336) -/

theorem carried_elsewhere (s : State) (t : Nat) (p : Post) : Elsewhere s (s.carried t p) := by
  unfold State.carried
  split
  · split
    · exact .setOwner s _ _ _
    · exact .setOwner s _ _ _
    · exact .refl s
  · split
    · exact .setOwner s _ _ _
    · exact .refl s
  · exact .refl s

theorem setOwner_parts (s : State) (c : Cap) (k : Nat) (a : Place) : (s.setOwner c k a).parts = s.parts := by
  unfold State.setOwner
  split <;> rfl

theorem carried_parts (s : State) (t : Nat) (p : Post) : (s.carried t p).parts = s.parts := by
  unfold State.carried
  split
  · split
    · exact setOwner_parts s _ _ _
    · exact setOwner_parts s _ _ _
    · rfl
  · split
    · exact setOwner_parts s _ _ _
    · rfl
  · rfl

/-- A post of the context whose turn it is that takes effect at once. -/
def State.posted (s : State) (p : Post) (signal : Option Nat) : State :=
  s.takeOrd.release s.cur.tile s.cur.ctx
    { post := p, due := s.horizonDue s.cur.tile, signal := signal.bind fun n => s.ctx.run.task.map fun r => (r, n),
      ord := s.nextOrd, taken := true }

theorem post_ok {s : State} (hp : Prompt s) (p : Post) (signal : Option Nat) : s.post p signal = .ok (s.posted p signal) := by
  obtain ⟨hon, -, hz, hposts, -⟩ := hp
  have hz' : s.takeOrd.shz s.cur.tile = false := hz
  simp [State.post, hon, hz', hposts]
  rfl

theorem postPacket_ok {s : State} {w : Who} (hp : Prompt s) (hq : (s.tile s.cur.tile).core.vn0Used < 32) (dst : Place)
    (len : Nat) (b : Body) (signal : Option Nat) : s.postPacket w dst len b signal
      = .ok (s.posted (.packet (s.corePacket w 0 dst len b) false) signal) := by
  rw [State.postPacket, if_neg (by simp [hq]), post_ok hp]

theorem postPacket_full {s : State} {w : Who} (hp : s.ctx.spec.on = false) (hq : 32 ≤ (s.tile s.cur.tile).core.vn0Used)
    (dst : Place) (len : Nat) (b : Body) (signal : Option Nat) : s.postPacket w dst len b signal = raise s cQfull 0 := by
  rw [State.postPacket, if_pos (by simp [hp, hq])]

/-- The mark and what the post carries, before it takes effect. -/
def State.signed (s : State) (p : Post) (signal : Option Nat) : State :=
  (s.takeOrd.markSignal s.cur.tile (signal.bind fun n => s.ctx.run.task.map fun r => (r, n))).carried s.cur.tile p

/-- What a post that has been marked has changed: the owner of a capability that it carries, the mark in its record, the
order of issue. -/
structure Signed (s u : State) (p : Post) : Prop where
  mem : u.mem = s.mem
  parts : u.parts = s.parts
  cur : u.cur = s.cur
  cycle : u.cycle = s.cycle
  chip : u.chip = s.chip
  ctx : u.ctx = s.ctx
  inj : (u.tile s.cur.tile).core.inj = (s.tile s.cur.tile).core.inj
  loc : ∃ recs, (u.tile s.cur.tile).loc = { (s.tile s.cur.tile).loc with recs := recs }
    ∧ ∀ k, (aget? recs k).isNone = (aget? (s.tile s.cur.tile).loc.recs k).isNone

theorem takeOrd_givenUp (s : State) : GivenUp s s.takeOrd := by
  unfold State.takeOrd
  exact .onCore _ _ _ fun _ => rfl

theorem signed_spec (s : State) (p : Post) (signal : Option Nat) : Signed s (s.signed p signal) p := by
  have hm := markSignal_marked s.takeOrd s.cur.tile (signal.bind fun n => s.ctx.run.task.map fun r => (r, n))
  have hc := carried_elsewhere (s.takeOrd.markSignal s.cur.tile (signal.bind fun n => s.ctx.run.task.map fun r => (r, n)))
    s.cur.tile p
  obtain ⟨recs, hl, hk⟩ := hm.loc
  refine ⟨hc.mem.trans hm.mem, (carried_parts _ _ _).trans hm.parts, hc.cur.trans hm.cur, hc.cycle.trans hm.cycle, hc.chip.trans hm.chip,
    hc.ctx.trans (hm.ctx.trans (takeOrd_givenUp s).ctx), ?_, recs, ?_, ?_⟩
  · rw [State.signed, hc.tile, hm.core]
    simp [State.takeOrd]
  · rw [State.signed, hc.tile, hl]
    simp [State.takeOrd]
  · simpa [State.takeOrd] using hk

theorem signed_record {s : State} {p : Post} {n r : Nat} {q : TaskRec} (hn : n < 16) (hr : s.ctx.run.task = some r)
    (hq : aget? (s.tile s.cur.tile).loc.recs r = some q) :
    aget? ((s.signed p (some n)).tile s.cur.tile).loc.recs r
      = some { q with sigmask := q.sigmask ||| BitVec.twoPow 16 n } := by
  have hq' : aget? (s.takeOrd.tile s.cur.tile).loc.recs r = some q := by simpa [State.takeOrd] using hq
  rw [State.signed, (carried_elsewhere _ _ _).tile, Option.bind_some, hr, Option.map_some]
  exact markSignal_records hn hq'

theorem setOwner_cts {s u : State} (hcts : u.cts = s.cts) (hchip : u.chip = s.chip) (c : Cap) (k : Nat) (a : Place) :
    (u.setOwner c k a).cts = (s.setOwner c k a).cts := by
  have hct : u.ct = s.ct := by
    funext key
    simp [State.ct, hcts]
  have hcur : u.current c = s.current c := by simp [State.current, hchip, hct]
  unfold State.setOwner
  rw [hcur]
  split
  · simp [State.onCt, State.setCt, hct, hcts]
  · exact hcts

/-- The CT entries after a packet's release are those that its capability's owner leaves. -/
theorem signed_packet_cts (s : State) (q : Packet) (r : Bool) (signal : Option Nat) :
    (s.signed (.packet q r) signal).cts = (s.carried s.cur.tile (.packet q r)).cts := by
  have hm := markSignal_marked s.takeOrd s.cur.tile (signal.bind fun n => s.ctx.run.task.map fun r => (r, n))
  unfold State.signed State.carried
  dsimp only
  split
  · exact setOwner_cts (s := s) hm.cts hm.chip _ _ _
  · exact setOwner_cts (s := s) hm.cts hm.chip _ _ _
  · exact hm.cts

/-- A packet of `s` has joined the injection queue. -/
structure Injected (s u : State) (q : Packet) : Prop where
  mem : u.mem = s.mem
  parts : u.parts = s.parts
  cur : u.cur = s.cur
  cycle : u.cycle = s.cycle
  regs : u.ctx.regs = s.ctx.regs
  inj : (u.tile s.cur.tile).core.inj = (s.tile s.cur.tile).core.inj ++ [⟨q.vn, s.cur.ctx, false, q, s.nextOrd⟩]
  cts : u.cts = (s.carried s.cur.tile (.packet q false)).cts

theorem ctx_onCore (s : State) (t : Nat) (f : CoreSt → CoreSt) (hf : ∀ k, (f k).ctxs = k.ctxs) : (s.onCore t f).ctx = s.ctx :=
  (GivenUp.onCore s t f hf).ctx

/-- A packet that takes effect joins the injection queue. -/
theorem posted_packet (s : State) (q : Packet) (signal : Option Nat) : Injected s (s.posted (.packet q false) signal) q := by
  have hs := signed_spec s (.packet q false) signal
  have hc := signed_packet_cts s q false signal
  change Injected s ((s.signed (.packet q false) signal).onCore s.cur.tile fun k =>
      { k with inj := k.inj ++ [⟨q.vn, s.cur.ctx, false, q, s.nextOrd⟩] }) q
  generalize s.signed (.packet q false) signal = v at hs hc ⊢
  refine ⟨hs.mem, hs.parts, hs.cur, hs.cycle, congrArg Context.regs ((ctx_onCore _ _ _ (by exact fun _ => rfl)).trans hs.ctx), ?_,
    hc⟩
  rw [State.core_onCore_self, hs.inj]

theorem State.inj_onCtx (u : State) (f : Context → Context) (n : Nat) :
    ((u.onCtx f).tile n).core.inj = (u.tile n).core.inj := by
  unfold State.onCtx State.onCtxAt
  by_cases hn : n = u.cur.tile
  · subst hn; simp
  · rw [State.tile_setCtxAt_ne _ _ _ hn]

theorem Injected.onRun {s u : State} {q : Packet} (h : Injected s u q) (g : Run → Run) : Injected s (u.onRun g) q :=
  ⟨h.mem, h.parts, h.cur, h.cycle, (congrArg Context.regs (State.ctx_onCtx _ _)).trans h.regs,
    (State.inj_onCtx _ _ _).trans h.inj, h.cts⟩

theorem posted_packet_run (s : State) (q : Packet) (signal : Option Nat) :
    (s.posted (.packet q false) signal).ctx.run = s.ctx.run := by
  have hs := signed_spec s (.packet q false) signal
  change ((s.signed (.packet q false) signal).onCore s.cur.tile fun k =>
      { k with inj := k.inj ++ [⟨q.vn, s.cur.ctx, false, q, s.nextOrd⟩] }).ctx.run = _
  generalize s.signed (.packet q false) signal = v at hs ⊢
  exact congrArg Context.run ((ctx_onCore _ _ _ (by exact fun _ => rfl)).trans hs.ctx)

/-- The records are those after the mark. -/
theorem posted_packet_loc (s : State) (q : Packet) (signal : Option Nat) :
    ((s.posted (.packet q false) signal).tile s.cur.tile).loc = ((s.signed (.packet q false) signal).tile s.cur.tile).loc :=
  State.loc_onCore s.cur.tile (fun k => { k with inj := k.inj ++ [⟨q.vn, s.cur.ctx, false, q, s.nextOrd⟩] }) _

/-- A kick entry that takes effect becomes visible. -/
theorem posted_kick (s : State) (e : Nat) (signal : Option Nat) :
    s.posted (.kick e) signal = (s.signed (.kick e) signal).onLocal s.cur.tile fun l => { l with kicks := match aget? l.kicks e with
      | some v => aset l.kicks e { v with state := .queued }
      | none => l.kicks } := rfl

/-! ## Posts at issue -/

section
variable {s s' : State} {h : Hint} {w : Who}

theorem byte_of_mem {u : State} (hm : u.mem = s.mem) (hp : u.parts = s.parts) (a : Nat) : u.byte a = s.byte a := by
  simp [State.byte, State.genOf, hm, hp]

/-- What an instruction leaves before it posts, of what a post reads: registers changed by `f`, the rest of the context, the
turn, every byte, the injection queue, the order of issue. -/
structure Prepared (s s' : State) (f : Regs → Regs) : Prop where
  regs : s'.ctx.regs = f s.ctx.regs
  run : s'.ctx.run = s.ctx.run
  pc : (f s.ctx.regs).pc = s.ctx.regs.pc
  cur : s'.cur = s.cur
  cycle : s'.cycle = s.cycle
  byte : SameMemory s s'
  inj : (s'.tile s.cur.tile).core.inj = (s.tile s.cur.tile).core.inj
  ord : s'.nextOrd = s.nextOrd
  recs : (s'.tile s.cur.tile).loc.recs = (s.tile s.cur.tile).loc.recs

theorem Prepared.refl (s : State) : Prepared s s id := ⟨rfl, rfl, rfl, rfl, rfl, fun _ => rfl, rfl, rfl, rfl⟩

/-- A packet in the injection queue, PC advanced. -/
theorem Injected.sent {f : Regs → Regs} (hp : Prepared s s' f) {u : State} {q : Packet} (hq : Injected s' u q) (h : Hint) :
    Sent s (u.onward h) h f q := by
  have hregs : u.regs = f s.regs := hq.regs.trans hp.regs
  have hinj := hq.inj
  rw [hp.cur, hp.inj, hp.ord] at hinj
  refine ⟨?_, ?_, advanced_onward (hq.cur.trans hp.cur) (hq.cycle.trans hp.cycle) (by rw [hregs]; exact hp.pc), fun a => ?_⟩
  · rw [onward_eq_stepped]
    exact (State.inj_onCtx _ _ _).trans hinj
  · rw [onward_regs, hregs, show (f s.regs).pc = s.regs.pc from hp.pc]
  · exact (byte_of_mem hq.mem hq.parts a).trans (hp.byte a)

/-- An instruction whose effect leaves a packet in the injection queue. -/
theorem issue_injects (hi : Issues s h w) {f : Regs → Regs} (hp : Prepared s s' f) {body : Who → Eff State} {q : Packet}
    {u : State} (hq : Injected s' u q) (hb : body w = .ok u) :
    ∃ v, issue s h body = .next v ∧ Sent s v h f q
      ∧ v.ctx.run = { u.ctx.run with rejected := [], issueAt := s.cycle + 1 + h.stag.toNat }
      ∧ v.cts = (s'.carried s'.cur.tile (.packet q false)).cts := by
  refine ⟨_, issue_ok hi hb, hq.sent hp h, ?_, hq.cts⟩
  change (u.onward h).ctx.run = _
  rw [onward_eq_stepped, stepped_ctx, show u.cycle = s'.cycle from hq.cycle, hp.cycle]

/-! ## Signals at issue (R33) -/

/-- A signal counted. -/
def Run.counted (r : Run) : Run := { r with nsig := r.nsig + 1 }

/-- A signal that no earlier run has sent. -/
theorem issueSignal_ok (hi : Issues s h w) (hf : Fresh s w) {body : Who → Nat → Eff State} {u : State}
    (hb : body w s.ctx.run.nsig = .ok u) : issueSignal s h body = .next ((u.onRun Run.counted).onward h) := by
  refine issue_ok hi ?_
  have hf' : (decide (0 < w.task.retries) && decide (s.ctx.run.nsig < 16) && w.task.sigmask.getLsbD s.ctx.run.nsig) = false := by
    simpa [Fresh] using hf
  simp only [hf', Bool.false_eq_true, if_false, hb]
  rfl

theorem issueSignal_raises (hi : Issues s h w) (hd : Delivers s w) (hf : Fresh s w) {body : Who → Nat → Eff State}
    {code sub : Nat} (hb : body w s.ctx.run.nsig = raise s code sub) (hw : (code == cWdog) = false) (hc : code < 256)
    (hs : sub < 256) : ∃ u, issueSignal s h body = .next u ∧ Trapped s u w code sub := by
  refine issue_raises hi hd ?_ hw hc hs
  have hf' : (decide (0 < w.task.retries) && decide (s.ctx.run.nsig < 16) && w.task.sigmask.getLsbD s.ctx.run.nsig) = false := by
    simpa [Fresh] using hf
  simp only [hf', Bool.false_eq_true, if_false, hb]
  rfl

/-- A signal that an earlier run has sent. -/
theorem issueSignal_sent (hi : Issues s h w) (hf : ¬Fresh s w) (body : Who → Nat → Eff State) :
    issueSignal s h body = .next ((s.onRun Run.counted).onward h) := by
  refine issue_ok hi (if_pos ?_)
  simpa [Fresh, and_assoc] using hf

theorem State.loc_onward (u : State) (h : Hint) (n : Nat) : ((u.onward h).tile n).loc = (u.tile n).loc := by
  rw [onward_eq_stepped]
  exact State.loc_onCtx _ _

/-- The count and the mark of a signal that a post has sent. -/
theorem signalled_of {f : Regs → Regs} (hp : Prepared s s' f) {u : State} {p : Post} (hrun : u.ctx.run = s'.ctx.run)
    (hrecs : (u.tile s.cur.tile).loc.recs = ((s'.signed p (some s.ctx.run.nsig)).tile s.cur.tile).loc.recs) (h : Hint) :
    Signalled s ((u.onRun Run.counted).onward h) := by
  refine ⟨?_, fun r q hr hq hn => ?_⟩
  · rw [onward_eq_stepped, stepped_ctx, State.onRun_eq, State.ctx_onCtx, hrun, hp.run]
    rfl
  · have hq' : aget? (s'.tile s'.cur.tile).loc.recs r = some q := by rw [hp.cur, hp.recs, hq]
    have hr' : s'.ctx.run.task = some r := by rw [hp.run, hr]
    have hm := signed_record (s := s') (p := p) hn hr' hq'
    rw [hp.cur, ← hrecs] at hm
    refine ⟨{ q with sigmask := q.sigmask ||| BitVec.twoPow 16 s.ctx.run.nsig }, ?_, rfl⟩
    rw [State.loc_onward]
    exact (congrArg (fun l : Local => aget? l.recs r) (State.loc_onCtx _ _)).trans hm

/-- A signal that posts a packet. -/
theorem issueSignal_posts (hi : Issues s h w) (hf : Fresh s w) {f : Regs → Regs} (hp : Prepared s s' f)
    {body : Who → Nat → Eff State} {q : Packet} (hb : body w s.ctx.run.nsig = .ok (s'.posted (.packet q false) (some s.ctx.run.nsig))) :
    ∃ u, issueSignal s h body = .next u ∧ Sent s u h f q ∧ Signalled s u
      ∧ u.cts = (s'.carried s'.cur.tile (.packet q false)).cts := by
  have hq := posted_packet s' q (some s.ctx.run.nsig)
  refine ⟨_, issueSignal_ok hi hf hb, (hq.onRun _).sent hp h, ?_, hq.cts⟩
  refine signalled_of hp (p := .packet q false) (posted_packet_run _ _ _) ?_ h
  exact congrArg Local.recs (hp.cur ▸ posted_packet_loc s' q (some s.ctx.run.nsig))

end

end Sys2Proof.Machine
end

section
/-!
PROOFS. Messages, increments and remote creations post one packet (R337, R340, R341, R344, R346, R348).
-/

namespace Sys2Proof.Machine

variable {s : State} {h : Hint} {w : Who}

/-- A signal whose body posts a VN0 packet without a capability. -/
theorem signal_sends (hi : Issues s h w) (hp : Prompt s) (hf : Fresh s w) (hq : (s.tile s.cur.tile).core.vn0Used < 32)
    {body : Who → Nat → Eff State} {dst : Place} {len : Nat} {b : Body}
    (hb : body w s.ctx.run.nsig = s.postPacket w dst len b (some s.ctx.run.nsig))
    (hc : (s.carried s.cur.tile (.packet (s.corePacket w 0 dst len b) false)).cts = s.cts) :
    ∃ u, issueSignal s h body = .next u ∧ Sent s u h id (s.corePacket w 0 dst len b) ∧ Signalled s u ∧ u.cts = s.cts := by
  obtain ⟨u, hu, hsent, hsig, hcts⟩ := issueSignal_posts hi hf (.refl s) (hb.trans (postPacket_ok hp hq _ _ _ _))
  exact ⟨u, hu, hsent, hsig, hcts.trans hc⟩

theorem messageOperands_of {n : Nat} {a : Imm} {b : Reg} (ha : (immWord a).toNat ≤ 15) (hg : groupOk b n = true)
    (hb : n ≠ 0 ∨ b = 0) : messageOperands s n a b = .ok () :=
  need_of (by simpa [ha, hg] using hb)

section
variable {n : BitVec 4} {d b : Reg} {a : Imm} {p : Place}

theorem sendq_message (hi : Issues s h w) (hp : Prompt s) (hdst : checkDest s w (s.x d) ⟨true, false, true⟩ = .ok p)
    (ha : (immWord a).toNat ≤ 15) (hg : groupOk b n.toNat = true) (hb : n ≠ 0 ∨ b = 0) (hm : bit (s.x d).toNat 28 = false)
    (hf : Fresh s w) (hq : (s.tile s.cur.tile).core.vn0Used < 32) :
    ∃ u, exec (.sendq h n d a b) s = .next u
      ∧ Sent s u h id (s.corePacket w 0 p (16 + 8 * n.toNat) (messageBody (immWord a).toNat
          (word (field (s.x d).toNat 32 32)) (s.group b n.toNat) none)) ∧ Signalled s u ∧ u.cts = s.cts := by
  have hop := messageOperands_of (s := s) (n := n.toNat) ha hg (hb.imp_left fun h => by simpa using BitVec.toNat_ne.mp h)
  unfold exec execSendq
  refine signal_sends hi hp hf hq ?_ ?_
  · simp only [hdst, hop, hm, Bool.false_eq_true, if_false, ok_bind]
  · rfl

theorem sendq_mgmt (hi : Issues s h w) (hp : Prompt s) (hdst : checkDest s w (s.x d) ⟨true, false, true⟩ = .ok p)
    (ha : (immWord a).toNat ≤ 15) (hg : groupOk b n.toNat = true) (hb : n ≠ 0 ∨ b = 0) (hm : bit (s.x d).toNat 28 = true)
    (hf : Fresh s w) (hq : (s.tile s.cur.tile).core.vn0Used < 32) :
    ∃ u, exec (.sendq h n d a b) s = .next u
      ∧ Sent s u h id (s.corePacket w 0 ⟨s.chip, fabricTile⟩ (16 + 8 * n.toNat) (mgmtBody (field (s.x d).toNat 32 32) true
          (s.group b n.toNat) none p.tile (immWord a).toNat)) ∧ Signalled s u ∧ u.cts = s.cts := by
  have hop := messageOperands_of (s := s) (n := n.toNat) ha hg (hb.imp_left fun h => by simpa using BitVec.toNat_ne.mp h)
  unfold exec execSendq
  refine signal_sends hi hp hf hq ?_ rfl
  simp only [hdst, hop, hm, if_true, ok_bind]

theorem replyq_sends (hi : Issues s h w) (hp : Prompt s) (hdst : checkDest s w (s.x d) ⟨true, false, false⟩ = .ok p)
    (ha : (immWord a).toNat ≤ 15) (hg : groupOk b n.toNat = true) (hb : n ≠ 0 ∨ b = 0) (hr : firstReply s.ctx = false)
    (hq : (s.tile s.cur.tile).core.vn1Used < 16) :
    ∃ u, exec (.replyq h n d a b) s = .next u
      ∧ Sent s u h id (s.corePacket w 1 p (16 + 8 * n.toNat) (messageBody (immWord a).toNat
          (word (field (s.x d).toNat 32 32)) (s.group b n.toNat) none))
      ∧ u.ctx.run.nsig = s.ctx.run.nsig ∧ u.cts = s.cts := by
  have hop := messageOperands_of (s := s) (n := n.toNat) ha hg (hb.imp_left fun h => by simpa using BitVec.toNat_ne.mp h)
  have hw : (!s.ctx.spec.on && !false && decide (16 ≤ (s.tile s.cur.tile).core.vn1Used)) = false := by simp [hq]
  unfold exec execReplyq
  refine (issue_injects hi (.refl s) (posted_packet s _ none) ?_).imp
    fun v ⟨hv, hsent, hrun, hcts⟩ => ⟨hv, hsent, by rw [hrun, posted_packet_run], hcts⟩
  simp only [hdst, hop, hr, waitWhile_of hw, ok_bind, post_ok hp]

theorem sendr_sends (hi : Issues s h w) (hp : Prompt s) {l : LandDest} {at' : LandAt} {r : RegImm} (hl : landPlace s w l = .ok at')
    (hf : Fresh s w) (hq : (s.tile s.cur.tile).core.vn0Used < 32) :
    ∃ u, exec (.sendr h l r) s = .next u
      ∧ Sent s u h id (s.corePacket w 0 at'.place 24 (.land at'.reg [RegImm.value r s])) ∧ Signalled s u ∧ u.cts = s.cts := by
  unfold exec execSendr
  refine signal_sends hi hp hf hq ?_ rfl
  simp only [hl, ok_bind]

section
variable {ra rb : RegImm}

theorem minc_sends (hi : Issues s h w) (hp : Prompt s) (hdst : checkDest s w (s.x d) ⟨false, false, false⟩ = .ok p)
    (hc : RegImm.nat ra s < 256) (hf : Fresh s w) (hq : (s.tile s.cur.tile).core.vn0Used < 32) :
    ∃ u, exec (.minc h d ra rb) s = .next u
      ∧ Sent s u h id (s.corePacket w 0 p 16 (.inc (RegImm.nat ra s) (RegImm.nat rb s % 2 ^ 32) (p == ⟨s.chip, s.cur.tile⟩)))
      ∧ Signalled s u ∧ u.cts = s.cts := by
  unfold exec execMinc
  refine signal_sends hi hp hf hq ?_ rfl
  simp only [hdst, need_of (decide_eq_true hc), ok_bind]

theorem minc_full (hi : Issues s h w) (hd : Delivers s w) (hdst : checkDest s w (s.x d) ⟨false, false, false⟩ = .ok p)
    (hc : RegImm.nat ra s < 256) (hf : Fresh s w) (hq : 32 ≤ (s.tile s.cur.tile).core.vn0Used) :
    ∃ u, exec (.minc h d ra rb) s = .next u ∧ Trapped s u w cQfull 0 := by
  unfold exec execMinc
  refine issueSignal_raises hi hd hf ?_ (by decide) (by decide) (by decide)
  simp only [hdst, need_of (decide_eq_true hc), postPacket_full hd.2.2 hq, ok_bind]

end

theorem spawnr_sends (hi : Issues s h w) (hp : Prompt s) {img : RecImage}
    (hdst : checkDest s w (s.x d) ⟨false, false, false⟩ = .ok p) (hchip : p.chip = s.chip)
    (ht : w.kernel.tiles.contains p.tile = true) (hg : groupOk b n.toNat = true) (himg : constImage s w a = .ok (s, img))
    (hf : Fresh s w) (hq : (s.tile s.cur.tile).core.vn0Used < 32) :
    ∃ u, exec (.spawnr h n d a b) s = .next u
      ∧ Sent s u h id (s.corePacket w 0 p (144 + 8 * n.toNat)
          (.spawn img (createdWords s.chip s.cur.tile (s.group b n.toNat)) (recOffset w.rec')))
      ∧ Signalled s u ∧ u.cts = s.cts := by
  have hplace : (p.chip != s.chip || !w.kernel.tiles.contains p.tile) = false := by simp only [hchip, ht, bne_self_eq_false]; rfl
  unfold exec execSpawnr
  refine signal_sends hi hp hf hq ?_ rfl
  simp only [hdst, hplace, Bool.false_eq_true, if_false, need_of hg, himg, ok_bind]

end

/-- Settles O36: each instruction passes its checks and posts its packet. -/
theorem messageResults : Obligations.MessageResults := by
  intro s w h n d b a l ra rb p at' img hi hp tile x words hdr signals
  refine ⟨fun hdst ha hg hb => ⟨fun hm hf hq => ?_, fun hm hf hq => ?_⟩,
    fun hdst ha hg hb hr hq => replyq_sends hi hp hdst ha hg hb hr hq, fun hl hf hq => sendr_sends hi hp hl hf hq,
    fun hdst hc => ⟨fun hf hq => minc_sends hi hp hdst hc hf hq, fun hf hq hd => minc_full hi hd hdst hc hf hq,
      fun hf => ?_⟩, fun hdst hchip ht hg himg hf hq => spawnr_sends hi hp hdst hchip ht hg himg hf hq⟩
  · exact sendq_message hi hp hdst ha hg hb hm hf hq
  · exact sendq_mgmt hi hp hdst ha hg hb hm hf hq
  · unfold exec execMinc
    exact issueSignal_sent hi hf _

end Sys2Proof.Machine
end

section
/-!
PROOFS. SENDC (R62 to R64, R342): a capability sent, or given to the steward for a copy.
-/

namespace Sys2Proof.Machine

section
variable {s s' : State} {h : Hint} {w : Who}

/-! ## Kick entries that become visible (R307) -/

theorem signed_kick_cts {e : Nat} {k : Kick} (hk : aget? (s.tile s.cur.tile).loc.kicks e = some k) (signal : Option Nat) :
    (s.signed (.kick e) signal).cts
      = (match k.cap with | some c => s.setOwner c 1 ⟨s.chip, s.cur.tile⟩ | none => s).cts := by
  have hm := markSignal_marked s.takeOrd s.cur.tile (signal.bind fun n => s.ctx.run.task.map fun r => (r, n))
  obtain ⟨recs, hl, -⟩ := hm.loc
  have hk' : aget? ((s.takeOrd.markSignal s.cur.tile (signal.bind fun n => s.ctx.run.task.map fun r => (r, n))).tile
      s.cur.tile).loc.kicks e = some k := by
    rw [hl]
    simpa [State.takeOrd] using hk
  unfold State.signed State.carried
  simp only [hk', Option.bind_some]
  cases k.cap with
  | none => exact hm.cts
  | some c =>
    rw [setOwner_cts (s := s) hm.cts hm.chip]
    exact congrArg (fun n => (s.setOwner c 1 ⟨n, s.cur.tile⟩).cts) hm.chip

/-- A signal whose effect makes a kick entry visible. -/
theorem issueSignal_kicks (hi : Issues s h w) (hf : Fresh s w) {f : Regs → Regs} (hp : Prepared s s' f) {e : Nat} {k : Kick}
    (hk : aget? (s'.tile s.cur.tile).loc.kicks e = some k) {body : Who → Nat → Eff State}
    (hb : body w s.ctx.run.nsig = .ok (s'.posted (.kick e) (some s.ctx.run.nsig))) :
    ∃ u, issueSignal s h body = .next u ∧ u.regs = { f s.regs with pc := s.regs.pc + 12, resume := .none }
      ∧ Advanced s u h ∧ SameMemory s u ∧ Signalled s u
      ∧ u.cts = (match k.cap with | some c => s'.setOwner c 1 ⟨s'.chip, s.cur.tile⟩ | none => s').cts
      ∧ aget? (u.tile s.cur.tile).loc.kicks e = some { k with state := .queued } := by
  have hs := signed_spec s' (.kick e) (some s.ctx.run.nsig)
  have hk' : aget? (s'.tile s'.cur.tile).loc.kicks e = some k := by rw [hp.cur]; exact hk
  have hcts := signed_kick_cts hk' (some s.ctx.run.nsig)
  obtain ⟨recs, hl, -⟩ := hs.loc
  let g : Local → Local := fun l => { l with kicks := match aget? l.kicks e with
    | some v => aset l.kicks e { v with state := .queued }
    | none => l.kicks }
  have hposted : s'.posted (.kick e) (some s.ctx.run.nsig) = (s'.signed (.kick e) (some s.ctx.run.nsig)).onLocal s'.cur.tile g := rfl
  have hsig := signalled_of (p := .kick e) (h := h) hp
    (u := (s'.signed (.kick e) (some s.ctx.run.nsig)).onLocal s'.cur.tile g)
  refine ⟨_, issueSignal_ok hi hf hb, ?_⟩
  rw [hposted]
  generalize s'.signed (.kick e) (some s.ctx.run.nsig) = v at hs hcts hl hsig ⊢
  have hctx : (v.onLocal s'.cur.tile g).ctx = s'.ctx := (State.ctx_onLocal _ _).trans hs.ctx
  have hregs : ((v.onLocal s'.cur.tile g).onRun Run.counted).regs = f s.regs := by
    rw [State.onRun_eq, State.regs_onCtx, hctx, hp.regs]
    rfl
  refine ⟨?_, advanced_onward (hs.cur.trans hp.cur) (hs.cycle.trans hp.cycle) (by rw [hregs]; exact hp.pc),
    fun a => (byte_of_mem hs.mem hs.parts a).trans (hp.byte a), hsig (congrArg Context.run hctx) ?_, ?_, ?_⟩
  · rw [onward_regs, hregs, show (f s.regs).pc = s.regs.pc from hp.pc]
  · rw [hp.cur, State.loc_onLocal_self]
  · rw [hp.cur] at hcts
    exact hcts
  · rw [State.loc_onward, State.onRun_eq, State.loc_onCtx, hp.cur, State.loc_onLocal_self]
    rw [hp.cur] at hl
    simp only [g, hl, hk, aget?_aset_self]

/-! ## What SENDC and KICK change before they post -/

namespace Prepared

variable {f : Regs → Regs}

theorem setC (hp : Prepared s s' f) (i : Nat) (v : Option Cap) : Prepared s (s'.setC i v) fun r => (f r).writeC i v where
  regs := by rw [State.setC_eq, State.ctx_onCtx, hp.regs]
  run := by rw [State.setC_eq, State.ctx_onCtx, hp.run]
  pc := (Regs.writeC_pc _ _ _).trans hp.pc
  cur := hp.cur
  cycle := hp.cycle
  byte := hp.byte
  inj := (State.inj_onCtx _ _ _).trans hp.inj
  ord := by
    rw [← hp.ord]
    simp [State.nextOrd, State.setC_eq, State.onCtx, State.onCtxAt]
  recs := (congrArg Local.recs (State.loc_onCtx _ _)).trans hp.recs

theorem dropValidation (hp : Prepared s s' f) (c : Cap) : Prepared s (s'.dropValidation s.cur.tile c) f where
  regs := (congrArg Context.regs (ctx_onCore s' s.cur.tile _ (by exact fun _ => rfl))).trans hp.regs
  run := (congrArg Context.run (ctx_onCore s' s.cur.tile _ (by exact fun _ => rfl))).trans hp.run
  pc := hp.pc
  cur := hp.cur
  cycle := hp.cycle
  byte := hp.byte
  inj := by
    rw [← hp.inj]
    simp [State.dropValidation]
  ord := by
    rw [← hp.ord]
    simp [State.nextOrd, State.dropValidation, hp.cur]
  recs := (congrArg Local.recs (State.loc_onCore _ _ _)).trans hp.recs

/-- An update of what the tile's tasks share that leaves the records alone. -/
theorem onLocal (hp : Prepared s s' f) (g : Local → Local) (hg : ∀ l, (g l).recs = l.recs) :
    Prepared s (s'.onLocal s.cur.tile g) f where
  regs := (congrArg Context.regs (State.ctx_onLocal _ _)).trans hp.regs
  run := (congrArg Context.run (State.ctx_onLocal _ _)).trans hp.run
  pc := hp.pc
  cur := hp.cur
  cycle := hp.cycle
  byte := hp.byte
  inj := (congrArg CoreSt.inj (State.core_onLocal _ _ _)).trans hp.inj
  ord := by
    rw [← hp.ord]
    simp [State.nextOrd]
  recs := by rw [State.loc_onLocal_self, hg, hp.recs]

end Prepared

/-! ## SENDC -/

section
variable {d b : Reg} {a : CapOp} {p : Place} {c : Cap} {pol : Policy}

theorem destForm_of_checkDest {x : Word} {r : DestRule} (hd : checkDest s w x r = .ok p) :
    destForm s w x r = .ok () ∧ destPlace s w x = .ok p := by
  unfold checkDest at hd
  cases hf : destForm s w x r with
  | ok u => rw [hf] at hd; exact ⟨rfl, hd⟩
  | error e => rw [hf] at hd; cases hd

theorem localPost_of (hs : s.settled s.cur.tile s.cur.ctx = true) : localPost s = .ok () := waitWhile_of (by simp [hs])

/-- The checks of SENDC. -/
structure Sends (s : State) (w : Who) (d : Reg) (a : CapOp) (c : Cap) (p : Place) : Prop where
  prompt : Prompt s
  fresh : Fresh s w
  wholeA : a.whole = true
  freeA : s.capBusy a.c.toNat = false
  source : s.c a.c.toNat = some c
  grant : c.rights.g = true
  dest : checkDest s w (s.x d) ⟨true, true, true⟩ = .ok p
  reserved : field (s.x d).toNat 40 24 = 0
  plain : bit (s.x d).toNat 28 = false

/-- The state from which SENDC posts: the capability has left its register and the validation cache. -/
def State.capSent (s : State) (i : Nat) (c : Cap) : State := (s.setC i none).dropValidation s.cur.tile c

theorem prompt_capSent (hp : Prompt s) (i : Nat) (c : Cap) : Prompt (s.capSent i c) := by
  have hctx : (s.capSent i c).ctx = { s.ctx with regs := s.ctx.regs.writeC i none } :=
    (ctx_onCore _ _ _ (by exact fun _ => rfl)).trans (by rw [State.setC_eq, State.ctx_onCtx])
  obtain ⟨hon, hheld, hz, hposts, hlog⟩ := hp
  refine ⟨?_, ?_, hz, ?_, ?_⟩ <;> rw [hctx] <;> assumption

theorem sendc_transfers (hi : Issues s h w) (hs : Sends s w d a c p) (hcopy : actsAsCopy pol c p = false)
    (hq : (s.tile s.cur.tile).core.vn0Used < 32) :
    ∃ u, exec (.sendc h pol d a b) s = .next u
      ∧ Sent s u h (fun r => r.writeC a.c.toNat none)
          (s.corePacket w 0 p 40 (.msg (field (s.x d).toNat 24 4) (word cOk) (s.x b) 0 0 (some c)))
      ∧ Signalled s u ∧ u.cts = (s.setOwner c 2 p).cts := by
  obtain ⟨hform, hplace⟩ := destForm_of_checkDest hs.dest
  have hfull : (!s.ctx.spec.on && decide (32 ≤ (s.tile s.cur.tile).core.vn0Used)) = false := by simp [hq]
  unfold exec execSendc
  refine (issueSignal_posts (s' := s.capSent a.c.toNat c) hi hs.fresh (((Prepared.refl s).setC _ none).dropValidation c) ?_).imp
    fun u ⟨hu, hsent, hsig, hcts⟩ => ⟨hu, hsent, hsig, hcts.trans (setOwner_cts (s := s) (u := s.capSent _ c) rfl rfl c 2 p)⟩
  simp only [hform, need_of (beq_iff_eq.mpr hs.reserved), hplace, wholeCap_of hs.wholeA, waitWhile_of hs.freeA, hs.source, hs.grant,
    hs.plain, hcopy, hfull, Bool.not_false, Bool.not_true, Bool.true_and, Bool.false_and, Bool.or_self, Bool.false_eq_true, if_false, ok_bind]
  exact post_ok (prompt_capSent hs.prompt _ _) _ _

/-- The kick entry that SENDC or KICK writes, before it becomes visible. -/
def State.kickPut (s : State) (e : Nat) (k : Kick) : State :=
  s.onLocal s.cur.tile fun l => { l with kicks := aset l.kicks e k, kickSeq := (l.kickSeq + 1) % 2 ^ 32 }

theorem kickEntry_ok {e : Nat} (he : freeKey (s.tile s.cur.tile).loc.kicks (upto 64) = some e) (kind pslot : Nat)
    (cap : Option Cap) (args : List Word) : s.kickEntry w kind pslot cap args
      = .ok (s.kickPut e ⟨.held, kind, cap, s.cur.ctx, w.kslot, pslot, (s.tile s.cur.tile).loc.kickSeq, args⟩, e) := by
  simp only [State.kickEntry, he]
  rfl

theorem prompt_kickPut (hp : Prompt s) (e : Nat) (k : Kick) : Prompt (s.kickPut e k) := by
  have hctx : (s.kickPut e k).ctx = s.ctx := State.ctx_onLocal _ _
  obtain ⟨hon, hheld, hz, hposts, hlog⟩ := hp
  refine ⟨?_, ?_, hz, ?_, ?_⟩ <;> rw [hctx] <;> assumption

theorem Prepared.kickPut (s : State) (e : Nat) (k : Kick) : Prepared s (s.kickPut e k) id :=
  (Prepared.refl s).onLocal _ fun _ => rfl

theorem kicks_kickPut (e : Nat) (k : Kick) : aget? ((s.kickPut e k).tile s.cur.tile).loc.kicks e = some k := by
  simp [State.kickPut]

theorem sendc_copies (hi : Issues s h w) (hs : Sends s w d a c p) (hcopy : actsAsCopy pol c p = true) (hr : c.rights.r = true)
    (hset : s.settled s.cur.tile s.cur.ctx = true) {e : Nat} (he : freeKey (s.tile s.cur.tile).loc.kicks (upto 64) = some e) :
    ∃ u, exec (.sendc h pol d a b) s = .next u
      ∧ u.regs = { s.regs.writeC a.c.toNat none with pc := s.regs.pc + 12, resume := .none } ∧ Advanced s u h
      ∧ SameMemory s u ∧ Signalled s u ∧ u.cts = (s.setOwner c 1 ⟨s.chip, s.cur.tile⟩).cts
      ∧ aget? (u.tile s.cur.tile).loc.kicks e = some
        { state := .queued, kind := 1, cap := some c, ctx := s.cur.ctx, kslot := w.kslot, pslot := field (s.x d).toNat 32 8,
          seq := (s.tile s.cur.tile).loc.kickSeq,
          args := [word ((placeWord p).toNat + field (s.x d).toNat 24 4 * 2 ^ 24), s.x b, 0, 0] } := by
  obtain ⟨hform, hplace⟩ := destForm_of_checkDest hs.dest
  let k : Kick := ⟨.held, 1, some c, s.cur.ctx, w.kslot, field (s.x d).toNat 32 8, (s.tile s.cur.tile).loc.kickSeq,
    [word ((placeWord p).toNat + field (s.x d).toNat 24 4 * 2 ^ 24), s.x b, 0, 0]⟩
  have hk : aget? (((s.kickPut e k).capSent a.c.toNat c).tile s.cur.tile).loc.kicks e = some k := by
    have hloc : (((s.kickPut e k).capSent a.c.toNat c).tile s.cur.tile).loc = ((s.kickPut e k).tile s.cur.tile).loc :=
      (State.loc_onCore _ _ _).trans (State.loc_onCtx _ _)
    rw [hloc]
    exact kicks_kickPut e k
  unfold exec execSendc
  refine (issueSignal_kicks (s' := (s.kickPut e k).capSent a.c.toNat c) hi hs.fresh
    (((Prepared.kickPut s e k).setC _ none).dropValidation c) hk ?_).imp
    fun u ⟨hu, hregs, hadv, hmem, hsig, hcts, hkick⟩ => ⟨hu, hregs, hadv, hmem, hsig,
      hcts.trans (setOwner_cts (s := s) (u := (s.kickPut e k).capSent _ c) rfl rfl c 1 _), hkick⟩
  simp only [hform, need_of (beq_iff_eq.mpr hs.reserved), hplace, wholeCap_of hs.wholeA, waitWhile_of hs.freeA, hs.source, hs.grant,
    hs.plain, hcopy, hr, Bool.not_false, Bool.not_true, Bool.and_self, Bool.and_false, Bool.or_self, Bool.false_eq_true, if_false, if_true,
    localPost_of hset, kickEntry_ok he, ok_bind]
  exact post_ok (prompt_capSent (prompt_kickPut hs.prompt _ _) _ _) _ _

end

end

/-- Settles O37: a transfer posts a message with the capability, a copy a kick entry. -/
theorem capabilityMessages : Obligations.CapabilityMessages := by
  intro s w h pol d b a p c e hi hp hf ha hba hc hg hdst hres hplain chan l
  have hs : Sends s w d a c p := ⟨hp, hf, ha, hba, hc, hg, hdst, hres, hplain⟩
  exact ⟨fun hcopy hq => sendc_transfers hi hs hcopy hq, fun hcopy hr hset he => sendc_copies hi hs hcopy hr hset he⟩

end Sys2Proof.Machine
end

section
/-!
PROOFS. What acts on the executing tile alone: counters and landing registers (R330, R332, R349, R350), tasks (R31, R345,
R347) and kicks (R307, R351).
-/

namespace Sys2Proof.Machine

section
variable {s s' : State} {h : Hint} {w : Who}

/-! ## Counters -/

/-- A counter's change leaves memory, CT entries and contexts alone, and of what the tile's tasks share all but counters and
records. -/
structure CounterSet (s u : State) (t i : Nat) (c : Ctr) : Prop where
  mem : u.mem = s.mem
  parts : u.parts = s.parts
  cts : u.cts = s.cts
  cur : u.cur = s.cur
  cycle : u.cycle = s.cycle
  ctx : u.ctx = s.ctx
  ctrs : (u.tile t).loc.ctrs = aset (s.tile t).loc.ctrs i c
  rings : (u.tile t).loc.rings = (s.tile t).loc.rings

theorem setCtr_sets (s : State) (t i : Nat) (c : Ctr) : CounterSet s (s.setCtr t i c) t i c := by
  unfold State.setCtr State.reeval
  dsimp only
  have hc : ((s.onLocal t fun l => { l with ctrs := aset l.ctrs i c }).onCore t fun k => { k with overfill := k.overfill + 1 }).ctx
      = s.ctx := (ctx_onCore _ _ _ (by exact fun _ => rfl)).trans (State.ctx_onLocal _ _)
  split
  · exact ⟨rfl, rfl, rfl, rfl, rfl, (State.ctx_onLocal _ _).trans hc, by simp, by simp⟩
  · exact ⟨rfl, rfl, rfl, rfl, rfl, by simp, by simp, by simp⟩

/-- An update of what the tile's tasks share, PC advanced. -/
theorem computed_of_ctx {u : State} (hm : u.mem = s.mem) (hp : u.parts = s.parts) (hcts : u.cts = s.cts) (hcur : u.cur = s.cur)
    (hcyc : u.cycle = s.cycle) {f : Regs → Regs} (hpc : (f s.regs).pc = s.regs.pc) (hregs : u.regs = f s.regs) (h : Hint) :
    Computed s (u.onward h) h f := by
  refine ⟨?_, advanced_onward hcur hcyc (by rw [hregs]; exact hpc), fun a => byte_of_mem hm hp a, hcts⟩
  rw [onward_regs, hregs, hpc]

theorem CounterSet.computed {u : State} {t i : Nat} {c : Ctr} (hu : CounterSet s u t i c) (h : Hint) :
    Computed s (u.onward h) h id :=
  computed_of_ctx (f := id) hu.mem hu.parts hu.cts hu.cur hu.cycle rfl (congrArg Context.regs hu.ctx) h

section
variable {n : BitVec 4} {d : Reg} {a b : RegImm} {y : Yreg}

theorem mset_sets (hi : Issues s h w) (hp : Prompt s) (hc : RegImm.nat a s < 256) (ho : s.ownInc (RegImm.nat a s) = false) :
    exec (.mset h n a b) s
      = .next ((s.setCtr s.cur.tile (RegImm.nat a s) ⟨(RegImm.value b s).setWidth 32, n == 1⟩).onward h) :=
  issue_ok hi (by
    have hset := setCtr_sets s s.cur.tile (RegImm.nat a s) ⟨(RegImm.value b s).setWidth 32, n == 1⟩
    have hz : (s.setCtr s.cur.tile (RegImm.nat a s) ⟨(RegImm.value b s).setWidth 32, n == 1⟩).shz s.cur.tile = false := by
      have := hp.2.2.1
      simpa only [State.shz, State.partOfTile, hset.parts] using this
    simp only [need_of (decide_eq_true hc), noSpec_of hp.1, waitWhile_of ho, ok_bind]
    rw [remember_of (by rw [hset.cur]; exact hz)])

theorem mrdCounter_reads (hi : Issues s h w) (hc : RegImm.nat a s < 256) (ho : s.ownInc (RegImm.nat a s) = false)
    (hl : ((s.tile s.cur.tile).loc.ctr (RegImm.nat a s)).loc = true ∨ w.image.det = false) :
    exec (.mrdCounter h d a) s
      = .next (s.stepped h fun r => r.writeX d (((s.tile s.cur.tile).loc.ctr (RegImm.nat a s)).value.setWidth 64)) := by
  refine issue_setX hi ?_
  cases hloc : ((s.tile s.cur.tile).loc.ctr (RegImm.nat a s)).loc with
  | true =>
    simp only [need_of (decide_eq_true hc), hloc, Bool.not_true, Bool.false_eq_true, if_false, waitWhile_of ho, ok_bind]
  | false =>
    have hdet : w.image.det = false := hl.resolve_left (by simp [hloc])
    simp only [need_of (decide_eq_true hc), hloc, Bool.not_false, if_true, detCheck_of hdet, waitWhile_of ho, ok_bind]

theorem mrdCounter_violates (hi : Issues s h w) (hd : Delivers s w) (hc : RegImm.nat a s < 256)
    (hl : ((s.tile s.cur.tile).loc.ctr (RegImm.nat a s)).loc = false) (hdet : w.image.det = true) :
    ∃ u, exec (.mrdCounter h d a) s = .next u ∧ Trapped s u w cDetviol 0 := by
  have hviol : detCheck s w = raise s cDetviol 0 := if_pos hdet
  refine issue_raises hi hd ?_ (by decide) (by decide) (by decide)
  simp only [need_of (decide_eq_true hc), hl, Bool.not_false, if_true, hviol, raise_bind, ok_bind]

/-! ## Landing registers -/

theorem mrdLanding_takes (hi : Issues s h w) (hp : Prompt s) {v : Word}
    (hv : aget? (s.tile s.cur.tile).loc.land y.toNat = some v) (hr : risesFrom none (s.tile s.cur.tile).loc.land = true) :
    ∃ u, exec (.mrdLanding h d y) s = .next u ∧ Computed s u h (fun r => r.writeX d v)
      ∧ aget? (u.tile s.cur.tile).loc.land y.toNat = none := by
  let u := (s.setLand s.cur.tile y.toNat none).onLocal s.cur.tile fun l => { l with landFreed := aset l.landFreed y.toNat s.cycle }
  have hctx : u.ctx = s.ctx := (State.ctx_onLocal _ _).trans ((State.ctx_onLocal _ _).trans (State.ctx_onLocal _ _))
  have hregs : (u.setX d v).regs = s.regs.writeX d v := by
    rw [State.setX_eq, State.regs_onCtx, hctx]
    rfl
  refine ⟨_, issue_ok hi (u := u.setX d v) ?_, ?_, ?_⟩
  · simp only [noSpec_of hp.1, hv, ok_bind]
    rw [remember_of (by exact hp.2.2.1)]
  · exact computed_of_ctx (s := s) (u := u.setX d v) (f := fun r => r.writeX d v) rfl rfl rfl rfl rfl (Regs.writeX_pc _ _ _) hregs h
  · have hloc : (((u.setX d v).onward h).tile s.cur.tile).loc = (u.tile s.cur.tile).loc :=
      (State.loc_onward _ _ _).trans (State.loc_onCtx _ _)
    rw [show (((u.setX d v).nextPc.clearResume.issueHold h.stag.toNat).tile s.cur.tile).loc = _ from hloc]
    simpa [u, State.setLand, State.reeval] using aget?_aerase_self hr y.toNat

theorem mrdLanding_absent (hi : Issues s h w) (hd : Delivers s w) (hv : aget? (s.tile s.cur.tile).loc.land y.toNat = none)
    (ho : s.ownLand y.toNat = false) : ∃ u, exec (.mrdLanding h d y) s = .next u ∧ Trapped s u w cIllopnd 5 := by
  refine issue_raises hi hd ?_ (by decide) (by decide) (by decide)
  simp only [noSpec_of hd.2.2, hv, waitWhile_of ho, ok_bind]

end

/-! ## Tasks created on the tile (R31) -/

/-- The first free key depends on what is listed only. -/
theorem freeKey_congr {β : Type} {m m' : Assoc β} (hm : ∀ k, (aget? m k).isNone = (aget? m' k).isNone) (l : List Nat) :
    freeKey m l = freeKey m' l := by
  simp only [freeKey, hm]

/-- The record of a task created on a tile. -/
def newRec (img : RecImage) (k : Nat) (first : List Word) (prio cycle : Nat) : TaskRec :=
  ⟨img, k, 0, 0, first, none, prio, false, .waiting, none, cycle⟩

/-- A new record in the pool, evaluated at once. -/
theorem putRec_enqueues {u : State} {t r : Nat} {v : TaskRec} {recs : Assoc TaskRec} {l : Local}
    (hl : (u.tile t).loc = { l with recs := recs }) (hq : v.q = .waiting) (hb : v.born = u.cycle) :
    aget? ((u.putRec t r v).tile t).loc.recs r = some (if l.holds r v
      then { v with latched := v.img.ctrv, q := .ready v.prio u.cycle r u.cycle u.cycle false } else v) := by
  have hv : { v with q := .waiting, born := u.cycle } = v := by rw [← hq, ← hb]
  unfold State.putRec State.reeval
  simp only [hv, State.loc_onLocal_self, aget?_amap, aget?_aset_self, Option.map_some, hq, hl, beq_self_eq_true, Bool.and_self,
    if_true]
  rfl

theorem putRec_keeps (u : State) (t r : Nat) (v : TaskRec) :
    (u.putRec t r v).mem = u.mem ∧ (u.putRec t r v).parts = u.parts ∧ (u.putRec t r v).cts = u.cts ∧ (u.putRec t r v).cur = u.cur
      ∧ (u.putRec t r v).cycle = u.cycle ∧ (u.putRec t r v).ctx = u.ctx :=
  ⟨rfl, rfl, rfl, rfl, rfl, (State.ctx_onLocal _ _).trans (State.ctx_onLocal _ _)⟩

/-- What an instruction that creates a task on its tile leaves before the creation. -/
structure Creates (s s' : State) : Prop where
  regs : s'.ctx.regs = s.ctx.regs
  cur : s'.cur = s.cur
  cycle : s'.cycle = s.cycle
  byte : SameMemory s s'
  cts : s'.cts = s.cts
  parts : s'.parts = s.parts
  loc : (s'.tile s.cur.tile).loc = (s.tile s.cur.tile).loc
  chip : s'.chip = s.chip

theorem Creates.refl (s : State) : Creates s s := ⟨rfl, rfl, rfl, fun _ => rfl, rfl, rfl, rfl, rfl⟩

theorem Fetched.creates (hf : Fetched s s') : Creates s s' :=
  ⟨hf.regs, hf.cur, hf.cycle, hf.byte, hf.cts, hf.parts, hf.loc, hf.chip⟩

theorem signed_task_cts (s : State) (img : RecImage) (first : List Word) (k : Nat) (signal : Option Nat) :
    (s.signed (.task img first k) signal).cts = s.cts ∧ (s.signed (.task img first k) signal).parts = s.parts := by
  have hm := markSignal_marked s.takeOrd s.cur.tile (signal.bind fun n => s.ctx.run.task.map fun r => (r, n))
  exact ⟨hm.cts, hm.parts⟩

/-- A task created at once: its record in the free place of the pool. -/
theorem posted_task (hc : Creates s s') {r p : Nat} {pt : Part} (hr : (s.tile s.cur.tile).loc.freeRec = some r)
    (hp : s.partOfTile s.cur.tile = some (p, pt)) (img : RecImage) (first : List Word) (k : Nat) (signal : Option Nat) :
    s'.posted (.task img first k) signal = (s'.signed (.task img first k) signal).putRec s.cur.tile r
      (newRec img k first (fixedPrio img.prio (s.bias p k)) s.cycle) := by
  have hs := signed_spec s' (.task img first k) signal
  obtain ⟨hcts, hparts⟩ := signed_task_cts s' img first k signal
  obtain ⟨recs, hl, hkeys⟩ := hs.loc
  change (match (s'.signed (.task img first k) signal).partOfTile s'.cur.tile with
    | some pt => ((s'.signed (.task img first k) signal).createTask pt.1 k s'.cur.tile img first none none).getD
        (s'.signed (.task img first k) signal)
    | none => s'.signed (.task img first k) signal) = _
  generalize s'.signed (.task img first k) signal = v at hs hparts hl ⊢
  rw [hc.cur] at hl hkeys ⊢
  have hpart : v.partOfTile s.cur.tile = some (p, pt) := by
    rw [State.partOfTile, hparts, hc.parts]
    exact hp
  have hfree : (v.tile s.cur.tile).loc.freeRec = some r := by
    rw [hl]
    rw [hc.loc] at hkeys
    exact (freeKey_congr hkeys _).trans hr
  have hbias : v.bias p k = s.bias p k := by
    simp [State.bias, hparts, hc.parts, hs.cycle, hc.cycle]
  simp only [hpart, State.createTask, hfree, hbias, hs.cycle, hc.cycle, Option.map_some, Option.getD_some, newRec]

/-- The task that an instruction creates at once, with the run changed by `g` afterwards. -/
theorem creates_task (hc : Creates s s') {r p : Nat} {pt : Part} (hr : (s.tile s.cur.tile).loc.freeRec = some r)
    (hp : s.partOfTile s.cur.tile = some (p, pt)) (img : RecImage) (first : List Word) (k : Nat) (signal : Option Nat)
    (g : Run → Run) (h : Hint) :
    Computed s (((s'.posted (.task img first k) signal).onRun g).onward h) h id
      ∧ Enqueued s (((s'.posted (.task img first k) signal).onRun g).onward h) r
          (newRec img k first (fixedPrio img.prio (s.bias p k)) s.cycle) := by
  rw [posted_task hc hr hp]
  have hs := signed_spec s' (.task img first k) signal
  obtain ⟨hcts, hparts⟩ := signed_task_cts s' img first k signal
  obtain ⟨recs, hl, -⟩ := hs.loc
  generalize s'.signed (.task img first k) signal = v at hs hcts hparts hl ⊢
  have hcyc : v.cycle = s.cycle := hs.cycle.trans hc.cycle
  rw [hc.cur, hc.loc] at hl
  obtain ⟨hmem, hpar, hct, hcur, hcy, hctx⟩ :=
    putRec_keeps v s.cur.tile r (newRec img k first (fixedPrio img.prio (s.bias p k)) s.cycle)
  have hrec := putRec_enqueues (r := r) (v := newRec img k first (fixedPrio img.prio (s.bias p k)) s.cycle) hl rfl hcyc.symm
  generalize v.putRec s.cur.tile r (newRec img k first (fixedPrio img.prio (s.bias p k)) s.cycle) = u at *
  have hregs : (u.onRun g).regs = id s.regs := by
    rw [State.onRun_eq, State.regs_onCtx, hctx, hs.ctx, hc.regs]
    rfl
  constructor
  · have hm : SameMemory s (u.onRun g) := fun a =>
      (byte_of_mem (hmem.trans hs.mem) (hpar.trans hparts) a).trans (hc.byte a)
    refine ⟨?_, advanced_onward (hcur.trans (hs.cur.trans hc.cur)) (hcy.trans hcyc) (congrArg Regs.pc hregs), hm,
      hct.trans (hcts.trans hc.cts)⟩
    rw [onward_regs, hregs]
    rfl
  · unfold Enqueued
    rw [State.loc_onward, State.onRun_eq, State.loc_onCtx, hrec, hcyc]

section
variable {n : BitVec 4} {a : Reg} {img : RecImage} {r : Nat}

theorem enqueueHere_ok (hc : Creates s s') (hp : Prompt s') (hr : (s.tile s.cur.tile).loc.freeRec = some r)
    (hn : recRefused img (s.tile s.cur.tile).loc w.image w.kernel.supv = false) (words : List Word) (signal : Option Nat) :
    enqueueHere s' w img words signal
      = .ok (s'.posted (.task img (createdWords s.chip s.cur.tile words) w.kslot) signal) := by
  simp only [enqueueHere, hc.cur, hc.loc, hc.chip, hn, hr, Option.isNone_some, Bool.false_eq_true, if_false,
    post_ok hp]

/-- The task's tile belongs to its partition. -/
theorem Issues.partOfTile (hi : Issues s h w) : s.partOfTile s.cur.tile = some (w.pnum, w.part) := by
  obtain ⟨-, -, hp, -⟩ := State.whoAt_some hi.who
  exact hp

theorem spawn_creates (hi : Issues s h w) (hf : Fresh s w) (hc : Creates s s') (hp : Prompt s')
    (hr : (s.tile s.cur.tile).loc.freeRec = some r) (hn : recRefused img (s.tile s.cur.tile).loc w.image w.kernel.supv = false)
    {words : List Word} {body : Who → Nat → Eff State}
    (hb : body w s.ctx.run.nsig = enqueueHere s' w img words (some s.ctx.run.nsig)) :
    ∃ u, issueSignal s h body = .next u ∧ Computed s u h id ∧ Enqueued s u r (newRec img w.kslot
      (createdWords s.chip s.cur.tile words) (fixedPrio img.prio (s.bias w.pnum w.kslot)) s.cycle) :=
  ⟨_, issueSignal_ok hi hf (hb.trans (enqueueHere_ok hc hp hr hn _ _)), creates_task hc hr hi.partOfTile _ _ _ _ _ h⟩

theorem spawn_imm (hi : Issues s h w) (hp : Prompt s) (hset : s.settled s.cur.tile s.cur.ctx = true) (hf : Fresh s w)
    (hg : groupOk a n.toNat = true) (hr : (s.tile s.cur.tile).loc.freeRec = some r)
    (hn : recRefused img (s.tile s.cur.tile).loc w.image w.kernel.supv = false) {v : Imm} (himg : constImage s w v = .ok (s, img)) :
    ∃ u, exec (.spawn h n (.imm v) a) s = .next u ∧ Computed s u h id ∧ Enqueued s u r (newRec img w.kslot
      (createdWords s.chip s.cur.tile (s.group a n.toNat)) (fixedPrio img.prio (s.bias w.pnum w.kslot)) s.cycle) := by
  unfold exec execSpawn
  refine spawn_creates hi hf (.refl s) hp hr hn ?_
  simp only [need_of hg, localPost_of hset, himg, ok_bind]

theorem spawn_cap (hi : Issues s h w) (hp : Prompt s) (hset : s.settled s.cur.tile s.cur.ctx = true) (hf : Fresh s w)
    (hg : groupOk a n.toNat = true) (hr : (s.tile s.cur.tile).loc.freeRec = some r) {c : CapOp} {k : Cap} {va : Nat}
    (ho : OnChip s w c 128 .read k va) (hu : Unhindered s) (hc : Clean s)
    (hn : recRefused (imageOf (leNat (s.seen va 128))) (s.tile s.cur.tile).loc w.image w.kernel.supv = false) :
    ∃ u, exec (.spawn h n (.cap c) a) s = .next u ∧ Computed s u h id
      ∧ Enqueued s u r (newRec (imageOf (leNat (s.seen va 128))) w.kslot
      (createdWords s.chip s.cur.tile (s.group a n.toNat))
      (fixedPrio (imageOf (leNat (s.seen va 128))).prio (s.bias w.pnum w.kslot)) s.cycle) := by
  obtain ⟨u, hl, hfe⟩ := load_ok ho hu hc
  unfold exec execSpawn
  refine spawn_creates hi hf hfe.creates (hfe.prompt hp) hr hn ?_
  simp only [need_of hg, localPost_of hset, hl, ok_bind]

theorem arm_creates (hi : Issues s h w) (hp : Prompt s) (hset : s.settled s.cur.tile s.cur.ctx = true)
    (hr : (s.tile s.cur.tile).loc.freeRec = some r) {i : Imm} {b : RegImm} (hl : w.image.legal (immWord i).toNat = true)
    (hc : (s.x a).toNat < 256)
    (himg : img = { recContinued w.task.img (immWord i).toNat (s.x a).toNat (RegImm.nat b s) with stv := false, stSlot := 0 }) :
    ∃ u, exec (.arm h i a b) s = .next u ∧ Computed s u h id ∧ Enqueued s u r (newRec img w.kslot
      (createdWords s.chip s.cur.tile [word img.target]) (fixedPrio img.prio (s.bias w.pnum w.kslot)) s.cycle) := by
  have hn : (w.image.legal (immWord i).toNat && decide ((s.x a).toNat < 256)) = true := by simp [hl, hc]
  subst himg
  refine ⟨_, issue_ok hi ?_, creates_task (.refl s) hr hi.partOfTile _ _ _ none (fun r => { r with noRetry := true }) h⟩
  simp only [need_of hn, localPost_of hset, hr, Option.isNone_some, Bool.false_eq_true, if_false, post_ok hp, ok_bind]
  rfl

end

/-! ## KICK -/

theorem kick_queues (hi : Issues s h w) (hp : Prompt s) (hset : s.settled s.cur.tile s.cur.ctx = true) (hf : Fresh s w) {a : Reg}
    {e : Nat} (hg : groupOk a 4 = true) (he : freeKey (s.tile s.cur.tile).loc.kicks (upto 64) = some e) :
    ∃ u, exec (.kick h none a) s = .next u ∧ Advanced s u h ∧ SameMemory s u ∧ Signalled s u
      ∧ u.regs = { s.regs with pc := s.regs.pc + 12, resume := .none }
      ∧ aget? (u.tile s.cur.tile).loc.kicks e = some
        { state := .queued, kind := 0, cap := none, ctx := s.cur.ctx, kslot := w.kslot, pslot := 0,
          seq := (s.tile s.cur.tile).loc.kickSeq, args := s.group a 4 } := by
  let k : Kick := ⟨.held, 0, none, s.cur.ctx, w.kslot, 0, (s.tile s.cur.tile).loc.kickSeq, s.group a 4⟩
  unfold exec execKick
  refine (issueSignal_kicks (s' := s.kickPut e k) hi hf (Prepared.kickPut s e k) (kicks_kickPut e k) ?_).imp
    fun u ⟨hu, hregs, hadv, hmem, hsig, hcts, hkick⟩ => ⟨hu, hadv, hmem, hsig, hregs, hkick⟩
  simp only [need_of hg, kickCap, localPost_of hset, Option.map_none, kickEntry_ok he, ok_bind]
  exact post_ok (prompt_kickPut hp _ _) _ _

theorem kick_delegates (hi : Issues s h w) (hp : Prompt s) (hset : s.settled s.cur.tile s.cur.ctx = true) (hf : Fresh s w) {a : Reg}
    {e : Nat} (hg : groupOk a 4 = true) (he : freeKey (s.tile s.cur.tile).loc.kicks (upto 64) = some e) {o : CapOp} {c : Cap}
    (hw : o.whole = true) (hb : s.capBusy o.c.toNat = false) (hs : s.c o.c.toNat = some c) (hgr : c.rights.g = true) :
    ∃ u, exec (.kick h (some o) a) s = .next u ∧ Advanced s u h ∧ SameMemory s u ∧ Signalled s u
      ∧ u.regs = { s.regs.writeC o.c.toNat none with pc := s.regs.pc + 12, resume := .none }
      ∧ aget? (u.tile s.cur.tile).loc.kicks e = some
        { state := .queued, kind := 0, cap := some c, ctx := s.cur.ctx, kslot := w.kslot, pslot := 0,
          seq := (s.tile s.cur.tile).loc.kickSeq, args := s.group a 4 } := by
  let k : Kick := ⟨.held, 0, some c, s.cur.ctx, w.kslot, 0, (s.tile s.cur.tile).loc.kickSeq, s.group a 4⟩
  have hk : aget? (((s.kickPut e k).capSent o.c.toNat c).tile s.cur.tile).loc.kicks e = some k := by
    have hloc : (((s.kickPut e k).capSent o.c.toNat c).tile s.cur.tile).loc = ((s.kickPut e k).tile s.cur.tile).loc :=
      (State.loc_onCore _ _ _).trans (State.loc_onCtx _ _)
    rw [hloc]
    exact kicks_kickPut e k
  unfold exec execKick
  refine (issueSignal_kicks (s' := (s.kickPut e k).capSent o.c.toNat c) hi hf
    (((Prepared.kickPut s e k).setC _ none).dropValidation c) hk ?_).imp
    fun u ⟨hu, hregs, hadv, hmem, hsig, hcts, hkick⟩ => ⟨hu, hadv, hmem, hsig, hregs, hkick⟩
  simp only [need_of hg, kickCap, wholeCap_of hw, waitWhile_of hb, hs, hgr, if_true, localPost_of hset, Option.map_some,
    kickEntry_ok he, ok_bind]
  exact post_ok (prompt_capSent (prompt_kickPut hp _ _) _ _) _ _

end

/-- Settles O38: counters and landing registers, tasks created at once, kick entries that become visible. -/
theorem tileLocalPosts : Obligations.TileLocalPosts := by
  constructor
  · intro s w h n d a b y v hi hp l i
    refine ⟨fun hc ho => ⟨⟨mset_sets hi hp hc ho, _, mset_sets hi hp hc ho, (setCtr_sets _ _ _ _).computed h, ?_⟩,
      mrdCounter_reads hi hc ho, fun hl hdet hd => mrdCounter_violates hi hd hc hl hdet⟩, mrdLanding_takes hi hp,
      fun hv ho hd => mrdLanding_absent hi hd hv ho⟩
    rw [State.loc_onward, Local.ctr, (setCtr_sets _ _ _ _).ctrs]
    exact aget_aset_self _ _ _ _
  · intro s w h n v i c f a b img r e hi hp hset l creates words
    refine ⟨fun hf hg hr hn => ⟨fun himg => spawn_imm hi hp hset hf hg hr hn himg, fun k va ho hu hc himg => ?_⟩,
      fun hr hl hc himg => arm_creates hi hp hset hr hl hc himg, fun cap hf hg he hcap => ?_⟩
    · subst himg
      exact spawn_cap hi hp hset hf hg hr ho hu hc hn
    · obtain ⟨rfl, rfl⟩ | ⟨o, k, rfl, rfl, hw, hb, hs, hgr⟩ := hcap
      · exact kick_queues hi hp hset hf hg he
      · exact kick_delegates hi hp hset hf hg he hw hb hs hgr

end Sys2Proof.Machine
end

section
/-!
PROOFS. Rings (R290 to R292).
-/

namespace Sys2Proof.Machine

section
variable {s s' : State} {h : Hint} {w : Who}

theorem need_bind {α : Type} {b : Bool} {f : Unit → Eff α} (hb : b = true) : (need s b >>= f) = f () := by
  rw [need_of hb]
  rfl

theorem boundRing_of {d : Hreg} {n : Nat} {g : Ring} (hd : aget? s.regs.h d.toNat = some n) (hg : s.ring n = some g) :
    boundRing s d = .ok (n, g) := by
  simp [boundRing, hd, hg]

/-! ## RBIND -/

/-- A ring put into the tile's list. -/
def State.putRing (s : State) (n : Nat) (g : Ring) : State :=
  s.onLocal s.cur.tile fun l => { l with rings := aset l.rings n g }

/-- A ring as its 32-byte descriptor names it, empty (R41). -/
def ringOf (n : Nat) (c : Cap) (kslot : Nat) : Ring :=
  { slog2 := field n 0 3, nlog2 := field n 3 4, pctr := field n 8 8, ptile := field n 16 12, pchip := field n 28 10,
    fctr := field n 40 8, head := 0, relsd := 0, rsv := 0, cap := c, kslot := kslot, deliveries := [] }

theorem putRing_ring (v : State) (n : Nat) (g : Ring) : (v.putRing n g).ring n = some g := by
  simp [State.putRing, State.ring]

/-- A counter set to zero on its own tile. -/
def State.zeroed (v : State) (i : Nat) : State :=
  v.setCtr v.cur.tile i { (v.tile v.cur.tile).loc.ctr i with value := 0 }

theorem zeroed_sets (v : State) (i : Nat) :
    CounterSet v (v.zeroed i) v.cur.tile i { (v.tile v.cur.tile).loc.ctr i with value := 0 } := setCtr_sets _ _ _ _

theorem CounterSet.quiet {v u : State} {t i : Nat} {c : Ctr} (hu : CounterSet v u t i c) (hz : v.shz v.cur.tile = false) :
    u.shz u.cur.tile = false := by
  rw [hu.cur]
  simpa only [State.shz, State.partOfTile, hu.parts] using hz

/-- Outside the strike horizon the installation of a ring keeps nothing for a rollback. -/
theorem zeroed_unremembered {v : State} (hz : v.shz v.cur.tile = false) (i : Nat) (r : Undo) (f : State → Undo) :
    ((v.remember r).zeroed i).remember (f (v.remember r)) = v.zeroed i := by
  rw [remember_of hz]
  exact remember_of ((zeroed_sets v i).quiet hz) _

/-- A ring put after a read, and its fill counter at zero, PC advanced. -/
theorem installed {v : State} {b n : Nat} {g : Ring} (hm : v.mem = s.mem) (hp : v.parts = s.parts) (hcts : v.cts = s.cts)
    (hcur : v.cur = s.cur) (hcyc : v.cycle = s.cycle) (hregs : v.regs = s.regs.writeC b none) (hg : v.ring n = some g)
    (fctr : Nat) (h : Hint) :
    Computed s ((v.zeroed fctr).onward h) h (fun q => q.writeC b none)
      ∧ ((((v.zeroed fctr).onward h).tile s.cur.tile).loc.ctr fctr).value = 0 ∧ ((v.zeroed fctr).onward h).ring n = some g := by
  have hset := zeroed_sets v fctr
  generalize v.zeroed fctr = u at hset ⊢
  refine ⟨computed_of_ctx (f := fun q => q.writeC b none) (hset.mem.trans hm) (hset.parts.trans hp) (hset.cts.trans hcts)
    (hset.cur.trans hcur) (hset.cycle.trans hcyc) (by simp) ((congrArg Context.regs hset.ctx).trans hregs) h, ?_, ?_⟩
  · rw [State.loc_onward, Local.ctr, ← hcur, hset.ctrs, aget_aset_self]
  · unfold State.ring at hg ⊢
    rw [State.loc_onward, show (u.onward h).cur = v.cur from hset.cur, hset.rings, hg]

theorem rbindInstall_installs (hi : Issues s h w) (hp : Prompt s) (hu : Unhindered s) (hcl : Clean s) {n : RegImm} {a b : CapOp}
    {k c : Cap} {va m : Nat} (hb : b.whole = true) (hbusy : s.capBusy b.c.toNat = false)
    (hn : (RegImm.nat n s < 16 && (s.ring (RegImm.nat n s)).isNone) = true) (hc : s.c b.c.toNat = some c)
    (ho : OnChip s w a 32 .read k va) (hm : leNat (s.seen va 32) = m)
    (hdesc : (field m 0 3 ≤ 6 && field m 3 4 ≤ 8 && !bit m 7 && field m 38 2 == 0 && field m 48 16 == 0 && field m 192 64 == 0) = true)
    (hbuf : (c.kind == .tile && c.agent == s.cur.tile && c.chip == s.chip && 64 * 2 ^ field m 0 3 * 2 ^ field m 3 4 ≤ c.bytes) = true)
    (hr : (c.rights.r && c.rights.w && c.rights.g) = true) :
    ∃ s', Fetched s s' ∧ exec (.rbindInstall h n a b) s
      = .next ((((s'.setC b.c.toNat none).putRing (RegImm.nat n s) (ringOf m c w.kslot)).zeroed (field m 40 8)).onward h) := by
  obtain ⟨s', hl, hf⟩ := load_ok ho hu hcl
  rw [← hm] at hdesc hbuf ⊢
  refine ⟨s', hf, ?_⟩
  have hbuf' := hbuf
  rw [← hf.cur, ← hf.chip] at hbuf'
  have hz := (hf.prompt hp).2.2.1
  unfold exec execRbindInstall
  refine issue_ok hi ?_
  simp only [wholeCap_of hb, waitWhile_of hbusy, noSpec_of hp.1, need_of hn, sourceCap_of hc, hl, need_of hdesc, need_of hbuf', hr,
    Bool.not_true, Bool.false_eq_true, if_false, ok_bind]
  exact congrArg _ (zeroed_unremembered
    (v := (s'.setC b.c.toNat none).putRing (RegImm.nat n s) (ringOf (leNat (s.seen va 32)) c w.kslot)) hz _ _
    fun v => .mset v.cycle _ ((v.tile v.cur.tile).loc.ctr _) 0)

theorem issue_withRing (hi : Issues s h w) {body : Who → Eff State} {g : Run → Run} {f : Regs → Regs}
    (hpc : ∀ r, (f r).pc = r.pc) (hb : body w = .ok ((s.onRegs f).onRun g)) :
    ∃ u, issue s h body = .next u ∧ Computed s u h f
      ∧ u.ctx.run = { g s.ctx.run with rejected := [], issueAt := s.cycle + 1 + h.stag.toNat } := by
  have hctx : ((s.onRegs f).onRun g).ctx = { s.ctx with regs := f s.ctx.regs, run := g s.ctx.run } := by
    simp only [State.onRegs_eq, State.onRun_eq, State.ctx_onCtx]
  refine ⟨_, issue_ok hi hb, computed_of_ctx (s := s) (u := (s.onRegs f).onRun g) (f := f) rfl rfl rfl rfl rfl (hpc _) (congrArg Context.regs hctx) h, ?_⟩
  change (((s.onRegs f).onRun g).onward h).ctx.run = _
  rw [onward_eq_stepped, stepped_ctx, hctx]
  rfl

theorem rbindAttach_attaches (hi : Issues s h w) (hp : Prompt s) {r : RingOp} {i : Imm}
    (hn : (r.count == 0 && (r.h.toNat < w.image.nring || r.h.toNat < 2) && (immWord i).toNat < 16 && (s.ring (immWord i).toNat).isSome
      && (aget? s.regs.h r.h.toNat).isNone && !s.heldByOther (immWord i).toNat) = true) :
    ∃ u, exec (.rbindAttach h r i) s = .next u
      ∧ Computed s u h (fun q => { q with h := aset q.h r.h.toNat (immWord i).toNat })
      ∧ (immWord i).toNat ∈ u.ctx.run.rings := by
  obtain ⟨u, hu, hc, hrun⟩ := issue_withRing hi (f := fun q => { q with h := aset q.h r.h.toNat (immWord i).toNat })
    (g := fun q => { q with rings := if q.rings.contains (immWord i).toNat then q.rings else (immWord i).toNat :: q.rings })
    (fun _ => rfl) (body := fun w => do
      noSpec s
      need s (r.count == 0 && (r.h.toNat < w.image.nring || r.h.toNat < 2) && (immWord i).toNat < 16
        && (s.ring (immWord i).toNat).isSome && (aget? s.regs.h r.h.toNat).isNone && !s.heldByOther (immWord i).toNat)
      .ok ((s.onRegs fun q => { q with h := aset q.h r.h.toNat (immWord i).toNat }).onRun fun q =>
        { q with rings := if q.rings.contains (immWord i).toNat then q.rings else (immWord i).toNat :: q.rings }))
    (by simp only [noSpec_of hp.1, need_of hn, ok_bind])
  refine ⟨u, hu, hc, ?_⟩
  rw [hrun]
  dsimp only
  split
  · rename_i hin
    exact List.contains_iff_mem.mp hin
  · exact List.mem_cons_self

/-- The ring removed and its capability in a register, PC advanced. -/
theorem rbindRemove_removes (hi : Issues s h w) (hp : Prompt s) {n : RegImm} {b : CapOp} {g : Ring} (hb : b.whole = true)
    (hg : s.ring (RegImm.nat n s) = some g)
    (hn : RegImm.nat n s < 16) (hheld : (s.tile s.cur.tile).ringHeld (RegImm.nat n s) = false) (he : s.c b.c.toNat = none)
    (hrecs : ∀ q ∈ (s.tile s.cur.tile).loc.recs, (∃ c, q.2.q = .running c) ∨ ∀ y ∈ recNeeds q.2.img, y.1 ≠ RegImm.nat n s)
    (hr : risesFrom none (s.tile s.cur.tile).loc.rings = true) :
    ∃ u, exec (.rbindRemove h n b) s = .next u ∧ Computed s u h (fun q => q.writeC b.c.toNat (some g.cap))
      ∧ u.ring (RegImm.nat n s) = none := by
  let u := (s.onLocal s.cur.tile fun l => { l with rings := aerase l.rings (RegImm.nat n s) }).setC b.c.toNat (some g.cap)
  have hregs : u.regs = s.regs.writeC b.c.toNat (some g.cap) := by
    simp only [u, State.setC_eq, State.regs_onCtx, State.ctx_onLocal]
    rfl
  refine ⟨u.onward h, issue_ok hi ?_, ?_, ?_⟩
  · simp only [wholeCap_of hb, noSpec_of hp.1, ok_bind]
    refine (need_bind ?_).trans ?_
    · simp only [hn, hheld, he, Option.isNone_none, decide_true, Bool.not_false, Bool.and_true, Bool.true_and, Bool.not_eq_true',
        List.any_eq_false, Bool.and_eq_true, not_and, Bool.not_eq_true, beq_eq_false_iff_ne]
      intro q hq hrun y hy
      obtain ⟨c, hc⟩ | hne := hrecs q hq
      · simp [hc] at hrun
      · exact hne y hy
    simp only [hg]
    exact congrArg _ (remember_of (by exact hp.2.2.1) _)
  · exact computed_of_ctx (s := s) (u := u) rfl rfl rfl rfl rfl (by simp) hregs h
  · unfold State.ring
    rw [State.loc_onward, show (u.tile (u.onward h).cur.tile).loc = _ from State.loc_onCtx _ _]
    change aget? ((s.onLocal s.cur.tile fun l => { l with rings := aerase l.rings (RegImm.nat n s) }).tile s.cur.tile).loc.rings _ = _
    rw [State.loc_onLocal_self]
    exact aget?_aerase_self hr (RegImm.nat n s)

/-! ## RADV and RSTAT -/

/-- A ring's HEAD advanced. -/
def Ring.advanced (g : Ring) (k : Nat) : Ring := { g with head := (g.head + k) % 2 ^ 32, relsd := (g.relsd + k) % 2 ^ 32 }

/-- An advance of a ring changes what the tile's tasks share only, and of its rings only that one. -/
theorem advanceRing_spec (u : State) (t r k : Nat) {g : Ring} (hg : aget? (u.tile t).loc.rings r = some g) :
    (u.advanceRing t r k).mem = u.mem ∧ (u.advanceRing t r k).parts = u.parts ∧ (u.advanceRing t r k).cts = u.cts
      ∧ (u.advanceRing t r k).cur = u.cur ∧ (u.advanceRing t r k).cycle = u.cycle ∧ (u.advanceRing t r k).ctx = u.ctx
      ∧ ((u.advanceRing t r k).tile t).core.inj = (u.tile t).core.inj
      ∧ aget? ((u.advanceRing t r k).tile t).loc.rings r = some (g.advanced k) := by
  refine ⟨rfl, rfl, rfl, rfl, rfl, ?_, ?_, ?_⟩
  · exact (State.ctx_onLocal _ _).trans (State.ctx_onLocal _ _)
  · simp [State.advanceRing, State.reeval]
  · simp [State.advanceRing, State.reeval, hg, Ring.advanced]

theorem radv_advances (hi : Issues s h w) (hp : Prompt s) (hpo : s.postsOf s.cur.tile = []) {r : RingOp} {x : Reg} {n k : Nat}
    {g : Ring} (hd : aget? s.regs.h r.h.toNat = some n) (hg : s.ring n = some g) (hx : r.count = 0 ∨ x = 0)
    (hk : (if r.count = 0 then (s.x x).toNat else r.count.toNat) = k) (hf : k ≤ (s.tile s.cur.tile).loc.fill g) (h0 : 0 < k)
    (hholds : w.part.holds g.ptile = true) (hq : (s.tile s.cur.tile).core.vn0Used < 32) :
    ∃ u e, exec (.radv h r x) s = .next u ∧ Computed s u h id
      ∧ e.pkt.body = .inc g.pctr k ((⟨g.pchip, g.ptile⟩ : Place) == ⟨s.chip, s.cur.tile⟩) ∧ e.pkt.dst = ⟨g.pchip, g.ptile⟩ ∧ e.pkt.vn = 0
      ∧ (u.tile s.cur.tile).core.inj = [e] ∧ u.ring n = some (g.advanced k) := by
  let p := s.corePacket w 0 ⟨g.pchip, g.ptile⟩ 16 (.inc g.pctr k ((⟨g.pchip, g.ptile⟩ : Place) == ⟨s.chip, s.cur.tile⟩))
  have hv := posted_packet s p none
  have hloc := posted_packet_loc s p none
  obtain ⟨recs, hl, -⟩ := (signed_spec s (.packet p false) none).loc
  have hinj : (s.tile s.cur.tile).core.inj = [] := ((postsOf_nil _ _).mp hpo).2.1
  have hz : (s.posted (.packet p false) none).shz s.cur.tile = false := by
    have := hp.2.2.1
    simpa only [State.shz, State.partOfTile, hv.parts] using this
  have hb : s.postPacket w ⟨g.pchip, g.ptile⟩ 16 (.inc g.pctr k ((⟨g.pchip, g.ptile⟩ : Place) == ⟨s.chip, s.cur.tile⟩)) none
      = .ok (s.posted (.packet p false) none) := postPacket_ok hp hq _ _ _ _
  have hrings : aget? ((s.posted (.packet p false) none).tile s.cur.tile).loc.rings n = some g := by
    rw [hloc, hl]
    exact hg
  have hcts : (s.posted (.packet p false) none).cts = s.cts := hv.cts
  have hvinj := hv.inj
  obtain ⟨hmem, hparts, hcur, hcyc, hregs⟩ : (s.posted (.packet p false) none).mem = s.mem
    ∧ (s.posted (.packet p false) none).parts = s.parts ∧ (s.posted (.packet p false) none).cur = s.cur
    ∧ (s.posted (.packet p false) none).cycle = s.cycle ∧ (s.posted (.packet p false) none).ctx.regs = s.ctx.regs :=
    ⟨hv.mem, hv.parts, hv.cur, hv.cycle, hv.regs⟩
  generalize s.posted (.packet p false) none = v at *
  obtain ⟨hm, hpt, hct, hcu, hcy, hctx, hij, hrg⟩ := advanceRing_spec v s.cur.tile n k hrings
  generalize hu : v.advanceRing s.cur.tile n k = u at *
  refine ⟨(u.onRun fun q => { q with noRetry := true }).onward h, ⟨p.vn, s.cur.ctx, false, p, s.nextOrd⟩, issue_ok hi ?_, ?_, rfl, rfl,
    rfl, ?_, ?_⟩
  · have hx' : (!(r.count != 0 && x != 0)) = true := by obtain hx | hx := hx <;> simp [hx]
    have hcheck : (g.pchip == s.chip && !w.part.holds g.ptile) = false := by simp [hholds]
    simp only [noSpec_of hp.1, boundRing_of hd hg, need_of hx', hk, need_of (decide_eq_true hf), if_neg h0.ne', hcheck, hb, ok_bind,
      Bool.false_eq_true, if_false, hcur, hu]
    rw [remember_of]
    · rfl
    · rw [hcu, hcur]
      simpa only [State.shz, State.partOfTile, hpt] using hz
  · have hr : (u.onRun fun q => { q with noRetry := true }).regs = s.regs := by
      rw [State.onRun_eq, State.regs_onCtx, hctx]
      exact hregs
    exact computed_of_ctx (u := u.onRun fun q => { q with noRetry := true }) (f := id) (hm.trans hmem) (hpt.trans hparts) (hct.trans hcts) (hcu.trans hcur) (hcy.trans hcyc) rfl hr h
  · rw [onward_eq_stepped]
    refine (State.inj_onCtx _ _ _).trans ((State.inj_onCtx _ _ _).trans ?_)
    rw [hij, hvinj, hinj]
    rfl
  · unfold State.ring
    rw [State.loc_onward, show ((u.onRun fun q => { q with noRetry := true }).onward h).cur = s.cur from hcu.trans hcur, State.onRun_eq,
      State.loc_onCtx, hrg]

theorem rstatFill_reads (hi : Issues s h w) (hp : Prompt s) (hdet : w.image.det = false) {r : RingOp} {x : Reg} {n : Nat} {g : Ring}
    (hd : aget? s.regs.h r.h.toNat = some n) (hg : s.ring n = some g) :
    exec (.rstatFill h x r) s = .next (s.stepped h fun p => p.writeX x (word ((s.tile s.cur.tile).loc.fill g))) :=
  issue_setX hi (by simp only [detCheck_of hdet, noSpec_of hp.1, boundRing_of hd hg, ok_bind])

theorem rstatDescriptor_stores (hi : Issues s h w) (hu : Unhindered s) (hp : Prompt s) (hm : Memory.wf s.mem = true)
    (hdet : w.image.det = false) {a : CapOp} {i : Imm} {g : Ring} {k : Cap} {va : Nat} (hlt : (immWord i).toNat < 16)
    (hg : s.ring (immWord i).toNat = some g) (ho : OnChip s w a 32 .write k va) :
    ∃ u, exec (.rstatDescriptor h a i) s = .next u ∧ Stored s u h va (leBytes 32 (ringNat g)) := by
  refine issue_stores hi hu hp hm (c := a) (k := k) (by rwa [length_leBytes]) ?_
  simp only [detCheck_of hdet, noSpec_of hp.1, hlt, hg, ok_bind, if_true]

end

/-- Settles O24: installing, attaching and removing a ring, advancing it, and reading its state. -/
theorem ringResults : Obligations.RingResults := by
  intro s w h x n r i a b k c g va hi hp hu t ring m slog nlog
  refine ⟨fun hcl hb hbusy hlt he hc ho h1 h2 h3 h4 h5 h6 hk hag hch hby hr hw hg => ?_, fun h0 hh hlt hg hn ho => ?_,
    fun hb hlt hg hheld he hrecs hr => rbindRemove_removes hi hp hb hg hlt hheld he hrecs hr, fun hd hg => ⟨fun hx hf h0 hc hh hq => ?_,
      fun hdet => rstatFill_reads hi hp hdet hd hg⟩, fun hdet hlt hg hm ho => rstatDescriptor_stores hi hu hp hm hdet hlt hg ho⟩
  · have hn : (decide (RegImm.nat n s < 16) && (s.ring (RegImm.nat n s)).isNone) = true := by simp [show RegImm.nat n s < 16 from hlt, show s.ring (RegImm.nat n s) = none from he]
    have hdesc : (field m 0 3 ≤ 6 && field m 3 4 ≤ 8 && !bit m 7 && field m 38 2 == 0 && field m 48 16 == 0
        && field m 192 64 == 0) = true := by simp_all [slog, nlog]
    have hbuf : (c.kind == .tile && c.agent == s.cur.tile && c.chip == s.chip && 64 * 2 ^ field m 0 3 * 2 ^ field m 3 4 ≤ c.bytes)
        = true := by simp_all [slog, nlog]
    obtain ⟨s', hf, hex⟩ := rbindInstall_installs hi hp hu hcl hb hbusy hn hc ho rfl hdesc hbuf (by simp [hr, hw, hg])
    obtain ⟨hcomp, hctr, hring⟩ := installed (s := s) (v := (s'.setC b.c.toNat none).putRing ring (ringOf m c w.kslot))
      hf.mem hf.parts hf.cts hf.cur hf.cycle
      ((congrArg Context.regs (State.ctx_onLocal _ _)).trans (by rw [State.setC_eq, ← State.regs, State.regs_onCtx, hf.regs]; rfl))
      (putRing_ring _ _ _) (field m 40 8) h
    exact ⟨_, hex, hcomp, hctr, _, hring, rfl, rfl, rfl, rfl, rfl, rfl, rfl, rfl, rfl, rfl⟩
  · exact rbindAttach_attaches hi hp (by simp_all)
  · exact radv_advances hi hp hu.2.1 hd hg hx rfl hf h0 hh hq

end Sys2Proof.Machine
end

section
/-!
PROOFS. Operations for memory agents (R353) and collectives (R416, R417, R419).
-/

namespace Sys2Proof.Machine

section
variable {s s' u : State} {h : Hint} {w : Who}

/-! ## What a check and a translation leave -/

/-- A check and a translation change the validation cache of the core and the translations that its tile and cluster keep. -/
structure Looked (s u : State) : Prop where
  mem : u.mem = s.mem
  parts : u.parts = s.parts
  cur : u.cur = s.cur
  cycle : u.cycle = s.cycle
  chip : u.chip = s.chip
  cts : u.cts = s.cts
  loc : (u.tile s.cur.tile).loc = (s.tile s.cur.tile).loc
  core : ∃ vc l1, (u.tile s.cur.tile).core = { (s.tile s.cur.tile).core with vcache := vc, l1 := l1 }

theorem Looked.trans (hs : Looked s s') (hu : Looked s' u) : Looked s u := by
  obtain ⟨vc, l1, hc⟩ := hs.core
  obtain ⟨vc', l1', hc'⟩ := hu.core
  refine ⟨hu.mem.trans hs.mem, hu.parts.trans hs.parts, hu.cur.trans hs.cur, hu.cycle.trans hs.cycle, hu.chip.trans hs.chip,
    hu.cts.trans hs.cts, ?_, vc', l1', ?_⟩
  · rw [← hs.cur, hu.loc, hs.cur, hs.loc]
  · rw [← hs.cur, hc', hs.cur, hc]

theorem Looked.refl (s : State) : Looked s s := ⟨rfl, rfl, rfl, rfl, rfl, rfl, rfl, _, _, rfl⟩

theorem Looked.validated (s : State) (p : Nat) (k : Cap) : Looked s (s.validated s.cur.tile p k) :=
  ⟨rfl, rfl, rfl, rfl, rfl, rfl, State.loc_onCore _ _ _, _, _, State.core_onCore_self _ _⟩

theorem Looked.keepTlb (s : State) (pn : Nat) (p : Part) (e : TlbEntry) : Looked s (s.keepTlb s.cur.tile pn p e) := by
  let f (k : CoreSt) : CoreSt := { k with l1 := (e :: k.l1).take 384 }
  exact ⟨rfl, rfl, rfl, rfl, rfl, rfl, State.loc_onCore s.cur.tile f _, _, _, State.core_onCore_self s.cur.tile f⟩

theorem Looked.translate (s : State) (pn : Nat) (p : Part) (xl : Xlat) (va : Nat) (wr op : Bool) :
    Looked s (s.translate s.cur.tile pn p xl va wr op).1 := by
  unfold State.translate
  dsimp only
  split
  · exact .refl s
  · split
    · exact .keepTlb s _ _ _
    · exact .refl s

theorem Looked.of_translate {k : Cap} {va out : Nat} {wr op : Bool} {p : Part} {pn : Nat} {xl : Xlat}
    (ht : (s.validated s.cur.tile pn k).translate s.cur.tile pn p xl va wr op = (s', .ok out)) : Looked s s' := by
  have := (Looked.validated s pn k).trans (Looked.translate (s.validated s.cur.tile pn k) pn p xl va wr op)
  rwa [show (s.validated s.cur.tile pn k).cur.tile = s.cur.tile from rfl, ht] at this

theorem Looked.ctx (hs : Looked s u) : u.ctx = s.ctx := by
  obtain ⟨vc, l1, hc⟩ := hs.core
  simp [State.ctx, State.ctxAt, hs.cur, hc]

theorem Looked.queue (hs : Looked s u) : u.mxQueue = s.mxQueue := by
  obtain ⟨vc, l1, hc⟩ := hs.core
  simp [State.mxQueue, CoreSt.queueOf, hs.cur, hc]

theorem Looked.shz (hs : Looked s u) (t : Nat) : u.shz t = s.shz t := by simp [State.shz, State.partOfTile, hs.parts]

theorem Looked.prompt (hs : Looked s u) (hp : Prompt s) : Prompt u := by
  unfold Prompt at hp ⊢
  rwa [hs.ctx, hs.shz, hs.cur]

theorem Looked.vn0 (hs : Looked s u) : (u.tile u.cur.tile).core.vn0Used = (s.tile s.cur.tile).core.vn0Used := by
  obtain ⟨vc, l1, hc⟩ := hs.core
  rw [hs.cur, hc]
  rfl

theorem Looked.ord (hs : Looked s u) : u.nextOrd = s.nextOrd := by
  obtain ⟨vc, l1, hc⟩ := hs.core
  rw [State.nextOrd, hs.cur, hc]
  rfl

theorem Looked.prepared (hs : Looked s u) : Prepared s u id := by
  refine ⟨congrArg Context.regs hs.ctx, congrArg Context.run hs.ctx, rfl, hs.cur, hs.cycle, fun a => byte_of_mem hs.mem hs.parts a, ?_,
    hs.ord, congrArg Local.recs hs.loc⟩
  obtain ⟨vc, l1, hc⟩ := hs.core
  rw [hc]

theorem Looked.packet (hs : Looked s u) (w : Who) (vn : Nat) (dst : Place) (len : Nat) (b : Body) :
    u.corePacket w vn dst len b = s.corePacket w vn dst len b := by
  simp [State.corePacket, State.dueAt, hs.chip, hs.cur, hs.cycle, hs.shz]

/-! ## AOP and AOPR -/

theorem writeBusy_nil (hq : s.mxQueue = []) (a n : Nat) : (s.writeBusy a n || s.readBusy a n) = false := by
  simp [State.writeBusy, State.readBusy, hq]

/-- CheckCap and Translate for an element in HBM. -/
theorem access_hbm {c : CapOp} {n : Nat} {k : Cap} {va out : Nat} (hk : s.c c.c.toNat = some k) (hr : s.ctx.run.rejected = [])
    (hc : s.checkCap (s.tile s.cur.tile).core.vcache w.kernel.supv (some k) .operation (CapOp.index c s.regs * n) n = .ok va)
    (hva : va / 2 ^ 52 = 0)
    (ht : (s.validated s.cur.tile w.pnum k).translate s.cur.tile w.pnum w.part w.kernel.xlat va true true = (s', .ok out))
    (hcov : w.part.prec.covers out 1 = true) (hex : physExists (w.part.prec.phys out) = true) :
    s.access w c n .operation = .ok (s', k, (CapOp.index c s.regs * n).toNat, .phys (w.part.prec.phys out)) := by
  have hcur : (s.validated s.cur.tile w.pnum k).cur.tile = s.cur.tile := rfl
  have hres (r : Nat) (e : Option Cap) : (s.validated s.cur.tile w.pnum k).resolve w va true true r e 0
      = .ok (s', .phys (w.part.prec.phys out)) := by
    unfold State.resolve
    rw [if_pos (.inl hva), hcur, ht]
    simp only [hva, hcov, hex, Bool.and_self, if_true]
    rfl
  unfold State.access
  simp only [hk, hc, hr, List.isEmpty_nil, Bool.not_true, Bool.false_eq_true, if_false]
  change ((s.validated s.cur.tile w.pnum k).resolve w va true true c.c.toNat (some k) 0 >>= _) = _
  rw [hres]
  rfl

/-- An operation whose checks pass joins the injection queue. -/
theorem operation_posts (hp : Prompt s) {n : BitVec 4} {f : BitVec 3} {c : CapOp} {a : Reg} {k : Cap} {va out : Nat}
    (hdet : 7 ≤ n.toNat → w.image.det = false) (hk : s.c c.c.toNat = some k) (hkind : k.kind = .hbm) (hr : s.ctx.run.rejected = [])
    (hq : s.mxQueue = []) (hg : groupOk a (aopWords n.toNat) = true)
    (h11 : n = 11 → 1 ≤ ((s.group a (aopWords n.toNat)).getD 0 0).toNat ∧ ((s.group a (aopWords n.toNat)).getD 0 0).toNat ≤ 64)
    (h10 : n = 10 → ((s.group a (aopWords n.toNat)).getD 0 0).toNat % 8 = 0 ∧ ((s.group a (aopWords n.toNat)).getD 0 0).toNat + 8 ≤ k.bytes)
    (hc : s.checkCap (s.tile s.cur.tile).core.vcache w.kernel.supv (some k) .operation
      (CapOp.index c s.regs * (opBytes n.toNat f.toNat : Nat)) (opBytes n.toNat f.toNat) = .ok va)
    (hva : va / 2 ^ 52 = 0) (hv : (s.tile s.cur.tile).core.vn0Used < 32)
    (ht : (s.validated s.cur.tile w.pnum k).translate s.cur.tile w.pnum w.part w.kernel.xlat va true true = (s', .ok out))
    (hcov : w.part.prec.covers out 1 = true) (hex : physExists (w.part.prec.phys out) = true) (ret : Option LandAt) :
    operation s w n.toNat f.toNat c a ret = .ok ((s'.posted (.packet (s.corePacket w 0
      ⟨s.chip, agentTile (w.part.prec.phys out / 2 ^ 31)⟩ (16 + 8 * aopWords n.toNat)
      (.op n.toNat f.toNat k (CapOp.index c s.regs * (opBytes n.toNat f.toNat : Nat)).toNat (s.group a (aopWords n.toNat)) ret w.kernel.xlat
        (w.part.prec.offset (w.part.prec.phys out)) s.nextOrd)) false) none).onRun fun r => { r with noRetry := true }) := by
  have hl : Looked s s' := .of_translate ht
  have hneed : (groupOk a (aopWords n.toNat) && (n.toNat != 11 || (1 ≤ ((s.group a (aopWords n.toNat)).getD 0 0).toNat
      && ((s.group a (aopWords n.toNat)).getD 0 0).toNat ≤ 64))) = true := by
    by_cases hn : n = 11
    · obtain ⟨hlo, hhi⟩ := h11 hn
      rw [hg, decide_eq_true hlo, decide_eq_true hhi]
      simp
    · have : n.toNat ≠ 11 := fun he => hn (BitVec.eq_of_toNat_eq he)
      simp [hg, this]
  have hnode : ¬(n.toNat = 10 ∧ (((s.group a (aopWords n.toNat)).getD 0 0).toNat % 8 ≠ 0
      ∨ k.bytes < ((s.group a (aopWords n.toNat)).getD 0 0).toNat + 8)) := by
    rintro ⟨hn, hor⟩
    have := h10 (BitVec.eq_of_toNat_eq hn)
    omega
  have hpost : s'.postPacket w ⟨s'.chip, agentTile (w.part.prec.phys out / 2 ^ 31)⟩ (16 + 8 * aopWords n.toNat)
      (.op n.toNat f.toNat k (CapOp.index c s.regs * (opBytes n.toNat f.toNat : Nat)).toNat (s.group a (aopWords n.toNat)) ret w.kernel.xlat
        (w.part.prec.offset (w.part.prec.phys out)) s'.nextOrd) none
      = .ok (s'.posted (.packet (s.corePacket w 0 ⟨s.chip, agentTile (w.part.prec.phys out / 2 ^ 31)⟩ (16 + 8 * aopWords n.toNat)
      (.op n.toNat f.toNat k (CapOp.index c s.regs * (opBytes n.toNat f.toNat : Nat)).toNat (s.group a (aopWords n.toNat)) ret w.kernel.xlat
        (w.part.prec.offset (w.part.prec.phys out)) s.nextOrd)) false) none) := by
    rw [postPacket_ok (hl.prompt hp) (by rw [hl.vn0]; exact hv), hl.packet, hl.chip, hl.ord]
  have hbusy := writeBusy_nil (hl.queue.trans hq) (w.part.prec.phys out) (opBytes n.toNat f.toNat)
  unfold operation
  simp only [need_of hneed, noSpec_of hp.1, hk, hkind, hc, if_neg hnode, access_hbm hk hr hc hva ht hcov hex, waitWhile_of hbusy, hpost,
    ok_bind]
  split
  · rw [detCheck_of (hdet ‹_›)]
    rfl
  · rfl

theorem aop_posts (hi : Issues s h w) (hl : Looked s s') {q : Packet} {body : Who → Eff State}
    (hcar : ∀ u : State, u.carried u.cur.tile (.packet q false) = u)
    (hb : body w = .ok ((s'.posted (.packet q false) none).onRun fun r => { r with noRetry := true })) :
    ∃ u, issue s h body = .next u ∧ Sent s u h id q ∧ u.ctx.run.noRetry = true ∧ u.cts = s.cts := by
  obtain ⟨u, hu, hs, hrun, hcts⟩ := issue_injects hi hl.prepared ((posted_packet s' q none).onRun _) hb
  refine ⟨u, hu, hs, ?_, ?_⟩
  · rw [hrun, State.onRun_eq, State.ctx_onCtx]
  · rw [hcts, hcar, hl.cts]

end

/-- Settles O39: the checks pass, and one packet joins the injection queue. -/
theorem agentOperations : Obligations.AgentOperations := by
  intro s s' w h n f c a l k va out at' hi hp hn hdet hk hkind hr hq size args a0 hg h11 h10 hc hva hv ht p hcov hex posts
  have hl : Looked s s' := .of_translate ht
  have hop := operation_posts hp hdet hk hkind hr hq hg h11 h10 hc hva hv ht hcov hex
  refine ⟨aop_posts hi hl (fun _ => rfl) (hop none), fun hland h9 => ?_⟩
  have hneed : (n != 9 || at'.reg ≤ 30) = true := Bool.or_eq_true_iff.mpr (h9.imp bne_iff_ne.mpr decide_eq_true)
  refine aop_posts hi hl (fun _ => rfl) ?_
  by_cases h7 : 7 ≤ n.toNat
  · simp only [if_pos h7, detCheck_of (hdet h7), hland, need_of hneed, hop, ok_bind]
    rfl
  · simp only [if_neg h7, hland, need_of hneed, hop, ok_bind]
    rfl

/-! ## Collectives -/

section
variable {s : State} {h : Hint} {w : Who}

/-- A collective instruction whose checks pass sends one packet to a fabric interface. -/
theorem collective_posts (hi : Issues s h w) (hp : Prompt s) (hv : (s.tile s.cur.tile).core.vn0Used < 32) {chip len : Nat} {b : Body}
    (hcar : (s.carried s.cur.tile (.packet (s.corePacket w 0 ⟨chip, fabricTile⟩ len b) false)).cts = s.cts)
    {body : Who → Eff State} (hb : body w = do
      let s ← s.postPacket w ⟨chip, fabricTile⟩ len b none
      .ok s.notRetriable) :
    ∃ u, issue s h body = .next u ∧ Sent s u h id (s.corePacket w 0 ⟨chip, fabricTile⟩ len b) ∧ u.ctx.run.noRetry = true
      ∧ u.cts = s.cts := by
  obtain ⟨u, hu, hs, hrun, hcts⟩ := issue_injects hi (.refl s)
    ((posted_packet s (s.corePacket w 0 ⟨chip, fabricTile⟩ len b) none).onRun fun r => { r with noRetry := true })
    (hb.trans (by rw [postPacket_ok hp hv]; rfl))
  exact ⟨u, hu, hs, by rw [hrun, State.onRun_eq, State.ctx_onCtx], hcts.trans hcar⟩

/-- What a collective instruction answers once it has sent. -/
abbrev Posts (s : State) (h : Hint) (w : Who) (i : Instr) (chip len : Nat) (b : Body) : Prop :=
  ∃ u, exec i s = .next u ∧ Sent s u h id (s.corePacket w 0 ⟨chip, fabricTile⟩ len b) ∧ u.ctx.run.noRetry = true ∧ u.cts = s.cts

section
variable {t : Ty} {a b : Reg} (hi : Issues s h w) (hp : Prompt s) (hv : (s.tile s.cur.tile).core.vn0Used < 32)
include hi hp hv

theorem collopen_posts {l : LandDest} {at' : LandAt} {home x : Nat} (hh : (s.x a).toNat = home) (hx : (s.x b).toNat = x)
    (hn : (home < 1024 && !bit x 7 && field x 12 4 == 0 && field x 24 40 == 0 && 1 ≤ field x 0 7 && field x 0 7 ≤ 64
        && 1 ≤ field x 16 8 && collAccepts (field x 8 4) t.code) = true)
    (hc : s.homeChip home = true) (hl : landPlace s w l = .ok at') (h9 : at'.reg ≤ 30) :
    Posts s h w (.collopen h t l a b) home 24 (.collOpen (field x 8 4) t.code (field x 0 7) (field x 16 8) at') := by
  refine collective_posts hi hp hv rfl ?_
  simp only [noSpec_of hp.1, hh, hx, need_of hn, hc, hl, need_of (decide_eq_true h9), Bool.not_true, Bool.false_eq_true, if_false,
    ok_bind]

theorem collclose_posts {home : Nat} (hh : (s.x a).toNat = home) (hz : handleZero home = true)
    (hc : s.homeChip (handleChip home) = true) :
    Posts s h w (.collclose h a) (handleChip home) 24 (.collClose (s.x a)) := by
  refine collective_posts hi hp hv rfl ?_
  simp only [noSpec_of hp.1, hh, need_of hz, hc, Bool.not_true, Bool.false_eq_true, if_false, ok_bind]

theorem coll_posts {g : CollDest} {dest : RecordDest} {home : Nat} (hh : (s.x a).toNat = home) (hb : b.toNat ≤ 30)
    (hn : (handleZero home && t.code == field home 40 4 && (s.x (b + 1)).toNat < handleCount home) = true)
    (hc : s.homeChip (handleChip home) = true) (hd : recordPlace s w g = .ok dest) :
    Posts s h w (.coll h t g a b) (handleChip home) 40
      (.contrib (s.x a) (s.x (b + 1)).toNat (word ((s.x b).toNat % 2 ^ t.width)) dest w.kernel.vf) := by
  refine collective_posts hi hp hv rfl ?_
  simp only [need_of (decide_eq_true hb), hh, need_of hn, hc, hd, Bool.not_true, Bool.false_eq_true, if_false, ok_bind]

end

end

/-- Settles O41: the operand checks pass, and one packet goes to the home chip's fabric interface. -/
theorem collectiveInstructions : Obligations.CollectiveInstructions := by
  intro s w h t l g a b at' dest hi hp hv home x posts
  refine ⟨fun h1 h2 h3 h4 h5 h6 h7 h8 hc hl h9 => collopen_posts hi hp hv rfl rfl (by simp_all) hc hl h9,
    fun h1 hc => ⟨collclose_posts hi hp hv rfl h1 hc, fun h2 h3 h4 hd => coll_posts hi hp hv rfl h2 ?_ hc hd⟩⟩
  rw [h1, decide_eq_true h4, h3, beq_self_eq_true]
  rfl

end Sys2Proof.Machine
end

section
/-!
PROOFS. Barriers and lookahead (R376 to R391).
-/

namespace Sys2Proof.Machine

section
variable {s s' u : State} {h : Hint} {w : Who}

/-! ## A checked write and what is kept for a rollback -/

/-- A checked write, performed or kept in the horizon's log, changes no byte but those of its place, no register and nothing that
tasks share. -/
structure WroteOut (s u : State) (a n : Nat) : Prop where
  byte : SameMemoryBut s u a n
  cur : u.cur = s.cur
  cycle : u.cycle = s.cycle
  chip : u.chip = s.chip
  cts : u.cts = s.cts
  regs : u.ctx.regs = s.ctx.regs
  loc : ∀ t, (u.tile t).loc = (s.tile t).loc
  killed : ∀ t, (u.tile t).killed = (s.tile t).killed

theorem State.killed_onCore (s : State) (t : Nat) (f : CoreSt → CoreSt) (n : Nat) : ((s.onCore t f).tile n).killed = (s.tile n).killed := by
  unfold State.onCore
  by_cases hn : n = t
  · subst hn; simp
  · rw [State.tile_onTile_ne s _ hn]

theorem Wrote.wroteOut {a : Nat} {bs : List Byte} (hw : Wrote s u a bs) : WroteOut s u a bs.length := by
  refine ⟨fun b hb => hw.byte_outside hb, hw.cur, hw.cycle, hw.chip, hw.cts, congrArg Context.regs hw.ctx, fun t => ?_, fun t => ?_⟩ <;>
    simp [State.tile, hw.tiles]

theorem writeOut_either (hon : s.ctx.spec.on = false) (c : Cap) (off a : Nat) (bs : List Byte) :
    ∃ u, s.writeOut c off a bs = .ok u ∧ WroteOut s u a bs.length := by
  unfold State.writeOut
  rw [if_neg (by simp [hon])]
  split
  · refine ⟨_, rfl, fun _ _ => rfl, rfl, rfl, rfl, rfl, ?_, fun t => ?_, fun t => ?_⟩
    · rw [State.ctx_onCtx]
      rw [(takeOrd_givenUp s).ctx]
    · rw [State.loc_onCtx]
      exact (takeOrd_givenUp s).loc t
    · refine (State.killed_onCore _ _ _ t).trans ?_
      exact State.killed_onCore _ _ _ t
  · exact ⟨_, rfl, (perform_wrote s _ c a bs).wroteOut⟩

/-- What is kept for a rollback changes the core of the tile only. -/
theorem remember_cases {P : State → Prop} (s : State) (r : Undo) (h0 : P s)
    (h1 : P (s.onCore s.cur.tile fun k => { k with undo := (s.cur.ctx, r) :: k.undo })) : P (s.remember r) := by
  unfold State.remember
  split
  · exact h1
  · exact h0

theorem WroteOut.remember {a n : Nat} (hw : WroteOut s u a n) (r : Undo) : WroteOut s (u.remember r) a n :=
  remember_cases (P := fun v => WroteOut s v a n) u r hw ⟨hw.byte, hw.cur, hw.cycle, hw.chip, hw.cts,
    (congrArg Context.regs (ctx_onCore _ _ _ (by exact fun _ => rfl))).trans hw.regs, fun t => (State.loc_onCore _ _ _).trans (hw.loc t),
    fun t => (State.killed_onCore _ _ _ t).trans (hw.killed t)⟩

/-! ## BARINIT -/

/-- What BARINIT does behind its write: the entry sealed, the capability replaced by the sealed one, the barrier listed. -/
def State.barred (s : State) (k : Nat) (e : CtEntry) (r : Undo) (ca cd : Nat) (c : Cap) (b : Nat) (bar : Barrier) (r' : Undo) : State :=
  let v := (s.setCt k e).remember r
  (((v.setC ca none).setC cd (some c)).onLocal v.cur.tile fun l => { l with bars := aset l.bars b bar }).remember r'

/-- What `barred` leaves and changes. -/
structure Barred (s v : State) (k : Nat) (e : CtEntry) (ca cd : Nat) (c : Cap) (b : Nat) (bar : Barrier) : Prop where
  mem : v.mem = s.mem
  parts : v.parts = s.parts
  cur : v.cur = s.cur
  cycle : v.cycle = s.cycle
  ct : v.ct k = e
  regs : v.ctx.regs = (s.ctx.regs.writeC ca none).writeC cd (some c)
  bar : aget? (v.tile s.cur.tile).loc.bars b = some bar

theorem Barred.remember {v : State} {k : Nat} {e : CtEntry} {ca cd : Nat} {c : Cap} {b : Nat} {bar : Barrier}
    (hv : Barred s v k e ca cd c b bar) (r : Undo) : Barred s (v.remember r) k e ca cd c b bar :=
  remember_cases (P := fun v => Barred s v k e ca cd c b bar) v r hv
    ⟨hv.mem, hv.parts, hv.cur, hv.cycle, hv.ct, (congrArg Context.regs (ctx_onCore _ _ _ (by exact fun _ => rfl))).trans hv.regs,
      (congrArg (fun l : Local => aget? l.bars b) (State.loc_onCore _ _ _)).trans hv.bar⟩

theorem bars_listed (v : State) (t b : Nat) (bar : Barrier) :
    aget? ((v.onLocal t fun l => { l with bars := aset l.bars b bar }).tile t).loc.bars b = some bar := by
  rw [State.loc_onLocal_self, aget?_aset_self]

theorem setCt_barred (s : State) (k : Nat) (e : CtEntry) (ca cd : Nat) (c : Cap) (b : Nat) (bar : Barrier) (g : CoreSt → CoreSt)
    (hg : ∀ k, (g k).ctxs = k.ctxs) :
    Barred s (((((s.setCt k e).onCore s.cur.tile g).setC ca none).setC cd (some c)).onLocal s.cur.tile
      fun l => { l with bars := aset l.bars b bar }) k e ca cd c b bar := by
  have hctx : ((s.setCt k e).onCore s.cur.tile g).ctx = s.ctx := ctx_onCore (s.setCt k e) _ _ hg
  refine ⟨rfl, rfl, rfl, rfl, aget_aset_self _ _ _ _, ?_, ?_⟩
  · rw [State.ctx_onLocal, setC_setC, State.onRegs_eq, State.ctx_onCtx, hctx]
  · exact bars_listed _ s.cur.tile b bar

theorem barred_spec (s : State) (k : Nat) (e : CtEntry) (r : Undo) (ca cd : Nat) (c : Cap) (b : Nat) (bar : Barrier) (r' : Undo) :
    Barred s (s.barred k e r ca cd c b bar r') k e ca cd c b bar := by
  refine Barred.remember ?_ r'
  refine remember_cases (P := fun v => Barred s (((v.setC ca none).setC cd (some c)).onLocal v.cur.tile
    fun l => { l with bars := aset l.bars b bar }) k e ca cd c b bar) _ r ?_ ?_
  · refine ⟨rfl, rfl, rfl, rfl, aget_aset_self _ _ _ _, ?_, bars_listed _ s.cur.tile b bar⟩
    rw [State.ctx_onLocal, setC_setC, State.onRegs_eq, State.ctx_onCtx]
    rfl
  · exact setCt_barred s k e ca cd c b bar _ fun _ => rfl

/-- An exclusive buffer of one granule on this tile, with every right, of which nothing is out. -/
structure MayBar (s : State) (c : Cap) : Prop where
  mode : c.mode = .exclusive
  rights : c.rights.r = true ∧ c.rights.w = true ∧ c.rights.g = true
  kind : c.kind = .tile
  agent : c.agent = s.cur.tile
  chip : c.chip = s.chip
  one : c.wlen = 1
  current : s.current c = true
  recl : (s.ct c.key).recl = none
  tokens : (s.ct c.key).tokOut + (s.ct c.key).tokLost = 0
  laopen : (s.ct c.key).laopen = false

theorem barinit_bars (hi : Issues s h w) {d a : CapOp} {b : Reg} {c : Cap} {n : Nat} (hd : d.whole = true) (ha : a.whole = true)
    (hon : s.ctx.spec.on = false) (hw : s.written s.cur.tile s.cur.ctx c.key = true) (hbd : s.capBusy d.c.toNat = false)
    (hba : s.capBusy a.c.toNat = false) (hx : (s.x b).toNat = n)
    (hn : ((s.c d.c.toNat).isNone && field n 24 40 == 0 && 1 ≤ field n 13 7 && field n 13 7 ≤ 64
      && field n 0 13 + field n 13 7 ≤ w.kernel.tiles.length && (aget? (s.tile s.cur.tile).loc.bars (field n 20 4)).isNone) = true)
    (hc : s.c a.c.toNat = some c) (hm : MayBar s c) :
    ∃ t r r', WroteOut s t (s.windowBase c) 64 ∧ exec (.barinit h d a b) s = .next ((t.barred c.key
      { s.ct c.key with state := .sealed, maxr := { (s.ct c.key).maxr with w := false } } r a.c.toNat d.c.toNat
      { c with mode := .sealed, rights := ⟨true, false, false, true⟩ } (field n 20 4)
      { ctidx := c.ctidx, hallmark := c.hallmark, rbase := field n 0 13, n := field n 13 7, kslot := w.kslot, phase := 0,
        arrived := [], killed := s.killedParties w.kernel w.kslot (field n 0 13) (field n 13 7), pubs := [], prev := [],
        completing := false } r').onward h) := by
  obtain ⟨t, ht, hwr⟩ := writeOut_either hon c 0 (s.windowBase c) (leBytes 64 n)
  have hlen : (leBytes 64 n).length = 64 := length_leBytes 64 n
  rw [hlen] at hwr
  obtain ⟨hmode, ⟨hr, hwt, hg⟩, hkind, hag, hch, hone, hcur, hrecl, htok, hla⟩ := hm
  have hn2 : (c.mode == .exclusive && c.rights.r && c.rights.w && c.rights.g && c.kind == .tile && c.agent == s.cur.tile
        && c.chip == s.chip && c.wlen == 1) = true := by simp [hmode, hr, hwt, hg, hkind, hag, hch, hone]
  have hwait : ((s.ct c.key).recl.isSome || !s.written s.cur.tile s.cur.ctx c.key) = false := by simp [hrecl, hw]
  have hla' : (!(s.ct c.key).laopen) = true := by simp [hla]
  have htk : ¬0 < (s.ct c.key).tokOut + (s.ct c.key).tokLost := by omega
  have hct : t.ct c.key = s.ct c.key := by simp [State.ct, hwr.cts]
  have hkill (v : State) (hv : ∀ n, (v.tile n).killed = (s.tile n).killed) (k : Kernel) (ks r n : Nat) :
      v.killedParties k ks r n = s.killedParties k ks r n := by simp [State.killedParties, Tile.groupKilled, hv]
  have hk := hkill ((t.setCt c.key { s.ct c.key with state := .sealed, maxr := { (s.ct c.key).maxr with w := false } }).remember
    (.entry t.cycle c.key c.hallmark 0 ((s.ct c.key).state, (s.ct c.key).maxr)))
    (remember_cases (P := fun v => ∀ n, (v.tile n).killed = (s.tile n).killed) _ _ hwr.killed
      fun n => (State.killed_onCore _ _ _ n).trans (hwr.killed n))
  refine ⟨t, .entry t.cycle c.key c.hallmark 0 ((s.ct c.key).state, (s.ct c.key).maxr),
    .bar ((t.setCt c.key { s.ct c.key with state := .sealed, maxr := { (s.ct c.key).maxr with w := false } }).remember
    (.entry t.cycle c.key c.hallmark 0 ((s.ct c.key).state, (s.ct c.key).maxr))).cycle (field n 20 4), hwr, issue_ok hi ?_⟩
  simp only [wholeCap_of hd, wholeCap_of ha, capPair_of hbd hba, noSpec_of hon, hx, need_of hn, hc, need_of hn2, waitWhile_of hwait, hcur,
    Bool.not_true, Bool.false_eq_true, if_false, if_neg htk, need_of hla', ht, ok_bind, hct, hk, State.barred]

/-! ## Arriving -/

theorem barrierOf_at {i bidx : Nat} {c : Cap} {bar : Barrier} (hc : s.c i = some c) (hb : AtBarrier s w c bidx bar) :
    barrierOf s w i = .ok (c, bidx, bar) := by
  obtain ⟨hmode, hkind, hchip, hbar, hct, hh, hk, hone, hlo, hhi⟩ := hb
  have hf : ((s.tile c.agent).loc.bars.filter fun b => b.2.ctidx == c.ctidx && b.2.kslot == w.kslot).find?
      (fun b => b.2.hallmark == c.hallmark) = some (bidx, bar) := by
    rw [List.find?_filter]
    cases hx : (s.tile c.agent).loc.bars.find? fun a =>
        decide ((a.2.ctidx == c.ctidx && a.2.kslot == w.kslot) = true ∧ (a.2.hallmark == c.hallmark) = true) with
    | none =>
      have := List.find?_eq_none.mp hx _ (aget?_mem hbar)
      simp [hct, hh, hk] at this
    | some x =>
      have hp := List.find?_some hx
      simp only [Bool.and_eq_true, beq_iff_eq, decide_eq_true_eq] at hp
      rw [hone x (List.mem_of_find?_eq_some hx) hp.1.1 hp.2 hp.1.2]
  simp only [barrierOf, hc, hf, Option.orElse_some, hmode, hkind, hchip, hlo, hhi, beq_self_eq_true, decide_true, Bool.and_self, if_true]

theorem publication_of {a : CapOp} {p : Cap} (ha : a.whole = true) (hb : s.capBusy a.c.toNat = false) (hp : s.c a.c.toNat = some p)
    (hm : p.mode = .exclusive) (hg : p.rights.g = true) (hk : p.kind = .tile ∨ p.kind = .cluster) (hch : p.chip = s.chip)
    (hr : (s.ct p.key).recl = none) (hcur : s.current p = true) (hl : (s.ct p.key).laopen = false) :
    publication s (some a) = .ok (some p) := by
  have hn : (p.mode == .exclusive && p.rights.g && (p.kind == .tile || p.kind == .cluster) && p.chip == s.chip) = true := by
    obtain hk | hk := hk <;> simp [hm, hg, hk, hch]
  have hw : (s.ct p.key).recl.isSome = false := by simp [hr]
  have hl' : (!(s.ct p.key).laopen) = true := by simp [hl]
  simp only [publication, wholeCap_of ha, waitWhile_of hb, hp, need_of hn, waitWhile_of hw, hcur, need_of hl', Bool.not_true,
    Bool.false_eq_true, if_false, ok_bind]

/-- The packet of an arrival. -/
def State.arrival (s : State) (w : Who) (c : Cap) (bidx : Nat) (pub : Option Cap) (x : Word) (ends : Bool) : Packet :=
  s.corePacket w 2 ⟨s.chip, c.agent⟩ 24 (.arrive bidx c.hallmark (w.kernel.rank s.cur.tile) pub x s.cur.ctx ends)

/-- An arrival is posted, and the context waits for the home's answer. -/
theorem arrive_holds (hi : Issues s h w) (hp : Prompt s) {d : CapOp} {a : Option CapOp} {b : Reg} {c : Cap} {bidx : Nat} {bar : Barrier}
    (hd : d.whole = true) (hc : s.c d.c.toNat = some c) (hb : AtBarrier s w c bidx bar) (h63 : bit (s.x b).toNat 63 = false)
    (hq : ∀ q ∈ pubDests (s.x b), q.1 < w.kernel.tiles.length) {pub : Option Cap} (hab : (a.isSome || b == 0) = true)
    (hpub : publication s a = .ok pub) {ends : Bool}
    (he : ends = true → s.ctx.vecBusy = none ∧ s.ctx.mx.queue = [] ∧ s.ctx.mx.err = none) :
    ∃ u, issue s h (fun w => arrive s w d a b ends) = .next u ∧ u.regs = s.regs
      ∧ u.ctx.hold = .barrier ⟨s.chip, c.agent⟩ bidx ends ∧ SameMemory s u ∧ u.cts = s.cts
      ∧ (u.tile s.cur.tile).core.inj = (s.tile s.cur.tile).core.inj
          ++ [⟨2, s.cur.ctx, false, s.arrival w c bidx pub (s.x b) ends, s.nextOrd⟩] := by
  have hq' := posted_packet s (s.arrival w c bidx pub (s.x b) ends) none
  have hw : (ends && (s.ctx.vecBusy.isSome || !s.ctx.mx.queue.isEmpty)) = false := by
    cases ends with
    | false => rfl
    | true => obtain ⟨hv, hm, -⟩ := he rfl; simp [hv, hm]
  have hn : (!bit (s.x b).toNat 63 && ((pubDests (s.x b)).all fun d => d.1 < w.kernel.tiles.length) && (a.isSome || b == 0)) = true := by
    rw [h63, hab]
    simpa using hq
  refine ⟨_, issue_error hi (e := ((s.posted (.packet (s.arrival w c bidx pub (s.x b) ends) false) none).onCtx fun v =>
    { v with hold := .barrier ⟨s.chip, c.agent⟩ bidx ends }, .wait)) ?_, ?_⟩
  · simp only [arrive, wholeCap_of hd, noSpec_of hp.1, waitWhile_of hw, barrierOf_at hc hb, need_of hn, hpub, ok_bind]
    split
    · rename_i herr
      simp [(he rfl).2.2] at herr
    · rw [post_ok hp]
      rfl
  · generalize s.posted (.packet (s.arrival w c bidx pub (s.x b) ends) false) none = v at hq' ⊢
    exact ⟨(State.regs_onCtx _ _).trans hq'.regs, by rw [State.ctx_onCtx], fun n => byte_of_mem hq'.mem hq'.parts n, hq'.cts,
      (State.inj_onCtx _ _ _).trans hq'.inj⟩

/-! ## CLOOK -/

/-- What CLOOK checks before it looks for a publication. -/
structure MayLook (s : State) (w : Who) (d a : CapOp) (c : Cap) (bidx : Nat) (bar : Barrier) (r : Nat) : Prop where
  on : s.ctx.spec.on = true
  free : s.capBusy d.c.toNat = false
  cap : s.c a.c.toNat = some c
  at' : AtBarrier s w c bidx bar
  home : s.ctx.spec.bar = ⟨s.chip, c.agent⟩
  bidx : s.ctx.spec.bidx = bidx
  empty : s.c d.c.toNat = none
  party : r < bar.n
  current : s.current c = true

/-- CLOOK behind its checks. -/
def lookOn (s : State) (cd : Nat) (bar : Barrier) (r : Nat) : Eff State :=
  if bar.phase != s.ctx.spec.phase then .error (s, .abandon 5)
  else match aget? bar.prev (bar.rbase + r) with
    | none => .error (s, .abandon 5)
    | some (pub, _) =>
      match s.current pub && (s.ct pub.key).laopen, freeKey (s.ct pub.key).lrs (upto 4) with
      | true, some lr =>
        .ok (((s.setCt pub.key { s.ct pub.key with lrs := aset (s.ct pub.key).lrs lr ⟨s.chip, s.cur.tile⟩ }).setC cd
          (some (lookaheadOf pub (s.ct pub.key).len))).onCtx fun v =>
            { v with spec := { v.spec with looks := v.spec.looks ++ [lookaheadOf pub (s.ct pub.key).len] } })
      | _, _ => .error (s, .abandon 5)

theorem clook_looks {d a : CapOp} {r : RegImm} {c : Cap} {bidx : Nat} {bar : Barrier} (hd : d.whole = true) (ha : a.whole = true)
    (hl : MayLook s w d a c bidx bar (RegImm.nat r s)) :
    ∃ body, exec (.clook h d a r) s = issue s h body ∧ body w = lookOn s d.c.toNat bar (RegImm.nat r s) := by
  obtain ⟨hon, hfree, hc, hat, hbar, hbidx, he, hr, hcur⟩ := hl
  have hb : (s.ctx.spec.bar != ⟨s.chip, c.agent⟩ || s.ctx.spec.bidx != bidx) = false := by simp [hbar, hbidx]
  have hn : ((s.c d.c.toNat).isNone && decide (RegImm.nat r s < bar.n)) = true := by simp [he, hr]
  refine ⟨_, rfl, ?_⟩
  simp only [wholeCap_of hd, wholeCap_of ha, hon, waitWhile_of hfree, barrierOf_at hc hat, hb, need_of hn, hcur, Bool.not_true,
    Bool.false_eq_true, if_false, ok_bind]
  unfold lookOn
  split <;> rfl

/-- The capability over a publication is created and its reader listed. -/
theorem lookOn_ok {cd r lr : Nat} {bar : Barrier} {p : Cap} {q : Word} (hph : bar.phase = s.ctx.spec.phase)
    (hq : aget? bar.prev (bar.rbase + r) = some (p, q)) (hcur : s.current p = true) (hla : (s.ct p.key).laopen = true)
    (hlr : freeKey (s.ct p.key).lrs (upto 4) = some lr) :
    lookOn s cd bar r = .ok (((s.setCt p.key { s.ct p.key with lrs := aset (s.ct p.key).lrs lr ⟨s.chip, s.cur.tile⟩ }).setC cd
          (some (lookaheadOf p (s.ct p.key).len))).onCtx fun v =>
            { v with spec := { v.spec with looks := v.spec.looks ++ [lookaheadOf p (s.ct p.key).len] } }) := by
  have hb : (s.current p && (s.ct p.key).laopen) = true := by rw [hcur, hla]; rfl
  simp only [lookOn, hph, hq, hb, hlr, bne_self_eq_false, Bool.false_eq_true, if_false]

theorem lookOn_abandons {cd r : Nat} {bar : Barrier} (hn : bar.phase ≠ s.ctx.spec.phase ∨ aget? bar.prev (bar.rbase + r) = none) :
    lookOn s cd bar r = .error (s, .abandon 5) := by
  unfold lookOn
  by_cases hph : bar.phase = s.ctx.spec.phase
  · rw [hn.resolve_left (by simp [hph])]
    simp
  · rw [if_pos (by simpa using hph)]

theorem clook_creates (hi : Issues s h w) {d a : CapOp} {r : RegImm} {c : Cap} {bidx : Nat} {bar : Barrier} (hd : d.whole = true)
    (ha : a.whole = true) (hl : MayLook s w d a c bidx bar (RegImm.nat r s)) {lr : Nat} {p : Cap} {q : Word}
    (hph : bar.phase = s.ctx.spec.phase) (hq : aget? bar.prev (bar.rbase + RegImm.nat r s) = some (p, q))
    (hcur : s.current p = true) (hla : (s.ct p.key).laopen = true) (hlr : freeKey (s.ct p.key).lrs (upto 4) = some lr) :
    ∃ u, exec (.clook h d a r) s = .next u ∧ Advanced s u h ∧ SameMemory s u
      ∧ u.regs = { s.regs.writeC d.c.toNat (some (lookaheadOf p (s.ct p.key).len)) with pc := s.regs.pc + 12, resume := .none }
      ∧ u.ctx.spec = { s.ctx.spec with looks := s.ctx.spec.looks ++ [lookaheadOf p (s.ct p.key).len] }
      ∧ aget? (u.ct p.key).lrs lr = some ⟨s.chip, s.cur.tile⟩ := by
  obtain ⟨body, hex, hb⟩ := clook_looks (h := h) hd ha hl
  rw [hex]
  let e := { s.ct p.key with lrs := aset (s.ct p.key).lrs lr ⟨s.chip, s.cur.tile⟩ }
  let v := (((s.setCt p.key e).setC d.c.toNat (some (lookaheadOf p (s.ct p.key).len))).onCtx fun v =>
            { v with spec := { v.spec with looks := v.spec.looks ++ [lookaheadOf p (s.ct p.key).len] } })
  have hctx : v.ctx = { s.ctx with
      regs := s.ctx.regs.writeC d.c.toNat (some (lookaheadOf p (s.ct p.key).len))
      spec := { s.ctx.spec with looks := s.ctx.spec.looks ++ [lookaheadOf p (s.ct p.key).len] } } := by
    simp only [v, State.setC_eq, State.ctx_onCtx]
    rfl
  have hregs : v.regs = s.regs.writeC d.c.toNat (some (lookaheadOf p (s.ct p.key).len)) := congrArg Context.regs hctx
  refine ⟨v.onward h, issue_ok hi (hb.trans (lookOn_ok hph hq hcur hla hlr)), ?_, fun _ => rfl, ?_, ?_, ?_⟩
  · exact advanced_onward (s := s) rfl rfl (by rw [hregs]; simp)
  · rw [onward_regs, hregs]
    simp
  · rw [onward_eq_stepped, stepped_ctx, hctx]
  · change aget? (aget (aset s.cts p.key e) _ p.key).lrs lr = _
    rw [aget_aset_self, aget?_aset_self]

theorem barinit_creates (hi : Issues s h w) {d a : CapOp} {b : Reg} {c : Cap} {n : Nat} (hd : d.whole = true) (ha : a.whole = true)
    (hon : s.ctx.spec.on = false) (hw : s.written s.cur.tile s.cur.ctx c.key = true) (hbd : s.capBusy d.c.toNat = false)
    (hba : s.capBusy a.c.toNat = false) (hx : (s.x b).toNat = n)
    (hn : ((s.c d.c.toNat).isNone && field n 24 40 == 0 && 1 ≤ field n 13 7 && field n 13 7 ≤ 64
      && field n 0 13 + field n 13 7 ≤ w.kernel.tiles.length && (aget? (s.tile s.cur.tile).loc.bars (field n 20 4)).isNone) = true)
    (hc : s.c a.c.toNat = some c) (hm : MayBar s c) :
    ∃ u, exec (.barinit h d a b) s = .next u ∧ Advanced s u h
      ∧ u.regs = { (s.regs.writeC a.c.toNat none).writeC d.c.toNat (some { c with mode := .sealed, rights := ⟨true, false, false, true⟩ })
          with pc := s.regs.pc + 12, resume := .none }
      ∧ SameMemoryBut s u (s.windowBase c) 64 ∧ (u.ct c.key).state = .sealed ∧ (u.ct c.key).maxr.w = false
      ∧ aget? (u.tile s.cur.tile).loc.bars (field n 20 4) = some
          { ctidx := c.ctidx, hallmark := c.hallmark, rbase := field n 0 13, n := field n 13 7, kslot := w.kslot, phase := 0,
            arrived := [], killed := s.killedParties w.kernel w.kslot (field n 0 13) (field n 13 7), pubs := [], prev := [],
            completing := false } := by
  obtain ⟨t, r, r', hwr, hex⟩ := barinit_bars hi hd ha hon hw hbd hba hx hn hc hm
  have hb := barred_spec t c.key { s.ct c.key with state := .sealed, maxr := { (s.ct c.key).maxr with w := false } } r a.c.toNat d.c.toNat
      { c with mode := .sealed, rights := ⟨true, false, false, true⟩ } (field n 20 4)
      { ctidx := c.ctidx, hallmark := c.hallmark, rbase := field n 0 13, n := field n 13 7, kslot := w.kslot, phase := 0,
        arrived := [], killed := s.killedParties w.kernel w.kslot (field n 0 13) (field n 13 7), pubs := [], prev := [],
        completing := false } r'
  generalize State.barred t _ _ _ _ _ _ _ _ _ = v at hb hex
  have hregs : v.regs = (s.regs.writeC a.c.toNat none).writeC d.c.toNat (some { c with mode := .sealed, rights := ⟨true, false, false, true⟩ }) :=
    hb.regs.trans (by rw [hwr.regs]; rfl)
  refine ⟨_, hex, advanced_onward (hb.cur.trans hwr.cur) (hb.cycle.trans hwr.cycle) (by rw [hregs]; simp), ?_, fun x hx => ?_, ?_, ?_, ?_⟩
  · rw [onward_regs, hregs]
    simp
  · exact (byte_of_mem hb.mem hb.parts x).trans (hwr.byte x hx)
  · exact congrArg CtEntry.state hb.ct
  · exact congrArg (fun e : CtEntry => e.maxr.w) hb.ct
  · rw [State.loc_onward, ← hwr.cur, hb.bar]

end

/-- Settles O40: the barrier created, the arrival posted, the publication looked at or speculation ended. -/
theorem barrierResults : Obligations.BarrierResults := by
  intro s w h d a b x r c bidx bar hi hd ha n e
  refine ⟨fun hon hw hbd hba he h1 h2 h3 h4 h5 hc hm hr hwt hg hk hag hch hone hcur hrecl htok hla => ?_,
    ?_,
    fun hon hbd hc hat hbar hbidx he hr hcur => ⟨fun p q lr hph hq hpc hla hlr => ?_, fun hn => ?_⟩, issue_setX hi rfl⟩
  · exact barinit_creates hi hd ha hon hw hbd hba rfl (by simp_all) hc
      ⟨hm, ⟨hr, hwt, hg⟩, hk, hag, hch, hone, hcur, hrecl, htok, hla⟩
  · intro hp hc hat h63 hq at' holds ready
    refine ⟨fun hb => ⟨?_, fun hr => ?_⟩, fun p hba hp' hm hg hk hch hrecl hcur hla => ⟨?_, fun hr => ?_⟩⟩
    · exact arrive_holds hi hp hd hc hat h63 hq (by simp [hb]) rfl nofun
    · exact arrive_holds hi hp hd hc hat h63 hq (by simp [hb]) rfl fun _ => hr
    · exact arrive_holds hi hp hd hc hat h63 hq rfl (publication_of ha hba hp' hm hg hk hch hrecl hcur hla) nofun
    · exact arrive_holds hi hp hd hc hat h63 hq rfl (publication_of ha hba hp' hm hg hk hch hrecl hcur hla) fun _ => hr
  · exact clook_creates hi hd ha ⟨hon, hbd, hc, hat, hbar, hbidx, he, hr, hcur⟩ hph hq hpc hla hlr
  · obtain ⟨body, hex, hb⟩ := clook_looks (h := h) hd ha ⟨hon, hbd, hc, hat, hbar, hbidx, he, hr, hcur⟩
    rw [hex, issue_error hi (hb.trans (lookOn_abandons hn))]
    rfl

end Sys2Proof.Machine
end

section
/-!
PROOFS. The dispatch condition (R29, R117), aging, the held task and the watchdog (R120, R121, R383, R427).
-/

namespace Sys2Proof.Machine

/-! ## The dispatch condition -/

section
variable (l : Local) (i : Nat) (r : TaskRec)

theorem ctrHolds_iff (hl : r.latched = false) : l.ctrHolds r = true ↔
    (r.img.ctrv = true → ((l.ctr r.img.ctr).value - BitVec.ofNat 32 r.img.target).toNat < 2 ^ 31) := by
  cases hc : r.img.ctrv <;> simp [Local.ctrHolds, hl, hc, reaches]

theorem ringFilled_iff (n c : Nat) : ((aget? l.rings n).map fun r => decide (c ≤ l.fill r)).getD false = true ↔
    ∃ g, aget? l.rings n = some g ∧ c ≤ l.fill g := by
  cases aget? l.rings n <;> simp

theorem ringsHold_iff (m : RecImage) : l.ringsHold m = true ↔
    (m.rv0 = true → ∃ g, aget? l.rings m.rnum0 = some g ∧ m.rcnt0 ≤ l.fill g)
    ∧ (m.rv1 = true → ∃ g, aget? l.rings m.rnum1 = some g ∧ m.rcnt1 ≤ l.fill g) := by
  rw [← ringFilled_iff, ← ringFilled_iff, Local.ringsHold, recNeeds, List.all_append, Bool.and_eq_true]
  cases m.rv0 <;> cases m.rv1 <;> simp

theorem landHolds_iff (m : RecImage) : l.landHolds m = true ↔ ∀ y < 32, bit m.lmask y = true → ∃ v, aget? l.land y = some v := by
  simp only [Local.landHolds, upto, List.all_eq_true, List.mem_range, Bool.or_eq_true, Bool.not_eq_true', Option.isSome_iff_exists]
  exact forall₂_congr fun y _ => by cases bit m.lmask y <;> simp

theorem stateHolds_iff (m : RecImage) : (l.stateHolds m || l.retried i) = true ↔
    (m.stv = true → (∃ c, (l.slot m.stSlot).cap = some c) ∨ ∃ e, aget? l.park i = some e ∧ e.wait = .retry) := by
  have hr : l.retried i = true ↔ ∃ e, aget? l.park i = some e ∧ e.wait = .retry := by
    unfold Local.retried
    cases aget? l.park i <;> simp
  rw [Bool.or_eq_true, hr, Local.stateHolds]
  cases m.stv <;> simp [Option.isSome_iff_exists]

end

/-- A record with no valid part. -/
theorem holds_of_none {r : TaskRec} (hc : r.img.ctrv = false) (h0 : r.img.rv0 = false) (h1 : r.img.rv1 = false) (hm : r.img.lmask = 0)
    (hs : r.img.stv = false) (l : Local) (i : Nat) : l.holds i r = true := by
  simp [Local.holds, Local.ctrHolds, hc, Local.ringsHold, recNeeds, h0, h1, Local.landHolds, hm, bit, Local.stateHolds, hs]

/-- Settles O46: the four parts, each by its own equivalence, and a record with none. -/
theorem dispatchCondition : Obligations.DispatchCondition := by
  constructor
  · intro l i r hl
    rw [← stateHolds_iff, ← landHolds_iff, ← ctrHolds_iff l r hl, Local.holds, Bool.and_eq_true, Bool.and_eq_true, Bool.and_eq_true,
      ringsHold_iff]
    simp only [and_assoc]
  · intro s t n r hc h0 h1 hm hs
    have hh (l : Local) : l.holds n { r with q := .waiting, born := s.cycle } = true := holds_of_none hc h0 h1 hm hs l n
    unfold State.putRec State.reeval
    simp only [State.loc_onLocal_self, aget?_amap, aget?_aset_self, Option.map_some, beq_self_eq_true, Bool.and_self, if_true, hh, hc]
    rfl

/-! ## Aging and the held task -/

theorem aged_ready {cycle prio stamp place since since6 : Nat} {sk : Bool} {q : TaskRec}
    (hq : q.q = .ready prio stamp place since since6 sk) :
    aged cycle q = if prio ≤ 5 ∧ since + 65536 < cycle then
      { q with q := .ready (prio + 1) stamp place cycle (if prio = 5 then cycle else since6) sk } else q := by
  simp only [aged, hq]
  rfl

theorem age_records {s : State} {t r : Nat} {q : TaskRec} (hr : aget? (s.tile t).loc.recs r = some q) :
    aget? ((s.age t).tile t).loc.recs r = some (aged s.cycle q) := by
  rw [State.age, State.loc_onLocal_self, aget?_amap, hr]
  rfl

section
variable {s : State}

theorem hold_takes {t r : Nat} (hn : (s.tile t).heldTask = none) (ho : oldest (s.tile t).loc (holdable s.cycle) = some r) :
    s.hold t = s.onCore t fun k => { k with disp := { k.disp with held := some r } } := by
  simp only [State.hold, hn, ho]

theorem hold_none {t : Nat} (hn : (s.tile t).heldTask = none) (ho : oldest (s.tile t).loc (holdable s.cycle) = none) :
    s.hold t = s := by
  simp only [State.hold, hn, ho]

/-! ## The watchdog -/

/-- What the strike horizon keeps of a context changes neither it nor the turn. -/
theorem ctxRemember_same (s : State) : s.ctxRemember.ctx = s.ctx ∧ s.ctxRemember.cur = s.cur ∧ s.ctxRemember.cycle = s.cycle := by
  unfold State.ctxRemember
  split
  · exact ⟨ctx_onCore _ _ _ (by exact fun _ => rfl), rfl, rfl⟩
  · exact ⟨rfl, rfl, rfl⟩

theorem Trapped.of_same {u v : State} {w : Who} {code sub : Nat} (hu : Trapped u v w code sub) (hr : u.ctx.regs = s.ctx.regs)
    (hc : u.cur = s.cur) : Trapped s v w code sub := by
  obtain ⟨h1, h2, h3, h4, h5, h6, h7, c, h8, h9, h10, h11, h12, h13⟩ := hu
  have hr' : u.regs = s.regs := hr
  exact ⟨h1, h2, hr' ▸ h3, hr' ▸ h4, h5, h6, hr' ▸ h7, c, h8, h9, h10, hc ▸ h11, hc ▸ h12, h13⟩

/-- A WDOG trap outside the grace of an earlier one is delivered with a grace of 64 cycles. -/
theorem takeTrap_wdog {w : Who} (hd : Delivers s w) (hg : s.ctx.run.graceEnd = none) (t : Trap) (hw : t.code = cWdog) (h3 : t.sub ≠ 3)
    (h1 : t.sub ≠ 1) (hs : t.sub < 256) : Trapped s (s.takeTrap w t) w t.code t.sub
      ∧ (s.takeTrap w t).ctx.run.graceEnd = some (s.cycle + 64) := by
  obtain ⟨he, ht, -⟩ := hd
  have hcond : w.image.trapEnt ≠ 0xFFFFFFFF ∧ !s.ctx.run.trapEntry ∧ !(t.code == cWdog && (t.sub == 3 || s.ctx.run.graceEnd.isSome)) := by
    refine ⟨he, by rw [ht]; rfl, ?_⟩
    rw [hg, hw, beq_false_of_ne h3]
    rfl
  have htc : t.code < 256 := hw ▸ (by decide : cWdog < 256)
  have hrec := record_word ((s.countUncorr w t).trapRecord w t)
  have hcode : ((s.countUncorr w t).trapRecord w t).code = t.code ∧ ((s.countUncorr w t).trapRecord w t).sub = t.sub := ⟨rfl, rfl⟩
  rw [hcode.1, hcode.2, Nat.mod_eq_of_lt htc, Nat.mod_eq_of_lt hs] at hrec
  have hgrace : t.code = cWdog ∧ t.sub ≠ 1 := ⟨hw, h1⟩
  have hput (a : Nat) (b : List Byte) : ((s.countUncorr w t).putBytes a b).ctx = s.ctx ∧ ((s.countUncorr w t).putBytes a b).cur = s.cur
      ∧ ((s.countUncorr w t).putBytes a b).cycle = s.cycle :=
    ⟨(countUncorr_same s w t).1, (countUncorr_same s w t).2.1, (countUncorr_same s w t).2.2.2.1⟩
  unfold State.takeTrap
  rw [if_pos hcond]
  dsimp only
  simp only [if_pos hgrace]
  generalize (s.countUncorr w t).trapRecord w t = r at *
  generalize hu : (s.countUncorr w t).putBytes _ _ = u
  obtain ⟨huc, hur, huy⟩ : u.ctx = s.ctx ∧ u.cur = s.cur ∧ u.cycle = s.cycle := hu ▸ hput _ _
  refine ⟨trapped_onCtx r _ t (((dropC15_givenUp u w).ctx).trans huc) hur hrec.1 hrec.2, ?_⟩
  rw [State.ctx_onCtx, huy]
  rfl

/-- The budget of the task is used up. -/
theorem watchdog_spent {w : Who} (hg : s.ctx.run.graceEnd = none) (hb : s.ctx.run.dispatched + w.image.budget ≤ s.cycle) :
    (!(s.ctx.run.graceEnd.isNone && decide (s.ctx.run.dispatched + w.image.budget ≤ s.cycle))) = false := by
  rw [hg, decide_eq_true hb]
  rfl

variable {w : Who}

theorem watchdog_traps (hw : s.who = some w) (hg : s.ctx.run.graceEnd = none)
    (hb : s.ctx.run.dispatched + w.image.budget ≤ s.cycle) (hd : Delivers s w) (hh : s.ctx.hold = .none) :
    ∃ u, exec .watchdogExpiry s = .next u ∧ Trapped s u w cWdog 0 ∧ u.ctx.run.graceEnd = some (s.cycle + 64) := by
  obtain ⟨hctx, hcur, hcyc⟩ := ctxRemember_same s
  have hd' : Delivers s.ctxRemember w := by unfold Delivers; rwa [hctx]
  have he : exec .watchdogExpiry s = .next (s.ctxRemember.takeTrap w (.of cWdog 0)) := by
    have hs := watchdog_spent hg hb
    unfold exec execWatchdogExpiry
    simp only [hw, State.watchdog, hctx, hcyc, hs, Bool.false_eq_true, if_false, hd.2.2, hh]
  obtain ⟨ht, hge⟩ := takeTrap_wdog hd' (by rw [hctx]; exact hg) (.of cWdog 0) rfl (show 0 ≠ 3 by decide) (show 0 ≠ 1 by decide) (show 0 < 256 by decide)
  exact ⟨_, he, ht.of_same (congrArg Context.regs hctx) hcur, hcyc ▸ hge⟩

theorem freeUnit_regs (v : Context) : v.freeUnit.regs = v.regs ∧ v.freeUnit.run = v.run ∧ v.freeUnit.spec = v.spec := by
  unfold Context.freeUnit
  split <;> exact ⟨rfl, rfl, rfl⟩

theorem watchdog_traps_remote (hw : s.who = some w) (hg : s.ctx.run.graceEnd = none)
    (hb : s.ctx.run.dispatched + w.image.budget ≤ s.cycle) (hd : Delivers s w) {id : Nat} (hh : s.ctx.hold = .remote id) :
    ∃ u, exec .watchdogExpiry s = .next u ∧ Trapped s u w cWdog 2 := by
  obtain ⟨hctx, hcur, hcyc⟩ := ctxRemember_same s
  let v := s.ctxRemember.onCtx fun v => { v.freeUnit with hold := .none, answer := none }
  have hv : v.ctx = { s.ctx.freeUnit with hold := .none, answer := none } := by simp only [v, State.ctx_onCtx, hctx]
  obtain ⟨hfr, hfn, hfs⟩ := freeUnit_regs s.ctx
  have hd' : Delivers v w := by
    unfold Delivers
    rw [hv]
    change w.image.trapEnt ≠ _ ∧ s.ctx.freeUnit.run.trapEntry = false ∧ s.ctx.freeUnit.spec.on = false
    rw [hfn, hfs]
    exact hd
  have he : exec .watchdogExpiry s = .next (v.takeTrap w (.of cWdog 2)) := by
    have hs := watchdog_spent hg hb
    unfold exec execWatchdogExpiry
    simp only [hw, State.watchdog, hctx, hcyc, hs, Bool.false_eq_true, if_false, hd.2.2, hh]
    rfl
  have hg' : v.ctx.run.graceEnd = none := by rw [hv]; exact (congrArg Run.graceEnd hfn).trans hg
  obtain ⟨ht, -⟩ := takeTrap_wdog hd' hg' (.of cWdog 2) rfl (show 2 ≠ 3 by decide) (show 2 ≠ 1 by decide) (show 2 < 256 by decide)
  refine ⟨_, he, ht.of_same ?_ hcur⟩
  rw [hv]
  exact hfr

theorem watchdog_rolls (hw : s.who = some w) (hg : s.ctx.run.graceEnd = none)
    (hb : s.ctx.run.dispatched + w.image.budget ≤ s.cycle) (hon : s.ctx.spec.on = true) :
    exec .watchdogExpiry s = .next (s.ctxRemember.rollback s.cur.tile s.cur.ctx 3) := by
  obtain ⟨hctx, hcur, hcyc⟩ := ctxRemember_same s
  have hs := watchdog_spent hg hb
  unfold exec execWatchdogExpiry
  simp only [hw, State.watchdog, hctx, hcyc, hs, Bool.false_eq_true, if_false, hon, if_true, hcur]

theorem watchdog_waits (hw : s.who = some w) (hb : s.cycle < s.ctx.run.dispatched + w.image.budget) :
    exec .watchdogExpiry s = .next s.ctxRemember := by
  obtain ⟨hctx, hcur, hcyc⟩ := ctxRemember_same s
  unfold exec execWatchdogExpiry
  simp [hw, State.watchdog, hctx, hcyc, Nat.not_le.mpr hb]

theorem budgetLow_rolls (hw : s.who = some w) (hon : s.ctx.spec.on = true)
    (hb : s.ctx.run.dispatched + w.image.budget ≤ s.cycle + 128) :
    exec .speculationBudgetLow s = .next (s.rollback s.cur.tile s.cur.ctx 3) := by
  unfold exec execSpeculationBudgetLow
  simp only [hw, hon, hb, and_self, if_true]

theorem grace_waits (hw : s.who = some w) {g : Nat} (hg : s.ctx.run.graceEnd = some g) (hl : s.cycle < g) :
    exec .graceExpiry s = .next s := by
  unfold exec execGraceExpiry
  simp only [hw, hg, if_neg (Nat.not_le.mpr hl)]

/-- A WDOG trap at the end of the grace is contained. -/
theorem takeTrap_graceEnd (u : State) (w : Who) : u.takeTrap w (.of cWdog 3)
    = u.contain w.pnum w.kslot u.cur.tile (some u.cur.ctx) true (u.trapRecord w (.of cWdog 3)) .task := by
  have hc : ¬((Trap.of cWdog 3).code = cUncorr ∧ (Trap.of cWdog 3).sub < 2) := by decide
  have hg : ¬(w.image.trapEnt ≠ 0xFFFFFFFF ∧ !u.ctx.run.trapEntry
      ∧ !((Trap.of cWdog 3).code == cWdog && ((Trap.of cWdog 3).sub == 3 || u.ctx.run.graceEnd.isSome))) :=
    fun h => absurd h.2.2 (by simp [Trap.of])
  unfold State.takeTrap State.passFault State.countUncorr
  rw [if_neg hg, if_neg hc]
  rfl

theorem grace_contains (hw : s.who = some w) {g : Nat} (hg : s.ctx.run.graceEnd = some g) (hl : g ≤ s.cycle) :
    ∃ u, u = s.ctxRemember.onCtx (fun v => { v with hold := .watchdog 3, run := { v.run with graceEnd := none } })
      ∧ exec .graceExpiry s
        = .next (u.contain w.pnum w.kslot s.cur.tile (some s.cur.ctx) true (u.trapRecord w (.of cWdog 3)) .task) := by
  refine ⟨_, rfl, ?_⟩
  unfold exec execGraceExpiry
  simp only [hw, hg, if_pos hl, takeTrap_graceEnd]
  rw [show (s.ctxRemember.onCtx _).cur = s.cur from (ctxRemember_same s).2.1]

end

/-- Settles O47: aging, the held task, and the stages of a task's budget. -/
theorem waitingAndWatchdog : Obligations.WaitingAndWatchdog := by
  refine ⟨fun s r q prio stamp place since since6 sk => ⟨fun hr hq => ⟨_, rfl, rfl, State.ctx_onLocal _ _, ?_⟩, fun hn ho => ?_, fun hn ho => ?_⟩,
    fun s w id g hw => ⟨fun hg hb => ⟨watchdog_traps hw hg hb, fun hd hh => watchdog_traps_remote hw hg hb hd hh, watchdog_rolls hw hg hb⟩, watchdog_waits hw,
      budgetLow_rolls hw, fun hg => ⟨grace_waits hw hg, grace_contains hw hg⟩⟩⟩
  · rw [age_records hr, aged_ready hq]
  · refine ⟨s.hold s.cur.tile, rfl, ?_, ?_⟩
    · rw [hold_takes hn ho, State.core_onCore_self]
    · rw [hold_takes hn ho]
      exact ctx_onCore _ _ _ fun _ => rfl
  · exact congrArg _ (hold_none hn ho)

end Sys2Proof.Machine
end

section
/-!
PROOFS. Dispatch (R119, R122, R275): the registers and the run of a task when it starts.
-/

namespace Sys2Proof.Machine

section
variable {s : State} {t c r prio stamp : Nat} {q : TaskRec}

/-! ## Start registers (R42) -/

theorem startRegs_x (q : TaskRec) (free : Nat) (caps : Assoc Cap) {i : Nat} (hi : i < 6) :
    (startRegs q free caps).readX (BitVec.ofNat 5 (i + 1)) = q.first.getD i 0 := by
  match i, hi with
  | 0, _ | 1, _ | 2, _ | 3, _ | 4, _ | 5, _ => rfl

theorem startRegs_x7 (q : TaskRec) (free : Nat) (caps : Assoc Cap) : (startRegs q free caps).readX 7 = q.img.arg := rfl

/-! ## What a task finds in its slot -/

theorem aerase_of_none {β : Type} {m : Assoc β} {a : Nat} (h : aget? m a = none) : aerase m a = m := by
  induction m with
  | nil => rfl
  | cons p m ih =>
    obtain ⟨k, v⟩ := p
    unfold aget? at h
    unfold aerase
    split at h
    · simp at h
    · rename_i hk
      rw [if_neg hk, ih h]

/-- The run that every dispatch gives. -/
structure Started (s : State) (r : Nat) (x : Context) : Prop where
  task : x.run.task = some r
  dispatched : x.run.dispatched = s.cycle
  issueAt : x.run.issueAt = s.cycle + 2
  on : x.spec.on = false
  hold : x.hold = .none

/-- The registers with which a fresh task starts, its capabilities and its accumulators. -/
structure StartsWith (q : TaskRec) (caps : Assoc Cap) (accs : List Nat) (x : Context) : Prop where
  regs : ∃ free, x.regs = startRegs q free caps
  trapEntry : x.run.trapEntry = false
  accs : x.run.accs = accs

theorem dispatchFresh_starts (caps : Assoc Cap) (o : Option Parked) :
    Started s r ((s.dispatchFresh t c r prio stamp q caps o).ctxAt t c)
      ∧ StartsWith q caps ((s.tile t).freeAccs.take q.img.nacc) ((s.dispatchFresh t c r prio stamp q caps o).ctxAt t c) := by
  unfold State.dispatchFresh
  dsimp only
  rw [State.ctxAt_setCtxAt_self]
  exact ⟨⟨rfl, rfl, rfl, rfl, rfl⟩, ⟨_, rfl⟩, rfl, rfl⟩

theorem loc_setCtxAt_onCore (u : State) (f : CoreSt → CoreSt) (v : Context) (n : Nat) :
    (((u.onCore t f).setCtxAt t c v).tile n).loc = (u.tile n).loc := by simp

theorem dispatchFresh_same (caps : Assoc Cap) (o : Option Parked) :
    (s.dispatchFresh t c r prio stamp q caps o).mem = s.mem
      ∧ ((s.dispatchFresh t c r prio stamp q caps o).tile t).loc = (s.tile t).loc :=
  ⟨rfl, loc_setCtxAt_onCore (s.draw _) _ _ t⟩

theorem dispatchParked_starts (e : Parked) :
    Started s r ((s.dispatchParked t c r prio stamp e).ctxAt t c)
      ∧ ((s.dispatchParked t c r prio stamp e).ctxAt t c).regs = e.regs
      ∧ ((s.dispatchParked t c r prio stamp e).ctxAt t c).run.trapEntry = e.trapEntry
      ∧ ((s.dispatchParked t c r prio stamp e).ctxAt t c).run.accs = e.accs
      ∧ ((s.dispatchParked t c r prio stamp e).ctxAt t c).mx.flags = e.mxFlags := by
  unfold State.dispatchParked
  rw [State.ctxAt_setCtxAt_self]
  exact ⟨⟨rfl, rfl, rfl, rfl, rfl⟩, rfl, rfl, rfl, rfl⟩

theorem dispatchParked_same (e : Parked) :
    (s.dispatchParked t c r prio stamp e).mem = s.mem ∧ ((s.dispatchParked t c r prio stamp e).tile t).loc = (s.tile t).loc :=
  ⟨rfl, by unfold State.dispatchParked; simp⟩

/-- What the start of a task leaves of the tile before the slot is filled: its record runs, it has left the park store. -/
structure Leaving (s u : State) (t c r : Nat) (q : TaskRec) : Prop where
  mem : u.mem = s.mem
  cycle : u.cycle = s.cycle
  record : aget? (u.tile t).loc.recs r = some { q with q := .running c, cap := none }
  park : (u.tile t).loc.park = aerase (s.tile t).loc.park r
  ctxs : (u.tile t).core.ctxs = (s.tile t).core.ctxs

theorem Leaving.freeAccs {u : State} (h : Leaving s u t c r q) (hp : aget? (s.tile t).loc.park r = none) :
    (u.tile t).freeAccs = (s.tile t).freeAccs := by
  simp only [Tile.freeAccs, h.park, h.ctxs, aerase_of_none hp]

/-- The record and the park store when a task is taken, the hold on it gone. -/
def State.taskTaken (s : State) (t c r : Nat) (q : TaskRec) : State :=
  let s := s.onLocal t fun l =>
    { l with recs := aset l.recs r { q with q := .running c, cap := none }, park := aerase l.park r }
  (s.unhold t r).onCore t fun k => { k with disp := { k.disp with next := s.cycle + 1 } }

theorem taken_leaving (s : State) (t c r : Nat) (q : TaskRec) : Leaving s (s.taskTaken t c r q) t c r q := by
  refine ⟨rfl, rfl, ?_, ?_, ?_⟩ <;> simp [State.taskTaken, State.unhold]

theorem taken_slots (s : State) (t c r : Nat) (q : TaskRec) : ((s.taskTaken t c r q).tile t).loc.slots = (s.tile t).loc.slots := by
  simp [State.taskTaken, State.unhold]

theorem takeRegion_leaving {u : State} (h : Leaving s u t c r q) : Leaving s (u.takeRegion t q).1 t c r q := by
  unfold State.takeRegion
  split
  · refine ⟨h.mem, h.cycle, ?_, ?_, ?_⟩
    · simp [State.setSlot, State.reeval, aget?_amap, h.record]
    · simp [State.setSlot, State.reeval, h.park]
    · simp [State.setSlot, State.reeval, h.ctxs]
  · exact h

theorem takeRegion_caps (u : State) : (u.takeRegion t q).2 = if q.img.stv then
    (match ((u.tile t).loc.slot q.img.stSlot).cap with | some k => [(14, k)] | none => []) else [] := by
  unfold State.takeRegion
  split <;> rfl

/-- The capability registers with which a fresh task starts. -/
def startCaps (q : TaskRec) (region : Assoc Cap) : Assoc Cap := (q.cap.map fun k => [(0, k)]).getD [] ++ region

theorem startCaps_read (q : TaskRec) (o : Option Cap) :
    aget? (startCaps q (if q.img.stv then (match o with | some k => [(14, k)] | none => []) else [])) 0 = q.cap
      ∧ aget? (startCaps q (if q.img.stv then (match o with | some k => [(14, k)] | none => []) else [])) 14
        = if q.img.stv then o else none := by
  unfold startCaps
  cases q.cap <;> cases q.img.stv <;> cases o <;> exact ⟨rfl, rfl⟩

theorem dispatchTo_eq : s.dispatchTo t c r q prio stamp =
    (match aget? (s.tile t).loc.park r with
      | some e =>
        if e.wait = ParkWait.retry then (s.taskTaken t c r q).dispatchFresh t c r prio stamp q e.regs.c (some e)
        else (s.taskTaken t c r q).dispatchParked t c r prio stamp e
      | none => ((s.taskTaken t c r q).takeRegion t q).1.dispatchFresh t c r prio stamp q
          (startCaps q ((s.taskTaken t c r q).takeRegion t q).2) none).onCtxAt t c fun v =>
            { v with run := { v.run with tries := q.retries } } := rfl

/-- What a dispatch comes to on a tile: the run of the task, the registers of a fresh one and of a parked one. -/
structure Dispatched (s u : State) (t c r : Nat) (q : TaskRec) : Prop where
  mem : u.mem = s.mem
  started : Started s r (u.ctxAt t c)
  fresh : aget? (s.tile t).loc.park r = none → StartsWith q
    (startCaps q (if q.img.stv then (match ((s.tile t).loc.slot q.img.stSlot).cap with | some k => [(14, k)] | none => []) else []))
    ((s.tile t).freeAccs.take q.img.nacc) (u.ctxAt t c)
  parked : ∀ e, aget? (s.tile t).loc.park r = some e → e.wait ≠ .retry → (u.ctxAt t c).regs = e.regs
    ∧ (u.ctxAt t c).run.trapEntry = e.trapEntry ∧ (u.ctxAt t c).run.accs = e.accs ∧ (u.ctxAt t c).mx.flags = e.mxFlags
  record : aget? (u.tile t).loc.recs r = some { q with q := .running c, cap := none }

theorem Dispatched.withTries {u : State} (h : Dispatched s u t c r q) (n : Nat) :
    Dispatched s (u.onCtxAt t c fun v => { v with run := { v.run with tries := n } }) t c r q := by
  obtain ⟨hm, ⟨h1, h2, h3, h4, h5⟩, hf, hp, hr⟩ := h
  have hx : (u.onCtxAt t c fun v => { v with run := { v.run with tries := n } }).ctxAt t c
      = { u.ctxAt t c with run := { (u.ctxAt t c).run with tries := n } } := State.ctxAt_setCtxAt_self _ _ _ _
  refine ⟨hm, ?_, fun h => ?_, fun e he hw => ?_, by simpa using hr⟩
  · rw [hx]
    exact ⟨h1, h2, h3, h4, h5⟩
  · rw [hx]
    obtain ⟨g1, g2, g3⟩ := hf h
    exact ⟨g1, g2, g3⟩
  · rw [hx]
    exact hp e he hw

theorem dispatchTo_dispatched (s : State) (t c r : Nat) (q : TaskRec) (prio stamp : Nat) :
    Dispatched s (s.dispatchTo t c r q prio stamp) t c r q := by
  rw [dispatchTo_eq]
  refine Dispatched.withTries ?_ q.retries
  have hl := taken_leaving s t c r q
  split
  · rename_i e he
    split
    · rename_i hw
      obtain ⟨hs, -⟩ := dispatchFresh_starts (s := s.taskTaken t c r q) (t := t) (c := c) (r := r) (prio := prio) (stamp := stamp) (q := q)
        e.regs.c (some e)
      obtain ⟨hm, hloc⟩ := dispatchFresh_same (s := s.taskTaken t c r q) (t := t) (c := c) (r := r) (prio := prio) (stamp := stamp) (q := q)
        e.regs.c (some e)
      refine ⟨hm.trans hl.mem, ⟨hs.task, hs.dispatched.trans hl.cycle, hs.issueAt.trans (by rw [hl.cycle]), hs.on, hs.hold⟩,
        fun h => ?_, fun e' h hn => ?_, (congrArg (fun l : Local => aget? l.recs r) hloc).trans hl.record⟩
      · rw [he] at h
        exact absurd h nofun
      · rw [he] at h
        exact absurd (Option.some.inj h ▸ hw) hn
    · obtain ⟨hs, hp⟩ := dispatchParked_starts (s := s.taskTaken t c r q) (t := t) (c := c) (r := r) (prio := prio) (stamp := stamp) e
      obtain ⟨hm, hloc⟩ := dispatchParked_same (s := s.taskTaken t c r q) (t := t) (c := c) (r := r) (prio := prio) (stamp := stamp) e
      refine ⟨hm.trans hl.mem, ⟨hs.task, hs.dispatched.trans hl.cycle, hs.issueAt.trans (by rw [hl.cycle]), hs.on, hs.hold⟩,
        fun h => ?_, fun e' h hn => ?_, (congrArg (fun l : Local => aget? l.recs r) hloc).trans hl.record⟩
      · rw [he] at h
        exact absurd h nofun
      · rw [he] at h
        exact Option.some.inj h ▸ hp
  · rename_i he
    have hr := takeRegion_leaving hl
    have hc := takeRegion_caps (t := t) (q := q) (s.taskTaken t c r q)
    have hslot : (((s.taskTaken t c r q).tile t).loc.slot q.img.stSlot) = (s.tile t).loc.slot q.img.stSlot := by
      simp only [Local.slot, taken_slots]
    rw [hslot] at hc
    rw [hc]
    generalize ((s.taskTaken t c r q).takeRegion t q).1 = u at hr ⊢
    obtain ⟨hs, hw⟩ := dispatchFresh_starts (s := u) (t := t) (c := c) (r := r) (prio := prio) (stamp := stamp) (q := q)
        (startCaps q (if q.img.stv then (match ((s.tile t).loc.slot q.img.stSlot).cap with | some k => [(14, k)] | none => []) else [])) none
    obtain ⟨hm, hloc⟩ := dispatchFresh_same (s := u) (t := t) (c := c) (r := r) (prio := prio) (stamp := stamp) (q := q)
        (startCaps q (if q.img.stv then (match ((s.tile t).loc.slot q.img.stSlot).cap with | some k => [(14, k)] | none => []) else [])) none
    rw [hr.freeAccs he] at hw
    refine ⟨hm.trans hr.mem, ⟨hs.task, hs.dispatched.trans hr.cycle, hs.issueAt.trans (by rw [hr.cycle]), hs.on, hs.hold⟩,
        fun _ => hw, fun e' h => ?_, (congrArg (fun l : Local => aget? l.recs r) hloc).trans hr.record⟩
    rw [he] at h
    exact absurd h nofun

/-! ## Selection -/

theorem select_dispatches {n place since since6 : Nat} {sk : Bool} {p : Nat × Part} (hp : s.partOfTile t = some p)
    (hpick : (s.tile t).loc.pick [] = some (r, q)) (hq : q.q = .ready prio stamp place since since6 sk)
    (hk : ∃ k, p.2.kernel q.kslot = some k ∧ k.retire = .no) (hst : stamp < s.cycle) (hg : (s.tile t).grants r q = true)
    (hh : (s.tile t).heldOff r prio stamp = false) (hr : (s.tile t).recheck r q = true) :
    s.select t c (n + 1) [] = s.dispatchTo t c r q prio stamp := by
  obtain ⟨k, hk, hret⟩ := hk
  have hstop : ((((s.partOfTile t).bind fun pt => pt.2.kernel q.kslot).all fun k => k.retire != .no) || decide (s.cycle ≤ stamp)) = false := by
    simp [hp, hk, hret, Nat.not_le.mpr hst]
  unfold State.select
  simp only [hpick, hq, hstop, hg, hh, hr, Bool.not_true, Bool.false_eq_true, if_false, if_true]

theorem hold_same (s : State) (t : Nat) : (s.hold t).mem = s.mem ∧ (s.hold t).cycle = s.cycle ∧ (s.hold t).parts = s.parts := by
  unfold State.hold
  dsimp only
  split <;> exact ⟨rfl, rfl, rfl⟩

end

/-- Settles O45: the task picked passes every check of selection and starts with its registers. -/
theorem dispatchStartsTask : Obligations.DispatchStartsTask := by
  intro s p c r q prio stamp place since since6 sk t v hp hact hhalt hnext hslot hpick hq hk hst hg hh hr hrec
  obtain ⟨hm, hcyc, hparts⟩ := hold_same (s.age t) t
  have hp' : ((s.age t).hold t).partOfTile t = some p := by
    rw [State.partOfTile, hparts]
    exact hp
  have hst' : stamp < ((s.age t).hold t).cycle := by rw [hcyc]; exact hst
  obtain ⟨n, hn⟩ : ∃ n, v.loc.recs.length = n + 1 := by
    cases hl : v.loc.recs with
    | nil => rw [hl] at hrec; exact absurd hrec nofun
    | cons x xs => exact ⟨xs.length, rfl⟩
  have hex : exec .dispatch s = .next (((s.age t).hold t).dispatchTo t c r q prio stamp) := by
    have hcond : p.2.state = .active ∧ p.2.halt = none ∧ v.core.disp.next ≤ ((s.age t).hold t).cycle :=
      ⟨hact, hhalt, by rw [hcyc]; exact hnext⟩
    have hslot' : (upto 8).find? (fun c => v.core.slotFree c
        && decide ((aget v.core.ctxs .reset c).run.issueAt ≤ ((s.age t).hold t).cycle)) = some c := by
      rw [hcyc]
      exact hslot
    have hsel := select_dispatches (c := c) (n := n) hp' hpick hq hk hst' hg hh hr
    unfold exec execDispatch
    simp only [t, v] at hp' hslot' hcond hn hsel ⊢
    simp only [hp', hslot', hcond, hn, hsel, and_self, if_true]
  have hd := dispatchTo_dispatched ((s.age t).hold t) t c r q prio stamp
  generalize ((s.age t).hold t).dispatchTo t c r q prio stamp = u at hex hd
  obtain ⟨hmem, ⟨h1, h2, h3, h4, h5⟩, hfresh, hparked, hrecord⟩ := hd
  obtain ⟨hc0, hc14⟩ := startCaps_read q (v.loc.slot q.img.stSlot).cap
  refine ⟨u, hex, hmem.trans hm, h1, h2.trans hcyc, h3.trans (by rw [hcyc]; rfl), h4, h5, fun h => ?_, hparked, _, hrecord, rfl, rfl, rfl⟩
  obtain ⟨⟨free, hregs⟩, ht, ha⟩ := hfresh h
  rw [hregs]
  exact ⟨rfl, fun i hi => startRegs_x q _ _ hi, startRegs_x7 q _ _, hc0, hc14, rfl, rfl, rfl, ht, ha⟩

end Sys2Proof.Machine
end

section
/-!
PROOFS. What leaves a core (R206, R326, R335, R450).
-/

namespace Sys2Proof.Machine

section
variable {s : State}

/-! ## A context that keeps nothing -/

/-- A context slot written with what it holds. -/
theorem ctxAt_setCtxAt_same (s : State) (t c n d : Nat) : (s.setCtxAt t c (s.ctxAt t c)).ctxAt n d = s.ctxAt n d := by
  by_cases h : n = t ∧ d = c
  · obtain ⟨rfl, rfl⟩ := h
    exact State.ctxAt_setCtxAt_self _ _ _ _
  · exact State.ctxAt_setCtxAt_ne _ _ h

/-- A context that keeps nothing but writes, once those that are due are performed. -/
theorem pump_writes {t c : Nat} {u : State} {ls : List LogWrite} (hr : s.releaseWrites t (s.ctxAt t c).shzLog = (u, ls))
    (hu : u.ctxAt t c = s.ctxAt t c) (hp : (s.ctxAt t c).shzPosts = []) (he : (s.ctxAt t c).endHeld = none) :
    s.pump t c = u.setCtxAt t c { s.ctxAt t c with shzLog := ls } := by
  have h2 : ({ s.ctxAt t c with shzLog := ls, shzPosts := [] } : Context) = { s.ctxAt t c with shzLog := ls } := by rw [← hp]
  unfold State.pump
  simp only [hr, State.onCtxAt, hu, State.ctxAt_setCtxAt_self, hp, List.length_nil, State.takeEntries,
    State.releaseAll, State.setCtxAt_setCtxAt]
  rw [h2]
  simp only [State.heldEnd, State.ctxAt_setCtxAt_self, he]

theorem pump_idle {t c : Nat} (hl : (s.ctxAt t c).shzLog = []) (hp : (s.ctxAt t c).shzPosts = []) (he : (s.ctxAt t c).endHeld = none) :
    s.pump t c = s.setCtxAt t c (s.ctxAt t c) := by
  rw [pump_writes (u := s) (ls := []) (by rw [hl]; rfl) rfl hp he, ← hl]

/-- What the packets of a tile leave when no context of it keeps anything. -/
structure Unpumped (s u : State) (t : Nat) : Prop where
  mem : u.mem = s.mem
  net : u.net = s.net
  fabric : u.fabric = s.fabric
  inj : (u.tile t).core.inj = (s.tile t).core.inj
  ctxAt : ∀ c, u.ctxAt t c = s.ctxAt t c

theorem Unpumped.pump {u : State} {t c : Nat} (h : Unpumped s u t)
    (hc : (s.ctxAt t c).shzLog = [] ∧ (s.ctxAt t c).shzPosts = [] ∧ (s.ctxAt t c).endHeld = none) : Unpumped s (u.pump t c) t := by
  obtain ⟨hl, hp, he⟩ := h.ctxAt c ▸ hc
  rw [pump_idle hl hp he]
  exact ⟨h.mem, h.net, h.fabric, by rw [State.tile_setCtxAt_self]; exact h.inj,
    fun d => (ctxAt_setCtxAt_same _ _ _ _ _).trans (h.ctxAt d)⟩

theorem pumps_idle {t : Nat} {cs : List Nat}
    (hc : ∀ c ∈ cs, (s.ctxAt t c).shzLog = [] ∧ (s.ctxAt t c).shzPosts = [] ∧ (s.ctxAt t c).endHeld = none) :
    Unpumped s (cs.foldl (fun s c => s.pump t c) s) t := by
  have : ∀ u, Unpumped s u t → Unpumped s (cs.foldl (fun s c => s.pump t c) u) t := by
    induction cs with
    | nil => exact fun u h => h
    | cons c cs ih =>
      intro u h
      rw [List.foldl_cons]
      exact ih (fun d hd => hc d (List.mem_cons_of_mem _ hd)) _ (h.pump (hc c List.mem_cons_self))
  exact this s ⟨rfl, rfl, rfl, rfl, fun _ => rfl⟩

/-! ## A post leaves -/

/-- A packet on its way: on the mesh, or handed to the fabric interface. -/
structure Departed (s u : State) (p : Packet) : Prop where
  mem : u.mem = s.mem
  tiles : u.tiles = s.tiles
  near : p.dst.chip = s.chip → u.net = s.net ++ [p]
  far : p.dst.chip ≠ s.chip → u.fabric.out = s.fabric.out ++ [p]

theorem departed (s : State) (p : Packet) : Departed s ((s.sendPkt p).trackContribution p.body) p := by
  have ht (u : State) (b : Body) : (u.trackContribution b).mem = u.mem ∧ (u.trackContribution b).tiles = u.tiles
      ∧ (u.trackContribution b).net = u.net ∧ (u.trackContribution b).fabric.out = u.fabric.out := by
    unfold State.trackContribution
    split <;> exact ⟨rfl, rfl, rfl, rfl⟩
  obtain ⟨hm, hti, hn, hf⟩ := ht (s.sendPkt p) p.body
  by_cases hd : p.dst.chip = s.chip
  · have hs : s.sendPkt p = { s with net := s.net ++ [p] } := if_pos hd
    rw [hs] at hm hti hn hf ⊢
    exact ⟨hm, hti, fun _ => hn, fun h => absurd hd h⟩
  · have hs : s.sendPkt p = { s with fabric := { s.fabric with out := s.fabric.out ++ [p] } } := if_neg hd
    rw [hs] at hm hti hn hf ⊢
    exact ⟨hm, hti, fun h => absurd h hd, fun _ => hf⟩

theorem injectionEntryFree_leaves {e : InjEntry} (he : (s.tile s.cur.tile).core.inj[s.cur.sub]? = some e)
    (hf : (!((s.tile s.cur.tile).core.inj.take s.cur.sub).any fun q => q.vn == e.vn && q.pkt.dst == e.pkt.dst) = true)
    (hb : isOperation e.pkt.body = true ∨ s.before s.cur.tile e.ctx e.ord = true)
    (hc : ∀ c < 8, (s.ctxAt s.cur.tile c).shzLog = [] ∧ (s.ctxAt s.cur.tile c).shzPosts = []
      ∧ (s.ctxAt s.cur.tile c).endHeld = none) :
    ∃ u, exec .injectionEntryFree s = .next u
      ∧ (u.tile s.cur.tile).core.inj = (s.tile s.cur.tile).core.inj.eraseIdx s.cur.sub ∧ u.mem = s.mem
      ∧ (e.pkt.dst.chip = s.chip → u.net = s.net ++ [e.pkt])
      ∧ (e.pkt.dst.chip ≠ s.chip → u.fabric.out = s.fabric.out ++ [e.pkt]) := by
  let a := s.onCore s.cur.tile fun k => { k with inj := k.inj.eraseIdx s.cur.sub }
  have hd := departed a e.pkt
  have hctx (c : Nat) : a.ctxAt s.cur.tile c = s.ctxAt s.cur.tile c := (GivenUp.onCore s s.cur.tile _ (by exact fun _ => rfl)).ctxAt _ _
  have hinj : (a.tile s.cur.tile).core.inj = (s.tile s.cur.tile).core.inj.eraseIdx s.cur.sub := by
    simp only [a, State.core_onCore_self]
  have hex : exec .injectionEntryFree s = .next ((upto 8).foldl (fun s' c => s'.pump s.cur.tile c) ((a.sendPkt e.pkt).trackContribution e.pkt.body)) := by
    unfold exec execInjectionEntryFree
    simp only [he]
    rw [if_pos ⟨hf, hb⟩]
  generalize (a.sendPkt e.pkt).trackContribution e.pkt.body = b at hd hex
  have htile : b.tile s.cur.tile = a.tile s.cur.tile := by simp only [State.tile, hd.tiles]
  have hp := pumps_idle (s := b) (t := s.cur.tile) (cs := upto 8) fun c hc' => by
    have : b.ctxAt s.cur.tile c = s.ctxAt s.cur.tile c := (by simp only [State.ctxAt, htile] : _ = a.ctxAt s.cur.tile c).trans (hctx c)
    rw [this]
    exact hc c (List.mem_range.mp hc')
  exact ⟨_, hex, hp.inj.trans (by rw [htile, hinj]), hp.mem.trans hd.mem, fun h => hp.net.trans (hd.near h),
    fun h => by rw [hp.fabric]; exact hd.far h⟩

theorem injectionEntryFree_waits {e : InjEntry} (he : (s.tile s.cur.tile).core.inj[s.cur.sub]? = some e)
    (hf : (!((s.tile s.cur.tile).core.inj.take s.cur.sub).any fun q => q.vn == e.vn && q.pkt.dst == e.pkt.dst) = false) :
    exec .injectionEntryFree s = .next s := by
  unfold exec execInjectionEntryFree
  simp only [he]
  rw [if_neg]
  rw [hf]
  rintro ⟨h, -⟩
  exact absurd h (by decide)

/-! ## The strike horizon's releases -/

/-- The history trimmed: memory, the time and the contexts stand. -/
theorem trimHistory_same (s : State) (t : Nat) : (s.trimHistory t).mem = s.mem ∧ (s.trimHistory t).parts = s.parts
    ∧ (s.trimHistory t).cur = s.cur ∧ ∀ n c, (s.trimHistory t).ctxAt n c = s.ctxAt n c := by
  refine ⟨rfl, rfl, rfl, fun n c => ?_⟩
  unfold State.trimHistory State.ctxAt
  by_cases hn : n = t
  · subst hn; simp
  · rw [State.tile_onTile_ne s _ hn]

theorem horizonRelease_eq {u : State} {ls : List LogWrite} (hr : s.releaseWrites s.cur.tile s.ctx.shzLog = (u, ls))
    (hu : u.ctx = s.ctx) (hcur : u.cur = s.cur) (hp : s.ctx.shzPosts = []) (he : s.ctx.endHeld = none) :
    ∃ v, exec .horizonRelease s = .next v ∧ v.ctx.shzLog = ls ∧ v.mem = u.mem ∧ v.parts = u.parts := by
  have hu' : u.ctxAt s.cur.tile s.cur.ctx = s.ctxAt s.cur.tile s.cur.ctx := by
    rwa [State.ctx, State.ctx, hcur] at hu
  have hpump := pump_writes hr hu' hp he
  have hex : exec .horizonRelease s = .next ((s.pump s.cur.tile s.cur.ctx).trimHistory s.cur.tile) := rfl
  rw [hpump] at hex
  obtain ⟨hm, hpa, hc, hx⟩ := trimHistory_same (u.setCtxAt s.cur.tile s.cur.ctx { s.ctxAt s.cur.tile s.cur.ctx with shzLog := ls }) s.cur.tile
  refine ⟨_, hex, ?_, hm, hpa⟩
  rw [State.ctx, hx, hc, show (u.setCtxAt s.cur.tile s.cur.ctx _).cur = s.cur from hcur, State.ctxAt_setCtxAt_self]

theorem horizonRelease_performs {l : LogWrite} (hl : s.ctx.shzLog = [l]) (hp : s.ctx.shzPosts = []) (he : s.ctx.endHeld = none)
    (hw : Memory.wf s.mem = true) (hd : l.due ≤ s.cycle) :
    ∃ u, exec .horizonRelease s = .next u ∧ u.ctx.shzLog = []
      ∧ (∀ i : Nat, ∀ hi : i < l.bytes.length, u.byte (l.addr + i) = l.bytes[i]) ∧ SameMemoryBut s u l.addr l.bytes.length := by
  have hwr := perform_wrote s s.cur.tile l.cap l.addr l.bytes
  have hr : s.releaseWrites s.cur.tile s.ctx.shzLog = (s.perform s.cur.tile l.cap l.addr l.bytes, []) := by
    rw [hl, State.releaseWrites, if_pos hd, State.releaseWrites]
  obtain ⟨v, hex, hlog, hm, hpa⟩ := horizonRelease_eq hr hwr.ctx hwr.cur hp he
  exact ⟨v, hex, hlog, fun i hi => (byte_of_mem hm hpa _).trans (hwr.byte_inside hw hi),
    fun b hb => (byte_of_mem hm hpa _).trans (hwr.byte_outside hb)⟩

theorem horizonRelease_keeps {l : LogWrite} (hl : s.ctx.shzLog = [l]) (hp : s.ctx.shzPosts = []) (he : s.ctx.endHeld = none)
    (hd : s.cycle < l.due) : ∃ u, exec .horizonRelease s = .next u ∧ u.ctx.shzLog = [l] ∧ SameMemory s u := by
  have hr : s.releaseWrites s.cur.tile s.ctx.shzLog = (s, [l]) := by
    rw [hl, State.releaseWrites, if_neg (Nat.not_le.mpr hd)]
  obtain ⟨v, hex, hlog, hm, hpa⟩ := horizonRelease_eq hr rfl rfl hp he
  exact ⟨v, hex, hlog, fun b => byte_of_mem hm hpa b⟩

end

/-- Settles O48: a post leaves behind earlier ones, a held write is performed when due, the vector unit becomes free. -/
theorem releaseEvents : Obligations.ReleaseEvents := by
  intro s e l t inj
  refine ⟨fun he => ⟨fun hf hb hc => injectionEntryFree_leaves he hf hb hc, fun hf => injectionEntryFree_waits he hf⟩,
    fun hl hp he hla hw => ⟨horizonRelease_performs hl hp he hw, horizonRelease_keeps hl hp he⟩,
    fun hv => ⟨s.onCtx fun v => { v with vecBusy := none }, ?_, State.ctx_onCtx _ _, fun _ => rfl⟩, fun hv => ?_⟩
  · exact congrArg _ (if_neg hv)
  · exact congrArg _ (if_pos hv)

end Sys2Proof.Machine
end

section
/-!
PROOFS. What arrives at a tile: the result of an AOPR that comes from another chip too late (R406).
-/

namespace Sys2Proof.Machine

/-! ## A result that comes late

An AOPR result from another chip whose last words are applied after window N + 2 of its request is recorded in the fault log of the
partition that asked (R406). The log lies in memory, so that the arrival does not leave every byte as it was. -/

/-- The last words of a result, from chip 1, for landing registers up to 0 of tile 0. -/
def lateResult : Packet := ⟨1, 0, ⟨1, 0⟩, .home, ⟨0, 0⟩, 0, 0, 16, .aoprResult 1 [], none, false, none⟩

/-- A capability over a buffer of chip 1. -/
def farCap : Cap :=
  { hallmark := 0, ctidx := 0, agent := 0, chip := 1, mode := .exclusive, rights := ⟨true, true, true, true⟩, kind := .hbm, tokens := 0,
    woff := 0, wlen := 1 }

/-- The request of that result, sent in window 0. -/
def lateRequest : Packet :=
  ⟨0, 0, ⟨0, 0⟩, .core, ⟨1, 0⟩, 0, 0, 24, .operate 1 0 farCap 0 none [] (some ⟨⟨0, 0⟩, 0⟩) 0, none, false, none⟩

/-- Window 3: the result arrives, its transfer is still listed, and the partition's fault log stands at address 0. -/
def lateState : State :=
  { State.reset with
    cycle := 16800, mem := [(0, 0)], net := [lateResult]
    parts := [(0, { fetchPart with supv := { Supv.empty with flog := ⟨some 0, 1, 0, 0, 0⟩ } })]
    fabric := { Fabric.reset with transfers := [⟨0, 0, 0, 0, true, false, lateRequest, .result⟩] } }

theorem lateState_incoming : lateState.incoming = some lateResult := by decide

theorem lateState_byte : lateState.byte 0 = 0 := by decide

/-- The first byte that an outcome's next state holds. -/
def firstByte (o : Host.Outcome State Fault Refusal) : Byte := match o with
  | .next u => u.byte 0
  | _ => 0

/-- The code TIMEOUT stands in the log after the arrival. -/
theorem lateState_logs : firstByte (exec .aoprResultArrival lateState) = 7 := by decide +kernel

/-- Refutes O49: an AOPR result from another chip that comes after window N + 2 of its request is logged, which writes memory. -/
theorem not_arrivalResults : ¬ Obligations.ArrivalResults := by
  intro h
  obtain ⟨-, -, -, hland⟩ := h lateState lateResult 0 0 0 0 1 0 0 0 0 0 [] farCap false fetchRecord.img fetchKernel fetchImage
    (0, fetchPart) ⟨0, 0, false, none, 0, false, 0, 0, 0, false⟩ lateState_incoming
  obtain ⟨hnow, -⟩ := hland (.inr rfl)
  obtain ⟨u, hu, ⟨-, hmem⟩, -⟩ := hnow nofun
  have hb : firstByte (exec .aoprResultArrival lateState) = u.byte 0 := by
    rw [if_neg (by simp [lateResult])] at hu
    rw [hu]
    rfl
  rw [lateState_logs, hmem 0, lateState_byte] at hb
  exact absurd hb (by decide)

end Sys2Proof.Machine
end

section
/-!
PROOFS. Deliveries (R63, R331, R413, R483).
-/

namespace Sys2Proof.Machine

section
variable {s u : State}

/-! ## Arrivals -/

theorem incoming_dst {p : Packet} (h : s.incoming = some p) : p.dst = ⟨s.chip, s.cur.tile⟩ := by
  unfold State.incoming at h
  split at h
  · split at h
    · rename_i hc
      exact Option.some.inj h ▸ hc.1
    · exact absurd h nofun
  · exact absurd h nofun

theorem incoming_tile {p : Packet} (h : s.incoming = some p) : p.dst.tile = s.cur.tile := by rw [incoming_dst h]

/-- An arrival that is applied. -/
theorem arrival_applies {f : State → Packet → Option (Option State)} {p : Packet} (h : s.incoming = some p)
    (hf : f s.taken p = some (some u)) : arrival s f = .next u := by
  simp only [arrival, h, hf]

/-! ## Landing registers -/

theorem setLand_land (s : State) (t y : Nat) (v : Word) :
    ((s.setLand t y (some v)).tile t).loc.land = aset (s.tile t).loc.land y v
      ∧ ((s.setLand t y (some v)).tile t).loc.landHold = (s.tile t).loc.landHold := by
  simp [State.setLand, State.reeval]

theorem landBusy_setLand {t y z : Nat} {v : Word} (hz : z ≠ y) (h : (s.tile t).loc.landBusy z = false) :
    ((s.setLand t y (some v)).tile t).loc.landBusy z = false := by
  obtain ⟨h1, h2⟩ := setLand_land s t y v
  unfold Local.landBusy at h ⊢
  rwa [h1, h2, aget?_aset_ne _ _ hz]

/-- Writes to free landing registers, one after another. -/
theorem landWrites_all {t : Nat} {vals : List Word} : ∀ {s : State} {y : Nat}, (∀ j < vals.length, (s.tile t).loc.landBusy (y + j) = false) →
    ∃ u, s.landWrites t y vals = (u, []) ∧ u.net = s.net ∧ u.mem = s.mem ∧ u.parts = s.parts
      ∧ (∀ z < y, aget? (u.tile t).loc.land z = aget? (s.tile t).loc.land z)
      ∧ ∀ j : Nat, ∀ hj : j < vals.length, aget? (u.tile t).loc.land (y + j) = some vals[j] := by
  induction vals with
  | nil => exact fun _ => ⟨_, rfl, rfl, rfl, rfl, fun _ _ => rfl, fun j hj => absurd hj (Nat.not_lt_zero j)⟩
  | cons v vs ih =>
    intro s y hb
    have h0 : (s.tile t).loc.landBusy y = false := hb 0 (Nat.zero_lt_succ _)
    obtain ⟨u, hu, hn, hm, hp, hlow, hall⟩ := ih (s := s.setLand t y (some v)) (y := y + 1) fun j hj => by
      have := hb (j + 1) (Nat.succ_lt_succ hj)
      rw [Nat.add_assoc, Nat.add_comm 1]
      exact landBusy_setLand (by omega) this
    obtain ⟨hl, -⟩ := setLand_land s t y v
    refine ⟨u, ?_, hn, hm, hp, fun z hz => ?_, fun j hj => ?_⟩
    · rw [State.landWrites, h0, Bool.false_and, if_neg (by decide), State.landWrite, h0, if_neg (by decide)]
      exact hu
    · rw [hlow z (by omega), hl, aget?_aset_ne _ _ (by omega)]
    · cases j with
      | zero => rw [Nat.add_zero, hlow y (by omega), hl, aget?_aset_self]; rfl
      | succ j =>
        have := hall j (Nat.lt_of_succ_lt_succ hj)
        rwa [Nat.add_assoc, Nat.add_comm 1] at this

theorem landingHoldApply_applies {i : Nat} {h : HeldLanding}
    (hi : (s.tile s.cur.tile).loc.landHold.findIdx? ((s.tile s.cur.tile).loc.landDue s.cycle) = some i)
    (hh : (s.tile s.cur.tile).loc.landHold[i]? = some h) :
    ∃ u, exec .landingHoldApply s = .next u ∧ aget? (u.tile s.cur.tile).loc.land h.reg = some h.val
      ∧ (u.tile s.cur.tile).loc.landHold = (s.tile s.cur.tile).loc.landHold.eraseIdx i := by
  have hex : exec .landingHoldApply s = .next ((s.onLocal s.cur.tile fun l => { l with landHold := l.landHold.eraseIdx i }).setLand
      s.cur.tile h.reg (some h.val)) := by
    unfold exec execLandingHoldApply State.applyHeld
    simp only [hi, hh]
  obtain ⟨h1, h2⟩ := setLand_land (s.onLocal s.cur.tile fun l => { l with landHold := l.landHold.eraseIdx i }) s.cur.tile h.reg h.val
  exact ⟨_, hex, by rw [h1, aget?_aset_self], by rw [h2, State.loc_onLocal_self]⟩

/-! ## The deliveries of a ring -/

/-- What names a delivery. -/
def Delivery.name (d : Delivery) : Place × Nat := (d.src, d.id)

/-- A ring of a tile keeps the names of its deliveries in their order and its count of granted slots. -/
def KeepsRing (t r : Nat) (s u : State) : Prop := ∀ g, aget? (s.tile t).loc.rings r = some g →
  ∃ g', aget? (u.tile t).loc.rings r = some g' ∧ g'.deliveries.map Delivery.name = g.deliveries.map Delivery.name ∧ g'.rsv = g.rsv

theorem KeepsRing.of_loc {t r : Nat} (h : (u.tile t).loc = (s.tile t).loc) : KeepsRing t r s u := fun g hg => ⟨g, by rw [h]; exact hg, rfl, rfl⟩

theorem KeepsRing.trans {t r : Nat} {v : State} (h : KeepsRing t r s u) (h' : KeepsRing t r u v) : KeepsRing t r s v := fun g hg => by
  obtain ⟨g', hg', hn, hr⟩ := h g hg
  obtain ⟨g'', hg'', hn', hr'⟩ := h' g' hg'
  exact ⟨g'', hg'', hn'.trans hn, hr'.trans hr⟩

theorem onDelivery_keeps {f : Delivery → Delivery} (hf : ∀ d, (f d).name = d.name) (s : State) (t r r' : Nat) (src : Place) (id : Nat) :
    KeepsRing t r s (s.onDelivery t r' src id f) := by
  intro g hg
  unfold State.onDelivery
  rw [State.loc_onLocal_self]
  dsimp only
  cases hr : aget? (s.tile t).loc.rings r' with
  | none => exact ⟨g, hg, rfl, rfl⟩
  | some k =>
    by_cases he : r = r'
    · subst he
      rw [hg] at hr
      obtain rfl := Option.some.inj hr
      refine ⟨_, aget?_aset_self _ _ _, ?_, rfl⟩
      rw [List.map_map]
      refine List.map_congr_left fun d _ => ?_
      dsimp only [Function.comp]
      split
      · exact hf d
      · rfl
    · exact ⟨g, by rw [aget?_aset_ne _ _ he]; exact hg, rfl, rfl⟩

theorem slotWrite_keeps {t r : Nat} {src : Place} {id i : Nat} {bs : List Byte} (h : s.slotWrite t src id i bs = .ok u) :
    KeepsRing t r s u := by
  unfold State.slotWrite at h
  split at h
  · exact absurd h nofun
  · split at h
    · exact absurd h nofun
    · split at h
      · obtain rfl := Except.ok.inj h
        refine .trans (.of_loc ?_) (onDelivery_keeps ?_ _ t r _ src id)
        · rw [State.tile, (perform_wrote s t _ _ bs).tiles]
          rfl
        · exact fun _ => rfl
      · exact absurd h nofun
      · exact absurd h nofun

theorem State.loc_onSteward (s : State) (t : Nat) (f : Steward → Steward) (n : Nat) :
    ((s.onSteward t f).tile n).loc = (s.tile n).loc := by
  unfold State.onSteward
  by_cases hn : n = t
  · subst hn; simp
  · rw [State.tile_onTile_ne s _ hn]

theorem answerSlots_loc (s : State) (t : Nat) (src : Place) (id : Nat) (o : Option (Nat × Nat × Nat)) (n : Nat) :
    ((s.answerSlots t src id o).tile n).loc = (s.tile n).loc := by
  unfold State.answerSlots
  split
  · exact State.loc_onSteward _ _ _ _
  · exact congrArg Tile.loc ((Elsewhere.sendPkt s _).tile n)

/-- A delivery that has been granted is answered, or its record fills its slot. -/
def State.granted (b : State) (t r : Nat) (g : Ring) (d : Delivery) : State :=
  match d.record with
  | none => b.answerSlots t d.src d.id (some (g.rsv % g.slots, d.n, g.slotBytes))
  | some v =>
    (match b.slotWrite t d.src d.id 0 (recordBytes g v) with
      | .ok s => s
      | .error _ => b).onDelivery t r d.src d.id fun d => { d with done := some (cOk, 0, 24) }

theorem granted_keeps (b : State) (t r : Nat) (g : Ring) (d : Delivery) : KeepsRing t r b (b.granted t r g d) := by
  unfold State.granted
  split
  · exact .of_loc (answerSlots_loc _ _ _ _ _ _)
  · refine .trans ?_ (onDelivery_keeps ?_ _ _ _ _ _ _)
    · split
      · exact slotWrite_keeps ‹_›
      · exact .of_loc rfl
    · exact fun _ => rfl

/-- The grant of a delivery that fits. -/
theorem grantNext_eq {t r : Nat} {g : Ring} {d : Delivery} (hg : aget? (s.tile t).loc.rings r = some g)
    (hd : g.deliveries.find? (fun d => !d.granted) = some d) (hf : g.fits d.n = true) :
    s.grantNext t r = (((s.onLocal t fun l => { l with rings := aset l.rings r { g with rsv := (g.rsv + d.n) % 2 ^ 32 } }).onDelivery t r
      d.src d.id fun d => { d with granted := true, first := g.rsv % g.slots, lastWindow := s.window }).granted t r g d) := by
  unfold State.grantNext State.granted
  simp only [hg, hd, hf, if_true]
  cases d.record with
  | none => rfl
  | some v => rfl

/-- A grant keeps the names of the deliveries and counts the slots. -/
theorem grantNext_grants {t r : Nat} {g : Ring} {d : Delivery} (hg : aget? (s.tile t).loc.rings r = some g)
    (hd : g.deliveries.find? (fun d => !d.granted) = some d) (hf : g.fits d.n = true) :
    ∃ g', aget? ((s.grantNext t r).tile t).loc.rings r = some g'
      ∧ g'.deliveries.map Delivery.name = g.deliveries.map Delivery.name ∧ g'.rsv = (g.rsv + d.n) % 2 ^ 32 := by
  let a := s.onLocal t fun l => { l with rings := aset l.rings r { g with rsv := (g.rsv + d.n) % 2 ^ 32 } }
  have ha : aget? (a.tile t).loc.rings r = some { g with rsv := (g.rsv + d.n) % 2 ^ 32 } := by simp [a]
  have hk : KeepsRing t r a (s.grantNext t r) := by
    rw [grantNext_eq hg hd hf]
    have hb := onDelivery_keeps (f := fun d => { d with granted := true, first := g.rsv % g.slots, lastWindow := s.window })
      (fun _ => rfl) a t r r d.src d.id
    exact hb.trans (granted_keeps _ _ _ _ _)
  exact hk _ ha

theorem grantNext_waits {t r : Nat} {g : Ring} {d : Delivery} (hg : aget? (s.tile t).loc.rings r = some g)
    (hd : g.deliveries.find? (fun d => !d.granted) = some d) (hf : g.fits d.n = false) : s.grantNext t r = s := by
  simp only [State.grantNext, hg, hd, hf, Bool.false_eq_true, if_false]

/-- A grant, or none, keeps the names of the deliveries. -/
theorem grantNext_names {t r : Nat} {g : Ring} (hg : aget? (s.tile t).loc.rings r = some g) :
    ∃ g', aget? ((s.grantNext t r).tile t).loc.rings r = some g' ∧ g'.deliveries.map Delivery.name = g.deliveries.map Delivery.name := by
  cases hd : g.deliveries.find? fun d => !d.granted with
  | none => exact ⟨g, by simp only [State.grantNext, hg, hd], rfl⟩
  | some d =>
    cases hf : g.fits d.n with
    | true =>
      obtain ⟨g', h1, h2, -⟩ := grantNext_grants hg hd hf
      exact ⟨g', h1, h2⟩
    | false => exact ⟨g, by rw [grantNext_waits hg hd hf, hg], rfl⟩

/-! ## Requests, announcements and records -/

theorem copySlotRequest_refused {p : Packet} {id ch bytes : Nat} {x2 : Word} (h : s.incoming = some p) (hb : p.body = .slotReq id ch bytes x2)
    (hc : aget? (s.tile s.cur.tile).loc.chans ch = none) :
    exec .copySlotRequest s = .next (s.taken.answerSlots s.cur.tile p.src id none) := by
  have hc' : aget? (s.taken.tile s.cur.tile).loc.chans ch = none := hc
  unfold exec execCopySlotRequest
  refine arrival_applies h ?_
  simp only [hb, State.takeSlotRequest, incoming_tile h, hc']
  rfl

theorem copySlotRequest_joins {p : Packet} {id ch bytes r : Nat} {x2 : Word} {c : Chan} {g : Ring} (h : s.incoming = some p)
    (hb : p.body = .slotReq id ch bytes x2) (hc : aget? (s.tile s.cur.tile).loc.chans ch = some c) (hd : c.dead = false)
    (hr : c.cring = some r) (hg : aget? (s.tile s.cur.tile).loc.rings r = some g) (hf : bytes ≤ g.slots * g.slotBytes) :
    ∃ u g', exec .copySlotRequest s = .next u ∧ aget? (u.tile s.cur.tile).loc.rings r = some g'
      ∧ g'.deliveries.map Delivery.name = g.deliveries.map Delivery.name ++ [(p.src, id)] := by
  let d : Delivery :=
    { src := p.src, id := id, kslot := p.kslot, chan := ch, n := (bytes + g.slotBytes - 1) / g.slotBytes, bytes := bytes,
      first := 0, granted := false, got := 0, done := none, x2 := x2, lastWindow := s.taken.window, record := none }
  let a := s.taken.onLocal s.cur.tile fun l => { l with rings := match aget? l.rings r with
    | some g => aset l.rings r { g with deliveries := g.deliveries ++ [d] }
    | none => l.rings }
  have hg' : aget? (s.taken.tile s.cur.tile).loc.rings r = some g := hg
  have ha : aget? (a.tile s.cur.tile).loc.rings r = some { g with deliveries := g.deliveries ++ [d] } := by
    simp only [a, State.loc_onLocal_self, hg', aget?_aset_self]
  have hex : exec .copySlotRequest s = .next (a.grantNext s.cur.tile r) := by
    have hc' : aget? (s.taken.tile s.cur.tile).loc.chans ch = some c := hc
    unfold exec execCopySlotRequest
    refine arrival_applies h ?_
    simp only [hb, State.takeSlotRequest, incoming_tile h, hc', hd, hr, hg', hf, Option.bind_eq_bind, Option.bind_some,
      Bool.false_eq_true, if_false, if_true]
    rfl
  obtain ⟨g', h1, h2⟩ := grantNext_names ha
  exact ⟨_, g', hex, h1, by rw [h2, List.map_append]; rfl⟩

theorem copySlotGrant_grants {r : Nat} {g : Ring} {d : Delivery} (hg : aget? (s.tile s.cur.tile).loc.rings r = some g) (hr : s.cur.sub = r)
    (hd : g.deliveries.find? (fun d => !d.granted) = some d) (hf : g.fits d.n = true) :
    ∃ u g', exec .copySlotGrant s = .next u ∧ aget? (u.tile s.cur.tile).loc.rings r = some g' ∧ g'.rsv = (g.rsv + d.n) % 2 ^ 32 := by
  obtain ⟨g', h1, -, h2⟩ := grantNext_grants hg hd hf
  exact ⟨_, g', by rw [← hr] at h1 ⊢; rfl, h1, h2⟩

/-- A ring without its oldest delivery, and its fill counter raised. -/
def State.filled (s : State) (t r : Nat) (g : Ring) (n : Nat) : State :=
  (s.onLocal t fun l => { l with rings := aset l.rings r { g with deliveries := g.deliveries.drop 1 } }).incCtr t g.fctr n

theorem filled_spec (s : State) (t r : Nat) (g : Ring) (n : Nat) :
    aget? ((s.filled t r g n).tile t).loc.rings r = some { g with deliveries := g.deliveries.drop 1 }
      ∧ (((s.filled t r g n).tile t).loc.ctr g.fctr).value = ((s.tile t).loc.ctr g.fctr).value + BitVec.ofNat 32 n
      ∧ (s.filled t r g n).net = s.net ∧ (s.filled t r g n).chip = s.chip := by
  let a := s.onLocal t fun l => { l with rings := aset l.rings r { g with deliveries := g.deliveries.drop 1 } }
  have hs := setCtr_sets a t g.fctr { (a.tile t).loc.ctr g.fctr with value := ((a.tile t).loc.ctr g.fctr).value + BitVec.ofNat 32 n }
  have hctr : (a.tile t).loc.ctr g.fctr = (s.tile t).loc.ctr g.fctr := by simp only [a, State.loc_onLocal_self, Local.ctr]
  refine ⟨?_, ?_, ?_, ?_⟩
  · exact (congrArg (aget? · r) hs.rings).trans (by simp only [a, State.loc_onLocal_self, aget?_aset_self])
  · refine (congrArg (fun m => (aget m (⟨0, false⟩ : Ctr) g.fctr).value) hs.ctrs).trans ?_
    rw [aget_aset_self, hctr]
  · change (a.setCtr t _ _).net = s.net
    unfold State.setCtr
    dsimp only
    split <;> rfl
  · change (a.setCtr t _ _).chip = s.chip
    unfold State.setCtr
    dsimp only
    split <;> rfl

theorem announce_waits {t r : Nat} {g : Ring} {d : Delivery} (hg : aget? (s.tile t).loc.rings r = some g)
    (hd : g.deliveries.head? = some d) (hdone : d.done = none) : s.announce t r = s := by
  simp only [State.announce, hg, hd, hdone, Option.bind_some, Option.map_some]

/-- The announcement of a delivery on its channel (R342, R483). -/
def State.announcement (s : State) (t : Nat) (d : Delivery) (code bytes : Nat) : Packet :=
  ⟨0, ((s.partOfTile t).map (·.1)).getD 0, d.src, .engine, ⟨s.chip, t⟩, d.kslot,
    if d.src.chip = s.chip then s.dueAt d.src ⟨s.chip, t⟩ 24 else s.cycle, 24,
    .msg d.chan (word (code + 2 ^ 8 + d.first * 2 ^ 9 + d.n * 2 ^ 17)) d.x2 (word bytes) 0 none, none, false, none⟩

theorem copyAnnounce_announces {r code sub bytes : Nat} {g : Ring} {d : Delivery} (hg : aget? (s.tile s.cur.tile).loc.rings r = some g)
    (hr : s.cur.sub = r) (hd : g.deliveries.head? = some d) (hdone : d.done = some (code, sub, bytes)) (hgr : d.granted = true) :
    ∃ u g', exec .copyAnnounce s = .next u ∧ aget? (u.tile s.cur.tile).loc.rings r = some g' ∧ g'.deliveries = g.deliveries.drop 1
      ∧ ((u.tile s.cur.tile).loc.ctr g.fctr).value = ((s.tile s.cur.tile).loc.ctr g.fctr).value + BitVec.ofNat 32 d.n
      ∧ (d.record = none → ∃ q, u.net = s.net ++ [q] ∧ q.dst = ⟨s.chip, s.cur.tile⟩
          ∧ q.body = .msg d.chan (word (code + 2 ^ 8 + d.first * 2 ^ 9 + d.n * 2 ^ 17)) d.x2 (word bytes) 0 none) := by
  obtain ⟨h1, h2, hn, hch⟩ := filled_spec s s.cur.tile r g d.n
  have hex : exec .copyAnnounce s = .next (if d.record.isSome then s.filled s.cur.tile r g d.n
      else (s.filled s.cur.tile r g d.n).sendPkt ((s.filled s.cur.tile r g d.n).announcement s.cur.tile d code bytes)) := by
    unfold exec execCopyAnnounce State.announce
    simp only [hr, hg, hd, hdone, hgr, Option.bind_some, Option.map_some, if_true]
    rfl
  generalize s.filled s.cur.tile r g d.n = v at h1 h2 hn hch hex
  cases hrec : d.record with
  | some x =>
    rw [hrec, Option.isSome_some, if_pos rfl] at hex
    exact ⟨v, _, hex, h1, rfl, h2, nofun⟩
  | none =>
    have hl : ((v.sendPkt (v.announcement s.cur.tile d code bytes)).tile s.cur.tile).loc = (v.tile s.cur.tile).loc :=
      congrArg Tile.loc ((Elsewhere.sendPkt v _).tile _)
    have hnet : (v.sendPkt (v.announcement s.cur.tile d code bytes)).net = v.net ++ [v.announcement s.cur.tile d code bytes] := by
      unfold State.sendPkt
      rw [if_pos (show (v.announcement s.cur.tile d code bytes).dst.chip = v.chip from rfl)]
    rw [hrec, Option.isSome_none, if_neg (by decide)] at hex
    refine ⟨_, _, hex, by rw [hl, h1], rfl, by rw [hl, h2], fun _ => ⟨_, by rw [hnet, hn], ?_, rfl⟩⟩
    exact congrArg (⟨·, s.cur.tile⟩ : Nat → Place) hch

/-! ## Records of collectives -/

theorem collectiveRecord_lands {p : Packet} {at' : LandAt} {v st mask hd : Word} {i : Nat} (h : s.incoming = some p)
    (hb : p.body = .collRecord (.land at') v st mask hd i)
    (hbusy : ∀ j < 3, (s.tile s.cur.tile).loc.landBusy (at'.reg + j) = false) :
    ∃ u, exec .collectiveRecordArrival s = .next u ∧ u.net = s.net.eraseIdx s.cur.sub
      ∧ aget? (u.tile s.cur.tile).loc.land at'.reg = some v ∧ aget? (u.tile s.cur.tile).loc.land (at'.reg + 1) = some st
      ∧ aget? (u.tile s.cur.tile).loc.land (at'.reg + 2) = some mask := by
  obtain ⟨u, hu, hn, -, -, -, hall⟩ := landWrites_all (s := s.taken) (t := s.cur.tile) (vals := [v, st, mask]) (y := at'.reg) hbusy
  have hex : exec .collectiveRecordArrival s = .next (u.contribClosed hd i) := by
    unfold exec execCollectiveRecordArrival
    refine arrival_applies h ?_
    simp only [hb, State.takeRecord, State.landOr, incoming_tile h, hu]
  exact ⟨_, hex, hn, hall 0 (by simp), hall 1 (by simp), hall 2 (by simp)⟩

end

/-- Settles O50: each event of a delivery by the list of its ring. -/
theorem deliveryEvents : Obligations.DeliveryEvents := by
  intro s p h i r id ch bytes code sub x2 v st mask hd c g d at' t l ringOf
  refine ⟨landingHoldApply_applies, fun hp hb => ⟨copySlotRequest_refused hp hb, copySlotRequest_joins hp hb⟩,
    fun hg hr hd => ⟨fun hf => copySlotGrant_grants (hr ▸ hg) hr hd hf, fun hf => ?_⟩, fun hg hr hd => ⟨fun hdone hgr => ?_, fun hdone => ?_⟩,
    fun hp hb hbusy => ?_⟩
  · exact congrArg Host.Outcome.next (grantNext_waits hg hd hf)
  · exact copyAnnounce_announces (hr ▸ hg) hr hd hdone hgr
  · exact congrArg Host.Outcome.next (announce_waits hg hd hdone)
  · exact collectiveRecord_lands hp hb hbusy

end Sys2Proof.Machine
end

section
/-!
PROOFS. Memory agents: what ADD.EXACT returns (R354).
-/

namespace Sys2Proof.Machine

/-! ## ADD.EXACT returns the old value

The agent returns the value that the element had before the addition. An element of 0 to which 1 is added answers 0. -/

/-- AOPR of ADD.EXACT with an operand of 1 (INT32) at partition offset 65536, the result for landing register 0 of tile 0. -/
def exactRequest : Packet :=
  ⟨0, 0, ⟨0, 0⟩, .core, ⟨0, 0⟩, 0, 0, 24, .op 0 5 { farCap with chip := 0 } 0 [1] (some ⟨⟨0, 0⟩, 0⟩) (.none' 0) 65536 0, none, false, none⟩

/-- The partition of that request: its channel stands above HBM, where memory that nothing has written reads 0. -/
def exactPart : Part := { fetchPart with prec := { fetchPart.prec with chans := [256] } }

def exactState : State := { State.reset with net := [exactRequest], parts := [(0, exactPart)] }

theorem exactState_incoming : exactState.incoming = some exactRequest := by decide

/-- The element of that request. -/
def exactElement : Nat := leNat (exactState.bytes (exactPart.prec.phys 65536) 64)

theorem exactElement_zero : Xa.ofImage exactElement = some Xa.zero := by decide +kernel

/-- The value that a result packet of an outcome's next state carries first. -/
def firstResult (o : Host.Outcome State Fault Refusal) : Word := match o with
  | .next u => match u.net with
    | [q] => match q.body with
      | .aoprResult _ (v :: _) => v
      | _ => 0
    | _ => 0
  | _ => 0

theorem exactState_answers : firstResult (exec .memoryAgentOperation exactState) = 0 := by decide +kernel

theorem exactSum_read : word ((Xa.zero.add (decodeNum (exactTy 5) 1)).read .f64 false).bits = 0x3FF0000000000000 := by decide +kernel

/-- Refutes O51: ADD.EXACT with a result returns the element's old value, not its new one. -/
theorem not_agentResults : ¬ Obligations.AgentResults := by
  intro h
  obtain ⟨-, h0, -⟩ := h exactState exactRequest 0 5 0 65536 0 { farCap with chip := 0 } [1] (some ⟨⟨0, 0⟩, 0⟩) (.none' 0) exactPart
    exactState_incoming rfl ⟨rfl, rfl⟩ rfl rfl (by decide) (by decide)
  obtain ⟨u, hu, -, -, -, hans⟩ := h0 rfl Xa.zero exactElement_zero
  obtain ⟨q, hnet, -, -, hbody⟩ := hans ⟨⟨0, 0⟩, 0⟩ rfl rfl
  have hv : firstResult (exec .memoryAgentOperation exactState) = word ((Xa.zero.add (decodeNum (exactTy 5) 1)).read .f64 false).bits := by
    rw [hu, firstResult, show u.net = [q] from hnet]
    simp only [hbody]
    rfl
  rw [exactState_answers, exactSum_read] at hv
  exact absurd hv (by decide)

end Sys2Proof.Machine
end

section
/-!
PROOFS. Reclaims (R50, R60, R66), invalidations of translations (R277), page requests (R272).
-/

namespace Sys2Proof.Machine

section
variable {s u v : State} {key : Nat}

/-! ## What the end of a reclaim gives -/

/-- Memory stands, an entry changes in its owner only, a context in no other way than that it waits no more. -/
structure Reowned (s u : State) : Prop where
  mem : u.mem = s.mem
  ct : ∀ k, ∃ n a, u.ct k = { s.ct k with ownk := n, owner := a }
  hold : ∀ t c, (u.ctxAt t c).hold = (s.ctxAt t c).hold ∨ (u.ctxAt t c).hold = .none

namespace Reowned

theorem trans (h : Reowned s u) (h' : Reowned u v) : Reowned s v :=
  ⟨h'.mem.trans h.mem, fun k => by
    obtain ⟨n, a, e⟩ := h.ct k
    obtain ⟨n', a', e'⟩ := h'.ct k
    exact ⟨n', a', by rw [e', e]⟩, fun t c => (h'.hold t c).elim (fun e => e ▸ h.hold t c) .inr⟩

/-- An entry list that stands. -/
theorem of_cts (hm : u.mem = s.mem) (hc : u.cts = s.cts)
    (hh : ∀ t c, (u.ctxAt t c).hold = (s.ctxAt t c).hold ∨ (u.ctxAt t c).hold = .none) : Reowned s u :=
  ⟨hm, fun k => ⟨_, _, ct_congr hc k⟩, hh⟩

theorem refl (s : State) : Reowned s s := of_cts rfl rfl fun _ _ => .inl rfl

theorem of_elsewhere (h : Elsewhere s u) (hc : ∀ k, ∃ n a, u.ct k = { s.ct k with ownk := n, owner := a }) : Reowned s u :=
  ⟨h.mem, hc, fun t c => .inl (by rw [h.ctxAt])⟩

theorem owned (s : State) (j n : Nat) (a : Place) : Reowned s (s.onCt j fun e => { e with ownk := n, owner := a }) :=
  of_elsewhere (.onCt _ _ _) fun k => by
    by_cases h : k = j
    · exact ⟨n, a, by rw [h, State.onCt, State.setCt, State.ct, aget_aset_self]⟩
    · exact ⟨_, _, by rw [State.onCt, State.setCt, State.ct, aget_aset_ne _ _ _ h]; rfl⟩

theorem setOwner (s : State) (c : Cap) (n : Nat) (a : Place) : Reowned s (s.setOwner c n a) := by
  unfold State.setOwner
  split
  · exact owned s _ _ _
  · exact refl s

theorem ownSupv (s : State) (c : Cap) : Reowned s (s.ownSupv c) := by
  unfold State.ownSupv
  split
  · exact owned s _ _ _
  · exact setOwner s _ _ _

theorem send (s : State) (vn part : Nat) (src : Place) (unit : Agent) (dst : Place) (kslot len : Nat) (b : Body) :
    Reowned s (s.send vn part src unit dst kslot len b) :=
  of_elsewhere (.send _ _ _ _ _ _ _ _ _) fun _ => ⟨_, _, by unfold State.send State.sendPkt; split <;> rfl⟩

theorem onSupv (s : State) (p : Nat) (f : Supv → Supv) : Reowned s (s.onSupv p f) :=
  of_elsewhere (.onSupv _ _ _) fun k => ⟨_, _, ct_congr (State.onPart_cts _ _) k⟩

theorem supvDeliver (s : State) (p : Nat) (c : Cap) (reason : Nat) : Reowned s (s.supvDeliver p c reason) := by
  have h := ownSupv s c
  unfold State.supvDeliver
  dsimp only
  split
  · exact h
  · split
    · split
      · exact h.trans (send _ _ _ _ _ _ _ _ _)
      · exact h.trans (onSupv _ _ _)
    · split
      · exact h.trans (onSupv _ _ _)
      · exact h

theorem reclaimPath (s : State) (p k t : Nat) (c : Cap) (reason : Nat) : Reowned s (s.reclaimPath p k t c reason) := by
  unfold State.reclaimPath
  dsimp only
  split
  · exact (setOwner s _ _ _).trans (send _ _ _ _ _ _ _ _ _)
  · exact supvDeliver s p c reason

/-- An exclusive capability of a killed tile group takes the reclaim path, or waits on its tile. -/
theorem letKill (s : State) (p k t : Nat) {c : Cap} (hc : c.mode = .exclusive) (reason : Nat) :
    Reowned s (s.letKill p k t c reason) := by
  unfold State.letKill State.giveUp
  split
  · simp only [State.dispose, State.killCap, hc]
    exact reclaimPath s _ _ _ _ _
  · exact of_cts rfl rfl fun n d => .inl (congrArg Context.hold (ctxAt_onCore _ _ _ (by exact fun _ => rfl) n d))

theorem setSlot (s : State) (t i : Nat) (x : Slot) : Reowned s (s.setSlot t i x) :=
  of_cts rfl rfl fun _ _ => .inl (by rw [State.ctxAt_setSlot])

/-- The turn passes to another context. -/
theorem turn (s : State) (c : Cur) : Reowned s { s with cur := c } := of_cts rfl rfl fun _ _ => .inl rfl

/-- The context of the turn changes, and does not begin to wait. -/
theorem onCtx (s : State) (f : Context → Context) (hf : ∀ x, (f x).hold = x.hold ∨ (f x).hold = .none) : Reowned s (s.onCtx f) :=
  of_cts rfl rfl fun t d => by
    rw [State.onCtx, State.onCtxAt]
    by_cases h : t = s.cur.tile ∧ d = s.cur.ctx
    · rw [h.1, h.2, State.ctxAt_setCtxAt_self]
      exact hf _
    · rw [State.ctxAt_setCtxAt_ne _ _ h]
      exact .inl rfl

theorem setC (s : State) (i : Nat) (c : Option Cap) : Reowned s (s.setC i c) :=
  onCtx s (fun v => { v with regs := v.regs.writeC i c }) fun _ => .inl rfl
theorem onRun (s : State) (f : Run → Run) : Reowned s (s.onRun f) := onCtx s _ (by exact fun _ => .inl rfl)
theorem finishHeld (s : State) (w : Who) (n : Nat) : Reowned s (s.finishHeld w n) := onCtx s _ (by exact fun _ => .inr rfl)

theorem foldl {α : Type} {f : State → α → State} (h : ∀ s a, Reowned s (f s a)) (l : List α) (s : State) : Reowned s (l.foldl f s) := by
  induction l generalizing s with
  | nil => exact refl s
  | cons a l ih => exact (h s a).trans (ih (f s a))

theorem giveReclaimed (s : State) (key : Nat) (c : Caller) {cap : Option Cap} (hm : ∀ x, cap = some x → x.mode = .exclusive) :
    Reowned s (s.giveReclaimed key c cap) := by
  unfold State.giveReclaimed
  dsimp only
  split
  · rename_i t i creg k
    split
    · split
      · refine trans (turn s { s.cur with tile := t, ctx := i }) (trans (trans (trans ?_ (setC _ _ _)) (finishHeld _ _ _)) (onRun _ _))
        split
        · exact setOwner _ _ _ _
        · exact refl _
      · exact refl s
    · split
      · split
        · exact letKill s _ _ _ (hm _ rfl) _
        · exact reclaimPath s _ _ _ _ _
      · exact refl s
  · rename_i t i kslot
    split
    · exact (setSlot s _ _ _).trans (letKill _ _ _ _ (hm _ rfl) _)
    · split
      · exact (setOwner s _ _ _).trans (setSlot _ _ _ _)
      · exact (setSlot s _ _ _).trans (supvDeliver _ _ _ _)
    · exact setSlot s _ _ _

theorem answerHeld (s : State) (key : Nat) : Reowned s (s.answerHeld key) := by
  unfold State.answerHeld
  dsimp only
  refine trans ?_ (foldl ?_ _ _)
  · exact of_cts rfl rfl fun _ _ => .inl rfl
  · exact fun _ _ => send _ _ _ _ _ _ _ _ _

end Reowned

/-- A context that waits with no CDROP at the entry is not faulted. -/
theorem faultDrop_same {t c : Nat} (h : ∀ y, (s.ctxAt t c).hold ≠ .cdrop key y) : s.faultDrop key t c = s := by
  unfold State.faultDrop
  dsimp only
  split
  · rename_i k y w hh _
    rw [if_neg]
    rintro rfl
    exact h y hh
  · rfl

theorem faultDrops_same (h : ∀ t, ∀ c < 8, ∀ y, (s.ctxAt t c).hold ≠ .cdrop key y) : s.faultDrops key = s := by
  have hrow (t : Nat) (cs : List Nat) (hc : ∀ c ∈ cs, c < 8) : cs.foldl (fun s c => s.faultDrop key t c) s = s := by
    induction cs with
    | nil => rfl
    | cons c cs ih =>
      rw [List.foldl_cons, faultDrop_same (h t c (hc c (by simp)))]
      exact ih fun d hd => hc d (by simp [hd])
  unfold State.faultDrops
  generalize s.tiles = l
  induction l with
  | nil => rfl
  | cons x l ih =>
    rw [List.foldl_cons, hrow x.1 _ fun c hc => by simpa [upto] using hc]
    exact ih
/-! ## Reclaim (R66) -/

/-- The cached validations of an entry taken from a tile (R66 step 2). -/
def State.forget (s : State) (t key : Nat) : State :=
  s.onTile t fun v =>
    { v with
      core := { v.core with vcache := v.core.vcache.filter fun e => e.key != key }
      svcache := v.svcache.filter fun e => e.key != key }

theorem forget_drained (s : State) (t key : Nat) : (s.forget t key).drained t key = s.drained t key
    ∧ (s.forget t key).stwDrained t key = s.stwDrained t key := by
  have ht : (s.forget t key).tile t = _ := State.tile_onTile_self s t _
  constructor
  · simp only [State.drained, State.accessed, State.opsOf, State.postsOf, State.fabricOut, CoreSt.unsent, ht]
    rfl
  · simp only [State.stwDrained, ht]

theorem reclaimInvalidation_drops {r : Reclaim} (hr : (s.ct s.cur.sub).recl = some r)
    (hw : r.waiting.contains s.cur.tile = true ∨ r.waitingStw.contains s.cur.tile = true) :
    exec .reclaimInvalidation s = .next ((s.forget s.cur.tile s.cur.sub).onCt s.cur.sub fun e => { e with recl := some { r with
      waiting := if s.drained s.cur.tile s.cur.sub then r.waiting.filter (· != s.cur.tile) else r.waiting
      waitingStw := if s.stwDrained s.cur.tile s.cur.sub then r.waitingStw.filter (· != s.cur.tile) else r.waitingStw } }) := by
  unfold exec execReclaimInvalidation
  simp only [hr, Bool.or_eq_true, hw, if_true]
  rw [← (forget_drained s _ _).1, ← (forget_drained s _ _).2]
  rfl

/-- RECLAIM_COMPLETE once every tile has acknowledged: the entry as R66 leaves it, but for its owner. -/
theorem reclaimComplete_reclaims {r : Reclaim} (hr : (s.ct s.cur.sub).recl = some r) (hw : r.waiting = []) (hs : r.waitingStw = [])
    (hd : ∀ x ∈ s.tiles, ∀ c < 8, ∀ y, (s.ctxAt x.1 c).hold ≠ .cdrop s.cur.sub y) :
    ∃ u a n b, exec .reclaimComplete s = .next u ∧ u.mem = s.mem
      ∧ u.ct s.cur.sub = { (s.ct s.cur.sub).reclaimed a with ownk := n, owner := b } := by
  obtain ⟨a, ha⟩ : ∃ a : Place, a = match r.caller with
    | .register t _ _ _ => ⟨s.chip, t⟩
    | .slot t _ _ => ⟨s.chip, t⟩ := ⟨_, rfl⟩
  let v := s.onCt s.cur.sub fun e => e.reclaimed a
  let cap := if (v.ct s.cur.sub).state = .retired then none else some (v.wholeBuffer s.cur.sub)
  have hv : Reowned v ((v.giveReclaimed s.cur.sub r.caller cap).answerHeld s.cur.sub) := by
    refine .trans (.giveReclaimed _ _ _ fun x hx => ?_) (.answerHeld _ _)
    simp only [cap] at hx
    split at hx
    · exact absurd hx nofun
    · exact Option.some.inj hx ▸ rfl
  have hkept : ((v.giveReclaimed s.cur.sub r.caller cap).answerHeld s.cur.sub).faultDrops s.cur.sub
      = (v.giveReclaimed s.cur.sub r.caller cap).answerHeld s.cur.sub := by
    refine faultDrops_same fun t c hc y => ?_
    have ht : ∀ y, (s.ctxAt t c).hold ≠ .cdrop s.cur.sub y := by
      cases e : aget? s.tiles t with
      | none => simp [show s.ctxAt t c = .reset by unfold State.ctxAt State.tile aget; rw [e]; rfl, Context.reset]
      | some x => exact hd (t, x) (aget?_mem e) c hc
    obtain e | e := hv.hold t c
    · rw [e]; exact ht y
    · rw [e]; exact nofun
  obtain ⟨n, b, hct⟩ := hv.ct s.cur.sub
  refine ⟨_, a, n, b, ?_, hv.mem, ?_⟩
  · unfold exec execReclaimComplete
    simp only [hr, hw, hs, and_self, if_true]
    subst ha
    exact congrArg Host.Outcome.next hkept
  · rw [hct]
    simp [v, State.onCt, State.setCt, State.ct]

/-! ## Invalidation of translations (R277) -/

/-- The tile has acknowledged the first invalidation of the partition's queue. -/
def Part.acknowledged (t : Nat) (p : Part) : Part :=
  { p with invq := match p.invq with
    | i :: is => { i with waiting := i.waiting.filter (· != t) } :: is
    | [] => [] }

theorem tlbInvalidation_drops {p : Part} {i : Inval} {is : List Inval} (hp : aget? s.parts s.cur.part = some p) (hq : p.invq = i :: is)
    (hw : i.waiting.contains s.cur.tile = true) :
    ∃ u, exec .tlbInvalidation s = .next u ∧ u.mem = s.mem
      ∧ (u.tile s.cur.tile).core.l1 = (s.tile s.cur.tile).core.l1.filter (fun e => !i.hits s.cur.part e)
      ∧ aget u.l2 [] (tileCluster s.cur.tile) = (aget s.l2 [] (tileCluster s.cur.tile)).filter (fun e => !i.hits s.cur.part e)
      ∧ (s.translatedDone s.cur.tile = true → ∃ p', aget? u.parts s.cur.part = some p'
          ∧ p'.invq = { i with waiting := i.waiting.filter (· != s.cur.tile) } :: is) := by
  let v := (s.dropTlb s.cur.tile s.cur.part i).onSteward s.cur.tile Steward.walkAgain
  have hc : (v.tile s.cur.tile).core = { (s.tile s.cur.tile).core with
      l1 := (s.tile s.cur.tile).core.l1.filter fun e => !i.hits s.cur.part e } := by
    simp [v, State.onSteward, State.dropTlb, State.tile, State.onTile, State.setTile, State.onCore]
  have hd : v.translatedDone s.cur.tile = s.translatedDone s.cur.tile := by
    simp only [State.translatedDone, State.opsOf, State.postsOf, State.fabricOut, CoreSt.unsent, hc]
    rfl
  have hl : aget v.l2 [] (tileCluster s.cur.tile)
      = (aget s.l2 [] (tileCluster s.cur.tile)).filter fun e => !i.hits s.cur.part e := by
    simp [v, State.dropTlb, aalter]
  have hx : exec .tlbInvalidation s = if v.translatedDone s.cur.tile then
      .next (v.onPart s.cur.part (Part.acknowledged s.cur.tile)) else .next v := by
    unfold exec execTlbInvalidation
    simp only [hp, hq, Option.bind_some, List.head?_cons, hw, if_true]
    rfl
  cases hdone : v.translatedDone s.cur.tile with
  | false => exact ⟨v, by rw [hx, hdone]; rfl, rfl, congrArg CoreSt.l1 hc, hl, fun h => by rw [← hd, hdone] at h; exact absurd h nofun⟩
  | true =>
    have hvp : aget? v.parts s.cur.part = some p := hp
    have he : Elsewhere v (v.onPart s.cur.part (Part.acknowledged s.cur.tile)) := .onPart _ _ _
    refine ⟨_, by rw [hx, hdone]; rfl, he.mem, ?_, ?_, fun _ => ⟨_, State.onPart_parts hvp _, ?_⟩⟩
    · rw [he.tile]; exact congrArg CoreSt.l1 hc
    · rw [he.l2]; exact hl
    · simp only [Part.acknowledged, hq]

theorem tlbiAcknowledged_notifies {p : Part} {i : Inval} {is : List Inval} {tile ctr : Nat} (hp : aget? s.parts s.cur.part = some p)
    (hq : p.invq = i :: is) (hw : i.waiting = []) (hn : i.notify = some (tile, ctr)) :
    ∃ u m, exec .tlbiAcknowledged s = .next u ∧ u.net = s.net ++ [m] ∧ m.dst = ⟨s.chip, tile⟩ ∧ m.body = .inc ctr 1 true
      ∧ ∃ p', aget? u.parts s.cur.part = some p' ∧ p'.invq = is := by
  have hv : (s.onPart s.cur.part fun p => { p with invq := p.invq.drop 1 })
      = { s with parts := aset s.parts s.cur.part { p with invq := is } } := by simp [State.onPart, hp, hq]
  unfold exec execTlbiAcknowledged
  simp only [hp, hq, Option.bind_some, List.head?_cons, hw, if_true, hn, hv, State.send, State.sendPkt]
  exact ⟨_, _, rfl, rfl, rfl, rfl, _, aget?_aset_self _ _ _, rfl⟩

/-- Settles O52. -/
theorem reclaimAndInvalidate : Obligations.ReclaimAndInvalidate := by
  intro s r i is p q qs tile ctr t key e vf
  refine ⟨fun hr => ⟨fun hw => ?_, fun hw => ?_, fun hw hs hd => ?_⟩, fun hr => ⟨?_, ?_⟩, fun hp hq => ⟨fun hw => ?_, fun hw hn => ?_, fun hw => ?_⟩,
    fun hq => ⟨fun hl => ?_, fun hl => ?_⟩⟩
  · have ht : (s.forget t key).tile t = _ := State.tile_onTile_self s t _
    exact ⟨_, reclaimInvalidation_drops hr hw, byte_of_mem rfl rfl, congrArg (·.core.vcache) ht, congrArg (·.svcache) ht,
      by simp [State.onCt, State.setCt, State.ct, key, t]⟩
  · simp [exec, execReclaimComplete, show (s.ct s.cur.sub).recl = some r from hr, hw]
  · obtain ⟨u, a, n, b, hx, hm, hc⟩ := reclaimComplete_reclaims hr hw hs hd
    have hk : e.hallmark = (s.ct s.cur.sub).hallmark := rfl
    refine ⟨u, hx, hm, ?_⟩
    simp only [key, e, hc, CtEntry.reclaimed]
    split <;> simp_all
  · simp [exec, execReclaimInvalidation, show (s.ct s.cur.sub).recl = none from hr]
  · simp [exec, execReclaimComplete, show (s.ct s.cur.sub).recl = none from hr]
  · exact tlbInvalidation_drops hp hq hw
  · exact tlbiAcknowledged_notifies hp hq hw hn
  · simp [exec, execTlbiAcknowledged, hp, hq, hw]
  · refine ⟨{ s with vfs := aset s.vfs s.cur.sub { vf with prq := vf.prq ++ [q], prqWaiting := qs } }, ?_, by simp⟩
    simp only [exec, execPageRequestEntry, show (aget s.vfs .reset s.cur.sub).prqWaiting = q :: qs from hq,
      if_pos (show (aget s.vfs .reset s.cur.sub).prq.length < 64 from hl)]
    rfl
  · simp [exec, execPageRequestEntry, show (aget s.vfs .reset s.cur.sub).prqWaiting = q :: qs from hq,
      show ¬(aget s.vfs .reset s.cur.sub).prq.length < 64 from Nat.not_lt.mpr hl]

end
end Sys2Proof.Machine
end

section
/-!
PROOFS. The steward's events (R303, R306, R311 to R320).
-/

namespace Sys2Proof.Machine

section
variable {s u v : State}

/-! ## The hart of the turn's tile -/

@[simp] theorem State.stw_onStw (s : State) (f : Steward → Steward) : (s.onStw f).stw = f s.stw := by
  simp [State.stw, State.onStw, State.onSteward, State.tile, State.onTile, State.setTile]

theorem State.stw_onCore (s : State) (t : Nat) (f : CoreSt → CoreSt) (n : Nat) : ((s.onCore t f).tile n).stw = (s.tile n).stw := by
  unfold State.onCore
  by_cases h : n = t
  · subst h; simp
  · rw [State.tile_onTile_ne s _ h]

theorem State.stw_onLocal (s : State) (t : Nat) (f : Local → Local) (n : Nat) : ((s.onLocal t f).tile n).stw = (s.tile n).stw := by
  unfold State.onLocal
  by_cases h : n = t
  · subst h; simp
  · rw [State.tile_onTile_ne s _ h]

theorem word_four : word 4 = 4 := rfl

/-- STEWARD_WAKE without the strike horizon. -/
theorem stewardWake_claims {rd e : Nat} {k : Kick} (hs : s.stw.sleep = some rd) (hst : s.stwStopped = false)
    (hz : s.shz s.cur.tile = false) (hk : (s.tile s.cur.tile).loc.nextKick = some (e, k)) :
    ∃ u, exec .stewardWake s = .next u
      ∧ u.stw = { s.stw.writeX (BitVec.ofNat 5 rd) (word e) with
          sleep := none, pc := s.stw.pc + 4, csr := { s.stw.csr with minstret := s.stw.csr.minstret + 1 } }
      ∧ aget? (u.tile s.cur.tile).loc.kicks e = some { k with state := .claimed } := by
  let b := s.onLocal s.cur.tile fun l => { l with kicks := aset l.kicks e { k with state := .claimed } }
  let f (w : Steward) : Steward := { w.writeX (BitVec.ofNat 5 rd) (word e) with sleep := none }
  have hw : s.stwRemember.wake (BitVec.ofNat 5 rd) = some (b.onStw f) := by
    simp [State.stwRemember, hz, State.wake, hk, State.claimKick, State.rememberKick, b, f]
  refine ⟨((b.onStw f).stwAdvance 4).onStw Steward.retire, ?_, ?_, ?_⟩
  · simp only [exec, execStewardWake, hs, hst, hw, Bool.false_eq_true, if_false]
  · have hb : b.stw = s.stw := State.stw_onLocal _ _ _ _
    rw [State.stw_onStw, State.stwAdvance, State.stw_onStw, State.stw_onStw, hb]
    simp only [f, Steward.retire, word_four]
    unfold Steward.writeX
    split <;> rfl
  · have hl (v : State) (g : Steward → Steward) (n : Nat) : ((v.onStw g).tile n).loc = (v.tile n).loc := State.loc_onSteward _ _ _ _
    rw [hl, State.stwAdvance, hl, hl, State.loc_onLocal_self]
    exact aget?_aset_self _ _ _

theorem stewardWake_sleeps {rd : Nat} (hs : s.stw.sleep = some rd) (hst : s.stwStopped = false)
    (hz : s.shz s.cur.tile = false) (hk : (s.tile s.cur.tile).loc.nextKick = none) : exec .stewardWake s = .next s := by
  simp [exec, execStewardWake, hs, hst, State.stwRemember, hz, State.wake, hk]

/-! ## Faults of the hart (R306) -/

/-- What a record written to a partition's memory leaves alone: no tile, no CT entry, no packet changes. -/
structure Filed (s u : State) : Prop where
  tiles : u.tiles = s.tiles
  cur : u.cur = s.cur
  chip : u.chip = s.chip
  cycle : u.cycle = s.cycle
  cts : u.cts = s.cts
  net : u.net = s.net
  fabric : u.fabric = s.fabric
  assay : u.assay = s.assay

namespace Filed

theorem refl (s : State) : Filed s s := ⟨rfl, rfl, rfl, rfl, rfl, rfl, rfl, rfl⟩

theorem trans (h : Filed s u) (h' : Filed u v) : Filed s v :=
  ⟨h'.tiles.trans h.tiles, h'.cur.trans h.cur, h'.chip.trans h.chip, h'.cycle.trans h.cycle, h'.cts.trans h.cts, h'.net.trans h.net,
    h'.fabric.trans h.fabric, h'.assay.trans h.assay⟩

theorem foldl {α : Type} {f : State → α → State} (h : ∀ s a, Filed s (f s a)) (l : List α) (s : State) : Filed s (l.foldl f s) := by
  induction l generalizing s with
  | nil => exact refl s
  | cons a l ih => exact (h s a).trans (ih (f s a))

theorem ite {c : Prop} [Decidable c] (h : Filed s u) (h' : Filed s v) : Filed s (if c then u else v) := by
  split
  · exact h
  · exact h'

theorem putBytes (s : State) (a : Nat) (bs : List Byte) : Filed s (s.putBytes a bs) := ⟨rfl, rfl, rfl, rfl, rfl, rfl, rfl, rfl⟩

theorem eccWrite (s : State) (a n : Nat) : Filed s (s.eccWrite a n) := by
  unfold State.eccWrite
  split
  · exact refl s
  · exact ⟨rfl, rfl, rfl, rfl, rfl, rfl, rfl, rfl⟩

theorem poffWritten (s : State) (r : PartRec) (p n : Nat) : Filed s (s.poffWritten r p n) := by
  unfold State.poffWritten
  refine ite (refl s) (foldl ?_ _ _)
  exact fun s _ => ite (eccWrite s _ _) (refl s)

theorem putPoff (s : State) (r : PartRec) (p : Nat) (bs : List Byte) : Filed s (s.putPoff r p bs) := by
  unfold State.putPoff
  refine trans (foldl ?_ _ _) (poffWritten _ _ _ _)
  exact fun s _ => ite (putBytes s _ _) (refl s)

theorem onPart (s : State) (p : Nat) (f : Part → Part) : Filed s (s.onPart p f) := by
  unfold State.onPart
  split
  · exact ⟨rfl, rfl, rfl, rfl, rfl, rfl, rfl, rfl⟩
  · exact refl s

theorem onSupv (s : State) (p : Nat) (f : Supv → Supv) : Filed s (s.onSupv p f) := onPart s p _

theorem logFault (s : State) (p : Nat) (r : FRec) (vf : Option Nat) : Filed s (s.logFault p r vf) := by
  have hv (v : State) (q : Part) : Filed v (match q.supv.flog.base with
      | some b =>
        if q.supv.flog.tail - q.supv.flog.head < 2 ^ q.supv.flog.k then
          (v.putPoff q.prec (b + 64 * (q.supv.flog.tail % 2 ^ q.supv.flog.k)) (leBytes 64 r.nat)).onSupv p fun w =>
            { w with flog := { w.flog with tail := w.flog.tail + 1 } }
        else v.onSupv p fun w => { w with flog := { w.flog with overflow := (w.flog.overflow + 1) % 2 ^ 64 } }
      | none => v.onSupv p fun w => { w with flog := { w.flog with overflow := (w.flog.overflow + 1) % 2 ^ 64 } }) := by
    split
    · split
      · exact (putPoff _ _ _ _).trans (onSupv _ _ _)
      · exact onSupv _ _ _
    · exact onSupv _ _ _
  unfold State.logFault
  split
  · exact refl s
  · rename_i q _
    cases vf with
    | none => exact hv s q
    | some w =>
      have hc : Filed s (s.vfCount w 3) := ⟨rfl, rfl, rfl, rfl, rfl, rfl, rfl, rfl⟩
      exact hc.trans (hv _ q)

end Filed

theorem mgmtEvent_tiles (s : State) (p code sub va : Nat) :
    (s.mgmtEvent p code sub va).tiles = s.tiles ∧ (s.mgmtEvent p code sub va).cur = s.cur := by
  have hl := Filed.logFault s p { FRec.zero with code := code, sub := sub, src := 3, va := va } none
  unfold State.mgmtEvent
  dsimp only
  split
  · exact ⟨hl.tiles, hl.cur⟩
  · exact ⟨(Elsewhere.send _ _ _ _ _ _ _ _ _).tiles.trans hl.tiles, (Elsewhere.send _ _ _ _ _ _ _ _ _).cur.trans hl.cur⟩

/-- A hart whose program has been loaded anew. -/
structure Reloaded (w : Steward) : Prop where
  fault : w.fault = none
  pc : w.pc = 0
  x : w.x = []
  minstret : w.csr.minstret = 0

theorem loadProgram_reloaded (s : State) (t : Nat) (prog : Prog) (bs : List Byte) : Reloaded ((s.loadProgram t prog bs).tile t).stw := by
  unfold State.loadProgram
  rw [State.tile_onTile_self]
  exact ⟨rfl, rfl, rfl, rfl⟩

theorem loadSteward_reloaded (s : State) (t : Nat) : Reloaded ((s.loadSteward t).tile t).stw := by
  unfold State.loadSteward
  split
  · exact loadProgram_reloaded _ _ _ _
  · split
    · exact loadProgram_reloaded _ _ _ _
    · split <;> exact loadProgram_reloaded _ _ _ _

theorem emptyK_cur (s : State) (t reason : Nat) : (s.emptyK t reason).cur = s.cur := by
  unfold State.emptyK
  dsimp only
  split
  · rename_i p _
    generalize (s.tile t).stw.k = ks
    have : ∀ v : State, v.cur = s.cur → (ks.foldl (fun s k => s.letPath p.1 k.2.2 t k.2.1 reason) v).cur = s.cur := by
      induction ks with
      | nil => exact fun v h => h
      | cons k ks ih => exact fun v h => ih _ ((GivenUp.giveUp _ _ _).cur.trans h)
    exact this _ rfl
  · rfl

theorem loadSteward_cur (s : State) (t : Nat) : (s.loadSteward t).cur = s.cur := by
  have h (prog : Prog) (bs : List Byte) : (s.loadProgram t prog bs).cur = s.cur := emptyK_cur s t cOk
  unfold State.loadSteward
  split
  · exact h _ _
  · split
    · exact h _ _
    · split <;> exact h _ _

theorem stewardFault_reloads {f : StwFault} {p : Nat × Part} (hf : s.stw.fault = some f) (hp : s.partOfTile s.cur.tile = some p)
    (hk : s.stw.k = []) (hc : ((s.tile s.cur.tile).loc.kicks.filter fun k => k.2.state == .claimed) = []) :
    ∃ u, exec .stewardFault s = .next u ∧ u.stw.fault = none ∧ u.stw.pc = 0 ∧ u.stw.x = [] ∧ u.stw.csr.minstret = 0 := by
  let b := s.emptyK s.cur.tile f.code
  let l := b.loadSteward s.cur.tile
  let r : FRec := { FRec.zero with code := f.code, sub := f.sub, kslot := 0, src := 2, pc := f.pc, iword := f.word }
  have hb : b = s.onSteward s.cur.tile fun w => { w with k := [] } := by
    have hk' : (s.tile s.cur.tile).stw.k = [] := hk
    simp only [b, State.emptyK, hk', List.foldl_nil]
    split <;> rfl
  have hes : ((b.tile s.cur.tile).loc.kicks.filter fun k => k.2.state == .claimed) = [] := by
    rw [hb, State.loc_onSteward, hc]
  have hnone : s.charged s.cur.tile = none := by
    have : ((s.tile s.cur.tile).loc.kicks.filter fun k => k.2.state == .claimed && !s.groupGone s.cur.tile k.2.kslot) = [] := by
      rw [List.filter_eq_nil_iff] at hc ⊢
      intro k hk
      simp [hc k hk]
    simp [State.charged, this]
  have hx : exec .stewardFault s = .next ((l.logFault p.1 r none).mgmtEvent p.1 f.code f.sub 0) := by
    unfold exec execStewardFault
    simp only [hf, hp, hnone]
    rw [show s.emptyK s.cur.tile f.code = b from rfl, hes]
    rfl
  have hcur : l.cur.tile = s.cur.tile := by rw [loadSteward_cur, emptyK_cur]
  have hstw : ((l.logFault p.1 r none).mgmtEvent p.1 f.code f.sub 0).stw = (l.tile s.cur.tile).stw := by
    have h0 := Filed.logFault l p.1 r none
    obtain ⟨h3, h4⟩ := mgmtEvent_tiles (l.logFault p.1 r none) p.1 f.code f.sub 0
    simp only [State.stw, State.tile, h4, h0.cur, h3, h0.tiles, hcur]
  obtain ⟨h1, h2, h3, h4⟩ := loadSteward_reloaded b s.cur.tile
  exact ⟨_, hx, by rw [hstw]; exact h1, by rw [hstw]; exact h2, by rw [hstw]; exact h3, by rw [hstw]; exact h4⟩

/-! ## Bursts (R315, R317) -/

/-- What a check and a translation of the move engine leave alone. -/
structure Steered (s u : State) : Prop where
  mem : u.mem = s.mem
  parts : u.parts = s.parts
  cur : u.cur = s.cur
  cts : u.cts = s.cts
  ecc : u.ecc = s.ecc
  poison : u.poison = s.poison
  stw : u.stw = s.stw

theorem Steered.trans (h : Steered s u) (h' : Steered u v) : Steered s v :=
  ⟨h'.mem.trans h.mem, h'.parts.trans h.parts, h'.cur.trans h.cur, h'.cts.trans h.cts, h'.ecc.trans h.ecc, h'.poison.trans h.poison,
    h'.stw.trans h.stw⟩

theorem Steered.refl (s : State) : Steered s s := ⟨rfl, rfl, rfl, rfl, rfl, rfl, rfl⟩

theorem Steered.translate (s : State) (t pn : Nat) (p : Part) (xl : Xlat) (va : Nat) (wr op : Bool) :
    Steered s (s.translate t pn p xl va wr op).1 := by
  unfold State.translate
  dsimp only
  split
  · exact .refl s
  · split
    · exact ⟨rfl, rfl, rfl, rfl, rfl, rfl, State.stw_onCore s t (fun k => { k with l1 := (_ :: k.l1).take 384 }) s.cur.tile⟩
    · exact .refl s

theorem Steered.validated (s : State) (f : Tile → List VEntry) : Steered s (s.onTile s.cur.tile fun v => { v with svcache := f v }) :=
  ⟨rfl, rfl, rfl, rfl, rfl, rfl, by
    unfold State.stw
    rw [show (s.onTile s.cur.tile fun v => { v with svcache := f v }).cur = s.cur from rfl, State.tile_onTile_self]⟩

theorem engineAt_phys {c : Option KCap} {off n a : Nat} {acc : Access} (h : s.engineAt c off n acc = (u, .phys a)) : Steered s u := by
  unfold State.engineAt at h
  dsimp only at h
  split at h
  · exact absurd (Prod.mk.inj h).2 nofun
  · rename_i k
    split at h
    · exact absurd (Prod.mk.inj h).2 nofun
    · exact absurd (Prod.mk.inj h).2 nofun
    · exact absurd (Prod.mk.inj h).2 nofun
    · exact absurd (Prod.mk.inj h).2 nofun
    · rename_i va p _ _
      have hv := Steered.validated s fun v => addEntry v.svcache (s.entryFor p.1 k.cap)
      split at h
      · split at h
        · rename_i x _ hx
          have ht := hv.trans (Steered.translate _ s.cur.tile p.1 p.2 k.xlat va (acc == .write) false)
          rw [hx] at ht
          split at h
          · exact absurd (Prod.mk.inj h).2 nofun
          · split at h
            · exact (Prod.mk.inj h).1 ▸ ht
            · exact absurd (Prod.mk.inj h).2 nofun
        · exact absurd (Prod.mk.inj h).2 nofun
        · exact absurd (Prod.mk.inj h).2 nofun
      · split at h
        · exact (Prod.mk.inj h).1 ▸ hv
        · exact absurd (Prod.mk.inj h).2 nofun

@[simp] theorem State.stw_setOp (s : State) (o : EngOp) :
    (s.setOp o).stw = { s.stw with ops := s.stw.ops.map fun x => if x.id = o.id then o else x } := by
  rw [State.setOp, State.stw_onStw]

/-- A burst whose bytes have been read, the only one of the only operation. -/
def EngOp.reading (o : EngOp) (k : Nat) (bs : List Byte) : EngOp := { o with flights := [⟨o.done, k, [.bytes bs], .waits⟩] }

theorem reading_done {o : EngOp} {k : Nat} (hf : o.flights = []) (bs : List Byte) :
    (o.reading k bs).setOut ⟨o.done, k, [.bytes bs], .waits⟩ .done = { o with done := o.done + k } := by
  simp [EngOp.reading, EngOp.setOut, EngOp.confirm, hf]

/-- The bytes of a burst at its destination (R315, R317). -/
theorem burstWrite_lands {o : EngOp} {k b off : Nat} {bs : List Byte} {dst : KCap} (hu : Steered s u) (hc : Clean s)
    (hw : Memory.wf s.mem = true) (ho : s.stw.ops = [o]) (hf : o.flights = []) (hn : bs.length = k)
    (hat : (u.setOp (o.reading k bs)).engineAt (some dst) off k .write = (v, .phys b)) (hl : (s.ct dst.cap.key).laopen = false) :
    ∃ q, (u.setOp (o.reading k bs)).burstWrite (o.reading k bs) ⟨o.done, k, [.bytes bs], .waits⟩ (some dst) off bs = (q, .stopped)
      ∧ (∀ i (h : i < bs.length), q.byte (b + i) = bs[i]) ∧ SameMemoryBut s q b k ∧ q.stw.ops = [{ o with done := o.done + k }] := by
  have hset : Steered (u.setOp (o.reading k bs)) v := engineAt_phys hat
  have hmem : v.mem = s.mem := hset.mem.trans hu.mem
  have hparts : v.parts = s.parts := hset.parts.trans hu.parts
  have hcl : Clean v := ⟨hset.ecc.trans (hu.ecc.trans hc.1), hset.poison.trans (hu.poison.trans hc.2)⟩
  have hct : (v.ct dst.cap.key).laopen = false := by rw [ct_congr (hset.cts.trans hu.cts)]; exact hl
  have hops : v.stw.ops = [o.reading k bs] := by
    rw [hset.stw, State.stw_setOp, hu.stw, ho]
    simp [EngOp.reading]
  refine ⟨(v.putBytes b bs).setOp ((o.reading k bs).setOut ⟨o.done, k, [.bytes bs], .waits⟩ .done), ?_, ?_, ?_, ?_⟩
  · unfold State.burstWrite
    simp only [hn, hat, perform_plain hcl hct]
    simp [EngOp.isNext, EngOp.reading]
  · intro i hi
    exact State.byte_putBytes_inside v (by rw [hmem]; exact hw) b bs hi
  · intro a ha
    exact (State.byte_putBytes_outside v b bs (hn ▸ ha)).trans (byte_of_mem hmem hparts a)
  · rw [State.stw_setOp, reading_done hf, show (v.putBytes b bs).stw = v.stw from rfl, hops]
    simp [EngOp.reading]

/-- A burst of the only operation, from its first read on. -/
structure Bursts (s : State) (o : EngOp) : Prop where
  op : s.engOp = some o
  ops : s.stw.ops = [o]
  runs : s.stwStopped = false
  due : o.notBefore ≤ s.cycle
  stop : o.stop = none
  tag : o.waitTag = none
  page : o.page = none
  idle : o.flights = []

theorem Bursts.sent {o : EngOp} (h : Bursts s o) : o.sent = o.done := by simp [EngOp.sent, h.idle]

theorem Bursts.steps {o : EngOp} (h : Bursts s o) (hk : 0 < o.burstLen)
    (he : s.engineStep o true = s.engineBurst o true) {bs : List Byte} (hin : s.engineIn o = (u, .parts [.bytes bs]))
    {q : State} (hout : (u.setOp (o.reading o.burstLen bs)).engineOut (o.reading o.burstLen bs) ⟨o.done, o.burstLen, [.bytes bs], .waits⟩ bs
      = (q, .stopped)) : exec .moveBurst s = .next q := by
  have hready : o.readyFlight = none := by simp [EngOp.readyFlight, h.idle]
  have hlen : o.done ≠ o.len := by
    intro e
    have : o.burstLen ≤ o.len - o.sent := Nat.min_le_right _ _
    rw [h.sent] at this
    omega
  have hover : s.stw.overlapped o = false := by simp [Steward.overlapped, h.ops]
  have hb : s.engineBurst o true = (q, .stopped) := by
    unfold State.engineBurst
    simp only [hready, h.sent, hlen, hover, hin, decide_false, Bool.not_true, Bool.or_self, Bool.false_eq_true, if_false, h.idle]
    exact hout
  unfold exec execMoveBurst
  simp only [h.op, Nat.not_lt.mpr h.due, h.stop, h.tag, h.page, h.runs, hready, Option.isSome_none, Bool.false_eq_true, false_and, or_self,
    if_false, Option.isNone_none, Bool.not_false, Bool.and_self, he, hb]

/-- The source of a burst that lies on the chip within one line. -/
theorem burstRead_line {o : EngOp} {src : Option KCap} {off n a : Nat} (hn : 0 < n) (hc : Clean s)
    (hat : s.engineAt src off n .read = (u, .phys a)) (hl : n ≤ 64 - a % 64) :
    s.burstRead o src off n 2 0 [] = (u, .parts [.bytes (u.bytes a n)]) := by
  have hs := engineAt_phys hat
  have hecc (b : Accessor) : u.eccRead b a n = (u, none) := by
    have hcl : Clean u := ⟨hs.ecc.trans hc.1, hs.poison.trans hc.2⟩
    simp [State.eccRead, State.eccAt, State.eccCorrect, State.eccHits, hcl.1, hcl.2]
  have h0 : ¬n ≤ 0 := by omega
  have hm : min n (64 - a % 64) = n := Nat.min_eq_left hl
  unfold State.burstRead
  simp only [h0, if_false, Nat.add_zero, Nat.sub_zero, hat, hm, hecc]
  unfold State.burstRead
  simp

/-- A burst of a copy (R315). -/
theorem moveBurst_copies {o : EngOp} {src dst : KCap} {soff doff a b : Nat} (hb : Bursts s o) (hc : Clean s) (hw : Memory.wf s.mem = true)
    (hk : o.kind = .copy (some src) (some dst) soff doff) (h0 : 0 < o.burstLen)
    (hr : s.engineAt (some src) (soff + o.done) o.burstLen .read = (u, .phys a)) (hl : o.burstLen ≤ 64 - a % 64)
    (hat : (u.setOp (o.reading o.burstLen (u.bytes a o.burstLen))).engineAt (some dst) (doff + o.done) o.burstLen .write = (v, .phys b))
    (hla : (s.ct dst.cap.key).laopen = false) :
    ∃ q, exec .moveBurst s = .next q ∧ (∀ i < o.burstLen, q.byte (b + i) = s.byte (a + i)) ∧ SameMemoryBut s q b o.burstLen
      ∧ q.stw.ops = [{ o with done := o.done + o.burstLen }] := by
  have hs := engineAt_phys hr
  have hn : (u.bytes a o.burstLen).length = o.burstLen := by simp [State.bytes, upto]
  obtain ⟨q, hq, hin, hout, hops⟩ := burstWrite_lands hs hc hw hb.ops hb.idle hn hat hla
  refine ⟨q, hb.steps h0 (by simp only [State.engineStep, hk]) (bs := u.bytes a o.burstLen) (u := u) ?_ ?_, fun i hi => ?_, hout, hops⟩
  · simp only [State.engineIn, hk, hb.sent]
    exact burstRead_line h0 hc hr hl
  · simp only [State.engineOut, show (o.reading o.burstLen (u.bytes a o.burstLen)).kind = _ from hk]
    exact hq
  · rw [hin i (by rw [hn]; exact hi)]
    simp [State.bytes, upto, byte_of_mem hs.mem hs.parts]

/-- A burst of a fill (R317). -/
theorem moveBurst_fills {o : EngOp} {dst : KCap} {doff b : Nat} {pattern : Word} (hb : Bursts s o) (hc : Clean s)
    (hw : Memory.wf s.mem = true) (hk : o.kind = .fill (some dst) doff pattern) (h0 : 0 < o.burstLen) {x : Nat → Byte}
    (hx : x = fun i => BitVec.ofNat 8 (pattern.toNat / 2 ^ (8 * ((doff + o.done + i) % 8))))
    (hat : (s.setOp (o.reading o.burstLen ((upto o.burstLen).map x))).engineAt (some dst) (doff + o.done) o.burstLen .write = (v, .phys b))
    (hla : (s.ct dst.cap.key).laopen = false) :
    ∃ q, exec .moveBurst s = .next q ∧ (∀ i < o.burstLen, q.byte (b + i) = x i) ∧ SameMemoryBut s q b o.burstLen
      ∧ q.stw.ops = [{ o with done := o.done + o.burstLen }] := by
  have hn : ((upto o.burstLen).map x).length = o.burstLen := by simp [upto]
  obtain ⟨q, hq, hin, hout, hops⟩ := burstWrite_lands (.refl s) hc hw hb.ops hb.idle hn hat hla
  refine ⟨q, hb.steps h0 (by simp only [State.engineStep, hk]) (bs := (upto o.burstLen).map x) (u := s) ?_ ?_, fun i hi => ?_, hout, hops⟩
  · simp only [State.engineIn, hk, hb.sent, hx]
  · simp only [State.engineOut, show (o.reading o.burstLen ((upto o.burstLen).map x)).kind = _ from hk]
    exact hq
  · rw [hin i (by rw [hn]; exact hi)]
    simp [upto]

/-! ## The end of an operation (R311, R320) -/

theorem State.stw_finishOp (s : State) (o : EngOp) (code sub done : Nat) :
    (s.finishOp o code sub done).stw = { s.stw.writeX (BitVec.ofNat 5 o.rd) (statusWord code sub done) with
      ops := s.stw.ops.filter fun x => x.id != o.id } := by
  unfold State.finishOp State.stw
  exact congrArg Tile.stw (State.tile_onTile_self s s.cur.tile _)

theorem readX_writeX (w : Steward) (rd : Nat) (x : Word) (ops : List EngOp) :
    ({ w.writeX (BitVec.ofNat 5 rd) x with ops := ops } : Steward).readX (BitVec.ofNat 5 rd) = if rd % 32 = 0 then 0 else x := by
  have h0 : BitVec.ofNat 5 rd = 0 ↔ rd % 32 = 0 := by
    rw [← BitVec.toNat_inj]; simp
  by_cases h : rd % 32 = 0
  · simp [Steward.readX, h0.mpr h, h]
  · have h0' : ¬BitVec.ofNat 5 rd = 0#5 := mt h0.mp h
    simp [Steward.readX, Steward.writeX, h0', h]

/-- The increment of mv.mbx behind the operations before it (R320). -/
theorem engineOpComplete_increments {o : EngOp} {at' : Place} {ctr n : Nat} (hb : Bursts s o) (hk : o.kind = .mbx at' ctr n) :
    ∃ u q, exec .engineOpComplete s = .next u ∧ u.stw.ops = [] ∧ (at'.chip = s.chip → u.net = s.net ++ [q])
      ∧ (at'.chip ≠ s.chip → u.fabric.out = s.fabric.out ++ [q]) ∧ q.dst = at' ∧ q.body = .inc ctr n false := by
  let q : Packet := ⟨0, ((s.partOfTile s.cur.tile).map (·.1)).getD 0, ⟨s.chip, s.cur.tile⟩, .engine, at', o.kslot,
      s.dueAt ⟨s.chip, s.cur.tile⟩ at' 16, 16, .inc ctr n false, some o.id, false, none⟩
  let b := s.sendPkt q
  have hx : exec .engineOpComplete s = .next (b.finishOp o 0 0 0) := by
    simp only [exec, execEngineOpComplete, hb.op, hb.runs, Nat.not_lt.mpr hb.due, hb.tag, hk, hb.ops]
    simp [b, State.enginePacket, q]
  have hs : b.stw = s.stw := by
    have := Elsewhere.sendPkt s q
    simp only [State.stw, b, this.cur, this.tile]
  refine ⟨_, q, hx, ?_, fun h => ?_, fun h => ?_, rfl, rfl⟩
  · rw [State.stw_finishOp, hs, hb.ops]
    simp
  · exact congrArg State.net (if_pos h : s.sendPkt q = _)
  · exact congrArg (·.fabric.out) (if_neg h : s.sendPkt q = _)

/-- Settles O54. -/
theorem stewardEvents : Obligations.StewardEvents := by
  intro s s1 s2 rd e a b v f p o src dst soff doff pattern at' ctr n t w
  refine ⟨fun hs hst hz => ⟨fun hk => stewardWake_claims hs hst hz hk, fun hk => stewardWake_sleeps hs hst hz hk⟩, fun hf => ?_,
    fun hf hp hk hc => stewardFault_reloads hf hp hk hc,
    fun ho hops hst hdue hstop htag hpage hidle hid hc => ?_⟩
  · simp [exec, execStewardFault, show s.stw.fault = none from hf]
  · have hb : Bursts s o := ⟨ho, hops, hst, hdue, hstop, htag, hpage, hidle⟩
    refine ⟨fun k hk he h0 hr hl hat hla hw => ?_, ?_, fun x y hk hkr => ⟨fun hd => ?_, fun hd => ?_⟩, fun hk => ?_⟩
    · subst he
      exact moveBurst_copies hb hc hw hk h0 hr hl hat hla
    · intro k hk he h0 x hat hla hw
      subst he
      exact moveBurst_fills hb hc hw hk h0 rfl hat hla
    · have hx : exec .engineOpComplete s = .next (s.finishOp o cOk 0 o.len) := by
        simp only [exec, execEngineOpComplete, ho, hst, Nat.not_lt.mpr hdue, htag, EngOp.status, hstop, State.releaseK, hkr, ← hd]
        obtain h | h := hk <;> simp [h]
      refine ⟨_, hx, ?_, ?_, byte_of_mem rfl rfl⟩
      · rw [State.stw_finishOp, show s.stw.ops = [o] from hops]
        simp
      · rw [State.stw_finishOp, readX_writeX, statusWord, show cOk + 0 * 2 ^ 8 + o.len * 2 ^ 16 = o.len * 2 ^ 16 by simp [cOk]]
    · simp only [exec, execEngineOpComplete, ho, hst, Nat.not_lt.mpr hdue, htag, EngOp.status, hstop]
      obtain h | h := hk <;> simp [h, hd]
    · exact engineOpComplete_increments hb hk

end
end Sys2Proof.Machine
end

section
/-!
PROOFS. What leaves the queue slots and images of every partition alone (R81 to R91): capabilities that go, programs that are loaded,
counters and records of tiles.
-/

namespace Sys2Proof.Machine

variable {s u v : State}

/-- Of every partition at most the supervisor's state changes. -/
def SupvOnly (s u : State) : Prop := ∀ pn p, aget? s.parts pn = some p → ∃ w, aget? u.parts pn = some { p with supv := w }

namespace SupvOnly

theorem of_parts (h : u.parts = s.parts) : SupvOnly s u := fun _ p hp => ⟨p.supv, by rw [h, hp]⟩

theorem refl (s : State) : SupvOnly s s := of_parts rfl

theorem trans (h : SupvOnly s u) (h' : SupvOnly u v) : SupvOnly s v := fun pn p hp => by
  obtain ⟨w, hw⟩ := h pn p hp
  obtain ⟨w', hw'⟩ := h' pn _ hw
  exact ⟨w', hw'⟩

theorem foldl {α : Type} {f : State → α → State} (h : ∀ s a, SupvOnly s (f s a)) (l : List α) (s : State) : SupvOnly s (l.foldl f s) := by
  induction l generalizing s with
  | nil => exact refl s
  | cons a l ih => exact (h s a).trans (ih (f s a))

theorem sendPkt (s : State) (p : Packet) : SupvOnly s (s.sendPkt p) := by
  unfold State.sendPkt
  split <;> exact of_parts rfl

theorem send (s : State) (vn part : Nat) (src : Place) (unit : Agent) (dst : Place) (kslot len : Nat) (b : Body) :
    SupvOnly s (s.send vn part src unit dst kslot len b) := sendPkt s _

theorem onSupv (s : State) (n : Nat) (f : Supv → Supv) : SupvOnly s (s.onSupv n f) := fun pn p hp => by
  unfold State.onSupv State.onPart
  split
  · rename_i q hq
    by_cases h : pn = n
    · subst h
      rw [hp] at hq
      exact ⟨f p.supv, by rw [aget?_aset_self, Option.some.inj hq]⟩
    · exact ⟨p.supv, by rw [aget?_aset_ne _ _ h, hp]⟩
  · exact ⟨p.supv, hp⟩

theorem setOwner (s : State) (c : Cap) (k : Nat) (a : Place) : SupvOnly s (s.setOwner c k a) := of_parts (setOwner_parts s c k a)

theorem ownSupv (s : State) (c : Cap) : SupvOnly s (s.ownSupv c) := by
  unfold State.ownSupv
  split
  · exact of_parts rfl
  · exact setOwner s _ _ _

theorem supvDeliver (s : State) (p : Nat) (c : Cap) (reason : Nat) : SupvOnly s (s.supvDeliver p c reason) := by
  have h := ownSupv s c
  unfold State.supvDeliver
  dsimp only
  split
  · exact h
  · split
    · split
      · exact h.trans (send _ _ _ _ _ _ _ _ _)
      · exact h.trans (onSupv _ _ _)
    · split
      · exact h.trans (onSupv _ _ _)
      · exact h

theorem reclaimPath (s : State) (p k t : Nat) (c : Cap) (reason : Nat) : SupvOnly s (s.reclaimPath p k t c reason) := by
  unfold State.reclaimPath
  dsimp only
  split
  · exact (setOwner s _ _ _).trans (send _ _ _ _ _ _ _ _ _)
  · exact supvDeliver s p c reason

theorem clearReader (s : State) (c : Cap) (a : Place) : SupvOnly s (s.clearReader c a) := by
  unfold State.clearReader
  split
  · exact of_parts rfl
  · exact refl s

theorem returnTokens (s : State) (p k t : Nat) (c : Cap) (lost : Bool) : SupvOnly s (s.returnTokens p k t c lost) := by
  unfold State.returnTokens
  split
  · exact send s _ _ _ _ _ _ _ _
  · split
    · exact of_parts rfl
    · exact refl s

theorem killCap (s : State) (p k t : Nat) (c : Cap) (reason : Nat) : SupvOnly s (s.killCap p k t c reason) := by
  unfold State.killCap
  split
  · exact returnTokens s _ _ _ _ _
  · exact refl s
  · exact clearReader s _ _
  · exact reclaimPath s p k t c reason

theorem dropCap (s : State) (p k t : Nat) (c : Cap) (reason : Nat) : SupvOnly s (s.dropCap p k t c reason) := by
  unfold State.dropCap
  split
  · exact returnTokens s _ _ _ _ _
  · exact refl s
  · exact refl s
  · split
    · exact refl s
    · exact reclaimPath s p k t c reason

theorem askStale (s : State) (t : Nat) (g : Giving) : SupvOnly s (s.askStale t g) := by
  unfold State.askStale
  exact trans (u := { s with fabric := { s.fabric with nextId := s.fabric.nextId + 1 } }) (of_parts rfl)
    ((send _ _ _ _ _ _ _ _ _).trans (of_parts rfl))

theorem giveUp (s : State) (t : Nat) (g : Giving) : SupvOnly s (s.giveUp t g) := by
  unfold State.giveUp State.dispose
  split
  · split
    · exact killCap s _ _ _ _ _
    · exact reclaimPath s _ _ _ _ _
    · split
      · exact askStale s t g
      · exact dropCap s _ _ _ _ _
  · exact of_parts rfl

theorem returnCap (s : State) (pn t : Nat) (c : Cap) (reason : Nat) : SupvOnly s (s.returnCap pn t c reason) := by
  unfold State.returnCap
  split
  · exact clearReader s _ _
  · split
    · exact refl s
    · exact supvDeliver s _ _ _

theorem supvFlush (s : State) (pn : Nat) : SupvOnly s (s.supvFlush pn) := by
  unfold State.supvFlush
  split
  · refine trans (foldl ?_ _ _) (onSupv _ _ _)
    exact fun s _ => send s _ _ _ _ _ _ _ _
  · exact refl s

theorem emptyK (s : State) (t reason : Nat) : SupvOnly s (s.emptyK t reason) := by
  unfold State.emptyK
  dsimp only
  split
  · refine trans ?_ (foldl ?_ _ _)
    · exact of_parts rfl
    · exact fun s _ => giveUp s _ _
  · exact of_parts rfl

theorem loadProgram (s : State) (t : Nat) (prog : Prog) (bs : List Byte) : SupvOnly s (s.loadProgram t prog bs) :=
  (emptyK s t cOk).trans (of_parts rfl)

theorem loadSteward (s : State) (t : Nat) : SupvOnly s (s.loadSteward t) := by
  unfold State.loadSteward
  split
  · exact loadProgram s _ _ _
  · split
    · exact loadProgram s _ _ _
    · split <;> exact loadProgram s _ _ _

theorem setCtr (s : State) (t i : Nat) (c : Ctr) : SupvOnly s (s.setCtr t i c) := of_parts (setCtr_sets s t i c).parts
theorem setSlot (s : State) (t i : Nat) (x : Slot) : SupvOnly s (s.setSlot t i x) := of_parts rfl
theorem putRec (s : State) (t i : Nat) (x : TaskRec) : SupvOnly s (s.putRec t i x) := of_parts rfl
theorem keepAccs (s : State) (t r : Nat) (accs : List Nat) : SupvOnly s (s.keepAccs t r accs) := by
  unfold State.keepAccs
  refine foldl ?_ _ _
  intro s c
  dsimp only
  split
  · exact of_parts rfl
  · exact refl s

end SupvOnly

end Sys2Proof.Machine
end

section
/-!
PROOFS. The start of a kernel (R89).
-/

namespace Sys2Proof.Machine

section
variable {s u v : State}

/-! ## A program that is loaded -/

theorem loadProgram_loc (s : State) (t : Nat) (prog : Prog) (bs : List Byte) (n : Nat) :
    ((s.loadProgram t prog bs).tile n).loc = (s.tile n).loc := by
  have hk : ((s.emptyK t cOk).tile n).loc = (s.tile n).loc := by
    have h0 := State.loc_onSteward s t (fun w => { w with k := [] }) n
    have hfold (p : Nat × Part) (l : Assoc (Cap × Nat)) : ∀ v : State, (v.tile n).loc = (s.tile n).loc →
        ((l.foldl (fun s k => s.letPath p.1 k.2.2 t k.2.1 cOk) v).tile n).loc = (s.tile n).loc := by
      induction l with
      | nil => exact fun _ h => h
      | cons k l ih => exact fun v h => ih _ (((GivenUp.giveUp v t _).loc n).trans h)
    unfold State.emptyK
    dsimp only
    split
    · exact hfold _ _ _ h0
    · exact h0
  rw [← hk]
  unfold State.loadProgram
  by_cases h : n = t
  · subst h; rw [State.tile_onTile_self]
  · rw [State.tile_onTile_ne _ _ h]

theorem loadSteward_loc (s : State) (t n : Nat) : ((s.loadSteward t).tile n).loc = (s.tile n).loc := by
  unfold State.loadSteward
  split
  · exact loadProgram_loc s _ _ _ _
  · split
    · exact loadProgram_loc s _ _ _ _
    · split <;> exact loadProgram_loc s _ _ _ _

/-! ## The pools of task records -/

/-- The records in use of every tile's pool are the same. -/
def SameRecs (s u : State) : Prop := ∀ t i, (aget? (u.tile t).loc.recs i).isNone = (aget? (s.tile t).loc.recs i).isNone

namespace SameRecs

theorem of_loc (h : ∀ t, (u.tile t).loc.recs = (s.tile t).loc.recs) : SameRecs s u := fun t i => by rw [h]
theorem of_tiles (h : u.tiles = s.tiles) : SameRecs s u := of_loc fun t => by rw [State.tile, State.tile, h]
theorem refl (s : State) : SameRecs s s := of_tiles rfl
theorem trans (h : SameRecs s u) (h' : SameRecs u v) : SameRecs s v := fun t i => (h' t i).trans (h t i)

theorem foldl {α : Type} {f : State → α → State} (h : ∀ s a, SameRecs s (f s a)) (l : List α) (s : State) : SameRecs s (l.foldl f s) := by
  induction l generalizing s with
  | nil => exact refl s
  | cons a l ih => exact (h s a).trans (ih (f s a))

theorem onLocal (s : State) (t : Nat) (f : Local → Local) (hf : ∀ l i, (aget? (f l).recs i).isNone = (aget? l.recs i).isNone) :
    SameRecs s (s.onLocal t f) := fun n i => by
  by_cases h : n = t
  · subst h; rw [State.loc_onLocal_self]; exact hf _ _
  · rw [State.onLocal, State.tile_onTile_ne s _ h]

theorem reeval (s : State) (t : Nat) (f : TaskRec → Bool) : SameRecs s (s.reeval t f) :=
  onLocal s t _ fun _ _ => by simp [aget?_amap]

theorem setSlot (s : State) (t i : Nat) (x : Slot) : SameRecs s (s.setSlot t i x) := 
  (onLocal s t (fun l => { l with slots := aset l.slots i x }) fun _ _ => rfl).trans (reeval _ _ _)

theorem setCtr (s : State) (t i : Nat) (c : Ctr) : SameRecs s (s.setCtr t i c) := by
  have hl := onLocal s t (fun l => { l with ctrs := aset l.ctrs i c }) fun _ _ => rfl
  unfold State.setCtr
  dsimp only
  split
  · exact (hl.trans (of_loc fun n => by rw [State.loc_onCore])).trans (reeval _ _ _)
  · exact hl.trans (reeval _ _ _)

theorem loadSteward (s : State) (t : Nat) : SameRecs s (s.loadSteward t) := of_loc fun n => by rw [loadSteward_loc]

/-- A pool with a free record keeps one. -/
theorem freeRec (h : SameRecs s u) (t : Nat) : (u.tile t).loc.freeRec = (s.tile t).loc.freeRec := freeKey_congr (h t) _

end SameRecs

/-! ## Homes with room -/

theorem freeEntry_hbm {p : Part} {agent j : Nat} (hj : j < ctEntries .hbm) (hf : (s.ct (ctKey .hbm agent j)).state = .free) :
    ∃ i, s.freeEntry p .hbm agent = some i ∧ i < ctEntries .hbm := by
  obtain ⟨i, hi⟩ : ∃ i, s.freeEntry p .hbm agent = some i := by
    unfold State.freeEntry
    rw [← Option.isSome_iff_exists, List.find?_isSome]
    exact ⟨j, by simpa [upto] using hj, by simp [hf]⟩
  refine ⟨i, hi, ?_⟩
  unfold State.freeEntry at hi
  exact List.mem_range.mp (List.mem_of_find?_eq_some hi)

/-- The entries of a home that are free. -/
def State.hbmFree (s : State) (agent : Nat) : List Nat :=
  (upto (ctEntries .hbm)).filter fun i => (s.ct (ctKey .hbm agent i)).state == .free

theorem freeEntry_some {p : Part} {agent : Nat} (h : 2 ≤ (s.hbmFree agent).length) :
    ∃ i, s.freeEntry p .hbm agent = some i ∧ i < ctEntries .hbm := by
  obtain ⟨j, hj⟩ := List.exists_mem_of_length_pos (Nat.lt_of_lt_of_le Nat.zero_lt_two h)
  simp only [State.hbmFree, List.mem_filter, upto, List.mem_range, beq_iff_eq] at hj
  exact freeEntry_hbm hj.1 hj.2

/-- A home with two free entries has one, and still one when an entry of some home has been taken. -/
theorem freeEntry_left {p : Part} {agent : Nat} (h : 2 ≤ (s.hbmFree agent).length) {agent' i : Nat} {e : CtEntry}
    (hc : u.cts = aset s.cts (ctKey .hbm agent' i) e) (hi : i < ctEntries .hbm) : ∃ j, u.freeEntry p .hbm agent = some j ∧ j < ctEntries .hbm := by
  have hnd : (s.hbmFree agent).Nodup := List.nodup_range.filter _
  obtain ⟨j, hj, hne⟩ : ∃ j ∈ s.hbmFree agent, j ≠ i := by
    by_contra hall
    have : ∀ j ∈ s.hbmFree agent, j = i := fun j hj => by
      by_contra hji
      exact hall ⟨j, hj, hji⟩
    have := (List.eq_replicate_of_mem this) ▸ hnd
    have := List.nodup_replicate.mp this
    omega
  simp only [State.hbmFree, List.mem_filter, upto, List.mem_range, beq_iff_eq] at hj
  refine freeEntry_hbm hj.1 ?_
  have hk : ctKey .hbm agent j ≠ ctKey .hbm agent' i := by
    simp only [ctKey, ctEntries] at hi hj ⊢
    omega
  rw [State.ct, hc, aget_aset_ne _ _ _ hk]
  exact hj.2

theorem createBuffer_sets (s : State) (pn : Nat) (k : HomeKind) (agent i base len : Nat) (rights : Rights) (kslot : Option Nat)
    (owner : Place) (xl : Xlat) :
    ∃ e c, s.createBuffer pn k agent i base len rights kslot owner xl = (s.setCt (ctKey k agent i) e, c) := ⟨_, _, rfl⟩

theorem fillUnits_filed (s : State) (p : Part) (off len : Nat) (units : List Nat) : Filed s (s.fillUnits p off len units) := by
  unfold State.fillUnits
  refine .foldl ?_ _ _
  intro s x
  dsimp only
  exact (Filed.putBytes s x.1 _).trans (Filed.eccWrite _ x.1 4096)

theorem fillUnits_parts (s : State) (p : Part) (off len : Nat) (units : List Nat) : (s.fillUnits p off len units).parts = s.parts := by
  have hecc (v : State) (a n : Nat) : (v.eccWrite a n).parts = v.parts := by
    unfold State.eccWrite
    split <;> rfl
  unfold State.fillUnits
  generalize units.zipIdx = l
  induction l generalizing s with
  | nil => rfl
  | cons x l ih =>
    rw [List.foldl_cons, ih]
    exact hecc _ _ _

/-! ## Root tasks -/

/-- The root task of a tile is created, in a free record (R89 step 6). -/
def State.putRoot (k : Nat) (kern : Kernel) (im : Image) (cap : Option Cap) (s : State) (t : Nat × Nat) : State :=
  match (s.tile t.1).loc.freeRec with
  | some i => s.putRec t.1 i (rootRecord s k kern im t.2 t.1 (if t.2 = 0 then cap else none))
  | none => s

/-- The pool of a tile holds a root task of a rank. -/
def RootOn (u : State) (k : Nat) (kern : Kernel) (t rank : Nat) : Prop := ∃ i v, aget? (u.tile t).loc.recs i = some v ∧ v.kslot = k
  ∧ v.img.entry = kern.lrec.rootent ∧ v.first.take 2 = [word rank, word kern.tiles.length]

section
variable {k : Nat} {kern : Kernel} {im : Image} {cap : Option Cap}

theorem putRoot_tile_ne (s : State) (t : Nat × Nat) {n : Nat} (h : n ≠ t.1) : (s.putRoot k kern im cap t).tile n = s.tile n := by
  unfold State.putRoot
  split
  · rw [State.putRec, State.reeval, State.onLocal, State.tile_onTile_ne _ _ h, State.onLocal, State.tile_onTile_ne _ _ h]
  · rfl

theorem putRoot_supv (s : State) (t : Nat × Nat) : SupvOnly s (s.putRoot k kern im cap t) := by
  unfold State.putRoot
  split
  · exact .putRec s _ _ _
  · exact .refl s

theorem putRoot_roots (t : Nat × Nat) (h : (s.tile t.1).loc.freeRec ≠ none) : RootOn (s.putRoot k kern im cap t) k kern t.1 t.2 := by
  obtain ⟨i, hi⟩ := Option.ne_none_iff_exists'.mp h
  have hput (x : TaskRec) : ∃ v, aget? ((s.putRec t.1 i x).tile t.1).loc.recs i = some v ∧ v.kslot = x.kslot ∧ v.img = x.img
      ∧ v.first = x.first := by
    unfold State.putRec State.reeval
    simp only [State.loc_onLocal_self, aget?_amap, aget?_aset_self, Option.map_some]
    refine ⟨_, rfl, ?_⟩
    split
    · split <;> exact ⟨rfl, rfl, rfl⟩
    · exact ⟨rfl, rfl, rfl⟩
  obtain ⟨v, hv, hk, hm, hf⟩ := hput (rootRecord s k kern im t.2 t.1 (if t.2 = 0 then cap else none))
  exact ⟨i, v, by simp only [State.putRoot, hi]; exact hv, hk, congrArg RecImage.entry hm, congrArg (List.take 2) hf⟩

/-- Every tile of the kernel gets its root task. -/
theorem putRoots_root (l : List (Nat × Nat)) : ∀ {s : State}, (l.map (·.1)).Nodup → (∀ t ∈ l, (s.tile t.1).loc.freeRec ≠ none) →
    ∀ t ∈ l, RootOn (l.foldl (State.putRoot k kern im cap) s) k kern t.1 t.2 := by
  have hstay (l : List (Nat × Nat)) (n : Nat) : ∀ s : State, n ∉ l.map (·.1) →
      (l.foldl (State.putRoot k kern im cap) s).tile n = s.tile n := by
    induction l with
    | nil => exact fun _ _ => rfl
    | cons x l ih =>
      intro s hn
      simp only [List.map_cons, List.mem_cons, not_or] at hn
      rw [List.foldl_cons, ih _ hn.2, putRoot_tile_ne s x hn.1]
  induction l with
  | nil => exact fun _ _ t ht => absurd ht (by simp)
  | cons x l ih =>
    intro s hnd hf t ht
    simp only [List.map_cons, List.nodup_cons] at hnd
    rw [List.foldl_cons]
    rcases List.mem_cons.mp ht with rfl | ht
    · have := putRoot_roots (k := k) (kern := kern) (im := im) (cap := cap) t (hf t List.mem_cons_self)
      unfold RootOn at this ⊢
      rwa [hstay l t.1 _ hnd.1]
    · refine ih hnd.2 (fun y hy => ?_) t ht
      have hne : y.1 ≠ x.1 := fun e => hnd.1 (e ▸ List.mem_map_of_mem hy)
      rw [putRoot_tile_ne s x hne]
      exact hf y (List.mem_cons_of_mem _ hy)

end

/-- R89 steps 4 to 6, once the buffers are made. -/
def State.rooted (s : State) (pn k : Nat) (kern : Kernel) (im : Image) (cap : Option Cap) : State :=
  let s := s.onQSlot pn k fun x => { x with kernel := some kern, waitingLaunch := none, boundary := false }
  let s := if 0 < im.stwLen then kern.tiles.foldl (fun s t => s.loadSteward t) s else s
  let s := kern.interval.foldl (fun s t =>
    (s.onLocal t fun l =>
      { l with chans := im.chans.foldl (fun m c => aset m c.1 { c.2 with kslot := k, dead := false }) l.chans }).onTile t
      fun v => { v with killed := aerase v.killed k }) s
  let c := (s.tile kern.compTile).loc.ctr kern.lrec.cidx
  let s := s.setCtr kern.compTile kern.lrec.cidx { c with value := 0 }
  kern.tiles.zipIdx.foldl (State.putRoot k kern im cap) s

theorem onQSlot_slot {pn k : Nat} {p : Part} {x : QSlot} (hp : aget? s.parts pn = some p) (hx : aget? p.qslots k = some x)
    (f : QSlot → QSlot) : aget? (s.onQSlot pn k f).parts pn = some { p with qslots := aset p.qslots k (f x) } := by
  rw [State.onQSlot, State.onPart_parts hp, hx]

theorem rooted_starts {pn k : Nat} {kern : Kernel} {im : Image} {cap : Option Cap} {p : Part} {x : QSlot}
    (hp : aget? s.parts pn = some p) (hx : aget? p.qslots k = some x) (hnd : kern.tiles.Nodup)
    (hf : ∀ t ∈ kern.tiles, (s.tile t).loc.freeRec ≠ none) :
    (∃ w, aget? (s.rooted pn k kern im cap).parts pn = some { p with
      qslots := aset p.qslots k { x with kernel := some kern, waitingLaunch := none, boundary := false }, supv := w })
    ∧ ∀ rank t, kern.tiles[rank]? = some t → RootOn (s.rooted pn k kern im cap) k kern t rank := by
  let s1 := s.onQSlot pn k fun x => { x with kernel := some kern, waitingLaunch := none, boundary := false }
  let s2 := if 0 < im.stwLen then kern.tiles.foldl (fun s t => s.loadSteward t) s1 else s1
  let bind (s : State) (t : Nat) : State := (s.onLocal t fun l =>
      { l with chans := im.chans.foldl (fun m c => aset m c.1 { c.2 with kslot := k, dead := false }) l.chans }).onTile t
      fun v => { v with killed := aerase v.killed k }
  let s3 := kern.interval.foldl bind s2
  let s4 := s3.setCtr kern.compTile kern.lrec.cidx { (s3.tile kern.compTile).loc.ctr kern.lrec.cidx with value := 0 }
  have h1 : SameRecs s s1 := .of_tiles (Elsewhere.onPart _ _ _).tiles
  have h12 : SupvOnly s1 s2 ∧ SameRecs s1 s2 := by
    simp only [s2]
    split
    · exact ⟨.foldl SupvOnly.loadSteward _ _, .foldl SameRecs.loadSteward _ _⟩
    · exact ⟨.refl _, .refl _⟩
  have hbind (v : State) (t : Nat) : SupvOnly v (bind v t) ∧ SameRecs v (bind v t) := by
    refine ⟨.of_parts rfl, .trans (u := v.onLocal t fun l =>
      { l with chans := im.chans.foldl (fun m c => aset m c.1 { c.2 with kslot := k, dead := false }) l.chans })
      (.onLocal v t _ fun _ _ => rfl) (.of_loc fun n => ?_)⟩
    simp only [bind]
    by_cases hn : n = t
    · subst hn; rw [State.tile_onTile_self]
    · rw [State.tile_onTile_ne _ _ hn]
  have h23 : SupvOnly s2 s3 ∧ SameRecs s2 s3 := ⟨.foldl (fun v t => (hbind v t).1) _ _, .foldl (fun v t => (hbind v t).2) _ _⟩
  have h34 : SupvOnly s3 s4 ∧ SameRecs s3 s4 := ⟨.setCtr _ _ _ _, .setCtr _ _ _ _⟩
  have hr : SameRecs s s4 := ((h1.trans h12.2).trans h23.2).trans h34.2
  have hs : SupvOnly s1 (s.rooted pn k kern im cap) := ((h12.1.trans h23.1).trans h34.1).trans (.foldl (fun v t => putRoot_supv v t) _ _)
  refine ⟨hs pn _ (onQSlot_slot hp hx _), fun rank t ht => ?_⟩
  refine putRoots_root kern.tiles.zipIdx (s := s4) ?_ (fun y hy => ?_) (t, rank) ?_
  · rw [List.zipIdx_map_fst]; exact hnd
  · rw [hr.freeRec]
    exact hf _ (List.fst_mem_of_mem_zipIdx hy)
  · exact List.mk_mem_zipIdx_iff_getElem?.mpr ht

/-- What lets a launch start (R89). -/
structure Startable (s : State) (pn : Nat) (p : Part) (kern : Kernel) (im : Image) : Prop where
  image : aget? p.images kern.image = some im
  tiles : kern.tiles ≠ []
  nodup : kern.tiles.Nodup
  pool : ∀ t ∈ kern.tiles, (s.tile t).loc.freeRec ≠ none
  slot : ∀ t, kern.tiles.head? = some t → ((s.tile t).loc.slot kern.lrec.dslot).open = true
  data : kern.lrec.datlen ≠ 0 → s.bufferMeets pn kern.lrec.datva (kern.lrec.datlen * 65536) = false
    ∧ 2 ≤ (s.hbmFree (p.prec.agentOf (kern.lrec.datva % 2 ^ 52))).length
  arg : kern.lrec.arglen ≠ 0 → s.bufferMeets pn kern.lrec.argva (kern.lrec.arglen * 65536) = false
    ∧ 2 ≤ (s.hbmFree (p.prec.agentOf (kern.lrec.argva % 2 ^ 52))).length
  units : kern.lrec.datlen ≠ 0 → s.unitsOf pn p kern.xlat kern.lrec.datva (16 * kern.lrec.datlen) ≠ none

/-- The data buffer of a launch (R89 step 4). -/
def State.launchData (s : State) (pn : Nat) (p : Part) (k : Nat) (kern : Kernel) (im : Image) (t0 : Nat) : Except (Nat × Nat) State :=
  let r := kern.lrec
  let home (va : Nat) : Nat := p.prec.agentOf (va % 2 ^ 52)
  if r.datlen = 0 then .ok s
  else
    match s.freeEntry p .hbm (home r.datva), s.unitsOf pn p kern.xlat r.datva (16 * r.datlen) with
    | some i, some units =>
      let (s, c) := s.createBuffer pn .hbm (home r.datva) i r.datva r.datlen rwg (some k) ⟨s.chip, t0⟩ kern.xlat
      .ok ((s.fillUnits p (im.base + im.dataOff) im.dataLen units).setSlot t0 r.dslot { cap := some c, kslot := some k, reserved := false, held := false })
    | _, _ => .error (cRefused, 0x14)

/-- The argument buffer of a launch (R89 step 5). -/
def State.launchArg (pn : Nat) (p : Part) (k : Nat) (kern : Kernel) (here : Place) (s : State) : Except (Nat × Nat) (State × Option Cap) :=
  let r := kern.lrec
  let home (va : Nat) : Nat := p.prec.agentOf (va % 2 ^ 52)
  if r.arglen = 0 then .ok (s, none)
  else
    match s.freeEntry p .hbm (home r.argva) with
    | some i =>
      let (s, c) := s.createBuffer pn .hbm (home r.argva) i r.argva r.arglen rwg (some k) here kern.xlat
      .ok (s, some c)
    | none => .error (cRefused, 0x14)

theorem startKernel_eq {pn k t0 : Nat} {ts : List Nat} {p : Part} {kern : Kernel} {im : Image} (hi : aget? p.images kern.image = some im)
    (ht : kern.tiles = t0 :: ts) : s.startKernel pn p k kern =
      if kern.tiles.any fun t => (s.tile t).loc.freeRec.isNone then .error (cRefused, 1)
      else if (kern.lrec.datlen != 0 && s.bufferMeets pn kern.lrec.datva (kern.lrec.datlen * 65536))
        ∨ (kern.lrec.arglen != 0 && s.bufferMeets pn kern.lrec.argva (kern.lrec.arglen * 65536)) then .error (cRefused, 0x14)
      else if !((s.tile t0).loc.slot kern.lrec.dslot).open then .error (cRefused, 0x15)
      else
        match (s.launchData pn p k kern im t0).bind (State.launchArg pn p k kern ⟨s.chip, t0⟩) with
        | .error e => .error e
        | .ok (s, cap) => .ok (s.rooted pn k kern im cap) := by
  unfold State.startKernel
  rw [hi]
  split
  · rename_i im' t0' ts' h1 h2
    cases h1
    cases h2.symm.trans ht
    refine ite_congr rfl (fun _ => rfl) fun _ => ite_congr rfl (fun _ => rfl) fun _ => ite_congr rfl (fun _ => rfl) fun _ => ?_
    unfold State.launchData State.launchArg State.rooted
    generalize State.freeEntry = entry
    generalize State.unitsOf = units
    rfl
  · rename_i h
    exact absurd ht (h im t0 ts rfl)

/-- A buffer in a free entry: of the CT entries one changes. -/
theorem launchData_ok {pn k : Nat} {p : Part} {kern : Kernel} {im : Image} (h : Startable s pn p kern im) (t0 : Nat) :
    ∃ v, s.launchData pn p k kern im t0 = .ok v ∧ v.parts = s.parts ∧ SameRecs s v
      ∧ (v.cts = s.cts ∨ ∃ agent i e, i < ctEntries .hbm ∧ v.cts = aset s.cts (ctKey .hbm agent i) e) := by
  unfold State.launchData
  dsimp only
  by_cases h0 : kern.lrec.datlen = 0
  · exact ⟨s, if_pos h0, rfl, .refl s, .inl rfl⟩
  · obtain ⟨units, hu⟩ := Option.ne_none_iff_exists'.mp (h.units h0)
    obtain ⟨i, hi, hlt⟩ := freeEntry_some (p := p) (h.data h0).2
    rw [if_neg h0, hi, hu]
    obtain ⟨e, c, he⟩ := createBuffer_sets s pn .hbm (p.prec.agentOf (kern.lrec.datva % 2 ^ 52)) i kern.lrec.datva kern.lrec.datlen rwg
      (some k) ⟨s.chip, t0⟩ kern.xlat
    simp only [he]
    exact ⟨_, rfl, fillUnits_parts _ _ _ _ _, (SameRecs.of_tiles (fillUnits_filed (s.setCt _ e) _ _ _ _).tiles).trans (.setSlot _ _ _ _),
      .inr ⟨_, i, e, hlt, (fillUnits_filed _ _ _ _ _).cts⟩⟩

theorem launchArg_ok {pn k : Nat} {p : Part} {kern : Kernel} {im : Image} (h : Startable s pn p kern im) (here : Place)
    (hc : v.cts = s.cts ∨ ∃ agent i e, i < ctEntries .hbm ∧ v.cts = aset s.cts (ctKey .hbm agent i) e) :
    ∃ u cap, State.launchArg pn p k kern here v = .ok (u, cap) ∧ u.parts = v.parts ∧ SameRecs v u := by
  unfold State.launchArg
  dsimp only
  by_cases h0 : kern.lrec.arglen = 0
  · exact ⟨v, none, if_pos h0, rfl, .refl v⟩
  · have hfree : ∃ i, v.freeEntry p .hbm (p.prec.agentOf (kern.lrec.argva % 2 ^ 52)) = some i ∧ i < ctEntries .hbm := by
      rcases hc with hc | ⟨agent, i, e, hlt, hc⟩
      · refine freeEntry_some ?_
        simp only [State.hbmFree, ct_congr hc]
        exact (h.arg h0).2
      · exact freeEntry_left (h.arg h0).2 hc hlt
    obtain ⟨i, hi, _⟩ := hfree
    rw [if_neg h0, hi]
    exact ⟨_, _, rfl, rfl, .of_tiles rfl⟩

theorem startKernel_roots {pn k : Nat} {p : Part} {kern : Kernel} {im : Image} (h : Startable s pn p kern im) :
    ∃ v cap, s.startKernel pn p k kern = .ok (v.rooted pn k kern im cap) ∧ v.parts = s.parts ∧ SameRecs s v := by
  obtain ⟨t0, ts, ht⟩ := List.exists_cons_of_ne_nil h.tiles
  have hpool : (kern.tiles.any fun t => (s.tile t).loc.freeRec.isNone) = false := by
    simpa [List.any_eq_false, Option.isNone_iff_eq_none] using h.pool
  have hslot : ((s.tile t0).loc.slot kern.lrec.dslot).open = true := h.slot t0 (by rw [ht]; rfl)
  have hd : (kern.lrec.datlen != 0 && s.bufferMeets pn kern.lrec.datva (kern.lrec.datlen * 65536)) = false := by
    by_cases h0 : kern.lrec.datlen = 0
    · simp [h0]
    · simp [(h.data h0).1]
  have ha : (kern.lrec.arglen != 0 && s.bufferMeets pn kern.lrec.argva (kern.lrec.arglen * 65536)) = false := by
    by_cases h0 : kern.lrec.arglen = 0
    · simp [h0]
    · simp [(h.arg h0).1]
  obtain ⟨v, hv, hvp, hvr, hvc⟩ := launchData_ok (k := k) h t0
  obtain ⟨u, cap, hu, hup, hur⟩ := launchArg_ok (k := k) h ⟨s.chip, t0⟩ hvc
  refine ⟨u, cap, ?_, hup.trans hvp, hvr.trans hur⟩
  rw [startKernel_eq h.image ht, hpool, hd, ha, hslot, hv]
  simp only [Except.bind, hu]
  rfl

end
end Sys2Proof.Machine
end

section
/-!
PROOFS. Queues, launches, images (R81 to R90).
-/

namespace Sys2Proof.Machine

section
variable {s u v : State} {pn k : Nat} {p : Part} {x : QSlot}

/-! ## Queue slots -/

/-- The slot `k` of a partition's queues. -/
def State.qslot (s : State) (pn k : Nat) : Option QSlot := (aget? s.parts pn).bind fun p => aget? p.qslots k

theorem qslot_of (hp : aget? s.parts pn = some p) : s.qslot pn k = aget? p.qslots k := by rw [State.qslot, hp]; rfl

theorem SupvOnly.qslot (h : SupvOnly s u) (hp : aget? s.parts pn = some p) : u.qslot pn k = aget? p.qslots k := by
  obtain ⟨w, hw⟩ := h pn p hp
  rw [qslot_of hw]

theorem qslot_onQSlot (hp : aget? s.parts pn = some p) (hx : aget? p.qslots k = some x) (f : QSlot → QSlot) :
    (s.onQSlot pn k f).qslot pn k = some (f x) := by
  rw [qslot_of (onQSlot_slot hp hx f), aget?_aset_self]

theorem onQSlot_mem (s : State) (pn k : Nat) (f : QSlot → QSlot) : (s.onQSlot pn k f).mem = s.mem := (Elsewhere.onPart _ _ _).mem

/-- A queue slot whose record has ended. -/
def QSlot.ended (x : QSlot) (r : PendingRec) : QSlot :=
  { x with kernel := none, waitingLaunch := none, pending := some r, boundary := false }

theorem endRecord_pends (hp : aget? s.parts pn = some p) (hx : aget? p.qslots k = some x) (r : PendingRec) :
    (s.endRecord pn k r).qslot pn k = some (x.ended r) := qslot_onQSlot hp hx _

theorem collectImages_qslot (s : State) (pn k : Nat) : (s.collectImages pn).qslot pn k = s.qslot pn k := by
  unfold State.collectImages State.onPart State.qslot
  cases hp : aget? s.parts pn with
  | none => simp [hp]
  | some p => simp

/-! ## Notifies (R82 to R84) -/

theorem vf_onVf (s : State) (v : Nat) (f : Vf → Vf) : (s.onVf v f).vf v = f (s.vf v) := by simp [State.onVf, State.vf]

theorem qnotify_counts {vf q : Nat} {val : Word} (hq : q < 64) (hp : s.partOfVf vf = some (pn, p)) (hx : p.slotOf vf q = some (k, x))
    (hb : p.state = .evicted ∨ (s.vf vf).qcount ≤ q ∨ 2 ^ 32 ≤ val.toNat
      ∨ 2 ^ x.qlog2 < queueLeft (aget (s.vf vf).heads 0 q) (val.toNat % 2 ^ 32)) :
    exec (.qnotify vf q val) s = .next (s.countQerr vf) := by
  unfold exec execQnotify
  simp only [hq, if_true, State.notify, hp, hx, if_pos hb]

theorem qnotify_takes {vf q : Nat} {val : Word} (hq : q < 64) (hp : s.partOfVf vf = some (pn, p)) (hx : p.slotOf vf q = some (k, x))
    (hb : ¬(p.state = .evicted ∨ (s.vf vf).qcount ≤ q ∨ 2 ^ 32 ≤ val.toNat
      ∨ 2 ^ x.qlog2 < queueLeft (aget (s.vf vf).heads 0 q) (val.toNat % 2 ^ 32))) :
    exec (.qnotify vf q val) s = .next (s.onVf vf fun v => { v with tails := aset v.tails q val.toNat }) := by
  have hv : val.toNat % 2 ^ 32 = val.toNat := Nat.mod_eq_of_lt (by omega)
  rw [hv] at hb
  unfold exec execQnotify
  simp only [hq, if_true, State.notify, hp, hx, if_neg hb, Option.isSome_some, true_or, if_true, hv]

/-- At most memory and its errors change. -/
def MemOnly (s u : State) : Prop := u = { s with mem := u.mem, ecc := u.ecc, poison := u.poison }

namespace MemOnly

theorem refl (s : State) : MemOnly s s := rfl

theorem trans (h : MemOnly s u) (h' : MemOnly u v) : MemOnly s v := by
  unfold MemOnly at *
  rw [h'] at *
  rw [h]

theorem foldl {α : Type} {f : State → α → State} (h : ∀ s a, MemOnly s (f s a)) (l : List α) (s : State) : MemOnly s (l.foldl f s) := by
  induction l generalizing s with
  | nil => exact refl s
  | cons a l ih => exact (h s a).trans (ih (f s a))

theorem ite {c : Prop} [Decidable c] (h : MemOnly s u) (h' : MemOnly s v) : MemOnly s (if c then u else v) := by
  split
  · exact h
  · exact h'

theorem putBytes (s : State) (a : Nat) (bs : List Byte) : MemOnly s (s.putBytes a bs) := rfl

theorem eccWrite (s : State) (a n : Nat) : MemOnly s (s.eccWrite a n) := by
  unfold State.eccWrite
  split
  · exact refl s
  · exact rfl

theorem putPoff (s : State) (r : PartRec) (n : Nat) (bs : List Byte) : MemOnly s (s.putPoff r n bs) := by
  unfold State.putPoff State.poffWritten
  refine trans (foldl ?_ _ _) (ite (refl _) (foldl ?_ _ _))
  · exact fun s _ => ite (putBytes s _ _) (refl s)
  · exact fun s _ => ite (eccWrite s _ _) (refl s)

theorem devBytes (s : State) (p : Part) (va : Nat) (bs : List Byte) : MemOnly s (s.devBytes p va bs) := by
  unfold State.devBytes
  refine ite (putPoff _ _ _ _) (foldl ?_ _ _)
  exact fun s _ => ite (putPoff s _ _ _) (refl s)

theorem devPut (s : State) (p : Part) (va n x : Nat) : MemOnly s (s.devPut p va n x) := devBytes s p va _

theorem parts (h : MemOnly s u) : u.parts = s.parts := by unfold MemOnly at h; rw [h]
theorem vfs (h : MemOnly s u) : u.vfs = s.vfs := by unfold MemOnly at h; rw [h]
theorem net (h : MemOnly s u) : u.net = s.net := by unfold MemOnly at h; rw [h]
theorem chip (h : MemOnly s u) : u.chip = s.chip := by unfold MemOnly at h; rw [h]

end MemOnly

/-- A record of a fault log, of no VF: of the partition its log changes. -/
theorem logFault_logs (hp : aget? s.parts pn = some p) (r : FRec) : ∃ w fl, MemOnly s w
    ∧ s.logFault pn r none = w.onPart pn (fun q => { q with supv := { q.supv with flog := fl } }) := by
  have hon (w : State) (hw : w.parts = s.parts) (f : FaultLog → FaultLog) :
      w.onSupv pn (fun v => { v with flog := f v.flog }) = w.onPart pn fun q => { q with supv := { q.supv with flog := f p.supv.flog } } := by
    simp only [State.onSupv, State.onPart, hw, hp]
  unfold State.logFault
  simp only [hp]
  split
  · split
    · exact ⟨_, _, .putPoff _ _ _ _, hon _ (MemOnly.putPoff _ _ _ _).parts fun l => { l with tail := l.tail + 1 }⟩
    · exact ⟨s, _, .refl s, hon s rfl fun l => { l with overflow := (l.overflow + 1) % 2 ^ 64 }⟩
  · exact ⟨s, _, .refl s, hon s rfl fun l => { l with overflow := (l.overflow + 1) % 2 ^ 64 }⟩

theorem notifyStarvation_reports {q since : Nat} (hv : s.partOfVf s.cur.sub = some (pn, p)) (hp : aget? s.parts pn = some p)
    (hd : ((s.vf s.cur.sub).pend.find? fun e => !e.2.2 && decide (e.2.1 + p.prec.tstarv * Config.cyclesPerMicro ≤ s.cycle))
      = some (q, since, false)) :
    ∃ u, exec .notifyStarvation s = .next u
      ∧ (u.vf s.cur.sub).pend = (s.vf s.cur.sub).pend.map (fun e => if e.1 = q then (e.1, e.2.1, true) else e)
      ∧ ∀ m, p.supv.mgmt = some m → ∃ g ∈ u.net, g.dst = ⟨s.chip, m.1⟩
          ∧ g.body = .msg m.2 (word (cTimeout + 0x10 * 2 ^ 8 + 3 * 2 ^ 24)) (word (s.cur.sub + q * 2 ^ 8)) 0 0 none := by
  let b := s.onVf s.cur.sub fun v => { v with pend := v.pend.map fun e => if e.1 = q then (e.1, e.2.1, true) else e }
  have hx : exec .notifyStarvation s = .next (b.mgmtEvent pn cTimeout 0x10 (s.cur.sub + q * 2 ^ 8)) := by
    unfold exec execNotifyStarvation
    simp only [hv, hd]
    rfl
  obtain ⟨w, fl, hw, hl⟩ := logFault_logs (s := b) hp { FRec.zero with code := cTimeout, sub := 0x10, src := 3, va := s.cur.sub + q * 2 ^ 8 }
  have hwp : aget? w.parts pn = some p := by rw [hw.parts]; exact hp
  let d : Part := { p with supv := { p.supv with flog := fl } }
  have hu : w.onPart pn (fun q => { q with supv := { q.supv with flog := fl } }) = { w with parts := aset w.parts pn d } := by
    simp only [State.onPart, hwp, d]
  have hpend : (b.vf s.cur.sub).pend = (s.vf s.cur.sub).pend.map fun e => if e.1 = q then (e.1, e.2.1, true) else e := by
    simp only [b, vf_onVf]
  have hvf : w.vf s.cur.sub = b.vf s.cur.sub := by rw [State.vf, State.vf, hw.vfs]
  refine ⟨_, hx, ?_⟩
  unfold State.mgmtEvent
  simp only [hl, hu, aget?_aset_self, Option.bind_some, d]
  cases hm : p.supv.mgmt with
  | none => exact ⟨(congrArg Vf.pend hvf).trans hpend, fun m hm => absurd hm nofun⟩
  | some m =>
    have hsend (z : State) (hz : z.chip = s.chip) (m : Nat × Nat) (b : Body) : ∃ g ∈ (z.send 0 pn ⟨z.chip, fabricTile⟩ .fabric ⟨z.chip, m.1⟩ 0 24 b).net,
        g.dst = ⟨s.chip, m.1⟩ ∧ g.body = b := by
      refine ⟨⟨0, pn, ⟨z.chip, fabricTile⟩, .fabric, ⟨z.chip, m.1⟩, 0, z.dueAt ⟨z.chip, fabricTile⟩ ⟨z.chip, m.1⟩ 24, 24, b, none, false, none⟩, ?_,
        by rw [hz], rfl⟩
      simp [State.send, State.sendPkt]
    refine ⟨?_, fun m' hm' => ?_⟩
    · rw [State.vf, (Elsewhere.send _ _ _ _ _ _ _ _ _).vfs]
      exact (congrArg Vf.pend hvf).trans hpend
    · cases hm'
      dsimp only
      exact hsend { w with parts := aset w.parts pn { p with supv := { p.supv with mgmt := some m, flog := fl } } } hw.chip m _

/-! ## Slots that are granted (R83) -/

theorem freeKey_none_at {β : Type} {m : Assoc β} {l : List Nat} {k : Nat} (h : freeKey m l = some k) : aget? m k = none := by
  have := List.find?_some h
  simpa using this

theorem not_mem_of_aget? {β : Type} {m : Assoc β} {a : Nat} (h : aget? m a = none) (b : β) : (a, b) ∉ m := by
  induction m with
  | nil => simp
  | cons e m ih =>
    obtain ⟨c, w⟩ := e
    rw [aget?_cons] at h
    split at h
    · exact absurd h nofun
    · rename_i hne
      simp only [List.mem_cons, Prod.mk.injEq, not_or, not_and]
      exact ⟨fun e => absurd e hne, ih h⟩

/-- A slot that a queue has and does not yield. -/
structure Keeps (s : State) (pn k : Nat) (x : QSlot) : Prop where
  slot : s.qslot pn k = some x
  stays : ∀ p, aget? s.parts pn = some p → ∀ y, (k, y) ∈ p.qslots → y.boundary = false

theorem Keeps.onPart {f : Part → Part} (h : Keeps s pn k x) (hu : u.parts = s.parts)
    (hf : ∀ p, aget? (f p).qslots k = aget? p.qslots k ∧ ∀ y, (k, y) ∈ (f p).qslots → (k, y) ∈ p.qslots) :
    Keeps (u.onPart pn f) pn k x := by
  obtain ⟨p, hp, hx⟩ := Option.bind_eq_some_iff.mp h.slot
  have hq : aget? (u.onPart pn f).parts pn = some (f p) := State.onPart_parts (by rw [hu]; exact hp) f
  refine ⟨by rw [qslot_of hq, (hf p).1, hx], fun p' hp' y hy => ?_⟩
  rw [hq] at hp'
  cases hp'
  exact h.stays p hp y ((hf p).2 y hy)

theorem Keeps.of_parts (h : Keeps s pn k x) (hu : u.parts = s.parts) : Keeps u pn k x :=
  ⟨by rw [State.qslot, hu]; exact h.slot, by rw [hu]; exact h.stays⟩

theorem Keeps.gainSlot {j vf q : Nat} (h : Keeps s pn k x) (hj : k ≠ j) : Keeps (s.gainSlot pn j vf q) pn k x := by
  unfold State.gainSlot
  split
  · exact h
  · dsimp only
    split
    · exact h.of_parts rfl
    · refine h.onPart rfl fun p => ⟨aget?_aset_ne _ _ hj, fun y hy => ?_⟩
      rcases mem_aset hy with e | hm
      · exact absurd (Prod.mk.inj e).1 hj
      · exact hm

theorem writeBack_parts (s : State) (p : Part) (x : QSlot) : (s.writeBack p x).parts = s.parts := by
  have h (va y : Nat) : (s.devPut p va 8 y).parts = s.parts := (MemOnly.devPut s p va 8 y).parts
  exact h _ _

theorem Keeps.loseSlot {j : Nat} (h : Keeps s pn k x) (hj : k ≠ j) : Keeps (s.loseSlot pn j) pn k x := by
  unfold State.loseSlot
  split
  · exact h
  · rename_i p _
    split
    · exact h
    · rename_i x' _
      have hk := h.onPart (writeBack_parts s p x') (f := fun p => { p with qslots := aerase p.qslots j })
        fun p => ⟨aget?_aerase_ne _ hj, fun y hy => mem_aerase hy⟩
      have hif (w : State) (hw : Keeps w pn k x) (c : Prop) [Decidable c] (a b : Nat) : Keeps (if c then w else w.latch a b) pn k x := by
        split
        · exact hw
        · exact hw.of_parts rfl
      exact hif _ hk _ _ _

/-- What is served later takes other slots. -/
theorem Keeps.serveQueues (fuel : Nat) : ∀ {s : State}, Keeps s pn k x → Keeps (s.serveQueues pn fuel) pn k x := by
  induction fuel with
  | zero => exact fun h => h
  | succ fuel ih =>
    intro s h
    unfold State.serveQueues
    split
    · exact h
    · rename_i p hp
      have hx : aget? p.qslots k = some x := qslot_of hp ▸ h.slot
      split
      · exact h
      · split
        · exact h
        · split
          · rename_i j hj
            exact ih (h.gainSlot fun e => by rw [← e] at hj; rw [freeKey_none_at hj] at hx; exact absurd hx nofun)
          · rename_i j _ hy
            have hne : k ≠ j := fun e => by
              subst e
              unfold Part.yields at hy
              obtain ⟨⟨k', y⟩, hf, rfl⟩ := Option.map_eq_some_iff.mp hy
              have hb := List.find?_some hf
              simp only [h.stays p hp y (List.mem_of_find?_eq_some hf), Bool.and_false, Bool.false_and] at hb
              exact absurd hb nofun
            exact ih ((h.loseSlot hne).gainSlot hne)
          · exact h

theorem queueSlotGrant_grants {vf q h : Nat} (hp : aget? s.parts s.cur.part = some p) (ha : p.state = .active) (hh : p.halt = none)
    (hl : s.firstLatched p = some (vf, q)) (hk : freeKey p.qslots (upto 32) = some h) {d : Nat}
    (hd : s.devNat p ((s.vf vf).descriptor q) 64 = d)
    (hn : queueLeft (field d 64 32) (aget (s.vf vf).tails (field d 64 32) q) ≠ 0) :
    ∃ u, exec .queueSlotGrant s = .next u ∧ u.qslot s.cur.part h = some
      { vf := vf, queue := q, qva := field d 0 56, qlog2 := field d 56 4, nopre := bit d 60, supv := bit d 61,
        ckva := field d 128 56, kernel := none, waitingLaunch := none, pending := none, boundary := false } := by
  let y : QSlot :=
    { vf := vf, queue := q, qva := field d 0 56, qlog2 := field d 56 4, nopre := bit d 60, supv := bit d 61,
      ckva := field d 128 56, kernel := none, waitingLaunch := none, pending := none, boundary := false }
  have hg : Keeps (s.gainSlot s.cur.part h vf q) s.cur.part h y := by
    let b := (s.onVf vf fun v => { v with pend := v.pend.filter fun e => e.1 != q }).onVf vf fun v => { v with heads := aset v.heads q (field d 64 32) }
    have hb : s.gainSlot s.cur.part h vf q = b.onPart s.cur.part fun p => { p with qslots := aset p.qslots h y } := by
      unfold State.gainSlot
      simp only [hp, hd, vf_onVf]
      rw [if_neg hn]
    have hq : aget? (s.gainSlot s.cur.part h vf q).parts s.cur.part = some { p with qslots := aset p.qslots h y } := by
      rw [hb]
      exact State.onPart_parts (s := b) hp fun p => { p with qslots := aset p.qslots h y }
    refine ⟨by rw [qslot_of hq, aget?_aset_self], fun p' hp' z hz => ?_⟩
    rw [hq] at hp'
    cases hp'
    rcases mem_aset hz with e | hm
    · exact (Prod.mk.inj e).2 ▸ rfl
    · exact absurd hm (not_mem_of_aget? (freeKey_none_at hk) z)
  have hx : exec .queueSlotGrant s = .next ((s.gainSlot s.cur.part h vf q).serveQueues s.cur.part 63) := by
    unfold exec execQueueSlotGrant
    conv => lhs; unfold State.serveQueues
    simp only [hp, ha, hh, ne_eq, not_true, or_self, if_false, hl, hk]
  exact ⟨_, hx, (hg.serveQueues 63).slot⟩

theorem queueSlotGrant_none (hp : aget? s.parts s.cur.part = some p) (hl : s.firstLatched p = none) :
    exec .queueSlotGrant s = .next s := by
  unfold exec execQueueSlotGrant
  conv => lhs; unfold State.serveQueues
  simp only [hp, hl, ite_self]

/-! ## Records at HEAD (R86 to R89) -/

/-- The record at HEAD of the turn's queue slot. -/
structure AtHead (s : State) (p : Part) (x : QSlot) (index n : Nat) : Prop where
  part : aget? s.parts s.cur.part = some p
  slot : aget? p.qslots s.cur.sub = some x
  record : s.recordAt p x = some (index, n)

/-- What the end of a record without a kernel leaves. -/
def EndsWith (s : State) (x : QSlot) (e : Instr) (r : PendingRec) : Prop :=
  ∃ u, exec e s = .next u ∧ u.mem = s.mem ∧ u.qslot s.cur.part s.cur.sub = some (x.ended r)

theorem endRecord_ends {e : Instr} {r : PendingRec} (hp : aget? s.parts s.cur.part = some p) (hx : aget? p.qslots s.cur.sub = some x)
    (he : exec e s = .next (s.endRecord s.cur.part s.cur.sub r)) : EndsWith s x e r :=
  ⟨_, he, onQSlot_mem _ _ _ _, endRecord_pends hp hx r⟩

section
variable {index n : Nat}

theorem launch_eq (h : AtHead s p x index n) : exec .launch s =
    if field n 0 4 = 0 then
      match s.checkLaunch s.cur.part p x index n with
      | .error (code, sub) => .next (s.endRecord s.cur.part s.cur.sub (plainRecord 0 code sub (launchOf n).qckpt 0 index))
      | .ok kern => .next (s.tryLaunch s.cur.part p s.cur.sub kern)
    else if 3 ≤ field n 0 4 then .next (s.endRecord s.cur.part s.cur.sub (plainRecord 0 cRefused 0x10 0 0 index))
    else .next s := by
  unfold exec execLaunch
  simp only [h.part, h.slot, h.record, Option.bind_some, Option.map_some] <;> rfl

theorem launch_refused (h : AtHead s p x index n) (h0 : field n 0 4 = 0) {code sub : Nat}
    (hc : s.checkLaunch s.cur.part p x index n = .error (code, sub)) :
    EndsWith s x .launch (plainRecord 0 code sub (launchOf n).qckpt 0 index) :=
  endRecord_ends h.part h.slot (by rw [launch_eq h, if_pos h0, hc])

theorem checkLaunch_reserved (hz : launchZero n = false) : s.checkLaunch pn p x index n = .error (cRefused, 0x10) := by
  unfold State.checkLaunch
  simp only [hz]

theorem launch_unknown (h : AtHead s p x index n) (h3 : 3 ≤ field n 0 4) : EndsWith s x .launch (plainRecord 0 cRefused 0x10 0 0 index) :=
  endRecord_ends h.part h.slot (by rw [launch_eq h, if_neg (by omega), if_pos h3])

end

/-! ## A launch that has passed its checks (R89) -/

section
variable {kern : Kernel} {im : Image}

theorem tryLaunch_waits (hp : aget? s.parts pn = some p) (hx : aget? p.qslots k = some x) (hw : s.launchWaits p kern = true) :
    (s.tryLaunch pn p k kern).mem = s.mem
      ∧ (s.tryLaunch pn p k kern).qslot pn k = some { x with waitingLaunch := some kern, boundary := false } := by
  unfold State.tryLaunch
  rw [if_pos hw]
  exact ⟨onQSlot_mem _ _ _ _, qslot_onQSlot hp hx _⟩

theorem supvFlush_tiles (s : State) (pn : Nat) : (s.supvFlush pn).tiles = s.tiles := by
  unfold State.supvFlush
  split
  · refine (Elsewhere.trans (.foldl ?_ _ _) (Elsewhere.onSupv _ _ _)).tiles
    exact fun s _ => Elsewhere.toReception s _ _ _
  · rfl

theorem tryLaunch_starts (hp : aget? s.parts pn = some p) (hx : aget? p.qslots k = some x) (hw : s.launchWaits p kern = false)
    (hs : Startable s pn p kern im) :
    (s.tryLaunch pn p k kern).qslot pn k = some { x with kernel := some kern, waitingLaunch := none, boundary := false }
      ∧ ∀ rank t, kern.tiles[rank]? = some t → RootOn (s.tryLaunch pn p k kern) k kern t rank := by
  obtain ⟨v, cap, hv, hvp, hvr⟩ := startKernel_roots (k := k) hs
  obtain ⟨⟨w, hslot⟩, hroot⟩ := rooted_starts (im := im) (cap := cap) (s := v) (by rw [hvp]; exact hp) hx hs.nodup
    fun t ht => by rw [hvr.freeRec]; exact hs.pool t ht
  unfold State.tryLaunch
  rw [if_neg (by rw [hw]; exact nofun), hv]
  refine ⟨?_, fun rank t ht => ?_⟩
  · rw [(SupvOnly.supvFlush _ pn).qslot hslot, aget?_aset_self]
  · have := hroot rank t ht
    unfold RootOn at this ⊢
    rwa [State.tile, supvFlush_tiles]

theorem tryLaunch_full (hw : s.launchWaits p kern = false)
    (hi : aget? p.images kern.image = some im) (ht : kern.tiles ≠ [])
    (hf : (kern.tiles.any fun t => (s.tile t).loc.freeRec.isNone) = true) :
    s.tryLaunch pn p k kern = s.endRecord pn k (plainRecord 0 cRefused 1 kern.lrec.qckpt 0 kern.index) := by
  obtain ⟨t0, ts, ht⟩ := List.exists_cons_of_ne_nil ht
  unfold State.tryLaunch
  rw [if_neg (by rw [hw]; exact nofun), startKernel_eq hi ht, if_pos hf]

end

end
end Sys2Proof.Machine
end

section
/-!
PROOFS. Images (R87), retirement (R91, R437), completion records (R435).
-/

namespace Sys2Proof.Machine

section
variable {s u v : State} {pn k : Nat} {p : Part} {x : QSlot} {index n : Nat} {im : Image}

/-! ## Images -/

theorem registerImage_refused (h : AtHead s p x index n) (h1 : field n 0 4 = 1) (hz : zeroFields n [(160, 864), (120, 8), (4, 60)] = false) :
    EndsWith s x .registerImage (plainRecord 1 cRefused 0x10 0 0 index) :=
  endRecord_ends h.part h.slot (by
    unfold exec execRegisterImage
    simp only [h.part, h.slot, h.record, Option.bind_some, Option.map_some, h1, ne_eq, not_true, if_false, hz, Bool.not_false, if_true])

theorem registerImage_eq (h : AtHead s p x index n) (h1 : field n 0 4 = 1) (hz : zeroFields n [(160, 864), (120, 8), (4, 60)] = true) :
    exec .registerImage s =
      match s.register s.cur.part p ((s.launchXlat p x.vf x.queue).getD (.none' x.vf)) (field n 64 56) (field n 128 32) with
      | .ok (u, i) => .next (u.endRecord s.cur.part s.cur.sub (plainRecord 1 cOk 0 0 i index))
      | .error sub => .next (s.endRecord s.cur.part s.cur.sub (plainRecord 1 cRefused sub 0 0 index)) := by
  unfold exec execRegisterImage
  simp only [h.part, h.slot, h.record, Option.bind_some, Option.map_some, h1, ne_eq, not_true, if_false, hz, Bool.not_true,
    Bool.false_eq_true] <;> rfl

theorem registerImage_error (h : AtHead s p x index n) (h1 : field n 0 4 = 1) (hz : zeroFields n [(160, 864), (120, 8), (4, 60)] = true)
    {sub : Nat} (he : ∀ xl, s.register s.cur.part p xl (field n 64 56) (field n 128 32) = .error sub) :
    EndsWith s x .registerImage (plainRecord 1 cRefused sub 0 0 index) :=
  endRecord_ends h.part h.slot (by rw [registerImage_eq h h1 hz, he])

theorem sealConst_supv (s : State) (pn : Nat) (p : Part) (xl : Xlat) (im : Image) : SupvOnly s (s.sealConst pn p xl im) := by
  unfold State.sealConst
  dsimp only
  split
  · exact .refl s
  · split
    · exact .refl s
    · split
      · exact .refl s
      · refine .trans ?_ (.supvDeliver _ _ _ _)
        exact .of_parts (fillUnits_parts _ _ _ _ _)

theorem sealConst_none (s : State) (pn : Nat) (p : Part) (xl : Xlat) (h : im.constLen = 0) : s.sealConst pn p xl im = s := by
  simp [State.sealConst, h]

/-- What the registration of an image leaves of its partition. -/
def Part.withImage (p : Part) (im : Image) (bytes : List Byte) : Part :=
  { p with
    images := aset p.images p.nextImage im, nextImage := p.nextImage + 1
    imageLog := Config.shake256 (p.imageLog ++ Config.shake256 bytes 64) 64 }

theorem register_ok (hp : aget? s.parts pn = some p) {len va base : Nat} (hr : p.storeRoom len 64 = some base)
    (hc : s.checkImage p va len base = some im) (xl : Xlat) :
    ∃ u, s.register pn p xl va len = .ok (u, p.nextImage)
      ∧ (∃ w, aget? u.parts pn = some { p.withImage im (s.poffBytes p.prec (va % 2 ^ 52) len) with supv := w })
      ∧ (im.constLen = 0 → u.mem = (s.putPoff p.prec base (s.poffBytes p.prec (va % 2 ^ 52) len)).mem) := by
  have hm := MemOnly.putPoff s p.prec base (s.poffBytes p.prec (va % 2 ^ 52) len)
  generalize hb : s.poffBytes p.prec (va % 2 ^ 52) len = bytes at hm ⊢
  let f : Part → Part := fun q => { q with
    images := aset q.images p.nextImage im, nextImage := p.nextImage + 1
    imageLog := Config.shake256 (q.imageLog ++ Config.shake256 bytes 64) 64 }
  have hq : aget? ((s.putPoff p.prec base bytes).onPart pn f).parts pn = some (p.withImage im bytes) :=
    State.onPart_parts (by rw [hm.parts]; exact hp) f
  refine ⟨((s.putPoff p.prec base bytes).onPart pn f).sealConst pn p xl im, ?_, sealConst_supv _ _ _ _ _ pn _ hq, fun h0 => ?_⟩
  · subst hb
    fun_cases State.register with
    | case1 h => exact absurd (hr.symm.trans h) nofun
    | case2 b h h' =>
      cases hr.symm.trans h
      exact absurd (hc.symm.trans h') nofun
    | case3 b h i h' =>
      cases hr.symm.trans h
      cases hc.symm.trans h'
      rfl
  · rw [sealConst_none _ _ _ _ h0, (Elsewhere.onPart _ _ _).mem]

theorem registerImage_registers (h : AtHead s p x index n) (h1 : field n 0 4 = 1)
    (hz : zeroFields n [(160, 864), (120, 8), (4, 60)] = true) {base va len : Nat} (hva : field n 64 56 = va) (hlen : field n 128 32 = len)
    (hr : p.storeRoom len 64 = some base) (hc : s.checkImage p va len base = some im) {bytes : List Byte}
    (hb : s.poffBytes p.prec (va % 2 ^ 52) len = bytes) :
    ∃ u, exec .registerImage s = .next u
      ∧ u.qslot s.cur.part s.cur.sub = some (x.ended (plainRecord 1 cOk 0 0 p.nextImage index))
      ∧ (aget? u.parts s.cur.part).map (fun q => (aget? q.images p.nextImage, q.nextImage, q.imageLog))
        = some (some im, p.nextImage + 1, Config.shake256 (p.imageLog ++ Config.shake256 bytes 64) 64)
      ∧ (im.constLen = 0 → u.mem = (s.putPoff p.prec base bytes).mem) := by
  subst hva hlen hb
  obtain ⟨u, hu, ⟨w, hw⟩, hmem⟩ := register_ok h.part hr hc ((s.launchXlat p x.vf x.queue).getD (.none' x.vf))
  have hs : aget? u.parts s.cur.part = some _ := hw
  refine ⟨_, by rw [registerImage_eq h h1 hz, hu], endRecord_pends hs h.slot _, ?_, fun h0 => (onQSlot_mem _ _ _ _).trans (hmem h0)⟩
  rw [State.endRecord, onQSlot_slot hs h.slot]
  simp [Part.withImage]

theorem releaseImage_eq (h : AtHead s p x index n) (h2 : field n 0 4 = 2) : exec .releaseImage s =
    if !zeroFields n [(64, 960), (4, 28)] then .next (s.endRecord s.cur.part s.cur.sub (plainRecord 2 cRefused 0x10 0 0 index))
    else
      match aget? p.images (field n 32 32) with
      | some im =>
        if im.released then .next (s.endRecord s.cur.part s.cur.sub (plainRecord 2 cRefused 0x11 0 0 index))
        else
          .next (((s.onPart s.cur.part fun p => { p with images := aset p.images (field n 32 32) { im with released := true } }).collectImages
            s.cur.part).endRecord s.cur.part s.cur.sub (plainRecord 2 cOk 0 0 0 index))
      | none => .next (s.endRecord s.cur.part s.cur.sub (plainRecord 2 cRefused 0x11 0 0 index)) := by
  unfold exec execReleaseImage
  simp only [h.part, h.slot, h.record, Option.bind_some, Option.map_some, h2, ne_eq, not_true, if_false] <;> rfl

theorem releaseImage_reserved (h : AtHead s p x index n) (h2 : field n 0 4 = 2) (hz : zeroFields n [(64, 960), (4, 28)] = false) :
    EndsWith s x .releaseImage (plainRecord 2 cRefused 0x10 0 0 index) :=
  endRecord_ends h.part h.slot (by rw [releaseImage_eq h h2, hz]; rfl)

theorem releaseImage_unknown (h : AtHead s p x index n) (h2 : field n 0 4 = 2) (hz : zeroFields n [(64, 960), (4, 28)] = true)
    (hi : aget? p.images (field n 32 32) = none ∨ (aget? p.images (field n 32 32) = some im ∧ im.released = true)) :
    EndsWith s x .releaseImage (plainRecord 2 cRefused 0x11 0 0 index) :=
  endRecord_ends h.part h.slot (by
    rw [releaseImage_eq h h2, hz]
    rcases hi with hi | ⟨hi, hr⟩
    · simp only [hi, Bool.not_true, Bool.false_eq_true, if_false]
    · simp only [hi, hr, Bool.not_true, Bool.false_eq_true, if_false, if_true])

/-- An image is used: by the resident program, a kernel or a waiting launch (R87). -/
def Part.uses (p : Part) (i : Nat) : Prop := p.supv.resident = some i ∨ ∃ y ∈ p.qslots,
  y.2.kernel.map (·.image) = some i ∨ y.2.waitingLaunch.map (·.image) = some i

/-- The test of R87 for it. -/
def Part.usesB (p : Part) (h : Nat) : Bool := p.supv.resident == some h
  || p.qslots.any fun x => (x.2.kernel.map fun k => k.image == h).getD false || (x.2.waitingLaunch.map fun k => k.image == h).getD false

theorem Part.usesB_iff (p : Part) (i : Nat) : p.usesB i = true ↔ p.uses i := by
  have hk (o : Option Kernel) : (o.map fun k => k.image == i).getD false = true ↔ o.map (·.image) = some i := by
    cases o <;> simp
  simp only [Part.usesB, Part.uses, Bool.or_eq_true, beq_iff_eq, List.any_eq_true, hk]

theorem aget?_filter {β : Type} {lo : Option Nat} {m : Assoc β} (h : risesFrom lo m = true) (f : Nat × β → Bool) {a : Nat} {b : β}
    (ha : aget? m a = some b) : aget? (m.filter f) a = if f (a, b) then some b else none := by
  induction m generalizing lo with
  | nil => exact absurd ha nofun
  | cons e m ih =>
    obtain ⟨c, w⟩ := e
    rw [risesFrom_cons, Bool.and_eq_true] at h
    rw [aget?_cons] at ha
    by_cases hac : a = c
    · subst hac
      rw [if_pos rfl] at ha
      cases ha
      have hout : aget? (m.filter f) a = none := aget?_of_rises (risesFrom_filter h.2 f) (Nat.le_refl a)
      by_cases hf : f (a, b) = true
      · rw [List.filter_cons_of_pos hf, aget?_cons, if_pos rfl, if_pos hf]
      · rw [List.filter_cons_of_neg hf, hout, if_neg hf]
    · rw [if_neg hac] at ha
      have := ih h.2 ha
      by_cases hf : f (c, w) = true
      · rw [List.filter_cons_of_pos hf, aget?_cons, if_neg hac, this]
      · rw [List.filter_cons_of_neg hf, this]

theorem releaseImage_releases (h : AtHead s p x index n) (h2 : field n 0 4 = 2) (hz : zeroFields n [(64, 960), (4, 28)] = true)
    {i : Nat} (hn : field n 32 32 = i) (hi : aget? p.images i = some im) (hr : im.released = false) (hrise : risesFrom none p.images = true) :
    ∃ u, exec .releaseImage s = .next u ∧ u.mem = s.mem ∧ u.qslot s.cur.part s.cur.sub = some (x.ended (plainRecord 2 cOk 0 0 0 index))
      ∧ (p.uses i → (aget? u.parts s.cur.part).bind (fun q => aget? q.images i) = some { im with released := true })
      ∧ (¬p.uses i → (aget? u.parts s.cur.part).bind (fun q => aget? q.images i) = none) := by
  subst hn
  let i := field n 32 32
  let b := s.onPart s.cur.part fun p => { p with images := aset p.images i { im with released := true } }
  let p1 : Part := { p with images := aset p.images i { im with released := true } }
  let kept : Nat × Image → Bool := fun e => !e.2.released || p1.usesB e.1
  have hb : aget? b.parts s.cur.part = some p1 := State.onPart_parts h.part _
  have hc : aget? (b.collectImages s.cur.part).parts s.cur.part = some { p1 with images := p1.images.filter kept } :=
    State.onPart_parts hb _
  have hi' : aget? (p1.images.filter kept) i = if kept (i, { im with released := true }) then some { im with released := true } else none :=
    aget?_filter (risesFrom_aset hrise _ rfl) kept (aget?_aset_self _ _ _)
  have hk : kept (i, { im with released := true }) = p1.usesB i := by simp [kept]
  have himg (y : Option Image) (hy : aget? (p1.images.filter kept) i = y) :
      (aget? ((b.collectImages s.cur.part).endRecord s.cur.part s.cur.sub (plainRecord 2 cOk 0 0 0 index)).parts s.cur.part).bind
        (fun q => aget? q.images i) = y := by
    rw [State.endRecord, onQSlot_slot hc h.slot]
    exact hy
  refine ⟨(b.collectImages s.cur.part).endRecord s.cur.part s.cur.sub (plainRecord 2 cOk 0 0 0 index), ?_, ?_,
    endRecord_pends hc h.slot _, fun hu => himg _ ?_, fun hu => himg _ ?_⟩
  · rw [releaseImage_eq h h2, hz]
    simp only [hi, hr, Bool.not_true, Bool.false_eq_true, if_false]
    rfl
  · exact (onQSlot_mem _ _ _ _).trans ((Elsewhere.onPart _ _ _).mem.trans (Elsewhere.onPart _ _ _).mem)
  · rw [hi', hk, (Part.usesB_iff p1 i).mpr hu, if_pos rfl]
  · rw [hi', hk, if_neg (mt (Part.usesB_iff p1 i).mp hu)]

theorem register_full {xl : Xlat} {va len : Nat} (hr : p.storeRoom len 64 = none) : s.register pn p xl va len = .error 0x18 := by
  fun_cases State.register with
  | case1 h => rfl
  | case2 b h h' => exact absurd (hr.symm.trans h) nofun
  | case3 b h i h' => exact absurd (hr.symm.trans h) nofun

theorem register_illegal {xl : Xlat} {va len base : Nat} (hr : p.storeRoom len 64 = some base) (hc : s.checkImage p va len base = none) :
    s.register pn p xl va len = .error 0x19 := by
  fun_cases State.register with
  | case1 h => exact absurd (hr.symm.trans h) nofun
  | case2 b h h' => rfl
  | case3 b h i h' =>
    cases hr.symm.trans h
    exact absurd (hc.symm.trans h') nofun

end
end Sys2Proof.Machine
end

section
/-!
PROOFS. Retirement (R91, R437) and completion records (R435).
-/

namespace Sys2Proof.Machine

section
variable {s u v : State} {pn k : Nat} {p : Part} {x : QSlot} {kern : Kernel}

/-! ## What is under way on a tile -/

/-- What a tile runs, has queued and has given up is the same. -/
structure SameWork (s u : State) : Prop where
  queues : ∀ t (f : List MxCmd → Bool), f [] = false → (u.tile t).core.ctxs.any (fun c => f c.2.mx.queue) = (s.tile t).core.ctxs.any fun c => f c.2.mx.queue
  eng : ∀ t, (u.tile t).core.eng = (s.tile t).core.eng
  giving : ∀ t, (u.tile t).core.giving = (s.tile t).core.giving
  ops : ∀ t, (u.tile t).stw.ops = (s.tile t).stw.ops
  prog : ∀ t, (u.tile t).stw.prog = (s.tile t).stw.prog

namespace SameWork

theorem of_tile (h : ∀ t, (u.tile t).core.ctxs = (s.tile t).core.ctxs ∧ (u.tile t).core.eng = (s.tile t).core.eng
    ∧ (u.tile t).core.giving = (s.tile t).core.giving ∧ (u.tile t).stw = (s.tile t).stw) : SameWork s u :=
  ⟨fun t _ _ => by rw [(h t).1], fun t => (h t).2.1, fun t => (h t).2.2.1, fun t => by rw [(h t).2.2.2], fun t => by rw [(h t).2.2.2]⟩

theorem of_tiles (h : u.tiles = s.tiles) : SameWork s u := of_tile fun t => by
  rw [show u.tile t = s.tile t by rw [State.tile, State.tile, h]]; exact ⟨rfl, rfl, rfl, rfl⟩

theorem refl (s : State) : SameWork s s := of_tiles rfl

theorem trans (h : SameWork s u) (h' : SameWork u v) : SameWork s v :=
  ⟨fun t f h0 => (h'.queues t f h0).trans (h.queues t f h0), fun t => (h'.eng t).trans (h.eng t),
    fun t => (h'.giving t).trans (h.giving t), fun t => (h'.ops t).trans (h.ops t), fun t => (h'.prog t).trans (h.prog t)⟩

theorem foldl {α : Type} {f : State → α → State} (h : ∀ s a, SameWork s (f s a)) (l : List α) (s : State) : SameWork s (l.foldl f s) := by
  induction l generalizing s with
  | nil => exact refl s
  | cons a l ih => exact (h s a).trans (ih (f s a))

theorem onLocal (s : State) (t : Nat) (f : Local → Local) : SameWork s (s.onLocal t f) := of_tile fun n => by
  rw [State.core_onLocal, State.stw_onLocal]; exact ⟨rfl, rfl, rfl, rfl⟩

theorem setSlot (s : State) (t i : Nat) (x : Slot) : SameWork s (s.setSlot t i x) := by
  unfold State.setSlot State.reeval
  exact (onLocal _ _ _).trans (onLocal _ _ _)

theorem unhold (s : State) (t r : Nat) : SameWork s (s.unhold t r) := of_tile fun n => by
  unfold State.unhold State.onCore
  by_cases h : n = t
  · subst h; rw [State.tile_onTile_self]; exact ⟨rfl, rfl, rfl, rfl⟩
  · rw [State.tile_onTile_ne s _ h]; exact ⟨rfl, rfl, rfl, rfl⟩

/-- A context slot whose queue stays. -/
theorem setCtxAt (s : State) (t c : Nat) {w : Context} (hw : w.mx.queue = (s.ctxAt t c).mx.queue) : SameWork s (s.setCtxAt t c w) := by
  have hn {n : Nat} (h : n ≠ t) : (s.setCtxAt t c w).tile n = s.tile n := by
    rw [State.setCtxAt, State.onCore, State.tile_onTile_ne s _ h]
  have hs : (s.setCtxAt t c w).tile t = _ := State.tile_setCtxAt_self _ _ _ _
  refine ⟨fun n f h0 => ?_, fun n => ?_, fun n => ?_, fun n => ?_, fun n => ?_⟩
  · by_cases h : n = t
    · subst h
      rw [hs, Bool.eq_iff_iff, ← not_iff_not, Bool.not_eq_true, Bool.not_eq_true, List.any_eq_false, List.any_eq_false]
      refine aset_all (d := Context.reset) (P := fun c : Nat × Context => ¬f c.2.mx.queue = true) (by exact fun h => absurd (h0.symm.trans h) nofun) ?_
      change ¬f w.mx.queue = true ↔ _
      rw [hw]
      rfl
    · rw [hn h]
  all_goals
    by_cases h : n = t
    · subst h; rw [hs]
    · rw [hn h]

theorem keepAccs (s : State) (t r : Nat) (accs : List Nat) : SameWork s (s.keepAccs t r accs) := by
  unfold State.keepAccs
  refine foldl (fun s c => ?_) _ _
  dsimp only
  split
  · exact setCtxAt s t c rfl
  · exact refl s

theorem returnCap (s : State) (pn t : Nat) (c : Cap) (reason : Nat) : SameWork s (s.returnCap pn t c reason) := by
  unfold State.returnCap
  split
  · exact of_tiles (Elsewhere.clearReader _ _ _).tiles
  · split
    · exact refl s
    · exact of_tiles (Elsewhere.supvDeliver _ _ _ _).tiles

theorem stillBusy (h : SameWork s u) (k t : Nat) : u.stillBusy k t = s.stillBusy k t := by
  simp only [State.stillBusy, h.queues t (fun q => q.any fun m => m.kslot == k) rfl, h.eng, h.giving, h.ops, h.prog]

end SameWork

theorem freeRecords_keeps (s : State) (pn k t : Nat) : SupvOnly s (s.freeRecords pn k t) ∧ SameWork s (s.freeRecords pn k t) := by
  have hfold {α : Type} {f : State → α → State} (h : ∀ s a, SupvOnly s (f s a) ∧ SameWork s (f s a)) (l : List α) (s : State) :
      SupvOnly s (l.foldl f s) ∧ SameWork s (l.foldl f s) :=
    ⟨.foldl (fun s a => (h s a).1) l s, .foldl (fun s a => (h s a).2) l s⟩
  have htrans {s u v : State} (h : SupvOnly s u ∧ SameWork s u) (h' : SupvOnly u v ∧ SameWork u v) : SupvOnly s v ∧ SameWork s v :=
    ⟨h.1.trans h'.1, h.2.trans h'.2⟩
  unfold State.freeRecords
  refine hfold (fun s r => ?_) _ _
  split
  · exact ⟨.refl s, .refl s⟩
  · split
    · dsimp only
      have hunhold : SupvOnly s (s.unhold t r.1) ∧ SameWork s (s.unhold t r.1) := ⟨.of_parts rfl, .unhold s t r.1⟩
      have hkeep (v : State) (l : List Nat) : SupvOnly v (v.keepAccs t r.1 l) ∧ SameWork v (v.keepAccs t r.1 l) :=
        ⟨.keepAccs _ _ _ _, .keepAccs _ _ _ _⟩
      have hloc (v : State) (f : Local → Local) : SupvOnly v (v.onLocal t f) ∧ SameWork v (v.onLocal t f) := ⟨.of_parts rfl, .onLocal _ _ _⟩
      have hdisp (v : State) (l : List (Nat × Cap)) : SupvOnly v (v.disposeAll l fun s c => s.returnCap pn t c cOk)
          ∧ SameWork v (v.disposeAll l fun s c => s.returnCap pn t c cOk) :=
        hfold (f := fun s (c : Nat × Cap) => s.returnCap pn t c.2 cOk) (fun v c => ⟨.returnCap v pn t c.2 cOk, .returnCap v pn t c.2 cOk⟩) l v
      have hslot (v : State) (c : Prop) [Decidable c] (i : Nat) (x : Slot) :
          SupvOnly v (if c then v.setSlot t i x else v) ∧ SameWork v (if c then v.setSlot t i x else v) := by
        split
        · exact ⟨.setSlot _ _ _ _, .setSlot _ _ _ _⟩
        · exact ⟨.refl v, .refl v⟩
      exact htrans (htrans (htrans (htrans hunhold (hkeep _ _)) (hloc _ _)) (hdisp _ _)) (hslot _ _ _ _)
    · exact ⟨.refl s, .refl s⟩

/-! ## A kernel's rings, barriers and bindings go -/

/-- Rings, barrier entries and bindings of a kernel slot are gone from a tile. -/
structure Cleared (s : State) (k t : Nat) : Prop where
  chans : ∀ c ∈ (s.tile t).loc.chans, c.2.kslot ≠ k
  rings : ∀ c ∈ (s.tile t).loc.rings, c.2.kslot ≠ k
  bars : ∀ c ∈ (s.tile t).loc.bars, c.2.kslot ≠ k

/-- Rings, barrier entries and bindings of every tile stay. -/
def SameBound (s u : State) : Prop := ∀ t, (u.tile t).loc.chans = (s.tile t).loc.chans ∧ (u.tile t).loc.rings = (s.tile t).loc.rings
  ∧ (u.tile t).loc.bars = (s.tile t).loc.bars

namespace SameBound

theorem of_loc (h : ∀ t, (u.tile t).loc = (s.tile t).loc) : SameBound s u := fun t => by rw [h]; exact ⟨rfl, rfl, rfl⟩
theorem of_tiles (h : u.tiles = s.tiles) : SameBound s u := of_loc fun t => by rw [State.tile, State.tile, h]
theorem trans (h : SameBound s u) (h' : SameBound u v) : SameBound s v := fun t =>
  ⟨(h' t).1.trans (h t).1, (h' t).2.1.trans (h t).2.1, (h' t).2.2.trans (h t).2.2⟩

theorem foldl {α : Type} {f : State → α → State} (h : ∀ s a, SameBound s (f s a)) (l : List α) (s : State) : SameBound s (l.foldl f s) := by
  induction l generalizing s with
  | nil => exact of_tiles rfl
  | cons a l ih => exact (h s a).trans (ih (f s a))

theorem setSlot (s : State) (t i : Nat) (x : Slot) : SameBound s (s.setSlot t i x) := fun n => by
  by_cases h : n = t
  · subst h
    rw [State.setSlot, State.reeval, State.loc_onLocal_self, State.loc_onLocal_self]
    exact ⟨rfl, rfl, rfl⟩
  · rw [State.setSlot, State.reeval, State.onLocal, State.onLocal, State.tile_onTile_ne _ _ h, State.tile_onTile_ne _ _ h]
    exact ⟨rfl, rfl, rfl⟩

theorem returnCap (s : State) (pn t : Nat) (c : Cap) (reason : Nat) : SameBound s (s.returnCap pn t c reason) := by
  unfold State.returnCap
  split
  · exact of_tiles (Elsewhere.clearReader _ _ _).tiles
  · split
    · exact of_tiles rfl
    · exact of_tiles (Elsewhere.supvDeliver _ _ _ _).tiles

theorem loadSteward (s : State) (t : Nat) : SameBound s (s.loadSteward t) := of_loc fun n => loadSteward_loc s t n

theorem cleared (h : SameBound s u) {t : Nat} (hc : Cleared s k t) : Cleared u k t := by
  obtain ⟨h1, h2, h3⟩ := h t
  exact ⟨h1 ▸ hc.chans, h2 ▸ hc.rings, h3 ▸ hc.bars⟩

end SameBound

/-- What `clearKernel` takes from the shared registers of a tile. -/
def Local.cleared (l : Local) (k : Nat) : Local :=
  { l with
    rings := l.rings.filter fun r => r.2.kslot != k, bars := l.bars.filter fun b => b.2.kslot != k
    chans := l.chans.filter fun c => c.2.kslot != k
    kicks := (l.kicks.filter fun x => x.2.kslot != k || x.2.state == .claimed).map fun x =>
      if x.2.kslot = k then (x.1, { x.2 with cap := none }) else x }

/-- A slot that a kernel loses. -/
def emptySlot (t : Nat) (s : State) (x : Nat × Slot) : State := s.setSlot t x.1 { x.2 with cap := none, kslot := none }

theorem emptySlot_supvOnly (t : Nat) (s : State) (x : Nat × Slot) : SupvOnly s (emptySlot t s x) := SupvOnly.setSlot s t x.1 _

theorem emptySlot_sameBound (t : Nat) (s : State) (x : Nat × Slot) : SameBound s (emptySlot t s x) := SameBound.setSlot s t x.1 _

theorem clearKernel_keeps (s : State) (pn k t : Nat) : SupvOnly s (s.clearKernel pn k t)
    ∧ SameBound (s.onLocal t fun l => l.cleared k) (s.clearKernel pn k t) := by
  have hslots (v : State) (l : Assoc Slot) : SupvOnly v (l.foldl (emptySlot t) v) ∧ SameBound v (l.foldl (emptySlot t) v) :=
    ⟨SupvOnly.foldl (emptySlot_supvOnly t) l v, SameBound.foldl (emptySlot_sameBound t) l v⟩
  have hcaps (v : State) (l : List Cap) : SupvOnly v (l.foldl (fun s c => s.returnCap pn t c cOk) v)
      ∧ SameBound v (l.foldl (fun s c => s.returnCap pn t c cOk) v) :=
    ⟨SupvOnly.foldl (fun v c => SupvOnly.returnCap v pn t c cOk) l v, SameBound.foldl (fun v c => SameBound.returnCap v pn t c cOk) l v⟩
  have hstw (v : State) (f : Steward → Steward) : SupvOnly v (v.onSteward t f) ∧ SameBound v (v.onSteward t f) :=
    ⟨.of_parts rfl, .of_loc fun n => State.loc_onSteward v t f n⟩
  have hkill (v : State) : SupvOnly v (v.onTile t fun w => { w with killed := aerase w.killed k })
      ∧ SameBound v (v.onTile t fun w => { w with killed := aerase w.killed k }) := by
    refine ⟨.of_parts rfl, .of_loc fun n => ?_⟩
    by_cases h : n = t
    · subst h; rw [State.tile_onTile_self]
    · rw [State.tile_onTile_ne _ _ h]
  have hload (v : State) (c : Prop) [Decidable c] : SupvOnly v (if c then v.loadSteward t else v)
      ∧ SameBound v (if c then v.loadSteward t else v) := by
    split
    · exact ⟨.loadSteward v t, .loadSteward v t⟩
    · exact ⟨.refl v, .of_tiles rfl⟩
  have htrans {s u v : State} (h : SupvOnly s u ∧ SameBound s u) (h' : SupvOnly u v ∧ SameBound u v) : SupvOnly s v ∧ SameBound s v :=
    ⟨h.1.trans h'.1, h.2.trans h'.2⟩
  obtain ⟨v, hv⟩ : ∃ v, v = s.clearKernel pn k t := ⟨_, rfl⟩
  rw [← hv]
  unfold State.clearKernel at hv
  extract_lets l w caps slots s2 s3 s4 s5 s6 at hv
  have h3 : SupvOnly s2 s3 ∧ SameBound s2 s3 := hslots s2 slots
  have h4 : SupvOnly s2 s4 ∧ SameBound s2 s4 := htrans h3 (hstw s3 _)
  have h6 : SupvOnly s2 s6 ∧ SameBound s2 s6 := htrans (htrans h4 (hcaps s4 caps)) (hkill s5)
  have h7 : SupvOnly s2 v ∧ SameBound s2 v := hv ▸ htrans h6 (hload s6 (w.prog = .kernel k))
  exact ⟨(SupvOnly.of_parts (s := s) (u := s2) rfl).trans h7.1, h7.2⟩

theorem clearKernel_cleared (s : State) (pn k t : Nat) : Cleared (s.clearKernel pn k t) k t := by
  refine (clearKernel_keeps s pn k t).2.cleared ?_
  have hkept {β : Type} (m : Assoc β) (f : β → Nat) : ∀ c ∈ m.filter (fun c => f c.2 != k), f c.2 ≠ k := fun c hc => by
    simpa using (List.mem_filter.mp hc).2
  constructor
  all_goals
    rw [State.loc_onLocal_self]
    exact hkept _ _

/-- What one tile is cleared of stays gone when another is. -/
theorem Cleared.clearKernel {t : Nat} (h : Cleared s k t) (n : Nat) : Cleared (s.clearKernel pn k n) k t := by
  by_cases ht : t = n
  · subst ht; exact clearKernel_cleared s pn k t
  · refine (clearKernel_keeps s pn k n).2.cleared ?_
    have : (s.onLocal n fun l => l.cleared k).tile t = s.tile t := by rw [State.onLocal, State.tile_onTile_ne _ _ ht]
    exact ⟨this ▸ h.chans, this ▸ h.rings, this ▸ h.bars⟩

theorem clearKernels_cleared (l : List Nat) : ∀ {s : State}, ∀ t ∈ l, Cleared (l.foldl (fun s t => s.clearKernel pn k t) s) k t := by
  have hstay (l : List Nat) {t : Nat} : ∀ {s : State}, Cleared s k t → Cleared (l.foldl (fun s t => s.clearKernel pn k t) s) k t := by
    induction l with
    | nil => exact fun h => h
    | cons n l ih => exact fun h => ih (h.clearKernel n)
  induction l with
  | nil => exact fun t ht => absurd ht (by simp)
  | cons n l ih =>
    intro s t ht
    rcases List.mem_cons.mp ht with rfl | ht
    · exact hstay l (clearKernel_cleared s pn k t)
    · exact ih t ht

/-! ## KERNEL_RETIRE (R91, R437) -/

/-- The kernel of a slot of a partition that runs. -/
structure Runs (s : State) (p : Part) (x : QSlot) (kern : Kernel) : Prop where
  part : aget? s.parts s.cur.part = some p
  slot : aget? p.qslots s.cur.sub = some x
  kernel : x.kernel = some kern
  active : p.state = .active
  going : p.halt = none

theorem Runs.found (h : Runs s p x kern) :
    ((aget? s.parts s.cur.part).bind fun p => (p.kernel s.cur.sub).map fun x => (p, x)) = some (p, kern) := by
  simp only [h.part, Option.bind_some, Part.kernel, h.slot, h.kernel, Option.map_some]

theorem kernelRetire_stops (h : Runs s p x kern) (hr : kern.retire = .no)
    (hc : reaches ((s.tile kern.compTile).loc.ctr kern.lrec.cidx).value kern.lrec.ctarget = true) :
    ∃ u, exec .kernelRetire s = .next u ∧ u.mem = s.mem
      ∧ u.qslot s.cur.part s.cur.sub = some { x with kernel := some { kern with retire := .stopping cOk 0 false 0 } } := by
  refine ⟨s.onKernel s.cur.part s.cur.sub fun x => { x with retire := .stopping cOk 0 false 0 }, ?_, onQSlot_mem _ _ _ _, ?_⟩
  · unfold exec execKernelRetire
    simp only [h.found, hr, h.active, h.going, hc, and_self, if_true]
  · exact (qslot_onQSlot h.part h.slot _).trans (by rw [h.kernel]; rfl)

theorem kernelRetire_early (h : Runs s p x kern) (hr : kern.retire = .no)
    (hc : reaches ((s.tile kern.compTile).loc.ctr kern.lrec.cidx).value kern.lrec.ctarget = false) :
    exec .kernelRetire s = .next s := by
  unfold exec execKernelRetire
  simp only [h.found, hr, hc, Bool.false_eq_true, and_false, if_false]

section
variable {code sub left : Nat} {killed : Bool}

theorem kernelRetire_eq (h : Runs s p x kern) (hr : kern.retire = .stopping code sub killed left) :
    exec .kernelRetire s = .next (s.retireOn s.cur.part s.cur.sub kern
      (fun u n => u.onKernel s.cur.part s.cur.sub fun x => { x with retire := .stopping code sub killed (left + n) })
      fun u n => (u.endRecord s.cur.part s.cur.sub (kern.record code sub (left + n))).collectImages s.cur.part) := by
  unfold exec execKernelRetire
  simp only [h.found, hr, h.active, h.going, and_self, if_true]

theorem kernelRetire_awaits (h : Runs s p x kern) (hr : kern.retire = .stopping code sub killed left)
    (ht : kern.interval.any (s.runsOn s.cur.sub) = true) : exec .kernelRetire s = .next s := by
  rw [kernelRetire_eq h hr, State.retireOn, if_pos ht]

theorem kernelRetire_retires (h : Runs s p x kern) (hr : kern.retire = .stopping code sub killed left)
    (ht : kern.interval.any (s.runsOn s.cur.sub) = false) (hb : kern.interval.any (s.stillBusy s.cur.sub) = false) :
    ∃ u, exec .kernelRetire s = .next u
      ∧ u.qslot s.cur.part s.cur.sub
        = some (x.ended (kern.record code sub (left + (kern.interval.map fun t => s.leftOn s.cur.sub t).sum)))
      ∧ ∀ t ∈ kern.interval, Cleared u s.cur.sub t := by
  let pn := s.cur.part
  let k := s.cur.sub
  let freed := kern.interval.foldl (fun s t => s.freeRecords pn k t) s
  let gone := kern.interval.foldl (fun s t => s.clearKernel pn k t) freed
  let r := kern.record code sub (left + (kern.interval.map fun t => s.leftOn k t).sum)
  have hwork : SameWork s freed := .foldl (fun s t => (freeRecords_keeps s pn k t).2) _ _
  have hidle : kern.interval.any (freed.stillBusy k) = false := by
    rw [show freed.stillBusy k = s.stillBusy k from funext (hwork.stillBusy k)]
    exact hb
  have hsupv : SupvOnly s gone := .trans (u := freed) (.foldl (fun s t => (freeRecords_keeps s pn k t).1) _ _)
    (.foldl (fun s t => (clearKernel_keeps s pn k t).1) _ _)
  obtain ⟨w, hw⟩ := hsupv pn p h.part
  refine ⟨(gone.endRecord pn k r).collectImages pn, ?_, ?_, fun t ht => ?_⟩
  · rw [kernelRetire_eq h hr, State.retireOn, if_neg (by rw [ht]; exact nofun)]
    dsimp only
    rw [if_neg (by rw [hidle]; exact nofun)]
  · rw [collectImages_qslot]
    exact endRecord_pends hw h.slot r
  · refine SameBound.cleared (s := gone) (.of_tiles ?_) (clearKernels_cleared _ t ht)
    exact ((Elsewhere.onPart _ _ _).trans (Elsewhere.onPart _ _ _)).tiles

end

end
end Sys2Proof.Machine
end

section
/-!
PROOFS. Completion records (R435), queues at work.
-/

namespace Sys2Proof.Machine

section
variable {s u v : State} {pn k : Nat} {p : Part} {x : QSlot} {kern : Kernel} {r : PendingRec}

/-- The same queues are latched, in the same order. -/
theorem firstLatched_congr {q : Part} (hq : q.prec = p.prec) (hv : ∀ n, (u.vf n).pend = (s.vf n).pend) : u.firstLatched q = s.firstLatched p := by
  simp only [State.firstLatched, hq, hv]

theorem serveQueues_idle (fuel : Nat) (h : ∀ p, aget? s.parts pn = some p → s.firstLatched p = none) : s.serveQueues pn fuel = s := by
  cases fuel with
  | zero => rfl
  | succ fuel =>
    unfold State.serveQueues
    split
    · rfl
    · rename_i p hp
      split
      · rfl
      · rw [h p hp]

/-- What the record, the error block and the checkpoint pair write (R435). -/
def State.completed (s : State) (p : Part) (x : QSlot) (r : PendingRec) : State :=
  let v := s.vf x.vf
  let d := s.devNat p (v.qtbase + 0x1000) 64
  let tail := field d 96 32
  let w := ((s.devPut p (field d 0 56 + 32 * (tail % 2 ^ field d 60 4)) 32 (r.nat x.vf x.queue)).devPut p
    (v.qtbase + 0x1000 + 12) 4 (tail + 1)).devBytes p (v.qtbase + 0x1040) v.errorBlock
  match r.ckpt with
  | some n => w.devPut p x.ckva 16 (n + (r.index + 1) % 2 ^ 32 * 2 ^ 64)
  | none => w

theorem completed_memOnly (s : State) (p : Part) (x : QSlot) (r : PendingRec) : MemOnly s (s.completed p x r) := by
  unfold State.completed
  dsimp only
  split
  · exact (((MemOnly.devPut _ _ _ _ _).trans (.devPut _ _ _ _ _)).trans (.devBytes _ _ _ _)).trans (.devPut _ _ _ _ _)
  · exact ((MemOnly.devPut _ _ _ _ _).trans (.devPut _ _ _ _ _)).trans (.devBytes _ _ _ _)

/-- The queue stands behind the record (R435). -/
def State.headMoved (w : State) (x : QSlot) (next : Nat) : State := w.onVf x.vf fun v => { v with heads := aset v.heads x.queue next }

/-- A slot whose record is to be written, in a partition that runs with room for it. -/
structure Writes (s : State) (p : Part) (x : QSlot) (r : PendingRec) : Prop where
  part : aget? s.parts s.cur.part = some p
  slot : aget? p.qslots s.cur.sub = some x
  pending : x.pending = some r

/-- The queue of completion records is full. -/
abbrev State.recordsFull (s : State) (p : Part) (x : QSlot) : Prop :=
  let d := s.devNat p ((s.vf x.vf).qtbase + 0x1000) 64
  queueLeft (field d 64 32) (field d 96 32) = 2 ^ field d 60 4

theorem completionRecordWrite_eq (h : Writes s p x r) : exec .completionRecordWrite s =
    if p.state ≠ .active ∨ p.halt ≠ none ∨ s.recordsFull p x then .next s
    else .next ((((s.completed p x r).headMoved x ((r.index + 1) % 2 ^ 32)).onQSlot s.cur.part s.cur.sub
      fun x => { x with pending := none }).launchBoundary s.cur.part s.cur.sub) := by
  unfold exec execCompletionRecordWrite
  simp only [h.part, h.slot, h.pending, Option.bind_some, Option.map_some] <;> rfl

theorem onVf_parts (s : State) (v : Nat) (f : Vf → Vf) : (s.onVf v f).parts = s.parts := rfl

theorem vf_headMoved (w : State) (x : QSlot) (next n : Nat) : ((w.headMoved x next).vf n).pend = (w.vf n).pend
    ∧ ((w.headMoved x next).vf n).tails = (w.vf n).tails := by
  by_cases h : n = x.vf
  · subst h; rw [State.headMoved, vf_onVf]; exact ⟨rfl, rfl⟩
  · unfold State.headMoved State.onVf State.vf
    rw [aget_aset_ne _ _ _ h]
    exact ⟨rfl, rfl⟩

/-- The state as the record has been written. -/
structure Standing (s w : State) (p : Part) (x : QSlot) (next : Nat) : Prop where
  part : aget? w.parts s.cur.part = some { p with qslots := aset p.qslots s.cur.sub { x with pending := none } }
  head : aget (w.vf x.vf).heads 0 x.queue = next
  tails : (w.vf x.vf).tails = (s.vf x.vf).tails
  pend : ∀ n, (w.vf n).pend = (s.vf n).pend

theorem completed_stands (h : Writes s p x r) (next : Nat) :
    Standing s (((s.completed p x r).headMoved x next).onQSlot s.cur.part s.cur.sub fun x => { x with pending := none }) p x next := by
  have hm := completed_memOnly s p x r
  let w := (s.completed p x r).headMoved x next
  have hv (n : Nat) : (w.onQSlot s.cur.part s.cur.sub fun x => { x with pending := none }).vf n = w.vf n := by
    rw [State.vf, State.onQSlot, (Elsewhere.onPart _ _ _).vfs]
    rfl
  have hs (n : Nat) : (s.completed p x r).vf n = s.vf n := by rw [State.vf, State.vf, hm.vfs]
  refine ⟨?_, ?_, ?_, fun n => ?_⟩
  · exact onQSlot_slot (s := w) (by exact (congrArg (aget? · s.cur.part) hm.parts).trans h.part) h.slot _
  · rw [hv]
    simp only [w, State.headMoved, vf_onVf, aget_aset_self]
  · rw [hv, (vf_headMoved _ _ _ _).2, hs]
  · rw [hv, (vf_headMoved _ _ _ _).1, hs]

theorem loseSlot_empty {w : State} (hp : aget? w.parts pn = some p) (hx : aget? p.qslots k = some x)
    (h0 : queueLeft (aget (w.vf x.vf).heads 0 x.queue) (aget (w.vf x.vf).tails 0 x.queue) = 0) :
    (w.loseSlot pn k).vfs = w.vfs ∧ aget? (w.loseSlot pn k).parts pn = some { p with qslots := aerase p.qslots k } := by
  have hm : (w.writeBack p x).parts = w.parts ∧ (w.writeBack p x).vfs = w.vfs := ⟨writeBack_parts w p x, (MemOnly.devPut w p _ 8 _).vfs⟩
  unfold State.loseSlot
  simp only [hp, hx]
  generalize w.writeBack p x = b at hm
  obtain ⟨hbp, hbv⟩ := hm
  have hv (f : Part → Part) (n : Nat) : (b.onPart pn f).vf n = w.vf n := by
    rw [State.vf, (Elsewhere.onPart _ _ _).vfs, hbv]; rfl
  rw [if_pos (by rw [hv, h0])]
  exact ⟨(Elsewhere.onPart _ _ _).vfs.trans hbv, State.onPart_parts (by rw [hbp]; exact hp) _⟩

/-- The slot of a queue at its launch boundary: it goes, or stands. -/
def State.atBoundary (w : State) (pn k : Nat) (x : QSlot) : State :=
  if queueLeft (aget (w.vf x.vf).heads 0 x.queue) (aget (w.vf x.vf).tails 0 x.queue) = 0 then w.loseSlot pn k
  else w.onQSlot pn k fun x => { x with boundary := true }

theorem launchBoundary_eq {w : State} (hp : aget? w.parts pn = some p) (hx : aget? p.qslots k = some x) :
    w.launchBoundary pn k = (w.atBoundary pn k x).serveQueues pn 64 := by
  unfold State.launchBoundary
  simp only [hp, Option.bind_some, hx] <;> rfl

section
variable {w : State} {next : Nat}

theorem Standing.slot (h : Standing s w p x next) : ∃ p1, aget? w.parts s.cur.part = some p1 ∧ p1.prec = p.prec
    ∧ p1.qslots = aset p.qslots s.cur.sub { x with pending := none } := ⟨_, h.part, rfl, rfl⟩

/-- No queue that was not latched is, at the boundary. -/
theorem Standing.served {z : State} {q : Part} (h : Standing s w p x next) (hl : s.firstLatched p = none)
    (hq : aget? z.parts s.cur.part = some q) (hp : q.prec = p.prec) (hv : z.vfs = w.vfs) : z.serveQueues s.cur.part 64 = z := by
  refine serveQueues_idle 64 fun q' hq' => ?_
  cases hq.symm.trans hq'
  rw [firstLatched_congr (s := s) hp fun n => ?_, hl]
  rw [← h.pend n, State.vf, State.vf, hv]

theorem Standing.empty (h : Standing s w p x next) (hl : s.firstLatched p = none)
    (hn : queueLeft next (aget (s.vf x.vf).tails 0 x.queue) = 0) :
    (w.launchBoundary s.cur.part s.cur.sub).vfs = w.vfs
    ∧ (risesFrom none p.qslots = true → (w.launchBoundary s.cur.part s.cur.sub).qslot s.cur.part s.cur.sub = none) := by
  obtain ⟨p1, hp1, hprec, hqs⟩ := h.slot
  have hslot : aget? p1.qslots s.cur.sub = some { x with pending := none } := by rw [hqs, aget?_aset_self]
  have h0 : queueLeft (aget (w.vf x.vf).heads 0 x.queue) (aget (w.vf x.vf).tails 0 x.queue) = 0 := by rw [h.head, h.tails, hn]
  obtain ⟨hzv, hz⟩ := loseSlot_empty hp1 hslot h0
  rw [launchBoundary_eq hp1 hslot, State.atBoundary, if_pos h0, h.served hl hz hprec hzv]
  refine ⟨hzv, fun hr => ?_⟩
  rw [qslot_of hz, hqs]
  exact aget?_aerase_self (risesFrom_aset hr _ rfl) _

theorem Standing.left (h : Standing s w p x next) (hl : s.firstLatched p = none)
    (hn : queueLeft next (aget (s.vf x.vf).tails 0 x.queue) ≠ 0) :
    (w.launchBoundary s.cur.part s.cur.sub).vfs = w.vfs
    ∧ (w.launchBoundary s.cur.part s.cur.sub).qslot s.cur.part s.cur.sub = some { x with pending := none, boundary := true }
    ∧ (w.launchBoundary s.cur.part s.cur.sub).mem = w.mem := by
  obtain ⟨p1, hp1, hprec, hqs⟩ := h.slot
  have hslot : aget? p1.qslots s.cur.sub = some { x with pending := none } := by rw [hqs, aget?_aset_self]
  have h0 : queueLeft (aget (w.vf x.vf).heads 0 x.queue) (aget (w.vf x.vf).tails 0 x.queue) ≠ 0 := by rw [h.head, h.tails]; exact hn
  have hz := onQSlot_slot hp1 hslot fun x => { x with boundary := true }
  have hzv : (w.onQSlot s.cur.part s.cur.sub fun x => { x with boundary := true }).vfs = w.vfs := (Elsewhere.onPart _ _ _).vfs
  rw [launchBoundary_eq hp1 hslot, State.atBoundary, if_neg h0, h.served hl hz hprec hzv]
  exact ⟨hzv, (qslot_of hz).trans (aget?_aset_self _ _ _), onQSlot_mem _ _ _ _⟩

end

theorem completionRecordWrite_waits (h : Writes s p x r) (hf : p.state ≠ .active ∨ p.halt ≠ none ∨ s.recordsFull p x) :
    exec .completionRecordWrite s = .next s := by rw [completionRecordWrite_eq h, if_pos hf]

theorem completionRecordWrite_writes (h : Writes s p x r) (ha : p.state = .active) (hh : p.halt = none) (hf : ¬s.recordsFull p x)
    (hl : s.firstLatched p = none) {next : Nat} (hn : (r.index + 1) % 2 ^ 32 = next) :
    ∃ u, exec .completionRecordWrite s = .next u ∧ aget (u.vf x.vf).heads 0 x.queue = next
      ∧ (queueLeft next (aget (s.vf x.vf).tails 0 x.queue) ≠ 0 →
          u.qslot s.cur.part s.cur.sub = some { x with pending := none, boundary := true } ∧ u.mem = (s.completed p x r).mem)
      ∧ (queueLeft next (aget (s.vf x.vf).tails 0 x.queue) = 0 → risesFrom none p.qslots = true →
          u.qslot s.cur.part s.cur.sub = none) := by
  subst hn
  have hs := completed_stands h ((r.index + 1) % 2 ^ 32)
  refine ⟨_, by rw [completionRecordWrite_eq h, if_neg (by simp [ha, hh, hf])], ?_, fun hne => ?_, fun h0 => (hs.empty hl h0).2⟩
  · rw [State.vf]
    by_cases h0 : queueLeft ((r.index + 1) % 2 ^ 32) (aget (s.vf x.vf).tails 0 x.queue) = 0
    · rw [(hs.empty hl h0).1]; exact hs.head
    · rw [(hs.left hl h0).1]; exact hs.head
  · obtain ⟨_, hslot, hm⟩ := hs.left hl hne
    exact ⟨hslot, hm.trans (onQSlot_mem _ _ _ _)⟩

end

/-- The start of a launch, of `startable` (R89). -/
theorem launchChannelsFree_eq {s : State} {p : Part} {x : QSlot} {kern : Kernel} (hp : aget? s.parts s.cur.part = some p)
    (hx : aget? p.qslots s.cur.sub = some x) (hw : x.waitingLaunch = some kern) (ha : p.state = .active) (hh : p.halt = none) :
    exec .launchChannelsFree s = .next ((s.tryLaunch s.cur.part p s.cur.sub kern).collectImages s.cur.part) := by
  unfold exec execLaunchChannelsFree
  simp only [hp, hx, hw, ha, hh, Option.bind_some, Option.map_some, and_self, if_true]

/-- Settles O55, event by event; a launch starts by what `startKernel` does once its buffers have entries. -/
theorem queueEvents : Obligations.QueueEvents := by
  unfold Obligations.QueueEvents
  intro s p x kern im vf q index n code sub h base val r since killed left pn k slot pending ends waits room
    startable starts
  have hstart (hs : startable) : Startable s pn p kern im := by
    obtain ⟨hi, ht, hnd, hf, ho, hd, ha, hu⟩ := hs
    exact ⟨hi, ht, hnd, hf, ho, hd, ha, hu⟩
  refine ⟨fun hq hp hx => ?_, fun hv hp hd => notifyStarvation_reports hv hp hd, fun hp => ⟨fun ha hh hl hk => ?_, fun hl => ?_⟩,
    fun hp hx hr => ?_, fun hp hx hw ha hh => ?_, fun hp hx hk ha hh => ?_, fun hp hx hr => ?_⟩
  · exact ⟨fun hb => ⟨_, qnotify_counts hq hp hx hb, by rw [State.countQerr, vf_onVf], by rw [State.countQerr, vf_onVf]⟩,
      fun hb => ⟨_, qnotify_takes hq hp hx hb, by rw [vf_onVf], by rw [vf_onVf]⟩⟩
  · exact fun hn => queueSlotGrant_grants hp ha hh hl hk rfl hn
  · exact queueSlotGrant_none hp hl
  · have hat : AtHead s p x index n := ⟨hp, hx, hr⟩
    refine ⟨fun h0 => ⟨fun hz => ?_, fun hc => ?_, fun hc => ⟨fun hw => ?_, fun hw hs => ?_, fun hw hi ht hf => ?_⟩⟩,
      fun h3 => launch_unknown hat h3, fun h1 => ⟨fun hz => ?_, fun hz => ⟨fun hr => ?_, fun hr hc => ?_, fun hr hc => ?_⟩⟩,
      fun h2 => ⟨fun hz => ?_, fun hz => ⟨fun hi => ?_, fun hi hr hrise => ?_⟩⟩⟩
    · exact launch_refused hat h0 (checkLaunch_reserved hz)
    · exact launch_refused hat h0 hc
    · obtain ⟨hm, hs⟩ := tryLaunch_waits hp hx hw
      exact ⟨_, by rw [launch_eq hat, if_pos h0, hc], hm, hs⟩
    · obtain ⟨hq, hroot⟩ := tryLaunch_starts hp hx hw (hstart hs)
      exact ⟨_, by rw [launch_eq hat, if_pos h0, hc], hq, hroot⟩
    · exact endRecord_ends hp hx (by rw [launch_eq hat, if_pos h0, hc]; exact congrArg _ (tryLaunch_full hw hi ht hf))
    · exact registerImage_refused hat h1 hz
    · exact registerImage_error hat h1 hz fun _ => register_full hr
    · exact registerImage_error hat h1 hz fun _ => register_illegal hr hc
    · exact registerImage_registers hat h1 hz rfl rfl hr hc rfl
    · exact releaseImage_reserved hat h2 hz
    · exact releaseImage_unknown hat h2 hz hi
    · obtain ⟨u, hu, hm, hq, h1, h2⟩ := releaseImage_releases hat h2 hz rfl hi hr hrise
      exact ⟨⟨u, hu, hm, hq⟩, u, hu, h1, h2⟩
  · refine ⟨fun hl => ?_, fun hl hs => ?_⟩
    · obtain ⟨hm, hs⟩ := tryLaunch_waits hp hx hl
      exact ⟨_, launchChannelsFree_eq hp hx hw ha hh, (Elsewhere.onPart _ _ _).mem.trans hm, (collectImages_qslot _ _ _).trans hs⟩
    · obtain ⟨hq, hroot⟩ := tryLaunch_starts hp hx hl (hstart hs)
      refine ⟨_, launchChannelsFree_eq hp hx hw ha hh, (collectImages_qslot _ _ _).trans hq, fun rank t ht => ?_⟩
      have := hroot rank t ht
      unfold RootOn at this
      rwa [State.tile, show (State.collectImages (s.tryLaunch s.cur.part p s.cur.sub kern) s.cur.part).tiles = _
        from (Elsewhere.onPart _ _ _).tiles]
  · have hruns : Runs s p x kern := ⟨hp, hx, hk, ha, hh⟩
    refine ⟨fun hr => ⟨fun hc => kernelRetire_stops hruns hr hc, fun hc => kernelRetire_early hruns hr hc⟩,
      fun hr => ⟨fun ht => kernelRetire_awaits hruns hr ht, fun ht hb => ?_⟩⟩
    obtain ⟨u, hu, hq, hc⟩ := kernelRetire_retires hruns hr ht hb
    exact ⟨u, hu, hq, fun t ht => ⟨(hc t ht).chans, (hc t ht).rings, (hc t ht).bars⟩⟩
  · have hwr : Writes s p x r := ⟨hp, hx, hr⟩
    exact ⟨fun hf => completionRecordWrite_waits hwr hf, fun ha hh hf hl => completionRecordWrite_writes hwr ha hh hf hl rfl⟩

end Sys2Proof.Machine
end

section
/-!
PROOFS. Requests of a partition supervisor: a program that STW.INSTALL does not install.
-/

namespace Sys2Proof.Machine

/-! ## A partition that stands twice

The statement asks nothing of the list of partitions. Here partition 0 stands in it twice: first evicted, with a request to install
image 1, then active, holding tile 0 and without a resident program. The request is that of the first entry, the steward of tile 0
loads the program of the second. -/

/-- STW.INSTALL of image 1. -/
def installRequest : Packet :=
  ⟨0, 0, ⟨0, 0⟩, .fabric, ⟨0, 0⟩, 0, 0, 24, .mgmt 11 0 true [1] none 0 0, none, false, none⟩

/-- An image with a steward section. -/
def stewardImage : Image := { fetchImage with stwLen := 12 }

/-- The entry whose request the management agent serves. -/
def installPart : Part :=
  { fetchPart with
    state := .evicted, qslots := [], images := [(1, stewardImage)], supv := { fetchPart.supv with requests := [installRequest] } }

/-- The entry that holds tile 0. -/
def holdingPart : Part := { fetchPart with qslots := [] }

def installState : State := { State.reset with parts := [(0, installPart), (0, holdingPart)] }

/-- What the steward of tile 0 runs after an outcome. -/
def stewardRuns (o : Host.Outcome State Fault Refusal) : Option Prog := match o with
  | .next u => some (u.tile 0).stw.prog
  | _ => none

theorem installState_loads : stewardRuns (exec .stwInstall installState) = some .builtin := by decide +kernel

/-- Refutes O56: of a partition that stands twice, the steward of a tile loads the program of the entry that holds the tile. -/
theorem not_supervisorRequests : ¬ Obligations.SupervisorRequests := by
  intro h
  obtain ⟨-, hops, -⟩ := h installState installPart installRequest [] 11 0 0 0 true [1] none farCap .tile 0 stewardImage fetchKernel
    fetchRecord 0 0 rfl rfl rfl
  obtain ⟨-, -, -, -, -, -, -, -, -, hinst, -⟩ := hops rfl rfl
  obtain ⟨u, m, hu, -, -, -, -, hprog⟩ := (hinst rfl).2 (by decide) rfl rfl (by decide)
  have hruns := installState_loads
  rw [hu] at hruns
  have hloaded : (u.tile 0).stw.prog = .resident 1 := hprog 0 (by decide) (fun _ => Prog.noConfusion) (by decide) (by decide)
  exact absurd ((congrArg some hloaded).symm.trans hruns) (by decide)

end Sys2Proof.Machine
end

section
/-!
PROOFS. Reduction slots (R410 to R419).
-/

namespace Sys2Proof.Machine

section
variable {s u : State} {p : Packet} {i k : Nat} {r : RedSlot}

/-! ## Slots and what time does to them -/

theorem redSlot_setRed (s : State) (k : Nat) (h : r.state ≠ .free) : (s.setRed k r).redSlot k = r := by
  simp only [State.redSlot, State.setRed, if_neg h, aget_aset_self]

theorem redSlot_zeroed (h : risesFrom none s.fabric.slots = true) (k : Nat) : (s.setRed k .zero).redSlot k = .zero := by
  have : (RedSlot.zero).state = .free := rfl
  simp only [State.redSlot, State.setRed, this, if_true, aget, aget?_aerase_self h, Option.getD_none]

/-- Neither the deadline of a slot nor its end has come. -/
structure Timely (s : State) (k : Nat) : Prop where
  opened : (s.redSlot k).state = .opened → s.window < (s.redSlot k).deadline
  done : (s.redSlot k).state = .done → s.window < (s.redSlot k).doneWindow + 256

theorem slotDeadline_early (h : (s.redSlot k).state = .opened → s.window < (s.redSlot k).deadline) : s.slotDeadline k = s := by
  unfold State.slotDeadline
  exact if_neg fun hc => absurd (h hc.1) (Nat.not_lt.mpr hc.2)

theorem slotExpire_early (h : (s.redSlot k).state = .done → s.window < (s.redSlot k).doneWindow + 256) : s.slotExpire k = s := by
  unfold State.slotExpire
  exact if_neg fun hc => absurd (h hc.1) (Nat.not_lt.mpr hc.2)

theorem slotDue_idle (h : Timely s k) : s.slotDue k = s := by
  rw [State.slotDue, slotDeadline_early h.opened, slotExpire_early h.done]

theorem slotsDue_idle (h : ∀ k < 64, Timely s k) : (upto 64).foldl State.slotDue s = s := by
  have hl (l : List Nat) : (∀ k ∈ l, k < 64) → l.foldl State.slotDue s = s := by
    induction l with
    | nil => exact fun _ => rfl
    | cons k l ih =>
      intro hk
      rw [List.foldl_cons, slotDue_idle (h k (hk k List.mem_cons_self))]
      exact ih fun j hj => hk j (List.mem_cons_of_mem _ hj)
  exact hl _ fun k hk => List.mem_range.mp hk

/-! ## A slot that is opened (R416) -/

/-- A slot that a partition number may take (R410). -/
def State.mayTake (s : State) (pn i : Nat) : Prop := (s.redSlot i).state = .free ∧ (i / 4 = pn ∨ s.liveNumber (i / 4) = false)

/-- The test of R410 for it. -/
theorem mayTake_iff (s : State) (pn i : Nat) :
    ((s.redSlot i).state == .free && (i / 4 == pn || !s.liveNumber (i / 4))) = true ↔ s.mayTake pn i := by
  simp [State.mayTake]

theorem freeSlotFor_lowest {pn : Nat} (hi : i < 64) (h : s.mayTake pn i) (hlow : ∀ k < i, ¬s.mayTake pn k) : s.freeSlotFor pn = some i := by
  unfold State.freeSlotFor upto
  rw [List.find?_range_eq_some]
  refine ⟨(mayTake_iff s pn i).mpr h, List.mem_range.mpr hi, fun j hj => ?_⟩
  have := mt (mayTake_iff s pn j).mp (hlow j hj)
  rw [Bool.not_eq_true] at this
  rw [this, Bool.not_false]

theorem freeSlotFor_none {pn : Nat} (h : ∀ k < 64, ¬s.mayTake pn k) : s.freeSlotFor pn = none := by
  unfold State.freeSlotFor upto
  rw [List.find?_eq_none]
  exact fun k hk => mt (mayTake_iff s pn k).mp (h k (List.mem_range.mp hk))

/-- A packet of the fabric interface to a place on this chip. -/
theorem send_here {vn part kslot len : Nat} {src dst : Place} {unit : Agent} {b : Body} (h : dst.chip = s.chip) :
    ∃ m, s.send vn part src unit dst kslot len b = { s with net := s.net ++ [m] } ∧ m.dst = dst ∧ m.body = b :=
  ⟨⟨vn, part, src, unit, dst, kslot, s.dueAt src dst len, len, b, none, false, none⟩, if_pos h, rfl, rfl⟩

/-- A handle without its generation. -/
theorem handle_low (n : Nat) (g : BitVec 16) : (word (n + g.toNat * 2 ^ 48)).toNat % 2 ^ 48 = n % 2 ^ 48 := by
  simp only [word, BitVec.toNat_ofNat]
  omega

section
variable {op fmt count dl : Nat} {ret : LandAt}

theorem collopenRequest_opens (hin : s.incoming = some p) (hb : p.body = .collOpen op fmt count dl ret) (hret : ret.place.chip = s.chip)
    (hidle : ∀ k < 64, Timely s k) (hi : i < 64) (hm : s.mayTake p.part i) (hlow : ∀ k < i, ¬s.mayTake p.part k) :
    ∃ u m, exec .collopenRequest s = .next u
      ∧ (u.redSlot i).state = .opened ∧ (u.redSlot i).part = p.part ∧ (u.redSlot i).op = op ∧ (u.redSlot i).fmt = fmt
      ∧ (u.redSlot i).count = count ∧ (u.redSlot i).deadline = s.window + dl ∧ (u.redSlot i).present = 0
      ∧ (u.redSlot i).handle.toNat % 2 ^ 48 = (i + s.chip * 2 ^ 12 + count * 2 ^ 33 + fmt * 2 ^ 40 + op * 2 ^ 44) % 2 ^ 48
      ∧ u.net = s.net.eraseIdx s.cur.sub ++ [m] ∧ m.dst = ret.place
      ∧ m.body = .land ret.reg [(u.redSlot i).handle, word cOk] := by
  let h := word (i + s.chip * 2 ^ 12 + count * 2 ^ 33 + fmt * 2 ^ 40 + op * 2 ^ 44 + (Config.freeGen s.free).toNat * 2 ^ 48)
  let r : RedSlot :=
    { RedSlot.zero with
      state := .opened, part := p.part, handle := h, op := op, fmt := fmt, count := count, deadline := s.window + dl }
  let v := (s.taken.draw 1).setRed i r
  obtain ⟨m, hs, hd, hmb⟩ := send_here (s := v) (vn := 1) (part := p.part) (src := ⟨s.chip, fabricTile⟩) (unit := .fabric) (kslot := p.kslot)
    (len := 32) (b := .land ret.reg [h, collStatus cOk 0 0 none]) hret
  have hr : v.redSlot i = r := redSlot_setRed _ _ nofun
  refine ⟨{ v with net := v.net ++ [m] }, m, ?_, ?_⟩
  · unfold exec execCollopenRequest
    refine arrival_applies hin ?_
    have hfree : s.taken.freeSlotFor p.part = some i := freeSlotFor_lowest (s := s.taken) hi hm hlow
    have hdue : (upto 64).foldl State.slotDue s.taken = s.taken := slotsDue_idle fun k hk => ⟨(hidle k hk).opened, (hidle k hk).done⟩
    simp only [hb, hdue, hfree]
    exact congrArg (some ∘ some) hs
  · have hu : ({ v with net := v.net ++ [m] } : State).redSlot i = r := hr
    rw [hu]
    exact ⟨rfl, rfl, rfl, rfl, rfl, rfl, rfl, handle_low _ _, rfl, hd, hmb.trans (by simp [collStatus, h, r])⟩

theorem collopenRequest_refused (hin : s.incoming = some p) (hb : p.body = .collOpen op fmt count dl ret) (hret : ret.place.chip = s.chip)
    (hidle : ∀ k < 64, Timely s k) (hnone : ∀ k < 64, ¬s.mayTake p.part k) :
    ∃ u m, exec .collopenRequest s = .next u ∧ u.fabric = s.fabric
      ∧ u.net = s.net.eraseIdx s.cur.sub ++ [m] ∧ m.dst = ret.place
      ∧ m.body = .land ret.reg [0, word (cRefused + 3 * 2 ^ 8)] := by
  obtain ⟨m, hs, hd, hmb⟩ := send_here (s := s.taken) (vn := 1) (part := p.part) (src := ⟨s.chip, fabricTile⟩) (unit := .fabric)
    (kslot := p.kslot) (len := 32) (b := .land ret.reg [0, collStatus cRefused 3 0 none]) hret
  refine ⟨{ s.taken with net := s.taken.net ++ [m] }, m, ?_, rfl, rfl, hd, hmb.trans (by simp [collStatus])⟩
  unfold exec execCollopenRequest
  refine arrival_applies hin ?_
  have hfree : s.taken.freeSlotFor p.part = none := freeSlotFor_none (s := s.taken) hnone
  have hdue : (upto 64).foldl State.slotDue s.taken = s.taken := slotsDue_idle fun k hk => ⟨(hidle k hk).opened, (hidle k hk).done⟩
  simp only [hb, hdue, hfree]
  exact congrArg (some ∘ some) hs

end

/-! ## Contributions (R412 to R414) -/

section
variable {h v : Word} {dest : RecordDest} {vf : Nat}

/-- A contribution to a slot whose time has not come. -/
structure Contributes (s : State) (p : Packet) (h : Word) (i : Nat) (v : Word) (dest : RecordDest) (vf k : Nat) (r : RedSlot) : Prop where
  incoming : s.incoming = some p
  body : p.body = .contrib h i v dest vf
  slot : k = handleSlot h.toNat
  stands : r = s.redSlot k
  handle : r.handle = h
  timely : Timely s k

theorem contributionArrival_eq (hc : Contributes s p h i v dest vf k r) :
    exec .contributionArrival s = .next (s.taken.contribute p h i v dest) := by
  unfold exec execContributionArrival
  exact arrival_applies hc.incoming (by simp only [hc.body])

theorem Contributes.due (hc : Contributes s p h i v dest vf k r) : s.taken.slotDue k = s.taken :=
  slotDue_idle ⟨hc.timely.opened, hc.timely.done⟩

theorem Contributes.redSlot (hc : Contributes s p h i v dest vf k r) : s.taken.redSlot k = r := hc.stands.symm

/-- An open slot that expects the contribution of a party. -/
theorem contribute_open (hc : Contributes s p h i v dest vf k r) (ho : r.state = .opened) (hi : i < r.count) :
    s.taken.contribute p h i v dest = if bit r.present i then s.taken.logSlot r.part p k v
      else
        let r := r.fold i v dest p.src
        if maskCount r.present = r.count then s.taken.completeSlot k r (r.value 0) r.present r.doneCode s.window false
        else s.taken.setRed k r := by
  unfold State.contribute
  rw [← hc.slot]
  simp only [hc.due, hc.redSlot, hc.handle, ne_eq, not_true, if_false, ho, if_neg (Nat.not_le.mpr hi)] <;> rfl

theorem contributionArrival_again (hc : Contributes s p h i v dest vf k r) (ho : r.state = .opened) (hi : i < r.count)
    (hb : bit r.present i = true) :
    ∃ u, exec .contributionArrival s = .next u ∧ u.redSlot k = r ∧ u.net = s.net.eraseIdx s.cur.sub := by
  have hf : Filed s.taken (s.taken.logSlot r.part p k v) := Filed.logFault _ _ _ _
  refine ⟨_, by rw [contributionArrival_eq hc, contribute_open hc ho hi, if_pos hb], ?_, hf.net⟩
  rw [State.redSlot, hf.fabric]
  exact hc.redSlot

theorem contributionArrival_folds (hc : Contributes s p h i v dest vf k r) (ho : r.state = .opened) (hi : i < r.count)
    (hb : bit r.present i = false) (hn : maskCount (r.fold i v dest p.src).present ≠ r.count) :
    ∃ u, exec .contributionArrival s = .next u ∧ u.redSlot k = r.fold i v dest p.src ∧ u.net = s.net.eraseIdx s.cur.sub := by
  refine ⟨s.taken.setRed k (r.fold i v dest p.src), ?_, redSlot_setRed _ _ (by rw [show (r.fold i v dest p.src).state = r.state from rfl, ho]; nofun), rfl⟩
  rw [contributionArrival_eq hc, contribute_open hc ho hi, if_neg (by rw [hb]; nofun)]
  dsimp only
  rw [if_neg (show ¬maskCount (r.fold i v dest p.src).present = (r.fold i v dest p.src).count from hn)]

/-- The slot of a completion; the records leave it alone. -/
theorem completeSlot_slot (s : State) (k : Nat) (r : RedSlot) (v : Word) (mask code window : Nat) (hc : r.closing = false) :
    (s.completeSlot k r v mask code window false).redSlot k = { r with
      state := .done, doneWindow := window, present := mask, record := some (v, collStatus code 0 (maskCount mask) r.nanidx, word mask) } := by
  have hpkt (w : State) (p : Packet) : (w.sendPkt p).redSlot k = w.redSlot k := by
    unfold State.sendPkt
    split <;> rfl
  have hsend (w : State) (d : Nat × RecordDest × Place) (c : Prop) [Decidable c] :
      (if c then w.sendRecord r.part d.2.1 v (collStatus code 0 (maskCount mask) r.nanidx) (word mask) r.handle d.1 else w).redSlot k = w.redSlot k := by
    split
    · exact hpkt _ _
    · rfl
  have hfold (l : List (Nat × RecordDest × Place)) : ∀ w : State, (l.foldl (fun s d =>
      if bit mask d.1 then s.sendRecord r.part d.2.1 v (collStatus code 0 (maskCount mask) r.nanidx) (word mask) r.handle d.1 else s) w).redSlot k
        = w.redSlot k := by
    induction l with
    | nil => exact fun _ => rfl
    | cons d l ih => exact fun w => (ih _).trans (hsend w d _)
  unfold State.completeSlot
  dsimp only
  rw [hfold, hc, redSlot_setRed s k (by exact nofun)]
  rfl

theorem contributionArrival_completes (hc : Contributes s p h i v dest vf k r) (ho : r.state = .opened) (hi : i < r.count)
    (hb : bit r.present i = false) {r' : RedSlot} (hr : r' = r.fold i v dest p.src) (hn : maskCount r'.present = r.count)
    (hcl : r.closing = false) :
    ∃ u, exec .contributionArrival s = .next u ∧ (u.redSlot k).state = .done ∧ (u.redSlot k).doneWindow = s.window
      ∧ (u.redSlot k).record = some (r'.value 0, collStatus r'.doneCode 0 r.count r'.nanidx, word r'.present) := by
  subst hr
  refine ⟨s.taken.completeSlot k (r.fold i v dest p.src) ((r.fold i v dest p.src).value 0) (r.fold i v dest p.src).present
    (r.fold i v dest p.src).doneCode s.window false, ?_, ?_⟩
  · rw [contributionArrival_eq hc, contribute_open hc ho hi, if_neg (by rw [hb]; nofun)]
    dsimp only
    rw [if_pos (show maskCount (r.fold i v dest p.src).present = (r.fold i v dest p.src).count from hn)]
  · rw [completeSlot_slot _ _ _ _ _ _ _ (show (r.fold i v dest p.src).closing = false from hcl), hn]
    exact ⟨rfl, rfl, rfl⟩

theorem contributionArrival_late (hc : Contributes s p h i v dest vf k r) (hd : r.state = .done) {x st m : Word}
    (hr : r.record = some (x, st, m)) {l : LandAt} (hl : dest = .land l) (hchip : l.place.chip = s.chip) :
    ∃ u q, exec .contributionArrival s = .next u ∧ u.redSlot k = r ∧ u.net = s.net.eraseIdx s.cur.sub ++ [q]
      ∧ q.dst = l.place ∧ q.body = .collRecord dest x (collStatus cLate 0 (maskCount m.toNat) r.nanidx) m h i := by
  subst hl
  obtain ⟨q, hs, hdst, hbody⟩ := send_here (s := s.taken) (vn := 1) (part := s.taken.slotPart p k) (src := ⟨s.chip, fabricTile⟩)
    (unit := .fabric) (kslot := 0) (len := 40) (b := .collRecord (.land l) x (collStatus cLate 0 (maskCount m.toNat) r.nanidx) m h i) hchip
  refine ⟨{ s.taken with net := s.taken.net ++ [q] }, q, ?_, hc.redSlot, rfl, hdst, hbody⟩
  rw [contributionArrival_eq hc]
  unfold State.contribute
  rw [← hc.slot]
  simp only [hc.due, hc.redSlot, hc.handle, ne_eq, not_true, if_false, hd, hr]
  exact congrArg _ hs

end

/-! ## Closing, deadlines, expiry (R410, R414, R419) -/

/-- A close by the partition that opened the slot. -/
theorem collcloseArrival_eq {h : Word} (hin : s.incoming = some p) (hb : p.body = .collClose h) (hk : k = handleSlot h.toNat)
    (hr : r = s.redSlot k) (hh : r.handle = h) (hp : r.part = p.part) (ht : Timely s k) :
    exec .collcloseArrival s = .next (match r.state with
      | .done => s.taken.setRed k .zero
      | .opened => s.taken.setRed k { r with closing := true }
      | .free => s.taken.logSlot (s.taken.slotPart p k) p k h) := by
  unfold exec execCollcloseArrival
  refine arrival_applies hin ?_
  have hdue : s.taken.slotDue k = s.taken := slotDue_idle ⟨ht.opened, ht.done⟩
  have hslot : s.taken.redSlot k = r := hr.symm
  simp only [hb, ← hk, hdue, hslot, hh, hp, and_self, if_true] <;> rfl

theorem slotDeadline_times (ho : (s.redSlot k).state = .opened) (hd : (s.redSlot k).deadline ≤ s.window) (hc : (s.redSlot k).closing = false) :
    (s.slotDeadline k).redSlot k = { s.redSlot k with
      state := .done, doneWindow := (s.redSlot k).deadline
      record := some ((s.redSlot k).value s.free, collStatus cTimeout 0 (maskCount (s.redSlot k).present) (s.redSlot k).nanidx,
        word (s.redSlot k).present) } := by
  unfold State.slotDeadline
  dsimp only
  rw [if_pos ⟨ho, hd⟩]
  exact completeSlot_slot (s.draw 1) k (s.redSlot k) _ _ _ _ hc

end

/-- Settles O60: before its deadline, or its 256 windows, time changes nothing of a slot, and each event does its one thing. -/
theorem collectiveSlots : Obligations.CollectiveSlots := by
  unfold Obligations.CollectiveSlots
  intro s p op fmt count dl i k ret h v dest vf r j mayTake idle
  refine ⟨fun hin hb hret hidle => ?_, fun hin hb hk hr hh => ?_, fun hin hb hk hr hh hp hrise => ?_, fun hr ho => ?_, fun hr hd hrise => ?_⟩
  · have hs : ∀ k < 64, Timely s k := fun k hk => ⟨(hidle k hk).1, (hidle k hk).2⟩
    exact ⟨fun hi hm hlow => collopenRequest_opens hin hb hret hs hi hm hlow, fun hn => collopenRequest_refused hin hb hret hs hn⟩
  · refine ⟨fun ho ht hi => ?_, fun x st m hd hrec ht l hl hchip => ?_⟩
    · have hc : Contributes s p h i v dest vf k r := ⟨hin, hb, hk, hr, hh, hr ▸ fun _ => ht, by rw [← hr, ho]; nofun⟩
      exact ⟨fun hb => ⟨rfl, fun hn => contributionArrival_folds hc ho hi hb hn,
        fun hn hcl => contributionArrival_completes hc ho hi hb rfl hn hcl⟩, fun hb => contributionArrival_again hc ho hi hb⟩
    · have hc : Contributes s p h i v dest vf k r := ⟨hin, hb, hk, hr, hh, by rw [← hr, hd]; nofun, hr ▸ fun _ => ht⟩
      exact contributionArrival_late hc hd hrec hl hchip
  · refine ⟨fun hd ht => ?_, fun ho ht => ?_⟩
    · have ht' : Timely s k := ⟨by rw [← hr, hd]; nofun, hr ▸ fun _ => ht⟩
      exact ⟨s.taken.setRed k .zero, by rw [collcloseArrival_eq hin hb hk hr hh hp ht', hd], redSlot_zeroed (s := s.taken) hrise k⟩
    · have ht' : Timely s k := ⟨hr ▸ fun _ => ht, by rw [← hr, ho]; nofun⟩
      exact ⟨s.taken.setRed k { r with closing := true }, by rw [collcloseArrival_eq hin hb hk hr hh hp ht', ho],
        redSlot_setRed s.taken k (by rw [ho]; nofun)⟩
  · subst hr
    refine ⟨fun ht => congrArg _ (slotDeadline_early fun _ => ht), fun ht hc => ⟨_, rfl, ?_⟩⟩
    rw [slotDeadline_times ho ht hc]
    exact ⟨rfl, rfl, rfl⟩
  · subst hr
    refine ⟨fun ht => ⟨s.setRed j .zero, ?_, redSlot_zeroed hrise j⟩, fun ht => congrArg _ (slotExpire_early fun _ => ht)⟩
    exact congrArg _ (if_pos ⟨hd, ht⟩)

end Sys2Proof.Machine
end

section
/-!
PROOFS. Element-wise vector instructions (R213, R214, R218, R220, R226 to R229).
-/

namespace Sys2Proof.Machine

section
variable {s : State} {w : Who} {h : Hint}

/-- A binary instruction, named by its frame, comes to its element function in ordinal order. -/
theorem binary_streams {i : Instr} {dt at' bt : Ty} {readsD : Bool} {d a : Vreg} {b : Src} {f : Mode → Nat → Nat → Nat → Res}
    {vd va : BoundView} (he : exec i s = binary h dt at' bt readsD d a b f s) (hi : Issues s h w) (hs : StreamReady s)
    (hd : bindView s w d true = .ok vd) (ha : bindView s w a false = .ok va) :
    ∀ vb fb es, bindSrc s w b bt (s.mode h) h.sat = .ok (vb, fb) →
      matchedInto s vd.view ((va :: viewsOf [vb]).map (·.view)) = .ok es →
      Admitted s w vd dt .write (indexOf es) (elements es) → Admitted s w va at' .read (indexOf es) (elements es) →
      (∀ x, vb = .view x → Admitted s w x bt .read (indexOf es) (elements es)) →
      (readsD = true → Admitted s w vd dt .read (indexOf es) (elements es)) →
      ∃ u, exec i s = .next u ∧ Streamed s u h ((s.setFlags fb).inOrder (elements es) fun k q =>
          let x := q.elemValue va at' (indexOf es k)
          let y := q.srcValue vb bt (indexOf es k)
          let z := if readsD then (q.elemValue vd dt (indexOf es k)).1 else 0
          q.putResult vd dt (indexOf es k) (f (s.mode h) x.1 y.1 z) (x.2 ||| y.2))
        (captured (vd :: va :: viewsOf [vb])) := by
  intro vb fb es hb hm ad aa ab adr
  rw [he]
  exact binary_ok hi hs hd ha hb hm ad aa ab adr

/-- A unary instruction, named by its frame, comes to its element function in ordinal order. -/
theorem unary_streams {i : Instr} {t at' : Ty} {d a : Vreg} {f : Mode → Nat → Res} {vd va : BoundView} {es : List Nat}
    (he : exec i s = unary h t at' d a f s) (hi : Issues s h w) (hs : StreamReady s)
    (hd : bindView s w d true = .ok vd) (ha : bindView s w a false = .ok va)
    (hm : matchedInto s vd.view [va.view] = .ok es) (ad : Admitted s w vd t .write (indexOf es) (elements es)) :
    Admitted s w va at' .read (indexOf es) (elements es) →
      ∃ u, exec i s = .next u ∧ Streamed s u h (s.inOrder (elements es) fun k q =>
          let x := q.elemValue va at' (indexOf es k)
          q.putResult vd t (indexOf es k) (f (s.mode h) x.1) x.2)
        (captured [vd, va]) := by
  intro aa
  rw [he]
  exact unary_ok hi hs hd ha hm ad aa

end

/-- Settles O28: each instruction is its frame with its element function, and the frames of binary and unary instructions
walk the elements in ordinal order. -/
theorem vectorElementwise : Obligations.VectorElementwise := by
  unfold Obligations.VectorElementwise
  refine ⟨?_, ?_⟩
  · intro s w h t d a b' b b'' cond vd va hi hs hd ha
    exact ⟨(binary_streams (exec_vadd s h t d a b) hi hs hd ha :), (binary_streams (exec_vsub s h t d a b) hi hs hd ha :),
      (binary_streams (exec_vmul s h t d a b) hi hs hd ha :), (binary_streams (exec_vfma s h t d a b) hi hs hd ha :),
      (binary_streams (exec_vmin s h t d a b) hi hs hd ha :), (binary_streams (exec_vmax s h t d a b) hi hs hd ha :),
      (binary_streams (exec_vcmul s h d a b'') hi hs hd ha :), (binary_streams (exec_vcmp s h t cond d a b) hi hs hd ha :),
      (binary_streams (exec_vscale s h t d a b') hi hs hd ha :), (binary_streams (exec_vquant s h t d a b') hi hs hd ha :),
      (binary_streams (exec_vand s h t d a b) hi hs hd ha :), (binary_streams (exec_vor s h t d a b) hi hs hd ha :),
      (binary_streams (exec_vxor s h t d a b) hi hs hd ha :), (binary_streams (exec_vshl s h t d a b) hi hs hd ha :),
      (binary_streams (exec_vshr s h t d a b) hi hs hd ha :), (binary_streams (exec_vsra s h t d a b) hi hs hd ha :),
      (binary_streams (exec_vfns s h t d a b) hi hs hd ha :)⟩
  · intro s w h t d a b vd va es hi hs hd ha hm ad
    exact ⟨(unary_streams (exec_vabs s h t d a) hi hs hd ha hm ad :), (unary_streams (exec_vneg s h t d a) hi hs hd ha hm ad :),
      (unary_streams (exec_vcopy s h t d a) hi hs hd ha hm ad :), (unary_streams (exec_vnot s h t d a) hi hs hd ha hm ad :),
      (unary_streams (exec_vpopc s h t d a) hi hs hd ha hm ad :), (unary_streams (exec_vclz s h t d a) hi hs hd ha hm ad :),
      (unary_streams (exec_vctz s h t d a) hi hs hd ha hm ad :), (unary_streams (exec_vbrev s h t d a) hi hs hd ha hm ad :),
      (unary_streams (exec_vrcp s h t d a) hi hs hd ha hm ad :), (unary_streams (exec_vrsq s h t d a) hi hs hd ha hm ad :),
      (unary_streams (exec_vsqrt s h t d a) hi hs hd ha hm ad :), (unary_streams (exec_vexp2 s h t d a) hi hs hd ha hm ad :),
      (unary_streams (exec_vlog2 s h t d a) hi hs hd ha hm ad :), (unary_streams (exec_vsin s h t d a) hi hs hd ha hm ad :),
      (unary_streams (exec_vcos s h t d a) hi hs hd ha hm ad :),
      fun src hsrc hall => (unary_streams (exec_vcvt s h t d a b hsrc hall) hi hs hd ha hm ad :)⟩

end Sys2Proof.Machine
end

section
/-!
PROOFS. VFILL, VIDX, VSEL, VTRANS and VBFLY (R215, R219 to R222).
-/

namespace Sys2Proof.Machine

section
variable {s v u : State} {w : Who} {h : Hint} {t : Ty} {d a b : Vreg} {vd va vm : BoundView} {es : List Nat}

/-- An element's write that is checked and not performed. -/
theorem elemCheck_only {bv : BoundView} {acc : Access} {at' : Nat → List Nat} {n k : Nat}
    (ha : Admitted s w bv t acc at' n) (hk : k < n) (hu : Steady s v) (hf : Fetched v u) (ord : Nat) :
    ∃ q x, u.elemCheck w bv (elemOf bv t (at' k)) acc ord = .ok (q, x) ∧ Fetched v q := by
  obtain ⟨c, q, -, -, hq, he⟩ := elemCheck_ok ha hk hu hf ord
  exact ⟨q, _, he, hq⟩

/-- One element of VSEL (R219). -/
def selElem (vx : VSrc) (vd vm : BoundView) (t : Ty) (es : List Nat) (k : Nat) (q : State) : State :=
  let e := q.srcValue vx t (indexOf es k)
  if (q.elemValue vm .u8 (indexOf es k)).1 = 0 then q else q.putResult vd t (indexOf es k) ⟨e.1, 0⟩ e.2

theorem Steady.selElem (vx : VSrc) (vd vm : BoundView) (t : Ty) (es : List Nat) (k : Nat) (q : State) :
    Steady q (selElem vx vd vm t es k q) := by
  unfold Machine.selElem
  dsimp only
  split
  · exact .refl q
  · exact .putResult _ _ _ _ _ _

/-- A scalar's flags leave no resume point. -/
theorem resume_setFlags (hs : StreamReady s) (f : Flags) : (s.setFlags f).regs.resume = .none := by
  have := hs.resume
  simpa [State.setFlags_eq, State.regs, Regs.setFlags] using this

/-- VSEL writes the source where the mask is not zero (R219). -/
theorem vsel_streams {x : Src} {vx : VSrc} {fx : Flags} (hi : Issues s h w) (hs : StreamReady s)
    (hd : bindView s w d true = .ok vd) (hx : bindSrc s w x t (s.mode h) false = .ok (vx, fx))
    (hb : bindView s w b false = .ok vm) (hm : matchedInto s vd.view ((vm :: viewsOf [vx]).map (·.view)) = .ok es)
    (ad : Admitted s w vd t .write (indexOf es) (elements es)) (am : Admitted s w vm .u8 .read (indexOf es) (elements es))
    (ax : ∀ y, vx = .view y → Admitted s w y t .read (indexOf es) (elements es)) :
    ∃ q, exec (.vsel h t d x b) s = .next q
      ∧ Streamed s q h ((s.setFlags fx).inOrder (elements es) (selElem vx vd vm t es)) (captured (vd :: vm :: viewsOf [vx])) := by
  have hv := Steady.setFlags s fx
  have hgs := Steady.selElem vx vd vm t es
  obtain ⟨q, hq, hf⟩ := stream_ok (s := s.setFlags fx) (es := es) (lanes := min t.lanes Ty.u8.lanes)
    (f := fun k s => do
      let idx := indexOf es k
      let (s, x, fx) ← s.readSrc w vx t idx k
      let (s, c, _) ← s.readElem w vm .u8 idx k
      if c = 0 then
        let (s, _, _, _) ← s.elemCheck w vd (elemOf vd t idx) .write k
        .ok s
      else s.element w vd t idx k ⟨x, 0⟩ fx)
    (resume_setFlags hs fx) hs.quota hs.lanes hgs
    (by
      intro k p u hk hp hf
      have hp' := hv.trans hp
      obtain ⟨u1, e1, f1⟩ := readSrc_ok hs ax hk hp' hf k
      obtain ⟨u2, e2, f2⟩ := readElem_ok hs am hk hp' f1 k
      simp only [e1, e2, bind, Except.bind, selElem]
      by_cases hc : (p.elemValue vm .u8 (indexOf es k)).1 = 0
      · obtain ⟨u3, y, e3, f3⟩ := elemCheck_only ad hk hp' f2 k
        exact ⟨u3, by simp only [if_pos hc, e3], by rw [if_pos hc]; exact f3⟩
      · obtain ⟨u3, e3, f3⟩ := element_ok hs ad hk hp' f2 ⟨(p.srcValue vx t (indexOf es k)).1, 0⟩ (p.srcValue vx t (indexOf es k)).2 k
        exact ⟨u3, by simp only [if_neg hc, e3], by rw [if_neg hc]; exact f3⟩)
  refine issueVector_ok hi hs.free ?_ (hv.trans (Steady.inOrder hgs _)) hf
  simp only [hd, hx, hb, hm, bind, Except.bind]
  simp only [bind, Except.bind] at hq
  rw [hq]

/-- The index with its first two dimensions exchanged (R222). -/
def swapped (l : List Nat) : List Nat := [l.getD 1 1, l.getD 0 1, l.getD 2 1, l.getD 3 1]

/-- VTRANS writes the source with its first two dimensions exchanged (R222). -/
theorem vtrans_streams (hi : Issues s h w) (hs : StreamReady s) (hd : bindView s w d true = .ok vd)
    (ha : bindView s w a false = .ok va) (hes : extents vd = es) (hea : extents va = swapped es)
    (ad : Admitted s w vd t .write (indexOf es) (elements es))
    (aa : Admitted s w va t .read (fun k => swapped (indexOf es k)) (elements es)) :
    ∃ q, exec (.vtrans h t d a) s = .next q ∧ Streamed s q h (s.inOrder (elements es) fun k q =>
        q.putResult vd t (indexOf es k) ⟨(q.elemValue va t (swapped (indexOf es k))).1, 0⟩ 0) (captured [vd, va]) := by
  have hgs : ∀ k q, Steady q ((fun k (q : State) =>
      q.putResult vd t (indexOf es k) ⟨(q.elemValue va t (swapped (indexOf es k))).1, 0⟩ 0) k q) :=
    fun k q => Steady.putResult _ _ _ _ _ _
  obtain ⟨q, hq, hf⟩ := stream_ok (s := s) (es := es) (lanes := t.lanes)
    (f := fun k s => do
      let (s, x, _) ← s.readElem w va t (swapped (indexOf es k)) k
      s.element w vd t (indexOf es k) k ⟨x, 0⟩ 0)
    hs.resume hs.quota hs.lanes hgs
    (by
      intro k p u hk hp hf
      obtain ⟨u1, e1, f1⟩ := readElem_ok hs aa hk hp hf k
      obtain ⟨u2, e2, f2⟩ := element_ok hs ad hk hp f1 ⟨(p.elemValue va t (swapped (indexOf es k))).1, 0⟩ 0 k
      exact ⟨u2, by simp only [e1, e2, bind, Except.bind], f2⟩)
  refine issueVector_ok hi hs.free ?_ (Steady.inOrder hgs _) hf
  have hes' : (upto 4).map vd.view.extent = es := hes
  have hea' : (upto 4).map va.view.extent = [es.getD 1 1, es.getD 0 1, es.getD 2 1, es.getD 3 1] := hea
  simp only [hd, ha, hes', hea', need_of (show (([es.getD 1 1, es.getD 0 1, es.getD 2 1, es.getD 3 1] : List Nat)
    == [es.getD 1 1, es.getD 0 1, es.getD 2 1, es.getD 3 1]) = true from beq_self_eq_true _), bind, Except.bind]
  simp only [bind, Except.bind, swapped] at hq
  rw [hq]

/-- One element of VBFLY (R215): both results of a butterfly, written to the two halves of the destination. -/
def flyElem (m : Mode) (sat conj : Bool) (vd va : BoundView) (top : Nat) (es : List Nat) (k : Nat) (q : State) : State :=
  let lo := (indexOf es k).set top 0
  let hi := (indexOf es k).set top 1
  let r := butterfly m sat conj (q.elemValue vd .cf32 lo).1 (q.elemValue vd .cf32 hi).1 (q.elemValue va .cf32 (indexOf es k)).1
  (q.putResult vd .cf32 lo r.1 0).putResult vd .cf32 hi r.2 0

theorem Steady.flyElem (m : Mode) (sat conj : Bool) (vd va : BoundView) (top : Nat) (es : List Nat) (k : Nat) (q : State) :
    Steady q (flyElem m sat conj vd va top es k q) :=
  (Steady.putResult _ _ _ _ _ _).trans (Steady.putResult _ _ _ _ _ _)

/-- The element of VBFLY on the machine. -/
theorem flyElem_ok {m : Mode} {sat conj : Bool} {top k : Nat} (hs : StreamReady s)
    (aa : Admitted s w va .cf32 .read (indexOf es) (elements es))
    (ad : ∀ j < 2, Admitted s w vd .cf32 .read (fun k => (indexOf es k).set top j) (elements es)
      ∧ Admitted s w vd .cf32 .write (fun k => (indexOf es k).set top j) (elements es))
    (hk : k < elements es) (hp : Steady s v) (hf : Fetched v u) :
    ∃ q, (do
      let idx := indexOf es k
      let i0 := idx.set top 0
      let i1 := idx.set top 1
      let (s, x, _) ← u.readElem w vd .cf32 i0 k
      let (s, y, _) ← s.readElem w vd .cf32 i1 k
      let (s, z, _) ← s.readElem w va .cf32 idx k
      let r := butterfly m sat conj x y z
      let (s, _, _, _) ← s.elemCheck w vd (elemOf vd .cf32 i1) .write k
      let s ← s.element w vd .cf32 i0 k r.1 0
      s.element w vd .cf32 i1 k r.2 0 : Eff State) = .ok q ∧ Fetched (flyElem m sat conj vd va top es k v) q := by
  obtain ⟨r0, w0⟩ := ad 0 (by decide)
  obtain ⟨r1, w1⟩ := ad 1 (by decide)
  obtain ⟨u1, e1, f1⟩ := readElem_ok hs r0 hk hp hf k
  obtain ⟨u2, e2, f2⟩ := readElem_ok hs r1 hk hp f1 k
  obtain ⟨u3, e3, f3⟩ := readElem_ok hs aa hk hp f2 k
  obtain ⟨u4, y, e4, f4⟩ := elemCheck_only w1 hk hp f3 k
  generalize hr : butterfly m sat conj (v.elemValue vd .cf32 ((indexOf es k).set top 0)).1
    (v.elemValue vd .cf32 ((indexOf es k).set top 1)).1 (v.elemValue va .cf32 (indexOf es k)).1 = r
  obtain ⟨u5, e5, f5⟩ := element_ok hs w0 hk hp f4 r.1 0 k
  obtain ⟨u6, e6, f6⟩ := element_ok hs w1 hk (hp.trans (Steady.putResult _ _ _ _ _ _)) f5 r.2 0 k
  refine ⟨u6, ?_, ?_⟩
  · simp only [e1, e2, e3, e4, e5, e6, hr, bind, Except.bind]
  · simp only [flyElem, hr]
    exact f6

/-- VBFLY performs a butterfly on each pair of the destination's elements (R215). -/
theorem vbfly_streams {i : Imm} (hi : Issues s h w) (hs : StreamReady s) (hd : bindView s w d true = .ok vd)
    (ha : bindView s w a false = .ok va) (hc : (immWord i).toNat ≤ 1) (hr : 2 ≤ vd.view.rank)
    (h2 : vd.view.extent (vd.view.rank - 1) = 2) (h1 : ∀ k < 4, vd.view.rank - 1 ≤ k → va.view.extent k = 1)
    (hm : matchedInto s { vd.view with rank := vd.view.rank - 1, ext := vd.view.ext.set (vd.view.rank - 1) 1 } [va.view] = .ok es)
    (aa : Admitted s w va .cf32 .read (indexOf es) (elements es))
    (ad : ∀ j < 2, Admitted s w vd .cf32 .read (fun k => (indexOf es k).set (vd.view.rank - 1) j) (elements es)
      ∧ Admitted s w vd .cf32 .write (fun k => (indexOf es k).set (vd.view.rank - 1) j) (elements es)) :
    ∃ q, exec (.vbfly h d a i) s = .next q
      ∧ Streamed s q h (s.inOrder (elements es) (flyElem (s.mode h) h.sat ((immWord i).toNat == 1) vd va (vd.view.rank - 1) es))
          (captured [vd, va]) := by
  have hgs := Steady.flyElem (s.mode h) h.sat ((immWord i).toNat == 1) vd va (vd.view.rank - 1) es
  obtain ⟨q, hq, hf⟩ := stream_ok (s := s) (es := es) (lanes := Ty.cf32.lanes) hs.resume hs.quota hs.lanes hgs
    (fun k p u hk hp hf => flyElem_ok hs aa ad hk hp hf)
  refine issueVector_ok hi hs.free ?_ (Steady.inOrder hgs _) hf
  have hneed : (decide ((immWord i).toNat ≤ 1) && decide (2 ≤ vd.view.rank) && vd.view.extent (vd.view.rank - 1) == 2
      && (upto 4).all fun k => decide (k < vd.view.rank - 1) || va.view.extent k == 1) = true := by
    simp only [hc, hr, h2, decide_true, beq_self_eq_true, Bool.and_self, Bool.true_and, List.all_eq_true, Bool.or_eq_true,
      decide_eq_true_eq, beq_iff_eq]
    intro k hk
    have hk4 : k < 4 := List.mem_range.mp hk
    by_cases hlt : k < vd.view.rank - 1
    · exact .inl hlt
    · exact .inr (h1 k hk4 (Nat.le_of_not_lt hlt))
  simp only [hd, ha, hm, need_of hneed, bind, Except.bind]
  simp only [bind, Except.bind] at hq
  rw [hq]

end

/-- Settles O29: VFILL and VIDX by the frame without sources, the others by their own walks. -/
theorem vectorArrange : Obligations.VectorArrange := by
  unfold Obligations.VectorArrange
  intro s w h t d a b c i x vd va vm es hi hs hd
  dsimp only
  refine ⟨fun hm ad => ⟨?_, fun hi4 => ?_⟩, fun vx fx hx hb hm ad am ax => vsel_streams hi hs hd hx hb hm ad am ax, fun ha =>
    ⟨fun hes hea ad aa => vtrans_streams hi hs hd ha hes hea ad aa, fun hc hr h2 h1 hm aa ad => ?_⟩⟩
  · exact (fillWith_ok (pre := fun _ => .ok ()) (fl := fun s => (scalarOf s c t (s.mode h) h.sat).fl)
      (f := fun s _ _ => ⟨(scalarOf s c t (s.mode h) h.sat).bits, 0⟩) hi hs rfl hd hm ad :)
  · exact (fillWith_ok (pre := fun s => need s ((immWord i).toNat ≤ 4)) (fl := fun _ => 0)
      (f := fun s idx ord =>
        let v : Int := if (immWord i).toNat = 4 then (ord : Int) else (idx.getD (immWord i).toNat 0 : Int)
        if t.isInt then ⟨narrowBits v t h.sat, 0⟩ else round (.ofInt v) t (s.mode h) h.sat) hi hs
      (need_of (decide_eq_true hi4)) hd hm ad :)
  · exact vbfly_streams hi hs hd ha hc hr h2 h1 hm aa ad

end Sys2Proof.Machine
end

section
/-!
PROOFS. Reductions and scans (R216, R217).
-/

namespace Sys2Proof.Machine

section
variable {s v u : State} {w : Who} {h : Hint}

/-! ## Places of a reduction -/

/-- Every position of a reduction's order is an element of the view, in a row and within the row. -/
theorem reducePlace_within {ord : Bool} {e0 rows g p : Nat} (hg : 0 < g) (hp : p < rows * e0) :
    (reducePlace ord e0 rows g p).1 < rows ∧ (reducePlace ord e0 rows g p).2.1 < e0 := by
  have he : 0 < e0 := Nat.pos_of_ne_zero fun h0 => by simp [h0] at hp
  cases ord with
  | false => exact ⟨by simpa [reducePlace] using (Nat.div_lt_iff_lt_mul he).mpr hp, by simpa [reducePlace] using Nat.mod_lt p he⟩
  | true =>
    simp only [reducePlace, if_true]
    generalize hgrp : p / (e0 * g) = grp
    have hlow : grp * (e0 * g) ≤ p := hgrp ▸ Nat.div_mul_le_self p (e0 * g)
    have hhigh : p < grp * (e0 * g) + e0 * g := by
      have := Nat.lt_div_mul_add (a := p) (Nat.mul_pos he hg)
      rwa [hgrp] at this
    have hrows : grp * g < rows := by
      have : grp * g * e0 < rows * e0 := by
        calc grp * g * e0 = grp * (e0 * g) := by ring
          _ ≤ p := hlow
          _ < rows * e0 := hp
      exact Nat.lt_of_mul_lt_mul_right this
    have hsize : 0 < min g (rows - grp * g) := by omega
    refine ⟨?_, (Nat.div_lt_iff_lt_mul hsize).mpr ?_⟩
    · have := Nat.mod_lt (p - grp * (e0 * g)) hsize
      omega
    · rcases Nat.le_total g (rows - grp * g) with hc | hc
      · rw [Nat.min_eq_left hc]
        omega
      · rw [Nat.min_eq_right hc, Nat.mul_sub]
        have h1 : e0 * (grp * g) = grp * (e0 * g) := by ring
        have h2 : e0 * rows = rows * e0 := Nat.mul_comm _ _
        omega

theorem lanes_pos (t : Ty) : 0 < t.lanes := by cases t <;> decide

/-- The element that a position of a reduction reads lies in the view. -/
theorem reducePlace_element {ord : Bool} {es : List Nat} {g p : Nat} (hg : 0 < g)
    (hp : p < elements es / es.getD 0 1 * es.getD 0 1) :
    (reducePlace ord (es.getD 0 1) (elements es / es.getD 0 1) g p).1 * es.getD 0 1
      + (reducePlace ord (es.getD 0 1) (elements es / es.getD 0 1) g p).2.1 < elements es := by
  obtain ⟨h1, h2⟩ := reducePlace_within (ord := ord) hg hp
  calc _ < (reducePlace ord (es.getD 0 1) (elements es / es.getD 0 1) g p).1 * es.getD 0 1 + es.getD 0 1 := by omega
    _ = ((reducePlace ord (es.getD 0 1) (elements es / es.getD 0 1) g p).1 + 1) * es.getD 0 1 := by ring
    _ ≤ elements es / es.getD 0 1 * es.getD 0 1 := Nat.mul_le_mul_right _ h1
    _ ≤ elements es := Nat.div_mul_le_self _ _

/-! ## The walk of a reduction -/

/-- One position of a reduction, as memory and the running values see it. -/
def reducedAt (mode : Nat) (t u : Ty) (m : Mode) (sat : Bool) (b : BoundView) (out : State → Nat → Nat → RunVal → Nat → State)
    (q : State × List RunVal) (p : Nat) : State × List RunVal :=
  let es := extents b
  let e0 := es.getD 0 1
  let (row, i, place) := reducePlace (mode == 0) e0 (elements es / e0) u.lanes p
  let k := row * e0 + i
  let old := if i = 0 then RunVal.zero else q.2.getD place .zero
  let new := reduceStep mode t u m sat old (q.1.elemValue b t (indexOf es k)).1
  let slots := if q.2.length ≤ place then q.2 ++ List.replicate (place + 1 - q.2.length) .zero else q.2
  (out q.1 row i new k, slots.set place new)

theorem reduced_eq (s : State) (mode : Nat) (t u : Ty) (m : Mode) (sat : Bool) (b : BoundView)
    (out : State → Nat → Nat → RunVal → Nat → State) :
    s.reduced mode t u m sat b out = ((upto (elements (extents b) / (extents b).getD 0 1 * (extents b).getD 0 1)).foldl
      (reducedAt mode t u m sat b out) (s, [])).1 := rfl

/-- A fold over positions keeps what each position keeps. -/
theorem Steady.reduced {g : State × List RunVal → Nat → State × List RunVal} (hg : ∀ q p, Steady q.1 (g q p).1) (l : List Nat) :
    ∀ q, Steady q.1 (l.foldl g q).1 := by
  induction l with
  | nil => exact fun q => .refl _
  | cons p l ih => exact fun q => (hg q p).trans (ih _)

/-- A walk of a reduction whose positions each come to what a pure description gives. -/
theorem reduceWalk_ok {f : Nat → State → List RunVal → Eff (State × List RunVal)}
    {g : State × List RunVal → Nat → State × List RunVal} {ordOf : Nat → Nat} {total : Nat} (hg : ∀ q p, Steady q.1 (g q p).1)
    (hfg : ∀ p q u, p < total → Steady s q.1 → Fetched q.1 u → ∃ r, f p u q.2 = .ok (r, (g q p).2) ∧ Fetched (g q p).1 r) :
    ∀ n p u, p + n = total → Fetched ((upto p).foldl g (s, [])).1 u →
      ∃ r, reduceWalk f ordOf n p u ((upto p).foldl g (s, [])).2 = .ok (r, ((upto total).foldl g (s, [])).2)
        ∧ Fetched ((upto total).foldl g (s, [])).1 r := by
  intro n
  induction n with
  | zero =>
    intro p u hp hf
    obtain rfl : p = total := by omega
    exact ⟨u, rfl, hf⟩
  | succ n ih =>
    intro p u hp hf
    obtain ⟨q, hq, hfq⟩ := hfg p _ u (by omega) (Steady.reduced hg (upto p) (s, [])) hf
    have hstep : (upto (p + 1)).foldl g (s, []) = g ((upto p).foldl g (s, [])) p := by
      rw [upto_succ, List.foldl_append]
      rfl
    rw [← hstep] at hq hfq
    obtain ⟨r, hr, hfr⟩ := ih (p + 1) q (by omega) hfq
    exact ⟨r, by simp only [reduceWalk, hq, hr], hfr⟩

/-- What a reduction writes for a running value, on the machine and as memory sees it. -/
structure Outputs (s : State) (b : BoundView) (outM : State → Nat → Nat → RunVal → Nat → Eff State)
    (out : State → Nat → Nat → RunVal → Nat → State) : Prop where
  steady : ∀ q row i r k, Steady q (out q row i r k)
  performs : ∀ v u row i r k, row < elements (extents b) / (extents b).getD 0 1 → k < elements (extents b) → Steady s v → Fetched v u →
    ∃ q, outM u row i r k = .ok q ∧ Fetched (out v row i r k) q

/-- The ordinal of a reduction's position. -/
def ordinalAt (mode : Nat) (u : Ty) (va : BoundView) (p : Nat) : Nat :=
  let e0 := (extents va).getD 0 1
  let q := reducePlace (mode == 0) e0 (elements (extents va) / e0) u.lanes p
  q.1 * e0 + q.2.1

/-- One position of a reduction on the machine. -/
def reducePos (mode : Nat) (t u : Ty) (m : Mode) (sat : Bool) (w : Who) (va : BoundView)
    (outM : State → Nat → Nat → RunVal → Nat → Eff State) (p : Nat) (s : State) (run : List RunVal) : Eff (State × List RunVal) :=
  let es := extents va
  let e0 := es.getD 0 1
  let rows := elements es / e0
  let pass (p : Nat) : Nat := if mode == 0 then stepOf e0 rows u.lanes p else passOf e0 (min t.lanes u.lanes) p
  laned s.cur.lanes pass p (ordinalAt mode u va p) s fun s => do
    let (row, i, place) := reducePlace (mode == 0) e0 rows u.lanes p
    let k := row * e0 + i
    let (s, x, _) ← s.readElem w va t (indexOf es k) k
    let old := if i = 0 then RunVal.zero else run.getD place .zero
    let new := reduceStep mode t u m sat old x
    let s ← outM s row i new k
    let slots := if run.length ≤ place then run ++ List.replicate (place + 1 - run.length) .zero else run
    .ok (s, slots.set place new)

/-- A reduction that starts anew, with no boundary of the watchdog before its end, walks all positions. -/
theorem reduce_walks {mode : Nat} {t u : Ty} {m : Mode} {sat : Bool} {va : BoundView}
    {outM : State → Nat → Nat → RunVal → Nat → Eff State} (hs : StreamReady s) :
    reduce s mode t u m sat w va outM
      = (reduceWalk (reducePos mode t u m sat w va outM) (ordinalAt mode u va)
          (elements (extents va) / (extents va).getD 0 1 * (extents va).getD 0 1) 0 s []).map (·.1) := by
  have hst : startOf s = (0, []) := by simp [startOf, hs.resume]
  have hlim : (if (mode == 0) = true
      then stepLimit ((extents va).getD 0 1) (elements (extents va) / (extents va).getD 0 1) u.lanes 0 s.cur.quota
      else passLimit ((extents va).getD 0 1) (min t.lanes u.lanes)
        (elements (extents va) / (extents va).getD 0 1 * (extents va).getD 0 1) 0 s.cur.quota)
      = elements (extents va) / (extents va).getD 0 1 * (extents va).getD 0 1 := by
    rw [hs.quota]
    split <;> rfl
  have heq : reduce s mode t u m sat w va outM = (do
      let (start, run) := startOf s
      let es := extents va
      let total := elements es / es.getD 0 1 * es.getD 0 1
      let limit := if mode == 0 then stepLimit (es.getD 0 1) (elements es / es.getD 0 1) u.lanes start s.cur.quota
        else passLimit (es.getD 0 1) (min t.lanes u.lanes) total start s.cur.quota
      let (s, run) ← reduceWalk (reducePos mode t u m sat w va outM) (ordinalAt mode u va) (limit - start) start s run
      if limit < total then wdogStop s limit (ordinalAt mode u va limit) run else .ok s) := rfl
  rw [heq, hst]
  simp only [hlim, Nat.lt_irrefl, if_false, Nat.sub_zero]
  cases reduceWalk (reducePos mode t u m sat w va outM) (ordinalAt mode u va)
    (elements (extents va) / (extents va).getD 0 1 * (extents va).getD 0 1) 0 s [] <;> rfl

/-- One position of a reduction comes to what memory and the running values see. -/
theorem reducePos_ok {mode p : Nat} {t ty : Ty} {m : Mode} {sat : Bool} {va : BoundView}
    {outM : State → Nat → Nat → RunVal → Nat → Eff State} {out : State → Nat → Nat → RunVal → Nat → State}
    {q : State × List RunVal} (hs : StreamReady s)
    (aa : Admitted s w va t .read (indexOf (extents va)) (elements (extents va))) (ho : Outputs s va outM out)
    (hp : p < elements (extents va) / (extents va).getD 0 1 * (extents va).getD 0 1) (hq : Steady s q.1) (hf : Fetched q.1 u) :
    ∃ r, reducePos mode t ty m sat w va outM p u q.2 = .ok (r, (reducedAt mode t ty m sat va out q p).2)
      ∧ Fetched (reducedAt mode t ty m sat va out q p).1 r := by
  have hk := reducePlace_element (ord := mode == 0) (es := extents va) (lanes_pos ty) hp
  obtain ⟨hrow, -⟩ := reducePlace_within (ord := mode == 0) (lanes_pos ty) hp
  rcases hpl : reducePlace (mode == 0) ((extents va).getD 0 1) (elements (extents va) / (extents va).getD 0 1) ty.lanes p
    with ⟨row, i, place⟩
  simp only [hpl] at hk hrow
  obtain ⟨u1, e1, f1⟩ := readElem_ok hs aa hk hq hf (row * (extents va).getD 0 1 + i)
  obtain ⟨u2, e2, f2⟩ := ho.performs q.1 u1 row i (reduceStep mode t ty m sat (if i = 0 then .zero else q.2.getD place .zero)
    (q.1.elemValue va t (indexOf (extents va) (row * (extents va).getD 0 1 + i))).1) (row * (extents va).getD 0 1 + i)
    hrow hk hq f1
  simp only [reducedAt, hpl]
  have hl : u.cur.lanes = [] := by rw [hf.cur, hq.cur, hs.lanes]
  refine ⟨u2, ?_, f2⟩
  simp only [reducePos, laned, hl, List.isEmpty_nil, if_true, hpl, e1, e2, bind, Except.bind]

/-- A reduction that starts anew and runs to its end. -/
theorem reduce_ok {mode : Nat} {t ty : Ty} {m : Mode} {sat : Bool} {va : BoundView}
    {outM : State → Nat → Nat → RunVal → Nat → Eff State} {out : State → Nat → Nat → RunVal → Nat → State} (hs : StreamReady s)
    (aa : Admitted s w va t .read (indexOf (extents va)) (elements (extents va))) (ho : Outputs s va outM out) :
    ∃ q, reduce s mode t ty m sat w va outM = .ok q ∧ Fetched (s.reduced mode t ty m sat va out) q
      ∧ Steady s (s.reduced mode t ty m sat va out) := by
  have hg : ∀ q p, Steady q.1 (reducedAt mode t ty m sat va out q p).1 := fun q p => ho.steady _ _ _ _ _
  obtain ⟨q, hq, hf⟩ := reduceWalk_ok (s := s) (ordOf := ordinalAt mode ty va) hg
    (fun p q u hp hq hf => reducePos_ok hs aa ho hp hq hf)
    (elements (extents va) / (extents va).getD 0 1 * (extents va).getD 0 1) 0 s (by omega)
    (by simpa [upto] using Fetched.refl s)
  rw [reduced_eq]
  refine ⟨q, ?_, hf, Steady.reduced hg _ (s, [])⟩
  rw [reduce_walks hs]
  exact congrArg (Except.map (·.1)) hq

/-! ## The instructions -/

theorem reduceImm_of {b : Imm} {mode : Nat} {t u : Ty} (hb : (immWord b).toNat < 256) (hmod : (immWord b).toNat % 16 = mode)
    (hmode : mode ≤ 10) (hu : Ty.ofCode ((immWord b).toNat / 16) = u) (hr : reduceTypes mode t u = true) :
    reduceImm s b t = .ok (mode, u) := by
  unfold reduceImm
  simp only [need_of (decide_eq_true hb), hmod, hu, ok_bind,
    need_of (show (decide (mode ≤ 10) && reduceTypes mode t u) = true by rw [decide_eq_true hmode, hr]; rfl)]

theorem Steady.setX (s : State) (i : Reg) (x : Word) : Steady s (s.setX i x) := by
  refine ⟨rfl, rfl, rfl, rfl, rfl, rfl, rfl, ?_, ?_, ?_, ?_, ?_, ?_, ?_, ?_⟩
  iterate 5 simp [State.setX_eq]
  · simp [State.setX_eq, State.regs, Regs.writeX]
    split <;> rfl
  · rw [State.setX_eq]; exact (postsOf_onCtx s _ ⟨rfl, rfl⟩).mpr
  · rw [State.setX_eq]; exact (mxQueue_onCtx s _ ⟨rfl, rfl⟩).mpr

variable {t ty : Ty} {mode : Nat} {d : Reg} {vd va : BoundView}

/-- The register result of a single row. -/
theorem putElem_outputs {sat : Bool} : Outputs s va
    (fun s _ i v _ => if i + 1 = va.view.extent 0 then
      let o := reduceOut mode ty sat v
      .ok ((s.putElem d ty o.bits).setFlags o.fl) else .ok s)
    (fun q _ i r _ => if i + 1 = va.view.extent 0 then
      let o := reduceOut mode ty sat r
      (q.putElem d ty o.bits).setFlags o.fl else q) := by
  refine ⟨fun q row i r k => ?_, fun v u row i r k _ _ _ hf => ?_⟩
  · dsimp only
    split
    · exact (Steady.setX _ _ _).trans (Steady.setFlags _ _)
    · exact .refl q
  · dsimp only
    split
    · exact ⟨_, rfl, (hf.onRegs _).setFlags _⟩
    · exact ⟨u, rfl, hf⟩

/-- The element that each row's result goes to. -/
theorem rowElement_outputs {sat : Bool} (hs : StreamReady s)
    (hrows : elements (extents va) / (extents va).getD 0 1 ≤ elements (extents vd))
    (ad : Admitted s w vd ty .write (indexOf (extents vd)) (elements (extents vd))) : Outputs s va
    (fun s row i r k => if i + 1 = va.view.extent 0 then
      s.element w vd ty (indexOf (extents vd) row) k (reduceOut mode ty sat r) 0 else .ok s)
    (fun q row i r _ => if i + 1 = va.view.extent 0 then
      q.putResult vd ty (indexOf (extents vd) row) (reduceOut mode ty sat r) 0 else q) := by
  refine ⟨fun q row i r k => ?_, fun v u row i r k hrow _ hv hf => ?_⟩
  · split
    · exact Steady.putResult _ _ _ _ _ _
    · exact .refl q
  · split
    · exact element_ok hs ad (Nat.lt_of_lt_of_le hrow hrows) hv hf _ _ k
    · exact ⟨u, rfl, hf⟩

/-- The element that each running value goes to. -/
theorem scanElement_outputs {sat : Bool} (hs : StreamReady s)
    (ad : Admitted s w vd ty .write (indexOf (extents va)) (elements (extents va))) : Outputs s va
    (fun s _ _ r k => s.element w vd ty (indexOf (extents va) k) k (reduceOut mode ty sat r) 0)
    (fun q _ _ r k => q.putResult vd ty (indexOf (extents va) k) (reduceOut mode ty sat r) 0) :=
  ⟨fun _ _ _ _ _ => Steady.putResult _ _ _ _ _ _, fun _ _ _ _ _ k _ hk hv hf => element_ok hs ad hk hv hf _ _ k⟩

/-- The rows of a view are the elements of one whose first dimension is one element. -/
theorem rows_le (h0 : vd.view.extent 0 = 1) (hk : ∀ k < 4, k ≠ 0 → vd.view.extent k = va.view.extent k) :
    elements (extents va) / (extents va).getD 0 1 ≤ elements (extents vd) := by
  have hex (b : BoundView) : extents b = [b.view.extent 0, b.view.extent 1, b.view.extent 2, b.view.extent 3] := rfl
  simp only [hex, elements, List.foldl_cons, List.foldl_nil, List.getD_cons_zero, h0, hk 1 (by decide) (by decide),
    hk 2 (by decide) (by decide), hk 3 (by decide) (by decide), Nat.one_mul, Nat.mul_assoc]
  exact Nat.div_le_of_le_mul (Nat.le_refl _)

end

/-- Settles O30: the walk of a reduction takes its elements in the order of R217, and each destination takes the running
value of its row or its element. -/
theorem vectorReduce : Obligations.VectorReduce := by
  unfold Obligations.VectorReduce
  intro s w h t u d a x b mode vd va hi hs hb hmod hmode hu hr ha m es e0 aa
  have himm : reduceImm s b t = .ok (mode, u) := reduceImm_of hb hmod hmode hu hr
  refine ⟨fun he => ?_, fun hd => ⟨fun h0 hk ad => ?_, fun hes ad => ?_⟩⟩
  · obtain ⟨q, hq, hf, hst⟩ := reduce_ok (mode := mode) (m := s.mode h) (sat := h.sat) hs aa (putElem_outputs (d := x) (ty := u))
    refine issueVector_ok hi hs.free ?_ hst hf
    simp only [himm, ha, bind, Except.bind,
      need_of (show (elements ((upto 4).map va.view.extent) == va.view.extent 0) = true from beq_iff_eq.mpr he)]
    rw [hq]
  · obtain ⟨q, hq, hf, hst⟩ := reduce_ok (mode := mode) (m := s.mode h) (sat := h.sat) hs aa (rowElement_outputs hs (rows_le h0 hk) ad)
    refine issueVector_ok hi hs.free ?_ hst hf
    have hneed : (vd.view.extent 0 == 1 && (upto 4).all fun k => k == 0 || vd.view.extent k == va.view.extent k) = true := by
      simp only [h0, beq_self_eq_true, Bool.true_and, List.all_eq_true, Bool.or_eq_true, beq_iff_eq]
      exact fun k hk4 => or_iff_not_imp_left.mpr (hk k (List.mem_range.mp hk4))
    simp only [himm, ha, hd, bind, Except.bind, need_of hneed]
    dsimp only [extents] at hq
    rw [hq]
  · obtain ⟨q, hq, hf, hst⟩ := reduce_ok (mode := mode) (m := s.mode h) (sat := h.sat) hs aa (scanElement_outputs hs ad)
    refine issueVector_ok hi hs.free ?_ hst hf
    simp only [himm, ha, hd, bind, Except.bind,
      need_of (show ((upto 4).map va.view.extent == (upto 4).map vd.view.extent) = true from beq_iff_eq.mpr hes.symm)]
    dsimp only [extents] at hq
    rw [hq]

end Sys2Proof.Machine
end

section
/-!
PROOFS. Gather and scatter (R223 to R225).
-/

namespace Sys2Proof.Machine

section
variable {s v u : State} {w : Who} {h : Hint} {t : Ty} {c : CapOp} {k : Cap} {acc : Access} {vi vx : BoundView} {es : List Nat}

/-! ## Masks of performed elements -/

/-- A bit set below leaves the higher bits of a mask. -/
theorem bit_add_two_pow {m i j : Nat} (hij : i < j) (hi : bit m i = false) : bit (m + 2 ^ i) j = bit m j := by
  have heven : m / 2 ^ i % 2 = 0 := by
    have : m / 2 ^ i % 2 ≠ 1 := by simpa [bit] using hi
    omega
  have hhalf : (m + 2 ^ i) / 2 ^ i / 2 = m / 2 ^ i / 2 := by
    rw [Nat.add_div_right _ (Nat.two_pow_pos i)]
    omega
  have hpow : 2 ^ j = 2 ^ i * 2 * 2 ^ (j - i - 1) := by
    rw [Nat.mul_assoc, ← Nat.pow_succ', ← Nat.pow_add]
    congr 1
    omega
  unfold bit
  rw [hpow, ← Nat.div_div_eq_div_mul, ← Nat.div_div_eq_div_mul, hhalf, Nat.div_div_eq_div_mul, Nat.div_div_eq_div_mul,
    Nat.mul_assoc]

/-- The mask of the elements below `n` that `p` holds of. -/
def maskBelow (p : Nat → Bool) (n : Nat) : Nat := (upto n).foldl (fun m k => if !bit m k && p k then m + 2 ^ k else m) 0

theorem maskBelow_succ (p : Nat → Bool) (n : Nat) : maskBelow p (n + 1)
    = if !bit (maskBelow p n) n && p n then maskBelow p n + 2 ^ n else maskBelow p n := by
  rw [maskBelow, upto_succ, List.foldl_append]
  rfl

theorem maskBelow_lt (p : Nat → Bool) (n : Nat) : maskBelow p n < 2 ^ n := by
  induction n with
  | zero => exact Nat.one_pos
  | succ n ih =>
    rw [maskBelow_succ, Nat.pow_succ]
    split <;> omega

theorem bit_maskBelow (p : Nat → Bool) (n i : Nat) : bit (maskBelow p n) i = (decide (i < n) && p i) := by
  induction n generalizing i with
  | zero => simp [maskBelow, upto, bit]
  | succ n ih =>
    have hn : bit (maskBelow p n) n = false := by rw [ih]; simp
    have hlt := maskBelow_lt p n
    rw [maskBelow_succ, hn, Bool.not_false, Bool.true_and]
    cases hp : p n with
    | false =>
      rw [if_neg (by decide), ih]
      by_cases h : i = n
      · subst h; simp [hp]
      · simp [show i < n + 1 ↔ i < n by omega]
    | true =>
      rw [if_pos rfl]
      rcases Nat.lt_trichotomy i n with h | h | h
      · rw [bit_eq_testBit, Nat.add_comm, Nat.testBit_two_pow_add_gt h, ← bit_eq_testBit, ih]
        simp [h, Nat.lt_succ_of_lt h]
      · subst h
        rw [bit_eq_testBit, Nat.add_comm, Nat.testBit_two_pow_add_eq, ← bit_eq_testBit, hn]
        simp [hp]
      · rw [bit_add_two_pow h hn, ih]
        simp [show ¬i < n by omega, show ¬i < n + 1 by omega]

/-! ## The checks of every element -/

/-- R53 for an indexed element. -/
theorem indexedCheck_ok (ho : IndexedOnChip s w c k t acc vi es) {j : Nat} (hj : j < elements es) (hf : Fetched s u) :
    indexedCheck u w c t acc (s.indexedElem c vi es j) j = .ok () := by
  obtain ⟨hc, -, hr, -, hall⟩ := ho
  obtain ⟨hck, -⟩ := hall j hj
  have hcu : u.c c.c.toNat = some k := by rw [← hc]; simp only [State.c, State.regs, hf.regs]
  unfold indexedCheck
  simp only [hcu, checkCap_congr hf.cts hf.chip hr, hck]

/-- The element number of an ordinal. -/
theorem gatherIndex_ok (hs : StreamReady s) (ai : Admitted s w vi .i32 .read (indexOf es) (elements es)) {other : Access} {j : Nat}
    (hj : j < elements es) (hf : Fetched s u) :
    ∃ q, gatherIndex u w ⟨c, t, vi, vx, acc, other, es⟩ j = .ok (q, s.indexedElem c vi es j) ∧ Fetched s q := by
  obtain ⟨q, he, hq⟩ := readElem_ok hs ai hj (.refl s) hf j
  refine ⟨q, ?_, hq⟩
  have hregs : q.regs = s.regs := hq.regs
  unfold gatherIndex
  simp only [he, bind, Except.bind, hregs] <;> rfl

/-- All checks of one element (R224 step 1). -/
theorem gatherCheck_ok (hs : StreamReady s) (ai : Admitted s w vi .i32 .read (indexOf es) (elements es)) {other : Access}
    (ho : IndexedOnChip s w c k t acc vi es) (ax : Admitted s w vx t other (indexOf es) (elements es)) {j : Nat}
    (hj : j < elements es) (hf : Fetched s u) :
    ∃ q, gatherCheck u w ⟨c, t, vi, vx, acc, other, es⟩ j = .ok (q, s.indexedElem c vi es j) ∧ Fetched s q := by
  obtain ⟨u1, e1, f1⟩ := gatherIndex_ok (c := c) (t := t) (vx := vx) (acc := acc) (other := other) hs ai hj hf
  obtain ⟨u2, y, e2, f2⟩ := elemCheck_only ax hj (.refl s) f1 j
  have hother : gatherOther u1 w ⟨c, t, vi, vx, acc, other, es⟩ j = .ok u2 := by
    unfold gatherOther
    simp only [e2, bind, Except.bind]
  refine ⟨u2, ?_, f2⟩
  unfold gatherCheck
  simp only [e1, bind, Except.bind, hother, indexedCheck_ok ho hj f1, indexedCheck_ok ho hj f2, ite_self]

/-- The checks of all elements, from ordinal `j` on. -/
theorem gatherChecks_ok (hs : StreamReady s) (ai : Admitted s w vi .i32 .read (indexOf es) (elements es)) {other : Access}
    (ho : IndexedOnChip s w c k t acc vi es) (ax : Admitted s w vx t other (indexOf es) (elements es)) (m : Nat) :
    ∀ n j u out, j + n = elements es → Fetched s u →
      ∃ q, gatherChecks u w ⟨c, t, vi, vx, acc, other, es⟩ m (List.range' j n) out
          = .ok (q, out.reverse ++ (List.range' j n).map (s.indexedElem c vi es)) ∧ Fetched s q := by
  intro n
  induction n with
  | zero => exact fun j u out _ hf => ⟨u, by simp [gatherChecks], hf⟩
  | succ n ih =>
    intro j u out hj hf
    obtain ⟨u1, e1, f1⟩ := gatherCheck_ok hs ai ho ax (by omega : j < elements es) hf
    obtain ⟨q, hq, fq⟩ := ih (j + 1) u1 (s.indexedElem c vi es j :: out) (by omega) f1
    have hl : u.cur.lanes = [] := by rw [hf.cur, hs.lanes]
    refine ⟨q, ?_, fq⟩
    rw [List.range'_succ, gatherChecks]
    simp only [laned, hl, List.isEmpty_nil, if_true, e1, hq]
    simp

/-- The element numbers of a gather that starts anew on a buffer of this chip. -/
theorem gatherElems_ok (hs : StreamReady s) (ai : Admitted s w vi .i32 .read (indexOf es) (elements es)) {other : Access}
    (ho : IndexedOnChip s w c k t acc vi es) (ax : Admitted s w vx t other (indexOf es) (elements es)) (m : Nat) :
    ∃ q, gatherElems s w ⟨c, t, vi, vx, acc, other, es⟩ m (elements es) []
        = .ok (q, (upto (elements es)).map (s.indexedElem c vi es)) ∧ Fetched s q := by
  obtain ⟨q, hq, fq⟩ := gatherChecks_ok hs ai ho ax m (elements es) 0 s [] (by omega) (.refl s)
  refine ⟨q, ?_, fq⟩
  obtain ⟨hc, hchip, -⟩ := ho
  unfold gatherElems
  simp only [ne_eq, not_true, if_false, hc, gatherHome, hchip, if_true, bind, Except.bind, upto, List.range_eq_range']
  simpa using hq

/-! ## The elements performed -/

/-- What the elements performed so far have come to when each had its place at once. -/
def Gathered.plain (m : Nat) : Gathered := ⟨m, [], [], none⟩

/-- One element at its place on the chip. -/
theorem gatherOne_ok (ho : IndexedOnChip s w c k t acc vi es) (hr : s.ctx.run.rejected = []) {j m : Nat}
    (hj : j < elements es) (hv : Steady s v) (hf : Fetched v u) {perform : State → Loc → Eff State} {v' : State}
    (hp : ∀ u, Fetched v u → ∃ q, perform u (.phys (s.windowBase k + (s.indexedElem c vi es j * t.size).toNat)) = .ok q
      ∧ Fetched v' q) (wr : Bool) (xs : List Int) :
    ∃ q, gatherOne u w c wr k (s.indexedElem c vi es j * t.size).toNat (.plain m) j xs perform = .ok (q, .plain (m + 2 ^ j))
      ∧ Fetched v' q := by
  obtain ⟨-, hchip, -, -, hall⟩ := ho
  obtain ⟨-, h0, h1, hph⟩ := hall j hj
  obtain ⟨q, e, fq⟩ := hp _ (hf.trans (Fetched.validated u w.pnum k))
  refine ⟨q, ?_, fq⟩
  have hwin : u.windowBase k = s.windowBase k := windowBase_congr (hf.cts.trans hv.cts) k
  have hck : k.chip = u.chip := by rw [hf.chip, hv.chip, hchip]
  have hrej : u.ctx.run.rejected = [] := by rw [hf.run, hv.run, hr]
  have hres : (u.validated u.cur.tile w.pnum k).resolve w (s.windowBase k + (s.indexedElem c vi es j * t.size).toNat) wr false
      c.c.toNat (some k) j
      = .ok (u.validated u.cur.tile w.pnum k, .phys (s.windowBase k + (s.indexedElem c vi es j * t.size).toNat)) := by
    unfold State.resolve
    rw [if_neg (fun h => h.elim h0 h1), if_pos hph]
  have hon (a : Nat) : u.onRejected w a = false := by simp [State.onRejected, hrej]
  unfold gatherOne
  simp only [hwin, hon, Bool.false_eq_true, and_false, if_false, hck, ne_eq, not_true, hres, e] <;> rfl

/-- The elements from ordinal `j` on, one after another; those of the mask are passed over. -/
theorem gatherAll_ok (ho : IndexedOnChip s w c k t acc vi es) (hr : s.ctx.run.rejected = []) (wr : Bool) {xs : List Int}
    (hxs : ∀ j < elements es, xs.getD j 0 = s.indexedElem c vi es j) {perform : Nat → State → Loc → Eff State}
    {f : Nat → State → State} (skip : Nat → Bool) (hst : ∀ j v, Steady v (f j v)) (hskip : ∀ j v, skip j = true → f j v = v)
    (hp : ∀ j v u, j < elements es → skip j = false → Steady s v → Fetched v u →
      ∃ q, perform j u (.phys (s.windowBase k + (s.indexedElem c vi es j * t.size).toNat)) = .ok q ∧ Fetched (f j v) q) :
    ∀ n j u m, j + n = elements es → (∀ i, j ≤ i → i < elements es → bit m i = skip i) → Fetched (s.inOrder j f) u →
      ∃ q m', gatherAll w c wr k t xs perform (List.range' j n) u (.plain m) = .ok (q, .plain m')
        ∧ Fetched (s.inOrder (elements es) f) q := by
  intro n
  induction n with
  | zero =>
    intro j u m hj _ hf
    obtain rfl : j = elements es := by omega
    exact ⟨u, m, rfl, hf⟩
  | succ n ih =>
    intro j u m hj hm hf
    have hjn : j < elements es := by omega
    have hbit := hm j (Nat.le_refl j) hjn
    rw [List.range'_succ, gatherAll]
    cases hsk : skip j with
    | true =>
      have hf' : Fetched (s.inOrder (j + 1) f) u := by rw [inOrder_succ, hskip j _ hsk]; exact hf
      obtain ⟨q, m', e, fq⟩ := ih (j + 1) u m (by omega) (fun i h1 h2 => hm i (by omega) h2) hf'
      exact ⟨q, m', by simp only [Gathered.plain, hbit, hsk, Bool.true_or, if_true]; exact e, fq⟩
    | false =>
      obtain ⟨u1, e1, f1⟩ := gatherOne_ok (m := m) ho hr hjn (Steady.inOrder hst j) hf
        (fun u hu => hp j _ u hjn hsk (Steady.inOrder hst j) hu) wr xs
      rw [← inOrder_succ s j f] at f1
      obtain ⟨q, m', e, fq⟩ := ih (j + 1) u1 (m + 2 ^ j) (by omega)
        (fun i h1 h2 => by rw [bit_add_two_pow (by omega) (hbit.trans hsk)]; exact hm i (by omega) h2) f1
      refine ⟨q, m', ?_, fq⟩
      simp only [Gathered.plain, hbit, hsk, List.any_nil, Bool.or_self, Bool.false_eq_true, if_false, hxs j hjn] at e1 e ⊢
      rw [e1]
      exact e

/-- The bytes of an indexed element at its place on the chip. -/
theorem indexedBytes_ok (hs : StreamReady s) (hv : Steady s v) (hf : Fetched v u) (off n a : Nat) :
    ∃ q, u.indexedBytes w c k off n (.phys a) = .ok (q, v.bytes a n) ∧ Fetched v q := by
  obtain ⟨-, hcl, hqu, hlog, hz⟩ := hv.streams hs
  have hm := Fetched.markRead u (some k) a n
  refine ⟨u.markRead (some k) a n, ?_, hf.trans hm⟩
  have hposts : u.postsOf u.cur.tile = [] := by rw [hf.cur]; exact hf.posts (by rw [hv.cur]; exact hv.posts hs.posts)
  unfold State.indexedBytes
  simp only [readBusy_none (hf.queue hqu), opBusy_none hposts, Bool.or_self, waitWhile, Bool.false_eq_true, if_false,
    eccCheck_clean (w := w) ⟨hf.ecc.trans hcl.1, hf.poison.trans hcl.2⟩, bind, Except.bind]
  rw [seen_plain (by rw [hm.log, hf.log]; exact hlog) (by rw [hm.shzLog, hf.shzLog]; exact hz), bytes_fetched (hf.trans hm)]

/-- An indexed element written at its place on the chip. -/
theorem putIndexed_ok (hs : StreamReady s) (hl : (s.ct k.key).laopen = false) (hv : Steady s v) (hf : Fetched v u)
    (off a : Nat) (bs : List Byte) :
    u.putIndexed w c k off bs (.phys a) = .ok (u.putBytes a bs) := by
  obtain ⟨hp, hcl, hqu, -, -⟩ := hv.streams hs
  have hposts : u.postsOf u.cur.tile = [] := by rw [hf.cur]; exact hf.posts (by rw [hv.cur]; exact hv.posts hs.posts)
  have hl' : (u.ct k.key).laopen = false := by rw [ct_congr (hf.cts.trans hv.cts)]; exact hl
  unfold State.putIndexed
  simp only [writeBusy_none (hf.queue hqu), opBusy_none hposts, Bool.or_self, waitWhile, Bool.false_eq_true, if_false,
    writeOut_ok (hf.prompt hp), perform_plain ⟨hf.ecc.trans hcl.1, hf.poison.trans hcl.2⟩ hl', bind, Except.bind]

theorem maskOf_fresh (hs : StreamReady s) : maskOf s = (0, [], []) := by simp [maskOf, hs.resume]

theorem gatherEnd_plain {xs : List Int} (m : Nat) : gatherEnd s w c k t xs (.plain m) = .ok s := by
  simp [gatherEnd, Gathered.plain]

theorem getD_elems {n j : Nat} (f : Nat → Int) (hj : j < n) : ((upto n).map f).getD j 0 = f j := by
  simp [List.getD, upto, hj]

/-! ## The instructions -/

/-- VGATHER reads the elements that the indices name (R223). -/
theorem vgather_streams {d b : Vreg} (hi : Issues s h w) (hs : StreamReady s) (hu : Unhindered s)
    (hb : bindView s w b false = .ok vi) (hn : elements es ≤ 64) (ai : Admitted s w vi .i32 .read (indexOf es) (elements es))
    (hd : bindView s w d true = .ok vx) (hm : matchedInto s vx.view [vi.view] = .ok es)
    (ax : Admitted s w vx t .write (indexOf es) (elements es)) (ho : IndexedOnChip s w c k t .read vi es) :
    ∃ q, exec (.vgather h t d c b) s = .next q ∧ Streamed s q h (s.inOrder (elements es) fun j q =>
        q.putResult vx t (indexOf es j)
          ⟨leNat (q.bytes (s.windowBase k + (s.indexedElem c vi es j * t.size).toNat) t.size), 0⟩ 0)
      (c.c.toNat :: captured [vx, vi]) := by
  have hst : ∀ j q, Steady q ((fun j (q : State) => q.putResult vx t (indexOf es j)
      ⟨leNat (q.bytes (s.windowBase k + (s.indexedElem c vi es j * t.size).toNat) t.size), 0⟩ 0) j q) :=
    fun j q => Steady.putResult _ _ _ _ _ _
  obtain ⟨u1, e1, f1⟩ := gatherElems_ok hs ai ho ax 0
  have hc1 : u1.c c.c.toNat = some k := by rw [← ho.1]; simp only [State.c, State.regs, f1.regs]
  obtain ⟨q, m', e2, f2⟩ := gatherAll_ok ho hu.2.2 false (fun j hj => getD_elems (s.indexedElem c vi es) hj)
    (perform := fun j s' l => do
      let (s', bs) ← s'.indexedBytes w c k (((upto (elements es)).map (s.indexedElem c vi es)).getD j 0 * t.size).toNat t.size l
      s'.element w vx t (indexOf es j) j ⟨leNat bs, 0⟩ 0)
    (fun _ => false) hst (fun _ _ h => absurd h (by decide))
    (by
      intro j v u hj _ hv hf
      obtain ⟨u2, e2, f2⟩ := indexedBytes_ok (w := w) (c := c) (k := k) hs hv hf
        (((upto (elements es)).map (s.indexedElem c vi es)).getD j 0 * t.size).toNat t.size
        (s.windowBase k + (s.indexedElem c vi es j * t.size).toNat)
      obtain ⟨u3, e3, f3⟩ := element_ok hs ax hj hv f2 ⟨leNat (v.bytes (s.windowBase k
        + (s.indexedElem c vi es j * t.size).toNat) t.size), 0⟩ 0 j
      exact ⟨u3, by simp only [e2, e3, bind, Except.bind], f3⟩)
    (elements es) 0 u1 0 (by omega) (fun i _ _ => by simp [bit]) (by simpa [State.inOrder, upto] using f1)
  refine issueVector_ok hi hs.free ?_ (Steady.inOrder hst _) f2
  have e2' := e2
  rw [← List.range_eq_range'] at e2'
  simp only [hd, hb, hm, need_of (decide_eq_true hn), maskOf_fresh hs, e1, hc1, bind, Except.bind]
  simp only [bind, Except.bind, Gathered.plain] at e2'
  simp only [upto] at e2' ⊢
  rw [e2']
  have := gatherEnd_plain (s := q) (w := w) (c := c) (k := k) (t := t)
    (xs := (List.range (elements es)).map (s.indexedElem c vi es)) m'
  simp only [Gathered.plain] at this
  simp only [this]

/-- The element numbers above an ordinal repeat its own (R224 step 4). -/
theorem shadowed_iff {n j : Nat} (f : Nat → Int) (hj : j < n) :
    shadowed ((upto n).map f) j = true ↔ ∃ l < n, j < l ∧ f l = f j := by
  unfold shadowed
  rw [getD_elems f hj]
  simp only [List.any_eq_true, beq_iff_eq, List.mem_iff_getElem?, List.getElem?_drop, List.getElem?_map, upto]
  constructor
  · rintro ⟨x, ⟨i, hi⟩, rfl⟩
    by_cases hlt : j + 1 + i < n
    · exact ⟨j + 1 + i, hlt, by omega, by simpa [hlt] using hi⟩
    · simp [hlt] at hi
  · rintro ⟨l, hl, hjl, he⟩
    exact ⟨f l, ⟨l - (j + 1), by simp [show j + 1 + (l - (j + 1)) = l by omega, hl]⟩, he⟩

/-- One element of VSCATTER: the one with the highest ordinal stands (R224). -/
def scatterElem (s : State) (c : CapOp) (k : Cap) (t : Ty) (vx vi : BoundView) (es : List Nat) (j : Nat) (q : State) : State :=
  if ∃ l < elements es, j < l ∧ s.indexedElem c vi es l = s.indexedElem c vi es j then q
  else q.putBytes (s.windowBase k + (s.indexedElem c vi es j * t.size).toNat) (leBytes t.size (q.elemValue vx t (indexOf es j)).1)

theorem Steady.scatterElem (j : Nat) (q : State) : Steady q (scatterElem s c k t vx vi es j q) := by
  unfold Machine.scatterElem
  split
  · exact .refl q
  · exact .putBytes _ _ _

/-- VSCATTER writes the elements that the indices name (R223, R224). -/
theorem vscatter_streams {a b : Vreg} (hi : Issues s h w) (hs : StreamReady s) (hu : Unhindered s)
    (hb : bindView s w b false = .ok vi) (hn : elements es ≤ 64) (ai : Admitted s w vi .i32 .read (indexOf es) (elements es))
    (ha : bindView s w a false = .ok vx) (hm : matched [vx.view, vi.view] = some es)
    (ax : Admitted s w vx t .read (indexOf es) (elements es)) (ho : IndexedOnChip s w c k t .write vi es) :
    ∃ q, exec (.vscatter h t c a b) s = .next q
      ∧ Streamed s q h (s.inOrder (elements es) (scatterElem s c k t vx vi es)) (c.c.toNat :: captured [vx, vi]) := by
  have hst : ∀ j q, Steady q (scatterElem s c k t vx vi es j q) := fun j q => Steady.scatterElem j q
  obtain ⟨u1, e1, f1⟩ := gatherElems_ok hs ai ho ax 0
  have hc1 : u1.c c.c.toNat = some k := by rw [← ho.1]; simp only [State.c, State.regs, f1.regs]
  have hl : (s.ct k.key).laopen = false := ho.2.2.2.1
  generalize hxs : (upto (elements es)).map (s.indexedElem c vi es) = xs at e1
  have hget (j : Nat) (hj : j < elements es) : xs.getD j 0 = s.indexedElem c vi es j := by rw [← hxs, getD_elems _ hj]
  have hshadow (j : Nat) (hj : j < elements es) : shadowed xs j = true ↔
      ∃ l < elements es, j < l ∧ s.indexedElem c vi es l = s.indexedElem c vi es j := by rw [← hxs, shadowed_iff _ hj]
  obtain ⟨q, m', e2, f2⟩ := gatherAll_ok ho hu.2.2 true hget
    (perform := fun j s' l => do
      let (s', x, _) ← s'.readElem w vx t (indexOf es j) j
      s'.putIndexed w c k (xs.getD j 0 * t.size).toNat (leBytes t.size x) l)
    (fun j => decide (j < elements es) && shadowed xs j) hst
    (fun j v h => by
      rw [Bool.and_eq_true, decide_eq_true_eq] at h
      exact if_pos ((hshadow j h.1).mp h.2))
    (by
      intro j v u hj hsk hv hf
      obtain ⟨u2, e2, f2⟩ := readElem_ok hs ax hj hv hf j
      have hno : ¬∃ l < elements es, j < l ∧ s.indexedElem c vi es l = s.indexedElem c vi es j := fun h => by
        rw [decide_eq_true hj, (hshadow j hj).mpr h] at hsk
        exact absurd hsk (by decide)
      refine ⟨u2.putBytes (s.windowBase k + (s.indexedElem c vi es j * t.size).toNat)
        (leBytes t.size (v.elemValue vx t (indexOf es j)).1), ?_, ?_⟩
      · simp only [e2, bind, Except.bind]
        exact putIndexed_ok hs hl hv f2 _ _ _
      · rw [scatterElem, if_neg hno]
        exact f2.putBytes _ _)
    (elements es) 0 u1 (maskBelow (shadowed xs) (elements es)) (by omega) (fun i _ hi => bit_maskBelow _ _ _)
    (by simpa [State.inOrder, upto] using f1)
  refine issueVector_ok hi hs.free ?_ (Steady.inOrder hst _) f2
  have e2' := e2
  rw [← List.range_eq_range'] at e2'
  simp only [ha, hb, hm, need_of (decide_eq_true hn), maskOf_fresh hs, e1, hc1, bind, Except.bind]
  simp only [bind, Except.bind, Gathered.plain, maskBelow] at e2'
  simp only [upto] at e2' ⊢
  rw [e2']
  have := gatherEnd_plain (s := q) (w := w) (c := c) (k := k) (t := t) (xs := xs) m'
  simp only [Gathered.plain] at this
  simp only [this]

end

/-- Settles O31: step 1 checks every element and changes nothing that the description sees, step 2 performs those that no
higher ordinal shadows. -/
theorem gatherScatter : Obligations.GatherScatter := by
  unfold Obligations.GatherScatter
  intro s w h t d a b c k vx vi es hi hs hu hb hn n ix place ai
  exact ⟨fun hd hm ax ho => vgather_streams hi hs hu hb hn ai hd hm ax ho,
    fun ha hm ax ho => vscatter_streams hi hs hu hb hn ai ha hm ax ho⟩

end Sys2Proof.Machine
end

section
/-!
PROOFS. Matrix instructions join the queue of their context (R234, R237, R242 to R252).
-/

namespace Sys2Proof.Machine

section
variable {s u v q : State} {w : Who} {h : Hint} {t : Ty}

/-- What the operand checks of a matrix instruction leave: the core has noted validated capabilities, and nothing else changed. -/
structure Checked (s q : State) : Prop where
  fetched : Fetched s q
  core : ∃ l, (q.tile s.cur.tile).core = { (s.tile s.cur.tile).core with vcache := l }

theorem Checked.refl (s : State) : Checked s s := ⟨.refl s, _, rfl⟩

theorem Checked.trans (a : Checked s u) (b : Checked u q) : Checked s q := by
  refine ⟨a.fetched.trans b.fetched, ?_⟩
  obtain ⟨l, hl⟩ := a.core
  obtain ⟨l', hl'⟩ := b.core
  rw [a.fetched.cur, hl] at hl'
  exact ⟨l', hl'⟩

theorem Checked.validated (s : State) (p : Nat) (c : Cap) : Checked s (s.validated s.cur.tile p c) :=
  ⟨.validated s p c, _, State.core_onCore_self (s := s) (t := s.cur.tile) _⟩

/-- The checks of R53 pass for an admitted element. -/
theorem elemCheck_checked {b : BoundView} {acc : Access} {at' : Nat → List Nat} {n k : Nat} (ha : Admitted s w b t acc at' n)
    (hk : k < n) (hf : Checked s u) (ord : Nat) :
    ∃ q x, u.elemCheck w b (elemOf b t (at' k)) acc ord = .ok (q, x) ∧ Checked s q := by
  obtain ⟨c, hc, hr, -, hall⟩ := ha
  obtain ⟨hin, hck, hph⟩ := hall k hk
  refine ⟨u.validated u.cur.tile w.pnum c, (c, (elemOf b t (at' k)).off.toNat,
    rotated b.view.rot (s.windowBase c + (elemOf b t (at' k)).off.toNat)), ?_, hf.trans (.validated u w.pnum c)⟩
  rw [hc] at hck
  unfold State.elemCheck
  simp only [hc, hin, if_true, checkCap_congr hf.fetched.cts hf.fetched.chip hr, hck, hph]

/-- Every element of a view checked (R237 step 2). -/
theorem mxCheck_ok {b : BoundView} {acc : Access}
    (ha : Admitted s w b t acc (indexOf (extents b)) (elements (extents b))) :
    ∀ n k u runs, k + n = elements (extents b) → Checked s u →
      ∃ q r, mxCheck w b t acc (extents b) n k u runs = .ok (q, r) ∧ Checked s q := by
  intro n
  induction n with
  | zero => exact fun k u runs _ hu => ⟨u, runs, rfl, hu⟩
  | succ n ih =>
    intro k u runs hk hu
    obtain ⟨q, ⟨c, off, a⟩, he, hq⟩ := elemCheck_checked ha (by omega : k < elements (extents b)) hu k
    obtain ⟨q', r, he', hq'⟩ := ih (k + 1) q (addRun runs a (elemOf b t (indexOf (extents b) k)).size) (by omega) hq
    exact ⟨q', r, by simp only [mxCheck, he, he'], hq'⟩

/-- The elements of every operand checked. -/
theorem mxRuns_ok {acc : Access} : ∀ (l : List MxArg) (u : State), Checked s u →
    (∀ x ∈ l, Admitted s w x.1 x.2 acc (indexOf (extents x.1)) (elements (extents x.1))) →
    ∃ q r, mxRuns u w acc l = .ok (q, r) ∧ Checked s q := by
  intro l
  induction l with
  | nil => exact fun u hu _ => ⟨u, [], rfl, hu⟩
  | cons x l ih =>
    intro u hu hl
    obtain ⟨b, t⟩ := x
    obtain ⟨q, r, he, hq⟩ := mxCheck_ok (hl (b, t) (List.mem_cons_self)) (elements (extents b)) 0 u [] (Nat.zero_add _) hu
    obtain ⟨q', r', he', hq'⟩ := ih q hq fun x hx => hl x (List.mem_cons_of_mem _ hx)
    exact ⟨q', r ++ r', by simp only [mxRuns, he, he', bind, Except.bind], hq'⟩

/-- A new round changes no context but in its credits. -/
theorem ctxAt_newRound (s : State) (t c : Nat) : ∃ n, (s.onCore t CoreSt.newRound).ctxAt t c
    = { s.ctxAt t c with mx := { (s.ctxAt t c).mx with credits := n } } := by
  obtain ⟨n, hn⟩ := CoreSt.newRound_ctx (s.tile t).core c
  exact ⟨n, by rw [State.ctxAt, State.core_onCore_self, hn]; rfl⟩

/-- An instruction whose effect left the registers of the context and the shared state. -/
theorem computed_onward (hr : u.regs = s.regs) (hc : u.cur = s.cur) (hy : u.cycle = s.cycle) (hm : u.mem = s.mem)
    (hp : u.parts = s.parts) (ht : u.cts = s.cts) : Computed s (u.onward h) h id := by
  refine ⟨by rw [onward_regs, hr]; rfl, advanced_onward hc hy (by rw [hr]), fun a => ?_, ht⟩
  simp only [onward_byte]
  simp only [State.byte, State.genOf, hm, hp]

/-- What a matrix instruction leaves that has put its command into the queue. -/
def Queued (s u : State) (w : Who) (h : Hint) (op : MxOp) (m : MxCmd) : Prop :=
  u.ctx.mx.queue = s.ctx.mx.queue ++ [m] ∧ u.ctx.mx.flags = s.ctx.mx.flags ∧ u.ctx.mx.err = none
  ∧ m.op = op ∧ m.task = (s.tile s.cur.tile).loc.taskId w.rec' ∧ m.kslot = w.kslot ∧ m.staged = none ∧ m.poison = none
  ∧ m.ord = s.nextOrd ∧ Computed s u h id

/-- A command that joins the queue of its context. -/
theorem queued_of {op : MxOp} {m : MxCmd} (hq : Checked s q) (herr : s.ctx.mx.err = none) (hop : m.op = op)
    (htask : m.task = (s.tile s.cur.tile).loc.taskId w.rec') (hks : m.kslot = w.kslot) (hst : m.staged = none)
    (hpo : m.poison = none) (hord : m.ord = s.nextOrd) (idle : Bool) :
    let z := q.takeOrd.onCtx fun v => { v with mx := { v.mx with queue := v.mx.queue ++ [m] } }
    Queued s ((if idle then z.onCore s.cur.tile CoreSt.newRound else z).onward h) w h op m := by
  intro z
  have hf := hq.fetched
  have hzc : z.ctx = { q.ctx with mx := { q.ctx.mx with queue := q.ctx.mx.queue ++ [m] } } := by
    have htake : q.takeOrd.ctx = q.ctx := ctx_onCore q q.cur.tile _ fun _ => rfl
    rw [State.ctx_onCtx, htake]
  have hzcur : z.cur = s.cur := hf.cur
  obtain ⟨n, hn⟩ : ∃ n, (if idle then z.onCore s.cur.tile CoreSt.newRound else z).ctx
      = { z.ctx with mx := { z.ctx.mx with credits := n } } := by
    cases idle with
    | false => exact ⟨z.ctx.mx.credits, rfl⟩
    | true =>
      obtain ⟨n, hn⟩ := ctxAt_newRound z s.cur.tile z.cur.ctx
      refine ⟨n, ?_⟩
      rw [if_pos rfl]
      show (z.onCore s.cur.tile CoreSt.newRound).ctxAt z.cur.tile z.cur.ctx = _
      rw [hzcur] at hn ⊢
      rw [hn]
      simp only [State.ctx, hzcur]
  have hsame (f : State → State) (hf' : f z = z ∨ f z = z.onCore s.cur.tile CoreSt.newRound) :
      (f z).cur = s.cur ∧ (f z).cycle = s.cycle ∧ (f z).mem = s.mem ∧ (f z).parts = s.parts ∧ (f z).cts = s.cts := by
    rcases hf' with he | he <;> rw [he] <;> exact ⟨hf.cur, hf.cycle, hf.mem, hf.parts, hf.cts⟩
  obtain ⟨hcur, hcyc, hmem, hparts, hcts⟩ := hsame (fun z => if idle then z.onCore s.cur.tile CoreSt.newRound else z)
    (by cases idle; exact .inl rfl; exact .inr rfl)
  generalize (if idle then z.onCore s.cur.tile CoreSt.newRound else z) = u at hn hcur hcyc hmem hparts hcts
  have hmx (f : MxCtx → Nat) : (u.onward h).ctx.mx = u.ctx.mx := by rw [onward_eq_stepped, stepped_ctx]
  have huc : (u.onward h).ctx.mx = { s.ctx.mx with queue := s.ctx.mx.queue ++ [m], credits := n } := by
    rw [onward_eq_stepped, stepped_ctx, hn, hzc, hf.mx]
  refine ⟨by rw [huc], by rw [huc], by rw [huc]; exact herr, hop, htask, hks, hst, hpo, hord, ?_⟩
  refine computed_onward ?_ hcur hcyc hmem hparts hcts
  rw [State.regs, hn, hzc]
  exact hf.regs

/-- A command that passes its checks is put into the queue. -/
theorem enqueueCommand_ok {op : MxOp} {sources dests : List MxArg} (hs : s.ctx.spec.on = false) (he : s.ctx.mx.err = none)
    (hd : (s.tile s.cur.tile).core.eng.dead = false) (hq : s.ctx.mx.queue.length < 8)
    (hsrc : ∀ x ∈ sources, Admitted s w x.1 x.2 .read (indexOf (extents x.1)) (elements (extents x.1)))
    (hdst : ∀ x ∈ dests, Admitted s w x.1 x.2 .write (indexOf (extents x.1)) (elements (extents x.1))) :
    ∃ q m, ∃ idle : Bool, Checked s q
      ∧ enqueueCommand s w op sources dests
        = .ok (let z := q.takeOrd.onCtx fun v => { v with mx := { v.mx with queue := v.mx.queue ++ [m] } }
          if idle then z.onCore s.cur.tile CoreSt.newRound else z)
      ∧ m.op = op ∧ m.task = (s.tile s.cur.tile).loc.taskId w.rec' ∧ m.kslot = w.kslot ∧ m.staged = none ∧ m.poison = none
      ∧ m.ord = s.nextOrd := by
  obtain ⟨q1, reads, e1, f1⟩ := mxRuns_ok sources s (.refl s) hsrc
  obtain ⟨q, writes, e2, f2⟩ := mxRuns_ok dests q1 f1 hdst
  have hf := f2.fetched
  obtain ⟨l, hcore⟩ := f2.core
  have hspec : q.ctx.spec.on = false := hf.on.trans hs
  have herr : q.ctx.mx.err = none := by rw [hf.mx, he]
  have hdead : (q.tile s.cur.tile).core.eng.dead = false := by rw [hcore]; exact hd
  have hroom : decide (8 ≤ q.ctx.mx.queue.length) = false := by rw [hf.mx, decide_eq_false_iff_not]; omega
  have hord : q.nextOrd = s.nextOrd := by rw [State.nextOrd, hf.cur, hcore]; rfl
  have hcur (f : Context → Context) : (q.takeOrd.onCtx f).cur = s.cur := hf.cur
  unfold enqueueCommand
  simp only [e1, e2, noSpec_of hspec, herr, hf.cur, hdead, Bool.false_eq_true, if_false, waitWhile_of hroom, bind, Except.bind,
    hf.loc, hord, hcur]
  refine ⟨q, _, _, f2, rfl, ?_⟩
  exact ⟨rfl, rfl, rfl, rfl, rfl, rfl⟩

/-- A matrix instruction whose operands pass their checks puts its command into the queue. -/
theorem matrix_queues {op : MxOp} {sources dests : List MxArg} {body : Who → Eff State} (hi : Issues s h w)
    (hn : w.image.nomx = false) (hs : s.ctx.spec.on = false) (he : s.ctx.mx.err = none)
    (hd : (s.tile s.cur.tile).core.eng.dead = false) (hq : s.ctx.mx.queue.length < 8)
    (hbody : body w = enqueueCommand s w op sources dests)
    (hsrc : ∀ x ∈ sources, Admitted s w x.1 x.2 .read (indexOf (extents x.1)) (elements (extents x.1)))
    (hdst : ∀ x ∈ dests, Admitted s w x.1 x.2 .write (indexOf (extents x.1)) (elements (extents x.1))) :
    ∃ u m, issueMatrix s h body = .next u ∧ Queued s u w h op m := by
  obtain ⟨q, m, idle, hck, hok, hop, htask, hks, hst, hpo, hord⟩ := enqueueCommand_ok (op := op) hs he hd hq hsrc hdst
  rw [issueMatrix_eq hi.1 hn]
  exact ⟨_, m, issue_ok hi (hbody.trans hok), queued_of hck he hop htask hks hst hpo hord idle⟩

theorem accOf_of {a : Mreg} {n : Nat} (h : s.ctx.run.accs[a.toNat]? = some n) : accOf s a = .ok n := by
  simp only [accOf, h]

end

/-- Settles O32: the operand checks of a command leave the state but for the validation cache, and the command is appended. -/
theorem matrixIssue : Obligations.MatrixIssue := by
  unfold Obligations.MatrixIssue
  intro s w h t d a x y md ma vx vy b r n k p hi hn hs he hd hq queues reads writes sel
  have hnone {acc : Access} : ∀ x ∈ ([] : List MxArg), Admitted s w x.1 x.2 acc (indexOf (extents x.1)) (elements (extents x.1)) :=
    fun _ hx => absurd hx List.not_mem_nil
  have hone {acc : Access} {v : BoundView} {t : Ty} (hv : Admitted s w v t acc (indexOf (extents v)) (elements (extents v))) :
      ∀ x ∈ [(v, t)], Admitted s w x.1 x.2 acc (indexOf (extents x.1)) (elements (extents x.1)) :=
    fun x hx => by rw [List.mem_singleton.mp hx]; exact hv
  have htwo {v v' : BoundView} {t t' : Ty} (hv : reads v t) (hv' : reads v' t') :
      ∀ x ∈ [(v, t), (v', t')], Admitted s w x.1 x.2 .read (indexOf (extents x.1)) (elements (extents x.1)) := fun x hx => by
    rcases List.mem_cons.mp hx with rfl | hx
    · exact hv
    · exact hone hv' x hx
  have step {i : Instr} {op : MxOp} {sources dests : List MxArg} {body : Who → Eff State} (hex : exec i s = issueMatrix s h body)
      (hbody : body w = enqueueCommand s w op sources dests)
      (hsrc : ∀ x ∈ sources, Admitted s w x.1 x.2 .read (indexOf (extents x.1)) (elements (extents x.1)))
      (hdst : ∀ x ∈ dests, Admitted s w x.1 x.2 .write (indexOf (extents x.1)) (elements (extents x.1))) : queues i op := by
    obtain ⟨u, m, hu, hm⟩ := matrix_queues hi hn hs he hd hq hbody hsrc hdst
    exact ⟨u, m, hex.trans hu, hm⟩
  refine ⟨fun hmd => ⟨?_, fun hx hy hrx hry => ?_, fun hx hy hrx hry => ?_, fun hx hrx => ?_, fun hma hy hry => ?_⟩,
    fun hma hx hsel hno hwx => ?_, fun hdst hn256 => ?_⟩
  · exact step rfl (by simp only [accOf_of hmd, ok_bind]) hnone hnone
  · exact step rfl (by simp only [accOf_of hmd, hx, hy, ok_bind]) (htwo hrx hry) hnone
  · exact step rfl (by simp only [accOf_of hmd, hx, hy, ok_bind]) (htwo hrx hry) hnone
  · exact step rfl (by simp only [accOf_of hmd, hx, ok_bind]) (hone hrx) hnone
  · exact step rfl (by simp only [accOf_of hmd, accOf_of hma, hy, ok_bind]) (hone hry) hnone
  · have hneed : (decide (sel ≤ 1) && !(h.sat && sel == 0 && t.isInt)) = true := by rw [hno, decide_eq_true hsel]; rfl
    dsimp only [sel] at hneed
    exact step rfl (by simp only [accOf_of hma, hx, need_of hneed, ok_bind, sel]) hnone (hone hwx)
  · exact step rfl (by simp only [hdst, need_of (decide_eq_true hn256), ok_bind]) hnone hnone

end Sys2Proof.Machine
end

section
/-!
PROOFS. MSTAT, NOMX kernels and the start of a command (R127, R236, R251, R254).
-/

namespace Sys2Proof.Machine

section
variable {s u v : State} {w : Who} {h : Hint} {t c : Nat}

/-! ## MSTAT and NOMX kernels -/

/-- MSTAT reads the matrix state into x[d], and clears the flags when bit 0 of its operand is set (R251). -/
theorem mstat_reads {d : Reg} {i : Imm} (hi : Issues s h w) (hn : w.image.nomx = false) (hsel : (immWord i).toNat ≤ 3)
    (hwait : bit (immWord i).toNat 1 = true ∨ w.image.det = true → s.mxQueue = []) :
    ∃ u, exec (.mstat h d i) s = .next u
      ∧ Computed s u h (fun r => r.writeX d (mxStatus s.ctx.mx (s.tile s.cur.tile).core.eng.dead))
      ∧ u.ctx.mx = { s.ctx.mx with flags := if bit (immWord i).toNat 0 then 0 else s.ctx.mx.flags } := by
  have hw : ((bit (immWord i).toNat 1 || w.image.det) && !s.mxQueue.isEmpty) = false := by
    by_cases hc : bit (immWord i).toNat 1 = true ∨ w.image.det = true
    · simp [hwait hc]
    · rw [← Bool.or_eq_true, Bool.not_eq_true] at hc
      rw [hc, Bool.false_and]
  generalize hstat : mxStatus s.ctx.mx (s.tile s.cur.tile).core.eng.dead = x
  let e : State := s.onCtx fun v => { v with
    regs := v.regs.writeX d x, mx := { v.mx with flags := if bit (immWord i).toNat 0 then 0 else v.mx.flags } }
  have hbody : (do
      need s ((immWord i).toNat ≤ 3)
      waitWhile s ((bit (immWord i).toNat 1 || w.image.det) && !s.mxQueue.isEmpty)
      let s' := s.setX d x
      .ok (if bit (immWord i).toNat 0 then s'.onCtx fun v => { v with mx := { v.mx with flags := 0 } } else s') : Eff State)
      = .ok e := by
    simp only [need_of (decide_eq_true hsel), waitWhile_of hw, ok_bind, e, State.setX_eq]
    by_cases h0 : bit (immWord i).toNat 0 = true
    · simp only [if_pos h0, State.onCtx_onCtx]
    · simp only [if_neg h0]
  have hex : exec (.mstat h d i) s = .next (e.onward h) := by
    show issueMatrix s h _ = _
    rw [issueMatrix_eq hi.1 hn]
    exact issue_ok hi (by rw [← hbody, hstat])
  have hctx : e.ctx = { s.ctx with
      regs := s.ctx.regs.writeX d x, mx := { s.ctx.mx with flags := if bit (immWord i).toNat 0 then 0 else s.ctx.mx.flags } } :=
    State.ctx_onCtx _ _
  have hregs : e.regs = s.regs.writeX d x := congrArg Context.regs hctx
  refine ⟨_, hex, ⟨?_, advanced_onward rfl rfl ?_, fun a => rfl, rfl⟩, ?_⟩
  · rw [onward_regs, hregs, Regs.writeX_pc]
  · rw [hregs, Regs.writeX_pc]
  · rw [onward_eq_stepped, stepped_ctx, hctx]

/-- In a NOMX kernel a matrix instruction traps with ILLEGAL, subcode 0x01 (R254). -/
theorem issueMatrix_nomx (hi : s.issuer = some w) (hn : w.image.nomx = true) (hd : Delivers s w) (body : Who → Eff State) :
    ∃ u, issueMatrix s h body = .next u ∧ Trapped s u w cIllegal 1 := by
  have he : issueMatrix s h body = settle s w (raise s cIllegal 1) := by simp only [issueMatrix, hi, hn, if_true]
  rw [he]
  exact settle_delivers hd.2.2 hd (by decide) (by decide) (by decide)

/-! ## Staging (R236) -/

/-- Memory and what the cores hold stand; memory errors may have been counted. -/
structure CoresKept (s u : State) : Prop where
  mem : u.mem = s.mem
  core : ∀ n, (u.tile n).core = (s.tile n).core

theorem CoresKept.refl (s : State) : CoresKept s s := ⟨rfl, fun _ => rfl⟩

theorem CoresKept.trans (a : CoresKept s u) (b : CoresKept u v) : CoresKept s v :=
  ⟨b.mem.trans a.mem, fun n => (b.core n).trans (a.core n)⟩

theorem CoresKept.ctxAt (h : CoresKept s u) (n c : Nat) : u.ctxAt n c = s.ctxAt n c := by
  rw [State.ctxAt, h.core, State.ctxAt]

theorem CoresKept.countMemory (s : State) (a : Accessor) (n m : Nat) : CoresKept s (s.countMemory a n m) := by
  have htile (t : Nat) (f : Counts → Counts) : CoresKept s (s.onTile t fun v => { v with counts := f v.counts }) := by
    refine ⟨rfl, fun k => ?_⟩
    by_cases hk : k = t
    · subst hk; rw [State.tile_onTile_self]
    · rw [State.tile_onTile_ne _ _ hk]
  have hvf (z : State) (v : Nat) : CoresKept z ((z.vfAdd v 0 n).vfAdd v 1 m) := ⟨rfl, fun _ => rfl⟩
  obtain ⟨_ | t, _ | v⟩ := a
  · exact .refl s
  · exact hvf s v
  · exact htile t fun c => c.memory n m
  · exact (htile t fun c => c.memory n m).trans (hvf _ v)

theorem CoresKept.eccRead (s : State) (by' : Accessor) (a n : Nat) : CoresKept s (s.eccRead by' a n).1 := by
  unfold State.eccRead State.eccCorrect
  split
  · exact .countMemory s _ _ _
  · dsimp only
    split
    · exact .refl s
    · have hfix : CoresKept s (s.eccFixed a n) := ⟨rfl, fun _ => rfl⟩
      exact hfix.trans (.countMemory _ _ _ _)

theorem CoresKept.stageRuns (s : State) (t : Nat) (m : MxCmd) : CoresKept s (s.stageRuns t m).1 := by
  have hfold (l : List (Nat × Nat)) : ∀ x : State × Option Nat, CoresKept x.1 (l.foldl (fun a r =>
      let x := a.1.eccRead (a.1.mxBy t m) r.1 r.2
      (x.1, a.2 <|> x.2)) x).1 := by
    induction l with
    | nil => exact fun x => .refl _
    | cons r l ih =>
      intro x
      exact (CoresKept.eccRead x.1 (x.1.mxBy t m) r.1 r.2).trans
        (ih ((x.1.eccRead (x.1.mxBy t m) r.1 r.2).1, x.2 <|> (x.1.eccRead (x.1.mxBy t m) r.1 r.2).2))
  exact hfold m.reads (s, none)

/-- Without latent errors staging meets none. -/
theorem stageRuns_clean (hc : Clean s) (m : MxCmd) : s.stageRuns t m = (s, none) := by
  have hread (b : Accessor) (a n : Nat) : s.eccRead b a n = (s, none) := by
    unfold State.eccRead State.eccCorrect
    rw [eccAt_clean hc]
    simp [State.eccHits, hc.1]
  have hfold (l : List (Nat × Nat)) : l.foldl (fun (a : State × Option Nat) r =>
      let x := a.1.eccRead (a.1.mxBy t m) r.1 r.2
      (x.1, a.2 <|> x.2)) (s, none) = (s, none) := by
    induction l with
    | nil => rfl
    | cons r l ih => rw [List.foldl_cons]; simp only [hread]; exact ih
  exact hfold m.reads

/-- A change behind the head of a list. -/
theorem List.head?_set_succ {α : Type} (l : List α) (i : Nat) (x : α) : (l.set (i + 1) x).head? = l.head? := by
  cases l <;> rfl

/-- What staging the next command of a context may change: that context's queue, behind the command that runs. -/
structure Staged (s u : State) (t : Nat) : Prop where
  mem : u.mem = s.mem
  running : (u.tile t).core.eng = (s.tile t).core.eng
  head : ∀ c, (s.tile t).core.running c = true → (u.ctxAt t c).mx.queue.head? = (s.ctxAt t c).mx.queue.head?

theorem Staged.refl (s : State) (t : Nat) : Staged s s t := ⟨rfl, rfl, fun _ _ => rfl⟩

theorem Staged.stageOf (s : State) (t c : Nat) : Staged s (s.stageOf t c) t := by
  unfold State.stageOf
  dsimp only
  split
  case h_1 m hm =>
    split
    · exact .refl s t
    · have hk := CoresKept.stageRuns s t m
      refine ⟨hk.mem, ?_, fun c' hrun => ?_⟩
      · rw [State.onCtxAt, State.tile_setCtxAt_self]
        show ((s.stageRuns t m).1.tile t).core.eng = _
        rw [hk.core]
      · by_cases hc : c' = c
        · subst hc
          rw [State.onCtxAt, State.ctxAt_setCtxAt_self, CoreSt.waitingAt, if_pos hrun]
          rw [hk.ctxAt]
          exact List.head?_set_succ _ 0 _
        · rw [State.onCtxAt, State.ctxAt_setCtxAt_ne _ _ (fun hh => hc hh.2), hk.ctxAt]
  case h_2 => exact .refl s t

theorem Staged.stageNext (s : State) (t : Nat) : Staged s (s.stageNext t) t := by
  unfold State.stageNext
  split
  · exact .stageOf s t _
  · exact .refl s t

/-- A command whose operands are staged as memory holds them now (R236). -/
def State.stagedCmd (s : State) (m : MxCmd) : MxCmd :=
  { m with staged := some (m.op.sources.map fun x => (s.stageView x.1 x.2).1), poison := none, sflags := s.stagedTern m }

/-- A context with one command of its queue replaced. -/
def Context.withCmd (v : Context) (i : Nat) (m : MxCmd) : Context := { v with mx := { v.mx with queue := v.mx.queue.set i m } }

theorem Context.head_withCmd {v : Context} {m m' : MxCmd} (h : v.mx.queue[0]? = some m) :
    (v.withCmd 0 m').mx.queue.head? = some m' := by
  unfold Context.withCmd
  generalize v.mx.queue = l at h
  cases l with
  | nil => cases h
  | cons x l => rfl

/-- Staging a command that nothing holds back (R236). -/
theorem stageOf_stages {m : MxCmd} (hm : (s.ctxAt t c).mx.queue[(s.tile t).core.waitingAt c]? = some m) (hst : m.staged = none)
    (hdead : (s.tile t).core.eng.dead = false) (hquiet : (s.tile t).quiet s.cycle = false) (hnb : m.notBefore ≤ s.cycle)
    (hheld : heldWrites (s.ctxAt t c) ((s.ctxAt t c).mx.queue.take ((s.tile t).core.waitingAt c)) m = false) (hcl : Clean s) :
    s.stageOf t c = s.onCtxAt t c fun v => v.withCmd ((s.tile t).core.waitingAt c) (s.stagedCmd m) := by
  unfold State.stageOf
  simp only [hm, hst, Option.isSome_none, hdead, hquiet, Nat.not_lt.mpr hnb, decide_false, hheld, Bool.or_self, Bool.false_eq_true,
    if_false, stageRuns_clean hcl, State.stagedCmd,
    Context.withCmd]

/-- A staged command that its engine starts (R236). -/
theorem startOf_runs {m : MxCmd} (hm : (s.ctxAt t c).mx.queue.head? = some m) (hst : m.staged.isSome = true) :
    (s.startOf t c).mem = s.mem ∧ ((s.startOf t c).tile t).core.eng.running = some (c, m)
      ∧ ((s.startOf t c).ctxAt t c).mx.queue.head? = some m := by
  unfold State.startOf
  simp only [hm, hst, if_true]
  refine ⟨rfl, by rw [State.core_onCore_self], ?_⟩
  rw [ctxAt_onCore _ _ _ (by exact fun _ => rfl), State.onCtxAt, State.ctxAt_setCtxAt_self]
  exact hm

/-! ## The core of the next round (R127) -/

theorem serve_core {n : Nat} {k l : CoreSt} (h : k.serve = some (n, l)) : l = k ∨ l = k.newRound := by
  unfold CoreSt.serve at h
  split at h
  · simp only [Option.some.injEq, Prod.mk.injEq] at h
    exact .inl h.2.symm
  · simp only [Option.map_eq_some_iff, Prod.mk.injEq] at h
    obtain ⟨_, -, -, rfl⟩ := h
    exact .inr rfl

/-- The core of the next round stands for the one before it but for credits and the place of the round. -/
structure SameRound (k l : CoreSt) : Prop where
  running : l.eng.running = k.eng.running
  dead : l.eng.dead = k.eng.dead
  halting : l.disp.halting = k.disp.halting
  ctx : ∀ c, ∃ n, aget l.ctxs .reset c = { aget k.ctxs .reset c with mx := { (aget k.ctxs .reset c).mx with credits := n } }
  quiet : ∀ f : Nat × Context → Bool, (∀ i v n, f (i, { v with mx := { v.mx with credits := n } }) = f (i, v)) →
    l.ctxs.all f = k.ctxs.all f

theorem SameRound.refl (k : CoreSt) : SameRound k k :=
  ⟨rfl, rfl, rfl, fun c => ⟨(aget k.ctxs .reset c).mx.credits, rfl⟩, fun _ _ => rfl⟩

theorem SameRound.newRound (k : CoreSt) : SameRound k k.newRound := by
  refine ⟨rfl, rfl, rfl, fun c => CoreSt.newRound_ctx k c, fun f hf => ?_⟩
  simp only [CoreSt.newRound, amap, List.all_map]
  congr 1
  funext x
  exact hf _ _ _

theorem SameRound.of_serve {n : Nat} {k l : CoreSt} (h : k.serve = some (n, l)) : SameRound k l := by
  rcases serve_core h with rfl | rfl
  · exact .refl _
  · exact .newRound k

/-! ## The start of a command -/

theorem SameRound.running_iff {k l : CoreSt} (h : SameRound k l) (c : Nat) : l.running c = k.running c := by
  rw [CoreSt.running, h.running, CoreSt.running]

/-- The state with the core of the next round. -/
theorem round_ctx {k : CoreSt} (h : SameRound (s.tile t).core k) (c : Nat) : ∃ n, (s.onCore t fun _ => k).ctxAt t c
    = { s.ctxAt t c with mx := { (s.ctxAt t c).mx with credits := n } } := by
  obtain ⟨n, hn⟩ := h.ctx c
  exact ⟨n, by rw [State.ctxAt, State.core_onCore_self]; exact hn⟩

theorem round_quiet {k : CoreSt} (h : SameRound (s.tile t).core k) :
    ((s.onCore t fun _ => k).tile t).quiet s.cycle = (s.tile t).quiet s.cycle := by
  unfold Tile.quiet
  rw [State.core_onCore_self, h.halting, h.quiet _ (fun _ _ _ => rfl)]

/-- Behind a command that starts the one that follows it is staged: the engine runs the started one, which heads its queue. -/
theorem started_head {m : MxCmd} (hm : (s.ctxAt t c).mx.queue.head? = some m) (hst : m.staged.isSome = true) :
    ((s.startOf t c).stageNext t).mem = s.mem
      ∧ (((s.startOf t c).stageNext t).tile t).core.eng.running = some (c, m)
      ∧ (((s.startOf t c).stageNext t).ctxAt t c).mx.queue.head? = some m := by
  obtain ⟨hmem, hrun, hhead⟩ := startOf_runs hm hst
  have hn := Staged.stageNext (s.startOf t c) t
  refine ⟨hn.mem.trans hmem, by rw [hn.running, hrun], ?_⟩
  rw [hn.head c (by rw [CoreSt.running, hrun]; exact beq_self_eq_true c)]
  exact hhead

theorem exec_matrixCommandStart_idle {k : CoreSt} (hdead : (s.tile s.cur.tile).core.eng.dead = false)
    (hquiet : (s.tile s.cur.tile).quiet s.cycle = false) (hrun : (s.tile s.cur.tile).core.eng.running = none)
    (hserve : (s.tile s.cur.tile).core.serve = some (c, k)) : exec .matrixCommandStart s
      = .next ((((s.onCore s.cur.tile fun _ => k).stageOf s.cur.tile c).startOf s.cur.tile c).stageNext s.cur.tile) := by
  show execMatrixCommandStart s = _
  simp only [execMatrixCommandStart, hdead, hquiet, Bool.false_eq_true, or_self, if_false, hrun, hserve]

end

/-- Settles O33: MSTAT and NOMX kernels at issue; at the engine, staging reads memory as it stands, and the start of a command
keeps it at the head of its queue. -/
theorem matrixStatusAndStaging : Obligations.MatrixStatusAndStaging := by
  unfold Obligations.MatrixStatusAndStaging
  refine ⟨fun s w h t d i m a x y b n k hi => ⟨fun hiss hn hsel hw => mstat_reads hiss hn hsel hw, fun hn hd =>
    ⟨issueMatrix_nomx hi hn hd _, issueMatrix_nomx hi hn hd _, issueMatrix_nomx hi hn hd _, issueMatrix_nomx hi hn hd _,
      issueMatrix_nomx hi hn hd _, issueMatrix_nomx hi hn hd _, issueMatrix_nomx hi hn hd _, issueMatrix_nomx hi hn hd _⟩⟩, ?_⟩
  intro s c k m
  dsimp only
  refine ⟨fun hdead hquiet hserve hm => ⟨fun hst hnb hheld hcl => ⟨fun hrun => ?_, fun r hrun => ?_⟩, fun x hst hrun => ?_⟩, ?_⟩
  · have hround := SameRound.of_serve hserve
    have hwait : ((s.onCore s.cur.tile fun _ => k).tile s.cur.tile).core.waitingAt c = 0 := by
      rw [State.core_onCore_self, CoreSt.waitingAt, hround.running_iff, CoreSt.running, hrun]
      rfl
    have hwait0 : (s.tile s.cur.tile).core.waitingAt c = 0 := by rw [CoreSt.waitingAt, CoreSt.running, hrun]; rfl
    obtain ⟨n, hn⟩ := round_ctx hround c
    rw [exec_matrixCommandStart_idle hdead hquiet hrun hserve, stageOf_stages (m := m)]
    · obtain ⟨h1, h2, h3⟩ := started_head (t := s.cur.tile) (c := c) (m := s.stagedCmd m)
        (s := (s.onCore s.cur.tile fun _ => k).onCtxAt s.cur.tile c fun v =>
          v.withCmd (((s.onCore s.cur.tile fun _ => k).tile s.cur.tile).core.waitingAt c)
            ((s.onCore s.cur.tile fun _ => k).stagedCmd m))
        (by
          rw [State.onCtxAt, State.ctxAt_setCtxAt_self, hwait]
          exact Context.head_withCmd (m := m) (by rw [hn, ← hwait0]; exact hm)) rfl
      exact ⟨_, rfl, h1, h2, h3⟩
    · rw [hwait, hn, ← hwait0]; exact hm
    · exact hst
    · rw [State.core_onCore_self, hround.dead]; exact hdead
    · exact (round_quiet hround).trans hquiet
    · exact hnb
    · rw [hwait, hn, ← hwait0]; exact hheld
    · exact hcl
  · have hex : exec .matrixCommandStart s = .next (s.stageOf s.cur.tile c) := by
      show execMatrixCommandStart s = _
      simp only [execMatrixCommandStart, hdead, hquiet, Bool.false_eq_true, or_self, if_false, hrun, State.stageNext, hserve]
    have hs := Staged.stageOf s s.cur.tile c
    refine ⟨_, hex, hs.mem, by rw [hs.running, hrun], ?_⟩
    rw [stageOf_stages hm hst hdead hquiet hnb hheld hcl, State.onCtxAt, State.ctxAt_setCtxAt_self]
    rfl
  · have hround := SameRound.of_serve hserve
    have hwait : ((s.onCore s.cur.tile fun _ => k).tile s.cur.tile).core.waitingAt c = 0 := by
      rw [State.core_onCore_self, CoreSt.waitingAt, hround.running_iff, CoreSt.running, hrun]
      rfl
    have hwait0 : (s.tile s.cur.tile).core.waitingAt c = 0 := by rw [CoreSt.waitingAt, CoreSt.running, hrun]; rfl
    obtain ⟨n, hn⟩ := round_ctx hround c
    have hm' : ((s.onCore s.cur.tile fun _ => k).ctxAt s.cur.tile c).mx.queue[0]? = some m := by rw [hn, ← hwait0]; exact hm
    have hstay : (s.onCore s.cur.tile fun _ => k).stageOf s.cur.tile c = s.onCore s.cur.tile fun _ => k := by
      unfold State.stageOf
      simp only [hwait, hm', hst, Option.isSome_some, Bool.true_or, if_true]
    obtain ⟨h1, h2, -⟩ := started_head (s := s.onCore s.cur.tile fun _ => k) (t := s.cur.tile) (c := c) (m := m)
      (by rw [List.head?_eq_getElem?]; exact hm') (by rw [hst]; rfl)
    rw [exec_matrixCommandStart_idle hdead hquiet hrun hserve, hstay]
    exact ⟨_, rfl, h1, h2⟩
  · intro hidle
    show execMatrixCommandStart s = _
    unfold execMatrixCommandStart
    dsimp only
    rcases hidle with hd | hq | ⟨hr, hs⟩
    · rw [if_pos (.inl hd)]
    · rw [if_pos (.inr hq)]
    · rw [hr, hs, ite_self]

end Sys2Proof.Machine
end

section
/-!
PROOFS. What a completed matrix command writes (R170, R171, R232, R245 to R250, R252).
-/

namespace Sys2Proof.Machine

section
variable {s u v : State} {t c : Nat} {m : MxCmd} {A B : List Nat}

/-! ## The end of a command -/

/-- Whether a new round begins or not, the engine runs what it ran. -/
theorem round_running (k : CoreSt) : (if k.nextServed.isSome then k else k.newRound).eng.running = k.eng.running := by
  split <;> rfl

theorem endCommand_idle (s : State) (t c : Nat) : ((s.endCommand t c).tile t).core.eng.running = none := by
  unfold State.endCommand
  rw [State.core_onCore_self]
  exact round_running _

theorem endCommand_queue (s : State) (t c : Nat) : ((s.endCommand t c).ctxAt t c).mx.queue = (s.ctxAt t c).mx.queue.drop 1 := by
  obtain ⟨n, hn⟩ := s.ctxAt_endCommand t c
  rw [hn, Context.dequeued_mx]

/-- A command without errors comes to its effect and leaves the queue and the engine. -/
theorem commandComplete_eq (hr : (s.tile s.cur.tile).core.eng.running = some (c, m)) (hp : m.poison = none)
    (he : ∀ a, (s.acc s.cur.tile a).err = none) (hpost : s.mayPost s.cur.tile c m = true) :
    exec (.matrixCommandComplete .agree) s = .next ((s.runCommand s.cur.tile m m.sflags).endCommand s.cur.tile c) := by
  have hmeet : (m.op.accReads.any fun a => decide ((s.acc s.cur.tile a).err = some true)) = false := by simp [he]
  have herr : s.cmdError s.cur.tile m = none := by
    simp only [State.cmdError, hp, Option.isSome_none, Bool.false_eq_true, if_false, hmeet]
  have hcor : s.correctAccs s.cur.tile m = s := by
    unfold State.correctAccs
    generalize m.op.accReads = l
    induction l with
    | nil => rfl
    | cons a l ih => rw [List.foldl_cons, if_neg (by rw [he]; exact nofun)]; exact ih
  show execMatrixCommandComplete .agree s = _
  simp only [execMatrixCommandComplete, hr, hpost, if_true, State.finishCommand, herr, hcor]

/-! ## Flags of the command's task -/

/-- What sets flags or errors of a task leaves alone. -/
structure Unflagged (s u : State) (t : Nat) : Prop where
  mem : u.mem = s.mem
  acc : ∀ a, u.acc t a = s.acc t a
  queue : ∀ c, (u.ctxAt t c).mx.queue = (s.ctxAt t c).mx.queue

theorem Unflagged.refl (s : State) (t : Nat) : Unflagged s s t := ⟨rfl, fun _ => rfl, fun _ => rfl⟩

theorem Unflagged.onCtxAt (s : State) (t c : Nat) {f : Context → Context} (hf : ∀ v, (f v).mx.queue = v.mx.queue) :
    Unflagged s (s.onCtxAt t c f) t := by
  refine ⟨rfl, fun a => ?_, fun d => ?_⟩
  · rw [State.acc, State.onCtxAt, State.tile_setCtxAt_self, State.acc]
  · by_cases hd : d = c
    · subst hd; rw [State.onCtxAt, State.ctxAt_setCtxAt_self, hf]
    · rw [State.onCtxAt, State.ctxAt_setCtxAt_ne _ _ (fun h => hd h.2)]

theorem Unflagged.onLocal (s : State) (t : Nat) (f : Local → Local) : Unflagged s (s.onLocal t f) t :=
  ⟨rfl, fun a => by rw [State.acc, State.core_onLocal, State.acc], fun d => by rw [State.ctxAt_onLocal]⟩

theorem Unflagged.mxFlags (s : State) (t : Nat) (id : TaskId) (fl : Flags) : Unflagged s (s.mxFlags t id fl) t := by
  unfold State.mxFlags State.onMxTask
  cases aget? (s.tile t).loc.recs id.rec' with
  | none => exact .refl s t
  | some q =>
    rw [Option.bind_some]
    split
    · exact .refl s t
    · split
      · rw [Option.getD_some]
        refine Unflagged.onCtxAt s t _ ?_
        exact fun _ => rfl
      · cases aget? (s.tile t).loc.park id.rec' with
        | none => exact .refl s t
        | some e =>
          rw [Option.bind_some]
          split
          · exact .refl s t
          · exact Unflagged.onLocal s t fun l => { l with
              park := aset l.park id.rec' { e with mxFlags := e.mxFlags ||| fl, mxErr := e.mxErr } }

/-! ## The words of an accumulator -/

theorem getD_upto {α : Type} {n k : Nat} (f : Nat → α) (d : α) (hk : k < n) : ((upto n).map f).getD k d = f k := by
  simp [List.getD, upto, hk]

theorem word_accWith (f : Nat → Nat → Nat × Flags) {i j : Nat} (hi : i < 32) (hj : j < 32) :
    (accWith f).1.word (32 * i + j) = (f i j).1 % 2 ^ 32 := by
  have hn : 32 * i + j < 1024 := by omega
  have hdiv : (32 * i + j) / 32 = i := by omega
  have hmod : (32 * i + j) % 32 = j := by omega
  simp only [accWith, AccVal.word_accFrom _ hn, getD_upto (fun n => f (n / 32) (n % 32)) (0, 0) hn, hdiv, hmod]

/-- What a command without errors comes to that gives every word of an accumulator. -/
theorem gives_words {d : Nat} {f : Nat → Nat → Nat} {r : AccVal} (hr : (s.tile s.cur.tile).core.eng.running = some (c, m))
    (hp : m.poison = none) (he : ∀ a, (s.acc s.cur.tile a).err = none) (hpost : s.mayPost s.cur.tile c m = true)
    (hrun : Unflagged (s.setAcc s.cur.tile d r) (s.runCommand s.cur.tile m m.sflags) s.cur.tile)
    (hw : ∀ i < 32, ∀ j < 32, r.word (32 * i + j) = f i j % 2 ^ 32) :
    ∃ u, (exec (.matrixCommandComplete .agree) s = .next u ∧ (u.tile s.cur.tile).core.eng.running = none
        ∧ (u.ctxAt s.cur.tile c).mx.queue = (s.ctxAt s.cur.tile c).mx.queue.drop 1) ∧ u.mem = s.mem
      ∧ (∀ i < 32, ∀ j < 32, (u.acc s.cur.tile d).word (32 * i + j) = f i j % 2 ^ 32)
      ∧ (∀ e, e ≠ d → u.acc s.cur.tile e = s.acc s.cur.tile e) := by
  refine ⟨_, ⟨commandComplete_eq hr hp he hpost, endCommand_idle _ _ _, ?_⟩, hrun.mem, fun i hi j hj => ?_, fun e hne => ?_⟩
  · rw [endCommand_queue, hrun.queue, State.ctxAt_setAcc]
  · rw [State.acc_endCommand, hrun.acc, State.acc_setAcc_self]
    exact hw i hi j hj
  · rw [State.acc_endCommand, hrun.acc, State.acc_setAcc_ne _ _ _ hne]

/-! ## MST and MSIG -/

theorem foldl_tiles {f : State → Nat → State} (h : ∀ s k, (f s k).tiles = s.tiles) (l : List Nat) :
    ∀ s, (l.foldl f s).tiles = s.tiles := by
  induction l with
  | nil => exact fun s => rfl
  | cons k l ih => exact fun s => (ih (f s k)).trans (h s k)

/-- The elements of MST change memory, and neither accumulators nor contexts. -/
theorem storeAcc_tiles (s : State) (t : Nat) (d : BoundView) (ty : Ty) (f : Nat → Nat) : (s.storeAcc t d ty f).tiles = s.tiles := by
  unfold State.storeAcc
  cases d.cap with
  | none => rfl
  | some c => exact foldl_tiles (fun s k => (perform_wrote s t c _ _).tiles) _ s

/-- MST depends on the elements of its view only. -/
theorem storeAcc_congr {d : BoundView} {ty : Ty} {f g : Nat → Nat} (h : ∀ k < 1024, f k = g k) :
    s.storeAcc t d ty f = s.storeAcc t d ty g := by
  unfold State.storeAcc
  cases d.cap with
  | none => rfl
  | some c => exact List.foldl_ext _ _ _ fun s k hk => by rw [h k (List.mem_range.mp hk)]

theorem acc_of_tiles (h : u.tiles = s.tiles) (t a : Nat) : u.acc t a = s.acc t a := by
  simp only [State.acc, State.tile, h]

theorem ctxAt_of_tiles (h : u.tiles = s.tiles) (t c : Nat) : u.ctxAt t c = s.ctxAt t c := by
  simp only [State.ctxAt, State.tile, h]

end

/-- Settles O34: the end of a command is its effect (`commandComplete_eq`), whose flags touch no accumulator and no queue. -/
theorem matrixCommandEffects : Obligations.MatrixCommandEffects := by
  unfold Obligations.MatrixCommandEffects
  intro s c m A B hr hp he hst
  have hA : (m.staged.getD []).getD 0 [] = A := by
    rcases hst with h | ⟨h, -⟩ | ⟨h, hA, -⟩
    · rw [h]; rfl
    · rw [h]; rfl
    · rw [h, hA]; rfl
  have hB : (m.staged.getD []).getD 1 [] = B := by
    rcases hst with h | ⟨h, hB⟩ | ⟨h, -, hB⟩
    · rw [h]; rfl
    · rw [h, hB]; rfl
    · rw [h, hB]; rfl
  refine ⟨fun d ho => ?_, fun ty d va vb sat ho => ?_, fun d va vb sat ho => ?_, fun ty d va ho => ?_, fun d src vb sat ho => ?_,
    fun ty vd src asInt sat mode ho => ?_, fun dst ctr amount ho hbefore => ?_⟩
  · refine gives_words (r := accFrom fun _ => 0) hr hp he (by simp only [State.mayPost, ho]) ?_ fun i hi j hj =>
      AccVal.word_accFrom _ (by omega)
    simp only [State.runCommand, ho]
    exact .refl _ _
  · refine gives_words (r := (accWith fun i j => mmaElem ty sat (va.view.extent 0) A B
        ((s.acc s.cur.tile d).word (32 * i + j)) i j).1) hr hp he (by simp only [State.mayPost, ho]) ?_ fun i hi j hj =>
      word_accWith _ hi hj
    simp only [State.runCommand, ho, hA, hB]
    exact .mxFlags _ _ _ _
  · refine gives_words (r := (accWith fun i j => (mmatElem sat (va.view.extent 0) A B
        ((s.acc s.cur.tile d).word (32 * i + j)) i j, 0)).1) hr hp he (by simp only [State.mayPost, ho]) ?_ fun i hi j hj =>
      word_accWith _ hi hj
    simp only [State.runCommand, ho, hA, hB]
    exact .mxFlags _ _ _ _
  · refine gives_words (r := (accWith fun i j => ((mldElem ty (stagedAt A 32 i j)).bits, (mldElem ty (stagedAt A 32 i j)).fl)).1)
      hr hp he (by simp only [State.mayPost, ho]) ?_ fun i hi j hj => word_accWith _ hi hj
    simp only [State.runCommand, ho, hA]
    exact .mxFlags _ _ _ _
  · refine gives_words (r := (accWith fun i j =>
        let r := mscaleElem sat ((s.acc s.cur.tile d).word (32 * i + j)) ((s.acc s.cur.tile src).word (32 * i + j))
          (A.getD i 0) (A.getD (32 + j) 0)
        (r.bits, r.fl)).1) hr hp he (by simp only [State.mayPost, ho]) ?_ fun i hi j hj => word_accWith _ hi hj
    simp only [State.runCommand, ho, hA]
    exact .mxFlags _ _ _ _
  · have hex := commandComplete_eq hr hp he (by simp only [State.mayPost, ho])
    have hsame : s.storeAcc s.cur.tile vd ty (fun n => (((upto 1024).map fun n =>
          mstElem ty asInt sat (.ofRmode mode) ((s.acc s.cur.tile src).word n)).getD n ⟨0, 0⟩).bits)
        = s.storeAcc s.cur.tile vd ty fun k => (mstElem ty asInt sat (.ofRmode mode) ((s.acc s.cur.tile src).word k)).bits :=
      storeAcc_congr fun k hk => by rw [getD_upto _ _ hk]
    have hti := storeAcc_tiles s s.cur.tile vd ty fun k =>
      (mstElem ty asInt sat (.ofRmode mode) ((s.acc s.cur.tile src).word k)).bits
    simp only [State.runCommand, ho, hsame] at hex
    generalize (s.storeAcc s.cur.tile vd ty fun k =>
      (mstElem ty asInt sat (.ofRmode mode) ((s.acc s.cur.tile src).word k)).bits) = z at hex hti ⊢
    generalize flagsOf _ = fl at hex
    have hfl := Unflagged.mxFlags z s.cur.tile m.task fl
    refine ⟨_, ⟨hex, endCommand_idle _ _ _, ?_⟩, fun e => ?_, hfl.mem⟩
    · rw [endCommand_queue, hfl.queue, ctxAt_of_tiles hti]
    · rw [State.acc_endCommand, hfl.acc, acc_of_tiles hti]
  · have hex := commandComplete_eq hr hp he (by simp only [State.mayPost, ho]; exact hbefore)
    have hti : (s.runCommand s.cur.tile m m.sflags).tiles = s.tiles := by
      simp only [State.runCommand, ho]
      cases s.partOfTile s.cur.tile with
      | none => rfl
      | some p =>
        dsimp only [State.send, State.sendPkt]
        split <;> rfl
    have hme : (s.runCommand s.cur.tile m m.sflags).mem = s.mem := by
      simp only [State.runCommand, ho]
      cases s.partOfTile s.cur.tile with
      | none => rfl
      | some p =>
        dsimp only [State.send, State.sendPkt]
        split <;> rfl
    refine ⟨_, ⟨hex, endCommand_idle _ _ _, ?_⟩, hme, fun e => ?_, fun p hpart hdst => ?_⟩
    · rw [endCommand_queue, ctxAt_of_tiles hti]
    · rw [State.acc_endCommand, acc_of_tiles hti]
    · obtain ⟨q, hq, hqd, hqb⟩ := send_here (s := s) (vn := 0) (part := p.1) (kslot := m.kslot) (len := 16)
        (src := ⟨s.chip, s.cur.tile⟩) (dst := dst) (unit := .engine) (b := .inc ctr amount (dst == ⟨s.chip, s.cur.tile⟩)) hdst
      refine ⟨q, ?_, hqd, hqb⟩
      simp only [State.runCommand, ho, hpart, hq]
      rfl

end Sys2Proof.Machine
end

section
/-!
PROOFS. The instructions of the steward's hart (R302 to R306).
-/

namespace Sys2Proof.Machine

/-- A hart that issues: it is not stopped, it runs software, no operation of its engine is under way, and the strike horizon is off. -/
structure HartReady (s : State) : Prop where
  going : s.stwStopped = false
  runs : s.stw.runs = true
  idle : s.stw.ops = []
  plain : s.shz s.cur.tile = false

section
variable {s u : State} {len : Nat} {regs : List Reg} {body : State → StwEff} (hh : HartReady s)
include hh

/-! ## The frame of an instruction of the hart -/

theorem stewardJump_frame : stewardJump s len regs body = (match body s with
    | .ok s => .next (s.onStw Steward.retire)
    | .error .stall => .next s
    | .error (.wait s) => .next s
    | .error (.fault code sub) => .next (s.onStw fun w => w.enterFault code sub len)
    | .error (.exception cause val) => .next (s.onStw fun w => w.enterException cause val len)) := by
  have hp : s.stw.pendingRd regs = false := by simp [Steward.pendingRd, hh.idle]
  have hr : s.stwRemember = s := by simp [State.stwRemember, hh.plain]
  unfold stewardJump
  simp only [hh.going, hh.runs, hp, hr, Bool.not_true, Bool.or_self, Bool.false_eq_true, if_false] <;> rfl

theorem stewardJump_done (hb : body s = .ok u) : stewardJump s len regs body = .next (u.onStw Steward.retire) := by
  rw [stewardJump_frame hh, hb]

theorem stewardJump_excepts {cause : Nat} {val : Word} (hb : body s = .error (.exception cause val)) :
    stewardJump s len regs body = .next (s.onStw fun w => w.enterException cause val len) := by
  rw [stewardJump_frame hh, hb]

theorem stewardIssue_done (hb : body s = .ok u) :
    stewardIssue s len regs body = .next ((u.stwAdvance len).onStw Steward.retire) :=
  stewardJump_done hh (by rw [hb]; rfl)

theorem stewardIssue_faults {code sub : Nat} (hb : body s = .error (.fault code sub)) :
    stewardIssue s len regs body = .next (s.onStw fun w => w.enterFault code sub len) := by
  rw [stewardIssue, stewardJump_frame hh, hb]
  rfl

theorem stewardIssue_waits (hb : body s = .error (.wait u)) : stewardIssue s len regs body = .next u := by
  rw [stewardIssue, stewardJump_frame hh, hb]
  rfl

/-! ## RV64 -/

/-- An instruction of the hart that ends: its registers and memory of the steward, pc, and the count of instructions. -/
def RvEnds (s : State) (len : Nat) (rv : Rv) (u : Steward) (pc : Word) : Prop :=
  ∃ t, exec (.stewardRv64Instruction len rv) s = .next t
    ∧ t.stw = { u with pc := pc, csr := { u.csr with minstret := u.csr.minstret + 1 } } ∧ SameMemory s t ∧ t.cts = s.cts

/-- An instruction that changes the hart by `f` and sets pc. -/
theorem rv_ends {rv : Rv} {f : Steward → Steward} {pc : Word} (hm : SameMemory s u) (hc : u.cts = s.cts) (hu : u.stw = f s.stw)
    (hb : rvStep s rv len = .ok u) (hpc : rvNext s.stw rv len = pc) :
    RvEnds s len rv ((f s.stw).writeX (rvLink rv) (s.stw.pc + word len)) pc := by
  refine ⟨(u.onStw fun v => { v.writeX (rvLink rv) (s.stw.pc + word len) with pc := pc }).onStw Steward.retire, ?_, ?_, hm, hc⟩
  · show execStewardRv64Instruction len rv s = _
    refine stewardJump_done hh ?_
    simp only [hb, hpc]
    rfl
  · rw [State.stw_onStw, State.stw_onStw, hu]
    unfold Steward.writeX
    split <;> rfl

/-- An instruction without a link register. -/
theorem rv_sets {rv : Rv} {f : Steward → Steward} (hl : rvLink rv = 0) {pc : Word} (hb : rvStep s rv len = .ok (s.onStw f))
    (hpc : rvNext s.stw rv len = pc) : RvEnds s len rv (f s.stw) pc := by
  have := rv_ends (f := f) (u := s.onStw f) hh (fun _ => rfl) rfl (State.stw_onStw s f) hb hpc
  rwa [hl, Steward.writeX, if_pos rfl] at this

/-- An instruction that writes a register. -/
theorem rv_writes {rv : Rv} {rd : Reg} {v : Word} (hl : rvLink rv = 0) {pc : Word}
    (hb : rvStep s rv len = .ok (s.onStw fun w => w.writeX rd v)) (hpc : rvNext s.stw rv len = pc) :
    RvEnds s len rv (s.stw.writeX rd v) pc :=
  rv_sets (f := fun w => w.writeX rd v) hh hl hb hpc

/-- An instruction that changes nothing but pc and its link register. -/
theorem rv_jumps {rv : Rv} {pc : Word} (hb : rvStep s rv len = .ok s) (hpc : rvNext s.stw rv len = pc) :
    RvEnds s len rv (s.stw.writeX (rvLink rv) (s.stw.pc + word len)) pc :=
  rv_ends (f := id) hh (fun _ => rfl) rfl rfl hb hpc

theorem rv_excepts {rv : Rv} {cause : Nat} {val : Word} (hb : rvStep s rv len = .error (.exception cause val)) :
    ∃ t, exec (.stewardRv64Instruction len rv) s = .next t ∧ t.stw = s.stw.enterException cause val len := by
  refine ⟨s.onStw fun w => w.enterException cause val len, ?_, State.stw_onStw _ _⟩
  show execStewardRv64Instruction len rv s = _
  refine stewardJump_excepts hh ?_
  simp only [hb] <;> rfl

omit hh in
/-- A CSR that is implemented and may be read. -/
theorem csrStep_ends {op : RvCsr} {rd : Reg} {num : BitVec 12} {src : CsrSrc} {v old : Word} {writes : Bool}
    (hold : s.csrRead num.toNat = some old) (hdet : s.stwDet = false)
    (hw : (op == .rw || !(match src with | .reg r => r == 0 | .imm i => i == 0)) = writes)
    (hro : (writes && num.toNat / 2 ^ 10 == 3) = false) :
    csrStep s op rd num src v = .ok (s.onStw fun w => (if writes then w.csrWrite num.toNat (match op with
      | .rw => match src with | .reg r => s.stw.readX r | .imm i => i.setWidth 64
      | .rs => old ||| (match src with | .reg r => s.stw.readX r | .imm i => i.setWidth 64)
      | .rc => old &&& ~~~(match src with | .reg r => s.stw.readX r | .imm i => i.setWidth 64)) else w).writeX rd old) := by
  subst hw
  unfold csrStep
  simp only [hold, hdet, Bool.and_false, Bool.false_eq_true, if_false]
  refine (if_neg (by rw [Bool.not_eq_true]; exact hro)).trans ?_
  cases op <;> rfl

end

/-- Settles O43: the frame of the hart's instructions (`stewardJump_frame`), with what each class of them does. -/
theorem stewardInstructions : Obligations.StewardInstructions := by
  unfold Obligations.StewardInstructions
  intro s len rd rs1 rs2 op opW imm12 opi imm20 un sh amount num old size signed br off13 off21 v hgo hruns hidle hplain
  have hh : HartReady s := ⟨hgo, hruns, hidle, hplain⟩
  intro w x y a n run next ends faults
  have hword : word a.toNat = a := by simp [word]
  refine ⟨rv_writes hh rfl rfl rfl, rv_writes hh rfl rfl rfl, rv_writes hh rfl rfl rfl, rv_writes hh rfl rfl rfl, rv_writes hh rfl rfl rfl,
    rv_jumps hh rfl rfl, rv_jumps hh rfl rfl, rv_jumps hh rfl rfl, rv_writes hh rfl rfl rfl, rv_writes hh rfl rfl rfl,
    rv_jumps hh rfl rfl, rv_jumps hh rfl rfl, rv_jumps hh rfl rfl, fun hin => ⟨?_, ?_⟩, fun hout => ⟨?_, fun hk => ?_, fun hk => ?_⟩,
    fun hold hdet => ⟨?_, fun hro => ⟨?_, fun hne => ⟨?_, ?_⟩⟩⟩, rv_excepts hh rfl, rv_excepts hh rfl, rv_excepts hh rfl⟩
  · refine rv_writes hh rfl ?_ rfl
    have hload : rvLoad s a.toNat n = .ok (s, w.scratchNat a.toNat n) := by rw [rvLoad, if_pos hin]
    show (rvLoad s a.toNat n >>= fun x => .ok (x.1.onStw fun w => w.writeX rd
      (if signed then wordOfInt (signExtend x.2 (8 * n)) else word x.2))) = _
    rw [hload]
    rfl
  · exact rv_sets (f := fun v => v.putBytes a.toNat (leBytes n y.toNat)) hh rfl (if_pos hin) rfl
  · refine rv_excepts hh ?_
    rw [← hword]
    exact if_neg (by rw [hout]; exact Bool.false_ne_true)
  · have hload : rvLoad s a.toNat n = .error (.exception 5 (word a.toNat)) := by
      rw [rvLoad, if_neg (by rw [hout]; exact Bool.false_ne_true), if_neg (by rw [hk]; exact Bool.false_ne_true)]
    refine rv_excepts hh ?_
    rw [← hword]
    show (rvLoad s a.toNat n >>= fun x => .ok (x.1.onStw fun w => w.writeX rd
      (if signed then wordOfInt (signExtend x.2 (8 * n)) else word x.2))) = _
    rw [hload]
    rfl
  · have hload : rvLoad s a.toNat n = .ok (s.draw 1, leNat ((upto n).map fun i => s.kickByte (a.toNat + i))) := by
      rw [rvLoad, if_neg (by rw [hout]; exact Bool.false_ne_true), if_pos hk]
    generalize leNat ((upto n).map fun i => s.kickByte (a.toNat + i)) = m at hload
    let f (w : Steward) : Steward := w.writeX rd (if signed then wordOfInt (signExtend m (8 * n)) else word m)
    refine rv_ends (f := f) (u := (s.draw 1).onStw f) hh (fun _ => rfl) rfl (State.stw_onStw _ _) ?_ rfl
    show (rvLoad s a.toNat n >>= fun x => .ok (x.1.onStw fun w => w.writeX rd
      (if signed then wordOfInt (signExtend x.2 (8 * n)) else word x.2))) = _
    rw [hload]
    rfl
  · exact rv_writes hh rfl (csrStep_ends (op := .rs) (src := .reg 0) (writes := false) hold hdet rfl rfl) rfl
  · exact rv_sets (f := fun v => (v.csrWrite num.toNat x).writeX rd old) hh rfl
      (csrStep_ends (op := .rw) (src := .reg rs1) (writes := true) hold hdet rfl (by simpa using hro)) rfl
  · exact rv_sets (f := fun v => (v.csrWrite num.toNat (old ||| x)).writeX rd old) hh rfl
      (csrStep_ends (op := .rs) (src := .reg rs1) (writes := true) hold hdet (by simpa using hne) (by simpa using hro)) rfl
  · exact rv_sets (f := fun v => (v.csrWrite num.toNat (old &&& ~~~x)).writeX rd old) hh rfl
      (csrStep_ends (op := .rc) (src := .reg rs1) (writes := true) hold hdet (by simpa using hne) (by simpa using hro)) rfl

end Sys2Proof.Machine
end

section
/-!
PROOFS. The Xgnmv instructions (R312 to R321).
-/

namespace Sys2Proof.Machine

section
variable {s u : State} {rd rs1 rs2 : Reg}

/-- An Xgnmv instruction that ends with the hart as `v` has it: pc stands behind it, it is counted, no byte of memory changes. -/
def XgDone (s u : State) (v : Steward) : Prop :=
  u.stw = { v with pc := s.stw.pc + 4, csr := { s.stw.csr with minstret := s.stw.csr.minstret + 1 } } ∧ SameMemory s u

/-- The frame of an Xgnmv instruction whose effect leaves pc and the CSRs. -/
theorem xg_done {v : Steward} {regs : List Reg} {body : State → StwEff} (hh : HartReady s) (hb : body s = .ok u)
    (hm : SameMemory s u) (hv : u.stw = v) (hpc : v.pc = s.stw.pc) (hcsr : v.csr = s.stw.csr) :
    ∃ t, stewardIssue s 4 regs body = .next t ∧ XgDone s t v
      ∧ (t.tile s.cur.tile).loc = (u.tile s.cur.tile).loc := by
  refine ⟨_, stewardIssue_done hh hb, ⟨?_, hm⟩, ?_⟩
  · rw [State.stw_onStw, State.stwAdvance, State.stw_onStw, hv, word_four]
    simp only [Steward.retire, hpc, hcsr]
  · rw [State.stwAdvance]
    exact (State.loc_onSteward _ _ _ _).trans (State.loc_onSteward _ _ _ _)

theorem writeX_pc (w : Steward) (r : Reg) (x : Word) : (w.writeX r x).pc = w.pc := by
  unfold Steward.writeX; split <;> rfl

theorem writeX_csr (w : Steward) (r : Reg) (x : Word) : (w.writeX r x).csr = w.csr := by
  unfold Steward.writeX; split <;> rfl

theorem stwNeed_of {b : Bool} (h : b = true) : stwNeed b = .ok () := if_pos h

theorem kIndex_of {x : Word} (h : x.toNat < 8) : kIndex x = .ok x.toNat := if_pos h

theorem except_bind {ε α β : Type} (x : α) (f : α → Except ε β) : (Except.ok x >>= f) = f x := rfl

/-! ## Operations of the move engine -/

/-- The operation that an Xgnmv instruction starts on an idle engine. -/
def newOp (w : Steward) (kind : EngKind) (d : Nat) (kslot : Nat) (kregs : List Nat) (len : Nat) : EngOp :=
  ⟨w.nextOp, kind, d, kslot, kregs, len, 0, none, none, [], none, false, 0⟩

/-- The hart with a new operation, and its k registers as `k` has them. -/
def Steward.starting (w : Steward) (o : EngOp) (k : Assoc (Cap × Nat)) : Steward :=
  { w with ops := [o], nextOp := w.nextOp + 1, k := k }

theorem startOp_of (hh : HartReady s) (kind : EngKind) (d : Reg) (kslot : Nat) (kregs : List Nat) (len : Nat) :
    startOp s kind d kslot kregs len
      = .ok (s.onStw fun w => { w with ops := w.ops ++ [newOp s.stw kind d.toNat kslot kregs len], nextOp := w.nextOp + 1 }) := by
  have hroom : ¬8 ≤ s.stw.inFlight := by simp [Steward.inFlight, hh.idle]
  unfold startOp newOp
  simp only [if_neg hroom, hh.plain, Bool.false_eq_true, if_false]

theorem stw_started (hh : HartReady s) (o : EngOp) :
    (s.onStw fun w => { w with ops := w.ops ++ [o], nextOp := w.nextOp + 1 }).stw = s.stw.starting o s.stw.k := by
  rw [State.stw_onStw, hh.idle]
  rfl

/-- An instruction that starts an operation and leaves the k registers. -/
theorem xg_starts {i : Instr} {regs : List Reg} {body : State → StwEff} (hh : HartReady s)
    {r : Host.Outcome State Fault Refusal} (hex : exec i s = r) (hr : r = stewardIssue s 4 regs body) {kind : EngKind} {d : Reg} {kslot len : Nat}
    {kregs : List Nat} (hb : body s = startOp s kind d kslot kregs len) :
    ∃ t, exec i s = .next t ∧ XgDone s t (s.stw.starting (newOp s.stw kind d.toNat kslot kregs len) s.stw.k) := by
  rw [hex, hr]
  obtain ⟨t, ht, hd, -⟩ := xg_done (regs := regs) hh (hb.trans (startOp_of hh kind d kslot kregs len)) (by exact fun _ => rfl)
    (stw_started hh _) rfl rfl
  exact ⟨t, ht, hd⟩

/-- An instruction that starts an operation and takes a capability out of its k register. -/
theorem xg_startsTaking {i : Instr} {regs : List Reg} {body : State → StwEff} (hh : HartReady s)
    {r : Host.Outcome State Fault Refusal} (hex : exec i s = r) (hr : r = stewardIssue s 4 regs body) {kind : EngKind} {d : Reg} {kslot len k : Nat}
    {kregs : List Nat} (hb : body s = (do
      let s ← startOp s kind d kslot kregs len
      .ok (s.onStw fun w => { w with k := aerase w.k k }))) :
    ∃ t, exec i s = .next t
      ∧ XgDone s t (s.stw.starting (newOp s.stw kind d.toNat kslot kregs len) (aerase s.stw.k k)) := by
  rw [hex, hr]
  rw [startOp_of hh, except_bind] at hb
  obtain ⟨t, ht, hd, -⟩ := xg_done (v := s.stw.starting (newOp s.stw kind d.toNat kslot kregs len) (aerase s.stw.k k))
    (regs := regs) hh hb (by exact fun _ => rfl) (by rw [State.stw_onStw, stw_started hh]; rfl) rfl rfl
  exact ⟨t, ht, hd⟩

/-! ## Kicks and k registers -/

/-- mv.next without an entry to release claims the oldest one (R312). -/
theorem mvNext_claims {e : Nat} {k : Kick} (hh : HartReady s) (hx : s.stw.readX rs1 = 64)
    (hk : (s.tile s.cur.tile).loc.nextKick = some (e, k)) :
    ∃ t, exec (.mvNext rd rs1 rs2) s = .next t ∧ XgDone s t { s.stw.writeX rd (word e) with sleep := none }
      ∧ aget? (t.tile s.cur.tile).loc.kicks e = some { k with state := .claimed } := by
  let b := s.onLocal s.cur.tile fun l => { l with kicks := aset l.kicks e { k with state := .claimed } }
  have hwake : s.wake rd = some (b.onStw fun w => { w.writeX rd (word e) with sleep := none }) := by
    simp [State.wake, hk, State.claimKick, State.rememberKick, hh.plain, b]
  have hbs : b.stw = s.stw := State.stw_onLocal _ _ _ _
  obtain ⟨t, ht, hd, hloc⟩ := xg_done (s := s) (u := b.onStw fun w => { w.writeX rd (word e) with sleep := none })
    (v := { s.stw.writeX rd (word e) with sleep := none }) (regs := [rd, rs1]) (body := fun s => do
      let _ := rs2
      let v := s.stw.readX rs1
      let s ← (if v = 64 then .ok s
        else match claimed s v with
          | some (e, _) => .ok (s.releaseKick s.cur.tile e fun s p k t c => s.sendPath p k t c cOk)
          | none => operandError : StwEff)
      match s.wake rd with
      | some s => .ok s
      | none => .error (.wait (s.onStw fun w => { w with sleep := some rd.toNat }))) hh
    (by simp only [hx, if_true, except_bind, hwake]) (by exact fun _ => rfl) (by rw [State.stw_onStw, hbs])
    (writeX_pc _ _ _) (writeX_csr _ _ _)
  refine ⟨t, ht, hd, ?_⟩
  rw [hloc]
  rw [State.onStw, State.loc_onSteward, State.loc_onLocal_self]
  exact aget?_aset_self _ _ _

theorem mvNext_sleeps (hh : HartReady s) (hx : s.stw.readX rs1 = 64) (hk : (s.tile s.cur.tile).loc.nextKick = none) :
    ∃ t, exec (.mvNext rd rs1 rs2) s = .next t ∧ t.stw = { s.stw with sleep := some rd.toNat } := by
  have hwake : s.wake rd = none := by simp [State.wake, hk]
  refine ⟨s.onStw fun w => { w with sleep := some rd.toNat }, ?_, State.stw_onStw _ _⟩
  show execMvNext rd rs1 rs2 s = _
  refine stewardIssue_waits hh ?_
  simp only [hx, if_true, except_bind, hwake]

/-- mv.take moves the capability of a claimed entry into an empty k register (R313). -/
theorem mvTake_moves {e : Nat} {v : Kick} {c : Cap} (hh : HartReady s) (hy : (s.stw.readX rs2).toNat < 8)
    (hcl : claimed s (s.stw.readX rs1) = some (e, v)) (hfree : aget? s.stw.k (s.stw.readX rs2).toNat = none) (hc : v.cap = some c) :
    ∃ t, exec (.mvTake rd rs1 rs2) s = .next t
      ∧ XgDone s t { s.stw.writeX rd (word c.bytes) with k := aset s.stw.k (s.stw.readX rs2).toNat (c, v.kslot) }
      ∧ aget? (t.tile s.cur.tile).loc.kicks e = some { v with cap := none } := by
  let b := s.onLocal s.cur.tile fun l => { l with kicks := aset l.kicks e { v with cap := none } }
  let f (w : Steward) : Steward := { w.writeX rd (word c.bytes) with k := aset w.k (s.stw.readX rs2).toNat (c, v.kslot) }
  have hbs : b.stw = s.stw := State.stw_onLocal _ _ _ _
  obtain ⟨t, ht, hd, hloc⟩ := xg_done (s := s) (u := b.onStw f) (v := f s.stw) (regs := [rd, rs1, rs2]) (body := fun s => do
      let k ← kIndex (s.stw.readX rs2)
      match claimed s (s.stw.readX rs1) with
      | none => operandError
      | some (e, v) => do
        stwNeed (aget? s.stw.k k).isNone
        match v.cap with
        | none => .ok (s.onStw fun w => w.writeX rd 0)
        | some c =>
          let s := (s.rememberKick s.cur.tile e v).onLocal s.cur.tile fun l =>
            { l with kicks := aset l.kicks e { v with cap := none } }
          .ok (s.onStw fun w => { w.writeX rd (word c.bytes) with k := aset w.k k (c, v.kslot) })) hh
    (by simp only [kIndex_of hy, hcl, except_bind, stwNeed_of (Option.isNone_iff_eq_none.mpr hfree), hc, State.rememberKick,
      hh.plain, Bool.false_eq_true, if_false, b, f])
    (by exact fun _ => rfl) (by rw [State.stw_onStw, hbs]) (writeX_pc _ _ _) (writeX_csr _ _ _)
  refine ⟨t, ht, hd, ?_⟩
  rw [hloc]
  rw [State.onStw, State.loc_onSteward, State.loc_onLocal_self]
  exact aget?_aset_self _ _ _

/-- mv.stat reads a value (R321). -/
theorem xg_reads {i : Instr} {regs : List Reg} {body : State → StwEff} (hh : HartReady s)
    {r : Host.Outcome State Fault Refusal} (hex : exec i s = r) (hr : r = stewardIssue s 4 regs body) {x : Word}
    (hb : body s = .ok (s.onStw fun w => w.writeX rd x)) :
    ∃ t, exec i s = .next t ∧ XgDone s t (s.stw.writeX rd x) := by
  rw [hex, hr]
  obtain ⟨t, ht, hd, -⟩ := xg_done (regs := regs) hh hb (by exact fun _ => rfl) (State.stw_onStw _ _) (writeX_pc _ _ _)
    (writeX_csr _ _ _)
  exact ⟨t, ht, hd⟩

end

/-- Settles O42: the frame of an Xgnmv instruction (`xg_done`), and what each of them starts, moves or reads. -/
theorem stewardMoves : Obligations.StewardMoves := by
  unfold Obligations.StewardMoves
  intro s rd rs1 rs2 hgo hruns hidle hplain
  have hh : HartReady s := ⟨hgo, hruns, hidle, hplain⟩
  intro w x y l done starts
  refine ⟨fun hx => ⟨fun e v hk => mvNext_claims hh hx hk, fun hk => mvNext_sleeps hh hx hk⟩,
    fun v c hy hcl hfree hc => mvTake_moves hh hy hcl hfree hc, fun d hd => ⟨fun h8 => ⟨fun hmeet => ?_, fun h0 => ?_⟩,
      fun e v h8 h4 h128 hlen hcl hkind => ?_⟩, fun hx => ⟨fun h28 h22 hdst => ?_, fun h9 => ⟨fun h8 => ?_, fun h8 h4 => ?_⟩⟩,
    fun p i hp hdst => ?_, fun hx hdet => ?_, fun hx hdet => ?_, fun hx => ?_⟩
  · refine xg_starts hh (r := execMvCopy rd rs1 rs2 s) rfl rfl ?_
    have hn : (!kcapsMeet (s.kReg (field d 0 3)) (field d 64 64) (field d 192 64) (s.kReg (field d 4 3)) (field d 128 64)
      (field d 192 64)) = true := by rw [hmeet]; rfl
    simp only [show descriptor s (s.stw.readX rs1) = .ok d from hd, except_bind, h8, Bool.false_eq_true, if_false, stwNeed_of hn] <;>
      rfl
  · refine xg_starts hh (r := execMvFill rd rs1 rs2 s) rfl rfl ?_
    have hn : (field d 0 3 == 0 && !bit d 8) = true := by rw [h0, h8]; rfl
    simp only [show descriptor s (s.stw.readX rs1) = .ok d from hd, except_bind, stwNeed_of hn] <;> rfl
  · refine xg_startsTaking hh (r := execMvCopy rd rs1 rs2 s) rfl rfl ?_
    have hn : (field d 4 3 == 0 && field d 128 64 == 0
        && field d 192 64 == (((s.kReg (field d 0 3)).map fun c => c.cap.bytes).getD 0)) = true := by
      rw [h4, h128, hlen]; simp
    have hk1 : (v.kind == 1) = true := by rw [hkind]; rfl
    simp only [show descriptor s (s.stw.readX rs1) = .ok d from hd, except_bind, h8, if_true, stwNeed_of hn, hcl, stwNeed_of hk1] <;>
      rfl
  · refine xg_startsTaking hh (r := execMvXfer rd rs1 rs2 s) rfl rfl ?_
    have hk := kIndex_of (x := s.stw.readX rs1) hx
    have hn : (field (s.stw.readX rs2).toNat 28 4 == 0 && field (s.stw.readX rs2).toNat 22 2 == 0) = true := by
      rw [h28, h22]; rfl
    have hdst' : stwDest s ⟨field (s.stw.readX rs2).toNat 12 10, field (s.stw.readX rs2).toNat 0 12⟩ = .ok () := hdst
    simp only [hk, except_bind, stwNeed_of hn, hdst'] <;> rfl
  · refine xg_startsTaking hh (r := execMvGive rd rs1 rs2 s) rfl rfl ?_
    have hk := kIndex_of (x := s.stw.readX rs1) hx
    have hn : (field (s.stw.readX rs2).toNat 9 23 == 0
        && (!bit (s.stw.readX rs2).toNat 8 || field (s.stw.readX rs2).toNat 4 4 == 0)) = true := by rw [h9, h8]; rfl
    have h8' : bit (s.stw.readX rs2).toNat 8 = false := h8
    simp only [hk, except_bind, stwNeed_of hn]
    simp only [h8', Bool.false_eq_true, if_false] <;> rfl
  · refine xg_startsTaking hh (r := execMvGive rd rs1 rs2 s) rfl rfl ?_
    have hk := kIndex_of (x := s.stw.readX rs1) hx
    have hn : (field (s.stw.readX rs2).toNat 9 23 == 0
        && (!bit (s.stw.readX rs2).toNat 8 || field (s.stw.readX rs2).toNat 4 4 == 0)) = true := by rw [h9, h8, h4]; rfl
    have h8' : bit (s.stw.readX rs2).toNat 8 = true := h8
    simp only [hk, except_bind, stwNeed_of hn]
    simp only [h8', if_true] <;> rfl
  · obtain ⟨t, ht, hd, -⟩ := xg_done (s := s)
      (v := s.stw.starting (newOp s.stw (.mbx p i (y.toNat % 2 ^ 32)) 0 0 [] 0) s.stw.k) (regs := [rs1, rs2])
      (body := fun s => do
        let _ := rd
        match counterAddress (s.stw.readX rs1).toNat with
        | none => operandError
        | some (dst, c) => do
          stwDest s dst
          let w := s.stw
          let o : EngOp :=
            { id := w.nextOp, kind := .mbx dst c ((s.stw.readX rs2).toNat % 2 ^ 32), rd := 0, kslot := 0, kregs := [], len := 0,
              done := 0, stop := none, waitTag := none, flights := [], page := none, rejected := false
              notBefore := if s.shz s.cur.tile then s.cycle + Config.horizon else 0 }
          .ok (s.onStw fun w => { w with ops := w.ops ++ [o], nextOp := w.nextOp + 1 })) hh
      (by simp only [show counterAddress (s.stw.readX rs1).toNat = some (p, i) from hp, hdst, except_bind, hplain,
        Bool.false_eq_true, if_false]; rfl) (by exact fun _ => rfl)
      (stw_started hh _) rfl rfl
    exact ⟨t, ht, hd⟩
  · refine xg_reads hh (r := execMvStat rd rs1 rs2 s) rfl rfl ?_
    have hx0 : (s.stw.readX rs1).toNat = 0 := by rw [show s.stw.readX rs1 = 0 from hx]; rfl
    simp only [hx0, except_bind, stwNeed_of (show decide (0 ≤ 2) = true from rfl), hdet, Bool.false_and, Bool.false_eq_true, if_false,
      if_true] <;> rfl
  · refine xg_reads hh (r := execMvStat rd rs1 rs2 s) rfl rfl ?_
    have hx1 : (s.stw.readX rs1).toNat = 1 := by rw [show s.stw.readX rs1 = 1 from hx]; rfl
    have hfl : s.stw.inFlight = 0 := by simp [Steward.inFlight, hidle]
    simp only [hx1, except_bind, stwNeed_of (show decide (1 ≤ 2) = true from rfl), hdet, Bool.false_and, Bool.false_eq_true, if_false,
      Nat.one_ne_zero, if_true, hfl] <;> rfl
  · refine ⟨s.onStw fun w => w.enterFault cIllopnd 4 4, ?_, State.stw_onStw _ _⟩
    show execMvStat rd rs1 rs2 s = _
    refine stewardIssue_faults hh ?_
    have hn : stwNeed (decide ((s.stw.readX rs1).toNat ≤ 2)) = operandError := if_neg (by
      rw [decide_eq_true_eq]; exact Nat.not_le.mpr hx)
    simp only [hn] <;> rfl

end Sys2Proof.Machine
end

section
/-!
PROOFS. What routine changes of the state keep: memory stays canonical; and, for all but the events that are about them, the
transfers of the fabric interface, the mark of a failed engine, a halt that has begun, and what a partition is.
-/

namespace Sys2Proof.Machine

-- Many small proofs side by side would each hold a thread of their own: they are elaborated one after another.
set_option Elab.async false

/-! ## Partitions and tiles that are kept -/

/-- A partition is what it was but for its queues, supervisor, tables, counts; a halt under way goes on. -/
structure PartKept (p q : Part) : Prop where
  prec : q.prec = p.prec
  handle : q.handle = p.handle
  policy : q.policy = p.policy
  state : q.state = p.state
  epoch : q.epoch = p.epoch
  box : q.box = p.box
  relHbm : q.relHbm = p.relHbm
  halt : p.halt.isSome = true → q.halt = p.halt

theorem PartKept.refl (p : Part) : PartKept p p := ⟨rfl, rfl, rfl, rfl, rfl, rfl, rfl, fun _ => rfl⟩

theorem PartKept.trans {p q r : Part} (h : PartKept p q) (h' : PartKept q r) : PartKept p r :=
  ⟨h'.prec.trans h.prec, h'.handle.trans h.handle, h'.policy.trans h.policy, h'.state.trans h.state, h'.epoch.trans h.epoch,
    h'.box.trans h.box, h'.relHbm.trans h.relHbm,
    fun hp => (h'.halt (by rw [h.halt hp]; exact hp)).trans (h.halt hp)⟩

/-- A tile keeps its halt line up and the mark of its engine. -/
structure TileKept (v w : Tile) : Prop where
  halting : v.core.disp.halting = true → w.core.disp.halting = true
  dead : w.core.eng.dead = v.core.eng.dead

theorem TileKept.refl (v : Tile) : TileKept v v := ⟨id, rfl⟩

theorem TileKept.trans {v w x : Tile} (h : TileKept v w) (h' : TileKept w x) : TileKept v x :=
  ⟨h'.halting ∘ h.halting, h'.dead.trans h.dead⟩

/-- The fabric interface awaits what it awaited, and stands in the time base as it did. -/
structure Wired (s u : State) : Prop where
  transfers : u.fabric.transfers = s.fabric.transfers
  unsync : u.fabric.unsync = s.fabric.unsync

theorem Wired.trans {s u v : State} (h : Wired s u) (h' : Wired u v) : Wired s v :=
  ⟨h'.transfers.trans h.transfers, h'.unsync.trans h.unsync⟩

/-- Partitions are what they were. -/
structure PartsKept (s u : State) : Prop where
  kept : ∀ k p, aget? s.parts k = some p → ∃ q, aget? u.parts k = some q ∧ PartKept p q
  rises : risesFrom none s.parts = true → risesFrom none u.parts = true

theorem PartsKept.of_eq {s u : State} (h : u.parts = s.parts) : PartsKept s u :=
  ⟨fun _ p hp => ⟨p, h ▸ hp, .refl p⟩, fun w => h ▸ w⟩

theorem PartsKept.trans {s u v : State} (h : PartsKept s u) (h' : PartsKept u v) : PartsKept s v :=
  ⟨fun k p hp => by
    obtain ⟨q, hq, hpq⟩ := h.kept k p hp
    obtain ⟨r, hr, hqr⟩ := h'.kept k q hq
    exact ⟨r, hr, hpq.trans hqr⟩, h'.rises ∘ h.rises⟩

/-- `u` comes from `s` by changes that keep memory canonical; from level 1 on they leave the fabric interface's transfers alone, from
level 2 on they keep partitions, from level 3 on tiles too. -/
structure Orderly (level : Nat) (s u : State) : Prop where
  mem : Memory.wf s.mem = true → Memory.wf u.mem = true
  wired : 1 ≤ level → Wired s u
  parts : 2 ≤ level → PartsKept s u
  tiles : 3 ≤ level → ∀ t, TileKept (s.tile t) (u.tile t)

namespace Orderly

variable {b : Nat} {a s u : State}

theorem refl (s : State) : Orderly b s s := ⟨id, fun _ => ⟨rfl, rfl⟩, fun _ => .of_eq rfl, fun _ _ => .refl _⟩

theorem trans (h : Orderly b a s) (h' : Orderly b s u) : Orderly b a u :=
  ⟨h'.mem ∘ h.mem, fun hb => (h.wired hb).trans (h'.wired hb), fun hb => (h.parts hb).trans (h'.parts hb),
    fun hb t => (h.tiles hb t).trans (h'.tiles hb t)⟩

/-- Memory alone is looked at. -/
theorem weaken (h : Orderly b a s) : Orderly 0 a s := ⟨h.mem, nofun, nofun, nofun⟩

theorem of_mem (h : Orderly 0 a s) (hm : u.mem = s.mem := by rfl) : Orderly 0 a u := ⟨fun w => hm ▸ h.mem w, nofun, nofun, nofun⟩

/-- A change of what the relation does not look at. -/
theorem same (h : Orderly b a s) (hm : u.mem = s.mem := by rfl) (hp : u.parts = s.parts := by rfl)
    (ht : u.tiles = s.tiles := by rfl) (hx : u.fabric.transfers = s.fabric.transfers := by rfl)
    (hy : u.fabric.unsync = s.fabric.unsync := by rfl) : Orderly b a u :=
  h.trans ⟨fun w => hm ▸ w, fun _ => ⟨hx, hy⟩, fun _ => .of_eq hp, fun _ t => by
    rw [State.tile, State.tile, ht]
    exact .refl _⟩

theorem ite {c : Prop} [Decidable c] (h : c → Orderly b a s) (h' : ¬c → Orderly b a u) : Orderly b a (if c then s else u) := by
  split
  · exact h ‹_›
  · exact h' ‹_›

theorem foldl {α : Type} {f : State → α → State} (hf : ∀ s x, Orderly b a s → Orderly b a (f s x)) (l : List α)
    (h : Orderly b a s) : Orderly b a (l.foldl f s) := by
  induction l generalizing s with
  | nil => exact h
  | cons x l ih => exact ih (hf s x h)

/-! ## The elementary updates -/

theorem putBytes {x : Nat} {bs : List Byte} (h : Orderly b a s) : Orderly b a (s.putBytes x bs) :=
  h.trans ⟨fun w => memSetBytes_wf w x bs, fun _ => ⟨rfl, rfl⟩, fun _ => .of_eq rfl, fun _ _ => .refl _⟩

theorem onTile {t : Nat} {f : Tile → Tile} (h : Orderly b a s) (hf : 3 ≤ b → TileKept (s.tile t) (f (s.tile t))) :
    Orderly b a (s.onTile t f) :=
  h.trans ⟨id, fun _ => ⟨rfl, rfl⟩, fun _ => .of_eq rfl, fun hb t' => by
    by_cases ht : t' = t
    · rw [ht, State.onTile, State.setTile, State.tile, State.tile, aget_aset_self]
      exact hf hb
    · rw [State.onTile, State.setTile, State.tile, State.tile, aget_aset_ne _ _ _ ht]
      exact .refl _⟩

theorem onLocal {t : Nat} {f : Local → Local} (h : Orderly b a s) : Orderly b a (s.onLocal t f) :=
  h.onTile fun _ => ⟨id, rfl⟩

theorem onSteward {t : Nat} {f : Steward → Steward} (h : Orderly b a s) : Orderly b a (s.onSteward t f) :=
  h.onTile fun _ => ⟨id, rfl⟩

/-- A core changed: its halt line may rise, its engine keeps its mark. -/
theorem onCore {t : Nat} {f : CoreSt → CoreSt} (h : Orderly b a s)
    (hh : 3 ≤ b → ∀ k : CoreSt, k.disp.halting = true → (f k).disp.halting = true := by exact fun _ _ h => h)
    (hd : 3 ≤ b → ∀ k : CoreSt, (f k).eng.dead = k.eng.dead := by exact fun _ _ => rfl) : Orderly b a (s.onCore t f) :=
  h.onTile fun hb => ⟨hh hb _, hd hb _⟩

theorem setCtxAt {t c : Nat} {v : Context} (h : Orderly b a s) : Orderly b a (s.setCtxAt t c v) := h.onCore

theorem onCtxAt {t c : Nat} {f : Context → Context} (h : Orderly b a s) : Orderly b a (s.onCtxAt t c f) := h.setCtxAt

theorem onCtx {f : Context → Context} (h : Orderly b a s) : Orderly b a (s.onCtx f) := h.onCtxAt

theorem onRegs {f : Regs → Regs} (h : Orderly b a s) : Orderly b a (s.onRegs f) := h.onCtx

theorem onRun {f : Run → Run} (h : Orderly b a s) : Orderly b a (s.onRun f) := h.onCtx

theorem setX {i : Reg} {v : Word} (h : Orderly b a s) : Orderly b a (s.setX i v) := h.onRegs

theorem setC {i : Nat} {v : Option Cap} (h : Orderly b a s) : Orderly b a (s.setC i v) := h.onRegs

theorem setFlags {f : Flags} (h : Orderly b a s) : Orderly b a (s.setFlags f) := h.onRegs

theorem draw {n : Nat} (h : Orderly b a s) : Orderly b a (s.draw n) := h.same

theorem setCt {k : Nat} {e : CtEntry} (h : Orderly b a s) : Orderly b a (s.setCt k e) := h.same

theorem onCt {k : Nat} {f : CtEntry → CtEntry} (h : Orderly b a s) : Orderly b a (s.onCt k f) := h.setCt

theorem onPart {k : Nat} {f : Part → Part} (h : Orderly b a s)
    (hf : 2 ≤ b → ∀ p, PartKept p (f p) := by exact fun _ _ => ⟨rfl, rfl, rfl, rfl, rfl, rfl, rfl, fun _ => rfl⟩) :
    Orderly b a (s.onPart k f) := by
  unfold State.onPart
  split
  next p hp =>
    refine h.trans ⟨id, fun _ => ⟨rfl, rfl⟩, fun hb => ⟨fun j q hq => ?_, fun w => risesFrom_aset w _ rfl⟩, fun _ _ => .refl _⟩
    by_cases hj : j = k
    · subst hj
      obtain rfl : p = q := Option.some.inj (hp.symm.trans hq)
      exact ⟨_, aget?_aset_self _ _ _, hf hb p⟩
    · exact ⟨q, (aget?_aset_ne _ _ hj).trans hq, .refl q⟩
  next => exact h

theorem onSupv {k : Nat} {f : Supv → Supv} (h : Orderly b a s) : Orderly b a (s.onSupv k f) := h.onPart

theorem onQSlot {k i : Nat} {f : QSlot → QSlot} (h : Orderly b a s) : Orderly b a (s.onQSlot k i f) :=
  h.onPart fun _ p => by
    split
    · exact ⟨rfl, rfl, rfl, rfl, rfl, rfl, rfl, fun _ => rfl⟩
    · exact .refl p

theorem onKernel {k i : Nat} {f : Kernel → Kernel} (h : Orderly b a s) : Orderly b a (s.onKernel k i f) := h.onQSlot

theorem setOwner {c : Cap} {k : Nat} {w : Place} (h : Orderly b a s) : Orderly b a (s.setOwner c k w) :=
  ite (fun _ => h.onCt) fun _ => h

/-! ## Memory errors, partition offsets, translation -/

theorem eccFixed {x n : Nat} (h : Orderly b a s) : Orderly b a (s.eccFixed x n) := h.same

theorem eccWrite {x n : Nat} (h : Orderly b a s) : Orderly b a (s.eccWrite x n) := by
  unfold State.eccWrite
  exact ite (fun _ => h) fun _ => h.same

theorem poffWritten {r : PartRec} {p n : Nat} (h : Orderly b a s) : Orderly b a (s.poffWritten r p n) :=
  ite (fun _ => h) fun _ => foldl (fun _ _ h => ite (fun _ => h.eccWrite) fun _ => h) _ h

theorem putPoff {r : PartRec} {p : Nat} {bs : List Byte} (h : Orderly b a s) : Orderly b a (s.putPoff r p bs) :=
  (foldl (fun _ _ h => ite (fun _ => h.putBytes) fun _ => h) _ h).poffWritten

theorem keepTlb {t k : Nat} {p : Part} {e : TlbEntry} (h : Orderly b a s) : Orderly b a (s.keepTlb t k p e) :=
  (h.onCore (t := t) (f := fun k => { k with l1 := (e :: k.l1).take 384 })).same

theorem translate {t k : Nat} {p : Part} {xl : Xlat} {va : Nat} {wr op : Bool} (h : Orderly b a s) :
    Orderly b a (s.translate t k p xl va wr op).1 := by
  unfold State.translate
  dsimp only
  split
  · exact h
  · split
    · exact h.keepTlb
    · exact h

theorem vfAdd {v i n : Nat} (h : Orderly b a s) : Orderly b a (s.vfAdd v i n) := h.same

theorem vfCount {v i : Nat} (h : Orderly b a s) : Orderly b a (s.vfCount v i) := h.vfAdd

theorem countMemory {w : Accessor} {x y : Nat} (h : Orderly b a s) : Orderly b a (s.countMemory w x y) := by
  unfold State.countMemory
  extract_lets s'
  have h' : Orderly b a s' := by
    unfold s'
    split
    · exact h.onTile fun _ => ⟨id, rfl⟩
    · exact h
  split
  · exact h'.vfAdd.vfAdd
  · exact h'

theorem eccCorrect {w : Accessor} {x n : Nat} (h : Orderly b a s) : Orderly b a (s.eccCorrect w x n) :=
  ite (fun _ => h) fun _ => h.eccFixed.countMemory

theorem eccRead {w : Accessor} {x n : Nat} (h : Orderly b a s) : Orderly b a (s.eccRead w x n).1 := by
  unfold State.eccRead
  split
  · exact h.countMemory
  · exact h.eccCorrect

/-! ## Logs, packets, management events -/

theorem logFault {k : Nat} {r : FRec} {vf : Option Nat} (h : Orderly b a s) : Orderly b a (s.logFault k r vf) := by
  unfold State.logFault
  split
  · exact h
  · extract_lets s' f
    have h' : Orderly b a s' := by
      unfold s'
      split
      · exact h.vfCount
      · exact h
    split
    · exact ite (fun _ => h'.putPoff.onSupv) fun _ => h'.onSupv
    · exact h'.onSupv

theorem logHost {r : FRec} (h : Orderly b a s) : Orderly b a (s.logHost r) := h.same

theorem sendPkt {p : Packet} (h : Orderly b a s) : Orderly b a (s.sendPkt p) := by
  unfold State.sendPkt
  exact ite (fun _ => h.same) fun _ => h.same

theorem send {vn part kslot len : Nat} {src dst : Place} {unit : Agent} {x : Body} (h : Orderly b a s) :
    Orderly b a (s.send vn part src unit dst kslot len x) := h.sendPkt

theorem mgmtEvent {k code sub va : Nat} (h : Orderly b a s) : Orderly b a (s.mgmtEvent k code sub va) := by
  unfold State.mgmtEvent
  dsimp only
  split
  · exact h.logFault
  · exact h.logFault.send

/-! ## Capabilities that are given up -/

theorem toReception {k : Nat} {r : Nat × Nat} {c : HeldCap} (h : Orderly b a s) : Orderly b a (s.toReception k r c) := h.send

theorem supvFlush {k : Nat} (h : Orderly b a s) : Orderly b a (s.supvFlush k) := by
  unfold State.supvFlush
  split
  · exact (foldl (fun _ _ h => h.toReception) _ h).onSupv
  · exact h

theorem ownSupv {c : Cap} (h : Orderly b a s) : Orderly b a (s.ownSupv c) := ite (fun _ => h.onCt) fun _ => h.setOwner

theorem supvDeliver {k n : Nat} {c : Cap} (h : Orderly b a s) : Orderly b a (s.supvDeliver k c n) := by
  unfold State.supvDeliver
  dsimp only
  split
  · exact h.ownSupv
  · split
    · exact ite (fun _ => h.ownSupv.toReception) fun _ => h.ownSupv.onSupv
    · exact ite (fun _ => h.ownSupv.onSupv) fun _ => h.ownSupv

theorem reclaimPath {k i t n : Nat} {c : Cap} (h : Orderly b a s) : Orderly b a (s.reclaimPath k i t c n) := by
  unfold State.reclaimPath
  dsimp only
  split
  · exact h.setOwner.send
  · exact h.supvDeliver

theorem clearReader {c : Cap} {w : Place} (h : Orderly b a s) : Orderly b a (s.clearReader c w) :=
  ite (fun _ => h.onCt) fun _ => h

theorem returnTokens {k i t : Nat} {c : Cap} {lost : Bool} (h : Orderly b a s) : Orderly b a (s.returnTokens k i t c lost) :=
  ite (fun _ => h.send) fun _ => ite (fun _ => h.onCt) fun _ => h

theorem dropCap {k i t n : Nat} {c : Cap} (h : Orderly b a s) : Orderly b a (s.dropCap k i t c n) := by
  unfold State.dropCap
  split
  · exact h.returnTokens
  · exact h
  · exact h
  · exact ite (fun _ => h) fun _ => h.reclaimPath

theorem killCap {k i t n : Nat} {c : Cap} (h : Orderly b a s) : Orderly b a (s.killCap k i t c n) := by
  unfold State.killCap
  split
  · exact h.returnTokens
  · exact h
  · exact h.clearReader
  · exact h.reclaimPath

theorem askStale {t : Nat} {g : Giving} (h : Orderly b a s) : Orderly b a (s.askStale t g) := by
  unfold State.askStale
  extract_lets id _ s'
  have h' : Orderly b a s' := h.same
  exact h'.send.onCore

theorem dispose {t : Nat} {g : Giving} (h : Orderly b a s) : Orderly b a (s.dispose t g) := by
  unfold State.dispose
  split
  · exact h.killCap
  · exact h.reclaimPath
  · exact ite (fun _ => h.askStale) fun _ => h.dropCap

theorem giveUp {t : Nat} {g : Giving} (h : Orderly b a s) : Orderly b a (s.giveUp t g) :=
  ite (fun _ => h.dispose) fun _ => h.onCore

theorem letGo {t : Nat} (h : Orderly b a s) : Orderly b a (s.letGo t) :=
  ite (fun _ => h) fun _ => foldl (fun _ _ h => h.giveUp) _ h.onCore

theorem letAllGo (h : Orderly b a s) : Orderly b a s.letAllGo := foldl (fun _ _ h => h.letGo) _ h

theorem answerGiving {t : Nat} {r : RemoteAnswer} (h : Orderly b a s) : Orderly b a (s.answerGiving t r) := by
  unfold State.answerGiving
  split
  · exact ite (fun _ => h.onCore) fun _ => h.onCore.reclaimPath
  · exact h

theorem letDrop {k i t n : Nat} {c : Cap} (h : Orderly b a s) : Orderly b a (s.letDrop k i t c n) := h.giveUp
theorem letKill {k i t n : Nat} {c : Cap} (h : Orderly b a s) : Orderly b a (s.letKill k i t c n) := h.giveUp
theorem letPath {k i t n : Nat} {c : Cap} (h : Orderly b a s) : Orderly b a (s.letPath k i t c n) := h.giveUp
theorem sendPath {k i t n : Nat} {c : Cap} (h : Orderly b a s) : Orderly b a (s.sendPath k i t c n) := h.giveUp

end Orderly

end Sys2Proof.Machine
end

section
/-!
PROOFS. Tasks, kills, rollback and containment are orderly.
-/

namespace Sys2Proof.Machine

-- Many small proofs side by side would each hold a thread of their own: they are elaborated one after another.
set_option Elab.async false

namespace Orderly

variable {b : Nat} {a s u : State}

/-! ## Conditions, counters, slots, records -/

theorem reeval {t : Nat} {f : TaskRec → Bool} (h : Orderly b a s) : Orderly b a (s.reeval t f) := h.onLocal

theorem setCtr {t i : Nat} {c : Ctr} (h : Orderly b a s) : Orderly b a (s.setCtr t i c) := by
  unfold State.setCtr
  dsimp only
  exact (ite (fun _ => h.onLocal.onCore) fun _ => h.onLocal).reeval

theorem incCtr {t i n : Nat} (h : Orderly b a s) : Orderly b a (s.incCtr t i n) := h.setCtr

theorem setLand {t y : Nat} {v : Option Word} (h : Orderly b a s) : Orderly b a (s.setLand t y v) := h.onLocal.reeval

theorem setSlot {t i : Nat} {v : Slot} (h : Orderly b a s) : Orderly b a (s.setSlot t i v) := h.onLocal.reeval

theorem parkCap {k i t j : Nat} {c : Cap} (h : Orderly b a s) : Orderly b a (s.parkCap k i t j c) :=
  ite (fun _ => h.setOwner.setSlot) fun _ => h.reclaimPath

theorem advanceRing {t r k : Nat} (h : Orderly b a s) : Orderly b a (s.advanceRing t r k) := h.onLocal.reeval

theorem putRec {t r : Nat} {v : TaskRec} (h : Orderly b a s) : Orderly b a (s.putRec t r v) := h.onLocal.reeval

theorem createTask {p k t : Nat} {img : RecImage} {xs : List Word} {c : Option Cap} {w : Option Place} (h : Orderly b a s)
    (hu : s.createTask p k t img xs c w = some u) : Orderly b a u := by
  obtain ⟨r, -, rfl⟩ := Option.map_eq_some_iff.mp hu
  exact h.putRec

theorem logPacket {t code sub va kind : Nat} {p : Packet} {w : Word} {c : Option Cap} (h : Orderly b a s) :
    Orderly b a (s.logPacket t code sub va p kind w c) := by
  unfold State.logPacket
  dsimp only
  split
  · exact h.logFault
  · exact h.logHost

theorem message {t ch : Nat} {x1 x2 x3 x4 : Word} {c : Option Cap} {p : Packet} (h : Orderly b a s)
    (hu : s.message t ch x1 x2 x3 x4 c p = some u) : Orderly b a u := by
  unfold State.message at hu
  split at hu
  · exact Option.some.inj hu ▸ h.logPacket
  · split at hu
    · split at hu
      · refine Option.some.inj hu ▸ ?_
        split
        · exact h.logPacket.letKill
        · exact h.logPacket
      · obtain ⟨v, hv, rfl⟩ := Option.map_eq_some_iff.mp hu
        split
        · exact (h.createTask hv).setOwner
        · exact h.createTask hv
    · refine Option.some.inj hu ▸ ?_
      split
      · exact h.logPacket.supvDeliver
      · exact h.logPacket

theorem markSignal {t : Nat} {n : Option (Nat × Nat)} (h : Orderly b a s) : Orderly b a (s.markSignal t n) := by
  unfold State.markSignal
  split
  · exact ite (fun _ => h.onLocal) fun _ => h
  · exact h

theorem unhold {t r : Nat} (h : Orderly b a s) : Orderly b a (s.unhold t r) := h.onCore

theorem noteLeft {t c r k : Nat} (h : Orderly b a s) : Orderly b a (s.noteLeft t c r k) := by
  unfold State.noteLeft
  exact h.onCore

theorem parkTask {t c : Nat} {w : ParkWait} (h : Orderly b a s) : Orderly b a (s.parkTask t c w) := by
  unfold State.parkTask
  dsimp only
  split
  · exact h
  · exact ite (fun _ => h.noteLeft.onLocal.setCtxAt) fun _ => h.onCtxAt

theorem setQ {t r : Nat} {q : QState} (h : Orderly b a s) : Orderly b a (s.setQ t r q) := h.onLocal

theorem awaited {t c r : Nat} (h : Orderly b a s) : Orderly b a (s.awaited t c r) := by
  unfold State.awaited
  split
  · exact h.setQ
  · exact h.onCtxAt
  · exact h

theorem rollback {t c sub : Nat} (h : Orderly b a s) : Orderly b a (s.rollback t c sub) := by
  unfold State.rollback
  extract_lets +onlyGivenNames v
  split
  · exact h
  · extract_lets s1 s2 s3 _ _ _ s4 s5
    have h2 : Orderly b a s2 := (foldl (fun _ _ h => h.clearReader) _ h).onLocal
    have h3 : Orderly b a s3 := by
      unfold s3
      split
      · exact h2.onPart
      · exact h2
    have h5 : Orderly b a s5 := h3.setCtxAt.parkTask
    split
    · exact h5.awaited
    · exact h5

/-! ## The end of a task -/

theorem disposeAll {l : List (Nat × Cap)} {f : State → Cap → State} (hf : ∀ s c, Orderly b a s → Orderly b a (f s c))
    (h : Orderly b a s) : Orderly b a (s.disposeAll l f) := by
  unfold State.disposeAll
  exact foldl (fun s c h => hf s c.2 h) l h

theorem returnRegion {t k : Nat} {img : RecImage} {c : Option Cap} (h : Orderly b a s) :
    Orderly b a (s.returnRegion t k img c) := ite (fun _ => h.setSlot) fun _ => h

theorem keepAccs {t r : Nat} {l : List Nat} (h : Orderly b a s) : Orderly b a (s.keepAccs t r l) :=
  foldl (fun _ _ h => ite (fun _ => h.setCtxAt) fun _ => h) _ h

theorem endNow {t c n : Nat} {kind : EndKind} (h : Orderly b a s) : Orderly b a (s.endNow t c kind n) := by
  unfold State.endNow
  extract_lets +onlyGivenNames v
  split
  · split
    · exact h.setCtxAt
    · extract_lets _ _ s1 s2 caps s3 s4
      have h4 : Orderly b a s4 := (disposeAll (fun _ _ h => h.letDrop) h.keepAccs.setCtxAt.noteLeft).returnRegion
      split
      · exact h4.putRec
      · exact h4.onLocal
  · exact h

theorem endSoon {t c n : Nat} (h : Orderly b a s) : Orderly b a (s.endSoon t c n) := h.endNow

/-! ## Barriers -/

theorem publish {p k : Nat} {kern : Kernel} {x : Cap × Word} (h : Orderly b a s) : Orderly b a (s.publish p k kern x) := by
  unfold State.publish
  exact ite (fun _ => foldl (fun _ _ h => h.parkCap) _ h.setCt) fun _ => h

theorem barCheck {t i : Nat} (h : Orderly b a s) : Orderly b a (s.barCheck t i) := by
  unfold State.barCheck
  split
  · refine ite (fun _ => ?_) fun _ => h
    split
    · exact (foldl (fun _ _ h => h.publish) _ h).onLocal
    · exact h
  · exact h

theorem rollReaders {c : Cap} {k : Nat} (h : Orderly b a s) : Orderly b a (s.rollReaders c k) :=
  foldl (fun _ _ h => foldl (fun _ _ h => ite (fun _ => h.rollback) fun _ => h) _ h) _ h

theorem cancelPubs {t i n : Nat} (h : Orderly b a s) : Orderly b a (s.cancelPubs t i n) := by
  unfold State.cancelPubs
  split
  · exact h
  · exact (foldl (fun _ _ h => ite (fun _ => h.rollReaders.onCt) fun _ => h) _ h).onLocal

theorem killParty {p k n : Nat} (h : Orderly b a s) : Orderly b a (s.killParty p k n) := by
  unfold State.killParty
  split
  · exact h
  · exact foldl (fun _ _ h => foldl (fun _ _ h => ite (fun _ => h.cancelPubs.barCheck) fun _ => h) _ h) _ h

/-! ## Kills -/

theorem killContexts {p k t n : Nat} (h : Orderly b a s) : Orderly b a (s.killContexts p k t n) := by
  refine foldl (fun s c h => ?_) _ h
  extract_lets s1 v
  have h1 : Orderly b a s1 := h.onCtxAt
  split
  · refine ite (fun _ => ?_) fun _ => h1
    extract_lets s2 s3 s4 s5 s6
    have h6 : Orderly b a s6 :=
      disposeAll (fun _ _ h => h.letKill) (foldl (fun _ _ h => h.clearReader) _ h1.keepAccs).onLocal.onCtxAt
    exact ite (fun _ => h6.setSlot) fun _ => h6
  · exact h1

theorem killRecords {p k t n : Nat} (h : Orderly b a s) : Orderly b a (s.killRecords p k t n) := by
  refine foldl (fun s r h => ite (fun _ => ?_) fun _ => h) _ h
  extract_lets caps parked s1 s2 s3
  have h3 : Orderly b a s3 := disposeAll (fun _ _ h => h.letKill) h.unhold.keepAccs.onLocal
  exact ite (fun _ => h3.setSlot) fun _ => h3

theorem killSlots {p k t n : Nat} (h : Orderly b a s) : Orderly b a (s.killSlots p k t n) := by
  refine foldl (fun s x h => ite (fun _ => ?_) fun _ => h) _ h
  dsimp only
  split
  · exact h.setSlot.letKill
  · exact h.setSlot

theorem killKicks {p k t n : Nat} (h : Orderly b a s) : Orderly b a (s.killKicks p k t n) := by
  refine foldl (fun s x h => ite (fun _ => ?_) fun _ => h) _ h.onCore
  dsimp only
  split
  · exact h.onLocal.letKill
  · exact h.onLocal

theorem killDelegated {p k t n : Nat} (h : Orderly b a s) : Orderly b a (s.killDelegated p k t n) :=
  foldl (fun _ _ h => ite (fun _ => h.onSteward.letKill) fun _ => h) _ h

theorem killRings {p k t n : Nat} (h : Orderly b a s) : Orderly b a (s.killRings p k t n) :=
  foldl (fun _ _ h => ite (fun _ => h.onLocal.letKill) fun _ => h) _ h

theorem markKilled {k t n : Nat} (h : Orderly b a s) : Orderly b a (s.markKilled k t n) := h.onTile fun _ => ⟨id, rfl⟩

theorem killGroup {p k t n : Nat} (h : Orderly b a s) : Orderly b a (s.killGroup p k t n) := by
  unfold State.killGroup
  have h' : Orderly b a _ := (((((((h.markKilled (k := k) (t := t) (n := n)).killContexts (p := p) (k := k) (t := t) (n := n)).killRecords
    (p := p) (k := k) (t := t) (n := n)).killSlots (p := p) (k := k) (t := t) (n := n)).killKicks (p := p) (k := k) (t := t)
    (n := n)).killDelegated (p := p) (k := k) (t := t) (n := n)).killRings (p := p) (k := k) (t := t) (n := n))
  dsimp only
  split
  · exact h'.onLocal.killParty
  · exact h'.onLocal

theorem killKernel {p k code sub : Nat} (h : Orderly b a s) : Orderly b a (s.killKernel p k code sub) := by
  unfold State.killKernel
  split
  · exact h
  · exact (foldl (fun _ _ h => h.killGroup) _ (foldl (fun _ _ h => h.markKilled) _ h)).onKernel

/-! ## Halts and containment -/

/-- A partition that is not being halted begins to be. -/
theorem startHalt {p : Nat} {why : HaltFor} (h : Orderly b a s)
    (hp : 2 ≤ b → ∀ q, aget? s.parts p = some q → q.halt = none) : Orderly b a (s.startHalt p why) := by
  unfold State.startHalt
  split
  · exact h
  next q hq =>
    have h' : Orderly b a (s.onPart p fun v => { v with halt := some why }) := by
      unfold State.onPart
      rw [hq]
      refine h.trans ⟨id, fun _ => ⟨rfl, rfl⟩, fun hb => ⟨fun j r hr => ?_, fun w => risesFrom_aset w _ rfl⟩, fun _ _ => .refl _⟩
      by_cases hj : j = p
      · subst hj
        obtain rfl : q = r := Option.some.inj (hq.symm.trans hr)
        exact ⟨_, aget?_aset_self _ _ _, rfl, rfl, rfl, rfl, rfl, rfl, rfl, fun hs => by simp [hp hb q hq] at hs⟩
      · exact ⟨r, (aget?_aset_ne _ _ hj).trans hr, .refl r⟩
    exact foldl (fun s t h => foldl (fun s c h => ite (fun _ => h.rollback) fun _ => h) _ (h.onCore fun _ _ _ => rfl)) _ h'

theorem absorbed {p k : Nat} (h : Orderly b a s) : Orderly b a (s.absorbed p k) := h.onKernel

theorem redispatch {t c : Nat} (h : Orderly b a s) : Orderly b a (s.redispatch t c) := by
  unfold State.redispatch
  extract_lets +onlyGivenNames v
  split
  · exact h
  · refine ite (fun _ => ?_) fun _ => h.onCtxAt
    extract_lets _ e s1 _ s2 s3
    have h3 : Orderly b a s3 := by
      unfold s3
      split
      · exact h.keepAccs.noteLeft.setCtxAt.letDrop
      · exact h.keepAccs.noteLeft.setCtxAt
    exact h3.onLocal

end Orderly

end Sys2Proof.Machine
end

section
/-!
PROOFS. Containment, commits, collective records and what the fabric interface does for a lost packet are orderly.
-/

namespace Sys2Proof.Machine

-- Many small proofs side by side would each hold a thread of their own: they are elaborated one after another.
set_option Elab.async false

namespace Orderly

variable {b : Nat} {a s u : State}

/-! ## Containment: a halt may begin, so partitions are not looked at -/

theorem halts {p : Nat} {why : HaltFor} (h : Orderly b a s) (hb : b < 2) : Orderly b a (s.startHalt p why) :=
  h.startHalt fun h2 => absurd h2 (by omega)

theorem applyPpol {p : Nat} {r : FRec} (h : Orderly b a s) (hb : b < 2) : Orderly b a (s.applyPpol p r) := by
  unfold State.applyPpol
  dsimp only
  split
  · exact h
  · refine ite (fun _ => ite (fun _ => h.logFault.onPart) fun _ => h.logFault.onPart.halts hb) fun _ => ?_
    refine ite (fun _ => (foldl ?_ _ h.logFault).mgmtEvent) fun _ => ((foldl ?_ _ h.logFault).mgmtEvent).halts hb
    all_goals exact fun _ _ h => ite (fun _ => h.logFault.killKernel) fun _ => h

theorem containFrom {p k t : Nat} {c : Option Nat} {noRetry : Bool} {r : FRec} {im : Image} {level : Level} (h : Orderly b a s)
    (hb : b < 2) : Orderly b a (s.containFrom p k t c noRetry r im level) := by
  unfold State.containFrom
  extract_lets log killLog ignore replay atKernel atGroup atTask
  have hl : Orderly b a (log s) := h.logFault
  have hi : Orderly b a (ignore s) := by
    unfold ignore
    dsimp only
    split
    · exact hl.absorbed.endSoon
    · exact hl.absorbed
  have hk : Orderly b a atKernel := by
    refine ite (fun _ => hi) fun _ => ite (fun _ => hl.logFault.killKernel) fun _ => ?_
    split
    · exact ite (fun _ => (h.applyPpol hb).endSoon) fun _ => h.applyPpol hb
    · exact h.applyPpol hb
  have hg : Orderly b a atGroup := ite (fun _ => hi) fun _ => ite (fun _ => hl.logFault.killGroup) fun _ => hk
  split
  · refine ite (fun _ => hi) fun _ => ite (fun _ => ?_) fun _ => ite (fun _ => ?_) fun _ => hg
    · split
      · exact ite (fun _ => hl.absorbed.redispatch) fun _ => hg
      · exact hg
    · split
      · exact hl.logFault.endSoon
      · exact hl.logFault
  · exact hg
  · exact hk
  · exact h.applyPpol hb

theorem contain {p k t : Nat} {c : Option Nat} {noRetry : Bool} {r : FRec} {level : Level} (h : Orderly b a s) (hb : b < 2) :
    Orderly b a (s.contain p k t c noRetry r level) := by
  unfold State.contain
  split
  · exact h.containFrom hb
  · exact h.logFault

theorem lateError {t c k : Nat} {id : TaskId} {code sub : Nat} (h : Orderly b a s) (hb : b < 2) :
    Orderly b a (s.lateError t c k id code sub) := by
  unfold State.lateError
  split
  · exact h.contain hb
  · exact h

theorem finishEnd {t c : Nat} {kind : EndKind} (h : Orderly b a s) (hb : b < 2) : Orderly b a (s.finishEnd t c kind) := by
  unfold State.finishEnd
  dsimp only
  split
  · exact ite (fun _ => h.endNow) fun _ => h.endNow.halts hb
  · exact h.endNow

theorem heldEnd {t c : Nat} (h : Orderly b a s) (hb : b < 2) : Orderly b a (s.heldEnd t c) := by
  unfold State.heldEnd
  dsimp only
  split
  · refine ite (fun _ => ?_) fun _ => h
    split
    · exact (h.onCtxAt.finishEnd hb).lateError hb
    · exact h.onCtxAt.finishEnd hb
  · exact h

/-! ## Accesses and posts -/

theorem notRetriable (h : Orderly b a s) : Orderly b a s.notRetriable := h.onRun

theorem takeOrd (h : Orderly b a s) : Orderly b a s.takeOrd := h.onCore

theorem probeLine {t n : Nat} {c : Cap} (h : Orderly b a s) : Orderly b a (s.probeLine t c n) :=
  ite (fun _ => foldl (fun _ _ h => h.send) _ h.same) fun _ => h

theorem perform {t x : Nat} {c : Cap} {bs : List Byte} (h : Orderly b a s) : Orderly b a (s.perform t c x bs) :=
  ite (fun _ => foldl (fun _ _ h => h.probeLine) _ h.putBytes.eccWrite) fun _ => h.putBytes.eccWrite

theorem carried {t : Nat} {p : Post} (h : Orderly b a s) : Orderly b a (s.carried t p) := by
  unfold State.carried
  split
  · split
    · exact h.setOwner
    · exact h.setOwner
    · exact h
  · split
    · exact h.setOwner
    · exact h
  · exact h

theorem release {t c : Nat} {p : HeldPost} (h : Orderly b a s) : Orderly b a (s.release t c p) := by
  have h' : Orderly b a ((s.markSignal t p.signal).carried t p.post) := h.markSignal.carried
  unfold State.release
  dsimp only
  split
  · exact (ite (fun _ => h'.onCtxAt) fun _ => h').onCore
  · exact h'.onLocal
  · split
    · obtain hn | ⟨u, hu⟩ := Option.eq_none_or_eq_some (State.createTask ((s.markSignal t p.signal).carried t p.post) _ _ t _ _ none none)
      · rw [hn]; exact h'
      · rw [hu]; exact h'.createTask hu
    · exact h'

theorem takeEntries {t c n : Nat} (h : Orderly b a s) : Orderly b a (s.takeEntries t c n) := by
  induction n generalizing s with
  | zero => exact h
  | succ n ih =>
    unfold State.takeEntries
    dsimp only
    split
    · exact ite (fun _ => ih h.setCtxAt) fun _ => h
    · exact h

theorem releaseAll {t c : Nat} {l : List HeldPost} (h : Orderly b a s) : Orderly b a (s.releaseAll t c l).1 := by
  induction l generalizing s with
  | nil => exact h
  | cons p l ih =>
    unfold State.releaseAll
    split
    · exact ih h.release
    · exact h

theorem releaseWrites {t : Nat} {l : List LogWrite} (h : Orderly b a s) : Orderly b a (s.releaseWrites t l).1 := by
  induction l generalizing s with
  | nil => exact h
  | cons p l ih =>
    unfold State.releaseWrites
    split
    · exact ih h.perform
    · exact h

theorem pump {t c : Nat} (h : Orderly b a s) (hb : b < 2) : Orderly b a (s.pump t c) := by
  unfold State.pump
  exact (h.releaseWrites.onCtxAt.takeEntries.releaseAll.onCtxAt).heldEnd hb

/-! ## Commits -/

theorem askCommit {t : Nat} {w : Who} {l : LogWrite} {write : Bool} (h : Orderly b a s) : Orderly b a (s.askCommit t w l write) :=
  h.same

theorem drainLog {t c : Nat} {w : Who} {l : List LogWrite} (h : Orderly b a s) (hb : b < 2) :
    Orderly b a (s.drainLog t c w l) := by
  cases l with
  | nil =>
    unfold State.drainLog
    exact h.onCtxAt.pump hb
  | cons x l => exact h.onCtxAt.askCommit

theorem commitNow {t c : Nat} {w : Who} (h : Orderly b a s) (hb : b < 2) : Orderly b a (s.commitNow t c w) := by
  unfold State.commitNow
  extract_lets +onlyGivenNames v log s1 s2 n s3 _ s4
  have h1 : Orderly b a s1 := ite (fun _ => h.onCtxAt) fun _ => foldl (fun _ _ h => h.perform) _ h
  have h2 : Orderly b a s2 := foldl (fun _ _ h => h.clearReader) _ h1
  have h4 : Orderly b a s4 := h2.onCore.onCtxAt
  exact h4.drainLog hb

theorem checkLog {t c : Nat} {w : Who} {l : List LogWrite} (h : Orderly b a s) (hb : b < 2) :
    Orderly b a (s.checkLog t c w l) := by
  cases l with
  | nil => exact h.commitNow hb
  | cons x l => exact h.onCtxAt.askCommit

theorem commit {t c : Nat} {w : Who} (h : Orderly b a s) (hb : b < 2) : Orderly b a (s.commit t c w) := by
  unfold State.commit
  exact ite (fun _ => h.onCtxAt.checkLog hb) fun _ => h.rollback

theorem commitAnswer {w : Who} {ok : Bool} (h : Orderly b a s) (hb : b < 2) : Orderly b a (s.commitAnswer w ok) := by
  unfold State.commitAnswer
  dsimp only
  split
  · exact ite (fun _ => h.checkLog hb) fun _ => h.rollback
  · exact h.drainLog hb
  · exact h

/-! ## Homes, engines, collective slots -/

theorem answerRequest {p : Packet} {k id code sub : Nat} {bs : List Byte} (h : Orderly b a s) :
    Orderly b a (s.answerRequest p k id code sub bs) := h.send

theorem onOp {t id : Nat} {f : EngOp → EngOp} (h : Orderly b a s) : Orderly b a (s.onOp t id f) := h.onSteward

theorem onDelivery {t r id : Nat} {w : Place} {f : Delivery → Delivery} (h : Orderly b a s) :
    Orderly b a (s.onDelivery t r w id f) := h.onLocal

theorem sendRecord {k i : Nat} {d : RecordDest} {v st mask hd : Word} (h : Orderly b a s) :
    Orderly b a (s.sendRecord k d v st mask hd i) := h.send

theorem setRed {i : Nat} {r : RedSlot} (h : Orderly b a s) : Orderly b a (s.setRed i r) := h.same

theorem completeSlot {i mask code window : Nat} {r : RedSlot} {v : Word} {frees : Bool} (h : Orderly b a s) :
    Orderly b a (s.completeSlot i r v mask code window frees) := by
  unfold State.completeSlot
  exact foldl (fun _ _ h => ite (fun _ => h.sendRecord) fun _ => h) _ h.setRed

theorem slotDeadline {i : Nat} (h : Orderly b a s) : Orderly b a (s.slotDeadline i) :=
  ite (fun _ => h.draw.completeSlot) fun _ => h

theorem slotExpire {i : Nat} (h : Orderly b a s) : Orderly b a (s.slotExpire i) := ite (fun _ => h.setRed) fun _ => h

theorem slotDue {i : Nat} (h : Orderly b a s) : Orderly b a (s.slotDue i) := h.slotDeadline.slotExpire

/-! ## The outcome of a packet to another chip -/

theorem logUnconfirmed {p : Packet} {code sub : Nat} (h : Orderly b a s) : Orderly b a (s.logUnconfirmed p code sub) := h.logFault

theorem relayNext {r : Relay} (h : Orderly b a s) : Orderly b a (s.relayNext r) := by
  unfold State.relayNext
  split
  · exact h.answerRequest
  · exact h.same

theorem answerRelay {r : RemoteAnswer} (h : Orderly b a s) : Orderly b a (s.answerRelay r) := by
  unfold State.answerRelay
  split
  · exact ite (fun _ => h.same.relayNext) fun _ => h.same.answerRequest
  · exact h

theorem answerAccess {t : Nat} {r : RemoteAnswer} (h : Orderly b a s) : Orderly b a (s.answerAccess t r) := by
  unfold State.answerAccess
  dsimp only
  split
  · exact h.onCore.onCtxAt
  · exact h.answerGiving.answerRelay

theorem answerContext {t : Nat} {r : RemoteAnswer} (h : Orderly b a s) (hb : b < 2) : Orderly b a (s.answerContext t r) := by
  unfold State.answerContext
  split
  · dsimp only
    split
    · exact h.same.commitAnswer hb
    · exact h
  · exact h.answerAccess

theorem grantLost {t dl code : Nat} {w : Place} (h : Orderly b a s) : Orderly b a (s.grantLost t w dl code) := by
  unfold State.grantLost
  split
  · exact h.onDelivery
  · exact h

theorem lose {p : Packet} {id : Nat} {k : TransferFor} {code sub : Nat} (h : Orderly b a s) (hb : b < 2) :
    Orderly b a (s.lose p id k code sub) := by
  unfold State.lose
  split
  · exact h.answerContext hb
  · exact h.reclaimPath.onOp
  · exact h.onOp
  · exact h.onOp
  · exact h.grantLost
  · exact h.reclaimPath
  · exact h.sendRecord
  · exact h.send
  · exact h
  · exact h.logUnconfirmed

theorem losePacket {p : Packet} {code sub : Nat} (h : Orderly b a s) (hb : b < 2) : Orderly b a (s.losePacket p code sub) :=
  h.lose hb

theorem unconfirmed {x : Transfer} {code : Nat} (h : Orderly b a s) (hb : b < 2) : Orderly b a (s.unconfirmed x code) := by
  unfold State.unconfirmed
  split
  · exact h.logUnconfirmed
  · exact h.lose hb

end Orderly

end Sys2Proof.Machine
end

section
/-!
PROOFS. The fabric interface: departures, confirmation, arrivals, generations, ports, the time base (R396 to R409, R483).
-/

namespace Sys2Proof.Machine

-- Many small proofs side by side would each hold a thread of their own: they are elaborated one after another.
set_option Elab.async false

section
variable {s : State} {p : Packet} {x : Transfer} {i n c : Nat}

/-! ## Departures (R400, R403, R408) -/

/-- Why a packet in the queues stays there. -/
def State.detained (s : State) (i : Nat) (p : Packet) : Prop :=
  s.cycle < p.due ∨ s.fabric.unsync.isSome = true ∨ s.flipDue = true ∨ s.boundaryDue = true ∨ s.behind i p = true
    ∨ s.waitsForOld p = true

theorem departure_detained (hp : s.fabric.out[s.cur.sub]? = some p) (h : s.detained s.cur.sub p) :
    exec .packetDeparture s = .next s := by
  show execPacketDeparture s = _
  unfold execPacketDeparture
  simp only [hp]
  exact if_pos h

theorem not_detained (hd : p.due ≤ s.cycle) (hu : s.fabric.unsync = none) (hf : s.flipDue = false) (hb : s.boundaryDue = false)
    (hbh : s.behind i p = false) (hw : s.waitsForOld p = false) : ¬s.detained i p := by
  rintro (h | h | h | h | h | h)
  · exact absurd hd (Nat.not_le.mpr h)
  · rw [hu] at h; cases h
  · exact Bool.false_ne_true (hf.symm.trans h)
  · exact Bool.false_ne_true (hb.symm.trans h)
  · exact Bool.false_ne_true (hbh.symm.trans h)
  · exact Bool.false_ne_true (hw.symm.trans h)

theorem departure_goes (hp : s.fabric.out[s.cur.sub]? = some p) (h : ¬s.detained s.cur.sub p)
    (hl : ∀ n, p.last = some n → s.window ≤ n) :
    exec .packetDeparture s = match s.route s.fabric.gencur p with
      | .lost => .next ((s.unqueued s.cur.sub).addTransfer p 0 false)
      | .pool w => .next (s.departPool s.cur.sub p w)
      | .port n => .next (s.departOn s.cur.sub p n) := by
  have hlast : ¬((p.last.any fun n => decide (n < s.window)) = true) := by
    cases he : p.last with
    | none => simp
    | some n => simpa using hl n he
  show execPacketDeparture s = _
  unfold execPacketDeparture
  simp only [hp]
  exact (if_neg h).trans (if_neg hlast)

/-- A packet that leaves, or cannot leave at once, becomes a transfer behind those that are outstanding. -/
theorem addTransfer_adds (s : State) (p : Packet) (port : Nat) (sent : Bool) :
    ∃ y more, (s.addTransfer p port sent).fabric.transfers = s.fabric.transfers ++ y :: more
      ∧ y.pkt = p ∧ y.stamp = s.window ∧ y.sent = sent ∧ y.lost = !sent ∧ y.port = port
      ∧ (sent = false → more = []) :=
  ⟨_, _, rfl, rfl, rfl, rfl, rfl, rfl, fun h => by subst h; split <;> rfl⟩

theorem departOn_stays (hpart : (aget? s.parts p.part).isSome = true)
    (h : ((s.bucket p.part n).settle s.cycle).tokens < (p.len + 16) * 1400 ∨ s.fabric.portsUp.getLsbD n = false) :
    s.departOn i p n = s := by
  unfold State.departOn
  refine if_pos ?_
  rw [if_neg (by simpa using Option.isSome_iff_ne_none.mp hpart)]
  exact h.imp id fun h => by rw [h]; rfl

theorem departOn_leaves (hpart : (aget? s.parts p.part).isSome = true)
    (ht : (p.len + 16) * 1400 ≤ ((s.bucket p.part n).settle s.cycle).tokens) (hup : s.fabric.portsUp.getLsbD n = true) :
    ∃ v : State, s.departOn i p n = (v.unqueued i).addTransfer p n true ∧ v.window = s.window
      ∧ v.fabric.out = s.fabric.out ∧ v.fabric.transfers = s.fabric.transfers
      ∧ v.fabric.buckets = aset s.fabric.buckets (bucketKey p.part n)
          { (s.bucket p.part n).settle s.cycle with
            tokens := ((s.bucket p.part n).settle s.cycle).tokens - (p.len + 16) * 1400 } := by
  unfold State.departOn
  have hn : (aget? s.parts p.part).isNone = false := by rw [Option.isNone_eq_false_iff]; exact hpart
  simp only [hn, Bool.false_eq_true, if_false]
  refine ⟨_, if_neg ?_, rfl, rfl, rfl, rfl⟩
  rw [hup]
  exact fun h => h.elim (Nat.not_lt.mpr ht) (by simp)

/-! ## Confirmation (R404) -/

/-- The transfer with this number that an answer, or an acknowledgement, may confirm still. -/
structure Outstanding (s : State) (i : Nat) (x : Transfer) (id : Nat) (request : Bool) : Prop where
  entry : s.fabric.transfers[i]? = some x
  number : x.id = id
  sent : x.sent = true
  result : x.kind ≠ .result
  granted : x.kind ≠ .granted
  request : (requestId x.pkt.body).isSome = request
  timely : s.window < x.stamp + 2
  first : ∀ (j : Nat) (y : Transfer), j < i → s.fabric.transfers[j]? = some y → y.id ≠ id

theorem confirmed_none {id : Nat} {byAnswer : Bool} (h : ∀ y ∈ s.fabric.transfers, y.id = id → y.stamp + 2 ≤ s.window) :
    s.confirmed id byAnswer = none := by
  unfold State.confirmed
  rw [List.findIdx?_eq_none_iff.mpr fun y hy => ?_]
  · rfl
  · by_cases hid : y.id = id
    · have := h y hy hid
      simp [Nat.not_lt.mpr this]
    · simp [hid]

theorem confirmed_some {id : Nat} {request : Bool} (h : Outstanding s i x id request) : s.confirmed id request = some (i, x) := by
  obtain ⟨hi, hx⟩ := List.getElem?_eq_some_iff.mp h.entry
  unfold State.confirmed
  rw [List.findIdx?_eq_some_iff_getElem.mpr ⟨hi, ?_, fun j hj => ?_⟩]
  · simp [h.entry]
  · rw [hx]
    simp [h.number, h.sent, h.result, h.granted, answered, h.request, h.timely]
  · have := h.first j _ hj (List.getElem?_eq_getElem (by omega))
    simp [this]

theorem acknowledgement_late {id : Nat} (h : (∀ y ∈ s.fabric.transfers, y.id = id → y.stamp + 2 ≤ s.window)
    ∨ Outstanding s i x id false ∧ s.knows x.pkt.dst.chip = false) :
    exec (.fabricAcknowledgement id) s = .next s.discard := by
  show execFabricAcknowledgement id s = _
  unfold execFabricAcknowledgement
  obtain h | ⟨h, hk⟩ := h
  · simp only [confirmed_none h]
  · simp only [confirmed_some h, hk, Bool.not_false, if_true]

theorem acknowledgement_confirms {id : Nat} (h : Outstanding s i x id false) (hk : s.knows x.pkt.dst.chip = true) :
    ∃ u, exec (.fabricAcknowledgement id) s = .next u
      ∧ u.fabric = { s.fabric with transfers := s.fabric.transfers.eraseIdx i } := by
  show ∃ u, execFabricAcknowledgement id s = _ ∧ _
  unfold execFabricAcknowledgement
  simp only [confirmed_some h, hk, Bool.not_true, Bool.false_eq_true, if_false]
  split <;> exact ⟨_, rfl, rfl⟩

theorem answer_late {ans : RemoteAnswer} (h : (∀ y ∈ s.fabric.transfers, y.id = ans.id → y.stamp + 2 ≤ s.window)
    ∨ Outstanding s i x ans.id true ∧ s.knows x.pkt.dst.chip = false) :
    exec (.remoteAccessAnswer ans) s = .next s.discard := by
  show execRemoteAccessAnswer ans s = _
  unfold execRemoteAccessAnswer
  obtain h | ⟨h, hk⟩ := h
  · simp only [confirmed_none h]
  · simp only [confirmed_some h, hk, Bool.not_false, if_true]

/-- The context of a tile that awaits the answer to a request, no other, and no commit does. -/
structure Awaits (s : State) (t c id : Nat) : Prop where
  slot : c < 8
  first : ∀ d < c, (s.ctxAt t d).hold ≠ .remote id
  commits : ∀ d < 8, (s.ctxAt t d).hold.commits id = false
  holds : (s.ctxAt t c).hold = .remote id

/-- A change of a core beside its contexts. -/
theorem ctxAt_onCore_keeps (s : State) (t c : Nat) {f : CoreSt → CoreSt} (hf : ∀ k, (f k).ctxs = k.ctxs) :
    (s.onCore t f).ctxAt t c = s.ctxAt t c := by
  rw [State.ctxAt, State.core_onCore_self, hf, State.ctxAt]

/-- The answer reaches the context that awaits it. -/
theorem answerContext_gives {t : Nat} {ans : RemoteAnswer} (h : Awaits s t c ans.id) :
    (s.answerContext t ans).fabric = s.fabric
      ∧ (s.answerContext t ans).ctxAt t c = { s.ctxAt t c with hold := .none, answer := some ans } := by
  have hcommit : ((upto 8).find? fun c => (s.ctxAt t c).hold.commits ans.id) = none := by
    rw [List.find?_eq_none]
    exact fun d hd => by rw [h.commits d (List.mem_range.mp hd)]; exact Bool.false_ne_true
  have hremote : ((upto 8).find? fun c => (s.ctxAt t c).hold == .remote ans.id) = some c := by
    unfold upto
    rw [List.find?_range_eq_some]
    exact ⟨by rw [h.holds]; exact beq_self_eq_true _, List.mem_range.mpr h.slot, fun d hd => by simpa using h.first d hd⟩
  unfold State.answerContext State.answerAccess
  simp only [hcommit, hremote]
  refine ⟨rfl, ?_⟩
  rw [State.onCtxAt, State.ctxAt_setCtxAt_self, ctxAt_onCore_keeps]
  exact fun _ => rfl

theorem answer_access {ans : RemoteAnswer} (h : Outstanding s i x ans.id true) (hk : s.knows x.pkt.dst.chip = true)
    (hf : answerFits x.pkt.body ans = true) (hc : ans.code = cOk) (hx : x.kind = .access) (hw : Awaits s x.pkt.src.tile c ans.id) :
    ∃ u, exec (.remoteAccessAnswer ans) s = .next u
      ∧ u.fabric = { s.fabric with transfers := s.fabric.transfers.eraseIdx i }
      ∧ u.ctxAt x.pkt.src.tile c = { s.ctxAt x.pkt.src.tile c with hold := .none, answer := some ans } := by
  show ∃ u, execRemoteAccessAnswer ans s = _ ∧ _
  unfold execRemoteAccessAnswer
  simp only [confirmed_some h, hk, Bool.not_true, Bool.false_eq_true, if_false, hf, if_true, hx, hc]
  have hw' : Awaits (s.withoutTransfer i) x.pkt.src.tile c ans.id := ⟨hw.slot, hw.first, hw.commits, hw.holds⟩
  exact ⟨_, rfl, answerContext_gives hw'⟩

theorem answer_engine {ans : RemoteAnswer} {o : EngOp} (h : Outstanding s i x ans.id true) (hk : s.knows x.pkt.dst.chip = true)
    (hf : answerFits x.pkt.body ans = true) (hc : ans.code = cOk) (hx : x.kind = .engine) (ho : x.pkt.op = some o.id)
    (hops : (s.tile x.pkt.src.tile).stw.ops = [o]) :
    ∃ u, exec (.remoteAccessAnswer ans) s = .next u
      ∧ u.fabric = { s.fabric with transfers := s.fabric.transfers.eraseIdx i }
      ∧ (u.tile x.pkt.src.tile).stw.ops = [EngOp.confirm { o with flights := o.flights.map (Flight.takes ans) }] := by
  have hcount (v : State) : v.countAnswer x.pkt ans = v := by
    unfold State.countAnswer
    exact if_neg (by rw [hc]; decide)
  have htakes : o.takes ans = EngOp.confirm { o with flights := o.flights.map (Flight.takes ans) } :=
    if_neg (not_not_intro hc)
  show ∃ u, execRemoteAccessAnswer ans s = _ ∧ _
  unfold execRemoteAccessAnswer
  simp only [confirmed_some h, hk, Bool.not_true, Bool.false_eq_true, if_false, hf, if_true, hx, hcount, ho]
  refine ⟨_, rfl, rfl, ?_⟩
  rw [State.onOp, State.onSteward, State.onTile, State.setTile, State.tile, aget_aset_self]
  show List.map _ (s.tile x.pkt.src.tile).stw.ops = _
  rw [hops]
  simp [htakes]

/-! ## Transfers that are not confirmed in time -/

theorem timeout_early (hx : s.fabric.transfers[s.cur.sub]? = some x) (hk : x.kind = .access) (hw : s.window < x.stamp + 2)
    (hs : x.sent = true) : exec .transferTimeout s = .next s := by
  show execTransferTimeout s = _
  unfold execTransferTimeout
  simp only [hx, hk]
  refine if_neg ?_
  rw [hs]
  simp only [reduceCtorEq, or_self, if_false, Bool.not_true, Bool.false_eq_true, or_false, Nat.not_le]
  exact hw

theorem timeout_gives (hx : s.fabric.transfers[s.cur.sub]? = some x) (hk : x.kind = .access)
    (hl : x.stamp + 2 ≤ s.window ∨ x.sent = false) (hw : Awaits s x.pkt.src.tile c x.id) :
    ∃ u, exec .transferTimeout s = .next u
      ∧ u.fabric = { s.fabric with transfers := s.fabric.transfers.eraseIdx s.cur.sub }
      ∧ (u.ctxAt x.pkt.src.tile c).hold = .none
      ∧ (u.ctxAt x.pkt.src.tile c).answer = some ⟨x.id, if x.lost then cPeerlost else cTimeout, 0, []⟩ := by
  have hlast : (if x.kind = .result ∨ x.kind = .granted then x.stamp + 3 else x.stamp + 2) = x.stamp + 2 := by
    rw [hk]
    exact if_neg (by simp)
  have hw' : Awaits (s.withoutTransfer s.cur.sub) x.pkt.src.tile c x.id := ⟨hw.slot, hw.first, hw.commits, hw.holds⟩
  obtain ⟨hf, hc⟩ := answerContext_gives (ans := ⟨x.id, if x.lost then cPeerlost else cTimeout, 0, []⟩) hw'
  show ∃ u, execTransferTimeout s = _ ∧ _
  unfold execTransferTimeout
  simp only [hx, hlast]
  rw [if_pos (hl.imp id fun h => by rw [h]; rfl)]
  simp only [State.unconfirmed, hk, State.lose]
  exact ⟨_, rfl, hf, by rw [hc], by rw [hc]⟩

end

end Sys2Proof.Machine
end

section
/-!
PROOFS. Packets that arrive from other chips (R396, R399, R403, R407), generations, ports and the time base (R400, R404, R405,
R409, R483).
-/

namespace Sys2Proof.Machine

-- Many small proofs side by side would each hold a thread of their own: they are elaborated one after another.
set_option Elab.async false

section
variable {s : State} {q : FabPacket} {c : Nat}

/-! ## Packets that arrive -/

/-- The packet is one for this chip, from a chip from which packets are taken, in a generation that has not retired. -/
structure Welcome (s : State) (q : FabPacket) : Prop where
  synchronized : s.fabric.unsync = none
  free : s.flowWaits q.pkt = false
  here : q.pkt.dst.chip = s.chip
  elsewhere : q.pkt.src.chip ≠ s.chip
  formed : s.mayArrive q.pkt = true
  known : bit (s.fabric.entry (q.gen == 1) q.pkt.src.chip) 31 = true
  current : s.fabric.retired = false ∨ (q.gen == 1) = s.fabric.gencur

/-- The packet is taken: the next one of its chip and network has a higher number. -/
def State.numbered (s : State) (q : FabPacket) : State :=
  { s with fabric := { s.fabric with seqs := aset s.fabric.seqs (seqKey q.pkt) (q.seq + 1) } }

theorem arrival_discards (hu : s.fabric.unsync = none) (hf : s.flowWaits q.pkt = false)
    (h : q.pkt.dst.chip ≠ s.chip ∨ bit (s.fabric.entry (q.gen == 1) q.pkt.src.chip) 31 = false) :
    exec (.fabricPacketArrival q) s = .next s.discard := by
  show execFabricPacketArrival q s = _
  unfold execFabricPacketArrival
  simp only [hu, hf, Option.isSome_none, Bool.false_eq_true, or_self, if_false]
  refine if_pos ?_
  obtain h | h := h
  · exact .inl h
  · exact .inr (.inr (.inr (.inl (by rw [h]; rfl))))

/-- A choice between next states. -/
theorem next_ite (c : Prop) [Decidable c] (u v : State) :
    (if c then (.next u : Host.Outcome State Fault Refusal) else .next v) = .next (if c then u else v) := by
  split <;> rfl

theorem arrival_takes (h : Welcome s q) :
    exec (.fabricPacketArrival q) s = .next (if q.seq < aget s.fabric.seqs 0 (seqKey q.pkt) then s
      else if q.stamp + 2 ≤ s.window then (s.numbered q).refuseArrival q.pkt cTimeout 0
      else if needsCapok q.pkt.body = true ∧ (!bit (s.fabric.entry (q.gen == 1) q.pkt.src.chip) 29) = true then
        (s.numbered q).refuseArrival q.pkt cIllopnd 0x0C
      else if (fabricAddress q.pkt.body).isNone = true ∧ ((s.numbered q).destPart q.pkt).isNone = true then
        (s.numbered q).logArrival q.pkt cIllopnd 8
      else (s.numbered q).accept q.pkt q.stamp) := by
  have hcur : ¬(s.fabric.retired = true ∧ (q.gen == 1) ≠ s.fabric.gencur) := fun hc =>
    h.current.elim (fun hr => by simp [hr] at hc) hc.2
  have hwelcome : ¬(q.pkt.dst.chip ≠ s.chip ∨ q.pkt.src.chip = s.chip ∨ (!s.mayArrive q.pkt) = true
      ∨ (!bit (s.fabric.entry (q.gen == 1) q.pkt.src.chip) 31) = true ∨ (s.fabric.retired = true ∧ (q.gen == 1) ≠ s.fabric.gencur)) := by
    rw [h.formed, h.known]
    simp only [h.here, h.elsewhere, ne_eq, not_true_eq_false, Bool.not_true, Bool.false_eq_true, false_or]
    exact hcur
  show execFabricPacketArrival q s = _
  unfold execFabricPacketArrival
  refine (if_neg fun hc => ?_).trans ((if_neg hwelcome).trans ?_)
  · rw [h.synchronized, h.free] at hc
    exact hc.elim Bool.false_ne_true Bool.false_ne_true
  · simp only [next_ite] <;> rfl

/-- For a post or a request on this chip the number of the packet says nothing about where it goes. -/
theorem destPart_numbered (hb : (∃ x1 x2 x3 x4 cap, q.pkt.body = .msg c x1 x2 x3 x4 cap) ∨ (∃ a m own, q.pkt.body = .inc a m own)
    ∨ ∃ k off wr len id, q.pkt.body = .access k off wr len id) : (s.numbered q).destPart q.pkt = s.destPart q.pkt := by
  unfold State.destPart
  obtain ⟨x1, x2, x3, x4, cap, hb⟩ | ⟨a, m, own, hb⟩ | ⟨k, off, wr, len, id, hb⟩ := hb <;> simp only [hb, fabricAddress] <;> rfl

/-- A record about a packet that is discarded. -/
theorem logArrival_records (s : State) (p : Packet) (code sub : Nat) :
    (s.logArrival p code sub).net = s.net ∧ (s.logArrival p code sub).fabric = s.fabric
      ∧ (s.destPart p = none → (s.logArrival p code sub).assay.hltail = s.assay.hltail + 1) := by
  unfold State.logArrival
  split
  next k hk =>
    have h := Filed.logFault s k (s.recordOf p code sub) none
    exact ⟨h.net, h.fabric, fun hn => by rw [hn] at hk; cases hk⟩
  next => exact ⟨rfl, rfl, fun _ => rfl⟩

/-- A post that is refused is recorded. -/
theorem arrival_drops (h : Welcome s q) {x1 x2 x3 x4 : Word} {cap : Option Cap} (hb : q.pkt.body = .msg c x1 x2 x3 x4 cap)
    (hn : aget s.fabric.seqs 0 (seqKey q.pkt) ≤ q.seq)
    (hd : q.stamp + 2 ≤ s.window ∨ bit (s.fabric.entry (q.gen == 1) q.pkt.src.chip) 29 = false ∨ s.destPart q.pkt = none) :
    ∃ u, exec (.fabricPacketArrival q) s = .next u ∧ u.net = s.net ∧ aget? u.fabric.seqs (seqKey q.pkt) = some (q.seq + 1)
      ∧ (s.destPart q.pkt = none → u.assay.hltail = s.assay.hltail + 1) := by
  have hdest := destPart_numbered (s := s) (.inl ⟨x1, x2, x3, x4, cap, hb⟩)
  have hrecord (code sub : Nat) : ∃ u, (.next ((s.numbered q).logArrival q.pkt code sub) : Host.Outcome State Fault Refusal) = .next u
      ∧ u.net = s.net ∧ aget? u.fabric.seqs (seqKey q.pkt) = some (q.seq + 1)
      ∧ (s.destPart q.pkt = none → u.assay.hltail = s.assay.hltail + 1) := by
    obtain ⟨hnet, hfab, htail⟩ := logArrival_records (s.numbered q) q.pkt code sub
    exact ⟨_, rfl, hnet, by rw [hfab]; exact aget?_aset_self _ _ _, fun hn => htail (hdest.trans hn)⟩
  have hrefuse (code sub : Nat) : (s.numbered q).refuseArrival q.pkt code sub = (s.numbered q).logArrival q.pkt code sub := by
    unfold State.refuseArrival
    simp only [hb]
  rw [arrival_takes h, if_neg (Nat.not_lt.mpr hn)]
  simp only [hb, needsCapok, fabricAddress, true_and, Option.isNone_none, hrefuse, hdest]
  split
  · exact hrecord _ _
  next hw =>
    split
    · exact hrecord _ _
    next hk =>
      rw [if_pos]
      · exact hrecord _ _
      · refine Option.isNone_iff_eq_none.mpr ((hd.resolve_left hw).resolve_left fun hb => hk ?_)
        rw [hb]
        rfl

/-- What the fabric interface makes of an accepted post: its packet for the mesh. -/
theorem arrival_accepts (h : Welcome s q) (hn : aget s.fabric.seqs 0 (seqKey q.pkt) ≤ q.seq) (hw : s.window < q.stamp + 2)
    (hk : needsCapok q.pkt.body = true → bit (s.fabric.entry (q.gen == 1) q.pkt.src.chip) 29 = true) (hd : (s.numbered q).destPart q.pkt ≠ none) :
    exec (.fabricPacketArrival q) s = .next ((s.numbered q).accept q.pkt q.stamp) := by
  rw [arrival_takes h, if_neg (Nat.not_lt.mpr hn), if_neg (Nat.not_le.mpr hw), if_neg fun hc => ?_, if_neg fun hc => ?_]
  · exact hd (Option.isNone_iff_eq_none.mp hc.2)
  · rw [hk hc.1] at hc
    exact absurd hc.2 (by simp)

/-- A run within one line is one piece. -/
theorem lineRuns_single {a n : Nat} (hn : 0 < n) (h : a % 64 + n ≤ 64) : lineRuns a n = [(0, n)] := by
  have hcount : (a + n - 1) / 64 - a / 64 + 1 = 1 := by omega
  have hlo : max a (a / 64 * 64) = a := by omega
  have hhi : min (a + n) ((a / 64 + 1) * 64) - a = n := by omega
  unfold lineRuns
  rw [hcount]
  simp only [upto, List.range_one, List.map_cons, List.map_nil, Nat.add_zero, hlo, hhi, Nat.sub_self]

theorem readRuns_single (hc : Clean s) (a n : Nat) : s.readRuns [(a, n)] = (s, .ok (s.bytes a n)) := by
  have hread : s.eccRead ⟨none, none⟩ a n = (s, none) := by
    unfold State.eccRead State.eccCorrect
    rw [eccAt_clean hc]
    simp [State.eccHits, hc.1]
  simp [State.readRuns, hread]

/-- A read of on-chip memory for another chip, within one line. -/
theorem serveAccess_reads {p : Packet} {k : Cap} {off len id va : Nat}
    (hcap : s.checkCap [] false (some k) .read off len = .ok va) (hva : 1 < va / 2 ^ 52) (hlen : 0 < len) (hline : va % 64 + len ≤ 64)
    (hc : Clean s) :
    s.serveAccess p k off none len id
      = (({ s with cur := { s.cur with tile := p.dst.tile } } : State).answerRequest p (s.ct k.key).part id cOk 0 (s.bytes va len), true) := by
  have hread : ({ s with cur := { s.cur with tile := p.dst.tile } } : State).readRuns [(va, len)]
      = ({ s with cur := { s.cur with tile := p.dst.tile } }, .ok (s.bytes va len)) :=
    readRuns_single (s := { s with cur := { s.cur with tile := p.dst.tile } }) ⟨hc.1, hc.2⟩ va len
  unfold State.serveAccess
  simp only [Option.isSome_none, Bool.false_eq_true, if_false, hcap, Nat.ne_of_gt hlen, hva, if_true, lineRuns_single hlen hline,
    State.homeAccess, List.any_cons, List.any_nil, List.map_cons, List.map_nil, Option.isNone_some, Bool.or_false, Option.getD_some,
    Nat.add_zero, hread]

/-- A post from another chip enters the mesh at the fabric interface. -/
theorem accept_msg {p : Packet} {x1 x2 x3 x4 : Word} {cap : Option Cap} (hb : p.body = .msg c x1 x2 x3 x4 cap) (n : Nat) :
    s.accept p n = { s with net := s.net ++ [{ p with
      due := s.cycle + latency fabricTile p.dst.tile p.len, body := .msg c x1 x2 x3 x4 cap, held := false, op := none, last := none }] } := by
  unfold State.accept
  simp only [hb, isRequest, Bool.false_eq_true, if_false]

/-- An increment from another chip is not one of the tile's own. -/
theorem accept_inc {p : Packet} {i m : Nat} {own : Bool} (hb : p.body = .inc i m own) (n : Nat) :
    s.accept p n = { s with net := s.net ++ [{ p with
      due := s.cycle + latency fabricTile p.dst.tile p.len, body := .inc i m false, held := false, op := none, last := none }] } := by
  unfold State.accept
  simp only [hb, isRequest, Bool.false_eq_true, if_false]

/-- A read of on-chip memory that no earlier request of its flow holds back is answered. -/
theorem serve_reads {p : Packet} {k : Cap} {off len id va : Nat} (hb : p.body = .access k off none len id)
    (hsrc : p.src.chip ≠ s.chip)
    (hcap : s.checkCap [] false (some k) .read off len = .ok va) (hva : 1 < va / 2 ^ 52) (hlen : 0 < len) (hline : va % 64 + len ≤ 64)
    (hc : Clean s) (hwait : (s.net.any fun m => s.waitsHome m && sameStream m p) = false) :
    ∃ m, s.serve p = { s with cur := { s.cur with tile := p.dst.tile }, fabric := { s.fabric with out := s.fabric.out ++ [m] } }
      ∧ m.dst = p.src ∧ m.body = .answer id cOk 0 (s.bytes va len) := by
  unfold State.serve
  rw [hwait]
  simp only [Bool.false_eq_true, if_false, hb, serveAccess_reads hcap hva hlen hline hc, if_true]
  exact ⟨_, if_neg hsrc, rfl, rfl⟩

theorem accept_reads {p : Packet} {k : Cap} {off len id va n : Nat} (hb : p.body = .access k off none len id)
    (hsrc : p.src.chip ≠ s.chip)
    (hcap : s.checkCap [] false (some k) .read off len = .ok va) (hva : 1 < va / 2 ^ 52) (hlen : 0 < len) (hline : va % 64 + len ≤ 64)
    (hc : Clean s) (hwait : (s.net.any fun m => s.waitsHome m && sameStream m p) = false) :
    ∃ m, s.accept p n = { s with cur := { s.cur with tile := p.dst.tile }, fabric := { s.fabric with out := s.fabric.out ++ [m] } }
      ∧ m.dst = p.src ∧ m.body = .answer id cOk 0 (s.bytes va len) := by
  unfold State.accept
  simp only [hb, isRequest, if_true]
  exact serve_reads rfl hsrc hcap hva hlen hline hc hwait

/-! ## Ports, the time base, COPY deliveries -/

theorem linkEvent_records (s : State) (code port : Nat) (vfs : List Nat) :
    (s.linkEvent code port vfs).fabric = s.fabric ∧ (s.linkEvent code port vfs).assay.hltail = s.assay.hltail + 1 := by
  have hl (l : List Nat) : ∀ v : State, (l.foldl (fun s v => s.vfCount v 4) v).fabric = v.fabric
      ∧ (l.foldl (fun s v => s.vfCount v 4) v).assay = v.assay := by
    induction l with
    | nil => exact fun v => ⟨rfl, rfl⟩
    | cons n l ih => exact fun v => ih (v.vfCount n 4)
  obtain ⟨hf, ha⟩ := hl vfs (s.logHost { FRec.zero with code := code, src := 3, va := port })
  exact ⟨hf, by unfold State.linkEvent; rw [ha]; rfl⟩

theorem portBit {n j : Nat} (hj : j < 17) : (BitVec.ofNat 17 (2 ^ n)).getLsbD j = decide (j = n) := by
  rw [BitVec.getLsbD_ofNat, Nat.testBit_two_pow]
  simp [hj, eq_comm]

theorem portBit_none {v : BitVec 17} {j : Nat} (hj : ¬j < 17) : v.getLsbD j = false := BitVec.getLsbD_of_ge _ _ (by omega)

theorem portDown_downs {n : Nat} (hn : n < 17) (hup : s.fabric.portsUp.getLsbD n = true) :
    ∃ u, exec (.portDown n) s = .next u ∧ u.fabric.portsUp.getLsbD n = false
      ∧ ∀ j, j ≠ n → u.fabric.portsUp.getLsbD j = s.fabric.portsUp.getLsbD j := by
  show ∃ u, execPortDown n s = _ ∧ _
  unfold execPortDown
  rw [if_pos hup]
  refine ⟨_, rfl, ?_, fun j hj => ?_⟩
  all_goals
    show ((s.linkEvent cPeerlost n (s.portVfs n)).fabric.portsUp &&& ~~~(BitVec.ofNat 17 (2 ^ n))).getLsbD _ = _
    rw [(linkEvent_records s cPeerlost n (s.portVfs n)).1, BitVec.getLsbD_and, BitVec.getLsbD_not]
  · rw [portBit hn]
    simp
  · by_cases h : j < 17
    · rw [portBit h]
      simp [h, hj]
    · rw [portBit_none h]
      rfl

theorem portUp_ups {n : Nat} (hn : n < 17) :
    ∃ u, exec (.portUp n) s = .next u ∧ u.fabric.portsUp.getLsbD n = true
      ∧ ∀ j, j ≠ n → u.fabric.portsUp.getLsbD j = s.fabric.portsUp.getLsbD j := by
  refine ⟨_, if_pos hn, ?_, fun j hj => ?_⟩
  all_goals
    show (s.fabric.portsUp ||| BitVec.ofNat 17 (2 ^ n)).getLsbD _ = _
    rw [BitVec.getLsbD_or]
  · rw [portBit hn]
    simp
  · by_cases h : j < 17
    · rw [portBit h]
      simp [hj]
    · rw [portBit_none h, portBit_none h]
      rfl

theorem tokenRedistribute_shares (h : s.boundaryDue = true) :
    ∃ u, exec .tokenRedistribute s = .next u ∧ u.fabric.pooledAt = s.fabric.pooledAt + 1
      ∧ u.fabric.out = s.fabric.out ∧ u.fabric.transfers = s.fabric.transfers ∧ SameMemory s u := by
  refine ⟨_, if_pos h, ?_⟩
  generalize (upto 17).foldl _ _ = m
  exact ⟨rfl, rfl, rfl, fun _ => rfl⟩

/-- A chip outside the time base awaits nothing any more (R405). -/
theorem chipUnsynchronized_loses (s : State) :
    ∃ u, exec .chipUnsynchronized s = .next u ∧ u.fabric.transfers = [] ∧ u.fabric.unsync = some (s.window + 2) := by
  show ∃ u, execChipUnsynchronized s = _ ∧ _
  unfold execChipUnsynchronized
  extract_lets xs _ s0 s1 s2
  have h1 : Orderly 1 s0 s1 := Orderly.foldl (fun _ _ h => h.unconfirmed Nat.one_lt_two) _ (.refl _)
  have h2 : Orderly 1 s0 s2 := Orderly.foldl (fun _ _ h => h.mgmtEvent) _ h1
  obtain ⟨ht, hu⟩ := h2.wired le_rfl
  exact ⟨_, rfl, ht, hu⟩

theorem copyDelivery_ends {g : Ring} (hg : aget? (s.tile s.cur.tile).loc.rings s.cur.sub = some g) :
    ∃ u g', exec .copyDeliveryTimeout s = .next u
        ∧ aget? (u.tile s.cur.tile).loc.rings s.cur.sub = some g' ∧ g'.deliveries.length = g.deliveries.length
        ∧ ∀ (j : Nat) (d : Delivery), g.deliveries[j]? = some d → g'.deliveries[j]? = some (
            if d.granted ∧ d.done = none ∧ d.src.chip ≠ s.chip ∧ d.lastWindow + 3 ≤ s.window then
              { d with done := some (s.lostCode d.src.chip, 0, d.got) } else d) := by
  refine ⟨_, { g with deliveries := g.deliveries.map fun d => if d.granted ∧ d.done.isNone ∧ d.src.chip ≠ s.chip
    ∧ d.lastWindow + 3 ≤ s.window then { d with done := some (s.lostCode d.src.chip, 0, d.got) } else d }, rfl, ?_,
    List.length_map _, fun j d hj => ?_⟩
  · rw [State.loc_onLocal_self]
    simp only [hg]
    exact aget?_aset_self _ _ _
  · simp only [List.getElem?_map, hj, Option.map_some, Option.isNone_iff_eq_none]

end

/-- Settles O59. -/
theorem fabricEvents : Obligations.FabricEvents := by
  unfold Obligations.FabricEvents
  intro s p x i id port n c vfs ans q g o f outstanding tooLate awaits
  have hout {id : Nat} {request known : Bool} (h : outstanding id request known) :
      Outstanding s i x id request ∧ s.knows x.pkt.dst.chip = known := by
    obtain ⟨h1, h2, h3, h4, h5, h6, h7, h8, h9⟩ := h
    exact ⟨⟨h1, h2, h3, h4, h5, h6, h7, h9⟩, h8⟩
  have hawait {id : Nat} (h : awaits id) : Awaits s x.pkt.src.tile c id := by
    obtain ⟨h1, h2, h3, h4⟩ := h
    exact ⟨h1, h2, h3, h4⟩
  refine ⟨fun hp => ⟨departure_detained hp, fun hd hu hf hb hbh hw hpart hl => ⟨fun hr => ?_, fun hr => ?_⟩⟩,
    fun h => ⟨_, acknowledgement_late (h.imp (fun h => h) hout), rfl⟩, fun h => acknowledgement_confirms (hout h).1 (hout h).2,
    fun h => ⟨_, answer_late (h.imp (fun h => h) hout), rfl⟩,
    fun h hf hc => ⟨fun hk ha => answer_access (hout h).1 (hout h).2 hf hc hk (hawait ha),
      fun hk ho hops => answer_engine (hout h).1 (hout h).2 hf hc hk ho hops⟩,
    fun hx hk => ⟨timeout_early hx hk, fun hl ha => timeout_gives hx hk hl (hawait ha)⟩,
    fun hu hf => ⟨fun h => ⟨_, arrival_discards hu hf h, rfl⟩, fun hh hs hm hb hr => ?_⟩, fun h => ⟨_, if_pos h, rfl, rfl⟩,
    fun h => if_neg (by rw [h]; exact Bool.false_ne_true), fun hf hw => ⟨_, if_pos ⟨hf, hw⟩, rfl⟩, portDown_downs,
    portUp_ups, fun hp => ⟨_, if_pos hp, linkEvent_records _ _ _ _⟩, tokenRedistribute_shares,
    fun h => if_neg (by rw [h]; exact Bool.false_ne_true), chipUnsynchronized_loses s, fun hu => ?_, copyDelivery_ends⟩
  · intro b charge
    have he := departure_goes hp (not_detained hd hu hf hb hbh hw) hl
    simp only [show s.route s.fabric.gencur p = .port n from hr] at he
    refine ⟨fun h => by rw [he, departOn_stays hpart h], fun ht hup => ?_⟩
    obtain ⟨v, hv, hwin, ho, htr, hbk⟩ := departOn_leaves (i := s.cur.sub) hpart ht hup
    obtain ⟨y, more, hy, hpk, hst, hsent, -, hport, -⟩ := addTransfer_adds (v.unqueued s.cur.sub) p n true
    refine ⟨_, he, ?_, ?_, y, more, ?_, hpk, hst.trans hwin, hsent, hport⟩
    · rw [hv]
      exact congrArg (·.eraseIdx s.cur.sub) ho
    · rw [hv]
      exact (congrArg (aget? · _) hbk).trans (aget?_aset_self _ _ _)
    · rw [hv, hy]
      exact congrArg (· ++ y :: more) htr
  · have he := departure_goes hp (not_detained hd hu hf hb hbh hw) hl
    simp only [show s.route s.fabric.gencur p = .lost from hr] at he
    obtain ⟨y, more, hy, hpk, -, hsent, hlost, -, hmore⟩ := addTransfer_adds (s.unqueued s.cur.sub) p 0 false
    rw [hmore rfl] at hy
    exact ⟨_, he, rfl, y, hy, hpk, hsent, hlost⟩
  · have h : Welcome s q := ⟨hu, hf, hh, hs, hm, hb, hr⟩
    intro next dropped posts
    refine ⟨fun hn => by rw [arrival_takes h, if_pos hn], fun hn => ⟨fun x1 x2 x3 x4 cap hbody => ⟨arrival_drops h hbody hn,
      fun hw hk hd => ?_⟩, fun i m own hbody hw hk hd => ?_, fun k off len hbody hw hd va hcap hva hlen hline hcl hwait => ?_⟩⟩
    · rw [← destPart_numbered (s := s) (.inl ⟨x1, x2, x3, x4, cap, hbody⟩)] at hd
      exact ⟨_, (arrival_accepts h hn hw (fun _ => hk) hd).trans (congrArg _ (accept_msg hbody _)), aget?_aset_self _ _ _, rfl⟩
    · rw [← destPart_numbered (s := s) (c := c) (.inr (.inl ⟨i, m, own, hbody⟩))] at hd
      exact ⟨_, (arrival_accepts h hn hw (fun _ => hk) hd).trans (congrArg _ (accept_inc hbody _)), aget?_aset_self _ _ _, rfl⟩
    · rw [← destPart_numbered (s := s) (c := c) (.inr (.inr ⟨k, off, none, len, id, hbody⟩))] at hd
      obtain ⟨m, hacc, hdst, hmb⟩ := accept_reads (s := s.numbered q) (n := q.stamp) hbody hs hcap hva hlen hline ⟨hcl.1, hcl.2⟩ hwait
      exact ⟨_, m, (arrival_accepts h hn hw (fun hk => by rw [hbody] at hk; cases hk) hd).trans (congrArg _ hacc), fun _ => rfl, rfl,
        hdst, hmb⟩
  · have he : exec .chipResynchronized s = if n ≤ s.window then .next { s with fabric := { s.fabric with unsync := none } }
        else .next s := by
      show execChipResynchronized s = _
      unfold execChipResynchronized
      simp only [show s.fabric.unsync = some n from hu]
    exact ⟨fun h => ⟨_, he.trans (if_pos h), rfl⟩, fun h => he.trans (if_neg (Nat.not_le.mpr h))⟩

end Sys2Proof.Machine
end

section
/-!
PROOFS. Queues, VF resets, and partitions that are halted or leave their places are orderly.
-/

namespace Sys2Proof.Machine

-- Many small proofs side by side would each hold a thread of their own: they are elaborated one after another.
set_option Elab.async false

namespace Orderly

variable {b : Nat} {a s u : State}

/-! ## Queues -/

theorem devBytes {p : Part} {va : Nat} {bs : List Byte} (h : Orderly b a s) : Orderly b a (s.devBytes p va bs) :=
  ite (fun _ => h.putPoff) fun _ => foldl (fun _ _ h => ite (fun _ => h.putPoff) fun _ => h) _ h

theorem devPut {p : Part} {va n v : Nat} (h : Orderly b a s) : Orderly b a (s.devPut p va n v) := h.devBytes

theorem onVf {v : Nat} {f : Vf → Vf} (h : Orderly b a s) : Orderly b a (s.onVf v f) := h.same

theorem latch {vf q : Nat} (h : Orderly b a s) : Orderly b a (s.latch vf q) := h.onVf

theorem gainSlot {pn k vf q : Nat} (h : Orderly b a s) : Orderly b a (s.gainSlot pn k vf q) := by
  unfold State.gainSlot
  split
  · exact h
  · exact ite (fun _ => h.onVf) fun _ => h.onVf.onVf.onPart

theorem writeBack {p : Part} {x : QSlot} (h : Orderly b a s) : Orderly b a (s.writeBack p x) := h.devPut

theorem loseSlot {pn k : Nat} (h : Orderly b a s) : Orderly b a (s.loseSlot pn k) := by
  unfold State.loseSlot
  split
  · exact h
  · split
    · exact h
    · exact ite (fun _ => h.writeBack.onPart) fun _ => h.writeBack.onPart.latch

theorem serveQueues {pn n : Nat} (h : Orderly b a s) : Orderly b a (s.serveQueues pn n) := by
  induction n generalizing s with
  | zero => exact h
  | succ n ih =>
    unfold State.serveQueues
    split
    · exact h
    · refine ite (fun _ => h) fun _ => ?_
      split
      · exact h
      · split
        · exact ih h.gainSlot
        · exact ih h.loseSlot.gainSlot
        · exact h

theorem countQerr {v : Nat} (h : Orderly b a s) : Orderly b a (s.countQerr v) := h.onVf

theorem notify {vf q : Nat} {v : Word} (h : Orderly b a s) : Orderly b a (s.notify vf q v) := by
  unfold State.notify
  split
  · exact h
  · exact ite (fun _ => h.countQerr) fun _ => ite (fun _ => h.onVf) fun _ => h.onVf.latch.serveQueues

theorem collectImages {pn : Nat} (h : Orderly b a s) : Orderly b a (s.collectImages pn) := h.onPart

theorem writeBackAll {p : Part} (h : Orderly b a s) : Orderly b a (s.writeBackAll p) :=
  foldl (fun _ _ h => ite (fun _ => h.writeBack) fun _ => h) _ h

theorem onTiles {p : Part} {f : Tile → Tile} (h : Orderly b a s) (hf : 3 ≤ b → ∀ v, TileKept v (f v)) :
    Orderly b a (s.onTiles p f) := foldl (fun _ _ h => h.onTile fun hb => hf hb _) _ h

/-! ## VF reset -/

theorem withdrawKernel {pn k : Nat} {saved : Bool} (h : Orderly b a s) : Orderly b a (s.withdrawKernel pn k saved) :=
  (ite (fun _ => h.onKernel) fun _ => h.onKernel.killKernel).onQSlot

theorem withdrawQSlot {pn vf : Nat} {saved : Bool} {x : Nat × QSlot} (h : Orderly b a s) :
    Orderly b a (s.withdrawQSlot pn vf saved x) :=
  ite (fun _ => ite (fun _ => h.withdrawKernel) fun _ => h.onPart.collectImages) fun _ => h

theorem withdrawVf {pn vf : Nat} (h : Orderly b a s) : Orderly b a (s.withdrawVf pn vf) := by
  unfold State.withdrawVf
  extract_lets mine _ s'
  have h' : Orderly b a s' := h.same
  exact foldl (fun _ _ h => h.send) _ h'

theorem cancelPages {p : Part} {vf : Nat} (h : Orderly b a s) : Orderly b a (s.cancelPages p vf) :=
  ite (fun _ => h.onVf) fun _ => h.onVf.onTiles fun _ _ => ⟨id, rfl⟩

theorem refuseWaiting {vf : Nat} {f : Nat → Bool} (h : Orderly b a s) : Orderly b a (s.refuseWaiting vf f) := by
  unfold State.refuseWaiting
  exact foldl (fun _ _ h => h.answerRequest) _ h.same

theorem clearErrorBlock {p : Part} {vf : Nat} (h : Orderly b a s) : Orderly b a (s.clearErrorBlock p vf) :=
  ite (fun _ => h) fun _ => h.devBytes

theorem resetVf {vf : Nat} (h : Orderly b a s) : Orderly b a (s.resetVf vf) := by
  unfold State.resetVf
  extract_lets s1 _ s2
  have h1 : Orderly b a s1 := by
    unfold s1
    split
    · exact h
    · exact (foldl (fun _ _ h => h.withdrawQSlot) _ h).withdrawVf.cancelPages.refuseWaiting.clearErrorBlock
  have h2 : Orderly b a s2 := h1.onVf
  split
  · exact h2.serveQueues
  · exact h2

theorem withdrawPart {pn : Nat} (h : Orderly b a s) : Orderly b a (s.withdrawPart pn) := by
  unfold State.withdrawPart
  exact foldl (fun _ _ h => ite (fun _ => h.slotDue) fun _ => ite (fun _ => h.slotDue.completeSlot) fun _ => h.slotDue.setRed) _ h

/-! ## Clearing: tiles are not looked at -/

theorem zeroRange {x n : Nat} (h : Orderly b a s) : Orderly b a (s.zeroRange x n) :=
  h.trans ⟨fun w => memory_filter_wf w _, fun _ => ⟨rfl, rfl⟩, fun _ => .of_eq rfl, fun _ _ => .refl _⟩

theorem freeEntries {k : HomeKind} {agent first n : Nat} {gone : Bool} (h : Orderly b a s) :
    Orderly b a (s.freeEntries k agent first n gone) := foldl (fun _ _ h => h.onCt) _ h

theorem clearTile {t : Nat} (h : Orderly b a s) (hb : b < 3) : Orderly b a (s.clearTile t) :=
  (h.onTile fun h3 => absurd h3 (by omega)).zeroRange.zeroRange

theorem leaveTile {t : Nat} {gone : Bool} (h : Orderly b a s) (hb : b < 3) : Orderly b a (s.leaveTile t gone) :=
  (h.clearTile hb).freeEntries.freeEntries

theorem clearSegment {g : Nat} (h : Orderly b a s) : Orderly b a (s.clearSegment g) := h.zeroRange

theorem leaveSegment {g : Nat} {gone : Bool} (h : Orderly b a s) : Orderly b a (s.leaveSegment g gone) :=
  h.clearSegment.freeEntries

theorem leaveChannel {c : Nat} {gone : Bool} (h : Orderly b a s) : Orderly b a (s.leaveChannel c gone) := h.zeroRange.freeEntries

theorem dropL2 {pn : Nat} (h : Orderly b a s) : Orderly b a (s.dropL2 pn) := h.same

theorem leavePlaces {pn : Nat} {p : Part} {gone : Bool} (h : Orderly b a s) (hb : b < 3) :
    Orderly b a (s.leavePlaces pn p gone) := by
  unfold State.leavePlaces
  extract_lets s1 s2 s3
  have h1 : Orderly b a s1 := foldl (fun _ _ h => h.leaveTile hb) _ h
  have h3 : Orderly b a s3 := (foldl (fun _ _ h => h.leaveSegment) _ h1).dropL2
  exact h3.same

/-! ## Restoring a partition's state -/

theorem restoreEntry {m : Placement} {rel : Bool} {x : Nat × CtEntry} (h : Orderly b a s) :
    Orderly b a (s.restoreEntry m rel x) := ite (fun _ => h) fun _ => h.setCt

/-! ## Programs of stewards -/

theorem emptyK {t n : Nat} (h : Orderly b a s) : Orderly b a (s.emptyK t n) := by
  unfold State.emptyK
  dsimp only
  split
  · exact foldl (fun _ _ h => h.letPath) _ h.onSteward
  · exact h.onSteward

theorem loadProgram {t : Nat} {prog : Prog} {bs : List Byte} (h : Orderly b a s) : Orderly b a (s.loadProgram t prog bs) :=
  h.emptyK.onTile fun _ => ⟨id, rfl⟩

theorem loadSteward {t : Nat} (h : Orderly b a s) : Orderly b a (s.loadSteward t) := by
  unfold State.loadSteward
  split
  · exact h.loadProgram
  · split
    · exact h.loadProgram
    · split <;> exact h.loadProgram

/-! ## Stage-two tables -/

theorem answerPages {p : Part} {vf gpa log2 : Nat} {reject : Bool} (h : Orderly b a s) :
    Orderly b a (s.answerPages p vf gpa log2 reject) := by
  unfold State.answerPages
  exact h.onVf.onTiles fun _ _ => ⟨id, rfl⟩

theorem joinInval {pn : Nat} {p : Part} {vf gpa log2 : Nat} (h : Orderly b a s) : Orderly b a (s.joinInval pn p vf gpa log2) :=
  h.onPart

theorem newTable {pn vf : Nat} {x : State × Nat} (h : Orderly b a s) (hx : s.newTable pn vf = some x) : Orderly b a x.1 := by
  obtain ⟨p, -, hx⟩ := Option.bind_eq_some_iff.mp hx
  obtain ⟨off, -, rfl⟩ := Option.map_eq_some_iff.mp hx
  refine onPart ?_
  exact h.trans ⟨fun w => memory_filter_wf w _, fun _ => ⟨rfl, rfl⟩, fun _ => .of_eq rfl, fun _ _ => .refl _⟩

theorem putEntry {p : Part} {table i e : Nat} (h : Orderly b a s) : Orderly b a (s.putEntry p table i e) := h.putPoff

theorem tableFor {pn : Nat} {p : Part} {vf gpa n level table : Nat} {x : State × Nat} (h : Orderly b a s)
    (hx : s.tableFor pn p vf gpa n level table = some x) : Orderly b a x.1 := by
  induction n generalizing s level table with
  | zero => exact Option.some.inj hx ▸ h
  | succ n ih =>
    unfold State.tableFor at hx
    dsimp only at hx
    split at hx
    · exact ih h hx
    · obtain ⟨y, hy, hx⟩ := Option.bind_eq_some_iff.mp hx
      exact ih (h.newTable hy).putEntry hx

theorem rootFor {pn : Nat} {p : Part} {vf : Nat} {x : State × Nat} (h : Orderly b a s) (hx : s.rootFor pn p vf = some x) :
    Orderly b a x.1 := by
  unfold State.rootFor at hx
  split at hx
  · exact Option.some.inj hx ▸ h
  · obtain ⟨y, hy, rfl⟩ := Option.map_eq_some_iff.mp hx
    exact (h.newTable hy).onPart

theorem putLeaf {pn : Nat} {p : Part} {vf gpa log2 e : Nat} (h : Orderly b a s) (hu : s.putLeaf pn p vf gpa log2 e = some u) :
    Orderly b a u := by
  unfold State.putLeaf at hu
  obtain ⟨r, hr, hu⟩ := Option.bind_eq_some_iff.mp hu
  obtain ⟨y, hy, rfl⟩ := Option.map_eq_some_iff.mp hu
  exact foldl (fun _ _ h => h.putEntry) _ ((h.rootFor hr).tableFor hy)

theorem dropTables {pn : Nat} {p : Part} {vf : Nat} (h : Orderly b a s) : Orderly b a (s.dropTables pn p vf) := h.onPart

theorem changeTables {pn : Nat} {p : Part} {vf gpa poff log2 : Nat} {met : List S2Entry} {map' : Bool} (h : Orderly b a s)
    (hu : s.changeTables pn p vf gpa poff log2 met map' = some u) : Orderly b a u := by
  have hmet : Orderly b a (met.foldl (fun s e => (s.putLeaf pn p vf e.gpa e.log2 0).getD s) s) := by
    refine foldl (fun v e h => ?_) _ h
    cases he : v.putLeaf pn p vf e.gpa e.log2 0 with
    | none => exact h
    | some w => exact h.putLeaf he
  unfold State.changeTables at hu
  dsimp only at hu
  split at hu
  · obtain ⟨v, hv, rfl⟩ := Option.map_eq_some_iff.mp hu
    exact ite (fun _ => (hmet.putLeaf hv).dropTables) fun _ => hmet.putLeaf hv
  · exact Option.some.inj hu ▸ hmet

end Orderly

end Sys2Proof.Machine
end

section
/-!
PROOFS. The mailbox (R99, R104): what a command comes to, and the commands about partitions, their VFs, channels and rates.
-/

namespace Sys2Proof.Machine

-- Many small proofs side by side would each hold a thread of their own: they are elaborated one after another.
set_option Elab.async false

section
variable {s v u : State} {buf : Mbox} {c : Cmd} {op pn : Nat} {p : Part}

/-! ## The frame of a mailbox operation -/

/-- A command with a right header waits in the mailbox. -/
structure Waits (s : State) (buf : Mbox) (c : Cmd) (op : Nat) : Prop where
  busy : s.assay.box.busy = true
  fresh : s.assay.box.started = false
  header : headerOk (leNat ((buf.bytes.take s.assay.box.len).take 64)) s.assay.box.len = true
  cmd : c = ⟨word (field (leNat ((buf.bytes.take s.assay.box.len).take 64)) 0 64),
    ((buf.bytes.take s.assay.box.len).drop 64).take (field (leNat ((buf.bytes.take s.assay.box.len).take 64)) 128 32)⟩
  op : field (leNat ((buf.bytes.take s.assay.box.len).take 64)) 96 8 = op

/-- The mailbox is free again and holds the outcome. -/
def Ends (s : State) (e : Instr) (code sub : Nat) (res : Word) (more : State → Prop) : Prop :=
  ∃ u, exec e s = .next u ∧ u.assay.box.busy = false ∧ u.assay.box.code = code ∧ u.assay.box.sub = sub ∧ u.assay.box.res = res
    ∧ more u

/-- The command is refused and changes no partition and no memory. -/
def Refuses (s : State) (e : Instr) (code sub : Nat) : Prop := Ends s e code sub 0 fun u => u.parts = s.parts ∧ u.mem = s.mem

/-- The command goes on. -/
def Starts (s : State) (e : Instr) (more : State → Prop) : Prop := ∃ u, exec e s = .next u ∧ u.assay.box.started = true ∧ more u

theorem mailbox_runs (hw : Waits s buf c op) {which : Cmd → Bool} {f : State → Cmd → Check Done} (hc : which c = true) :
    mailbox op buf s which f = match f s c with
      | .error (code, sub) => .next (s.mailboxDone code sub 0)
      | .ok (.ok s res) => .next (s.mailboxDone cOk 0 res)
      | .ok (.later s) => .next (s.onBox fun b => { b with started := true }) := by
  have hgo : ¬((!s.assay.box.busy || s.assay.box.started) = true) := by rw [hw.busy, hw.fresh]; exact Bool.false_ne_true
  have hop : ¬(field (leNat ((buf.bytes.take s.assay.box.len).take 64)) 96 8 ≠ op ∨ (!which c) = true) := by
    rw [hc]
    exact fun h => h.elim (fun h => h hw.op) Bool.false_ne_true
  have hcmd := hw.cmd
  unfold mailbox
  subst hcmd
  refine (if_neg hgo).trans ((if_neg ?_).trans (if_neg hop))
  rw [hw.header]
  exact Bool.false_ne_true

theorem ends_of {e : Instr} {res : Word} {more : State → Prop} (hw : Waits s buf c op) {which : Cmd → Bool}
    {f : State → Cmd → Check Done} (he : exec e s = mailbox op buf s which f) (hc : which c = true)
    (hf : f s c = .ok (.ok v res)) (hm : more (v.mailboxDone cOk 0 res)) : Ends s e cOk 0 res more :=
  ⟨_, he.trans (by rw [mailbox_runs hw hc]; simp only [hf]), rfl, rfl, rfl, rfl, hm⟩

theorem refuses_of {e : Instr} {code sub : Nat} (hw : Waits s buf c op) {which : Cmd → Bool}
    {f : State → Cmd → Check Done} (he : exec e s = mailbox op buf s which f) (hc : which c = true)
    (hf : f s c = .error (code, sub)) : Refuses s e code sub :=
  ⟨s.mailboxDone code sub 0, he.trans (by rw [mailbox_runs hw hc]; simp only [hf]), rfl, rfl, rfl, rfl, rfl, rfl⟩

theorem starts_of {e : Instr} {more : State → Prop} (hw : Waits s buf c op) {which : Cmd → Bool}
    {f : State → Cmd → Check Done} (he : exec e s = mailbox op buf s which f) (hc : which c = true)
    (hf : f s c = .ok (.later v)) (hm : more (v.onBox fun b => { b with started := true })) : Starts s e more :=
  ⟨_, he.trans (by rw [mailbox_runs hw hc]; simp only [hf]), rfl, hm⟩

theorem mailbox_header {which : Cmd → Bool} {f : State → Cmd → Check Done} (hb : s.assay.box.busy = true)
    (hs : s.assay.box.started = false)
    (hh : headerOk (leNat ((buf.bytes.take s.assay.box.len).take 64)) s.assay.box.len = false) :
    mailbox op buf s which f = .next (s.mailboxDone cRefused 0x20 0) := by
  have hgo : ¬((!s.assay.box.busy || s.assay.box.started) = true) := by rw [hb, hs]; exact Bool.false_ne_true
  refine (if_neg hgo).trans (if_pos ?_)
  rw [hh]
  rfl

theorem mailbox_idle {which : Cmd → Bool} {f : State → Cmd → Check Done} (hb : s.assay.box.busy = false) :
    mailbox op buf s which f = .next s := if_pos (by rw [hb]; rfl)

/-! ## Checks -/

theorem must_of {b : Bool} {e : Check Unit} (h : b = true) : must b e = .ok () := if_pos h

theorem must_not {b : Bool} {e : Check Unit} (h : b = false) : must b e = e := if_neg (Bool.eq_false_iff.mp h)

theorem check_ok {α β : Type} (x : α) (f : α → Check β) : ((.ok x : Check α) >>= f) = f x := rfl

theorem check_error {α β : Type} (x : Nat × Nat) (f : α → Check β) : ((.error x : Check α) >>= f) = .error x := rfl

theorem named_of (h : (s.parts.find? fun q => q.2.handle == c.handle) = some (pn, p)) : named s c = .ok (pn, p) := by
  unfold named
  rw [h]

theorem named_none (h : (s.parts.find? fun q => q.2.handle == c.handle) = none) : named s c = .error (cRefused, 0x21) := by
  unfold named
  rw [h]
  rfl

theorem halting_false (h : s.halting c = false) : (!s.halting c) = true := by rw [h]; rfl

end

section
variable {s u : State} {buf : Mbox} {c : Cmd} {pn : Nat} {p : Part}

/-! ## PART.PAUSE and PART.RESUME -/

/-- A property of a tile that each later step keeps holds at the end for every tile whose step establishes it. -/
theorem foldl_tiles_halting {f : State → Nat → State} (hf : ∀ s t, Orderly 3 s (f s t))
    (hset : ∀ s t, ((f s t).tile t).core.disp.halting = true) (l : List Nat) (s : State) {t : Nat}
    (h : t ∈ l ∨ (s.tile t).core.disp.halting = true) : ((l.foldl f s).tile t).core.disp.halting = true := by
  induction l generalizing s with
  | nil => exact h.resolve_left List.not_mem_nil
  | cons x l ih =>
    refine ih (f s x) ?_
    rcases h with h | h
    · rcases List.mem_cons.mp h with rfl | h
      · exact .inr (hset s t)
      · exact .inl h
    · exact .inr (((hf s x).tiles le_rfl t).halting h)

/-- The halt line rises on a tile, and what speculates there rolls back (R438). -/
def State.haltTile (s : State) (t : Nat) : State :=
  (upto 8).foldl (fun s c => if (s.ctxAt t c).spec.on then s.rollback t c 8 else s)
    (s.onCore t fun k => { k with disp := { k.disp with halting := true, halted := false } })

theorem startHalt_eq {why : HaltFor} (hp : aget? s.parts pn = some p) :
    s.startHalt pn why = p.tiles.foldl State.haltTile (s.onPart pn fun v => { v with halt := some why }) := by
  unfold State.startHalt
  rw [hp]
  rfl

theorem haltTile_orderly (s : State) (t : Nat) : Orderly 3 s (s.haltTile t) :=
  Orderly.foldl (fun _ _ h => .ite (fun _ => h.rollback) fun _ => h) _ ((Orderly.refl s).onCore fun _ _ _ => rfl)

theorem haltTile_halting (s : State) (t : Nat) : ((s.haltTile t).tile t).core.disp.halting = true := by
  have h : Orderly 3 (s.onCore t fun k => { k with disp := { k.disp with halting := true, halted := false } }) (s.haltTile t) :=
    Orderly.foldl (fun _ _ h => .ite (fun _ => h.rollback) fun _ => h) _ (.refl _)
  refine (h.tiles le_rfl t).halting ?_
  rw [State.core_onCore_self]

/-- A partition changed is what it was changed to. -/
theorem part_onPart (hp : aget? s.parts pn = some p) (f : Part → Part) : aget? (s.onPart pn f).parts pn = some (f p) := by
  unfold State.onPart
  rw [hp]
  exact aget?_aset_self _ _ _

/-- What a state that comes by orderly changes has for a partition. -/
theorem part_of_orderly {n : Nat} (h : Orderly n s u) (hn : 2 ≤ n) (hp : aget? s.parts pn = some p) :
    ∃ q, aget? u.parts pn = some q ∧ PartKept p q := (h.parts hn).kept pn p hp

theorem startHalt_halts {why : HaltFor} (hp : aget? s.parts pn = some p) :
    (aget? (s.startHalt pn why).parts pn).bind (fun q => q.halt) = some why
      ∧ ∀ t ∈ p.tiles, ((s.startHalt pn why).tile t).core.disp.halting = true := by
  rw [startHalt_eq hp]
  refine ⟨?_, fun t ht => foldl_tiles_halting haltTile_orderly haltTile_halting _ _ (.inl ht)⟩
  have h : Orderly 3 (s.onPart pn fun v => { v with halt := some why }) _ :=
    Orderly.foldl (f := State.haltTile) (fun s t h => h.trans (haltTile_orderly s t)) p.tiles (.refl _)
  obtain ⟨q, hq, hk⟩ := part_of_orderly h (by decide) (part_onPart hp _)
  rw [hq]
  exact hk.halt rfl

/-! The queues that take slots leave the tiles alone. -/

theorem devBytes_filed (s : State) (p : Part) (va : Nat) (bs : List Byte) : Filed s (s.devBytes p va bs) :=
  .ite (.putPoff _ _ _ _) (.foldl (fun _ _ => .ite (.putPoff _ _ _ _) (.refl _)) _ _)

theorem gainSlot_filed (s : State) (pn k vf q : Nat) : Filed s (s.gainSlot pn k vf q) := by
  have hv (s : State) (f : Vf → Vf) : Filed s (s.onVf vf f) := ⟨rfl, rfl, rfl, rfl, rfl, rfl, rfl, rfl⟩
  unfold State.gainSlot
  split
  · exact .refl s
  · exact .ite (hv _ _) (((hv _ _).trans (hv _ _)).trans (.onPart _ _ _))

theorem loseSlot_filed (s : State) (pn k : Nat) : Filed s (s.loseSlot pn k) := by
  have hv (s : State) (v : Nat) (f : Vf → Vf) : Filed s (s.onVf v f) := ⟨rfl, rfl, rfl, rfl, rfl, rfl, rfl, rfl⟩
  have hw (p : Part) (x : QSlot) : Filed s (s.writeBack p x) := devBytes_filed _ _ _ _
  unfold State.loseSlot
  split
  · exact .refl s
  · split
    · exact .refl s
    · exact .ite ((hw _ _).trans (.onPart _ _ _)) (((hw _ _).trans (.onPart _ _ _)).trans (hv _ _ _))

theorem serveQueues_filed (s : State) (pn n : Nat) : Filed s (s.serveQueues pn n) := by
  induction n generalizing s with
  | zero => exact .refl s
  | succ n ih =>
    unfold State.serveQueues
    split
    · exact .refl s
    · refine .ite (.refl s) ?_
      split
      · exact .refl s
      · split
        · exact (gainSlot_filed _ _ _ _ _).trans (ih _)
        · exact ((loseSlot_filed _ _ _).trans (gainSlot_filed _ _ _ _ _)).trans (ih _)
        · exact .refl s

/-- What `onTiles` leaves on each of the partition's tiles, when a second change is as good as the first. -/
theorem foldl_onTile {f : Tile → Tile} {P : Tile → Prop} (hf : ∀ v, P (f v)) (l : List Nat) (s : State) {t : Nat}
    (h : t ∈ l ∨ P (s.tile t)) : P ((l.foldl (fun s t => s.onTile t f) s).tile t) := by
  induction l generalizing s with
  | nil => exact h.resolve_left List.not_mem_nil
  | cons x l ih =>
    refine ih _ ?_
    by_cases hx : t = x
    · subst hx
      exact .inr (by rw [State.tile_onTile_self]; exact hf _)
    · rw [State.tile_onTile_ne _ _ hx]
      exact h.imp_left fun h => (List.mem_cons.mp h).resolve_left hx

/-- An update of tiles leaves partitions alone. -/
theorem onTiles_parts (s : State) (p : Part) (f : Tile → Tile) : (s.onTiles p f).parts = s.parts := by
  unfold State.onTiles
  induction p.tiles generalizing s with
  | nil => rfl
  | cons t l ih => exact ih _

theorem resumePart_resumes (hp : aget? s.parts pn = some p) :
    (aget? (s.resumePart pn).parts pn).map (fun q => q.state) = some .active
      ∧ ∀ t ∈ p.tiles, ((s.resumePart pn).tile t).core.disp.halting = false := by
  unfold State.resumePart
  rw [hp]
  dsimp only
  have hp' : aget? (s.onTiles p fun v => v.resume s.cycle).parts pn = some p := by rw [onTiles_parts, hp]
  refine ⟨?_, fun t ht => ?_⟩
  · obtain ⟨q, hq, hk⟩ := part_of_orderly (Orderly.serveQueues (b := 2) (n := 64) (pn := pn) (.refl _)) le_rfl (part_onPart hp' _)
    rw [hq]
    exact congrArg some hk.state
  · rw [State.tile, (serveQueues_filed _ pn 64).tiles, (Filed.onPart _ _ _).tiles]
    exact foldl_onTile (P := fun v => v.core.disp.halting = false) (fun _ => rfl) p.tiles s (.inl ht)

end

end Sys2Proof.Machine
end

section
/-!
PROOFS. The mailbox's commands that change what a partition is: PART.EVICT, PART.RESTORE, PART.DESTROY, VF.ASSIGN, CHAN.ASSIGN,
RATE.SET, and the halted partition (R439 to R442).
-/

namespace Sys2Proof.Machine

-- Many small proofs side by side would each hold a thread of their own: they are elaborated one after another.
set_option Elab.async false

section
variable {s u : State} {buf : Mbox} {c : Cmd} {pn : Nat} {p : Part}

/-! ## PART.DESTROY (R111) -/

theorem destroyPart_gone (hr : risesFrom none s.parts = true) : aget? (s.destroyPart pn p).parts pn = none := by
  unfold State.destroyPart
  extract_lets s1 s2 s3 s4
  have h1 : Orderly 2 s s1 := Orderly.foldl (fun _ _ h => h.resetVf) _ (.refl s)
  have h2 : Orderly 2 s s2 := h1.withdrawPart
  have h3 : Orderly 2 s s3 := .ite (fun _ => h2) fun _ => h2.leavePlaces (by decide)
  have h4 : Orderly 2 s s4 := .ite (fun _ => h3) fun _ => .foldl (fun _ _ h => h.leaveChannel) _ h3
  exact aget?_aerase_self ((h4.parts le_rfl).rises hr) pn

/-! ## VF.ASSIGN (R446) -/

/-- The VFs that a mask names, added up again. -/
theorem bit_sum_two_pow (f : Nat → Bool) (n : Nat) {v : Nat} :
    bit ((upto n).map fun v => if f v then 2 ^ v else 0).sum v = (f v && decide (v < n)) := by
  have hsum : ∀ n, ((upto n).map fun v => if f v then 2 ^ v else 0).sum < 2 ^ n
      ∧ ∀ v, bit ((upto n).map fun v => if f v then 2 ^ v else 0).sum v = (f v && decide (v < n)) := by
    intro n
    induction n with
    | zero => exact ⟨Nat.one_pos, fun v => by simp [upto, bit]⟩
    | succ n ih =>
      obtain ⟨hlt, hbit⟩ := ih
      have hstep : ((upto (n + 1)).map fun v => if f v then 2 ^ v else 0).sum
          = ((upto n).map fun v => if f v then 2 ^ v else 0).sum + if f n then 2 ^ n else 0 := by
        simp [upto, List.range_succ]
      rw [hstep]
      have hpow := Nat.pow_succ 2 n
      by_cases hn : f n = true
      · rw [if_pos hn]
        refine ⟨by omega, fun v => ?_⟩
        rcases Nat.lt_trichotomy v n with h | h | h
        · rw [bit_eq_testBit, Nat.add_comm, Nat.testBit_two_pow_add_gt h, ← bit_eq_testBit, hbit v]
          simp [h, Nat.lt_succ_of_lt h]
        · subst h
          rw [bit_eq_testBit, Nat.add_comm, Nat.testBit_two_pow_add_eq, Nat.testBit_lt_two_pow hlt]
          simp [hn]
        · rw [bit_eq_testBit, Nat.testBit_lt_two_pow (lt_of_lt_of_le (by omega) (Nat.pow_le_pow_right (by decide) h))]
          simp [show ¬v < n + 1 by omega]
      · rw [if_neg hn, Nat.add_zero]
        refine ⟨by omega, fun v => ?_⟩
        rw [hbit v]
        by_cases hv : v = n
        · subst hv
          simp [hn]
        · simp [show (v < n + 1) = (v < n) by simp; omega]
  exact (hsum n).2 v

/-! ## RATE.SET (R408) -/

/-- The buckets of a partition's ports with a new rate. -/
theorem rates_set {f : Nat → Bucket → Bucket} {rate : Nat} (hf : ∀ i b, (f i b).rate = rate) (d : Nat → Bucket) (l : List Nat)
    (m : Assoc Bucket) {i : Nat} (h : i ∈ l ∨ (aget? m (bucketKey pn i)).map (fun y => y.rate) = some rate) :
    (aget? (l.foldl (fun m i => aalter m (d i) (bucketKey pn i) (f i)) m) (bucketKey pn i)).map (fun y => y.rate) = some rate := by
  induction l generalizing m with
  | nil => exact h.resolve_left List.not_mem_nil
  | cons j l ih =>
    refine ih _ ?_
    by_cases hij : i = j
    · subst hij
      right
      change (aget? (aset m (bucketKey pn i) _) _).map _ = _
      rw [aget?_aset_self]
      exact congrArg some (hf i _)
    · refine h.imp (fun h => (List.mem_cons.mp h).resolve_left hij) fun h => ?_
      have hk : bucketKey pn i ≠ bucketKey pn j := by
        unfold bucketKey
        omega
      change (aget? (aset m (bucketKey pn j) _) _).map _ = _
      rw [aget?_aset_ne _ _ hk]
      exact h

/-! ## PART.EVICT and PART.RESTORE -/

theorem restorePart_restores {x : Sealed} {pbase : Nat} (hp : aget? s.parts pn = some p) :
    (aget? (s.restorePart pn p x pbase).parts pn).map (fun q => (q.state, q.prec, q.epoch, q.box))
      = some (.paused, { p.prec with pbase := pbase }, (p.epoch + 1) % 2 ^ 32, none) := by
  unfold State.restorePart
  extract_lets new p' _ m s1 s2 s3 s4 s5 s6 mv s7
  have h1 : Orderly 2 s s1 := .foldl (fun _ _ h => h.clearTile (Nat.lt_succ_self 2)) _ (.refl s)
  have h2 : Orderly 2 s s2 := .foldl (fun _ _ h => h.clearSegment) _ h1
  have h3 : Orderly 2 s s3 := .foldl (fun _ _ h => h.onTile fun h3 => absurd h3 (by decide)) _ h2
  have h5 : Orderly 2 s s5 := .foldl (fun _ _ h => h.putBytes) _ (.foldl (fun _ _ h => h.restoreEntry) _ h3)
  have h6 : Orderly 2 s s6 := h5.same
  obtain ⟨q, hq, hk⟩ := part_of_orderly h6 le_rfl hp
  have h8 : Orderly 2 s7 (p.qslots.foldl (fun s y =>
      if (y.2.kernel.map fun k => k.retire == .withdrawn).getD false then s.withdrawKernel pn y.1 false else s) s7) :=
    .foldl (fun _ _ h => .ite (fun _ => h.withdrawKernel) fun _ => h) _ (.refl _)
  obtain ⟨r, hr, hk'⟩ := part_of_orderly h8 le_rfl (part_onPart hq _)
  rw [hr]
  simp only [Option.map_some, hk'.state, hk'.prec, hk'.epoch, hk'.box, hk.epoch]
  rfl

/-- The length of a blob (R109). -/
theorem blobBytes_length (x : Sealed) (rel : Bool) : (blobBytes p x rel).length = p.prec.blobLen rel := by
  have hlen : 4112 ≤ p.prec.blobLen rel := by
    unfold PartRec.blobLen
    omega
  simp only [blobBytes, List.length_append, length_blobHeader, blobBody, blobTag, length_fixedBytes, List.length_map, upto, List.length_range]
  omega

theorem evictPart_evicts {rel : Bool} (hp : aget? s.parts pn = some p) :
    (aget? (s.evictPart pn p rel).parts pn).map (fun q => (q.state, q.halt, q.epoch, q.relHbm))
        = some (.evicted, none, (p.epoch + 1) % 2 ^ 32, rel)
      ∧ (s.evictPart pn p rel).assay.box.busy = false ∧ (s.evictPart pn p rel).assay.box.code = cOk
      ∧ (s.evictPart pn p rel).assay.box.res = word (p.prec.blobLen rel)
      ∧ (s.evictPart pn p rel).assay.hostOut.length = p.prec.blobLen rel := by
  unfold State.evictPart
  extract_lets s1 x vfs s2 s3 s4 p' s5 _ s6
  have h1 : Orderly 2 s s1 := (Orderly.refl s).writeBackAll
  have h2 : Orderly 2 s s2 := .foldl (fun _ _ h => h.onVf) _ h1
  have h3 : Orderly 2 s s3 := h2.withdrawPart.leavePlaces (by decide)
  have h4 : Orderly 2 s s4 := .ite (fun _ => .foldl (fun _ _ h => h.leaveChannel) _ h3) fun _ => h3
  obtain ⟨q, hq, -⟩ := part_of_orderly h4 le_rfl hp
  refine ⟨?_, rfl, rfl, rfl, blobBytes_length (p := p') x rel⟩
  show (aget? s5.parts pn).map _ = _
  rw [part_onPart hq]
  rfl

end

end Sys2Proof.Machine
end

section
/-!
PROOFS. The mailbox's PART.CREATE, MAP.S2 and management registers (R100, R103, R113, R472).
-/

namespace Sys2Proof.Machine

-- Many small proofs side by side would each hold a thread of their own: they are elaborated one after another.
set_option Elab.async false

section
variable {s u : State} {c : Cmd} {pn : Nat} {p : Part}

/-! ## PART.CREATE (R100 to R102, R106) -/

theorem loadProgram_assay (s : State) (t : Nat) (prog : Prog) (bs : List Byte) : (s.loadProgram t prog bs).assay = s.assay := by
  have hfold (p : Nat × Part) (l : Assoc (Cap × Nat)) : ∀ v : State, v.assay = s.assay →
      (l.foldl (fun s k => s.letPath p.1 k.2.2 t k.2.1 cOk) v).assay = s.assay := by
    induction l with
    | nil => exact fun _ h => h
    | cons k l ih => exact fun v h => ih _ ((GivenUp.giveUp v t _).assay.trans h)
  show (s.emptyK t cOk).assay = _
  unfold State.emptyK
  dsimp only
  split
  · exact hfold _ _ _ rfl
  · rfl

theorem loadSteward_assay (s : State) (t : Nat) : (s.loadSteward t).assay = s.assay := by
  unfold State.loadSteward
  split
  · exact loadProgram_assay _ _ _ _
  · split
    · exact loadProgram_assay _ _ _ _
    · split <;> exact loadProgram_assay _ _ _ _

/-- What every step keeps. -/
theorem foldl_field {α β : Type} (g : State → β) {f : State → α → State} (hf : ∀ s x, g (f s x) = g s) (l : List α) (s : State) :
    g (l.foldl f s) = g s := by
  induction l generalizing s with
  | nil => rfl
  | cons x l ih => exact (ih _).trans (hf s x)

/-- The partition record, the policy of a PART.CREATE. -/
def Cmd.record (c : Cmd) : PartRec := recordOf (c.nat 0 128) ((c.args.drop 128).take 256)
/-- The policy body's bytes. -/
def Cmd.policyBytes (c : Cmd) : List Byte := (c.args.drop 384).take 256
/-- The policy. -/
def Cmd.policy (c : Cmd) : PolicyBody := policyOf (leNat c.policyBytes) c.policyBytes

/-- The checks of PART.CREATE (R104) that a command has passed: its form, its handle, its signature, its shape. -/
def Cmd.formed (c : Cmd) : Prop := recordZero (c.nat 0 128) = true ∧ policyZero (leNat c.policyBytes) = true
def Cmd.signed (c : Cmd) : Prop := slhValid c.policy.tenkey c.policyBytes (c.args.drop 640) = true
def Cmd.permitted (c : Cmd) : Prop := bit c.policy.cmdmask 1 = true ∧ shapeOk c.policy c.record = true
/-- What the partition takes is free (R76). -/
def State.hasPlaces (s : State) (r : PartRec) : Prop :=
  recordOk r = true ∧ s.placesFree 16 r = true ∧ s.chansFree 16 r.chans = true ∧ s.vfsFree 16 r.vfmask = true
    ∧ aget? s.parts r.pnum = none

/-- A new partition stands on cleared places. -/
def State.created (s : State) (r : PartRec) (p : PolicyBody) (h : Word) : State :=
  let gen := s.keyGen + 1
  let s := s.draw 1
  let s := { s with parts := aset s.parts r.pnum (newPart r p h gen s.cycle), keyGen := gen, assay := { s.assay with drawn := h :: s.assay.drawn } }
  let s := (newPart r p h gen s.cycle).tiles.foldl (fun s t => (s.clearTile t).loadSteward t) s
  let s := (segmentsOf r.wsmask).foldl (fun s g => s.clearSegment g) s
  r.chans.foldl (fun s c => s.zeroRange (c * 2 ^ 31) (2 ^ 31)) s

theorem placed_iff (s : State) (r : PartRec) :
    (recordOk r && s.placesFree 16 r && s.chansFree 16 r.chans && s.vfsFree 16 r.vfmask && (aget? s.parts r.pnum).isNone) = true
      ↔ s.hasPlaces r := by
  simp [State.hasPlaces, and_assoc]

theorem and_false_of {x y : Bool} (h : ¬(x = true ∧ y = true)) : (x && y) = false := by
  rw [Bool.eq_false_iff, ne_eq, Bool.and_eq_true]
  exact h

theorem and_true_of {x y : Bool} (h : x = true ∧ y = true) : (x && y) = true := by rw [h.1, h.2]; rfl

/-- The checks of PART.CREATE in their order. -/
theorem partCreate_eq (s : State) (c : Cmd) : partCreate s c = (do
    must (recordZero (c.nat 0 128) && policyZero (leNat c.policyBytes)) bad1
    must (c.handle == 0) bad2
    must (slhValid c.policy.tenkey c.policyBytes (c.args.drop 640)) (.error (cPolicy, 1))
    must (bit c.policy.cmdmask 1 && shapeOk c.policy c.record) bad5
    must (recordOk c.record && s.placesFree 16 c.record && s.chansFree 16 c.record.chans && s.vfsFree 16 c.record.vfmask
      && (aget? s.parts c.record.pnum).isNone) bad6
    .ok (.ok (s.created c.record c.policy (freshHandle s.assay.drawn (s.assay.drawn.length + 2) (Config.freeHandle s.free)))
      (freshHandle s.assay.drawn (s.assay.drawn.length + 2) (Config.freeHandle s.free)))) := rfl

theorem partCreate_illformed (h : ¬c.formed) : partCreate s c = .error (cRefused, 0x20) := by
  rw [partCreate_eq, must_not (and_false_of h)]
  rfl

theorem partCreate_handled (hf : c.formed) (h : c.handle ≠ 0) : partCreate s c = .error (cRefused, 0x21) := by
  rw [partCreate_eq, must_of (and_true_of hf), must_not (beq_false_of_ne h)]
  rfl

section
variable (hf : c.formed) (hh : c.handle = 0)
include hf hh

theorem partCreate_unsigned (h : ¬c.signed) : partCreate s c = .error (cPolicy, 1) := by
  rw [partCreate_eq, must_of (and_true_of hf), must_of (beq_iff_eq.mpr hh), must_not (Bool.eq_false_iff.mpr h)]
  rfl

theorem partCreate_forbidden (hs : c.signed) (h : ¬c.permitted) : partCreate s c = .error (cPolicy, 0) := by
  rw [partCreate_eq, must_of (and_true_of hf), must_of (beq_iff_eq.mpr hh), must_of hs, must_not (and_false_of h)]
  rfl

theorem partCreate_misplaced (hs : c.signed) (hp : c.permitted) (h : ¬s.hasPlaces c.record) :
    partCreate s c = .error (cRefused, 0x23) := by
  rw [partCreate_eq, must_of (and_true_of hf), must_of (beq_iff_eq.mpr hh), must_of hs, must_of (and_true_of hp),
    must_not (Bool.eq_false_iff.mpr (mt (placed_iff s c.record).mp h))]
  rfl

theorem partCreate_creates (hs : c.signed) (hp : c.permitted) (h : s.hasPlaces c.record) :
    partCreate s c = .ok (.ok (s.created c.record c.policy
      (freshHandle s.assay.drawn (s.assay.drawn.length + 2) (Config.freeHandle s.free)))
      (freshHandle s.assay.drawn (s.assay.drawn.length + 2) (Config.freeHandle s.free))) := by
  rw [partCreate_eq, must_of (and_true_of hf), must_of (beq_iff_eq.mpr hh), must_of hs, must_of (and_true_of hp),
    must_of ((placed_iff s c.record).mpr h)]
  rfl

end

theorem created_part (r : PartRec) (y : PolicyBody) (w : Word) :
    (aget? (s.created r y w).parts r.pnum).map (fun q => (q.prec, q.policy, q.handle, q.state, q.epoch)) = some (r, y, w, .active, 0)
      ∧ (s.created r y w).assay.drawn = w :: s.assay.drawn := by
  unfold State.created
  extract_lets gen s1 _ s2 s3 s4
  have h2 : aget? s2.parts r.pnum = some (newPart r y w gen s1.cycle) := aget?_aset_self _ _ _
  have h3 : Orderly 2 s2 s3 := .foldl (fun _ _ h => (h.clearTile (Nat.lt_succ_self 2)).loadSteward) _ (.refl s2)
  have h5 : Orderly 2 s2 (r.chans.foldl (fun s c => s.zeroRange (c * 2 ^ 31) (2 ^ 31)) s4) :=
    .foldl (fun _ _ h => h.zeroRange) _ (.foldl (fun _ _ h => h.clearSegment) _ h3)
  obtain ⟨q, hq, hk⟩ := part_of_orderly h5 le_rfl h2
  refine ⟨?_, ?_⟩
  · rw [hq, Option.map_some, hk.prec, hk.policy, hk.handle, hk.state, hk.epoch]
    rfl
  · have ha3 : s3.assay = s2.assay := foldl_field _ (fun s t => (loadSteward_assay (s.clearTile t) t).trans rfl) _ s2
    have ha4 : s4.assay = s3.assay := foldl_field _ (f := fun s g => s.clearSegment g) (fun _ _ => rfl) _ s3
    have ha5 := foldl_field (·.assay) (f := fun s c => s.zeroRange (c * 2 ^ 31) (2 ^ 31)) (fun _ _ => rfl) r.chans s4
    exact congrArg (·.drawn) (ha5.trans (ha4.trans ha3))

theorem freshHandle_first {drawn : List Word} {n : Nat} {w : Word} (h0 : w ≠ 0) (h : w ∉ drawn) : freshHandle drawn (n + 1) w = w := by
  unfold freshHandle
  refine if_neg fun hc => hc.elim h0 fun hc => h ?_
  simpa using hc

/-! ## MAP.S2 (R402, R472) -/

theorem onTiles_mem (s : State) (p : Part) (f : Tile → Tile) : (s.onTiles p f).mem = s.mem :=
  foldl_field (·.mem) (f := fun s t => s.onTile t f) (fun _ _ => rfl) _ _

theorem answerPages_mem (s : State) (p : Part) (vf gpa log2 : Nat) (reject : Bool) :
    (s.answerPages p vf gpa log2 reject).mem = s.mem := by
  unfold State.answerPages
  exact (onTiles_mem _ _ _).trans rfl

theorem refuseWaiting_mem (s : State) (vf : Nat) (pages : Nat → Bool) : (s.refuseWaiting vf pages).mem = s.mem := by
  unfold State.refuseWaiting
  exact foldl_field (·.mem) (fun _ _ => (Elsewhere.send _ _ _ _ _ _ _ _ _).mem) _ _

/-- The first word of MAP.S2's arguments: VF or fabric MMU entry. -/
def Cmd.vfw (c : Cmd) : Nat := field (c.nat 0 32) 0 31
/-- The guest or fabric address. -/
def Cmd.gpa (c : Cmd) : Nat := field (c.nat 0 32) 64 64
/-- The partition offset. -/
def Cmd.poff (c : Cmd) : Nat := field (c.nat 0 32) 128 64
/-- The page size. -/
def Cmd.log2 (c : Cmd) : Nat := s2Log (field (c.nat 0 32) 192 2)

/-- A MAP.S2 that is well formed for its partition. -/
structure MapFormed (s : State) (c : Cmd) (pn : Nat) (p : Part) : Prop where
  zero : zeroFields (c.nat 0 32) [(32, 32), (194, 6), (201, 55)] = true
  aligned : c.gpa % 2 ^ c.log2 = 0
  backed : bit (c.nat 0 32) 200 = true → c.poff % 2 ^ c.log2 = 0
  named : named s c = .ok (pn, p)
  present : p.state ≠ .evicted

/-- MAP.S2 in the names of its arguments. -/
theorem mapS2_eq (s : State) (c : Cmd) : mapS2 s c = (do
    must (zeroFields (c.nat 0 32) [(32, 32), (194, 6), (201, 55)] && c.gpa % 2 ^ c.log2 == 0
      && (!bit (c.nat 0 32) 200 || c.poff % 2 ^ c.log2 == 0)
      && decide (c.gpa < (if bit (c.nat 0 32) 31 then 2 ^ 42 else 2 ^ 52))
      && (if bit (c.nat 0 32) 31 then field c.vfw 6 4 == 0 && field c.vfw 24 7 == 0 else decide (c.vfw < 128))) bad1
    let (pn, p) ← named s c
    must (bit (c.nat 0 32) 31 || bit p.prec.vfmask c.vfw) bad1
    must (p.state != .evicted) bad3
    if bit (c.nat 0 32) 31 then mapFabric s pn p c.vfw c.gpa c.poff c.log2 (bit (c.nat 0 32) 200)
    else mapStageTwo s pn p c.vfw c.gpa c.poff c.log2 (bit (c.nat 0 32) 200)) := rfl

theorem mapS2_fabric (h : MapFormed s c pn p) (h31 : bit (c.nat 0 32) 31 = true) (hg : c.gpa < 2 ^ 42) (h6 : field c.vfw 6 4 = 0)
    (h24 : field c.vfw 24 7 = 0) : mapS2 s c = mapFabric s pn p c.vfw c.gpa c.poff c.log2 (bit (c.nat 0 32) 200) := by
  have hb : (!bit (c.nat 0 32) 200 || c.poff % 2 ^ c.log2 == 0) = true := by
    cases hm : bit (c.nat 0 32) 200 with
    | false => rfl
    | true => rw [h.backed hm]; rfl
  have hs : (p.state != .evicted) = true := bne_iff_ne.mpr h.present
  rw [mapS2_eq, must_of, check_ok, h.named, check_ok]
  · simp only [h31, Bool.true_or, must_of hs, check_ok, if_true, show must true bad1 = .ok () from rfl]
  · simp only [h.zero, h.aligned, hb, h31, hg, h6, h24, if_true, decide_true, beq_self_eq_true, Bool.and_self]

theorem mapS2_stageTwo (h : MapFormed s c pn p) (h31 : bit (c.nat 0 32) 31 = false) (hg : c.gpa < 2 ^ 52) (hv : c.vfw < 128)
    (hm : bit p.prec.vfmask c.vfw = true) :
    mapS2 s c = mapStageTwo s pn p c.vfw c.gpa c.poff c.log2 (bit (c.nat 0 32) 200) := by
  have hb : (!bit (c.nat 0 32) 200 || c.poff % 2 ^ c.log2 == 0) = true := by
    cases hm : bit (c.nat 0 32) 200 with
    | false => rfl
    | true => rw [h.backed hm]; rfl
  have hs : (p.state != .evicted) = true := bne_iff_ne.mpr h.present
  rw [mapS2_eq, must_of, check_ok, h.named, check_ok]
  · simp only [h31, hm, Bool.or_true, must_of hs, check_ok, Bool.false_eq_true, if_false, show must true bad1 = .ok () from rfl]
  · simp only [h.zero, h.aligned, hb, h31, hg, hv, Bool.false_eq_true, if_false, decide_true, beq_self_eq_true, Bool.and_self]

theorem mapFabric_maps (ha : bit p.policy.cmdmask 9 = true) {vfw gpa poff log2 : Nat} (hc : p.prec.covers poff (2 ^ log2) = true)
    (hclash : ∀ y ∈ p.fmmu, y.1 = field vfw 0 6 ∨ y.2.schip ≠ field vfw 10 10 ∨ y.2.spart ≠ field vfw 20 4
      ∨ rangeMeets y.2.foff (2 ^ y.2.log2) gpa (2 ^ log2) = false) :
    mapFabric s pn p vfw gpa poff log2 true = .ok (.ok (s.onPart pn fun q =>
      { q with fmmu := aset q.fmmu (field vfw 0 6) ⟨poff, gpa, field vfw 20 4, field vfw 10 10, log2⟩ }) 0) := by
  have hno : (p.fmmu.any fun x => x.1 != field vfw 0 6 && x.2.schip == field vfw 10 10 && x.2.spart == field vfw 20 4
      && rangeMeets x.2.foff (2 ^ x.2.log2) gpa (2 ^ log2)) = false := by
    rw [List.any_eq_false]
    intro y hy
    rcases hclash y hy with h | h | h | h <;> simp [h]
  unfold mapFabric
  simp only [hno, allows, must_of ha, check_ok, Bool.not_true, Bool.not_false, Bool.true_and, Bool.false_or, must_of hc, if_true]

theorem mapFabric_unmaps (ha : bit p.policy.cmdmask 9 = true) {vfw gpa poff log2 : Nat} :
    mapFabric s pn p vfw gpa poff log2 false = .ok (.ok (s.onPart pn fun q =>
      { q with fmmu := aerase q.fmmu (field vfw 0 6) }) 0) := by
  unfold mapFabric
  simp only [allows, must_of ha, check_ok, Bool.not_false, Bool.true_or, show must true bad6 = .ok () from rfl, Bool.false_eq_true,
    if_false]

section
variable {vf gpa poff log2 : Nat}

/-- The stage-two pages of a partition that a range meets. -/
def State.metPages (s : State) (p : Part) (vf gpa log2 : Nat) : List S2Entry := (s.s2Entries p).filter fun e => e.meets vf gpa log2

theorem mapStageTwo_eq (s : State) (map' : Bool) : mapStageTwo s pn p vf gpa poff log2 map' = (do
    must (bit p.policy.cmdmask 9 && (!map' || p.policy.s2alias
      || ((s.s2Entries p).filter fun e => !e.meets vf gpa log2).all fun e => !rangeMeets e.poff (2 ^ e.log2) poff (2 ^ log2))) bad5
    must (!map' || p.prec.covers poff (2 ^ log2)) bad6
    must ((s.metPages p vf gpa log2).all fun e => e.log2 ≤ log2) bad6
    match s.changeTables pn p vf gpa poff log2 (s.metPages p vf gpa log2) map' with
    | none => bad6
    | some s' =>
      if s.metPages p vf gpa log2 = [] then
        .ok (.ok (if map' then s'.answerPages p vf gpa log2 (!map')
          else (s'.answerPages p vf gpa log2 (!map')).refuseWaiting vf (pageIn gpa log2)) 0)
      else .ok (.later ((if map' then s'.answerPages p vf gpa log2 (!map')
          else (s'.answerPages p vf gpa log2 (!map')).refuseWaiting vf (pageIn gpa log2)).joinInval pn p vf gpa log2))) := rfl

variable (ha : bit p.policy.cmdmask 9 = true)
include ha

/-- A map of a range that meets no page comes to its checks of room. -/
theorem mapStageTwo_maps (hmet : s.metPages p vf gpa log2 = [])
    (halias : p.policy.s2alias = true ∨ ∀ e ∈ s.s2Entries p, rangeMeets e.poff (2 ^ e.log2) poff (2 ^ log2) = false) :
    mapStageTwo s pn p vf gpa poff log2 true = (do
      must (p.prec.covers poff (2 ^ log2)) bad6
      match s.changeTables pn p vf gpa poff log2 [] true with
      | none => bad6
      | some s' => .ok (.ok (s'.answerPages p vf gpa log2 false) 0)) := by
  have hok : (p.policy.s2alias || ((s.s2Entries p).filter fun e => !e.meets vf gpa log2).all fun e =>
      !rangeMeets e.poff (2 ^ e.log2) poff (2 ^ log2)) = true := by
    rw [Bool.or_eq_true, List.all_eq_true]
    exact halias.imp_right fun h e he => by rw [h e (List.mem_filter.mp he).1]; rfl
  rw [mapStageTwo_eq]
  simp only [hmet, ha, Bool.not_true, Bool.false_or, hok, Bool.and_self, List.all_nil, show must true bad5 = .ok () from rfl,
    show must true bad6 = .ok () from rfl, check_ok, if_true]

theorem mapStageTwo_unmaps_none (hmet : s.metPages p vf gpa log2 = []) :
    mapStageTwo s pn p vf gpa poff log2 false
      = .ok (.ok ((s.answerPages p vf gpa log2 true).refuseWaiting vf (pageIn gpa log2)) 0) := by
  rw [mapStageTwo_eq]
  simp only [hmet, ha, Bool.not_false, Bool.true_or, Bool.and_self, List.all_nil, show must true bad5 = .ok () from rfl,
    show must true bad6 = .ok () from rfl, check_ok, if_true, State.changeTables, List.foldl_nil, Bool.false_eq_true, if_false]

theorem mapStageTwo_unmaps (hmet : s.metPages p vf gpa log2 ≠ []) (hsize : ∀ e ∈ s.metPages p vf gpa log2, e.log2 ≤ log2)
    (hp : aget? s.parts pn = some p) :
    ∃ (u : State) (q : Part), mapStageTwo s pn p vf gpa poff log2 false = .ok (.later (u.joinInval pn p vf gpa log2)) ∧ aget? u.parts pn = some q := by
  have hall : ((s.metPages p vf gpa log2).all fun e => decide (e.log2 ≤ log2)) = true := by
    rw [List.all_eq_true]
    exact fun e he => decide_eq_true (hsize e he)
  obtain ⟨v, hv⟩ : ∃ v, s.changeTables pn p vf gpa poff log2 (s.metPages p vf gpa log2) false = some v := ⟨_, rfl⟩
  have ho : Orderly 2 s ((v.answerPages p vf gpa log2 true).refuseWaiting vf (pageIn gpa log2)) :=
    ((Orderly.refl s).changeTables hv).answerPages.refuseWaiting
  obtain ⟨q, hq, -⟩ := part_of_orderly ho le_rfl hp
  refine ⟨_, q, ?_, hq⟩
  rw [mapStageTwo_eq]
  simp only [ha, Bool.not_false, Bool.true_or, Bool.and_self, hall, show must true bad5 = .ok () from rfl,
    show must true bad6 = .ok () from rfl, check_ok, hv, hmet, Bool.false_eq_true, if_false]

end

end

end Sys2Proof.Machine
end

section
/-!
PROOFS. What each of the mailbox's commands comes to (R99 to R113, R402, R408, R438 to R442, R472).
-/

namespace Sys2Proof.Machine

-- Many small proofs side by side would each hold a thread of their own: they are elaborated one after another.
set_option Elab.async false

section
variable {s : State} {buf : Mbox} {c : Cmd} {pn : Nat} {p : Part}

/-- The command is carried out, without a result. -/
def Completes (s : State) (e : Instr) (more : State → Prop) : Prop := Ends s e cOk 0 0 more

/-- The command's partition allows it (R104 step 5). -/
def Allowed (p : Part) (k : Nat) : Prop := bit p.policy.cmdmask k = true

theorem allows_of {k : Nat} (h : Allowed p k) : allows p k = .ok () := must_of h

theorem allows_not {k : Nat} (h : ¬Allowed p k) : allows p k = .error (cPolicy, 0) := must_not (Bool.eq_false_iff.mpr h)

/-! ## The instruction of each command -/

theorem exec_partPause : exec (.partPause buf) s = mailbox 0x02 buf s (fun c => !s.halting c) partPause := rfl
theorem exec_partResume : exec (.partResume buf) s = mailbox 0x03 buf s (fun c => !s.halting c) partResume := rfl
theorem exec_partEvict : exec (.partEvict buf) s = mailbox 0x04 buf s (fun c => !s.halting c) partEvict := rfl
theorem exec_partRestore {blob : List Byte} :
    exec (.partRestore buf blob) s = mailbox 0x05 buf s (fun _ => true) (partRestore blob) := rfl
theorem exec_partDestroy : exec (.partDestroy buf) s = mailbox 0x06 buf s (fun _ => true) partDestroy := rfl
theorem exec_vfAssign : exec (.vfAssign buf) s = mailbox 0x07 buf s (fun c => !s.halting c) vfAssign := rfl
theorem exec_chanAssign : exec (.chanAssign buf) s = mailbox 0x08 buf s (fun _ => true) chanAssign := rfl
theorem exec_mapS2 : exec (.mapS2 buf) s = mailbox 0x09 buf s (fun _ => true) mapS2 := rfl
theorem exec_rateSet : exec (.rateSet buf) s = mailbox 0x0A buf s (fun _ => true) rateSet := rfl
theorem exec_report : exec (.report buf) s = mailbox 0x20 buf s (fun _ => true) report := rfl

/-! ## A handle that names no partition -/

theorem unnamed_refused (hn : (s.parts.find? fun q => q.2.handle == c.handle) = none) (hh : s.halting c = false) :
    (Waits s buf c 0x02 → Refuses s (.partPause buf) cRefused 0x21) ∧ (Waits s buf c 0x03 → Refuses s (.partResume buf) cRefused 0x21)
      ∧ (Waits s buf c 0x06 → Refuses s (.partDestroy buf) cRefused 0x21) ∧ (Waits s buf c 0x07 → Refuses s (.vfAssign buf) cRefused 0x21)
      ∧ (Waits s buf c 0x08 → Refuses s (.chanAssign buf) cRefused 0x21) ∧ (Waits s buf c 0x20 → Refuses s (.report buf) cRefused 0x21) := by
  have hnamed := named_none hn
  have hgo := halting_false hh
  refine ⟨fun hw => refuses_of hw exec_partPause hgo ?_, fun hw => refuses_of hw exec_partResume hgo ?_,
    fun hw => refuses_of hw exec_partDestroy rfl ?_, fun hw => refuses_of hw exec_vfAssign hgo ?_,
    fun hw => refuses_of hw exec_chanAssign rfl ?_, fun hw => refuses_of hw exec_report rfl ?_⟩
  · rw [partPause, hnamed, check_error]
  · rw [partResume, hnamed, check_error]
  · rw [partDestroy, hnamed, check_error]
  · rw [vfAssign, hnamed, check_error]
  · rw [chanAssign, hnamed, check_error]
  · rw [report, hnamed, check_error]

section
variable (hn : (s.parts.find? fun q => q.2.handle == c.handle) = some (pn, p))
include hn

/-! ## PART.PAUSE and PART.RESUME -/

theorem partPause_eq : partPause s c = (do
    must (p.state != .evicted) bad3
    allows p 2
    if p.state = .active then .ok (.later (s.startHalt pn .pause)) else .ok (.ok s 0)) := by
  rw [partPause, named_of hn, check_ok]

theorem pause_outcomes (hw : Waits s buf c 0x02) (hp : aget? s.parts pn = some p) (hh : s.halting c = false) :
    (p.state = .evicted → Refuses s (.partPause buf) cRefused 0x22)
      ∧ (p.state ≠ .evicted → ¬Allowed p 2 → Refuses s (.partPause buf) cPolicy 0)
      ∧ (Allowed p 2 → p.state = .paused → Completes s (.partPause buf) fun u => u.parts = s.parts)
      ∧ (Allowed p 2 → p.state = .active → Starts s (.partPause buf) fun u =>
          (aget? u.parts pn).bind (fun q => q.halt) = some .pause ∧ ∀ t ∈ p.tiles, (u.tile t).core.disp.halting = true) := by
  have hgo := halting_false hh
  refine ⟨fun h => refuses_of hw exec_partPause hgo ?_, fun h h' => refuses_of hw exec_partPause hgo ?_,
    fun h h' => ends_of (v := s) hw exec_partPause hgo ?_ rfl,
    fun h h' => starts_of (v := s.startHalt pn .pause) hw exec_partPause hgo ?_ (startHalt_halts hp)⟩
  · rw [partPause_eq hn, h]
    rfl
  · rw [partPause_eq hn, must_of (bne_iff_ne.mpr h), check_ok, allows_not h', check_error]
  · rw [partPause_eq hn, h', allows_of h]
    rfl
  · rw [partPause_eq hn, h', allows_of h]
    rfl

theorem partResume_eq : partResume s c = (do
    must (p.state != .evicted) bad3
    allows p 3
    .ok (.ok (if p.state = .paused then s.resumePart pn else s) 0)) := by
  rw [partResume, named_of hn, check_ok]

theorem resume_outcomes (hw : Waits s buf c 0x03) (hp : aget? s.parts pn = some p) (hh : s.halting c = false) :
    (p.state = .evicted → Refuses s (.partResume buf) cRefused 0x22)
      ∧ (Allowed p 3 → p.state = .active → Completes s (.partResume buf) fun u => u.parts = s.parts)
      ∧ (Allowed p 3 → p.state = .paused → Completes s (.partResume buf) fun u =>
          (aget? u.parts pn).map (fun q => q.state) = some .active ∧ ∀ t ∈ p.tiles, (u.tile t).core.disp.halting = false) := by
  have hgo := halting_false hh
  refine ⟨fun h => refuses_of hw exec_partResume hgo ?_, fun h h' => ends_of (v := s) hw exec_partResume hgo ?_ rfl,
    fun h h' => ends_of (v := s.resumePart pn) hw exec_partResume hgo ?_ (resumePart_resumes hp)⟩
  · rw [partResume_eq hn, h]
    rfl
  · rw [partResume_eq hn, h', allows_of h]
    rfl
  · rw [partResume_eq hn, h', allows_of h]
    rfl

/-! ## PART.EVICT, PART.RESTORE, PART.DESTROY -/

theorem partEvict_eq (h0 : c.nat 16 8 / 2 = 0) : partEvict s c = (do
    must (p.state != .evicted) bad3
    must (bit p.policy.cmdmask 4 && (!bit (c.nat 16 8) 0 || p.policy.relok)
      && (p.policy.maxevict == 0xFFFFFFFF || decide (p.evictions + 1 ≤ p.policy.maxevict))) bad5
    must (decide (p.prec.blobLen (bit (c.nat 16 8) 0) ≤ c.nat 8 8)) (.error (cRefused, 0x24))
    .ok (.later (if p.state = .active then s.startHalt pn (.evict (bit (c.nat 16 8) 0) (c.nat 8 8))
      else s.onPart pn fun p => { p with halt := some (.evict (bit (c.nat 16 8) 0) (c.nat 8 8)) }))) := by
  rw [partEvict, h0, must_of (by rfl), check_ok, named_of hn, check_ok]

theorem evict_outcomes (hw : Waits s buf c 0x04) (hp : aget? s.parts pn = some p) (hh : s.halting c = false) {rel : Bool}
    (h0 : c.nat 16 8 / 2 = 0) (hr : rel = bit (c.nat 16 8) 0) (he : p.state ≠ .evicted) (ha : Allowed p 4)
    (hrel : rel = true → p.policy.relok = true) (hmax : p.policy.maxevict = 0xFFFFFFFF ∨ p.evictions + 1 ≤ p.policy.maxevict) :
    (c.nat 8 8 < p.prec.blobLen rel → Refuses s (.partEvict buf) cRefused 0x24)
      ∧ (p.prec.blobLen rel ≤ c.nat 8 8 → Starts s (.partEvict buf) fun u =>
          (aget? u.parts pn).bind (fun q => q.halt) = some (.evict rel (c.nat 8 8))) := by
  subst hr
  have hgo := halting_false hh
  have hpol : (bit p.policy.cmdmask 4 && (!bit (c.nat 16 8) 0 || p.policy.relok)
      && (p.policy.maxevict == 0xFFFFFFFF || decide (p.evictions + 1 ≤ p.policy.maxevict))) = true := by
    simp only [Bool.and_eq_true, Bool.or_eq_true, Bool.not_eq_true', beq_iff_eq, decide_eq_true_eq]
    refine ⟨⟨ha, ?_⟩, hmax⟩
    cases hb : bit (c.nat 16 8) 0 with
    | false => exact .inl rfl
    | true => exact .inr (hrel hb)
  refine ⟨fun h => refuses_of hw exec_partEvict hgo ?_, fun h => starts_of hw exec_partEvict hgo ?_ ?_
      (v := if p.state = .active then s.startHalt pn (.evict (bit (c.nat 16 8) 0) (c.nat 8 8))
        else s.onPart pn fun p => { p with halt := some (.evict (bit (c.nat 16 8) 0) (c.nat 8 8)) })⟩
  · rw [partEvict_eq hn h0, must_of (bne_iff_ne.mpr he), check_ok, must_of hpol, check_ok,
      must_not (decide_eq_false (Nat.not_le.mpr h)), check_error]
  · rw [partEvict_eq hn h0, must_of (bne_iff_ne.mpr he), check_ok, must_of hpol, check_ok, must_of (decide_eq_true h), check_ok]
  · show (aget? (State.parts (ite _ _ _)) pn).bind _ = _
    split
    · exact (startHalt_halts hp).1
    · rw [part_onPart hp]
      rfl

theorem restore_outcomes (hw : Waits s buf c 0x05) (hp : aget? s.parts pn = some p) {x : Sealed} {blob : List Byte}
    (h0 : c.nat 16 8 < 2 ^ 12) (he : p.state = .evicted) (hb : p.box = some x) (ha : Allowed p 5)
    (hplaces : s.placesFree pn { p.prec with pbase := c.nat 16 8 } = true)
    (hchans : p.relHbm = true → s.chansFree pn p.prec.chans = true) :
    (blobOk p blob (c.nat 8 8) = false → Refuses s (.partRestore buf blob) cRefused 0x25)
      ∧ (blobOk p blob (c.nat 8 8) = true → Completes s (.partRestore buf blob) fun u =>
          (aget? u.parts pn).map (fun q => (q.state, q.prec, q.epoch, q.box))
            = some (.paused, { p.prec with pbase := c.nat 16 8 }, (p.epoch + 1) % 2 ^ 32, none)) := by
  have hfree : (s.placesFree pn { p.prec with pbase := c.nat 16 8 } && (!p.relHbm || s.chansFree pn p.prec.chans)) = true := by
    rw [hplaces, Bool.true_and, Bool.or_eq_true, Bool.not_eq_true']
    cases h : p.relHbm with
    | false => exact .inl rfl
    | true => exact .inr (hchans h)
  have heq : partRestore blob s c = (do
      must (blobOk p blob (c.nat 8 8)) (.error (cRefused, 0x25))
      .ok (.ok (s.restorePart pn p x (c.nat 16 8)) 0)) := by
    rw [partRestore, must_of (beq_iff_eq.mpr (Nat.div_eq_of_lt h0)), check_ok, named_of hn, check_ok]
    dsimp only
    rw [he, hb]
    dsimp only
    rw [allows_of ha, check_ok, must_of hfree, check_ok]
  refine ⟨fun h => refuses_of hw exec_partRestore rfl ?_,
    fun h => ends_of (v := s.restorePart pn p x (c.nat 16 8)) hw exec_partRestore rfl ?_ (restorePart_restores hp)⟩
  · rw [heq, must_not h, check_error]
  · rw [heq, must_of h, check_ok]

theorem destroy_outcomes (hw : Waits s buf c 0x06) :
    (¬Allowed p 6 → Refuses s (.partDestroy buf) cPolicy 0)
      ∧ (Allowed p 6 → risesFrom none s.parts = true → Completes s (.partDestroy buf) fun u => aget? u.parts pn = none) := by
  refine ⟨fun h => refuses_of hw exec_partDestroy rfl ?_,
    fun h hr => ends_of (v := s.destroyPart pn p) hw exec_partDestroy rfl ?_ (destroyPart_gone hr)⟩
  · rw [partDestroy, named_of hn, check_ok]
    dsimp only
    rw [allows_not h, check_error]
  · rw [partDestroy, named_of hn, check_ok]
    dsimp only
    rw [allows_of h, check_ok]

/-! ## VF.ASSIGN, CHAN.ASSIGN, RATE.SET -/

/-- The VFs that VF.ASSIGN takes away. -/
def Cmd.vfsGone (c : Cmd) : List Nat := (upto 128).filter fun v => bit (c.nat 16 16) v

/-- The partition's VFs after VF.ASSIGN. -/
def Cmd.vfsNew (c : Cmd) (p : Part) : Nat :=
  ((upto 128).map fun v => if (bit p.prec.vfmask v || bit (c.nat 0 16) v) && !c.vfsGone.contains v then 2 ^ v else 0).sum

omit hn in
theorem bit_vfsNew (p : Part) {v : Nat} (hv : v < 128) :
    bit (c.vfsNew p) v = ((bit p.prec.vfmask v || bit (c.nat 0 16) v) && !bit (c.nat 16 16) v) := by
  have hgone : c.vfsGone.contains v = bit (c.nat 16 16) v := by
    rw [Bool.eq_iff_iff, List.contains_iff_mem]
    simp [Cmd.vfsGone, upto, hv]
  rw [Cmd.vfsNew, bit_sum_two_pow, hgone, decide_eq_true hv, Bool.and_true]

theorem vfAssign_eq : vfAssign s c = (do
    must (p.state != .active) bad3
    must (bit p.policy.cmdmask 7 && decide (countBits (c.vfsNew p) 128 ≤ p.policy.maxvf)) bad5
    must (s.vfsFree pn (c.nat 0 16)) bad6
    .ok (.ok (((c.vfsGone.filter fun v => bit p.prec.vfmask v).foldl (fun s v => s.resetVf v) s).onPart pn fun q =>
      { q with prec := { q.prec with vfmask := c.vfsNew p } }) 0)) := by
  rw [vfAssign, named_of hn, check_ok]
  rfl

theorem vfAssign_outcomes (hw : Waits s buf c 0x07) (hp : aget? s.parts pn = some p) (hh : s.halting c = false) :
    (p.state = .active → Refuses s (.vfAssign buf) cRefused 0x22)
      ∧ (p.state ≠ .active → Allowed p 7 → countBits (c.vfsNew p) 128 ≤ p.policy.maxvf →
          (s.vfsFree pn (c.nat 0 16) = false → Refuses s (.vfAssign buf) cRefused 0x23)
          ∧ (s.vfsFree pn (c.nat 0 16) = true → Completes s (.vfAssign buf) fun u =>
              (aget? u.parts pn).map (fun q => q.prec.vfmask) = some (c.vfsNew p)
              ∧ ∀ v < 128, bit (c.vfsNew p) v = ((bit p.prec.vfmask v || bit (c.nat 0 16) v) && !bit (c.nat 16 16) v))) := by
  have hgo := halting_false hh
  refine ⟨fun h => refuses_of hw exec_vfAssign hgo ?_, fun h ha hm =>
    ⟨fun hf => refuses_of hw exec_vfAssign hgo ?_, fun hf => ends_of hw exec_vfAssign hgo ?_ ⟨?_, fun v hv => bit_vfsNew p hv⟩
      (v := ((c.vfsGone.filter fun v => bit p.prec.vfmask v).foldl (fun s v => s.resetVf v) s).onPart pn fun q =>
        { q with prec := { q.prec with vfmask := c.vfsNew p } })⟩⟩
  · rw [vfAssign_eq hn, h]
    rfl
  · rw [vfAssign_eq hn, must_of (bne_iff_ne.mpr h), check_ok, must_of (and_true_of ⟨ha, decide_eq_true hm⟩), check_ok,
      must_not hf]
    rfl
  · rw [vfAssign_eq hn, must_of (bne_iff_ne.mpr h), check_ok, must_of (and_true_of ⟨ha, decide_eq_true hm⟩), check_ok,
      must_of hf, check_ok]
  · have ho : Orderly 2 s ((c.vfsGone.filter fun v => bit p.prec.vfmask v).foldl (fun s v => s.resetVf v) s) :=
      .foldl (fun _ _ h => h.resetVf) _ (.refl s)
    obtain ⟨q, hq, -⟩ := part_of_orderly ho le_rfl hp
    show (aget? (State.onPart _ pn _).parts pn).map _ = _
    rw [part_onPart hq]
    rfl

theorem chanAssign_outcomes (hw : Waits s buf c 0x08) (hp : aget? s.parts pn = some p) :
    (p.state ≠ .evicted ∨ p.relHbm = false → Refuses s (.chanAssign buf) cRefused 0x22)
      ∧ (p.state = .evicted → p.relHbm = true → Allowed p 8 →
          (s.chansFree pn ((c.args.take p.prec.nch).map BitVec.toNat) = false → Refuses s (.chanAssign buf) cRefused 0x23)
          ∧ (s.chansFree pn ((c.args.take p.prec.nch).map BitVec.toNat) = true → Completes s (.chanAssign buf) fun u =>
            (aget? u.parts pn).map (fun q => q.prec)
              = some { p.prec with chans := (c.args.take p.prec.nch).map BitVec.toNat })) := by
  have heq : chanAssign s c = (do
      must (p.state == .evicted && p.relHbm) bad3
      allows p 8
      must (s.chansFree pn ((c.args.take p.prec.nch).map BitVec.toNat)) bad6
      .ok (.ok (s.onPart pn fun q => { q with prec := { q.prec with chans := (c.args.take p.prec.nch).map BitVec.toNat } }) 0)) := by
    rw [chanAssign, named_of hn, check_ok]
  refine ⟨fun h => refuses_of hw exec_chanAssign rfl ?_, fun he hr ha => ⟨fun hf => refuses_of hw exec_chanAssign rfl ?_,
    fun hf => ends_of hw exec_chanAssign rfl ?_ ?_
      (v := s.onPart pn fun q => { q with prec := { q.prec with chans := (c.args.take p.prec.nch).map BitVec.toNat } })⟩⟩
  · rw [heq, must_not (and_false_of fun h' => h.elim (fun h => h (beq_iff_eq.mp h'.1)) fun h => by simp [h] at h')]
    rfl
  · rw [heq, must_of (and_true_of ⟨beq_iff_eq.mpr he, hr⟩), check_ok, allows_of ha, check_ok, must_not hf]
    rfl
  · rw [heq, must_of (and_true_of ⟨beq_iff_eq.mpr he, hr⟩), check_ok, allows_of ha, check_ok, must_of hf, check_ok]
  · show (aget? (State.onPart _ pn _).parts pn).map _ = _
    rw [part_onPart hp]
    rfl

/-- The ports of a RATE.SET. -/
def Cmd.ports (c : Cmd) : List Nat := (upto 16).filter fun i => bit (c.nat 0 8) i

omit hn in
theorem mem_ports {i : Nat} : i ∈ c.ports ↔ i < 16 ∧ bit (c.nat 0 8) i = true := by
  simp [Cmd.ports, upto]

/-- A bucket takes a new rate. -/
def State.newRate (s : State) (rate : Nat) (b : Bucket) : Bucket :=
  { b.settle s.cycle with rate := rate, tokens := min (b.settle s.cycle).tokens (max rate 1024 * Config.cyclesPerMicro) }

/-- The partition has the rate on the ports. -/
def State.withRates (s : State) (pn rate : Nat) (ports : List Nat) : State :=
  let set (m : Assoc Bucket) (i : Nat) : Assoc Bucket := aalter m (Bucket.fresh i) (bucketKey pn i) (s.newRate rate)
  { s with fabric := { s.fabric with buckets := ports.foldl set s.fabric.buckets } }

theorem rateSet_outcomes (hw : Waits s buf c 0x0A) (hmask : c.nat 0 8 < 2 ^ 16) (ha : Allowed p 10)
    (hmin : p.policy.minrate ≤ c.nat 8 8) :
    ((∃ i < 16, bit (c.nat 0 8) i = true ∧ 100000 < s.ratesOn pn i + c.nat 8 8) → Refuses s (.rateSet buf) cRefused 0x23)
      ∧ ((∀ i < 16, bit (c.nat 0 8) i = true → s.ratesOn pn i + c.nat 8 8 ≤ 100000) → Completes s (.rateSet buf) fun u =>
          ∀ i < 16, bit (c.nat 0 8) i = true →
            (aget? u.fabric.buckets (bucketKey pn i)).map (fun y => y.rate) = some (c.nat 8 8)) := by
  have heq : rateSet s c = (do
      must (c.ports.all fun i => s.ratesOn pn i + c.nat 8 8 ≤ 100000) bad6
      .ok (.ok (s.withRates pn (c.nat 8 8) c.ports) 0)) := by
    rw [rateSet, must_of (beq_iff_eq.mpr (Nat.div_eq_of_lt hmask)), check_ok, named_of hn, check_ok]
    dsimp only
    rw [must_of (and_true_of ⟨ha, decide_eq_true hmin⟩), check_ok]
    rfl
  refine ⟨fun ⟨i, hi, hb, hx⟩ => refuses_of hw exec_rateSet rfl ?_, fun h =>
    ends_of (v := s.withRates pn (c.nat 8 8) c.ports) hw exec_rateSet rfl ?_ fun i hi hb => ?_⟩
  · rw [heq, must_not, bad6, check_error]
    rw [List.all_eq_false]
    exact ⟨i, mem_ports.mpr ⟨hi, hb⟩, by rw [decide_eq_true_eq]; omega⟩
  · rw [heq, must_of, check_ok]
    rw [List.all_eq_true]
    intro i hi
    obtain ⟨hi, hb⟩ := mem_ports.mp hi
    exact decide_eq_true (h i hi hb)
  · exact rates_set (f := fun _ => s.newRate (c.nat 8 8)) (fun _ _ => rfl) Bucket.fresh _ s.fabric.buckets (.inl (mem_ports.mpr ⟨hi, hb⟩))

/-! ## MAP.S2 -/

section
variable (hw : Waits s buf c 0x09) (hp : aget? s.parts pn = some p) (hf : MapFormed s c pn p) (ha : Allowed p 9)
include hw hp hf ha

omit hn in
theorem mapFabric_outcomes (h31 : bit (c.nat 0 32) 31 = true) (hg : c.gpa < 2 ^ 42) (h6 : field c.vfw 6 4 = 0)
    (h24 : field c.vfw 24 7 = 0) :
    (bit (c.nat 0 32) 200 = true → p.prec.covers c.poff (2 ^ c.log2) = true →
        (∀ y ∈ p.fmmu, y.1 = field c.vfw 0 6 ∨ y.2.schip ≠ field c.vfw 10 10 ∨ y.2.spart ≠ field c.vfw 20 4
          ∨ rangeMeets y.2.foff (2 ^ y.2.log2) c.gpa (2 ^ c.log2) = false) →
        Completes s (.mapS2 buf) fun u => (aget? u.parts pn).bind (fun q => aget? q.fmmu (field c.vfw 0 6))
          = some ⟨c.poff, c.gpa, field c.vfw 20 4, field c.vfw 10 10, c.log2⟩)
      ∧ (bit (c.nat 0 32) 200 = false → risesFrom none p.fmmu = true → Completes s (.mapS2 buf) fun u =>
          (aget? u.parts pn).bind (fun q => aget? q.fmmu (field c.vfw 0 6)) = none) := by
  have heq := mapS2_fabric hf h31 hg h6 h24
  refine ⟨fun hm hc hclash => ends_of hw exec_mapS2 rfl (heq.trans ?_) ?_
      (v := s.onPart pn fun q => { q with fmmu := aset q.fmmu (field c.vfw 0 6) ⟨c.poff, c.gpa, field c.vfw 20 4, field c.vfw 10 10, c.log2⟩ }),
    fun hm hr => ends_of hw exec_mapS2 rfl (heq.trans ?_) ?_
      (v := s.onPart pn fun q => { q with fmmu := aerase q.fmmu (field c.vfw 0 6) })⟩
  · rw [hm, mapFabric_maps ha hc hclash]
  · show (aget? (State.onPart _ pn _).parts pn).bind _ = _
    rw [part_onPart hp]
    exact aget?_aset_self _ _ _
  · rw [hm, mapFabric_unmaps ha]
  · show (aget? (State.onPart _ pn _).parts pn).bind _ = _
    rw [part_onPart hp]
    exact aget?_aerase_self hr _

omit hn in
theorem mapStageTwo_outcomes (h31 : bit (c.nat 0 32) 31 = false) (hg : c.gpa < 2 ^ 52) (hv : c.vfw < 128)
    (hvf : bit p.prec.vfmask c.vfw = true) (hsize : ∀ e ∈ s.metPages p c.vfw c.gpa c.log2, e.log2 ≤ c.log2) :
    (bit (c.nat 0 32) 200 = true → s.metPages p c.vfw c.gpa c.log2 = [] →
        (p.policy.s2alias = true ∨ ∀ e ∈ s.s2Entries p, rangeMeets e.poff (2 ^ e.log2) c.poff (2 ^ c.log2) = false) →
        (p.prec.covers c.poff (2 ^ c.log2) = false → Refuses s (.mapS2 buf) cRefused 0x23)
        ∧ (p.prec.covers c.poff (2 ^ c.log2) = true → s.changeTables pn p c.vfw c.gpa c.poff c.log2 [] true = none →
            Refuses s (.mapS2 buf) cRefused 0x23)
        ∧ (∀ t, p.prec.covers c.poff (2 ^ c.log2) = true → s.changeTables pn p c.vfw c.gpa c.poff c.log2 [] true = some t →
            Completes s (.mapS2 buf) fun u => u.mem = t.mem))
      ∧ (bit (c.nat 0 32) 200 = false → s.metPages p c.vfw c.gpa c.log2 = [] →
          Completes s (.mapS2 buf) fun u => u.mem = s.mem)
      ∧ (bit (c.nat 0 32) 200 = false → s.metPages p c.vfw c.gpa c.log2 ≠ [] → Starts s (.mapS2 buf) fun u =>
          (aget? u.parts pn).bind (fun q => q.invq.getLast?)
            = some { s2 := true, vf := some c.vfw, asid := none, base := c.gpa, len := 2 ^ c.log2, waiting := p.tiles,
                     notify := none }) := by
  have heq := mapS2_stageTwo hf h31 hg hv hvf
  refine ⟨fun hm hmet halias => ?_, fun hm hmet => ends_of hw exec_mapS2 rfl (heq.trans ?_) ?_
    (v := (s.answerPages p c.vfw c.gpa c.log2 true).refuseWaiting c.vfw (pageIn c.gpa c.log2)), fun hm hmet => ?_⟩
  · have hmap := mapStageTwo_maps (pn := pn) ha hmet halias
    rw [hm] at heq
    replace hmap := heq.trans hmap
    refine ⟨fun hc => refuses_of hw exec_mapS2 rfl (hmap.trans ?_), fun hc hx => refuses_of hw exec_mapS2 rfl (hmap.trans ?_),
      fun t hc hx => ends_of hw exec_mapS2 rfl (hmap.trans ?_) (answerPages_mem t p c.vfw c.gpa c.log2 false)⟩
    · rw [must_not hc]
      rfl
    · rw [must_of hc, check_ok, hx]
      rfl
    · rw [must_of hc, check_ok, hx]
  · rw [hm, mapStageTwo_unmaps_none ha hmet]
  · exact (refuseWaiting_mem _ _ _).trans (answerPages_mem _ _ _ _ _ _)
  · obtain ⟨u, q, hu, hq⟩ := mapStageTwo_unmaps (poff := c.poff) ha hmet hsize hp
    refine starts_of hw exec_mapS2 rfl (heq.trans (by rw [hm, hu])) ?_
    show (aget? (State.joinInval _ pn _ _ _ _).parts pn).bind _ = _
    rw [State.joinInval, part_onPart hq]
    exact List.getLast?_concat

end

/-! ## REPORT -/

theorem report_outcome (hw : Waits s buf c 0x20) :
    Ends s (.report buf) cOk 0 50368 fun u =>
      u.assay.hostOut = reportBody p (c.args.take 32) ++ fixedBytes 49856 (Config.identitySign (reportBody p (c.args.take 32)))
        ∧ u.parts = s.parts ∧ u.mem = s.mem := by
  refine ends_of hw exec_report rfl ?_ ⟨rfl, rfl, rfl⟩ (v := s.toHost _)
  rw [report, named_of hn, check_ok]

end

end

end Sys2Proof.Machine
end

section
/-!
PROOFS. Management registers, CERT, PRQ.READ, the halted partition, and the mailbox as a whole (R99, R104, R112, R113, R439).
-/

namespace Sys2Proof.Machine

-- Many small proofs side by side would each hold a thread of their own: they are elaborated one after another.
set_option Elab.async false

section
variable {s : State} {buf : Mbox} {c : Cmd} {r : MReg} {t v : Nat}

/-! ## Values of management registers -/

theorem mreg_not_emark (h : isEmark c = false) (hr : mregOf (c.nat 0 8) = some r) : ∀ t, r ≠ .emark t := by
  rintro t rfl
  simp [isEmark, hr] at h

theorem mreg_not_health (h : isHealth c = false) (hr : mregOf (c.nat 0 8) = some r) : ∀ t n, r ≠ .health t n := by
  rintro t n rfl
  simp [isHealth, hr] at h

/-- A routing entry with its LOST mark is an entry. -/
theorem markEntry_lt (f : Fabric) (h : v < 2 ^ 32) : f.markEntry v < 2 ^ 32 := by
  unfold Fabric.markEntry
  dsimp only
  split
  next hm =>
    have h30 : bit v 30 = false := by
      simp only [Bool.and_eq_true, Bool.not_eq_true'] at hm
      exact hm.1.1.1.2
    simp only [bit, beq_eq_false_iff_ne] at h30
    omega
  next => exact h

/-- A register other than EMARK and HEALTH reads as it was written, a routing entry with its mark. -/
theorem mread_mwrite (he : ∀ t, r ≠ .emark t) (hh : ∀ t n, r ≠ .health t n) (hv : s.mvalueOk r v = true) :
    (s.mwrite r v).mread r = match (generalizing := false) r with
      | .rtab _ => s.fabric.markEntry v
      | _ => v := by
  cases r with
  | rtab i =>
    have hlt : v < 2 ^ 32 := by
      simp only [State.mvalueOk, Bool.and_eq_true, decide_eq_true_eq] at hv
      exact hv.1.1.1
    show (aget (amap (aset s.fabric.rtab i (BitVec.ofNat 32 v)) fun _ e => BitVec.ofNat 32 (s.fabric.markEntry e.toNat)) 0 i).toNat = _
    rw [aget, aget?_amap, aget?_aset_self, Option.map_some, Option.getD_some, BitVec.toNat_ofNat, BitVec.toNat_ofNat,
      Nat.mod_eq_of_lt hlt, Nat.mod_eq_of_lt (markEntry_lt _ hlt)]
  | poolbase p => exact congrArg Prod.fst (aget_aset_self s.fabric.pools (0, 0) p _)
  | poollen p => exact congrArg Prod.snd (aget_aset_self s.fabric.pools (0, 0) p _)
  | flipwin => rfl
  | wlen => rfl
  | skew => rfl
  | scrub => rfl
  | hlhead => rfl
  | emark t => exact absurd rfl (he t)
  | health t n => exact absurd rfl (hh t n)
  | gencur => exact absurd hv Bool.false_ne_true
  | power => exact absurd hv Bool.false_ne_true
  | temp d => exact absurd hv Bool.false_ne_true
  | hostlog n w => exact absurd hv Bool.false_ne_true
  | hltail => exact absurd hv Bool.false_ne_true

/-- An engine that has failed is marked (R253). -/
theorem engineFailed_dead (s : State) (t : Nat) : ((s.engineFailed t).tile t).core.eng.dead = true := by
  have hmark (u : State) : ((u.onCore t fun k => { k with eng := { k.eng with running := none, dead := true } }).tile t).core.eng.dead
      = true := by rw [State.core_onCore_self]
  unfold State.engineFailed
  extract_lets k s1 s2 s3 _ s4
  clear_value s2
  have h3 : (s3.tile t).core.eng.dead = true := hmark s2
  clear_value s3
  have h4 : Orderly 3 s3 s4 := (Orderly.refl s3).logHost
  split
  · exact (((h4.mgmtEvent).tiles le_rfl t).dead).trans h3
  · exact ((h4.tiles le_rfl t).dead).trans h3

/-- A stored health record that is cleared gives 0 in every word: its SEQ makes up for the flushes (R459). -/
theorem cleared_bits (n : Nat) : ({ Counts.reset with seq := 2 ^ 32 - n % 2 ^ 32 + n } : Counts).bits = 0 := by
  have h : (2 ^ 32 - n % 2 ^ 32 + n) % 2 ^ 32 = 0 := by omega
  have hsum : ((upto 32).map fun i => aget ([] : Assoc Nat) 0 i % 2 ^ 16 * 2 ^ (16 * i)
      + aget ([] : Assoc Nat) 0 i % 2 ^ 16 * 2 ^ (512 + 16 * i)).sum = 0 := by
    simp [aget, aget?]
  simp only [Counts.bits, Counts.reset, h, hsum, Nat.zero_mod, Nat.zero_mul, Nat.add_zero,
    show BitVec.toNat (0 : BitVec 32) = 0 from rfl]

/-! ## MGMT.READ, MGMT.WRITE -/

theorem exec_mgmtRead : exec (.mgmtRead buf) s = mailbox 0x30 buf s (fun _ => true) mgmtRead := rfl
theorem exec_cert : exec (.cert buf) s = mailbox 0x21 buf s (fun _ => true) cert := rfl
theorem exec_prqRead : exec (.prqRead buf) s = mailbox 0x32 buf s (fun _ => true) prqRead := rfl
theorem exec_mgmtWrite :
    exec (.mgmtWrite buf) s = mailbox 0x31 buf s (fun c => !isEmark c && !isHealth c) (mgmtWrite State.mwrite) := rfl

/-- What a write of EMARK does. -/
def State.emarkWritten (s : State) (r : MReg) (v : Nat) : State :=
  match r with
  | .emark t =>
    let dead := (s.tile t).core.eng.dead
    if v = 1 then (if dead then s else s.engineFailed t)
    else s.onCore t fun k => { k with eng := { k.eng with dead := false } }
  | _ => s

/-- What a write of HEALTH does. -/
def State.healthWritten (s : State) (r : MReg) (_ : Nat) : State :=
  match r with
  | .health t 0 => s.onTile t fun v => { v with stored := { Counts.reset with seq := 2 ^ 32 - s.flushes % 2 ^ 32 }, counts := .reset }
  | _ => s

theorem emarkWritten_clears (s : State) (t : Nat) : ((s.emarkWritten (.emark t) 0).tile t).core.eng.dead = false := by
  show ((s.onCore t fun k => { k with eng := { k.eng with dead := false } }).tile t).core.eng.dead = false
  rw [State.core_onCore_self]

theorem emarkWritten_marks (s : State) (t : Nat) : ((s.emarkWritten (.emark t) 1).tile t).core.eng.dead = true := by
  show ((if (s.tile t).core.eng.dead = true then s else s.engineFailed t).tile t).core.eng.dead = true
  by_cases h : (s.tile t).core.eng.dead = true
  · rw [if_pos h, h]
  · rw [if_neg h, engineFailed_dead]

theorem healthWritten_clears (s : State) (t v : Nat) :
    ((s.healthWritten (.health t 0) v).tile t).counts = .reset ∧ ∀ k, (s.healthWritten (.health t 0) v).mread (.health t k) = 0 := by
  have htile : (s.healthWritten (.health t 0) v).tile t
      = { s.tile t with stored := { Counts.reset with seq := 2 ^ 32 - s.flushes % 2 ^ 32 }, counts := .reset } :=
    State.tile_onTile_self _ _ _
  refine ⟨congrArg Tile.counts htile, fun k => ?_⟩
  rw [State.mread, htile]
  show field ({ Counts.reset with seq := 2 ^ 32 - s.flushes % 2 ^ 32 + s.flushes } : Counts).bits (64 * k) 64 = 0
  rw [cleared_bits, field, Nat.zero_div, Nat.zero_mod]

theorem exec_emarkWrite : exec (.emarkWrite buf) s = mailbox 0x31 buf s isEmark (mgmtWrite State.emarkWritten) := rfl
theorem exec_healthWrite : exec (.healthWrite buf) s = mailbox 0x31 buf s isHealth (mgmtWrite State.healthWritten) := rfl

theorem mgmtWrite_refuses {f : State → MReg → Nat → State} (hr : mregOf (c.nat 0 8) = some r)
    (hv : s.mvalueOk r (c.nat 8 8) = false) : mgmtWrite f s c = .error (cRefused, 0x20) := by
  rw [mgmtWrite, hr]
  exact congrArg (· >>= _) (must_not hv)

theorem mgmtWrite_writes {f : State → MReg → Nat → State} (hr : mregOf (c.nat 0 8) = some r) (h0 : c.handle = 0)
    (hv : s.mvalueOk r (c.nat 8 8) = true) : mgmtWrite f s c = .ok (.ok (f s r (c.nat 8 8)) 0) := by
  rw [mgmtWrite, hr]
  dsimp only
  rw [must_of (by exact hv), check_ok, must_of (beq_iff_eq.mpr h0), check_ok]

theorem mgmtRead_outcomes (hw : Waits s buf c 0x30) (h0 : c.handle = 0) :
    (mregOf (c.nat 0 8) = none → Refuses s (.mgmtRead buf) cRefused 0x20)
      ∧ (mregOf (c.nat 0 8) = some r → Ends s (.mgmtRead buf) cOk 0 (word (s.mread r)) fun u => u.mem = s.mem) := by
  refine ⟨fun h => refuses_of hw exec_mgmtRead rfl ?_, fun h => ends_of (v := s.draw 1) hw exec_mgmtRead rfl ?_ rfl⟩
  · rw [mgmtRead, h]
    rfl
  · rw [mgmtRead, h, must_of (by rfl), check_ok, must_of (beq_iff_eq.mpr h0), check_ok]

theorem handled_refused (h0 : c.handle ≠ 0) :
    (Waits s buf c 0x21 → Refuses s (.cert buf) cRefused 0x21)
      ∧ (Waits s buf c 0x30 → mregOf (c.nat 0 8) ≠ none → Refuses s (.mgmtRead buf) cRefused 0x21) := by
  have hno := must_not (e := bad2) (beq_false_of_ne h0)
  refine ⟨fun hw => refuses_of hw exec_cert rfl ?_, fun hw h => refuses_of hw exec_mgmtRead rfl ?_⟩
  · rw [cert, hno]
    rfl
  · rw [mgmtRead, must_of (Option.isSome_iff_ne_none.mpr h), check_ok, hno]
    rfl

theorem mgmtWrite_outcomes (hw : Waits s buf c 0x31) (h0 : c.handle = 0) (hr : mregOf (c.nat 0 8) = some r)
    (he : isEmark c = false) (hh : isHealth c = false) :
    (s.mvalueOk r (c.nat 8 8) = false → Refuses s (.mgmtWrite buf) cRefused 0x20)
      ∧ (s.mvalueOk r (c.nat 8 8) = true → Completes s (.mgmtWrite buf) fun u => u.mread r = match (generalizing := false) r with
        | .rtab _ => s.fabric.markEntry (c.nat 8 8)
        | _ => c.nat 8 8) := by
  have hgo : (!isEmark c && !isHealth c) = true := by rw [he, hh]; rfl
  exact ⟨fun hv => refuses_of hw exec_mgmtWrite hgo (mgmtWrite_refuses hr hv), fun hv =>
    ends_of hw exec_mgmtWrite hgo (mgmtWrite_writes hr h0 hv) (mread_mwrite (mreg_not_emark he hr) (mreg_not_health hh hr) hv)⟩

theorem emarkWrite_outcomes (hw : Waits s buf c 0x31) (h0 : c.handle = 0) (hr : mregOf (c.nat 0 8) = some (.emark t)) :
    (c.nat 8 8 = 0 → Completes s (.emarkWrite buf) fun u => (u.tile t).core.eng.dead = false)
      ∧ (c.nat 8 8 = 1 → Completes s (.emarkWrite buf) fun u => (u.tile t).core.eng.dead = true)
      ∧ (1 < c.nat 8 8 → Refuses s (.emarkWrite buf) cRefused 0x20) := by
  have hgo : isEmark c = true := by rw [isEmark, hr]
  refine ⟨fun h => ends_of hw exec_emarkWrite hgo (mgmtWrite_writes hr h0 (by rw [h]; rfl)) ?_,
    fun h => ends_of hw exec_emarkWrite hgo (mgmtWrite_writes hr h0 (by rw [h]; rfl)) ?_,
    fun h => refuses_of hw exec_emarkWrite hgo (mgmtWrite_refuses hr (decide_eq_false (Nat.not_le.mpr h)))⟩
  · rw [h]
    exact emarkWritten_clears s t
  · rw [h]
    exact emarkWritten_marks s t

theorem healthWrite_outcome (hw : Waits s buf c 0x31) (h0 : c.handle = 0) (hr : mregOf (c.nat 0 8) = some (.health t 0)) :
    Completes s (.healthWrite buf) fun u => (u.tile t).counts = .reset ∧ ∀ k, u.mread (.health t k) = 0 := by
  have hgo : isHealth c = true := by rw [isHealth, hr]
  exact ends_of hw exec_healthWrite hgo (mgmtWrite_writes hr h0 rfl) (healthWritten_clears s t (c.nat 8 8))

/-! ## CERT, PRQ.READ -/

theorem cert_outcome (hw : Waits s buf c 0x21) (h0 : c.handle = 0) :
    Ends s (.cert buf) cOk 0 (word Config.certificateChain.length) fun u =>
      u.assay.hostOut = Config.certificateChain.take (c.nat 8 8) := by
  refine ends_of (v := s.toHost (Config.certificateChain.take (c.nat 8 8))) hw exec_cert rfl ?_ rfl
  rw [cert, must_of (beq_iff_eq.mpr h0), check_ok]

theorem prqRead_outcomes (hw : Waits s buf c 0x32) (h0 : c.handle = 0) :
    (128 ≤ c.nat 0 8 → Refuses s (.prqRead buf) cRefused 0x20)
      ∧ (c.nat 0 8 < 128 → Ends s (.prqRead buf) cOk 0 (word ((s.vf (c.nat 0 8)).prq.take (c.nat 16 8 / 16)).length) fun u =>
          u.assay.hostOut = ((s.vf (c.nat 0 8)).prq.take (c.nat 16 8 / 16)).flatMap fun y => leBytes 16 (y.bits (c.nat 0 8))) := by
  refine ⟨fun h => refuses_of hw exec_prqRead rfl ?_, fun h => ends_of hw exec_prqRead rfl ?_ rfl (v := s.toHost _)⟩
  · rw [prqRead, must_not (decide_eq_false (Nat.not_lt.mpr h))]
    rfl
  · rw [prqRead, must_of (decide_eq_true h), check_ok, must_of (beq_iff_eq.mpr h0), check_ok]
    rfl

end

end Sys2Proof.Machine
end

section
/-!
PROOFS. The halted partition (R439), and the mailbox as a whole.
-/

namespace Sys2Proof.Machine

-- Many small proofs side by side would each hold a thread of their own: they are elaborated one after another.
set_option Elab.async false

section
variable {s : State} {p : Part}

/-! ## The halted partition -/

/-- A partition whose tiles have halted is paused. -/
def State.pausedPart (s : State) (pn : Nat) (p : Part) : State :=
  (s.writeBackAll p).onPart pn fun p => { p with state := .paused, halt := none }

theorem partitionHalted_eq (s : State) : exec .partitionHalted s = match aget? s.parts s.cur.part with
    | none => .next s
    | some p =>
      match p.halt with
      | none => .next s
      | some why =>
        if !(p.tiles.all fun t => (s.tile t).haltDone s.cycle) || !(match why with
            | .evict _ _ => s.meshDrained s.cur.part p
            | _ => true) then .next s
        else
          match why, aget? ((if p.replay then s.replayPart s.cur.part else s).onTiles p Tile.halt).parts s.cur.part with
          | .evict relhbm _, some q =>
            .next (((if p.replay then s.replayPart s.cur.part else s).onTiles p Tile.halt).evictPart s.cur.part q relhbm)
          | .replay, some q =>
            .next (if q.state = .active then ((if p.replay then s.replayPart s.cur.part else s).onTiles p Tile.halt).resumePart s.cur.part
              else ((if p.replay then s.replayPart s.cur.part else s).onTiles p Tile.halt).onPart s.cur.part fun p => { p with halt := none })
          | .pause, some q =>
            .next ((((if p.replay then s.replayPart s.cur.part else s).onTiles p Tile.halt).pausedPart s.cur.part q).mailboxDone cOk 0 0)
          | _, some q => .next (((if p.replay then s.replayPart s.cur.part else s).onTiles p Tile.halt).pausedPart s.cur.part q)
          | _, none => .next ((if p.replay then s.replayPart s.cur.part else s).onTiles p Tile.halt) := by
  show execPartitionHalted s = _
  unfold execPartitionHalted State.pausedPart
  rfl

section
variable (hp : aget? s.parts s.cur.part = some p)
include hp

theorem partitionHalted_running (h : p.halt = none) : exec .partitionHalted s = .next s := by
  rw [partitionHalted_eq, hp]
  simp only [h]

theorem partitionHalted_waits (h : p.tiles.all (fun t => (s.tile t).haltDone s.cycle) = false) : exec .partitionHalted s = .next s := by
  rw [partitionHalted_eq, hp]
  simp only [h]
  cases p.halt <;> rfl

theorem onTiles_halt_part : aget? (s.onTiles p Tile.halt).parts s.cur.part = some p := by rw [onTiles_parts, hp]

theorem partitionHalted_pauses (hh : p.halt = some .pause) (hr : p.replay = false)
    (hd : p.tiles.all (fun t => (s.tile t).haltDone s.cycle) = true) :
    ∃ u, exec .partitionHalted s = .next u
      ∧ (aget? u.parts s.cur.part).map (fun q => (q.state, q.halt)) = some (.paused, none)
      ∧ u.assay.box.busy = false ∧ u.assay.box.code = cOk := by
  refine ⟨((s.onTiles p Tile.halt).pausedPart s.cur.part p).mailboxDone cOk 0 0, ?_, ?_, rfl, rfl⟩
  · rw [partitionHalted_eq, hp]
    simp only [hh, hr, hd, Bool.not_true, Bool.or_self, Bool.false_eq_true, if_false, onTiles_halt_part hp]
  · have h : Orderly 2 (s.onTiles p Tile.halt) ((s.onTiles p Tile.halt).writeBackAll p) := (Orderly.refl _).writeBackAll
    obtain ⟨q, hq, -⟩ := part_of_orderly h le_rfl (onTiles_halt_part hp)
    show (aget? (State.onPart _ s.cur.part _).parts s.cur.part).map _ = _
    rw [part_onPart hq]
    rfl

theorem partitionHalted_drains {rel : Bool} {n : Nat} (hh : p.halt = some (.evict rel n)) (hm : s.meshDrained s.cur.part p = false) :
    exec .partitionHalted s = .next s := by
  rw [partitionHalted_eq, hp]
  simp only [hh, hm, Bool.not_false, Bool.or_true, if_true]

theorem partitionHalted_evicts {rel : Bool} {n : Nat} (hh : p.halt = some (.evict rel n)) (hr : p.replay = false)
    (hd : p.tiles.all (fun t => (s.tile t).haltDone s.cycle) = true) (hm : s.meshDrained s.cur.part p = true) :
    ∃ u, exec .partitionHalted s = .next u
      ∧ (aget? u.parts s.cur.part).map (fun q => (q.state, q.halt, q.epoch, q.relHbm))
        = some (.evicted, none, (p.epoch + 1) % 2 ^ 32, rel)
      ∧ u.assay.box.busy = false ∧ u.assay.box.code = cOk ∧ u.assay.box.res = word (p.prec.blobLen rel)
      ∧ u.assay.hostOut.length = p.prec.blobLen rel := by
  refine ⟨(s.onTiles p Tile.halt).evictPart s.cur.part p rel, ?_, evictPart_evicts (onTiles_halt_part hp)⟩
  rw [partitionHalted_eq, hp]
  simp only [hh, hr, hd, hm, Bool.not_true, Bool.or_self, Bool.false_eq_true, if_false, onTiles_halt_part hp]

end

/-! ## PART.CREATE -/

theorem exec_partCreate {pre : Mbox} {sig : List Byte} :
    exec (.partCreate pre sig) s = mailbox 0x01 ⟨pre.bytes ++ sig⟩ s (fun _ => true) partCreate := rfl

theorem partCreate_outcomes {buf pre : Mbox} {sig : List Byte} {c : Cmd} (hw : Waits s buf c 0x01) (hb : pre.bytes ++ sig = buf.bytes) :
    (¬c.formed → Refuses s (.partCreate pre sig) cRefused 0x20)
      ∧ (c.formed → c.handle ≠ 0 → Refuses s (.partCreate pre sig) cRefused 0x21)
      ∧ (c.formed → c.handle = 0 → ¬c.signed → Refuses s (.partCreate pre sig) cPolicy 1)
      ∧ (c.formed → c.handle = 0 → c.signed → ¬c.permitted → Refuses s (.partCreate pre sig) cPolicy 0)
      ∧ (c.formed → c.handle = 0 → c.signed → c.permitted → ¬s.hasPlaces c.record → Refuses s (.partCreate pre sig) cRefused 0x23)
      ∧ (c.formed → c.handle = 0 → c.signed → c.permitted → s.hasPlaces c.record → ∃ w, Ends s (.partCreate pre sig) cOk 0 w fun u =>
          (aget? u.parts c.record.pnum).map (fun q => (q.prec, q.policy, q.handle, q.state, q.epoch))
              = some (c.record, c.policy, w, .active, 0)
            ∧ u.assay.drawn = w :: s.assay.drawn
            ∧ (Config.freeHandle s.free ≠ 0 → ¬Config.freeHandle s.free ∈ s.assay.drawn → w = Config.freeHandle s.free)) := by
  have hx : exec (.partCreate pre sig) s = mailbox 0x01 buf s (fun _ => true) partCreate := by
    rw [exec_partCreate, hb]
  refine ⟨fun hf => refuses_of hw hx rfl (partCreate_illformed hf), fun hf hh => refuses_of hw hx rfl (partCreate_handled hf hh),
    fun hf hh hs => refuses_of hw hx rfl (partCreate_unsigned hf hh hs),
    fun hf hh hs hp => refuses_of hw hx rfl (partCreate_forbidden hf hh hs hp),
    fun hf hh hs hp hl => refuses_of hw hx rfl (partCreate_misplaced hf hh hs hp hl), fun hf hh hs hp hl => ?_⟩
  obtain ⟨hpart, hdrawn⟩ := created_part (s := s) c.record c.policy
    (freshHandle s.assay.drawn (s.assay.drawn.length + 2) (Config.freeHandle s.free))
  exact ⟨_, ends_of hw hx rfl (partCreate_creates hf hh hs hp hl) ⟨hpart, hdrawn, fun h0 h => freshHandle_first h0 h⟩⟩

end

/-! ## The mailbox as a whole -/

/-- Settles O57. -/
theorem mailboxCommands : Obligations.MailboxCommands := by
  unfold Obligations.MailboxCommands
  intro s buf pre sig h c blob p pn x r n rel b part ends ok refused starts allowed
  refine ⟨fun hbusy hfresh hh => ⟨fun hbad => ?_, ?_⟩, fun hidle => ⟨(exec_partPause).trans (mailbox_idle hidle),
    (exec_report).trans (mailbox_idle hidle)⟩, fun hp => ⟨partitionHalted_running hp, fun _ hd => partitionHalted_waits hp hd,
    partitionHalted_pauses hp, fun hh hr hd => ⟨partitionHalted_drains hp hh, partitionHalted_evicts hp hh hr hd⟩⟩⟩
  · exact ⟨_, (exec_partPause).trans (mailbox_header hbusy hfresh (hh ▸ hbad)), rfl, rfl, rfl, rfl, rfl, rfl⟩
  · subst hh
    intro hgood hcmd op named
    have hw : Waits s buf c op := ⟨hbusy, hfresh, hgood, hcmd, rfl⟩
    clear_value op
    refine ⟨?_, fun hn hhalt => ?_, fun hn hp hhalt => ⟨?_, ?_, ?_, ?_, ?_, ?_, ?_, ?_, ?_, ?_⟩, fun h0 => ⟨?_, ?_⟩,
      fun h0 => ⟨?_, ?_, ?_, ?_⟩⟩
    · rintro rfl hb
      exact partCreate_outcomes hw hb
    · obtain ⟨h2, h3, h6, h7, h8, h20⟩ := unnamed_refused (buf := buf) hn hhalt
      exact ⟨fun h => h2 (h ▸ hw), fun h => h3 (h ▸ hw), fun h => h6 (h ▸ hw), fun h => h7 (h ▸ hw), fun h => h8 (h ▸ hw),
        fun h => h20 (h ▸ hw)⟩
    · rintro rfl
      exact pause_outcomes hn hw hp hhalt
    · rintro rfl
      exact resume_outcomes hn hw hp hhalt
    · rintro rfl h0 hr he ha hrel hmax
      exact evict_outcomes hn hw hp hhalt h0 hr he ha hrel hmax
    · rintro rfl h0 he hb ha new hpl hch
      exact restore_outcomes hn hw hp h0 he hb ha hpl hch
    · rintro rfl
      exact destroy_outcomes hn hw
    · rintro rfl
      exact vfAssign_outcomes hn hw hp hhalt
    · rintro rfl
      exact chanAssign_outcomes hn hw hp
    · rintro rfl m vfw gpa poff log2 i all met hz hal hbk he ha
      have hf : MapFormed s c pn p := ⟨hz, hal, hbk, named_of hn, he⟩
      exact ⟨fun h31 hg h6 h24 => mapFabric_outcomes hw hp hf ha h31 hg h6 h24,
        fun h31 hg hv hvf hsz => mapStageTwo_outcomes hw hp hf ha h31 hg hv hvf hsz⟩
    · rintro rfl mask rate hmask ha hmin
      exact rateSet_outcomes hn hw hmask ha hmin
    · rintro rfl body
      exact report_outcome hn hw
    · rintro rfl
      exact (handled_refused h0).1 hw
    · rintro rfl
      exact (handled_refused h0).2 hw
    · rintro rfl
      exact cert_outcome hw h0
    · rintro rfl
      exact mgmtRead_outcomes hw h0
    · rintro rfl hr v
      refine ⟨fun he hh => mgmtWrite_outcomes hw h0 hr he hh, ?_, ?_⟩
      · rintro rfl
        exact emarkWrite_outcomes hw h0 hr
      · rintro rfl
        exact healthWrite_outcome hw h0 hr
    · rintro rfl vf l
      exact prqRead_outcomes hw h0

end Sys2Proof.Machine
end

section
/-!
PROOFS. The other changes of the state that instructions and events make keep memory canonical: operands, memory, messages, the network.
-/

namespace Sys2Proof.Machine

-- Many small proofs side by side would each hold a thread of their own: they are elaborated one after another.
set_option Elab.async false

namespace Orderly

variable {a s u : State}

/-- The first part of a pair that an equation names. -/
theorem of_fst {β : Type} {x : State × β} {y : β} (h : Orderly 0 a x.1) (hx : x = (u, y)) : Orderly 0 a u := by
  subst hx
  exact h

/-- The state of a pair comes by orderly changes. -/
def Pair {β : Type} (a : State) (x : State × β) : Prop := Orderly 0 a x.1

theorem Pair.ite {β : Type} {c : Prop} [Decidable c] {x y : State × β} (hx : c → Pair a x) (hy : ¬c → Pair a y) :
    Pair a (if c then x else y) := by
  split
  · exact hx ‹_›
  · exact hy ‹_›

theorem Pair.foldl {α β : Type} {f : State × β → α → State × β} (hf : ∀ x y, Pair a x → Pair a (f x y)) (l : List α)
    {x : State × β} (h : Pair a x) : Pair a (l.foldl f x) := by
  induction l generalizing x with
  | nil => exact h
  | cons y l ih => exact ih (hf x y h)

theorem Pair.mk {β : Type} {y : β} (h : Orderly 0 a s) : Pair a (s, y) := h

theorem getD {o : Option State} (h : Orderly 0 a s) (ho : ∀ {v}, o = some v → Orderly 0 a v) : Orderly 0 a (o.getD s) := by
  cases o with
  | none => exact h
  | some v => exact ho rfl

/-! ## Base -/

theorem setTile {t : Nat} {v : Tile} (h : Orderly 0 a s) : Orderly 0 a (s.setTile t v) := h.of_mem

/-! ## Ops -/

theorem countUncorr {w : Who} {t : Trap} (h : Orderly 0 a s) : Orderly 0 a (s.countUncorr w t) := .ite (fun _ => h.countMemory) fun _ => h

theorem dropHere {w : Who} {c : Cap} (h : Orderly 0 a s) : Orderly 0 a (s.dropHere w c) := h.giveUp

theorem dropC15 {w : Who} (h : Orderly 0 a s) : Orderly 0 a (s.dropC15 w) := by
  unfold State.dropC15
  split
  · exact h.dropHere
  · exact h

theorem passFault {w : Who} {t : Trap} (h : Orderly 0 a s) : Orderly 0 a (s.passFault w t) := by
  unfold State.passFault
  extract_lets s1
  have h1 : Orderly 0 a s1 := h.countUncorr
  exact h1.contain (by decide)

theorem takeTrap {w : Who} {t : Trap} (h : Orderly 0 a s) : Orderly 0 a (s.takeTrap w t) := by
  unfold State.takeTrap
  extract_lets _ s1 _ s2
  have h1 : Orderly 0 a s1 := h.countUncorr
  have h2 : Orderly 0 a s2 := h1.putBytes
  exact .ite (fun _ => h2.dropC15.onCtx) fun _ => h.passFault

theorem returnFromTrap {w : Who} {k : Nat} (h : Orderly 0 a s) : Orderly 0 a (s.returnFromTrap w k) := h.dropC15.onCtx

theorem nextPc (h : Orderly 0 a s) : Orderly 0 a s.nextPc := h.of_mem

theorem issueHold {n : Nat} (h : Orderly 0 a s) : Orderly 0 a (s.issueHold n) := h.of_mem

theorem clearResume (h : Orderly 0 a s) : Orderly 0 a s.clearResume := h.of_mem

theorem stalled (h : Orderly 0 a s) : Orderly 0 a s.stalled := h.of_mem

theorem validated {t part : Nat} {c : Cap} (h : Orderly 0 a s) : Orderly 0 a (s.validated t part c) := h.of_mem

theorem dropValidation {t : Nat} {c : Cap} (h : Orderly 0 a s) : Orderly 0 a (s.dropValidation t c) := h.of_mem

theorem pageRequest {vf gpa acc : Nat} (h : Orderly 0 a s) : Orderly 0 a (s.pageRequest vf gpa acc) := by
  unfold State.pageRequest
  extract_lets _ _ _ _ _
  exact .ite (fun _ => h) fun _ => h.of_mem

theorem markRead {cap : Option Cap} {a' n : Nat} (h : Orderly 0 a s) : Orderly 0 a (s.markRead cap a' n) := by
  unfold State.markRead
  split
  · exact .ite (fun _ => h.onCtx) fun _ => h
  · exact h

theorem remember {u' : Undo} (h : Orderly 0 a s) : Orderly 0 a (s.remember u') := .ite (fun _ => h.of_mem) fun _ => h

/-! ## Flags -/

theorem putInt {d : Reg} {v : Int} (h : Orderly 0 a s) : Orderly 0 a (s.putInt d v) := h.of_mem

theorem putPattern {d : Reg} {t : Ty} {p : Nat} (h : Orderly 0 a s) : Orderly 0 a (s.putPattern d t p) := h.of_mem

theorem putFloat {d : Reg} {r : Res} (h : Orderly 0 a s) : Orderly 0 a (s.putFloat d r) := h.of_mem

theorem putPred {d : Preg} {b' : Bool} (h : Orderly 0 a s) : Orderly 0 a (s.putPred d b') := h.of_mem

/-! ## MemCap -/

theorem setV {d : Vreg} {v : View} (h : Orderly 0 a s) : Orderly 0 a (s.setV d v) := h.of_mem

theorem rememberEntry {c : Cap} {tokens : Int} {old : CtEntry} (h : Orderly 0 a s) :
    Orderly 0 a (s.rememberEntry c tokens old) := h.remember

theorem cancelBuffer {tiles : List Nat} {key : Nat} (h : Orderly 0 a s) :
    Orderly 0 a (s.cancelBuffer tiles key) := .foldl (fun _ _ h => h.onLocal) _ h

theorem startReclaim {key : Nat} {caller : Caller} (h : Orderly 0 a s) : Orderly 0 a (s.startReclaim key caller) := by
  unfold State.startReclaim
  extract_lets _ _ s1
  have h1 : Orderly 0 a s1 := .ite (fun _ => h.cancelBuffer.rollReaders) fun _ => h
  exact h1.onCt

/-! ## Net -/

theorem taken (h : Orderly 0 a s) : Orderly 0 a s.taken := h.of_mem

theorem heldBack {p : Packet} (h : Orderly 0 a s) : Orderly 0 a (s.heldBack p) := h.of_mem

theorem takeMessage {p : Packet} (h : Orderly 0 a s) (hu : s.takeMessage p = some u) : Orderly 0 a u := by
  unfold State.takeMessage at hu
  split at hu
  · exact h.message hu
  · injection hu with hu
    exact hu ▸ h.onSupv
  · injection hu with hu
    exact hu ▸ h

theorem spawnRefused {p : Packet} {rec' sub : Nat} (h : Orderly 0 a s) : Orderly 0 a (s.spawnRefused p rec' sub) := h.contain (by decide)

theorem takeSpawn {p : Packet} {img : RecImage} {words : List Word} {rec' : Nat} (h : Orderly 0 a s)
    (hu : s.takeSpawn p img words rec' = some u) : Orderly 0 a u := by
  unfold State.takeSpawn at hu
  dsimp only at hu
  split at hu
  · injection hu with hu
    exact hu ▸ h.logPacket
  · split at hu
    · injection hu with hu
      exact hu ▸ h.spawnRefused
    · split at hu
      · injection hu with hu
        exact hu ▸ h.spawnRefused
      · exact h.createTask hu

theorem takeIncrement {p : Packet} {i amount : Nat} {own : Bool} (h : Orderly 0 a s) : Orderly 0 a (s.takeIncrement p i amount own) := by
  unfold State.takeIncrement
  extract_lets _
  exact .ite (fun _ => h.logPacket) fun _ => h.incCtr

theorem landWrite {t y : Nat} {v : Word} (h : Orderly 0 a s) :
    Orderly 0 a (s.landWrite t y v) := .ite (fun _ => h.onLocal) fun _ => h.setLand

theorem landWrites {t y : Nat} {l : List Word} (h : Orderly 0 a s) : Orderly 0 a (s.landWrites t y l).1 := by
  induction l generalizing s y with
  | nil => exact h
  | cons v vs ih =>
    unfold State.landWrites
    split
    · exact h
    · exact ih h.landWrite

theorem putBack {p : Packet} (h : Orderly 0 a s) : Orderly 0 a (s.putBack p) := h.of_mem

theorem landOr {p : Packet} {y : Nat} {vals : List Word} {rest : Nat → List Word → Body} (h : Orderly 0 a s) :
    Orderly 0 a (s.landOr p y vals rest) := by
  unfold State.landOr
  split
  next s1 hx => exact h.landWrites.of_fst hx
  next s1 v vs hx => exact (h.landWrites.of_fst hx).putBack

theorem applyHeld {t : Nat} (h : Orderly 0 a s) : Orderly 0 a (s.applyHeld t) := by
  unfold State.applyHeld
  extract_lets _
  split
  · split
    · exact h.onLocal.setLand
    · exact h
  · exact h

theorem applyAllHeld (h : Orderly 0 a s) : Orderly 0 a s.applyAllHeld := .foldl (fun _ _ h => .foldl (fun _ _ h => h.applyHeld) _ h) _ h

theorem agentWrite {p : Packet} {v : AgentView} {cap : Cap} {a' : Nat} {bs : List Byte} (h : Orderly 0 a s) :
    Orderly 0 a (s.agentWrite p v cap a' bs) := by
  unfold State.agentWrite
  split
  · exact h.perform
  · exact h.putBytes.eccWrite

theorem logOp {p : Packet} {v : AgentView} {cap : Cap} {off code sub : Nat} {a0 : Word} (h : Orderly 0 a s) :
    Orderly 0 a (s.logOp p v cap off code sub a0) := by
  unfold State.logOp
  extract_lets _ _
  exact h.logFault

theorem enqueueNode {p : Packet} {v : AgentView} {cap : Cap} {hdr node : Nat} (h : Orderly 0 a s) :
    Orderly 0 a (s.enqueueNode p v cap hdr node).1 := by
  unfold State.enqueueNode
  dsimp only
  split
  · exact h
  · split
    · dsimp only
      exact (Orderly.ite (fun _ => h.agentWrite.agentWrite) fun _ => h.agentWrite.agentWrite).agentWrite
    · exact h

theorem chase {p : Packet} {v : AgentView} {cap : Cap} {n off : Nat} (h : Orderly 0 a s) : Orderly 0 a (s.chase p v cap n off).1 := by
  induction n generalizing s off with
  | zero => exact h
  | succ n ih =>
    unfold State.chase
    split
    · exact h
    · split
      next hx => exact h.eccRead.of_fst hx
      next hx =>
        have h1 := h.eccRead.of_fst hx
        dsimp only
        split
        · exact h1
        · exact ih h1

theorem applyOp {p : Packet} {v : AgentView} {fn fmt off x : Nat} {cap : Cap} {args : List Word} (h : Orderly 0 a s) :
    Orderly 0 a (s.applyOp p v fn fmt cap off args x).1 := by
  unfold State.applyOp
  extract_lets arg m logged
  have hl {r : State × Word × Option (Nat × Nat)} (h : Orderly 0 a r.1) : Orderly 0 a (logged r).1 := by
    unfold logged
    split
    · exact h.logOp
    · exact h
  split
  · split
    · exact h.agentWrite
    · exact h.logOp
  · exact .ite (fun _ => h.agentWrite) fun _ => h
  · exact hl h.enqueueNode
  · exact hl h.chase
  · exact h.agentWrite

theorem sendResult {p : Packet} {v : AgentView} {ret : Option LandAt} {vals : List Word} (h : Orderly 0 a s) :
    Orderly 0 a (s.sendResult p v ret vals) := by
  unfold State.sendResult
  split
  · extract_lets _ _
    exact h.sendPkt
  · exact h

theorem agentStep {p : Packet} {v : AgentView} {fn fmt off : Nat} {cap : Cap} {args : List Word} {ret : Option LandAt}
    (h : Orderly 0 a s) : Orderly 0 a (s.agentStep p v fn fmt cap off args ret) := by
  unfold State.agentStep
  dsimp only
  split
  · exact h.logOp.sendResult
  · split
    next hx => exact (h.eccRead.of_fst hx).logOp.draw.sendResult
    next hx => exact (h.eccRead.of_fst hx).applyOp.sendResult

end Orderly

end Sys2Proof.Machine
end

section
/-!
PROOFS. The other changes of the state, of the steward and its moves, of streams, collectives and the schedule, keep memory canonical.
-/

namespace Sys2Proof.Machine

-- Many small proofs side by side would each hold a thread of their own: they are elaborated one after another.
set_option Elab.async false

namespace Orderly

variable {a s u : State}

/-! ## Steward -/

theorem onStw {f : Steward → Steward} (h : Orderly 0 a s) : Orderly 0 a (s.onStw f) := h.of_mem

theorem stwRemember (h : Orderly 0 a s) : Orderly 0 a s.stwRemember := .ite (fun _ => h.of_mem) fun _ => h

theorem stwAdvance {len : Nat} (h : Orderly 0 a s) : Orderly 0 a (s.stwAdvance len) := h.of_mem

theorem rememberKick {t e : Nat} {k : Kick} (h : Orderly 0 a s) :
    Orderly 0 a (s.rememberKick t e k) := .ite (fun _ => h.of_mem) fun _ => h

theorem claimKick {e : Nat} {k : Kick} (h : Orderly 0 a s) : Orderly 0 a (s.claimKick e k) := h.rememberKick.onLocal

theorem releaseKick {t e : Nat} {send : State → Nat → Nat → Nat → Cap → State} (h : Orderly 0 a s)
    (hs : ∀ {v p k t c}, Orderly 0 a v → Orderly 0 a (send v p k t c)) : Orderly 0 a (s.releaseKick t e send) := by
  unfold State.releaseKick
  split
  · exact h
  · extract_lets s1
    have h1 : Orderly 0 a s1 := h.rememberKick.onLocal
    split
    · exact hs h1
    · exact h1

theorem wake {rd : Reg} (h : Orderly 0 a s) (hu : s.wake rd = some u) : Orderly 0 a u := by
  unfold State.wake at hu
  rw [Option.map_eq_some_iff] at hu
  obtain ⟨e, -, hu⟩ := hu
  exact hu ▸ h.claimKick.onStw

theorem startOp {kind : EngKind} {rd : Reg} {kslot len : Nat} {kregs : List Nat} (h : Orderly 0 a s)
    (hu : startOp s kind rd kslot kregs len = .ok u) : Orderly 0 a u := by
  unfold Machine.startOp at hu
  dsimp only at hu
  split at hu
  · exact nomatch hu
  · injection hu with hu
    subst hu
    exact h.of_mem

theorem builtinTurn (h : Orderly 0 a s) : Orderly 0 a s.builtinTurn := by
  unfold State.builtinTurn
  split
  · extract_lets t free
    have hf {v : State} (h : Orderly 0 a v) : Orderly 0 a (free v) := h.rememberKick.onLocal
    split
    · exact hf h
    · refine .ite (fun _ => (hf h).sendPath) fun _ => ?_
      split
      next v hv => exact hf (h.stwRemember.startOp hv)
      next => exact h
  · exact h

/-! ## Moves -/

theorem setOp {o : EngOp} (h : Orderly 0 a s) : Orderly 0 a (s.setOp o) := h.of_mem

theorem finishOp {o : EngOp} {code sub done : Nat} (h : Orderly 0 a s) : Orderly 0 a (s.finishOp o code sub done) := h.of_mem

theorem engineAt {c : Option KCap} {off n : Nat} {acc : Access} (h : Orderly 0 a s) : Orderly 0 a (s.engineAt c off n acc).1 := by
  unfold State.engineAt
  dsimp only
  split
  · exact h
  · split
    · exact h
    · exact h
    · exact h
    · exact h
    · split
      · split
        next hx =>
          have h1 := h.of_mem.translate.of_fst hx
          split
          · exact h1
          · split <;> exact h1
        next hx => exact h.of_mem.translate.of_fst hx
        next hx => exact (h.of_mem.translate.of_fst hx).pageRequest
      · split <;> exact h.of_mem

theorem engineAsk {o : EngOp} {a' : Ask} (h : Orderly 0 a s) : Orderly 0 a (s.engineAsk o a') := h.of_mem

theorem engineStop {o : EngOp} {start : Nat} {l : BurstAt} (h : Orderly 0 a s) : Orderly 0 a (s.engineStop o start l).1 := by
  unfold State.engineStop
  split
  · dsimp only
    exact h.setOp
  · dsimp only
    exact h.setOp
  · exact h
  · exact h

theorem burstRead {o : EngOp} {src : Option KCap} {off n fuel got : Nat} {ps : List BurstPart} (h : Orderly 0 a s) :
    Orderly 0 a (s.burstRead o src off n fuel got ps).1 := by
  induction fuel generalizing s got ps with
  | zero => exact h
  | succ fuel ih =>
    unfold State.burstRead
    split
    · exact h
    · extract_lets x
      split
      next hx =>
        have h1 := h.engineAt.of_fst hx
        dsimp only
        split
        next hy => exact (h1.eccRead.of_fst hy).engineStop
        next hy => exact ih (h1.eccRead.of_fst hy)
      next hx => exact ih (h.engineAt.of_fst hx).engineAsk
      next hx => exact (h.engineAt.of_fst hx).engineAsk
      next hx => exact (h.engineAt.of_fst hx).engineStop

theorem burstWrite {o : EngOp} {f : Flight} {dst : Option KCap} {off : Nat} {bs : List Byte} (h : Orderly 0 a s) :
    Orderly 0 a (s.burstWrite o f dst off bs).1 := by
  unfold State.burstWrite
  split
  next hx =>
    have h1 := h.engineAt.of_fst hx
    split
    · exact h1.perform.setOp
    · exact h1
  next hx => exact (h.engineAt.of_fst hx).engineAsk.setOp
  next hx => exact (h.engineAt.of_fst hx).engineAsk.setOp
  next hx => exact (h.engineAt.of_fst hx).engineStop

theorem slotWrite {t id i : Nat} {src : Place} {bs : List Byte} (h : Orderly 0 a s) (hu : s.slotWrite t src id i bs = .ok u) :
    Orderly 0 a u := by
  unfold State.slotWrite at hu
  split at hu
  · exact nomatch hu
  · split at hu
    · exact nomatch hu
    · split at hu
      · injection hu with hu
        exact hu ▸ h.perform.onDelivery
      · exact nomatch hu
      · exact nomatch hu

theorem enginePacket {o : EngOp} {vn len : Nat} {dst : Place} {b' : Body} (h : Orderly 0 a s) :
    Orderly 0 a (s.enginePacket o vn dst len b') := by
  unfold State.enginePacket
  extract_lets _ _ _
  exact h.sendPkt

theorem deliverBurst {o : EngOp} {f : Flight} {dest : Place} {bs : List Byte} (h : Orderly 0 a s) :
    Orderly 0 a (s.deliverBurst o f dest bs).1 := by
  unfold State.deliverBurst
  split
  · split
    · split
      next hv => exact (h.slotWrite hv).setOp
      next => exact h.engineStop
    · exact h
  · exact h.of_mem.enginePacket.setOp

theorem inFlight {c : Option KCap} {dst : Place} (h : Orderly 0 a s) : Orderly 0 a (s.inFlight c dst) := by
  unfold State.inFlight
  split
  · exact h.setOwner
  · exact h

theorem engineOut {o : EngOp} {f : Flight} {bs : List Byte} (h : Orderly 0 a s) : Orderly 0 a (s.engineOut o f bs).1 := by
  unfold State.engineOut
  split
  · exact h.burstWrite
  · exact h.burstWrite
  · exact h.deliverBurst
  · exact h

theorem engineIn {o : EngOp} (h : Orderly 0 a s) : Orderly 0 a (s.engineIn o).1 := by
  unfold State.engineIn
  split
  · exact h.burstRead
  · exact h.burstRead
  · exact h
  · exact h

theorem engineBurst {o : EngOp} {fresh : Bool} (h : Orderly 0 a s) : Orderly 0 a (s.engineBurst o fresh).1 := by
  unfold State.engineBurst
  split
  · exact h.engineOut
  · split
    · exact h
    · split
      next hx =>
        have h1 := h.engineIn.of_fst hx
        dsimp only
        split
        · split
          · exact h1.setOp.engineOut
          · exact h1.setOp
        · exact h1.setOp
      next => exact h.engineIn

theorem engineStep {o : EngOp} {fresh : Bool} (h : Orderly 0 a s) : Orderly 0 a (s.engineStep o fresh).1 := by
  unfold State.engineStep
  dsimp only
  split
  · exact h.engineBurst
  · exact h.engineBurst
  · split
    · exact h
    · split
      · exact h
      · dsimp only
        exact h.enginePacket.setOp
    · exact h.engineBurst
  · split
    · exact h
    · split
      · exact h
      · dsimp only
        exact h.inFlight.enginePacket.setOp
  · exact h
  · exact h

theorem pageAnswered {o : EngOp} {vf page start : Nat} (h : Orderly 0 a s) :
    Orderly 0 a (s.pageAnswered o vf page start) := .ite (fun _ => h.setOp) fun _ => .ite (fun _ => h) fun _ => h.setOp

theorem releaseK {o : EngOp} (h : Orderly 0 a s) : Orderly 0 a (s.releaseK o) := by
  unfold State.releaseK
  extract_lets _
  refine .foldl (fun _ _ h => ?_) _ h
  split
  · exact .ite (fun _ => h.onStw.letKill) fun _ => h
  · exact h

theorem returnCopy {k : KCap} {pslot reason : Nat} (h : Orderly 0 a s) : Orderly 0 a (s.returnCopy k pslot reason) := by
  unfold State.returnCopy
  extract_lets _
  split
  · exact h
  · exact .ite (fun _ => h.letKill) fun _ => h.parkCap

theorem endDelivery {o : EngOp} {k : KCap} {pslot : Nat} {dest : Place} {noticed : Bool} {kind' : EngKind} (h : Orderly 0 a s) :
    Orderly 0 a (s.endDelivery o k pslot dest noticed kind') := by
  unfold State.endDelivery
  extract_lets st here finish
  have hf {v : State} (h : Orderly 0 a v) : Orderly 0 a (finish v) := h.finishOp.returnCopy
  split
  · split
    · exact hf h.onDelivery
    · exact hf h
  · refine .ite (fun _ => hf h) fun _ => ?_
    split
    · exact .ite (fun _ => hf h.enginePacket) fun _ => h.enginePacket.setOp
    · exact h.enginePacket.setOp

theorem endGive {o : EngOp} {k : KCap} {slot : Nat} (h : Orderly 0 a s) : Orderly 0 a (s.endGive o k slot) := by
  unfold State.endGive
  extract_lets _ _ _ s1
  have h1 : Orderly 0 a s1 := .ite (fun _ => h.finishOp) fun _ => h.finishOp
  split
  · exact h.finishOp
  · exact .ite (fun _ => h1.letKill) fun _ => h1.parkCap

theorem answerSlots {t id : Nat} {src : Place} {slots : Option (Nat × Nat × Nat)} (h : Orderly 0 a s) :
    Orderly 0 a (s.answerSlots t src id slots) := .ite (fun _ => h.onOp) fun _ => h.send

theorem grantNext {t r : Nat} (h : Orderly 0 a s) : Orderly 0 a (s.grantNext t r) := by
  unfold State.grantNext
  split
  · exact h
  · split
    · exact h
    · refine .ite (fun _ => ?_) fun _ => h
      extract_lets first s1 s2
      have h2 : Orderly 0 a s2 := h.onLocal.onDelivery
      split
      · exact h2.answerSlots
      · extract_lets s3
        have h3 : Orderly 0 a s3 := by
          unfold s3
          split
          next v hv => exact h2.slotWrite hv
          next => exact h2
        exact h3.onDelivery

theorem addDelivery {t r : Nat} {d : Delivery} (h : Orderly 0 a s) : Orderly 0 a (s.addDelivery t r d) := h.onLocal.grantNext

theorem takeSlotRequest {p : Packet} {id ch bytes : Nat} {x2 : Word} (h : Orderly 0 a s) :
    Orderly 0 a (s.takeSlotRequest p id ch bytes x2) := by
  unfold State.takeSlotRequest
  extract_lets t l r0 ring
  clear_value ring
  split
  · exact h.answerSlots
  · exact h.addDelivery

theorem announce {t r : Nat} (h : Orderly 0 a s) : Orderly 0 a (s.announce t r) := by
  unfold State.announce
  split
  · exact h
  · split
    · exact h
    · exact .ite (fun _ => .ite (fun _ => h.onLocal.incCtr) fun _ => h.onLocal.incCtr.sendPkt) fun _ => h

theorem takeRecord {p : Packet} {dest : RecordDest} {v st mask : Word} (h : Orderly 0 a s) :
    Orderly 0 a (s.takeRecord p dest v st mask) := by
  unfold State.takeRecord
  split
  · exact h.landOr
  · split
    · exact h.of_mem.addDelivery
    · exact h.logPacket

theorem contribClosed {h' : Word} {i : Nat} (h : Orderly 0 a s) : Orderly 0 a (s.contribClosed h' i) := h.of_mem

/-! ## Stream -/

theorem laneCount {slice n : Nat} {confirmed : Bool} (h : Orderly 0 a s) : Orderly 0 a (s.laneCount slice n confirmed) := h.of_mem

theorem laneDone {l : Assoc Shadow} {pass next : Nat} (h : Orderly 0 a s) : Orderly 0 a (laneDone l pass next s) := by
  unfold Machine.laneDone
  refine .ite (fun _ => h) fun _ => ?_
  split
  · exact h.laneCount
  · exact h

/-! ## Vector -/

theorem putElem {d : Reg} {u' : Ty} {bits : Nat} (h : Orderly 0 a s) : Orderly 0 a (s.putElem d u' bits) := h.of_mem

/-! ## Collective -/

theorem logSlot {part slot : Nat} {p : Packet} {payload : Word} (h : Orderly 0 a s) : Orderly 0 a (s.logSlot part p slot payload) := by
  unfold State.logSlot
  extract_lets _ _
  exact h.logFault

theorem contribute {p : Packet} {w v : Word} {i : Nat} {dest : RecordDest} (h : Orderly 0 a s) :
    Orderly 0 a (s.contribute p w i v dest) := by
  unfold State.contribute
  extract_lets k s1 r late
  have h1 : Orderly 0 a s1 := h.slotDue
  have hl {v : Word} {n : Nat} {nan : Option Nat} {mask : Word} : Orderly 0 a (late v n nan mask) := h1.sendRecord
  refine .ite (fun _ => hl) fun _ => ?_
  split
  · exact .ite (fun _ => hl) fun _ => .ite (fun _ => h1.logSlot) fun _ => .ite (fun _ => h1.completeSlot) fun _ => h1.setRed
  · exact hl
  · exact hl

theorem withdrawSlot {w : Word} {mask : Nat} (h : Orderly 0 a s) : Orderly 0 a (s.withdrawSlot w mask) := by
  unfold State.withdrawSlot
  exact .ite (fun _ => h.slotDue.completeSlot) fun _ => h.slotDue

/-! ## Schedule -/

theorem age {t : Nat} (h : Orderly 0 a s) : Orderly 0 a (s.age t) := h.of_mem

theorem hold {t : Nat} (h : Orderly 0 a s) : Orderly 0 a (s.hold t) := by
  unfold State.hold
  extract_lets _
  split
  · exact h.of_mem
  · exact h

theorem dispatchFresh {t c r prio stamp : Nat} {q : TaskRec} {caps : Assoc Cap} {origin : Option Parked} (h : Orderly 0 a s) :
    Orderly 0 a (s.dispatchFresh t c r prio stamp q caps origin) := h.of_mem

theorem dispatchParked {t c r prio stamp : Nat} {e : Parked} (h : Orderly 0 a s) :
    Orderly 0 a (s.dispatchParked t c r prio stamp e) := h.of_mem

theorem takeRegion {t : Nat} {q : TaskRec} (h : Orderly 0 a s) : Orderly 0 a (s.takeRegion t q).1 := by
  unfold State.takeRegion
  split
  · dsimp only
    exact h.setSlot
  · exact h

theorem dispatchTo {t c r prio stamp : Nat} {q : TaskRec} (h : Orderly 0 a s) : Orderly 0 a (s.dispatchTo t c r q prio stamp) := by
  unfold State.dispatchTo
  extract_lets park s1 s2 s3
  have h1 : Orderly 0 a s1 := h.onLocal
  have h2 : Orderly 0 a s2 := h1.unhold.onCore
  clear_value s2
  have h3 : Orderly 0 a s3 := by
    unfold s3
    clear_value park
    cases park with
    | some e => exact .ite (fun _ => h2.dispatchFresh) fun _ => h2.dispatchParked
    | none => exact h2.takeRegion.dispatchFresh
  exact h3.onCtxAt

theorem select {t c n : Nat} {l : List Nat} (h : Orderly 0 a s) : Orderly 0 a (s.select t c n l) := by
  induction n generalizing s l with
  | zero => exact h
  | succ n ih =>
    unfold State.select
    dsimp only
    split
    · exact h
    · split
      · exact .ite (fun _ => ih h) fun _ => .ite (fun _ => ih h.setQ.hold) fun _ => .ite (fun _ => ih h) fun _ =>
          .ite (fun _ => h.dispatchTo) fun _ => ih h.setQ.unhold
      · exact h

theorem trackContribution {b' : Body} (h : Orderly 0 a s) : Orderly 0 a (s.trackContribution b') := by
  unfold State.trackContribution
  split
  · exact h.of_mem
  · exact h

theorem trimHistory {t : Nat} (h : Orderly 0 a s) : Orderly 0 a (s.trimHistory t) := h.of_mem

theorem pumpAll (h : Orderly 0 a s) :
    Orderly 0 a s.pumpAll := .foldl (fun _ _ h => .foldl (fun _ _ h => .ite (fun _ => h.pump (by decide)) fun _ => h) _ h) _ h

theorem ctxRemember (h : Orderly 0 a s) : Orderly 0 a s.ctxRemember := .ite (fun _ => h.of_mem) fun _ => h

theorem watchdog {w : Who} (h : Orderly 0 a s) : Orderly 0 a (s.watchdog w) := by
  unfold State.watchdog
  extract_lets _ _
  refine .ite (fun _ => h) fun _ => ?_
  refine .ite (fun _ => h.rollback) fun _ => ?_
  split
  · exact h.takeTrap
  · exact h.onCtx.takeTrap
  · exact h.onCtx.takeTrap
  · exact h.onCtx.takeTrap
  · exact h.onCtx.takeTrap
  · exact h
  · exact h
  · exact h
  · exact h
  · exact h
  · exact h
  · exact h

theorem finishHeld {w : Who} {n : Nat} (h : Orderly 0 a s) : Orderly 0 a (s.finishHeld w n) := h.of_mem

theorem speculate {w : Who} {bar : Place} {bidx phase n : Nat} (h : Orderly 0 a s) : Orderly 0 a (s.speculate w bar bidx phase n) := by
  unfold State.speculate
  extract_lets s1
  have h1 : Orderly 0 a s1 := h.finishHeld.onCtx
  exact .ite (fun _ => h1.rollback) fun _ => h1

theorem answerParty {p : Packet} {bidx c : Nat} {f : State → Who → State} (h : Orderly 0 a s)
    (hf : ∀ {v : State} w, Orderly 0 a v → Orderly 0 a (f v w)) : Orderly 0 a (s.answerParty p bidx c f) := by
  unfold State.answerParty
  extract_lets s1
  split
  · exact .ite (fun _ => hf _ h.of_mem) fun _ => h
  · exact h

theorem recordArrival {t bidx party : Nat} {b' : Barrier} {pub : Option Cap} {dests : Word} (h : Orderly 0 a s) :
    Orderly 0 a (s.recordArrival t bidx party b' pub dests) := by
  unfold State.recordArrival
  extract_lets _ s1
  have h1 : Orderly 0 a s1 := by
    unfold s1
    split
    · exact .ite (fun _ => h.onCt) fun _ => h
    · exact h
  exact h1.onLocal

theorem arriveAt {p : Packet} {bidx hallmark party c : Nat} {pub : Option Cap} {dests : Word} {ends : Bool} (h : Orderly 0 a s) :
    Orderly 0 a (s.arriveAt p bidx hallmark party pub dests c ends) := by
  unfold State.arriveAt
  extract_lets t b stale
  split
  · exact h.answerParty fun _ h => h.onCtx.takeTrap
  · exact h
  · refine .ite (fun _ => h) fun _ => ?_
    extract_lets s1 keystone s2
    have h1 : Orderly 0 a s1 := h.recordArrival
    have h2 : Orderly 0 a s2 := h1.answerParty fun _ h =>
      .ite (fun _ => h.onCtx.heldEnd (by decide)) fun _ => .ite (fun _ => h.onCtx) fun _ => h.speculate
    exact h2.barCheck

theorem noticeCtx {t bidx phase c : Nat} {bar : Place} (h : Orderly 0 a s) : Orderly 0 a (s.noticeCtx t bar bidx phase c) := by
  unfold State.noticeCtx
  extract_lets _ s1 v
  have h1 : Orderly 0 a s1 := h.of_mem
  clear_value s1
  split
  · exact h1
  · refine .ite (fun _ => ?_) fun _ => .ite (fun _ => h1.finishHeld) fun _ => .ite (fun _ => h1.onCtx) fun _ => h1
    exact .ite (fun _ => (h1.commit (by decide)).onCtx) fun _ => h1.commit (by decide)

theorem readyParked {t : Nat} {wait : ParkWait} (h : Orderly 0 a s) : Orderly 0 a (s.readyParked t wait) := by
  unfold State.readyParked
  refine .foldl (fun _ _ h => ?_) _ h
  split
  · exact .ite (fun _ => h.setQ) fun _ => h
  · exact h

end Orderly

end Sys2Proof.Machine
end

section
/-!
PROOFS. The other changes of the state, of homes, partitions, the fabric, the matrix engine, barriers and soft errors, keep memory canonical.
-/

namespace Sys2Proof.Machine

-- Many small proofs side by side would each hold a thread of their own: they are elaborated one after another.
set_option Elab.async false

namespace Orderly

variable {a s u : State}

/-! ## Homes -/

theorem giveReclaimed {key : Nat} {c : Caller} {cap : Option Cap} (h : Orderly 0 a s) : Orderly 0 a (s.giveReclaimed key c cap) := by
  unfold State.giveReclaimed
  extract_lets _ _
  split
  · extract_lets s1 s2 _
    have h1 : Orderly 0 a s1 := h.of_mem
    have h2 : Orderly 0 a s2 := by
      unfold s2
      split
      · exact h1.setOwner
      · exact h1
    split
    · exact .ite (fun _ => h2.setC.finishHeld.onRun) fun _ => h
    · split
      · exact .ite (fun _ => h.letKill) fun _ => h.reclaimPath
      · exact h
  · extract_lets _
    split
    · exact h.setSlot.letKill
    · exact .ite (fun _ => h.setOwner.setSlot) fun _ => h.setSlot.supvDeliver
    · exact h.setSlot

theorem answerHeld {key : Nat} (h : Orderly 0 a s) : Orderly 0 a (s.answerHeld key) := by
  unfold State.answerHeld
  extract_lets _ _
  exact .foldl (fun _ _ h => h.answerRequest) _ h.of_mem

theorem faultDrop {key t c : Nat} (h : Orderly 0 a s) : Orderly 0 a (s.faultDrop key t c) := by
  unfold State.faultDrop
  extract_lets _ s1
  have h1 : Orderly 0 a s1 := h.of_mem
  split
  · exact .ite (fun _ => h1.onCtx.takeTrap) fun _ => h
  · exact h

theorem faultDrops {key : Nat} (h : Orderly 0 a s) :
    Orderly 0 a (s.faultDrops key) := .foldl (fun _ _ h => .foldl (fun _ _ h => h.faultDrop) _ h) _ h

theorem dropTlb {t p : Nat} {i : Inval} (h : Orderly 0 a s) : Orderly 0 a (s.dropTlb t p i) := h.of_mem

theorem mailboxDone {code sub : Nat} {res : Word} (h : Orderly 0 a s) : Orderly 0 a (s.mailboxDone code sub res) := h.of_mem

/-! ## Launch -/

theorem endRecord {pn k : Nat} {r : PendingRec} (h : Orderly 0 a s) : Orderly 0 a (s.endRecord pn k r) := h.onQSlot

theorem createBuffer {pn agent i base len : Nat} {k : HomeKind} {rights : Rights} {kslot : Option Nat} {owner : Place}
    {xl : Xlat} (h : Orderly 0 a s) :
    Orderly 0 a (s.createBuffer pn k agent i base len rights kslot owner xl).1 := h.of_mem

theorem fillUnits {p : Part} {off len : Nat} {units : List Nat} (h : Orderly 0 a s) :
    Orderly 0 a (s.fillUnits p off len units) := .foldl (fun _ _ h => h.putBytes.eccWrite) _ h

theorem startKernel {pn k : Nat} {p : Part} {kern : Kernel} (h : Orderly 0 a s) (hu : s.startKernel pn p k kern = .ok u) :
    Orderly 0 a u := by
  unfold State.startKernel at hu
  split at hu
  next im t0 _ _ =>
    extract_lets r home here data arg meets at hu
    have hdata : ∀ {v}, data = .ok v → Orderly 0 a v := by
      intro v hv
      unfold data at hv
      split at hv
      · injection hv with hv
        exact hv ▸ h
      · split at hv
        · injection hv with hv
          exact hv ▸ h.createBuffer.fillUnits.setSlot
        · exact nomatch hv
    have harg : ∀ {v} {x : State × Option Cap}, Orderly 0 a v → arg v = .ok x → Orderly 0 a x.1 := by
      intro v x hv hx
      unfold arg at hx
      split at hx
      · injection hx with hx
        exact hx ▸ hv
      · split at hx
        · injection hx with hx
          exact hx ▸ hv.createBuffer
        · exact nomatch hx
    split at hu
    · exact nomatch hu
    · split at hu
      · exact nomatch hu
      · split at hu
        · exact nomatch hu
        · split at hu
          · exact nomatch hu
          next v cap hv =>
            have h0 : Orderly 0 a v := by
              cases hd : data with
              | error e => rw [hd] at hv; exact nomatch hv
              | ok y => rw [hd] at hv; exact harg (hdata hd) hv
            extract_lets s1 s2 s3 c s4 at hu
            have h1 : Orderly 0 a s1 := h0.onQSlot
            have h2 : Orderly 0 a s2 := .ite (fun _ => .foldl (fun _ _ h => h.loadSteward) _ h1) fun _ => h1
            have h3 : Orderly 0 a s3 := .foldl (fun _ _ h => h.of_mem) _ h2
            have h4 : Orderly 0 a s4 := h3.setCtr
            injection hu with hu
            subst hu
            refine .foldl (fun _ _ h => ?_) _ h4
            split
            · exact h.putRec
            · exact h
  · exact nomatch hu

theorem tryLaunch {pn k : Nat} {p : Part} {kern : Kernel} (h : Orderly 0 a s) : Orderly 0 a (s.tryLaunch pn p k kern) := by
  unfold State.tryLaunch
  refine .ite (fun _ => h.onQSlot) fun _ => ?_
  split
  next v hv => exact (h.startKernel hv).supvFlush
  next => exact h.endRecord

theorem sealConst {pn : Nat} {p : Part} {xl : Xlat} {im : Image} (h : Orderly 0 a s) : Orderly 0 a (s.sealConst pn p xl im) := by
  unfold State.sealConst
  dsimp only
  refine .ite (fun _ => h) fun _ => ?_
  split
  · exact h
  · split
    · exact h
    · exact h.createBuffer.onCt.fillUnits.supvDeliver

theorem register {pn va len : Nat} {p : Part} {xl : Xlat} {x : State × Nat} (h : Orderly 0 a s)
    (hu : s.register pn p xl va len = .ok x) : Orderly 0 a x.1 := by
  revert hu
  fun_cases State.register with
  | case1 => exact nofun
  | case2 => exact nofun
  | case3 base _ im _ bytes s1 h' s2 =>
    intro hu
    have h1 : Orderly 0 a s1 := h.putPoff
    have h2 : Orderly 0 a s2 := h1.onPart
    rw [← Except.ok.inj hu]
    dsimp only
    exact h2.sealConst

theorem launchBoundary {pn k : Nat} (h : Orderly 0 a s) : Orderly 0 a (s.launchBoundary pn k) := by
  unfold State.launchBoundary
  split
  · exact h
  · extract_lets _ s1
    have h1 : Orderly 0 a s1 := .ite (fun _ => h.loseSlot) fun _ => h.onQSlot
    exact h1.serveQueues

theorem returnCap {pn t reason : Nat} {cap : Cap} (h : Orderly 0 a s) : Orderly 0 a (s.returnCap pn t cap reason) := by
  unfold State.returnCap
  split
  · exact h.clearReader
  · exact .ite (fun _ => h) fun _ => h.supvDeliver

theorem freeRecords {pn k t : Nat} (h : Orderly 0 a s) : Orderly 0 a (s.freeRecords pn k t) := by
  unfold State.freeRecords
  refine .foldl (fun _ _ h => ?_) _ h
  split
  · exact h
  · refine .ite (fun _ => ?_) fun _ => h
    extract_lets park caps s1 s2 s3
    have h1 : Orderly 0 a s1 := h.unhold.keepAccs
    have h2 : Orderly 0 a s2 := h1.onLocal
    have h3 : Orderly 0 a s3 := h2.disposeAll fun _ _ h => h.returnCap
    exact .ite (fun _ => h3.setSlot) fun _ => h3

theorem clearKernel {pn k t : Nat} (h : Orderly 0 a s) : Orderly 0 a (s.clearKernel pn k t) := by
  unfold State.clearKernel
  extract_lets _ _ _ _ s1 s2 s3 s4 s5
  have h1 : Orderly 0 a s1 := h.onLocal
  have h2 : Orderly 0 a s2 := .foldl (fun _ _ h => h.setSlot) _ h1
  have h3 : Orderly 0 a s3 := h2.onSteward
  have h4 : Orderly 0 a s4 := .foldl (fun _ _ h => h.returnCap) _ h3
  have h5 : Orderly 0 a s5 := h4.of_mem
  exact .ite (fun _ => h5.loadSteward) fun _ => h5

theorem releaseSlot {pn k : Nat} (h : Orderly 0 a s) : Orderly 0 a (s.releaseSlot pn k) := h.onPart.collectImages.serveQueues

theorem retireOn {pn k : Nat} {kern : Kernel} {wait done : State → Nat → State} (h : Orderly 0 a s)
    (hw : ∀ {v n}, Orderly 0 a v → Orderly 0 a (wait v n)) (hd : ∀ {v n}, Orderly 0 a v → Orderly 0 a (done v n)) :
    Orderly 0 a (s.retireOn pn k kern wait done) := by
  unfold State.retireOn
  refine .ite (fun _ => h) fun _ => ?_
  extract_lets left s1
  have h1 : Orderly 0 a s1 := .foldl (fun _ _ h => h.freeRecords) _ h
  exact .ite (fun _ => hw h1) fun _ => hd (.foldl (fun _ _ h => h.clearKernel) _ h1)

/-! ## Mgmt -/

theorem reply {p : Packet} {tag tile chan : Nat} {r : Reply} (h : Orderly 0 a s) : Orderly 0 a (s.reply p tag tile chan r) := by
  unfold State.reply
  extract_lets s1
  have h1 : Orderly 0 a s1 := by
    unfold s1
    split
    · exact h.setOwner
    · exact h
  exact h1.send

theorem bufCreate {r : Request} (h : Orderly 0 a s) : Orderly 0 a (bufCreate s r).1 := by
  unfold Machine.bufCreate
  dsimp only
  split
  · exact h
  · exact h
  · split
    · exact h
    · split
      · exact h
      · split
        · exact h
        · split
          · exact h
          · dsimp only
            exact h.createBuffer.setSlot

theorem bufFree {r : Request} (h : Orderly 0 a s) : Orderly 0 a (bufFree s r).1 := by
  unfold Machine.bufFree
  split
  · exact h
  · dsimp only
    split
    · exact h
    · split
      · exact h
      · split
        · exact h
        · split
          · exact h
          · split
            · exact h
            · dsimp only
              exact h.setCt

theorem startRecover {r : Request} (h : Orderly 0 a s) : Orderly 0 a (startRecover s r).1 := by
  unfold Machine.startRecover
  split
  · exact h
  · exact h
  · dsimp only
    split
    · exact h
    · split
      · exact h
      · split
        · exact h
        · dsimp only
          exact h.setSlot.startReclaim.onSupv

theorem bufRecover {r : Request} (h : Orderly 0 a s) : Orderly 0 a (bufRecover s r).1 := by
  unfold Machine.bufRecover
  split
  · exact h.startRecover
  · split
    · exact h
    · dsimp only
      exact h.onSupv

theorem ctRead {r : Request} (h : Orderly 0 a s) : Orderly 0 a (ctRead s r).1 := by
  unfold Machine.ctRead
  split
  · exact h
  · split
    · exact h
    · exact h

theorem taskList {r : Request} (h : Orderly 0 a s) : Orderly 0 a (taskList s r).1 := by
  unfold Machine.taskList
  split
  · exact h
  · split
    · exact h
    · dsimp only
      split
      · exact h
      · split
        · exact h
        · exact h

theorem biasSet {r : Request} (h : Orderly 0 a s) : Orderly 0 a (biasSet s r).1 := by
  unfold Machine.biasSet
  dsimp only
  split
  · exact h
  · dsimp only
    exact h.onKernel

theorem precRead {r : Request} (h : Orderly 0 a s) : Orderly 0 a (precRead s r).1 := by
  unfold Machine.precRead
  dsimp only
  split
  · exact h
  · split
    · exact h
    · exact h

theorem flogSet {r : Request} (h : Orderly 0 a s) : Orderly 0 a (flogSet s r).1 := by
  unfold Machine.flogSet
  split
  · exact h
  · split
    · dsimp only
      exact h.onSupv
    · exact h

theorem flogHead {r : Request} (h : Orderly 0 a s) : Orderly 0 a (flogHead s r).1 := by
  unfold Machine.flogHead
  dsimp only
  split
  · exact h
  · dsimp only
    exact h.onSupv

theorem xlatSet {r : Request} (h : Orderly 0 a s) : Orderly 0 a (xlatSet s r).1 := by
  unfold Machine.xlatSet
  split
  · exact h
  · split
    · dsimp only
      exact h.onPart
    · exact h

theorem installProgram {pn : Nat} {h' : Option Nat} (h : Orderly 0 a s) : Orderly 0 a (s.installProgram pn h') := by
  unfold State.installProgram
  extract_lets s1
  have h1 : Orderly 0 a s1 := h.onSupv
  split
  · exact h1
  · exact .foldl (fun _ _ h => h.loadSteward) _ h1

theorem stwInstall {r : Request} (h : Orderly 0 a s) : Orderly 0 a (stwInstall s r).1 := by
  unfold Machine.stwInstall
  split
  · dsimp only
    exact h.installProgram.collectImages
  · split
    · split
      · exact h
      · dsimp only
        exact h.installProgram.collectImages
    · exact h

theorem supvRecv {r : Request} (h : Orderly 0 a s) : Orderly 0 a (supvRecv s r).1 := by
  unfold Machine.supvRecv
  split
  · exact h
  · dsimp only
    exact h.onSupv.supvFlush

theorem supvEvents {r : Request} (h : Orderly 0 a s) : Orderly 0 a (supvEvents s r).1 := by
  unfold Machine.supvEvents
  split
  · exact h
  · dsimp only
    exact h.onSupv

/-! ## Halt -/

theorem resumePart {pn : Nat} (h : Orderly 0 a s) : Orderly 0 a (s.resumePart pn) := by
  unfold State.resumePart
  split
  · exact h
  · exact ((h.onTiles fun h => absurd h (by decide)).onPart fun h => absurd h (by decide)).serveQueues

theorem rewind {p : Part} {vf q : Nat} (h : Orderly 0 a s) : Orderly 0 a (s.rewind p vf q) := by
  unfold State.rewind
  extract_lets _ _ _
  exact h.devPut.onVf

theorem relatch {p : Part} {vf : Nat} (h : Orderly 0 a s) : Orderly 0 a (s.relatch p vf) := by
  unfold State.relatch
  extract_lets s1 s2
  have h1 : Orderly 0 a s1 := .foldl (fun _ _ h => h.rewind) _ h
  exact .foldl (fun _ _ h => .ite (fun _ => h) fun _ => h.latch) _ h1.onVf

theorem replayPart {pn : Nat} (h : Orderly 0 a s) : Orderly 0 a (s.replayPart pn) := by
  unfold State.replayPart
  split
  · exact h
  · extract_lets s1 s2 s3 s4
    have h1 : Orderly 0 a s1 := .foldl (fun _ _ h => .foldl (fun _ _ h => h.returnCap) _ h.of_mem) _ h
    have h3 : Orderly 0 a s3 := h1.withdrawPart.writeBackAll.onPart
    have h4 : Orderly 0 a s4 := .foldl (fun _ _ h => h.loadSteward) _ h3
    exact (Orderly.foldl (fun _ _ h => h.relatch) _ h4).collectImages

/-! ## Evict -/

theorem evictPart {pn : Nat} {p : Part} {rel : Bool} (h : Orderly 0 a s) : Orderly 0 a (s.evictPart pn p rel) := by
  unfold State.evictPart
  extract_lets s1 x vfs s2 s3 s4 p' s5 _ s6
  have h2 : Orderly 0 a s2 := .foldl (fun _ _ h => h.onVf) _ h.writeBackAll
  have h3 : Orderly 0 a s3 := h2.withdrawPart.leavePlaces (by decide)
  have h4 : Orderly 0 a s4 := .ite (fun _ => .foldl (fun _ _ h => h.leaveChannel) _ h3) fun _ => h3
  have h5 : Orderly 0 a s5 := h4.onPart fun h => absurd h (by decide)
  exact h5.of_mem

theorem restorePart {pn pbase : Nat} {p : Part} {x : Sealed} (h : Orderly 0 a s) : Orderly 0 a (s.restorePart pn p x pbase) := by
  unfold State.restorePart
  extract_lets new p' _ m s1 s2 s3 s4 s5 s6 mv s7
  have h1 : Orderly 0 a s1 := .foldl (fun _ _ h => h.clearTile (by decide)) _ h
  have h2 : Orderly 0 a s2 := .foldl (fun _ _ h => h.clearSegment) _ h1
  have h3 : Orderly 0 a s3 := .foldl (fun _ _ h => h.of_mem) _ h2
  have h5 : Orderly 0 a s5 := .foldl (fun _ _ h => h.putBytes) _ (.foldl (fun _ _ h => h.restoreEntry) _ h3)
  have h7 : Orderly 0 a s7 := h5.of_mem.onPart fun h => absurd h (by decide)
  exact .foldl (fun _ _ h => .ite (fun _ => h.withdrawKernel) fun _ => h) _ h7

/-! ## Fabric -/

theorem unqueued {i : Nat} (h : Orderly 0 a s) : Orderly 0 a (s.unqueued i) := h.of_mem

theorem addTransfer {p : Packet} {port : Nat} {sent : Bool} (h : Orderly 0 a s) : Orderly 0 a (s.addTransfer p port sent) := h.of_mem

theorem departOn {i port : Nat} {p : Packet} (h : Orderly 0 a s) : Orderly 0 a (s.departOn i p port) := by
  unfold State.departOn
  extract_lets _ _ _ s1
  have h1 : Orderly 0 a s1 := h.of_mem
  exact .ite (fun _ => h) fun _ => h1.unqueued.addTransfer

theorem departPool {i w : Nat} {p : Packet} (h : Orderly 0 a s) : Orderly 0 a (s.departPool i p w) := by
  unfold State.departPool
  extract_lets _
  split
  · exact .ite (fun _ => h.unqueued.losePacket (by decide)) fun _ => h.departOn
  · exact h.unqueued.losePacket (by decide)
  · exact h.unqueued.addTransfer

theorem withoutTransfer {i : Nat} (h : Orderly 0 a s) : Orderly 0 a (s.withoutTransfer i) := h.of_mem

theorem discard (h : Orderly 0 a s) : Orderly 0 a s.discard := h.of_mem

theorem dropAwaited {k : TransferFor} {f : Transfer → Bool} (h : Orderly 0 a s) : Orderly 0 a (s.dropAwaited k f) := by
  unfold State.dropAwaited
  split
  · exact h.withoutTransfer
  · exact h

theorem countAnswer {p : Packet} {a' : RemoteAnswer} (h : Orderly 0 a s) :
    Orderly 0 a (s.countAnswer p a') := .ite (fun _ => h.countMemory) fun _ => h

theorem resultComes {p : Packet} {y : Nat} {vals : List Word} (h : Orderly 0 a s) : Orderly 0 a (s.resultComes p y vals) := by
  unfold State.resultComes
  extract_lets _
  split
  · split
    · extract_lets s1
      have h1 : Orderly 0 a s1 := h.withoutTransfer
      exact .ite (fun _ => h1.unconfirmed (by decide)) fun _ => h1
    · exact h
  · exact h

theorem logArrival {p : Packet} {code sub : Nat} (h : Orderly 0 a s) : Orderly 0 a (s.logArrival p code sub) := by
  unfold State.logArrival
  split
  · exact h.logFault
  · exact h.logHost

theorem readRuns {l : List (Nat × Nat)} (h : Orderly 0 a s) : Orderly 0 a (s.readRuns l).1 := by
  induction l generalizing s with
  | nil => exact h
  | cons x l ih =>
    unfold State.readRuns
    split
    next hx => exact h.eccRead.of_fst hx
    next hx =>
      have h1 := ih (h.eccRead.of_fst hx)
      split
      next hy => exact h1.of_fst hy
      next => exact h1

theorem homeAccess {runs : List (Nat × Nat)} {phys : Nat → Option Nat} {xsub : Nat} {wr : Option (List Byte)}
    {put : State → Nat → List Byte → State} (hput : ∀ {v x bs}, Orderly 0 a v → Orderly 0 a (put v x bs)) (h : Orderly 0 a s) :
    Orderly 0 a (s.homeAccess runs phys xsub wr put).1 := by
  unfold State.homeAccess
  split
  · exact h
  · dsimp only
    split
    · exact .ite (fun _ => h) fun _ => .foldl (fun _ _ h => hput h) _ h
    · split
      next hx => exact h.readRuns.of_fst hx
      next hx => exact h.readRuns.of_fst hx

theorem serveAccess {p : Packet} {c : Cap} {off len id : Nat} {wr : Option (List Byte)} (h : Orderly 0 a s) :
    Orderly 0 a (s.serveAccess p c off wr len id).1 := by
  unfold State.serveAccess
  extract_lets e
  split
  · exact h
  · split
    · exact h.of_mem.answerRequest
    · split
      · exact (homeAccess (fun h => h.perform) h.of_mem).answerRequest
      · dsimp only
        split
        · exact h.of_mem.pageRequest
        · split
          · exact h.of_mem.relayNext
          · exact (homeAccess (fun h => h.perform) h.of_mem).answerRequest
  · exact h.answerRequest
  · exact h.answerRequest

theorem serveFabric {p : Packet} {fa len id : Nat} {wr : Option (List Byte)} (h : Orderly 0 a s) :
    Orderly 0 a (s.serveFabric p fa wr len id) := by
  unfold State.serveFabric
  split
  · exact h.answerRequest
  · exact (homeAccess (fun h => h.putBytes.eccWrite) h).answerRequest

theorem relayOperate {p : Packet} {part fn fmt off fa va : Nat} {c : Cap} {args : List Word} {ret : Option LandAt} (h : Orderly 0 a s) :
    Orderly 0 a (s.relayOperate p part fn fmt c off fa va args ret) := h.of_mem

theorem serveOperate {p : Packet} {fn fmt off id : Nat} {c : Cap} {fab : Option (Nat × Nat)} {args : List Word}
    {ret : Option LandAt} (h : Orderly 0 a s) : Orderly 0 a (s.serveOperate p fn fmt c off fab args ret id).1 := by
  unfold State.serveOperate
  extract_lets _ s1 e
  have h1 : Orderly 0 a s1 := h.of_mem
  clear_value s1
  split
  · split
    · exact h1.answerRequest
    · exact h1.agentStep.answerRequest
  · split
    · exact h1
    · split
      · exact h1.answerRequest
      · split
        · exact h1.answerRequest
        · split
          · exact h1.answerRequest
          · exact h1.pageRequest
          · split
            · exact h1.relayOperate
            · exact h1.agentStep.answerRequest
    · exact h1.answerRequest
    · exact h1.answerRequest

theorem serveConsult {p : Packet} {op arg id : Nat} {c : Cap} (h : Orderly 0 a s) : Orderly 0 a (s.serveConsult p op c arg id).1 := by
  unfold State.serveConsult
  dsimp only
  split
  · dsimp only
    exact .ite (fun _ => h.onCt) fun _ => h
  · split
    · exact h
    · split
      · split
        · dsimp only
          exact h.answerRequest
        · dsimp only
          exact h.answerRequest
      · split
        · dsimp only
          exact h.answerRequest
        · split
          · split
            · dsimp only
              exact h.answerRequest
            · split
              · dsimp only
                exact h.answerRequest
              · dsimp only
                exact h.setCt.answerRequest
          · dsimp only
            exact h.onCt.answerRequest
          · split
            · dsimp only
              exact h.answerRequest
            · split
              · dsimp only
                exact h.answerRequest
              · dsimp only
                exact h.setCt.answerRequest
          · dsimp only
            exact h.answerRequest

theorem endedDelivery {p : Packet} (h : Orderly 0 a s) : Orderly 0 a (s.endedDelivery p) := h.logArrival

theorem takeBurst {p : Packet} {dl off id : Nat} {bs : List Byte} (h : Orderly 0 a s) : Orderly 0 a (s.takeBurst p dl off bs id) := by
  unfold State.takeBurst
  dsimp only
  split
  · refine .ite (fun _ => ?_) fun _ => h.endedDelivery
    split
    next hv => exact (h.slotWrite hv).answerRequest
    next => exact h.answerRequest
  · exact h.endedDelivery

theorem takeEndNotice {p : Packet} {dl code sub done : Nat} (h : Orderly 0 a s) : Orderly 0 a (s.takeEndNotice p dl code sub done) := by
  unfold State.takeEndNotice
  extract_lets _
  split
  · exact .ite (fun _ => h.endedDelivery) fun _ => .ite (fun _ => h.onDelivery) fun _ => h.onLocal
  · exact h.endedDelivery

theorem grantComes {p : Packet} {dl : Nat} {f : EngOp → EngOp} (h : Orderly 0 a s) :
    Orderly 0 a (s.grantComes p dl f) := h.dropAwaited.onOp

theorem takeGrant {p : Packet} {dl slotBytes : Nat} {slots : Option (Nat × Nat)} (h : Orderly 0 a s) :
    Orderly 0 a (s.takeGrant p dl slots slotBytes) := h.grantComes

theorem refuseArrival {p : Packet} {code sub : Nat} (h : Orderly 0 a s) : Orderly 0 a (s.refuseArrival p code sub) := by
  unfold State.refuseArrival
  extract_lets s1
  have h1 : Orderly 0 a s1 := h.logArrival
  split
  · exact h1.grantComes
  · exact h1

theorem serve {p : Packet} (h : Orderly 0 a s) : Orderly 0 a (s.serve p) := by
  unfold State.serve
  extract_lets r
  have hr : Orderly 0 a r.1 := by
    unfold r
    split
    · exact h
    · split
      · exact h.serveAccess
      · exact h.serveFabric
      · exact h.serveOperate
      · exact h.serveConsult
      · exact h
  exact .ite (fun _ => hr) fun _ => hr.of_mem

theorem serveWaiting (h : Orderly 0 a s) : Orderly 0 a s.serveWaiting := by
  unfold State.serveWaiting
  have h1 : Orderly 0 a { s with net := s.net.filter fun p => !s.waitsHome p } := h.of_mem
  have h2 := Orderly.foldl (f := State.serve) (fun _ _ h => h.serve) (s.net.filter s.waitsHome) h1
  exact .ite (fun _ => h2.of_mem) fun _ => h

theorem accept {p : Packet} {n : Nat} (h : Orderly 0 a s) : Orderly 0 a (s.accept p n) := by
  unfold State.accept
  split
  · exact h.takeBurst
  · exact h.takeEndNotice
  · exact h.takeGrant
  · exact .ite (fun _ => h.serve) fun _ => h.of_mem

theorem linkEvent {code port : Nat} {vfs : List Nat} (h : Orderly 0 a s) :
    Orderly 0 a (s.linkEvent code port vfs) := .foldl (fun _ _ h => h.vfCount) _ h.logHost

/-! ## Matrix -/

theorem setAcc {t a' : Nat} {v : AccVal} (h : Orderly 0 a s) : Orderly 0 a (s.setAcc t a' v) := h.of_mem

theorem freeAccWords {t a' : Nat} (h : Orderly 0 a s) : Orderly 0 a (s.freeAccWords t a') := h.of_mem

theorem onMxTask {t : Nat} {id : TaskId} {f : Flags × Option (Nat × Nat) → Flags × Option (Nat × Nat)} (h : Orderly 0 a s)
    (hu : s.onMxTask t id f = some u) : Orderly 0 a u := by
  unfold State.onMxTask at hu
  rw [Option.bind_eq_some_iff] at hu
  obtain ⟨q, -, hu⟩ := hu
  split at hu
  · exact nomatch hu
  · split at hu
    · injection hu with hu
      exact hu ▸ h.onCtxAt
    · rw [Option.bind_eq_some_iff] at hu
      obtain ⟨e, -, hu⟩ := hu
      split at hu
      · exact nomatch hu
      · injection hu with hu
        exact hu ▸ h.onLocal

theorem mxFlags {t : Nat} {id : TaskId} {fl : Flags} (h : Orderly 0 a s) : Orderly 0 a (s.mxFlags t id fl) :=
  h.getD fun hu => h.onMxTask hu

theorem taskError {t c kslot code sub : Nat} {id : TaskId} (h : Orderly 0 a s) : Orderly 0 a (s.taskError t c kslot id code sub) :=
  (h.lateError (by decide)).getD fun hu => h.onMxTask hu

theorem mxError {t c code sub : Nat} {m : MxCmd} (h : Orderly 0 a s) : Orderly 0 a (s.mxError t c m code sub) := h.taskError

theorem storeAcc {t : Nat} {d : BoundView} {ty : Ty} {f : Nat → Nat} (h : Orderly 0 a s) : Orderly 0 a (s.storeAcc t d ty f) := by
  unfold State.storeAcc
  split
  · exact h
  · extract_lets _
    exact .foldl (fun _ _ h => h.perform) _ h

theorem runCommand {t : Nat} {m : MxCmd} {tern : Flags} (h : Orderly 0 a s) : Orderly 0 a (s.runCommand t m tern) := by
  unfold State.runCommand
  extract_lets st x y write
  have hw {d : Nat} {r : AccVal × Flags} : Orderly 0 a (write d r) := h.setAcc.mxFlags
  split
  · exact h.setAcc
  · exact hw
  · exact hw
  · exact hw
  · exact h.storeAcc.mxFlags
  · exact hw
  · split
    · exact h.send
    · exact h

theorem stageRuns {t : Nat} {m : MxCmd} (h : Orderly 0 a s) : Orderly 0 a (s.stageRuns t m).1 := by
  have hfold (l : List (Nat × Nat)) : ∀ x : State × Option Nat, Orderly 0 a x.1 → Orderly 0 a (l.foldl (fun x r =>
      ((x.1.eccRead (x.1.mxBy t m) r.1 r.2).1, x.2 <|> (x.1.eccRead (x.1.mxBy t m) r.1 r.2).2)) x).1 := by
    induction l with
    | nil => exact fun _ h => h
    | cons r l ih => exact fun x h => ih _ h.eccRead
  exact hfold m.reads (s, none) h

theorem stageOf {t c : Nat} (h : Orderly 0 a s) : Orderly 0 a (s.stageOf t c) := by
  unfold State.stageOf
  extract_lets k v i
  split
  · exact .ite (fun _ => h) fun _ => h.stageRuns.onCtxAt
  · exact h

theorem startOf {t c : Nat} (h : Orderly 0 a s) : Orderly 0 a (s.startOf t c) := by
  unfold State.startOf
  split
  · exact .ite (fun _ => h.of_mem) fun _ => h
  · exact h

theorem stageNext {t : Nat} (h : Orderly 0 a s) : Orderly 0 a (s.stageNext t) := by
  unfold State.stageNext
  split
  · exact h.stageOf
  · exact h

theorem endCommand {t c : Nat} (h : Orderly 0 a s) : Orderly 0 a (s.endCommand t c) := h.of_mem

theorem engineFailed {t : Nat} (h : Orderly 0 a s) : Orderly 0 a (s.engineFailed t) := by
  unfold State.engineFailed
  extract_lets k s1 s2 s3 _ s4
  have h1 : Orderly 0 a s1 := by
    unfold s1
    split
    · split
      · exact h.freeAccWords
      · exact h
    · exact h
  have h2 : Orderly 0 a s2 := by
    refine .foldl (fun _ _ h => ?_) _ h1
    split
    · exact h.mxError.onCtxAt
    · exact h
  clear_value s2
  have h3 : Orderly 0 a s3 := h2.of_mem
  have h4 : Orderly 0 a s4 := h3.logHost
  split
  · exact h4.mgmtEvent
  · exact h4

theorem columnCount {t n : Nat} (h : Orderly 0 a s) : Orderly 0 a (s.columnCount t n) := h.of_mem

theorem correctAccs {t : Nat} {m : MxCmd} (h : Orderly 0 a s) :
    Orderly 0 a (s.correctAccs t m) := .foldl (fun _ _ h => .ite (fun _ => h.setAcc.countMemory) fun _ => h) _ h

theorem countAccError {t : Nat} {m : MxCmd} (h : Orderly 0 a s) :
    Orderly 0 a (s.countAccError t m) := .ite (fun _ => h) fun _ => h.countMemory

theorem finishCommand {t c : Nat} {m : MxCmd} (h : Orderly 0 a s) : Orderly 0 a (s.finishCommand t c m) := by
  unfold State.finishCommand
  split
  · extract_lets s1 s2
    have h1 : Orderly 0 a s1 := h.countAccError
    have h2 : Orderly 0 a s2 := by
      unfold s2
      split
      · exact h1.freeAccWords
      · exact h1
    exact h2.mxError.endCommand
  · exact h.correctAccs.runCommand.endCommand

/-! ## Assay -/

theorem onBox {f : Mailbox → Mailbox} (h : Orderly 0 a s) : Orderly 0 a (s.onBox f) := h.of_mem

theorem pfWrite {off : Nat} {v : Word} (h : Orderly 0 a s) : Orderly 0 a (s.pfWrite off v) := by
  unfold State.pfWrite
  extract_lets _
  split
  · exact h.onBox
  · exact h.onBox
  · exact .ite (fun _ => h.onBox) fun _ => .ite (fun _ => h) fun _ => .ite (fun _ => h.mailboxDone) fun _ => h.onBox
  · exact h.onBox
  · exact h

theorem vfWrite {vf off : Nat} {v : Word} (h : Orderly 0 a s) : Orderly 0 a (s.vfWrite vf off v) := by
  unfold State.vfWrite
  split
  · exact h
  · refine .ite (fun _ => .ite (fun _ => h.notify) fun _ => h) fun _ => ?_
    split
    · exact .ite (fun _ => h.countQerr) fun _ => h.onVf
    · exact .ite (fun _ => h.countQerr) fun _ => .ite (fun _ => h) fun _ => h.onVf
    · exact h.onVf
    · exact h

theorem destroyPart {pn : Nat} {p : Part} (h : Orderly 0 a s) : Orderly 0 a (s.destroyPart pn p) := by
  unfold State.destroyPart
  extract_lets s1 s2 s3 s4 _
  have h1 : Orderly 0 a s1 := .foldl (fun _ _ h => h.resetVf) _ h
  have h2 : Orderly 0 a s2 := h1.withdrawPart
  have h3 : Orderly 0 a s3 := .ite (fun _ => h2) fun _ => h2.leavePlaces (by decide)
  have h4 : Orderly 0 a s4 := .ite (fun _ => h3) fun _ => .foldl (fun _ _ h => h.leaveChannel) _ h3
  exact h4.of_mem

theorem toHost {bs : List Byte} (h : Orderly 0 a s) : Orderly 0 a (s.toHost bs) := h.of_mem

theorem mwrite {r : MReg} {v : Nat} (h : Orderly 0 a s) : Orderly 0 a (s.mwrite r v) := by
  unfold State.mwrite
  extract_lets _ _
  split
  · exact h.of_mem
  · exact h.of_mem
  · exact h.of_mem
  · exact h.of_mem
  · exact h.of_mem
  · exact h.of_mem
  · exact h.of_mem
  · exact h.of_mem
  · exact h

theorem memoryEvent {x code sub : Nat} (h : Orderly 0 a s) : Orderly 0 a (s.memoryEvent x code sub) := by
  unfold State.memoryEvent
  extract_lets _ s1
  have h1 : Orderly 0 a s1 := h.logHost
  split
  · exact h1.onPart
  · exact h1

theorem windowLines {r : PartRec} {off len : Nat} (h : Orderly 0 a s) : Pair a (s.windowLines r off len) := by
  unfold State.windowLines
  refine .ite (fun _ => h) fun _ => .foldl (fun x run h => ?_) _ h
  extract_lets line
  refine .ite (fun _ => h) fun _ => ?_
  extract_lets
  split
  · exact .mk (Orderly.memoryEvent h)
  · exact .ite (fun _ => h) fun _ => .mk (Orderly.memoryEvent (Orderly.eccFixed h))

theorem setSession {i : Nat} {x : Session} (h : Orderly 0 a s) : Orderly 0 a (s.setSession i x) := h.of_mem

/-! ## Control -/

theorem jump {pc : BitVec 32} (h : Orderly 0 a s) : Orderly 0 a (s.jump pc) := h.of_mem

theorem lastHint {h' : Hint} (h : Orderly 0 a s) : Orderly 0 a (s.lastHint h') := .ite (fun _ => h.onRun) fun _ => h

/-! ## SoftErr -/

theorem count {t : Nat} {f : Counts → Counts} (h : Orderly 0 a s) : Orderly 0 a (s.count t f) := h.of_mem

theorem undo {t : Nat} {u' : Undo} (h : Orderly 0 a s) : Orderly 0 a (s.undo t u') := by
  unfold State.undo
  split
  · extract_lets s1
    have h1 : Orderly 0 a s1 := by
      unfold s1
      split
      · exact h.onLocal
      · exact h
    exact h1.setLand
  · extract_lets _
    exact h.setCtr
  · exact h.setSlot
  · exact h.setSlot
  · exact h.onLocal.reeval
  · exact h.onLocal
  · extract_lets _
    exact .ite (fun _ => h) fun _ => .ite (fun _ => h.setCt) fun _ => h.setCt
  · exact h.onLocal.reeval
  · exact h.onLocal

theorem dropHeld {t c : Nat} (h : Orderly 0 a s) : Orderly 0 a (s.dropHeld t c) := h.of_mem

theorem dropSpec {t c : Nat} (h : Orderly 0 a s) : Orderly 0 a (s.dropSpec t c) := by
  unfold State.dropSpec
  extract_lets _ s1
  have h1 : Orderly 0 a s1 := h.onLocal
  exact .foldl (fun _ _ h => h.clearReader) _ h1

theorem dropGiving {t by' h' : Nat} (h : Orderly 0 a s) : Orderly 0 a (s.dropGiving t by' h') := h.of_mem

theorem undispatch {t c h' : Nat} (h : Orderly 0 a s) : Orderly 0 a (s.undispatch t c h') := by
  unfold State.undispatch
  extract_lets _ _ s1 _ _ _ s2
  have h1 : Orderly 0 a s1 := h.dropSpec.dropGiving
  have h2 : Orderly 0 a s2 := h1.setCtxAt
  split
  · exact .ite (fun _ => (Orderly.ite (fun _ => h2.setSlot) fun _ => h2).onLocal) fun _ => h
  · exact h

theorem retake {t c : Nat} {b' : Context} (h : Orderly 0 a s) : Orderly 0 a (s.retake t c b') := by
  unfold State.retake
  split
  · exact h.onLocal
  · exact h

theorem rewindCtx {t c h' from' : Nat} (h : Orderly 0 a s) : Orderly 0 a (s.rewindCtx t c h' from') := by
  unfold State.rewindCtx
  extract_lets _ _ _
  split
  · exact .ite (fun _ => h) fun _ => .ite (fun _ => h.rollback) fun _ => h.onCtxAt
  · exact .ite (fun _ => h.rollback) fun _ => h.dropSpec.dropGiving.retake.setCtxAt

theorem rewindStw {t h' : Nat} (h : Orderly 0 a s) : Orderly 0 a (s.rewindStw t h') := h.of_mem

theorem countReplays {t : Nat} (h : Orderly 0 a s) : Orderly 0 a (s.countReplays t) := by
  unfold State.countReplays
  refine .foldl (fun _ _ h => ?_) _ h
  split
  · exact h.vfCount
  · exact h

theorem dropAsked {t : Nat} (h : Orderly 0 a s) : Orderly 0 a (s.dropAsked t) := h.of_mem

theorem strikeRollback {t : Nat} (h : Orderly 0 a s) : Orderly 0 a (s.strikeRollback t) := by
  unfold State.strikeRollback
  extract_lets h' from' s1 s2 back s3 going s4 s5
  have h1 : Orderly 0 a s1 := h.count.countReplays
  have h2 : Orderly 0 a s2 := .foldl (fun _ _ h => h.dropHeld) _ h1.dropAsked
  have h3 : Orderly 0 a s3 := .foldl (fun _ _ h => h.undispatch) _ h2
  have h4 : Orderly 0 a s4 := .foldl (fun _ _ h => h.undo) _ h3
  have h5 : Orderly 0 a s5 := (Orderly.foldl (fun _ _ h => h.rewindCtx) _ h4).dropGiving
  exact h5.rewindStw.onCore fun h => absurd h (by decide)

theorem strikeMatrix {t : Nat} (h : Orderly 0 a s) : Orderly 0 a (s.strikeMatrix t) := by
  unfold State.strikeMatrix
  exact .foldl (fun _ _ h => h.taskError) _ h

theorem strikePlain {t : Nat} (h : Orderly 0 a s) : Orderly 0 a (s.strikePlain t) := by
  unfold State.strikePlain
  refine .foldl (fun _ _ h => ?_) _ h
  split
  next v _ hv => exact h.onMxTask hv
  next => exact h.contain (by decide)
  next => exact h

theorem flushHealth (h : Orderly 0 a s) : Orderly 0 a s.flushHealth := h.of_mem

/-- The memory of a state that has been reset is empty. -/
theorem afterReset (h : Orderly 0 a s) : Orderly 0 a s.afterReset := ⟨fun _ => rfl, nofun, nofun, nofun⟩

theorem selfTest {failed : List Nat} (h : Orderly 0 a s) :
    Orderly 0 a (s.selfTest failed) := .foldl (fun _ _ h => .ite (fun _ => h.of_mem.logHost) fun _ => h) _ h

/-! ## Turn -/

theorem pass {n : Nat} (h : Orderly 0 a s) : Orderly 0 a (s.pass n) := by
  have h1 : Orderly 0 a { s with cycle := s.cycle + 1 } := h.of_mem
  exact .ite (fun _ => h) fun _ => h1.applyAllHeld.of_mem

theorem catchUp (h : Orderly 0 a s) : Orderly 0 a s.catchUp := h.pumpAll.letAllGo.serveWaiting

theorem begin {t : Turn} {rest : List Turn} (h : Orderly 0 a s) : Orderly 0 a (s.begin t rest) := h.pass.catchUp.of_mem

theorem issues (h : Orderly 0 a s) : Orderly 0 a s.issues := h.of_mem

theorem retryPark {w : ParkWait} (h : Orderly 0 a s) : Orderly 0 a (s.retryPark w) := by
  unfold State.retryPark
  extract_lets _ _
  split
  · exact .ite (fun _ => h.onCtx.redispatch) fun _ => h
  · exact .ite (fun _ => .ite (fun _ => h.onCtx.parkTask) fun _ => h) fun _ => h.onCtx
  · exact .ite (fun _ => h.onCtx.parkTask) fun _ => h

theorem accUpset {a' : Nat} {uncorrectable : Bool} (h : Orderly 0 a s) :
    Orderly 0 a (s.accUpset a' uncorrectable) := .ite (fun _ => h.setAcc) fun _ => h

theorem upset {a' : Nat} {uncorrectable : Bool} (h : Orderly 0 a s) : Orderly 0 a (s.upset a' uncorrectable) := by
  unfold State.upset
  refine .ite (fun _ => ?_) fun _ => .ite (fun _ => h.of_mem) fun _ => h
  extract_lets _ _ _ _
  split
  · exact h
  · exact .foldl (fun _ _ h => h.contain (by decide)) _ h

end Orderly

end Sys2Proof.Machine
end

section
/-!
PROOFS. Effects and the frames of instructions, of the mailbox and of arrivals keep memory canonical.
-/

namespace Sys2Proof.Machine

-- Many small proofs side by side would each hold a thread of their own: they are elaborated one after another.
set_option Elab.async false

/-- An effect ends, or stops, at a state that comes from `a` by orderly changes: of its value `P` holds. -/
def Sound {α : Type} (a : State) (P : α → Prop) : Eff α → Prop
  | .ok x => P x
  | .error e => Orderly 0 a e.1

/-- A next state comes from `a` by orderly changes. -/
def Tidy (a : State) : Host.Outcome State Fault Refusal → Prop
  | .next u => Orderly 0 a u
  | _ => True

namespace Orderly

variable {a : State} {z : State × Stop}

theorem keepResume {r : Resume} (h : Orderly 0 a z.1) : Orderly 0 a (keepResume r z).1 := by
  obtain ⟨v, st⟩ := z
  have hv : Orderly 0 a (v.onRegs fun q => { q with resume := r }) := Orderly.onRegs h
  exact hv

theorem withMask {m k : Nat} {failed : List (Nat × Nat)} {elems : List Int} (h : Orderly 0 a z.1) :
    Orderly 0 a (withMask m failed elems k z).1 := by
  unfold Machine.withMask
  split <;> exact keepResume (z := (_, _)) h

end Orderly

namespace Sound

section
variable {α β : Type} {a s u : State} {P : α → Prop} {Q : β → Prop} {e : Eff α}

/-! ## Effects one after another -/

theorem ok {x : α} (h : P x) : Sound a P (.ok x) := h

theorem error {z : Stop} (h : Orderly 0 a s) : Sound a P (.error (s, z)) := h

theorem bind {f : α → Eff β} (he : Sound a P e) (hf : ∀ x, P x → Sound a Q (f x)) : Sound a Q (e >>= f) := by
  cases e with
  | ok x => exact hf x he
  | error z => exact he

theorem after {f : α → Eff β} (he : Sound a (fun _ => True) e) (hf : ∀ {x}, Sound a Q (f x)) : Sound a Q (e >>= f) :=
  he.bind fun _ _ => hf

theorem map {f : α → β} (he : Sound a P e) (hf : ∀ x, P x → Q (f x)) : Sound a Q (e.map f) := by
  cases e with
  | ok x => exact hf x he
  | error z => exact he

theorem ite {c : Prop} [Decidable c] {e' : Eff α} (h : c → Sound a P e) (h' : ¬c → Sound a P e') :
    Sound a P (if c then e else e') := by
  split
  · exact h ‹_›
  · exact h' ‹_›

theorem raise {code sub : Nat} (h : Orderly 0 a s) : Sound a P (raise s code sub) := h

theorem capFault {creg va ord sub : Nat} {cap : Option Cap} (h : Orderly 0 a s) : Sound a P (capFault s creg cap va ord sub) := h

theorem raiseThen {code sub : Nat} {f : α → Eff β} (h : Orderly 0 a s) : Sound a Q (Machine.raise s code sub >>= f) := h

theorem optional {c : Prop} [Decidable c] {e : Eff Unit} {f : Unit → Eff β} (he : Sound a (fun _ => True) e)
    (hf : Sound a Q (f ())) : Sound a Q (if c then e >>= f else f ()) := .ite (fun _ => he.bind fun _ _ => hf) fun _ => hf

theorem stop {z : State × Stop} (h : Orderly 0 a z.1) : Sound a P (.error z) := h

theorem pair {x : α} (h : Orderly 0 a s) : Sound a (fun y => Orderly 0 a y.1) (.ok (s, x)) := h

theorem of_eq {e' : Eff α} (h : Sound a P e) (he : e = e') : Sound a P e' := he ▸ h

theorem foldlM {f : State → α → Eff State} (hf : ∀ {v x}, Orderly 0 a v → Sound a (Orderly 0 a) (f v x)) (l : List α)
    (h : Orderly 0 a s) : Sound a (Orderly 0 a) (l.foldlM f s) := by
  induction l generalizing s with
  | nil => exact .ok h
  | cons x l ih => exact (hf h).bind fun _ hv => ih hv

end

section
variable {α : Type} {a s u : State}

theorem need {b : Bool} (h : Orderly 0 a s) : Sound a (fun _ => True) (need s b) := ite (fun _ => trivial) fun _ => h

theorem privCheck {w : Who} (h : Orderly 0 a s) : Sound a (fun _ => True) (privCheck s w) := ite (fun _ => trivial) fun _ => h

theorem detCheck {w : Who} (h : Orderly 0 a s) : Sound a (fun _ => True) (detCheck s w) := ite (fun _ => h) fun _ => trivial

theorem noSpec (h : Orderly 0 a s) : Sound a (fun _ => True) (noSpec s) := ite (fun _ => h) fun _ => trivial

theorem waitWhile {b : Bool} (h : Orderly 0 a s) : Sound a (fun _ => True) (waitWhile s b) := ite (fun _ => h) fun _ => trivial

end

theorem unitAtStop {α : Type} {P : α → Prop} {a : State} {z : State × Stop} (h : Orderly 0 a z.1) :
    Sound a P (.error (unitAtStop z)) := by
  unfold Machine.unitAtStop
  exact .error h.onCtx

end Sound

namespace Tidy

variable {a s : State} {h : Hint} {w : Who}

/-! ## The frames of instructions -/

theorem next {u : State} (ho : Orderly 0 a u) : Tidy a (.next u) := ho

theorem ite {c : Prop} [Decidable c] {o o' : Host.Outcome State Fault Refusal} (h : c → Tidy a o) (h' : ¬c → Tidy a o') :
    Tidy a (if c then o else o') := by
  split
  · exact h ‹_›
  · exact h' ‹_›

theorem settle {e : Eff State} (ho : Orderly 0 a s) (he : Sound a (Orderly 0 a) e) : Tidy a (settle s w e) := by
  obtain ⟨v, z⟩ | v := e
  · have hv : Orderly 0 a v := he
    cases z with
    | trap t => exact Orderly.ite (fun _ => ho.rollback) fun _ => hv.takeTrap
    | contained t => exact Orderly.ite (fun _ => ho.rollback) fun _ => hv.passFault
    | stall => exact ho.stalled
    | wait => exact hv
    | abandon n => exact ho.rollback
    | park p => exact Orderly.ite (fun _ => ho.rollback) fun _ => hv.parkTask
    | absent => trivial
  · exact he

theorem issueJump {body : Who → Eff State} (ho : Orderly 0 a s) (hb : ∀ w, Sound a (Orderly 0 a) (body w)) :
    Tidy a (issueJump s h body) := by
  unfold Machine.issueJump
  split
  · exact ho
  · exact .ite (fun _ => .settle ho ((hb _).map fun _ h => h.issueHold)) fun _ => ho.nextPc.clearResume.issueHold

theorem issue {body : Who → Eff State} (ho : Orderly 0 a s) (hb : ∀ w, Sound a (Orderly 0 a) (body w)) :
    Tidy a (issue s h body) := .issueJump ho fun w => (hb w).map fun _ h => h.nextPc.clearResume

theorem issueEnd {body : Who → Eff State} (ho : Orderly 0 a s) (hb : ∀ w, Sound a (Orderly 0 a) (body w)) :
    Tidy a (issueEnd s h body) := by
  unfold Machine.issueEnd
  split
  · exact ho
  · exact .ite (fun _ => .settle ho (hb _)) fun _ => ho.nextPc.clearResume.issueHold

theorem issueAlways {body : Who → Eff State} (ho : Orderly 0 a s) (hb : ∀ w, Sound a (Orderly 0 a) (body w)) :
    Tidy a (issueAlways s h body) := by
  unfold Machine.issueAlways
  split
  · exact ho
  · exact .settle ho ((hb _).map fun _ h => h.nextPc.clearResume.issueHold)

theorem issueSignal {body : Who → Nat → Eff State} (ho : Orderly 0 a s) (hb : ∀ w n, Sound a (Orderly 0 a) (body w n)) :
    Tidy a (issueSignal s h body) :=
  .issue ho fun w => .ite (fun _ => .ok ho.onRun) fun _ => (hb w _).map fun _ h => h.onRun

theorem issueMatrix {body : Who → Eff State} (ho : Orderly 0 a s) (hb : ∀ w, Sound a (Orderly 0 a) (body w)) :
    Tidy a (issueMatrix s h body) := by
  unfold Machine.issueMatrix
  split
  · exact ho
  · exact .ite (fun _ => .settle ho (.raise ho)) fun _ => .issue ho hb

theorem issueVector {body : Who → Eff (State × List Nat)} (ho : Orderly 0 a s)
    (hb : ∀ w, Sound a (fun x => Orderly 0 a x.1) (body w)) : Tidy a (issueVector s h body) := by
  refine .issue ho fun w => (Sound.waitWhile ho).bind fun _ _ => ?_
  have hw := hb w
  split
  next he =>
    rw [he] at hw
    exact Orderly.onCtx hw
  next he =>
    rw [he] at hw
    exact Sound.unitAtStop hw

/-! ## The steward -/

/-- A steward's effect ends, or waits, at a state that comes from `a` by orderly changes: of its value `P` holds. -/
def Served {α : Type} (a : State) (P : α → Prop) : Except StwStop α → Prop
  | .ok x => P x
  | .error (.wait u) => Orderly 0 a u
  | .error _ => True

namespace Served

variable {α β : Type} {P : α → Prop} {Q : β → Prop} {e : Except StwStop α}

theorem ok {x : α} (hx : P x) : Served a P (.ok x) := hx

theorem bind {f : α → Except StwStop β} (he : Served a P e) (hf : ∀ x, P x → Served a Q (f x)) : Served a Q (e >>= f) := by
  cases e with
  | ok x => exact hf x he
  | error z => cases z <;> exact he

theorem ite {c : Prop} [Decidable c] {e' : Except StwStop α} (he : c → Served a P e) (he' : ¬c → Served a P e') :
    Served a P (if c then e else e') := by
  split
  · exact he ‹_›
  · exact he' ‹_›

theorem operandError : Served a P Machine.operandError := trivial

theorem after {f : α → Except StwStop β} (he : Served a (fun _ => True) e) (hf : ∀ {x}, Served a Q (f x)) : Served a Q (e >>= f) :=
  he.bind fun _ _ => hf

theorem need {b : Bool} : Served a (fun _ => True) (stwNeed b) := ite (fun _ => trivial) fun _ => trivial

theorem kIndex {v : Word} : Served a (fun _ => True) (kIndex v) := ite (fun _ => trivial) fun _ => trivial

theorem descriptor {v : Word} : Served a (fun _ => True) (descriptor s v) := .after need <| .after need trivial

end Served

theorem stewardJump {len : Nat} {regs : List Reg} {body : State → StwEff} (ho : Orderly 0 a s)
    (hb : ∀ {v}, Orderly 0 a v → Served a (Orderly 0 a) (body v)) : Tidy a (stewardJump s len regs body) := by
  refine .ite (fun _ => ho) fun _ => ?_
  have h1 : Orderly 0 a s.stwRemember := ho.stwRemember
  have hv := hb h1
  split
  next he =>
    rw [he] at hv
    exact Orderly.onStw hv
  · exact h1
  next he =>
    rw [he] at hv
    exact hv
  · exact h1.onStw
  · exact h1.onStw

theorem stewardIssue {len : Nat} {regs : List Reg} {body : State → StwEff} (ho : Orderly 0 a s)
    (hb : ∀ {v}, Orderly 0 a v → Served a (Orderly 0 a) (body v)) : Tidy a (stewardIssue s len regs body) := by
  refine .stewardJump ho fun {v} hv => ?_
  have hw := hb hv
  cases he : body v with
  | ok u =>
    rw [he] at hw
    exact Orderly.stwAdvance hw
  | error z =>
    rw [he] at hw
    exact hw

/-! ## Arrivals, requests of supervisors, the mailbox -/

/-- What an arriving packet makes of the state comes from `a` by orderly changes. -/
def Arrived (a : State) : Option (Option State) → Prop
  | some (some u) => Orderly 0 a u
  | _ => True

theorem Arrived.took {u : State} (hu : Orderly 0 a u) : Arrived a (some (some u)) := hu

theorem Arrived.may {o : Option State} (hu : ∀ {u}, o = some u → Orderly 0 a u) : Arrived a (some o) := by
  cases o with
  | none => trivial
  | some u => exact hu rfl

theorem arrival {f : State → Packet → Option (Option State)} (ho : Orderly 0 a s)
    (hf : ∀ {v p}, Orderly 0 a v → Arrived a (f v p)) : Tidy a (arrival s f) := by
  unfold Machine.arrival
  split
  · exact ho
  next v p _ =>
    have hp := hf (p := p) ho.taken
    split
    · exact ho
    next he =>
      rw [he] at hp
      exact hp
    · exact ho.heldBack

theorem serveMay {op : Nat} {f : State → Request → State × Option Reply} (ho : Orderly 0 a s)
    (hf : ∀ {v r}, Orderly 0 a v → Orderly 0 a (f v r).1) : Tidy a (serveMay op s f) := by
  unfold Machine.serveMay
  split
  · exact ho
  · split
    · refine .ite (fun _ => ho) fun _ => ?_
      extract_lets answered
      have hr {v : State} {r : Reply} (h : Orderly 0 a v) : Orderly 0 a (answered v r) := h.onSupv.reply
      refine .ite (fun _ => hr ho) fun _ => ?_
      split
      next he => exact hr ((hf ho).of_fst he)
      next he => exact (hf ho).of_fst he
    · exact ho.onSupv

theorem serve {op : Nat} {f : State → Request → State × Reply} (ho : Orderly 0 a s)
    (hf : ∀ {v r}, Orderly 0 a v → Orderly 0 a (f v r).1) : Tidy a (serve op s f) := .serveMay ho fun h => hf h

/-- What a command comes to comes from `a` by orderly changes. -/
def Done (a : State) : Check Machine.Done → Prop
  | .ok (.ok u _) => Orderly 0 a u
  | .ok (.later u) => Orderly 0 a u
  | .error _ => True

namespace Done

theorem ok {u : State} {r : Word} (hu : Orderly 0 a u) : Done a (.ok (.ok u r)) := hu

theorem later {u : State} (hu : Orderly 0 a u) : Done a (.ok (.later u)) := hu

theorem error {z : Nat × Nat} : Done a (.error z) := trivial

theorem bind {β : Type} {e : Check β} {f : β → Check Machine.Done} (hf : ∀ x, Done a (f x)) : Done a (e >>= f) := by
  cases e with
  | ok x => exact hf x
  | error z => trivial

theorem ite {c : Prop} [Decidable c] {d d' : Check Machine.Done} (hd : c → Done a d) (hd' : ¬c → Done a d') :
    Done a (if c then d else d') := by
  split
  · exact hd ‹_›
  · exact hd' ‹_›

end Done

theorem mailbox {op : Nat} {buf : Mbox} {which : Cmd → Bool} {f : State → Cmd → Check Machine.Done} (ho : Orderly 0 a s)
    (hf : ∀ c, Done a (f s c)) : Tidy a (mailbox op buf s which f) := by
  refine .ite (fun _ => ho) fun _ => .ite (fun _ => ho.mailboxDone) fun _ => .ite (fun _ => ho) fun _ => ?_
  have hc := hf ⟨word (field (leNat ((buf.bytes.take s.assay.box.len).take 64)) 0 64),
    ((buf.bytes.take s.assay.box.len).drop 64).take (field (leNat ((buf.bytes.take s.assay.box.len).take 64)) 128 32)⟩
  split
  · exact ho.mailboxDone
  next he =>
    rw [he] at hc
    exact Orderly.mailboxDone hc
  next he =>
    rw [he] at hc
    exact Orderly.onBox hc

end Tidy

end Sys2Proof.Machine
end

section
/-!
PROOFS. The effects of operands, memory, messages, streams and the matrix engine keep memory canonical.
-/

namespace Sys2Proof.Machine

-- Many small proofs side by side would each hold a thread of their own: they are elaborated one after another.
set_option Elab.async false

namespace Sound

variable {α : Type} {a s : State}

/-! ## Base -/

theorem walk {f : Nat → State → Eff State} {n k : Nat} (hf : ∀ {k v}, Orderly 0 a v → Sound a (Orderly 0 a) (f k v)) (h :
    Orderly 0 a s) :
    Sound a (Orderly 0 a) (walk f n k s) := by
  induction n generalizing k s with
  | zero => exact .ok h
  | succ n ih =>
    have hk := hf (k := k) h
    unfold Machine.walk
    split
    next he => exact ih (hk.of_eq he)
    next he => exact .stop (hk.of_eq he : Orderly 0 a _).keepResume

/-! ## Ops -/

theorem resolve {w : Who} {va creg ord : Nat} {wr op : Bool} {cap : Option Cap} (h : Orderly 0 a s) :
    Sound a (fun x => Orderly 0 a x.1) (s.resolve w va wr op creg cap ord) := by
  refine .ite (fun _ => ?_) fun _ => .ite (fun _ => .pair h) fun _ => .error h
  split
  next he =>
    have h1 := h.translate.of_fst he
    exact .ite (fun _ => .pair h1) fun _ => .ite (fun _ => .pair h1) fun _ => .error h1
  next he => exact .error (h.translate.of_fst he)
  next he =>
    have h1 := h.translate.of_fst he
    exact .ite (fun _ => .error h1) fun _ => .error h1.pageRequest

theorem eccCheck {w : Who} {a' n va creg ord : Nat} {cap : Option Cap} (h : Orderly 0 a s) :
    Sound a (Orderly 0 a) (s.eccCheck w a' n va creg cap ord) := by
  unfold State.eccCheck
  split
  · exact .error h
  · exact .ok h.eccCorrect

theorem imageCheck {w : Who} {off n : Nat} (h : Orderly 0 a s) : Sound a (Orderly 0 a) (s.imageCheck w off n) :=
  .ite (fun _ => .ok h) fun _ => .foldlM .eccCheck _ h

theorem constNat {w : Who} {off n : Nat} (h : Orderly 0 a s) : Sound a (fun x => Orderly 0 a x.1) (s.constNat w off n) :=
  (Sound.imageCheck h).bind fun _ h1 => .pair h1

theorem logWrite {pl : LogPlace} {cap : Cap} {off a' : Nat} {bs : List Byte} (h : Orderly 0 a s) :
    Sound a (Orderly 0 a) (s.logWrite pl cap off a' bs) :=
  .ite (fun _ => .error h) fun _ => .ite (fun _ => .error h) fun _ => .ok h.takeOrd.onCtx

theorem writeOut {cap : Cap} {off a' : Nat} {bs : List Byte} (h : Orderly 0 a s) :
    Sound a (Orderly 0 a) (s.writeOut cap off a' bs) :=
  .ite (fun _ => .logWrite h) fun _ => .ite (fun _ => .ok h.takeOrd.onCtx) fun _ => .ok h.perform

theorem askRemote {w : Who} {a' : Ask} {creg : Nat} {cap : Option Cap} (h : Orderly 0 a s) :
    Sound a (fun x => Orderly 0 a x.1) (s.askRemote w a' creg cap) := by
  unfold State.askRemote
  refine .ite (fun _ => .error h) fun _ => ?_
  split
  · exact .ite (fun _ => .pair h.onCtx) fun _ => .error h.onCtx
  · exact .error h.of_mem.onCtx

theorem access {w : Who} {c : CapOp} {size : Nat} {acc : Access} (h : Orderly 0 a s) :
    Sound a (fun x => Orderly 0 a x.1) (s.access w c size acc) := by
  unfold State.access
  dsimp only
  split
  · exact .ite (fun _ => .error h) fun _ => (Sound.resolve h.validated).bind fun ⟨_, _⟩ h1 => .pair h1
  · exact .capFault h
  · exact .error h
  · exact .pair h
  · exact .capFault h

theorem load {w : Who} {c : CapOp} {size : Nat} (h : Orderly 0 a s) : Sound a (fun x => Orderly 0 a x.1) (s.load w c size) := by
  unfold State.load
  refine (Sound.access h).bind fun ⟨_, _, _, _⟩ h1 => ?_
  dsimp only
  split
  · exact (Sound.askRemote h1).bind fun ⟨_, _⟩ h2 => .pair h2
  · exact (Sound.askRemote h1).bind fun ⟨_, _⟩ h2 => .pair h2
  · exact .after (.waitWhile h1) <| (Sound.eccCheck h1).bind fun _ h2 => .pair h2.markRead

theorem store {w : Who} {c : CapOp} {bs : List Byte} (h : Orderly 0 a s) : Sound a (Orderly 0 a) (s.store w c bs) := by
  unfold State.store
  refine (Sound.access h).bind fun ⟨_, _, _, _⟩ h1 => ?_
  dsimp only
  split
  · exact .ite (fun _ => (Sound.askRemote h1).bind fun ⟨_, _⟩ h2 => .logWrite h2) fun _ =>
      (Sound.askRemote h1).bind fun ⟨_, _⟩ h2 => .ok h2
  · exact .ite (fun _ => (Sound.askRemote h1).bind fun ⟨_, _⟩ h2 => .logWrite h2) fun _ =>
      (Sound.askRemote h1).bind fun ⟨_, _⟩ h2 => .ok h2
  · exact .after (.waitWhile h1) <| .writeOut h1

theorem post {p : Post} {signal : Option Nat} (h : Orderly 0 a s) : Sound a (Orderly 0 a) (s.post p signal) :=
  .ite (fun _ => .ite (fun _ => .ok h.takeOrd.onCtx) fun _ => .error h.takeOrd) fun _ => .ite (fun _ =>
    .ok h.takeOrd.onCtx) fun _ => .ok h.takeOrd.release

theorem postPacket {w : Who} {dst : Place} {len : Nat} {b' : Body} {signal : Option Nat} (h : Orderly 0 a s) :
    Sound a (Orderly 0 a) (s.postPacket w dst len b' signal) := .ite (fun _ => .raise h) fun _ => .post h

theorem askOperation {w : Who} {a' : Ask} {creg : Nat} {cap : Option Cap} (h : Orderly 0 a s) :
    Sound a (Orderly 0 a) (s.askOperation w a' creg cap) := by
  unfold State.askOperation
  split
  · exact .ite (fun _ => .ok h.onCtx) fun _ => .error h.onCtx
  · exact (Sound.postPacket h.of_mem).bind fun _ h1 => .error h1.notRetriable.onCtx

theorem endTask {kind : EndKind} (h : Orderly 0 a s) : Sound a (Orderly 0 a) (s.endTask kind) := by
  unfold State.endTask
  refine .after (.waitWhile h) fun {_} => ?_
  split
  · exact .raise h.onCtx
  · exact .ite (fun _ => .ok h.onCtx) fun _ => .ok (h.finishEnd (by decide))

theorem destForm {w : Who} {x : Word} {r : DestRule} (h : Orderly 0 a s) : Sound a (fun _ => True) (destForm s w x r) := by
  unfold Machine.destForm
  exact .optional (.raise h) <| .need h

theorem destPlace {w : Who} {x : Word} (h : Orderly 0 a s) : Sound a (fun _ => True) (destPlace s w x) :=
  .ite (fun _ => .raise h) fun _ => .ok trivial

theorem checkDest {w : Who} {x : Word} {r : DestRule} (h : Orderly 0 a s) : Sound a (fun _ => True) (checkDest s w x r) :=
  .after (.destForm h) <| .destPlace h

/-! ## Operands -/

theorem wholeCap {c : CapOp} (h : Orderly 0 a s) : Sound a (fun _ => True) (wholeCap s c) :=
  .ite (fun _ => .ok trivial) fun _ => .raise h

theorem viewNamed {w : Who} {v : Vreg} (h : Orderly 0 a s) : Sound a (fun _ => True) (viewNamed s w v) := .need h

theorem viewIn {w : Who} {v : Vreg} (h : Orderly 0 a s) : Sound a (fun _ => True) (viewIn s w v) := by
  unfold Machine.viewIn
  refine .after (.viewNamed h) fun {_} => ?_
  split
  · exact .ok trivial
  · exact .raise h

theorem boundRing {hd : Hreg} (h : Orderly 0 a s) : Sound a (fun _ => True) (boundRing s hd) := by
  unfold Machine.boundRing
  split
  · exact .ok trivial
  · exact .raise h

/-! ## MemCap -/

theorem sourceCap {i : Nat} (h : Orderly 0 a s) : Sound a (fun _ => True) (sourceCap s i) := by
  unfold Machine.sourceCap
  split
  · exact .ok trivial
  · exact .capFault h

theorem needG {i : Nat} {c : Cap} (h : Orderly 0 a s) : Sound a (fun _ => True) (needG s i c) :=
  .ite (fun _ => .ok trivial) fun _ => .capFault h

theorem consultHome {w : Who} {i op arg : Nat} {c : Cap} (h : Orderly 0 a s) :
    Sound a (fun x => Orderly 0 a x.1) (consultHome s w i c op arg) :=
  .ite (fun _ => .after (.waitWhile h) <| .ite (fun _ => .pair h) fun _ => .capFault h) fun _ =>
    (Sound.askRemote h).bind fun ⟨_, _⟩ h1 => .pair h1

theorem dropCheck {w : Who} {i : Nat} {c : Cap} (h : Orderly 0 a s) : Sound a (fun x => Orderly 0 a x.1) (dropCheck s w i c) :=
  .ite (fun _ => .ite (fun _ => .capFault h) fun _ => .pair h) fun _ => (Sound.askRemote h).bind fun ⟨_, _⟩ h1 => .pair h1

theorem mayReclaim {w : Who} {i : Nat} {c : Cap} (h : Orderly 0 a s) : Sound a (fun _ => True) (mayReclaim s w i c) :=
  .ite (fun _ => .optional (.raise h) <| .waitWhile h) fun _ => .optional (.raise h) <| .optional (.capFault h) <| .waitWhile h

/-! ## Messages -/

theorem localPost (h : Orderly 0 a s) : Sound a (fun _ => True) (localPost s) := .waitWhile h

theorem landPlace {w : Who} {d : LandDest} (h : Orderly 0 a s) : Sound a (fun _ => True) (landPlace s w d) := by
  unfold Machine.landPlace
  split
  · exact .after (.checkDest h) <| .ok trivial
  · exact .ok trivial

theorem messageOperands {n : Nat} {a' : Imm} {b' : Reg} (h : Orderly 0 a s) : Sound a (fun _ => True) (messageOperands s n a' b') :=
  .need h

theorem kickEntry {w : Who} {kind pslot : Nat} {cap : Option Cap} {args : List Word} (h : Orderly 0 a s) :
    Sound a (fun x => Orderly 0 a x.1) (s.kickEntry w kind pslot cap args) := by
  unfold State.kickEntry
  dsimp only
  split
  · exact .raise h
  · exact .pair h.onLocal

theorem constImage {w : Who} {v : Imm} (h : Orderly 0 a s) : Sound a (fun x => Orderly 0 a x.1) (constImage s w v) :=
  .after (.need h) <| (Sound.constNat h).bind fun ⟨_, _⟩ h1 => .pair h1

theorem enqueueHere {w : Who} {img : RecImage} {words : List Word} {signal : Option Nat} (h : Orderly 0 a s) :
    Sound a (Orderly 0 a) (enqueueHere s w img words signal) := by
  unfold Machine.enqueueHere
  exact .optional (.raise h) <| .optional (.raise h) <| .post h

theorem kickCap {d : Option CapOp} (h : Orderly 0 a s) : Sound a (fun _ => True) (kickCap s d) := by
  unfold Machine.kickCap
  split
  · exact .ok trivial
  · refine .after (.wholeCap h) fun {_} => ?_
    refine .after (.waitWhile h) fun {_} => ?_
    split
    · exact .capFault h
    · exact .ite (fun _ => .ok trivial) fun _ => .capFault h

theorem operateRemote {w : Who} {a' : Ask} {i : Nat} {k : Cap} (h : Orderly 0 a s) :
    Sound a (Orderly 0 a) (s.operateRemote w a' i k) := .askOperation h

theorem operation {w : Who} {fn fmt : Nat} {c : CapOp} {a' : Reg} {ret : Option LandAt} (h : Orderly 0 a s) :
    Sound a (Orderly 0 a) (operation s w fn fmt c a' ret) := by
  unfold Machine.operation
  refine .optional (.detCheck h) ?_
  refine .after (.need h) fun {_} => ?_
  refine .after (.noSpec h) fun {_} => ?_
  dsimp only
  split
  · exact .capFault h
  · refine .optional (.raise h) ?_
    split
    · refine .optional (.capFault h) ?_
      refine (Sound.access h).bind fun ⟨_, _, _, _⟩ h1 => ?_
      split
      · exact .after (.waitWhile h1) <| (Sound.postPacket h1).map fun _ h => h.notRetriable
      · exact .operateRemote h1
      · exact .operateRemote h1
    · refine .after (.ok trivial) fun {_} => ?_
      refine (Sound.access h).bind fun ⟨_, _, _, _⟩ h1 => ?_
      split
      · exact .after (.waitWhile h1) <| (Sound.postPacket h1).map fun _ h => h.notRetriable
      · exact .operateRemote h1
      · exact .operateRemote h1

/-! ## BitManip -/

theorem fieldDesc {b' : RegImm} (h : Orderly 0 a s) : Sound a (fun _ => True) (fieldDesc b' s) :=
  .after (.need h) <| .after (.need h) <| .ok trivial

/-! ## Stream -/

theorem bindView {w : Who} {r : Vreg} {dest : Bool} (h : Orderly 0 a s) : Sound a (fun _ => True) (bindView s w r dest) := by
  unfold Machine.bindView
  refine .after (.viewIn h) fun {_} => ?_
  refine .after (.need h) fun {_} => ?_
  refine .after (.ite (fun _ => (Sound.boundRing h).bind fun _ _ => .ok trivial) fun _ => .ok trivial) fun {_} => ?_
  split
  · exact .ok trivial
  · exact .after (.need h) <| .ite (fun _ => .ok trivial) fun _ => .raise h

theorem matchedInto {d : View} {l : List View} (h : Orderly 0 a s) : Sound a (fun _ => True) (matchedInto s d l) := by
  unfold Machine.matchedInto
  split
  · exact .ite (fun _ => .ok trivial) fun _ => .raise h
  · exact .raise h

theorem elemCheck {w : Who} {b' : BoundView} {e : Elem} {acc : Access} {ord : Nat} (h : Orderly 0 a s) :
    Sound a (fun x => Orderly 0 a x.1) (s.elemCheck w b' e acc ord) := by
  unfold State.elemCheck
  dsimp only
  split
  · exact .ite (fun _ => .pair h.validated) fun _ => .error h
  · exact .capFault h
  · exact .error h
  · exact .capFault h

theorem elemBytes {w : Who} {b' : BoundView} {e : Elem} {ord : Nat} (h : Orderly 0 a s) :
    Sound a (fun x => Orderly 0 a x.1) (s.elemBytes w b' e ord) :=
  (Sound.elemCheck h).bind fun ⟨_, _, _, _⟩ h1 => .after (.waitWhile h1) <| (Sound.eccCheck h1).bind fun _ h2 => .pair h2.markRead

theorem readElem {w : Who} {b' : BoundView} {t : Ty} {idx : List Nat} {ord : Nat} (h : Orderly 0 a s) :
    Sound a (fun x => Orderly 0 a x.1) (s.readElem w b' t idx ord) :=
  (Sound.elemBytes h).bind fun ⟨_, _⟩ h1 => .ite (fun _ => .pair h1) fun _ => .pair h1

theorem writeElem {w : Who} {b' : BoundView} {t : Ty} {idx : List Nat} {v ord : Nat} (h : Orderly 0 a s) :
    Sound a (fun x => Orderly 0 a x.1) (s.writeElem w b' t idx v ord) :=
  (Sound.elemCheck h).bind fun ⟨_, _, _, _⟩ h1 => .after (.waitWhile h1) <| .ite (fun _ => (Sound.writeOut h1).bind fun _ h2 =>
    .pair h2) fun _ => (Sound.writeOut h1).bind fun _ h2 => .pair h2

theorem readSrc {w : Who} {x : VSrc} {t : Ty} {idx : List Nat} {ord : Nat} (h : Orderly 0 a s) :
    Sound a (fun x => Orderly 0 a x.1) (s.readSrc w x t idx ord) := by
  unfold State.readSrc
  split
  · exact .readElem h
  · exact .pair h

theorem bindSrc {w : Who} {b' : Src} {t : Ty} {mode : Mode} {sat : Bool} (h : Orderly 0 a s) :
    Sound a (fun _ => True) (bindSrc s w b' t mode sat) := by
  unfold Machine.bindSrc
  split
  · exact .after (.bindView h) <| .ok trivial
  · exact .ok trivial
  · exact .ok trivial

theorem wdogStop {k ord : Nat} {run : List RunVal} {P : α → Prop} (h : Orderly 0 a s) : Sound a P (wdogStop s k ord run) :=
  .stop (Orderly.keepResume (z := (_, _)) h)

theorem laneCheck {l : Assoc Shadow} {pass ord : Nat} (h : Orderly 0 a s) : Sound a (fun _ => True) (laneCheck l pass ord s) :=
  .ite (fun _ => .error h.laneCount) fun _ => .ok trivial

theorem laned {β : Type} {l : Assoc Shadow} {pass : Nat → Nat} {k ord : Nat} {f : State → Eff (State × β)} (h : Orderly 0 a s)
    (hf : ∀ {v}, Orderly 0 a v → Sound a (fun x => Orderly 0 a x.1) (f v)) :
    Sound a (fun x => Orderly 0 a x.1) (laned l pass k ord s f) :=
  .ite (fun _ => hf h) fun _ => .after (.laneCheck h) <| (hf h).bind fun ⟨_, _⟩ h1 => .pair h1.laneDone

theorem stream {es : List Nat} {lanes : Nat} {f : Nat → State → Eff State} (h : Orderly 0 a s) (hf : ∀
    {k v}, Orderly 0 a v → Sound a (Orderly 0 a) (f k v)) :
    Sound a (Orderly 0 a) (stream s es lanes f) := by
  refine (Sound.walk (fun hv => ?_) h).bind fun _ h1 => .ite (fun _ => .wdogStop h1) fun _ => .ok h1
  exact .ite (fun _ => hf hv) fun _ => (Sound.laned hv fun h1 => (hf h1).map fun _ h => h).map fun _ h => h

/-! ## Vector -/

theorem element {w : Who} {d : BoundView} {dt : Ty} {idx : List Nat} {k : Nat} {r : Res} {fl : Flags} (h : Orderly 0 a s) :
    Sound a (Orderly 0 a) (s.element w d dt idx k r fl) := (Sound.writeElem h).bind fun ⟨_, _⟩ h1 => .ok h1.setFlags

theorem reduceWalk {f : Nat → State → List RunVal → Eff (State × List RunVal)} {ordOf : Nat → Nat} {n p : Nat}
    {run : List RunVal} (hf : ∀ {p v run}, Orderly 0 a v → Sound a (fun x => Orderly 0 a x.1) (f p v run)) (h : Orderly 0 a s) :
    Sound a (fun x => Orderly 0 a x.1) (reduceWalk f ordOf n p s run) := by
  induction n generalizing p s run with
  | zero => exact .pair h
  | succ n ih =>
    have hp := hf (p := p) (run := run) h
    unfold Machine.reduceWalk
    split
    next he => exact ih (hp.of_eq he)
    next he => exact .stop (hp.of_eq he : Orderly 0 a _).keepResume

theorem reduce {mode : Nat} {t u : Ty} {m : Mode} {sat : Bool} {w : Who} {va : BoundView}
    {out : State → Nat → Nat → RunVal → Nat → Eff State} (h : Orderly 0 a s) (ho : ∀
    {v row i new k}, Orderly 0 a v → Sound a (Orderly 0 a) (out v row i new k)) :
    Sound a (Orderly 0 a) (reduce s mode t u m sat w va out) := by
  unfold Machine.reduce
  refine (Sound.reduceWalk (fun h1 => .laned h1 fun h2 => ?_) h).bind fun ⟨_, _⟩ h1 => .ite (fun _ => .wdogStop h1) fun _ => .ok h1
  exact (Sound.readElem h2).bind fun ⟨_, _, _⟩ h3 => (ho h3).bind fun _ h4 => .pair h4

theorem reduceImm {b' : Imm} {t : Ty} (h : Orderly 0 a s) : Sound a (fun _ => True) (reduceImm s b' t) :=
  .after (.need h) <| .after (.need h) <| .ok trivial

theorem indexedCheck {w : Who} {c : CapOp} {t : Ty} {acc : Access} {e : Int} {k : Nat} (h : Orderly 0 a s) :
    Sound a (fun _ => True) (indexedCheck s w c t acc e k) := by
  unfold Machine.indexedCheck
  dsimp only
  split
  · exact .capFault h
  · exact .error h
  · exact .capFault h
  · exact .ite (fun _ => .capFault h) fun _ => .ok trivial
  · exact .ok trivial

theorem gatherIndex {w : Who} {a' : GatherArgs} {k : Nat} (h : Orderly 0 a s) :
    Sound a (fun x => Orderly 0 a x.1) (gatherIndex s w a' k) := (Sound.readElem h).bind fun ⟨_, _, _⟩ h1 => .pair h1

theorem gatherOther {w : Who} {a' : GatherArgs} {k : Nat} (h : Orderly 0 a s) : Sound a (Orderly 0 a) (gatherOther s w a' k) :=
  (Sound.elemCheck h).bind fun ⟨_, _, _, _⟩ h1 => .ok h1

theorem gatherCheck {w : Who} {a' : GatherArgs} {k : Nat} (h : Orderly 0 a s) :
    Sound a (fun x => Orderly 0 a x.1) (gatherCheck s w a' k) :=
  (Sound.gatherIndex h).bind fun ⟨_, _⟩ h1 => .ite (fun _ => .after (.indexedCheck h1) <| (Sound.gatherOther h1).bind fun _ h2 =>
    .pair h2) fun _ => (Sound.gatherOther h1).bind fun _ h2 => .after (.indexedCheck h2) <| .pair h2

theorem gatherChecks {w : Who} {g : GatherArgs} {m : Nat} {ks : List Nat} {out : List Int} (h : Orderly 0 a s) :
    Sound a (fun x => Orderly 0 a x.1) (gatherChecks s w g m ks out) := by
  induction ks generalizing s out with
  | nil => exact .pair h
  | cons k ks ih =>
    have hk : Sound a _ (Machine.laned s.cur.lanes (passOf (g.es.getD 0 1) Ty.i32.lanes) k k s fun s =>
      Machine.gatherCheck s w g k) :=
      .laned h .gatherCheck
    unfold Machine.gatherChecks
    split
    next he => exact ih (hk.of_eq he)
    next he => exact .ite (fun _ => ih h) fun _ => .stop (hk.of_eq he : Orderly 0 a _).withMask

theorem gatherHome {w : Who} {g : GatherArgs} {cap : Cap} {m n : Nat} (h : Orderly 0 a s) :
    Sound a (Orderly 0 a) (gatherHome s w g cap m n) := by
  unfold Machine.gatherHome
  refine .ite (fun _ => .ok h) fun _ => ?_
  extract_lets first before
  have hb : Sound a (fun x => Orderly 0 a x.1) before :=
    (Sound.gatherIndex h).bind fun ⟨_, _⟩ h1 => .ite (fun _ => .pair h1) fun _ => (Sound.gatherOther h1).bind fun _ h2 => .pair h2
  clear_value before
  split
  · exact .stop (Orderly.withMask hb)
  · have h1 : Orderly 0 a _ := hb
    split
    next he => exact .ok (Sound.askRemote h1 |>.of_eq he)
    next he => exact .stop (Sound.askRemote h1 |>.of_eq he : Orderly 0 a _).withMask

theorem gatherElems {w : Who} {a' : GatherArgs} {m n : Nat} {known : List Int} (h : Orderly 0 a s) :
    Sound a (fun x => Orderly 0 a x.1) (gatherElems s w a' m n known) := by
  unfold Machine.gatherElems
  refine .ite (fun _ => .pair h) fun _ => ?_
  split
  · exact .gatherChecks h
  · exact (Sound.gatherHome h).bind fun _ h1 => .gatherChecks h1

theorem gatherOne {w : Who} {c : CapOp} {wr : Bool} {cap : Cap} {off k : Nat} {g : Gathered} {elems : List Int}
    {perform : State → Loc → Eff State} (h : Orderly 0 a s) (hp : ∀ {v l}, Orderly 0 a v → Sound a (Orderly 0 a) (perform v l)) :
    Sound a (fun x => Orderly 0 a x.1) (gatherOne s w c wr cap off g k elems perform) := by
  unfold Machine.gatherOne
  extract_lets va at' failed
  have hat : Sound a (fun x => Orderly 0 a x.1) at' := .ite (fun _ => .pair h) fun _ => .resolve h.validated
  have hfailed {v : State} {t : Trap} (h : Orderly 0 a v) : Sound a (fun x => Orderly 0 a x.1) (failed v t) :=
    .ite (fun _ => .pair h) fun _ => .ite (fun _ => .pair h) fun _ => .stop (Orderly.withMask (z := (_, _)) h)
  refine .ite (fun _ => .pair h) fun _ => ?_
  clear_value at' failed
  split
  next v l =>
    have h1 := hp (l := l) hat
    split
    next he => exact .pair (h1.of_eq he)
    next he => exact hfailed (h1.of_eq he)
    next he => exact .stop (h1.of_eq he : Orderly 0 a _).withMask
  · exact hfailed hat
  · exact .pair hat
  · exact .stop (Orderly.withMask hat)

theorem gatherAll {w : Who} {c : CapOp} {wr : Bool} {cap : Cap} {t : Ty} {xs : List Int} {perform : Nat → State → Loc → Eff State}
    {ks : List Nat} {g : Gathered} (hp : ∀ {k v l}, Orderly 0 a v → Sound a (Orderly 0 a) (perform k v l)) (h : Orderly 0 a s) :
    Sound a (fun x => Orderly 0 a x.1) (gatherAll w c wr cap t xs perform ks s g) := by
  induction ks generalizing s g with
  | nil => exact .pair h
  | cons k ks ih =>
    have hk : Sound a _ (Machine.gatherOne s w c wr cap (xs.getD k 0 * t.size).toNat g k xs (perform k)) := .gatherOne h hp
    refine .ite (fun _ => ih h) fun _ => ?_
    split
    next he => exact ih (hk.of_eq he)
    next he => exact .stop (hk.of_eq he)

theorem gatherEnd {w : Who} {c : CapOp} {cap : Cap} {t : Ty} {xs : List Int} {g : Gathered} (h : Orderly 0 a s) :
    Sound a (Orderly 0 a) (gatherEnd s w c cap t xs g) := by
  have hmask {m k : Nat} {f : List (Nat × Nat)} {es : List Int} {z : Stop} :
      Sound a (Orderly 0 a) (.error (Machine.withMask m f es k (s, z))) := .stop (Orderly.withMask (z := (_, _)) h)
  refine .ite (fun _ => hmask) fun _ => .ite (fun _ => .stop (Orderly.keepResume (z := (_, _)) h)) fun _ => ?_
  split
  · exact .ok h
  · exact hmask

theorem indexedBytes {w : Who} {c : CapOp} {cap : Cap} {off n : Nat} {l : Loc} (h : Orderly 0 a s) :
    Sound a (fun x => Orderly 0 a x.1) (s.indexedBytes w c cap off n l) := by
  unfold State.indexedBytes
  split
  · exact (Sound.askRemote h).bind fun ⟨_, _⟩ h1 => .pair h1
  · exact (Sound.askRemote h).bind fun ⟨_, _⟩ h1 => .pair h1
  · exact .after (.waitWhile h) <| (Sound.eccCheck h).bind fun _ h1 => .pair h1.markRead

theorem putIndexed {w : Who} {c : CapOp} {cap : Cap} {off : Nat} {bs : List Byte} {l : Loc} (h : Orderly 0 a s) :
    Sound a (Orderly 0 a) (s.putIndexed w c cap off bs l) := by
  unfold State.putIndexed
  split
  · exact .ite (fun _ => (Sound.askRemote h).bind fun ⟨_, _⟩ h1 => .logWrite h1) fun _ => (Sound.askRemote h).bind fun ⟨_, _⟩ h1 =>
      .ok h1
  · exact .ite (fun _ => (Sound.askRemote h).bind fun ⟨_, _⟩ h1 => .logWrite h1) fun _ => (Sound.askRemote h).bind fun ⟨_, _⟩ h1 =>
      .ok h1
  · exact .after (.waitWhile h) <| .writeOut h

/-! ## Collective -/

theorem recordPlace {w : Who} {d : CollDest} (h : Orderly 0 a s) : Sound a (fun _ => True) (recordPlace s w d) := by
  unfold Machine.recordPlace
  split
  · exact .after (.need h) <| .after (.checkDest h) <| .optional (.raise h) <| .ok trivial
  · exact .after (.need h) <| .ok trivial
  · exact .after (.need h) <| (Sound.boundRing h).bind fun _ _ => .ok trivial

/-! ## Matrix -/

theorem accOf {m : Mreg} (h : Orderly 0 a s) : Sound a (fun _ => True) (accOf s m) := by
  unfold Machine.accOf
  split
  · exact .ok trivial
  · exact .raise h

theorem mxView {w : Who} {r : Vreg} {dest : Bool} {rank : Nat} {shape : Nat → Nat → Bool} (h : Orderly 0 a s) :
    Sound a (fun _ => True) (mxView s w r dest rank shape) := by
  unfold Machine.mxView
  refine .after (.viewIn h) fun {_} => ?_
  refine .after (.need h) fun {_} => ?_
  refine .after (.ite (fun _ => (Sound.boundRing h).bind fun _ _ => .ok trivial) fun _ => .ok trivial) fun {_} => ?_
  split
  · exact .ok trivial
  · exact .after (.need h) <| .ite (fun _ => .ok trivial) fun _ => .raise h

theorem mxCheck {w : Who} {b : BoundView} {t : Ty} {acc : Access} {es : List Nat} {n k : Nat} {runs : List (Nat × Nat)} (h :
    Orderly 0 a s) :
    Sound a (fun x => Orderly 0 a x.1) (mxCheck w b t acc es n k s runs) := by
  induction n generalizing k s runs with
  | zero => exact .pair h
  | succ n ih =>
    have hk : Sound a _ (s.elemCheck w b (elemOf b t (indexOf es k)) acc k) := .elemCheck h
    unfold Machine.mxCheck
    split
    next he => exact ih (hk.of_eq he)
    next he => exact .stop (hk.of_eq he)

theorem mxRuns {w : Who} {acc : Access} {l : List MxArg} (h : Orderly 0 a s) :
    Sound a (fun x => Orderly 0 a x.1) (mxRuns s w acc l) := by
  induction l generalizing s with
  | nil => exact .pair h
  | cons x l ih => exact (Sound.mxCheck h).bind fun ⟨_, _⟩ h1 => (ih h1).bind fun ⟨_, _⟩ h2 => .pair h2

theorem enqueueCommand {w : Who} {op : MxOp} {sources dests : List MxArg} (h : Orderly 0 a s) :
    Sound a (Orderly 0 a) (enqueueCommand s w op sources dests) := by
  unfold Machine.enqueueCommand
  refine (Sound.mxRuns h).bind fun ⟨_, _⟩ h1 => ?_
  refine (Sound.mxRuns h1).bind fun ⟨_, _⟩ h2 => ?_
  refine .after (.noSpec h2) fun {_} => ?_
  dsimp only
  split
  · exact .raiseThen h2.onCtx
  · exact .after (.ok trivial) <| .optional (.raise h2) <| .after (.waitWhile h2) <| .ok (.ite (fun _ => h2.of_mem) fun _ =>
      h2.takeOrd.onCtx)

/-! ## Control -/

theorem absolute {w : Who} {v : Word} (h : Orderly 0 a s) : Sound a (fun _ => True) (absolute s w v) :=
  .after (.need h) <| .ok trivial

/-! ## Keystone -/

theorem barrierOf {w : Who} {i : Nat} (h : Orderly 0 a s) : Sound a (fun _ => True) (barrierOf s w i) := by
  unfold Machine.barrierOf
  split
  · exact .capFault h
  · dsimp only
    split
    · exact .ite (fun _ => .ok trivial) fun _ => .raise h
    · exact .raise h

theorem publication {a' : Option CapOp} (h : Orderly 0 a s) : Sound a (fun _ => True) (publication s a') := by
  unfold Machine.publication
  split
  · exact .ok trivial
  · refine .after (.wholeCap h) fun {_} => ?_
    refine .after (.waitWhile h) fun {_} => ?_
    split
    · exact .capFault h
    · exact .after (.need h) <| .after (.waitWhile h) <| .optional (.capFault h) <| .after (.need h) <| .ok trivial

theorem arrive {w : Who} {d : CapOp} {a' : Option CapOp} {b' : Reg} {ends : Bool} (h : Orderly 0 a s) :
    Sound a (Orderly 0 a) (arrive s w d a' b' ends) := by
  unfold Machine.arrive
  refine .after (.wholeCap h) fun {_} => ?_
  refine .after (.noSpec h) fun {_} => ?_
  refine .after (.waitWhile h) fun {_} => ?_
  refine (Sound.barrierOf h).bind fun _ _ => ?_
  refine .after (.need h) fun {_} => ?_
  refine .after (.publication h) fun {_} => ?_
  split
  · exact .raiseThen h.onCtx
  · exact .after (.ok trivial) <| (Sound.post h).bind fun _ h1 => .error h1.onCtx

end Sound

end Sys2Proof.Machine
end

section
/-!
PROOFS. Instructions on memory, messages, vectors and of the steward, and what arrives at a tile, keep memory canonical.
-/

namespace Sys2Proof.Machine

-- Many small proofs side by side would each hold a thread of their own: they are elaborated one after another.
set_option Elab.async false

namespace Tidy

variable {a s : State}

/-! ## MemCap -/

@[simp] theorem execLd {h : Hint} {t : Ty} {d : Reg} {a' : CapOp} (ho : Orderly 0 a s) : Tidy a (execLd h t d a' s) :=
  .issue ho fun _ => (Sound.load ho).bind fun ⟨_, _⟩ h1 => .ok h1.setX

@[simp] theorem execSt {h : Hint} {t : Ty} {d : CapOp} {a' : Reg} (ho : Orderly 0 a s) : Tidy a (execSt h t d a' s) :=
  .issue ho fun _ => .store ho

@[simp] theorem execVwset {h : Hint} {d : Vreg} {a' : CapImm} (ho : Orderly 0 a s) : Tidy a (execVwset h d a' s) := by
  unfold Machine.execVwset
  refine .issue ho fun _ => ?_
  refine .after (.viewNamed ho) fun {_} => ?_
  refine Sound.bind (P := fun x => Orderly 0 a x.1) ?_ fun ⟨_, _⟩ h1 => ?_
  · split
    · exact .after (.need ho) <| .constNat ho
    · exact (Sound.load ho).bind fun ⟨_, _⟩ h1 => .pair h1
  · exact .after (.need h1) <| .ok h1.setV

@[simp] theorem execVwgetMemory {h : Hint} {d : CapOp} {a' : Vreg} (ho : Orderly 0 a s) : Tidy a (execVwgetMemory h d a' s) :=
  .issue ho fun _ => .after (.viewIn ho) <| .store ho

@[simp] theorem execVwgetField {h : Hint} {d : Reg} {a' : Vreg} {b : Imm} (ho : Orderly 0 a s) :
    Tidy a (execVwgetField h d a' b s) := .issue ho fun _ => .after (.need ho) <| .after (.viewIn ho) <| .ok ho.setX

@[simp] theorem execVwsub {h : Hint} {d a' : Vreg} {b : Reg} (ho : Orderly 0 a s) : Tidy a (execVwsub h d a' b s) :=
  .issue ho fun _ => .after (.viewNamed ho) <| .after (.viewIn ho) <| .after (.need ho) <| .ok ho.setV

@[simp] theorem execVwadv {h : Hint} {d : Vreg} {a' : Imm} {b : RegImm} (ho : Orderly 0 a s) : Tidy a (execVwadv h d a' b s) :=
  .issue ho fun _ => .after (.viewIn ho) <| .after (.need ho) <| .ok ho.setV

@[simp] theorem execRbindInstall {h : Hint} {d : RegImm} {a' b : CapOp} (ho : Orderly 0 a s) :
    Tidy a (execRbindInstall h d a' b s) :=
  .issue ho fun _ => .after (.wholeCap ho) <| .after (.waitWhile ho) <| .after (.noSpec ho) <| .after (.need ho) <|
    .after (.sourceCap ho) <| (Sound.load ho).bind fun ⟨_, _⟩ h1 => .after (.need h1) <| .after (.need h1) <|
    .optional (.capFault h1) <| .ok h1.setC.onLocal.remember.setCtr.remember

@[simp] theorem execRbindAttach {h : Hint} {d : RingOp} {a' : Imm} (ho : Orderly 0 a s) : Tidy a (execRbindAttach h d a' s) :=
  .issue ho fun _ => .after (.noSpec ho) <| .after (.need ho) <| .ok ho.onRegs.onRun

@[simp] theorem execRbindRemove {h : Hint} {d : RegImm} {b : CapOp} (ho : Orderly 0 a s) : Tidy a (execRbindRemove h d b s) := by
  unfold Machine.execRbindRemove
  refine .issue ho fun _ => ?_
  refine .after (.wholeCap ho) fun {_} => ?_
  refine .after (.noSpec ho) fun {_} => ?_
  refine .after (.need ho) fun {_} => ?_
  split
  · exact .raise ho
  · exact .ok ho.onLocal.setC.remember

@[simp] theorem execRadv {h : Hint} {d : RingOp} {b : Reg} (ho : Orderly 0 a s) : Tidy a (execRadv h d b s) :=
  .issue ho fun _ => .after (.noSpec ho) <| (Sound.boundRing ho).bind fun _ _ => .after (.need ho) <| .after (.need ho) <|
    .ite (fun _ => .ok ho.notRetriable) fun _ => .optional (.raise ho) <| (Sound.postPacket ho).bind fun _ h1 =>
    .ok h1.advanceRing.remember.notRetriable

@[simp] theorem execRstatFill {h : Hint} {d : Reg} {a' : RingOp} (ho : Orderly 0 a s) : Tidy a (execRstatFill h d a' s) :=
  .issue ho fun _ => .after (.detCheck ho) <| .after (.noSpec ho) <| (Sound.boundRing ho).bind fun _ _ => .ok ho.setX

@[simp] theorem execRstatDescriptor {h : Hint} {d : CapOp} {a' : Imm} (ho : Orderly 0 a s) :
    Tidy a (execRstatDescriptor h d a' s) := by
  unfold Machine.execRstatDescriptor
  refine .issue ho fun _ => ?_
  refine .after (.detCheck ho) fun {_} => ?_
  refine .after (.noSpec ho) fun {_} => ?_
  dsimp only
  split
  · exact .raise ho
  · exact .store ho

@[simp] theorem execCmovMove {h : Hint} {d a' : CapOp} (ho : Orderly 0 a s) : Tidy a (execCmovMove h d a' s) :=
  .issue ho fun _ => .after (.wholeCap ho) <| .after (.wholeCap ho) <| .after (.waitWhile ho) <| .after (.need ho) <|
    .after (.sourceCap ho) <| .ok ho.setC.setC

@[simp] theorem execCmovPark {h : Hint} {d : RegImm} {a' : CapOp} (ho : Orderly 0 a s) : Tidy a (execCmovPark h d a' s) :=
  .issue ho fun _ => .after (.wholeCap ho) <| .after (.waitWhile ho) <| .after (.noSpec ho) <| .after (.need ho) <|
    .after (.sourceCap ho) <| .after (.waitWhile ho) <| .ok ho.setC.setSlot.remember

@[simp] theorem execCmovUnpark {h : Hint} {d : CapOp} {a' : RegImm} (ho : Orderly 0 a s) : Tidy a (execCmovUnpark h d a' s) := by
  unfold Machine.execCmovUnpark
  refine .issue ho fun _ => ?_
  refine .after (.wholeCap ho) fun {_} => ?_
  refine .after (.waitWhile ho) fun {_} => ?_
  refine .after (.noSpec ho) fun {_} => ?_
  refine .after (.need ho) fun {_} => ?_
  split
  · exact .raise ho
  · exact .ok ho.setSlot.setC.remember

@[simp] theorem execCsplit {h : Hint} {d a' : CapOp} {b : RegImm} (ho : Orderly 0 a s) : Tidy a (execCsplit h d a' b s) := by
  unfold Machine.execCsplit
  refine .issue ho fun _ => ?_
  refine .after (.wholeCap ho) fun {_} => ?_
  refine .after (.wholeCap ho) fun {_} => ?_
  refine .after (.waitWhile ho) fun {_} => ?_
  refine .after (.noSpec ho) fun {_} => ?_
  refine .after (.need ho) fun {_} => ?_
  refine .after (.sourceCap ho) fun {_} => ?_
  refine .after (.need ho) fun {_} => ?_
  refine .after (.needG ho) fun {_} => ?_
  refine .after (.waitWhile ho) fun {_} => ?_
  refine (Sound.consultHome ho).bind fun ⟨_, _⟩ h1 => ?_
  dsimp only
  split
  · exact .after (.need h1.dropValidation) <| .ok ((Orderly.ite (fun _ => h1.dropValidation.setCt.rememberEntry) fun _ =>
      h1.dropValidation).setC)
  · exact .ok h1.dropValidation.setC.setC
  · exact .ok h1.dropValidation.setC

@[simp] theorem execCjoin {h : Hint} {d b : CapOp} (ho : Orderly 0 a s) : Tidy a (execCjoin h d b s) := by
  refine .issue ho fun _ => .after (.wholeCap ho) <| .after (.wholeCap ho) <| .after (.waitWhile ho) fun {_} => ?_
  refine .after (.noSpec ho) <| .after (.need ho) <| .after (.sourceCap ho) fun {_} => ?_
  refine .after (.sourceCap ho) <| .after (.need ho) <| (Sound.consultHome ho).bind fun ⟨_, here⟩ h1 => ?_
  refine Sound.bind (P := fun x => Orderly 0 a x.1) ?_ fun ⟨_, _⟩ h2 => ?_
  · exact .ite (fun _ => .consultHome h1) fun _ => .ite (fun _ => .pair h1) fun _ => .capFault h1
  · cases here with
    | true => exact .ok h2.dropValidation.onCt.rememberEntry.setC
    | false => exact .ok h2.dropValidation.setC

@[simp] theorem execCmerge {h : Hint} {d a' : CapOp} (ho : Orderly 0 a s) : Tidy a (execCmerge h d a' s) := by
  unfold Machine.execCmerge
  refine .issue ho fun _ => ?_
  refine .after (.wholeCap ho) fun {_} => ?_
  refine .after (.wholeCap ho) fun {_} => ?_
  refine .after (.waitWhile ho) fun {_} => ?_
  refine .after (.noSpec ho) fun {_} => ?_
  refine .after (.need ho) fun {_} => ?_
  refine .after (.sourceCap ho) fun {_} => ?_
  refine .after (.sourceCap ho) fun {_} => ?_
  refine .after (.need ho) fun {_} => ?_
  split
  · exact .raise ho
  · exact (Sound.consultHome ho).bind fun ⟨_, _⟩ h1 => .bind (P := fun x => Orderly 0 a x.1) (.ite (fun _ =>
      .consultHome h1) fun _ => .ite (fun _ => .pair h1) fun _ => .capFault h1) fun ⟨_, _⟩ h2 => .ok h2.setC.setC

theorem reduceCap {h : Hint} {d a' : CapOp} {pre : Bool} {ok : Cap → Bool} {f : Cap → Cap} (ho : Orderly 0 a s) :
    Tidy a (reduceCap h d a' s pre ok f) :=
  .issue ho fun _ => .after (.wholeCap ho) <| .after (.wholeCap ho) <| .after (.waitWhile ho) <| .after (.need ho) <|
    .after (.sourceCap ho) <| .after (.need ho) <| .after (.needG ho) <| .ok ho.setC.setC

@[simp] theorem execCnarrow {h : Hint} {d a' : CapOp} {b : Reg} (ho : Orderly 0 a s) : Tidy a (execCnarrow h d a' b s) :=
  .reduceCap ho

@[simp] theorem execCrights {h : Hint} {d a' : CapOp} {b : RegImm} (ho : Orderly 0 a s) : Tidy a (execCrights h d a' b s) :=
  .reduceCap ho

@[simp] theorem execCinfo {h : Hint} {d : Reg} {a' : CapOp} {b : Imm} (ho : Orderly 0 a s) : Tidy a (execCinfo h d a' b s) :=
  .issue ho fun _ => .ite (fun _ => .after (.privCheck ho) <| .after (.detCheck ho) <| .after (.wholeCap ho) <|
    .after (.need ho) <| .ok ho.setX) fun _ => .after (.wholeCap ho) <| .after (.need ho) <| .ok ho.setX

@[simp] theorem execCdrop {h : Hint} {d : CapOp} (ho : Orderly 0 a s) : Tidy a (execCdrop h d s) := by
  refine .issue ho fun _ => .after (.wholeCap ho) <| .after (.waitWhile ho) fun {_} => ?_
  split
  · exact .ok ho
  · refine .ite (fun _ => .after (.noSpec ho) <| .after (.waitWhile ho) fun {_} => ?_) fun _ => ?_
    all_goals
      refine (Sound.dropCheck ho).bind fun ⟨_, _⟩ h1 => .optional (.error h1.onCtx) <| .ok ?_
      exact .ite (fun _ => h1.setC.dropValidation.dropHere) fun _ => h1.setC.dropValidation

@[simp] theorem execCseal {h : Hint} {d a' : CapOp} (ho : Orderly 0 a s) : Tidy a (execCseal h d a' s) :=
  .issue ho fun _ => .after (.wholeCap ho) <| .after (.wholeCap ho) <| .after (.waitWhile ho) <| .after (.noSpec ho) <|
    .after (.need ho) <| .after (.sourceCap ho) <| .after (.need ho) <| .after (.needG ho) <| .after (.waitWhile ho) <|
    (Sound.consultHome ho).bind fun ⟨_, _⟩ h1 => .optional (.capFault h1) <| .after (.need h1) <| .ok ((Orderly.ite (fun _ =>
    h1.setCt.rememberEntry) fun _ => h1).setC.setC)

@[simp] theorem execCreclaimRegister {h : Hint} {d : CapOp} (ho : Orderly 0 a s) : Tidy a (execCreclaimRegister h d s) :=
  .issue ho fun _ => .after (.wholeCap ho) <| .after (.waitWhile ho) <| .after (.noSpec ho) <| .after (.sourceCap ho) <|
    .after (.mayReclaim ho) <| .error ho.startReclaim.onCtx

@[simp] theorem execCreclaimSlot {h : Hint} {d : CapOp} {b : RegImm} (ho : Orderly 0 a s) : Tidy a (execCreclaimSlot h d b s) :=
  .issue ho fun _ => .after (.wholeCap ho) <| .after (.waitWhile ho) <| .after (.noSpec ho) <| .after (.need ho) <|
    .after (.sourceCap ho) <| .after (.mayReclaim ho) <| .ok ho.startReclaim.setC.setSlot

/-! ## Messages -/

@[simp] theorem execSendq {h : Hint} {n : BitVec 4} {d b : Reg} {a' : Imm} (ho : Orderly 0 a s) : Tidy a (execSendq h n d a' b s) :=
  .issueSignal ho fun _ _ => .after (.checkDest ho) <| .after (.messageOperands ho) <| .ite (fun _ => .postPacket ho) fun _ =>
    .postPacket ho

@[simp] theorem execReplyq {h : Hint} {n : BitVec 4} {d b : Reg} {a' : Imm} (ho : Orderly 0 a s) :
    Tidy a (execReplyq h n d a' b s) :=
  .issue ho fun _ => .after (.checkDest ho) <| .after (.messageOperands ho) <| .after (.waitWhile ho) <| .post ho

@[simp] theorem execSendc {h : Hint} {pol : Policy} {d b : Reg} {a' : CapOp} (ho : Orderly 0 a s) :
    Tidy a (execSendc h pol d a' b s) := by
  unfold Machine.execSendc
  refine .issueSignal ho fun _ _ => ?_
  refine .after (.destForm ho) fun {_} => ?_
  refine .after (.need ho) fun {_} => ?_
  refine .after (.destPlace ho) fun {_} => ?_
  refine .after (.wholeCap ho) fun {_} => ?_
  refine .after (.waitWhile ho) fun {_} => ?_
  split
  · exact .capFault ho
  · exact .optional (.capFault ho) <| .ite (fun _ => .after (.localPost ho) <| (Sound.kickEntry ho).bind fun ⟨_, _⟩ h1 =>
      .post h1.setC.dropValidation) fun _ => .optional (.raise ho) <| .post ho.setC.dropValidation

@[simp] theorem execSendr {h : Hint} {d : LandDest} {a' : RegImm} (ho : Orderly 0 a s) : Tidy a (execSendr h d a' s) :=
  .issueSignal ho fun _ _ => .after (.landPlace ho) <| .postPacket ho

@[simp] theorem execSpawn {h : Hint} {n : BitVec 4} {d : CapImm} {a' : Reg} (ho : Orderly 0 a s) :
    Tidy a (execSpawn h n d a' s) := by
  unfold Machine.execSpawn
  refine .issueSignal ho fun _ _ => ?_
  refine .after (.need ho) fun {_} => ?_
  refine .after (.localPost ho) fun {_} => ?_
  split
  · exact (Sound.constImage ho).bind fun ⟨_, _⟩ h1 => .enqueueHere h1
  · exact (Sound.load ho).bind fun ⟨_, _⟩ h1 => .enqueueHere h1

@[simp] theorem execSpawnr {h : Hint} {n : BitVec 4} {d b : Reg} {a' : Imm} (ho : Orderly 0 a s) :
    Tidy a (execSpawnr h n d a' b s) :=
  .issueSignal ho fun _ _ => .after (.checkDest ho) <| .optional (.raise ho) <| .after (.need ho) <|
    (Sound.constImage ho).bind fun ⟨_, _⟩ h1 => .postPacket h1

@[simp] theorem execArm {h : Hint} {d : Imm} {a' : Reg} {b : RegImm} (ho : Orderly 0 a s) : Tidy a (execArm h d a' b s) :=
  .issue ho fun _ => .after (.need ho) <| .after (.localPost ho) <| .optional (.raise ho) <| (Sound.post ho).map fun _ h =>
    h.notRetriable

@[simp] theorem execMinc {h : Hint} {d : Reg} {a' b : RegImm} (ho : Orderly 0 a s) : Tidy a (execMinc h d a' b s) :=
  .issueSignal ho fun _ _ => .after (.checkDest ho) <| .after (.need ho) <| .postPacket ho

@[simp] theorem execMrdCounter {h : Hint} {d : Reg} {a' : RegImm} (ho : Orderly 0 a s) : Tidy a (execMrdCounter h d a' s) :=
  .issue ho fun _ => .after (.need ho) <| .optional (.detCheck ho) <| .after (.waitWhile ho) <| .ok ho.setX

@[simp] theorem execMrdLanding {h : Hint} {d : Reg} {a' : Yreg} (ho : Orderly 0 a s) : Tidy a (execMrdLanding h d a' s) := by
  unfold Machine.execMrdLanding
  refine .issue ho fun _ => ?_
  refine .after (.noSpec ho) fun {_} => ?_
  split
  · exact .after (.waitWhile ho) <| .raise ho
  · exact .ok ho.setLand.onLocal.remember.setX

@[simp] theorem execMset {h : Hint} {n : BitVec 4} {d a' : RegImm} (ho : Orderly 0 a s) : Tidy a (execMset h n d a' s) :=
  .issue ho fun _ => .after (.need ho) <| .after (.noSpec ho) <| .after (.waitWhile ho) <| .ok ho.setCtr.remember

@[simp] theorem execKick {h : Hint} {d : Option CapOp} {b : Reg} (ho : Orderly 0 a s) : Tidy a (execKick h d b s) := by
  refine .issueSignal ho fun w n => .after (.need ho) <| (Sound.kickCap ho).bind fun c _ => ?_
  refine .after (.localPost ho) <| (Sound.kickEntry ho).bind fun ⟨_, _⟩ h1 => ?_
  cases c with
  | none => exact .post h1
  | some c => exact .post h1.setC.dropValidation

@[simp] theorem execAop {h : Hint} {n : BitVec 4} {f : BitVec 3} {d : CapOp} {a' : Reg} (ho : Orderly 0 a s) :
    Tidy a (execAop h n f d a' s) := .issue ho fun _ => .operation ho

@[simp] theorem execAopr {h : Hint} {n : BitVec 4} {f : BitVec 3} {d : LandDest} {a' : CapOp} {b : Reg} (ho : Orderly 0 a s) :
    Tidy a (execAopr h n f d a' b s) :=
  .issue ho fun _ => .optional (.detCheck ho) <| .after (.landPlace ho) <| .after (.need ho) <| .operation ho

/-! ## Net -/

@[simp] theorem execMessageArrival (ho : Orderly 0 a s) : Tidy a (execMessageArrival s) := by
  refine .arrival ho fun h => ?_
  split
  · exact .may h.takeMessage
  · exact .may h.takeMessage
  · trivial

@[simp] theorem execCapabilityArrival (ho : Orderly 0 a s) : Tidy a (execCapabilityArrival s) := by
  refine .arrival ho fun h => ?_
  split
  · exact .may h.takeMessage
  · exact .may h.takeMessage
  · trivial

@[simp] theorem execRemoteSpawnArrival (ho : Orderly 0 a s) : Tidy a (execRemoteSpawnArrival s) := by
  refine .arrival ho fun h => ?_
  split
  · exact .may h.takeSpawn
  · trivial

@[simp] theorem execPoolWaitRelease (ho : Orderly 0 a s) : Tidy a (execPoolWaitRelease s) := by
  refine .arrival ho fun h => ?_
  split
  · exact .may h.takeMessage
  · exact .may h.takeSpawn
  · trivial

@[simp] theorem execCounterIncrementArrival (ho : Orderly 0 a s) : Tidy a (execCounterIncrementArrival s) := by
  refine .arrival ho fun h => ?_
  split
  · exact .took h.takeIncrement
  · trivial

@[simp] theorem execLandingWriteArrival (ho : Orderly 0 a s) : Tidy a (execLandingWriteArrival s) := by
  refine .arrival ho fun h => ?_
  split
  · exact .took h.landOr
  · trivial

@[simp] theorem execLandingHoldApply (ho : Orderly 0 a s) : Tidy a (execLandingHoldApply s) := .next ho.applyHeld

@[simp] theorem execMemoryAgentOperation (ho : Orderly 0 a s) : Tidy a (execMemoryAgentOperation s) := by
  refine .arrival ho fun h => ?_
  split
  · exact .took h.agentStep
  · trivial

/-! ## Steward -/

@[simp] theorem execMvNext {rd rs1 rs2 : Reg} (ho : Orderly 0 a s) : Tidy a (execMvNext rd rs1 rs2 s) := by
  refine .stewardIssue ho fun h => Served.bind (P := Orderly 0 a) (.ite (fun _ => .ok h) fun _ => ?_) fun u h1 => ?_
  · split
    · exact .ok (h.releaseKick fun h => h.sendPath)
    · exact .operandError
  · split
    next he => exact .ok (h1.wake he)
    · exact Orderly.onStw h1

@[simp] theorem execStewardWake (ho : Orderly 0 a s) : Tidy a (execStewardWake s) := by
  unfold Machine.execStewardWake
  split
  · refine .ite (fun _ => .next ho) fun _ => ?_
    split
    next he => exact .next (ho.stwRemember.wake he).stwAdvance.onStw
    · exact .next ho
  · exact .next ho

@[simp] theorem execMvTake {rd rs1 rs2 : Reg} (ho : Orderly 0 a s) : Tidy a (execMvTake rd rs1 rs2 s) := by
  refine .stewardIssue ho fun h => .after .kIndex fun {_} => ?_
  split
  · exact .operandError
  · refine .after .need fun {_} => ?_
    split
    · exact .ok h.onStw
    · exact .ok h.rememberKick.onLocal.onStw

theorem Served.startOp {kind : EngKind} {rd : Reg} {kslot len : Nat} {kregs : List Nat} (ho : Orderly 0 a s) :
    Served a (Orderly 0 a) (startOp s kind rd kslot kregs len) := .ite (fun _ => trivial) fun _ => .ok ho.of_mem

@[simp] theorem execMvCopy {rd rs1 rs2 : Reg} (ho : Orderly 0 a s) : Tidy a (execMvCopy rd rs1 rs2 s) := by
  refine .stewardIssue ho fun h => .after .descriptor <| .ite (fun _ => .after .need fun {_} => ?_) fun _ => ?_
  · split
    · exact .operandError
    · exact .after .need <| (Served.startOp h).bind fun _ h1 => .ok h1.onStw
  · exact .after .need <| .startOp h

@[simp] theorem execMvFill {rd rs1 rs2 : Reg} (ho : Orderly 0 a s) : Tidy a (execMvFill rd rs1 rs2 s) :=
  .stewardIssue ho fun h => .after .descriptor <| .after .need <| .startOp h

@[simp] theorem execMvXfer {rd rs1 rs2 : Reg} (ho : Orderly 0 a s) : Tidy a (execMvXfer rd rs1 rs2 s) :=
  .stewardIssue ho fun h => .after .kIndex <| .after .need <| .after .need <|
    (Served.startOp h).bind fun _ h1 => .ok h1.onStw

@[simp] theorem execMvGive {rd rs1 rs2 : Reg} (ho : Orderly 0 a s) : Tidy a (execMvGive rd rs1 rs2 s) :=
  .stewardIssue ho fun h => .after .kIndex <| .after .need <| (Served.startOp h).bind fun _ h1 => .ok h1.onStw

@[simp] theorem execMvMbx {rd rs1 rs2 : Reg} (ho : Orderly 0 a s) : Tidy a (execMvMbx rd rs1 rs2 s) := by
  refine .stewardIssue ho fun h => ?_
  dsimp only
  split
  · exact .operandError
  · exact .after .need <| .ok h.of_mem

@[simp] theorem execMvStat {rd rs1 rs2 : Reg} (ho : Orderly 0 a s) : Tidy a (execMvStat rd rs1 rs2 s) :=
  .stewardIssue ho fun h => .after .need <| .ite (fun _ => trivial) fun _ => .ok h.onStw

/-! ## Moves -/

@[simp] theorem execMoveBurst (ho : Orderly 0 a s) : Tidy a (execMoveBurst s) := by
  unfold Machine.execMoveBurst
  split
  · exact .next ho
  · refine .ite (fun _ => .next ho) fun _ => ?_
    split
    · split
      · refine .ite (fun _ => ?_) fun _ => .next ho.pageAnswered
        split
        · trivial
        next he => exact .next (ho.engineOut.of_fst he)
      · exact .next ho.pageAnswered
    · split
      · trivial
      next he => exact .next (ho.engineStep.of_fst he)

@[simp] theorem execEngineOpComplete (ho : Orderly 0 a s) : Tidy a (execEngineOpComplete s) := by
  unfold Machine.execEngineOpComplete
  split
  · exact .next ho
  · refine .ite (fun _ => .next ho) fun _ => ?_
    split
    · exact .ite (fun _ => .next ho.finishOp.releaseK) fun _ => .next ho
    · exact .ite (fun _ => .next ho.finishOp.releaseK) fun _ => .next ho
    · split
      · exact .next ho.finishOp
      · exact .ite (fun _ => .next ho.endDelivery) fun _ => .next ho
    · split
      · exact .ite (fun _ => .next ho) fun _ => .next ho.finishOp
      · exact .ite (fun _ => .next ho.finishOp) fun _ => .ite (fun _ => .next ho.finishOp) fun _ => .next ho
    · refine .ite (fun _ => .next ho) fun _ => ?_
      split
      · exact .next ho.finishOp
      · exact .next ho.endGive
    · exact .ite (fun _ => .next ho) fun _ => .next ho.enginePacket.finishOp

@[simp] theorem execStewardFault (ho : Orderly 0 a s) : Tidy a (execStewardFault s) := by
  unfold Machine.execStewardFault
  dsimp only
  split
  next f p _ _ =>
    have h1 : Orderly 0 a (s.emptyK s.cur.tile f.code) := ho.emptyK
    have h2 := Orderly.foldl (fun _ k h => Orderly.releaseKick (t := s.cur.tile) (e := k.1)
      (send := fun s p k t c => s.letPath p k t c f.code) h fun h => h.letPath)
      (((s.emptyK s.cur.tile f.code).tile s.cur.tile).loc.kicks.filter fun k => k.2.state == .claimed) h1
    split
    · exact .next (h2.loadSteward.contain (by decide))
    · exact .next (h2.loadSteward.logFault.mgmtEvent)
  · exact .next ho

@[simp] theorem execCopySlotRequest (ho : Orderly 0 a s) : Tidy a (execCopySlotRequest s) := by
  refine .arrival ho fun h => ?_
  split
  · exact .took h.takeSlotRequest
  · trivial

@[simp] theorem execCopySlotGrant (ho : Orderly 0 a s) : Tidy a (execCopySlotGrant s) := .next ho.grantNext

@[simp] theorem execCopyAnnounce (ho : Orderly 0 a s) : Tidy a (execCopyAnnounce s) := .next ho.announce

@[simp] theorem execCollectiveRecordArrival (ho : Orderly 0 a s) : Tidy a (execCollectiveRecordArrival s) := by
  refine .arrival ho fun h => ?_
  split
  · exact .took h.takeRecord.contribClosed
  · trivial

/-! ## BitManip -/

theorem unaryBits {h : Hint} {t : Ty} {d a' : Reg} {f : Nat → Nat → Nat} (ho : Orderly 0 a s) : Tidy a (unaryBits h t d a' f s) :=
  .issue ho fun _ => .ok ho.putPattern

@[simp] theorem execPopc {h : Hint} {t : Ty} {d a' : Reg} (ho : Orderly 0 a s) : Tidy a (execPopc h t d a' s) := .unaryBits ho

@[simp] theorem execClz {h : Hint} {t : Ty} {d a' : Reg} (ho : Orderly 0 a s) : Tidy a (execClz h t d a' s) := .unaryBits ho

@[simp] theorem execCtz {h : Hint} {t : Ty} {d a' : Reg} (ho : Orderly 0 a s) : Tidy a (execCtz h t d a' s) := .unaryBits ho

@[simp] theorem execBrev {h : Hint} {t : Ty} {d a' : Reg} (ho : Orderly 0 a s) : Tidy a (execBrev h t d a' s) := .unaryBits ho

@[simp] theorem execBswap {h : Hint} {t : Ty} {d a' : Reg} (ho : Orderly 0 a s) : Tidy a (execBswap h t d a' s) := .unaryBits ho

@[simp] theorem execFns {h : Hint} {t : Ty} {d a' : Reg} {b : RegImm} (ho : Orderly 0 a s) : Tidy a (execFns h t d a' b s) :=
  .issue ho fun _ => .ok ho.putPattern

@[simp] theorem execBext {h : Hint} {t : Ty} {d a' : Reg} {b : RegImm} (ho : Orderly 0 a s) : Tidy a (execBext h t d a' b s) :=
  .issue ho fun _ => (Sound.fieldDesc ho).bind fun _ _ => .ok ho.setX

@[simp] theorem execBexts {h : Hint} {t : Ty} {d a' : Reg} {b : RegImm} (ho : Orderly 0 a s) : Tidy a (execBexts h t d a' b s) :=
  .issue ho fun _ => (Sound.fieldDesc ho).bind fun _ _ => .ok ho.putPattern

@[simp] theorem execBins {h : Hint} {t : Ty} {d a' : Reg} {b : RegImm} (ho : Orderly 0 a s) : Tidy a (execBins h t d a' b s) :=
  .issue ho fun _ => (Sound.fieldDesc ho).bind fun _ _ => .ok (.ite (fun _ => ho) fun _ => ho.putPattern)

@[simp] theorem execPdep {h : Hint} {t : Ty} {d a' b : Reg} (ho : Orderly 0 a s) : Tidy a (execPdep h t d a' b s) :=
  .issue ho fun _ => .ok ho.putPattern

@[simp] theorem execPext {h : Hint} {t : Ty} {d a' b : Reg} (ho : Orderly 0 a s) : Tidy a (execPext h t d a' b s) :=
  .issue ho fun _ => .ok ho.putPattern

/-! ## Vector -/

theorem binary {h : Hint} {dt at' bt : Ty} {readsD : Bool} {d a' : Vreg} {b : Src} {f : Mode → Nat → Nat → Nat → Res} (ho :
    Orderly 0 a s) :
    Tidy a (binary h dt at' bt readsD d a' b f s) :=
  .issueVector ho fun _ => .after (.bindView ho) <| .after (.bindView ho) <| (Sound.bindSrc ho).bind fun _ _ =>
    .after (.matchedInto ho) <| (Sound.stream ho.setFlags (fun h1 => (Sound.readElem h1).bind fun ⟨_, _, _⟩ h2 =>
    (Sound.readSrc h2).bind fun ⟨_, _, _⟩ h3 => .bind (P := fun x => Orderly 0 a x.1) (.ite (fun _ =>
    (Sound.readElem h3).bind fun ⟨_, _, _⟩ h4 => .pair h4) fun _ => .pair h3) fun ⟨_, _⟩ h4 => .element h4)).bind fun _ h1 =>
    .pair h1

theorem unary {h : Hint} {dt at' : Ty} {d a' : Vreg} {f : Mode → Nat → Res} (ho : Orderly 0 a s) :
    Tidy a (unary h dt at' d a' f s) :=
  .issueVector ho fun _ => .after (.bindView ho) <| .after (.bindView ho) <| .after (.matchedInto ho) <|
    (Sound.stream ho (fun h1 => (Sound.readElem h1).bind fun ⟨_, _, _⟩ h2 => .element h2)).bind fun _ h1 => .pair h1

@[simp] theorem execVadd {h : Hint} {t : Ty} {d a' : Vreg} {b : Src} (ho : Orderly 0 a s) : Tidy a (execVadd h t d a' b s) :=
  .binary ho

@[simp] theorem execVsub {h : Hint} {t : Ty} {d a' : Vreg} {b : Src} (ho : Orderly 0 a s) : Tidy a (execVsub h t d a' b s) :=
  .binary ho

@[simp] theorem execVmul {h : Hint} {t : Ty} {d a' : Vreg} {b : Src} (ho : Orderly 0 a s) : Tidy a (execVmul h t d a' b s) :=
  .binary ho

@[simp] theorem execVfma {h : Hint} {t : Ty} {d a' : Vreg} {b : Src} (ho : Orderly 0 a s) : Tidy a (execVfma h t d a' b s) :=
  .binary ho

@[simp] theorem execVmin {h : Hint} {t : Ty} {d a' : Vreg} {b : Src} (ho : Orderly 0 a s) : Tidy a (execVmin h t d a' b s) :=
  .binary ho

@[simp] theorem execVmax {h : Hint} {t : Ty} {d a' : Vreg} {b : Src} (ho : Orderly 0 a s) : Tidy a (execVmax h t d a' b s) :=
  .binary ho

@[simp] theorem execVabs {h : Hint} {t : Ty} {d a' : Vreg} (ho : Orderly 0 a s) : Tidy a (execVabs h t d a' s) := .unary ho

@[simp] theorem execVneg {h : Hint} {t : Ty} {d a' : Vreg} (ho : Orderly 0 a s) : Tidy a (execVneg h t d a' s) := .unary ho

@[simp] theorem execVcmul {h : Hint} {d a' : Vreg} {b : ViewReg} (ho : Orderly 0 a s) : Tidy a (execVcmul h d a' b s) := .binary ho

@[simp] theorem execVbfly {h : Hint} {d a' : Vreg} {b : Imm} (ho : Orderly 0 a s) : Tidy a (execVbfly h d a' b s) :=
  .issueVector ho fun _ => .after (.bindView ho) <| .after (.bindView ho) <| .after (.need ho) <| .after (.matchedInto ho) <|
    (Sound.stream ho (fun h1 => (Sound.readElem h1).bind fun ⟨_, _, _⟩ h2 => (Sound.readElem h2).bind fun ⟨_, _, _⟩ h3 =>
    (Sound.readElem h3).bind fun ⟨_, _, _⟩ h4 => (Sound.elemCheck h4).bind fun ⟨_, _, _, _⟩ h5 =>
    (Sound.element h5).bind fun _ h6 => .element h6)).bind fun _ h1 => .pair h1

@[simp] theorem execVred {h : Hint} {t : Ty} {d : ViewReg} {a' : Vreg} {b : Imm} (ho : Orderly 0 a s) :
    Tidy a (execVred h t d a' b s) := by
  unfold Machine.execVred
  refine .issueVector ho fun _ => ?_
  refine (Sound.reduceImm ho).bind fun _ _ => ?_
  refine .after (.bindView ho) fun {_} => ?_
  split
  · exact .after (.bindView ho) <| .after (.need ho) <| (Sound.reduce ho (fun h1 => .ite (fun _ => .element h1) fun _ =>
      .ok h1)).bind fun _ h1 => .pair h1
  · exact .after (.need ho) <| (Sound.reduce ho (fun h1 => .ite (fun _ => .ok h1.putElem.setFlags) fun _ =>
      .ok h1)).bind fun _ h1 => .pair h1

@[simp] theorem execVscan {h : Hint} {t : Ty} {d a' : Vreg} {b : Imm} (ho : Orderly 0 a s) : Tidy a (execVscan h t d a' b s) :=
  .issueVector ho fun _ => (Sound.reduceImm ho).bind fun _ _ => .after (.bindView ho) <| .after (.bindView ho) <|
    .after (.need ho) <| (Sound.reduce ho (fun h1 => .element h1)).bind fun _ h1 => .pair h1

@[simp] theorem execVcmp {h : Hint} {t : Ty} {cond : Cond} {d a' : Vreg} {b : Src} (ho : Orderly 0 a s) :
    Tidy a (execVcmp h t cond d a' b s) := .binary ho

@[simp] theorem execVsel {h : Hint} {t : Ty} {d b : Vreg} {x : Src} (ho : Orderly 0 a s) : Tidy a (execVsel h t d x b s) := by
  refine .issueVector ho fun _ => .after (.bindView ho) <| (Sound.bindSrc ho).bind fun ⟨_, _⟩ _ =>
    .after (.bindView ho) <| .after (.matchedInto ho) <|
    (Sound.stream ho.setFlags fun h1 => ?_).bind fun _ h1 => .pair h1
  refine (Sound.readSrc h1).bind fun ⟨_, _, _⟩ h2 => (Sound.readElem h2).bind fun ⟨_, _, _⟩ h3 => ?_
  exact Sound.ite (fun _ => (Sound.elemCheck h3).bind fun ⟨_, _, _, _⟩ h4 => .ok h4) fun _ => .element h3

@[simp] theorem execVcopy {h : Hint} {t : Ty} {d a' : Vreg} (ho : Orderly 0 a s) : Tidy a (execVcopy h t d a' s) := .unary ho

theorem fillWith {h : Hint} {t : Ty} {d : Vreg} {pre : State → Eff Unit} {fl : State → Flags}
    {f : State → List Nat → Nat → Res} (ho : Orderly 0 a s) (hp : Sound a (fun _ => True) (pre s)) :
    Tidy a (fillWith h t d pre fl f s) :=
  .issueVector ho fun _ => hp.bind fun _ _ => .after (.bindView ho) <| .after (.matchedInto ho) <|
    (Sound.stream ho.setFlags fun h1 => .element h1).bind fun _ h1 => .pair h1

@[simp] theorem execVfill {h : Hint} {t : Ty} {d : Vreg} {b : RegImm} (ho : Orderly 0 a s) : Tidy a (execVfill h t d b s) :=
  .fillWith ho trivial

@[simp] theorem execVidx {h : Hint} {t : Ty} {d : Vreg} {b : Imm} (ho : Orderly 0 a s) : Tidy a (execVidx h t d b s) := by
  unfold Machine.execVidx
  exact .fillWith ho (.need ho)

@[simp] theorem execVtrans {h : Hint} {t : Ty} {d a' : Vreg} (ho : Orderly 0 a s) : Tidy a (execVtrans h t d a' s) :=
  .issueVector ho fun _ => .after (.bindView ho) <| .after (.bindView ho) <| .after (.need ho) <| (Sound.stream ho (fun h1 =>
    (Sound.readElem h1).bind fun ⟨_, _, _⟩ h2 => .element h2)).bind fun _ h1 => .pair h1

@[simp] theorem execVgather {h : Hint} {t : Ty} {d b : Vreg} {a' : CapOp} (ho : Orderly 0 a s) :
    Tidy a (execVgather h t d a' b s) := by
  unfold Machine.execVgather
  refine .issueVector ho fun _ => ?_
  refine .after (.bindView ho) fun {_} => ?_
  refine .after (.bindView ho) fun {_} => ?_
  refine .after (.matchedInto ho) fun {_} => ?_
  refine .after (.need ho) fun {_} => ?_
  refine (Sound.gatherElems ho).bind fun ⟨_, _⟩ h1 => ?_
  dsimp only
  split
  · exact .capFault h1
  · exact (Sound.gatherAll (fun h2 => (Sound.indexedBytes h2).bind fun ⟨_, _⟩ h3 => .element h3) h1).bind fun ⟨_, _⟩ h2 =>
      (Sound.gatherEnd h2).bind fun _ h3 => .pair h3

@[simp] theorem execVscatter {h : Hint} {t : Ty} {d : CapOp} {a' b : Vreg} (ho : Orderly 0 a s) :
    Tidy a (execVscatter h t d a' b s) := by
  unfold Machine.execVscatter
  refine .issueVector ho fun _ => ?_
  refine .after (.bindView ho) fun {_} => ?_
  refine .after (.bindView ho) fun {_} => ?_
  refine .after ?_ fun {_} => ?_
  · split
    · exact .ok trivial
    · exact .raise ho
  · refine .after (.need ho) fun {_} => ?_
    refine (Sound.gatherElems ho).bind fun ⟨_, _⟩ h1 => ?_
    dsimp only
    split
    · exact .capFault h1
    · exact (Sound.gatherAll (fun h2 => (Sound.readElem h2).bind fun ⟨_, _, _⟩ h3 => .putIndexed h3) h1).bind fun ⟨_, _⟩ h2 =>
        (Sound.gatherEnd h2).bind fun _ h3 => .pair h3

@[simp] theorem execVscale {h : Hint} {t : Ty} {d a' b : Vreg} (ho : Orderly 0 a s) : Tidy a (execVscale h t d a' b s) := .binary ho

@[simp] theorem execVquant {h : Hint} {t : Ty} {d a' b : Vreg} (ho : Orderly 0 a s) : Tidy a (execVquant h t d a' b s) := .binary ho

theorem bitBinary {h : Hint} {t : Ty} {d a' : Vreg} {b : Src} {f : Nat → Nat → Nat} (ho : Orderly 0 a s) :
    Tidy a (bitBinary h t d a' b f s) := .binary ho

theorem bitUnary {h : Hint} {t : Ty} {d a' : Vreg} {f : Nat → Nat → Nat} (ho : Orderly 0 a s) : Tidy a (bitUnary h t d a' f s) :=
  .unary ho

@[simp] theorem execVand {h : Hint} {t : Ty} {d a' : Vreg} {b : Src} (ho : Orderly 0 a s) : Tidy a (execVand h t d a' b s) :=
  .bitBinary ho

@[simp] theorem execVor {h : Hint} {t : Ty} {d a' : Vreg} {b : Src} (ho : Orderly 0 a s) : Tidy a (execVor h t d a' b s) :=
  .bitBinary ho

@[simp] theorem execVxor {h : Hint} {t : Ty} {d a' : Vreg} {b : Src} (ho : Orderly 0 a s) : Tidy a (execVxor h t d a' b s) :=
  .bitBinary ho

@[simp] theorem execVnot {h : Hint} {t : Ty} {d a' : Vreg} (ho : Orderly 0 a s) : Tidy a (execVnot h t d a' s) := .bitUnary ho

@[simp] theorem execVshl {h : Hint} {t : Ty} {d a' : Vreg} {b : Src} (ho : Orderly 0 a s) : Tidy a (execVshl h t d a' b s) :=
  .bitBinary ho

@[simp] theorem execVshr {h : Hint} {t : Ty} {d a' : Vreg} {b : Src} (ho : Orderly 0 a s) : Tidy a (execVshr h t d a' b s) :=
  .bitBinary ho

@[simp] theorem execVsra {h : Hint} {t : Ty} {d a' : Vreg} {b : Src} (ho : Orderly 0 a s) : Tidy a (execVsra h t d a' b s) :=
  .bitBinary ho

@[simp] theorem execVpopc {h : Hint} {t : Ty} {d a' : Vreg} (ho : Orderly 0 a s) : Tidy a (execVpopc h t d a' s) := .bitUnary ho

@[simp] theorem execVclz {h : Hint} {t : Ty} {d a' : Vreg} (ho : Orderly 0 a s) : Tidy a (execVclz h t d a' s) := .bitUnary ho

@[simp] theorem execVctz {h : Hint} {t : Ty} {d a' : Vreg} (ho : Orderly 0 a s) : Tidy a (execVctz h t d a' s) := .bitUnary ho

@[simp] theorem execVbrev {h : Hint} {t : Ty} {d a' : Vreg} (ho : Orderly 0 a s) : Tidy a (execVbrev h t d a' s) := .bitUnary ho

@[simp] theorem execVfns {h : Hint} {t : Ty} {d a' : Vreg} {b : Src} (ho : Orderly 0 a s) : Tidy a (execVfns h t d a' b s) :=
  .bitBinary ho

@[simp] theorem execVcvt {h : Hint} {t : Ty} {d a' : Vreg} {b : Imm} (ho : Orderly 0 a s) : Tidy a (execVcvt h t d a' b s) := by
  unfold Machine.execVcvt
  split
  · exact .issueVector ho fun _ => .raise ho
  · exact .ite (fun _ => .unary ho) fun _ => .issueVector ho fun _ => .raise ho

theorem special {h : Hint} {t : Ty} {f : SFn} {d a' : Vreg} (ho : Orderly 0 a s) : Tidy a (special h t f d a' s) := .unary ho

@[simp] theorem execVrcp {h : Hint} {t : Ty} {d a' : Vreg} (ho : Orderly 0 a s) : Tidy a (execVrcp h t d a' s) := .special ho

@[simp] theorem execVrsq {h : Hint} {t : Ty} {d a' : Vreg} (ho : Orderly 0 a s) : Tidy a (execVrsq h t d a' s) := .special ho

@[simp] theorem execVsqrt {h : Hint} {t : Ty} {d a' : Vreg} (ho : Orderly 0 a s) : Tidy a (execVsqrt h t d a' s) := .special ho

@[simp] theorem execVexp2 {h : Hint} {t : Ty} {d a' : Vreg} (ho : Orderly 0 a s) : Tidy a (execVexp2 h t d a' s) := .special ho

@[simp] theorem execVlog2 {h : Hint} {t : Ty} {d a' : Vreg} (ho : Orderly 0 a s) : Tidy a (execVlog2 h t d a' s) := .special ho

@[simp] theorem execVsin {h : Hint} {t : Ty} {d a' : Vreg} (ho : Orderly 0 a s) : Tidy a (execVsin h t d a' s) := .special ho

@[simp] theorem execVcos {h : Hint} {t : Ty} {d a' : Vreg} (ho : Orderly 0 a s) : Tidy a (execVcos h t d a' s) := .special ho

end Tidy

end Sys2Proof.Machine
end

section
/-!
PROOFS. Collectives, dispatch, homes, launches, requests, the fabric, the matrix engine and the mailbox keep memory canonical.
-/

namespace Sys2Proof.Machine

-- Many small proofs side by side would each hold a thread of their own: they are elaborated one after another.
set_option Elab.async false

namespace Tidy

variable {a s : State}

/-! ## Collective -/

@[simp] theorem execCollopen {h : Hint} {t : Ty} {d : LandDest} {a' b : Reg} (ho : Orderly 0 a s) :
    Tidy a (execCollopen h t d a' b s) :=
  .issue ho fun _ => .after (.noSpec ho) <| .after (.need ho) <| .optional (.raise ho) <| .after (.landPlace ho) <|
    .after (.need ho) <| (Sound.postPacket ho).bind fun _ h1 => .ok h1.notRetriable

@[simp] theorem execColl {h : Hint} {t : Ty} {d : CollDest} {a' b : Reg} (ho : Orderly 0 a s) : Tidy a (execColl h t d a' b s) :=
  .issue ho fun _ => .after (.need ho) <| .after (.need ho) <| .optional (.raise ho) <| .after (.recordPlace ho) <|
    (Sound.postPacket ho).bind fun _ h1 => .ok h1.notRetriable

@[simp] theorem execCollclose {h : Hint} {a' : Reg} (ho : Orderly 0 a s) : Tidy a (execCollclose h a' s) :=
  .issue ho fun _ => .after (.noSpec ho) <| .after (.need ho) <| .optional (.raise ho) <| (Sound.postPacket ho).bind fun _ h1 =>
    .ok h1.notRetriable

@[simp] theorem execCollopenRequest (ho : Orderly 0 a s) : Tidy a (execCollopenRequest s) := by
  refine .arrival ho fun h => ?_
  split
  · have h1 := Orderly.foldl (f := State.slotDue) (fun _ _ h => h.slotDue) (upto 64) h
    dsimp only
    split
    · exact .took h1.draw.setRed.send
    · exact .took h1.send
  · trivial

@[simp] theorem execContributionArrival (ho : Orderly 0 a s) : Tidy a (execContributionArrival s) := by
  refine .arrival ho fun h => ?_
  split
  · exact .took h.contribute
  · exact .took h.withdrawSlot
  · trivial

@[simp] theorem execCollcloseArrival (ho : Orderly 0 a s) : Tidy a (execCollcloseArrival s) := by
  refine .arrival ho fun h => ?_
  split
  · refine .took (.ite (fun _ => ?_) fun _ => h.slotDue.logSlot)
    split
    · exact h.slotDue.setRed
    · exact h.slotDue.setRed
    · exact h.slotDue.logSlot
  · trivial

@[simp] theorem execSlotDeadline (ho : Orderly 0 a s) : Tidy a (execSlotDeadline s) := .next ho.slotDeadline

@[simp] theorem execSlotExpire (ho : Orderly 0 a s) : Tidy a (execSlotExpire s) := .next ho.slotExpire

/-! ## Schedule -/

@[simp] theorem execAging (ho : Orderly 0 a s) : Tidy a (execAging s) := .next ho.age

@[simp] theorem execHeldTask (ho : Orderly 0 a s) : Tidy a (execHeldTask s) := .next ho.hold

@[simp] theorem execDispatch (ho : Orderly 0 a s) : Tidy a (execDispatch s) := by
  unfold Machine.execDispatch
  dsimp only
  split
  · split
    · exact .ite (fun _ => .next ho.age.hold.select) fun _ => .next ho.age.hold
    · exact .next ho.age.hold
  · exact .next ho.age.hold

@[simp] theorem execInjectionEntryFree (ho : Orderly 0 a s) : Tidy a (execInjectionEntryFree s) := by
  unfold Machine.execInjectionEntryFree
  dsimp only
  split
  · exact .next ho
  · exact .ite (fun _ => .next (.foldl (fun _ _ h => h.pump (by decide)) _ ho.of_mem.sendPkt.trackContribution)) fun _ => .next ho

@[simp] theorem execHorizonRelease (ho : Orderly 0 a s) : Tidy a (execHorizonRelease s) := .next ((ho.pump (by decide)).trimHistory)

@[simp] theorem execWatchdogExpiry (ho : Orderly 0 a s) : Tidy a (execWatchdogExpiry s) := by
  unfold Machine.execWatchdogExpiry
  split
  · exact .next ho.ctxRemember.watchdog
  · exact .next ho

@[simp] theorem execGraceExpiry (ho : Orderly 0 a s) : Tidy a (execGraceExpiry s) := by
  unfold Machine.execGraceExpiry
  split
  · exact .ite (fun _ => .next ho.ctxRemember.onCtx.takeTrap) fun _ => .next ho
  · exact .next ho

@[simp] theorem execSpeculationBudgetLow (ho : Orderly 0 a s) : Tidy a (execSpeculationBudgetLow s) := by
  unfold Machine.execSpeculationBudgetLow
  split
  · exact .ite (fun _ => .next ho.rollback) fun _ => .next ho
  · exact .next ho

@[simp] theorem execVectorStreamComplete (ho : Orderly 0 a s) : Tidy a (execVectorStreamComplete s) :=
  .next (.ite (fun _ => ho) fun _ => ho.onCtx)

@[simp] theorem execConflictProbe (ho : Orderly 0 a s) : Tidy a (execConflictProbe s) := by
  refine .arrival ho fun h => ?_
  split
  · exact .took (Orderly.foldl (fun _ _ h => .ite (fun _ => h.rollback) fun _ => h) _ h).send
  · trivial

@[simp] theorem execProbeAcknowledged (ho : Orderly 0 a s) : Tidy a (execProbeAcknowledged s) := by
  refine .arrival ho fun h => ?_
  split
  · exact .took h.of_mem
  · trivial

@[simp] theorem execBarrierArrival (ho : Orderly 0 a s) : Tidy a (execBarrierArrival s) := by
  refine .arrival ho fun h => ?_
  split
  · exact .took h.arriveAt
  · trivial

@[simp] theorem execBarrierParkAcknowledged (ho : Orderly 0 a s) : Tidy a (execBarrierParkAcknowledged s) := by
  unfold Machine.execBarrierParkAcknowledged
  dsimp only
  split
  · exact .ite (fun _ => .next (.foldl (fun _ _ h => h.send) _ ho.onLocal)) fun _ => .next (.ite (fun _ => ho) fun _ => ho.barCheck)
  · exact .next ho

@[simp] theorem execCompletionNotice (ho : Orderly 0 a s) : Tidy a (execCompletionNotice s) := by
  refine .arrival ho fun h => ?_
  split
  · exact .took (Orderly.foldl (fun _ _ h => h.noticeCtx) _ h).readyParked
  · trivial

/-! ## Homes -/

@[simp] theorem execReclaimInvalidation (ho : Orderly 0 a s) : Tidy a (execReclaimInvalidation s) := by
  unfold Machine.execReclaimInvalidation
  dsimp only
  split
  · exact .next ho
  · exact .ite (fun _ => .next ho.of_mem.onCt) fun _ => .next ho

@[simp] theorem execReclaimComplete (ho : Orderly 0 a s) : Tidy a (execReclaimComplete s) := by
  unfold Machine.execReclaimComplete
  dsimp only
  split
  · exact .next ho
  · exact .ite (fun _ => .next ho.onCt.giveReclaimed.answerHeld.faultDrops) fun _ => .next ho

@[simp] theorem execTlbInvalidation (ho : Orderly 0 a s) : Tidy a (execTlbInvalidation s) := by
  unfold Machine.execTlbInvalidation
  split
  · exact .ite (fun _ => .ite (fun _ => .next ho.dropTlb.onSteward.onPart) fun _ => .next ho.dropTlb.onSteward) fun _ => .next ho
  · exact .next ho

@[simp] theorem execTlbiAcknowledged (ho : Orderly 0 a s) : Tidy a (execTlbiAcknowledged s) := by
  unfold Machine.execTlbiAcknowledged
  split
  · refine .ite (fun _ => ?_) fun _ => .next ho
    split
    · exact .next ho.onPart.send
    · exact .next (.ite (fun _ => ho.onPart.mailboxDone) fun _ => ho.onPart)
  · exact .next ho

@[simp] theorem execPageRequestEntry (ho : Orderly 0 a s) : Tidy a (execPageRequestEntry s) := by
  unfold Machine.execPageRequestEntry
  dsimp only
  split
  · exact .ite (fun _ => .next ho.of_mem) fun _ => .next ho
  · exact .next ho

/-! ## Launch -/

@[simp] theorem execQnotify {vf q : Nat} {val : Word} (ho : Orderly 0 a s) : Tidy a (execQnotify vf q val s) :=
  .next (.ite (fun _ => ho.notify) fun _ => ho)

@[simp] theorem execQueueSlotGrant (ho : Orderly 0 a s) : Tidy a (execQueueSlotGrant s) := .next ho.serveQueues

@[simp] theorem execNotifyStarvation (ho : Orderly 0 a s) : Tidy a (execNotifyStarvation s) := by
  unfold Machine.execNotifyStarvation
  split
  · exact .next ho
  · dsimp only
    split
    · exact .next ho.onVf.mgmtEvent
    · exact .next ho

@[simp] theorem execLaunch (ho : Orderly 0 a s) : Tidy a (execLaunch s) := by
  unfold Machine.execLaunch
  dsimp only
  split
  · exact .next ho
  · refine .ite (fun _ => ?_) fun _ => .ite (fun _ => .next ho.endRecord) fun _ => .next ho
    split
    · exact .next ho.endRecord
    · exact .next ho.tryLaunch

@[simp] theorem execLaunchChannelsFree (ho : Orderly 0 a s) : Tidy a (execLaunchChannelsFree s) := by
  unfold Machine.execLaunchChannelsFree
  split
  · exact .ite (fun _ => .next ho.tryLaunch.collectImages) fun _ => .next ho
  · exact .next ho

@[simp] theorem execRegisterImage (ho : Orderly 0 a s) : Tidy a (execRegisterImage s) := by
  unfold Machine.execRegisterImage
  dsimp only
  split
  · exact .next ho
  · refine .ite (fun _ => .next ho) fun _ => .ite (fun _ => .next ho.endRecord) fun _ => ?_
    split
    next he => exact .next (ho.register he).endRecord
    · exact .next ho.endRecord

@[simp] theorem execReleaseImage (ho : Orderly 0 a s) : Tidy a (execReleaseImage s) := by
  unfold Machine.execReleaseImage
  dsimp only
  split
  · exact .next ho
  · refine .ite (fun _ => .next ho) fun _ => ?_
    refine .ite (fun _ => .next ho.endRecord) fun _ => ?_
    split
    · exact .ite (fun _ => .next ho.endRecord) fun _ => .next ho.onPart.collectImages.endRecord
    · exact .next ho.endRecord

@[simp] theorem execCompletionRecordWrite (ho : Orderly 0 a s) : Tidy a (execCompletionRecordWrite s) := by
  unfold Machine.execCompletionRecordWrite
  dsimp only
  split
  · exact .next ho
  next r _ =>
    refine .ite (fun _ => .next ho) fun _ => .next (Orderly.launchBoundary (Orderly.onQSlot (Orderly.onVf ?_)))
    split
    · exact ho.devPut.devPut.devBytes.devPut
    · exact ho.devPut.devPut.devBytes

@[simp] theorem execKernelRetire (ho : Orderly 0 a s) : Tidy a (execKernelRetire s) := by
  unfold Machine.execKernelRetire
  dsimp only
  split
  · exact .next ho
  · split
    · exact .ite (fun _ => .next ho.onKernel) fun _ => .next ho
    · exact .ite (fun _ => .next (ho.retireOn (fun h => h.onKernel) fun h => h.endRecord.collectImages)) fun _ => .next ho
    · exact .ite (fun _ => .next ho) fun _ => .next (ho.retireOn (fun h => h) fun h => h.releaseSlot)

/-! ## Mgmt -/

@[simp] theorem execBufCreate (ho : Orderly 0 a s) : Tidy a (execBufCreate s) := .serve ho fun h1 => h1.bufCreate

@[simp] theorem execBufFree (ho : Orderly 0 a s) : Tidy a (execBufFree s) := .serve ho fun h1 => h1.bufFree

@[simp] theorem execBufRecover (ho : Orderly 0 a s) : Tidy a (execBufRecover s) := .serveMay ho fun h1 => h1.bufRecover

@[simp] theorem execCtRead (ho : Orderly 0 a s) : Tidy a (execCtRead s) := .serve ho fun h1 => h1.ctRead

@[simp] theorem execTaskList (ho : Orderly 0 a s) : Tidy a (execTaskList s) := .serve ho fun h1 => h1.taskList

@[simp] theorem execBiasSet (ho : Orderly 0 a s) : Tidy a (execBiasSet s) := .serve ho fun h1 => h1.biasSet

@[simp] theorem execPrecRead (ho : Orderly 0 a s) : Tidy a (execPrecRead s) := .serve ho fun h1 => h1.precRead

@[simp] theorem execFlogSet (ho : Orderly 0 a s) : Tidy a (execFlogSet s) := .serve ho fun h1 => h1.flogSet

@[simp] theorem execFlogHead (ho : Orderly 0 a s) : Tidy a (execFlogHead s) := .serve ho fun h1 => h1.flogHead

@[simp] theorem execXlatSet (ho : Orderly 0 a s) : Tidy a (execXlatSet s) := .serve ho fun h1 => h1.xlatSet

@[simp] theorem execStwInstall (ho : Orderly 0 a s) : Tidy a (execStwInstall s) := .serve ho fun h1 => h1.stwInstall

@[simp] theorem execSupvRecv (ho : Orderly 0 a s) : Tidy a (execSupvRecv s) := .serve ho fun h1 => h1.supvRecv

@[simp] theorem execSupvEvents (ho : Orderly 0 a s) : Tidy a (execSupvEvents s) := .serve ho fun h1 => h1.supvEvents

/-! ## Evict -/

@[simp] theorem execPartitionHalted (ho : Orderly 0 a s) : Tidy a (execPartitionHalted s) := by
  unfold Machine.execPartitionHalted
  dsimp only
  split
  · exact .next ho
  next p _ =>
    split
    · exact .next ho
    · refine .ite (fun _ => .next ho) fun _ => ?_
      have h1 : Orderly 0 a ((if p.replay then s.replayPart s.cur.part else s).onTiles p Tile.halt) :=
        (Orderly.ite (fun _ => ho.replayPart) fun _ => ho).onTiles fun h => absurd h (by decide)
      split
      · exact .next h1.evictPart
      · exact .next (.ite (fun _ => h1.resumePart) fun _ => h1.onPart fun h => absurd h (by decide))
      · exact .next (h1.writeBackAll.onPart fun h => absurd h (by decide)).mailboxDone
      · exact .next (h1.writeBackAll.onPart fun h => absurd h (by decide))
      · exact .next h1

/-! ## Fabric -/

@[simp] theorem execPacketDeparture (ho : Orderly 0 a s) : Tidy a (execPacketDeparture s) := by
  unfold Machine.execPacketDeparture
  dsimp only
  split
  · exact .next ho
  · refine .ite (fun _ => .next ho) fun _ => ?_
    refine .ite (fun _ => .next (ho.unqueued.losePacket (by decide))) fun _ => ?_
    split
    · exact .next ho.unqueued.addTransfer
    · exact .next ho.departPool
    · exact .next ho.departOn

@[simp] theorem execTokenRedistribute (ho : Orderly 0 a s) : Tidy a (execTokenRedistribute s) :=
  .ite (fun _ => .next ho.of_mem) fun _ => .next ho

@[simp] theorem execFabricAcknowledgement {id : Nat} (ho : Orderly 0 a s) : Tidy a (execFabricAcknowledgement id s) := by
  unfold Machine.execFabricAcknowledgement
  split
  · exact .next ho.discard
  · refine .ite (fun _ => .next ho.discard) fun _ => ?_
    split
    · exact .next ho.withoutTransfer.onOp
    · exact .next ho.withoutTransfer.onOp
    · exact .next ho.withoutTransfer

@[simp] theorem execRemoteAccessAnswer {ans : RemoteAnswer} (ho : Orderly 0 a s) : Tidy a (execRemoteAccessAnswer ans s) := by
  unfold Machine.execRemoteAccessAnswer
  split
  · exact .next ho.discard
  · refine .ite (fun _ => .next ho.discard) fun _ => ?_
    refine .ite (fun _ => ?_) fun _ => .next ho
    split
    · exact .next ho.withoutTransfer.countAnswer.onOp
    · exact .next ((Orderly.ite (fun _ => ho.withoutTransfer) fun _ => ho.withoutTransfer.dropAwaited).answerContext (by decide))

@[simp] theorem execTransferTimeout (ho : Orderly 0 a s) : Tidy a (execTransferTimeout s) := by
  unfold Machine.execTransferTimeout
  split
  · exact .next ho
  · exact .ite (fun _ => .next (ho.withoutTransfer.unconfirmed (by decide))) fun _ => .next ho

@[simp] theorem execAoprResultArrival (ho : Orderly 0 a s) : Tidy a (execAoprResultArrival s) := by
  refine .arrival ho fun h => ?_
  split
  · exact .took (.ite (fun _ => h.landOr.resultComes) fun _ => h.landOr)
  · trivial

@[simp] theorem execFabricPacketArrival {p : FabPacket} (ho : Orderly 0 a s) : Tidy a (execFabricPacketArrival p s) :=
  .ite (fun _ => .next ho) fun _ => .ite (fun _ => .next ho.discard) fun _ => .ite (fun _ => .next ho) fun _ => .ite (fun _ =>
    .next ho.of_mem.refuseArrival) fun _ => .ite (fun _ => .next ho.of_mem.refuseArrival) fun _ => .ite (fun _ =>
    .next ho.of_mem.logArrival) fun _ => .next ho.of_mem.accept

@[simp] theorem execCopyDeliveryTimeout (ho : Orderly 0 a s) : Tidy a (execCopyDeliveryTimeout s) := .next ho.onLocal

@[simp] theorem execRoutingFlip (ho : Orderly 0 a s) : Tidy a (execRoutingFlip s) :=
  .ite (fun _ => .next ho.of_mem) fun _ => .next ho

@[simp] theorem execRoutingRetire (ho : Orderly 0 a s) : Tidy a (execRoutingRetire s) :=
  .ite (fun _ => .next ho.of_mem) fun _ => .next ho

@[simp] theorem execPortDown {port : Nat} (ho : Orderly 0 a s) : Tidy a (execPortDown port s) :=
  .ite (fun _ => .next ho.linkEvent.of_mem) fun _ => .next ho

@[simp] theorem execPortUp {port : Nat} (ho : Orderly 0 a s) : Tidy a (execPortUp port s) :=
  .ite (fun _ => .next ho.of_mem) fun _ => .next ho

@[simp] theorem execLinkCrcError {port : Nat} {vfs : List Nat} (ho : Orderly 0 a s) : Tidy a (execLinkCrcError port vfs s) :=
  .ite (fun _ => .next ho.linkEvent) fun _ => .next ho

@[simp] theorem execChipUnsynchronized (ho : Orderly 0 a s) : Tidy a (execChipUnsynchronized s) :=
  .next ((Orderly.foldl (fun _ _ h => h.mgmtEvent) _ (.foldl (fun _ _ h => h.unconfirmed (by decide)) _ ho.of_mem)).logHost)

@[simp] theorem execChipResynchronized (ho : Orderly 0 a s) : Tidy a (execChipResynchronized s) := by
  unfold Machine.execChipResynchronized
  split
  · exact .ite (fun _ => .next ho.of_mem) fun _ => .next ho
  · exact .next ho

@[simp] theorem execFunctionLevelReset {vf : Nat} (ho : Orderly 0 a s) : Tidy a (execFunctionLevelReset vf s) :=
  .next (.ite (fun _ => ho.resetVf) fun _ => ho)

/-! ## Matrix -/

@[simp] theorem execMzero {h : Hint} {d : Mreg} (ho : Orderly 0 a s) : Tidy a (execMzero h d s) :=
  .issueMatrix ho fun _ => .after (.accOf ho) <| .enqueueCommand ho

@[simp] theorem execMma {h : Hint} {t : Ty} {d : Mreg} {a' b : Vreg} (ho : Orderly 0 a s) : Tidy a (execMma h t d a' b s) :=
  .issueMatrix ho fun _ => .after (.accOf ho) <| .after (.mxView ho) <| .after (.mxView ho) <| .enqueueCommand ho

@[simp] theorem execMmat {h : Hint} {d : Mreg} {a' b : Vreg} (ho : Orderly 0 a s) : Tidy a (execMmat h d a' b s) :=
  .issueMatrix ho fun _ => .after (.accOf ho) <| .after (.mxView ho) <| .after (.mxView ho) <| .enqueueCommand ho

@[simp] theorem execMld {h : Hint} {t : Ty} {d : Mreg} {a' : Vreg} (ho : Orderly 0 a s) : Tidy a (execMld h t d a' s) :=
  .issueMatrix ho fun _ => .after (.accOf ho) <| .after (.mxView ho) <| .enqueueCommand ho

@[simp] theorem execMst {h : Hint} {t : Ty} {d : Vreg} {a' : Mreg} {b : Option Imm} (ho : Orderly 0 a s) :
    Tidy a (execMst h t d a' b s) :=
  .issueMatrix ho fun _ => .after (.accOf ho) <| .after (.mxView ho) <| .after (.need ho) <| .enqueueCommand ho

@[simp] theorem execMscale {h : Hint} {d a' : Mreg} {b : Vreg} (ho : Orderly 0 a s) : Tidy a (execMscale h d a' b s) :=
  .issueMatrix ho fun _ => .after (.accOf ho) <| .after (.accOf ho) <| .after (.mxView ho) <| .enqueueCommand ho

@[simp] theorem execMsig {h : Hint} {d : Reg} {a' b : RegImm} (ho : Orderly 0 a s) : Tidy a (execMsig h d a' b s) :=
  .issueMatrix ho fun _ => .after (.checkDest ho) <| .after (.need ho) <| .enqueueCommand ho

@[simp] theorem execMstat {h : Hint} {d : Reg} {a' : Imm} (ho : Orderly 0 a s) : Tidy a (execMstat h d a' s) :=
  .issueMatrix ho fun _ => .after (.need ho) <| .after (.waitWhile ho) <| .ok (.ite (fun _ => ho.setX.onCtx) fun _ => ho.setX)

@[simp] theorem execMatrixCommandStart (ho : Orderly 0 a s) : Tidy a (execMatrixCommandStart s) := by
  unfold Machine.execMatrixCommandStart
  refine .ite (fun _ => .next ho) fun _ => ?_
  split
  · exact .next ho.of_mem.stageOf.startOf.stageNext
  · exact .next ho.stageNext
  · exact .next ho

@[simp] theorem execMatrixCommandComplete {shadow : Shadow} (ho : Orderly 0 a s) : Tidy a (execMatrixCommandComplete shadow s) := by
  unfold Machine.execMatrixCommandComplete
  dsimp only
  split
  · exact .next ho
  · refine .ite (fun _ => ?_) fun _ => .next ho
    split
    · exact .next ho.finishCommand
    · exact .next ho.columnCount.finishCommand
    · exact .next ho.columnCount.engineFailed

/-! ## Assay -/

@[simp] theorem execRegisterWrite {pf : Bool} {vf off : Nat} {val : Word} (ho : Orderly 0 a s) :
    Tidy a (execRegisterWrite pf vf off val s) := .next (.ite (fun _ => ho.pfWrite) fun _ => .ite (fun _ => ho.vfWrite) fun _ => ho)

theorem Done.partCreate {c : Cmd} (ho : Orderly 0 a s) : Done a (partCreate s c) := by
  refine .bind fun _ => .bind fun _ => .bind fun _ => .bind fun _ => .bind fun _ => .ok ?_
  refine .foldl (fun _ _ h => h.zeroRange) _ (.foldl (fun _ _ h => h.clearSegment) _ (.foldl (fun _ _ h =>
    ?_) _ (Orderly.of_mem (s := s.draw 1) ho.draw)))
  exact (h.clearTile (by decide)).loadSteward

@[simp] theorem execPartCreate {buf : Mbox} {sig : List Byte} (ho : Orderly 0 a s) : Tidy a (execPartCreate buf sig s) :=
  .mailbox ho fun _ => .partCreate ho

theorem Done.partPause {c : Cmd} (ho : Orderly 0 a s) : Done a (partPause s c) :=
  .bind fun ⟨_, _⟩ => .bind fun _ => .bind fun _ => .ite (fun _ => .later (ho.startHalt fun h => absurd h (by decide))) fun _ =>
    .ok ho

@[simp] theorem execPartPause {buf : Mbox} (ho : Orderly 0 a s) : Tidy a (execPartPause buf s) := .mailbox ho fun _ => .partPause ho

theorem Done.partResume {c : Cmd} (ho : Orderly 0 a s) : Done a (partResume s c) :=
  .bind fun ⟨_, _⟩ => .bind fun _ => .bind fun _ => .ok (.ite (fun _ => ho.resumePart) fun _ => ho)

@[simp] theorem execPartResume {buf : Mbox} (ho : Orderly 0 a s) : Tidy a (execPartResume buf s) :=
  .mailbox ho fun _ => .partResume ho

theorem Done.partEvict {c : Cmd} (ho : Orderly 0 a s) : Done a (partEvict s c) :=
  .bind fun _ => .bind fun ⟨_, _⟩ => .bind fun _ => .bind fun _ => .bind fun _ => .later (.ite (fun _ => ho.startHalt fun h =>
    absurd h (by decide)) fun _ => ho.onPart fun h => absurd h (by decide))

@[simp] theorem execPartEvict {buf : Mbox} (ho : Orderly 0 a s) : Tidy a (execPartEvict buf s) := .mailbox ho fun _ => .partEvict ho

theorem Done.partRestore {blob : List Byte} {c : Cmd} (ho : Orderly 0 a s) : Done a (partRestore blob s c) := by
  refine .bind fun _ => .bind fun ⟨_, _⟩ => ?_
  dsimp only
  split
  · exact .bind fun _ => .bind fun _ => .bind fun _ => .ok ho.restorePart
  · trivial

@[simp] theorem execPartRestore {buf : Mbox} {blob : List Byte} (ho : Orderly 0 a s) : Tidy a (execPartRestore buf blob s) :=
  .mailbox ho fun _ => .partRestore ho

theorem Done.partDestroy {c : Cmd} (ho : Orderly 0 a s) : Done a (partDestroy s c) :=
  .bind fun ⟨_, _⟩ => .bind fun _ => .ok ho.destroyPart

@[simp] theorem execPartDestroy {buf : Mbox} (ho : Orderly 0 a s) : Tidy a (execPartDestroy buf s) :=
  .mailbox ho fun _ => .partDestroy ho

theorem Done.vfAssign {c : Cmd} (ho : Orderly 0 a s) : Done a (vfAssign s c) :=
  .bind fun ⟨_, _⟩ => .bind fun _ => .bind fun _ => .bind fun _ => .ok (Orderly.onPart (.foldl (fun _ _ h =>
    h.resetVf) _ ho) fun h => absurd h (by decide))

@[simp] theorem execVfAssign {buf : Mbox} (ho : Orderly 0 a s) : Tidy a (execVfAssign buf s) := .mailbox ho fun _ => .vfAssign ho

theorem Done.chanAssign {c : Cmd} (ho : Orderly 0 a s) : Done a (chanAssign s c) :=
  .bind fun ⟨_, _⟩ => .bind fun _ => .bind fun _ => .bind fun _ => .ok (ho.onPart fun h => absurd h (by decide))

@[simp] theorem execChanAssign {buf : Mbox} (ho : Orderly 0 a s) : Tidy a (execChanAssign buf s) :=
  .mailbox ho fun _ => .chanAssign ho

theorem Done.rateSet {c : Cmd} (ho : Orderly 0 a s) : Done a (rateSet s c) :=
  .bind fun _ => .bind fun ⟨_, _⟩ => .bind fun _ => .bind fun _ => .ok ho.of_mem

@[simp] theorem execRateSet {buf : Mbox} (ho : Orderly 0 a s) : Tidy a (execRateSet buf s) := .mailbox ho fun _ => .rateSet ho

theorem Done.mapStageTwo {pn vf gpa poff log2 : Nat} {p : Part} {map' : Bool} (ho : Orderly 0 a s) :
    Done a (mapStageTwo s pn p vf gpa poff log2 map') := by
  refine .bind fun _ => .bind fun _ => .bind fun _ => ?_
  split
  · trivial
  next he =>
    have h1 := (ho.changeTables he).answerPages (p := p) (vf := vf) (gpa := gpa) (log2 := log2) (reject := !map')
    have h2 := Orderly.ite (c := map' = true) (fun _ => h1) fun _ => h1.refuseWaiting (vf := vf) (f := pageIn gpa log2)
    exact .ite (fun _ => .ok h2) fun _ => .later h2.joinInval

theorem Done.mapFabric {pn vfw foff poff log2 : Nat} {p : Part} {map' : Bool} (ho : Orderly 0 a s) :
    Done a (mapFabric s pn p vfw foff poff log2 map') := .bind fun _ => .bind fun _ => .ok ho.onPart

theorem Done.mapS2 {c : Cmd} (ho : Orderly 0 a s) : Done a (mapS2 s c) :=
  .bind fun _ => .bind fun ⟨_, _⟩ => .bind fun _ => .bind fun _ => .ite (fun _ => .mapFabric ho) fun _ => .mapStageTwo ho

@[simp] theorem execMapS2 {buf : Mbox} (ho : Orderly 0 a s) : Tidy a (execMapS2 buf s) := .mailbox ho fun _ => .mapS2 ho

theorem Done.report {c : Cmd} (ho : Orderly 0 a s) : Done a (report s c) := .bind fun ⟨_, _⟩ => .ok ho.toHost

@[simp] theorem execReport {buf : Mbox} (ho : Orderly 0 a s) : Tidy a (execReport buf s) := .mailbox ho fun _ => .report ho

theorem Done.cert {c : Cmd} (ho : Orderly 0 a s) : Done a (cert s c) := .bind fun _ => .ok ho.toHost

@[simp] theorem execCert {buf : Mbox} (ho : Orderly 0 a s) : Tidy a (execCert buf s) := .mailbox ho fun _ => .cert ho

theorem Done.mgmtRead {c : Cmd} (ho : Orderly 0 a s) : Done a (mgmtRead s c) := by
  refine .bind fun _ => .bind fun _ => ?_
  split
  · exact .ok ho.draw
  · trivial

@[simp] theorem execMgmtRead {buf : Mbox} (ho : Orderly 0 a s) : Tidy a (execMgmtRead buf s) := .mailbox ho fun _ => .mgmtRead ho

theorem Done.mgmtWrite {f : State → MReg → Nat → State} {c : Cmd} (hf : ∀ {r v}, Orderly 0 a (f s r v)) :
    Done a (mgmtWrite f s c) := by
  refine .bind fun _ => .bind fun _ => ?_
  split
  · exact .ok hf
  · trivial

@[simp] theorem execMgmtWrite {buf : Mbox} (ho : Orderly 0 a s) : Tidy a (execMgmtWrite buf s) :=
  .mailbox ho fun _ => .mgmtWrite ho.mwrite

@[simp] theorem execEmarkWrite {buf : Mbox} (ho : Orderly 0 a s) : Tidy a (execEmarkWrite buf s) := by
  refine .mailbox ho fun _ => .mgmtWrite ?_
  intro r v
  split
  · exact .ite (fun _ => .ite (fun _ => ho) fun _ => ho.engineFailed) fun _ => ho.onCore (hd := fun h => absurd h (by decide))
  · exact ho

@[simp] theorem execHealthWrite {buf : Mbox} (ho : Orderly 0 a s) : Tidy a (execHealthWrite buf s) := by
  refine .mailbox ho fun _ => .mgmtWrite ?_
  intro r v
  split
  · exact ho.onTile fun h => absurd h (by decide)
  · exact ho

theorem Done.prqRead {c : Cmd} (ho : Orderly 0 a s) : Done a (prqRead s c) := .bind fun _ => .bind fun _ => .ok ho.toHost

@[simp] theorem execPrqRead {buf : Mbox} (ho : Orderly 0 a s) : Tidy a (execPrqRead buf s) := .mailbox ho fun _ => .prqRead ho

@[simp] theorem execCxlMemRead {vf off len : Nat} (ho : Orderly 0 a s) : Tidy a (execCxlMemRead vf off len s) := by
  unfold Machine.execCxlMemRead
  split
  · exact .next (Orderly.toHost ho.windowLines)
  · exact .next ho

@[simp] theorem execCxlMemWrite {vf off : Nat} {bytes : List Byte} (ho : Orderly 0 a s) :
    Tidy a (execCxlMemWrite vf off bytes s) := by
  unfold Machine.execCxlMemWrite
  split
  · exact .next (.ite (fun _ => ho.putPoff) fun _ => ho)
  · exact .next ho

@[simp] theorem execKeyExchange {x : Exchange} (ho : Orderly 0 a s) : Tidy a (execKeyExchange x s) :=
  .next ho.draw.toHost.setSession

@[simp] theorem execVendorDefinedRequest {session vf : Nat} {handle : Word} {v : VendorProof} (ho : Orderly 0 a s) :
    Tidy a (execVendorDefinedRequest session handle vf v s) := by
  unfold Machine.execVendorDefinedRequest
  split
  · exact .next (.ite (fun _ => ho.setSession) fun _ => ho)
  · exact .next ho

@[simp] theorem execIdeKeyProgramming {session vf : Nat} (ho : Orderly 0 a s) : Tidy a (execIdeKeyProgramming session vf s) := by
  unfold Machine.execIdeKeyProgramming
  split
  · exact .next (.ite (fun _ => ho.onVf) fun _ => ho)
  · exact .next ho

end Tidy

end Sys2Proof.Machine
end

section
/-!
PROOFS. The other instructions and events keep memory canonical; so does every step.
-/

namespace Sys2Proof.Machine

-- Many small proofs side by side would each hold a thread of their own: they are elaborated one after another.
set_option Elab.async false

namespace Tidy

variable {a s : State}

/-! ## Control -/

@[simp] theorem execNop {h : Hint} (ho : Orderly 0 a s) : Tidy a (execNop h s) := .issue ho fun _ => .ok ho

@[simp] theorem execBr {h : Hint} {b : Imm} (ho : Orderly 0 a s) : Tidy a (execBr h b s) := .issueJump ho fun _ => .ok ho.jump

@[simp] theorem execBri {h : Hint} {a' : Reg} (ho : Orderly 0 a s) : Tidy a (execBri h a' s) :=
  .issueJump ho fun _ => .after (.absolute ho) <| .ok ho.jump

@[simp] theorem execCall {h : Hint} {b : RegImm} (ho : Orderly 0 a s) : Tidy a (execCall h b s) := by
  unfold Machine.execCall
  refine .issueJump ho fun _ => ?_
  split
  · exact .ok ho.setX.jump
  · exact .after (.absolute ho) <| .ok ho.setX.jump

@[simp] theorem execRet {h : Hint} (ho : Orderly 0 a s) : Tidy a (execRet h s) :=
  .issueJump ho fun _ => .after (.absolute ho) <| .ok ho.jump

@[simp] theorem execLoop {h : Hint} {a' : Reg} {b : Imm} (ho : Orderly 0 a s) : Tidy a (execLoop h a' b s) :=
  .issueJump ho fun _ => .ok (.ite (fun _ => ho.setX.nextPc.clearResume) fun _ => ho.setX.jump)

@[simp] theorem execEndTask {h : Hint} (ho : Orderly 0 a s) : Tidy a (execEndTask h s) :=
  .issueEnd ho fun _ => (Sound.endTask ho).map fun _ h => h.lastHint

@[simp] theorem execEndc {h : Hint} {d : Imm} {a' : Reg} {b : RegImm} (ho : Orderly 0 a s) : Tidy a (execEndc h d a' b s) :=
  .issueEnd ho fun _ => .after (.need ho) <| (Sound.endTask ho).bind fun _ h1 => .ok h1.lastHint

theorem softTrap {h : Hint} {b : Imm} {code : Nat} (ho : Orderly 0 a s) : Tidy a (softTrap h b code s) :=
  .issueJump ho fun _ => .after (.need ho) <| .raise ho

@[simp] theorem execTrap {h : Hint} {b : Imm} (ho : Orderly 0 a s) : Tidy a (execTrap h b s) := .softTrap ho

@[simp] theorem execBrk {h : Hint} {b : Imm} (ho : Orderly 0 a s) : Tidy a (execBrk h b s) := .softTrap ho

@[simp] theorem execGets {h : Hint} {d : Reg} {a' : SReg} (ho : Orderly 0 a s) : Tidy a (execGets h d a' s) :=
  .issue ho fun _ => .optional (.detCheck ho) <| .ok ho.setX

@[simp] theorem execSets {h : Hint} {d : SReg} {a' : RegImm} (ho : Orderly 0 a s) : Tidy a (execSets h d a' s) :=
  .issue ho fun _ => .after (.need ho) <| .ok ho.onRegs

@[simp] theorem execTlbi {h : Hint} {d a' b : Reg} (ho : Orderly 0 a s) : Tidy a (execTlbi h d a' b s) :=
  .issue ho fun _ => .after (.privCheck ho) <| .after (.noSpec ho) <| .after (.need ho) <| .ok ho.onPart

@[simp] theorem execEret {h : Hint} {b : Imm} (ho : Orderly 0 a s) : Tidy a (execEret h b s) :=
  .issueJump ho fun _ => .ite (fun _ => .ok ho.returnFromTrap) fun _ => .error ho

@[simp] theorem execWdog {h : Hint} {b : RegImm} (ho : Orderly 0 a s) : Tidy a (execWdog h b s) :=
  .issue ho fun _ => .after (.need ho) <| .ite (fun _ => .raise ho) fun _ => .ok ho

@[simp] theorem execHalt {h : Hint} (ho : Orderly 0 a s) : Tidy a (execHalt h s) :=
  .issueEnd ho fun _ => .after (.privCheck ho) <| .after (.noSpec ho) <| .endTask ho

/-! ## Float -/

theorem floatArith {h : Hint} {t : Ty} {d a' b : Reg} {f : Mode → Num → Num → Num → Num × Flags} (ho : Orderly 0 a s) :
    Tidy a (floatArith h t d a' b f s) := .issue ho fun _ => .ok ho.putFloat

@[simp] theorem execFadd {h : Hint} {t : Ty} {d a' b : Reg} (ho : Orderly 0 a s) : Tidy a (execFadd h t d a' b s) := .floatArith ho

@[simp] theorem execFsub {h : Hint} {t : Ty} {d a' b : Reg} (ho : Orderly 0 a s) : Tidy a (execFsub h t d a' b s) := .floatArith ho

@[simp] theorem execFmul {h : Hint} {t : Ty} {d a' b : Reg} (ho : Orderly 0 a s) : Tidy a (execFmul h t d a' b s) := .floatArith ho

@[simp] theorem execFfma {h : Hint} {t : Ty} {d a' b : Reg} (ho : Orderly 0 a s) : Tidy a (execFfma h t d a' b s) := .floatArith ho

@[simp] theorem execFdiv {h : Hint} {t : Ty} {d a' b : Reg} (ho : Orderly 0 a s) : Tidy a (execFdiv h t d a' b s) := .floatArith ho

@[simp] theorem execFsqrt {h : Hint} {t : Ty} {d a' : Reg} (ho : Orderly 0 a s) : Tidy a (execFsqrt h t d a' s) := .floatArith ho

@[simp] theorem execFmin {h : Hint} {t : Ty} {d a' b : Reg} (ho : Orderly 0 a s) : Tidy a (execFmin h t d a' b s) :=
  .issue ho fun _ => .ok ho.putFloat

@[simp] theorem execFmax {h : Hint} {t : Ty} {d a' b : Reg} (ho : Orderly 0 a s) : Tidy a (execFmax h t d a' b s) :=
  .issue ho fun _ => .ok ho.putFloat

theorem floatCompare {h : Hint} {t : Ty} {d : Preg} {a' b : Reg} {c : Cond} (ho : Orderly 0 a s) :
    Tidy a (floatCompare h t d a' b c s) := .issue ho fun _ => .ok ho.putPred.setFlags

@[simp] theorem execFcmpeq {h : Hint} {t : Ty} {d : Preg} {a' b : Reg} (ho : Orderly 0 a s) : Tidy a (execFcmpeq h t d a' b s) :=
  .floatCompare ho

@[simp] theorem execFcmplt {h : Hint} {t : Ty} {d : Preg} {a' b : Reg} (ho : Orderly 0 a s) : Tidy a (execFcmplt h t d a' b s) :=
  .floatCompare ho

@[simp] theorem execFcmple {h : Hint} {t : Ty} {d : Preg} {a' b : Reg} (ho : Orderly 0 a s) : Tidy a (execFcmple h t d a' b s) :=
  .floatCompare ho

@[simp] theorem execFcmpun {h : Hint} {t : Ty} {d : Preg} {a' b : Reg} (ho : Orderly 0 a s) : Tidy a (execFcmpun h t d a' b s) :=
  .floatCompare ho

@[simp] theorem execFcvt {h : Hint} {t : Ty} {d a' : Reg} {b : Imm} (ho : Orderly 0 a s) : Tidy a (execFcvt h t d a' b s) := by
  unfold Machine.execFcvt
  refine .issue ho fun _ => ?_
  split
  · exact .raise ho
  · exact .after (.need ho) <| .ok ho.setX.setFlags

@[simp] theorem execFclass {h : Hint} {t : Ty} {d a' : Reg} (ho : Orderly 0 a s) : Tidy a (execFclass h t d a' s) :=
  .issue ho fun _ => .ok ho.setX

/-! ## Integer -/

theorem intArith {h : Hint} {t : Ty} {d a' : Reg} {b : RegImm} {f : Int → Int → Int → Int} (ho : Orderly 0 a s) :
    Tidy a (intArith h t d a' b f s) := .issue ho fun _ => .ok ho.putInt

theorem intBits {h : Hint} {t : Ty} {d a' : Reg} {b : RegImm} {f : Nat → Nat → Nat} (ho : Orderly 0 a s) :
    Tidy a (intBits h t d a' b f s) := .issue ho fun _ => .ok ho.putPattern

@[simp] theorem execAdd {h : Hint} {t : Ty} {d a' : Reg} {b : RegImm} (ho : Orderly 0 a s) : Tidy a (execAdd h t d a' b s) :=
  .intArith ho

@[simp] theorem execSub {h : Hint} {t : Ty} {d a' : Reg} {b : RegImm} (ho : Orderly 0 a s) : Tidy a (execSub h t d a' b s) :=
  .intArith ho

@[simp] theorem execMul {h : Hint} {t : Ty} {d a' : Reg} {b : RegImm} (ho : Orderly 0 a s) : Tidy a (execMul h t d a' b s) :=
  .intArith ho

@[simp] theorem execMulh {h : Hint} {t : Ty} {d a' : Reg} {b : RegImm} (ho : Orderly 0 a s) : Tidy a (execMulh h t d a' b s) :=
  .intArith ho

@[simp] theorem execDiv {h : Hint} {t : Ty} {d a' : Reg} {b : RegImm} (ho : Orderly 0 a s) : Tidy a (execDiv h t d a' b s) :=
  .intArith ho

@[simp] theorem execRem {h : Hint} {t : Ty} {d a' : Reg} {b : RegImm} (ho : Orderly 0 a s) : Tidy a (execRem h t d a' b s) :=
  .intArith ho

@[simp] theorem execAnd {h : Hint} {t : Ty} {d a' : Reg} {b : RegImm} (ho : Orderly 0 a s) : Tidy a (execAnd h t d a' b s) :=
  .intBits ho

@[simp] theorem execOr {h : Hint} {t : Ty} {d a' : Reg} {b : RegImm} (ho : Orderly 0 a s) : Tidy a (execOr h t d a' b s) :=
  .intBits ho

@[simp] theorem execXor {h : Hint} {t : Ty} {d a' : Reg} {b : RegImm} (ho : Orderly 0 a s) : Tidy a (execXor h t d a' b s) :=
  .intBits ho

@[simp] theorem execAndn {h : Hint} {t : Ty} {d a' : Reg} {b : RegImm} (ho : Orderly 0 a s) : Tidy a (execAndn h t d a' b s) :=
  .intBits ho

@[simp] theorem execShl {h : Hint} {t : Ty} {d a' : Reg} {b : RegImm} (ho : Orderly 0 a s) : Tidy a (execShl h t d a' b s) :=
  .intArith ho

@[simp] theorem execShr {h : Hint} {t : Ty} {d a' : Reg} {b : RegImm} (ho : Orderly 0 a s) : Tidy a (execShr h t d a' b s) :=
  .intBits ho

@[simp] theorem execSra {h : Hint} {t : Ty} {d a' : Reg} {b : RegImm} (ho : Orderly 0 a s) : Tidy a (execSra h t d a' b s) :=
  .intBits ho

@[simp] theorem execRot {h : Hint} {t : Ty} {d a' : Reg} {b : RegImm} (ho : Orderly 0 a s) : Tidy a (execRot h t d a' b s) :=
  .intBits ho

@[simp] theorem execMin {h : Hint} {t : Ty} {d a' : Reg} {b : RegImm} (ho : Orderly 0 a s) : Tidy a (execMin h t d a' b s) :=
  .intArith ho

@[simp] theorem execMax {h : Hint} {t : Ty} {d a' : Reg} {b : RegImm} (ho : Orderly 0 a s) : Tidy a (execMax h t d a' b s) :=
  .intArith ho

@[simp] theorem execMad {h : Hint} {t : Ty} {d a' : Reg} {b : RegImm} (ho : Orderly 0 a s) : Tidy a (execMad h t d a' b s) :=
  .intArith ho

@[simp] theorem execSel {h : Hint} {t : Ty} {d a' : Reg} {b : RegImm} (ho : Orderly 0 a s) : Tidy a (execSel h t d a' b s) :=
  .issueAlways ho fun _ => .ok ho.putInt

theorem intCompare {h : Hint} {t : Ty} {d : Preg} {a' : Reg} {b : RegImm} {signed : Bool} {f : Int → Int → Bool} (ho :
    Orderly 0 a s) :
    Tidy a (intCompare h t d a' b signed f s) := .issue ho fun _ => .ok ho.putPred

@[simp] theorem execCmpeq {h : Hint} {t : Ty} {d : Preg} {a' : Reg} {b : RegImm} (ho : Orderly 0 a s) :
    Tidy a (execCmpeq h t d a' b s) := .intCompare ho

@[simp] theorem execCmpne {h : Hint} {t : Ty} {d : Preg} {a' : Reg} {b : RegImm} (ho : Orderly 0 a s) :
    Tidy a (execCmpne h t d a' b s) := .intCompare ho

@[simp] theorem execCmplt {h : Hint} {t : Ty} {d : Preg} {a' : Reg} {b : RegImm} (ho : Orderly 0 a s) :
    Tidy a (execCmplt h t d a' b s) := .intCompare ho

@[simp] theorem execCmple {h : Hint} {t : Ty} {d : Preg} {a' : Reg} {b : RegImm} (ho : Orderly 0 a s) :
    Tidy a (execCmple h t d a' b s) := .intCompare ho

@[simp] theorem execCmpltu {h : Hint} {t : Ty} {d : Preg} {a' : Reg} {b : RegImm} (ho : Orderly 0 a s) :
    Tidy a (execCmpltu h t d a' b s) := .intCompare ho

@[simp] theorem execCmpleu {h : Hint} {t : Ty} {d : Preg} {a' : Reg} {b : RegImm} (ho : Orderly 0 a s) :
    Tidy a (execCmpleu h t d a' b s) := .intCompare ho

@[simp] theorem execLi {h : Hint} {d : Reg} {v : BitVec 48} (ho : Orderly 0 a s) : Tidy a (execLi h d v s) :=
  .issue ho fun _ => .ok ho.setX

theorem predOp {h : Hint} {d a' b : Preg} {f : Bool → Bool → Bool} (ho : Orderly 0 a s) : Tidy a (predOp h d a' b f s) :=
  .issue ho fun _ => .ok ho.putPred

@[simp] theorem execPand {h : Hint} {d a' b : Preg} (ho : Orderly 0 a s) : Tidy a (execPand h d a' b s) := .predOp ho

@[simp] theorem execPor {h : Hint} {d a' b : Preg} (ho : Orderly 0 a s) : Tidy a (execPor h d a' b s) := .predOp ho

@[simp] theorem execPxor {h : Hint} {d a' b : Preg} (ho : Orderly 0 a s) : Tidy a (execPxor h d a' b s) := .predOp ho

@[simp] theorem execPnot {h : Hint} {d a' : Preg} (ho : Orderly 0 a s) : Tidy a (execPnot h d a' s) := .predOp ho

/-! ## Keystone -/

@[simp] theorem execBarinit {h : Hint} {d a' : CapOp} {b : Reg} (ho : Orderly 0 a s) : Tidy a (execBarinit h d a' b s) := by
  unfold Machine.execBarinit
  refine .issue ho fun _ => ?_
  refine .after (.wholeCap ho) fun {_} => ?_
  refine .after (.wholeCap ho) fun {_} => ?_
  refine .after (.waitWhile ho) fun {_} => ?_
  refine .after (.noSpec ho) fun {_} => ?_
  refine .after (.need ho) fun {_} => ?_
  split
  · exact .capFault ho
  · exact .after (.need ho) <| .after (.waitWhile ho) <| .optional (.capFault ho) <| .optional (.capFault ho) <|
      .after (.need ho) <| (Sound.writeOut ho).bind fun _ h1 => .ok h1.setCt.remember.setC.setC.onLocal.remember

@[simp] theorem execBarrive {h : Hint} {d : CapOp} {a' : Option CapOp} {b : Reg} (ho : Orderly 0 a s) :
    Tidy a (execBarrive h d a' b s) := .issue ho fun _ => .arrive ho

@[simp] theorem execBarend {h : Hint} {d : CapOp} {a' : Option CapOp} {b : Reg} (ho : Orderly 0 a s) :
    Tidy a (execBarend h d a' b s) := .issue ho fun _ => .arrive ho

@[simp] theorem execClook {h : Hint} {d a' : CapOp} {b : RegImm} (ho : Orderly 0 a s) : Tidy a (execClook h d a' b s) := by
  unfold Machine.execClook
  refine .issue ho fun _ => ?_
  refine .after (.wholeCap ho) fun {_} => ?_
  refine .after (.wholeCap ho) fun {_} => ?_
  refine .optional (.raise ho) ?_
  refine .after (.waitWhile ho) fun {_} => ?_
  refine (Sound.barrierOf ho).bind fun _ _ => ?_
  refine .optional (.raise ho) ?_
  refine .after (.need ho) fun {_} => ?_
  refine .optional (.capFault ho) ?_
  refine .optional (.error ho) ?_
  split
  · exact .error ho
  · dsimp only
    split
    · exact .ok ho.setCt.setC.onCtx
    · exact .error ho

@[simp] theorem execSpecq {h : Hint} {d : Reg} (ho : Orderly 0 a s) : Tidy a (execSpecq h d s) := .issue ho fun _ => .ok ho.setX

/-! ## Rv64 -/

theorem Served.csrStep {op : RvCsr} {rd : Reg} {num : BitVec 12} {src : CsrSrc} {w : Word} (ho : Orderly 0 a s) :
    Served a (Orderly 0 a) (csrStep s op rd num src w) := by
  unfold Machine.csrStep
  dsimp only
  split
  · trivial
  · exact .ite (fun _ => trivial) fun _ => .ite (fun _ => trivial) fun _ => .ok ho.onStw

theorem Served.rvLoad {x n : Nat} (ho : Orderly 0 a s) : Served a (fun y => Orderly 0 a y.1) (rvLoad s x n) :=
  .ite (fun _ => .ok ho) fun _ => .ite (fun _ => .ok ho.draw) fun _ => trivial

theorem Served.rvStep {rv : Rv} {len : Nat} (ho : Orderly 0 a s) : Served a (Orderly 0 a) (rvStep s rv len) := by
  cases rv with
  | lui | auipc | opImm | shift | op | opW | unary => exact Orderly.onStw ho
  | load => exact (Served.rvLoad ho).bind fun ⟨_, _⟩ h1 => .ok (Orderly.onStw h1)
  | store => exact .ite (fun _ => .ok ho.onStw) fun _ => trivial
  | csr => exact .csrStep ho
  | ecall | ebreak | illegal => trivial
  | fence | fenceI | wfi | jal | jalr | branch => exact ho

@[simp] theorem execStewardRv64Instruction {len : Nat} {rv : Rv} (ho : Orderly 0 a s) :
    Tidy a (execStewardRv64Instruction len rv s) :=
  .stewardJump ho fun h => (Served.rvStep h).bind fun _ h1 => .ok h1.onStw

/-! ## SoftErr -/

@[simp] theorem execStrikeReport {zone : Zone} (ho : Orderly 0 a s) : Tidy a (execStrikeReport zone s) := by
  unfold Machine.execStrikeReport
  dsimp only
  split
  · refine .ite (fun _ => .next ho.count.logHost) fun _ => ?_
    refine .ite (fun _ => ?_) fun _ => .next ho.count.strikePlain
    split
    · exact .next ho.count.strikeMatrix
    · exact .next ho.count.strikeRollback
  · exact .next ho.count.logHost

@[simp] theorem execScrubVisit {line : Nat} (ho : Orderly 0 a s) : Tidy a (execScrubVisit line s) :=
  .next (.ite (fun _ => (Orderly.ite (fun _ => ho) fun _ => ho.eccFixed.memoryEvent).of_mem.memoryEvent) fun _ => .ite (fun _ =>
    ho) fun _ => ho.eccFixed.memoryEvent)

@[simp] theorem execHealthFlush (ho : Orderly 0 a s) : Tidy a (execHealthFlush s) := .next ho.flushHealth

@[simp] theorem execModuleReset {failed : List Nat} (ho : Orderly 0 a s) : Tidy a (execModuleReset failed s) :=
  .next ho.flushHealth.afterReset.selfTest

@[simp] theorem execPowerLoss {orderly : Bool} (ho : Orderly 0 a s) : Tidy a (execPowerLoss orderly s) :=
  .next (.ite (fun _ => ho.flushHealth.afterReset) fun _ => ho.afterReset)

/-! ## Every instruction, every event and every turn -/

/-- Each arm of `exec` is one of the functions that the lemmas above speak of. -/
theorem exec {i : Instr} (ho : Orderly 0 a s) : Tidy a (exec i s) := by
  cases i <;> simp [Machine.exec, ho]

/-- What a turn has ready comes from `a` by orderly changes. -/
def Poised (a : State) : Ready → Prop
  | .run _ u => Orderly 0 a u
  | .done o => Tidy a o

theorem Poised.go {r : Ready} (hr : Poised a r) : Tidy a r.go := by
  cases r with
  | run i u => exact .exec hr
  | done o => exact hr

theorem fetch {w : Who} (ho : Orderly 0 a s) : Poised a (s.fetch w) := by
  have h1 : Orderly 0 a s.ctxRemember := ho.ctxRemember
  unfold State.fetch
  dsimp only
  split
  · have hi {off : Nat} : Sound a _ (s.ctxRemember.imageCheck w off 12) := .imageCheck h1
    split
    next he => exact settle h1 (hi.of_eq he)
    next he =>
      have h2 : Orderly 0 a _ := hi.of_eq he
      split
      · exact h2
      · exact settle h2 (.raise h2)
  · exact settle h1 (.raise h1)

theorem coreReady (ho : Orderly 0 a s) : Poised a s.coreReady := by
  unfold State.coreReady
  split
  · exact ho.retryPark
  · exact ho.pump (by decide)
  · split
    · exact fetch ho.issues
    · exact ho

theorem stewardReady (ho : Orderly 0 a s) : Poised a s.stewardReady := by
  unfold State.stewardReady
  dsimp only
  split
  · exact ho.builtinTurn
  · split
    · exact ho
    · split
      · exact ho
      · exact Orderly.onStw ho

theorem step (ho : Orderly 0 a s) : Tidy a (step s) := by
  unfold Machine.step
  split
  · exact .next ho.pass.catchUp
  next t rest _ =>
    have h1 : Orderly 0 a (s.begin t rest) := ho.begin
    dsimp only
    split
    · exact (coreReady h1).go
    · exact (stewardReady h1).go
    · exact .exec h1
    · exact .next h1.upset
    · exact .next h1.accUpset

end Tidy

/-- Settles O9: every function that a step calls leaves memory canonical when it was, since all of them write it by `putBytes` or
not at all. -/
theorem stepsKeepMemoryCanonical : Obligations.StepsKeepMemoryCanonical := by
  intro s t hs ht
  have h : Tidy s (.next t) := ht ▸ Tidy.step (.refl s)
  exact Orderly.mem h hs

end Sys2Proof.Machine
end
